-- ==== Sys2Proof/Word.lean ====
section
/-!
DEFINITION. Sys2Proof/Word.lean: the word types of the block and the plainest names over them.
Registers are 32 bits wide (R7), bit 0 is the least significant bit (R3).
-/
namespace Sys2Proof

/-- One byte. -/
abbrev Byte := BitVec 8

/-- One 32-bit register value (R7). -/
abbrev Word := BitVec 32

/-- A 64-bit value, held in a NAME_LO / NAME_HI pair (R12). -/
abbrev Word64 := BitVec 64

/-- A function: 0 is the PF, p from 1 to 64 is VFp (R42, R290). -/
abbrev Fn := Fin 65

/-- A plot: 0 is the PF's housekeeping plot, p from 1 to 64 belongs to VFp (R42, R43). -/
abbrev PlotId := Fin 65

/-- An anneal tile, counted in ascending node order (Table 3-7). -/
abbrev TileId := Fin 64

/-- A matrix engine, counted in ascending node order (Table 3-7). -/
abbrev MxeId := Fin 16

/-- A helper core cluster, counted in ascending node order. -/
abbrev HccId := Fin 16

/-- A quantise/convert engine, counted in ascending node order. -/
abbrev QceId := Fin 4

/-- A flash lane, one per ONFI channel. -/
abbrev LaneId := Fin 8

/-- A mesh node, 0 to 119 (Table 4-2). -/
abbrev NodeId := Fin 120

end Sys2Proof
end

