-- ==== Sys2Proof/Syntax.lean ====
section
/-!
DEFINITION. Sys2Proof/Syntax.lean: the commands of the block, one constructor per row of spec/opcode_table.json, and the
operands they carry. An operand is what comes from outside the device: the bytes a fetch returns, a physical sample, what
a frame program asks for (its body is internal to Uliec, Table 2-3b). Everything else is computed from the state.
-/
namespace Sys2Proof

/-! ### Operands of host accesses (chapters 00 and 12) -/

/-- Fields of configuration space that a host writes and that have no row of their own (R42, R289, R290, R296, R297, R299,
R300). -/
inductive ConfigField where
  | memSpace (on : Bool)
  | vfMemSpace (on : Bool)
  | vfEnable
  | numVfs (n : BitVec 16)
  | ariHierarchy (on : Bool)
  | ptmEnable (on : Bool)
  | relaxedOrdering (on : Bool)
  /-- Further fields of a function's Device Control registers, as the base specification codes them (R289). -/
  | maxPayload (code : BitVec 3)
  | maxReadRequest (code : BitVec 3)
  | extendedTag (on : Bool)
  | tenBitTag (on : Bool)
  | timeoutValue (code : BitVec 4)
  /-- Registers of a function's AER capability: status registers are write-one-to-clear (R299). -/
  | aerUncorrStatus (v : Word)
  | aerCorrStatus (v : Word)
  | aerUncorrMask (v : Word)
  | aerCorrMask (v : Word)
  | aerSeverity (v : Word)
deriving DecidableEq, Repr

/-- What a host write without a row of its own carries. -/
inductive HostWrite where
  /-- A 4-byte write at a BAR0 offset; `same` names the bits that hardware sets in the FCLK cycle in which the write takes
  effect, by a command before or after it (R10). -/
  | reg (off : BitVec 24) (v : Word) (same : Word := 0)
  /-- An aligned 8-byte write to an MSI-X table or PBA (R295). -/
  | wide (off : BitVec 24) (v : Word64)
  /-- A write of a configuration field. -/
  | config (field : ConfigField)
deriving DecidableEq, Repr

/-- How a device read fails (R299; the KIND codes of HST_DMA_LAST, Table 12-14). -/
inductive ReadFail where
  | ur | ca | poisoned | timeout | ecrc
deriving DecidableEq, Repr

/-- What a device read of host memory returns. -/
inductive Fetched where
  | bytes (data : List Byte)
  | failed (kind : ReadFail)
deriving DecidableEq, Repr

/-- Who reads or writes host memory, for HOST_READ_ERROR and HOST_WRITE_LOSS (R51, R158, R167, R292, R347). -/
inductive DmaUser where
  | descriptor
  | image
  | jobInput (idx : BitVec 16)
  | jobOutput (idx : BitVec 16)
  | tapeSegment (tile : TileId)
  | tapeRecord (tile : TileId)
  | rng
  | bitstream
  | report
deriving DecidableEq, Repr

/-- Errors of Table 12-5 in what a function receives, other than a poisoned write and a failed device read: a request that is
not supported, and those that the table handles with it: an Unexpected Completion, an ECRC error on a received request, and
the errors of the link layer. -/
inductive LinkError where
  | unsupported
  | unexpectedCompletion
  | requestEcrc
  | receiver | badTlp | badDllp | replayTimeout | replayRollover
  | malformed | flowControl | dataLink
deriving DecidableEq, Repr

/-- How the host addresses the SMBus target (R302): the 7-bit address, and whether it clocks a PEC byte at the end of a read. -/
structure SmbXfer where
  addr : BitVec 7
  pec : Bool := false
deriving DecidableEq, Repr

/-! ### Operands of frames and jobs (chapters 01 and 02) -/

/-- What a frame program of a job did in the frame, as its body (internal to Uliec) has it: the writes to its output
buffer, offset and bytes (R345), whole frame-program completion, and writes of plot memory outside the engine calls that
have rows of their own. -/
structure FrameReport where
  plot : PlotId
  idx : BitVec 16
  /-- Its last cycle lies before the window opens (R29). -/
  finished : Bool
  out : List (Nat × List Byte)
deriving DecidableEq, Repr

/-- What COMMIT_WINDOW_OPEN meets: the frame programs' reports, the link counts of the frame (R354 of MSH: per node and
port all flits and scheduled flits), and the FCLK cycles the sequence takes, as TCLK edges until its end (R22, R39). -/
structure WindowReport where
  frames : List FrameReport := []
  links : List (Nat × Nat × Nat × Nat) := []
  commitTclk : Nat := 0
deriving DecidableEq, Repr

/-- How the epoch step of a cold boot goes (R312): cut short by a further reset, perhaps with its fuse already blown, or
run to its end with the read-back of each fuse tried. -/
inductive EpochRun where
  | interrupted (blown : Bool)
  | runs (readback : List Bool)
deriving DecidableEq, Repr

/-! ### Operands of the noise sources (chapter 06) -/

/-- A noise source with health tests: a tile's well or a deep-well channel (R152). -/
inductive NoiseSource where
  | well (t : TileId)
  | channel (c : Fin 4)
deriving DecidableEq, Repr
/-! ### Operands of matrix engines, helper cores and quantise/convert engines (chapters 08 and 09) -/

/-- Formats of an epilogue's second tensor (R204). -/
inductive EpiFormat where
  | s32 | s16 | a8 | x72
deriving DecidableEq, Repr

/-- The second tensor of an epilogue (R203, R204): added or multiplied. -/
structure Epilogue where
  mul : Bool
  format : EpiFormat
  addr : Nat
  /-- Placement exponent of an S32 or X72 tensor. -/
  place : Int := 0
  /-- Scale code of an S16 tensor. -/
  scale : BitVec 16 := 0
  /-- Parameter tensor and group size of an A8 tensor. -/
  params : Nat := 0
  group : Nat := 64
deriving DecidableEq, Repr

/-- Drain output formats (Table 8-3). -/
inductive OutFormat where
  | x72 | s32 | s16 | s8 | a8 | a16 | f32
deriving DecidableEq, Repr

/-- Where a drain writes: rows at an address (R219), or a step appended to a key or value cache (R229). -/
inductive OutPlace where
  | rows (addr : Nat)
  | keyCache (tensor : Nat) (step : Nat)
  | valueCache (tensor : Nat) (step : Nat)
deriving DecidableEq, Repr

/-- A search operator on a matrix engine (Table 8-4). PQ_TABLE (R242): the index, the TENSOR_ID and row of the query vector, the
TENSOR_ID of the centroids, a negated inner product or a squared distance, the query's shift, and the table's address. RERANK
(R252): the address of a result, the BACKING entry and ROW_BYTES of the raw rows, the TENSOR_ID that gives their format and
parameters, the query vector, the kind of distance, K2, and the address of the new result. -/
inductive SearchOp where
  | pqTable (index query row cents : Nat) (inner : Bool) (shift : Int) (out : Nat)
  | rerank (result backing rowBytes rows query row : Nat) (inner : Bool) (k2 out : Nat)
deriving DecidableEq, Repr

/-- An operation of a matrix engine as the frame program gives it (R193 to R206). -/
structure MxeOp where
  /-- TENSOR_IDs of the weight-port and activation-port operands (R220), and whether each lies in local SRAM (R194). -/
  weight : Nat
  act : Nat
  wLocal : Bool := false
  aLocal : Bool := false
  m : Nat
  n : Nat
  /-- Weight blocks of the reduction this engine does: first and count (R205). -/
  kb0 : Nat := 0
  kbn : Nat
  pl : Int
  format : OutFormat
  out : OutPlace
  scale : Option (BitVec 16) := none
  zo : Nat := 0
  clamp : Bool := false
  epi : Option Epilogue := none
  /-- The engine that drains this part's tiles, and the partial tiles each tile of this operation receives (R205). -/
  sendTo : Option MxeId := none
  parts : Nat := 0
  /-- The frame program ends with the last tile still open (R201); this call resumes a carried tile. -/
  openEnd : Bool := false
  resume : Bool := false
  /-- A search operator in place of a matrix product (R242, R252). -/
  search : Option SearchOp := none
deriving DecidableEq, Repr

/-- A helper call that is ready: its job, its operator and the operator's version (R207), when it became ready (R208), and the
ranges of plot memory, address and length, that it reads and writes. -/
structure HelperCall where
  plot : PlotId
  idx : BitVec 16
  op : BitVec 16
  ver : BitVec 16
  readyAt : Nat
  reads : List (Nat × Nat)
  writes : List (Nat × Nat)
deriving DecidableEq, Repr

/-- How a helper call ends: with the results of its operator; as a LAYOUT call, which copies bytes exactly (Table 8-4: source,
destination, length); as an INGEST_DECODE call of an ingest entry (R329); as a SIDE_MERGE call (R257: the index, the
partition, the number of its first new sector, where its old sectors stand in plot memory and how many they are, and where the new
ones go); in a trap (R210); or in an uncorrectable error of the
cluster's local SRAM, at an offset in it (R210). -/
inductive HelperEnd where
  | done
  | layout (moves : List (Nat × Nat × Nat))
  | ingestDecode (entry : Nat)
  | sideMerge (index : Fin 16) (part first old n out : Nat)
  | trap
  | sramError (offset : Fin 524288)
deriving DecidableEq, Repr

/-- Source of a conversion (chapter 09, the quantise/convert engines). -/
inductive QceSource where
  | s16 (addr : Nat) (scale : BitVec 16)
  | s32 (addr : Nat) (scale : BitVec 16)
  | x72 (addr : Nat) (place : Int)
  | f32 (addr : Nat)
  /-- An A8 or A16 tensor with its parameter tensor, by TENSOR_ID. -/
  | act (tensor : Nat)
deriving DecidableEq, Repr

/-- A quantise/convert call that is ready (R221). -/
structure QceCall where
  plot : PlotId
  idx : BitVec 16
  dest : Nat
  source : QceSource
  readyAt : Nat
deriving DecidableEq, Repr
/-! ### Operands of the mesh (chapter 04) -/

/-- A step of the credit reservation of an unscheduled all-or-nothing multicast (R106). -/
inductive CreditStep where
  /-- The source asks its targets for credit for a multicast of a number of flits. -/
  | ask (flits : Nat)
  /-- A target grants. -/
  | grant (target : NodeId)
  /-- The multicast has landed at its targets. -/
  | landed
deriving DecidableEq, Repr

/-! ### Operands of the flash lanes (chapter 10) -/

/-- A codeword as the lane meets it (R235): its corrected data and the bit errors it had (above 100 it is uncorrectable),
or wholly erased. -/
inductive Codeword where
  | data (bytes : List Byte) (errors : Nat)
  | erased
deriving DecidableEq, Repr

/-- How an array read ends (R246, R259): codewords in page order, a FAIL status, or a ready/busy error. -/
inductive PageRead where
  | page (cws : List Codeword)
  | fail
  | readyBusy
deriving DecidableEq, Repr

/-! ### Operands of the power manager (chapter 11) -/

/-- Activity events that nodes report (R265): multiply-accumulates, flip-slot proposals, column reads, array accesses, flits (of the
NORMAL virtual channel in unscheduled cycles, or others), codewords and helper cycles. -/
inductive PowerKind where
  | macs | proposals | columns | accesses | flits (normal : Bool) | codewords | helper
deriving DecidableEq, Repr

/-- Events of one kind that a node counted in a sample, for a plot and a job of it, or for none (Table 11-5). -/
structure Activity where
  node : NodeId
  kind : PowerKind
  count : Nat
  plot : PlotId
  job : Option (BitVec 16) := none
deriving DecidableEq, Repr

/-- What the nodes report of one sample of 256 FCLK cycles (R265, R283): its length in ps, their activity events, and the compute
bubble units imposed on plots. -/
structure PowerSample where
  dt : Nat
  acts : List Activity := []
  bubbles : List (PlotId × Nat) := []
deriving DecidableEq, Repr

/-- The commands (spec/opcode_table.json, one constructor per row, in the table's order). -/
inductive Instr where
  | registerWrite (f : Fn) (w : HostWrite)
  | accessDiscard (f : Fn) (write : Bool) (off : BitVec 24) (len : Fin 9) (enables : BitVec 8)
  | poisonedWrite (f : Fn) (off : BitVec 24)
  | loReadLatch (f : Fn) (off : BitVec 24) (len : Fin 5)
  | loWriteHold (f : Fn) (off : BitVec 24) (v : Word)
  | hiWriteApply (f : Fn) (off : BitVec 24) (v : Word)
  | tick
  | commitWindowOpen (r : WindowReport)
  | budgetOverrun (q : PlotId) (idx : BitVec 16) (claim : Nat)
  | abandonmentComplete (q : PlotId) (idx : BitVec 16)
  | ppsEdge (wait : Nat) (rising : Bool)
  | ppsEdgeMissing
  | plantWindowClose
  | plantAcqTimeout
  | tickHoldoffTimeout (unprepared : List PlotId)
  | frmCtlWrite (v : Word)
  | sqTailWrite (f : Fn) (q : PlotId) (v : Word)
  | cqHeadWrite (f : Fn) (q : PlotId) (v : Word)
  | descriptorFetch (q : PlotId) (r : Fetched)
  | imageFetch (q : PlotId) (r : Fetched) (ops : List (Nat × Nat))
  | plotEnableWrite (q : PlotId) (en : Bool) (pfFaultEn : Bool)
  | plotReset (f : Fn) (q : PlotId)
  | cancelAll (f : Fn) (q : PlotId)
  | stopEnd (q : PlotId)
  | clearingEnd (q : PlotId)
  | irqMaskWrite (f : Fn) (q : PlotId) (v : Word)
  | busMasterEnableWrite (f : Fn) (on : Bool)
  | vfEnableClear
  | vfFlr (p : PlotId)
  | pfFlr
  | hostWriteLoss (q : PlotId) (user : DmaUser)
  | hostReadError (q : PlotId) (user : DmaUser) (kind : ReadFail)
  | unsupportedRequest (f : Fn) (e : LinkError)
  | cfgLoad (abort : Bool) (arm : Bool)
  | cfgAbort (arm : Bool)
  | cfgArm (arm : Bool)
  | loadFetchComplete (r : Fetched)
  | loadVerifyComplete
  | stagingComplete
  | bundleWaitExpire
  | revert (f : Fn) (q : PlotId)
  | fuseProgram (key : Byte) (slot : Fin 4)
  | fuseRevoke (key : Byte) (slot : Fin 4)
  | fuseLock (key : Byte)
  | fuseOpComplete
  | retriedMulticastLaunch (q : PlotId) (idx : BitVec 16) (entry : Nat) (flits : Nat)
  | multicastAckNack (src : NodeId) (q : PlotId) (entry : Nat) (target : NodeId) (ack : Bool)
  | multicastReady (src : NodeId) (q : PlotId) (entry : Nat) (target : NodeId)
  | multicastTimeout (src : NodeId) (q : PlotId) (entry : Nat)
  | creditReservation (q : PlotId) (idx : BitVec 16) (entry : Nat) (step : CreditStep)
  | mergedRead (q : PlotId) (addr : BitVec 36) (readers : List (BitVec 16 × NodeId)) (single : Nat)
      (uncorrectable : Option (Fin 8))
  | homePageFirstWrite (q : PlotId) (idx : BitVec 16) (node : NodeId) (addr : BitVec 36) (data : List Byte)
  | writeCopyComplete (q : PlotId) (idx : BitVec 16) (page : Nat)
  | backedPageMiss (q : PlotId) (idx : BitVec 16) (node : NodeId) (addr : BitVec 36)
  | pageInRequest (q : PlotId) (idx : BitVec 16) (node : NodeId) (addr : BitVec 36)
  | pageInComplete (q : PlotId) (page : Nat)
  | patrolScrub (addr : Word) (single : Bool) (uncorrectable : Bool) (pass : Bool)
  | linkCrcFail (router : NodeId) (owner : Option (PlotId × BitVec 16)) (failures : Nat)
  | pcacheWrite (q : PlotId) (v : Word)
  | frameZeroingDone (q : PlotId)
  | annealInitialPass (q : PlotId) (idx : BitVec 16)
  | annealRunStart (q : PlotId) (idx : BitVec 16) (sweeps : Nat) (bearing : Option Nat)
  | flipSlot (q : PlotId) (idx : BitVec 16)
  | sweepComplete (q : PlotId) (idx : BitVec 16)
  | energyAudit (q : PlotId) (idx : BitVec 16) (hardwareError : Option Nat)
  | stallWindowEnd (q : PlotId) (idx : BitVec 16)
  | bearingPeriodEnd (q : PlotId) (idx : BitVec 16)
  | annealRunEnd (q : PlotId) (idx : BitVec 16)
  | wellHealthFail (source : NoiseSource) (apt : Bool)
  | startupTestPass (source : NoiseSource)
  | wellRetry (f : Fn) (t : TileId)
  | deepWellRetry (f : Fn) (channel : Fin 4)
  | deepWellDrawStart (t : TileId)
  | deepWellBlock
  | rngRequest (f : Fn) (q : PlotId) (blocks : BitVec 15)
  | rngWindowExpire (q : PlotId)
  | tapeDoorbell (f : Fn) (q : PlotId) (tile : Fin 64) (index : BitVec 16)
  | tapeSegmentArrival (q : PlotId) (tile : Fin 64) (r : Fetched)
  | tapeRecordWrite (q : PlotId) (tile : Fin 64)
  | graftFullPass (q : PlotId) (idx : BitVec 16)
  | graftSelect (q : PlotId) (idx : BitVec 16) (cluster : HccId)
  | graftStage (q : PlotId) (idx : BitVec 16)
  | graftPass (q : PlotId) (idx : BitVec 16)
  | graftHarvest (q : PlotId) (idx : BitVec 16)
  | graftFullAudit (q : PlotId) (idx : BitVec 16)
  | mxeOperationStart (q : PlotId) (idx : BitVec 16) (engine : MxeId) (op : MxeOp)
  | bankSwap (engine : MxeId) (stall : Nat)
  | partialTileReceive (engine : MxeId)
  | helperCallStart (cluster : HccId) (ready : List HelperCall)
  | helperCallEnd (cluster : HccId) (e : HelperEnd)
  | qceCallStart (engine : QceId) (ready : List QceCall)
  | qcePass1 (engine : QceId)
  | qcePass2 (engine : QceId)
  | laneInitDone (lane : LaneId)
  | queryStart (q : PlotId) (idx : BitVec 16) (addr : BitVec 36)
  | queryPartStart (q : PlotId) (idx : BitVec 16) (query : Nat) (lane : LaneId)
  | flashPageReady (lane : LaneId) (ce : Fin 4) (lun : Fin 8) (block : Nat) (page : Nat) (r : PageRead)
  | laneClaimPark (q : PlotId) (idx : BitVec 16) (lane : LaneId)
  | queryDeadlineReached (q : PlotId) (idx : BitVec 16) (query : Nat) (lane : LaneId)
  | queryResultMerge (q : PlotId) (idx : BitVec 16) (query : Nat)
  | sideAppend (q : PlotId) (idx : BitVec 16) (index : Fin 16) (addr : BitVec 36) (count : Nat)
  | genWrite (q : PlotId) (idx : BitVec 16) (index : Fin 16) (sector : Nat) (addr : BitVec 36) (count : Nat) (flush : Bool)
  | genMerge (q : PlotId) (idx : BitVec 16) (index : Fin 16) (sector : Nat) (addr : BitVec 36) (count : Nat) (flush : Bool)
  | lunReadyTimeout (lane : LaneId) (ce : Fin 4) (lun : Fin 8) (block : Nat) (page : Nat)
  | programEraseComplete (lane : LaneId) (ce : Fin 4) (lun : Fin 8) (fail : Bool)
  | programEraseTimeout (lane : LaneId) (ce : Fin 4) (lun : Fin 8)
  | lunClr (lane : LaneId) (ce : Fin 4) (lun : Fin 8)
  | powerSample (x : PowerSample)
  | currentLimiterEval (rail : Fin 3) (window : Fin 3)
  | capLimiterEval
  | calibrationRead (rail : Fin 5) (reading : Option Nat)
  | calibrationLost (rail : Fin 5)
  | voltageBandEval
  | ageingTrimStep (pass8 : Bool) (fail4 : Bool)
  | boostCheck
  | fixedFreqWrite (f : Fn) (v : Word)
  | droopCrossing (depth : Nat)
  | droopPersist
  | vrAlert
  | lowestStateExit
  | thermalSample (temps : Vector Int 48)
  | thermalLimitUpdate
  | thermalTrip (sensor : Fin 48)
  | pmbusTransaction (answer : Option Nat)
  | pwrOkRise (e : EpochRun)
  | memoryInitDone
  | ready
  | tagKeyTimeout
  | pwrOkFall
  | perstAssert (e : EpochRun)
  | perstDeassert
  | hotReset (e : EpochRun)
  | linkDown (e : EpochRun)
  | pfD3hotEnter
  | pfD0Return
  | vfD3hotEnter (p : PlotId)
  | msixEnableWrite (f : Fn) (en : Bool) (mask : Bool)
  | msixVectorUnmask (f : Fn) (vec : Fin 32)
  | ptmGo (v : Word)
  | ptmAutoTimer
  | ptmResponse (wait : Nat) (master : Word64) (prop : Word)
  | ptmNoResponse
  | smbStatus (x : SmbXfer)
  | smbTemp (x : SmbXfer)
  | smbPower (x : SmbXfer)
  | smbCap (x : SmbXfer)
  | smbTrip (x : SmbXfer)
  | smbIdent (x : SmbXfer)
  | smbResetCause (x : SmbXfer)
  | smbRegAddr (x : SmbXfer) (write : Option (Word × Option Byte))
  | smbRegData (x : SmbXfer)
  | jtagExtest
  | jtagIdcode (e : EpochRun)
  | jtagSamplePreload (e : EpochRun)
  | jtagClamp
  | jtagHighz
  | jtagBypass (opcode : Byte) (e : EpochRun)
  | jtagResetExit (e : EpochRun) (next : Option Byte)
  | skoetFrameReceive (cage : Fin 2) (pcs : Bool) (frame : List Byte)
  | messageCheckComplete
  | sktKeyLoad (f : Fn)
  | sktKeyClear (f : Fn)
  | portModeWrite (f : Fn) (cage : Fin 2) (v : Word)
  | portLossOfLock (cage : Fin 2) (los : Bool) (modAbs : Bool)
  | attRequest (f : Fn) (q : PlotId)
  | attReportDone (q : PlotId) (request : Fetched) (written : Bool)
  | logAckWrite (v : Word64)
  | logLineLatch (f : Fn)
  | vddAuxPowerOn (strap : Fin 4)
  | vddAuxLoss
  | linkUp (speed : Fin 6) (width : Fin 17)
  | vfD0Return (p : PlotId)
  | vrAlertDeasserted
  | droopRecovery (stretched : Nat)
  | portLock (cage : Fin 2) (modAbs : Bool)
  | lunInitTimeout (lane : LaneId) (ce : Fin 4) (lun : Fin 8)
  | lunClrDone (lane : LaneId) (ce : Fin 4) (lun : Fin 8)
  | voltageSettleEnd
  | conditionerOutput (t : TileId) (bits : BitVec 128)
  | deepWellOutput (channel : Fin 4) (bits : BitVec 256)
deriving DecidableEq, Repr

end Sys2Proof
end

