-- ==== Sys2Proof/Config.lean ====
section
/-!
DEFINITION. Sys2Proof/Config.lean: what the spec names without giving a way to compute it (standard cryptography), and the
free values of what it leaves open. Each is opaque: nothing can be proved of its value.
-/
namespace Sys2Proof

/-- A free 64-bit value, applied to the state's counter: what the spec leaves undefined. -/
opaque Config.freeWord : Nat → BitVec 64

/-- A free 384-bit value: the hash fuses an interrupted PROGRAM operation leaves (R78). -/
opaque Config.freeHash : Nat → BitVec 384

/-- SHA-384 of a byte string, as FIPS 180-4 defines it (R76); byte k of the digest in bits 8k + 7 to 8k. -/
opaque Config.sha384 : List Byte → BitVec 384

/-- ECDSA P-384 with SHA-384: does the signature (r, s) verify the message under the public key (Table 3-9)? -/
opaque Config.ecdsaVerify : (pubkey r s message : List Byte) → Bool

/-- ECDSA P-384 signature of a message under the device identity key, as r then s, 96 bytes (R348); the counter stands for
the signer's own randomness. -/
opaque Config.ecdsaSign : (message : List Byte) → Nat → List Byte

/-- x-coordinate of the ECDH shared point between the device identity key and a public key, 48 bytes (R348). -/
opaque Config.ecdh : (pubkey : List Byte) → List Byte

/-- AES key wrap (SP 800-38F KW) of a 32-byte key under a 32-byte key, 40 bytes (R348). -/
opaque Config.keyWrap : (kek key : List Byte) → List Byte

/-- HMAC-SHA-256 of a message under a key, 32 bytes (R342, chapter 13). -/
opaque Config.hmacSha256 : (key message : List Byte) → List Byte

/-- AES-256-GCM with empty plaintext: the 16-byte tag over key, 12-byte IV and additional data (R344). -/
opaque Config.gmac : (key iv aad : List Byte) → List Byte

/-- Which of a number of frames that may be taken Compass takes (R112: chosen by Compass and not otherwise defined), at a
TCLK edge, for a page of a memory. -/
opaque Config.frameChoice : (tclk memory page : Nat) → Nat

/-- What an operator of the committed microcode computes (R207, R209): byte `place` of its output range number `range`, a function
of OP_ID, OP_VER and the bytes it reads alone. The microcode is not documented. -/
opaque Config.operator : (op ver : Nat) → (inputs : List (List Byte)) → (range place : Nat) → Byte

/-- The leakage current of a node on a rail in µA (R265): a function of the fused leakage coefficient, the rail voltage in steps of
2.5 mV and the readings of the sensors near the node; the spec gives no formula and no sensor positions. -/
opaque Config.leakage : (rail node coefficient steps : Nat) → (readings : List (Nat × Int)) → Nat

/-- The node nearest to each thermal sensor (PWR_SENS.NODE); the spec gives no positions. -/
opaque Config.sensorNode : Nat → BitVec 7

/-- A parity byte of a flash codeword of 4,096 bytes (R235): the code corrects 100 bit errors and is not given otherwise. -/
opaque Config.parity : (codeword : List Byte) → (place : Nat) → Byte

end Sys2Proof
end

