-- ==== Sys2Proof/Machine/Numbers.lean ====
section
/-!
DEFINITION. Sys2Proof/Machine/Numbers.lean: saturating and modulo counters, the device's rounding (R6), byte order
(R4), two's complement (R5), CRC-32C (R71) and small list operations that every block uses.
-/
namespace Sys2Proof.Machine

/-- A counter of `w` bits that saturates at all ones (R41, R339, R340). -/
def satAdd {w : Nat} (x : BitVec w) (n : Nat) : BitVec w := BitVec.ofNat w (min (x.toNat + n) (2 ^ w - 1))

/-- One saturating increment. -/
def satInc {w : Nat} (x : BitVec w) : BitVec w := satAdd x 1

/-- Division of an integer by a positive natural, rounded to nearest, ties away from zero (R6). -/
def roundDiv (n : Int) (d : Nat) : Int :=
  if 0 ≤ n then (2 * n + d) / (2 * d) else -((2 * (-n) + d) / (2 * d))

/-- `n * 2^e` for an exponent of either sign, rounded to nearest with ties away from zero (R6). -/
def roundShift (n : Int) (e : Int) : Int :=
  if 0 ≤ e then n * 2 ^ e.toNat else roundDiv n (2 ^ (-e).toNat)

/-- Ceiling of a quotient of naturals. -/
def ceilDiv (n d : Nat) : Nat := (n + d - 1) / d

/-- The signed value of the low `w` bits of `n` (R5). -/
def signed (w n : Nat) : Int :=
  let m := n % 2 ^ w
  if 2 * m < 2 ^ w then (m : Int) else (m : Int) - 2 ^ w

/-- The two's complement code of an integer in `w` bits (R5). -/
def unsigned (w : Nat) (z : Int) : Nat := (z % (2 ^ w : Nat)).toNat

/-- Does the integer lie in the `w`-bit two's complement range? -/
def fits (w : Nat) (z : Int) : Bool := -(2 ^ (w - 1) : Nat) ≤ z ∧ z < (2 ^ (w - 1) : Nat)

/-- An integer clamped to a closed range. -/
def clampInt (lo hi z : Int) : Int := if z < lo then lo else if hi < z then hi else z

/-- Bit `i` of a natural. -/
def bitOf (n i : Nat) : Bool := n.testBit i

/-- The field [hi:lo] of a natural (R3). -/
def fieldOf (n hi lo : Nat) : Nat := n / 2 ^ lo % 2 ^ (hi + 1 - lo)

/-- A Boolean as 0 or 1. -/
def b2n (b : Bool) : Nat := if b then 1 else 0

/-- Little-endian value of a list of bytes (R4). -/
def leNat : List Byte → Nat
  | [] => 0
  | b :: bs => b.toNat + 256 * leNat bs

/-- Big-endian value of a list of bytes. -/
def beNat (bs : List Byte) : Nat := bs.foldl (fun a b => a * 256 + b.toNat) 0

/-- The `n` bytes of a value, little-endian (R4). -/
def leBytes : Nat → Nat → List Byte
  | 0, _ => []
  | n + 1, v => BitVec.ofNat 8 v :: leBytes n (v / 256)

/-- The `n` bytes of a value, most significant first. -/
def beBytes (n v : Nat) : List Byte := (leBytes n v).reverse

/-- Bytes `at_` to `at_ + n - 1` of a byte string; bytes past its end read 0. -/
def slice (bs : List Byte) (at_ n : Nat) : List Byte :=
  let t := (bs.drop at_).take n
  t ++ List.replicate (n - t.length) 0

/-- The little-endian field of `n` bytes at an offset of a byte string (R4). -/
def leAt (bs : List Byte) (at_ n : Nat) : Nat := leNat ((bs.drop at_).take n)

/-- Are bytes `at_` to `at_ + n - 1` all zero? -/
def zeroAt (bs : List Byte) (at_ n : Nat) : Bool := ((bs.drop at_).take n).all (· == 0)

/-- One bit step of the reflected CRC-32C register (R71: polynomial 0x1EDC_6F41, reflected 0x82F6_3B78). -/
def crcBit (c : Word) : Word := if c.getLsbD 0 then (c >>> 1) ^^^ 0x82F63B78 else c >>> 1

/-- One byte step of CRC-32C. -/
def crcByte (c : Word) (b : Byte) : Word :=
  crcBit (crcBit (crcBit (crcBit (crcBit (crcBit (crcBit (crcBit (c ^^^ b.setWidth 32))))))))

/-- CRC-32C of a byte string: initial value and final XOR all ones (R71). -/
def crc32c (bs : List Byte) : Word := (bs.foldl crcByte 0xFFFFFFFF) ^^^ 0xFFFFFFFF

/-- Is the stored little-endian CRC at byte `crcAt` that of the `len` bytes at `start`? -/
def crcOk (bs : List Byte) (start len crcAt : Nat) : Bool :=
  leAt bs crcAt 4 == (crc32c ((bs.drop start).take len)).toNat

/-- Sum of a list of naturals. -/
def sumNat (l : List Nat) : Nat := l.foldl (· + ·) 0

/-- Sum of a list of integers. -/
def sumInt (l : List Int) : Int := l.foldl (· + ·) 0

/-- No value occurs twice. -/
def noDup {α : Type} [BEq α] : List α → Bool
  | [] => true
  | a :: l => !l.contains a && noDup l

/-- The first index at which a test holds. -/
def firstIdx {α : Type} (p : α → Bool) (l : List α) : Option Nat := l.findIdx? p

/-- The value of an association list at a key, or a default. -/
def assocD {α β : Type} [BEq α] (l : List (α × β)) (k : α) (d : β) : β := (l.lookup k).getD d

/-- Set a key of an association list, the newest entry in front, no older entry of that key kept. -/
def assocSet {α β : Type} [BEq α] (l : List (α × β)) (k : α) (v : β) : List (α × β) :=
  (k, v) :: l.filter (fun e => !(e.1 == k))

/-- Drop a key of an association list. -/
def assocDel {α β : Type} [BEq α] (l : List (α × β)) (k : α) : List (α × β) := l.filter (fun e => !(e.1 == k))

/-- All plots in the order of R22: plot 0, then 1 to 64 ascending. -/
def allPlots : List PlotId := List.finRange 65

/-- Plots 1 to 64. -/
def tenantPlots : List PlotId := (List.finRange 65).drop 1

/-- Set bit `i` of a bit vector to `b`. -/
def setBit {w : Nat} (x : BitVec w) (i : Nat) (b : Bool) : BitVec w :=
  if b then x ||| BitVec.ofNat w (2 ^ i) else x &&& ~~~(BitVec.ofNat w (2 ^ i))

/-- Write-one-to-clear (R9, RW1C). -/
def rw1c {w : Nat} (x v : BitVec w) : BitVec w := x &&& ~~~v

end Sys2Proof.Machine
end

