-- ==== Sys2Proof/Machine/Records.lean ====
section
/-!
DEFINITION. Sys2Proof/Machine/Records.lean: the data records that State is built from: jobs and descriptors (chapter 02),
bit-stream content and bundles (03), pages and multicasts (04), log lines (14) and what leaves the device.
-/
namespace Sys2Proof.Machine

/-! ### What leaves the device -/

/-- One thing the device sends out; the model's own record of it, oldest last. -/
inductive OutEvent where
  /-- A posted write of a function (R291), with its Relaxed Ordering bit (R297), in packets of at most `payload` bytes (R289). -/
  | write (fn : Fn) (addr : Nat) (data : List Byte) (relaxed : Bool) (payload : Nat)
  /-- An MSI-X message of a function (R298). -/
  | msix (fn : Fn) (addr : Nat) (data : Word)
  /-- A read of host memory by a function (R291), in requests of at most `size` bytes with tags of a number of bits (R289). -/
  | readReq (fn : Fn) (addr : Nat) (len : Nat) (size tagBits : Nat)
  /-- A PMBus transfer to the regulator of a rail at an address, with PEC or without (R304, Table 12-8). -/
  | pmbus (rail addr command value : Nat) (pec : Bool)
  /-- A PTM request (R300). -/
  | ptmRequest
  /-- A page program of a flash page (R256): its data bytes and its spare bytes (R235). -/
  | flashProgram (lane ce lun block page : Nat) (data spare : List Byte)
  /-- A block erase of flash (R256). -/
  | flashErase (lane ce lun block : Nat)
  /-- A command of Table 10-3 issued to a LUN: RESET (FFh), SET FEATURES (EFh) with the feature's address and value, ZQ
  CALIBRATION LONG (F9h) (R232, R234). -/
  | flashCommand (lane ce lun : Nat) (command : Nat) (args : List Nat)
  /-- READ (00h-30h): the array read of a page (R246). -/
  | flashRead (lane ce lun block page : Nat)
  /-- Flits sent on the mesh by a source node to its targets over links (from node, to node): 1 an all-or-nothing multicast
  (R106), 2 a retried one (R107), 3 credit reservations (R106), 4 a merged response (R109), 5 a partial tile (R205). -/
  | mesh (src : NodeId) (targets : List NodeId) (kind : Nat) (flits : Nat) (links : List (Nat × Nat))
  /-- A target has taken in a whole multicast of its kind (R106, R107). -/
  | landed (src target : NodeId) (kind : Nat) (flits : Nat)
  /-- An error that a function's AER capability reports (R299): its bit in the status register, and its severity, 0 correctable,
  1 non-fatal, 2 fatal. -/
  | aer (fn : Fn) (bit severity : Nat)
deriving DecidableEq, Repr

/-! ### Jobs (chapter 02) -/

/-- A job descriptor as read (Table 2-3a). -/
structure Desc where
  tag : BitVec 16 := 0
  irq : Bool := false
  fence : Bool := false
  reuse : Bool := false
  restarts : Nat := 0
  imageLen : Nat := 0
  imageAddr : Nat := 0
  inAddr : Nat := 0
  inLen : Nat := 0
  outLen : Nat := 0
  outAddr : Nat := 0
  user : Word64 := 0
deriving DecidableEq, Repr

/-- One claim entry (Table 2-3c). -/
structure Claim where
  kind : Nat := 0
  index : Nat := 0
  cycles : Nat := 0
deriving DecidableEq, Repr

/-- What Compass keeps of a job image: its header fields and claim table, and the operators its body names (R89). -/
structure Image where
  frames : Nat := 0
  claims : List Claim := []
  inMin : Nat := 0
  outMax : Nat := 0
  wrPages : Nat := 0
  ops : List (Nat × Nat) := []
deriving DecidableEq, Repr

/-- Fault codes (Table 2-7). -/
inductive Code where
  | ok | cancelled | overrun | noFit | desc | image | hostDma | engine | multicast | flash | sideFull | tape
deriving DecidableEq, Repr

/-- Where an admitted job stands. -/
inductive JobPhase where
  /-- Admitted, or due to restart: its frame program starts at the next tick (R26, R58). -/
  | waiting
  /-- A frame program of the job is running in this frame. -/
  | running
  /-- The frame program of this frame has finished; another follows at the next tick (R29). -/
  | between
  /-- Its last frame program has finished; it completes in step 6 of the next commit window. -/
  | finished
  /-- Being abandoned (R57) with a fault code. -/
  | abandoning
  /-- Completed with its code; its record is due in step 8 (R55). -/
  | over
deriving DecidableEq, Repr

/-- An admitted or completing job of a plot. -/
structure Job where
  /-- Submission index (R55 breaks ties by it). -/
  idx : BitVec 16 := 0
  desc : Desc := {}
  img : Image := {}
  phase : JobPhase := .waiting
  /-- Attempts started, 0 to 8 (Table 2-4). -/
  attempts : Nat := 0
  /-- Frame programs of this attempt that have finished. -/
  done : Nat := 0
  /-- The job's first frame, once it has one (Table 2-4, FRAMES). -/
  first : Option Nat := none
  code : Code := .ok
  node : Option NodeId := none
  /-- The TCLK edge at which its abandonment began (R56: of faults in one cycle the higher code counts). -/
  faultAt : Option Nat := none
  /-- An energy audit mismatch occurred (Table 2-4, AUDIT). -/
  audit : Bool := false
  /-- An overrun of this frame is recorded: BUDGET or DEADLINE (R28, R29). -/
  budget : Bool := false
  deadline : Bool := false
  /-- A JOB_FAULT line was written for this job in this frame (Table 14-6, once per job per frame). -/
  logged : Bool := false
  /-- The output stream of the current attempt (R345). -/
  out : List Byte := []
  /-- Energy of all attempts in units of 10^-18 µJ (R285). -/
  energy : Nat := 0
  /-- The contents of the job's private page copies (R54, R115): bytes by memory key, an unlisted byte of a copy reads 0. -/
  ovl : List Host.Cell := []
  /-- The home pages of which the job holds a write copy (R115). -/
  copies : List Nat := []
  /-- Home pages of which a write copy is being made (R115). -/
  copying : List Nat := []
  /-- The cache frames that hold the copies, made or being made: page and frame (R110, R115). -/
  frames : List (Nat × Nat) := []
  /-- Writes that wait for copies: the pages still missing, and the address and bytes that then land (R115). -/
  writes : List (List Nat × Nat × List Byte) := []
  /-- Queries started in this attempt, and the frame program's last GEN_WRITE call returned BUSY (R243, R256). -/
  queries : Nat := 0
  genBusy : Bool := false
  /-- Sectors of the GEN_WRITE call under way that the lanes have taken (R231, R256). -/
  genDone : Nat := 0
  /-- Completed without admission (R50, R27). -/
  unran : Bool := false
  /-- Its claims were released in a step 6 (R25). -/
  released : Bool := false
  /-- Anneal strict mode and flip-lane capacity captured at admission (R138). -/
  strict : Bool := false
  cap : Nat := 8
  /-- The initial pass of this attempt, or its full pass, is done (R131, R180). -/
  passed : Bool := false
  /-- Matrix partial-sum group in force for the job, captured at admission (R212). -/
  group : Nat := 1
deriving DecidableEq, Repr

/-- A formed completion record that waits to be written (R55; held while requests are not permitted, R42, R301). -/
structure Formed where
  bytes : List Byte := []
  irq : Bool := false
  fault : Bool := false
deriving DecidableEq, Repr

/-- The head of a submission ring (R48). -/
inductive Head where
  | empty
  | fetchingDesc
  | fetchingImage (d : Desc)
  | ready (d : Desc) (i : Image)
deriving DecidableEq, Repr

/-- Plot states (Table 2-2, PLT_STATUS.STATE). -/
inductive PlotState where
  | unassigned | disabled | idle | running | stopping | clearing
deriving DecidableEq, Repr

/-! ### Bit-stream content (chapter 03) -/

/-- One section of a bit-stream after its checks: the header's PARAM and the raw entries (Tables 3-3 to 3-5). -/
structure Section where
  type : Nat := 0
  plot : Nat := 0
  param : Nat := 0
  entries : List (List Byte) := []
deriving DecidableEq, Repr

/-- The committed content of the bit-stream (R73, R86, R89). Entries are kept byte for byte (R87 compares bytes). -/
structure Content where
  /-- Route schedule length L; 0 with no bit-stream (MSH_SLOT_LEN). -/
  slotLen : Nat := 0
  ownerAdmit : Bool := false
  revokeAdmit : Bool := false
  /-- The eight flash channel descriptors (Table 3-6). -/
  chans : List (List Byte) := []
  /-- PLOTMAP entries (Table 3-7). -/
  pmap : List (List Byte) := []
  /-- Route entries (Table 4-5). -/
  routes : List (List Byte) := []
  /-- Ingest entries (Table 13-4). -/
  ingest : List (List Byte) := []
  /-- ANNEAL, QUANT and SEARCH sections by plot. -/
  secs : List Section := []
  /-- Operator table of the committed microcode (Table 3-8): OP_ID, OP_VER, ENTRY_OFF. -/
  ops : List (Nat × Nat × Nat) := []
  mcBuild : Nat := 0
  /-- CRC-32C of the committed code, which stands for its bytes when two microcodes are compared (R87). -/
  mcCode : List Byte := []
deriving DecidableEq, Repr

/-- A verified bundle (R68): header fields and sections. -/
structure Bundle where
  slip : Bool := false
  plot : Nat := 0
  seq : Nat := 0
  slot : Nat := 0
  secs : List Section := []
  mcBuild : Nat := 0
  mcCode : List Byte := []
deriving DecidableEq, Repr

/-- One owner key slot (Table 3-11). -/
structure KeySlot where
  hash : BitVec 384 := 0
  crc : Word := 0
  valid : Bool := false
  revoke : Bool := false
deriving DecidableEq, Repr

/-- A fuse operation that is running (R79). -/
inductive FuseOp where
  | program (slot : Fin 4) (hash : BitVec 384)
  | revoke (slot : Fin 4)
  | lock
deriving DecidableEq, Repr

/-- Load states (Table 3-13). -/
inductive LoadState where
  | idle | fetching | verifying | staging | staged | waiting
deriving DecidableEq, Repr

/-! ### Mesh and memory (chapter 04) -/

/-- A commons page in a plot's quota: page i of the plot in a bank (R113). -/
structure QuotaPage where
  plot : Nat
  i : Nat
  bank : Nat
  page : Nat
deriving DecidableEq, Repr

/-- A backed page resident in a cache frame (R116): the memory it lies in (a node, or the commons) and its use. -/
structure Resident where
  page : Nat
  /-- The slice's node index, or none for a commons cache frame. -/
  home : Option Nat
  /-- The frame of that memory (R110). -/
  frame : Nat
  /-- Read or requested in the current frame. -/
  used : Bool
  /-- Order of the last use, larger is later. -/
  stamp : Nat
deriving DecidableEq, Repr

/-- A page-in under way or waiting for a context or a frame (R116, R239, R245). -/
structure PageIn where
  page : Nat
  node : NodeId
  lane : LaneId
  /-- Jobs whose readers wait. -/
  readers : List (BitVec 16)
  /-- It holds one of the plot's contexts on the lane. -/
  ctx : Bool := false
  /-- Flash pages read so far: position within the 64 KiB page and data. -/
  got : List (Nat × List Byte) := []
deriving DecidableEq, Repr

/-- A retry-table entry of a source node (R107, R108). -/
structure Retry where
  src : NodeId
  plot : PlotId
  job : BitVec 16
  entry : Nat
  /-- Flits of the whole transfer, 1 to 1,024. -/
  flits : Nat
  /-- Launch time in TCLK cycles. -/
  at_ : Nat
  /-- Targets not yet acknowledged. -/
  open_ : List NodeId
  /-- Targets that refused and have not sent READY. -/
  refused : List NodeId
deriving DecidableEq, Repr

/-- A credit reservation of an unscheduled all-or-nothing multicast (R106). -/
structure Reserve where
  src : NodeId
  plot : PlotId
  job : BitVec 16
  entry : Nat
  flits : Nat
  waiting : List NodeId
  /-- Targets that hold a grant, until the multicast has landed. -/
  granted : List NodeId
  /-- Every target has granted and the source has launched. -/
  launched : Bool
deriving DecidableEq, Repr

/-! ### Flash lanes and vector search (chapter 10) -/

/-- FLN_LANE_STATUS.STATE. -/
inductive LaneState where
  | off | init | ready
deriving DecidableEq, Repr

/-- What waits in a lane's start queue (R245). -/
inductive QItem where
  | part (plot : PlotId) (job : BitVec 16) (query : Nat)
  | page (plot : PlotId) (page : Nat)
deriving DecidableEq, Repr

/-- The plot of a waiting item. -/
def QItem.plot : QItem → PlotId
  | .part q _ _ => q
  | .page q _ => q

/-- An array operation of a LUN (Table 10-3). -/
inductive FlashKind where
  | read | program | erase
deriving DecidableEq, Repr

/-- Who asks for an array operation: a query part, a page-in, or the generation writes of an index (R246, R256). -/
inductive FlashWho where
  | part (job : BitVec 16) (no : Nat)
  | page (page : Nat)
  | gen (index : Nat)
deriving DecidableEq, Repr

/-- A command of a LUN's scheduler (R246, R256): a read stands here once it is issued, a program or an erase from the call on. -/
structure FlashOp where
  plot : PlotId
  job : BitVec 16
  who : FlashWho
  ce : Nat
  lun : Nat
  block : Nat
  page : Nat
  kind : FlashKind
  data : List Byte := []
  /-- Issued to the LUN. -/
  issued : Bool := false
  /-- Retries of the read so far (R259). -/
  tries : Nat := 0
deriving DecidableEq, Repr

/-- A side entry (Table 10-10): its ring position counts every append of the index. -/
structure SideEntry where
  pos : Nat
  epoch : Nat
  id : Nat
  attr : Nat
  part : Nat
  del : Bool
  codes : List Byte
deriving DecidableEq, Repr

/-- An epoch of an index that is not free (R254). -/
inductive EpochState where
  | running (job : BitVec 16)
  | published
  | dead
deriving DecidableEq, Repr

/-- Lane-held state of one index of a plot (R241, R254, R256, R257). -/
structure IndexState where
  /-- Active generation: false A, true B. -/
  gen : Bool := false
  /-- The job that holds the inactive generation, and whether it is a merge. -/
  writer : Option (BitVec 16) := none
  merge : Bool := false
  /-- Next sector to be written, and codewords staged for a page not yet programmed. -/
  next : Nat := 0
  staged : List (List Byte) := []
  /-- A merge's T0 and the epochs visible at its capture. -/
  t0 : Nat := 0
  seen : List Nat := []
  /-- Ring positions: the head is the position of the first entry held. -/
  tail : Nat := 0
  entries : List SideEntry := []
  epochs : List (Nat × EpochState) := []
deriving DecidableEq, Repr

/-- One predicate clause (Table 10-9). -/
structure Clause where
  op : Nat
  shift : Nat
  width : Nat
  x : Nat
  y : Nat
deriving DecidableEq, Repr

/-- One lane's part of a query (R245 to R251). -/
structure Part where
  lane : LaneId
  started : Bool := false
  done : Bool := false
  /-- 0 COMPLETE, 1 BUDGET, 2 DEADLINE. -/
  status : Nat := 0
  /-- The distance table and clauses loaded at its start (R245). -/
  table : List Byte := []
  clauses : List Clause := []
  /-- Sectors of the probed partitions in the part's units that have not been scanned, each with its partition, in scan order
  (R250). -/
  todo : List (Nat × Nat) := []
  /-- Sectors read into the buffers and not yet scanned (R246, R247). -/
  buf : List (Nat × List Byte) := []
  sectors : Nat := 0
  scanned : Nat := 0
  filtered : Nat := 0
  /-- The first K candidates by (dist, ID). -/
  heap : List (Int × Nat) := []
deriving DecidableEq, Repr

/-- A running query (Table 10-8). -/
structure Query where
  job : BitVec 16
  no : Nat
  index : Nat
  tuned : Bool
  orr : Bool
  skipSide : Bool
  k : Nat
  budget : Nat
  deadline : Nat
  probes : List Nat
  tableAddr : Nat
  resultAddr : Nat
  predAddr : Nat
  clauseCount : Nat
  /-- The generation captured, and the visible side entries captured when the home part starts (R249). -/
  gen : Option Bool := none
  vis : Option (List SideEntry) := none
  parts : List Part
deriving DecidableEq, Repr

/-! ### Log (chapter 14) -/

/-- A log line (Table 14-5). -/
structure LogLine where
  seq : Nat
  time : Nat
  code : Nat
  plot : Nat
  node : Option NodeId
  arg0 : Nat
  arg1 : Nat
deriving DecidableEq, Repr

/-- One MSI-X table entry (R295, R298). -/
structure MsixEntry where
  addr : Word64 := 0
  data : Word := 0
  mask : Bool := true
deriving DecidableEq, Repr

end Sys2Proof.Machine
end

