-- ==== Sys2Proof/Machine/State.lean ====
section
/-!
DEFINITION. Sys2Proof/Machine/State.lean: every piece of state the spec gives the block, as plain data, block by block; the
queue of waiting commands; the state right after VDD_AUX power-on (State.reset); the reasons a step can stop.
-/
namespace Sys2Proof.Machine

/-- Reasons for a fault. No command of the table ends in one: every command has an effect, or none, in every state. -/
inductive Fault where
  /-- Raised by no meaning; kept because the interface asks for a type of faults (safe: nothing stops here). -/
  | none
deriving DecidableEq, Repr

/-- Reasons for a refusal. -/
inductive Refusal where
  /-- Raised only by an arm of exec whose command has no meaning yet (safe: the model stops). -/
  | notModelled (mnemonic : String)
deriving DecidableEq, Repr

/-! ### Time and start-up (chapters 01 and 12) -/

/-- Where the start-up of Table 12-10 stands. -/
inductive Phase where
  /-- PWR_OK low, or the device held in reset by JTAG (R308, R314). -/
  | held
  /-- Started; the epoch step has not ended (R312). -/
  | fusing
  /-- Epoch step over, memory not yet initialised. -/
  | clearing
  /-- Memory initialised, not yet ready. -/
  | cleared
  /-- Ready (R309). -/
  | ready
deriving DecidableEq, Repr

/-- The JTAG instruction in force (Table 12-12). -/
inductive JtagInstr where
  | extest | idcode | samplePreload | clamp | highz | bypass
deriving DecidableEq, Repr

/-- Clocks, pins and the start-up sequence. -/
structure BootState where
  /-- TCLK rising edges since VDD_AUX power-on (R17); FRM_TIME is 10 ns per edge since ready. -/
  tclk : Nat := 0
  /-- The TCLK edge of tick 0 (R16). -/
  readyAt : Nat := 0
  /-- The TCLK edge of the start event (R309). -/
  startAt : Nat := 0
  /-- HST_EPOCH before the epoch step of the latest cold boot, and the TCLK edge at which that step ended (R312). -/
  epochWas : Word := 0
  epochAt : Nat := 0
  phase : Phase := .held
  pwrOk : Bool := false
  perst : Bool := true
  vrAlert : Bool := false
  jtag : JtagInstr := .idcode
deriving DecidableEq, Repr

/-- The VDD_AUX domain (R311, R303, R341, R343). -/
structure AuxState where
  on : Bool := true
  /-- The edge at which VDD_AUX became valid (R303). -/
  since : Nat := 0
  strap : Fin 4 := 0
  /-- The cold-boot flag (R311). -/
  coldFlag : Bool := true
  /-- PWR_OK has risen since VDD_AUX power-on (Table 12-11). -/
  risen : Bool := false
  /-- HST_RESET_CAUSE.CAUSE. -/
  cause : BitVec 4 := 1
  /-- HST_EPOCH.STATE: 0 OK, 1 EXHAUSTED, 2 FAIL. -/
  epochState : BitVec 2 := 0
  /-- PWR_TRIP (Table 11-11). -/
  trip : Word := 0
  /-- THERMTRIP_N is asserted (R282). -/
  thermTrip : Bool := false
  /-- Tag sequences by plot (R343). -/
  pseq : Vector Word64 65 := Vector.replicate 65 0
  /-- The tag key K (R341). -/
  key : Option (BitVec 256) := none
  /-- KEY_FAIL holds until the next cold boot (R346). -/
  keyFail : Bool := false
deriving DecidableEq, Repr

/-- The fuses (Table 3-11, R312, R347, R273). -/
structure FuseState where
  /-- PART_GRADE: true for the AN-7F. -/
  gradeF : Bool := false
  /-- REVISION: true for B1. -/
  revB1 : Bool := true
  serial : Word64 := 0
  vendorHash : BitVec 384 := 0
  owner : Vector KeySlot 4 := Vector.replicate 4 {}
  lock : Bool := false
  /-- Epoch fuses that read blown. -/
  blown : List Nat := []
  /-- Epoch fuses whose read-back failed; they are never tried again (R312). -/
  failed : List Nat := []
  /-- Public half of the device identity key, 96 bytes (ATT_DEVKEY). -/
  devKey : BitVec 768 := 0
  /-- The fused voltage table: 32 words as PWR_VTAB reads them (Table 11-10). -/
  vtab : Vector Word 32 := Vector.replicate 32 0
  /-- Charge coefficients of the activity events in aC at 5 × kind + rail, and the leakage coefficient of each rail (R265). -/
  charge : Vector Nat 35 := Vector.replicate 35 0
  leak : Vector Nat 5 := Vector.replicate 5 0
deriving DecidableEq, Repr

/-! ### The frame (chapter 01) -/

/-- FRM_STATUS.SRC_STATE (Table 1-12). -/
inductive SrcState where
  | internal | ppsAcq | ppsLock | ppsHold | plantAcq | plantLock | plantHold | fallback
deriving DecidableEq, Repr

/-- The device-wide RWS registers (Table 1-11, PWR_CAP): plot 0's commit (R40, R69). -/
structure DevRws where
  period : BitVec 17 := 1000
  src : BitVec 2 := 0
  ppsDiv : BitVec 14 := 1000
  plantWin : BitVec 12 := 10
  plantEntry : BitVec 8 := 0
  limit : BitVec 10 := 940
  cap : BitVec 9 := 250
deriving DecidableEq, Repr

/-- The RWS registers of one plot (R69): PLT_QOS, ANL_PCFG, NSE_PTAPE_CFG and BASE, MXE_PCFG. -/
structure PlotRws where
  cls : BitVec 2 := 1
  strict : Bool := false
  cap : BitVec 4 := 8
  tapeDir : Bool := false
  tapeOn : Bool := false
  tapeLen : BitVec 12 := 0
  tapeBase : Word64 := 0
  group : BitVec 2 := 1
deriving DecidableEq, Repr

/-- The frame block. -/
structure FrmState where
  /-- FRM_CTL. -/
  ppsPol : Bool := false
  autoRelock : Bool := false
  ppsEn : Bool := false
  /-- Shadow, snapshot and committed device-wide RWS registers (R9, R11). -/
  shadow : DevRws := {}
  snap : DevRws := {}
  rws : DevRws := {}
  count : Word64 := 0
  /-- TCLK edge of the latest tick, and the period that governs the current frame (R19). -/
  tickAt : Nat := 0
  framePeriod : Nat := 1000
  /-- The device-wide registers that govern the current frame (R19, R36, FRM_FRAME_CYC). -/
  frameDev : DevRws := {}
  /-- The source that gives the current frame's ending tick (R38). -/
  gov : SrcState := .internal
  srcState : SrcState := .internal
  missRun : BitVec 2 := 0
  event : BitVec 9 := 0
  /-- FRM_EVENT bits set in this frame, for the TICK log line (Table 14-6). -/
  eventFrame : BitVec 9 := 0
  tickLogged : Bool := false
  lenLast : BitVec 28 := 0
  ppsValid : Bool := false
  ppsRate : BitVec 27 := 0
  /-- TCLK edge of the latest PPS edge and whether one has been seen. -/
  ppsLast : Option Nat := none
  /-- Consecutive PPS edges outside the window, 1 s apart (Table 1-4). -/
  ppsOut4 : Nat := 0
  /-- Expected time of the next PPS edge while locked or held. -/
  ppsExpect : Option Nat := none
  /-- Carried remainder of FRM_PPS_RATE / FRM_PPS_DIV (R33). -/
  ppsRem : Nat := 0
  /-- TCLK cycles of phase difference still to remove, one per frame (R33). -/
  ppsPhase : Int := 0
  /-- Length of the current frame in TCLK cycles where the locked or held PPS source gives its end (R33). -/
  ppsLen : Nat := 0
  /-- The frame in which acquisition completes ends here (R37). -/
  acqEnd : Option Nat := none
  /-- A designated message has been used in this window (R36). -/
  windowUsed : Bool := false
  /-- The commit window of the current frame has opened. -/
  opened : Bool := false
  /-- The TCLK edge at which the commit sequence ends (COMMIT_BUSY reads 1 until then). -/
  commitEnd : Nat := 0
  /-- Completion time of a designated message whose tick is held off (R39). -/
  holdoff : Option Nat := none
  /-- A valid designated message was seen in FALLBACK with AUTO_RELOCK = 1 (Table 1-4). -/
  relockNext : Bool := false
  claimSel : BitVec 7 := 0
  plantMiss : Word := 0
  plantOut : Word := 0
  ppsMiss : Word := 0
  ppsOut : Word := 0
  holdoffCnt : Word := 0
  holdoffOvr : Word := 0
  plotOvr : Vector Word 65 := Vector.replicate 65 0
  /-- Rotation: the plot at which step 6 starts within a class (R26). -/
  rotation : Nat := 1
deriving DecidableEq, Repr

/-! ### Host link (chapter 12) -/

/-- Fields of a function's Device Control registers (R289), as the base specification codes them. -/
structure DeviceControl where
  relaxed : Bool := true
  /-- Max_Payload_Size: 128 bytes shifted left by the code. -/
  payload : BitVec 3 := 0
  /-- Max_Read_Request_Size: 128 bytes shifted left by the code. -/
  readReq : BitVec 3 := 2
  extTag : Bool := false
  tenBitTag : Bool := false
  /-- Completion Timeout Value: 0 the default range, 1 and 2 Range A, 5 and 6 Range B. -/
  timeout : BitVec 4 := 0
deriving DecidableEq, Repr

/-- A function's AER capability (R299, Table 12-3: single header recording). -/
structure AerState where
  uncorr : Word := 0
  uncorrMask : Word := 0x00400000
  severity : Word := 0x00462030
  corr : Word := 0
  corrMask : Word := 0x0000E000
  /-- First Error Pointer, and the header recorded for it. -/
  first : Option Nat := none
  header : BitVec 128 := 0
deriving DecidableEq, Repr

/-- One function: configuration-space bits, MSI-X state, read latches, held halves and its copies of the selector
registers (R12, R14, R356, R298). -/
structure FnState where
  bme : Bool := false
  d3 : Bool := false
  ctl : DeviceControl := {}
  aer : AerState := {}
  msixEn : Bool := false
  fmask : Bool := false
  msix : Vector MsixEntry 32 := Vector.replicate 32 {}
  pba : BitVec 32 := 0
  /-- Latched values by the address of the group's first register. -/
  latches : List (Nat × Nat) := []
  /-- Held lower halves by the address of the pair's first register. -/
  held : List (Nat × Word) := []
  /-- Copies of registers held per function, by address; one that is not listed reads its reset value. -/
  sels : List (Nat × Nat) := []
  /-- LOG_STAT.VALID of the latched line (R352). -/
  logValid : Bool := false
deriving DecidableEq, Repr

/-- The host link and management block. -/
structure HstState where
  memSpace : Bool := false
  vfMemSpace : Bool := false
  vfEn : Bool := false
  numVfs : BitVec 16 := 0
  ari : Bool := false
  ptmEn : Bool := false
  linkUp : Bool := false
  speed : BitVec 3 := 0
  width : BitVec 5 := 0
  accessErr : Word := 0
  accessCnt : Word := 0
  dmaErrCnt : Word := 0
  dmaLast : Word := 0
  ptmAuto : BitVec 8 := 0
  ptmValid : Bool := false
  ptmBusy : Bool := false
  ptmNoResp : Bool := false
  dialogs : BitVec 16 := 0
  ptmT1 : Word64 := 0
  ptmT4 : Word64 := 0
  ptmMaster : Word64 := 0
  ptmProp : Word := 0
  /-- When the dialog in flight started, and whether its request has been sent (R292, R300). -/
  ptmAt : Nat := 0
  ptmSent : Bool := false
  /-- When the latest read of each reader was issued (R289, Completion Timeout). -/
  asked : List (PlotId × DmaUser × Nat) := []
  rail : Vector Word 5 := #v[0x8000FF40, 0x8000FF41, 0x8000FF42, 0x8000FF43, 0x8000FF44]
  pmbModeErr : BitVec 5 := 0
  pmbNoAck : BitVec 5 := 0
  pmbOk : BitVec 5 := 0
  pmbErr : Word := 0
  smbPec : BitVec 16 := 0
  smbXfers : BitVec 16 := 0
  smbAddr : Word := 0
  /-- The SMBus target's own latches, like a separate function (R302). -/
  smbLatches : List (Nat × Nat) := []
  pAccessErr : Vector Word 65 := Vector.replicate 65 0
  pAccessCnt : Vector Word 65 := Vector.replicate 65 0
  pDmaErr : Vector Word 65 := Vector.replicate 65 0
deriving DecidableEq, Repr

/-- Data the block returns to the last reader: register reads, SMBus and JTAG (the model's own record). -/
structure Response where
  data : Nat := 0
  /-- Answered with Unsupported Request, or NACKed on SMBus. -/
  error : Bool := false
  /-- A configuration request completed with Request Retry Status (R310). -/
  retry : Bool := false
  /-- The PEC byte of an SMBus read whose host clocks it (R302). -/
  pec : Option Byte := none
deriving DecidableEq, Repr

/-! ### Plots (chapter 02) -/

/-- The PLT register set and the job queues of one plot. -/
structure PltSet where
  en : Bool := false
  pfFaultEn : Bool := false
  state : PlotState := .unassigned
  ringHalt : Bool := false
  ringEn : Bool := false
  errIndex : BitVec 16 := 0
  errReason : BitVec 4 := 0
  sqBase : Word64 := 0
  cqBase : Word64 := 0
  sqTail : BitVec 16 := 0
  sqHead : BitVec 16 := 0
  cqTail : BitVec 16 := 0
  cqHead : BitVec 16 := 0
  irqStatus : BitVec 13 := 0
  irqMask : BitVec 13 := 0x1FFF
  vec0 : Word := 0x76543210
  vec1 : BitVec 20 := 0xCBA98
  doneCnt : Word := 0
  faultCnt : Word := 0
  restartCnt : Word := 0
  lastTag : BitVec 16 := 0
  lastNodeValid : Bool := false
  lastNode : BitVec 7 := 0
  lastCode : BitVec 8 := 0
  head : Head := .empty
  /-- The ring head as captured in step 1 (Table 1-3). -/
  snapHead : Bool := false
  /-- Jobs in the order of admission (or of completion without running). -/
  jobs : List Job := []
  /-- Image of the previous admitted job (REUSE). -/
  prev : Option Image := none
  /-- Records formed and not yet written: BME 0, D3hot, or a full completion ring. -/
  formed : List Formed := []
  /-- Requests received since the stop began (R44): reset or FLR, reassignment. -/
  reqReset : Bool := false
  reqReassign : Bool := false
  /-- The clearing under way or due covers all the plot's engines, not removed ones only (R60). -/
  clearAll : Bool := false
  /-- Sub-millisecond events of the plot withheld or logged in this frame: OVERRUN line written (R30). -/
  ovrFrame : Nat := 0
  ovrLogged : Bool := false
  ovrBudget : Bool := false
  ovrDeadline : Bool := false
deriving DecidableEq, Repr

/-! ### Bit-stream (chapter 03) -/

/-- The CFG register set of one plot. -/
structure CfgSet where
  perrCode : BitVec 8 := 0
  perrDetail : BitVec 16 := 0
  prefuse : Word := 0
  pcommit : Word64 := 0
  pslipSeq : Word64 := 0
  touched : Bool := false
  waited : Bool := false
  /-- The previous refusal of the plot, none after a commit of it (R91). -/
  lastRefusal : Option (BitVec 8 × BitVec 16) := none
deriving DecidableEq, Repr

/-- The global CFG state. -/
structure CfgState where
  arm : Bool := false
  load : LoadState := .idle
  err : BitVec 8 := 0
  last : BitVec 2 := 0
  precheckFail : Bool := false
  kind : Bool := false
  srcAddr : Word64 := 0
  srcLen : BitVec 25 := 0
  /-- Address and length captured at the LOAD write (R80). -/
  capAddr : Word64 := 0
  capLen : Nat := 0
  waitFrames : BitVec 16 := 1000
  waitMap : BitVec 64 := 0
  /-- Commit windows passed in WAITING. -/
  waited : Nat := 0
  commitErr : Word := 0
  precheck : Word := 0
  refuseCnt : Word := 0
  seq : Word64 := 0
  slot : BitVec 2 := 0
  loaded : Bool := false
  fuseBusy : Option FuseOp := none
  opErr : BitVec 4 := 0
  fuseData : BitVec 384 := 0
  /-- The file's bytes in the reserved pages (R83). -/
  file : List Byte := []
  bundle : Option Bundle := none
  /-- CFG_LOAD_STATUS.STATE of the bundle that joined the latest commit sequence, while that runs (R80). -/
  joined : Option Nat := none
  content : Content := {}
deriving DecidableEq, Repr

/-! ### Mesh and memory (chapter 04) -/

/-- The MSH register set and page tables of one plot. -/
structure MshSet where
  cmnCache : BitVec 12 := 0
  mxeCache : BitVec 9 := 0
  atCache : BitVec 9 := 0
  ign : Bool := false
  pageIn : Word := 0
  miss : Word := 0
  copy : Word := 0
  mcRetry : Word := 0
  merge : Word := 0
  /-- Frames whose role changed, or commons pages placed before their clearing ended, are being zeroed (R112, R114). -/
  zeroing : Bool := false
  /-- Home pages that lie in another frame of their memory than that of their own number: the memory (a node, or 120 for the
  commons quota), the home page's number in it, and the frame (R112, R115). -/
  moved : List (Nat × Nat × Nat) := []
  resident : List Resident := []
  pageIns : List PageIn := []
deriving DecidableEq, Repr

/-- The global MSH state. -/
structure MshState where
  scrubEn : Bool := true
  ceCnt : Word := 0
  ueCnt : Word := 0
  eccAddr : Word := 0
  linkReplay : Word := 0
  linkFail : Word := 0
  mcFault : Word := 0
  scrubPass : Word := 0
  linkNode : BitVec 7 := 0
  linkPort : BitVec 3 := 0
  /-- Flits of the last completed frame per node and port: all, scheduled. -/
  links : List (Nat × Nat × Nat × Nat) := []
  nodeSel : BitVec 7 := 0
  quota : List QuotaPage := []
  /-- Staging pages: bank and page, in order of j (R81). -/
  staging : List (Nat × Nat) := []
  retries : List Retry := []
  reserves : List Reserve := []
  /-- Poisoned 64-byte lines, by the mesh address of their first byte (R118, R119). -/
  poison : List Nat := []
  /-- The committed route schedule that governs traffic, and the one prepared for the next tick (R97). -/
  routes : List (List Byte) := []
  slotLen : Nat := 0
deriving DecidableEq, Repr

/-! ### Log and attestation (chapter 14) -/

/-- The event log. -/
structure LogState where
  next : Word64 := 0
  ack : Word64 := 0
  /-- Lines held, newest first, at most 8,192. -/
  lines : List LogLine := []
  lost : Word := 0
  suppress : Word := 0
  pcnt : Vector Word 65 := Vector.replicate 65 0
  plast : Vector (BitVec 16) 65 := Vector.replicate 65 0
deriving DecidableEq, Repr

/-- One ATT set (Table 14-7). -/
structure AttSet where
  addr : Word64 := 0
  busy : Bool := false
  result : BitVec 4 := 0
  /-- Request address captured at GO. -/
  cap : Word64 := 0
  unsignedCnt : Word := 0
  /-- The plot's own stop reason (SEQ_SATURATED), for which the actions of R346 have been taken in this boot. -/
  stop : BitVec 3 := 0
deriving DecidableEq, Repr

/-- The attestation unit. -/
structure AttState where
  /-- Device-wide reason recorded (Table 14-3), 0 none. -/
  stop : BitVec 3 := 0
  sets : Vector AttSet 65 := Vector.replicate 65 {}
deriving DecidableEq, Repr

/-! ### Anneal fabric (chapters 05 and 06) -/

/-- ANL_PSTATUS.STATE. -/
inductive AnState where
  | idle | init | run | drain | audit | frozen
deriving DecidableEq, Repr

/-- One deferral queue entry: a relaxed deferral keeps its N, a strict void its noise word (R135, R137). -/
structure QEntry where
  row : Nat
  n : Int := 0
  word : Nat := 0
deriving DecidableEq, Repr

/-- One anneal tile of a running attempt: the tables read at the initial pass (R131) and what persists (R145). -/
structure AnTile where
  /-- Within-plot tile index, format, V, FIRST and COUP_ADDR of its TILE entry. -/
  idx : Nat := 0
  format : Nat := 0
  v : Nat := 0
  first : Nat := 0
  coup : Nat := 0
  cb : List Int := []
  shifts : List Byte := []
  bias : List Int := []
  order : List Nat := []
  /-- Rootstock bias G of each row (R123, R184). -/
  root : List Int := []
  spins : List Bool := []
  best : List Bool := []
  fields : List Int := []
  queue : List QEntry := []
  /-- Candidates offered in the current pass; V when the pass is over (R133). -/
  ptr : Nat := 0
  /-- Presence mask of a grafted plot: the slots whose pair with this tile is present (R185). -/
  mask : Option (List Nat) := none
  /-- Flips committed in the current graft (R182). -/
  flips : Nat := 0
deriving DecidableEq, Repr

/-- A committed flip not yet applied: its slot, tile (position among the TILE entries) and row (R132). -/
structure Flip where
  slot : Nat
  tile : Nat
  row : Nat
deriving DecidableEq, Repr

/-- What the ANL, NSE registers of a plot show: a copy is latched in step 2 (R148, R164, R174). -/
structure AnShow where
  prop : BitVec 48 := 0
  flip : BitVec 48 := 0
  auditCnt : Word := 0
  deferCnt : Word := 0
  dropCnt : Word := 0
  shedCnt : Word := 0
  blockCnt : Word := 0
  voidCnt : Word := 0
  holdCnt : Word := 0
  pauseCnt : Word := 0
  stallCnt : Word := 0
  starveCnt : Word := 0
  drawCnt : Word := 0
  sweeps : Word64 := 0
  energy : BitVec 72 := 0
  bestEnergy : BitVec 72 := 0
  bestSweep : Word64 := 0
  auditDelta : Word64 := 0
  qmax : BitVec 6 := 0
  bear : BitVec 6 := 0
  left : Word := 0
  sigma : BitVec 17 := 0
  spins : List (Nat × List Bool) := []
  bests : List (Nat × List Bool) := []
deriving DecidableEq, Repr

/-- The anneal fabric of one plot. -/
structure AnPlot where
  state : AnState := .idle
  /-- The job whose attempt the fabric holds. -/
  job : BitVec 16 := 0
  captured : Bool := false
  bestValid : Bool := false
  n : Nat := 0
  tiles : List AnTile := []
  energy : Int := 0
  bestEnergy : Int := 0
  /-- OFFSET of a grafted plot (R186), and whether a best state was captured in this graft (R188). -/
  offset : Int := 0
  bestNew : Bool := false
  rho : Nat := 0
  /-- Flip slots since the start of the run (R132). -/
  slot : Nat := 0
  inflight : List Flip := []
  /-- Sweeps left in the run (R145), and the events of a completed sweep that are due (R162). -/
  runLeft : Nat := 0
  sweepDue : Bool := false
  auditDue : Bool := false
  /-- Schedule state (R162): bearing, sweeps left, stall offset, window count and mark. -/
  b : Nat := 0
  left : Nat := 0
  sigma : Nat := 0
  c : Nat := 0
  m : Int := 0
  /-- Live counters and values, and the copy latched in step 2. -/
  live : AnShow := {}
  shown : AnShow := {}
  /-- ANL_PWRAP: PROP_WRAP, FLIP_WRAP. -/
  propWrap : Bool := false
  flipWrap : Bool := false
  /-- An ENERGY_AUDIT line was written in this frame (R142). -/
  auditLogged : Bool := false
  /-- FLIP_SLOT units since the tick, for bubbles (R271). -/
  unit : Nat := 0
deriving DecidableEq, Repr

/-- The device-wide ANL state. -/
structure AnState0 where
  devProp : BitVec 48 := 0
  devWrap : Bool := false
  tileSel : BitVec 6 := 0
deriving DecidableEq, Repr

/-- State of a well or channel (NSE_TILE_STAT.STATE). -/
inductive WellState where
  | startup | healthy | failed | locked
deriving DecidableEq, Repr

/-- A bit FIFO: `len` bits, the earliest in bit 0 of `bits` (R154). -/
structure BitFifo where
  bits : Nat := 0
  len : Nat := 0
deriving DecidableEq, Repr

/-- One noise well with its tile's reservoir (R151 to R155). -/
structure Well where
  state : WellState := .startup
  /-- TCLK edges of the failures of the last second. -/
  fails : List Nat := []
  fifo : BitFifo := {}
  draw : Bool := false
  /-- Consecutive slots that needed a word and were short. -/
  short : Nat := 0
deriving DecidableEq, Repr

/-- One deep-well channel (R156). -/
structure Channel where
  state : WellState := .startup
  fails : List Nat := []
  /-- Blocks still to pass into the pool before its output is used (Table 6-2, start-up test). -/
  warm : Nat := 0
  /-- A 256-bit output that waits for its other half of a pool block. -/
  half : Option (BitVec 256) := none
deriving DecidableEq, Repr

/-- A host random request (R157). -/
structure RngSet where
  addr : Word64 := 0
  busy : Bool := false
  result : BitVec 4 := 0
  blocks : BitVec 15 := 0
  /-- Captured address, blocks asked for, blocks written, time of GO, and whether a GO was ignored meanwhile (R158). -/
  cap : Word64 := 0
  want : Nat := 0
  done : Nat := 0
  goAt : Nat := 0
  again : Bool := false
  /-- Some deep-well channel was neither FAILED nor LOCKED at some time in the window (R158). -/
  up : Bool := false
deriving DecidableEq, Repr

/-- The device-wide NSE state. -/
structure NseState where
  dwHostEn : Bool := true
  wells : Vector Well 64 := Vector.replicate 64 {}
  chans : Vector Channel 4 := Vector.replicate 4 {}
  /-- The pool's blocks, oldest first (R156). -/
  pool : List (BitVec 512) := []
  rrTile : Nat := 0
  rrFn : Nat := 0
  rctFail : Word := 0
  aptFail : Word := 0
  tileSel : BitVec 6 := 0
  icdfSel : BitVec 12 := 0
  dwInt : Word64 := 0
  dwHost : Word64 := 0
  rng : Vector RngSet 65 := Vector.replicate 65 {}
  /-- Sources whose NOISE_HEALTH line was written in this frame (R153). -/
  logged : List NoiseSource := []
deriving DecidableEq, Repr

/-- A buffered play segment: number, words left, END (R168). -/
structure TapeSeg where
  segNo : Nat
  words : List Nat
  last : Bool
deriving DecidableEq, Repr

/-- One tape lane of a plot (R165 to R171). -/
structure TapeLane where
  head : BitVec 16 := 0
  tail : BitVec 16 := 0
  /-- Expected number (play) or next written number (record). -/
  next : Word := 0
  start : Word := 0
  bufs : List TapeSeg := []
  /-- Fetches in flight (R167). -/
  flight : Nat := 0
  /-- The fetch of the segment at the head failed while no job was admitted: it is issued again before any other (R167). -/
  refetch : Bool := false
  /-- The attempt has not yet begun on this lane: the next segment used or written is its first (R168, R169). -/
  fresh : Bool := true
  /-- Words of the first buffered segment have been used (R168). -/
  begun : Bool := false
  /-- The segment in use had END and is used up (R168). -/
  ended : Bool := false
  /-- Record buffer: words taken and not yet in a written segment; words taken since the last full segment was cut. -/
  record : List Nat := []
  /-- The lane is below NSE_PTAPE_LOW (R172). -/
  low : Bool := false
deriving DecidableEq, Repr

/-- The NSE set of one plot. -/
structure NsePlot where
  low : BitVec 12 := 2
  /-- NSE_PTAPE_SEL. -/
  sel : BitVec 6 := 0
  lanes : Vector TapeLane 64 := Vector.replicate 64 {}
  errTile : BitVec 6 := 0
  errReason : BitVec 4 := 0
  errSeg : BitVec 16 := 0
  /-- The faulted job for which fetching is halted (R167). -/
  halted : Option (BitVec 16) := none
  /-- Tape configuration captured by the previous admitted job since the lanes were reset (R171). -/
  prev : Option PlotRws := none
  /-- Tape configuration captured by the admitted jobs (R165). -/
  cap : Option PlotRws := none
  /-- TAPE_LOW was raised in this commit window's frame (R172). -/
  lowRaised : Bool := false
deriving DecidableEq, Repr

/-! ### Flash lanes and vector search (chapter 10) -/

/-- What a LUN's command scheduler remembers (R246, Table 2-10): class 1 commands since a class 0 one, while both waited; the
plot served last; and whom it served last of each plot. -/
structure LunSched where
  ones : Nat := 0
  last : Nat := 0
  served : List (PlotId × FlashWho) := []
deriving DecidableEq, Repr

/-- One flash lane. -/
structure FlashLane where
  state : LaneState := .off
  /-- Bit 8 CE + n: the LUN is suspect (FLN_SUSPECT), and being returned to service (R261). -/
  suspect : BitVec 32 := 0
  clearing : BitVec 32 := 0
  retry : Word := 0
  uncorr : Word := 0
  weak : Word := 0
  timeout : Word := 0
  rb : Word := 0
  pfail : Word := 0
  erase : Word := 0
  rdBytes : Word64 := 0
  pgBytes : Word64 := 0
  ops : List FlashOp := []
  /-- The command schedulers of the LUNs, by 8 CE + n (R246). -/
  sched : Vector LunSched 32 := Vector.replicate 32 {}
  queue : List QItem := []
deriving DecidableEq, Repr

/-- Counters of the FLN set of one plot; a copy is latched in step 2 (R263). -/
structure FlnCnt where
  scan : Word64 := 0
  filter : Word64 := 0
  query : Word := 0
  park : Word := 0
  sideFull : Word := 0
  sectErr : Word := 0
  merge : Word := 0
  delHit : Word := 0
deriving DecidableEq, Repr

/-- The FLN state of one plot. -/
structure FlnPlot where
  queries : List Query := []
  /-- The jobs whose metered count on a lane has reached their claim in this frame, and whether the commit window is open: their
  work on the lanes is parked (R247). -/
  atClaim : List (BitVec 16 × LaneId) := []
  closed : Bool := false
  idx : Vector IndexState 16 := Vector.replicate 16 {}
  live : FlnCnt := {}
  shown : FlnCnt := {}
  /-- Latched by index: FLN_PIDX_STATUS, FLN_PSIDE_LIVE, FLN_PSIDE_DEAD, FLN_PEPOCH_FREE. -/
  shownIdx : Vector (Nat × Nat × Nat × Nat) 16 := Vector.replicate 16 (0, 0, 0, 4096)
  /-- SIDE_HIGH was raised since the last commit window (R255). -/
  highRaised : Bool := false
deriving DecidableEq, Repr

/-! ### Grafting (chapter 07) -/

/-- What the GRF registers of a plot show: a copy is latched in step 2 (R192). -/
structure GrfShow where
  /-- GRF_PINFO. -/
  info : Word := 0
  phase : BitVec 3 := 0
  count : Word64 := 0
  cursor : Nat := 0
  slots : List Nat := []
  flips : List Nat := []
  offset : BitVec 72 := 0
  fullDelta : Word64 := 0
  fullAudit : Word := 0
  gMax : BitVec 56 := 0
  rotCyc : Word := 0
deriving DecidableEq, Repr

/-- How far a step of a graft has come that reads the directory row by row: rows done, parts of the next row done, and the
sum so far (R180, R185, R189). -/
structure GrfScan where
  row : Nat := 0
  item : Nat := 0
  sum : Int := 0
deriving DecidableEq, Repr

/-- Grafting of one plot. -/
structure GrfPlot where
  /-- GRF_PSTATUS.PHASE of the latest step: 0 IDLE, 1 FULL, 2 SELECT, 3 STAGE, 4 PASS, 5 RUN, 6 HARVEST. -/
  phase : BitVec 3 := 0
  /-- The latest step, or a full audit, is still under way. -/
  scan : Option GrfScan := none
  /-- Number of the current graft, and grafts harvested in the attempt. -/
  g : Nat := 0
  count : Word64 := 0
  cursor : Nat := 0
  /-- Block in each scion slot, now and in the previous graft (R181, R185). -/
  slots : List Nat := []
  prev : List Nat := []
  /-- Flips per slot latched at the latest harvest (R188); only the register saturates. -/
  flips : List Nat := []
  /-- Rootstock bias of each slot's rows (R183), and the slot pairs present (R185). -/
  root : List (List Int) := []
  present : List (Nat × Nat) := []
  /-- A full audit follows the harvest (R188). -/
  auditDue : Bool := false
  fullDelta : Word64 := 0
  fullAudit : Word := 0
  gMax : BitVec 56 := 0
  rotCyc : Word := 0
  /-- FCLK cycle at which the harvest began that no pass has followed yet (GRF_PROT_CYC). -/
  harvestAt : Option Nat := none
  /-- A FULL_AUDIT line was written in this frame (R189). -/
  logged : Bool := false
  shown : GrfShow := {}
deriving DecidableEq, Repr

/-! ### Matrix engines, helper cores, quantise/convert engines (chapters 08 and 09) -/

/-- An accumulator bank: X72 values as integers of 2^-32, by row and column; rows that are not listed are 0 (R197). -/
structure Bank where
  rows : List (List Int) := []
  ovf : Bool := false
deriving DecidableEq, Repr

/-- An operation that runs on an engine. -/
structure MxeRun where
  plot : PlotId
  job : BitVec 16
  op : MxeOp
  /-- The tile that accumulates, and the partial tiles it has received (R205). -/
  tile : Nat := 0
  got : Nat := 0
  /-- A RERANK operation: the result IDs still to be read, and the exact distances formed (R252). -/
  ids : List Nat := []
  dists : List (Int × Nat) := []
deriving DecidableEq, Repr

/-- One helper core cluster: the call it serves, and the job whose bytes in its local SRAM are still to be zeroed (R208). -/
structure HccCluster where
  call : Option HelperCall := none
  dirty : Option (PlotId × BitVec 16) := none
deriving DecidableEq, Repr

/-- One matrix engine. -/
structure MxeEngine where
  /-- Index of the active bank: false bank 0. -/
  active : Bool := false
  bank0 : Bank := {}
  bank1 : Bank := {}
  run : Option MxeRun := none
  /-- Operands in the engine's local SRAM (R194): the bytes as they stood when the operation began, by memory key. -/
  sram : List Host.Cell := []
  /-- The drain of the tile in the active bank waits for a page or a cache frame (R203, R204). -/
  draining : Bool := false
  /-- A carried tile, with its operation (R201). -/
  carry : Option MxeRun := none
  stopped : Bool := false
  stall : Word := 0
deriving DecidableEq, Repr

/-- A partial tile in flight between engines (R205). -/
structure Partial where
  plot : PlotId
  job : BitVec 16
  sink : MxeId
  tile : Nat
  rows : List (List Int)
deriving DecidableEq, Repr

/-- The MXE counters of one plot; a copy is latched in step 2 (R213). MACs are counted singly. -/
structure MxeCnt where
  macs : Nat := 0
  tile : Word := 0
  sat : Word := 0
  range : Word := 0
  stall : Word := 0
  call : Word := 0
  trap : Word := 0
deriving DecidableEq, Repr

/-- The MXE set of one plot. -/
structure MxePlot where
  live : MxeCnt := {}
  shown : MxeCnt := {}
  /-- Latched MXE_PSTATUS. -/
  shownCarry : BitVec 16 := 0
  shownGroup : Nat := 0
deriving DecidableEq, Repr

/-- Counters of the QCE set of one plot; a copy is latched in step 2 (R230). -/
structure QceCnt where
  bytes : Word64 := 0
  call : Word := 0
  sat : Word := 0
  clamp : Word := 0
  nonfin : Word := 0
  trap : Word := 0
  lastTensor : BitVec 16 := 0
  lastEngine : BitVec 2 := 0
deriving DecidableEq, Repr

/-- The QCE set of one plot. -/
structure QcePlot where
  live : QceCnt := {}
  shown : QceCnt := {}
deriving DecidableEq, Repr

/-- One quantise/convert engine: its call and the pass under way (R221), busy cycles of this frame and the last. -/
structure QceEngine where
  call : Option QceCall := none
  /-- The job whose interrupted call left values in the buffers, which abandonment zeroes (R208, R221). -/
  dirty : Option (PlotId × BitVec 16) := none
  pass : Nat := 0
  busy : Nat := 0
  busyLast : Word := 0
deriving DecidableEq, Repr

/-! ### Power (chapter 11) -/

/-- A PMBus transaction that waits (R304, R305): its rail, its Table 12-8 command and the value a command carries. -/
structure PmbTxn where
  rail : Fin 5
  command : Nat
  value : Nat := 0
  /-- The voltage a VOUT_COMMAND carries, in steps of 2.5 mV. -/
  steps : Nat := 0
deriving DecidableEq, Repr

/-- What the power manager holds of one rail. -/
structure PwrRail where
  /-- Latest sample: raw and calibrated estimate in µA. -/
  raw : Nat := 0
  cal : Nat := 0
  /-- Gain in millionths (R267). -/
  gain : Nat := 1100000
  measValid : Bool := false
  status : BitVec 8 := 0
  /-- Last measured current in mA. -/
  amps : Nat := 0
  /-- A reading has been accepted since ready; the TCLK edge of the latest; CAL_LOST since then. -/
  accepted : Bool := false
  acceptedAt : Nat := 0
  lost : Bool := false
  /-- Commanded or fixed voltage, and the voltage of the latest command sent, in steps of 2.5 mV. -/
  volts : Nat := 0
  want : Nat := 0
  /-- VOUT_MODE exponent of a regulator in linear format (R305). -/
  mode : Option Int := none
  pec : Bool := false
deriving DecidableEq, Repr

/-- A power sample as the limiters see it: calibrated demand currents of the three limited rails (µA), demand by rail,
family and class (µA), calibrated and demand power (pW), demand power by family and class, length in ps, and the raw estimates of
the five rails (µA). -/
structure PwrHist where
  x : List Nat
  d : List (Nat × Nat × Nat × Nat)
  power : Nat
  demand : Nat
  fam : List (Nat × Nat × Nat)
  dt : Nat
  raw : List Nat := []
deriving DecidableEq, Repr

/-- A thermal sensor (R281): its reading in 0.25 °C, whether it has one, and valid samples since it turned faulty. -/
structure Sensor where
  temp : Int := 0
  seen : Bool := false
  fault : Bool := false
  run : Nat := 0
deriving DecidableEq, Repr

/-- The power manager. -/
structure PwrState where
  fixedFreq : Bool := false
  calEn : Bool := true
  trimEn : Bool := true
  event : BitVec 9 := 0
  /-- PWR_ILIM[r][w] at 3r + w (Table 11-8). -/
  ilim : Vector (BitVec 16) 9 := #v[5600, 5000, 4500, 1600, 1400, 1200, 400, 360, 320]
  /-- Levels of limiters 3r + w, 9 cap, 10 thermal, each at 4 × family + class (R269). -/
  levels : Vector (Vector Nat 12) 11 := Vector.replicate 11 (Vector.replicate 12 0)
  lowest : Bool := false
  cause : BitVec 3 := 0
  /-- Limiters whose saturation is a cause of the lowest state; those whose X was above L when last evaluated (R279). -/
  satPend : BitVec 11 := 0
  satOver : BitVec 11 := 0
  /-- The TCLK edges at which each cause was last seen to end. -/
  satClear : Nat := 0
  vrClear : Nat := 0
  droopClear : Nat := 0
  sensClear : Nat := 0
  /-- A droop that persisted is a cause of the lowest state. -/
  droopCause : Bool := false
  lowestCnt : Word := 0
  vrCnt : Word := 0
  droopCnt : Word := 0
  stretch : Word := 0
  band : Nat := 0
  /-- Current FCLK in MHz, and the boost step that waits for its voltage (R276). -/
  fclk : Nat := 1200
  /-- Hundredths of FCLK cycles counted until the TCLK edge `cycAt`, at which FCLK took its present frequency. -/
  cyc : Nat := 0
  cycAt : Nat := 0
  boostNext : Option Nat := none
  /-- The acknowledgement of the latest raising VOUT_COMMAND (R306). -/
  ackAt : Option Nat := none
  rails : Vector PwrRail 5 := Vector.replicate 5 {}
  /-- Samples of the last 10 ms, newest first (R267, R268). -/
  hist : List PwrHist := []
  /-- Steps of 2.5 mV taken off VDD_CORE, 0 to 10 (R275). -/
  trim : Nat := 0
  canaryAt : Option Nat := none
  boostMax : BitVec 8 := 95
  throttle : BitVec 8 := 105
  warn : BitVec 8 := 100
  sens : Vector Sensor 48 := Vector.replicate 48 {}
  warned : Bool := false
  /-- Thermal limit L_T in pW. -/
  lt : Option Nat := none
  droopThresh : BitVec 7 := 40
  /-- A droop holds: FCLK periods are stretched, by 12.5%, or by 25% where `deep` (R278). -/
  droop : Bool := false
  deep : Bool := false
  droopAt : Option Nat := none
  pmb : List PmbTxn := []
  /-- NACKed attempts of the front transaction. -/
  tries : Nat := 0
  /-- Device energy in 10^-18 µJ, modulo 2^48 µJ (R284). -/
  energy : Nat := 0
  wrap : Bool := false
deriving DecidableEq, Repr

/-- The PWR set of one plot. -/
structure PwrPlot where
  energy : Nat := 0
  wrap : Bool := false
  bubbles : Nat := 0
  /-- Energy and time (ps) since the latch of step 2, and what it showed. -/
  frameE : Nat := 0
  frameT : Nat := 0
  shownBubbles : Word := 0
  shownPower : BitVec 16 := 0
deriving DecidableEq, Repr

/-! ### Skoet listen port (chapter 13) -/

/-- What the checks read from an accepted message. -/
structure SktMsg where
  entry : Nat
  seq : BitVec 16
  dsValid : Bool
  status : BitVec 16
  data : List Byte
deriving DecidableEq, Repr

/-- One bank of a key slot: token and 32 key bytes (R321). -/
structure SktBank where
  token : Word
  key : List Byte
deriving DecidableEq, Repr

/-- A received frame whose checks complete at a TCLK edge (R324), with the key banks as its HMAC check found them. -/
structure SktFrame where
  cage : Fin 2
  due : Nat
  bytes : List Byte
  banks : List (Nat × SktBank)
deriving DecidableEq, Repr

/-- What an ingest entry holds (R325 to R328). -/
structure SktEntry where
  valid : Bool := false
  last : SktMsg := { entry := 0, seq := 0, dsValid := false, status := 0, data := [] }
  cage : Fin 2 := 0
  rxTime : Nat := 0
  age : BitVec 16 := 0xFFFF
  new : BitVec 16 := 0
  rx : Word := 0
  gap : Word := 0
  dup : Word := 0
  red : Word := 0
deriving DecidableEq, Repr

/-- One cage (R317). -/
structure SktCage where
  inv : Bool := false
  mode : BitVec 2 := 0
  lock : Bool := false
  los : Bool := false
  modAbs : Bool := false
  down : BitVec 16 := 0
  vcnt : Vector Word 12 := Vector.replicate 12 0
deriving DecidableEq, Repr

/-- The listen port. -/
structure SktState where
  cages : Vector SktCage 2 := Vector.replicate 2 {}
  token : Word := 0
  keyData : Vector Word 8 := Vector.replicate 8 0
  /-- Valid banks by 2 × slot + bank. -/
  banks : List (Nat × SktBank) := []
  violLast : Word := 0
  /-- The ingest table that governs messages and latches: the committed one as of the latest tick (R89). -/
  table : List (List Byte) := []
  /-- Live values by entry number; an entry that is not listed holds its reset values. -/
  entries : List (Nat × SktEntry) := []
  /-- Frames in the receive FIFOs whose checks have not completed. -/
  queue : List SktFrame := []
  /-- Violation types logged in this frame (R330). -/
  logged : BitVec 12 := 0
deriving DecidableEq, Repr

/-- The SKT set of one plot. -/
structure SktPlot where
  stale : Word := 0
  /-- INGEST_STALE was raised since the latest commit window (R328). -/
  raised : Bool := false
deriving DecidableEq, Repr

/-- The PF's interrupt and plot-map registers (Table 2-12). -/
structure PfState where
  irqStatus : BitVec 15 := 0
  irqMask : BitVec 15 := 0x7FFF
  chgMap : BitVec 64 := 0
  faultMap : BitVec 64 := 0
deriving DecidableEq, Repr

/-- One plot: its register sets in every block. -/
structure Plot where
  plt : PltSet := {}
  /-- Jobs in their last frame as a stop of this frame found them, and the indexes then: the frame's reports still tell
  which of them had finished before the event and complete OK (the model's own field). -/
  held : Option (List Job × Vector IndexState 16) := none
  cfg : CfgSet := {}
  msh : MshSet := {}
  /-- RWS registers: shadow, snapshot of this window, committed (R9, R11). -/
  shadow : PlotRws := {}
  snap : PlotRws := {}
  rws : PlotRws := {}
  an : AnPlot := {}
  nse : NsePlot := {}
  fln : FlnPlot := {}
  grf : GrfPlot := {}
  mxe : MxePlot := {}
  qce : QcePlot := {}
  pwr : PwrPlot := {}
  skt : SktPlot := {}
deriving DecidableEq, Repr

/-- What a commit replaced, kept while a hold-off overrun could still leave it unapplied (R39): the state before step 4 of
what step 4 may change. -/
structure Undo where
  /-- Committed and shadow values of plot 0, and the state of the tick source. -/
  dev : DevRws
  shadow : DevRws
  src : SrcState
  cfg : CfgState
  plots : Vector Plot 65
  /-- Plots a committed bundle touched. -/
  touched : List PlotId
  msh : MshState
  mem : List Host.Cell
  lanes : Vector FlashLane 8
  mxes : Vector MxeEngine 16
  partials : List Partial
deriving DecidableEq, Repr

/-- The whole block. -/
structure State where
  /-- Commands waiting, first in, first out (the model's queue). -/
  pending : List Instr := []
  boot : BootState := {}
  aux : AuxState := {}
  fuses : FuseState := {}
  frm : FrmState := {}
  pf : PfState := {}
  fns : Vector FnState 65 := Vector.replicate 65 {}
  hst : HstState := {}
  plots : Vector Plot 65 := Vector.replicate 65 {}
  cfg : CfgState := {}
  undo : Option Undo := none
  msh : MshState := {}
  log : LogState := {}
  att : AttState := {}
  anl : AnState0 := {}
  nse : NseState := {}
  lanes : Vector FlashLane 8 := Vector.replicate 8 {}
  /-- GRF_DEV_GRAFT: grafts harvested by all plots (R192). -/
  devGraft : Word64 := 0
  mxes : Vector MxeEngine 16 := Vector.replicate 16 {}
  partials : List Partial := []
  devMacs : Nat := 0
  /-- The call each helper core cluster runs (R208), and traps of all clusters. -/
  hccs : Vector HccCluster 16 := Vector.replicate 16 {}
  hccTrap : Word := 0
  qces : Vector QceEngine 4 := Vector.replicate 4 {}
  qceBytes : Word64 := 0
  qceTrap : Word := 0
  pwr : PwrState := {}
  skt : SktState := {}
  /-- Plot memory: bytes by plot * 2^36 + plot address; an unlisted byte reads 0 (R309 writes zeros everywhere). -/
  mem : List Host.Cell := []
  /-- What has left the device, oldest first (the model's record). -/
  out : List OutEvent := []
  /-- The latest answer to a reader (the model's record). -/
  resp : Response := {}
  /-- How many free values have been used (the model's counter). -/
  free : Nat := 0
deriving DecidableEq, Repr

/-- The state right after VDD_AUX power-on: PWR_OK low, PERST_N asserted, not ready, every register at its reset value
(R15, R311). -/
def State.reset : State := {}

end Sys2Proof.Machine
end

