-- ==== Sys2Proof/Machine/Memory.lean ====
section
/-!
DEFINITION. Sys2Proof/Machine/Memory.lean: plot memory as a canonical list of cells (addresses strictly rising, no entry
equal to 0, which is what an unlisted byte reads as after memory initialisation, R309), and the private copies of jobs (R54).
-/
namespace Sys2Proof.Machine

/-- The byte a cell list holds at a key; an unlisted key reads 0. -/
def cellGet : List Host.Cell → Nat → Byte
  | [], _ => 0
  | (x, y) :: m, a => if a = x then y else cellGet m a

/-- Write one byte, keeping the canonical form. -/
def cellPut : List Host.Cell → Nat → Byte → List Host.Cell
  | [], a, b => if b = 0 then [] else [(a, b)]
  | (x, y) :: m, a, b =>
    if a < x then (if b = 0 then (x, y) :: m else (a, b) :: (x, y) :: m)
    else if a = x then (if b = 0 then m else (a, b) :: m)
    else (x, y) :: cellPut m a b

/-- Write a run of bytes at consecutive keys. -/
def cellPutMany : List Host.Cell → Nat → List Byte → List Host.Cell
  | m, _, [] => m
  | m, a, b :: bs => cellPutMany (cellPut m a b) (a + 1) bs

/-- Zero every key from `lo` up to but not including `hi` (R60). -/
def cellClear (m : List Host.Cell) (lo hi : Nat) : List Host.Cell :=
  m.filter (fun c => !(decide (lo ≤ c.1) && decide (c.1 < hi)))

/-- The canonical form: every key of the list lies above the bound and rises, no cell is 0. -/
def cellsAbove : Nat → List Host.Cell → Bool
  | _, [] => true
  | lo, (x, y) :: m => decide (lo ≤ x) && !(y == 0) && cellsAbove (x + 1) m

/-- The canonical form of memory. -/
def Memory.wf (m : List Host.Cell) : Bool := cellsAbove 0 m

/-- Write every cell of a list. -/
def applyOver (m : List Host.Cell) (o : List Host.Cell) : List Host.Cell :=
  o.foldl (fun m c => cellPut m c.1 c.2) m

/-- The cells of a range of keys. -/
def cellsIn (m : List Host.Cell) (lo hi : Nat) : List Host.Cell :=
  m.filter (fun c => decide (lo ≤ c.1) && decide (c.1 < hi))

/-- Bytes of one plot's 36-bit address space (R111). -/
def plotSpan : Nat := 2 ^ 36

/-- The memory key of a plot address. -/
def memKey (q : PlotId) (a : Nat) : Nat := q.val * plotSpan + a

/-- One byte of a plot's memory. -/
def State.peekMem (s : State) (q : PlotId) (a : Nat) : Byte := cellGet s.mem (memKey q a)

/-- Write bytes of a plot's memory. -/
def State.pokeMem (s : State) (q : PlotId) (a : Nat) (bs : List Byte) : State :=
  { s with mem := cellPutMany s.mem (memKey q a) bs }

/-- Zero a range of a plot's memory, none of another's (R60). -/
def State.wipeMem (s : State) (q : PlotId) (lo hi : Nat) : State :=
  { s with mem := cellClear s.mem (memKey q lo) (memKey q (min hi plotSpan)) }

/-- `n` bytes of a plot's memory. -/
def State.plotBytes (s : State) (q : PlotId) (a n : Nat) : List Byte :=
  (List.range n).map (fun i => s.peekMem q (a + i))

/-- One byte as a job reads it: its own copy of the page, else the original (R115). -/
def jobByte (s : State) (q : PlotId) (j : Job) (a : Nat) : Byte :=
  if j.copies.contains (a / 65536) then cellGet j.ovl (memKey q a) else s.peekMem q a

/-- `n` bytes as a job reads them. -/
def jobBytes (s : State) (q : PlotId) (j : Job) (a n : Nat) : List Byte :=
  (List.range n).map (fun i => jobByte s q j (a + i))

/-- The job with bytes written into its private copies (R54). -/
def Job.put (j : Job) (q : PlotId) (a : Nat) (bs : List Byte) : Job :=
  { j with ovl := cellPutMany j.ovl (memKey q a) bs }

/-- The job with its private copy of a page: the page's bytes as they stand (R115). -/
def Job.takePage (j : Job) (q : PlotId) (page : Nat) (m : List Host.Cell) : Job :=
  { j with
    copies := j.copies ++ [page],
    ovl := applyOver j.ovl (cellsIn m (memKey q (65536 * page)) (memKey q (65536 * (page + 1)))) }

/-- Pages of a plot are replaced whole by the copies a job holds (R54, R115). -/
def replacePages (m : List Host.Cell) (q : PlotId) (j : Job) (pages : List Nat) : List Host.Cell :=
  pages.foldl (fun m p =>
    let lo := memKey q (65536 * p)
    let hi := memKey q (65536 * (p + 1))
    applyOver (cellClear m lo hi) (cellsIn j.ovl lo hi)) m

end Sys2Proof.Machine
end

