-- ==== Sys2Proof/Machine/Ops.lean ====
section
/-!
DEFINITION. Sys2Proof/Machine/Ops.lean: the operations every block shares: time, requests and messages of a function
(R291, R298), interrupt causes (R62, R63), log lines (R349 to R353), plot access and the state of a plot (R44).
-/
namespace Sys2Proof.Machine

/-- What a command's meaning answers. -/
abbrev Result := Host.Outcome State Fault Refusal

/-! ### Plots, functions, time -/

/-- One plot. -/
def State.plot (s : State) (q : PlotId) : Plot := s.plots[q]

/-- Change one plot. -/
def State.modPlot (s : State) (q : PlotId) (f : Plot → Plot) : State :=
  { s with plots := s.plots.set q (f s.plots[q]) }

/-- Change the PLT set of one plot. -/
def State.modPlt (s : State) (q : PlotId) (f : PltSet → PltSet) : State :=
  s.modPlot q (fun p => { p with plt := f p.plt })

/-- Change the MSH set of one plot. -/
def State.modMsh (s : State) (q : PlotId) (f : MshSet → MshSet) : State :=
  s.modPlot q (fun p => { p with msh := f p.msh })

/-- Change the CFG set of one plot. -/
def State.modCfgSet (s : State) (q : PlotId) (f : CfgSet → CfgSet) : State :=
  s.modPlot q (fun p => { p with cfg := f p.cfg })

/-- Change one function. -/
def State.modFn (s : State) (f : Fn) (g : FnState → FnState) : State :=
  { s with fns := s.fns.set f (g s.fns[f]) }

/-- Change the frame block. -/
def State.modFrm (s : State) (g : FrmState → FrmState) : State := { s with frm := g s.frm }

/-- Change the ATT set of one function. -/
def State.modAtt (s : State) (q : PlotId) (g : AttSet → AttSet) : State :=
  { s with att := { s.att with sets := s.att.sets.set q (g s.att.sets[q]) } }

/-- Something happens for each plot of a list, in its order. -/
def State.eachPlot (s : State) (l : List PlotId) (f : State → PlotId → State) : State := l.foldl f s

/-- Is the device ready (R309)? -/
def State.isReady (s : State) : Bool := s.boot.phase == .ready

/-- FRM_TIME: 10 ns per TCLK edge since ready, 0 before it (R16, R17). -/
def State.frmTime (s : State) : Nat :=
  if s.isReady then min (10 * (s.boot.tclk - s.boot.readyAt)) (2 ^ 64 - 1) else 0

/-- Time passes until a TCLK edge; it never goes back. -/
def State.advanceTo (s : State) (t : Nat) : State := { s with boot := { s.boot with tclk := max s.boot.tclk t } }

/-- One free value (the spec leaves it open); the counter moves on so that the next one differs. -/
def State.takeFree (s : State) : Word64 × State := (Config.freeWord s.free, { s with free := s.free + 1 })

/-! ### Requests and messages -/

/-- May the device issue requests on behalf of a function (R292, R301)? -/
def State.permitted (s : State) (f : Fn) : Bool := s.fns[f].bme && !s.fns[f].d3 && !s.fns[(0 : Fn)].d3

/-- Something leaves the device. -/
def State.emit (s : State) (e : OutEvent) : State := { s with out := s.out ++ [e] }

/-- The Device Control fields that govern every function: the PF's (R289). -/
def State.devCtl (s : State) : DeviceControl := s.fns[(0 : Fn)].ctl

/-- Max_Payload_Size in bytes, of which 512 are supported (Table 12-1). -/
def State.maxPayload (s : State) : Nat := min (128 * 2 ^ s.devCtl.payload.toNat) 512

/-- Max_Read_Request_Size in bytes, up to 4,096 (Table 12-1). -/
def State.maxRead (s : State) : Nat := min (128 * 2 ^ s.devCtl.readReq.toNat) 4096

/-- How many bits the tags of requests have (R289, Table 12-1). -/
def State.tagBits (s : State) : Nat := if s.devCtl.tenBitTag then 10 else if s.devCtl.extTag then 8 else 5

/-- How many reads may be outstanding (Table 12-1). -/
def State.readLimit (s : State) : Nat := if s.devCtl.tenBitTag then 768 else if s.devCtl.extTag then 256 else 32

/-- The completion timeout in TCLK periods (R289): 40 ms by default, 9 ms in Range A, the upper end of the value in Range B
(PRESUMED: the codes and their ranges are the base specification's, log entry 229). -/
def State.completionTimeout (s : State) : Nat :=
  match s.devCtl.timeout.toNat with
  | 1 | 2 => 900000
  | 5 => 5500000
  | 6 => 21000000
  | _ => 4000000

/-- A posted write of a function; none leaves while requests are not permitted (R292). -/
def State.hostWrite (s : State) (f : Fn) (addr : Nat) (data : List Byte) (relaxed : Bool) : State :=
  if s.permitted f then s.emit (.write f addr data relaxed s.maxPayload) else s

/-- A reader of a plot reads host memory, under the plot's Requester ID (R291). -/
def State.hostRead (s : State) (q : PlotId) (u : DmaUser) (addr len : Nat) : State :=
  { s with hst := { s.hst with
      asked := (q, u, s.boot.tclk) :: s.hst.asked.filter (fun a => !(a.1 == q && a.2.1 == u)) } }.emit
    (.readReq q addr len s.maxRead s.tagBits)

/-! ### AER (R299, Table 12-5) -/

/-- An uncorrectable error of a function is logged at its bit: the status bit, the first error and its header where none is
recorded, and a report where it is not masked. The header is the packet's, which no command carries: a free value (DESIGN
CHOICE, log entry 234). -/
def State.aerError (s : State) (f : Fn) (bit : Nat) : State :=
  let a := s.fns[f].aer
  let masked := a.uncorrMask.getLsbD bit
  let lo := s.takeFree
  let hi := lo.2.takeFree
  let (s, a) := if masked || a.first.isSome then (s, a)
    else (hi.2, { a with first := some bit, header := hi.1 ++ lo.1 })
  let s := s.modFn f (fun g => { g with aer := { a with uncorr := setBit a.uncorr bit true } })
  if masked then s else s.emit (.aer f bit (if a.severity.getLsbD bit then 2 else 1))

/-- A correctable error of a function. -/
def State.aerCorrectable (s : State) (f : Fn) (bit : Nat) : State :=
  let masked := s.fns[f].aer.corrMask.getLsbD bit
  let s := s.modFn f (fun g => { g with aer := { g.aer with corr := setBit g.aer.corr bit true } })
  if masked then s else s.emit (.aer f bit 0)

/-- A vector's message falls due (R298). -/
def State.sendVector (s : State) (f : Fn) (v : Fin 32) : State :=
  let fn := s.fns[f]
  if !fn.msixEn then s
  else if fn.msix[v].mask || fn.fmask || !s.permitted f then
    s.modFn f (fun g => { g with pba := setBit g.pba v.val true })
  else s.emit (.msix f fn.msix[v].addr.toNat fn.msix[v].data)

/-- Messages of several vectors of one function, one each. -/
def State.sendVectors (s : State) (f : Fn) (vs : List (Fin 32)) : State := vs.foldl (fun s v => s.sendVector f v) s

/-- Held messages that may now go: vectors of a function whose PBA bit is 1 and that are unmasked and permitted (R298). -/
def State.releasePba (s : State) (f : Fn) : State :=
  (List.finRange 32).foldl (fun s v =>
    let fn := s.fns[f]
    if fn.pba.getLsbD v.val && fn.msixEn && !fn.msix[v].mask && !fn.fmask && s.permitted f then
      (s.modFn f (fun g => { g with pba := setBit g.pba v.val false })).emit
        (.msix f fn.msix[v].addr.toNat fn.msix[v].data)
    else s) s

/-! ### Interrupt causes (Tables 2-8 and 2-9) -/

/-- A PF cause rises (R63): its message is sent when the cause goes from 0 to 1 unmasked. -/
def State.raisePf (s : State) (c : Fin 15) : State :=
  let rises := !s.pf.irqStatus.getLsbD c.val
  let s := { s with pf := { s.pf with irqStatus := setBit s.pf.irqStatus c.val true } }
  if rises && !s.pf.irqMask.getLsbD c.val then s.sendVector 0 ⟨c.val, by omega⟩ else s

/-- The vector of a plot cause (PLT_IRQ_VEC0, PLT_IRQ_VEC1). -/
def PltSet.vector (p : PltSet) (c : Nat) : Nat :=
  if c < 8 then fieldOf p.vec0.toNat (4 * c + 3) (4 * c) else fieldOf p.vec1.toNat (4 * c - 29) (4 * c - 32)

/-- The distinct vectors of the causes whose bits are set. -/
def PltSet.vectorsOf (p : PltSet) (m : BitVec 13) : List (Fin 32) :=
  ((List.range 13).filter (fun c => m.getLsbD c)).foldl
    (fun l c => let v : Fin 32 := ⟨p.vector c % 32, Nat.mod_lt _ (by decide)⟩; if l.contains v then l else l ++ [v]) []

/-- Causes of a plot rise in one cycle (R62): one message per distinct vector of those that go from 0 to 1 unmasked. -/
def State.raisePlot (s : State) (q : PlotId) (m : BitVec 13) : State :=
  let p := (s.plot q).plt
  let rising := m &&& ~~~p.irqStatus &&& ~~~p.irqMask
  (s.modPlt q (fun p => { p with irqStatus := p.irqStatus ||| m })).sendVectors q (p.vectorsOf rising)

/-! ### Log lines (R349 to R353) -/

/-- No plot applies to a log line (Table 14-5). -/
def noPlot : Nat := 0xFF

/-- A line is written at LOG_NEXT (R350); it counts for its plot and raises PF cause LOG (R351). -/
def State.logLine (s : State) (code plot : Nat) (node : Option NodeId) (arg0 arg1 : Nat) : State :=
  let l := s.log
  let line : LogLine := { seq := l.next.toNat, time := s.frmTime, code, plot, node, arg0, arg1 }
  let full := decide (8192 ≤ l.lines.length)
  let lostNow := full && (match l.lines.getLast? with | some o => decide (l.ack.toNat < o.seq) | none => false)
  let lines := line :: (if full then l.lines.dropLast else l.lines)
  let l := { l with next := satInc l.next, lines := lines, lost := if lostNow then satInc l.lost else l.lost }
  let l := if h : plot < 65 then
      if plot = 0 then l else
        { l with pcnt := l.pcnt.set plot (satInc l.pcnt[plot]), plast := l.plast.set plot (BitVec.ofNat 16 code) }
    else l
  ({ s with log := l }).raisePf 0

/-- A line withheld under a once-per-frame limit (R351). -/
def State.logSuppressed (s : State) : State := { s with log := { s.log with suppress := satInc s.log.suppress } }

/-- A FRM_EVENT bit is set (Table 1-13): the PF cause FRM, and the TICK line once per frame (Table 14-6). -/
def State.frmEvent (s : State) (b : Fin 9) : State :=
  let s := s.modFrm (fun f => { f with event := setBit f.event b.val true, eventFrame := setBit f.eventFrame b.val true })
  let s := s.raisePf 1
  if b.val = 4 ∨ b.val = 7 ∨ b.val = 2 then
    if s.frm.tickLogged then s.logSuppressed
    else (s.modFrm (fun f => { f with tickLogged := true })).logLine 0x80 noPlot none s.frm.eventFrame.toNat
      (10 * (s.frm.tickAt - s.boot.readyAt))
  else s

/-! ### Plot state (Table 2-2) -/

/-- The first two conditions of R42, and R301: what PLT_STATUS.VF_READY reads. -/
def State.vfReady (s : State) (p : PlotId) : Bool :=
  s.hst.vfEn && decide (0 < p.val) && decide (p.val ≤ s.hst.numVfs.toNat) && s.permitted p

/-- PLT_STATUS.STATE takes a value; a change sets the plot's PLT_CHG_MAP bit and raises STATE and PLOT_STATE. -/
def State.setPlotState (s : State) (q : PlotId) (st : PlotState) : State :=
  if (s.plot q).plt.state = st then s
  else
    let s := s.modPlt q (fun p => { p with state := st })
    let s := { s with pf := { s.pf with chgMap := setBit s.pf.chgMap (q.val - 1) true } }
    (s.raisePlot q 0x10).raisePf 4

/-- Codes of Table 2-7. -/
def Code.num : Code → Nat
  | .ok => 0x00 | .cancelled => 0x01 | .overrun => 0x02 | .noFit => 0x03 | .desc => 0x04 | .image => 0x05
  | .hostDma => 0x06 | .engine => 0x07 | .multicast => 0x08 | .flash => 0x09 | .sideFull => 0x0A | .tape => 0x0B

/-- Precedence of the codes (R67): Table 2-7 lists them highest first. -/
def Code.rank : Code → Nat
  | .cancelled => 11 | .hostDma => 10 | .engine => 9 | .multicast => 8 | .flash => 7 | .tape => 6 | .sideFull => 5
  | .overrun => 4 | .image => 3 | .desc => 2 | .noFit => 1 | .ok => 0

/-- Which codes are restartable (Table 2-7). -/
def Code.restartable : Code → Bool
  | .engine | .multicast | .flash | .overrun => true
  | _ => false

/-- PLT_STATUS.STATE codes (Table 2-13). -/
def PlotState.num : PlotState → Nat
  | .unassigned => 0 | .disabled => 1 | .idle => 2 | .running => 3 | .stopping => 4 | .clearing => 5

/-- A job counts as admitted from its admission until a step 6 releases its claims (R25, PLT_STATUS.ADMITTED). -/
def Job.admitted (j : Job) : Bool := !j.unran && !j.released

/-- An admitted job that has not completed. -/
def Job.live (j : Job) : Bool := j.admitted && !(j.phase == .over)

/-- Admitted jobs of a plot. -/
def PltSet.admitted (p : PltSet) : Nat := (p.jobs.filter Job.admitted).length

/-- Find a live job of a plot by submission index. -/
def PltSet.job? (p : PltSet) (i : BitVec 16) : Option Job := p.jobs.find? (fun j => j.idx == i && j.live)

/-- Change the live job of a plot that has a submission index. -/
def State.modJob (s : State) (q : PlotId) (i : BitVec 16) (f : Job → Job) : State :=
  s.modPlt q (fun p => { p with jobs := p.jobs.map (fun j => if j.idx == i && j.live then f j else j) })

end Sys2Proof.Machine
end

