-- ==== Sys2Proof/Machine/Operands.lean ====
section
/-!
DEFINITION. Sys2Proof/Machine/Operands.lean: reading the structures the device is given: the node map (Table 4-2),
descriptors, images and claims (Tables 2-3a to 2-3c), plot map and route entries (Tables 3-7, 4-5), plot addresses
(Table 4-9), and the RWS register values as register words.
-/
namespace Sys2Proof.Machine

/-! ### The node map (R92) -/

/-- Node kinds (MSH_NODE_INFO.KIND). -/
inductive NodeKind where
  | at_ | mxe | hcc | qce | fle | svc | cmn
deriving DecidableEq, Repr

/-- Kind code of MSH_NODE_INFO. -/
def NodeKind.num : NodeKind → Nat
  | .at_ => 0 | .mxe => 1 | .hcc => 2 | .qce => 3 | .fle => 4 | .svc => 5 | .cmn => 6

/-- Kind and family index of a node (Table 4-2). -/
def nodeKind (n : Nat) : NodeKind × Nat :=
  let x := n % 12
  let y := n / 12
  if y = 0 then
    if x = 0 then (.svc, 0) else if x = 11 then (.svc, 1)
    else if x ≤ 4 then (.fle, x - 1) else if x ≤ 6 then (.cmn, x - 5) else (.fle, x - 3)
  else if y = 9 then
    if x = 0 then (.svc, 2) else if x = 11 then (.svc, 3)
    else if x ≤ 2 then (.qce, x - 1) else if x ≤ 8 then (.cmn, x - 1) else (.qce, x - 7)
  else
    if x = 0 then (.hcc, 2 * (y - 1)) else if x = 11 then (.hcc, 2 * (y - 1) + 1)
    else if x ≤ 4 then (.at_, 8 * (y - 1) + x - 1)
    else if x ≤ 6 then (.mxe, 2 * (y - 1) + x - 5)
    else (.at_, 8 * (y - 1) + x - 3)

/-- The node of a kind and family index (Table 4-2): the inverse of `nodeKind`. -/
def nodeOf (k : NodeKind) (i : Nat) : Nat :=
  match k with
  | .at_ => 12 * (1 + i / 8) + (1 + i % 8 + (if i % 8 < 4 then 0 else 2))
  | .mxe => 12 * (1 + i / 2) + 5 + i % 2
  | .hcc => 12 * (1 + i / 2) + 11 * (i % 2)
  | .qce => if i < 2 then 109 + i else 115 + i
  | .fle => if i < 4 then 1 + i else 3 + i
  | .svc => if i = 0 then 0 else if i = 1 then 11 else if i = 2 then 108 else 119
  | .cmn => if i < 2 then 5 + i else 109 + i

/-- A node number as a node. -/
def mkNode (n : Nat) : NodeId := ⟨n % 120, Nat.mod_lt _ (by decide)⟩

/-! ### Plot map (Table 3-7) -/

/-- The plot map entry of a plot in a content; an empty content owns nothing. -/
def Content.pmapOf (c : Content) (q : Nat) : List Byte :=
  match c.pmap.find? (fun e => leAt e 0 1 == q) with
  | some e => e
  | none => []

/-- AT_MASK of a plot. -/
def Content.tiles (c : Content) (q : Nat) : BitVec 64 := BitVec.ofNat 64 (leAt (c.pmapOf q) 4 8)

/-- MXE_MASK of a plot. -/
def Content.mxes (c : Content) (q : Nat) : BitVec 16 := BitVec.ofNat 16 (leAt (c.pmapOf q) 12 2)

/-- Query contexts of a plot on a lane. -/
def Content.ctx (c : Content) (q : Nat) (lane : Nat) : Nat := leAt (c.pmapOf q) (16 + lane) 1

/-- Query contexts of a plot on all lanes. -/
def Content.ctxTotal (c : Content) (q : Nat) : Nat := sumNat ((List.range 8).map (c.ctx q))

/-- Commons quota of a plot in pages. -/
def Content.quota (c : Content) (q : Nat) : Nat := leAt (c.pmapOf q) 2 2

/-- The set bits of a mask, ascending: within-plot index order (Table 3-7). -/
def maskList {w : Nat} (m : BitVec w) : List Nat := (List.range w).filter (fun i => m.getLsbD i)

/-- Anneal tiles of a plot in within-plot order. -/
def Content.tileList (c : Content) (q : Nat) : List Nat := maskList (c.tiles q)

/-- Matrix engines of a plot in within-plot order. -/
def Content.mxeList (c : Content) (q : Nat) : List Nat := maskList (c.mxes q)

/-- Does the plot own anything at all (R42)? -/
def Content.ownsAny (c : Content) (q : Nat) : Bool :=
  !(c.tiles q == 0) || !(c.mxes q == 0) || decide (0 < c.ctxTotal q)

/-- The plot that owns an anneal tile, 0 for none. -/
def Content.tileOwner (c : Content) (t : Nat) : Nat :=
  match (List.range 65).find? (fun q => decide (0 < q) && (c.tiles q).getLsbD t) with | some q => q | none => 0

/-- The plot that owns a matrix engine, 0 for none. -/
def Content.mxeOwner (c : Content) (m : Nat) : Nat :=
  match (List.range 65).find? (fun q => decide (0 < q) && (c.mxes q).getLsbD m) with | some q => q | none => 0

/-- The section of a type a plot has, if any. -/
def Content.sec (c : Content) (type q : Nat) : Option Section := c.secs.find? (fun x => x.type == type && x.plot == q)

/-- Entries of one ETYPE of a section. -/
def Section.ofType (x : Section) (t : Nat) : List (List Byte) := x.entries.filter (fun e => leAt e 0 1 == t)

/-! ### Claims (R27, R50) -/

/-- The node a claim names in a plot, if it names one (R92). -/
def claimNode (c : Content) (q : Nat) (cl : Claim) : Option Nat :=
  match cl.kind with
  | 0 => (c.tileList q)[cl.index]?.map (nodeOf .at_)
  | 1 => (c.mxeList q)[cl.index]?.map (nodeOf .mxe)
  | _ => if cl.index < 120 then some cl.index else none

/-- Cycles a job claims on a node. -/
def Job.claimOn (c : Content) (q : Nat) (j : Job) (n : Nat) : Nat :=
  sumNat ((j.img.claims.filter (fun cl => claimNode c q cl == some n)).map (·.cycles))

/-- Summed claims of the admitted jobs on a node (R25, FRM_CLAIM). -/
def State.claimSum (s : State) (n : Nat) : Nat :=
  sumNat (allPlots.map (fun q =>
    sumNat (((s.plot q).plt.jobs.filter Job.admitted).map (fun j => j.claimOn s.cfg.content q.val n))))

/-- One claim entry read from its 64-bit word (Table 2-3c). -/
def claimOfWord (w : Nat) : Claim :=
  { kind := fieldOf w 43 40, index := fieldOf w 38 32, cycles := fieldOf w 26 0 }

/-- Is a claim entry's word acceptable under R50? -/
def claimWordOk (w : Nat) : Bool :=
  let k := fieldOf w 43 40
  let i := fieldOf w 38 32
  fieldOf w 63 44 == 0 && !bitOf w 39 && fieldOf w 31 27 == 0 && decide (k ≤ 4) &&
    (match k with
     | 0 => decide (i ≤ 63)
     | 1 => decide (i ≤ 15)
     | 2 => decide (i < 120) && (nodeKind i).1 == .hcc
     | 3 => decide (i < 120) && (nodeKind i).1 == .qce
     | _ => decide (i < 120) && (nodeKind i).1 == .fle)

/-! ### Descriptors and images (R49, R50) -/

/-- The fields of a descriptor (Table 2-3a). -/
def descOf (b : List Byte) : Desc :=
  let f := leAt b 2 1
  { tag := BitVec.ofNat 16 (leAt b 0 2), irq := bitOf f 0, fence := bitOf f 1, reuse := bitOf f 2,
    restarts := leAt b 3 1 % 8, imageLen := leAt b 4 4, imageAddr := leAt b 8 8, inAddr := leAt b 16 8,
    inLen := leAt b 24 4, outLen := leAt b 28 4, outAddr := leAt b 32 8, user := BitVec.ofNat 64 (leAt b 40 8) }

/-- The checks of R50 that a descriptor alone decides (fault code DESC). -/
def descOk (b : List Byte) : Bool :=
  let d := descOf b
  crcOk b 0 60 60 && fieldOf (leAt b 2 1) 7 3 == 0 && fieldOf (leAt b 3 1) 7 3 == 0 && zeroAt b 48 12 &&
    d.inAddr % 64 == 0 && d.outAddr % 64 == 0 &&
    (d.reuse || (d.imageAddr % 64 == 0 && decide (64 ≤ d.imageLen) && decide (d.imageLen ≤ 16777216) &&
      d.imageLen % 64 == 0))

/-- The claim words of an image of `n` claim entries. -/
def claimWords (b : List Byte) (n : Nat) : List Nat := (List.range n).map (fun i => leAt b (64 + 8 * i) 8)

/-- The image a byte string holds, or none where R50 says IMAGE. -/
def imageOf (b : List Byte) (len : Nat) (ops : List (Nat × Nat)) : Option Image :=
  let n := leAt b 12 2
  let ws := claimWords b n
  let cs := ws.map claimOfWord
  let frames := leAt b 8 4
  if leAt b 0 4 == 0x4A374E41 && leAt b 4 2 == 1 && zeroAt b 6 2 && zeroAt b 14 2 && zeroAt b 28 28 &&
      crcOk b 0 60 60 && leAt b 56 4 == (crc32c ((b.drop 64).take (len - 64))).toNat &&
      decide (1 ≤ frames) && decide (frames ≤ 16777215) && decide (1 ≤ n) && decide (n ≤ 128) &&
      decide (64 + 8 * n ≤ len) && ws.all claimWordOk && noDup (cs.map (fun c => (c.kind, c.index)))
  then some { frames, claims := cs, inMin := leAt b 16 4, outMax := leAt b 20 4, wrPages := leAt b 24 4, ops }
  else none

/-! ### Ring arithmetic (R45) -/

/-- Occupancy of a ring: (tail - head) mod 65,536. -/
def occupancy (tail head : BitVec 16) : Nat := (tail - head).toNat

/-- Host address of a ring entry. -/
def ringAddr (base : Word64) (i : BitVec 16) : Nat := base.toNat + 64 * (i.toNat % 256)

/-! ### The frame's figures (R20, R23) -/

/-- FRM_ADMIT_CLK.CYC_PER_US: K of R23. -/
def FuseState.cycPerUs (f : FuseState) : Nat := if f.gradeF then 1000 else 1200

/-- Admissible cycles A of R23. -/
def admissible (p k l : Nat) : Nat := p * k * l / 1000 - 64

/-- A of the committed registers. -/
def State.admitA (s : State) : Nat := admissible s.frm.rws.period.toNat s.fuses.cycPerUs s.frm.rws.limit.toNat

/-- Is PPS_VALID 1 at a TCLK edge: the latest two edges met R33, and the next is not overdue? -/
def ppsValidAt (f : FrmState) (t : Nat) : Bool :=
  f.ppsValid && (match f.ppsLast with | some l => decide (t ≤ l + 100010000) | none => false)

/-! ### Plot addresses (R111, R112) -/

/-- Home pages of an anneal tile slice. -/
def MshSet.atHome (m : MshSet) : Nat := 384 - min m.atCache.toNat 384

/-- Home pages of a matrix engine slice. -/
def MshSet.mxeHome (m : MshSet) : Nat := 256 - min m.mxeCache.toNat 256

/-- Home pages of the commons quota. -/
def MshSet.cmnHome (m : MshSet) (quota : Nat) : Nat := quota - min m.cmnCache.toNat quota

/-- Where a plot address lies (Table 4-9). -/
inductive Region where
  | tile (index : Nat) (page : Nat)
  | engine (index : Nat) (page : Nat)
  | commons (page : Nat)
  | backed (page : Nat)
  | unmapped
deriving DecidableEq, Repr

/-- The region of a plot address in a plot (R111). -/
def region (c : Content) (q : Nat) (m : MshSet) (a : Nat) : Region :=
  if a < 0x80000000 then
    let t := a / 0x2000000
    let p := a % 0x2000000 / 65536
    if t < (c.tileList q).length ∧ p < m.atHome then .tile t p else .unmapped
  else if a < 0x90000000 then
    let t := (a - 0x80000000) / 0x1000000
    let p := (a - 0x80000000) % 0x1000000 / 65536
    if t < (c.mxeList q).length ∧ p < m.mxeHome then .engine t p else .unmapped
  else if a < 0x9B000000 then
    let p := (a - 0x90000000) / 65536
    if p < m.cmnHome (c.quota q) then .commons p else .unmapped
  else if a < 0x800000000 then .unmapped
  else if a < 0x1000000000 then .backed ((a - 0x800000000) / 65536)
  else .unmapped

/-- Is every byte of a range a home page of the plot? -/
def homeRange (c : Content) (q : Nat) (m : MshSet) (a n : Nat) : Bool :=
  (List.range ((a + n - 1) / 65536 - a / 65536 + 1)).all (fun i =>
    match region c q m ((a / 65536 + i) * 65536) with
    | .tile _ _ | .engine _ _ | .commons _ => true
    | _ => false)

/-- The node that holds a home page's frame: the slice's node, or the bank of a commons page (R111, R113). -/
def homeNode (s : State) (q : PlotId) (a : Nat) : Option NodeId :=
  let c := s.cfg.content
  match region c q.val (s.plot q).msh a with
  | .tile t _ => (c.tileList q.val)[t]?.map (fun i => mkNode (nodeOf .at_ i))
  | .engine t _ => (c.mxeList q.val)[t]?.map (fun i => mkNode (nodeOf .mxe i))
  | .commons p => (s.msh.quota.find? (fun x => x.plot == q.val && x.i == p)).map (fun x => mkNode (nodeOf .cmn x.bank))
  | _ => none

/-- Is a mesh line in a commons page (Table 4-10)? -/
def quotaPageLine (x : QuotaPage) (l : Nat) : Bool :=
  decide (nodeOf .cmn x.bank * 2 ^ 25 + 65536 * x.page = l / 65536 * 65536)

/-- Is a mesh line in a commons page of a plot's quota? -/
def quotaLine (m : MshState) (q : Nat) (l : Nat) : Bool := m.quota.any (fun x => x.plot == q && quotaPageLine x l)

/-- Is a mesh line in a slice or local SRAM of a plot's engines? -/
def engineLine (c : Content) (q : Nat) (l : Nat) : Bool :=
  match nodeKind (l / 2 ^ 25) with
  | (.at_, i) => (c.tiles q).getLsbD i
  | (.mxe, i) => (c.mxes q).getLsbD i
  | _ => false

/-! ### Route entries (Table 4-5) -/

/-- Fields of a route entry. -/
structure Route where
  plot : Nat
  kind : Nat
  src : Nat
  dst : Nat
  start : Nat
  flits : Nat
  path : Nat
  id : Nat
deriving DecidableEq, Repr

/-- A route entry's fields. -/
def routeOf (b : List Byte) : Route :=
  { plot := leAt b 0 1, kind := leAt b 1 1, src := leAt b 2 1, dst := leAt b 3 1, start := leAt b 4 2,
    flits := leAt b 6 2, path := leAt b 8 1, id := leAt b 10 2 }

/-- Targets of a KIND 3 entry: nodes 12 to 107. -/
def routeTargets (b : List Byte) : List Nat :=
  let m := leAt b 2 12
  ((List.range 96).filter (fun i => bitOf m i)).map (· + 12)

/-- The route entry of a plot with an identifier, with the targets its extension names. -/
def findRoute (rs : List (List Byte)) (q id : Nat) : Option (Route × List Nat) :=
  match rs with
  | [] => none
  | e :: rest =>
    let r := routeOf e
    if r.plot = q ∧ r.id = id ∧ r.kind < 3 then
      match rest with
      | e2 :: _ => if (routeOf e2).kind = 3 then some (r, routeTargets e2) else some (r, [r.dst])
      | [] => some (r, [r.dst])
    else findRoute rest q id

end Sys2Proof.Machine
end

