-- ==== Sys2Proof/Machine/Geometry.lean ====
section
/-!
DEFINITION. Sys2Proof/Machine/Geometry.lean: latencies and routes on the 12 x 10 mesh (R95, R96), the lane lag of a plot
(R132), and the link slots a scheduled route entry occupies (R99, R100).
-/
namespace Sys2Proof.Machine

/-- Latency of the direct path along a row or column, 2 FCLK cycles a hop (Table 4-4). -/
def directLat (a b : Nat) : Nat := 2 * ((a - b) + (b - a))

/-- Latency of the path through the wrap link of a dimension of `n` nodes whose wrap takes `w` cycles. -/
def wrapLat (n w a b : Nat) : Nat := 2 * (min a b) + w + 2 * (n - 1 - max a b)

/-- Latency in one dimension: the wrap only when strictly lower (R96). -/
def dimLat (n w a b : Nat) : Nat := min (directLat a b) (if a = b then 0 else wrapLat n w a b)

/-- Path latency between two nodes, X before Y (R96). -/
def pathLat (a b : Nat) : Nat := dimLat 12 12 (a % 12) (b % 12) + dimLat 10 10 (a / 12) (b / 12)

/-- Lane lag of a plot's tiles in flip slots (R132); 0 where the plot has no tile. -/
def laneLag (c : Content) (q : Nat) : Nat :=
  let ns := (c.tileList q).map (nodeOf .at_)
  if ns.isEmpty then 0
  else
    let d := (ns.flatMap (fun a => ns.map (fun b => pathLat a b))).foldl max 0
    2 + ceilDiv d 4

/-- One step along a dimension of `n` nodes towards `b`: by the wrap link side, or directly. -/
def stepTo (n : Nat) (wrap : Bool) (a b : Nat) : Nat :=
  let up := if wrap then decide (b < a) else decide (a < b)
  if up then (a + 1) % n else (a + n - 1) % n

/-- Links of a walk along one dimension: positions left behind with the latency at which each is left, in slots. Past the
wrap link the walk goes straight to its end (R99: a wrap bit never makes a path circle the mesh). -/
def walk (n w : Nat) (wrap : Bool) (b : Nat) : Nat → Nat → Nat → List (Nat × Nat × Nat)
  | 0, _, _ => []
  | fuel + 1, a, d =>
    if a = b then []
    else
      let a' := stepTo n wrap a b
      let crossed := decide ((a = 0 ∧ a' = n - 1) ∨ (a = n - 1 ∧ a' = 0))
      (a, a', d) :: walk n w (wrap && !crossed) b fuel a' (d + (if crossed then w else 2) / 2)

/-- Sum of the slots a walk takes. -/
def walkLen (n w : Nat) (wrap : Bool) (a b : Nat) : Nat :=
  match (walk n w wrap b n a 0).getLast? with
  | some (x, y, d) => d + (if (x = 0 ∧ y = n - 1) ∨ (x = n - 1 ∧ y = 0) then w else 2) / 2
  | none => 0

/-- Links of the route from a node to another under a PATH byte, each as (from node, to node, d) (Table 4-5, R100). -/
def routeLinks (path src dst : Nat) : List (Nat × Nat × Nat) :=
  let yx := bitOf path 0
  let xw := bitOf path 1
  let yw := bitOf path 2
  let sx := src % 12
  let sy := src / 12
  let dx := dst % 12
  let dy := dst / 12
  if yx then
    let l1 := (walk 10 10 yw dy 10 sy 0).map (fun e => (12 * e.1 + sx, 12 * e.2.1 + sx, e.2.2))
    let l2 := (walk 12 12 xw dx 12 sx (walkLen 10 10 yw sy dy)).map (fun e => (12 * dy + e.1, 12 * dy + e.2.1, e.2.2))
    l1 ++ l2
  else
    let l1 := (walk 12 12 xw dx 12 sx 0).map (fun e => (12 * sy + e.1, 12 * sy + e.2.1, e.2.2))
    let l2 := (walk 10 10 yw dy 10 sy (walkLen 12 12 xw sx dx)).map (fun e => (12 * e.1 + dx, 12 * e.2.1 + dx, e.2.2))
    l1 ++ l2

/-- The route of an unscheduled packet as a PATH byte (R96): X before Y, and in each dimension the wrap link only where its
latency is strictly lower. -/
def packetPath (src dst : Nat) : Nat :=
  2 * b2n (decide (wrapLat 12 12 (src % 12) (dst % 12) < directLat (src % 12) (dst % 12))) +
    4 * b2n (decide (wrapLat 10 10 (src / 12) (dst / 12) < directLat (src / 12) (dst / 12)))

/-- The links an unscheduled packet travels from a node to another, in order (R96). -/
def packetLinks (src dst : Nat) : List (Nat × Nat) := (routeLinks (packetPath src dst) src dst).map (fun e => (e.1, e.2.1))

/-- The links of unscheduled packets from a node to several, each once. -/
def packetTree (src : Nat) (targets : List Nat) : List (Nat × Nat) :=
  (targets.flatMap (packetLinks src)).foldl (fun l e => if l.contains e then l else l ++ [e]) []

/-- Every link of an entry's path or tree, each once (a multicast's branches share links). -/
def entryLinks (r : Route) (targets : List Nat) : List (Nat × Nat × Nat) :=
  (targets.flatMap (routeLinks r.path r.src)).foldl (fun l e => if l.contains e then l else l ++ [e]) []

/-- (link, slot) pairs an entry occupies in a table of L slots (R100); the local port of each target is no mesh link. -/
def entrySlots (l : Nat) (r : Route) (targets : List Nat) : List (Nat × Nat × Nat) :=
  if r.flits = 0 then []
  else (entryLinks r targets).flatMap (fun e =>
    (List.range r.flits).map (fun j => (e.1, e.2.1, (r.start + e.2.2 + j) % (max l 1))))

end Sys2Proof.Machine
end

