-- ==== Sys2Proof/Machine/Fabric.lean ====
section
/-!
DEFINITION. Sys2Proof/Machine/Fabric.lean: what the anneal fabric computes from plot memory: coupling values (R125 to R127),
fields and energy (R123, R124), application of flips (R139, R140), the best state (R144), and the freeze at a stop (R146).
-/
namespace Sys2Proof.Machine

/-- Change the anneal fabric of a plot. -/
def State.modAn (s : State) (q : PlotId) (f : AnPlot → AnPlot) : State :=
  s.modPlot q (fun p => { p with an := f p.an })

/-! ### Work of the matrix engines that is counted (R213) -/

/-- Change the live MXE counters of a plot. -/
def State.modMxeCnt (s : State) (q : PlotId) (f : MxeCnt → MxeCnt) : State :=
  s.modPlot q (fun p => { p with mxe := { p.mxe with live := f p.mxe.live } })

/-- Multiply-accumulates are counted for the plot and the device (R213). -/
def countMacs (s : State) (q : PlotId) (n : Nat) : State :=
  { (s.modMxeCnt q (fun c => { c with macs := c.macs + n })) with devMacs := s.devMacs + n }

/-- FCLK cycles since power-up, at the frequency in force at each time (R268). -/
def State.fclkCycles (s : State) : Nat := (s.pwr.cyc + (s.boot.tclk - s.pwr.cycAt) * s.pwr.fclk) / 100

/-! ### The committed ANNEAL section (Tables 5-2 and 6-4) -/

/-- Fields of a TILE entry. -/
structure TileEntry where
  tile : Nat
  format : Nat
  mode : Nat
  v : Nat
  cbSize : Nat
  first : Nat
  coup : Nat
  shift : Nat
  cb : Nat
  bias : Nat
  order : Nat
  spin : Nat
deriving DecidableEq, Repr

/-- A TILE entry's fields (Table 5-2). -/
def tileEntry (e : List Byte) : TileEntry :=
  { tile := leAt e 1 1, format := leAt e 2 1, mode := leAt e 3 1, v := leAt e 4 2, cbSize := leAt e 6 2,
    first := leAt e 8 4, coup := leAt e 16 8, shift := leAt e 24 8, cb := leAt e 32 8, bias := leAt e 40 8,
    order := leAt e 48 8, spin := leAt e 56 8 }

/-- The ANNEAL section of a plot. -/
def annealSec (s : State) (q : PlotId) : Option Section := s.cfg.content.sec 0x10 q.val

/-- TILE entries of a plot in the section, by ascending within-plot tile index (the lane's scan order, R136). -/
def tileEntries (x : Section) : List TileEntry :=
  let es := (x.ofType 2).map tileEntry
  (List.range 64).flatMap (fun t => es.filter (fun e => e.tile == t))

/-- SCHED, STALL and BEARING values of a section (Table 6-4). -/
structure Sched where
  count : Nat
  start : Nat
  endMode : Nat
  loop : Nat
  stallEn : Bool
  bearingReset : Bool
  k : Nat
  step : Nat
  cap : Nat
  /-- EXP, MANT, SWEEPS by bearing. -/
  bearings : List (Nat × Nat × Nat)
deriving DecidableEq, Repr

/-- The schedule of a section. -/
def schedOf (x : Section) : Sched :=
  let sc := ((x.ofType 3)[0]?).getD []
  let st := ((x.ofType 4)[0]?).getD []
  let bs := x.ofType 5
  let one (i : Nat) : Nat × Nat × Nat :=
    match bs.find? (fun e => leAt e 1 1 == i) with
    | some e => (leAt e 2 1, leAt e 4 2, leAt e 8 4)
    | none => (0, 0, 1)
  { count := leAt sc 1 1, start := leAt sc 2 1, endMode := leAt sc 3 1, loop := leAt sc 4 1,
    stallEn := bitOf (leAt st 1 1) 0, bearingReset := bitOf (leAt st 1 1) 1, k := leAt st 2 1, step := leAt st 4 2,
    cap := leAt st 8 4, bearings := (List.range (leAt sc 1 1)).map one }

/-- The schedule a plot runs under; without an ANNEAL section one bearing of noise 0. -/
def planSched (s : State) (q : PlotId) : Sched :=
  match annealSec s q with
  | some x => schedOf x
  | none => schedOf {}

/-- EXP, MANT, SWEEPS of a bearing. -/
def Sched.bearing (c : Sched) (b : Nat) : Nat × Nat × Nat := (c.bearings[b]?).getD (0, 0, 1)

/-! ### Couplings (R125 to R128) -/

/-- Bits per stored coupling. -/
def coupBits (format : Nat) : Nat := if format = 0 then 4 else 8

/-- Column stride S (R126). -/
def colStride (v format : Nat) : Nat := 64 * ceilDiv (v * coupBits format) 512

/-- The shift of a row's group (R127). -/
def shiftOf (shifts : List Byte) (n row col : Nat) : Nat :=
  let q := row * ceilDiv n 64 + col / 64
  let b := ((shifts[q / 2]?).getD 0).toNat
  if q % 2 = 0 then b % 16 else b / 16

/-- The stored code of a row in a column's bytes (R126). -/
def codeOf (format : Nat) (col : List Byte) (row : Nat) : Nat :=
  if format = 0 then
    let b := ((col[row / 2]?).getD 0).toNat
    if row % 2 = 0 then b % 16 else b / 16
  else ((col[row]?).getD 0).toNat

/-- Does a tile's presence mask hold the slot of a column (R185)? A plot that does not graft has no mask. -/
def AnTile.present (t : AnTile) (j : Nat) : Bool :=
  match t.mask with
  | none => true
  | some l => l.contains (j / 512)

/-- J_ij of local row `row` from the bytes of column j (R125); 0 in an absent slot (R185). -/
def coupling (t : AnTile) (n : Nat) (col : List Byte) (row j : Nat) : Int :=
  if !t.present j then 0 else
  let x := codeOf t.format col row
  let c : Int := if t.format = 2 then signed 8 x else (t.cb[x]?).getD 0
  c * 2 ^ shiftOf t.shifts n row j

/-- The bytes of column j of a tile as the job reads them from the tile's slice. -/
def columnBytes (s : State) (q : PlotId) (j : Job) (t : AnTile) (col : Nat) : List Byte :=
  jobBytes s q j (t.coup + col * colStride t.v t.format) (colStride t.v t.format)

/-- A spin bit as +1 or -1 (R122). -/
def spinVal (b : Bool) : Int := if b then 1 else -1

/-- The spin of a global variable. -/
def spinAt (ts : List AnTile) (i : Nat) : Int :=
  match ts.find? (fun t => decide (t.first ≤ i) && decide (i < t.first + t.v)) with
  | some t => spinVal ((t.spins[i - t.first]?).getD false)
  | none => 0

/-- Every coupling of one tile: rows by columns. -/
def tileMatrix (s : State) (q : PlotId) (j : Job) (n : Nat) (t : AnTile) : List (List Int) :=
  let cols := (List.range n).map (fun c => columnBytes s q j t c)
  (List.range t.v).map (fun r => (List.range n).map (fun c => coupling t n ((cols[c]?).getD []) r c))

/-- Sum over j ≠ i of J_ij s_j for one row of a matrix. -/
def rowSum (spins : List Int) (i : Nat) (row : List Int) : Int :=
  sumInt ((List.range spins.length).map (fun j => if j = i then 0 else (row[j]?).getD 0 * (spins[j]?).getD 0))

/-- All spins of the resident problem in variable order. -/
def spinVec (ts : List AnTile) (n : Nat) : List Int := (List.range n).map (spinAt ts)

/-- Fields of a tile from scratch (R123). -/
def freshFields (spins : List Int) (t : AnTile) (m : List (List Int)) : List Int :=
  (List.range t.v).map (fun r =>
    (t.bias[r]?).getD 0 + (t.root[r]?).getD 0 + rowSum spins (t.first + r) ((m[r]?).getD []))

/-- Energy of the state from scratch (R124): pairs i < j take the coupling of the row of the lower index. -/
def freshEnergy (ts : List AnTile) (ms : List (List (List Int))) (spins : List Int) : Int :=
  let per (t : AnTile) (m : List (List Int)) : Int :=
    sumInt ((List.range t.v).map (fun r =>
      let i := t.first + r
      let si := (spins[i]?).getD 0
      let row := (m[r]?).getD []
      let pairs := sumInt ((List.range spins.length).map (fun j =>
        if i < j then (row[j]?).getD 0 * (spins[j]?).getD 0 else 0))
      si * pairs + ((t.bias[r]?).getD 0 + (t.root[r]?).getD 0) * si))
  Int.neg (sumInt ((ts.zip ms).map (fun x => per x.1 x.2)))

/-! ### Application (R139, R140) and best state (R144) -/

/-- One flip applied: the energy register, every field, the spin. -/
def applyFlip (s : State) (q : PlotId) (j : Job) (p : AnPlot) (f : Flip) : AnPlot :=
  match p.tiles[f.tile]? with
  | none => p
  | some own =>
    let sj := spinVal ((own.spins[f.row]?).getD false)
    let hj := (own.fields[f.row]?).getD 0
    let v := own.first + f.row
    let tiles := p.tiles.map (fun t =>
      let col := columnBytes s q j t v
      { t with fields := (List.range t.v).map (fun r =>
          let h := (t.fields[r]?).getD 0
          if t.first + r = v then h else h - 2 * sj * coupling t p.n col r v) })
    { p with
      energy := p.energy + 2 * sj * hj,
      tiles := tiles.set f.tile { (tiles[f.tile]?).getD own with spins := own.spins.set f.row (decide (sj < 0)) } }

/-- The best state takes the current one if the register is strictly lower (R144). -/
def captureBest (p : AnPlot) : AnPlot :=
  if p.energy < p.bestEnergy then
    { p with
      bestEnergy := p.energy, bestValid := true, bestNew := true, tiles := p.tiles.map (fun t => { t with best := t.spins }),
      live := { p.live with bestSweep := satAdd p.live.sweeps (b2n p.sweepDue) } }
  else p

/-- Apply a batch of flips in lane order. -/
def applyBatch (s : State) (q : PlotId) (j : Job) (p : AnPlot) (fl : List Flip) : AnPlot :=
  fl.foldl (fun p f => applyFlip s q j p f) p

/-! ### Stop, abandonment, clearing (R146, R57, R148) -/

/-- Every committed flip not yet applied is applied, slot by slot, and the best state compared after each slot's batch (R144,
R146). -/
def applyAll (s : State) (q : PlotId) (j : Job) (p : AnPlot) : AnPlot :=
  ((p.inflight.map (·.slot)).eraseDups).foldl (fun x t =>
    captureBest (applyBatch s q j x (p.inflight.filter (fun f => decide (f.slot = t))))) p

/-- A stop freezes the tiles (R146): committed flips are applied, queues discarded, the state captured. -/
def freezeAnneal (s : State) (q : PlotId) (j : Option Job) : State :=
  let p := (s.plot q).an
  if !p.bestValid then s.modAn q (fun p => { p with state := .frozen, inflight := [], captured := false })
  else s.modAn q (fun p =>
    let p := match j with
      | some j => applyAll s q j p
      | none => p
    { p with
      inflight := [], state := .frozen, captured := true, sweepDue := false, auditDue := false,
      tiles := p.tiles.map (fun t => { t with queue := [] }) })

/-- What the ANL and NSE registers latch in step 2 (R148, R164, R174). -/
def AnPlot.latch (p : AnPlot) : AnPlot :=
  { p with shown := { p.live with
      energy := BitVec.ofInt 72 p.energy, bestEnergy := BitVec.ofInt 72 p.bestEnergy, bear := BitVec.ofNat 6 p.b,
      left := BitVec.ofNat 32 p.left, sigma := BitVec.ofNat 17 p.sigma,
      spins := p.tiles.map (fun t => (t.idx, t.spins)), bests := p.tiles.map (fun t => (t.idx, t.best)) } }

end Sys2Proof.Machine
end

