-- ==== Sys2Proof/Machine/Clear.lean ====
section
/-!
DEFINITION. Sys2Proof/Machine/Clear.lean: what abandonment (R57), a stop (R59), clearing (R60) and a plot reset (R61) do to
the engines' own state, block by block.
-/
namespace Sys2Proof.Machine

/-- The mesh lets go of a job: its retry-table entries and reservation grants (R108, chapter 04 edges). -/
def clearMeshJob (s : State) (q : PlotId) (i : BitVec 16) : State :=
  { s with msh := { s.msh with
      retries := s.msh.retries.filter (fun r => !(r.plot == q && r.job == i)),
      reserves := s.msh.reserves.filter (fun r => !(r.plot == q && r.job == i)) } }

/-- The mesh lets go of a plot. -/
def clearMeshPlot (s : State) (q : PlotId) : State :=
  { s with msh := { s.msh with
      retries := s.msh.retries.filter (fun r => !(r.plot == q)),
      reserves := s.msh.reserves.filter (fun r => !(r.plot == q)) } }

/-- An anneal fabric holding nothing; cumulative counters stay (R57, R148, R164). -/
def AnPlot.clear (p : AnPlot) : AnPlot :=
  { live := { p.live with
      sweeps := 0, energy := 0, bestEnergy := 0, bestSweep := 0, auditDelta := 0, qmax := 0, bear := 0, left := 0,
      sigma := 0, spins := [], bests := [] },
    shown := p.shown, propWrap := p.propWrap, flipWrap := p.flipWrap, auditLogged := p.auditLogged, unit := p.unit }

/-- Abandonment of a job clears the anneal fabric that holds its attempt, and a record tape's partial segments (R57,
R169); fetching halted for the job resumes when its abandonment completes. -/
def clearAnnealJob (s : State) (q : PlotId) (i : BitVec 16) : State :=
  s.modPlot q (fun p => { p with
    an := if p.an.job == i then p.an.clear else p.an,
    nse := if p.an.job == i then
        { p.nse with lanes := p.nse.lanes.map (fun l => { l with record := [] }) }
      else p.nse })

/-- The running epoch of a job becomes dead (R254); the inactive generation it holds is let go (R256). -/
def IndexState.dropJob (x : IndexState) (i : BitVec 16) : IndexState :=
  let x := { x with epochs := x.epochs.map (fun e => if e.2 == .running i then (e.1, .dead) else e) }
  if x.writer == some i then { x with writer := none, merge := false, next := 0, staged := [], t0 := 0, seen := [] } else x

/-- The lanes let go of a job: its query parts and their contexts, generation writes and epochs (R57, R254, R256). -/
def clearFlashJob (s : State) (q : PlotId) (i : BitVec 16) : State :=
  let s := s.modPlot q (fun p => { p with
    fln := { p.fln with
      queries := p.fln.queries.filter (fun x => !(x.job == i)),
      idx := p.fln.idx.map (fun x => x.dropJob i) },
    msh := { p.msh with pageIns := p.msh.pageIns.map (fun x => { x with readers := x.readers.filter (fun r => !(r == i)) }) } })
  { s with lanes := s.lanes.map (fun l => { l with
      queue := l.queue.filter (fun x => match x with | .part p j _ => !(p == q && j == i) | .page _ _ => true),
      ops := l.ops.filter (fun o => o.issued || !(o.plot == q && o.job == i)) }) }

/-- The lanes end a plot's parts, page-ins and generation writes (R262). -/
def clearFlashPlot (s : State) (q : PlotId) : State :=
  let s := s.modPlot q (fun p => { p with
    fln := { p.fln with queries := [] }, msh := { p.msh with pageIns := [] } })
  { s with lanes := s.lanes.map (fun l => { l with
      queue := l.queue.filter (fun x => match x with | .part p _ _ => !(p == q) | .page p _ => !(p == q)),
      ops := l.ops.filter (fun o => o.issued || !(o.plot == q)) }) }

/-- Every lane of a plot's tape is reset (R171); NSE_PTAPE_START still shows the latest attempt's first segment (Table 6-8). -/
def resetLanes (s : State) (q : PlotId) : State :=
  s.modPlot q (fun p => { p with
    nse := { p.nse with lanes := p.nse.lanes.map (fun l => { start := l.start }), prev := none, halted := none } })

/-- Grafting of a plot at the start of an attempt, or cleared: values of the attempt are 0 (R192). -/
def GrfPlot.clear (g : GrfPlot) : GrfPlot := { fullAudit := g.fullAudit, logged := g.logged, shown := g.shown }

/-- Abandonment discards a job's graft (R57). -/
def clearGraftJob (s : State) (q : PlotId) (i : BitVec 16) : State :=
  s.modPlot q (fun p => { p with grf := if p.an.job == i then p.grf.clear else p.grf })

/-- An engine with both banks at zero, bank 0 active, nothing carried (R201, R202). -/
def MxeEngine.clear (e : MxeEngine) (stopped : Bool) : MxeEngine := { stopped := stopped, stall := e.stall }

/-- Does an engine run, or carry, work of a job? -/
def MxeRun.of (r : Option MxeRun) (q : PlotId) (i : BitVec 16) : Bool :=
  match r with | some r => r.plot == q && r.job == i | none => false

/-- A call of a job ends with no effect; its local SRAM is still to be zeroed (R208). -/
def HccCluster.drop (h : HccCluster) (p : HelperCall → Bool) : HccCluster :=
  match h.call with
  | some c => if p c then { call := none, dirty := some (c.plot, c.idx) } else h
  | none => h

/-- The same for a quantise/convert engine's buffers (R221). -/
def QceEngine.drop (e : QceEngine) (p : QceCall → Bool) : QceEngine :=
  match e.call with
  | some c => if p c then { e with call := none, pass := 0, dirty := some (c.plot, c.idx) } else e
  | none => e

/-- Abandonment clears the banks, carries and calls of a job (R57, R202, R208). -/
def clearMatrixJob (s : State) (q : PlotId) (i : BitVec 16) : State :=
  { s with
    mxes := s.mxes.map (fun e =>
      if MxeRun.of e.run q i || MxeRun.of e.carry q i then e.clear false else e),
    partials := s.partials.filter (fun p => !(p.plot == q && p.job == i)),
    hccs := s.hccs.map (fun h => h.drop (fun c => c.plot == q && c.idx == i)),
    qces := s.qces.map (fun e => e.drop (fun c => c.plot == q && c.idx == i)) }

/-- A stop discards the accumulators of the plot's engines, its partial tiles and its calls (R202, R208). -/
def clearMatrixPlot (s : State) (q : PlotId) : State :=
  let mine := s.cfg.content.mxes q.val
  { s with
    mxes := Vector.ofFn (fun (m : Fin 16) => if mine.getLsbD m.val then s.mxes[m].clear true else s.mxes[m]),
    partials := s.partials.filter (fun p => !(p.plot == q)),
    hccs := s.hccs.map (fun h => h.drop (fun c => c.plot == q)),
    qces := s.qces.map (fun e => e.drop (fun c => c.plot == q)) }

/-- Clusters zero what interrupted calls left in their local SRAM, poison with it (R119, R208), and quantise/convert engines
their buffers (R221). -/
def zeroClusters (s : State) (p : PlotId × BitVec 16 → Bool) : State :=
  let ours := fun (h : HccCluster) => match h.dirty with | some d => p d | none => false
  let lines := (List.finRange 16).filter (fun h => ours s.hccs[h])
  { s with
    hccs := s.hccs.map (fun h => if ours h then { h with dirty := none } else h),
    qces := s.qces.map (fun e => match e.dirty with | some d => if p d then { e with dirty := none } else e | none => e),
    msh := { s.msh with poison := s.msh.poison.filter (fun l =>
      !lines.any (fun h => decide (l / 2 ^ 25 = nodeOf .hcc h.val) && decide (0x1800000 ≤ l % 2 ^ 25))) } }

/-- Clearing ends: the plot's engines are idle again (R60). -/
def idleEngines (s : State) (q : PlotId) : State :=
  let mine := s.cfg.content.mxes q.val
  { s with mxes := Vector.ofFn (fun (m : Fin 16) => if mine.getLsbD m.val then s.mxes[m].clear false else s.mxes[m]) }

/-- A job's frame program stops at once (R28): its operations, calls and passes end with no effect, and its query parts do
nothing more. What its engines hold is cleared when abandonment begins. -/
def stopProgram (s : State) (q : PlotId) (i : BitVec 16) : State :=
  let s := s.modPlot q (fun p => { p with
    fln := { p.fln with atClaim := p.fln.atClaim ++ (List.finRange 8).map (fun l => (i, l)) } })
  { s with
    mxes := s.mxes.map (fun e => if MxeRun.of e.run q i then { e with run := none } else e),
    hccs := s.hccs.map (fun h => h.drop (fun c => c.plot == q && c.idx == i)),
    qces := s.qces.map (fun e => e.drop (fun c => c.plot == q && c.idx == i)) }

/-- A job's working state in every engine but the anneal fabric goes (R57). -/
def clearJobRest (s : State) (q : PlotId) (i : BitVec 16) : State :=
  let s := clearMeshJob s q i
  let s := clearFlashJob s q i
  clearMatrixJob s q i

/-- Abandonment clears the job's working state in every engine (R57). -/
def clearJobEngines (s : State) (q : PlotId) (i : BitVec 16) : State := clearJobRest (clearAnnealJob (clearGraftJob s q i) q i) q i

/-- What the engines do at a stop of the plot (Table 2-5); a graft under way ends, GRF_PSTATUS.PHASE is IDLE (Table 7-6). -/
def stopEngines (s : State) (q : PlotId) : State :=
  let s := clearMeshPlot s q
  let s := clearFlashPlot s q
  let s := resetLanes s q
  let s := s.modPlot q (fun p => { p with grf := { p.grf with phase := 0, scan := none } })
  clearMatrixPlot s q

/-- Clearing of all the plot's engines and pages (R60): memory reads 0, poison is gone (R120). -/
def clearAllOf (s : State) (q : PlotId) : State :=
  let s := s.wipeMem q 0 plotSpan
  let s := { s with msh := { s.msh with
    poison := s.msh.poison.filter (fun l => !(engineLine s.cfg.content q.val l || quotaLine s.msh q.val l)) } }
  let s := s.modMsh q (fun m => { m with resident := [], pageIns := [] })
  let s := s.modPlot q (fun p => { p with
    an := p.an.clear, grf := p.grf.clear,
    fln := { p.fln with idx := p.fln.idx.map (fun x => { x with entries := [], epochs := [] }) } })
  idleEngines s q

/-- Clearing after a commit that changed the engine set (R60): the removed slices left with the commit; every commons page of
the quota, home pages and cache frames, reads 0, and the captured anneal state and the graft are gone (R146, R148, R192). -/
def clearRemoved (s : State) (q : PlotId) : State :=
  let gone := ((s.plot q).msh.resident.filter (fun r => r.home.isNone)).map (·.page)
  let s := gone.foldl (fun s g => s.wipeMem q (0x800000000 + 65536 * g) (0x800000000 + 65536 * (g + 1)))
    (s.wipeMem q 0x90000000 0x9B000000)
  let s := { s with msh := { s.msh with
    poison := s.msh.poison.filter (fun l => !quotaLine s.msh q.val l) } }
  let s := s.modPlot q (fun p => { p with
    msh := { p.msh with resident := p.msh.resident.filter (fun r => !r.home.isNone) }, an := p.an.clear, grf := p.grf.clear })
  let busy := fun (m : Nat) =>
    let o := s.cfg.content.mxeOwner m
    (List.finRange 65).any (fun p => p.val == o && o != q.val &&
      ((s.plot p).plt.state == .stopping || (s.plot p).plt.state == .clearing))
  { s with mxes := Vector.ofFn (fun (m : Fin 16) =>
      if s.mxes[m].stopped && !busy m.val then s.mxes[m].clear false else s.mxes[m]) }

/-- A plot reset or FLR ends an outstanding random request at once, without RNG_READY (R158). -/
def endRng (s : State) (q : PlotId) : State :=
  let r := s.nse.rng[q]
  { s with nse := { s.nse with
      rng := s.nse.rng.set q (if r.busy then { r with busy := false, again := false, blocks := BitVec.ofNat 15 r.done } else r) } }

/-- A plot reset's or FLR's effect on the registers of the other blocks that do not survive it. -/
def resetPlotBlocks (s : State) (q : PlotId) : State :=
  endRng (resetLanes s q) q

end Sys2Proof.Machine
end

