-- ==== Sys2Proof/Machine/Attest.lean ====
section
/-!
DEFINITION. Sys2Proof/Machine/Attest.lean: stopping of signing (R346), plot keys (R342), the completion record and its
result tag (Table 2-4, R343, R344).
-/
namespace Sys2Proof.Machine

/-- HST_EPOCH.EPOCH: the highest-numbered fuse that reads blown (R312). -/
def FuseState.epoch (f : FuseState) : Nat := f.blown.foldl max 0

/-- Signing stops device-wide for a reason of Table 14-3. -/
def stopSigning (s : State) (reason : BitVec 3) : State :=
  let s := { s with att := { s.att with stop := reason } }
  (s.raisePf 13).logLine 0x02 noPlot none reason.toNat 0

/-- Signing stops for one plot: SEQ_SATURATED (Table 14-3). -/
def stopPlotSigning (s : State) (q : PlotId) : State :=
  let s := s.modAtt q (fun a => { a with stop := 3 })
  (s.raisePf 13).logLine 0x02 q.val none 3 (s.aux.pseq[q]).toNat

/-- The stop reason that holds for a plot: device-wide first, 0 none. -/
def State.stopReason (s : State) (q : PlotId) : BitVec 3 :=
  if s.att.stop = 0 then s.att.sets[q].stop else s.att.stop

/-- Bytes of the tag key K (R341); before it is drawn the spec names no key, and the bytes are a free value. -/
def State.keyBytes (s : State) : List Byte :=
  match s.aux.key with
  | some k => beBytes 32 k.toNat
  | none => beBytes 32 ((Config.freeHash s.free).toNat % 2 ^ 256)

/-- K_p by the counter-mode KDF of SP 800-108 with HMAC-SHA-256 (R342): label "TAGK", context the byte p, 256 bits. -/
def plotKey (k : List Byte) (p : Nat) : List Byte :=
  Config.hmacSha256 k ([0, 0, 0, 1] ++ [0x54, 0x41, 0x47, 0x4B] ++ [0] ++ [BitVec.ofNat 8 p] ++ [0, 0, 1, 0])

/-- Energy of a job as ENERGY_UJ reports it: whole µJ, saturated at 48 bits (R285). -/
def energyUj (e : Nat) : Nat := min (e / 10 ^ 18) (2 ^ 48 - 1)

/-- Bytes 0 to 47 of a completion record (Table 2-4). -/
def recordHead (j : Job) (index : BitVec 16) (lastFrame : Nat) (signed : Bool) (seq : Nat) : List Byte :=
  let void := !(j.code == .ok)
  let frames := match j.first with | some f => lastFrame + 1 - f | none => 0
  let nodeBits := match j.node with | some n => 16 * n.val + 8 | none => 0
  leBytes 2 j.desc.tag.toNat ++ [BitVec.ofNat 8 j.code.num] ++
    [BitVec.ofNat 8 (128 * b2n (index.getLsbD 8) + j.attempts)] ++
    leBytes 4 (nodeBits + 4 * b2n j.audit + 2 * b2n (!signed) + b2n void) ++
    leBytes 8 lastFrame ++ leBytes 6 (energyUj j.energy) ++ [0, 0] ++ leBytes 8 j.desc.user.toNat ++
    leBytes 8 (if signed then seq else 0) ++ leBytes 4 j.out.length ++ leBytes 4 frames

/-- Bytes 48 to 63: the tag, or zeros for an untagged record (R344, R346). -/
def recordTag (s : State) (q : PlotId) (j : Job) (head : List Byte) (signed : Bool) (seq : Nat) : List Byte :=
  if signed then
    Config.gmac (plotKey s.keyBytes q.val) (beBytes 4 s.fuses.epoch ++ beBytes 8 seq)
      (head ++ if j.code == .ok then j.out else [])
  else List.replicate 16 0

/-- A completion record is formed for a job (R55): it takes the next index of the completion ring and, while signing is not
stopped, the plot's next tag sequence (R343). -/
def formRecord (s : State) (q : PlotId) (j : Job) : State :=
  let p := (s.plot q).plt
  let signed := s.stopReason q == 0
  let seq := (s.aux.pseq[q]).toNat
  let index := p.cqTail + BitVec.ofNat 16 p.formed.length
  let head := recordHead j index s.frm.count.toNat signed seq
  let bytes := head ++ recordTag s q j head signed seq
  let s := s.modPlt q (fun p => { p with formed := p.formed ++ [{ bytes := bytes, irq := j.desc.irq, fault := !(j.code == .ok) }] })
  let s := if j.code == .ok then s else
    s.modPlt q (fun p => { p with
      lastTag := j.desc.tag, lastNodeValid := j.node.isSome,
      lastNode := (match j.node with | some n => BitVec.ofNat 7 n.val | none => 0), lastCode := BitVec.ofNat 8 j.code.num })
  if signed then
    let s := { s with aux := { s.aux with pseq := s.aux.pseq.set q (satInc s.aux.pseq[q]) } }
    if s.aux.pseq[q] = BitVec.allOnes 64 then stopPlotSigning s q else s
  else s.modAtt q (fun a => { a with unsignedCnt := satInc a.unsignedCnt })

/-- Formed records are written while requests are permitted and the ring has room, each whole before PLT_CQ_TAIL passes it
(R55); a faulted record raises JOB_FAULT and the PF's map and cause (DEDUCED for the PF's cause, log entry 168). Answers whether one of them had IRQ = 1. -/
def writeFormedAux : Nat → State → PlotId → Bool → State × Bool
  | 0, s, _, irq => (s, irq)
  | n + 1, s, q, irq =>
    let p := (s.plot q).plt
    match p.formed with
    | [] => (s, irq)
    | r :: rest =>
      if !s.permitted q || decide (256 ≤ occupancy p.cqTail p.cqHead) then (s, irq) else
        let s := s.emit (.write q (ringAddr p.cqBase p.cqTail) r.bytes false s.maxPayload)
        let s := s.modPlt q (fun p => { p with
          formed := rest, cqTail := p.cqTail + 1, doneCnt := satInc p.doneCnt,
          faultCnt := if r.fault then satInc p.faultCnt else p.faultCnt })
        let s := if r.fault then
            let s := { s with pf := { s.pf with faultMap := setBit s.pf.faultMap (q.val - 1) true } }
            let s := s.raisePlot q 0x2
            if p.pfFaultEn then s.raisePf 5 else s
          else s
        writeFormedAux n s q (irq || r.irq)

/-- Write what is formed, then raise CQ_WRITE once if a record asked for it (R62). -/
def writeFormed (s : State) (q : PlotId) : State :=
  let (s, irq) := writeFormedAux (s.plot q).plt.formed.length s q false
  if irq then s.raisePlot q 0x1 else s

end Sys2Proof.Machine
end

