-- ==== Sys2Proof/Machine/Plots.lean ====
section
/-!
DEFINITION. Sys2Proof/Machine/Plots.lean: host access gating, rings (R45 to R48), the life of a job from fault to record
(R56 to R59), stops, clearing and resets of a plot (R44, R59 to R61).
-/
namespace Sys2Proof.Machine

/-! ### Host accesses (R296, R310) -/

/-- Does a function exist: the PF, or a VF that VF Enable and NumVFs cover (R42)? -/
def State.fnExists (s : State) (f : Fn) : Bool :=
  f == 0 || (s.hst.vfEn && decide (f.val ≤ s.hst.numVfs.toNat))

/-- Can a function be addressed: without ARI, VF8 to VF64 cannot (R290)? -/
def State.addressed (s : State) (f : Fn) : Bool := s.hst.ari || decide (f.val ≤ 7)

/-- Is a configuration request of the function served (R310)? -/
def State.cfgOk (s : State) (f : Fn) : Bool := s.isReady && s.hst.linkUp && s.fnExists f && s.addressed f

/-- Is a BAR0 request of the function served: ready, link up, Memory Space Enable (R296, R310), in D0? -/
def State.hostOk (s : State) (f : Fn) : Bool :=
  s.cfgOk f && !s.fns[f].d3 && (if f == 0 then s.hst.memSpace else s.hst.vfMemSpace)

/-- A BAR0 access takes effect when it is served; otherwise it is answered with Unsupported Request and has none. -/
def hostGate (s : State) (f : Fn) (k : State → State) : State :=
  if s.hostOk f then k { s with resp := {} } else { s with resp := { error := true } }

/-- A configuration request takes effect when it is served. Before ready it is completed with Request Retry Status, and a
function that is not there answers Unsupported Request (R310); nothing arrives while the link is down. -/
def cfgGate (s : State) (f : Fn) (k : State → State) : State :=
  if s.cfgOk f then k s
  else if s.hst.linkUp then { s with resp := { error := s.isReady, retry := !s.isReady } }
  else s

/-- May a function reach the register set of a plot: the PF every one, a VF its own (R294)? -/
def reaches (f : Fn) (q : PlotId) : Bool := f == 0 || f == q

/-- The number of a read failure (HST_DMA_LAST.KIND). -/
def readFailNum : ReadFail → Nat
  | .ur => 1 | .ca => 2 | .poisoned => 3 | .timeout => 4 | .ecrc => 5

/-- The bit of the Uncorrectable Error Status register that a failed read sets (PRESUMED: the base specification's, log entry
234). -/
def readFailBit : ReadFail → Nat
  | .ur => 20 | .ca => 15 | .poisoned => 12 | .timeout => 14 | .ecrc => 19

/-- A device read failed (R299): counters, HST_DMA_LAST, and the function's AER. A Completion Timeout comes at its time from
the request (R289). -/
def dmaError (s : State) (f : Fn) (u : DmaUser) (k : ReadFail) : State :=
  let s := match k, s.hst.asked.find? (fun a => a.1 == f && a.2.1 == u) with
    | .timeout, some a => s.advanceTo (a.2.2 + s.completionTimeout)
    | _, _ => s
  let h := s.hst
  { s with hst := { h with
      dmaErrCnt := satInc h.dmaErrCnt,
      pDmaErr := h.pDmaErr.set f (satInc h.pDmaErr[f]),
      dmaLast := BitVec.ofNat 32 (f.val * 2 ^ 25 + readFailNum k) } }.aerError f (readFailBit k)

/-! ### Rings (R45, R46, R48, R51) -/

/-- A ring error (R46, R51): PLT_RING_ERR, the RING_ERR cause and one log line. The index is the refused value that was
written, or PLT_SQ_HEAD of a failed fetch (DESIGN CHOICE, log entry 167). -/
def ringErr (s : State) (q : PlotId) (reason : BitVec 4) (index : BitVec 16) : State :=
  let s := s.modPlt q (fun p => { p with errReason := reason, errIndex := index })
  (s.raisePlot q 0x8).logLine 0x12 q.val none reason.toNat index.toNat

/-- Compass fetches the descriptor at the head as soon as the doorbell shows it (R48). -/
def startFetch (s : State) (q : PlotId) : State :=
  let p := (s.plot q).plt
  if p.head == .empty && p.ringEn && !p.ringHalt && !(p.sqTail == p.sqHead) && s.permitted q then
    (s.modPlt q (fun p => { p with head := .fetchingDesc })).hostRead q .descriptor (ringAddr p.sqBase p.sqHead) 64
  else s

/-- A write of PLT_SQ_TAIL (R46). -/
def sqTailWrite (s : State) (q : PlotId) (v : BitVec 16) : State :=
  let p := (s.plot q).plt
  if !p.ringEn then ringErr s q 4 v
  else if 256 < occupancy v p.sqHead then ringErr s q 1 v
  else startFetch (s.modPlt q (fun p => { p with sqTail := v })) q

/-- A write of PLT_CQ_HEAD (R46); held records that now find room are written (R55). -/
def cqHeadWrite (s : State) (q : PlotId) (v : BitVec 16) : State :=
  let p := (s.plot q).plt
  if 256 < occupancy p.cqTail v then ringErr s q 2 v
  else writeFormed (s.modPlt q (fun p => { p with cqHead := v })) q

/-- The job at the ring head completes at once, without running (R50, R27): PLT_SQ_HEAD advances. -/
def completeUnran (s : State) (q : PlotId) (d : Desc) (c : Code) : State :=
  let p := (s.plot q).plt
  let j : Job := { idx := p.sqHead, desc := d, code := c, phase := .over, unran := true }
  startFetch (s.modPlt q (fun p => { p with
    jobs := p.jobs ++ [j], sqHead := p.sqHead + 1, head := .empty, snapHead := false })) q

/-- The ring halts (R51): nothing but a plot reset or FLR resumes it. -/
def ringHalt (s : State) (q : PlotId) : State :=
  let p := (s.plot q).plt
  ringErr (s.modPlt q (fun p => { p with ringHalt := true, head := .empty })) q 3 p.sqHead

/-- The image of the job at the head is known: the checks of R50 that compare it with the descriptor. -/
def imageKnown (s : State) (q : PlotId) (d : Desc) (i : Option Image) : State :=
  match i with
  | none => completeUnran s q d .image
  | some i =>
    if d.inLen < i.inMin ∨ d.outLen < i.outMax then completeUnran s q d .desc
    else s.modPlt q (fun p => { p with head := .ready d i })

/-- The descriptor at the head has been fetched (R48 to R51). Where requests are no longer permitted its image cannot be
asked for (R292); the head is fetched anew when they are (DEDUCED, log entry 232). -/
def descriptorFetched (s : State) (q : PlotId) (r : Fetched) : State :=
  let p := (s.plot q).plt
  if p.head != .fetchingDesc then s
  else match r with
  | .failed k => ringHalt (dmaError s q .descriptor k) q
  | .bytes b =>
    let d := descOf b
    if !descOk (slice b 0 64) then completeUnran s q d .desc
    else if d.reuse then imageKnown s q d p.prev
    else if !s.permitted q then s.modPlt q (fun p => { p with head := .empty })
    else (s.modPlt q (fun p => { p with head := .fetchingImage d })).hostRead q .image d.imageAddr d.imageLen

/-- The job image has been fetched (R50, R51). -/
def imageFetched (s : State) (q : PlotId) (r : Fetched) (ops : List (Nat × Nat)) : State :=
  match (s.plot q).plt.head with
  | .fetchingImage d =>
    match r with
    | .failed k => completeUnran (dmaError s q .image k) q d .hostDma
    | .bytes b => imageKnown s q d (if b.length = d.imageLen then imageOf b d.imageLen ops else none)
  | _ => s

/-! ### Faults and abandonment (R56 to R58) -/

/-- The job without its private copies and engine claims on memory (R57). -/
def Job.dropCopies (j : Job) : Job := 
  { j with ovl := [], copies := [], copying := [], frames := [], writes := [] }

/-- Abandonment begins: the job's copies and engine state are discarded; a JOB_FAULT line once per job per frame. -/
def beginAbandon (s : State) (q : PlotId) (j : Job) (c : Code) (node : Option NodeId) : State :=
  let s := s.modJob q j.idx (fun j => { j.dropCopies with phase := .abandoning, code := c, node := node, faultAt := some s.boot.tclk, logged := true })
  let s := clearJobEngines s q j.idx
  if j.logged then s.logSuppressed
  else s.logLine 0x10 q.val node (c.num + 256 * j.attempts) j.desc.tag.toNat

/-- A fault in the FCLK cycle in which the job's abandonment began: the higher code of Table 2-7 counts (R56, R67), and the
line that was written names it. -/
def raiseFault (s : State) (q : PlotId) (j : Job) (c : Code) (node : Option NodeId) : State :=
  let s := s.modJob q j.idx (fun j => { j with code := c, node := node })
  { s with log := { s.log with lines := s.log.lines.map (fun l =>
      if l.code = 0x10 ∧ l.plot = q.val ∧ l.time = s.frmTime ∧ l.arg1 = j.desc.tag.toNat ∧ l.arg0 = j.code.num + 256 * j.attempts
      then { l with node := node, arg0 := c.num + 256 * j.attempts } else l) } }

/-- A fault is charged to a job (R56): a job already being abandoned, or marked as overrun, keeps its code, unless both faults
are of one cycle (DESIGN CHOICE on what one cycle is, log entry 171). -/
def chargeFault (s : State) (q : PlotId) (i : BitVec 16) (c : Code) (node : Option NodeId) : State :=
  match (s.plot q).plt.job? i with
  | none => s
  | some j =>
    if j.phase == .abandoning then
      (if j.faultAt == some s.boot.tclk && decide (j.code.rank < c.rank) then raiseFault s q j c node else s)
    else if j.budget || j.deadline then s
    else beginAbandon s q j c node

/-- An overrun is recorded (R28 to R30): FRM_PLOT_OVR, the OVERRUN cause, FRM_EVENT.OVERRUN_ANY. A job overruns once. -/
def recordOverrun (s : State) (q : PlotId) (j : Job) (budget : Bool) : State :=
  if j.budget || j.deadline || j.phase == .abandoning then s
  else
    let s := s.modJob q j.idx (fun j => { j with budget := budget, deadline := !budget })
    let s := s.modFrm (fun f => { f with plotOvr := f.plotOvr.set q (satInc f.plotOvr[q]) })
    let s := s.modPlt q (fun p => { p with
      ovrFrame := p.ovrFrame + 1, ovrBudget := p.ovrBudget || budget, ovrDeadline := p.ovrDeadline || !budget })
    (s.raisePlot q 0x4).frmEvent 0

/-- Jobs complete: they move behind those that completed before them, ties in submission order (R55). -/
def completeJobs (l : List Job) (p : Job → Bool) : List Job :=
  l.filter (fun j => !p j) ++
    (l.filter p).map (fun j => { j with phase := .over, budget := false, deadline := false })

/-- Abandonment of a job has completed (R58): it restarts, or completes with its code. A job of a stopping plot waits for
the stop to end. What the attempt wrote counts until the next one starts (Table 2-4, OUT_BYTES). -/
def abandonmentDone (s : State) (q : PlotId) (i : BitVec 16) : State :=
  match (s.plot q).plt.job? i with
  | none => s
  | some j =>
    if j.phase != .abandoning || j.code == .cancelled then s
    else
    let s := zeroClusters s (fun d => d.1 == q && d.2 == i)
    if j.code.restartable && decide (j.attempts ≤ j.desc.restarts) && (s.plot q).plt.state != .stopping then
      s.modJob q i (fun j => { j with
        phase := .waiting, code := .ok, node := none, faultAt := none, done := 0, budget := false, deadline := false })
    else s.modPlt q (fun p => { p with jobs := completeJobs p.jobs (fun k => k.idx == i && k.live) })

/-! ### Stops, clearing, resets (R44, R59 to R61) -/

/-- Cancelling a job (R59): one whose last frame program has finished still completes OK. -/
def Job.cancel (j : Job) : Job :=
  if j.live && j.phase != .finished then
    { j.dropCopies with phase := .abandoning, code := .cancelled, node := none, budget := false, deadline := false }
  else j

/-- A stop of work in flight begins (R59, Table 2-5): the anneal fabric freezes, every admitted job is cancelled. -/
def startStop (s : State) (q : PlotId) : State :=
  let jobs := (s.plot q).plt.jobs.filter (fun j => j.live && j.phase != .finished)
  let last := jobs.filter (fun j => j.phase == .running && !j.budget && !j.deadline && decide (j.img.frames ≤ j.done + 1))
  let s := s.modPlot q (fun p => { p with held := if p.held.isSome then p.held else some (last, p.fln.idx) })
  let s := freezeAnneal s q (jobs.find? (fun j => j.idx == (s.plot q).an.job))
  let s := s.modPlt q (fun p => { p with jobs := p.jobs.map Job.cancel, snapHead := false })
  let s := jobs.foldl (fun s j => clearJobRest s q j.idx) s
  (stopEngines s q).setPlotState q .stopping

/-- Table 2-2, the rows for EN and VF_READY. -/
def reviewPlot (s : State) (q : PlotId) : State :=
  let p := (s.plot q).plt
  let ok := p.en && s.vfReady q
  match p.state with
  | .idle => if ok then s else s.setPlotState q .disabled
  | .disabled => if ok then s.setPlotState q .idle else s
  | .running => if ok then s else startStop s q
  | _ => s

/-- The stop has ended (R44): cancelled jobs have completed, and the next state follows from the strongest request. -/
def stopEnded (s : State) (q : PlotId) : State :=
  let p := (s.plot q).plt
  if p.state != .stopping then s
  else
    let s := zeroClusters s (fun d => d.1 == q)
    let s := s.modPlt q (fun p => { p with jobs := completeJobs p.jobs (fun j => j.live && j.phase == .abandoning) })
    if p.reqReset || p.reqReassign then s.setPlotState q .clearing
    else if p.en then reviewPlot (s.setPlotState q .idle) q
    else s.setPlotState q .disabled

/-- Clearing has ended (R60, Table 2-2). Clearing follows the CANCELLED records of the stop (Table 2-5: "then"): while one
is still to be issued, clearing has not ended. -/
def clearingEnded (s : State) (q : PlotId) : State :=
  let p := (s.plot q).plt
  if p.state != .clearing || p.jobs.any (fun j => j.code == .cancelled) then s
  else
    let s := if p.clearAll then clearAllOf s q else clearRemoved s q
    let s := s.modPlt q (fun p => { p with
      reqReset := false, reqReassign := false, clearAll := false })
    if !s.cfg.content.ownsAny q.val then s.setPlotState q .unassigned
    else if p.en && s.vfReady q then s.setPlotState q .idle
    else s.setPlotState q .disabled

/-- A plot reset or FLR of the plot (R61): ring indices, RING_EN and IRQ status to 0, engines and memory to be cleared. -/
def resetPlot (s : State) (q : PlotId) : State :=
  let st := (s.plot q).plt.state
  let s := s.modPlt q (fun p => { p with
    sqTail := 0, sqHead := 0, cqTail := 0, cqHead := 0, ringEn := false, ringHalt := false, irqStatus := 0,
    head := .empty, snapHead := false })
  let s := resetPlotBlocks s q
  match st with
  | .running => startStop (s.modPlt q (fun p => { p with reqReset := true, clearAll := true })) q
  | .idle | .disabled => (stopEngines (s.modPlt q (fun p => { p with clearAll := true })) q).setPlotState q .clearing
  | .stopping => s.modPlt q (fun p => { p with reqReset := true, clearAll := true })
  | .clearing => s.modPlt q (fun p => { p with clearAll := true })
  | .unassigned => s

/-- A function's latches, held halves and register copies return to reset (R12, R14, R356). -/
def FnState.resetCopies (f : FnState) : FnState := { f with latches := [], held := [], sels := [], logValid := false }

/-- A function's configuration space and MSI-X table are reset as PCIe has it (Table 2-6): Max_Payload_Size and the sticky AER
registers stay (PRESUMED: the base specification, log entry 236). -/
def FnState.resetSpace (f : FnState) : FnState :=
  { f with
    bme := false, d3 := false, ctl := { payload := f.ctl.payload }, msixEn := false, fmask := false,
    msix := Vector.replicate 32 {}, pba := 0 }

/-- The bases, masks and vectors of a plot return to reset values (Table 2-6, VF FLR and VF Enable cleared). -/
def PltSet.resetVf (p : PltSet) : PltSet :=
  { p with sqBase := 0, cqBase := 0, irqMask := 0x1FFF, vec0 := 0x76543210, vec1 := 0xCBA98 }

/-- A VF is reset: its plot, its configuration space, its latches and copies (Table 2-6, VF FLR). -/
def resetVf (s : State) (p : PlotId) : State :=
  let s := s.modFn p (fun f => f.resetCopies.resetSpace)
  let s := resetPlot s p
  let s := s.modPlt p PltSet.resetVf
  reviewPlot s p

/-- VF Enable is cleared (Table 2-6): every VF is reset, every function's latches and copies too. -/
def clearVfEnable (s : State) : State :=
  let s := { s with hst := { s.hst with vfEn := false } }
  let s := s.modFn 0 FnState.resetCopies
  s.eachPlot tenantPlots resetVf

end Sys2Proof.Machine
end

