-- ==== Sys2Proof/Machine/Flags.lean ====
section
/-!
DEFINITION. Sys2Proof/Machine/Flags.lean: the status flags software handles: interrupt causes, masks and vectors (R62, R63,
R9, R10), plot maps (Table 2-12), sticky event and wrap bits, and the MSI-X enable, masks and tables (R295, R298).
-/
namespace Sys2Proof.Machine

/-! ### Masks (R62, R63) -/

/-- A write of PLT_IRQ_MASK: a mask bit that clears while its cause reads 1 sends the vector's message (R62). -/
def plotMaskWrite (s : State) (q : PlotId) (m : BitVec 13) : State :=
  let p := (s.plot q).plt
  let due := p.irqMask &&& ~~~m &&& p.irqStatus
  (s.modPlt q (fun p => { p with irqMask := m })).sendVectors q (p.vectorsOf due)

/-- The PF vectors of the causes whose bits are set (R63). -/
def pfVectors (m : BitVec 15) : List (Fin 32) :=
  (List.finRange 15).filterMap (fun c => if m.getLsbD c.val then some ⟨c.val, by omega⟩ else none)

/-- A write of PLT_PF_IRQ_MASK (R63). -/
def pfMaskWrite (s : State) (m : BitVec 15) : State :=
  let due := s.pf.irqMask &&& ~~~m &&& s.pf.irqStatus
  ({ s with pf := { s.pf with irqMask := m } }).sendVectors 0 (pfVectors due)

/-- A write of a mask register by a function that reaches it: the PF's own, or a plot's (R62, R63). -/
def irqMaskWrite (s : State) (f : Fn) (q : PlotId) (v : Word) : State :=
  if q = 0 then (if f = 0 then pfMaskWrite s (v.setWidth 15) else s)
  else if reaches f q then plotMaskWrite s q (v.setWidth 13)
  else s

/-! ### Write-one-to-clear registers (R9) -/

/-- PLT_IRQ_STATUS. -/
def irqClear (s : State) (q : PlotId) (v : Word) : State :=
  s.modPlt q (fun p => { p with irqStatus := rw1c p.irqStatus (v.setWidth 13) })

/-- PLT_PF_IRQ_STATUS. -/
def pfIrqClear (s : State) (v : Word) : State :=
  { s with pf := { s.pf with irqStatus := rw1c s.pf.irqStatus (v.setWidth 15) } }

/-- One half of a 64-bit map, half 0 or 1, with the written bits cleared. -/
def clearHalf (m : BitVec 64) (half : Nat) (v : Word) : BitVec 64 :=
  m &&& ~~~(BitVec.ofNat 64 (v.toNat * 2 ^ (32 * half)))

/-- PLT_CHG_MAP0 and 1. -/
def chgClear (s : State) (half : Nat) (v : Word) : State :=
  { s with pf := { s.pf with chgMap := clearHalf s.pf.chgMap half v } }

/-- PLT_FAULT_MAP0 and 1. -/
def faultClear (s : State) (half : Nat) (v : Word) : State :=
  { s with pf := { s.pf with faultMap := clearHalf s.pf.faultMap half v } }

/-! ### MSI-X (R295, R298) -/

/-- The vectors of a function that have a cause reading 1 with its mask bit 0 (R298). -/
def pendingVectors (s : State) (f : Fn) : List (Fin 32) :=
  if f = 0 then pfVectors (s.pf.irqStatus &&& ~~~s.pf.irqMask)
  else
    let p := (s.plot f).plt
    p.vectorsOf (p.irqStatus &&& ~~~p.irqMask)

/-- A write of MSI-X Enable and Function Mask (R298). -/
def msixControl (s : State) (f : Fn) (en mask : Bool) : State :=
  let was := s.fns[f].msixEn
  let s := s.modFn f (fun g => { g with msixEn := en, fmask := mask, pba := if en then g.pba else 0 })
  if en && !was then s.sendVectors f (pendingVectors s f) else s.releasePba f

/-- How many vectors a function has (Table 12-3). -/
def vectorCount (f : Fn) : Nat := if f = 0 then 32 else 16

/-- The Mask bit of one vector clears (R298). -/
def msixUnmask (s : State) (f : Fn) (v : Fin 32) : State :=
  if v.val < vectorCount f then
    (s.modFn f (fun g => { g with msix := g.msix.set v { g.msix[v] with mask := false } })).releasePba f
  else s

/-- One word of an MSI-X table entry: address low, address high, data, vector control. -/
def MsixEntry.word (e : MsixEntry) (k : Nat) : Nat :=
  if k = 0 then e.addr.toNat % 2 ^ 32 else if k = 1 then e.addr.toNat / 2 ^ 32 else if k = 2 then e.data.toNat else b2n e.mask

/-- One word of an MSI-X table entry is written; address bits 1:0 read 0. -/
def MsixEntry.setWord (e : MsixEntry) (k : Nat) (v : Nat) : MsixEntry :=
  if k = 0 then { e with addr := BitVec.ofNat 64 (e.addr.toNat / 2 ^ 32 * 2 ^ 32 + v % 2 ^ 32 / 4 * 4) }
  else if k = 1 then { e with addr := BitVec.ofNat 64 (v % 2 ^ 32 * 2 ^ 32 + e.addr.toNat % 2 ^ 32) }
  else if k = 2 then { e with data := BitVec.ofNat 32 v }
  else { e with mask := bitOf v 0 }

/-- A word of the MSI-X table, by its number from the table's start. -/
def msixWord (s : State) (f : Fn) (n : Nat) : Nat :=
  if h : n / 4 < 32 then (s.fns[f].msix[n / 4]).word (n % 4) else 0

/-- A word of the MSI-X table is written; held messages whose vector is now unmasked go (R298). -/
def msixWordWrite (s : State) (f : Fn) (n : Nat) (v : Nat) : State :=
  if h : n / 4 < 32 then
    (s.modFn f (fun g => { g with msix := g.msix.set (n / 4) ((g.msix[n / 4]).setWord (n % 4) v) })).releasePba f
  else s

end Sys2Proof.Machine
end

