-- ==== Sys2Proof/Machine/Lanes.lean ====
section
/-!
DEFINITION. Sys2Proof/Machine/Lanes.lean: flash geometry: channel descriptors (Tables 3-6, 10-4), INDEX and BACKING entries
(Tables 10-5, 10-6), where a sector (R238) and a backed page (R239) lie, contexts and start queues of a lane (R245), and
suspect LUNs (R261).
-/
namespace Sys2Proof.Machine

/-! ### Channels (Tables 3-6 and 10-4) -/

/-- The fields of a flash channel descriptor that decide what the lane does. -/
structure Chan where
  ceMask : Nat
  luns : Nat
  rate : Nat
  /-- Values written to features 01h, 02h and 10h (R234). -/
  featTiming : Nat
  featDdr3 : Nat
  featDrive : Nat
  addrCyc : Nat
  pageKib : Nat
  spare : Nat
  pages : Nat
  blocks : Nat
  tR : Nat
  tProg : Nat
  tBers : Nat
  eccWarn : Nat
deriving DecidableEq, Repr

/-- A channel descriptor's fields. -/
def chanOf (b : List Byte) : Chan :=
  { ceMask := leAt b 1 1, luns := leAt b 2 1, rate := leAt b 4 2, featTiming := leAt b 6 1,
    featDdr3 := leAt b 7 1, featDrive := leAt b 8 1, addrCyc := leAt b 9 1, pageKib := leAt b 10 2,
    spare := leAt b 12 2, pages := leAt b 14 2, blocks := leAt b 16 4, tR := leAt b 20 2, tProg := leAt b 22 2,
    tBers := leAt b 24 2, eccWarn := leAt b 26 1 }

/-- The descriptor of a channel; an empty one with no bit-stream. -/
def Content.chan (c : Content) (l : Nat) : Chan :=
  chanOf ((c.chans.find? (fun b => leAt b 0 1 == l)).getD [])

/-- Codewords per page. -/
def Chan.cw (c : Chan) : Nat := c.pageKib / 4

/-- Is a LUN of a chip enable populated? -/
def Chan.has (c : Chan) (ce lun : Nat) : Bool := bitOf c.ceMask ce && decide (ce < 4) && decide (lun < c.luns)

/-- Every populated LUN of a channel, as (chip enable, LUN). -/
def Chan.lunList (c : Chan) : List (Nat × Nat) :=
  (List.range 4).flatMap (fun ce => (List.range 8).filterMap (fun n => if c.has ce n then some (ce, n) else none))

/-- Is the channel populated? -/
def Chan.populated (c : Chan) : Bool := !(c.ceMask == 0)

/-- A lane number as a lane. -/
def mkLane (n : Nat) : LaneId := ⟨n % 8, Nat.mod_lt _ (by decide)⟩

/-- The node of a lane. -/
def laneNode (l : LaneId) : NodeId := mkNode (nodeOf .fle l.val)

/-- One lane. -/
def State.lane (s : State) (l : LaneId) : FlashLane := s.lanes[l]

/-- Change one lane. -/
def State.modLaneOf (s : State) (l : LaneId) (f : FlashLane → FlashLane) : State :=
  { s with lanes := s.lanes.set l (f s.lanes[l]) }

/-- Change the FLN set of a plot. -/
def State.modFln (s : State) (q : PlotId) (f : FlnPlot → FlnPlot) : State :=
  s.modPlot q (fun p => { p with fln := f p.fln })

/-- Change one index of a plot. -/
def State.modIdx (s : State) (q : PlotId) (i : Fin 16) (f : IndexState → IndexState) : State :=
  s.modFln q (fun p => { p with idx := p.idx.set i (f p.idx[i]) })

/-- Change the live counters of a plot's FLN set. -/
def State.modFlnCnt (s : State) (q : PlotId) (f : FlnCnt → FlnCnt) : State :=
  s.modFln q (fun p => { p with live := f p.live })

/-! ### SEARCH entries (Tables 10-5 and 10-6) -/

/-- An INDEX entry's fields. -/
structure IndexEntry where
  id : Nat
  m : Nat
  dim : Nat
  kMax : Nat
  nlist : Nat
  laneMask : Nat
  ceMask : Nat
  lunMask : Nat
  home : Nat
  genA : Nat
  genB : Nat
  blocks : Nat
  sideCap : Nat
  sideAddr : Nat
  delAddr : Nat
  dirAddr : Nat
  sideHigh : Nat
deriving DecidableEq, Repr

/-- Read an INDEX entry (Table 10-5). -/
def indexEntry (b : List Byte) : IndexEntry :=
  { id := leAt b 1 1, m := leAt b 2 1, dim := leAt b 4 2, kMax := leAt b 6 2, nlist := leAt b 8 4, laneMask := leAt b 12 1,
    ceMask := leAt b 13 1, lunMask := leAt b 14 1, home := leAt b 15 1, genA := leAt b 16 4, genB := leAt b 20 4,
    blocks := leAt b 24 4, sideCap := leAt b 28 4, sideAddr := leAt b 32 8, delAddr := leAt b 40 8, dirAddr := leAt b 48 8,
    sideHigh := leAt b 56 4 }

/-- A BACKING entry's fields. -/
structure Backing where
  id : Nat
  base : Nat
  pages : Nat
  lane : Nat
  ceMask : Nat
  lunMask : Nat
  first : Nat
  blocks : Nat
deriving DecidableEq, Repr

/-- Read a BACKING entry (Table 10-6). -/
def backingEntry (b : List Byte) : Backing :=
  { id := leAt b 1 1, base := leAt b 8 8, pages := leAt b 16 4, lane := leAt b 20 1, ceMask := leAt b 21 1,
    lunMask := leAt b 22 1, first := leAt b 24 4, blocks := leAt b 28 4 }

/-- The SEARCH section's INDEX entries of a plot. -/
def Content.indexes (c : Content) (q : Nat) : List IndexEntry :=
  match c.sec 0x13 q with | some x => (x.ofType 1).map indexEntry | none => []

/-- The SEARCH section's BACKING entries of a plot. -/
def Content.backings (c : Content) (q : Nat) : List Backing :=
  match c.sec 0x13 q with | some x => (x.ofType 2).map backingEntry | none => []

/-- The committed INDEX entry with an ID. -/
def Content.index? (c : Content) (q : Nat) (id : Nat) : Option IndexEntry := (c.indexes q).find? (fun e => e.id == id)

/-- The members of a mask of `w` bits, ascending. -/
def members (w m : Nat) : List Nat := (List.range w).filter (bitOf m)

/-- The backing entry that maps a backed page (counted from 0x8_0000_0000), with the page's number in it. -/
def Content.backing? (c : Content) (q : Nat) (page : Nat) : Option (Backing × Nat) :=
  (c.backings q).findSome? (fun b =>
    let p0 := (b.base - 0x800000000) / 65536
    if p0 ≤ page ∧ page < p0 + b.pages then some (b, page - p0) else none)

/-- A place in flash: lane, chip enable, LUN, block, page. -/
structure FlashPlace where
  lane : Nat
  ce : Nat
  lun : Nat
  block : Nat
  page : Nat
deriving DecidableEq, Repr

/-- Number of units of an INDEX entry (R238). -/
def IndexEntry.units (e : IndexEntry) : Nat :=
  (members 8 e.laneMask).length * (members 4 e.ceMask).length * (members 8 e.lunMask).length

/-- Unit u of an INDEX entry (R238): lane, chip enable, LUN. -/
def IndexEntry.unit (e : IndexEntry) (u : Nat) : Nat × Nat × Nat :=
  let ls := members 8 e.laneMask
  let cs := members 4 e.ceMask
  let ns := members 8 e.lunMask
  ((ls[u % ls.length]?).getD 0, (cs[u / ls.length % cs.length]?).getD 0, (ns[u / (ls.length * cs.length)]?).getD 0)

/-- The channel geometry the units of an index share (SRC_EXTENT): that of its first lane. -/
def Content.indexChan (c : Content) (e : IndexEntry) : Chan := c.chan ((members 8 e.laneMask)[0]?.getD 0)

/-- Sectors a generation holds (R238). -/
def IndexEntry.capacity (e : IndexEntry) (ch : Chan) : Nat := e.units * e.blocks * ch.pages * ch.cw

/-- Where sector s of a generation lies, and its codeword (R238). -/
def IndexEntry.place (e : IndexEntry) (ch : Chan) (gen : Bool) (sector : Nat) : FlashPlace × Nat :=
  let p := sector / max ch.cw 1
  let u := e.unit (p % max e.units 1)
  let q := p / max e.units 1
  ({ lane := u.1, ce := u.2.1, lun := u.2.2, block := (if gen then e.genB else e.genA) + q / max ch.pages 1,
     page := q % max ch.pages 1 }, sector % max ch.cw 1)

/-- Number of units of a BACKING entry (R239). -/
def Backing.units (b : Backing) : Nat := (members 4 b.ceMask).length * (members 8 b.lunMask).length

/-- The flash pages of backed page i of a BACKING entry, in data order (R239). -/
def Backing.places (b : Backing) (ch : Chan) (i : Nat) : List FlashPlace :=
  let cs := members 4 b.ceMask
  let ns := members 8 b.lunMask
  let u := i % max b.units 1
  let n := 64 / max ch.pageKib 1
  let first := i / max b.units 1 * n
  (List.range n).map (fun k =>
    { lane := b.lane, ce := (cs[u % max cs.length 1]?).getD 0, lun := (ns[u / max cs.length 1]?).getD 0,
      block := b.first + (first + k) / max ch.pages 1, page := (first + k) % max ch.pages 1 })

/-- Bit of FLN_SUSPECT of a LUN. -/
def lunBit (ce lun : Nat) : Nat := 8 * ce + lun

/-- Is the LUN of a place suspect? -/
def State.suspectAt (s : State) (p : FlashPlace) : Bool := (s.lane (mkLane p.lane)).suspect.getLsbD (lunBit p.ce p.lun)

/-! ### Contexts and start queues (R245) -/

/-- Contexts of a plot in use on a lane: started parts and page-ins. -/
def State.ctxUsed (s : State) (q : PlotId) (l : LaneId) : Nat :=
  sumNat ((s.plot q).fln.queries.map (fun x =>
    (x.parts.filter (fun p => p.lane == l && p.started && !p.done)).length)) +
  ((s.plot q).msh.pageIns.filter (fun x => x.lane == l && x.ctx)).length

/-- Has the plot a free context on a lane? -/
def State.ctxFree (s : State) (q : PlotId) (l : LaneId) : Bool :=
  decide (s.ctxUsed q l < s.cfg.content.ctx q.val l.val)

/-- Contexts of every plot in use on a lane (FLN_LANE_STATUS.CTX_BUSY). -/
def State.ctxBusy (s : State) (l : LaneId) : Nat := sumNat (allPlots.map (fun q => s.ctxUsed q l))

/-- The plot an item of a start queue belongs to. -/
def QItem.plotOf : QItem → PlotId
  | .part q _ _ => q
  | .page q _ => q

/-- The plot's item at the front of a lane's start queue. -/
def FlashLane.front (l : FlashLane) (q : PlotId) : Option QItem := l.queue.find? (fun x => x.plotOf == q)

/-- Drop one item of a lane's start queue. -/
def FlashLane.unqueue (l : FlashLane) (x : QItem) : FlashLane := { l with queue := l.queue.erase x }

/-! ### Parking and what contexts wait for (R246, R247) -/

/-- A job whose attempt has begun and goes on (R247). -/
def attemptJob (s : State) (q : PlotId) (i : BitVec 16) : Option Job :=
  match (s.plot q).plt.job? i with
  | some j => if j.phase == .running || j.phase == .between then some j else none
  | none => none

/-- Is a job's work on a lane parked: at its claim, or with the commit window open (R247)? -/
def State.parkedOn (s : State) (q : PlotId) (i : BitVec 16) (l : LaneId) : Bool :=
  (s.plot q).fln.closed || (s.plot q).fln.atClaim.contains (i, l)

/-- Do a job's query parts run on a lane (R247)? -/
def State.runsOn (s : State) (q : PlotId) (i : BitVec 16) (l : LaneId) : Bool := (attemptJob s q i).isSome && !s.parkedOn q i l

/-- Where a sector of a query's generation lies, and its codeword (R238). -/
def queryPlace (c : Content) (q : PlotId) (x : Query) (n : Nat) : Option (FlashPlace × Nat) :=
  (c.index? q.val x.index).map (fun e => e.place (c.indexChan e) (x.gen.getD false) n)

/-- Is a part at work: started and not ended? -/
def Part.active (p : Part) : Bool := p.started && !p.done

/-- Sectors of a part that are not in a codeword buffer yet, in scan order. -/
def Part.unread (p : Part) : List Nat := (p.todo.map (·.1)).filter (fun n => !p.buf.any (fun b => b.1 == n))

/-- The outstanding array operation of a LUN (Table 10-3: at most one). -/
def FlashLane.outstanding (x : FlashLane) (ce lun : Nat) : Option FlashOp :=
  x.ops.find? (fun o => o.ce == ce && o.lun == lun && o.issued)

/-- The array read under way of a page. -/
def FlashLane.reading? (x : FlashLane) (a : FlashPlace) : Option FlashOp :=
  x.ops.find? (fun o => o.kind == .read && o.issued && o.ce == a.ce && o.lun == a.lun && o.block == a.block && o.page == a.page)

/-- The page a query part asks for next: the first in scan order that is neither buffered nor being read. -/
def partNext (s : State) (q : PlotId) (l : LaneId) (x : Query) (p : Part) : Option FlashPlace :=
  p.unread.findSome? (fun n =>
    (queryPlace s.cfg.content q x n).bind (fun a => if ((s.lane l).reading? a.1).isSome then none else some a.1))

/-- Flash pages of a page-in that have not been read, with their place in the 64 KiB page (R239). -/
def pageInLeft (c : Content) (q : PlotId) (x : PageIn) : List (Nat × FlashPlace) :=
  match c.backing? q.val x.page with
  | none => []
  | some (b, i) =>
    let ch := c.chan b.lane
    let ps := b.places ch i
    (List.range ps.length).filterMap (fun k => (ps[k]?).bind (fun a =>
      let off := k * ch.pageKib * 1024
      if x.got.any (fun g => g.1 == off) then none else some (off, a)))

/-- The flash page a page-in asks for next. -/
def pageInNext (s : State) (q : PlotId) (l : LaneId) (x : PageIn) : Option FlashPlace :=
  ((pageInLeft s.cfg.content q x).map (·.2)).find? (fun a => ((s.lane l).reading? a).isNone)

/-! ### The command schedulers of the LUNs (R64, R232, R246) -/

/-- Codeword buffers of a lane (Table 10-2). -/
def laneBuffers : Nat := 96

/-- Codeword buffers in use: codewords that wait for a part to scan them, each once, and room for the reads under way (R231). -/
def State.bufUsed (s : State) (l : LaneId) : Nat :=
  (tenantPlots.flatMap (fun q => (s.plot q).fln.queries.flatMap (fun x =>
    (x.parts.filter (fun p => p.lane == l)).flatMap (fun p => p.buf.map (fun b => (q.val, x.index, x.gen, b.1)))))).eraseDups.length +
  (s.cfg.content.chan l.val).cw * ((s.lane l).ops.filter (fun o => o.kind == .read)).length

/-- A read of a page for a context. -/
def readOp (q : PlotId) (i : BitVec 16) (w : FlashWho) (a : FlashPlace) : FlashOp :=
  { plot := q, job := i, who := w, ce := a.ce, lun := a.lun, block := a.block, page := a.page, kind := .read }

/-- Is a place on a LUN? -/
def FlashPlace.on (a : FlashPlace) (ce lun : Nat) : Bool := a.ce == ce && a.lun == lun

/-- Reads that a plot's query parts and page-ins ask of a LUN, one per context. -/
def readCommands (s : State) (q : PlotId) (l : LaneId) (ce lun : Nat) : List FlashOp :=
  (s.plot q).fln.queries.flatMap (fun x =>
    if s.runsOn q x.job l then
      (x.parts.filter (fun p => p.lane == l && p.active)).filterMap (fun p => (partNext s q l x p).bind (fun a =>
        if a.on ce lun then some (readOp q x.job (.part x.job x.no) a) else none))
    else []) ++
  ((s.plot q).msh.pageIns.filter (fun x => x.lane == l && x.ctx)).filterMap (fun x => (pageInNext s q l x).bind (fun a =>
    if a.on ce lun then some (readOp q 0 (.page x.page) a) else none))

/-- The oldest waiting program or erase of each generation write of a plot on a LUN; a parked job's wait (R247, R256). -/
def writeCommands (s : State) (q : PlotId) (l : LaneId) (ce lun : Nat) : List FlashOp :=
  ((s.lane l).ops.filter (fun o => o.plot == q && o.ce == ce && o.lun == lun && !o.issued && !s.parkedOn q o.job l)).foldl
    (fun acc o => if acc.any (fun p => p.who == o.who) then acc else acc ++ [o]) []

/-- A list begun anew after the element served last. -/
def afterServed {α : Type} (l : List α) (served : α → Bool) : List α :=
  match l.findIdx? served with
  | some i => l.drop (i + 1) ++ l.take (i + 1)
  | none => l

/-- A LUN's scheduler. -/
def FlashLane.schedOf (x : FlashLane) (ce lun : Nat) : LunSched := (x.sched.toList[lunBit ce lun]?).getD {}

/-- The command of a plot whose turn it is on a LUN: round robin among the plot's contexts (R246). -/
def plotCommand (s : State) (q : PlotId) (l : LaneId) (ce lun : Nat) : Option FlashOp :=
  let room := decide (s.bufUsed l + (s.cfg.content.chan l.val).cw ≤ laneBuffers)
  let cs := (if room then readCommands s q l ce lun else []) ++ writeCommands s q l ce lun
  match ((s.lane l).schedOf ce lun).served.lookup q with
  | some w => (afterServed cs (fun o => o.who == w)).head?
  | none => cs.head?

/-- Of commands of different plots in plot order, the one of the plot whose turn it is. -/
def turnOf (last : Nat) (cs : List FlashOp) : Option FlashOp :=
  ((cs.filter (fun o => decide (last < o.plot.val))) ++ cs.filter (fun o => decide (o.plot.val ≤ last))).head?

/-- The command a LUN's scheduler issues next (Table 2-10, R246): class 3 first, then class 2, then class 1 against class 0 in the
ratio 3:1, and round robin among the plots of a class; none while an operation is outstanding on the LUN (R232). -/
def nextCommand (s : State) (l : LaneId) (ce lun : Nat) : Option FlashOp :=
  let x := s.lane l
  if x.state != .ready || x.suspect.getLsbD (lunBit ce lun) || (x.outstanding ce lun).isSome then none
  else
    let cs := tenantPlots.filterMap (fun q => plotCommand s q l ce lun)
    let d := x.schedOf ce lun
    let cls (k : Nat) : List FlashOp := cs.filter (fun o => decide ((s.plot o.plot).rws.cls.toNat = k))
    let low := if (cls 1).isEmpty then cls 0 else if (cls 0).isEmpty || decide (d.ones < 3) then cls 1 else cls 0
    turnOf d.last (if !(cls 3).isEmpty then cls 3 else if !(cls 2).isEmpty then cls 2 else low)

/-- The scheduler after it has issued a command of a class. -/
def LunSched.after (d : LunSched) (o : FlashOp) (cls : Nat) : LunSched :=
  { ones := if cls = 1 then min 3 (d.ones + 1) else if cls = 0 then 0 else d.ones,
    last := o.plot.val, served := assocSet d.served o.plot o.who }

/-- Spare bytes of a page (R235): 200 parity bytes of each codeword written, the rest 0xFF. -/
def spareBytes (ch : Chan) (data : List Byte) : List Byte :=
  (List.range ch.spare).map (fun k =>
    if k / 200 < data.length / 4096 then Config.parity (slice data (4096 * (k / 200)) 4096) (k % 200) else 0xFF)

/-- An array operation goes out on the channel (Table 10-3). -/
def opEvent (c : Content) (l : LaneId) (o : FlashOp) : OutEvent :=
  match o.kind with
  | .read => .flashRead l.val o.ce o.lun o.block o.page
  | .program => .flashProgram l.val o.ce o.lun o.block o.page o.data (spareBytes (c.chan l.val) o.data)
  | .erase => .flashErase l.val o.ce o.lun o.block

/-- A command is issued. -/
def issueOp (s : State) (l : LaneId) (o : FlashOp) : State :=
  let d := ((s.lane l).schedOf o.ce o.lun).after o (s.plot o.plot).rws.cls.toNat
  (s.modLaneOf l (fun x => { x with
    ops := if o.kind == .read then x.ops ++ [{ o with issued := true }]
      else x.ops.map (fun p => if p = o then { p with issued := true } else p),
    sched := Vector.ofFn (fun (k : Fin 32) => if k.val = lunBit o.ce o.lun then d else x.sched[k]) })).emit
    (opEvent s.cfg.content l o)

/-- Commands are issued, one on each LUN that has none outstanding, while there are any. -/
def issueLaneAux : Nat → State → LaneId → State
  | 0, s, _ => s
  | n + 1, s, l =>
    match (s.cfg.content.chan l.val).lunList.findSome? (fun u => nextCommand s l u.1 u.2) with
    | none => s
    | some o => issueLaneAux n (issueOp s l o) l

/-- A lane issues what it can: at most one operation on each of its 32 LUNs (R232). -/
def issueLane (s : State) (l : LaneId) : State := issueLaneAux 32 s l

/-! ### Page-ins take contexts (R116, R245) -/

/-- Page-ins at the front of the plot's start queue take free contexts while the lane is READY (R116, R234, R245). -/
def startPageInsAux : Nat → State → PlotId → LaneId → State
  | 0, s, _, _ => s
  | n + 1, s, q, l =>
    match (s.lane l).front q with
    | some (.page q' page) =>
      if s.ctxFree q l && (s.lane l).state == .ready then
        let s := s.modLaneOf l (fun x => x.unqueue (.page q' page))
        startPageInsAux n (s.modMsh q (fun m => { m with pageIns := m.pageIns.map (fun x =>
          if x.page = page then { x with ctx := true } else x) })) q l
      else s
    | _ => s

/-- Page-ins start where contexts are free, and the lane issues what it can. -/
def startPageIns (s : State) (q : PlotId) (l : LaneId) : State :=
  issueLane (startPageInsAux ((s.lane l).queue.length) s q l) l

/-! ### Suspect LUNs (R261) -/

/-- Does a part still need a LUN of its lane? -/
def partNeeds (c : Content) (q : PlotId) (x : Query) (p : Part) (ce lun : Nat) : Bool :=
  p.active && p.unread.any (fun n => (queryPlace c q x n).any (fun a => a.1.on ce lun))

/-- Does a page-in need a LUN of its lane? -/
def pageInNeeds (c : Content) (q : PlotId) (x : PageIn) (ce lun : Nat) : Bool :=
  match c.backing? q.val x.page with
  | none => false
  | some (b, i) => (b.places (c.chan b.lane) i).any (fun a => a.on ce lun)

/-- The jobs of a plot that need a LUN now: query parts, page-ins with waiting readers, generation writes (R261). -/
def jobsNeeding (s : State) (q : PlotId) (l : LaneId) (ce lun : Nat) : List (BitVec 16) :=
  let c := s.cfg.content
  let p := s.plot q
  (p.fln.queries.filter (fun x => x.parts.any (fun y => y.lane == l && partNeeds c q x y ce lun))).map (·.job) ++
  (p.msh.pageIns.filter (fun x => x.lane == l && pageInNeeds c q x ce lun)).flatMap (·.readers) ++
  ((s.lane l).ops.filter (fun o => o.plot == q && o.ce == ce && o.lun == lun && o.kind != .read)).map (·.job)

/-- A LUN is marked suspect (R261): kind 1 read, 2 program, 3 erase, 4 init. -/
def markSuspect (s : State) (l : LaneId) (ce lun kind : Nat) : State :=
  if (s.lane l).suspect.getLsbD (lunBit ce lun) then s
  else
    let hurt := allPlots.flatMap (fun q => (jobsNeeding s q l ce lun).map (fun i => (q, i)))
    let s := s.modLaneOf l (fun x => { x with
      suspect := setBit x.suspect (lunBit ce lun) true,
      ops := x.ops.filter (fun o => !(o.ce == ce && o.lun == lun)) })
    let s := s.raisePf 10
    let s := s.eachPlot allPlots (fun s q => s.modMsh q (fun m => { m with
      pageIns := m.pageIns.filter (fun x => !(x.lane == l && pageInNeeds s.cfg.content q x ce lun)) }))
    (hurt.foldl (fun s x => chargeFault s x.1 x.2 .flash (some (laneNode l))) s).logLine
      0x50 noPlot (some (laneNode l)) (32 * l.val + 8 * ce + lun) kind

end Sys2Proof.Machine
end

