-- ==== Sys2Proof/Machine/Mesh.lean ====
section
/-!
DEFINITION. Sys2Proof/Machine/Mesh.lean: multicasts (R106 to R108), merged reads (R109), access to plot memory: mapping,
write copies, backed pages, poison (R111 to R120), and link replay (R121).
-/
namespace Sys2Proof.Machine

/-! ### Multicasts (R106 to R108) -/

/-- Nodes of a list of node indices, ascending. -/
def nodesOf (l : List Nat) : List NodeId := l.map mkNode

/-- The live job of a plot whose frame program runs: one marked as overrun has stopped (R28). -/
def runningJob (s : State) (q : PlotId) (i : BitVec 16) : Option Job :=
  match (s.plot q).plt.job? i with
  | some j => if j.phase == .running && !j.budget && !j.deadline then some j else none
  | none => none

/-- Is a retry-table entry of a source, plot and route entry, with a target still to answer, or that has refused? -/
def Retry.is (r : Retry) (src : NodeId) (q : PlotId) (entry : Nat) : Bool := r.src == src && r.plot == q && decide (r.entry = entry)

/-- Has a target still to answer the transfer? -/
def Retry.asks (r : Retry) (t : NodeId) : Bool := r.open_.contains t && !r.refused.contains t

/-- Change the first element of a list that meets a condition. -/
def changeFirst {α : Type} (p : α → Bool) (f : α → α) : List α → List α
  | [] => []
  | x :: xs => if p x then f x :: xs else x :: changeFirst p f xs

/-- Drop the first element of a list that meets a condition. -/
def dropFirst {α : Type} (p : α → Bool) : List α → List α
  | [] => []
  | x :: xs => if p x then xs else x :: dropFirst p xs

/-- Change the MSH block. -/
def State.modMesh (s : State) (f : MshState → MshState) : State := { s with msh := f s.msh }

/-- The links of a route entry's tree to some of its targets (R99). -/
def entryTree (r : Route) (ts : List Nat) : List (Nat × Nat) := (entryLinks r ts).map (fun e => (e.1, e.2.1))

/-- Receive buffer, in flits, that a node dedicates to scheduled all-or-nothing multicasts (R106). -/
def dedicatedFlits (routes : List (List Byte)) (n : Nat) : Nat :=
  sumNat ((List.range 65).map (fun q => sumNat ((routes.filter (fun b => leAt b 0 1 == q && leAt b 1 1 == 1)).map (fun b =>
    match findRoute routes q (leAt b 10 2) with
    | some (r, ts) => if ts.contains n then r.flits else 0
    | none => 0))))

/-- A source launches a retried multicast of one whole transfer (R107): it needs one of its 16 retry-table entries (R108). -/
def launchMulticast (s : State) (q : PlotId) (i : BitVec 16) (entry flits : Nat) : State :=
  match runningJob s q i, findRoute s.msh.routes q.val entry with
  | some _, some (r, ts) =>
    let src := mkNode r.src
    if r.kind = 2 ∧ 1 ≤ flits ∧ flits ≤ 1024 ∧ (s.msh.retries.filter (fun x => x.src == src)).length < 16 then
      (s.modMesh (fun m => { m with retries := m.retries ++
        [{ src := src, plot := q, job := i, entry := entry, flits := flits, at_ := s.boot.tclk, open_ := nodesOf ts,
           refused := [] }] })).emit (.mesh src (nodesOf ts) 2 flits (entryTree r ts))
    else s
  | _, _ => s

/-- A target answers a transfer (R107): ACK closes it, and the entry when it was the last; NACK records a refusal. -/
def Retry.answer (r : Retry) (t : NodeId) (ack : Bool) : Retry :=
  if ack then { r with open_ := r.open_.filter (fun x => x != t) } else { r with refused := r.refused ++ [t] }

/-- ACK or NACK reaches the source; a target that acknowledges has taken the transfer in (R107). Of several transfers of one
entry the answer is the oldest's that the target has not answered. -/
def multicastAnswer (s : State) (src : NodeId) (q : PlotId) (entry : Nat) (t : NodeId) (ack : Bool) : State :=
  let asks (r : Retry) : Bool := r.is src q entry && r.asks t
  match s.msh.retries.find? asks with
  | none => s
  | some r =>
    let s := s.modMesh (fun m => { m with
      retries := (changeFirst asks (fun r => r.answer t ack) m.retries).filter (fun r => !r.open_.isEmpty) })
    if ack then s.emit (.landed src t 2 r.flits) else s

/-- READY reaches the source (R107): it resends on the tree pruned to the targets still unacknowledged. -/
def multicastResend (s : State) (src : NodeId) (q : PlotId) (entry : Nat) (t : NodeId) : State :=
  let refused (r : Retry) : Bool := r.is src q entry && r.refused.contains t
  match s.msh.retries.find? refused with
  | none => s
  | some r =>
    let links := match findRoute s.msh.routes q.val entry with
      | some (e, _) => entryTree e (r.open_.map (·.val))
      | none => []
    let s := s.modMesh (fun m => { m with retries := changeFirst refused (fun x => { x with refused := [] }) m.retries })
    (s.modMsh q (fun m => { m with mcRetry := satInc m.mcRetry })).emit (.mesh src r.open_ 2 r.flits links)

/-- 100 µs after its first launch an unfinished retried multicast faults its job (R108). -/
def multicastExpire (s : State) (src : NodeId) (q : PlotId) (entry : Nat) : State :=
  match s.msh.retries.find? (fun r => r.is src q entry) with
  | none => s
  | some r =>
    let s := s.advanceTo (r.at_ + 10000)
    let s := s.modMesh (fun m => { m with
      mcFault := satInc m.mcFault, retries := dropFirst (fun x => x.is src q entry) m.retries })
    chargeFault s q r.job .multicast (some src)

/-- An unscheduled all-or-nothing multicast (R106): the source asks its targets for credit in ascending node order, launches
when every one has granted, and the targets hold their grants until it has landed. -/
def reserveStep (s : State) (q : PlotId) (i : BitVec 16) (entry : Nat) (step : CreditStep) : State :=
  match runningJob s q i, findRoute s.msh.routes q.val entry with
  | some _, some (r, ts) =>
    let src := mkNode r.src
    let is (x : Reserve) : Bool := x.src == src && x.plot == q && decide (x.entry = entry)
    if r.kind ≠ 1 ∨ r.flits ≠ 0 then s
    else match step with
    | .ask flits =>
      if s.msh.reserves.any is then s
      else (s.modMesh (fun m => { m with reserves := m.reserves ++
        [{ src := src, plot := q, job := i, entry := entry, flits := flits, waiting := nodesOf ts, granted := [],
           launched := false }] })).emit (.mesh src (nodesOf ts) 3 1 (packetTree src.val ts))
    | .grant t =>
      match s.msh.reserves.find? (fun x => is x && x.waiting.contains t) with
      | none => s
      | some x =>
        let left := x.waiting.filter (fun y => y != t)
        let s := s.modMesh (fun m => { m with reserves := m.reserves.map (fun y =>
          if is y then { y with waiting := left, granted := y.granted ++ [t], launched := left.isEmpty } else y) })
        if left.isEmpty then s.emit (.mesh src (nodesOf ts) 1 x.flits (entryTree r ts)) else s
    | .landed =>
      match s.msh.reserves.find? (fun x => is x && x.launched) with
      | none => s
      | some x =>
        (nodesOf ts).foldl (fun s t => s.emit (.landed src t 1 x.flits))
          (s.modMesh (fun m => { m with reserves := m.reserves.filter (fun y => !is y) }))
  | _, _ => s

/-! ### Frames (R110 to R113, R118) -/

/-- The memory a page of a plot lies in: a slice's node, or the commons. -/
inductive Pool where
  | slice (node : Nat)
  | commons
deriving DecidableEq, Repr

/-- The number under which a memory's frames are kept: its node, or 120 for the commons quota. -/
def Pool.key : Pool → Nat
  | .slice n => n
  | .commons => 120

/-- The memory and home page number of the home page that holds a plot address; none for an unmapped or backed one. -/
def homePlace (s : State) (q : PlotId) (a : Nat) : Option (Pool × Nat) :=
  let c := s.cfg.content
  match region c q.val (s.plot q).msh a with
  | .tile t p => (c.tileList q.val)[t]?.map (fun i => (.slice (nodeOf .at_ i), p))
  | .engine m p => (c.mxeList q.val)[m]?.map (fun i => (.slice (nodeOf .mxe i), p))
  | .commons p => some (.commons, p)
  | _ => none

/-- The memory of the home page that holds a plot address. -/
def poolOf (s : State) (q : PlotId) (a : Nat) : Option Pool := (homePlace s q a).map (·.1)

/-- Frames of a memory of the plot. -/
def poolSize (s : State) (q : PlotId) : Pool → Nat
  | .slice n => if (nodeKind n).1 == .at_ then 384 else 256
  | .commons => s.cfg.content.quota q.val

/-- Cache frames of a slice or the commons (R112). -/
def cacheFrames (s : State) (q : PlotId) (b : Pool) : Nat :=
  let m := (s.plot q).msh
  match b with
  | .slice n => if (nodeKind n).1 == .at_ then min m.atCache.toNat 384 else min m.mxeCache.toNat 256
  | .commons => min m.cmnCache.toNat (s.cfg.content.quota q.val)

/-- The frame of home page k of a memory. -/
def MshSet.homeFrame (m : MshSet) (b : Pool) (k : Nat) : Nat :=
  match m.moved.find? (fun x => x.1 == b.key && x.2.1 == k) with
  | some x => x.2.2
  | none => k

/-- Home page k of a memory lies in a frame from now on. -/
def MshSet.setFrame (m : MshSet) (b : Pool) (k f : Nat) : MshSet :=
  let rest := m.moved.filter (fun x => !(x.1 == b.key && x.2.1 == k))
  { m with moved := if f = k then rest else rest ++ [(b.key, k, f)] }

/-- Is a frame of a memory that of one of its first `h` home pages? -/
def MshSet.holdsHome (m : MshSet) (b : Pool) (h f : Nat) : Bool :=
  (decide (f < h) && !m.moved.any (fun x => x.1 == b.key && x.2.1 == f)) ||
    m.moved.any (fun x => x.1 == b.key && decide (x.2.1 < h) && x.2.2 == f)

/-- Where a resident backed page lies. -/
def Resident.pool (r : Resident) : Pool := match r.home with | some n => .slice n | none => .commons

/-- Pages of write copies, made or being made, of the plot's jobs: by page number of the plot address space. -/
def copyPages (s : State) (q : PlotId) : List Nat :=
  ((s.plot q).plt.jobs.filter Job.live).flatMap (fun j => j.copies ++ j.copying)

/-- Frames of a memory that hold write copies, made or being made (R110: the list of copies of each job). -/
def copyFrames (s : State) (q : PlotId) (b : Pool) : List Nat :=
  ((s.plot q).plt.jobs.filter Job.live).flatMap (fun j =>
    (j.frames.filter (fun (x : Nat × Nat) => poolOf s q (65536 * x.1) == some b)).map (·.2))

/-- Frames of a memory that hold backed pages (R110: the table of resident pages). -/
def backedFrames (s : State) (q : PlotId) (b : Pool) : List Nat :=
  ((s.plot q).msh.resident.filter (fun r => r.pool == b)).map (·.frame)

/-- Frames of a memory that hold neither one of its first `h` home pages, nor a write copy, nor a backed page: the free ones
of its inverted table (R110). -/
def openFrames (s : State) (q : PlotId) (b : Pool) (h : Nat) : List Nat :=
  let taken := copyFrames s q b ++ backedFrames s q b
  (List.range (poolSize s q b)).filter (fun f => !(s.plot q).msh.holdsHome b h f && !taken.contains f)

/-- Cache frames of a memory that hold nothing. -/
def freeFrames (s : State) (q : PlotId) (b : Pool) : List Nat := openFrames s q b (poolSize s q b - cacheFrames s q b)

/-- Compass takes one of the frames that are free (R112: its choice, and not otherwise defined; a free value, log entry
174). -/
def chooseFrame (s : State) (b : Pool) (page : Nat) (l : List Nat) : Option Nat :=
  l[Config.frameChoice s.boot.tclk b.key page % max l.length 1]?

/-- The mesh address at which a frame of a memory begins (R118, Table 4-10). -/
def frameAddr (s : State) (q : PlotId) (b : Pool) (f : Nat) : Option Nat :=
  match b with
  | .slice n => some (n * 2 ^ 25 + 65536 * f)
  | .commons => (s.msh.quota.find? (fun x => x.plot == q.val && x.i == f)).map (fun x =>
      nodeOf .cmn x.bank * 2 ^ 25 + 65536 * x.page)

/-- The frame in which a job meets a page, or no job in particular: its own copy's, the home frame, a backed page's. -/
def pageFrame (s : State) (q : PlotId) (j : Option Job) (page : Nat) : Option (Pool × Nat) :=
  match homePlace s q (65536 * page) with
  | some (b, k) =>
    let own := match j with
      | some j => if j.copies.contains page then (j.frames.find? (fun (x : Nat × Nat) => x.1 == page)).map (fun (x : Nat × Nat) => x.2) else none
      | none => none
    some (b, own.getD ((s.plot q).msh.homeFrame b k))
  | none =>
    if page < 0x80000 then none
    else ((s.plot q).msh.resident.find? (fun r => r.page == page - 0x80000)).map (fun r => (r.pool, r.frame))

/-- The mesh address at which that frame begins. -/
def pageMesh (s : State) (q : PlotId) (j : Option Job) (page : Nat) : Option Nat :=
  (pageFrame s q j page).bind (fun x => frameAddr s q x.1 x.2)

/-- The node of a mesh address (R118). -/
def meshNode (l : Nat) : NodeId := mkNode (l / 2 ^ 25)

/-- Is a mesh address one that Table 4-10 assigns? -/
def meshAssigned (l : Nat) : Bool :=
  let off := l % 2 ^ 25
  let sram (n : Nat) : Bool := decide (0x1800000 ≤ off) && decide (off < 0x1800000 + n)
  decide (l / 2 ^ 25 < 120) && match (nodeKind (l / 2 ^ 25)).1 with
    | .at_ => decide (off < 0x1800000) || sram 0x40000
    | .cmn => decide (off < 0x1800000)
    | .mxe => decide (off < 0x1000000) || sram 0x100000
    | .hcc => sram 0x80000
    | .fle => sram 0x300000
    | _ => false

/-! ### Poisoned lines (R119, R120) -/

/-- Pages a range touches. -/
def pagesOf (a n : Nat) : List Nat :=
  if n = 0 then [] else (List.range ((a + n - 1) / 65536 - a / 65536 + 1)).map (fun i => a / 65536 + i)

/-- Does a range overlap an area? -/
def overlaps (a n b m : Nat) : Bool := decide (a < b + m) && decide (b < a + n)

/-- The parts of a range of plot memory as a job meets them, page by page: mesh address and length. -/
def meshParts (s : State) (q : PlotId) (j : Option Job) (a n : Nat) : List (Nat × Nat) :=
  (pagesOf a n).filterMap (fun p =>
    let lo := max a (65536 * p)
    let hi := min (a + n) (65536 * (p + 1))
    (pageMesh s q j p).map (fun base => (base + (lo - 65536 * p), hi - lo)))

/-- Change the poisoned lines. -/
def State.modPoison (s : State) (f : List Nat → List Nat) : State := s.modMesh (fun m => { m with poison := f m.poison })

/-- Lines that lie wholly in a mesh range are rewritten: their poison is gone (R119). -/
def healLines (lo n : Nat) (l : List Nat) : List Nat := l.filter (fun x => !(decide (lo ≤ x) && decide (x + 64 ≤ lo + n)))

/-- A range of plot memory is rewritten as a job, or no job, meets it: poison of whole lines is gone. -/
def healRange (s : State) (q : PlotId) (j : Option Job) (a n : Nat) : State :=
  let parts := meshParts s q j a n
  s.modPoison (fun l => parts.foldl (fun l x => healLines x.1 x.2 l) l)

/-- A frame is rewritten whole. -/
def healFrame (s : State) (q : PlotId) (b : Pool) (f : Nat) : State :=
  match frameAddr s q b f with
  | some base => s.modPoison (healLines base 65536)
  | none => s

/-- A frame's lines are copied to another: a poisoned line stays poisoned in the copy (DEDUCED, log entry 37). -/
def copyLines (s : State) (q : PlotId) (b : Pool) (fr to_ : Nat) : State :=
  match frameAddr s q b fr, frameAddr s q b to_ with
  | some x, some y => s.modPoison (fun l =>
      healLines y 65536 l ++ (l.filter (fun k => decide (x ≤ k) && decide (k < x + 65536))).map (fun k => k - x + y))
  | _, _ => s

/-- The node of a poisoned line that a job meets in a range (R119). -/
def poisonAt (s : State) (q : PlotId) (j : Job) (a n : Nat) : Option NodeId :=
  (meshParts s q (some j) a n).findSome? (fun x =>
    (s.msh.poison.find? (fun l => overlaps l 64 x.1 x.2)).map meshNode)

/-- The node of a poisoned line that a job's write would cover only in part (R119). -/
def partPoison (s : State) (q : PlotId) (j : Job) (a n : Nat) : Option NodeId :=
  (meshParts s q (some j) a n).findSome? (fun x =>
    (s.msh.poison.find? (fun l =>
      overlaps l 64 x.1 x.2 && !(decide (x.1 ≤ l) && decide (l + 64 ≤ x.1 + x.2)))).map meshNode)

/-- The job with the bytes of a device write that lie in its private copies. -/
def Job.putShared (j : Job) (q : PlotId) (a : Nat) (bs : List Byte) : Job :=
  { j with ovl := (List.range bs.length).foldl (fun m k =>
      if j.copies.contains ((a + k) / 65536) then cellPut m (memKey q (a + k)) ((bs[k]?).getD 0) else m) j.ovl }

/-- Bytes are written to a plot's home pages by the device itself, not by a job (R177, R237, R327): to the original, and to
every private copy of the page (DESIGN CHOICE, log entry 176). -/
def State.pokeHome (s : State) (q : PlotId) (a : Nat) (bs : List Byte) : State :=
  let s := healRange (s.pokeMem q a bs) q none a bs.length
  ((s.plot q).plt.jobs.filter (fun j => j.live && (pagesOf a bs.length).any j.copies.contains)).foldl (fun s j =>
    (healRange s q (some j) a bs.length).modJob q j.idx (fun j => j.putShared q a bs)) s

/-! ### Write copies (R115) -/

/-- All cache frames of the plot. -/
def cacheTotal (s : State) (q : PlotId) : Nat :=
  let c := s.cfg.content
  let m := (s.plot q).msh
  (c.tileList q.val).length * min m.atCache.toNat 384 + (c.mxeList q.val).length * min m.mxeCache.toNat 256 +
    min m.cmnCache.toNat (c.quota q.val)

/-- MSH_PCACHE_FREE: cache frames that hold no write copy (R52, R115). -/
def cacheFree (s : State) (q : PlotId) : Nat := cacheTotal s q - (copyPages s q).length

/-- MSH_PHOME: home pages of the plot. -/
def homePages (s : State) (q : PlotId) : Nat :=
  let c := s.cfg.content
  let m := (s.plot q).msh
  (c.tileList q.val).length * m.atHome + (c.mxeList q.val).length * m.mxeHome + m.cmnHome (c.quota q.val)

/-- A resident backed page leaves its frame (R116). -/
def evict (s : State) (q : PlotId) (page : Nat) : State :=
  let a := 0x800000000 + 65536 * page
  (s.wipeMem q a (a + 65536)).modMsh q (fun m => { m with resident := m.resident.filter (fun r => r.page != page) })

/-- The least recently used resident page of a bank; with `idle`, only pages not used in the current frame (R116). -/
def oldest (s : State) (q : PlotId) (b : Pool) (idle : Bool) : Option Resident :=
  ((s.plot q).msh.resident.filter (fun r => r.pool == b && !(idle && r.used))).foldl
    (fun best r => match best with
      | none => some r
      | some x => if r.stamp < x.stamp then some r else some x) none

/-- A frame of a bank is found for a page: a free one, or that of the least recently used backed page. -/
def takeFrame (s : State) (q : PlotId) (b : Pool) (page : Nat) (idle : Bool) : Option (Nat × State) :=
  match chooseFrame s b page (freeFrames s q b) with
  | some f => some (f, s)
  | none => (oldest s q b idle).map (fun r => (r.frame, evict s q r.page))

/-- A backed page is read or requested: it counts as used in this frame (R116). -/
def touchPage (s : State) (q : PlotId) (page : Nat) : State :=
  s.modMsh q (fun m =>
    let top := (m.resident.map (·.stamp)).foldl max 0
    { m with resident := m.resident.map (fun r => if r.page = page then { r with used := true, stamp := top + 1 } else r) })

/-! ### Access checks (R111, R115, R117, R119) -/

/-- Is a range in a lane-managed area of the plot: a side ring or a delete area (R237)? -/
def laneManaged (c : Content) (q : Nat) (a n : Nat) : Bool :=
  (c.indexes q).any (fun e =>
    (e.sideCap != 0 && overlaps a n e.sideAddr (64 * e.sideCap)) || overlaps a n e.delAddr (65536 + 16 * e.sideCap))

/-- Is a range in a slot of the plot's ingest entries (R327)? -/
def inSlot (c : Content) (q : Nat) (a n : Nat) : Bool :=
  c.ingest.any (fun e => leAt e 1 1 == q && overlaps a n (leAt e 32 8) (64 + 64 * ceilDiv (leAt e 26 2) 64))

/-- What a read of plot memory meets. -/
inductive Access where
  | ok
  /-- A backed page is not resident: the reader waits (R116). -/
  | wait
  | unmapped
  | poisoned (node : NodeId)
deriving DecidableEq, Repr

/-- What a read of one page meets, poison apart. -/
def pageAccess (s : State) (q : PlotId) (page : Nat) : Access :=
  match region s.cfg.content q.val (s.plot q).msh (65536 * page) with
  | .tile _ _ | .engine _ _ | .commons _ => .ok
  | .backed p =>
    if (s.cfg.content.backing? q.val p).isNone then .unmapped
    else if (s.plot q).msh.resident.any (fun r => r.page == p) then .ok else .wait
  | .unmapped => .unmapped

/-- What a job's read of a range meets. -/
def readAccess (s : State) (q : PlotId) (j : Job) (a n : Nat) : Access :=
  let ps := (pagesOf a n).map (pageAccess s q)
  if ps.contains .unmapped then .unmapped
  else if ps.contains .wait then .wait
  else match poisonAt s q j a n with
  | some m => .poisoned m
  | none => .ok

/-- A job reads ranges of plot memory and goes on: an address no region maps is a defective image (R117), a poisoned line
faults it (R119), a page not resident makes it wait; backed pages read count as used. -/
def withReads (s : State) (q : PlotId) (j : Job) (rs : List (Nat × Nat)) (node : Option NodeId) (k : State → State) : State :=
  let as := rs.map (fun r => readAccess s q j r.1 r.2)
  if as.contains .unmapped then chargeFault s q j.idx .image node
  else match as.findSome? (fun a => match a with | .poisoned m => some m | _ => none) with
  | some m => chargeFault s q j.idx .engine (some m)
  | none =>
    if as.contains .wait then s
    else k (rs.foldl (fun s r => (pagesOf r.1 r.2).foldl (fun s p =>
      if 0x80000 ≤ p then touchPage s q (p - 0x80000) else s) s) s)

/-- Is every page of a range a home page that a job may write (R117, R237, R327)? -/
def mayWrite (s : State) (q : PlotId) (a n : Nat) : Bool :=
  (pagesOf a n).all (fun p => (poolOf s q (65536 * p)).isSome) && !laneManaged s.cfg.content q.val a n &&
    !inSlot s.cfg.content q.val a n

/-- Home pages of a range of which the job has no copy, made or being made. -/
def newPages (j : Job) (a n : Nat) : List Nat :=
  (pagesOf a n).filter (fun p => !j.copies.contains p && !j.copying.contains p)

/-- A job's private copy of a home page is complete: the page's bytes and lines as they stand (R115). -/
def makeCopy (s : State) (q : PlotId) (i : BitVec 16) (page : Nat) : State :=
  match (s.plot q).plt.job? i, homePlace s q (65536 * page) with
  | some j, some (b, k) =>
    let s := match (j.frames.find? (fun x => x.1 == page)) with
      | some x => copyLines s q b ((s.plot q).msh.homeFrame b k) x.2
      | none => s
    let m := s.mem
    s.modJob q i (fun j => { j.takePage q page m with copying := j.copying.filter (fun p => p != page) })
  | _, _ => s

/-- Frames are found for new copies of a list of pages, or the write waits (R115). The copies are begun. -/
def takeFrames (s : State) (q : PlotId) (i : BitVec 16) : List Nat → Option State
  | [] => some s
  | p :: ps =>
    match poolOf s q (65536 * p) with
    | none => none
    | some b =>
      match takeFrame s q b p false with
      | none => none
      | some (f, s) =>
        takeFrames (s.modJob q i (fun j => { j with frames := j.frames ++ [(p, f)], copying := j.copying ++ [p] })) q i ps

/-- Bytes land in a job's private copies; lines they cover whole are no longer poisoned (R119). -/
def landBytes (s : State) (q : PlotId) (i : BitVec 16) (a : Nat) (bs : List Byte) : State :=
  let s := match (s.plot q).plt.job? i with
    | some j => healRange s q (some j) a bs.length
    | none => s
  s.modJob q i (fun j => j.put q a bs)

/-- A job's engine writes plot memory and goes on (R54, R115): the writes land in private copies, made where there are
none. An address it may not write, or a page beyond WR_PAGES, is a defective image (R117); part of a poisoned line faults
the job (R119); while a page's copy is being made, or with no cache frame for one, the engine waits. -/
def withWrites (s : State) (q : PlotId) (j : Job) (ws : List (Nat × List Byte)) (node : Option NodeId) (k : State → State) :
    State :=
  let j := ((s.plot q).plt.job? j.idx).getD j
  let ws := ws.filter (fun w => !w.2.isEmpty)
  if !ws.all (fun w => mayWrite s q w.1 w.2.length) then chargeFault s q j.idx .image node
  else match ws.findSome? (fun w => partPoison s q j w.1 w.2.length) with
  | some m => chargeFault s q j.idx .engine (some m)
  | none =>
    let new := (ws.flatMap (fun w => newPages j w.1 w.2.length)).eraseDups
    if j.img.wrPages < j.copies.length + j.copying.length + new.length then chargeFault s q j.idx .image node
    else if ws.any (fun w => (pagesOf w.1 w.2.length).any j.copying.contains) then s
    else match takeFrames s q j.idx new with
    | none => s
    | some s =>
      let s := s.modMsh q (fun m => { m with copy := satAdd m.copy new.length })
      let s := new.foldl (fun s p => makeCopy s q j.idx p) s
      k (ws.foldl (fun s w => landBytes s q j.idx w.1 w.2) s)

/-- A job's first write to a home page (R115): its private copy is begun, and the write waits for it; a write whose pages
all have copies lands at once. -/
def firstWrite (s : State) (q : PlotId) (i : BitVec 16) (node : NodeId) (a : Nat) (bs : List Byte) : State :=
  match runningJob s q i with
  | none => s
  | some j =>
    if bs.isEmpty then s
    else if !mayWrite s q a bs.length then chargeFault s q i .image (some node)
    else match partPoison s q j a bs.length with
    | some m => chargeFault s q i .engine (some m)
    | none =>
      let new := newPages j a bs.length
      if j.img.wrPages < j.copies.length + j.copying.length + new.length then chargeFault s q i .image (some node)
      else
        let missing := (pagesOf a bs.length).filter (fun p => !j.copies.contains p)
        if missing.isEmpty then landBytes s q i a bs
        else match takeFrames s q i new with
        | none => s
        | some s =>
          let s := s.modMsh q (fun m => { m with copy := satAdd m.copy new.length })
          s.modJob q i (fun j => { j with writes := j.writes ++ [(missing, a, bs)] })

/-- A private copy is complete (R115): the writes that wait for nothing more land, in the order in which they were made. -/
def copyDone (s : State) (q : PlotId) (i : BitVec 16) (page : Nat) : State :=
  match (s.plot q).plt.job? i with
  | none => s
  | some j =>
    if !j.copying.contains page then s
    else
      let s := makeCopy s q i page
      let ws := j.writes.map (fun w => (w.1.filter (fun p => p != page), w.2))
      let s := s.modJob q i (fun j => { j with writes := ws.filter (fun w => !w.1.isEmpty) })
      (ws.filter (fun w => w.1.isEmpty)).foldl (fun s w => landBytes s q i w.2.1 w.2.2) s

/-- A job's copies replace the originals (R54): each copy's frame becomes the home frame (R115). -/
def publishPages (s : State) (q : PlotId) (j : Job) : State :=
  let pages := j.copies.filter (fun p => (homePlace s q (65536 * p)).isSome)
  let s := pages.foldl (fun s p =>
    match homePlace s q (65536 * p), j.frames.find? (fun x => x.1 == p) with
    | some (b, k), some x => s.modMsh q (fun m => m.setFrame b k x.2)
    | _, _ => s) s
  { s with mem := replacePages s.mem q j pages }

/-! ### Backed pages (R116) -/

/-- A page-in of a backed page is asked for by a job at a node; answers the state, and whether anything is under way. -/
def askPage (s : State) (q : PlotId) (i : BitVec 16) (node : NodeId) (page : Nat) (b : Backing) : State :=
  let l := mkLane b.lane
  if (s.plot q).msh.pageIns.any (fun x => x.page == page) then
    s.modMsh q (fun m => { m with pageIns := m.pageIns.map (fun x =>
      if x.page = page ∧ !x.readers.contains i then { x with readers := x.readers ++ [i] } else x) })
  else
    let s := s.modMsh q (fun m => { m with
      pageIns := m.pageIns ++ [{ page := page, node := node, lane := l, readers := [i] }] })
    startPageIns (s.modLaneOf l (fun x => { x with queue := x.queue ++ [.page q page] })) q l

/-- A frame program reads, or asks ahead for, a backed page (R116, R117): a demand miss is counted. -/
def needPage (s : State) (q : PlotId) (i : BitVec 16) (node : NodeId) (a : Nat) (demand : Bool) : State :=
  match runningJob s q i with
  | none => s
  | some j =>
    match region s.cfg.content q.val (s.plot q).msh a with
    | .tile _ _ | .engine _ _ | .commons _ => s
    | .unmapped => chargeFault s q i .image (some node)
    | .backed p =>
      match s.cfg.content.backing? q.val p with
      | none => chargeFault s q i .image (some node)
      | some (b, k) =>
        if (s.plot q).msh.resident.any (fun r => r.page == p) then touchPage s q p
        else if (b.places (s.cfg.content.chan b.lane) k).any s.suspectAt then
          chargeFault s q j.idx .flash (some (laneNode (mkLane b.lane)))
        else
          let s := if demand then s.modMsh q (fun m => { m with miss := satInc m.miss }) else s
          askPage s q i node p b

/-- The bank that receives a page-in (R116): the requesting node's slice if it has cache frames, else the commons. -/
def pageInPool (s : State) (q : PlotId) (node : NodeId) : Pool :=
  let own := match nodeKind node.val with
    | (.at_, i) => (s.cfg.content.tiles q.val).getLsbD i
    | (.mxe, i) => (s.cfg.content.mxes q.val).getLsbD i
    | _ => false
  if own && decide (0 < cacheFrames s q (.slice node.val)) then .slice node.val else .commons

/-- Have all flash pages of a page-in been read? -/
def pageInWhole (s : State) (q : PlotId) (x : PageIn) : Bool :=
  match s.cfg.content.backing? q.val x.page with
  | none => false
  | some (b, _) => decide (64 / max (s.cfg.content.chan b.lane).pageKib 1 ≤ x.got.length) && !x.got.isEmpty

/-- A backed page lands in a cache frame (R116); its readers go on. -/
def pageInDone (s : State) (q : PlotId) (page : Nat) : State :=
  match (s.plot q).msh.pageIns.find? (fun x => x.page == page && x.ctx) with
  | none => s
  | some x =>
    if !pageInWhole s q x then s
    else
      let b := pageInPool s q x.node
      match takeFrame s q b (0x80000 + page) true with
      | none => s
      | some (f, s) =>
        let s := healFrame s q b f
        let a := 0x800000000 + 65536 * page
        let s := x.got.foldl (fun s g => s.pokeMem q (a + g.1) g.2) s
        let s := s.modMsh q (fun m => { m with
          pageIn := satInc m.pageIn, pageIns := m.pageIns.filter (fun y => y.page != page),
          resident := m.resident ++
            [{ page := page, home := (match b with | .slice n => some n | .commons => none), frame := f, used := true,
               stamp := 0 }] })
        startPageIns (touchPage s q page) q x.lane

/-! ### Merged reads, scrubbing, links (R109, R119, R121) -/

/-- The plot whose memory a mesh line lies in: the owner of the engine, or of the commons page; 0xFF for none. -/
def linePlot (s : State) (l : Nat) : Nat :=
  ((List.range 65).find? (fun q => decide (0 < q) && (engineLine s.cfg.content q l || quotaLine s.msh q l))).getD noPlot

/-- A word's uncorrectable error is detected (R119): its 64-byte line is poisoned, counted and logged, once. Work that the
error faults is reported before it (R351: lines of one cycle rise in code). -/
def detectError (s : State) (addr : Nat) (faults : State → State) : State :=
  let line := addr / 64 * 64
  if s.msh.poison.contains line then faults s
  else
    let s := faults (s.modMesh (fun m => { m with
      poison := m.poison ++ [line], ueCnt := satInc m.ueCnt, eccAddr := BitVec.ofNat 32 addr }))
    s.logLine 0x30 (linePlot s line) (some (meshNode addr)) addr 0

/-- The readers of a line fault with the node that holds it where it is poisoned; otherwise the line leaves once, as a
multicast to them (R109, R119). -/
def serveLine (s : State) (q : PlotId) (line : Nat) (rs : List (BitVec 16 × NodeId)) : State :=
  if s.msh.poison.contains line then rs.foldl (fun s r => chargeFault s q r.1 .engine (some (meshNode line))) s
  else s.emit (.mesh (meshNode line) (rs.map (·.2)) 4 1 (packetTree (line / 2 ^ 25) (rs.map (·.2.val))))

/-- One array access serves the merged requesters of a line (R109), those that meet the line in one frame; single-bit errors
are corrected and counted; an uncorrectable word, or poison, faults every requester's job (R119). -/
def mergedRead (s : State) (q : PlotId) (a : Nat) (readers : List (BitVec 16 × NodeId)) (single : Nat) (bad : Option (Fin 8)) :
    State :=
  let line := a / 64 * 64
  let page := line / 65536
  let base (r : BitVec 16 × NodeId) : Option Nat := (runningJob s q r.1).bind (fun j => pageMesh s q (some j) page)
  let rs := readers.filter (fun r => (runningJob s q r.1).isSome)
  if rs.isEmpty || decide (16 < readers.length) then s
  else
    match pageAccess s q page with
    | .unmapped => rs.foldl (fun s r => chargeFault s q r.1 .image (some r.2)) s
    | .wait => s
    | _ =>
      match rs.findSome? base with
      | none => s
      | some m =>
        let rs := rs.filter (fun r => base r == some m)
        let apart := readers.filter (fun r => (runningJob s q r.1).isSome && !(base r == some m))
        let s := s.modMsh q (fun x => { x with merge := satAdd x.merge (readers.length - apart.length - 1) })
        let s := s.modMesh (fun x => { x with ceCnt := satAdd x.ceCnt single })
        let s := if 0x80000 ≤ page then touchPage s q (page - 0x80000) else s
        let at_ := m + line % 65536
        match bad with
        | some w => detectError s (at_ + 8 * w.val) (fun s => serveLine s q at_ rs)
        | none => serveLine s q at_ rs

/-- The patrol scrubber checks a word at a mesh address (R119): single-bit errors are corrected and counted, an uncorrectable
one poisons its line. -/
def patrol (s : State) (addr : Word) (single bad pass : Bool) : State :=
  if !s.msh.scrubEn || !meshAssigned addr.toNat then s
  else
    let s := if pass then s.modMesh (fun m => { m with scrubPass := satInc m.scrubPass }) else s
    if bad then detectError s addr.toNat (fun s => s)
    else if single then s.modMesh (fun m => { m with ceCnt := satInc m.ceCnt }) else s

/-- A flit fails its CRC a number of times in a row (R121): each failure but a fourth causes a replay; after 3 failed
replays it is discarded and its job faults. -/
def linkFail (s : State) (router : NodeId) (owner : Option (PlotId × BitVec 16)) (failures : Nat) : State :=
  let s := s.modMesh (fun m => { m with linkReplay := satAdd m.linkReplay (min failures 3) })
  if failures < 4 then s
  else
    let s := s.modMesh (fun m => { m with linkFail := satInc m.linkFail })
    match owner with
    | some (q, i) => chargeFault s q i .engine (some router)
    | none => s

/-! ### MSH_PCACHE (R112) -/

/-- Page ranges that leave the plot address space or are new when the boundaries move from one setting to another: the
frames concerned are zeroed. -/
def pcacheMoves (c : Content) (q : Nat) (m m' : MshSet) : List (Nat × Nat) :=
  let d (base step n h h' : Nat) : List (Nat × Nat) :=
    if h = h' then [] else (List.range n).map (fun i => (base + i * step + 65536 * min h h', base + i * step + 65536 * max h h'))
  d 0 0x2000000 (c.tileList q).length m.atHome m'.atHome ++
  d 0x80000000 0x1000000 (c.mxeList q).length m.mxeHome m'.mxeHome ++
  d 0x90000000 0 1 (m.cmnHome (c.quota q)) (m'.cmnHome (c.quota q))

/-- Evict backed pages of a bank while it has fewer cache frames than it holds. -/
def shrinkPool : Nat → State → PlotId → Pool → State
  | 0, s, _, _ => s
  | n + 1, s, q, b =>
    if cacheFrames s q b < (backedFrames s q b).length then
      match oldest s q b false with
      | some r => shrinkPool n (evict s q r.page) q b
      | none => s
    else s

/-- Something lies beyond the frames that a memory has now: it moves to a free frame. -/
def moveHome (s : State) (q : PlotId) (b : Pool) (h k : Nat) : State :=
  let f := (s.plot q).msh.homeFrame b k
  if f < poolSize s q b then s
  else match chooseFrame s b k (openFrames s q b h) with
    | some g => (copyLines s q b f g).modMsh q (fun m => m.setFrame b k g)
    | none => s

/-- A home page is new: it takes a frame that was a cache frame, zeroed (R112): its own number's where that is free. -/
def newHome (s : State) (q : PlotId) (b : Pool) (k : Nat) : State :=
  let l := openFrames s q b k
  match (if l.contains k then some k else chooseFrame s b k l) with
  | some g => (healFrame s q b g).modMsh q (fun m => m.setFrame b k g)
  | none => s

/-- The frames of a memory after its boundary or size has changed (R112, R114); `h` is its old number of home pages. Backed
pages beyond the frames it has leave; home pages 0 to min(H, H') − 1 keep their contents; frames of home pages that leave are
zeroed; new home pages take frames. -/
def fitPool (s : State) (q : PlotId) (b : Pool) (h : Nat) : State :=
  let n := poolSize s q b
  let h' := n - cacheFrames s q b
  let leave := (List.range h).drop h'
  let s := leave.foldl (fun s k => healFrame s q b ((s.plot q).msh.homeFrame b k)) s
  let s := s.modMsh q (fun m => { m with moved := m.moved.filter (fun x => !(x.1 == b.key && decide (min h h' ≤ x.2.1))) })
  let far := (s.plot q).msh.resident.filter (fun r => r.pool == b && decide (n ≤ r.frame))
  let s := far.foldl (fun s r => evict s q r.page) s
  let s := shrinkPool 4096 s q b
  let s := (List.range (min h h')).foldl (fun s k => moveHome s q b (min h h') k) s
  ((List.range h').drop h).foldl (fun s k => newHome s q b k) s

/-- The memories of a plot: the slices of its tiles and engines, and its commons quota. -/
def poolsOf (c : Content) (q : Nat) : List Pool :=
  (c.tileList q).map (fun t => .slice (nodeOf .at_ t)) ++ (c.mxeList q).map (fun t => .slice (nodeOf .mxe t)) ++ [.commons]

/-- A write of MSH_PCACHE (R112). -/
def pcacheWrite (s : State) (q : PlotId) (v : Word) : State :=
  let p := s.plot q
  let st := p.plt.state
  if p.plt.admitted ≠ 0 ∨ !(st == .unassigned || st == .disabled || st == .idle) then
    s.modMsh q (fun m => { m with ign := true })
  else
    let m := p.msh
    let m' := { m with
      atCache := BitVec.ofNat 9 v.toNat, mxeCache := BitVec.ofNat 9 (v.toNat / 2 ^ 9),
      cmnCache := BitVec.ofNat 12 (v.toNat / 2 ^ 18) }
    let moves := pcacheMoves s.cfg.content q.val m m'
    let old := (poolsOf s.cfg.content q.val).map (fun b => (b, poolSize s q b - cacheFrames s q b))
    let s := s.modMsh q (fun _ => { m' with zeroing := m.zeroing || !moves.isEmpty })
    let s := moves.foldl (fun s r => s.wipeMem q r.1 r.2) s
    old.foldl (fun s x => fitPool s q x.1 x.2) s

/-- Frames whose role changed have been zeroed (R112, R114). -/
def zeroingDone (s : State) (q : PlotId) : State := s.modMsh q (fun m => { m with zeroing := false })

/-! ### Meanings -/

/-- RETRIED_MULTICAST_LAUNCH (R107, R108). -/
def execRetriedMulticastLaunch (q : PlotId) (idx : BitVec 16) (entry flits : Nat) (s : State) : Result :=
  .next (launchMulticast s q idx entry flits)

/-- MULTICAST_ACK_NACK (R107). -/
def execMulticastAckNack (src : NodeId) (q : PlotId) (entry : Nat) (target : NodeId) (ack : Bool) (s : State) : Result :=
  .next (multicastAnswer s src q entry target ack)

/-- MULTICAST_READY (R107). -/
def execMulticastReady (src : NodeId) (q : PlotId) (entry : Nat) (target : NodeId) (s : State) : Result :=
  .next (multicastResend s src q entry target)

/-- MULTICAST_TIMEOUT (R108). -/
def execMulticastTimeout (src : NodeId) (q : PlotId) (entry : Nat) (s : State) : Result :=
  .next (multicastExpire s src q entry)

/-- CREDIT_RESERVATION (R106). -/
def execCreditReservation (q : PlotId) (idx : BitVec 16) (entry : Nat) (step : CreditStep) (s : State) : Result :=
  .next (reserveStep s q idx entry step)

/-- MERGED_READ (R109, R119). -/
def execMergedRead (q : PlotId) (addr : BitVec 36) (readers : List (BitVec 16 × NodeId)) (single : Nat)
    (bad : Option (Fin 8)) (s : State) : Result :=
  .next (mergedRead s q addr.toNat readers single bad)

/-- HOME_PAGE_FIRST_WRITE (R115). -/
def execHomePageFirstWrite (q : PlotId) (idx : BitVec 16) (node : NodeId) (addr : BitVec 36) (data : List Byte) (s : State) :
    Result :=
  .next (firstWrite s q idx node addr.toNat data)

/-- WRITE_COPY_COMPLETE (R115). -/
def execWriteCopyComplete (q : PlotId) (idx : BitVec 16) (page : Nat) (s : State) : Result :=
  .next (copyDone s q idx page)

/-- BACKED_PAGE_MISS (R116). -/
def execBackedPageMiss (q : PlotId) (idx : BitVec 16) (node : NodeId) (addr : BitVec 36) (s : State) : Result :=
  .next (needPage s q idx node addr.toNat true)

/-- PAGE_IN_REQUEST (R116). -/
def execPageInRequest (q : PlotId) (idx : BitVec 16) (node : NodeId) (addr : BitVec 36) (s : State) : Result :=
  .next (needPage s q idx node addr.toNat false)

/-- PAGE_IN_COMPLETE (R116). -/
def execPageInComplete (q : PlotId) (page : Nat) (s : State) : Result := .next (pageInDone s q page)

/-- PATROL_SCRUB (R119). -/
def execPatrolScrub (addr : Word) (single bad pass : Bool) (s : State) : Result :=
  .next (if s.isReady then patrol s addr single bad pass else s)

/-- LINK_CRC_FAIL (R121). -/
def execLinkCrcFail (router : NodeId) (owner : Option (PlotId × BitVec 16)) (failures : Nat) (s : State) : Result :=
  .next (if s.isReady then linkFail s router owner failures else s)

/-- PCACHE_WRITE (R112): the PF writes the MSH_PCACHE of a plot. -/
def execPcacheWrite (q : PlotId) (v : Word) (s : State) : Result :=
  .next (hostGate s 0 (fun s => if q = 0 then s else pcacheWrite s q v))

/-- FRAME_ZEROING_DONE (R112, R114). -/
def execFrameZeroingDone (q : PlotId) (s : State) : Result := .next (zeroingDone s q)

end Sys2Proof.Machine
end

