-- ==== Sys2Proof/Machine/Flash.lean ====
section
/-!
DEFINITION. Sys2Proof/Machine/Flash.lean: flash lanes and vector search: queries (R243 to R251), the side list (R253 to
R255), generation writes and merges (R256, R257), read retries, program and erase errors, suspect LUNs (R259 to R261).
-/
namespace Sys2Proof.Machine

/-- Change one part of a query. -/
def State.modPart (s : State) (q : PlotId) (i : BitVec 16) (no : Nat) (l : LaneId) (f : Part → Part) : State :=
  s.modFln q (fun p => { p with queries := p.queries.map (fun x =>
    if x.job == i && x.no == no then { x with parts := x.parts.map (fun y => if y.lane == l then f y else y) } else x) })

/-- Change a query. -/
def State.modQuery (s : State) (q : PlotId) (i : BitVec 16) (no : Nat) (f : Query → Query) : State :=
  s.modFln q (fun p => { p with queries := p.queries.map (fun x => if x.job == i && x.no == no then f x else x) })

/-- Find a query. -/
def FlnPlot.query? (p : FlnPlot) (i : BitVec 16) (no : Nat) : Option Query :=
  p.queries.find? (fun x => x.job == i && x.no == no)

/-! ### Query records (R243, R244) -/

/-- A predicate clause (Table 10-9). -/
def clauseOf (b : List Byte) : Clause :=
  { op := leAt b 0 1, shift := leAt b 1 1, width := leAt b 2 1, x := leAt b 8 8, y := leAt b 16 8 }

/-- Does a clause keep to Table 10-9? -/
def clauseOk (b : List Byte) : Bool :=
  let c := clauseOf b
  decide (c.op ≤ 5) && zeroAt b 3 5 &&
    (if c.op = 4 ∨ c.op = 5 then decide (c.shift ≤ 63) && decide (1 ≤ c.width) && decide (c.width ≤ 64) && decide (c.shift + c.width ≤ 64)
     else c.shift == 0 && c.width == 0)

/-- Does a clause hold for an attribute word (R244)? -/
def clauseHolds (c : Clause) (a : Nat) : Bool :=
  let f := a / 2 ^ c.shift % 2 ^ c.width
  match c.op with
  | 0 => (a &&& c.x) == c.y
  | 1 => (a &&& c.x) != c.y
  | 2 => (a &&& c.x) != 0
  | 3 => (a &&& c.x) == 0
  | 4 => decide (c.x ≤ f) && decide (f ≤ c.y)
  | _ => decide (f < c.x) || decide (c.y < f)

/-- Does an attribute word pass a predicate (R244)? -/
def passes (cs : List Clause) (orr : Bool) (a : Nat) : Bool :=
  cs.isEmpty || (if orr then cs.any (fun c => clauseHolds c a) else cs.all (fun c => clauseHolds c a))

/-- Strictly ascending and below NLIST? -/
def probesOk (l : List Nat) (nlist : Nat) : Bool :=
  (l.zip (l.drop 1)).all (fun x => decide (x.1 < x.2)) && l.all (fun p => decide (p < nlist))

/-- Clauses in the predicate area of a query. -/
def clausesAt (s : State) (q : PlotId) (j : Job) (addr n : Nat) : List (List Byte) :=
  (List.range n).map (fun c => jobBytes s q j (addr + 24 * c) 24)

/-- The lane that a query record's faults name: the home lane of the index it names; where it names none, the first lane on which
the plot has contexts (DESIGN CHOICE, log entry 205). -/
def queryNode (s : State) (q : PlotId) (j : Job) (a : Nat) : NodeId :=
  match s.cfg.content.index? q.val (leAt (jobBytes s q j a 1) 0 1) with
  | some e => laneNode (mkLane e.home)
  | none => laneNode (mkLane (((List.range 8).find? (fun l => decide (0 < s.cfg.content.ctx q.val l))).getD 0))

/-- Does a query record keep to the limits of R243, its lists apart? -/
def recordOk (b : List Byte) (e : IndexEntry) : Bool :=
  let k := leAt b 4 2
  let np := leAt b 8 4
  let mode := leAt b 1 1
  decide (1 ≤ k) && decide (k ≤ e.kMax) && decide (1 ≤ np) && decide (np ≤ e.nlist) && decide (leAt b 3 1 ≤ 4) && decide (mode ≤ 1) &&
    decide (leAt b 2 1 ≤ 3) && zeroAt b 6 2 && zeroAt b 52 12 &&
    (mode == 1 || (leAt b 12 4 == 0 && leAt b 48 4 == 0))

/-- A query is started from its record (R243): a record that breaks a limit faults the job with IMAGE. -/
def startQuery (s : State) (q : PlotId) (i : BitVec 16) (a : Nat) : State :=
  match runningJob s q i with
  | none => s
  | some j =>
    let node := some (queryNode s q j a)
    withReads s q j [(a, 64)] node (fun s =>
      let b := jobBytes s q j a 64
      let np := leAt b 8 4
      let cn := leAt b 3 1
      match s.cfg.content.index? q.val (leAt b 0 1) with
      | none => chargeFault s q i .image node
      | some e =>
        if !recordOk b e then chargeFault s q i .image node
        else withReads s q j [(leAt b 24 8, 2 * np), (leAt b 32 8, 24 * cn)] node (fun s =>
          let probes := (List.range np).map (fun p => leNat (jobBytes s q j (leAt b 24 8 + 2 * p) 2))
          if !probesOk probes e.nlist || !(clausesAt s q j (leAt b 32 8) cn).all clauseOk then chargeFault s q i .image node
          else
            let no := j.queries
            let lanes := (members 8 e.laneMask).map mkLane
            let x : Query := {
              job := i, no := no, index := e.id, tuned := leAt b 1 1 == 1, orr := bitOf (leAt b 2 1) 0,
              skipSide := leAt b 1 1 == 1 && bitOf (leAt b 2 1) 1, k := leAt b 4 2, budget := leAt b 12 4, deadline := leAt b 48 4,
              probes := probes, tableAddr := leAt b 16 8, resultAddr := leAt b 40 8, predAddr := leAt b 32 8, clauseCount := cn,
              parts := lanes.map (fun l => { lane := l }) }
            let s := s.modJob q i (fun j => { j with queries := no + 1 })
            let s := s.modFln q (fun p => { p with queries := p.queries ++ [x] })
            lanes.foldl (fun s l => s.modLaneOf l (fun y => { y with queue := y.queue ++ [.part q i no] })) s))

/-! ### Candidates (R242, R248, R249) -/

/-- Distance of codes under a table (R242). -/
def distance (table : List Byte) (codes : List Byte) : Int :=
  sumInt ((List.range codes.length).map (fun m =>
    signed 16 (leAt table (2 * (256 * m + ((codes[m]?).getD 0).toNat)) 2)))

/-- Order of candidates (R248). -/
def candLe (a b : Int × Nat) : Bool := decide (a.1 < b.1) || (decide (a.1 = b.1) && decide (a.2 ≤ b.2))

/-- A candidate enters a heap of at most k, kept in order. -/
def heapPut (h : List (Int × Nat)) (c : Int × Nat) (k : Nat) : List (Int × Nat) :=
  ((h.takeWhile (fun x => candLe x c)) ++ c :: (h.dropWhile (fun x => candLe x c))).take k

/-- Would a candidate enter a heap? -/
def heapTakes (h : List (Int × Nat)) (c : Int × Nat) (k : Nat) : Bool :=
  decide (h.length < k) || h.any (fun x => !candLe x c)

/-- Is an ID hidden by a visible DELETE: any for a main-store record, a later one for a side insert (R249)? -/
def hidden (vis : List SideEntry) (id : Nat) (pos : Option Nat) : Bool :=
  vis.any (fun d => d.del && decide (d.id = id) && (match pos with | some p => decide (p < d.pos) | none => true))

/-- One record or side insert examined by a part (R244, R248, R249): answers the part and whether a delete was hit. -/
def examine (x : Query) (vis : List SideEntry) (p : Part) (id attr : Nat) (codes : List Byte) (pos : Option Nat) :
    Part × Nat :=
  let p := { p with scanned := p.scanned + 1 }
  if !passes p.clauses x.orr attr then ({ p with filtered := p.filtered + 1 }, 0)
  else
    let c := (distance p.table codes, id)
    if !heapTakes p.heap c x.k then (p, 0)
    else if hidden vis id pos then (p, 1)
    else ({ p with heap := heapPut p.heap c x.k }, 0)

/-- Are a sector's header and count as expected (R240)? -/
def sectorOk (b : List Byte) (sector m : Nat) (gen : Bool) (part : Nat) : Bool :=
  leAt b 0 4 == 0x53374E41 && leAt b 4 4 == sector && leAt b 8 4 == part && leAt b 14 1 == m && leAt b 15 1 == b2n gen &&
    crcOk b 0 60 60 && decide (leAt b 12 2 ≤ 4032 / (16 + m))

/-- A sector's records (R240): ID, attribute word and codes. -/
def sectorRecords (b : List Byte) (m : Nat) : List (Nat × Nat × List Byte) :=
  (List.range (leAt b 12 2)).map (fun n =>
    let at_ := 64 + n * (16 + m)
    (leAt b at_ 8, leAt b (at_ + 8) 8, slice b (at_ + 16) m))

/-! ### Parts (R245 to R251) -/

/-- Address of the directory entry of a partition in a generation (R241). -/
def IndexEntry.dirEntry (e : IndexEntry) (gen : Bool) (p : Nat) : Nat :=
  e.dirAddr + (if gen then 64 * ceilDiv e.nlist 4 else 0) + 16 * p

/-- FIRST_SECTOR and SECTORS of a partition as the job reads them. -/
def dirRange (s : State) (q : PlotId) (j : Job) (e : IndexEntry) (gen : Bool) (p : Nat) : Nat × Nat :=
  let b := jobBytes s q j (e.dirEntry gen p) 8
  (leAt b 0 4, leAt b 4 4)

/-- Side entries visible to a job's capture now (R249). -/
def visibleNow (x : IndexState) (i : BitVec 16) : List SideEntry :=
  x.entries.filter (fun e => match x.epochs.lookup e.epoch with
    | some .published => true
    | some (.running k) => k == i
    | _ => false)

/-- An index number of a plot. -/
def mkIndex (n : Nat) : Fin 16 := ⟨n % 16, Nat.mod_lt _ (by decide)⟩

/-- A part that has nothing left ends (R251). -/
def Part.settle (p : Part) (x : Query) : Part :=
  if !p.active then p
  else if x.tuned && decide (x.budget ≠ 0) && decide (x.budget ≤ p.sectors) then
    { p with done := true, status := 1, todo := [], buf := [] }
  else if p.todo.isEmpty then { p with done := true, buf := [] } else p

/-- The sector a part scans next, with its partition and bytes: in deterministic mode the next in order once it is buffered
(R250), in recall-tuned mode whichever the flash has returned first (R251). -/
def Part.next? (p : Part) (tuned : Bool) : Option ((Nat × Nat) × List Byte) :=
  if tuned then p.buf.findSome? (fun b => (p.todo.find? (fun t => t.1 == b.1)).map (fun t => (t, b.2)))
  else match p.todo with
    | [] => none
    | t :: _ => (p.buf.lookup t.1).map (fun b => (t, b))

/-- The part when a sector has been scanned: its buffer is free unless the part scans it again. -/
def Part.takeSector (p : Part) (t : Nat × Nat) : Part :=
  let todo := p.todo.erase t
  { p with todo := todo, buf := p.buf.filter (fun b => todo.any (fun u => u.1 == b.1)), sectors := p.sectors + 1 }

/-- What a part examined is counted for its plot (R244, R249). -/
def countScan (s : State) (q : PlotId) (was now : Part) (hits : Nat) : State :=
  s.modFlnCnt q (fun c => { c with
    scan := satAdd c.scan (now.scanned - was.scanned), filter := satAdd c.filter (now.filtered - was.filtered),
    delHit := satAdd c.delHit hits })

/-- A sector that fails its check faults the job (R240). -/
def badSector (s : State) (q : PlotId) (i : BitVec 16) (l : LaneId) (sector : Nat) : State :=
  (chargeFault (s.modFlnCnt q (fun c => { c with sectErr := satInc c.sectErr })) q i .image (some (laneNode l))).logLine
    0x51 q.val (some (laneNode l)) l.val sector

/-- A part scans its next sector, if it may run and the sector is buffered (R240, R246, R250); none where there is nothing to
scan. -/
def scanNext (s : State) (q : PlotId) (i : BitVec 16) (no : Nat) (l : LaneId) : Option State :=
  match (s.plot q).fln.query? i no with
  | none => none
  | some x =>
    match s.cfg.content.index? q.val x.index, x.parts.find? (fun p => p.lane == l && p.active), x.vis with
    | some e, some p, some vis =>
      if !s.runsOn q i l then none
      else match p.next? x.tuned with
        | none => none
        | some (t, b) =>
          if !sectorOk b t.1 e.m (x.gen.getD false) t.2 then some (badSector s q i l t.1)
          else
            let r := (sectorRecords b e.m).foldl (fun (y : Part × Nat) z =>
              let w := examine x vis y.1 z.1 z.2.1 z.2.2 none
              (w.1, y.2 + w.2)) (p.takeSector t, 0)
            some ((countScan s q p r.1 r.2).modPart q i no l (fun _ => r.1.settle x))
    | _, _, _ => none

/-- A part scans what is in its buffers, as far as it may. -/
def drainAux : Nat → State → PlotId → BitVec 16 → Nat → LaneId → State
  | 0, s, _, _, _, _ => s
  | n + 1, s, q, i, no, l =>
    match scanNext s q i no l with
    | none => s
    | some s => drainAux n s q i no l

/-- Buffered sectors of a part are scanned; the lane goes on with what that lets it do. -/
def drainBuf (s : State) (q : PlotId) (i : BitVec 16) (no : Nat) (l : LaneId) : State :=
  match (s.plot q).fln.query? i no with
  | none => s
  | some x =>
    let n := sumNat ((x.parts.filter (fun p => p.lane == l)).map (fun p => p.todo.length))
    startPageIns (drainAux n s q i no l) q l

/-- Codewords of an index's generation that are in a lane's buffers already: another context reads them there (R246). -/
def sharedBuf (s : State) (q : PlotId) (l : LaneId) (index : Nat) (gen : Bool) (todo : List (Nat × Nat)) : List (Nat × List Byte) :=
  (((s.plot q).fln.queries.filter (fun y => y.index == index && y.gen == some gen)).flatMap (fun y =>
    (y.parts.filter (fun p => p.lane == l)).flatMap (fun p => p.buf))).foldl (fun acc b =>
      if todo.any (fun t => t.1 == b.1) && !acc.any (fun c => c.1 == b.1) then acc ++ [b] else acc) []

/-- The sectors of the probed partitions that lie on a lane, in ascending probe order and, within a partition, in ascending
number (R250), each with its partition. -/
def partSectors (e : IndexEntry) (ch : Chan) (gen : Bool) (l : LaneId) (ranges : List (Nat × Nat × Nat)) : List (Nat × Nat) :=
  ranges.flatMap (fun r => (((List.range r.2.2).map (· + r.2.1)).filter (fun n => (e.place ch gen n).1.lane == l.val)).map
    (fun n => (n, r.1)))

/-- The home part scans the visible side entries of the probed partitions (R249, R250). -/
def scanSide (s : State) (q : PlotId) (x : Query) (m : Nat) (vis : List SideEntry) (p : Part) : State × Part :=
  let ins := if x.skipSide then [] else vis.filter (fun d => !d.del && x.probes.contains d.part)
  let r := ins.foldl (fun (y : Part × Nat) d =>
    let z := examine x vis y.1 d.id d.attr (d.codes.take m) (some d.pos)
    (z.1, y.2 + z.2)) (p, 0)
  (countScan s q p r.1 r.2, r.1)

/-- May a part start (R245, R247)? The plot's turn in the lane's start queue, a free context, a claim that is not spent, and the
query's visibility captured, which the home part does (DESIGN CHOICE: the other parts start after it, log entry 206). -/
def mayStart (s : State) (q : PlotId) (j : Job) (x : Query) (home : Nat) (l : LaneId) : Bool :=
  let lane := s.lane l
  lane.state == .ready && s.ctxFree q l && lane.front q == some (.part q x.job x.no) &&
    decide (j.claimOn s.cfg.content q.val (laneNode l).val ≠ 0) && !s.parkedOn q x.job l && (l.val == home || x.vis.isSome)

/-- A part takes a context (R245): its table, predicate and sectors are known; the home part captures the generation and the
visible entries (R249) and scans the visible side entries (R250). -/
def startPart (s : State) (q : PlotId) (i : BitVec 16) (no : Nat) (l : LaneId) : State :=
  match attemptJob s q i, (s.plot q).fln.query? i no with
  | some j, some x =>
    match s.cfg.content.index? q.val x.index, x.parts.find? (fun p => p.lane == l && !p.started) with
    | some e, some _ =>
      if !mayStart s q j x e.home l then s
      else
        let ix := mkIndex x.index
        let gen := x.gen.getD ((s.plot q).fln.idx[ix]).gen
        let node := some (laneNode l)
        let reads := [(x.tableAddr, 512 * e.m), (x.predAddr, 24 * x.clauseCount)] ++
          x.probes.map (fun p => (e.dirEntry gen p, 16))
        withReads s q j reads node (fun s =>
          let ch := s.cfg.content.indexChan e
          let ranges := x.probes.map (fun n => (n, dirRange s q j e gen n))
          if ranges.any (fun r => decide (r.2.2 ≠ 0) && decide (e.capacity ch < r.2.1 + r.2.2)) then chargeFault s q i .image node
          else
            let todo := partSectors e ch gen l ranges
            if todo.any (fun t => s.suspectAt (e.place ch gen t.1).1) then chargeFault s q i .flash node
            else
              let p : Part := {
                lane := l, started := true, table := jobBytes s q j x.tableAddr (512 * e.m),
                clauses := (clausesAt s q j x.predAddr x.clauseCount).map clauseOf, todo := todo,
                buf := sharedBuf s q l x.index gen todo }
              let s := s.modLaneOf l (fun y => y.unqueue (.part q i no))
              let r :=
                if l.val = e.home then
                  let vis := visibleNow ((s.plot q).fln.idx[ix]) i
                  let s := s.modQuery q i no (fun x => { x with gen := some gen, vis := some vis })
                  scanSide s q x e.m vis p
                else (s, p)
              drainBuf (r.1.modPart q i no l (fun _ => r.2.settle x)) q i no l)
    | _, _ => s
  | _, _ => s

/-! ### Parking (R247) -/

/-- Has a job work on a lane: a part under way, or generation writes (R247, R256)? -/
def laneWork (s : State) (q : PlotId) (i : BitVec 16) (l : LaneId) : Bool :=
  (s.plot q).fln.queries.any (fun x => x.job == i && x.parts.any (fun p => p.lane == l && p.active)) ||
  (s.lane l).ops.any (fun o => o.plot == q && o.job == i && o.kind != .read)

/-- A job's work on a lane parks at its claim until the frame ends (R247). -/
def parkClaim (s : State) (q : PlotId) (i : BitVec 16) (l : LaneId) : State :=
  if laneWork s q i l && !s.parkedOn q i l then
    (s.modFln q (fun f => { f with atClaim := f.atClaim ++ [(i, l)] })).modFlnCnt q (fun c => { c with park := satInc c.park })
  else s

/-- Every part parks when the commit window opens (R247). -/
def parkAll (s : State) (q : PlotId) : State := s.modFln q (fun f => { f with closed := true })

/-- A frame begins: nothing of the plot is parked (R247). -/
def unparkAll (s : State) (q : PlotId) : State := s.modFln q (fun f => { f with closed := false, atClaim := [] })

/-- The lanes go on in the first cycle of a frame, with what is in their buffers first (R247). -/
def resumeLanes (s : State) : State :=
  let s := s.eachPlot tenantPlots (fun s q =>
    (s.plot q).fln.queries.foldl (fun s x => x.parts.foldl (fun s p => drainBuf s q x.job x.no p.lane) s) s)
  (List.finRange 8).foldl issueLane s

/-- A recall-tuned part reaches its DEADLINE (R251). -/
def partDeadline (s : State) (q : PlotId) (i : BitVec 16) (no : Nat) (l : LaneId) : State :=
  match (s.plot q).fln.query? i no with
  | none => s
  | some x =>
    if x.tuned && decide (x.deadline ≠ 0) then
      startPageIns (s.modPart q i no l (fun p =>
        if p.active then { p with done := true, status := 2, todo := [], buf := [] } else p)) q l
    else s

/-- A result area (R248). -/
def resultBytes (heap : List (Int × Nat)) (status scanned filtered sectors : Nat) : List Byte :=
  leBytes 2 heap.length ++ [BitVec.ofNat 8 status] ++ List.replicate 5 0 ++ leBytes 8 scanned ++ leBytes 8 filtered ++
    leBytes 8 sectors ++ List.replicate 32 0 ++
    heap.flatMap (fun c => leBytes 4 (unsigned 32 c.1) ++ List.replicate 4 0 ++ leBytes 8 c.2)

/-- STATUS of a query: the parts' own; where BUDGET and DEADLINE both occurred the spec names neither, and a free value
decides. -/
def queryStatus (s : State) (x : Query) : Nat × State :=
  let b := x.parts.any (fun p => p.status == 1)
  let d := x.parts.any (fun p => p.status == 2)
  if b && d then let f := s.takeFree; (1 + f.1.toNat % 2, f.2)
  else (if b then 1 else if d then 2 else 0, s)

/-- The home lane merges the heaps and writes the result (R248). -/
def mergeResult (s : State) (q : PlotId) (i : BitVec 16) (no : Nat) : State :=
  match attemptJob s q i, (s.plot q).fln.query? i no with
  | some j, some x =>
    match s.cfg.content.index? q.val x.index with
    | none => s
    | some e =>
      if !x.parts.all (fun p => p.done) || s.parkedOn q i (mkLane e.home) then s
      else
        let heap := (x.parts.flatMap (fun p => p.heap)).foldl (fun h c => heapPut h c x.k) []
        let total (f : Part → Nat) : Nat := sumNat (x.parts.map f)
        let st := queryStatus s x
        withWrites st.2 q j
          [(x.resultAddr, resultBytes heap st.1 (total Part.scanned) (total Part.filtered) (total Part.sectors))]
          (some (laneNode (mkLane e.home))) (fun s =>
            (s.modFln q (fun f => { f with queries := f.queries.filter (fun y => !(y.job == i && y.no == no)) })).modFlnCnt q
              (fun c => { c with query := satInc c.query }))
  | _, _ => s

/-! ### Array reads (R235, R246, R259) -/

/-- Sectors that a query part still needs of a flash page, with their codewords. -/
def partWants (c : Content) (q : PlotId) (x : Query) (p : Part) (a : FlashPlace) : List (Nat × Nat) :=
  if p.active then
    p.unread.eraseDups.filterMap (fun n => (queryPlace c q x n).bind (fun r => if r.1 = a then some (n, r.2) else none))
  else []

/-- Position within its 64 KiB page of a flash page a page-in still needs. -/
def pageInWants (c : Content) (q : PlotId) (x : PageIn) (a : FlashPlace) : Option Nat :=
  if x.ctx then ((pageInLeft c q x).find? (fun y => y.2 == a)).map (·.1) else none

/-- Does anything need a flash page? -/
def pageNeeded (s : State) (a : FlashPlace) : Bool :=
  let c := s.cfg.content
  allPlots.any (fun q =>
    (s.plot q).fln.queries.any (fun x => x.parts.any (fun p => p.lane.val == a.lane && !(partWants c q x p a).isEmpty)) ||
    (s.plot q).msh.pageIns.any (fun x => (pageInWants c q x a).isSome))

/-- The read of a page is at an end. -/
def dropRead (s : State) (l : LaneId) (o : FlashOp) : State := s.modLaneOf l (fun x => { x with ops := x.ops.erase o })

/-- A read has failed (R259): it is repeated up to three times, then the LUN is suspect; a read whose data nothing needs any more
is not (R262). -/
def readFailed (s : State) (l : LaneId) (o : FlashOp) (a : FlashPlace) : State :=
  if !pageNeeded s a then issueLane (dropRead s l o) l
  else if o.tries < 3 then
    (s.modLaneOf l (fun x => { x with
      retry := satInc x.retry, ops := x.ops.map (fun p => if p = o then { p with tries := p.tries + 1 } else p) })).emit
      (opEvent s.cfg.content l o)
  else markSuspect s l a.ce a.lun 1

/-- Data of a codeword; none if it is uncorrectable (R235). -/
def Codeword.bytes? (c : Codeword) : Option (List Byte) :=
  match c with
  | .data b n => if n ≤ 100 then some (slice b 0 4096) else none
  | .erased => some (List.replicate 4096 0xFF)

/-- Does a codeword count as weak (R235)? -/
def codewordWeak (c : Codeword) (warn : Nat) : Bool :=
  match c with
  | .data _ n => decide (warn ≤ n) && decide (n ≤ 100)
  | .erased => false

/-- Codewords of a page that something needs. -/
def wantedCodewords (s : State) (a : FlashPlace) (cw : Nat) : List Nat :=
  let c := s.cfg.content
  (List.range cw).filter (fun k => allPlots.any (fun q =>
    (s.plot q).fln.queries.any (fun x => x.parts.any (fun p =>
      p.lane.val == a.lane && (partWants c q x p a).any (fun w => w.2 == k))) ||
    (s.plot q).msh.pageIns.any (fun x => (pageInWants c q x a).isSome)))

/-- A page's codewords reach the contexts of one plot that need them (R246). -/
def deliverPage (s : State) (q : PlotId) (l : LaneId) (a : FlashPlace) (data : List (List Byte)) : State :=
  let c := s.cfg.content
  let s := s.modMsh q (fun m => { m with pageIns := m.pageIns.map (fun x =>
    match pageInWants c q x a with
    | some off => { x with got := x.got ++ [(off, data.flatten)] }
    | none => x) })
  (s.plot q).fln.queries.foldl (fun s x =>
    x.parts.foldl (fun s p =>
      if p.lane != l then s
      else
        let w := partWants c q x p a
        if w.isEmpty then s
        else
          let s := s.modPart q x.job x.no l (fun p => { p with
            buf := p.buf ++ w.map (fun y => (y.1, (data[y.2]?).getD [])) })
          drainBuf s q x.job x.no l) s) s

/-- The codewords of a page that is read (R235): weak ones are counted; with an uncorrectable one the read has failed, else the
codewords that something needs reach the contexts. -/
def pageRead (s : State) (l : LaneId) (o : FlashOp) (a : FlashPlace) (cws : List Codeword) : State :=
  let ch := s.cfg.content.chan l.val
  let want := wantedCodewords s a ch.cw
  let got := want.filterMap (fun k => cws[k]?)
  let bad := (got.filter (fun c => (Codeword.bytes? c).isNone)).length + (want.length - got.length)
  let s := s.modLaneOf l (fun x => { x with
    weak := satAdd x.weak (got.filter (fun c => codewordWeak c ch.eccWarn)).length, uncorr := satAdd x.uncorr bad })
  if bad ≠ 0 then readFailed s l o a
  else
    let s := (dropRead s l o).modLaneOf l (fun x => { x with rdBytes := satAdd x.rdBytes (4096 * want.length) })
    let data := (List.range ch.cw).map (fun k => match cws[k]? with
      | some c => (Codeword.bytes? c).getD []
      | none => [])
    issueLane (s.eachPlot allPlots (fun s q => deliverPage s q l a data)) l

/-- An array read that is under way ends (R246, R259): a FAIL status is counted with the uncorrectable codewords (DESIGN CHOICE,
log entry 210). -/
def pageReady (s : State) (l : LaneId) (ce lun block page : Nat) (r : PageRead) : State :=
  let a : FlashPlace := { lane := l.val, ce := ce, lun := lun, block := block, page := page }
  match (s.lane l).reading? a with
  | none => s
  | some o =>
    match r with
    | .fail => readFailed (s.modLaneOf l (fun x => { x with uncorr := satInc x.uncorr })) l o a
    | .readyBusy => readFailed (s.modLaneOf l (fun x => { x with rb := satInc x.rb })) l o a
    | .page cws => pageRead s l o a cws

/-- A LUN does not report ready in time (R259). -/
def readTimeout (s : State) (l : LaneId) (ce lun block page : Nat) : State :=
  let a : FlashPlace := { lane := l.val, ce := ce, lun := lun, block := block, page := page }
  match (s.lane l).reading? a with
  | none => s
  | some o => readFailed (s.modLaneOf l (fun x => { x with timeout := satInc x.timeout })) l o a

/-! ### The side list (R253 to R255) -/

/-- A side entry as passed (Table 10-10). -/
def sideEntry (b : List Byte) (pos epoch : Nat) : SideEntry :=
  { pos := pos, epoch := epoch, id := leAt b 0 8, attr := leAt b 8 8, part := leAt b 16 4, del := leAt b 20 1 == 1,
    codes := slice b 32 32 }

/-- Is a side entry acceptable (R253)? -/
def sideOk (b : List Byte) (nlist : Nat) : Bool :=
  zeroAt b 21 3 && zeroAt b 26 6 && decide (leAt b 0 8 < 2 ^ 34) && decide (leAt b 16 4 < nlist) && decide (leAt b 20 1 ≤ 1)

/-- The epoch of a job's attempt in an index, taken at its first append (R254). -/
def epochOf (x : IndexState) (i : BitVec 16) : Option (Nat × IndexState) :=
  match x.epochs.find? (fun e => e.2 == .running i) with
  | some e => some (e.1, x)
  | none =>
    match (List.range 4096).find? (fun n => (x.epochs.lookup n).isNone) with
    | some n => some (n, { x with epochs := x.epochs ++ [(n, .running i)] })
    | none => none

/-- One entry is appended (R253 to R255). -/
def appendOne (s : State) (q : PlotId) (i : BitVec 16) (e : IndexEntry) (b : List Byte) : State :=
  let ix := mkIndex e.id
  let node := some (laneNode (mkLane e.home))
  if ((s.plot q).plt.job? i).any (fun j => j.phase == .abandoning) || ((s.plot q).plt.job? i).isNone then s
  else if !sideOk b e.nlist then chargeFault s q i .image node
  else
    let x := (s.plot q).fln.idx[ix]
    match (if x.entries.length < e.sideCap then epochOf x i else none) with
    | none => chargeFault (s.modFlnCnt q (fun c => { c with sideFull := satInc c.sideFull })) q i .sideFull node
    | some (ep, x) =>
      let stamped := slice b 0 24 ++ leBytes 2 ep ++ slice b 26 38
      let s := s.pokeHome q (e.sideAddr + 64 * (x.tail % e.sideCap)) stamped
      let x' := { x with tail := x.tail + 1, entries := x.entries ++ [sideEntry b x.tail ep] }
      let s := s.modIdx q ix (fun _ => x')
      if e.sideHigh ≠ 0 ∧ x.entries.length < e.sideHigh ∧ e.sideHigh ≤ x'.entries.length ∧ !(s.plot q).fln.highRaised then
        (s.modFln q (fun f => { f with highRaised := true })).raisePlot q 0x100
      else s

/-- SIDE_APPEND (R253): entries from plot memory, in order. -/
def appendSide (s : State) (q : PlotId) (i : BitVec 16) (ix : Fin 16) (a n : Nat) : State :=
  match runningJob s q i, s.cfg.content.index? q.val ix.val with
  | some j, some e =>
    withReads s q j [(a, 64 * n)] (some (laneNode (mkLane e.home))) (fun s =>
      let es := (List.range n).map (fun k => jobBytes s q j (a + 64 * k) 64)
      es.foldl (fun s b => appendOne s q i e b) s)
  | some _, none => chargeFault s q i .image none
  | none, _ => s

/-! ### Generation writes (R256, R257) -/

/-- Bytes of a lane's staging for programs (Table 10-2). -/
def stagingBytes : Nat := 98304

/-- Data bytes of a flash page of a lane. -/
def Content.pageBytes (c : Content) (l : LaneId) : Nat := 1024 * (c.chan l.val).pageKib

/-- Flash pages that a lane's staging holds: programs not complete, and pages whose codewords arrive (R231, R256). -/
def stagedPages (s : State) (l : LaneId) : Nat :=
  ((s.lane l).ops.filter (fun o => o.kind == .program)).length +
  sumNat (tenantPlots.map (fun q => (((List.finRange 16).filter (fun ix =>
    let x := (s.plot q).fln.idx[ix]
    !x.staged.isEmpty && (match s.cfg.content.index? q.val ix.val with
      | some e => (e.place (s.cfg.content.indexChan e) (!x.gen) x.next).1.lane == l.val
      | none => false))).length)))

/-- Has the lane staging for a page that begins (R231)? -/
def stageRoom (s : State) (l : LaneId) : Bool :=
  decide ((stagedPages s l + 1) * s.cfg.content.pageBytes l ≤ stagingBytes)

/-- A stripe page with its codewords staged is to be programmed, its block erased first when it is the block's first page. -/
def programPage (s : State) (q : PlotId) (i : BitVec 16) (ix : Nat) (a : FlashPlace) (data : List Byte) : State :=
  let l := mkLane a.lane
  let op : FlashOp := {
    plot := q, job := i, who := .gen ix, ce := a.ce, lun := a.lun, block := a.block, page := a.page, kind := .program,
    data := data }
  let ops := (if a.page = 0 then [{ op with kind := .erase, data := [] }] else []) ++ [op]
  issueLane (s.modLaneOf l (fun x => { x with ops := x.ops ++ ops })) l

/-- One sector of the inactive generation is written (R256): none where the lane's staging is full and the call waits. -/
def writeSector (s : State) (q : PlotId) (i : BitVec 16) (e : IndexEntry) (sector : Nat) (data : List Byte) : Option State :=
  let ix := mkIndex e.id
  let x := (s.plot q).fln.idx[ix]
  let ch := s.cfg.content.indexChan e
  if sector ≠ x.next ∨ e.capacity ch ≤ sector then some (chargeFault s q i .image (some (laneNode (mkLane e.home))))
  else
    let a := (e.place ch (!x.gen) sector).1
    if s.suspectAt a then some (chargeFault s q i .flash (some (laneNode (mkLane a.lane))))
    else if x.staged.isEmpty && !stageRoom s (mkLane a.lane) then none
    else
      let staged := x.staged ++ [data]
      let whole := decide (ch.cw ≤ staged.length)
      let s := s.modJob q i (fun j => { j with genDone := j.genDone + 1 })
      let s := s.modIdx q ix (fun x => { x with next := sector + 1, staged := if whole then [] else staged })
      some (if whole then programPage s q i e.id a staged.flatten else s)

/-- Sectors are written in order until the job faults or the call has to wait; answers whether all were. -/
def writeSectors (q : PlotId) (i : BitVec 16) (e : IndexEntry) : List (Nat × List Byte) → State → State × Bool
  | [], s => (s, true)
  | (sector, data) :: l, s =>
    match writeSector s q i e sector data with
    | none => (s, false)
    | some s => if (runningJob s q i).isSome then writeSectors q i e l s else (s, false)

/-- The frame program flushes the last page (R256). -/
def flushPage (s : State) (q : PlotId) (i : BitVec 16) (e : IndexEntry) : State :=
  let ix := mkIndex e.id
  let x := (s.plot q).fln.idx[ix]
  if !x.staged.isEmpty && x.writer == some i then
    let p := (e.place (s.cfg.content.indexChan e) (!x.gen) (x.next - 1)).1
    programPage (s.modIdx q ix (fun x => { x with staged := [] })) q i e.id p x.staged.flatten
  else s

/-- A call takes the inactive generation, and with the MERGE option captures the visibility point and T0 (R256, R257). -/
def takeGeneration (s : State) (q : PlotId) (i : BitVec 16) (ix : Fin 16) (merge : Bool) : State :=
  let x := (s.plot q).fln.idx[ix]
  let s := if x.writer.isNone then s.modIdx q ix (fun x => { x with writer := some i, next := 0, staged := [] }) else s
  if merge && !x.merge then s.modIdx q ix (fun x => { x with
    merge := true, t0 := x.tail, seen := (x.epochs.filter (fun p => p.2 == .published || p.2 == .running i)).map (·.1) })
  else s

/-- A GEN_WRITE call (R256), with the MERGE option or without (R257). A call that finds no staging waits, and the command goes on
where it stopped. -/
def genCall (s : State) (q : PlotId) (i : BitVec 16) (ix : Fin 16) (merge : Bool) (sector a n : Nat) (flush : Bool) : State :=
  match runningJob s q i, s.cfg.content.index? q.val ix.val with
  | some j, some e =>
    let x := (s.plot q).fln.idx[ix]
    let busy := (match x.writer with | some k => k != i | none => false) ||
      (s.plot q).fln.queries.any (fun y => y.index == ix.val && y.gen == some (!x.gen))
    if busy then s.modJob q i (fun j => { j with genBusy := true })
    else withReads s q j [(a, 4096 * n)] (some (laneNode (mkLane e.home))) (fun s =>
      let s := takeGeneration (s.modJob q i (fun j => { j with genBusy := false })) q i ix merge
      let data := ((List.range n).drop j.genDone).map (fun k => (sector + k, jobBytes s q j (a + 4096 * k) 4096))
      let r := writeSectors q i e data s
      if r.2 then
        let s := r.1.modJob q i (fun j => { j with genDone := 0 })
        if flush then flushPage s q i e else s
      else r.1)
  | some _, none => chargeFault s q i .image none
  | none, _ => s

/-- The outstanding program or erase of a LUN. -/
def FlashLane.programming (x : FlashLane) (ce lun : Nat) : Option FlashOp :=
  (x.outstanding ce lun).bind (fun o => if o.kind == .read then none else some o)

/-- A program or erase ends (R260). -/
def opComplete (s : State) (l : LaneId) (ce lun : Nat) (fail : Bool) : State :=
  match (s.lane l).programming ce lun with
  | none => s
  | some o =>
    let kind := if o.kind == .erase then 3 else 2
    if fail then markSuspect (s.modLaneOf l (fun x => { x with pfail := satInc x.pfail })) l ce lun kind
    else issueLane (s.modLaneOf l (fun x => { x with
      ops := x.ops.erase o, erase := if o.kind == .erase then satInc x.erase else x.erase,
      pgBytes := if o.kind == .erase then x.pgBytes else satAdd x.pgBytes o.data.length })) l

/-- A program or erase times out (R260): one RESET, then the LUN is suspect. -/
def opTimeout (s : State) (l : LaneId) (ce lun : Nat) : State :=
  match (s.lane l).programming ce lun with
  | none => s
  | some o =>
    markSuspect ((s.modLaneOf l (fun x => { x with pfail := satInc x.pfail })).emit (.flashCommand l.val ce lun 0xFF [])) l ce lun
      (if o.kind == .erase then 3 else 2)

/-- Publication of a job's side epochs and generations in step 6 (R254, R256, R257). -/
def publishIndex (x : IndexState) (cap : Nat) (i : BitVec 16) : IndexState × List SideEntry :=
  let x := { x with epochs := x.epochs.map (fun e => if e.2 == .running i then (e.1, .published) else e) }
  if x.writer != some i then (x, [])
  else
    let x := { x with gen := !x.gen, writer := none, next := 0, staged := [] }
    if !x.merge then (x, [])
    else
      let stay := x.entries.filter (fun e => decide (x.t0 ≤ e.pos))
      let carried := x.entries.filter (fun e => decide (e.pos < x.t0) && !x.seen.contains e.epoch &&
        !(x.epochs.lookup e.epoch == some .dead))
      let moved := (List.range carried.length).filterMap (fun k => (carried[k]?).map (fun e => { e with pos := x.tail + k }))
      let entries := stay ++ moved
      ({ x with
        merge := false, t0 := 0, seen := [], tail := x.tail + moved.length, entries := entries,
        epochs := x.epochs.filter (fun e => entries.any (fun d => d.epoch == e.1)) },
        if cap = 0 then [] else moved)

/-- Bytes of a side entry in the ring. -/
def sideBytes (d : SideEntry) : List Byte :=
  leBytes 8 d.id ++ leBytes 8 d.attr ++ leBytes 4 d.part ++ [BitVec.ofNat 8 (b2n d.del), 0, 0, 0] ++ leBytes 2 d.epoch ++
    List.replicate 6 0 ++ d.codes

/-- A job that completes OK publishes in every index (step 6). -/
def publishFlash (s : State) (q : PlotId) (i : BitVec 16) : State :=
  (List.finRange 16).foldl (fun s ix =>
    let e? := s.cfg.content.index? q.val ix.val
    let cap := match e? with | some e => e.sideCap | none => 0
    let x := (s.plot q).fln.idx[ix]
    let r := publishIndex x cap i
    let s := s.modIdx q ix (fun _ => r.1)
    let s := match e? with
      | some e => r.2.foldl (fun s d => s.pokeHome q (e.sideAddr + 64 * (d.pos % max cap 1)) (sideBytes d)) s
      | none => s
    if x.merge && x.writer == some i then s.modFlnCnt q (fun c => { c with merge := satInc c.merge }) else s) s

/-- Lane-held state of one index as its registers show it: status, live, dead, free epochs (Table 10-12). -/
def indexShow (en : Bool) (x : IndexState) : Nat × Nat × Nat × Nat :=
  (b2n en + 2 * b2n x.gen + 4 * b2n x.writer.isSome + 8 * b2n (x.writer.isSome && x.merge), x.entries.length,
    (x.entries.filter (fun d => x.epochs.lookup d.epoch == some .dead)).length, 4096 - x.epochs.length)

/-- What the FLN registers of a plot latch in step 2 (R263). -/
def latchFlash (s : State) (q : PlotId) : State :=
  let c := s.cfg.content
  s.modFln q (fun f => { f with
    shown := f.live, highRaised := false,
    shownIdx := Vector.ofFn (fun (i : Fin 16) => indexShow (c.index? q.val i.val).isSome f.idx[i]) })

/-! ### Lanes coming up (R234, R260, R261) -/

/-- RESET, the three features and ZQ CALIBRATION LONG go to a LUN (R234, Table 10-4). -/
def setupLun (s : State) (l : LaneId) (ce lun : Nat) : State :=
  let ch := s.cfg.content.chan l.val
  let to_ (s : State) (command : Nat) (args : List Nat) : State := s.emit (.flashCommand l.val ce lun command args)
  let s := to_ s 0xFF []
  let s := to_ (to_ (to_ s 0xEF [1, ch.featTiming]) 0xEF [2, ch.featDdr3]) 0xEF [0x10, ch.featDrive]
  to_ s 0xF9 []

/-- Every lane takes up a changed STRUCTURE section (R234). -/
def initLanes (s : State) : State :=
  (List.finRange 8).foldl (fun s (l : LaneId) =>
    let ch := s.cfg.content.chan l.val
    if ch.populated then
      let s := s.modLaneOf l (fun x => { x with
        state := .init, ops := (x.ops.filter (fun o => o.kind != .read)).map (fun o => { o with issued := false }) })
      ch.lunList.foldl (fun s u => setupLun s l u.1 u.2) s
    else s.modLaneOf l (fun x => { x with state := .off, ops := [] })) s

/-- A lane's initialisation is complete (R234): waiting page-ins and commands go. -/
def laneReady (s : State) (l : LaneId) : State :=
  if (s.lane l).state != .init then s
  else
    let s := s.modLaneOf l (fun x => { x with state := .ready })
    issueLane (s.eachPlot allPlots (fun s q => startPageIns s q l)) l

/-- A LUN does not complete its initialisation in time (R260). -/
def lunInitFailed (s : State) (l : LaneId) (ce lun : Nat) : State :=
  if (s.lane l).state != .init || !(s.cfg.content.chan l.val).has ce lun then s
  else markSuspect (s.modLaneOf l (fun x => { x with pfail := satInc x.pfail })) l ce lun 4

/-- FLN_LUN_CLR.GO (R261): the lane resets, sets up and calibrates a suspect LUN. -/
def lunClear (s : State) (l : LaneId) (ce lun : Nat) : State :=
  if (s.lane l).suspect.getLsbD (lunBit ce lun) then
    setupLun (s.modLaneOf l (fun x => { x with clearing := setBit x.clearing (lunBit ce lun) true })) l ce lun
  else s

/-- The LUN is back in service (R261). -/
def lunCleared (s : State) (l : LaneId) (ce lun : Nat) : State :=
  if (s.lane l).clearing.getLsbD (lunBit ce lun) then
    issueLane (s.modLaneOf l (fun x => { x with
      clearing := setBit x.clearing (lunBit ce lun) false, suspect := setBit x.suspect (lunBit ce lun) false })) l
  else s

/-- The state of an index when its entry is new or changed (R241). -/
def resetIndex (s : State) (q : PlotId) (ix : Fin 16) : State := s.modIdx q ix (fun _ => {})

/-! ### Meanings -/

/-- LANE_INIT_DONE (R234). -/
def execLaneInitDone (lane : LaneId) (s : State) : Result := .next (laneReady s lane)

/-- QUERY_START (R243). -/
def execQueryStart (q : PlotId) (idx : BitVec 16) (addr : BitVec 36) (s : State) : Result :=
  .next (startQuery s q idx addr.toNat)

/-- QUERY_PART_START (R245). -/
def execQueryPartStart (q : PlotId) (idx : BitVec 16) (query : Nat) (lane : LaneId) (s : State) : Result :=
  .next (startPart s q idx query lane)

/-- FLASH_PAGE_READY (R246, R259). -/
def execFlashPageReady (lane : LaneId) (ce : Fin 4) (lun : Fin 8) (block page : Nat) (r : PageRead) (s : State) : Result :=
  .next (pageReady s lane ce.val lun.val block page r)

/-- LANE_CLAIM_PARK (R247). -/
def execLaneClaimPark (q : PlotId) (idx : BitVec 16) (lane : LaneId) (s : State) : Result := .next (parkClaim s q idx lane)

/-- QUERY_DEADLINE_REACHED (R251). -/
def execQueryDeadlineReached (q : PlotId) (idx : BitVec 16) (query : Nat) (lane : LaneId) (s : State) : Result :=
  .next (partDeadline s q idx query lane)

/-- QUERY_RESULT_MERGE (R248). -/
def execQueryResultMerge (q : PlotId) (idx : BitVec 16) (query : Nat) (s : State) : Result :=
  .next (mergeResult s q idx query)

/-- SIDE_APPEND (R253). -/
def execSideAppend (q : PlotId) (idx : BitVec 16) (index : Fin 16) (addr : BitVec 36) (count : Nat) (s : State) : Result :=
  .next (appendSide s q idx index addr.toNat count)

/-- GEN_WRITE (R256). -/
def execGenWrite (q : PlotId) (idx : BitVec 16) (index : Fin 16) (sector : Nat) (addr : BitVec 36) (count : Nat)
    (flush : Bool) (s : State) : Result :=
  .next (genCall s q idx index false sector addr.toNat count flush)

/-- GEN_MERGE (R257): a GEN_WRITE call with the MERGE option. -/
def execGenMerge (q : PlotId) (idx : BitVec 16) (index : Fin 16) (sector : Nat) (addr : BitVec 36) (count : Nat)
    (flush : Bool) (s : State) : Result :=
  .next (genCall s q idx index true sector addr.toNat count flush)

/-- LUN_READY_TIMEOUT (R259). -/
def execLunReadyTimeout (lane : LaneId) (ce : Fin 4) (lun : Fin 8) (block page : Nat) (s : State) : Result :=
  .next (readTimeout s lane ce.val lun.val block page)

/-- PROGRAM_ERASE_COMPLETE (R260). -/
def execProgramEraseComplete (lane : LaneId) (ce : Fin 4) (lun : Fin 8) (fail : Bool) (s : State) : Result :=
  .next (opComplete s lane ce.val lun.val fail)

/-- PROGRAM_ERASE_TIMEOUT (R260). -/
def execProgramEraseTimeout (lane : LaneId) (ce : Fin 4) (lun : Fin 8) (s : State) : Result :=
  .next (opTimeout s lane ce.val lun.val)

/-- LUN_CLR (R261): the PF writes FLN_LUN_CLR with GO = 1. -/
def execLunClr (lane : LaneId) (ce : Fin 4) (lun : Fin 8) (s : State) : Result :=
  .next (hostGate s 0 (fun s => lunClear s lane ce.val lun.val))

/-- LUN_INIT_TIMEOUT (R260). -/
def execLunInitTimeout (lane : LaneId) (ce : Fin 4) (lun : Fin 8) (s : State) : Result :=
  .next (lunInitFailed s lane ce.val lun.val)

/-- LUN_CLR_DONE (R261). -/
def execLunClrDone (lane : LaneId) (ce : Fin 4) (lun : Fin 8) (s : State) : Result :=
  .next (lunCleared s lane ce.val lun.val)

end Sys2Proof.Machine
end

