-- ==== Sys2Proof/Machine/Noise.lean ====
section
/-!
DEFINITION. Sys2Proof/Machine/Noise.lean: noise words and reservoirs (R154, R155), the inverse-CDF table (R159), the noise
term (R160), health of wells and channels (R152, R153), the deep well (R156), host random requests (R157, R158) and noise
tapes (R165 to R173).
-/
namespace Sys2Proof.Machine

/-! ### The inverse-CDF table (R159) and the noise term (R160) -/

/-- ln 2 in units of 2^-60. -/
def ln2Fix : Nat := 799144290325165978

/-- Terms of atanh: z / k + z^3 / (k + 2) + ... in units of 2^-60, `zz` the square of z. -/
def atanhFix : Nat → Nat → Nat → Nat → Nat
  | 0, _, _, _ => 0
  | n + 1, z, zz, k => z / k + atanhFix n (z * zz / 2 ^ 60) zz (k + 2)

/-- 2048 ln(a / b) rounded, for a ≥ b > 0: ln(a/b) = k ln 2 + 2 atanh((a - c) / (a + c)) with c = b 2^k. -/
def ln2048 (a b : Nat) : Nat :=
  let k := Nat.log2 (a / b)
  let c := b * 2 ^ k
  let z := (a - c) * 2 ^ 60 / (a + c)
  let s := 2 * atanhFix 20 z (z * z / 2 ^ 60) 1 + k * ln2Fix
  (4096 * s + 2 ^ 60) / 2 ^ 61

/-- L[u] = round(2048 ln((u + 0.5) / (4095.5 - u))) (R159). -/
def icdf (u : Nat) : Int :=
  let u := u % 4096
  if 2048 ≤ u then (ln2048 (2 * u + 1) (8191 - 2 * u) : Int) else -(ln2048 (8191 - 2 * u) (2 * u + 1) : Int)

/-- N of R160 for a mantissa, an exponent, a stall offset and a word. -/
def noiseTerm (mant exp sigma u : Nat) : Int :=
  let m := min (mant + sigma) 131071
  roundShift ((m : Int) * icdf u) ((exp : Int) - 12)

/-! ### Reservoirs (R151, R154) -/

/-- Reservoir capacity in bits (4 KiB). -/
def reservoirBits : Nat := 32768

/-- Bits enter a reservoir; what does not fit is discarded (R151). -/
def BitFifo.push (r : BitFifo) (bits n : Nat) : BitFifo :=
  let k := min n (reservoirBits - r.len)
  { bits := r.bits + bits % 2 ^ k * 2 ^ r.len, len := r.len + k }

/-- The next 12 bits, the earliest as bit 0 of the word (R154). -/
def BitFifo.word (r : BitFifo) : Option (Nat × BitFifo) :=
  if 12 ≤ r.len then some (r.bits % 4096, { bits := r.bits / 4096, len := r.len - 12 }) else none

/-- Change the well of a tile. -/
def State.modWell (s : State) (t : TileId) (f : Well → Well) : State :=
  { s with nse := { s.nse with wells := s.nse.wells.set t (f s.nse.wells[t]) } }

/-- Change the NSE set of a plot. -/
def State.modNse (s : State) (q : PlotId) (f : NsePlot → NsePlot) : State :=
  s.modPlot q (fun p => { p with nse := f p.nse })

/-- Change one tape lane of a plot. -/
def State.modLane (s : State) (q : PlotId) (t : Fin 64) (f : TapeLane → TapeLane) : State :=
  s.modNse q (fun n => { n with lanes := n.lanes.set t (f n.lanes[t]) })

/-- Change the live counters of a plot's ANL and NSE sets. -/
def State.modLive (s : State) (q : PlotId) (f : AnShow → AnShow) : State :=
  s.modPlot q (fun p => { p with an := { p.an with live := f p.an.live } })

/-- The family index of a plot's within-plot tile. -/
def tileFamily (s : State) (q : PlotId) (i : Nat) : Option TileId :=
  match (s.cfg.content.tileList q.val)[i]? with
  | some t => if h : t < 64 then some ⟨t, h⟩ else none
  | none => none

/-- The node of a plot's within-plot tile. -/
def tileNodeOf (s : State) (q : PlotId) (i : Nat) : Option NodeId :=
  (tileFamily s q i).map (fun t => mkNode (nodeOf .at_ t.val))

/-! ### Tapes (R165 to R173) -/

/-- The tape configuration in force for a plot (R167): the one its admitted jobs captured, else the committed one. -/
def tapeRws (s : State) (q : PlotId) : PlotRws :=
  match (s.plot q).nse.cap with
  | some c => if (s.plot q).plt.jobs.any Job.admitted then c else (s.plot q).rws
  | none => (s.plot q).rws

/-- Do two register sets agree in their tape configuration? -/
def sameTape (a b : PlotRws) : Bool :=
  a.tapeOn == b.tapeOn && a.tapeDir == b.tapeDir && a.tapeLen == b.tapeLen && a.tapeBase == b.tapeBase

/-- Host address of the segment at an index of a lane (R165). -/
def laneAddr (c : PlotRws) (t : Nat) (i : BitVec 16) : Nat :=
  let len := c.tapeLen.toNat
  c.tapeBase.toNat + t * len * 4096 + 4096 * (i.toNat % (max len 1))

/-- Compass issues the fetches a play lane has room for (R167): published, not yet fetched, at most four places, the lowest
index first; one whose fetch failed comes before all others. -/
def fetchLaneAux : Nat → State → PlotId → Fin 64 → State
  | 0, s, _, _ => s
  | n + 1, s, q, t =>
    let c := tapeRws s q
    let ns := (s.plot q).nse
    let l := ns.lanes[t]
    if !(c.tapeOn && !c.tapeDir && ns.halted.isNone && s.permitted q) then s
    else if l.refetch then
      fetchLaneAux n ((s.modLane q t (fun l => { l with refetch := false })).hostRead q (.tapeSegment t) (laneAddr c t.val l.head) 4096) q t
    else if decide (l.bufs.length + l.flight < 4) && decide (l.flight < occupancy l.tail l.head) then
      let at_ := l.head + BitVec.ofNat 16 l.flight
      fetchLaneAux n
        ((s.modLane q t (fun l => { l with flight := l.flight + 1 })).hostRead q (.tapeSegment t) (laneAddr c t.val at_) 4096) q t
    else s

/-- Fetches of one lane. -/
def fetchLane (s : State) (q : PlotId) (t : Fin 64) : State := fetchLaneAux 5 s q t

/-- Fetches of every lane of a plot, in lane order. -/
def fetchLanes (s : State) (q : PlotId) : State := (List.finRange 64).foldl (fun s t => fetchLane s q t) s

/-- What TAPE_LOW measures on a lane (R172): play, occupancy and buffered segments; record, free space. -/
def laneMeasure (c : PlotRws) (l : TapeLane) : Nat :=
  if c.tapeDir then c.tapeLen.toNat - occupancy l.tail l.head else occupancy l.tail l.head + l.bufs.length

/-- TAPE_LOW rises when a lane of a plot with an admitted tape job falls below the threshold, at most once per commit
window (R172). -/
def checkLow (s : State) (q : PlotId) (t : Fin 64) : State :=
  let c := tapeRws s q
  let ns := (s.plot q).nse
  let l := ns.lanes[t]
  let low := decide (laneMeasure c l < ns.low.toNat)
  if !(c.tapeOn && (s.plot q).plt.jobs.any Job.admitted) then s
  else
    let s' := s.modLane q t (fun l => { l with low := low })
    if low && !l.low && !ns.lowRaised then (s'.modNse q (fun n => { n with lowRaised := true })).raisePlot q 0x40
    else s'

/-- A tape error is recorded (Table 6-8, NSE_PTAPE_ERR). -/
def tapeErr (s : State) (q : PlotId) (t : Nat) (reason : Nat) (seg : Nat) : State :=
  s.modNse q (fun n => { n with
    errTile := BitVec.ofNat 6 t, errReason := BitVec.ofNat 4 reason, errSeg := BitVec.ofNat 16 seg })

/-- The plot's admitted tape job that is running, if one is (R167). -/
def tapeJob (s : State) (q : PlotId) : Option (BitVec 16) :=
  match (s.plot q).plt.jobs.find? (fun j => j.live && j.phase != .finished && j.phase != .abandoning) with
  | some j => some j.idx
  | none => none

/-- A segment is refused, or its fetch failed (R167): recorded, TAPE_REFUSED raised, one line, the admitted tape job faults
and fetching halts until its abandonment completes. The job's line has the lower code and comes first (R351). -/
def refuseSegment (s : State) (q : PlotId) (t : Fin 64) (reason seg : Nat) (c : Code) : State :=
  let s := (tapeErr s q t.val reason seg).raisePlot q 0x80
  let s : State := match tapeJob s q with
    | none => s
    | some i =>
      let s := s.modNse q (fun n => { n with halted := some i, lanes := n.lanes.map (fun l => { l with flight := 0, refetch := false }) })
      chargeFault s q i c (tileNodeOf s q t.val)
  s.logLine 0x41 q.val none (reason * 65536 + t.val) seg

/-- The abandonment of a job for which fetching was halted has completed: fetching resumes (R167). -/
def resumeFetching (s : State) (q : PlotId) (i : BitVec 16) : State :=
  if (s.plot q).nse.halted == some i then fetchLanes (s.modNse q (fun n => { n with halted := none })) q else s

/-- The first failing check of R167, as NSE_PTAPE_ERR.REASON; 0 if all pass. -/
def segmentReason (b : List Byte) (t : Nat) (expect : Word) : Nat :=
  if leAt b 0 4 ≠ 0x54374E41 then 1
  else if !crcOk b 0 60 60 then 2
  else if leAt b 56 4 ≠ (crc32c ((b.drop 64).take 4032)).toNat then 3
  else if leAt b 8 1 ≠ t then 4
  else if 2688 < leAt b 10 2 then 5
  else if !zeroAt b 12 44 || decide (3 < leAt b 9 1) then 10
  else if leAt b 4 4 ≠ expect.toNat then 6
  else 0

/-- The words of a segment (R166): word w occupies payload bits 12w to 12w + 11. -/
def segmentWords (b : List Byte) : List Nat :=
  let payload := leNat ((b.drop 64).take 4032)
  (List.range (leAt b 10 2)).map (fun w => payload / 2 ^ (12 * w) % 4096)

/-- The first buffered segment that still holds a word or ends the tape: empty ones with END = 0 are passed over (R168). -/
def skipEmpty : List TapeSeg → List TapeSeg
  | [] => []
  | g :: rest => if g.words.isEmpty && !g.last then skipEmpty rest else g :: rest

/-- A fetched play segment arrives (R167): the one at the lane's head, as segments are checked in lane-index order. A failed
fetch keeps its place in flight and is issued again, unless it faulted a job and fetching halts. -/
def segmentArrived (s : State) (q : PlotId) (t : Fin 64) (r : Fetched) : State :=
  let l := (s.plot q).nse.lanes[t]
  if l.flight = 0 || l.refetch then s
  else
    match r with
    | .failed k =>
      let (v, s) := s.takeFree
      fetchLane (refuseSegment (dmaError (s.modLane q t (fun l => { l with refetch := true })) q (.tapeSegment t) k) q t 9 (v.toNat % 2 ^ 32)
        .hostDma) q t
    | .bytes b0 =>
      let s := s.modLane q t (fun l => { l with flight := l.flight - 1 })
      let b := slice b0 0 4096
      let s := s.modLane q t (fun l => { l with head := l.head + 1 })
      let reason := segmentReason b t.val l.next
      let s := if reason = 0 then
          let seg : TapeSeg := { segNo := leAt b 4 4, words := segmentWords b, last := bitOf (leAt b 9 1) 0 }
          s.modLane q t (fun l => { l with next := l.next + 1, bufs := skipEmpty (l.bufs ++ [seg]) })
        else refuseSegment s q t reason (leAt b 4 4) .tape
      checkLow (fetchLane s q t) q t

/-- Can a play lane give a word: yes, not yet (pause), or never (exhausted)? -/
inductive TapeWord where
  | word (u : Nat) (lane : TapeLane)
  | none
  | exhausted
deriving DecidableEq, Repr

/-- Lanes at the start of an attempt: what is left of a segment in use, or of a record segment, is discarded (R168, R169). -/
def beginLanes (s : State) (q : PlotId) : State :=
  s.modNse q (fun n => { n with lanes := n.lanes.map (fun l => { l with
    bufs := if l.begun then skipEmpty (l.bufs.drop 1) else l.bufs, begun := false, fresh := true, ended := false, record := [] }) })

/-- The TAPE_LOW measure of every lane of the plot's tiles (R172). -/
def checkLows (s : State) (q : PlotId) : State :=
  (List.finRange 64).foldl (fun s t =>
    if t.val < (s.cfg.content.tileList q.val).length then checkLow s q t else s) s

/-- An attempt starts on its lanes (R168, R169): places that fall free are fetched for, and the lanes are measured (R172). -/
def attemptLanes (s : State) (q : PlotId) : State := checkLows (fetchLanes (beginLanes s q) q) q

/-- The next word of a play lane (R168). -/
def playWord (l : TapeLane) : TapeWord :=
  if l.ended then .exhausted
  else match skipEmpty l.bufs with
  | [] => .none
  | g :: rest =>
    match g.words with
    | [] => .exhausted
    | u :: us =>
      let start := if l.fresh then BitVec.ofNat 32 g.segNo else l.start
      .word u { l with
        bufs := if us.isEmpty && !g.last then skipEmpty rest else { g with words := us } :: rest,
        begun := !(us.isEmpty && !g.last),
        ended := us.isEmpty && g.last, fresh := false, start := start }

/-- A word taken in record is appended to the tile's record buffer (R169). -/
def recordWord (l : TapeLane) (u : Nat) : TapeLane := { l with record := l.record ++ [u] }

/-- Words a full record segment holds. -/
def segWords : Nat := 2688

/-- A record segment's bytes (Table 6-5). -/
def segmentBytes (segNo t : Nat) (flags : Nat) (words : List Nat) : List Byte :=
  let payload := leBytes 4032 (words.foldr (fun w acc => acc * 4096 + w) 0)
  let head := leBytes 4 0x54374E41 ++ leBytes 4 segNo ++ [BitVec.ofNat 8 t, BitVec.ofNat 8 flags] ++
    leBytes 2 words.length ++ List.replicate 44 0 ++ leBytes 4 (crc32c payload).toNat
  head ++ leBytes 4 (crc32c head).toNat ++ payload

/-- A segment is written to the lane's tail when the lane has space (R169). -/
def writeSegment (s : State) (q : PlotId) (t : Fin 64) (words : List Nat) (last : Bool) : State :=
  let c := tapeRws s q
  let l := (s.plot q).nse.lanes[t]
  let flags := b2n last + 2 * b2n l.fresh
  let s := s.hostWrite q (laneAddr c t.val l.tail) (segmentBytes l.next.toNat t.val flags words) s.devCtl.relaxed
  let s := s.modLane q t (fun l => { l with
    tail := l.tail + 1, next := l.next + 1, start := if l.fresh then l.next else l.start, fresh := false })
  checkLow s q t

/-- A full record segment is written once the lane has space (R169). -/
def recordWrite (s : State) (q : PlotId) (t : Fin 64) : State :=
  let c := tapeRws s q
  let l := (s.plot q).nse.lanes[t]
  if c.tapeOn && c.tapeDir && decide (segWords ≤ l.record.length) &&
      decide (occupancy l.tail l.head < c.tapeLen.toNat) && s.permitted q then
    let words := l.record.take segWords
    writeSegment (s.modLane q t (fun l => { l with record := l.record.drop segWords })) q t words false
  else s

/-- Has every record lane of the plot's tiles space for the segments a completing job leaves it: those that are full, and the
one that ends the tape (R169)? -/
def recordRoom (s : State) (q : PlotId) : Bool :=
  let c := tapeRws s q
  (List.finRange 64).all (fun t =>
    let l := (s.plot q).nse.lanes[t]
    decide ((s.cfg.content.tileList q.val).length ≤ t.val) ||
      decide (occupancy l.tail l.head + l.record.length / segWords + 1 ≤ c.tapeLen.toNat))

/-- The full segments of a record lane are written, oldest first (R169). -/
def writeFull : Nat → State → PlotId → Fin 64 → State
  | 0, s, _, _ => s
  | n + 1, s, q, t => writeFull n (recordWrite s q t) q t

/-- When a tape job in record completes, every lane of the plot's tiles receives its partial segment with END = 1, after the
full ones that still wait (R169). -/
def recordEnd (s : State) (q : PlotId) : State :=
  let c := tapeRws s q
  if c.tapeOn && c.tapeDir then
    (List.finRange 64).foldl (fun s t =>
      if t.val < (s.cfg.content.tileList q.val).length then
        let s := writeFull ((s.plot q).nse.lanes[t].record.length / segWords) s q t
        let words := (s.plot q).nse.lanes[t].record
        (writeSegment (s.modLane q t (fun l => { l with record := [] })) q t words true)
      else s) s
  else s

/-- A write of NSE_PTAPE_DB (R173). -/
def tapeDoorbell (s : State) (q : PlotId) (t : Fin 64) (index : BitVec 16) : State :=
  let c := tapeRws s q
  let l := (s.plot q).nse.lanes[t]
  let occ := if c.tapeDir then occupancy l.tail index else occupancy index l.head
  if !(s.plot q).rws.tapeOn || decide ((s.cfg.content.tileList q.val).length ≤ t.val) || decide (c.tapeLen.toNat < occ) then
    (tapeErr s q t.val 8 (s.plot q).nse.errSeg.toNat).logLine 0x42 q.val none t.val index.toNat
  else if c.tapeDir then checkLow (s.modLane q t (fun l => { l with head := index })) q t
  else checkLow (fetchLane (s.modLane q t (fun l => { l with tail := index })) q t) q t

/-! ### Wells and the deep well (R151 to R156) -/

/-- A tile draws while its well is out of service or its last 64 needed slots were all short (R155). -/
def Well.wantsDraw (w : Well) : Bool := w.state == .failed || w.state == .locked || decide (64 ≤ w.short)

/-- The tile stops drawing when its well is healthy and its reservoir holds 2,048 bytes (R155). -/
def Well.stopDraw (w : Well) : Well :=
  if w.state == .healthy && decide (16384 ≤ w.fifo.len) then { w with draw := false, short := 0 } else w

/-- Change the random-request registers of a function. -/
def State.modRng (s : State) (q : PlotId) (f : RngSet → RngSet) : State :=
  { s with nse := { s.nse with rng := s.nse.rng.set q (f s.nse.rng[q]) } }

/-- A deep-well channel is in service again: every outstanding request has seen one (R158). -/
def markChannelsUp (s : State) : State := allPlots.foldl (fun s q => s.modRng q (fun r => { r with up := true })) s

/-- Failures no older than one second of TCLK (R153). -/
def recentFails (fails : List Nat) (now : Nat) : List Nat := fails.filter (fun t => decide (now < t + 100000000))

/-- The state after a failure: LOCKED at the 16th within a second, else FAILED (R153). -/
def failState (fails : List Nat) : WellState := if 16 ≤ fails.length then .locked else .failed

/-- Counters, cause and log line of a health failure (R153). -/
def noteHealth (s : State) (src : NoiseSource) (apt : Bool) (fails : Nat) : State :=
  let n := s.nse
  let s := { s with nse := { n with
    rctFail := if apt then n.rctFail else satInc n.rctFail, aptFail := if apt then satInc n.aptFail else n.aptFail } }
  let s := s.raisePf 11
  let arg := (match src with | .well t => t.val | .channel c => 256 + c.val) + (if apt then 65536 else 0)
  if s.nse.logged.contains src then s.logSuppressed
  else ({ s with nse := { s.nse with logged := src :: s.nse.logged } }).logLine 0x40 noPlot none arg fails

/-- A health test fails (R153): output stops, a well's reservoir is emptied; a LOCKED source is not tested. -/
def healthFail (s : State) (src : NoiseSource) (apt : Bool) : State :=
  match src with
  | .well t =>
    let w := s.nse.wells[t]
    if w.state == .locked then s
    else
      let fails := s.boot.tclk :: recentFails w.fails s.boot.tclk
      let s := s.modWell t (fun w => { w with state := failState fails, fails := fails, fifo := {} })
      noteHealth s src apt fails.length
  | .channel c =>
    let ch := s.nse.chans[c]
    if ch.state == .locked then s
    else
      let fails := s.boot.tclk :: recentFails ch.fails s.boot.tclk
      let ch' := { ch with state := failState fails, fails := fails, half := none, warm := 0 }
      let s := { s with nse := { s.nse with chans := s.nse.chans.set c ch' } }
      noteHealth s src apt fails.length

/-- A start-up test passes (R152): the source's output is used. A deep-well channel passes only after it has formed one full
pool block (Table 6-2). -/
def startupPass (s : State) (src : NoiseSource) : State :=
  match src with
  | .well t =>
    let w := s.nse.wells[t]
    if w.state == .startup || w.state == .failed then s.modWell t (fun w => { w with state := .healthy }.stopDraw) else s
  | .channel c =>
    let ch := s.nse.chans[c]
    if (ch.state == .startup || ch.state == .failed) && decide (ch.warm = 1) then
      markChannelsUp { s with nse := { s.nse with chans := s.nse.chans.set c { ch with state := .healthy, half := none, warm := 0 } } }
    else s

/-- NSE_RETRY starts a well's start-up test, whatever its state (R152); a locked well is in service again, with no failure
counted against it (R153). -/
def retryWell (s : State) (t : TileId) : State :=
  s.modWell t (fun w => { w with state := .startup, fails := if w.state == .locked then [] else w.fails })

/-- NSE_RETRY.DW_GO: the same for a deep-well channel. -/
def retryChannel (s : State) (c : Fin 4) : State :=
  let ch := s.nse.chans[c]
  markChannelsUp { s with nse := { s.nse with chans := s.nse.chans.set c { ch with
    state := .startup, fails := if ch.state == .locked then [] else ch.fails, half := none, warm := 0 } } }

/-- A tile starts drawing from the deep well (R155). -/
def drawStart (s : State) (t : TileId) : State :=
  if s.nse.wells[t].wantsDraw then s.modWell t (fun w => { w with draw := true }) else s

/-- A well's conditioner emits 128 bits (R151); a well that is not healthy has no output. -/
def conditioner (s : State) (t : TileId) (bits : BitVec 128) : State :=
  if s.nse.wells[t].state == .healthy then
    s.modWell t (fun w => { w with fifo := w.fifo.push bits.toNat 128 }.stopDraw)
  else s

/-- A channel's 256 conditioned bits (R156). DESIGN CHOICE (log 188): two outputs of one channel make a pool block, the
first its low half, and output that finds the pool full is discarded. In a start-up test the channel forms one block that is
not used (Table 6-2); a LOCKED channel has no output. -/
def channelOutput (s : State) (c : Fin 4) (bits : BitVec 256) : State :=
  let ch := s.nse.chans[c]
  if ch.state == .locked then s
  else match ch.half with
  | none => { s with nse := { s.nse with chans := s.nse.chans.set c { ch with half := some bits } } }
  | some lo =>
    let block : BitVec 512 := BitVec.ofNat 512 (lo.toNat + 2 ^ 256 * bits.toNat)
    let used := ch.state == .healthy
    let keep := used && decide (s.nse.pool.length < 256)
    { s with nse := { s.nse with
        chans := s.nse.chans.set c { ch with half := none, warm := if used then 0 else 1 },
        pool := if keep then s.nse.pool ++ [block] else s.nse.pool } }


/-! ### Host random requests (R157, R158) -/

/-- RNG_READY of a function (R157). -/
def rngReady (s : State) (q : PlotId) : State := if q = 0 then s.raisePf 12 else s.raisePlot q 0x800

/-- A request ends with a result (R157, R158): 1 DONE, 2 HEALTH, 3 HOST_DMA; IGNORED if a GO came meanwhile. -/
def rngEnd (s : State) (q : PlotId) (result : BitVec 4) : State :=
  let r := s.nse.rng[q]
  if !r.busy then s
  else rngReady (s.modRng q (fun r => { r with
    busy := false, result := if r.again then 4 else result, blocks := BitVec.ofNat 15 r.done, again := false })) q

/-- Are all four channels out of service? -/
def deepWellDown (s : State) : Bool :=
  (List.finRange 4).all (fun c => let st := s.nse.chans[c].state; st == .failed || st == .locked)

/-- A write of NSE_RNG_REQ with GO = 1 (R157, R158). -/
def rngRequest (s : State) (q : PlotId) (blocks : Nat) : State :=
  let r := s.nse.rng[q]
  if r.busy then s.modRng q (fun r => { r with again := true })
  else if r.addr.toNat % 64 ≠ 0 ∨ blocks = 0 ∨ 16384 < blocks then s.modRng q (fun r => { r with result := 4, blocks := 0 })
  else
    let s := s.modRng q (fun r => { r with
      busy := true, cap := r.addr, want := blocks, done := 0, goAt := s.boot.tclk, blocks := 0, again := false, result := 0,
      up := !deepWellDown s })
    if !s.nse.dwHostEn then rngEnd s q 2 else s

/-- The 1 ms window of a request ends (R157), with the blocks written so far: HEALTH where DW_HOST_EN is 0 or every channel was
FAILED or LOCKED for the whole window (R158). DESIGN CHOICE (log 189): a request under way when DW_HOST_EN is cleared runs
to the window's end, and DW_HOST_EN is judged there. -/
def rngExpire (s : State) (q : PlotId) : State :=
  let r := s.nse.rng[q]
  if !r.busy then s
  else rngEnd (s.advanceTo (r.goAt + 100000)) q (if !s.nse.dwHostEn || !r.up then 2 else 1)

/-- A block write of a request is lost before it leaves the device (R158): the request ends with HOST_DMA and the block is not
counted; so does a request that has just ended with DONE (log 190). -/
def rngLost (s : State) (q : PlotId) : State :=
  let r := s.nse.rng[q]
  if r.busy then
    if r.done = 0 then s else rngEnd (s.modRng q (fun r => { r with done := r.done - 1 })) q 3
  else if r.result == 1 && !(r.blocks == 0) then s.modRng q (fun r => { r with result := 3, blocks := r.blocks - 1 })
  else s

/-- The next tile in round robin that draws and has 64 bytes free (R156). -/
def nextDrawTile (s : State) : Option TileId :=
  (List.range 64).findSome? (fun i =>
    let t : TileId := ⟨(s.nse.rrTile + i) % 64, Nat.mod_lt _ (by decide)⟩
    let w := s.nse.wells[t]
    if w.draw && decide (w.fifo.len + 512 ≤ reservoirBits) then some t else none)

/-- The next function in round robin with an outstanding request (R156). -/
def nextRng (s : State) : Option PlotId :=
  if !s.nse.dwHostEn then none
  else (List.range 65).findSome? (fun i =>
    let q : PlotId := ⟨(s.nse.rrFn + i) % 65, Nat.mod_lt _ (by decide)⟩
    let r := s.nse.rng[q]
    if r.busy && s.permitted q && decide (r.done < r.want) then some q else none)

/-- Does the attestation unit still draw the key of this cold boot's epoch (R341)? -/
def drawsKey (s : State) : Bool := s.aux.key.isNone && !s.aux.keyFail && s.isReady

/-- The pool hands its oldest block to the next consumer: attestation, drawing tiles, host requests (R156). -/
def deepBlock (s : State) : State :=
  match s.nse.pool with
  | [] => s
  | blk :: rest =>
    let taken := { s with nse := { s.nse with pool := rest, dwInt := satInc s.nse.dwInt } }
    if drawsKey s then
      { taken with aux := { s.aux with key := some (BitVec.ofNat 256 (blk.toNat % 2 ^ 256)) } }
    else match nextDrawTile s with
    | some t =>
      let s1 := taken.modWell t (fun w => { w with fifo := w.fifo.push blk.toNat 512 }.stopDraw)
      let s1 := { s1 with nse := { s1.nse with rrTile := (t.val + 1) % 64 } }
      let p := s.cfg.content.tileOwner t.val
      if h : p < 65 then
        if p = 0 then s1 else s1.modLive ⟨p, h⟩ (fun a => { a with drawCnt := satInc a.drawCnt })
      else s1
    | none =>
      match nextRng s with
      | none => s
      | some q =>
        let r := s.nse.rng[q]
        let s1 := { s with nse := { s.nse with
          pool := rest, dwHost := satInc s.nse.dwHost, rrFn := (q.val + 1) % 65 } }
        let s1 := s1.hostWrite q (r.cap.toNat + 64 * r.done) (leBytes 64 blk.toNat) s1.devCtl.relaxed
        let s1 := s1.modRng q (fun r => { r with done := r.done + 1 })
        if r.done + 1 = r.want then rngEnd s1 q 1 else s1

/-! ### Meanings -/

/-- WELL_HEALTH_FAIL (R153). -/
def execWellHealthFail (source : NoiseSource) (apt : Bool) (s : State) : Result := .next (healthFail s source apt)

/-- STARTUP_TEST_PASS (R152). -/
def execStartupTestPass (source : NoiseSource) (s : State) : Result := .next (startupPass s source)

/-- WELL_RETRY (R153): a host write of NSE_RETRY with TILE_GO, which the PF alone reaches. -/
def execWellRetry (f : Fn) (t : TileId) (s : State) : Result :=
  .next (hostGate s f (fun s => if f = 0 then retryWell s t else s))

/-- DEEP_WELL_RETRY (R153): a host write of NSE_RETRY with DW_GO. -/
def execDeepWellRetry (f : Fn) (channel : Fin 4) (s : State) : Result :=
  .next (hostGate s f (fun s => if f = 0 then retryChannel s channel else s))

/-- DEEP_WELL_DRAW_START (R155). -/
def execDeepWellDrawStart (t : TileId) (s : State) : Result := .next (drawStart s t)

/-- DEEP_WELL_BLOCK (R156). -/
def execDeepWellBlock (s : State) : Result := .next (deepBlock s)

/-- RNG_REQUEST (R157). -/
def execRngRequest (f : Fn) (q : PlotId) (blocks : BitVec 15) (s : State) : Result :=
  .next (hostGate s f (fun s => if reaches f q then rngRequest s q blocks.toNat else s))

/-- RNG_WINDOW_EXPIRE (R157). -/
def execRngWindowExpire (q : PlotId) (s : State) : Result := .next (rngExpire s q)

/-- TAPE_DOORBELL (R173). The tape registers of set 0 are reserved: a write there is ignored (chapter 06, Registers). -/
def execTapeDoorbell (f : Fn) (q : PlotId) (tile : Fin 64) (index : BitVec 16) (s : State) : Result :=
  .next (hostGate s f (fun s => if reaches f q && !(q == 0) then tapeDoorbell s q tile index else s))

/-- TAPE_SEGMENT_ARRIVAL (R167). -/
def execTapeSegmentArrival (q : PlotId) (tile : Fin 64) (r : Fetched) (s : State) : Result :=
  .next (segmentArrived s q tile r)

/-- TAPE_RECORD_WRITE (R169). -/
def execTapeRecordWrite (q : PlotId) (tile : Fin 64) (s : State) : Result := .next (recordWrite s q tile)

/-- CONDITIONER_OUTPUT (R151). -/
def execConditionerOutput (t : TileId) (bits : BitVec 128) (s : State) : Result := .next (conditioner s t bits)

/-- DEEP_WELL_OUTPUT (R156). -/
def execDeepWellOutput (channel : Fin 4) (bits : BitVec 256) (s : State) : Result := .next (channelOutput s channel bits)

end Sys2Proof.Machine
end

