-- ==== Sys2Proof/Machine/Power.lean ====
section
/-!
DEFINITION. Sys2Proof/Machine/Power.lean: the power manager (chapter 11): samples and energy accounting, calibration,
limiters, voltages, boost, droop, the lowest state, heat and the trip's record; and the PMBus host (R304, R305).
-/
namespace Sys2Proof.Machine

/-- Change the power manager. -/
def State.modPwr (s : State) (f : PwrState → PwrState) : State := { s with pwr := f s.pwr }

/-- Change one rail. -/
def State.modRail (s : State) (r : Fin 5) (f : PwrRail → PwrRail) : State :=
  s.modPwr (fun p => { p with rails := p.rails.set r (f p.rails[r]) })

/-- A PWR_EVENT bit is set. -/
def pwrEvent (s : State) (b : Nat) : State := s.modPwr (fun p => { p with event := setBit p.event b true })

/-- Nominal FCLK in MHz (R276). -/
def FuseState.nominal (f : FuseState) : Nat := if f.gradeF then 1000 else 1200

/-- Bubble limits (R269). -/
def kMax (family : Nat) : Nat := if family = 2 then 32 else 48

/-- Levels of the lowest state (R279). -/
def lowestLevel (family : Nat) : Nat := if family = 0 then 60 else if family = 1 then 56 else 0

/-- The level at 4 × family + class of a list of levels. -/
def levelAt (v : Vector Nat 12) (i : Nat) : Nat := v.toList[i]?.getD 0

/-- The largest level that the limiters hold at an index, with the lowest-numbered limiter that holds it. -/
def limiterLevel (p : PwrState) (i : Nat) : Nat × Nat :=
  (List.finRange 11).foldl (fun (b : Nat × Nat) (l : Fin 11) =>
    let k := levelAt p.levels[l] i
    if b.1 < k then (k, l.val + 1) else b) (0, 0)

/-- The level in force on a family and class (R270). -/
def levelInForce (p : PwrState) (family cls : Nat) : Nat :=
  let k := (limiterLevel p (4 * family + cls)).1
  if p.lowest then max k (lowestLevel family) else k

/-- The source of the level in force (R270): 0 where it is 0, 12 the lowest state. -/
def levelSource (p : PwrState) (family cls : Nat) : Nat :=
  let k := limiterLevel p (4 * family + cls)
  if p.lowest && decide (k.1 ≤ lowestLevel family) && decide (0 < lowestLevel family) then 12 else k.2

/-- The class a plot counts with: plot 0 has class 1 (R265). -/
def State.classOf (s : State) (q : PlotId) : Nat := if q = 0 then 1 else (s.plot q).rws.cls.toNat

/-- The highest non-faulty sensor reading, with its sensor (R281). -/
def hottest (p : PwrState) : Option (Nat × Int) :=
  (List.finRange 48).foldl (fun best i =>
    let x := p.sens[i]
    if x.seen && !x.fault then
      match best with
      | none => some (i.val, x.temp)
      | some b => if b.2 < x.temp then some (i.val, x.temp) else best
    else best) none

/-- Faulty sensors. -/
def faultySensors (p : PwrState) : Nat := (p.sens.toList.filter (·.fault)).length

/-! ### Averages over the sample history -/

/-- Weighted sum and time of the newest samples that fill a window of `w` ps. -/
def windowSum (f : PwrHist → Nat) : List PwrHist → Nat → Nat × Nat
  | [], _ => (0, 0)
  | h :: l, w =>
    if h.dt < w then let r := windowSum f l (w - h.dt); (f h * h.dt + r.1, h.dt + r.2)
    else (f h * h.dt, h.dt)

/-- Average of a quantity over a window of `w` ps; 0 with no sample. -/
def average (p : PwrState) (f : PwrHist → Nat) (w : Nat) : Nat :=
  let r := windowSum f p.hist w
  r.1 / (max r.2 1)

/-- The history kept: the samples that fill a window. -/
def trimHist : List PwrHist → Nat → List PwrHist
  | [], _ => []
  | h :: l, w => if h.dt < w then h :: trimHist l (w - h.dt) else [h]

/-- Windows of the current limiters in ps (R268). -/
def windowPs (w : Nat) : Nat := if w = 0 then 2000000 else if w = 1 then 20000000 else 200000000

/-- 1 ms in ps. -/
def msPs : Nat := 1000000000

/-- Average demand current of a limited rail, in µA. -/
def railDemand (p : PwrState) (r w : Nat) : Nat := average p (fun h => h.x[r]?.getD 0) w

/-- Demand current of a family and class on a rail in a sample. -/
def histD (h : PwrHist) (r fam c : Nat) : Nat :=
  sumNat ((h.d.filter (fun e => e.1 == r && e.2.1 == fam && e.2.2.1 == c)).map (·.2.2.2))

/-- Demand power of a family and class in a sample. -/
def histP (h : PwrHist) (fam c : Nat) : Nat := sumNat ((h.fam.filter (fun e => e.1 == fam && e.2.1 == c)).map (·.2.2))

/-- 1 ms demand power and calibrated power in pW. -/
def demandPower (p : PwrState) : Nat := average p (·.demand) msPs
def meanPower (p : PwrState) : Nat := average p (·.power) msPs

/-! ### PMBus (R304, R305) -/

/-- Priority of a transaction: alert reads, voltage commands, then the rest (R305). -/
def PmbTxn.rank (t : PmbTxn) : Nat :=
  if t.command = 0x79 ∨ t.command = 0x7A ∨ t.command = 0x7B ∨ t.command = 0x03 then 0 else if t.command = 0x21 then 1 else 2

/-- A transfer to a rail's regulator: to its address, with PEC when its CAPABILITY reports it (R304). -/
def transfer (s : State) (r : Fin 5) (command value : Nat) : State :=
  s.emit (.pmbus r.val (s.hst.rail[r].toNat % 128) command value s.pwr.rails[r].pec)

/-- What a rail's transaction sends: a PAGE write first where the rail has a page (R304). -/
def sendTxn (s : State) (t : PmbTxn) : State :=
  let page := (s.hst.rail[t.rail] >>> 8).toNat % 256
  let s := if page = 0xFF then s else transfer s t.rail 0x00 page
  transfer s t.rail t.command t.value

/-- The waiting transactions with one more, in the order of R305; the one under way stays in front. -/
def insertTxn (l : List PmbTxn) (t : PmbTxn) : List PmbTxn :=
  match l with
  | [] => [t]
  | a :: rest => a :: (rest.filter (fun x => x.rank ≤ t.rank) ++ [t] ++ rest.filter (fun x => t.rank < x.rank))

/-- A transaction queues, if its rail is used. -/
def queueTxn (s : State) (t : PmbTxn) : State :=
  if !s.hst.rail[t.rail].getLsbD 31 then s
  else
    let s' := s.modPwr (fun p => { p with pmb := insertTxn p.pmb t })
    if s.pwr.pmb.isEmpty then sendTxn s' t else s'

/-! ### Voltages and FCLK (R273 to R277) -/

/-- A rail number as a rail. -/
def mkRail (n : Nat) : Fin 5 := ⟨n % 5, Nat.mod_lt _ (by decide)⟩

/-- A point of the fused voltage table in mV (R273): rail 0 VDD_CORE, 1 VDD_CELL. -/
def FuseState.point (f : FuseState) (rail i b : Nat) : Nat := (f.vtab.toList[16 * rail + 4 * i + b]?.getD 0).toNat % 4096

/-- The table voltage at an FCLK and band, in eighths of a millivolt, interpolated between frequency points (R274). -/
def tableVolts (f : FuseState) (rail fclk b : Nat) : Nat :=
  let seg (i lo hi : Nat) : Nat :=
    let a := 8 * f.point rail i b
    let c := 8 * f.point rail (i + 1) b
    (a * (hi - fclk) + c * (fclk - lo)) / (hi - lo)
  if fclk ≤ 1000 then 8 * f.point rail 0 b
  else if fclk ≤ 1200 then seg 0 1000 1200
  else if fclk ≤ 1300 then seg 1 1200 1300
  else if fclk ≤ 1400 then seg 2 1300 1400
  else 8 * f.point rail 3 b

/-- The voltage target of VDD_CORE or VDD_CELL at an FCLK, in steps of 2.5 mV (R274). -/
def voltTarget (s : State) (rail fclk : Nat) : Nat :=
  let t := tableVolts s.fuses rail fclk s.pwr.band
  let t := if rail = 0 then t - 20 * s.pwr.trim else t
  let n := ceilDiv t 20
  if rail = 0 then min (max n 248) 352 else min (max n 280) 320

/-- The value of VOUT_COMMAND for a voltage of `n` steps of 2.5 mV and VOUT_MODE exponent `e` (R305): V / 2^e, upward. -/
def voutValue (n : Nat) (e : Int) : Nat :=
  if e ≤ 0 then ceilDiv (n * 2 ^ (-e).toNat) 400 else ceilDiv n (400 * 2 ^ e.toNat)

/-- A new target of a commanded rail is sent to its regulator, once its format is known (R274, R305, R307). -/
def commandRail (s : State) (rail fclk : Nat) : State :=
  let r := mkRail rail
  let t := voltTarget s rail fclk
  match s.pwr.rails[r].mode with
  | none => s
  | some e =>
    if s.pwr.rails[r].want = t ∨ !s.hst.rail[r].getLsbD 31 then s
    else queueTxn (s.modRail r (fun x => { x with want := t })) 
      { rail := r, command := 0x21, value := voutValue t e, steps := t }

/-- Both commanded rails take their targets for an FCLK. -/
def retarget (s : State) (fclk : Nat) : State := commandRail (commandRail s 0 fclk) 1 fclk

/-- The FCLK the voltages must allow: the current one, or the boost step that is being approached. -/
def PwrState.targetMhz (p : PwrState) : Nat := p.boostNext.getD p.fclk

/-- FCLK takes a frequency in MHz; the cycles so far are counted at the one before. -/
def PwrState.setFclk (p : PwrState) (t f : Nat) : PwrState :=
  { p with cyc := p.cyc + (t - p.cycAt) * p.fclk, cycAt := t, fclk := f }

/-- Boost ends (R276): FCLK returns to the nominal synthesiser at once, the voltage is lowered afterwards. -/
def endBoost (s : State) : State :=
  let n := s.fuses.nominal
  if s.pwr.fclk = n ∧ s.pwr.boostNext = none then s
  else retarget (s.modPwr (fun p => { p.setFclk s.boot.tclk n with boostNext := none, ackAt := none })) n

/-- Is a commanded voltage below its target for the step that is approached? -/
def voltsPending (s : State) : Bool :=
  decide (s.pwr.rails[(0 : Fin 5)].volts < s.pwr.rails[(0 : Fin 5)].want) ||
    decide (s.pwr.rails[(1 : Fin 5)].volts < s.pwr.rails[(1 : Fin 5)].want)

/-- The step's voltages hold: FCLK is raised (R274, R276). -/
def settleEnd (s : State) : State :=
  match s.pwr.boostNext, s.pwr.ackAt with
  | some f, some t =>
    if voltsPending s then s
    else
      let s := s.advanceTo (t + 5000)
      s.modPwr (fun p => { p.setFclk s.boot.tclk f with boostNext := none, ackAt := none })
  | _, _ => s

/-! ### The lowest state (R279) -/

/-- Plots that own engines are throttled (Table 2-8), where a class test holds. -/
def throttlePlots (s : State) (c : Nat → Bool) : State :=
  tenantPlots.foldl (fun s q =>
    if s.cfg.content.ownsAny q.val && c (s.classOf q) then s.raisePlot q 0x1000 else s) s

/-- The lowest state is entered for a cause; while it holds, a further cause is no entry. -/
def enterLowest (s : State) (cause : BitVec 3) : State :=
  if s.pwr.lowest then s
  else
    let s := s.modPwr (fun p => { p with lowest := true, cause := cause, lowestCnt := satInc p.lowestCnt })
    let s := (pwrEvent s 3).raisePf 6
    endBoost (throttlePlots (s.logLine 0x60 noPlot none cause.toNat 0) (fun _ => true))

/-- Every limiter acts on these indices 4 × family + class (Table 11-3). -/
def actsOn (l : Nat) : List Nat :=
  let compute := [0, 1, 2, 3]
  let memory := [4, 5, 6, 7]
  let links := [8, 9]
  if l < 3 then compute ++ links else if l < 6 then memory else if l < 9 then links else compute ++ memory ++ links

/-- 1 ms after every cause has ended, the lowest state ends with the levels at KMAX (R279). -/
def leaveLowest (s : State) : State :=
  let p := s.pwr
  if !p.lowest || s.boot.vrAlert || (p.droopCause && p.droop) || decide (8 ≤ faultySensors p) || p.satOver ≠ 0 then s
  else
    let due := max (max p.satClear p.vrClear) (max p.droopClear p.sensClear) + 100000
    (s.advanceTo due).modPwr (fun p => { p with
      lowest := false, satPend := 0, droopCause := false,
      levels := Vector.ofFn (fun l => Vector.ofFn (fun i => if (actsOn l.val).contains i.val then kMax (i.val / 4) else 0)) })

/-! ### Samples and energy (R265, R266, R283 to R285) -/

/-- A calibrated current in µA: the gain times the raw estimate (R266). -/
def calibrate (gain raw : Nat) : Nat := (raw * gain + 500000) / 1000000

/-- 2^48 µJ in units of 10^-18 µJ. -/
def energyMod : Nat := 2 ^ 48 * 10 ^ 18

/-- Energy is charged to a plot, and to a job of it (R283 to R285). -/
def chargeEnergy (s : State) (q : PlotId) (i : Option (BitVec 16)) (e : Nat) : State :=
  let s := s.modPlot q (fun p => { p with pwr := { p.pwr with
    energy := (p.pwr.energy + e) % energyMod, wrap := p.pwr.wrap || decide (energyMod ≤ p.pwr.energy + e),
    frameE := p.pwr.frameE + e } })
  match i with
  | none => s
  | some i => s.modPlt q (fun p => { p with
      jobs := p.jobs.map (fun j => if j.idx == i && !(j.phase == .over) then { j with energy := j.energy + e } else j) })

/-- The parts of a sample's energy; what they leave is plot 0's, so that the parts add up to the whole (R283). -/
def shareEnergy (s : State) : List (PlotId × Option (BitVec 16) × Nat) → Nat → State
  | [], left => chargeEnergy s 0 none left
  | (q, i, w) :: l, left =>
    let e := min left w
    shareEnergy (chargeEnergy s q i e) l (left - e)

/-- Number of a kind of event among the charge coefficients. -/
def kindNo : PowerKind → Nat
  | .macs => 0 | .proposals => 1 | .columns => 2 | .accesses => 3 | .flits _ => 4 | .codewords => 5 | .helper => 6

/-- The family an event belongs to (R264): 0 compute, 1 memory, 2 links; flits other than unscheduled NORMAL ones to none. -/
def kindFamily : PowerKind → Option Nat
  | .macs | .proposals | .columns | .codewords | .helper => some 0
  | .accesses => some 1
  | .flits normal => if normal then some 2 else none

/-- Charge of some events on a rail in aC: the count times the fused coefficient (R265). -/
def FuseState.chargeOf (f : FuseState) (r : Nat) (a : Activity) : Nat := a.count * (f.charge.toList[5 * kindNo a.kind + r]?).getD 0

/-- Readings of the sensors that are not faulty. -/
def sensorReadings (p : PwrState) : List (Nat × Int) :=
  (List.finRange 48).filterMap (fun i => if p.sens[i].seen && !p.sens[i].fault then some (i.val, p.sens[i].temp) else none)

/-- Leakage of a node on a rail in µA (R265). -/
def nodeLeak (s : State) (r : Fin 5) (n : Nat) : Nat :=
  Config.leakage r.val n s.fuses.leak[r] s.pwr.rails[r].volts (sensorReadings s.pwr)

/-- The raw estimate of a rail (R265): the charge of the events over the sample's length, and the leakage of every node. -/
def rawEstimate (s : State) (x : PowerSample) (r : Fin 5) : Nat :=
  sumNat (x.acts.map (s.fuses.chargeOf r.val)) / max x.dt 1 + sumNat ((List.range 120).map (nodeLeak s r))

/-- The activity part of a rail's estimate that belongs to a family and class (R265). -/
def activityPart (s : State) (x : PowerSample) (r fam cls : Nat) : Nat :=
  sumNat ((x.acts.filter (fun a => kindFamily a.kind == some fam && s.classOf a.plot == cls)).map (s.fuses.chargeOf r)) / max x.dt 1

/-- What a sample holds for the limiters: calibrated values, and demands scaled by 64 / (64 - k) (R265, R266). -/
def histOf (s : State) (x : PowerSample) : PwrHist :=
  let p := s.pwr
  let raw := (List.finRange 5).map (rawEstimate s x)
  let cal (r : Nat) : Nat := calibrate p.rails[mkRail r].gain ((raw[r]?).getD 0)
  let acts := (List.range 60).filterMap (fun n =>
    let r := n / 12
    let fam := n / 4 % 3
    let cls := n % 4
    let i := calibrate p.rails[mkRail r].gain (activityPart s x r fam cls)
    if i = 0 then none else some (r, fam, cls, i, i * 64 / (64 - levelInForce p fam cls)))
  let extra (r : Nat) : Nat := sumNat ((acts.filter (fun a => a.1 == r)).map (fun a => a.2.2.2.2 - a.2.2.2.1))
  let pw (r i : Nat) : Nat := 2500 * (p.rails[mkRail r]).volts * i
  let power := sumNat ((List.range 5).map (fun r => pw r (cal r)))
  { x := (List.range 3).map (fun r => cal r + extra r),
    d := acts.map (fun a => (a.1, a.2.1, a.2.2.1, a.2.2.2.2)),
    power := power, demand := power + sumNat ((List.range 5).map (fun r => pw r (extra r))),
    fam := acts.map (fun a => (a.2.1, a.2.2.1, pw a.1 a.2.2.2.2)), dt := x.dt, raw := raw }

/-- Calibrated energy of a charge in aC on a rail, in 10^-18 µJ. -/
def chargeCost (p : PwrState) (r : Fin 5) (ac : Nat) : Nat := 2500 * p.rails[r].volts * calibrate p.rails[r].gain ac

/-- Energy of some events. -/
def eventCost (s : State) (a : Activity) : Nat := sumNat ((List.finRange 5).map (fun r => chargeCost s.pwr r (s.fuses.chargeOf r.val a)))

/-- Energy of a node's leakage over a time in ps. -/
def leakCost (s : State) (dt n : Nat) : Nat := sumNat ((List.finRange 5).map (fun r => chargeCost s.pwr r (nodeLeak s r n * dt)))

/-- Pages of the commons banks (Table 4-1). -/
def commonsPages : Nat := 3072

/-- What of the standing energy is a plot's own (Table 11-5): leakage of its tiles and matrix engines with their slices, and of its
commons pages in proportion to its quota. -/
def standingCost (s : State) (dt : Nat) (q : PlotId) : Nat :=
  let c := s.cfg.content
  let own := (c.tileList q.val).map (nodeOf .at_) ++ (c.mxeList q.val).map (nodeOf .mxe)
  let banks := sumNat ((List.range 8).map (fun b => leakCost s dt (nodeOf .cmn b)))
  sumNat (own.map (leakCost s dt)) + banks * c.quota q.val / commonsPages

/-- The parts of a sample's energy by Table 11-5: activity to its plot and job, standing energy to the plots that own it; the rest
is plot 0's. -/
def sampleParts (s : State) (x : PowerSample) : List (PlotId × Option (BitVec 16) × Nat) :=
  x.acts.map (fun a => (a.plot, a.job, eventCost s a)) ++ tenantPlots.map (fun q => (q, none, standingCost s x.dt q))

/-- A sample of 256 FCLK cycles (R265, R283). -/
def powerSample (s : State) (x : PowerSample) : State :=
  if !s.isReady then s
  else
    let h := histOf s x
    let parts := sampleParts s x
    let s := s.modPwr (fun p => { p with
      hist := trimHist (h :: p.hist) (10 * msPs),
      rails := Vector.ofFn (fun r =>
        let raw := (h.raw[r.val]?).getD 0
        { p.rails[r] with raw := raw, cal := calibrate p.rails[r].gain raw }) })
    let e := h.power * x.dt
    let s := s.modPwr (fun p => { p with energy := (p.energy + e) % energyMod, wrap := p.wrap || decide (energyMod ≤ p.energy + e) })
    let s := shareEnergy s parts e
    let s := { s with plots := s.plots.map (fun p => { p with pwr := { p.pwr with frameT := p.pwr.frameT + x.dt } }) }
    x.bubbles.foldl (fun s b => s.modPlot b.1 (fun p => { p with pwr := { p.pwr with bubbles := p.pwr.bubbles + b.2 } })) s

/-- PWR_PBUBBLE_CYC and PWR_PPOWER are latched in step 2 (R286); power in 0.01 W, to nearest (R6). -/
def PwrPlot.latch (p : PwrPlot) : PwrPlot :=
  let t := 10 ^ 10 * (max p.frameT 1)
  { p with
    bubbles := 0, frameE := 0, frameT := 0, shownBubbles := satAdd 0 p.bubbles,
    shownPower := satAdd 0 ((2 * p.frameE + t) / (2 * t)) }

/-! ### Limiters (R268, R269) -/

/-- The evaluation of R269 over the families and classes of a limiter: `ds` gives index, demand and KMAX in order, `x64`
is 64 × (X − L); answers the new levels. -/
def shed : List (Nat × Nat × Nat) → Int → Vector Nat 12 → Vector Nat 12
  | [], _, v => v
  | (i, d, kmax) :: l, x64, v =>
    let k : Nat := if 0 < x64 then (if 0 < d then min (ceilDiv x64.toNat d) kmax else kmax) else 0
    let old := levelAt v i
    shed l (x64 - (if 0 < x64 then d * k else 0 : Nat)) (if h : i < 12 then v.set i (max k (old - 1)) else v)

/-- The demands of a current limiter (Table 11-3). -/
def railDemands (p : PwrState) (r w : Nat) : List (Nat × Nat × Nat) :=
  (actsOn (3 * r)).map (fun i => (i, average p (fun h => histD h r (i / 4) (i % 4)) w, kMax (i / 4)))

/-- The demands of the cap and thermal limiters. -/
def powerDemands (p : PwrState) : List (Nat × Nat × Nat) :=
  (actsOn 9).map (fun i => (i, average p (fun h => histP h (i / 4) (i % 4)) msPs, kMax (i / 4)))

/-- A limiter is evaluated against its limit, none where it is inactive: levels, events, interrupts, boost, and saturation
as a cause of the lowest state (R269, R276, R279). -/
def evaluate (s : State) (l : Fin 11) (x : Nat) (limit : Option Nat) (ds : List (Nat × Nat × Nat)) (event : Nat) : State :=
  let old := s.pwr.levels[l]
  let above := match limit with | some n => decide (n < x) | none => false
  let x64 : Int := match limit with | some n => 64 * ((x : Int) - n) | none => 0
  let new := shed ds x64 old
  let before := s.pwr
  let s := s.modPwr (fun p => { p with levels := p.levels.set l new })
  let raised := (List.range 12).any (fun i => decide (levelAt old i < levelAt new i))
  let s := if raised then
      let s := (pwrEvent s event).raisePf 6
      let s := throttlePlots s (fun c => (List.range 3).any (fun f => decide (levelInForce before f c < levelInForce s.pwr f c)))
      endBoost s
    else s
  let saturated := above && (actsOn l.val).all (fun i => levelAt old i == kMax (i / 4))
  if saturated then
    enterLowest (s.modPwr (fun p => { p with satPend := setBit p.satPend l.val true, satOver := setBit p.satOver l.val true })) 2
  else if s.pwr.satPend.getLsbD l.val then
    if above then s.modPwr (fun p => { p with satOver := setBit p.satOver l.val true })
    else if s.pwr.satOver.getLsbD l.val then
      s.modPwr (fun p => { p with satOver := setBit p.satOver l.val false, satClear := s.boot.tclk })
    else s
  else s

/-- The limit of a current limiter in µA; 0xFFFF disables it (Table 11-7). -/
def railLimit (p : PwrState) (r w : Nat) : Option Nat :=
  match p.ilim.toList[3 * r + w]? with
  | some v => if v = 0xFFFF then none else some (v.toNat * 100000)
  | none => none

/-- A current limiter is evaluated (R268, R269). -/
def currentEval (s : State) (r w : Fin 3) : State :=
  if !s.isReady then s
  else
    let ps := windowPs w.val
    evaluate s ⟨3 * r.val + w.val, by omega⟩ (railDemand s.pwr r.val ps) (railLimit s.pwr r.val w.val)
      (railDemands s.pwr r.val ps) 1

/-- The cap in pW: a committed value below 80 acts as 80 W (R272). -/
def State.capPw (s : State) : Nat := max s.frm.rws.cap.toNat 80 * 10 ^ 12

/-- The cap and thermal limiters are evaluated (R268, R269). -/
def capEval (s : State) : State :=
  if !s.isReady then s
  else
    let s := evaluate s 9 (demandPower s.pwr) (some s.capPw) (powerDemands s.pwr) 0
    evaluate s 10 (demandPower s.pwr) s.pwr.lt (powerDemands s.pwr) 0

/-! ### Calibration (R267) -/

/-- A rail's PMBus transaction was given up (R305): the rail's NO_ACK bit. -/
def pmbFailed (s : State) (r : Fin 5) : State :=
  { s with hst := { s.hst with
      pmbErr := satInc s.hst.pmbErr, pmbNoAck := setBit s.hst.pmbNoAck r.val true, pmbOk := setBit s.hst.pmbOk r.val false } }

/-- A rail's regulator answered (R305). -/
def pmbAnswered (s : State) (r : Fin 5) : State :=
  { s with hst := { s.hst with pmbNoAck := setBit s.hst.pmbNoAck r.val false, pmbOk := setBit s.hst.pmbOk r.val true } }

/-- Average raw estimate of a rail over the 10 ms that end now (R267). -/
def rawAverage (p : PwrState) (r : Nat) : Nat := average p (fun h => (h.raw[r]?).getD 0) (10 * msPs)

/-- A reading `m` in mA updates the gain or is rejected (R267). -/
def calibrateRail (s : State) (r : Fin 5) (m : Nat) : State :=
  let e := rawAverage s.pwr r.val
  let m6 := 1000 * m
  let little := match railLimit s.pwr r.val 2 with
    | some l => if r.val < 3 then decide (20 * e < l) else decide (e < 1000000)
    | none => decide (e < 1000000)
  let s := s.modRail r (fun x => { x with amps := m })
  if !s.pwr.calEn || little then s
  else if 4 * m6 < e ∨ 4 * e < m6 then pwrEvent s 7
  else
    let ratio : Int := (1000000 * m6 + e / 2) / e
    s.modRail r (fun x =>
      let g := (x.gain : Int) + roundDiv (ratio - x.gain) 16
      { x with
        gain := (clampInt 800000 1250000 g).toNat, measValid := true, accepted := true, acceptedAt := s.boot.tclk,
        lost := false })

/-- A rail has had no accepted reading for 1 s (R267). -/
def calibrationLost (s : State) (r : Fin 5) : State :=
  let x := s.pwr.rails[r]
  if !s.isReady || !s.pwr.calEn || x.lost then s
  else
    let since := if x.accepted then x.acceptedAt else s.boot.readyAt
    pwrEvent ((s.advanceTo (since + 100000000)).modRail r (fun x => { x with lost := true, gain := max x.gain 1100000 })) 6

/-! ### Band, trim, boost (R274 to R276) -/

/-- Upper boundary of a temperature band in 0.25 °C (R273). -/
def bandTop (b : Nat) : Int := if b = 0 then 160 else if b = 1 then 280 else 380

/-- The band a temperature enters or leaves (R274): entered on crossing a boundary, left 2 °C back across it. -/
def nextBand (b : Nat) (t : Int) : Nat :=
  let up := if 380 < t then 3 else if 280 < t then 2 else if 160 < t then 1 else 0
  if b < up then up
  else
    let d2 (b : Nat) : Nat := if 0 < b ∧ t ≤ bandTop (b - 1) - 8 then b - 1 else b
    d2 (d2 (d2 b))

/-- The band is re-evaluated and the voltage targets commanded (R274). -/
def bandEval (s : State) : State :=
  if !s.isReady then s
  else
    let s := match hottest s.pwr with
      | some h => s.modPwr (fun p => { p with band := nextBand p.band h.2 })
      | none => s
    retarget s s.pwr.targetMhz

/-- The ageing trim moves one step (R275). -/
def trimStep (s : State) (pass8 fail4 : Bool) : State :=
  if !s.isReady then s
  else
    let s := if fail4 then endBoost (s.modPwr (fun p => { p with canaryAt := some s.boot.tclk })) else s
    if !s.pwr.trimEn then s
    else
      let s := s.modPwr (fun p => { p with
        trim := if pass8 then min (p.trim + 1) 10 else if fail4 then p.trim - 1 else p.trim })
      retarget s s.pwr.targetMhz

/-- A threshold of PWR_THERM_CFG in 0.25 °C: above 112 °C acts as 112 °C (R281). -/
def thermThresh (v : BitVec 8) : Int := 4 * (min v.toNat 112 : Nat)

/-- Did an event happen in the last 100 ms? -/
def recent (s : State) (t : Option Nat) : Bool := match t with | some t => decide (s.boot.tclk < t + 10000000) | none => false

/-- The conditions of a boost step (R276). -/
def boostAllowed (s : State) : Bool :=
  let p := s.pwr
  let cap := match p.lt with | some l => min l s.capPw | none => s.capPw
  let core := p.rails[(0 : Fin 5)]
  !s.fuses.gradeF && !p.fixedFreq && !p.lowest && p.levels.toList.all (fun v => v.toList.all (· == 0)) &&
    decide (10 * demandPower p ≤ 9 * cap) &&
    (List.range 3).all (fun r => match railLimit p r 2 with
      | some l => decide (10 * railDemand p r (windowPs 2) ≤ 9 * l)
      | none => true) &&
    (match hottest p with | some h => decide (h.2 < thermThresh p.boostMax) | none => false) &&
    !recent s p.droopAt && !recent s p.canaryAt && core.mode.isSome && decide (0 < core.volts)

/-- The boost check of each millisecond (R276): one step of 25 MHz, the voltage raised first. -/
def boostCheck (s : State) : State :=
  if !s.isReady then s
  else if !boostAllowed s then endBoost s
  else if 1400 ≤ s.pwr.fclk ∨ s.pwr.boostNext.isSome then s
  else
    let f := s.pwr.fclk + 25
    let s := retarget (s.modPwr (fun p => { p with boostNext := some f })) f
    if voltsPending s then s else s.modPwr (fun p => { p.setFclk s.boot.tclk f with boostNext := none })

/-- A write of PWR_CTL (R267, R275, R277). -/
def pwrCtlWrite (s : State) (v : Word) : State :=
  let fixed := s.fuses.gradeF || v.getLsbD 0
  let s := s.modPwr (fun p => { p with fixedFreq := fixed, calEn := v.getLsbD 1, trimEn := v.getLsbD 2 })
  let s := if v.getLsbD 1 then s else
    s.modPwr (fun p => { p with rails := p.rails.map (fun x => { x with gain := 1100000, accepted := false }) })
  let s := if v.getLsbD 2 then s else s.modPwr (fun p => { p with trim := 0 })
  let s := if v.getLsbD 2 || !s.isReady then s else retarget s s.pwr.targetMhz
  if fixed then endBoost s else s

/-! ### Droop and alerts (R278, R280) -/

/-- The threshold in force in mV (R278): the next lower multiple of 5, from 20 to 75. -/
def droopLimit (p : PwrState) : Nat := min 75 (max 20 (p.droopThresh.toNat / 5 * 5))

/-- The droop detectors are armed from 200 µs after the start event (Table 12-10). -/
def State.droopArmed (s : State) : Bool := s.boot.phase != .held && decide (s.boot.startAt + 20000 ≤ s.boot.tclk)

/-- VDD_CORE at a detector's site falls `depth` mV below the target (R278): beyond the threshold boost ends and every FCLK period is
stretched, by 25% once the droop exceeds it by a further 20 mV. -/
def droopCross (s : State) (depth : Nat) : State :=
  if !s.droopArmed || decide (depth ≤ droopLimit s.pwr) then s
  else endBoost (pwrEvent (s.modPwr (fun p => { p with
    droop := true, deep := p.deep || decide (droopLimit p + 20 < depth), droopCnt := satInc p.droopCnt,
    droopAt := some s.boot.tclk })) 5)

/-- A droop has persisted for 5 µs (R278, R279). -/
def droopPersists (s : State) : State :=
  if !s.pwr.droop then s else enterLowest (s.modPwr (fun p => { p with droopCause := true })) 3

/-- The last detector has recovered (R278): the stretched time, in unstretched FCLK cycles, is added up. A droop that is a cause of
the lowest state has its 1 ms from here (R279). -/
def droopRecovers (s : State) (stretched : Nat) : State :=
  if !s.pwr.droop then s
  else s.modPwr (fun p => { p with
    droop := false, deep := false, stretch := satAdd p.stretch stretched,
    droopClear := if p.droopCause then s.boot.tclk else p.droopClear })

/-- VR_ALERT_N is asserted (R279, R280): the lowest state, the counters and reports, and the status reads on PMBus. -/
def vrAlertReport (s : State) : State :=
  let s := enterLowest (s.modPwr (fun p => { p with vrCnt := satInc p.vrCnt })) 1
  let s := endBoost (((pwrEvent s 2).raisePf 8).logLine 0x61 noPlot none 0 0)
  (List.finRange 5).foldl (fun s r =>
    [0x79, 0x7A, 0x7B, 0x03].foldl (fun s c => queueTxn s { rail := r, command := c }) s) s

/-- The VR_ALERT_N pin falls; the power manager acts once FCLK runs. -/
def vrAlertOn (s : State) : State :=
  if s.boot.vrAlert || !s.aux.on then s
  else
    let s := { s with boot := { s.boot with vrAlert := true } }
    if s.isReady then vrAlertReport s else s

/-- The VR_ALERT_N pin rises. -/
def vrAlertOff (s : State) : State :=
  if s.boot.vrAlert then
    ({ s with boot := { s.boot with vrAlert := false } }).modPwr (fun p => { p with vrClear := s.boot.tclk })
  else s

/-! ### Heat (R281, R282) -/

/-- One sensor takes a sample in 0.25 °C; answers whether it turns faulty now. -/
def Sensor.sample (x : Sensor) (t : Int) : Sensor × Bool :=
  let jump := x.seen && (decide (80 < t - x.temp) || decide (80 < x.temp - t))
  let bad := decide (t < -160) || decide (600 < t) || jump
  if bad then ({ temp := t, seen := true, fault := true, run := 0 }, !x.fault)
  else if x.fault then
    ({ temp := t, seen := true, fault := decide (x.run + 1 < 100), run := x.run + 1 }, false)
  else ({ temp := t, seen := true, fault := false, run := 0 }, false)

/-- The sensors are sampled, and the trip is armed, from 220 µs after the start event (Table 12-10). -/
def State.thermalArmed (s : State) : Bool := s.boot.phase != .held && decide (s.boot.startAt + 22000 ≤ s.boot.tclk)

/-- The sensors are sampled (R281). -/
def thermalSample (s : State) (ts : Vector Int 48) : State :=
  if !s.thermalArmed then s
  else
    let before := (hottest s.pwr).map (·.2)
    let many := decide (8 ≤ faultySensors s.pwr)
    let news := (List.finRange 48).filter (fun i => (s.pwr.sens[i].sample ts[i]).2)
    let s := s.modPwr (fun p => { p with sens := Vector.ofFn (fun i => (p.sens[i].sample ts[i]).1) })
    let s := if 8 ≤ faultySensors s.pwr then enterLowest s 4
      else if many then s.modPwr (fun p => { p with sensClear := s.boot.tclk }) else s
    let s := news.foldl (fun s i =>
      (pwrEvent s 8).logLine 0x62 noPlot none i.val (unsigned 64 ts[i])) s
    match hottest s.pwr with
    | none => s
    | some h =>
      let w := thermThresh s.pwr.warn
      let low := match before with | some b => decide (b < w) | none => true
      if decide (w ≤ h.2) && low && !s.pwr.warned then
        (pwrEvent (s.modPwr (fun p => { p with warned := true })) 4).raisePf 7
      else s

/-- The thermal limit L_T moves (R281). -/
def thermalLimit (s : State) : State :=
  if !s.isReady then s
  else match hottest s.pwr with
  | none => s
  | some h =>
    let t := thermThresh s.pwr.throttle
    if t ≤ h.2 then
      s.modPwr (fun p => { p with lt := some (match p.lt with | none => demandPower p | some l => l - l / 50) })
    else if h.2 < t - 12 then
      s.modPwr (fun p => { p with lt := match p.lt with
        | none => none
        | some l => if s.capPw < l + l / 50 then none else some (l + l / 50) })
    else s

/-- Does a sensor trip the device (R282)? -/
def trips (s : State) (i : Fin 48) : Bool :=
  let x := s.pwr.sens[i]
  s.thermalArmed && x.seen && !x.fault && decide (460 ≤ x.temp)

/-! ### PMBus transactions (R305) -/

/-- What an acknowledged transaction brings. -/
def txnDone (s : State) (t : PmbTxn) (data : Nat) : State :=
  if t.command = 0x19 then s.modRail t.rail (fun x => { x with pec := bitOf data 7 })
  else if t.command = 0x20 then
    if data / 32 % 8 = 0 then
      let s := s.modRail t.rail (fun x => { x with mode := some (signed 5 data) })
      retarget s s.pwr.targetMhz
    else endBoost { s with hst := { s.hst with pmbModeErr := setBit s.hst.pmbModeErr t.rail.val true } }
  else if t.command = 0x21 then
    let old := s.pwr.rails[t.rail].volts
    let s := s.modRail t.rail (fun x => { x with volts := t.steps })
    if old < t.steps then s.modPwr (fun p => { p with ackAt := some s.boot.tclk }) else s
  else if t.command = 0x79 then s.modRail t.rail (fun x => { x with status := BitVec.ofNat 8 data })
  else if t.command = 0x8C then calibrateRail s t.rail data
  else s

/-- A transaction is given up: a raise that is not confirmed ends the boost step; a READ_IOUT is a missing reading (R267). -/
def txnGivenUp (s : State) (t : PmbTxn) : State :=
  let s := pmbFailed s t.rail
  if t.command = 0x21 then
    (s.modRail t.rail (fun x => if x.want = t.steps then { x with want := x.volts } else x)).modPwr (fun p => { p with
      boostNext := none, ackAt := none })
  else s

/-- The next transaction starts. -/
def nextTxn (s : State) : State :=
  let s := s.modPwr (fun p => { p with pmb := p.pmb.drop 1, tries := 0 })
  match s.pwr.pmb with
  | [] => s
  | t :: _ => sendTxn s t

/-- The transaction under way is answered, or not acknowledged: repeated up to 3 times, then abandoned (R305). -/
def pmbusAnswer (s : State) (answer : Option Nat) : State :=
  match s.pwr.pmb with
  | [] => s
  | t :: _ =>
    match answer with
    | some d => nextTxn (txnDone (pmbAnswered s t.rail) t d)
    | none =>
      if s.pwr.tries < 3 then (sendTxn s t).modPwr (fun p => { p with tries := p.tries + 1 })
      else nextTxn (txnGivenUp s t)

/-- The 10 ms read of a rail (R267, Table 12-8): READ_VOUT and READ_IOUT queue; a command while the rail's READ_IOUT is on the bus
gives its answer, the reading in mA, or that it was not acknowledged. -/
def calibrationRead (s : State) (r : Fin 5) (m : Option Nat) : State :=
  if s.pwr.pmb.head? == some { rail := r, command := 0x8C } then pmbusAnswer s m
  else if !s.isReady || !s.pwr.calEn || s.pwr.pmb.any (fun t => t.rail == r && decide (0x8B ≤ t.command)) then s
  else queueTxn (queueTxn s { rail := r, command := 0x8B }) { rail := r, command := 0x8C }

/-- PMBus work at ready (R307, Table 12-8): first contact with every regulator in use; fixed rails have their voltage. -/
def pmbusStart (s : State) : State :=
  let s := s.modPwr (fun p => { p with
    rails := Vector.ofFn (fun (r : Fin 5) => { p.rails[r] with
      volts := if r.val = 2 then 340 else if r.val = 3 then 480 else if r.val = 4 then 720 else 0 }) })
  (List.finRange 5).foldl (fun s r =>
    let s := queueTxn s { rail := r, command := 0x19 }
    if r.val < 2 then queueTxn s { rail := r, command := 0x20 } else s) s

/-! ### Meanings -/

/-- POWER_SAMPLE (R265, R283). -/
def execPowerSample (x : PowerSample) (s : State) : Result := .next (powerSample s x)

/-- CURRENT_LIMITER_EVAL (R269). -/
def execCurrentLimiterEval (rail window : Fin 3) (s : State) : Result := .next (currentEval s rail window)

/-- CAP_LIMITER_EVAL (R269). -/
def execCapLimiterEval (s : State) : Result := .next (capEval s)

/-- CALIBRATION_READ (R267). -/
def execCalibrationRead (rail : Fin 5) (reading : Option Nat) (s : State) : Result := .next (calibrationRead s rail reading)

/-- CALIBRATION_LOST (R267). -/
def execCalibrationLost (rail : Fin 5) (s : State) : Result := .next (calibrationLost s rail)

/-- VOLTAGE_BAND_EVAL (R274). -/
def execVoltageBandEval (s : State) : Result := .next (bandEval s)

/-- AGEING_TRIM_STEP (R275). -/
def execAgeingTrimStep (pass8 fail4 : Bool) (s : State) : Result := .next (trimStep s pass8 fail4)

/-- BOOST_CHECK (R276). -/
def execBoostCheck (s : State) : Result := .next (boostCheck s)

/-- FIXED_FREQ_WRITE (R277): a host write of PWR_CTL, which the PF alone reaches. -/
def execFixedFreqWrite (f : Fn) (v : Word) (s : State) : Result :=
  .next (hostGate s f (fun s => if f = 0 then pwrCtlWrite s v else s))

/-- DROOP_CROSSING (R278). -/
def execDroopCrossing (depth : Nat) (s : State) : Result := .next (droopCross s depth)

/-- DROOP_PERSIST (R278, R279). -/
def execDroopPersist (s : State) : Result := .next (droopPersists s)

/-- VR_ALERT (R280). -/
def execVrAlert (s : State) : Result := .next (vrAlertOn s)

/-- LOWEST_STATE_EXIT (R279). -/
def execLowestStateExit (s : State) : Result := .next (leaveLowest s)

/-- THERMAL_SAMPLE (R281). -/
def execThermalSample (temps : Vector Int 48) (s : State) : Result := .next (thermalSample s temps)

/-- THERMAL_LIMIT_UPDATE (R281). -/
def execThermalLimitUpdate (s : State) : Result := .next (thermalLimit s)

/-- PMBUS_TRANSACTION (R305). -/
def execPmbusTransaction (answer : Option Nat) (s : State) : Result := .next (pmbusAnswer s answer)

/-- VR_ALERT_DEASSERTED (R279). -/
def execVrAlertDeasserted (s : State) : Result := .next (vrAlertOff s)

/-- DROOP_RECOVERY (R278). -/
def execDroopRecovery (stretched : Nat) (s : State) : Result := .next (droopRecovers s stretched)

/-- VOLTAGE_SETTLE_END (R274, R306). -/
def execVoltageSettleEnd (s : State) : Result := .next (settleEnd s)

end Sys2Proof.Machine
end

