-- ==== Sys2Proof/Machine/Anneal.lean ====
section
/-!
DEFINITION. Sys2Proof/Machine/Anneal.lean: the anneal fabric: coupling values (R125 to R127), fields and energy (R123,
R124), the initial pass (R131), flip slots in relaxed and strict mode (R133 to R137), application (R139, R140), best state
(R144), the audit (R142), the temperature schedule (R161 to R163), and runs (R145, R146).
-/
namespace Sys2Proof.Machine

/-! ### The initial pass (R131, R162) -/

/-- Is a list of row numbers a permutation of 0 to v - 1? -/
def isPerm (l : List Nat) (v : Nat) : Bool := l.length == v && (List.range v).all (fun r => l.contains r)

/-- The tables of one tile as R131 step 1 reads them, with initial spins. -/
def loadTile (s : State) (q : PlotId) (j : Job) (n : Nat) (e : TileEntry) : AnTile :=
  let rd (a k : Nat) : List Byte := jobBytes s q j a k
  let cb := if e.format = 2 then [] else (List.range e.cbSize).map (fun i => signed 16 (leNat (rd (e.cb + 2 * i) 2)))
  let order := if e.mode = 0 then List.range e.v else (List.range e.v).map (fun i => leNat (rd (e.order + 2 * i) 2))
  let spinBytes := rd e.spin 64
  { idx := e.tile, format := e.format, v := e.v, first := e.first, coup := e.coup, cb := cb,
    shifts := rd e.shift (ceilDiv (e.v * ceilDiv n 64) 2),
    bias := (List.range e.v).map (fun r => signed 32 (leNat (rd (e.bias + 4 * r) 4))),
    order := order, root := [],
    spins := (List.range e.v).map (fun r => bitOf ((spinBytes[r / 8]?).getD 0).toNat (r % 8)) }

/-- Does a plot address lie in the slice region of a within-plot tile (Table 4-9)? -/
def inSlice (t a : Nat) : Bool := decide (t * 0x2000000 ≤ a) && decide (a < t * 0x2000000 + 0x1800000)

/-- The tables a tile reads in step 1 of R131: shifts, biases, spins, codebook, order. -/
def tileTables (n : Nat) (e : TileEntry) : List (Nat × Nat) :=
  [(e.shift, ceilDiv (e.v * ceilDiv n 64) 2), (e.bias, 4 * e.v), (e.spin, 64)] ++
  (if e.format = 2 then [] else [(e.cb, 2 * e.cbSize)]) ++ (if e.mode = 0 then [] else [(e.order, 2 * e.v)])

/-- The columns a tile reads from its store: all of them, or those of the slots of its presence mask (R185). -/
def columnRanges (n : Nat) (mask : Option (List Nat)) (coup stride : Nat) : List (Nat × Nat) :=
  match mask with
  | none => [(coup, n * stride)]
  | some l => l.map (fun m => (coup + m * 512 * stride, 512 * stride))

/-- The columns a tile multiplies in step 2 of R131. -/
def tileColumns (n : Nat) (mask : Option (List Nat)) (e : TileEntry) : List (Nat × Nat) :=
  columnRanges n mask e.coup (colStride e.v e.format)

/-- Tiles read ranges, in within-plot order, and the pass goes on (R117, R119). -/
def readTiles (q : PlotId) (j : Job) : List (TileEntry × List (Nat × Nat)) → State → (State → State) → State
  | [], s, k => k s
  | e :: es, s, k => withReads s q j e.2 (tileNodeOf s q e.1.tile) (fun s => readTiles q j es s k)

/-- The fabric's values at the start of an attempt: spins, fields, energy, best state, schedule. -/
def startFabric (p : AnPlot) (i : BitVec 16) (n : Nat) (ts : List AnTile) (energy : Int) (c : Sched) : AnPlot :=
  { p with
    state := .idle, job := i, captured := false, bestValid := true, n := n,
    tiles := ts.map (fun t => { t with best := t.spins, queue := [], ptr := 0 }),
    energy := energy, bestEnergy := energy, offset := 0, bestNew := false, rho := 0, slot := 0, inflight := [], runLeft := 0, sweepDue := false,
    auditDue := false, b := c.start, left := (c.bearing c.start).2.2, sigma := 0, c := 0, m := energy,
    live := { p.live with sweeps := 0, bestSweep := 0, auditDelta := 0, qmax := 0 } }

/-- Does the committed ANNEAL section of a plot graft (R175)? -/
def grafts (s : State) (q : PlotId) : Bool :=
  match annealSec s q with | some x => !(x.ofType 6).isEmpty | none => false

/-- A job's attempt takes the fabric of its plot: the values of the attempt are 0 (R148, R164, R192), and its tape begins. -/
def takeFabric (s : State) (q : PlotId) (i : BitVec 16) : State :=
  attemptLanes (s.modPlot q (fun p => { p with an := { p.an.clear with job := i }, grf := p.grf.clear })) q

/-- The initial pass of an attempt (R131, R162), once per attempt: fields and energy are computed from scratch. A plot that
grafts has its full pass and graft passes instead (R180). Until it is done the fabric is in INIT (Table 5-5). Where another
job of the plot holds the fabric, the pass takes it from that job (DEDUCED, log entry 187). -/
def initialPass (s : State) (q : PlotId) (i : BitVec 16) : State :=
  match runningJob s q i, annealSec s q with
  | some j, some x =>
    if grafts s q || j.passed then s
    else
      let es := tileEntries x
      let n := x.param
      let s := if (s.plot q).an.job == i then s else takeFabric s q i
      let s := s.modAn q (fun p => { p with state := .init })
      match es.find? (fun e => !inSlice e.tile e.coup) with
      | some e => chargeFault s q i .image (tileNodeOf s q e.tile)
      | none =>
        readTiles q j (es.map (fun e => (e, tileTables n e))) s (fun s =>
          let ts := es.map (loadTile s q j n)
          match (es.zip ts).find? (fun x => !isPerm x.2.order x.1.v) with
          | some b => chargeFault s q i .image (tileNodeOf s q b.1.tile)
          | none =>
            readTiles q j (es.map (fun e => (e, tileColumns n none e))) s (fun s =>
              let spins := spinVec ts n
              let ms := ts.map (tileMatrix s q j n)
              let ts := (ts.zip ms).map (fun tm => { tm.1 with fields := freshFields spins tm.1 tm.2 })
              (s.modAn q (fun p => startFabric p i n ts (freshEnergy ts ms spins) (schedOf x))).modJob q i
                (fun j => { j with passed := true })))
  | _, _ => s

/-! ### Flip slots (R132 to R137) -/

/-- The candidate row of a tile, none once it has offered all its rows: it waits for the tiles whose pass is still under way,
those of equal V too (R133; DEDUCED for equal V, log entry 186). -/
def AnTile.candidate (t : AnTile) : Option Nat := if t.ptr < t.v then t.order[t.ptr]? else none

/-- Is a candidate blocked: an entry in the tile's queue, or a committed flip not yet applied (R133)? -/
def blocked (p : AnPlot) (k : Nat) (t : AnTile) (row : Nat) : Bool :=
  t.queue.any (fun e => e.row == row) || p.inflight.any (fun f => f.tile == k && f.row == row)

/-- The proposal for a row with noise N is favourable when s (h + N) < 0 (R134). -/
def favourable (t : AnTile) (row : Nat) (n : Int) : Bool :=
  decide (spinVal ((t.spins[row]?).getD false) * ((t.fields[row]?).getD 0 + n) < 0)

/-- The noise term at the plot's bearing and stall offset. -/
def slotNoise (c : Sched) (p : AnPlot) (u : Nat) : Int :=
  let b := c.bearing p.b
  noiseTerm b.2.1 b.1 p.sigma u

/-- Where a tile's word comes from: its reservoir, a play lane, or the reservoir with recording. -/
inductive WordSource where
  | well | play | record
deriving DecidableEq, Repr

/-- The source of a plot's words (R165). -/
def wordSource (s : State) (q : PlotId) : WordSource :=
  let c := tapeRws s q
  if !c.tapeOn then .well else if c.tapeDir then .record else .play

/-- The tile after a relaxed slot's re-check: a head entry that is no longer favourable is dropped (R135 step 1). -/
def AnTile.recheck (t : AnTile) : AnTile :=
  match t.queue with
  | [] => t
  | e :: rest => if favourable t e.row e.n then t else { t with queue := rest }

/-- Does the tile need a word in this slot (R133, R154, R137)? -/
def needsWord (p : AnPlot) (strict : Bool) (k : Nat) (t : AnTile) : Bool :=
  if strict && !t.queue.isEmpty then false
  else match t.candidate with
  | none => false
  | some row => strict || !blocked p k t.recheck row

/-- Can the tile take a word now: yes, no, or the tape is exhausted (R168, R170)? -/
def wordReady (s : State) (q : PlotId) (src : WordSource) (t : AnTile) : TapeWord :=
  let lane := (s.plot q).nse.lanes[(⟨t.idx % 64, Nat.mod_lt _ (by decide)⟩ : Fin 64)]
  let well : Bool := match tileFamily s q t.idx with
    | some f => decide (12 ≤ s.nse.wells[f].fifo.len)
    | none => false
  match src with
  | .well => if well then .word 0 lane else .none
  | .play => playWord lane
  | .record => if well && decide (lane.record.length < 4 * segWords) then .word 0 lane else .none

/-- SEG_NO of the segment at the front of a tile's lane. -/
def frontSegment (s : State) (q : PlotId) (t : AnTile) : Nat :=
  match (s.plot q).nse.lanes[(⟨t.idx % 64, Nat.mod_lt _ (by decide)⟩ : Fin 64)].bufs with
  | g :: _ => g.segNo
  | [] => 0

/-- A tile takes its word (R154, R168, R169). -/
def takeWord (s : State) (q : PlotId) (src : WordSource) (t : AnTile) : Option (Nat × State) :=
  let li : Fin 64 := ⟨t.idx % 64, Nat.mod_lt _ (by decide)⟩
  match src with
  | .play =>
    match playWord (s.plot q).nse.lanes[li] with
    | .word u l => some (u, checkLow (fetchLane (s.modLane q li (fun _ => l)) q li) q li)
    | _ => none
  | _ =>
    match tileFamily s q t.idx with
    | none => none
    | some f =>
      match s.nse.wells[f].fifo.word with
      | none => none
      | some (u, r) =>
        let s := s.modWell f (fun w => { w with fifo := r, short := 0 })
        let s := if src == .record then s.modLane q li (fun l => recordWord l u) else s
        some (u, s)

/-- A short slot of a tile off tape: the candidate is starved (R154). -/
def starve (s : State) (q : PlotId) (t : AnTile) : State :=
  let s := s.modLive q (fun a => { a with starveCnt := satInc a.starveCnt })
  match tileFamily s q t.idx with
  | some f => s.modWell f (fun w => { w with short := w.short + 1 })
  | none => s

/-- What one tile does in a slot: its state afterwards, and its request: the row, and whether it is the head entry. -/
structure TileAct where
  tile : AnTile
  /-- The row asked for, its N and word, and whether it is the queue's head entry (or a void re-proposed). -/
  request : Option (QEntry × Bool) := none
  /-- A favourable proposal that waits behind the head entry's request (R135 step 2). -/
  defer : Option QEntry := none
  /-- Strict mode: the tile proposed, with this entry (favourable or not). -/
  proposed : Option QEntry := none
  favour : Bool := false
deriving DecidableEq, Repr

/-- One proposal counted for the plot and the device, with their wrap bits (R148). -/
def countProposal (s : State) (q : PlotId) : State :=
  let s := s.modAn q (fun p => { p with
    propWrap := p.propWrap || p.live.prop == BitVec.allOnes 48, live := { p.live with prop := p.live.prop + 1 } })
  { s with anl := { s.anl with
      devWrap := s.anl.devWrap || s.anl.devProp == BitVec.allOnes 48, devProp := s.anl.devProp + 1 } }

/-- The re-check of a tile's head entry: it requests, or a head that is no longer favourable is dropped (R135 step 1). -/
def recheckHead (s : State) (q : PlotId) (t : AnTile) : State × AnTile × Option (QEntry × Bool) :=
  match t.queue with
  | [] => (s, t, none)
  | e :: rest =>
    if favourable t e.row e.n then (s, t, some (e, true))
    else (s.modLive q (fun a => { a with dropCnt := satInc a.dropCnt }), { t with queue := rest }, none)

/-- The word of a tile's candidate, and its proposal beside the request of its head entry (R135 step 2). -/
def relaxedProposal (c : Sched) (src : WordSource) (s : State) (q : PlotId) (t : AnTile) (row : Nat)
    (req : Option (QEntry × Bool)) : State × TileAct :=
  match takeWord s q src t with
  | none => (starve s q t, { tile := t, request := req })
  | some (u, s) =>
    let n := slotNoise c (s.plot q).an u
    let t := { t with ptr := t.ptr + 1 }
    let e : QEntry := { row := row, n := n, word := u }
    if favourable t row n then
      match req with
      | none => (countProposal s q, { tile := t, request := some (e, false) })
      | some r => (countProposal s q, { tile := t, request := some r, defer := some e })
    else (countProposal s q, { tile := t, request := req })

/-- One tile's part of a relaxed slot up to its request (R135 steps 1 and 2). -/
def relaxedTile (c : Sched) (src : WordSource) (s : State) (q : PlotId) (k : Nat) (t : AnTile) : State × TileAct :=
  let (s, t, req) := recheckHead s q t
  match t.candidate with
  | none => (s, { tile := t, request := req })
  | some row =>
    if blocked (s.plot q).an k t row then
      (s.modLive q (fun a => { a with blockCnt := satInc a.blockCnt }), { tile := { t with ptr := t.ptr + 1 }, request := req })
    else relaxedProposal c src s q t row req

/-- One tile's proposal in a strict round (R137 step 1). -/
def strictTile (c : Sched) (src : WordSource) (s : State) (q : PlotId) (t : AnTile) : State × TileAct :=
  match t.queue with
  | e :: _ =>
    let n := slotNoise c (s.plot q).an e.word
    let e := { e with n := n }
    (countProposal s q, { tile := t, proposed := some e, favour := favourable t e.row n, request := some (e, true) })
  | [] =>
    match t.candidate with
    | none => (s, { tile := t })
    | some row =>
      match takeWord s q src t with
      | none => (starve s q t, { tile := t })
      | some (u, s) =>
        let n := slotNoise c (s.plot q).an u
        let e : QEntry := { row := row, n := n, word := u }
        (countProposal s q,
          { tile := { t with ptr := t.ptr + 1 }, proposed := some e, favour := favourable t row n, request := some (e, false) })

/-- All tiles of the plot act in within-plot order. -/
def actAll (act : State → Nat → AnTile → State × TileAct) : State → Nat → List AnTile → State × List TileAct
  | s, _, [] => (s, [])
  | s, k, t :: ts =>
    let (s, a) := act s k t
    let (s, as_) := actAll act s (k + 1) ts
    (s, a :: as_)

/-- Scan order of the lane from the rotation pointer (R136). -/
def scanOrder (rho n : Nat) : List Nat := (List.range n).map (fun i => (rho + i) % (max n 1))

/-- The tiles granted in a relaxed slot: the first CAP requests of the scan (R136). -/
def grants (acts : List TileAct) (rho cap : Nat) : List Nat :=
  ((scanOrder rho acts.length).filter (fun k => match acts[k]? with
    | some a => a.request.isSome
    | none => false)).take cap

/-- Queue capacity of a tile. -/
def queueCap : Nat := 32

/-- A push on a tile's queue (R135, R66): shed when full. Answers the queue, and whether it landed. -/
def pushQ (l : List QEntry) (e : QEntry) : List QEntry × Bool :=
  if l.length < queueCap then (l ++ [e], true) else (l, false)

/-- Queue update of a tile after the grant (R135 step 3): answers the tile, pushes that landed and flips shed. -/
def settle (a : TileAct) (granted : Bool) : AnTile × Nat × Nat :=
  let t := a.tile
  let q0 := match a.request with
    | some (_, true) => if granted then t.queue.drop 1 else t.queue
    | _ => t.queue
  let pushes := (match a.request with | some (e, false) => if granted then [] else [e] | _ => []) ++
    (match a.defer with | some e => [e] | none => [])
  let r := pushes.foldl (fun (x : List QEntry × Nat × Nat) e =>
    let y := pushQ x.1 e
    (y.1, x.2.1 + b2n y.2, x.2.2 + b2n (!y.2))) (q0, 0, 0)
  ({ t with queue := r.1 }, r.2.1, r.2.2)

/-- Commit a batch of flips in lane order (R136). -/
def commitFlips (p : AnPlot) (acts : List TileAct) (order : List Nat) : AnPlot :=
  let fl := order.filterMap (fun k => match acts[k]? with
    | some a => a.request.map (fun r => ({ slot := p.slot, tile := k, row := r.1.row } : Flip))
    | none => none)
  { p with
    inflight := p.inflight ++ fl,
    tiles := (List.range p.tiles.length).map (fun k =>
      let t := (p.tiles[k]?).getD {}
      { t with flips := t.flips + (fl.filter (fun f => decide (f.tile = k))).length }),
    flipWrap := p.flipWrap || decide (2 ^ 48 ≤ p.live.flip.toNat + fl.length),
    live := { p.live with flip := p.live.flip + BitVec.ofNat 48 fl.length } }

/-- The end of a slot: flips committed LAG - 1 slots earlier are applied, the best state compared, the slot counted. -/
def endSlot (s : State) (q : PlotId) (j : Job) (lag : Nat) (p : AnPlot) : AnPlot :=
  let due := p.inflight.filter (fun f => decide (f.slot + lag ≤ p.slot + 1))
  let p := { p with inflight := p.inflight.filter (fun f => !decide (f.slot + lag ≤ p.slot + 1)) }
  let p := applyBatch s q j p due
  let passed := p.tiles.all (fun t => decide (t.v ≤ t.ptr))
  let p := { p with sweepDue := p.sweepDue || (p.state == .run && passed) }
  let p := if due.isEmpty then p else captureBest p
  { p with slot := p.slot + 1 }

/-- Largest queue depth reached (ANL_PQMAX). -/
def noteDepth (p : AnPlot) : AnPlot :=
  let d := (p.tiles.map (fun t => t.queue.length)).foldl max 0
  { p with live := { p.live with qmax := BitVec.ofNat 6 (max p.live.qmax.toNat d) } }

/-- The rotation pointer advances by one tile (R136, R137). -/
def AnPlot.turn (p : AnPlot) : AnPlot := { p with rho := if p.tiles.isEmpty then 0 else (p.rho + 1) % p.tiles.length }

/-- A relaxed slot (R135, R136). -/
def relaxedSlot (s : State) (q : PlotId) (j : Job) (src : WordSource) : State :=
  let c := planSched s q
  let p0 := (s.plot q).an
  let (s, acts) := actAll (fun s k t => relaxedTile c src s q k t) s 0 p0.tiles
  let gr := grants acts p0.rho j.cap
  let settled := (List.range acts.length).map (fun k => match acts[k]? with
    | some a => settle a (gr.contains k)
    | none => ({}, 0, 0))
  let pushes := sumNat (settled.map (fun x => x.2.1))
  let shed := sumNat (settled.map (fun x => x.2.2))
  s.modAn q (fun p =>
    let p := { p with
      tiles := settled.map (fun x => x.1),
      live := { p.live with deferCnt := satAdd p.live.deferCnt pushes, shedCnt := satAdd p.live.shedCnt shed } }
    let p := commitFlips p acts gr
    endSlot s q j (laneLag s.cfg.content q.val) (noteDepth p.turn))

/-- A strict round (R137): a pass ends with its last row, and a void waits in its queue beyond it (R145). The first favourable proposal of the scan is granted and later ones are voided. -/
def strictRound (s : State) (q : PlotId) (j : Job) (src : WordSource) : State :=
  let c := planSched s q
  let p0 := (s.plot q).an
  let (s, acts) := actAll (fun s _ t => strictTile c src s q t) s 0 p0.tiles
  let order := scanOrder p0.rho acts.length
  let win := order.find? (fun k => match acts[k]? with | some a => a.favour | none => false)
  let after : List Nat := match win with
    | none => []
    | some w => (order.dropWhile (fun k => k != w)).drop 1
  let voids := after.filter (fun k => match acts[k]? with | some a => a.proposed.isSome | none => false)
  let tiles := (List.range acts.length).map (fun k => match acts[k]? with
    | some a => match a.proposed with
      | none => a.tile
      | some e => { a.tile with queue := if voids.contains k then [e] else [] }
    | none => {})
  s.modAn q (fun p =>
    let p := { p with tiles := tiles, live := { p.live with voidCnt := satAdd p.live.voidCnt voids.length } }
    let p := match win with | some w => commitFlips p acts [w] | none => p
    endSlot s q j (laneLag s.cfg.content q.val) (noteDepth p.turn))

/-- A slot without proposals: a strict hold slot, in which a committed flip waits (R137, counted), or a drain slot. In relaxed
mode the rotation pointer advances at every slot (R136). -/
def quietSlot (s : State) (q : PlotId) (j : Job) (hold : Bool) : State :=
  s.modAn q (fun p =>
    let p := if hold then { p with live := { p.live with holdCnt := satInc p.live.holdCnt } } else p
    let p := if j.strict then p else p.turn
    endSlot s q j (laneLag s.cfg.content q.val) p)

/-- The node of a poisoned line that the columns of the flips due at the end of this slot would read (R119). -/
def duePoison (s : State) (q : PlotId) (j : Job) : Option NodeId :=
  let p := (s.plot q).an
  let due := p.inflight.filter (fun f => decide (f.slot + laneLag s.cfg.content q.val ≤ p.slot + 1))
  due.findSome? (fun f => match p.tiles[f.tile]? with
    | none => none
    | some own => p.tiles.findSome? (fun t =>
        let v := own.first + f.row
        if t.present v then poisonAt s q j (t.coup + v * colStride t.v t.format) (colStride t.v t.format) else none))

/-- Is unit c of the frame a bubble at level k (R271)? -/
def isBubble (c k : Nat) : Bool := decide (c % 64 * k / 64 < (c % 64 + 1) * k / 64)

/-- A bubble of a plot's flip slots: every tile pauses, and each counts one compute bubble unit (R271). -/
def bubbleSlot (s : State) (q : PlotId) : State :=
  s.modPlot q (fun p => { p with pwr := { p.pwr with bubbles := p.pwr.bubbles + p.an.tiles.length } })

/-- Does the run's next slot take proposals: no drain, no audit, no event of a sweep is due? -/
def proposing (p : AnPlot) (sc : Sched) : Bool :=
  p.state == .run && !p.sweepDue && !p.auditDue && !(sc.stallEn && decide (2 ^ sc.k ≤ p.c)) && !decide (p.left = 0)

/-- The tiles that need a word in a slot that takes proposals; none in a strict hold slot. -/
def needers (s : State) (q : PlotId) (j : Job) : List AnTile :=
  let p := (s.plot q).an
  if !proposing p (planSched s q) || (j.strict && !p.inflight.isEmpty) then []
  else (List.range p.tiles.length).filterMap (fun k => match p.tiles[k]? with
    | some t => if needsWord p j.strict k t then some t else none
    | none => none)

/-- Is the slot one in which the plot pauses on its tape: a tile would need a word it cannot take (R170)? -/
def tapePause (s : State) (q : PlotId) (j : Job) : Bool :=
  let src := wordSource s q
  let l := needers s q j
  src != .well && !l.any (fun t => decide (wordReady s q src t = .exhausted)) &&
    l.any (fun t => decide (wordReady s q src t = .none))

/-- A paused slot is counted (R170). -/
def countPause (s : State) (q : PlotId) : State := s.modLive q (fun a => { a with pauseCnt := satInc a.pauseCnt })

/-- One flip slot of a plot's anneal run that is no bubble (R132 to R137, R170). -/
def workSlot (s : State) (q : PlotId) (j : Job) : State :=
  let p := (s.plot q).an
  let src := wordSource s q
  let hold := j.strict && !p.inflight.isEmpty
  if (duePoison s q j).isSome then chargeFault s q j.idx .engine (duePoison s q j)
  else if p.state == .drain || p.state == .audit then quietSlot s q j hold
  else if !proposing p (planSched s q) then s
  else match (needers s q j).find? (fun t => decide (wordReady s q src t = .exhausted)) with
  | some t => chargeFault (tapeErr s q t.idx 7 (frontSegment s q t)) q j.idx .tape (tileNodeOf s q t.idx)
  | none =>
    if tapePause s q j then countPause s q
    else if hold then quietSlot s q j true
    else if j.strict then strictRound s q j src
    else relaxedSlot s q j src

/-- One flip slot of a plot's anneal run: a bubble of its class's compute level, or a slot of work (R132, R271). A slot that is
both a bubble and a tape pause is metered as a tape pause (chapter 11, edges). -/
def flipSlot (s : State) (q : PlotId) (i : BitVec 16) : State :=
  match runningJob s q i with
  | none => s
  | some j =>
    if (s.plot q).an.job != i then s
    else
      let c := (s.plot q).an.unit
      let s := s.modPlot q (fun p => { p with an := { p.an with unit := c + 1 } })
      if isBubble c (levelInForce s.pwr 0 (s.classOf q)) then
        (if tapePause s q j then countPause (bubbleSlot s q) q else bubbleSlot s q)
      else workSlot s q j

/-! ### Sweeps, audit, schedule, runs (R142, R145, R162, R163) -/

/-- A run begins (R145), perhaps at a named bearing (R162). -/
def runStart (s : State) (q : PlotId) (i : BitVec 16) (sweeps : Nat) (bearing : Option Nat) : State :=
  match runningJob s q i with
  | none => s
  | some _ =>
    let p := (s.plot q).an
    if p.job != i || p.state != .idle || decide (sweeps = 0) || !p.bestValid then s
    else
      let sc := planSched s q
      match bearing with
      | some b =>
        if sc.count ≤ b then chargeFault s q i .image (tileNodeOf s q 0)
        else s.modAn q (fun p =>
          let p := { p with state := .run, slot := 0, runLeft := sweeps, b := b, left := (sc.bearing b).2.2 }
          if sc.bearingReset then { p with sigma := 0, c := 0, m := p.bestEnergy } else p)
      | none => s.modAn q (fun p => { p with state := .run, slot := 0, runLeft := sweeps })

/-- A sweep completes (R133, R162): the count advances, and its events fall due in order. -/
def sweepDone (s : State) (q : PlotId) (i : BitVec 16) : State :=
  let p := (s.plot q).an
  if (runningJob s q i).isNone || p.job != i || p.state != .run || !p.sweepDue then s
  else
    let sc := planSched s q
    let sweeps := satInc p.live.sweeps
    let audit := decide (sweeps.toNat % 65536 = 0)
    s.modAn q (fun p => { p with
      sweepDue := false, tiles := p.tiles.map (fun t => { t with ptr := 0 }),
      live := { p.live with sweeps := sweeps }, auditDue := audit, state := if audit then .audit else .run,
      c := if sc.stallEn then p.c + 1 else p.c, left := p.left - 1, runLeft := p.runLeft - 1 })

/-- After a sweep's events, the run goes on or drains (R145). -/
def afterEvents (p : AnPlot) (sc : Sched) : AnPlot :=
  if p.auditDue || (sc.stallEn && decide (2 ^ sc.k ≤ p.c)) || decide (p.left = 0) then p
  else { p with state := if p.runLeft = 0 then .drain else .run }

/-- The energy audit (R142): every field and the energy from scratch; a field mismatch is a hardware error on a tile. -/
def audit (s : State) (q : PlotId) (i : BitVec 16) (bad : Option Nat) : State :=
  match runningJob s q i with
  | none => s
  | some j =>
    let p := (s.plot q).an
    if p.job != i || !p.auditDue || !p.inflight.isEmpty then s
    else match bad, p.tiles.findSome? (fun t =>
        (columnRanges p.n t.mask t.coup (colStride t.v t.format)).findSome? (fun r => poisonAt s q j r.1 r.2)) with
    | some t, _ => chargeFault s q i .engine (tileNodeOf s q t)
    | none, some m => chargeFault s q i .engine (some m)
    | none, none =>
      let spins := spinVec p.tiles p.n
      let ms := p.tiles.map (tileMatrix s q j p.n)
      let fs := (p.tiles.zip ms).map (fun x => (x.1.idx, decide (freshFields spins x.1 x.2 = x.1.fields)))
      match fs.find? (fun x => !x.2) with
      | some x => chargeFault s q i .engine (tileNodeOf s q x.1)
      | none =>
        let e := freshEnergy p.tiles ms spins + p.offset
        let sc := planSched s q
        if e = p.energy then s.modAn q (fun p => afterEvents { p with auditDue := false } sc)
        else
          let d := clampInt (-(2 ^ 63)) (2 ^ 63 - 1) (e - p.energy)
          let delta := BitVec.ofInt 64 d
          let s := s.modAn q (fun p => afterEvents (captureBest { p with
            energy := e, auditDue := false,
            live := { p.live with auditDelta := delta, auditCnt := satInc p.live.auditCnt } }) sc)
          let s := s.modJob q i (fun j => { j with audit := true })
          let s := s.raisePlot q 0x400
          if p.auditLogged then s.logSuppressed
          else (s.modAn q (fun p => { p with auditLogged := true })).logLine 0x13 q.val none 0 delta.toNat

/-- The stall offset step at the end of a window (R163). -/
def stallEnd (s : State) (q : PlotId) (i : BitVec 16) : State :=
  let sc := planSched s q
  let p := (s.plot q).an
  if p.job != i || (runningJob s q i).isNone || p.auditDue || !sc.stallEn || decide (p.c < 2 ^ sc.k) then s
  else s.modAn q (fun p =>
    let better := decide (p.bestEnergy < p.m)
    afterEvents { p with
      sigma := if better then 0 else min (p.sigma + sc.step) sc.cap, m := p.bestEnergy, c := 0,
      live := if better then p.live else { p.live with stallCnt := satInc p.live.stallCnt } } sc)

/-- The next bearing (R162). -/
def nextBearing (sc : Sched) (b : Nat) : Nat :=
  if b + 1 < sc.count then b + 1 else if sc.endMode = 1 then sc.loop else b

/-- The bearing step when no sweeps are left (R162); the stall step of the same sweep comes first. -/
def bearingEnd (s : State) (q : PlotId) (i : BitVec 16) : State :=
  let sc := planSched s q
  let p := (s.plot q).an
  if p.job != i || (runningJob s q i).isNone || p.auditDue || (sc.stallEn && decide (2 ^ sc.k ≤ p.c)) ||
      decide (p.left ≠ 0) || (p.state != .run && p.state != .audit && p.state != .drain) then s
  else s.modAn q (fun p =>
    let b := nextBearing sc p.b
    let p := { p with b := b, left := (sc.bearing b).2.2 }
    let p := if sc.bearingReset then { p with sigma := 0, c := 0, m := p.bestEnergy } else p
    afterEvents p sc)

/-- The run ends when its last sweep is complete and every committed flip applied (R145). -/
def runEnd (s : State) (q : PlotId) (i : BitVec 16) : State :=
  let sc := planSched s q
  let p := (s.plot q).an
  if p.job != i || (runningJob s q i).isNone || p.auditDue || p.sweepDue || decide (p.runLeft ≠ 0) ||
      (sc.stallEn && decide (2 ^ sc.k ≤ p.c)) || decide (p.left = 0) || !p.inflight.isEmpty ||
      (p.state != .run && p.state != .drain) then s
  else s.modAn q (fun p => { p with state := .idle })

/-- A sweep without an audit, a stall window or a bearing period at its end goes on at once. -/
def sweepStep (s : State) (q : PlotId) (i : BitVec 16) : State :=
  let s' := sweepDone s q i
  if (s.plot q).an.sweepDue && !(s'.plot q).an.sweepDue then
    s'.modAn q (fun p => if p.state == .run then afterEvents p (planSched s q) else p)
  else s'

end Sys2Proof.Machine
end

