-- ==== Sys2Proof/Machine/Graft.lean ====
section
/-!
DEFINITION. Sys2Proof/Machine/Graft.lean: grafting (chapter 07): the whole-problem tables (R178, R179), the full pass (R180),
selection (R181, R182), rootstock bias and staging (R183 to R185), pass, run and harvest (R186 to R188), and the full audit
(R189).
-/
namespace Sys2Proof.Machine

/-- Change the GRF state of a plot. -/
def State.modGrf (s : State) (q : PlotId) (f : GrfPlot → GrfPlot) : State :=
  s.modPlot q (fun p => { p with grf := f p.grf })

/-! ### The GRAFT entry (Table 7-2) -/

/-- A GRAFT entry's fields; addresses in bytes. -/
structure GraftEntry where
  policy : Nat
  restart : Bool
  ahead : Bool
  format : Nat
  total : Nat
  w : Nat
  stride : Nat
  retain : Nat
  listLen : Nat
  sweeps : Nat
  fullAudit : Nat
  dir : Nat
  bias : Nat
  state : Nat
  best : Nat
  list : Nat
deriving DecidableEq, Repr

/-- Read a GRAFT entry (Table 7-2). -/
def graftEntry (b : List Byte) : GraftEntry :=
  { policy := leAt b 1 1, restart := bitOf (leAt b 2 1) 0, ahead := bitOf (leAt b 2 1) 1, format := leAt b 3 1,
    total := leAt b 4 4, w := leAt b 8 2, stride := leAt b 10 2, retain := leAt b 12 2, listLen := leAt b 14 2,
    sweeps := leAt b 16 4, fullAudit := leAt b 20 4, dir := 64 * leAt b 24 4, bias := 64 * leAt b 28 4,
    state := 64 * leAt b 32 4, best := 64 * leAt b 36 4, list := 64 * leAt b 40 4 }

/-- The committed GRAFT entry of a plot with its ANNEAL section (R175). -/
def graftOf (s : State) (q : PlotId) : Option (GraftEntry × Section) :=
  match annealSec s q with
  | none => none
  | some x => match (x.ofType 6)[0]? with
    | none => none
    | some e => some (graftEntry e, x)

/-- Blocks of the problem. -/
def GraftEntry.nb (e : GraftEntry) : Nat := e.total / 512

/-- Bytes of the couplings of a record, and of the whole record (R178). -/
def GraftEntry.coupBytes (e : GraftEntry) : Nat := 512 * colStride 512 e.format

/-- Bytes of a record. -/
def GraftEntry.recordBytes (e : GraftEntry) : Nat := e.coupBytes + 2048

/-- Node of a plot's matrix engine number i modulo their count. -/
def mxeNodeOf (s : State) (q : PlotId) (i : Nat) : Option NodeId :=
  let l := s.cfg.content.mxeList q.val
  (l[i % max l.length 1]?).map (fun m => mkNode (nodeOf .mxe m))

/-! ### Directory and records (R178) -/

/-- A directory row: its header's reserved bytes are 0, and its entries as (COL, DATA_ADDR, reserved bytes 0). -/
structure DirRow where
  clean : Bool
  entries : List (Nat × Nat × Bool)
deriving DecidableEq, Repr

/-- FIRST and COUNT of a row header as the job reads it. -/
def rowHead (s : State) (q : PlotId) (j : Job) (e : GraftEntry) (a : Nat) : Nat × Nat :=
  let b := jobBytes s q j (e.dir + 8 * a) 8
  (leAt b 0 4, leAt b 4 2)

/-- Address of a directory entry. -/
def GraftEntry.entryAddr (e : GraftEntry) (n : Nat) : Nat := e.dir + 64 * ceilDiv e.nb 8 + 16 * n

/-- A row of the directory as the job reads it. -/
def dirRow (s : State) (q : PlotId) (j : Job) (e : GraftEntry) (a : Nat) : DirRow :=
  let h := rowHead s q j e a
  { clean := leNat (jobBytes s q j (e.dir + 8 * a + 6) 2) == 0 && decide (h.2 ≤ e.nb),
    entries := (List.range h.2).map (fun n =>
      let b := jobBytes s q j (e.entryAddr (h.1 + n)) 16
      (leAt b 0 2, leAt b 8 8, zeroAt b 2 6)) }

/-- Strictly ascending. -/
def ascending : List Nat → Bool
  | a :: b :: l => decide (a < b) && ascending (b :: l)
  | _ => true

/-- Does a row pass the checks of R178? -/
def DirRow.ok (r : DirRow) (nb : Nat) : Bool :=
  r.clean && ascending (r.entries.map (·.1)) &&
    r.entries.all (fun x => decide (x.1 < nb) && x.2.2 && decide (x.2.1 % 64 = 0))

/-- Address of the record of a pair, if present. -/
def recordAddr (s : State) (q : PlotId) (j : Job) (e : GraftEntry) (a b : Nat) : Option Nat :=
  ((dirRow s q j e a).entries.find? (fun x => decide (x.1 = b))).map (·.2.1)

/-- A row is read and checked (R178); a bad one abandons the job with IMAGE. -/
def readRow (q : PlotId) (j : Job) (e : GraftEntry) (node : Option NodeId) (a : Nat) (s : State) (k : State → State) : State :=
  withReads s q j [(e.dir + 8 * a, 8)] node (fun s =>
    let h := rowHead s q j e a
    if e.nb < h.2 then chargeFault s q j.idx .image node
    else withReads s q j [(e.entryAddr h.1, 16 * h.2)] node (fun s =>
      if (dirRow s q j e a).ok e.nb then k s else chargeFault s q j.idx .image node))

/-! ### Steps that take the problem in parts (R180, R185, R189)

A step that reads more of the problem than the plot's cache frames hold goes on part by part: what is done is kept in the
plot's GrfScan, and where a page is not resident the step waits and the command goes on from there (R116). -/

/-- A part of a step: it goes on with the rest, or waits, or faults the job. -/
abbrev GraftPart : Type := State → (State → State) → State

/-- Change how far the step has come. -/
def State.modScan (s : State) (q : PlotId) (f : GrfScan → GrfScan) : State :=
  s.modGrf q (fun g => { g with scan := g.scan.map f })

/-- How far the step has come; the start where none is under way. -/
def scanOf (s : State) (q : PlotId) : GrfScan := ((s.plot q).grf.scan).getD {}

/-- The parts of a row, one after another. -/
def runParts (q : PlotId) : List GraftPart → State → (State → State) → State
  | [], s, k => k s
  | f :: fs, s, k => f s (fun s => runParts q fs (s.modScan q (fun x => { x with item := x.item + 1 })) k)

/-- Rows (their place, their block), one after another: each is read and checked, then its parts not yet done are taken. -/
def runRows (q : PlotId) (j : Job) (e : GraftEntry) (node : Nat → Option NodeId) (parts : State → Nat → Nat → List GraftPart) :
    List (Nat × Nat) → State → (State → State) → State
  | [], s, k => k s
  | (r, a) :: rest, s, k =>
    readRow q j e (node r) a s (fun s =>
      runParts q ((parts s r a).drop (scanOf s q).item) s (fun s =>
        runRows q j e node parts rest (s.modScan q (fun x => { x with row := x.row + 1, item := 0 })) k))

/-- The rows not yet done, from where the step has come to. -/
def runFrom (q : PlotId) (j : Job) (e : GraftEntry) (node : Nat → Option NodeId) (parts : State → Nat → Nat → List GraftPart)
    (blocks : List Nat) (s : State) (k : State → State) : State :=
  runRows q j e node parts (((List.range blocks.length).zip blocks).drop (scanOf s q).row) s k

/-- A record's couplings as a tile that reads them: shifts from its table, the plot's codebook (R178). -/
def recordTile (e : GraftEntry) (cb : List Int) (record : List Byte) : AnTile :=
  { format := e.format, v := 512, cb := cb, shifts := record.drop e.coupBytes }

/-- J of a record by row and column (R178, R125). -/
def recordJ (e : GraftEntry) (t : AnTile) (record : List Byte) (row col : Nat) : Int :=
  let st := colStride 512 e.format
  coupling t 512 ((record.drop (col * st)).take st) row col

/-- The codebook of the plot's TILE entries (R178). -/
def graftBook (s : State) (q : PlotId) (j : Job) (x : Section) : List Int :=
  match (tileEntries x)[0]? with
  | none => []
  | some t => if t.format = 2 then [] else
      (List.range t.cbSize).map (fun i => signed 16 (leNat (jobBytes s q j (t.cb + 2 * i) 2)))

/-- Spins of a block from the state table, as +1 and -1 (R179). -/
def blockSpins (s : State) (q : PlotId) (j : Job) (e : GraftEntry) (a : Nat) : List Int :=
  let b := jobBytes s q j (e.state + 64 * a) 64
  (List.range 512).map (fun r => spinVal (bitOf ((b[r / 8]?).getD 0).toNat (r % 8)))

/-- Biases of a block (R179). -/
def blockBias (s : State) (q : PlotId) (j : Job) (e : GraftEntry) (a : Nat) : List Int :=
  (List.range 512).map (fun r => signed 32 (leNat (jobBytes s q j (e.bias + 2048 * a + 4 * r) 4)))

/-- Product sum of two lists. -/
def dotInt (a b : List Int) : Int := sumInt ((a.zip b).map (fun x => x.1 * x.2))

/-- Contribution of a record to a row, over a list of columns. -/
def recordRow (e : GraftEntry) (t : AnTile) (record : List Byte) (row : Nat) (spins : List Int) (cols : List Nat) : Int :=
  sumInt (cols.map (fun c => recordJ e t record row c * (spins[c]?).getD 0))

/-- The columns of shift group g of a record. -/
def groupCols (g : Nat) : List Nat := (List.range 64).map (fun c => 64 * g + c)

/-- The codebook's range (R178). -/
def bookRange (x : Section) : List (Nat × Nat) :=
  match (tileEntries x)[0]? with
  | some t => if t.format = 2 then [] else [(t.cb, 2 * t.cbSize)]
  | none => []

/-- What a matrix engine reads of a record for one shift group: its columns and the shift table (R178, R206). -/
def GraftEntry.groupReads (e : GraftEntry) (addr g : Nat) : List (Nat × Nat) :=
  let st := colStride 512 e.format
  [(addr + 64 * g * st, 64 * st), (addr + e.coupBytes, 2048)]

/-- Multiply-accumulates of one shift group of a record in spin mode (R206, R213; DEDUCED, log entry 194). -/
def groupMacs : Nat := 512 * 64

/-! ### The whole-problem energy (R180, R124) -/

/-- Sum of J s s over the columns of one shift group of a present pair a ≤ b, once per pair of variables. -/
def groupEnergy (s : State) (q : PlotId) (j : Job) (e : GraftEntry) (cb : List Int) (a b addr g : Nat) : Int :=
  let record := jobBytes s q j addr e.recordBytes
  let t := recordTile e cb record
  let sb := blockSpins s q j e b
  dotInt (blockSpins s q j e a) ((List.range 512).map (fun r =>
    recordRow e t record r sb ((groupCols g).filter (fun c => decide (a < b) || decide (r < c)))))

/-- Sum of b s over a block. -/
def blockEnergy (s : State) (q : PlotId) (j : Job) (e : GraftEntry) (a : Nat) : Int :=
  dotInt (blockBias s q j e a) (blockSpins s q j e a)

/-- The entries of a row that the energy takes: pairs a ≤ b (R189). -/
def upperEntries (s : State) (q : PlotId) (j : Job) (e : GraftEntry) (a : Nat) : List (Nat × Nat) :=
  ((dirRow s q j e a).entries.filter (fun x => decide (a ≤ x.1))).map (fun x => (x.1, x.2.1))

/-- E_full of the state table (R124 over all TOTAL variables). -/
def fullEnergy (s : State) (q : PlotId) (j : Job) (e : GraftEntry) (cb : List Int) : Int :=
  0 - sumInt ((List.range e.nb).map (fun a => blockEnergy s q j e a +
    sumInt ((upperEntries s q j e a).map (fun y =>
      sumInt ((List.range 8).map (groupEnergy s q j e cb a y.1 y.2))))))

/-- A sum of a step grows. -/
def State.addScan (s : State) (q : PlotId) (v : Int) : State := s.modScan q (fun x => { x with sum := x.sum + v })

/-- What the energy of block a reads (R179). -/
def GraftEntry.blockReads (e : GraftEntry) (a : Nat) : List (Nat × Nat) := [(e.bias + 2048 * a, 2048), (e.state + 64 * a, 64)]

/-- The part of the energy that is block a's biases. -/
def blockPart (q : PlotId) (j : Job) (e : GraftEntry) (node : Option NodeId) (a : Nat) : GraftPart := fun s k =>
  withReads s q j (e.blockReads a) node (fun s => k (s.addScan q (blockEnergy s q j e a)))

/-- What the energy of one shift group of a pair reads. -/
def GraftEntry.energyReads (e : GraftEntry) (x : Section) (a b addr g : Nat) : List (Nat × Nat) :=
  bookRange x ++ [(e.state + 64 * a, 64), (e.state + 64 * b, 64)] ++ e.groupReads addr g

/-- The part of the energy that is one shift group of a pair. -/
def groupPart (q : PlotId) (j : Job) (e : GraftEntry) (x : Section) (node : Option NodeId) (a b addr g : Nat) : GraftPart :=
  fun s k => withReads s q j (e.energyReads x a b addr g) node (fun s =>
    k (countMacs (s.addScan q (groupEnergy s q j e (graftBook s q j x) a b addr g)) q groupMacs))

/-- The parts of the energy of a row (R180, R189). -/
def energyParts (q : PlotId) (j : Job) (e : GraftEntry) (x : Section) (node : Option NodeId) (s : State) (a : Nat) :
    List GraftPart :=
  blockPart q j e node a :: (upperEntries s q j e a).flatMap (fun y =>
    (List.range 8).map (groupPart q j e x node a y.1 y.2))

/-! ### Scratch (R177) -/

/-- Scratch ranges of a TILE entry of a grafted plot. -/
def scratchOf (e : GraftEntry) (t : TileEntry) : List (Nat × Nat) :=
  [(t.coup, e.w * e.coupBytes), (t.shift, 2048 * e.w), (t.bias, 2048), (t.spin, 64)]

/-- Pages of a list of ranges. -/
def pagesOfAll (l : List (Nat × Nat)) : List Nat := l.flatMap (fun r => pagesOf r.1 r.2)

/-- The first tile whose scratch lies on one of some pages. -/
def scratchOn (e : GraftEntry) (x : Section) (pages : List Nat) : Option Nat :=
  ((tileEntries x).find? (fun t => (pagesOfAll (scratchOf e t)).any pages.contains)).map (·.tile)

/-- The tile whose scratch lies outside home pages of its own slice, or shares a page with another tile's scratch, the row
headers of the directory, or a table (R177). -/
def badScratch (s : State) (q : PlotId) (e : GraftEntry) (x : Section) : Option Nat :=
  let ts := tileEntries x
  let setBytes := 64 * ceilDiv (2 * e.w) 64
  let tables := pagesOfAll [(e.dir, 8 * e.nb), (e.bias, 4 * e.total), (e.state, e.total / 8), (e.best, e.total / 8),
    (e.list, e.listLen * setBytes)]
  (ts.find? (fun t =>
    let mine := pagesOfAll (scratchOf e t)
    let others := pagesOfAll ((ts.filter (fun u => u.tile != t.tile)).flatMap (scratchOf e))
    !mine.all (fun p => match region s.cfg.content q.val (s.plot q).msh (65536 * p) with
      | .tile k _ => k == t.tile
      | _ => false) ||
    mine.any (fun p => tables.contains p || others.contains p))).map (·.tile)

/-- The pages of a row's directory entries and records (R177). -/
def rowPages (s : State) (q : PlotId) (j : Job) (e : GraftEntry) (a : Nat) : List Nat :=
  let h := rowHead s q j e a
  pagesOfAll ((e.entryAddr h.1, 16 * h.2) :: (dirRow s q j e a).entries.map (fun y => (y.2.1, e.recordBytes)))

/-- The check of R177 against a row's entries and records. -/
def scratchPart (q : PlotId) (j : Job) (e : GraftEntry) (x : Section) (a : Nat) : GraftPart := fun s k =>
  match scratchOn e x (rowPages s q j e a) with
  | some t => chargeFault s q j.idx .image (tileNodeOf s q t)
  | none => k s

/-! ### The graft cycle (R180 to R189) -/

/-- The state table is copied to the best table (R180, R189). -/
def bestWrite (s : State) (q : PlotId) (j : Job) (e : GraftEntry) : List (Nat × List Byte) :=
  [(e.best, jobBytes s q j e.state (e.total / 8))]

/-- A full pass is over (R180): the fabric holds the energy, and the attempt's grafts may follow. -/
def fullPassDone (s : State) (q : PlotId) (i : BitVec 16) (x : Section) : State :=
  let en := 0 - (scanOf s q).sum
  let s := s.modAn q (fun p => startFabric p i x.param [] en (schedOf x))
  (s.modGrf q (fun g => { g.clear with phase := 1 })).modJob q i (fun j => { j with passed := true })

/-- The full pass at the start of a grafted attempt (R180), once per attempt, part by part. -/
def graftFullPass (s : State) (q : PlotId) (i : BitVec 16) : State :=
  match runningJob s q i, graftOf s q with
  | some j, some (e, x) =>
    if j.passed then s
    else
      let node := mxeNodeOf s q 0
      let s := if (s.plot q).an.job == i then s else takeFabric s q i
      let s := if (s.plot q).grf.scan.isSome then s else
        (s.modAn q (fun p => { p with state := .init })).modGrf q (fun g => { g.clear with phase := 1, scan := some {} })
      match badScratch s q e x with
      | some t => chargeFault s q i .image (tileNodeOf s q t)
      | none =>
        runFrom q j e (fun _ => node) (fun s _ a => scratchPart q j e x a :: energyParts q j e x node s a) (List.range e.nb) s
          (fun s => withReads s q j [(e.state, e.total / 8)] node (fun s =>
            withWrites s q j (bestWrite s q j e) node (fun s => fullPassDone s q i x)))
  | _, _ => s

/-- Blocks of the previous scion by most flips, ties to the lower block number (R182). -/
def retained (slots flips : List Nat) (n : Nat) : List Nat :=
  let l := (slots.zip flips).filter (fun x => decide (0 < x.2))
  ((l.mergeSort (fun a b => decide (b.2 < a.2) || (decide (a.2 = b.2) && decide (a.1 ≤ b.1)))).take n).map (·.1)

/-- Blocks met by stepping the cursor upward, retained ones passed over (R182): the blocks taken and the cursor's rest. -/
def fillScion (nb : Nat) (keep : List Nat) : Nat → Nat → Nat → List Nat × Nat
  | 0, _, c => ([], c)
  | fuel + 1, need, c =>
    if need = 0 then ([], c)
    else if keep.contains c then fillScion nb keep fuel need ((c + 1) % max nb 1)
    else
      let r := fillScion nb keep fuel (need - 1) ((c + 1) % max nb 1)
      (c :: r.1, r.2)

/-- X_g and the cursor afterwards, by policy (R182); none for a LIST set that is not distinct or not below NB. -/
def chooseScion (s : State) (q : PlotId) (j : Job) (e : GraftEntry) (r : GrfPlot) (g : Nat) : Option (List Nat × Nat) :=
  match e.policy with
  | 0 => some ((List.range e.w).map (fun k => (g * e.stride + k) % max e.nb 1), g * e.stride % max e.nb 1)
  | 1 =>
    let a := e.list + 64 * ceilDiv (2 * e.w) 64 * (g % max e.listLen 1)
    let l := (List.range e.w).map (fun k => leNat (jobBytes s q j (a + 2 * k) 2))
    if noDup l && l.all (fun b => decide (b < e.nb)) then some (l, 0) else none
  | _ =>
    if g = 0 then some (List.range e.w, e.w % max e.nb 1)
    else
      let keep := retained r.slots r.flips e.retain
      let f := fillScion e.nb keep (2 * e.nb) (e.w - keep.length) r.cursor
      some (keep ++ f.1, f.2)

/-- Slots of a scion (R181): blocks that stay keep theirs, entering ones take the free slots in ascending order. -/
def placeScion (old new : List Nat) (w : Nat) : List Nat :=
  let sorted := new.mergeSort (fun a b => decide (a ≤ b))
  let entering := sorted.filter (fun b => !old.contains b)
  ((List.range w).foldl (fun (x : List Nat × List Nat) k =>
    match old[k]? with
    | some b => if new.contains b then (x.1 ++ [b], x.2) else
        (match x.2 with | e :: es => (x.1 ++ [e], es) | [] => (x.1 ++ [b], []))
    | none => (match x.2 with | e :: es => (x.1 ++ [e], es) | [] => (x.1, []))) ([], entering)).1

/-- A helper cluster that runs no call chooses the next scion (R182, R208). -/
def graftSelect (s : State) (q : PlotId) (i : BitVec 16) (h : HccId) : State :=
  match runningJob s q i, graftOf s q with
  | some j, some (e, _) =>
    let r := (s.plot q).grf
    let node := some (mkNode (nodeOf .hcc h.val))
    if !(s.hccs[h] == {}) || r.scan.isSome || r.auditDue || !(r.phase == 1 || r.phase == 6) then s
    else
      let g := if r.phase == 1 then 0 else r.g + 1
      let setBytes := 64 * ceilDiv (2 * e.w) 64
      let reads := if e.policy = 1 then [(e.list + setBytes * (g % max e.listLen 1), 2 * e.w)] else []
      withReads s q j reads node (fun s =>
        match chooseScion s q j e r g with
        | none => chargeFault s q i .image node
        | some (xs, cur) => (s.modGrf q (fun r => { r with
            phase := 2, g := g, cursor := cur, prev := r.slots,
            slots := placeScion (if g = 0 then [] else r.slots) xs e.w })).modMxeCnt q
              (fun c => { c with call := satInc c.call }))
  | _, _ => s

/-! ### The stage (R183, R185) -/

/-- The slot pairs (k, m) of slot k whose record is present (R185). -/
def rowPairs (s : State) (q : PlotId) (j : Job) (e : GraftEntry) (slots : List Nat) (k a : Nat) : List (Nat × Nat) :=
  (List.range slots.length).filterMap (fun m =>
    if (dirRow s q j e a).entries.any (fun y => decide (slots[m]? = some y.1)) then some (k, m) else none)

/-- Rootstock records of a block: (block b, address) for b outside the scion (R183). -/
def rootRecords (s : State) (q : PlotId) (j : Job) (e : GraftEntry) (slots : List Nat) (a : Nat) : List (Nat × Nat) :=
  ((dirRow s q j e a).entries.filter (fun x => !slots.contains x.1)).map (fun x => (x.1, x.2.1))

/-- Contribution of one shift group of a rootstock record to the rows of a block (R183). -/
def groupBias (s : State) (q : PlotId) (j : Job) (e : GraftEntry) (cb : List Int) (b addr g : Nat) : List Int :=
  let record := jobBytes s q j addr e.recordBytes
  let t := recordTile e cb record
  let sb := blockSpins s q j e b
  (List.range 512).map (fun r => recordRow e t record r sb (groupCols g))

/-- Row by row sum. -/
def addRows (a b : List Int) : List Int := (List.range 512).map (fun r => (a[r]?).getD 0 + (b[r]?).getD 0)

/-- G of the rows of a block (R183). -/
def rootBias (s : State) (q : PlotId) (j : Job) (e : GraftEntry) (cb : List Int) (slots : List Nat) (a : Nat) : List Int :=
  (rootRecords s q j e slots a).foldl (fun g y =>
    (List.range 8).foldl (fun g k => addRows g (groupBias s q j e cb y.1 y.2 k)) g) (List.replicate 512 0)

/-- The part of slot k's bias that is one shift group of a rootstock record; the engine k mod MXE_CNT assembles it. -/
def biasPart (q : PlotId) (j : Job) (e : GraftEntry) (x : Section) (k b addr g : Nat) : GraftPart := fun s c =>
  withReads s q j (bookRange x ++ [(e.state + 64 * b, 64)] ++ e.groupReads addr g) (mxeNodeOf s q k) (fun s =>
    let v := groupBias s q j e (graftBook s q j x) b addr g
    c (countMacs (s.modGrf q (fun r => { r with root := r.root.set k (addRows ((r.root[k]?).getD []) v) })) q groupMacs))

/-- Compass writes scratch (R177), in place; part of a poisoned line faults the job (R119). -/
def writeScratch (q : PlotId) (j : Job) : List (Nat × List Byte) → State → (State → State) → State
  | [], s, c => c s
  | w :: ws, s, c =>
    match partPoison s q j w.1 w.2.length with
    | some m => chargeFault s q j.idx .engine (some m)
    | none => writeScratch q j ws (s.pokeHome q w.1 w.2) c

/-- A shift group's columns of a record stream into tile k's column store for slot m (R185). -/
def streamPart (q : PlotId) (j : Job) (e : GraftEntry) (t : TileEntry) (m addr g : Nat) : GraftPart := fun s c =>
  let st := colStride 512 e.format
  withReads s q j [(addr + 64 * g * st, 64 * st)] (tileNodeOf s q t.tile) (fun s =>
    writeScratch q j [(t.coup + m * e.coupBytes + 64 * g * st, jobBytes s q j (addr + 64 * g * st) (64 * st))] s c)

/-- A record's shift rows land in tile k's shift table at nibbles 8m to 8m + 7 of each row (R185). -/
def shiftPart (q : PlotId) (j : Job) (e : GraftEntry) (t : TileEntry) (m addr : Nat) : GraftPart := fun s c =>
  withReads s q j [(addr + e.coupBytes, 2048)] (tileNodeOf s q t.tile) (fun s =>
    writeScratch q j ((List.range 512).map (fun r =>
      (t.shift + r * 4 * e.w + 4 * m, jobBytes s q j (addr + e.coupBytes + 4 * r) 4))) s c)

/-- A tile's biases and initial spins are written from the bias and state tables (R185). -/
def tablesPart (q : PlotId) (j : Job) (e : GraftEntry) (t : TileEntry) (a : Nat) : GraftPart := fun s c =>
  withReads s q j (e.blockReads a) (tileNodeOf s q t.tile) (fun s =>
    writeScratch q j [(t.bias, jobBytes s q j (e.bias + 2048 * a) 2048), (t.spin, jobBytes s q j (e.state + 64 * a) 64)] s c)

/-- The bias of slot k is delivered to its tile by all-or-nothing multicast (R106, R185): reservation, 4,096 bytes of bias,
landing. A slot without a rootstock pair receives none. -/
def deliverPart (q : PlotId) (k : Nat) (roots : Bool) : GraftPart := fun s c =>
  match roots, mxeNodeOf s q k, tileNodeOf s q k with
  | true, some m, some t =>
    let l := packetLinks m.val t.val
    c (((s.emit (.mesh m [t] 3 1 l)).emit (.mesh m [t] 1 64 l)).emit (.landed m t 1 64))
  | _, _, _ => c s

/-- The pairs of slot k are noted in the presence masks (R185). -/
def presentPart (q : PlotId) (l : List (Nat × Nat)) : GraftPart := fun s c =>
  c (s.modGrf q (fun r => { r with present := r.present ++ l }))

/-- Does the tile of slot k hold the record of the pair (k, m) from the previous graft (R185)? -/
def GrfPlot.loaded (r : GrfPlot) (k m : Nat) : Bool :=
  decide (r.prev[k]? = r.slots[k]?) && decide (r.prev[m]? = r.slots[m]?)

/-- The parts of slot k's stage, block a (R183, R185). -/
def stageParts (q : PlotId) (j : Job) (e : GraftEntry) (x : Section) (r : GrfPlot) (s : State) (k a : Nat) : List GraftPart :=
  let roots := rootRecords s q j e r.slots a
  let present := rowPairs s q j e r.slots k a
  let tile := (tileEntries x)[k]?
  let streams := present.flatMap (fun y =>
    if r.loaded k y.2 then []
    else match tile, recordAddr s q j e a ((r.slots[y.2]?).getD 0) with
      | some t, some addr => (List.range 8).map (streamPart q j e t y.2 addr) ++ [shiftPart q j e t y.2 addr]
      | _, _ => [])
  [presentPart q present] ++ streams ++
    roots.flatMap (fun y => (List.range 8).map (biasPart q j e x k y.1 y.2)) ++
    (match tile with | some t => [tablesPart q j e t a] | none => []) ++ [deliverPart q k (!roots.isEmpty)]

/-- Stage (R185): records, tables and rootstock bias are brought to the tiles, slot by slot and part by part. -/
def graftStage (s : State) (q : PlotId) (i : BitVec 16) : State :=
  match runningJob s q i, graftOf s q with
  | some j, some (e, x) =>
    let r := (s.plot q).grf
    if !(r.phase == 2 || (r.phase == 3 && r.scan.isSome)) then s
    else
      let s := if r.phase == 2 then s.modGrf q (fun r => { r with
          phase := 3, scan := some {}, root := r.slots.map (fun _ => List.replicate 512 0), present := [] }) else s
      runFrom q j e (fun k => mxeNodeOf s q k) (fun s k a => stageParts q j e x r s k a) r.slots s (fun s =>
        s.modGrf q (fun r => { r with
          scan := none, gMax := BitVec.ofNat 56 (max r.gMax.toNat ((r.root.flatMap (fun l => l.map Int.natAbs)).foldl max 0)) }))
  | _, _ => s

/-- A slot's presence mask (R185). -/
def GrfPlot.mask (r : GrfPlot) (k : Nat) : List Nat := (r.present.filter (fun p => decide (p.1 = k))).map (·.2)

/-- The tiles of a graft's pass: their tables, rootstock bias and presence masks. -/
def graftTiles (s : State) (q : PlotId) (j : Job) (r : GrfPlot) (n : Nat) (es : List TileEntry) : List AnTile :=
  (es.map (loadTile s q j n)).map (fun t => { t with root := (r.root[t.idx]?).getD [], mask := some (r.mask t.idx) })

/-- The pass of a graft (R186): steps 1 and 2 of R131 with G in each field, OFFSET from the tracked energy; energy, best
energy, best buffers and sweep count stay. -/
def graftPass (s : State) (q : PlotId) (i : BitVec 16) : State :=
  match runningJob s q i, graftOf s q with
  | some j, some (e, x) =>
    let r := (s.plot q).grf
    if r.phase != 3 || r.scan.isSome then s
    else
      let es := tileEntries x
      let n := x.param
      match es.find? (fun y => !inSlice y.tile y.coup) with
      | some y => chargeFault s q i .image (tileNodeOf s q y.tile)
      | none =>
        readTiles q j (es.map (fun y => (y, tileTables n y))) s (fun s =>
          let ts := graftTiles s q j r n es
          match (es.zip ts).find? (fun y => !isPerm y.2.order y.1.v) with
          | some b => chargeFault s q i .image (tileNodeOf s q b.1.tile)
          | none =>
            readTiles q j (es.map (fun y => (y, tileColumns n (some (r.mask y.tile)) y))) s (fun s =>
              let spins := spinVec ts n
              let ms := ts.map (tileMatrix s q j n)
              let old := (s.plot q).an.tiles
              let ts := (ts.zip ms).map (fun tm => { tm.1 with
                fields := freshFields spins tm.1 tm.2, queue := [], ptr := 0, flips := 0,
                best := ((old.find? (fun t => t.idx == tm.1.idx)).map (·.best)).getD [] })
              let sc := schedOf x
              let s := s.modAn q (fun p =>
                let p := { p with
                  state := .idle, tiles := ts, offset := p.energy - freshEnergy ts ms spins, bestNew := false, rho := 0,
                  inflight := [], slot := 0 }
                if e.restart && decide (0 < r.g) then
                  { p with b := sc.start, left := (sc.bearing sc.start).2.2, sigma := 0, c := 0, m := p.energy }
                else p)
              s.modGrf q (fun r => { r with
                phase := 4, harvestAt := none,
                rotCyc := match r.harvestAt with
                  | some t => satAdd 0 (s.fclkCycles - t)
                  | none => r.rotCyc })))
  | _, _ => s

/-- 64 bytes of 512 spins (R179). -/
def spinBytes (l : List Bool) : List Byte :=
  (List.range 64).map (fun k => BitVec.ofNat 8 ((List.range 8).foldl (fun v b =>
    v + b2n ((l[8 * k + b]?).getD false) * 2 ^ b) 0))

/-- A vector table with the blocks of some slots replaced. -/
def replaceBlocks (table : List Byte) (slots : List Nat) (parts : List (List Byte)) : List Byte :=
  (slots.zip parts).foldl (fun t x => t.take (64 * x.1) ++ x.2 ++ t.drop (64 * x.1 + 64)) table

/-- Harvest after a graft's run (R188). -/
def graftHarvest (s : State) (q : PlotId) (i : BitVec 16) : State :=
  match runningJob s q i, graftOf s q with
  | some j, some (e, _) =>
    let r := (s.plot q).grf
    let p := (s.plot q).an
    if p.state != .idle || !(r.phase == 5 || (r.phase == 6 && r.scan.isSome && !r.auditDue)) then s
    else
      let s := if r.phase == 5 then
          s.modGrf q (fun r => { r with phase := 6, scan := some {}, harvestAt := some s.fclkCycles }) else s
      let table := jobBytes s q j e.state (e.total / 8)
      let best := (e.best, replaceBlocks table r.slots (p.tiles.map (fun t => spinBytes t.best)))
      let blocks := (r.slots.zip p.tiles).map (fun x => (e.state + 64 * x.1, spinBytes x.2.spins))
      withReads s q j [(e.state, e.total / 8)] (tileNodeOf s q 0) (fun s =>
        withWrites s q j ((if p.bestNew then [best] else []) ++ blocks) (tileNodeOf s q 0) (fun s =>
          let s := s.modAn q (fun p => { p with bestNew := false, tiles := p.tiles.map (fun t => { t with queue := [] }) })
          let s := s.modGrf q (fun r => { r with
            scan := none, count := satInc r.count, flips := p.tiles.map (·.flips),
            auditDue := decide (e.fullAudit ≠ 0 ∧ (r.g + 1) % e.fullAudit = 0) })
          { s with devGraft := satInc s.devGraft }))
  | _, _ => s

/-- What a full audit's mismatch changes (R189): the register, the difference and its count, the completion record's AUDIT bit,
the cause, one line per frame; a better energy is captured with the tiles' spins (R144). -/
def auditFound (s : State) (q : PlotId) (i : BitVec 16) (en : Int) : State :=
  let delta := BitVec.ofInt 64 (clampInt (-(2 ^ 63)) (2 ^ 63 - 1) (en - (s.plot q).an.energy))
  let logged := (s.plot q).grf.logged
  let s := s.modAn q (fun p => { (captureBest { p with energy := en }) with bestNew := p.bestNew })
  let s := s.modGrf q (fun r => { r with auditDue := false, scan := none, fullDelta := delta, fullAudit := satInc r.fullAudit })
  let s := s.modJob q i (fun j => { j with audit := true })
  let s := s.raisePlot q 0x400
  if logged then s.logSuppressed
  else (s.modGrf q (fun r => { r with logged := true })).logLine 0x14 q.val none 0 delta.toNat

/-- The full audit after a harvest (R189), part by part. -/
def graftAudit (s : State) (q : PlotId) (i : BitVec 16) : State :=
  match runningJob s q i, graftOf s q with
  | some j, some (e, x) =>
    if !(s.plot q).grf.auditDue then s
    else
      let node := mxeNodeOf s q 0
      let s := if (s.plot q).grf.scan.isSome then s else s.modGrf q (fun r => { r with scan := some {} })
      runFrom q j e (fun _ => node) (fun s _ a => energyParts q j e x node s a) (List.range e.nb) s (fun s =>
        let en := 0 - (scanOf s q).sum
        let p := (s.plot q).an
        if en = p.energy then s.modGrf q (fun r => { r with auditDue := false, scan := none })
        else if en < p.bestEnergy then
          withReads s q j [(e.state, e.total / 8)] node (fun s =>
            withWrites s q j (bestWrite s q j e) node (fun s => auditFound s q i en))
        else auditFound s q i en)
  | _, _ => s

/-- A grafted plot's run (R180, R187): GRAFT_SWEEPS sweeps after its pass; any other plot's run as R145 has it. -/
def startRun (s : State) (q : PlotId) (i : BitVec 16) (sweeps : Nat) (bearing : Option Nat) : State :=
  match graftOf s q with
  | none => runStart s q i sweeps bearing
  | some (e, _) =>
    if (s.plot q).grf.phase != 4 then s
    else
      let s := runStart s q i e.sweeps bearing
      if (s.plot q).an.state == .run then s.modGrf q (fun r => { r with phase := 5 }) else s

/-- GRF_PINFO as a latch takes it (Table 7-6). -/
def graftInfo (s : State) (q : PlotId) : Nat :=
  match graftOf s q with
  | none => 0
  | some (e, _) =>
    2 ^ 31 + 2 ^ 30 * b2n e.ahead + 2 ^ 29 * b2n e.restart + 2 ^ 26 * (e.format % 4) + 2 ^ 24 * (e.policy % 4) +
      4096 * (e.w % 128) + e.nb % 4096

/-- What the GRF registers latch in step 2 (R192). -/
def GrfPlot.latch (g : GrfPlot) (offset : Int) (info : Nat) : GrfPlot :=
  { g with shown := { g.shown with
      info := BitVec.ofNat 32 info,
      phase := g.phase, count := g.count, cursor := g.cursor, slots := g.slots, flips := g.flips,
      offset := BitVec.ofInt 72 offset, fullDelta := g.fullDelta, fullAudit := g.fullAudit, gMax := g.gMax,
      rotCyc := g.rotCyc } }

/-! ### Meanings -/

/-- ANNEAL_INITIAL_PASS (R131). -/
def execAnnealInitialPass (q : PlotId) (idx : BitVec 16) (s : State) : Result := .next (initialPass s q idx)

/-- ANNEAL_RUN_START (R145). -/
def execAnnealRunStart (q : PlotId) (idx : BitVec 16) (sweeps : Nat) (bearing : Option Nat) (s : State) : Result :=
  .next (startRun s q idx sweeps bearing)

/-- FLIP_SLOT (R135, R137). -/
def execFlipSlot (q : PlotId) (idx : BitVec 16) (s : State) : Result := .next (flipSlot s q idx)

/-- SWEEP_COMPLETE (R133, R162). -/
def execSweepComplete (q : PlotId) (idx : BitVec 16) (s : State) : Result := .next (sweepStep s q idx)

/-- ENERGY_AUDIT (R142). -/
def execEnergyAudit (q : PlotId) (idx : BitVec 16) (bad : Option Nat) (s : State) : Result := .next (audit s q idx bad)

/-- STALL_WINDOW_END (R163). -/
def execStallWindowEnd (q : PlotId) (idx : BitVec 16) (s : State) : Result := .next (stallEnd s q idx)

/-- BEARING_PERIOD_END (R162). -/
def execBearingPeriodEnd (q : PlotId) (idx : BitVec 16) (s : State) : Result := .next (bearingEnd s q idx)

/-- ANNEAL_RUN_END (R145). -/
def execAnnealRunEnd (q : PlotId) (idx : BitVec 16) (s : State) : Result := .next (runEnd s q idx)

/-- GRAFT_FULL_PASS (R180). -/
def execGraftFullPass (q : PlotId) (idx : BitVec 16) (s : State) : Result := .next (graftFullPass s q idx)

/-- GRAFT_SELECT (R182). -/
def execGraftSelect (q : PlotId) (idx : BitVec 16) (cluster : HccId) (s : State) : Result :=
  .next (graftSelect s q idx cluster)

/-- GRAFT_STAGE (R185). -/
def execGraftStage (q : PlotId) (idx : BitVec 16) (s : State) : Result := .next (graftStage s q idx)

/-- GRAFT_PASS (R186). -/
def execGraftPass (q : PlotId) (idx : BitVec 16) (s : State) : Result := .next (graftPass s q idx)

/-- GRAFT_HARVEST (R188). -/
def execGraftHarvest (q : PlotId) (idx : BitVec 16) (s : State) : Result := .next (graftHarvest s q idx)

/-- GRAFT_FULL_AUDIT (R189). -/
def execGraftFullAudit (q : PlotId) (idx : BitVec 16) (s : State) : Result := .next (graftAudit s q idx)

end Sys2Proof.Machine
end

