-- ==== Sys2Proof/Machine/Tensors.lean ====
section
/-!
DEFINITION. Sys2Proof/Machine/Tensors.lean: narrow numbers in plot memory: QUANT entries (Table 9-3), scale codes (R195,
R216), the weight-port and activation-port layouts (R217 to R219), decoding of elements (R214), and binary32.
-/
namespace Sys2Proof.Machine

/-! ### QUANT entries (R220) -/

/-- A QUANT entry's fields (Table 9-3). -/
structure QuantEntry where
  id : Nat
  format : Nat
  group : Nat
  wport : Bool
  rotate : Bool
  outlier : Bool
  rotLog : Nat
  outCount : Nat
  zp : Nat
  emin : Int
  emax : Int
  k : Nat
  cols : Nat
  data : Nat
  scale : Nat
  cb : Nat
  outList : Nat
  outTensor : Nat
deriving DecidableEq, Repr

/-- Read a QUANT entry. -/
def quantEntry (b : List Byte) : QuantEntry :=
  let f := leAt b 4 1
  { id := leAt b 0 2, format := leAt b 2 1, group := leAt b 3 1, wport := bitOf f 0, rotate := bitOf f 1,
    outlier := bitOf f 2, rotLog := leAt b 5 1, outCount := leAt b 6 2, zp := leAt b 8 2, emin := signed 8 (leAt b 10 1),
    emax := signed 8 (leAt b 11 1), k := leAt b 12 4, cols := leAt b 16 4, data := leAt b 24 8, scale := leAt b 32 8,
    cb := leAt b 40 8, outList := leAt b 48 8, outTensor := leAt b 56 2 }

/-- The committed QUANT entry of a plot with a TENSOR_ID. -/
def Content.tensor? (c : Content) (q : Nat) (id : Nat) : Option QuantEntry :=
  match c.sec 0x11 q with
  | none => none
  | some x => (x.entries.map quantEntry).find? (fun e => e.id == id)

/-- Group size of MXE_PCFG.GROUP (R212). -/
def groupSize (g : Nat) : Nat := if g = 0 then 32 else if g = 1 then 64 else 128

/-- The effective group size of an entry for a job (R220, R212). -/
def QuantEntry.gsize (e : QuantEntry) (j : Job) : Nat := if e.group = 0 then groupSize j.group else groupSize (e.group - 1)

/-- Is the format one of activations (A8 or A16)? -/
def QuantEntry.isAct (e : QuantEntry) : Bool := decide (4 ≤ e.format)

/-! ### Scale codes (R195) -/

/-- Mantissa and exponent of a scale code. -/
def scaleCode (w : Nat) : Nat × Int := (w % 1024, signed 6 (w / 1024))

/-- The scale code of a mantissa and an exponent. -/
def scaleWord (m : Nat) (e : Int) : Nat := unsigned 6 e * 1024 + m % 1024

/-! ### Layouts (R217 to R219) -/

/-- Reduction depth of a weight block (Table 8-2). -/
def QuantEntry.kb (e : QuantEntry) : Nat := if e.format = 1 then 256 else 128

/-- Weight blocks along the reduction. -/
def QuantEntry.nkb (e : QuantEntry) : Nat := ceilDiv e.k e.kb

/-- Bytes of a weight block. -/
def QuantEntry.bb (e : QuantEntry) : Nat := if e.format = 2 then 8192 else 16384

/-- Bytes of a scale or parameter entry on the weight port. -/
def QuantEntry.entryBytes (e : QuantEntry) : Nat := if e.isAct then 4 else 2

/-- Does an element take four bits? -/
def QuantEntry.nibbles (e : QuantEntry) : Bool := e.format == 1 || e.format == 2

/-- Byte address of element (reduction index k, column n) of a weight-port tensor (R217). -/
def QuantEntry.wAddr (e : QuantEntry) (k n : Nat) : Nat :=
  let r := k % e.kb
  e.data + (n / 128 * e.nkb + k / e.kb) * e.bb + n % 128 * (e.bb / 128) + (if e.nibbles then r / 2 else r)

/-- Address of the scale entry of reduction index k and column n on the weight port (R218). -/
def QuantEntry.wScale (e : QuantEntry) (g k n : Nat) : Nat :=
  let rb := e.kb / max g 1 * 128 * e.entryBytes
  e.scale + (n / 128 * e.nkb + k / e.kb) * rb + (k % e.kb / max g 1 * 128 + n % 128) * e.entryBytes

/-- Row stride of elements of `b` bytes (R219). -/
def rowStride (k b : Nat) : Nat := 64 * ceilDiv (k * b) 64

/-- Bytes per element on the activation port. -/
def QuantEntry.aBytes (e : QuantEntry) : Nat := if e.format = 5 then 2 else 1

/-- Address of element (row m, reduction index k) of an activation-port tensor (R219). -/
def QuantEntry.aAddr (e : QuantEntry) (m k : Nat) : Nat := e.data + m * rowStride e.k e.aBytes + k * e.aBytes

/-- Address of the parameter entry of row m and reduction index k (R219). -/
def QuantEntry.aParam (e : QuantEntry) (g m k : Nat) : Nat :=
  e.scale + m * (64 * ceilDiv (4 * e.k) (max g 1 * 64)) + 4 * (k / max g 1)

/-- Byte range of a tensor's scale or parameter tensor. -/
def QuantEntry.scaleRange (e : QuantEntry) (g : Nat) : Nat × Nat :=
  if e.wport then (e.scale, ceilDiv e.cols 128 * e.nkb * (e.kb / max g 1 * 128 * e.entryBytes))
  else (e.scale, e.cols * (64 * ceilDiv (4 * e.k) (max g 1 * 64)))

/-- Byte ranges of a tensor: elements, scales or parameters, codebook. -/
def QuantEntry.ranges (e : QuantEntry) (g : Nat) : List (Nat × Nat) :=
  [(e.data, if e.wport then ceilDiv e.cols 128 * e.nkb * e.bb else e.cols * rowStride e.k e.aBytes), e.scaleRange g] ++
  (if e.format = 2 then [(e.cb, 16)] else if e.format = 3 then [(e.cb, 256)] else [])

/-! ### Decoding (R214) -/

/-- Value of `n` bytes as a job reads them. -/
def jobNat (s : State) (q : PlotId) (j : Job) (a n : Nat) : Nat := leNat (jobBytes s q j a n)

/-- A codebook level (R214). -/
def level (s : State) (q : PlotId) (j : Job) (e : QuantEntry) (x : Nat) : Int := signed 8 (jobNat s q j (e.cb + x) 1)

/-- Zero point of a parameter entry: byte 3 is ignored for A8 (R216). -/
def zeroPoint (format : Nat) (w : Nat) : Nat := if format = 5 then w / 65536 % 65536 else w / 65536 % 256

/-- The decoded operand of a weight-port element: w, or d of an A8 tensor (R193, R214). -/
def weightAt (s : State) (q : PlotId) (j : Job) (e : QuantEntry) (g k n : Nat) : Int :=
  if e.k ≤ k ∨ e.cols ≤ n then 0
  else
    let b := jobNat s q j (e.wAddr k n) 1
    let nib := if k % 2 = 0 then b % 16 else b / 16
    match e.format with
    | 0 => signed 8 b
    | 1 => signed 4 nib
    | 2 => level s q j e nib
    | 3 => level s q j e b
    | _ => (b : Int) - (zeroPoint 4 (jobNat s q j (e.wScale g k n) 4) : Int)

/-- Scale code of the group of a weight-port element. -/
def weightScale (s : State) (q : PlotId) (j : Job) (e : QuantEntry) (g k n : Nat) : Nat × Int :=
  scaleCode (jobNat s q j (e.wScale g k n) 2)

/-- The decoded operand d of an activation-port element (R193). -/
def actAt (s : State) (q : PlotId) (j : Job) (e : QuantEntry) (g m k : Nat) : Int :=
  if e.k ≤ k ∨ e.cols ≤ m then 0
  else (jobNat s q j (e.aAddr m k) e.aBytes : Int) - (zeroPoint e.format (jobNat s q j (e.aParam g m k) 4) : Int)

/-- Scale code of the group of an activation-port element. -/
def actScale (s : State) (q : PlotId) (j : Job) (e : QuantEntry) (g m k : Nat) : Nat × Int :=
  scaleCode (jobNat s q j (e.aParam g m k) 2)

/-! ### binary32 (Table 8-3, R226) -/

/-- binary32 of an integer times 2^-64, rounded to 24 bits with ties away from zero (R203). -/
def f32Of (v : Int) : Nat :=
  let n := v.natAbs
  if n = 0 then 0
  else
    let e := Nat.log2 n
    let m := if e ≤ 23 then n * 2 ^ (23 - e) else (n + 2 ^ (e - 24)) / 2 ^ (e - 23)
    let (m, e) := if m = 2 ^ 24 then (2 ^ 23, e + 1) else (m, e)
    (if v < 0 then 2 ^ 31 else 0) + (e + 63) * 2 ^ 23 + (m - 2 ^ 23)

/-- A source value: exact, in units of 2^-256, or not finite (R226). -/
inductive SrcVal where
  | fin (n : Int)
  | nan
  | inf (neg : Bool)
deriving DecidableEq, Repr

/-- The value of a binary32 word. -/
def f32Val (w : Nat) : SrcVal :=
  let e := fieldOf w 30 23
  let f := w % 2 ^ 23
  let neg := bitOf w 31
  if e = 255 then (if f = 0 then .inf neg else .nan)
  else
    let n : Nat := if e = 0 then f * 2 ^ (256 - 149) else (2 ^ 23 + f) * 2 ^ (256 - 150 + e)
    .fin (if neg then -(n : Int) else n)

/-- Strictly ascending and below K (R228)? -/
def outliersOk (l : List Nat) (k : Nat) : Bool :=
  (l.zip (l.drop 1)).all (fun x => decide (x.1 < x.2)) && l.all (fun x => decide (x < k))

end Sys2Proof.Machine
end

