-- ==== Sys2Proof/Machine/Rerank.lean ====
section
/-!
DEFINITION. Sys2Proof/Machine/Rerank.lean: exact distances in X72 on a matrix engine: the query tables of PQ_TABLE (R242) and
RERANK (R252); and the new sectors that SIDE_MERGE builds on a helper cluster (R257).
-/
namespace Sys2Proof.Machine

/-! ### X72 (R5, R196, R197) -/

/-- Is an integer of 2^-32 an X72 value? -/
def inX72 (x : Int) : Bool := fits 72 x

/-- The term of one group (R196): none for a RANGE event of its exponent. A zero scale gives 0 whatever the exponent. -/
def groupTerm (p : Int) (w a : Nat × Int) (pl : Int) : Option Int :=
  if w.1 = 0 ∨ a.1 = 0 then some 0
  else
    let e := w.2 + a.2 + pl + 32
    if e < 0 then none else some (p * w.1 * a.1 * 2 ^ e.toNat)

/-! ### Exact distances (R242, R252) -/

/-- An element of a vector: its decoded operand and the scale code of its group (R193, R195). -/
abbrev VecElem := Int × (Nat × Int)

/-- What a pair of elements adds to a distance, a negated inner product or a squared Euclidean distance, in X72 under a
placement; none for a RANGE event. -/
def distTerm (inner : Bool) (pl : Int) (x y : VecElem) : Option Int :=
  match groupTerm (x.1 * y.1) x.2 y.2 pl with
  | none => none
  | some p =>
    if inner then some (-p)
    else match groupTerm (x.1 * x.1) x.2 x.2 pl, groupTerm (y.1 * y.1) y.2 y.2 pl with
      | some a, some b => some (a - 2 * p + b)
      | _, _ => none

/-- The exact distance of two vectors in X72 (R242, R252); none for a RANGE event. -/
def exactDistance (inner : Bool) (pl : Int) (l : List (VecElem × VecElem)) : Option Int :=
  l.foldl (fun acc z =>
    match acc, distTerm inner pl z.1 z.2 with
    | some a, some t => if inX72 (a + t) then some (a + t) else none
    | _, _ => none) (some 0)

/-- An element of a row of an activation-port tensor. -/
def rowElem (s : State) (q : PlotId) (j : Job) (e : QuantEntry) (row k : Nat) : VecElem :=
  (actAt s q j e (e.gsize j) row k, actScale s q j e (e.gsize j) row k)

/-- An element of a column of a weight-port tensor. -/
def colElem (s : State) (q : PlotId) (j : Job) (e : QuantEntry) (k col : Nat) : VecElem :=
  (weightAt s q j e (e.gsize j) k col, weightScale s q j e (e.gsize j) k col)

/-- What reading one row of an activation-port tensor reads: its elements and its parameters (R219). -/
def QuantEntry.rowRanges (e : QuantEntry) (j : Job) (row : Nat) : List (Nat × Nat) :=
  [(e.aAddr row 0, e.k * e.aBytes), (e.aParam (e.gsize j) row 0, 4 * ceilDiv e.k (max (e.gsize j) 1))]

/-- An activation-port tensor of a plot that holds a row. -/
def actRow (c : Content) (q : PlotId) (id row : Nat) : Option QuantEntry :=
  (c.tensor? q.val id).bind (fun a => if a.isAct && !a.wport && decide (row < a.cols) then some a else none)

/-! ### PQ_TABLE (R242) -/

/-- The tensors of a PQ_TABLE operation: the index, the query vector of its dimension, and 256 centroid columns of that dimension,
each the centroids of one number in every subspace one after the other (DESIGN CHOICE, log entry 217). -/
def pqTensors (c : Content) (q : PlotId) (index query row cents out : Nat) : Option (IndexEntry × QuantEntry × QuantEntry) :=
  match c.index? q.val index, actRow c q query row, c.tensor? q.val cents with
  | some e, some a, some w =>
    if w.wport ∧ 256 ≤ w.cols ∧ w.k = e.dim ∧ a.k = e.dim ∧ out % 64 = 0 then some (e, a, w) else none
  | _, _, _ => none

/-- What a PQ_TABLE operation reads. -/
def pqReads (j : Job) (row : Nat) (t : IndexEntry × QuantEntry × QuantEntry) : List (Nat × Nat) :=
  t.2.1.rowRanges j row ++ t.2.2.ranges (t.2.2.gsize j)

/-- Entry (m, c) of the table: the exact contribution of centroid c of subspace m, rounded once to 16 bits under the query's
shift, saturating (R242, R6); none for a RANGE event. -/
def pqEntry (s : State) (q : PlotId) (j : Job) (row : Nat) (inner : Bool) (pl shift : Int) (t : IndexEntry × QuantEntry × QuantEntry)
    (m c : Nat) : Option Int :=
  let d := t.1.dim / max t.1.m 1
  (exactDistance inner pl ((List.range d).map (fun k =>
    (rowElem s q j t.2.1 row (m * d + k), colElem s q j t.2.2 (m * d + k) c)))).map (fun x =>
      clampInt (-32768) 32767 (roundShift x (-(32 + shift))))

/-- The whole table, entry (m, c) at byte 2 (256 m + c) (R242). -/
def pqTable (s : State) (q : PlotId) (j : Job) (row : Nat) (inner : Bool) (pl shift : Int) (t : IndexEntry × QuantEntry × QuantEntry) :
    Option (List Byte) :=
  ((List.range t.1.m).flatMap (fun m => (List.range 256).map (fun c => pqEntry s q j row inner pl shift t m c))).foldl
    (fun acc x => match acc, x with
      | some bs, some v => some (bs ++ leBytes 2 (unsigned 16 v))
      | _, _ => none) (some [])

/-! ### RERANK (R252) -/

/-- The committed BACKING entry of a plot with an ID. -/
def Content.backingOf (c : Content) (q : PlotId) (id : Nat) : Option Backing := (c.backings q.val).find? (fun b => b.id == id)

/-- The raw vector of result ID i as a tensor of one row: its elements at BASE + i x ROW_BYTES, its parameters those of row i of
the tensor that gives the format. -/
def rawRow (e : QuantEntry) (j : Job) (b : Backing) (rowBytes i : Nat) : QuantEntry :=
  { e with data := b.base + i * rowBytes, scale := e.aParam (e.gsize j) i 0, cols := 1 }

/-- Does a raw row lie in the BACKING entry? -/
def rowInside (e : QuantEntry) (b : Backing) : Bool := decide (e.data + e.k * e.aBytes ≤ b.base + 65536 * b.pages)

/-- The IDs of a result of R248 as it stands in plot memory. -/
def resultIds (bs : List Byte) : List Nat := (List.range (leAt bs 0 2)).map (fun e => leAt bs (64 + 16 * e + 8) 8)

/-- The tensors of a RERANK operation: the rows' BACKING entry and format, and the query vector, of one dimension. -/
def rerankTensors (c : Content) (q : PlotId) (backing rows query row : Nat) : Option (Backing × QuantEntry × QuantEntry) :=
  match c.backingOf q backing, actRow c q rows 0, actRow c q query row with
  | some b, some e, some a => if e.k = a.k then some (b, e, a) else none
  | _, _, _ => none

/-- The exact distance of one raw row (R252); none for a RANGE event. -/
def rerankDistance (s : State) (q : PlotId) (j : Job) (inner : Bool) (pl : Int) (raw a : QuantEntry) (row : Nat) : Option Int :=
  exactDistance inner pl ((List.range a.k).map (fun k => (rowElem s q j raw 0 k, rowElem s q j a row k)))

/-- The first K2 entries by (exact distance, ID) (R252). -/
def rerankKeep (l : List (Int × Nat)) (k2 : Nat) : List (Int × Nat) := l.foldl (fun h c => heapPut h c k2) []

/-- The new result: COUNT, then 32 bytes an entry, the X72 distance in the first 16 and the ID in the next 8 (DESIGN CHOICE, log
entry 218). -/
def rerankBytes (l : List (Int × Nat)) : List Byte :=
  leBytes 64 l.length ++ l.flatMap (fun c => leBytes 16 (unsigned 128 c.1) ++ leBytes 16 c.2)

/-! ### SIDE_MERGE (R257) -/

/-- The entries a merge sees: those before T0 that were visible at its capture (R249, R257). -/
def mergeView (x : IndexState) : List SideEntry := x.entries.filter (fun d => decide (d.pos < x.t0) && x.seen.contains d.epoch)

/-- The records of a partition in the new generation (R257): the surviving records in their old order, then the visible inserts
that are not hidden, in ring order. -/
def mergedRecords (x : IndexState) (m part : Nat) (old : List (Nat × Nat × List Byte)) : List (Nat × Nat × List Byte) :=
  let vis := mergeView x
  old.filter (fun r => !hidden vis r.1 none) ++
    (vis.filter (fun d => !d.del && d.part == part && !hidden vis d.id (some d.pos))).map (fun d => (d.id, d.attr, d.codes.take m))

/-- A sector of Table 10-7. -/
def sectorBytes (sector part m : Nat) (gen : Bool) (rs : List (Nat × Nat × List Byte)) : List Byte :=
  let head := leBytes 4 0x53374E41 ++ leBytes 4 sector ++ leBytes 4 part ++ leBytes 2 rs.length ++ leBytes 1 m ++ leBytes 1 (b2n gen) ++
    List.replicate 44 0
  slice (head ++ leBytes 4 (crc32c head).toNat ++ rs.flatMap (fun r => leBytes 8 r.1 ++ leBytes 8 r.2.1 ++ slice r.2.2 0 m)) 0 4096

/-- The sectors of a partition, full but for the last, from a sector number on. -/
def packSectors (first part m : Nat) (gen : Bool) (rs : List (Nat × Nat × List Byte)) : List (List Byte) :=
  let cap := max (4032 / (16 + m)) 1
  (List.range (ceilDiv rs.length cap)).map (fun k => sectorBytes (first + k) part m gen ((rs.drop (k * cap)).take cap))

/-- What SIDE_MERGE writes for a partition: none where an old sector is no sector of it, which traps the call (R210). -/
def sideMerge (x : IndexState) (m part first : Nat) (old : List (List Byte)) : Option (List (List Byte)) :=
  if old.all (fun b => sectorOk b (leAt b 4 4) m x.gen part) then
    some (packSectors first part m (!x.gen) (mergedRecords x m part (old.flatMap (fun b => sectorRecords b m))))
  else none

end Sys2Proof.Machine
end

