-- ==== Sys2Proof/Machine/Skoet.lean ====
section
/-!
DEFINITION. Sys2Proof/Machine/Skoet.lean: the Skoet listen port (chapter 13): frame and message checks, the ingest table,
keys, the sequence check, the latch at a tick, INGEST_DECODE and violations.
-/
namespace Sys2Proof.Machine

/-! ### The ingest table (R322) -/

/-- An ingest entry's fields (Table 13-5). -/
structure Ingest where
  no : Nat
  plot : Nat
  flags : Nat
  slot : Nat
  port : Nat
  vlan : Nat
  pub : Nat
  pubType : Nat
  /-- UADP_FLAGS, EXT_FLAGS1, GROUP_FLAGS, DSM_FLAGS1, DSM_FLAGS2. -/
  bytes : List Nat
  group : Nat
  writer : Nat
  len : Nat
  stale : Nat
  count : Nat
  slotAddr : Nat
  fieldAddr : Nat
  destAddr : Nat
  nonce : Nat
deriving DecidableEq, Repr

/-- The fields of an entry's 64 bytes (Table 13-5). -/
def ingestOf (b : List Byte) : Ingest :=
  { no := leAt b 0 1, plot := leAt b 1 1, flags := leAt b 2 1, slot := leAt b 3 1, port := leAt b 4 2,
    vlan := leAt b 6 2, pub := leAt b 8 8, pubType := leAt b 16 1,
    bytes := [leAt b 17 1, leAt b 18 1, leAt b 19 1, leAt b 24 1, leAt b 25 1], group := leAt b 20 2,
    writer := leAt b 22 2, len := leAt b 26 2, stale := leAt b 28 2, count := leAt b 30 2, slotAddr := leAt b 32 8,
    fieldAddr := leAt b 40 8, destAddr := leAt b 48 8, nonce := leAt b 56 1 }

/-- FLAGS bits: tick-capable, signed, tagged, IPv6. -/
def Ingest.tick (e : Ingest) : Bool := bitOf e.flags 0
def Ingest.signed (e : Ingest) : Bool := bitOf e.flags 1
def Ingest.tagged (e : Ingest) : Bool := bitOf e.flags 2
def Ingest.v6 (e : Ingest) : Bool := bitOf e.flags 3

/-- Bytes of an entry's slot (R322). -/
def Ingest.slotBytes (e : Ingest) : Nat := 64 + 64 * ceilDiv e.len 64

/-- The ingest entries a content commits. -/
def Content.ingests (c : Content) : List Ingest := c.ingest.map ingestOf

/-- The table that governs messages (R89). -/
def SktState.ingests (k : SktState) : List Ingest := k.table.map ingestOf

/-- An entry's live values. -/
def SktState.entry (k : SktState) (no : Nat) : SktEntry := assocD k.entries no {}

/-! ### Frame checks (R318, Table 13-2) -/

/-- What the checks decide: a violation type with the entry when known, or a message. -/
inductive SktVerdict where
  | refused (type : Fin 12) (entry : Option Nat)
  | message (m : SktMsg)
deriving DecidableEq, Repr

/-- One bit step of the Ethernet frame check sequence (IEEE 802.3, reflected polynomial 0xEDB88320; PRESUMED). -/
def fcsBit (c : Word) : Word := if c.getLsbD 0 then (c >>> 1) ^^^ 0xEDB88320 else c >>> 1

/-- One byte step. -/
def fcsByte (c : Word) (b : Byte) : Word :=
  fcsBit (fcsBit (fcsBit (fcsBit (fcsBit (fcsBit (fcsBit (fcsBit (c ^^^ b.setWidth 32))))))))

/-- The FCS of a frame's bytes. -/
def fcsOf (bs : List Byte) : Word := (bs.foldl fcsByte 0xFFFFFFFF) ^^^ 0xFFFFFFFF

/-- Big-endian field of `n` bytes. -/
def beAt (b : List Byte) (p n : Nat) : Nat := beNat (slice b p n)

/-- Sum of the 16-bit words of a byte string, an odd last byte padded with 0. -/
def wordSum : List Byte → Nat
  | [] => 0
  | [a] => a.toNat * 256
  | a :: b :: l => a.toNat * 256 + b.toNat + wordSum l

/-- Does a sum fold to all ones in ones' complement 16-bit arithmetic? -/
def sumOk (n : Nat) : Bool := n != 0 && n % 65535 == 0

/-- A UDP datagram found in a frame: IPv6, VLAN tag, destination port and payload. -/
structure Udp where
  v6 : Bool
  vlan : Option Nat
  port : Nat
  payload : List Byte
deriving DecidableEq, Repr

/-- The UDP checks of Table 13-2 with the address part of the pseudo-header. -/
def udpOf (v6 : Bool) (vlan : Option Nat) (addrs u : List Byte) : Except (Fin 12) Udp :=
  let n := beAt u 4 2
  let c := beAt u 6 2
  if u.length < 8 ∨ n ≠ u.length ∨ (c = 0 ∧ v6) ∨ (c ≠ 0 ∧ !sumOk (wordSum addrs + 17 + n + wordSum u)) then .error 4
  else .ok { v6 := v6, vlan := vlan, port := beAt u 2 2, payload := u.drop 8 }

/-- The IPv4 row of Table 13-2. -/
def ipv4Of (vlan : Option Nat) (p : List Byte) : Except (Fin 12) Udp :=
  let t := beAt p 2 2
  if leAt p 0 1 ≠ 0x45 ∨ !sumOk (wordSum (slice p 0 20)) ∨ t < 20 ∨ p.length < t ∨ beAt p 6 2 % 0x4000 ≠ 0 then .error 4
  else if leAt p 9 1 ≠ 17 then .error 5
  else udpOf false vlan (slice p 12 8) ((p.take t).drop 20)

/-- The IPv6 row of Table 13-2. -/
def ipv6Of (vlan : Option Nat) (p : List Byte) : Except (Fin 12) Udp :=
  let t := beAt p 4 2
  if p.length < 40 ∨ leAt p 0 1 / 16 ≠ 6 ∨ p.length < 40 + t then .error 4
  else if leAt p 6 1 ≠ 17 then .error 5
  else udpOf true vlan (slice p 8 32) ((p.drop 40).take t)

/-- The frame checks up to the UDP payload, in the order of Table 13-2. -/
def frameUdp (pcs : Bool) (f : List Byte) : Except (Fin 12) Udp :=
  let tagged := decide (beAt f 12 2 = 0x8100)
  let at_ := if tagged then 16 else 12
  let ty := beAt f at_ 2
  if !pcs then .error 0
  else if f.length < 64 then .error 1
  else if (if tagged then 1522 else 1518) < f.length then .error 2
  else if leAt f (f.length - 4) 4 ≠ (fcsOf (f.take (f.length - 4))).toNat then .error 3
  else
    let p := (f.take (f.length - 4)).drop (at_ + 2)
    let vlan := if tagged then some (beAt f 14 2 % 4096) else none
    if tagged ∧ ty = 0x8100 then .error 4
    else if ty = 0x0800 then ipv4Of vlan p
    else if ty = 0x86DD then ipv6Of vlan p
    else .error 5

/-! ### UADP (R319, R320, R323) -/

/-- A little-endian field of a payload, if it is there. -/
def field? (b : List Byte) (p n : Nat) : Option Nat := if p + n ≤ b.length then some (leAt b p n) else none

/-- The head of a NetworkMessage: what the match key needs, and where the rest begins. -/
structure UadpHead where
  flags : Nat
  ext : Nat
  pub : Nat
  groupFlags : Nat
  group : Nat
  writer : Option Nat
  next : Nat
deriving DecidableEq, Repr

/-- Bytes of a PublisherId by type. -/
def pubBytes (t : Nat) : Nat := if t = 0 then 1 else if t = 1 then 2 else if t = 2 then 4 else 8

/-- Reads the head within the subset of Table 13-3. -/
def uadpHead (b : List Byte) : Option UadpHead := do
  let flags ← field? b 0 1
  let ext ← if bitOf flags 7 then field? b 1 1 else some 0
  let p := if bitOf flags 7 then 2 else 1
  guard (flags % 16 = 1 ∧ bitOf flags 4 ∧ bitOf flags 5 ∧ !bitOf ext 7 ∧ !bitOf ext 3 ∧ ext % 8 < 4)
  let n := pubBytes (ext % 8)
  let pub ← field? b p n
  let gf ← field? b (p + n) 1
  guard (bitOf gf 0)
  let group ← field? b (p + n + 1) 2
  let q := p + n + 3 + 4 * b2n (bitOf gf 1) + 2 * b2n (bitOf gf 2) + 2 * b2n (bitOf gf 3)
  if bitOf flags 6 then
    let count ← field? b q 1
    let w ← field? b (q + 1) 2
    guard (count = 1)
    some { flags := flags, ext := ext, pub := pub, groupFlags := gf, group := group, writer := some w, next := q + 3 }
  else some { flags := flags, ext := ext, pub := pub, groupFlags := gf, group := group, writer := none, next := q }

/-- The rest of a NetworkMessage: security token, nonce length, data set flags, and the message's contents. -/
structure UadpBody where
  token : Option Nat
  nonce : Nat
  dsm1 : Nat
  dsm2 : Nat
  seq : Nat
  status : Nat
  data : Nat
deriving DecidableEq, Repr

/-- Reads the rest within the subset of Table 13-3. -/
def uadpBody (b : List Byte) (h : UadpHead) : Option UadpBody := do
  let p := h.next + 8 * b2n (bitOf h.ext 5) + 2 * b2n (bitOf h.ext 6)
  let sec := bitOf h.ext 4
  let sf ← if sec then field? b p 1 else some 1
  let token ← if sec then field? b (p + 1) 4 else some 0
  let nonce ← if sec then field? b (p + 5) 1 else some 0
  guard (sf = 1 ∧ nonce ≤ 32)
  let p := if sec then p + 6 + nonce else p
  let dsm1 ← field? b p 1
  let dsm2 ← if bitOf dsm1 7 then field? b (p + 1) 1 else some 0
  guard (dsm1 / 2 % 4 = 1 ∧ bitOf dsm1 3 ∧ dsm2 % 16 = 0)
  let p := if bitOf dsm1 7 then p + 2 else p + 1
  let seq ← field? b p 2
  let p := p + 2 + 8 * b2n (bitOf dsm2 4) + 2 * b2n (bitOf dsm2 5)
  let status ← if bitOf dsm1 4 then field? b p 2 else some 0
  let p := p + 2 * b2n (bitOf dsm1 4) + 4 * b2n (bitOf dsm1 5) + 4 * b2n (bitOf dsm1 6)
  some { token := if sec then some token else none, nonce := nonce, dsm1 := dsm1, dsm2 := dsm2, seq := seq,
         status := status, data := p }

/-- Does a message match an entry (R323)? -/
def Ingest.matches (e : Ingest) (cage : Fin 2) (u : Udp) (h : UadpHead) : Bool :=
  bitOf e.flags (4 + cage.val) && e.tagged == u.vlan.isSome && (!e.tagged || u.vlan == some e.vlan) && e.v6 == u.v6 &&
    e.port == u.port && e.pubType == h.ext % 8 && e.pub == h.pub && e.group == h.group &&
    (match h.writer with | some w => w == e.writer | none => true)

/-- Does a matched message agree with its entry byte for byte, and end with the payload (R323)? -/
def Ingest.layout (e : Ingest) (p : List Byte) (h : UadpHead) (b : UadpBody) : Bool :=
  e.bytes == [h.flags, h.ext, h.groupFlags, b.dsm1, b.dsm2] && e.nonce == b.nonce && e.signed == b.token.isSome &&
    b.data + e.len + (if e.signed then 32 else 0) == p.length

/-- The bank of a slot that holds a token (R320). -/
def bankOf (banks : List (Nat × SktBank)) (slot token : Nat) : Option SktBank :=
  ((banks.filter (fun b => b.1 / 2 == slot)).find? (fun b => b.2.token.toNat == token)).map (·.2)

/-- The checks from the frame to the signature, for a table and the key banks (R318 to R324). -/
def checkFrame (table : List Ingest) (banks : List (Nat × SktBank)) (cage : Fin 2) (pcs : Bool) (f : List Byte) : SktVerdict :=
  match frameUdp pcs f with
  | .error t => .refused t none
  | .ok u =>
    if !table.any (fun e => e.port == u.port) then .refused 5 none
    else match uadpHead u.payload with
    | none => .refused 6 none
    | some h =>
      match table.find? (fun e => e.matches cage u h) with
      | none => .refused 5 none
      | some e =>
        match uadpBody u.payload h with
        | none => .refused 6 (some e.no)
        | some b =>
          let m : SktMsg := {
            entry := e.no, seq := BitVec.ofNat 16 b.seq, dsValid := bitOf b.dsm1 0,
            status := BitVec.ofNat 16 b.status, data := slice u.payload b.data e.len }
          if !e.layout u.payload h b then .refused 6 (some e.no)
          else if !e.signed then .message m
          else match bankOf banks e.slot (b.token.getD 0) with
          | none => .refused 7 (some e.no)
          | some k =>
            let n := u.payload.length - 32
            if Config.hmacSha256 k.key (u.payload.take n) = u.payload.drop n then .message m else .refused 8 (some e.no)

/-! ### Violations (R330) -/

/-- Change the port's state. -/
def State.modSkt (s : State) (f : SktState → SktState) : State := { s with skt := f s.skt }

/-- Change one cage. -/
def State.modCage (s : State) (c : Fin 2) (f : SktCage → SktCage) : State :=
  s.modSkt (fun k => { k with cages := k.cages.set c (f k.cages[c]) })

/-- A violation counts on its cage; every type but NOMATCH has a line once per frame, with PF cause SKT (R330). -/
def violation (s : State) (cage : Fin 2) (type : Fin 12) (entry : Option Nat) : State :=
  let s := s.modCage cage (fun c => { c with vcnt := c.vcnt.set type (satInc c.vcnt[type]) })
  if type = 5 then s
  else
    let e := entry.getD 0
    let s := s.modSkt (fun k => { k with
      violLast := BitVec.ofNat 32 (e * 2 ^ 24 + 2 ^ 23 * b2n entry.isSome + 2 ^ 16 * cage.val + type.val) })
    if s.skt.logged.getLsbD type.val then s.logSuppressed
    else
      ((s.modSkt (fun k => { k with logged := setBit k.logged type.val true })).logLine 0x70 noPlot none
        (type.val + 256 * cage.val + 65536 * e + 2 ^ 24 * b2n entry.isSome) 0).raisePf 9

/-! ### Receiving (R317, R324, R331) -/

/-- Does a cage accept frames (R317)? -/
def SktCage.accepts (c : SktCage) : Bool := c.lock && !c.los && (c.mode == 1 || c.mode == 2)

/-- Bytes of a cage's FIFO in use. -/
def fifoUsed (k : SktState) (cage : Fin 2) : Nat :=
  sumNat ((k.queue.filter (fun f => f.cage == cage)).map (fun f => f.bytes.length))

/-- A frame has been received whole: the checks up to the signature; one that passes completes 120 TCLK cycles later. -/
def frameReceived (s : State) (cage : Fin 2) (pcs : Bool) (f : List Byte) : State :=
  if !s.isReady || !s.skt.cages[cage].accepts then s
  else if 16384 < fifoUsed s.skt cage + 1522 then violation s cage 11 none
  else match checkFrame s.skt.ingests s.skt.banks cage pcs f with
  | .refused t e => violation s cage t e
  | .message _ =>
    s.modSkt (fun k => { k with
      queue := k.queue ++ [{ cage := cage, due := s.boot.tclk + 120, bytes := f, banks := k.banks }] })

/-- The frame whose checks complete next: the earliest due, cage 0 first (chapter 13, edges). -/
def nextFrame (k : SktState) : Option SktFrame :=
  k.queue.foldl (fun best f =>
    match best with
    | none => some f
    | some b => if f.due < b.due ∨ (f.due = b.due ∧ f.cage < b.cage) then some f else some b) none

/-- The sequence check of R325: accepted or not, with the violation, or REDUNDANT, it counts. -/
inductive SeqCheck where
  | accept
  | gap
  | redundant
  | duplicate
deriving DecidableEq, Repr

/-- The rows of R325. -/
def seqCheck (x : SktEntry) (stale : Nat) (cage : Fin 2) (seq : BitVec 16) : SeqCheck :=
  let d := (seq - x.last.seq).toNat
  if !x.valid ∨ stale ≤ x.age.toNat then .accept
  else if d = 1 then .accept
  else if d = 0 then (if cage = x.cage then .duplicate else .redundant)
  else if d ≤ 32767 then .gap
  else .duplicate

/-- Change an entry's live values. -/
def State.modEntry (s : State) (no : Nat) (f : SktEntry → SktEntry) : State :=
  s.modSkt (fun k => { k with entries := assocSet k.entries no (f (k.entry no)) })

/-- A message passes or fails the sequence check; answers the state and whether it was accepted. -/
def sequence (s : State) (e : Ingest) (cage : Fin 2) (m : SktMsg) : State × Bool :=
  let take (x : SktEntry) : SktEntry := { x with
    valid := true, last := m, cage := cage, rxTime := s.frmTime, new := satInc x.new, rx := satInc x.rx }
  match seqCheck (s.skt.entry e.no) e.stale cage m.seq with
  | .accept => (s.modEntry e.no take, true)
  | .gap => (violation (s.modEntry e.no (fun x => { take x with gap := satInc x.gap })) cage 10 (some e.no), true)
  | .redundant => (s.modEntry e.no (fun x => { x with red := satInc x.red }), false)
  | .duplicate => (violation (s.modEntry e.no (fun x => { x with dup := satInc x.dup })) cage 9 (some e.no), false)

/-- The next checks complete (R324): the frame is judged by the table that governs then; answers the state and the accepted
message's entry. -/
def checksComplete (s : State) : State × Option Ingest :=
  match nextFrame s.skt with
  | none => (s, none)
  | some f =>
    let s := (s.advanceTo f.due).modSkt (fun k => { k with queue := k.queue.erase f })
    match checkFrame s.skt.ingests f.banks f.cage true f.bytes with
    | .refused t e => (violation s f.cage t e, none)
    | .message m =>
      match s.skt.ingests.find? (fun e => e.no == m.entry) with
      | none => (s, none)
      | some e => let (s, ok) := sequence s e f.cage m; (s, if ok then some e else none)

/-! ### The latch (R327, R328) -/

/-- AGE at a latch. -/
def SktEntry.nextAge (x : SktEntry) : BitVec 16 := if x.new ≠ 0 then 0 else if x.valid then satInc x.age else x.age

/-- The slot an entry's latch writes (Table 13-6). -/
def slotImage (e : Ingest) (x : SktEntry) (frame : Nat) : List Byte :=
  leBytes 8 frame ++ leBytes 8 x.rxTime ++ leBytes 2 x.nextAge.toNat ++ leBytes 2 x.last.seq.toNat ++
    [BitVec.ofNat 8 (b2n x.valid + 2 * b2n x.last.dsValid + 4 * x.cage.val), 0] ++ leBytes 2 x.last.status.toNat ++
    leBytes 2 x.new.toNat ++ List.replicate 38 0 ++ slice x.last.data 0 (e.slotBytes - 64)

/-- A plot number as a plot. -/
def mkPlot (n : Nat) : PlotId := ⟨n % 65, Nat.mod_lt _ (by decide)⟩

/-- INGEST_STALE: once for each time the limit is reached, at most once per commit window per plot (R328). -/
def staleReached (s : State) (q : PlotId) : State :=
  if (s.plot q).skt.raised then s
  else (s.modPlot q (fun p => { p with skt := { stale := satInc p.skt.stale, raised := true } })).raisePlot q 0x200

/-- One entry is latched (R327). -/
def latchEntry (s : State) (e : Ingest) : State :=
  let x := s.skt.entry e.no
  let age := x.nextAge
  let reached := x.valid && decide (x.age.toNat < e.stale) && decide (e.stale ≤ age.toNat)
  let q := mkPlot e.plot
  let st := (s.plot q).plt.state
  let s := if e.plot ≠ 0 ∧ (st = .idle ∨ st = .running) then
      State.pokeHome s q e.slotAddr (slotImage e x s.frm.count.toNat) else s
  let s := s.modEntry e.no (fun x => { x with age := age, new := 0 })
  if reached && decide (e.plot ≠ 0) then staleReached s q else s

/-- The committed table takes over at a tick: entries whose content changed start afresh (R89, R328). -/
def adoptTable (s : State) : State :=
  let old := s.skt.table
  let new := s.cfg.content.ingest
  s.modSkt (fun k => { k with
    table := new,
    entries := k.entries.filter (fun x => old.any (fun b => leAt b 0 1 == x.1 && new.contains b)) })

/-- What the port does at a tick (R327): the table takes over, every entry is latched, line limits start anew. -/
def latchIngest (s : State) : State :=
  let s := (adoptTable s).modSkt (fun k => { k with logged := 0 })
  s.skt.ingests.foldl latchEntry s

/-! ### INGEST_DECODE (R329) -/

/-- binary32 of an integer in units of 2^-1074, rounded with ties away from zero (Table 8-3), with its sign bit. -/
def f32Round (neg : Bool) (n : Nat) : Nat :=
  let sign := if neg then 2 ^ 31 else 0
  let step : Nat := if n < 2 ^ (1074 - 126) then 2 ^ (1074 - 149) else 2 ^ (Nat.log2 n - 23)
  let m := (2 * n + step) / (2 * step)
  let v := m * step
  if v < 2 ^ (1074 - 126) then sign + m
  else
    let e := Nat.log2 v
    let b := e + 127 - 1074
    if 255 ≤ b then sign + 255 * 2 ^ 23 else sign + b * 2 ^ 23 + (v / 2 ^ (e - 23) - 2 ^ 23)

/-- A quiet NaN whose sign and payload are free (the spec does not give them). -/
def quietNan (free : Word64) : Nat := (((free.setWidth 32) &&& 0x803FFFFF) ||| (0x7FC00000 : Word)).toNat

/-- Bytes of a field type; 0 for an unknown one. -/
def fieldBytes (t : Nat) : Nat :=
  match t with
  | 0 | 1 | 2 => 1
  | 3 | 4 => 2
  | 5 | 6 | 9 => 4
  | 7 | 8 | 10 => 8
  | _ => 0

/-- binary32 of a binary64 word. -/
def f32OfDouble (w : Nat) (free : Word64) : Nat :=
  let e := fieldOf w 62 52
  let f := w % 2 ^ 52
  let neg := bitOf w 63
  if e = 2047 then (if f = 0 then (if neg then 0xFF800000 else 0x7F800000) else quietNan free)
  else f32Round neg (if e = 0 then f else (2 ^ 52 + f) * 2 ^ (e - 1))

/-- The F32 element of a field value (R329). -/
def fieldF32 (t w : Nat) (free : Word64) : Nat :=
  let int (z : Int) : Nat := f32Round (decide (z < 0)) (z.natAbs * 2 ^ 1074)
  match t with
  | 0 => int (if w = 0 then 0 else 1)
  | 1 => int (signed 8 w)
  | 3 => int (signed 16 w)
  | 5 => int (signed 32 w)
  | 7 => int (signed 64 w)
  | 9 => w
  | 10 => f32OfDouble w free
  | _ => int w

/-- The writes an INGEST_DECODE call makes from a slot and a field list, or none where it traps. -/
def ingestWrites (e : Ingest) (slot fields : List Byte) (free : Nat) : Option (List (Nat × List Byte)) :=
  let valid := bitOf (leAt slot 20 1) 0
  let stale := !valid || decide (e.stale ≤ leAt slot 16 2)
  let ds := (List.range e.count).map (fun i => (i, slice fields (8 * i) 8))
  if ds.all (fun d => fieldBytes (leAt d.2 2 1) != 0 && decide (leAt d.2 3 1 ≤ 1) &&
      decide (leAt d.2 0 2 + fieldBytes (leAt d.2 2 1) ≤ e.len)) then
    some (ds.map (fun d =>
      let t := leAt d.2 2 1
      let fr := Config.freeWord (free + d.1)
      let v := if stale && leAt d.2 3 1 == 1 then quietNan fr
        else fieldF32 t (leAt slot (64 + leAt d.2 0 2) (fieldBytes t)) fr
      (e.destAddr + 4 * leAt d.2 4 4, leBytes 4 v)))
  else none

/-! ### Keys and ports (R317, R321) -/

/-- The bank that a function's SKT_KEY_SEL selects, as 2 × slot + bank. -/
def keySel (s : State) (f : Fn) : Nat :=
  let v := assocD s.fns[f].sels 0xC0010 0
  2 * (v % 16) + b2n (bitOf v 8)

/-- SKT_KEY_CTL.LOAD (R321). -/
def keyLoad (s : State) (f : Fn) : State :=
  let n := keySel s f
  s.modSkt (fun k => { k with
    banks := assocSet k.banks n { token := k.token, key := k.keyData.toList.flatMap (fun w => leBytes 4 w.toNat) } })

/-- SKT_KEY_CTL.CLEAR (R321). -/
def keyClear (s : State) (f : Fn) : State :=
  let n := keySel s f
  s.modSkt (fun k => { k with banks := assocDel k.banks n })

/-- A write of SKT_PORT_CFG: the receiver restarts and its FIFO is discarded uncounted (R317). A lock that the restart ends is a
loss of lock (DEDUCED, log entry 241). -/
def portWrite (s : State) (cage : Fin 2) (v : Word) : State :=
  (s.modCage cage (fun c => { c with
    inv := v.getLsbD 4, mode := (v.setWidth 2), lock := false, down := if c.lock then satInc c.down else c.down })).modSkt (fun k => { k with
      queue := k.queue.filter (fun f => !(f.cage == cage)) })

/-- A cage loses lock or sync (R317). -/
def portLoss (s : State) (cage : Fin 2) (los modAbs : Bool) : State :=
  s.modCage cage (fun c => { c with
    los := los, modAbs := modAbs, lock := false, down := if c.lock then satInc c.down else c.down })

/-- A cage gains lock or sync with SKT_LOS deasserted. -/
def portGain (s : State) (cage : Fin 2) (modAbs : Bool) : State :=
  s.modCage cage (fun c => { c with
    los := false, modAbs := modAbs, lock := s.isReady && (c.mode == 1 || c.mode == 2) })

end Sys2Proof.Machine
end

