-- ==== Sys2Proof/Machine/Matrix.lean ====
section
/-!
DEFINITION. Sys2Proof/Machine/Matrix.lean: the matrix engines (R193 to R205): group sums and rescaling, exact accumulation,
the drain and its epilogue, carries; and the helper core clusters (R207 to R210).
-/
namespace Sys2Proof.Machine

/-- The node of a matrix engine. -/
def engineNode (m : MxeId) : NodeId := mkNode (nodeOf .mxe m.val)

/-- Change one matrix engine. -/
def State.modEngine (s : State) (m : MxeId) (f : MxeEngine → MxeEngine) : State :=
  { s with mxes := s.mxes.set m (f s.mxes[m]) }

/-- The active bank. -/
def MxeEngine.bank (e : MxeEngine) : Bank := if e.active then e.bank1 else e.bank0

/-- The engine with another active bank. -/
def MxeEngine.setBank (e : MxeEngine) (b : Bank) : MxeEngine :=
  if e.active then { e with bank1 := b } else { e with bank0 := b }

/-! ### Tiles (the dataflow before R194) -/

/-- Tiles along the rows of the output. -/
def opRowTiles (o : MxeOp) : Nat := ceilDiv o.m 128

/-- Tiles of an operation. -/
def opTiles (o : MxeOp) : Nat := opRowTiles o * ceilDiv o.n 128

/-- First row and column of a tile, and its size: tiles of one column block stand together. -/
def opTileAt (o : MxeOp) (t : Nat) : Nat × Nat × Nat × Nat :=
  let r := t % max (opRowTiles o) 1
  let c := t / max (opRowTiles o) 1
  (128 * r, 128 * c, min 128 (o.m - 128 * r), min 128 (o.n - 128 * c))

/-! ### Accumulation (R197) -/

/-- One accumulator after the groups of the operation's weight blocks, from a value on (R197): none for a RANGE event. The job
is given three times: as it stands, and as it reads the weights and the activations. -/
def accumulate (s : State) (q : PlotId) (j jw ja : Job) (o : MxeOp) (w a : QuantEntry) (row col : Nat) (start : Int) :
    Option Int :=
  let g := w.gsize j
  let k0 := o.kb0 * w.kb
  let k1 := min w.k (k0 + o.kbn * w.kb)
  (List.range (ceilDiv (k1 - k0) g)).foldl (fun acc i =>
    match acc with
    | none => none
    | some x =>
      let base := k0 + i * g
      let p := sumInt ((List.range g).map (fun r =>
        weightAt s q jw w g (base + r) col * actAt s q ja a (a.gsize j) row (base + r)))
      match groupTerm p (weightScale s q jw w g base col) (actScale s q ja a (a.gsize j) row base) o.pl with
      | none => none
      | some t => if inX72 (x + t) then some (x + t) else none) (some start)

/-- A list of results, if every one is there. -/
def allSome {α : Type} : List (Option α) → Option (List α)
  | [] => some []
  | none :: _ => none
  | some a :: l => (allSome l).map (a :: ·)

/-- An element of a bank. -/
def Bank.at_ (b : Bank) (r c : Nat) : Int := (((b.rows[r]?).getD [])[c]?).getD 0

/-- A job as it reads an operand that lies in an engine's local SRAM: the bytes held there (R194). -/
def localJob (j : Job) (e : MxeEngine) (loc : Bool) (rs : List (Nat × Nat)) : Job :=
  if loc then { j with copies := rs.flatMap (fun r => pagesOf r.1 r.2), ovl := e.sram } else j

/-- The tile that an engine's active bank accumulates, from its present content (R196, R197). -/
def tileSums (s : State) (q : PlotId) (j : Job) (o : MxeOp) (w a : QuantEntry) (t : Nat) (e : MxeEngine) :
    Option (List (List Int)) :=
  let x := opTileAt o t
  let jw := localJob j e o.wLocal (w.ranges (w.gsize j))
  let ja := localJob j e o.aLocal (a.ranges (a.gsize j))
  allSome ((List.range x.2.2.1).map (fun r => allSome ((List.range x.2.2.2).map (fun c =>
    accumulate s q j jw ja o w a (x.1 + r) (x.2.1 + c) (e.bank.at_ r c)))))

/-! ### The drain (R203, R204) -/

/-- Is an intermediate within the drain's range: magnitude below 2^39, in units of 2^-64? -/
def drainOk (v : Int) : Bool := decide (v.natAbs < 2 ^ 103)

/-- A value times a power of two, if it stays a multiple of 2^-64 and in range. -/
def drainShift (v : Int) (e : Int) : Option Int :=
  if 0 ≤ e then (let x := v * 2 ^ e.toNat; if drainOk x then some x else none)
  else
    let d := 2 ^ (-e).toNat
    if v % (d : Int) = 0 then (let x := v / (d : Int); if drainOk x then some x else none) else none

/-- The matching element of the second tensor, in units of 2^-64 (R204); none if it is not representable. -/
def epiValue (s : State) (q : PlotId) (j : Job) (p : Epilogue) (n row col : Nat) : Option Int :=
  match p.format with
  | .s32 => drainShift (signed 32 (jobNat s q j (p.addr + row * rowStride n 4 + 4 * col) 4)) (64 - p.place)
  | .x72 => drainShift (signed 72 (jobNat s q j (p.addr + row * rowStride n 16 + 16 * col) 9)) (32 - p.place)
  | .s16 =>
    let c := scaleCode p.scale.toNat
    drainShift (signed 16 (jobNat s q j (p.addr + row * rowStride n 2 + 2 * col) 2) * c.1) (c.2 + 64)
  | .a8 =>
    let w := jobNat s q j (p.params + row * (64 * ceilDiv (4 * n) (max p.group 1 * 64)) + 4 * (col / max p.group 1)) 4
    let c := scaleCode (w % 65536)
    drainShift (((jobNat s q j (p.addr + row * rowStride n 1 + col) 1 : Int) - (zeroPoint 4 w : Int)) * c.1) (c.2 + 64)

/-- Bytes of an element of the second tensor (R204). -/
def epiSize : EpiFormat → Nat
  | .s32 => 4 | .s16 => 2 | .a8 => 1 | .x72 => 16

/-- What the drain of a tile reads of the second tensor: elements, and an A8 tensor's parameters, row by row (R204). -/
def epiReads (o : MxeOp) (t : Nat) : List (Nat × Nat) :=
  match o.epi with
  | none => []
  | some p =>
    let x := opTileAt o t
    let b := epiSize p.format
    let g := max p.group 1
    (List.range x.2.2.1).flatMap (fun r =>
      (p.addr + (x.1 + r) * rowStride o.n b + x.2.1 * b, x.2.2.2 * b) ::
        (if p.format == .a8 then
          [(p.params + (x.1 + r) * (64 * ceilDiv (4 * o.n) (g * 64)) + 4 * (x.2.1 / g),
            4 * ((x.2.1 + x.2.2.2 - 1) / g + 1 - x.2.1 / g))]
         else []))

/-- Bytes of an output element (Table 8-3). -/
def outSize : OutFormat → Nat
  | .x72 => 16 | .s32 | .f32 => 4 | .s16 | .a16 => 2 | .s8 | .a8 => 1

/-- An integer limited to a range, and whether it was. -/
def limit (lo hi v : Int) : Int × Bool := (clampInt lo hi v, decide (v < lo ∨ hi < v))

/-- The output code of an intermediate and whether it saturated (Table 8-3); none for a RANGE event. -/
def convertOut (f : OutFormat) (zo : Nat) (pl : Int) (v : Int) : Option (Nat × Bool) :=
  let r := roundShift v (-64)
  let int (w : Nat) : Option (Nat × Bool) :=
    let x := limit (-(2 ^ (w - 1))) (2 ^ (w - 1) - 1) r
    some (unsigned w x.1, x.2)
  let act (hi : Int) : Option (Nat × Bool) := let x := limit 0 hi (r + zo); some (x.1.toNat, x.2)
  match f with
  | .x72 =>
    let e := pl - 32
    let x? := if 0 ≤ e then some (v * 2 ^ e.toNat)
      else if v % ((2 ^ (-e).toNat : Nat) : Int) = 0 then some (v / ((2 ^ (-e).toNat : Nat) : Int)) else none
    match x? with
    | some x => if inX72 x then some (unsigned 128 x, false) else none
    | none => none
  | .s32 => int 32
  | .s16 => int 16
  | .s8 => int 8
  | .a8 => act 255
  | .a16 => act 65535
  | .f32 => some (f32Of v, false)

/-- One element through the drain: its code and whether it saturated; none for a RANGE event (R199, R203). -/
def drainElement (s : State) (q : PlotId) (j : Job) (o : MxeOp) (x : Int) (row col : Nat) : Option (Nat × Bool) :=
  match drainShift x (32 - o.pl) with
  | none => none
  | some v =>
    let v1 : Option Int := match o.epi with
      | none => some v
      | some p => match epiValue s q j p o.n row col with
        | none => none
        | some e =>
          if p.mul then (if v * e % (2 ^ 64 : Nat) = 0 ∧ drainOk (v * e / (2 ^ 64 : Nat)) then some (v * e / (2 ^ 64 : Nat)) else none)
          else if drainOk (v + e) then some (v + e) else none
    match v1 with
    | none => none
    | some v =>
      let v := if o.clamp then max v 0 else v
      let v2 : Option Int := match o.scale with
        | none => some v
        | some w => if o.format == .x72 then some v else
            let c := scaleCode w.toNat
            drainShift (v * c.1) c.2
      match v2 with
      | none => none
      | some v => convertOut o.format o.zo o.pl v

/-- The codes of a tile. -/
def drainTile (s : State) (q : PlotId) (j : Job) (o : MxeOp) (t : Nat) (rows : List (List Int)) :
    Option (List (List (Nat × Bool))) :=
  let x := opTileAt o t
  allSome ((List.range rows.length).map (fun r =>
    let row := (rows[r]?).getD []
    allSome ((List.range row.length).map (fun c => drainElement s q j o ((row[c]?).getD 0) (x.1 + r) (x.2.1 + c)))))

/-- Writes of a step appended to a cache (R229): output row m is cached step `step + m`, output column n a channel. The
parameter entry carries M = 1 and E = -E_o. -/
def cacheWrites (e : QuantEntry) (g : Nat) (value : Bool) (step : Nat) (zo : Nat) (eo : Int) (row col code : Nat) :
    List (Nat × List Byte) :=
  let cap := max (if value then e.k else e.cols) 1
  let jr := (step + row) % cap
  let entry := leBytes 2 (scaleWord 1 (-eo)) ++ leBytes 2 (zo % 256)
  if value then
    (e.wAddr jr col, [BitVec.ofNat 8 code]) :: (if jr % max g 1 = 0 then [(e.wScale g jr col, entry)] else [])
  else
    (e.wAddr col jr, [BitVec.ofNat 8 code]) :: (if col % max g 1 = 0 then [(e.wScale g col jr, entry)] else [])

/-- What a drained tile writes to plot memory; none where the operation is no append a cache accepts. -/
def tileWrites (s : State) (q : PlotId) (j : Job) (o : MxeOp) (t : Nat) (codes : List (List (Nat × Bool))) :
    Option (List (Nat × List Byte)) :=
  let x := opTileAt o t
  let at_ (r c : Nat) : Nat := ((((codes[r]?).getD [])[c]?).getD (0, false)).1
  let cells := (List.range codes.length).flatMap (fun r => (List.range ((codes[r]?).getD []).length).map (fun c => (r, c)))
  let cache (id step : Nat) (value : Bool) : Option (List (Nat × List Byte)) :=
    match s.cfg.content.tensor? q.val id, o.scale with
    | some e, some w =>
      let c := scaleCode w.toNat
      if c.1 = 1 ∧ e.wport ∧ e.format = 4 ∧ o.format = .a8 then
        some (cells.flatMap (fun y => cacheWrites e (e.gsize j) value step o.zo c.2 (x.1 + y.1) (x.2.1 + y.2) (at_ y.1 y.2)))
      else none
    | _, _ => none
  match o.out with
  | .rows addr =>
    let b := outSize o.format
    some ((List.range codes.length).map (fun r =>
      (addr + (x.1 + r) * rowStride o.n b + x.2.1 * b,
        ((codes[r]?).getD []).flatMap (fun z => leBytes b z.1))))
  | .keyCache id step => cache id step false
  | .valueCache id step => cache id step true

/-! ### Operations (R194, R198 to R205) -/

/-- A RANGE event (R199): counted, and the job is abandoned with IMAGE. -/
def rangeEvent (s : State) (q : PlotId) (i : BitVec 16) (m : MxeId) : State :=
  chargeFault (s.modMxeCnt q (fun c => { c with range := satInc c.range })) q i .image (some (engineNode m))

/-- Does an operand lie in the engine's own slice or in backed pages (R194)? -/
def inEngine (s : State) (q : PlotId) (m : MxeId) (r : Nat × Nat) : Bool :=
  (pagesOf r.1 r.2).all (fun p => match region s.cfg.content q.val (s.plot q).msh (65536 * p) with
    | .engine k _ => (s.cfg.content.mxeList q.val)[k]? == some m.val
    | .backed _ => true
    | _ => false)

/-- The operands of an operation, if the plot has both tensors and the weight one is in the weight-port layout. -/
def opTensors (s : State) (q : PlotId) (o : MxeOp) : Option (QuantEntry × QuantEntry) :=
  match s.cfg.content.tensor? q.val o.weight, s.cfg.content.tensor? q.val o.act with
  | some w, some a => if w.wport ∧ !a.wport ∧ a.isAct ∧ 0 < o.m ∧ 0 < o.n then some (w, a) else none
  | _, _ => none

/-- Bytes of a matrix engine's local SRAM (Table 8-1). -/
def engineSram : Nat := 1048576

/-- The operands of an operation that lie in local SRAM. -/
def localRanges (o : MxeOp) (rw ra : List (Nat × Nat)) : List (Nat × Nat) :=
  (if o.wLocal then rw else []) ++ (if o.aLocal then ra else [])

/-- The operands that lie in plot memory. -/
def sliceRanges (o : MxeOp) (rw ra : List (Nat × Nat)) : List (Nat × Nat) :=
  (if o.wLocal then [] else rw) ++ (if o.aLocal then [] else ra)

/-- The bytes of some ranges as a job reads them, by memory key. -/
def sramImage (s : State) (q : PlotId) (j : Job) (rs : List (Nat × Nat)) : List Host.Cell :=
  rs.foldl (fun m r => cellPutMany m (memKey q r.1) (jobBytes s q j r.1 r.2)) []

/-- Is an operation a later part of the carried one (R201): the same operands, shape and placement? -/
def continuesOp (o c : MxeOp) : Bool :=
  o.weight == c.weight && o.act == c.act && o.m == c.m && o.n == c.n && o.pl == c.pl

/-- May an operation begin on an engine whose carry is as given (R201)? The job's own carry must be resumed, by the operation
it belongs to; nothing else may be resumed. -/
def carryFits (q : PlotId) (i : BitVec 16) (o : MxeOp) (carry : Option MxeRun) : Bool :=
  match carry with
  | none => !o.resume
  | some c => if MxeRun.of carry q i then o.resume && continuesOp o c.op else !o.resume

/-- A search operator begins (R242, R252): PQ_TABLE on operands in the engine's slice or backed pages (R194); RERANK on the IDs
of a result. -/
def startSearch (s : State) (q : PlotId) (j : Job) (m : MxeId) (o : MxeOp) (x : SearchOp) : State :=
  let node := some (engineNode m)
  let run (s : State) (ids : List Nat) : State := s.modEngine m (fun e => { e with
    run := some { plot := q, job := j.idx, op := o, ids := ids }, stopped := false, draining := false })
  match x with
  | .pqTable index query row cents _ _ out =>
    match pqTensors s.cfg.content q index query row cents out with
    | none => chargeFault s q j.idx .image node
    | some t =>
      if (pqReads j row t).all (inEngine s q m) then withReads s q j (pqReads j row t) node (fun s => run s [])
      else chargeFault s q j.idx .image node
  | .rerank result backing _ rows query row _ k2 _ =>
    if (rerankTensors s.cfg.content q backing rows query row).isNone || k2 = 0 || decide (256 < k2) then
      chargeFault s q j.idx .image node
    else withReads s q j [(result, 64)] node (fun s =>
      let n := jobNat s q j result 2
      if 256 < n then chargeFault s q j.idx .image node
      else withReads s q j [(result, 64 + 16 * n)] node (fun s => run s (resultIds (jobBytes s q j result (64 + 16 * n)))))

/-- An operation begins (R198), or a carried one is resumed at its tile (R201). An engine that carries a tile of another job
starts nothing (DESIGN CHOICE, log entry 199). -/
def startOperation (s : State) (q : PlotId) (i : BitVec 16) (m : MxeId) (o : MxeOp) : State :=
  match runningJob s q i with
  | none => s
  | some j =>
    let e := s.mxes[m]
    let node := some (engineNode m)
    if !(s.cfg.content.mxes q.val).getLsbD m.val || e.run.isSome then s
    else if !carryFits q i o e.carry then chargeFault s q i .image node
    else if e.carry.isSome && !MxeRun.of e.carry q i then s
    else match o.search with
    | some x => startSearch s q j m o x
    | none => match opTensors s q o with
    | none => chargeFault s q i .image node
    | some (w, a) =>
      let rw := w.ranges (w.gsize j)
      let ra := a.ranges (a.gsize j)
      let loc := localRanges o rw ra
      let slice := sliceRanges o rw ra ++ (List.range (opTiles o)).flatMap (epiReads o)
      if !slice.all (inEngine s q m) || decide (engineSram < sumNat (loc.map (·.2))) then chargeFault s q i .image node
      else withReads s q j (rw ++ ra) node (fun s =>
        s.modEngine m (fun e => { e with
          run := some { plot := q, job := i, op := o, tile := (match e.carry with | some c => c.tile | none => 0) },
          carry := none, stopped := false, draining := false, sram := sramImage s q j loc }))

/-- Multiply-accumulates of a tile. -/
def tileMacs (o : MxeOp) (w : QuantEntry) (t : Nat) : Nat :=
  let x := opTileAt o t
  x.2.2.1 * x.2.2.2 * (min w.k ((o.kb0 + o.kbn) * w.kb) - o.kb0 * w.kb)

/-- A tile's sums leave for the engine that drains them, in X72 format (R205, Table 8-3), over unscheduled links. -/
def partialFlits (m sink : MxeId) (rows : List (List Int)) : OutEvent :=
  .mesh (engineNode m) [engineNode sink] 5 (sumNat (rows.map (fun l => ceilDiv (16 * l.length) 64)))
    (packetLinks (engineNode m).val (engineNode sink).val)

/-- After a swap: the other bank is active and zero, and the next tile follows or the operation ends (R200). -/
def nextTile (e : MxeEngine) (r : MxeRun) : MxeEngine :=
  let e := { e with active := !e.active, draining := false }
  let e := e.setBank {}
  if r.tile + 1 < opTiles r.op then { e with run := some { r with tile := r.tile + 1, got := 0 } } else { e with run := none }

/-- Stalled cycles are counted for the engine and the plot (R200). -/
def countStall (s : State) (q : PlotId) (m : MxeId) (stall : Nat) : State :=
  (s.modEngine m (fun (e : MxeEngine) => { e with stall := satAdd e.stall stall })).modMxeCnt q
    (fun c => { c with stall := satAdd c.stall stall })

/-- The tile's sums are complete (R198): they are drained (R203), or sent to the engine that drains them (R205). -/
def finishTile (s : State) (m : MxeId) (j : Job) (r : MxeRun) (stall : Nat) (w : QuantEntry) (rows : List (List Int)) : State :=
  let q := r.plot
  let o := r.op
  match o.sendTo with
  | some sink =>
    let s := countMacs (countStall s q m stall) q (tileMacs o w r.tile)
    let part : Partial := { plot := q, job := r.job, sink := sink, tile := r.tile, rows := rows }
    let s := { s with partials := s.partials ++ [part] }
    (s.modEngine m (fun e => nextTile (e.setBank { rows := rows }) r)).emit (partialFlits m sink rows)
  | none =>
    match drainTile s q j o r.tile rows with
    | none => rangeEvent s q r.job m
    | some codes =>
      match tileWrites s q j o r.tile codes with
      | none => chargeFault s q r.job .image (some (engineNode m))
      | some ws =>
        let sats := sumNat (codes.map (fun l => (l.filter (fun z => z.2)).length))
        withWrites s q j ws (some (engineNode m)) (fun s =>
          let s := countMacs (countStall s q m stall) q (tileMacs o w r.tile)
          let s := s.modMxeCnt q (fun c => { c with tile := satInc c.tile, sat := satAdd c.sat sats })
          s.modEngine m (fun e => nextTile (e.setBank { rows := rows }) r))

/-- A search operator ends with its results, which are writes of the job. -/
def searchDone (s : State) (m : MxeId) (r : MxeRun) (stall macs out : Nat) (bs : List Byte) (j : Job) : State :=
  withWrites s r.plot j [(out, bs)] (some (engineNode m)) (fun s =>
    (countMacs (countStall s r.plot m stall) r.plot macs).modEngine m (fun e => { e with run := none, draining := false }))

/-- The exact distances of result IDs, row by row through backed pages (R116, R252): the first page that is not resident is waited
for, and the next command goes on from there. A row outside its BACKING entry is a defective image. -/
def rerankRows (q : PlotId) (i : BitVec 16) (m : MxeId) (t : Backing × QuantEntry × QuantEntry) (rowBytes row : Nat) (inner : Bool)
    (pl : Int) : List Nat → State → State
  | [], s => s
  | n :: ns, s =>
    match runningJob s q i, s.mxes[m].run with
    | some j, some r =>
      if r.ids.head? != some n then s
      else
        let node := some (engineNode m)
        let raw := rawRow t.2.1 j t.1 rowBytes n
        if !rowInside raw t.1 then chargeFault s q i .image node
        else rerankRows q i m t rowBytes row inner pl ns
          (withReads s q j (raw.rowRanges j 0 ++ t.2.2.rowRanges j row) node (fun s =>
            match rerankDistance s q j inner pl raw t.2.2 row with
            | none => rangeEvent s q i m
            | some d => s.modEngine m (fun e => { e with run := some { r with ids := ns, dists := r.dists ++ [(d, n)] } })))
    | _, _ => s

/-- A search operator goes on (R242, R252). -/
def searchStep (s : State) (m : MxeId) (stall : Nat) (r : MxeRun) (j : Job) (x : SearchOp) : State :=
  let q := r.plot
  let node := some (engineNode m)
  match x with
  | .pqTable index query row cents inner shift out =>
    match pqTensors s.cfg.content q index query row cents out with
    | none => s
    | some t => withReads s q j (pqReads j row t) node (fun s =>
      match pqTable s q j row inner r.op.pl shift t with
      | none => rangeEvent s q r.job m
      | some bs => searchDone s m r stall (256 * t.1.dim) out bs j)
  | .rerank _ backing rowBytes rows query row inner k2 out =>
    match rerankTensors s.cfg.content q backing rows query row with
    | none => s
    | some t =>
      let s := rerankRows q r.job m t rowBytes row inner r.op.pl r.ids s
      match runningJob s q r.job, s.mxes[m].run with
      | some j, some r =>
        if r.ids.isEmpty then searchDone s m r stall (r.dists.length * t.2.2.k) out (rerankBytes (rerankKeep r.dists k2)) j else s
      | _, _ => s

/-- The tile of a matrix product that is swapped (R198, R200). The engine reads its operands in plot memory and the drain the
second tensor: a page that is not resident, or a cache frame, is waited for, and the command goes on from there (R116, R204). -/
def swapTile (s : State) (m : MxeId) (stall : Nat) (r : MxeRun) (j : Job) : State :=
  let e := s.mxes[m]
  let q := r.plot
  let o := r.op
  match opTensors s q o with
  | none => s
  | some (w, a) =>
    if r.got < o.parts || (o.openEnd && decide (r.tile + 1 = opTiles o)) then s
    else
      let reads := sliceRanges o (w.ranges (w.gsize j)) (a.ranges (a.gsize j)) ++ epiReads o r.tile
      withReads (s.modEngine m (fun e => { e with draining := true })) q j reads (some (engineNode m)) (fun s =>
        match tileSums s q j o w a r.tile e with
        | none => rangeEvent (s.modEngine m (fun e => e.setBank { e.bank with ovf := true })) q r.job m
        | some rows => finishTile s m j r stall w rows)

/-- The swap of a tile (R198, R200), or the results of a search operator (R242, R252). -/
def bankSwap (s : State) (m : MxeId) (stall : Nat) : State :=
  match s.mxes[m].run with
  | none => s
  | some r =>
    match runningJob s r.plot r.job with
    | none => s
    | some j => match r.op.search with
      | some x => searchStep s m stall r j x
      | none => swapTile s m stall r j

/-- A partial tile of another engine is added exactly into the active bank (R205). -/
def receivePartial (s : State) (m : MxeId) : State :=
  let e := s.mxes[m]
  match e.run with
  | none => s
  | some r =>
    match s.partials.find? (fun p => p.sink == m && p.plot == r.plot && p.job == r.job && decide (p.tile = r.tile)) with
    | none => s
    | some p =>
      if r.op.parts ≤ r.got then s
      else
        let x := opTileAt r.op r.tile
        let b := e.bank
        let rows := (List.range x.2.2.1).map (fun i => (List.range x.2.2.2).map (fun c =>
          b.at_ i c + (((p.rows[i]?).getD [])[c]?).getD 0))
        let s := { s with partials := s.partials.erase p }
        if rows.all (fun l => l.all inX72) then
          s.modEngine m (fun e => { e.setBank { rows := rows } with run := some { r with got := r.got + 1 } })
        else rangeEvent (s.modEngine m (fun e => e.setBank { e.bank with ovf := true })) r.plot r.job m

/-- A frame program that ends with its last tile open leaves it in the active bank as a carry (R201). -/
def carryOpen (s : State) (q : PlotId) (i : BitVec 16) : State :=
  (List.finRange 16).foldl (fun s m =>
    let e := s.mxes[m]
    match e.run, runningJob s q i with
    | some r, some j =>
      if !MxeRun.of e.run q i || !r.op.openEnd || decide (r.tile + 1 ≠ opTiles r.op) || decide (r.got < r.op.parts) then s
      else match opTensors s q r.op with
      | none => s
      | some (w, a) =>
        let reads := sliceRanges r.op (w.ranges (w.gsize j)) (a.ranges (a.gsize j))
        withReads s q j reads (some (engineNode m)) (fun s =>
          match tileSums s q j r.op w a r.tile e with
          | none => rangeEvent (s.modEngine m (fun e => e.setBank { e.bank with ovf := true })) q i m
          | some rows =>
            (countMacs s q (tileMacs r.op w r.tile)).modEngine m (fun e =>
              { e.setBank { rows := rows } with run := none, carry := some r }))
    | _, _ => s) s

/-- Step 5 of the commit sequence (R201): a carried bank becomes bank 0 and the active one; every other bank is zero. -/
def MxeEngine.normalise (e : MxeEngine) : MxeEngine :=
  if e.carry.isSome then { e with bank0 := e.bank, bank1 := {}, active := false }
  else { e with bank0 := {}, bank1 := {}, active := false }

/-- Step 5 for every engine. -/
def normaliseBanks (s : State) : State := { s with mxes := s.mxes.map MxeEngine.normalise }

/-- Carry bits of a plot's engines by within-plot index (MXE_PSTATUS). -/
def carryBits (s : State) (q : PlotId) : BitVec 16 :=
  let l := s.cfg.content.mxeList q.val
  (List.range l.length).foldl (fun b k =>
    match l[k]? with
    | some m => if h : m < 16 then setBit b k (s.mxes[m].carry.isSome) else b
    | none => b) 0

/-! ### Helper core clusters (R207 to R210) -/

/-- Does one ready call start before another (R208): higher class, then earlier ready, then lower plot? -/
def startsBefore (s : State) (p1 t1 p2 t2 : Nat) : Bool :=
  let cls (p : Nat) : Nat := if h : p < 65 then (s.plots[p].rws.cls).toNat else 0
  decide (cls p2 < cls p1) || (decide (cls p1 = cls p2) && (decide (t1 < t2) || (decide (t1 = t2) && decide (p1 ≤ p2))))

/-- Does a ready call name an operator that the committed microcode and its job's image hold (R89, R207)? -/
def callKnown (s : State) (c : HelperCall) : Bool :=
  match runningJob s c.plot c.idx with
  | none => false
  | some j => s.cfg.content.ops.any (fun e => e.1 == c.op.toNat && e.2.1 == c.ver.toNat) &&
      j.img.ops.contains (c.op.toNat, c.ver.toNat)

/-- The ready call a free cluster starts, among those of running jobs (R208). -/
def nextHelper (s : State) (ready : List HelperCall) : Option HelperCall :=
  (ready.filter (fun c => callKnown s c)).foldl (fun best c =>
    match best with
    | none => some c
    | some b => if startsBefore s b.plot.val b.readyAt c.plot.val c.readyAt then some b else some c) none

/-- A free cluster starts a call (R208); one whose local SRAM is still to be zeroed is not free. -/
def helperStart (s : State) (h : HccId) (ready : List HelperCall) : State :=
  match s.hccs[h].call, s.hccs[h].dirty, nextHelper s ready with
  | none, none, some c => { s with hccs := s.hccs.set h { call := some c } }
  | _, _, _ => s

/-- The node of a cluster. -/
def clusterNode (h : HccId) : NodeId := mkNode (nodeOf .hcc h.val)

/-- A call traps (R210): the job ends with IMAGE, and what the call wrote in local SRAM is zeroed. -/
def helperTrap (s : State) (h : HccId) (c : HelperCall) : State :=
  let s := { s with hccs := s.hccs.set h {}, hccTrap := satInc s.hccTrap }
  chargeFault (s.modMxeCnt c.plot (fun x => { x with trap := satInc x.trap })) c.plot c.idx .image (some (clusterNode h))

/-- A call ends with its results, which are writes of the job, and zeroes its local SRAM (R208). -/
def helperDone (s : State) (h : HccId) (c : HelperCall) (j : Job) (ws : List (Nat × List Byte)) : State :=
  withWrites s c.plot j ws (some (clusterNode h)) (fun s =>
    ({ s with hccs := s.hccs.set h {} }).modMxeCnt c.plot (fun x => { x with call := satInc x.call }))

/-- The results of an operator: a function of OP_ID, OP_VER and what it reads (R209). -/
def operatorWrites (s : State) (c : HelperCall) (j : Job) : List (Nat × List Byte) :=
  let inputs := c.reads.map (fun r => jobBytes s c.plot j r.1 r.2)
  (List.range c.writes.length).map (fun k =>
    let w := (c.writes[k]?).getD (0, 0)
    (w.1, (List.range w.2).map (Config.operator c.op.toNat c.ver.toNat inputs k)))

/-- An uncorrectable error in a cluster's local SRAM is detected (R210, R119): the calling job faults with ENGINE. -/
def sramError (s : State) (h : HccId) (c : HelperCall) (offset : Nat) : State :=
  detectError s ((nodeOf .hcc h.val) * 2 ^ 25 + 0x1800000 + offset) (fun s =>
    chargeFault s c.plot c.idx .engine (some (clusterNode h)))

/-- An INGEST_DECODE call of an entry ends (R329). -/
def ingestDecode (s : State) (h : HccId) (c : HelperCall) (j : Job) (no : Nat) : State :=
  match s.cfg.content.ingests.find? (fun e => e.no == no && e.plot == c.plot.val && e.plot != 0) with
  | none => helperTrap s h c
  | some e =>
    withReads s c.plot j [(e.slotAddr, e.slotBytes), (e.fieldAddr, 8 * e.count)] (some (clusterNode h))
      (fun s =>
        match ingestWrites e (jobBytes s c.plot j e.slotAddr e.slotBytes) (jobBytes s c.plot j e.fieldAddr (8 * e.count))
            s.free with
        | none => helperTrap s h c
        | some ws => helperDone { s with free := s.free + e.count } h c j ws)

/-- A SIDE_MERGE call of a partition ends (R257): it builds the new sectors of a merge's own generation. -/
def sideMergeEnd (s : State) (h : HccId) (c : HelperCall) (j : Job) (ix : Fin 16) (part first old n out : Nat) : State :=
  let x := (s.plot c.plot).fln.idx[ix]
  match s.cfg.content.index? c.plot.val ix.val with
  | none => helperTrap s h c
  | some e =>
    if x.writer != some c.idx || !x.merge then helperTrap s h c
    else withReads s c.plot j [(old, 4096 * n)] (some (clusterNode h)) (fun s =>
      match sideMerge x e.m part first ((List.range n).map (fun k => jobBytes s c.plot j (old + 4096 * k) 4096)) with
      | none => helperTrap s h c
      | some bs => helperDone s h c j ((List.range bs.length).map (fun k => (out + 4096 * k, (bs[k]?).getD []))))

/-- A helper call ends (R208 to R211): its results are writes of the job, its local SRAM is zeroed, a trap ends the job. -/
def helperEnd (s : State) (h : HccId) (r : HelperEnd) : State :=
  match s.hccs[h].call with
  | none => s
  | some c =>
    match runningJob s c.plot c.idx with
    | none => { s with hccs := s.hccs.set h (s.hccs[h].drop (fun _ => true)) }
    | some j =>
      match r with
      | .trap => helperTrap s h c
      | .done => withReads s c.plot j c.reads (some (clusterNode h)) (fun s => helperDone s h c j (operatorWrites s c j))
      | .layout ms =>
        withReads s c.plot j (ms.map (fun x => (x.1, x.2.2))) (some (clusterNode h)) (fun s =>
          helperDone s h c j (ms.map (fun x => (x.2.1, jobBytes s c.plot j x.1 x.2.2))))
      | .ingestDecode no => ingestDecode s h c j no
      | .sideMerge ix part first old n out => sideMergeEnd s h c j ix part first old n out
      | .sramError off => sramError s h c off.val

/-! ### Meanings -/

/-- MXE_OPERATION_START (R198). -/
def execMxeOperationStart (q : PlotId) (idx : BitVec 16) (engine : MxeId) (op : MxeOp) (s : State) : Result :=
  .next (startOperation s q idx engine op)

/-- BANK_SWAP (R200). -/
def execBankSwap (engine : MxeId) (stall : Nat) (s : State) : Result := .next (bankSwap s engine stall)

/-- PARTIAL_TILE_RECEIVE (R205). -/
def execPartialTileReceive (engine : MxeId) (s : State) : Result := .next (receivePartial s engine)

/-- HELPER_CALL_START (R208). -/
def execHelperCallStart (cluster : HccId) (ready : List HelperCall) (s : State) : Result :=
  .next (helperStart s cluster ready)

/-- HELPER_CALL_END (R208, R210). -/
def execHelperCallEnd (cluster : HccId) (e : HelperEnd) (s : State) : Result := .next (helperEnd s cluster e)

end Sys2Proof.Machine
end

