-- ==== Sys2Proof/Machine/Quant.lean ====
section
/-!
DEFINITION. Sys2Proof/Machine/Quant.lean: the quantise/convert engines (R221 to R228): sources, rotation, outliers, scale
derivation, the two passes.
-/
namespace Sys2Proof.Machine

/-- The node of a quantise/convert engine. -/
def qceNode (n : QceId) : NodeId := mkNode (nodeOf .qce n.val)

/-- Change one engine. -/
def State.modQce (s : State) (n : QceId) (f : QceEngine → QceEngine) : State := { s with qces := s.qces.set n (f s.qces[n]) }

/-- Change the live QCE counters of a plot. -/
def State.modQceCnt (s : State) (q : PlotId) (f : QceCnt → QceCnt) : State :=
  s.modPlot q (fun p => { p with qce := { p.qce with live := f p.qce.live } })

/-! ### Sources -/

/-- A dyadic value `n * 2^e` in units of 2^-256. -/
def dyadic (n : Int) (e : Int) : SrcVal := .fin (roundShift n (e + 256))

/-- Bytes of a source element. -/
def srcBytes (s : State) (q : PlotId) (src : QceSource) : Nat :=
  match src with
  | .s16 _ _ => 2
  | .s32 _ _ | .f32 _ => 4
  | .x72 _ _ => 16
  | .act id => match s.cfg.content.tensor? q.val id with | some e => e.aBytes | none => 1

/-- Source element k of row r, for rows of K elements; on the weight port row r is column r (R217, R219). -/
def srcVal (s : State) (q : PlotId) (j : Job) (src : QceSource) (kk r k : Nat) : SrcVal :=
  match src with
  | .s16 a w => let c := scaleCode w.toNat; dyadic (signed 16 (jobNat s q j (a + r * rowStride kk 2 + 2 * k) 2) * c.1) c.2
  | .s32 a w => let c := scaleCode w.toNat; dyadic (signed 32 (jobNat s q j (a + r * rowStride kk 4 + 4 * k) 4) * c.1) c.2
  | .x72 a p => dyadic (signed 72 (jobNat s q j (a + r * rowStride kk 16 + 16 * k) 9)) (-32 - p)
  | .f32 a => f32Val (jobNat s q j (a + r * rowStride kk 4 + 4 * k) 4)
  | .act id => match s.cfg.content.tensor? q.val id with
    | none => .fin 0
    | some e =>
      let g := e.gsize j
      if e.wport then
        let c := weightScale s q j e g k r
        dyadic (weightAt s q j e g k r * c.1) c.2
      else
        let c := actScale s q j e g r k
        dyadic (actAt s q j e g r k * c.1) c.2

/-- Byte ranges of a source of `rows` rows of K elements. -/
def srcRanges (s : State) (q : PlotId) (j : Job) (src : QceSource) (rows kk : Nat) : List (Nat × Nat) :=
  match src with
  | .s16 a _ => [(a, rows * rowStride kk 2)]
  | .s32 a _ | .f32 a => [(a, rows * rowStride kk 4)]
  | .x72 a _ => [(a, rows * rowStride kk 16)]
  | .act id => match s.cfg.content.tensor? q.val id with
    | none => []
    | some e => e.ranges (e.gsize j)

/-- Bytes of parameters a source is read with. -/
def srcParamBytes (s : State) (q : PlotId) (j : Job) (src : QceSource) (rows kk : Nat) : Nat :=
  match src with
  | .act id => match s.cfg.content.tensor? q.val id with
    | some e => rows * (4 * (kk / max (e.gsize j) 1))
    | none => 0
  | _ => 0

/-! ### Rotation and outliers (R227, R228) -/

/-- Is the number of set bits odd? -/
def oddBits : Nat → Nat → Bool
  | 0, _ => false
  | n + 1, x => (x % 2 == 1) != oddBits n (x / 2)

/-- The finite value of a source element; NaN and infinities count as 0 here (R226). -/
def SrcVal.num : SrcVal → Int
  | .fin n => n
  | _ => 0

/-- A row after rotation (R227): aligned blocks times the Sylvester matrix, divided by their size for weights. -/
def rotateRow (e : QuantEntry) (row : List SrcVal) : List SrcVal :=
  if !e.rotate then row
  else
    let n := 2 ^ e.rotLog
    (List.range row.length).map (fun k =>
      let b := k / n * n
      let x := sumInt ((List.range n).map (fun i =>
        let v := ((row[b + i]?).getD (.fin 0)).num
        if oddBits 16 (i &&& (k % n)) then -v else v))
      .fin (if e.isAct then x else roundShift x (-(e.rotLog : Int))))

/-- The outlier list of an entry (R228). -/
def outliers (s : State) (q : PlotId) (j : Job) (e : QuantEntry) : List Nat :=
  if e.outlier then (List.range e.outCount).map (fun i => jobNat s q j (e.outList + 2 * i) 2) else []

/-- K_o: columns of the outlier tensor (R228). -/
def QuantEntry.ko (e : QuantEntry) : Nat := 32 * ceilDiv e.outCount 32

/-! ### Scale derivation (R223) -/

/-- floor(log2(num / den)) of positive naturals. -/
def floorLog (num den : Nat) : Int :=
  let l : Int := (Nat.log2 num : Int) - (Nat.log2 den : Int)
  let le := if 0 ≤ l then decide (den * 2 ^ l.toNat ≤ num) else decide (den ≤ num * 2 ^ (-l).toNat)
  if le then l else l - 1

/-- num / (den * 2^e) rounded upward. -/
def ceilScaled (num den : Nat) (e : Int) : Nat :=
  if 0 ≤ e then ceilDiv num (den * 2 ^ e.toNat) else ceilDiv (num * 2 ^ (-e).toNat) den

/-- Largest code magnitude Q of a format A8 or A16. -/
def QuantEntry.qTop (e : QuantEntry) : Nat := if e.format = 5 then 65535 else 255

/-- Codebook levels of an entry (R214). -/
def levels (s : State) (q : PlotId) (j : Job) (e : QuantEntry) : List Int :=
  if e.format = 2 then (List.range 16).map (level s q j e)
  else if e.format = 3 then (List.range 256).map (level s q j e) else []

/-- Qmax of a destination (R223). -/
def qMax (e : QuantEntry) (ls : List Int) : Nat :=
  match e.format with
  | 0 => 127
  | 1 => 7
  | 2 | 3 => (ls.map Int.natAbs).foldl max 0
  | _ => if e.zp = 0 then e.qTop else min e.zp (e.qTop - e.zp)

/-- The scale of a group whose largest magnitude is `a` in units of 2^-256 (R223): M, E and whether EMAX clamped it. -/
def deriveScale (e : QuantEntry) (qmax a : Nat) : Nat × Int × Bool :=
  if a = 0 then (0, e.emin, false)
  else
    let p2 := decide (e.format ≤ 1)
    if qmax = 0 then (if p2 then 1 else 1023, e.emax, true)
    else
      let den := qmax * 2 ^ 256
      let f := floorLog a den
      let me : Nat × Int :=
        if p2 then
          let exact := if 0 ≤ f then decide (den * 2 ^ f.toNat = a) else decide (den = a * 2 ^ (-f).toNat)
          (1, if exact then f else f + 1)
        else
          let m := ceilScaled a den (f - 9)
          if m = 1024 then (512, f - 8) else (m, f - 9)
      let me : Nat × Int := if me.2 < e.emin then (if p2 then 1 else ceilScaled a den e.emin, e.emin) else me
      if e.emax < me.2 then (if p2 then 1 else 1023, e.emax, true) else (me.1, me.2, false)

/-- Largest finite magnitude of a group of a row, outlier channels left out. -/
def groupMax (row : List SrcVal) (outs : List Nat) (g gi : Nat) : Nat :=
  ((List.range g).map (fun i =>
    let k := gi * g + i
    if outs.contains k then 0 else ((row[k]?).getD (.fin 0)).num.natAbs)).foldl max 0

/-! ### Codes (R224 to R226) -/

/-- The codebook index nearest to num / den (R225): larger magnitude, then lowest index, on a tie. -/
def nearest (ls : List Int) (num : Int) (den : Nat) : Nat :=
  ((List.range ls.length).foldl (fun (best : Option (Nat × Nat × Nat)) i =>
    let l := (ls[i]?).getD 0
    let d := (num - l * den).natAbs
    match best with
    | none => some (i, d, l.natAbs)
    | some b => if d < b.2.1 ∨ (d = b.2.1 ∧ b.2.2 < l.natAbs) then some (i, d, l.natAbs) else best) none).elim 0 (·.1)

/-- Index of the largest (or smallest) level, the lowest on a tie. -/
def extreme (ls : List Int) (low : Bool) : Nat :=
  ((List.range ls.length).foldl (fun (best : Option (Nat × Int)) i =>
    let l := (ls[i]?).getD 0
    match best with
    | none => some (i, l)
    | some b => if (low && decide (l < b.2)) || (!low && decide (b.2 < l)) then some (i, l) else best) none).elim 0 (·.1)

/-- The code of a value under a scale, and whether it was limited (R224, R226). -/
def codeFor (e : QuantEntry) (ls : List Int) (m : Nat) (ex : Int) (v : SrcVal) : Nat × Bool :=
  let qm : Int := if e.format = 1 then 7 else 127
  let w := if e.format = 1 then 4 else 8
  match v with
  | .inf neg =>
    if e.format ≤ 1 then (unsigned w (if neg then -qm else qm), false)
    else if e.isAct then (if neg then 0 else e.qTop, false)
    else (extreme ls neg, false)
  | v =>
    let num : Int := if m = 0 then 0 else v.num
    let den : Nat := if m = 0 then 1 else m * 2 ^ (ex + 256).toNat
    if e.format ≤ 1 then
      let x := limit (-qm) qm (roundDiv num den)
      (unsigned w x.1, x.2)
    else if e.isAct then
      let x := limit 0 e.qTop (roundDiv num den + e.zp)
      (x.1.toNat, x.2)
    else (nearest ls num den, false)

/-! ### Writes of a row -/

/-- The parameter entry a conversion writes (R216, R223). -/
def paramEntry (e : QuantEntry) (m : Nat) (ex : Int) : List Byte :=
  leBytes 2 (scaleWord m ex) ++ (if e.isAct then leBytes 2 e.zp else [])

/-- Where the parameter entry of row r and group gi of a destination lies. -/
def paramAddr (e : QuantEntry) (g r gi : Nat) : Nat := if e.wport then e.wScale g (gi * g) r else e.aParam g r (gi * g)

/-- Codes packed two to a byte. -/
def packNibbles : List Nat → List Byte
  | a :: b :: l => BitVec.ofNat 8 (a % 16 + 16 * (b % 16)) :: packNibbles l
  | [a] => [BitVec.ofNat 8 (a % 16)]
  | [] => []

/-- What the codes of row r (column r on the weight port) write. -/
def codeWrites (e : QuantEntry) (r : Nat) (codes : List Nat) : List (Nat × List Byte) :=
  if e.wport then
    (List.range e.nkb).map (fun b =>
      let l := (codes.drop (b * e.kb)).take e.kb
      (e.wAddr (b * e.kb) r, if e.nibbles then packNibbles l else l.map (BitVec.ofNat 8)))
  else [(e.aAddr r 0, codes.flatMap (leBytes e.aBytes))]

/-! ### Calls (R221) -/

/-- The ready call a free engine starts (R208, R221). -/
def nextQce (s : State) (ready : List QceCall) : Option QceCall :=
  (ready.filter (fun c => (runningJob s c.plot c.idx).isSome)).foldl (fun best c =>
    match best with
    | none => some c
    | some b => if startsBefore s b.plot.val b.readyAt c.plot.val c.readyAt then some b else some c) none

/-- A free engine starts a call. -/
def qceStart (s : State) (n : QceId) (ready : List QceCall) : State :=
  match (s.qces[n]).call, (s.qces[n]).dirty, nextQce s ready with
  | none, none, some c => s.modQce n (fun e => { e with call := some c, pass := 1 })
  | _, _, _ => s

/-- A trap (R223, R228): counted, and the job ends with IMAGE. -/
def qceTrap (s : State) (n : QceId) (c : QceCall) : State :=
  let s := { (s.modQce n (fun e => { e with call := none, pass := 0 })) with qceTrap := satInc s.qceTrap }
  chargeFault (s.modQceCnt c.plot (fun x => { x with trap := satInc x.trap })) c.plot c.idx .image (some (qceNode n))

/-- Does the call name a source (R220): a tensor given by TENSOR_ID is an A8 or A16 tensor of the plot? -/
def sourceOk (s : State) (c : QceCall) : Bool :=
  match c.source with
  | .act id => match s.cfg.content.tensor? c.plot.val id with | some e => e.isAct | none => false
  | _ => true

/-- What both passes work on: the job, the destination and the outlier destination if there is one. -/
def qceWork (s : State) (c : QceCall) : Option (Job × QuantEntry × Option QuantEntry) :=
  match runningJob s c.plot c.idx, s.cfg.content.tensor? c.plot.val c.dest with
  | some j, some e => if !sourceOk s c then none else some (j, e, if e.outlier then s.cfg.content.tensor? c.plot.val e.outTensor else none)
  | _, _ => none

/-- What both passes read: the source, the outlier list and the codebook. -/
def qceReads (s : State) (c : QceCall) (j : Job) (e : QuantEntry) : List (Nat × Nat) :=
  srcRanges s c.plot j c.source e.cols e.k ++ (if e.outlier then [(e.outList, 2 * e.outCount)] else []) ++
    (if e.format = 2 then [(e.cb, 16)] else if e.format = 3 then [(e.cb, 256)] else [])

/-- The scale tensors that pass 2 reads back: the destination's and the outlier destination's (R224, R228). -/
def qceScales (j : Job) (e : QuantEntry) (eo : Option QuantEntry) : List (Nat × Nat) :=
  e.scaleRange (e.gsize j) :: (match eo with | some d => [d.scaleRange 32] | none => [])

/-- Bytes a pass reads (R222): elements, parameters, codebook, outlier list. -/
def qceIn (s : State) (c : QceCall) (j : Job) (e : QuantEntry) : Nat :=
  e.cols * e.k * srcBytes s c.plot c.source + srcParamBytes s c.plot j c.source e.cols e.k +
    (if e.outlier then 2 * e.outCount else 0) + (if e.format = 2 then 16 else if e.format = 3 then 256 else 0)

/-- A pass's bytes and cycles are counted (R222, R230). -/
def countPass (s : State) (n : QceId) (q : PlotId) (inB outB : Nat) : State :=
  let s := s.modQceCnt q (fun x => { x with bytes := satAdd x.bytes inB })
  { (s.modQce n (fun e => { e with busy := e.busy + max (ceilDiv inB 64) (ceilDiv outB 64) + 96 })) with
    qceBytes := satAdd s.qceBytes inB }

/-- A row of the source. -/
def qceRow (s : State) (c : QceCall) (j : Job) (e : QuantEntry) (r : Nat) : List SrcVal :=
  (List.range e.k).map (srcVal s c.plot j c.source e.k r)

/-- Outlier values of a row, padded to K_o with zeros. -/
def outRow (e : QuantEntry) (outs : List Nat) (row : List SrcVal) : List SrcVal :=
  (List.range e.ko).map (fun k => match outs[k]? with | some i => (row[i]?).getD (.fin 0) | none => .fin 0)

/-- Pass 1 (R223): every group's scale. -/
def qcePass1 (s : State) (n : QceId) : State :=
  match (s.qces[n]).call with
  | none => s
  | some c =>
    if (s.qces[n]).pass ≠ 1 then s
    else match qceWork s c with
    | none => chargeFault (s.modQce n (fun e => { e with call := none, pass := 0 })) c.plot c.idx .image (some (qceNode n))
    | some (j, e, eo) =>
      let q := c.plot
      withReads s q j (qceReads s c j e) (some (qceNode n)) (fun s =>
        let outs := outliers s q j e
        let ls := levels s q j e
        if !outliersOk outs e.k || (e.outlier && eo.isNone) || ((e.format == 2 || e.format == 3) && ls.all (· == 0)) then
          qceTrap s n c
        else
          let g := e.gsize j
          let raw := (List.range e.cols).map (qceRow s c j e)
          let one (d : QuantEntry) (dg : Nat) (skip : List Nat) (r : Nat) (row : List SrcVal) :
              List ((Nat × List Byte) × Bool) :=
            (List.range (row.length / max dg 1)).map (fun gi =>
              let z := deriveScale d (qMax d ls) (groupMax row skip dg gi)
              ((paramAddr d dg r gi, paramEntry d z.1 z.2.1), z.2.2))
          let main := (List.range e.cols).flatMap (fun r => one e g outs r (rotateRow e ((raw[r]?).getD [])))
          let extra := match eo with
            | some d => (List.range e.cols).flatMap (fun r => one d 32 [] r (outRow e outs ((raw[r]?).getD [])))
            | none => []
          let all := main ++ extra
          let bad := sumNat (raw.map (fun row => (row.filter (fun v => match v with | .fin _ => false | _ => true)).length))
          let ws := all.map (·.1)
          withWrites s q j ws (some (qceNode n)) (fun s =>
            let s := countPass s n q (qceIn s c j e) (sumNat (ws.map (fun w => w.2.length)))
            let s := s.modQceCnt q (fun x => { x with
              clamp := satAdd x.clamp (all.filter (·.2)).length, nonfin := satAdd x.nonfin bad })
            s.modQce n (fun e => { e with pass := 2 })))

/-- The scale that pass 1 wrote for row r and group gi of a destination. -/
def writtenScale (s : State) (q : PlotId) (j : Job) (d : QuantEntry) (dg r gi : Nat) : Nat × Int :=
  scaleCode (jobNat s q j (paramAddr d dg r gi) 2)

/-- Pass 2 (R224): every code, with one rounding; the call ends. -/
def qcePass2 (s : State) (n : QceId) : State :=
  match (s.qces[n]).call with
  | none => s
  | some c =>
    if (s.qces[n]).pass ≠ 2 then s
    else match qceWork s c with
    | none => chargeFault (s.modQce n (fun e => { e with call := none, pass := 0 })) c.plot c.idx .image (some (qceNode n))
    | some (j, e, eo) =>
      let q := c.plot
      let g := e.gsize j
      withReads s q j (qceReads s c j e ++ qceScales j e eo) (some (qceNode n)) (fun s =>
        let outs := outliers s q j e
        let ls := levels s q j e
        let code (d : QuantEntry) (dg r : Nat) (skip : List Nat) (row : List SrcVal) : List (Nat × Bool) :=
          (List.range row.length).map (fun k =>
            if skip.contains k then (d.zp, false)
            else
              let z := writtenScale s q j d dg r (k / max dg 1)
              codeFor d ls z.1 z.2 ((row[k]?).getD (.fin 0)))
        let rows := (List.range e.cols).map (fun r =>
          let raw := qceRow s c j e r
          (code e g r outs (rotateRow e raw),
            match eo with | some d => code d 32 r [] (outRow e outs raw) | none => []))
        let ws := (List.range rows.length).flatMap (fun r => match rows[r]? with
          | some x => codeWrites e r (x.1.map (·.1)) ++
              (match eo with | some d => codeWrites d r (x.2.map (·.1)) | none => [])
          | none => [])
        let sats := sumNat (rows.map (fun x => (x.1.filter (·.2)).length + (x.2.filter (·.2)).length))
        let scales := e.cols * (e.k / max g 1) * (if e.isAct then 4 else 2) +
          (match eo with | some _ => e.cols * (e.ko / 32) * 4 | none => 0)
        withWrites s q j ws (some (qceNode n)) (fun s =>
          let s := countPass s n q (qceIn s c j e + scales) (sumNat (ws.map (fun w => w.2.length)))
          let s := s.modQceCnt q (fun x => { x with
            sat := satAdd x.sat sats, call := satInc x.call, lastTensor := BitVec.ofNat 16 c.dest, lastEngine := BitVec.ofNat 2 n.val })
          s.modQce n (fun e => { e with call := none, pass := 0 })))

/-! ### Meanings -/

/-- QCE_CALL_START (R221, R208). -/
def execQceCallStart (engine : QceId) (ready : List QceCall) (s : State) : Result := .next (qceStart s engine ready)

/-- QCE_PASS1 (R223). -/
def execQcePass1 (engine : QceId) (s : State) : Result := .next (qcePass1 s engine)

/-- QCE_PASS2 (R224). -/
def execQcePass2 (engine : QceId) (s : State) : Result := .next (qcePass2 s engine)

end Sys2Proof.Machine
end

