-- ==== Sys2Proof/Machine/Rws.lean ====
section
/-!
DEFINITION. Sys2Proof/Machine/Rws.lean: the RWS registers (R9, R11, R69): their words, the plot whose commit each belongs
to, their PF BAR0 offsets (R75) and their writable bits.
-/
namespace Sys2Proof.Machine

/-- Names of the RWS registers. -/
inductive RwsReg where
  | period | src | ppsDiv | plant | limit | cap
  | qos | anneal | tapeCfg | tapeLo | tapeHi | group
deriving DecidableEq, Repr

/-- The bits of a register that hold RWS fields (Tables 1-11, 2-13, 5-5, 6-7, 8-6, 11-7). -/
def RwsReg.mask : RwsReg → Nat
  | .period => 0x1FFFF
  | .src => 0x3
  | .ppsDiv => 0x3FFF
  | .plant => 0xFFF00FF
  | .limit => 0x3FF
  | .cap => 0x1FF
  | .qos => 0x3
  | .anneal => 0x10F
  | .tapeCfg => 0x30FFF
  | .tapeLo => 0xFFFFF000
  | .tapeHi => 0xFFFFFFFF
  | .group => 0x3

/-- The RWS register at a PF BAR0 offset, with the plot whose commit it belongs to (R69). -/
def rwsAt (off : Nat) : Option (Nat × RwsReg) :=
  if off = 0x4 then some (0, .period)
  else if off = 0x8 then some (0, .src)
  else if off = 0xC then some (0, .ppsDiv)
  else if off = 0x10 then some (0, .plant)
  else if off = 0x14 then some (0, .limit)
  else if off = 0xA0004 then some (0, .cap)
  else if 0x11000 ≤ off ∧ off < 0x11000 + 0x100 * 64 ∧ off % 0x100 = 4 then some ((off - 0x11000) / 0x100 + 1, .qos)
  else if 0x41000 ≤ off ∧ off < 0x41000 + 0x80 * 64 ∧ off % 0x80 = 0 then some ((off - 0x41000) / 0x80 + 1, .anneal)
  else if 0x51080 ≤ off ∧ off < 0x51080 + 0x80 * 64 then
    let p := (off - 0x51000) / 0x80
    if off % 0x80 = 0 then some (p, .tapeCfg)
    else if off % 0x80 = 4 then some (p, .tapeLo)
    else if off % 0x80 = 8 then some (p, .tapeHi)
    else none
  else if 0x71000 ≤ off ∧ off < 0x71000 + 0x40 * 64 ∧ off % 0x40 = 0 then some ((off - 0x71000) / 0x40 + 1, .group)
  else none

/-- A device-wide RWS register's word (reserved bits read 0, R8). -/
def DevRws.word (d : DevRws) : RwsReg → Nat
  | .period => d.period.toNat
  | .src => d.src.toNat
  | .ppsDiv => d.ppsDiv.toNat
  | .plant => 65536 * d.plantWin.toNat + d.plantEntry.toNat
  | .limit => d.limit.toNat
  | .cap => d.cap.toNat
  | _ => 0

/-- A device-wide RWS register takes a word; its reserved bits are ignored (R8). -/
def DevRws.set (d : DevRws) (r : RwsReg) (v : Nat) : DevRws :=
  match r with
  | .period => { d with period := BitVec.ofNat 17 v }
  | .src => { d with src := BitVec.ofNat 2 v }
  | .ppsDiv => { d with ppsDiv := BitVec.ofNat 14 v }
  | .plant => { d with plantWin := BitVec.ofNat 12 (v / 65536), plantEntry := BitVec.ofNat 8 v }
  | .limit => { d with limit := BitVec.ofNat 10 v }
  | .cap => { d with cap := BitVec.ofNat 9 v }
  | _ => d

/-- A plot's RWS register's word. -/
def PlotRws.word (p : PlotRws) : RwsReg → Nat
  | .qos => p.cls.toNat
  | .anneal => 256 * b2n p.strict + p.cap.toNat
  | .tapeCfg => 131072 * b2n p.tapeDir + 65536 * b2n p.tapeOn + p.tapeLen.toNat
  | .tapeLo => p.tapeBase.toNat % 2 ^ 32
  | .tapeHi => p.tapeBase.toNat / 2 ^ 32
  | .group => p.group.toNat
  | _ => 0

/-- A plot's RWS register takes a word. -/
def PlotRws.set (p : PlotRws) (r : RwsReg) (v : Nat) : PlotRws :=
  match r with
  | .qos => { p with cls := BitVec.ofNat 2 v }
  | .anneal => { p with strict := bitOf v 8, cap := BitVec.ofNat 4 v }
  | .tapeCfg => { p with tapeDir := bitOf v 17, tapeOn := bitOf v 16, tapeLen := BitVec.ofNat 12 v }
  | .tapeLo => { p with tapeBase := BitVec.ofNat 64 (p.tapeBase.toNat / 2 ^ 32 * 2 ^ 32 + fieldOf v 31 12 * 4096) }
  | .tapeHi => { p with tapeBase := BitVec.ofNat 64 (v * 2 ^ 32 + p.tapeBase.toNat % 2 ^ 32) }
  | .group => { p with group := BitVec.ofNat 2 v }
  | _ => p

/-- A write of an RWS register lands in its shadow (R9). -/
def State.setShadow (s : State) (q : PlotId) (r : RwsReg) (v : Nat) : State :=
  if q = 0 then s.modFrm (fun f => { f with shadow := f.shadow.set r v })
  else s.modPlot q (fun p => { p with shadow := p.shadow.set r v })

/-- REVERT: the committed values of a plot's registers go into its shadows (R91). -/
def revertPlot (s : State) (q : PlotId) : State :=
  if q = 0 then s.modFrm (fun f => { f with shadow := f.rws })
  else s.modPlot q (fun p => { p with shadow := p.rws })

/-! ### REVERT row -/

/-- REVERT (R91): the PF for any plot, a VF for its own. -/
def revertFrom (s : State) (f : Fn) (q : PlotId) : State := if f = 0 ∨ f = q then revertPlot s q else s

end Sys2Proof.Machine
end

