-- ==== Sys2Proof/Machine/Format.lean ====
section
/-!
DEFINITION. Sys2Proof/Machine/Format.lean: the parts of a bit-stream file (R70, Tables 3-2 to 3-9), the FORMAT checks of
every section type (R72, R75, R98, R99, R130, R161, R176, R220, R233, R236, R322) and SCOPE (R74).
-/
namespace Sys2Proof.Machine

/-! ### File header and section table -/

/-- A section table entry (Table 3-3). -/
structure TabEntry where
  type : Nat
  plot : Nat
  off : Nat
  len : Nat
  crc : Nat
deriving DecidableEq, Repr

/-- Header fields of Table 3-2. -/
def hdrKind (d : List Byte) : Nat := leAt d 6 1
def hdrSlipPlot (d : List Byte) : Nat := leAt d 9 1
def hdrSections (d : List Byte) : Nat := leAt d 10 2
def hdrTotal (d : List Byte) : Nat := leAt d 12 4
def hdrSeq (d : List Byte) : Nat := leAt d 16 8
def hdrBase (d : List Byte) : Nat := leAt d 24 8

/-- The offset of the owner signature block: the last 256 bytes (R70). -/
def sigOff (d : List Byte) : Nat := d.length - 256

/-- HEADER check of Table 3-14. -/
def headerOk (d : List Byte) : Bool :=
  let kind := hdrKind d
  leAt d 0 4 == 0x42374E41 && leAt d 4 2 == 1 && decide (kind ≤ 1) && fieldOf (leAt d 7 1) 7 2 == 0 &&
    (if kind = 1 then decide (1 ≤ hdrSlipPlot d) && decide (hdrSlipPlot d ≤ 64)
     else hdrSlipPlot d == 0 && hdrBase d == 0) &&
    decide (1 ≤ hdrSections d) && decide (hdrSections d ≤ 512) && leAt d 48 4 == 64 &&
    leAt d 52 4 + 256 == hdrTotal d && zeroAt d 56 4 && crcOk d 0 60 60

/-- PART check of Table 3-14. -/
def partOk (f : FuseState) (d : List Byte) : Bool :=
  bitOf (leAt d 7 1) (b2n f.gradeF) && decide (leAt d 8 1 ≤ b2n f.revB1)

/-- The raw section table entries. -/
def tableRaw (d : List Byte) : List (List Byte) :=
  (List.range (hdrSections d)).map (fun i => slice d (64 + 32 * i) 32)

/-- The fields of a section table entry. -/
def tabEntry (e : List Byte) : TabEntry :=
  { type := leAt e 0 2, plot := leAt e 2 1, off := leAt e 4 4, len := leAt e 8 4, crc := leAt e 12 4 }

/-- The section table. -/
def sectionTable (d : List Byte) : List TabEntry := (tableRaw d).map tabEntry

/-- Sections in order, aligned, inside their region, with zero padding between parts; `pos` is where the part before ends. -/
def layoutOk (d : List Byte) (sig : Nat) : Nat → List TabEntry → Bool
  | pos, [] => decide (pos ≤ sig) && zeroAt d pos (sig - pos)
  | pos, t :: ts =>
    decide (pos ≤ t.off) && t.off % 64 == 0 && decide (t.off + t.len ≤ sig) && zeroAt d pos (t.off - pos) &&
      layoutOk d sig (t.off + t.len) ts

/-- TABLE check of Table 3-14. -/
def tableOk (d : List Byte) : Bool :=
  (tableRaw d).all (fun e => crcOk e 0 28 28 && zeroAt e 3 1 && zeroAt e 16 12) &&
    layoutOk d (sigOff d) (64 + 32 * hdrSections d) (sectionTable d)

/-- The bytes of a section. -/
def sectionBytes (d : List Byte) (t : TabEntry) : List Byte := (d.drop t.off).take t.len

/-- The signature block of a MICROCODE section: its last 256 bytes, if it has that many (Table 3-8). -/
def vendorBlock (b : List Byte) : Option (List Byte) := if 256 ≤ b.length then some (b.drop (b.length - 256)) else none

/-- SECTION_CRC check of Table 3-14. -/
def crcsOk (d : List Byte) : Bool :=
  (sectionTable d).all (fun t =>
    let b := sectionBytes d t
    t.crc == (crc32c b).toNat && (t.type != 0x20 ||
      (match vendorBlock b with | some v => crcOk v 0 252 252 | none => true))) &&
    crcOk (d.drop (sigOff d)) 0 252 252

/-! ### Signatures (R76 to R78) -/

/-- Bytes of a fused hash, byte k from bits 8k + 7 to 8k (Table 3-17, CFG_FUSE_DATA). -/
def hashBytes (h : BitVec 384) : List Byte := leBytes 48 h.toNat

/-- The field prime of curve P-384 and its coefficient b, as FIPS 186-5 gives them (R76). -/
def p384Prime : Nat := 2 ^ 384 - 2 ^ 128 - 2 ^ 96 + 2 ^ 32 - 1

/-- The coefficient b of y^2 = x^3 - 3x + b. -/
def p384B : Nat :=
  0xB3312FA7E23EE7E4988E056BE3F82D19181D9C6EFE8141120314088F5013875AC656398D8A2ED19D2A85C8EDD3EC2AEF

/-- Is the 96-byte octet string a valid P-384 public key (R76): X and Y below the field prime, and the point on the curve? -/
def p384Valid (key : List Byte) : Bool :=
  let x := beNat (slice key 0 48)
  let y := beNat (slice key 48 48)
  let p := p384Prime
  decide (key.length = 96) && decide (x < p) && decide (y < p) &&
    decide (y * y % p = (x * x * x + (p - 3) * x + p384B) % p)

/-- A slot that has been written: any fuse of its hash, CRC or OWNER_VALID bit is blown (R78). -/
def KeySlot.written (k : KeySlot) : Bool := !(k.hash == 0) || !(k.crc == 0) || k.valid

/-- What CFG_FUSE_STATUS.REVOKED shows of a slot (R78): a slot never written reads neither valid nor revoked. -/
def KeySlot.revoked (k : KeySlot) : Bool := k.written && (k.revoke || !(crc32c (hashBytes k.hash) == k.crc))

/-- Is the slot accepted for signing (R78)? -/
def KeySlot.accepted (k : KeySlot) : Bool := k.valid && !k.revoked

/-- Is any owner slot accepted? -/
def FuseState.owned (f : FuseState) : Bool := (List.finRange 4).any (fun i => f.owner[i].accepted)

/-- A signature block that is well formed, whose key matches the hash and is valid, and whose signature verifies. -/
def blockOk (b msg : List Byte) (hash : BitVec 384) : Bool :=
  let key := slice b 8 96
  leAt b 0 4 == 0x47534E41 && leAt b 4 2 == 1 && zeroAt b 200 52 && Config.sha384 key == hash && p384Valid key &&
    Config.ecdsaVerify key (slice b 104 48) (slice b 152 48) msg

/-- OWNER_SIG check of Table 3-14 (R76, R77): the slot that signed, or none. -/
def ownerSlot (f : FuseState) (d : List Byte) : Option (Fin 4) :=
  let b := d.drop (sigOff d)
  (List.finRange 4).find? (fun i =>
    leAt b 6 2 == i.val && f.owner[i].accepted && blockOk b (d.take (sigOff d)) f.owner[i].hash)

/-- VENDOR_SIG check of Table 3-14. A section too short to hold the block is left to FORMAT. -/
def vendorOk (f : FuseState) (d : List Byte) : Bool :=
  ((sectionTable d).filter (fun t => t.type == 0x20)).all (fun t =>
    let b := sectionBytes d t
    match vendorBlock b with
    | some v => leAt v 6 2 == 0x100 && blockOk v (b.take (b.length - 256)) f.vendorHash
    | none => true)

/-! ### Entries of each section type -/

/-- Is a Nat in a closed range? -/
def within (lo hi n : Nat) : Bool := decide (lo ≤ n) && decide (n ≤ hi)

/-- ENTRY_SIZE of a section type (Table 3-5), or none for an unknown TYPE. -/
def entrySize (type : Nat) : Option Nat :=
  match type with
  | 0x01 => some 32 | 0x02 => some 16 | 0x03 => some 32 | 0x05 => some 8 | 0x10 => some 64 | 0x11 => some 64
  | 0x12 => some 64 | 0x13 => some 64 | 0x20 => some 16
  | _ => none

/-- Data rates of Table 10-4. -/
def ratesMts : List Nat := [200, 266, 333, 400, 533, 667, 800, 1066, 1200, 1333, 1600]

/-- A flash channel descriptor within its ranges (Table 3-6, R233). -/
def chanOk (e : List Byte) : Bool :=
  let c := chanOf e
  decide (leAt e 0 1 ≤ 7) && decide (c.ceMask ≤ 15) && zeroAt e 3 1 &&
    (if c.ceMask = 0 then c.luns == 0 && zeroAt e 4 28
     else within 1 8 c.luns && ratesMts.contains c.rate && c.addrCyc % 16 == 2 && within 3 4 (c.addrCyc / 16) &&
       [8, 16, 32].contains c.pageKib && decide (c.pageKib / 4 * 200 ≤ c.spare) && within 64 4096 c.pages &&
       within 1 1048576 c.blocks && within 1 1000 c.tR && within 1 10000 c.tProg && within 1 50000 c.tBers &&
       within 1 100 c.eccWarn && zeroAt e 27 5 && decide (c.pageKib * c.pages * c.blocks ≤ 256 * 1048576))

/-- STRUCTURE entries: each channel once (Table 3-6). -/
def structureOk (es : List (List Byte)) : Bool := es.all chanOk && noDup (es.map (fun e => leAt e 0 1))

/-- A route entry within the ranges of Table 4-5. -/
def routeOk (l : Nat) (e : List Byte) : Bool :=
  let r := routeOf e
  decide (r.plot ≤ 64) &&
    (if r.kind = 3 then !(routeTargets e).isEmpty && zeroAt e 14 2
     else decide (r.kind ≤ 2) && decide (r.src < 120) && decide (r.dst < 120) && (r.kind == 0 || r.dst == 0) &&
       decide (r.start < l) && decide (r.flits ≤ l) && (r.kind != 2 || r.flits == 0) && decide (r.path < 8) &&
       zeroAt e 9 1 && zeroAt e 12 4)

/-- KIND 3 entries follow, once, the entry they extend (R99); `open_` is the plot of an entry that still needs one. -/
def extensionsOk : Option Nat → List Route → Bool
  | o, [] => o.isNone
  | some p, r :: rs => r.kind == 3 && r.plot == p && extensionsOk none rs
  | none, r :: rs => r.kind != 3 && extensionsOk (if r.kind = 0 then none else some r.plot) rs

/-- ROUTES checks of R98 and R99. -/
def routesOk (l : Nat) (es : List (List Byte)) : Bool :=
  let rs := es.map routeOf
  es.all (routeOk l) && extensionsOk none rs &&
    noDup ((rs.filter (fun r => r.kind != 3)).map (fun r => (r.plot, r.id)))

/-- A plot map entry within its ranges (Table 3-7). -/
def pmapOk (e : List Byte) : Bool :=
  within 1 64 (leAt e 0 1) && zeroAt e 1 1 && decide (leAt e 2 2 ≤ 2816) && zeroAt e 14 2 &&
    (List.range 8).all (fun l => decide (leAt e (16 + l) 1 ≤ 128)) && zeroAt e 24 8

/-- An ANNEAL entry within its ranges (Tables 5-2, 6-4, 7-2; R130, R161, R176). -/
def annealEntryOk (param : Nat) (e : List Byte) : Bool :=
  match leAt e 0 1 with
  | 1 => zeroAt e 1 3 && leAt e 4 4 == param && within 1 32768 (leAt e 4 4) && within 1 64 (leAt e 8 1) && zeroAt e 9 55
  | 2 =>
    let al := fun o => leAt e o 8 % 64 == 0
    decide (leAt e 1 1 ≤ 63) && decide (leAt e 2 1 ≤ 2) && decide (leAt e 3 1 ≤ 1) && within 1 512 (leAt e 4 2) &&
      [0, 16, 256].contains (leAt e 6 2) && zeroAt e 12 4 && al 16 && al 24 && (leAt e 2 1 == 2 || al 32) && al 40 &&
      (leAt e 3 1 == 0 || al 48) && al 56
  | 3 => decide (leAt e 3 1 ≤ 1) && decide (leAt e 4 1 < leAt e 1 1) && zeroAt e 5 59
  | 4 =>
    let k := leAt e 2 1
    let step := leAt e 4 2
    let cap := leAt e 8 4
    decide (leAt e 1 1 ≤ 3) && zeroAt e 3 1 && zeroAt e 6 2 && decide (cap ≤ 131071) && zeroAt e 12 52 &&
      (bitOf (leAt e 1 1) 0 || (k == 0 && step == 0 && cap == 0))
  | 5 => decide (leAt e 1 1 ≤ 63) && decide (leAt e 2 1 ≤ 31) && zeroAt e 3 1 && zeroAt e 6 2 &&
      decide (1 ≤ leAt e 8 4) && zeroAt e 12 52
  | 6 =>
    let g := graftEntry e
    let nb := g.total / 512
    decide (g.policy ≤ 2) && decide (leAt e 2 1 ≤ 3) && decide (g.format ≤ 2) && within 1 64 g.w &&
      (if g.policy = 0 then within 1 nb g.stride else g.stride == 0) &&
      (if g.policy = 2 then decide (g.retain < g.w) else g.retain == 0) &&
      (if g.policy = 1 then decide (1 ≤ g.listLen) else g.listLen == 0) && decide (1 ≤ g.sweeps) &&
      g.total % 512 == 0 && decide (512 * g.w < g.total) && g.dir != 0 && g.bias != 0 && g.state != 0 && g.best != 0 &&
      (if g.policy = 1 then g.list != 0 else g.list == 0) && zeroAt e 44 20
  | _ => false

/-- The ranges [FIRST, FIRST + V) of TILE entries cover 0 to n - 1 exactly (R130), taken from 0 upwards. -/
def coverFrom : Nat → List TileEntry → Nat → Nat → Bool
  | 0, _, pos, n => pos == n
  | fuel + 1, ts, pos, n =>
    match ts.find? (fun t => t.first == pos) with
    | none => pos == n && ts.isEmpty
    | some t => coverFrom fuel (ts.erase t) (pos + t.v) n

/-- GRAFT conditions that compare the entry with the section's others (R176). -/
def graftFits (x : Section) (e : List Byte) : Bool :=
  let g := graftEntry e
  let tiles := (x.ofType 2).map tileEntry
  x.param == 512 * g.w && tiles.length == g.w &&
    tiles.all (fun t => t.v == 512 && t.first == 512 * t.tile && t.format == g.format) &&
    (match (x.ofType 2) with | [] => true | t :: ts => ts.all (fun u => leAt u 32 8 == leAt t 32 8))

/-- ANNEAL section checks (R130, R161, R176). -/
def annealOk (x : Section) : Bool :=
  let tiles := (x.ofType 2).map tileEntry
  let count := leAt ((x.ofType 3).headD []) 1 1
  let idx := (x.ofType 5).map (fun e => leAt e 1 1)
  x.entries.all (annealEntryOk x.param) && (x.ofType 1).length == 1 && (x.ofType 3).length == 1 &&
    (x.ofType 4).length == 1 && leAt ((x.ofType 1).headD []) 8 1 == tiles.length && noDup (tiles.map (·.tile)) &&
    coverFrom (tiles.length + 1) tiles 0 x.param && noDup idx && idx.length == count &&
    idx.all (fun i => decide (i < count)) &&
    (match x.ofType 6 with | [] => true | [g] => graftFits x g | _ => false)

/-- A QUANT entry within R220. -/
def quantEntryOk (b : List Byte) : Bool :=
  let e := quantEntry b
  decide (e.format ≤ 5) && decide (e.group ≤ 3) && decide (leAt b 4 1 ≤ 7) && !(e.wport && e.format == 5) &&
    (e.wport || e.isAct) && !(e.rotate && e.outlier) && (if e.rotate then within 5 7 e.rotLog else e.rotLog == 0) &&
    (e.outlier || e.outCount == 0) && (e.format != 4 || decide (e.zp ≤ 255)) && decide (-32 ≤ e.emin) &&
    decide (e.emin ≤ e.emax) && decide (e.emax ≤ 31) && within 32 65536 e.k &&
    e.k % (if e.group = 0 then 128 else groupSize (e.group - 1)) == 0 && within 1 1048576 e.cols && zeroAt b 20 4 &&
    e.data % 64 == 0 && e.scale % 64 == 0 &&
    (if e.format = 2 ∨ e.format = 3 then e.cb != 0 && e.cb % 64 == 0 else e.cb == 0) &&
    (e.outlier || e.outList == 0) && zeroAt b 58 6

/-- QUANT section checks. -/
def quantOk (es : List (List Byte)) : Bool := es.all quantEntryOk && noDup (es.map (fun e => leAt e 0 2))

/-- A side-list capacity of R236. -/
def sideCapOk (n : Nat) : Bool := n == 0 || ((List.range 13).any (fun i => n == 1024 * 2 ^ i))

/-- A SEARCH entry within R236. -/
def searchEntryOk (b : List Byte) : Bool :=
  decide (leAt b 1 1 ≤ 15) &&
    (match leAt b 0 1 with
     | 1 =>
       let e := indexEntry b
       zeroAt b 3 1 && within 1 65536 e.nlist && e.laneMask != 0 && within 1 15 e.ceMask && e.lunMask != 0 &&
         decide (e.home ≤ 7) && bitOf e.laneMask e.home && decide (1 ≤ e.blocks) && sideCapOk e.sideCap && zeroAt b 60 4
     | 2 =>
       let e := backingEntry b
       zeroAt b 2 6 && e.base % 65536 == 0 && decide (0x800000000 ≤ e.base) && decide (1 ≤ e.pages) &&
         decide (e.base + 65536 * e.pages ≤ 0x1000000000) && decide (e.lane ≤ 7) && within 1 15 e.ceMask &&
         e.lunMask != 0 && zeroAt b 23 1 && zeroAt b 32 32
     | _ => false)

/-- No two ranges of a list overlap. -/
def disjoint : List (Nat × Nat) → Bool
  | [] => true
  | (a, n) :: rest => rest.all (fun x => !overlaps a n x.1 x.2) && disjoint rest

/-- SEARCH section checks (R236). -/
def searchOk (x : Section) : Bool :=
  x.entries.all searchEntryOk && noDup (x.entries.map (fun e => leAt e 1 1)) &&
    disjoint (((x.ofType 2).map backingEntry).map (fun e => (e.base, 65536 * e.pages)))

/-- An ingest entry within R322. -/
def ingestEntryOk (b : List Byte) : Bool :=
  let e := ingestOf b
  decide (e.plot ≤ 64) && fieldOf e.flags 5 4 != 0 && fieldOf e.flags 7 6 == 0 &&
    (if e.signed then decide (e.slot ≤ 15) && decide (e.nonce ≤ 32) else e.slot == 255 && e.nonce == 0) &&
    (if e.tagged then decide (e.vlan ≤ 4094) else e.vlan == 0) && decide (e.pubType ≤ 3) &&
    decide (e.pub < 2 ^ (8 * 2 ^ e.pubType)) && (bitOf (leAt b 17 1) 7 || leAt b 18 1 == 0) &&
    (bitOf (leAt b 24 1) 7 || leAt b 25 1 == 0) && (bitOf (leAt b 17 1) 6 || e.writer == 0) &&
    within 1 1024 e.len && within 1 65535 e.stale && decide (e.count ≤ 256) && e.slotAddr % 64 == 0 &&
    e.fieldAddr % 64 == 0 && e.destAddr % 64 == 0 && zeroAt b 57 7 &&
    (if e.plot = 0 then e.slotAddr == 0 && e.fieldAddr == 0 && e.destAddr == 0 && e.count == 0
     else e.slotAddr != 0 && e.fieldAddr != 0 && e.destAddr != 0 && decide (1 ≤ e.count))

/-- Do two entries share a match key (R323) for some cage? -/
def sameKey (a b : Ingest) : Bool :=
  (List.range 2).any (fun c => bitOf a.flags (4 + c) && bitOf b.flags (4 + c)) && a.tagged == b.tagged &&
    a.vlan == b.vlan && a.v6 == b.v6 && a.port == b.port && a.pubType == b.pubType && a.pub == b.pub &&
    a.group == b.group && a.writer == b.writer

/-- No two entries share a match key. -/
def keysApart : List Ingest → Bool
  | [] => true
  | a :: l => l.all (fun b => !sameKey a b) && keysApart l

/-- INGEST section checks (R322). -/
def ingestOk (es : List (List Byte)) : Bool :=
  let xs := es.map ingestOf
  es.all ingestEntryOk && keysApart xs &&
    decide (sumNat ((xs.filter (fun e => e.plot != 0)).map Ingest.slotBytes) ≤ 32768)

/-- PRESET entries name RWS registers and set no other bit (R75). In a slip, a register of another plot is left to SCOPE. -/
def presetOk (slip : Bool) (q : Nat) (es : List (List Byte)) : Bool :=
  es.all (fun e => match rwsAt (leAt e 0 4) with
    | some (p, r) => (slip || p == q) && leAt e 4 4 &&& r.mask == leAt e 4 4
    | none => false) && noDup (es.map (fun e => leAt e 0 4))

/-- MICROCODE section checks beyond its common header (Table 3-8). -/
def microcodeOk (b : List Byte) (ops codeLen : Nat) : Bool :=
  let codeOff := 64 + 64 * ceilDiv (16 * ops) 64
  within 1 4096 ops && codeLen % 64 == 0 && decide (codeLen ≤ 98304) && leAt b 24 2 == 1 && zeroAt b 26 38 &&
    b.length == codeOff + codeLen + 256 && zeroAt b (64 + 16 * ops) (codeOff - 64 - 16 * ops) &&
    (List.range ops).all (fun i => zeroAt b (64 + 16 * i + 8) 8 && decide (leAt b (64 + 16 * i + 4) 4 < codeLen))

/-- The section a table entry's bytes hold. -/
def sectionOf (d : List Byte) (t : TabEntry) : Section :=
  let b := sectionBytes d t
  let size := (entrySize t.type).getD 1
  let start := if t.type = 0x20 then 64 else 16
  { type := t.type, plot := t.plot, param := leAt b 12 4,
    entries := (List.range (leAt b 4 4)).map (fun i => slice b (start + size * i) size) }

/-- Common header of a section (Table 3-4), and its LENGTH but for MICROCODE. -/
def commonOk (b : List Byte) (t : TabEntry) (size : Nat) : Bool :=
  decide (16 ≤ b.length) && leAt b 0 2 == t.type && leAt b 2 1 == t.plot && leAt b 3 1 == 1 && leAt b 8 2 == size &&
    zeroAt b 10 2 && (t.type == 0x20 || b.length == 16 + leAt b 4 4 * size)

/-- The PLOT field of a section lies in its stated range (Table 3-5). -/
def plotFieldOk (slip : Bool) (type q : Nat) : Bool :=
  match type with
  | 0x01 | 0x20 => q == 0
  | 0x02 | 0x03 | 0x12 => if slip then decide (q ≤ 64) else q == 0
  | 0x05 => decide (q ≤ 64)
  | _ => within 1 64 q

/-- FORMAT checks of one section. `l` is the committed L when a full bit-stream is committed, and it is a slip (R98). -/
def sectionOk (d : List Byte) (slip : Bool) (l : Option Nat) (t : TabEntry) : Bool :=
  match entrySize t.type with
  | none => false
  | some size =>
    let b := sectionBytes d t
    commonOk b t size && plotFieldOk slip t.type t.plot &&
      (let x := sectionOf d t
       let n := leAt b 4 4
       match t.type with
       | 0x01 => n == 8 && decide (x.param ≤ 3) && structureOk x.entries
       | 0x02 => within 64 32768 x.param && (l.isNone || l == some x.param) && routesOk x.param x.entries
       | 0x03 => x.param == 0 && n == (if slip then 1 else 64) && x.entries.all pmapOk &&
           (slip || (x.entries.map (fun e => leAt e 0 1)) == (List.range 64).map (· + 1))
       | 0x05 => x.param == 0 && decide (n ≤ 256) && presetOk slip t.plot x.entries
       | 0x10 => within 1 1024 n && annealOk x
       | 0x11 => x.param == 0 && within 1 4096 n && quantOk x.entries
       | 0x12 => x.param == 0 && within 1 256 n && ingestOk x.entries
       | 0x13 => x.param == 0 && within 1 16 n && searchOk x
       | _ => microcodeOk b n x.param)

/-- Occurrence limits (R72). -/
def occursOk (slip : Bool) (ts : List TabEntry) : Bool :=
  if slip then noDup (ts.map (·.type))
  else noDup (ts.map (fun t => (t.type, t.plot))) &&
    [0x01, 0x02, 0x03, 0x20].all (fun y => ts.any (fun t => t.type == y))

/-- FORMAT check of Table 3-14. -/
def formatOk (d : List Byte) (l : Option Nat) : Bool :=
  let slip := hdrKind d == 1
  let ts := sectionTable d
  occursOk slip ts && ts.all (sectionOk d slip (if slip then l else none))

/-- SCOPE check of Table 3-14 (R74). -/
def scopeOk (d : List Byte) : Bool :=
  let p := hdrSlipPlot d
  hdrKind d != 1 || (sectionTable d).all (fun t =>
    t.type != 0x01 && t.type != 0x20 && t.plot == p &&
      (let x := sectionOf d t
       match t.type with
       | 0x02 | 0x03 => x.entries.all (fun e => leAt e 0 1 == p)
       | 0x12 => x.entries.all (fun e => leAt e 1 1 == p)
       | 0x05 => x.entries.all (fun e => match rwsAt (leAt e 0 4) with | some (q, _) => q == p | none => true)
       | _ => true))

/-! ### The bundle a file holds, and what it makes of the committed content (R72, R73, R86) -/

/-- The bundle of a file that passed its checks. -/
def bundleOf (d : List Byte) (slot : Nat) : Bundle :=
  let ts := sectionTable d
  let mc := ts.find? (fun t => t.type == 0x20)
  { slip := hdrKind d == 1, plot := hdrSlipPlot d, seq := hdrSeq d, slot := slot,
    secs := ts.map (sectionOf d),
    mcBuild := (match mc with | some t => leAt (sectionBytes d t) 16 8 | none => 0),
    mcCode := (match mc with
      | some t =>
        let b := sectionBytes d t
        slice b (64 + 64 * ceilDiv (16 * leAt b 4 4) 64) (leAt b 12 4)
      | none => []) }

/-- A section of a type and plot of a bundle. -/
def Bundle.sec (b : Bundle) (type q : Nat) : Option Section := b.secs.find? (fun x => x.type == type && x.plot == q)

/-- The entries of a section, or none of them. -/
def Bundle.entriesOf (b : Bundle) (type q : Nat) : List (List Byte) :=
  match b.sec type q with | some x => x.entries | none => []

/-- PRESET values of a bundle for a plot: register and value. -/
def Bundle.presets (b : Bundle) (q : Nat) : List (RwsReg × Nat) :=
  (b.entriesOf 0x05 q).filterMap (fun e => (rwsAt (leAt e 0 4)).map (fun x => (x.2, leAt e 4 4)))

/-- Does a bundle touch a plot (R68)? -/
def Bundle.touches (b : Bundle) (q : Nat) : Bool := !b.slip || b.plot == q

/-- The content a bundle leaves committed (R72, R73, R86). -/
def Bundle.apply (b : Bundle) (c : Content) : Content :=
  let planTypes := [0x10, 0x11, 0x13]
  if b.slip then
    let p := b.plot
    let mine := b.secs.filter (fun x => planTypes.contains x.type)
    { c with
      pmap := (match b.entriesOf 0x03 p with
        | [] => c.pmap
        | e :: _ => c.pmap.map (fun o => if leAt o 0 1 == p then e else o)),
      routes := (match b.sec 0x02 p with
        | none => c.routes
        | some x => c.routes.filter (fun e => !(leAt e 0 1 == p)) ++ x.entries),
      ingest := (match b.sec 0x12 p with
        | none => c.ingest
        | some x => c.ingest.filter (fun e => !(leAt e 1 1 == p)) ++ x.entries),
      secs := c.secs.filter (fun x => !(x.plot == p && mine.any (fun y => y.type == x.type))) ++ mine }
  else
    let st := b.sec 0x01 0
    { slotLen := (match b.sec 0x02 0 with | some x => x.param | none => 0),
      ownerAdmit := (match st with | some x => bitOf x.param 0 | none => false),
      revokeAdmit := (match st with | some x => bitOf x.param 1 | none => false),
      chans := b.entriesOf 0x01 0, pmap := b.entriesOf 0x03 0, routes := b.entriesOf 0x02 0,
      ingest := b.entriesOf 0x12 0, secs := b.secs.filter (fun x => planTypes.contains x.type),
      ops := (b.entriesOf 0x20 0).map (fun e => (leAt e 0 2, leAt e 2 2, leAt e 4 4)),
      mcBuild := b.mcBuild, mcCode := b.mcCode }

/-- The route entries a plot owns, in order. -/
def Content.routesOf (c : Content) (q : Nat) : List (List Byte) := c.routes.filter (fun e => leAt e 0 1 == q)

/-- The ingest entries a plot owns, in order. -/
def Content.ingestFor (c : Content) (q : Nat) : List (List Byte) := c.ingest.filter (fun e => leAt e 1 1 == q)

/-- The engine set of a plot changes (R357), counting the gain of the first or the loss of the last engine or context. -/
def engineChange (old new : Content) (q : Nat) : Bool :=
  !(old.tiles q == new.tiles q) || !(old.mxes q == new.mxes q) || old.ownsAny q != new.ownsAny q

/-- The bundle changes the plot's configuration, byte for byte (R87). -/
def planChange (old new : Content) (q : Nat) : Bool :=
  old.pmapOf q != new.pmapOf q || old.routesOf q != new.routesOf q || old.ingestFor q != new.ingestFor q ||
    old.sec 0x10 q != new.sec 0x10 q || old.sec 0x11 q != new.sec 0x11 q || old.sec 0x13 q != new.sec 0x13 q ||
    old.ops != new.ops || old.mcBuild != new.mcBuild || old.mcCode != new.mcCode ||
    ((old.chans != new.chans || old.ownerAdmit != new.ownerAdmit || old.revokeAdmit != new.revokeAdmit) &&
      (decide (0 < old.ctxTotal q) || decide (0 < new.ctxTotal q)))

end Sys2Proof.Machine
end

