-- ==== Sys2Proof/Machine/Agree.lean ====
section
/-!
DEFINITION. Sys2Proof/Machine/Agree.lean: the agreement rules of Table 3-15 (R90), in ascending code order.
-/
namespace Sys2Proof.Machine

/-- A failed rule: its code and DETAIL. -/
abbrev Fail := Nat × Nat

/-- A rule as a condition that must hold: no failure, or this one. -/
def mustHold (ok : Bool) (code detail : Nat) : Option Fail := if ok then none else some (code, detail)

/-- The rule fails with the first DETAIL of a list, if it has one. -/
def firstDetail (code : Nat) (l : List Nat) : Option Fail := match l with | [] => none | d :: _ => some (code, d)

/-- What a rule's check is judged on: the snapshot registers, the content the commit would leave, the arm of the check. -/
structure Judged where
  plot : Nat
  dev : DevRws
  rws : PlotRws
  content : Content
  /-- The bundle's rules are reported for this plot: none, or whether the bundle is a full bit-stream. -/
  bundle : Option Bool := none
  /-- The pre-check leaves out the register rules it does not name (R85). -/
  pre : Bool := false
  /-- The wait limit was reached: the lowest plot with work to drain. -/
  wait : Option Nat := none

/-! ### FRM and PWR rules of plot 0 (Table 1-8, R272) -/

/-- Rules 0x01 to 0x06. -/
def frmRules (s : State) (j : Judged) : List (Option Fail) :=
  let d := j.dev
  let p := d.period.toNat
  let entry := d.plantEntry.toNat
  let a := admissible p s.fuses.cycPerUs d.limit.toNat
  [ mustHold (within 100 100000 p) 0x01 0,
    mustHold (within 500 940 d.limit.toNat) 0x02 0,
    mustHold (d.src != 3) 0x03 0,
    mustHold (d.src != 1 || (p * d.ppsDiv.toNat == 1000000 && (s.frm.ppsEn || s.frm.rws.src == 1))) 0x04 0,
    mustHold (d.src != 2 || (within 1 (3 * p / 100) d.plantWin.toNat &&
      j.content.ingests.any (fun e => e.no == entry && e.tick))) 0x05 entry,
    firstDetail 0x06 ((List.range 120).filter (fun n => decide (a < s.claimSum n))) ]

/-- Rule 0xA0. -/
def capRule (s : State) (j : Judged) : Option Fail :=
  mustHold (decide (j.dev.cap.toNat ≤ if s.fuses.gradeF then 180 else 320)) 0xA0 0

/-! ### Rules of the plot map and the routes -/

/-- Nodes of tiles and engines that two plots own (0x10), ascending. -/
def ownedTwice (c : Content) : List Nat :=
  let plots := (List.range 65).drop 1
  let twice := fun (own : Nat → Bool) => decide (2 ≤ (plots.filter own).length)
  let tiles := ((List.range 64).filter (fun t => twice (fun q => (c.tiles q).getLsbD t))).map (nodeOf .at_)
  let mxes := ((List.range 16).filter (fun m => twice (fun q => (c.mxes q).getLsbD m))).map (nodeOf .mxe)
  (List.range 120).filter (fun n => tiles.contains n || mxes.contains n)

/-- Route entries that send, with their index and targets (KIND 0 to 2). -/
def sendersAux : Nat → List (List Byte) → List (Nat × Route × List Nat)
  | _, [] => []
  | i, e :: rest =>
    let r := routeOf e
    if r.kind = 3 then sendersAux (i + 1) rest
    else if r.kind = 0 then (i, r, [r.dst]) :: sendersAux (i + 1) rest
    else (i, r, routeTargets (rest.headD [])) :: sendersAux (i + 1) rest

/-- Senders of an entry list. -/
def senders (es : List (List Byte)) : List (Nat × Route × List Nat) := sendersAux 0 es

/-- May an entry of a plot name a node (RTE_OWNER)? -/
def mayName (c : Content) (q n : Nat) : Bool :=
  q == 0 || (match nodeKind n with
    | (.at_, i) => (c.tiles q).getLsbD i
    | (.mxe, i) => (c.mxes q).getLsbD i
    | (.svc, _) => false
    | _ => true)

/-- Rule 0x20 over senders. -/
def routeOwnerRule (c : Content) (es : List (Nat × Route × List Nat)) : Option Fail :=
  firstDetail 0x20 ((es.filter (fun x => !((x.2.1.src :: x.2.2).all (mayName c x.2.1.plot)))).map (·.1))

/-- The first entry that uses a slot one before it, or one of those already taken, uses (0x21). -/
def slotClash (l : Nat) : List (Nat × Nat × Nat) → List (Nat × Route × List Nat) → Option Fail
  | _, [] => none
  | used, x :: xs =>
    let mine := entrySlots l x.2.1 x.2.2
    if mine.any (fun y => used.contains y) then some (0x21, x.1) else slotClash l (mine ++ used) xs

/-- Rules 0x10 to 0x21 and their order. -/
def mapRules (j : Judged) (full : Bool) : List (Option Fail) :=
  let c := j.content
  let mine := senders (if full then c.routes else c.routesOf j.plot)
  let others := if full then [] else senders (c.routes.filter (fun e => !(leAt e 0 1 == j.plot)))
  [ firstDetail 0x10 (ownedTwice c),
    firstDetail 0x11 ((List.range 8).filter (fun l => decide (128 < sumNat ((List.range 65).map (fun q => c.ctx q l))))),
    mustHold (decide (sumNat ((List.range 65).map c.quota) ≤ 2816)) 0x12 0,
    routeOwnerRule c mine,
    slotClash c.slotLen (others.flatMap (fun x => entrySlots c.slotLen x.2.1 x.2.2)) mine ]

/-! ### Rules of a plot's sections -/

/-- Codebook entries a format needs (0x31). -/
def bookSize (format : Nat) : Nat := if format = 0 then 16 else if format = 1 then 256 else 0

/-- Entries of a section with their index. -/
def indexed {α : Type} (l : List α) : List (Nat × α) := (List.range l.length).zip l

/-- Rules 0x30 to 0x33. -/
def annealRules (c : Content) (q : Nat) : List (Option Fail) :=
  match c.sec 0x10 q with
  | none => []
  | some x =>
    let n := (c.tileList q).length
    let sched := (x.ofType 3).headD []
    let stall := (x.ofType 4).headD []
    [ mustHold (decide (0 < n) && decide (x.param ≤ 512 * n) &&
        ((x.ofType 2).map tileEntry).all (fun t => decide (t.tile < n))) 0x30 0,
      firstDetail 0x31 ((indexed x.entries).filterMap (fun e =>
        if leAt e.2 0 1 = 2 ∧ leAt e.2 6 2 ≠ bookSize (leAt e.2 2 1) then some e.1 else none)),
      mustHold (within 1 64 (leAt sched 1 1) && decide (leAt sched 2 1 < leAt sched 1 1)) 0x32 0,
      mustHold (!bitOf (leAt stall 1 1) 0 || (within 4 20 (leAt stall 2 1) && decide (leAt stall 4 2 ≤ leAt stall 8 4))) 0x33 0 ]

/-- Rules 0x34 and 0x40. -/
def modeRules (r : PlotRws) : List (Option Fail) :=
  [ mustHold (if r.strict then r.cap == 1 else within 1 8 r.cap.toNat) 0x34 0,
    mustHold (!r.tapeOn || (r.tapeBase != 0 && r.tapeLen != 0)) 0x40 0 ]

/-- Rules 0x50 and 0x51. -/
def graftRules (c : Content) (q : Nat) : List (Option Fail) :=
  match c.sec 0x10 q with
  | none => []
  | some x => match (x.ofType 6).map graftEntry with
    | [] => []
    | g :: _ => [ mustHold (decide (g.total ≤ 1048576) && decide (g.w ≤ (c.tileList q).length)) 0x50 0,
        mustHold (!(c.mxeList q).isEmpty) 0x51 0 ]

/-- Effective group size of an entry under a snapshot of MXE_PCFG.GROUP (R220); 0 for the reserved value. -/
def snapGroup (e : QuantEntry) (g : Nat) : Nat :=
  if e.group ≠ 0 then groupSize (e.group - 1) else if g = 3 then 0 else groupSize g

/-- Does every aligned span of 1,024 indices hold at most 8 of a list (R228)? -/
def spansOk (l : List Nat) : Bool := l.all (fun x => decide ((l.filter (fun y => y / 1024 == x / 1024)).length ≤ 8))

/-- Rule 0x72 (R228): at most 8 outlier channels in any aligned span of 1,024, by their number and by the list as it stands
in plot memory. What is no list of channels (R228: not ascending, or beyond K) is left to the trap of the call (DEDUCED, log
entry 184). -/
def outlierRule (s : State) (q : Nat) (e : QuantEntry) : Bool :=
  let l := (List.range e.outCount).map (fun i => leNat (s.plotBytes (mkPlot q) (e.outList + 2 * i) 2))
  decide (e.outCount ≤ 8 * ceilDiv e.k 1024) && (!outliersOk l e.k || spansOk l)

/-- Rules 0x60 and 0x70 to 0x72. -/
def quantRules (s : State) (c : Content) (q : Nat) (r : PlotRws) : List (Option Fail) :=
  let es := match c.sec 0x11 q with | some x => indexed (x.entries.map quantEntry) | none => []
  let bad := fun (p : QuantEntry → Bool) => (es.filter (fun e => !p e.2)).map (·.1)
  [ mustHold (r.group != 3) 0x60 0,
    firstDetail 0x70 (bad (fun e => e.isAct || e.zp == 0)),
    firstDetail 0x71 (bad (fun e =>
      let g := snapGroup e r.group.toNat
      g != 0 && (!e.rotate || decide (2 ^ e.rotLog ≤ g)))),
    firstDetail 0x72 (bad (outlierRule s q)) ]

/-- Lanes that hold part of a SEARCH entry, with its ID. -/
def searchLanes (c : Content) (q : Nat) : List (Nat × List Nat) :=
  match c.sec 0x13 q with
  | none => []
  | some x => x.entries.map (fun b =>
      if leAt b 0 1 = 1 then (leAt b 1 1, members 8 (indexEntry b).laneMask) else (leAt b 1 1, [(backingEntry b).lane]))

/-- Rules 0x80 to 0x82. -/
def searchRules (c : Content) (q : Nat) : List (Option Fail) :=
  let bad := fun (p : IndexEntry → Bool) => ((c.indexes q).filter (fun e => !p e)).map (·.id)
  [ firstDetail 0x80 (bad (fun e => [8, 16, 32].contains e.m && decide (e.dim ≤ 1024) && e.dim % e.m == 0)),
    firstDetail 0x81 (((searchLanes c q).filter (fun x => !x.2.all (fun l => decide (0 < c.ctx q l)))).map (·.1)),
    firstDetail 0x82 (bad (fun e => within 1 256 e.kMax)) ]

/-- Block ranges of a SEARCH entry: (lane, chip enable, LUN), first block, blocks. -/
def extents (b : List Byte) : List ((Nat × Nat × Nat) × Nat × Nat) :=
  if leAt b 0 1 = 1 then
    let e := indexEntry b
    (List.range e.units).flatMap (fun u => [(e.unit u, e.genA, e.blocks), (e.unit u, e.genB, e.blocks)])
  else
    let e := backingEntry b
    (members 4 e.ceMask).flatMap (fun ce => (members 8 e.lunMask).map (fun n => ((e.lane, ce, n), e.first, e.blocks)))

/-- Two block ranges of a list meet on a LUN. -/
def extentsMeet (x y : (Nat × Nat × Nat) × Nat × Nat) : Bool := x.1 == y.1 && overlaps x.2.1 x.2.2 y.2.1 y.2.2

/-- No two of a list meet. -/
def extentsApart : List ((Nat × Nat × Nat) × Nat × Nat) → Bool
  | [] => true
  | x :: l => l.all (fun y => !extentsMeet x y) && extentsApart l

/-- One SEARCH entry's own conditions in SRC_EXTENT (R237). -/
def extentOk (s : State) (c : Content) (q : PlotId) (b : List Byte) : Bool :=
  let xs := extents b
  let geo := xs.map (fun x => (c.chan x.1.1).pageKib * 65536 + (c.chan x.1.1).pages)
  xs.all (fun x => (c.chan x.1.1).has x.1.2.1 x.1.2.2 && decide (x.2.1 + x.2.2 ≤ (c.chan x.1.1).blocks)) &&
    geo.all (fun g => some g == geo.head?) && extentsApart xs &&
    (if leAt b 0 1 = 1 then
      let e := indexEntry b
      let m := (s.plot q).msh
      homeRange c q.val m e.dirAddr (128 * ceilDiv e.nlist 4) &&
        homeRange c q.val m e.sideAddr (max 1 (64 * e.sideCap)) && homeRange c q.val m e.delAddr (65536 + 16 * e.sideCap)
     else
      let e := backingEntry b
      let ch := c.chan e.lane
      decide (64 * e.pages ≤ e.units * e.blocks * ch.pages * ch.pageKib))

/-- SEARCH entries of a plot. -/
def Content.searchOf (c : Content) (q : Nat) : List (List Byte) :=
  match c.sec 0x13 q with | some x => x.entries | none => []

/-- Rule 0x83 over the entries of some plots, compared with those of every plot. -/
def extentRule (s : State) (c : Content) (qs : List PlotId) : Option Fail :=
  let all := tenantPlots.flatMap (fun q => (c.searchOf q.val).map (fun b => (q.val, leAt b 1 1, extents b)))
  firstDetail 0x83 (qs.flatMap (fun q => (c.searchOf q.val).filterMap (fun b =>
    let mine := extents b
    let id := leAt b 1 1
    if extentOk s c q b && all.all (fun x => (x.1 == q.val && x.2.1 == id) ||
        x.2.2.all (fun y => mine.all (fun z => !extentsMeet y z))) then none else some id)))

/-- Rules 0x90 to 0x92 over some ingest entries (R322). -/
def ingestRules (s : State) (c : Content) (es : List Ingest) : List (Option Fail) :=
  let inCommons := fun (e : Ingest) =>
    let q : PlotId := ⟨e.plot % 65, Nat.mod_lt _ (by decide)⟩
    let m := (s.plot q).msh
    (pagesOf e.slotAddr e.slotBytes).all (fun g => match region c e.plot m (g * 65536) with | .commons _ => true | _ => false)
  [ firstDetail 0x90 ((es.filter (fun e => e.plot != 0 && !inCommons e)).map (·.no)),
    firstDetail 0x91 ((es.filter (fun e => decide (2 ≤ (c.ingests.filter (fun o => o.no == e.no)).length))).map (·.no)),
    firstDetail 0x92 ((es.filter (fun e => e.signed && !s.skt.banks.any (fun b => b.1 / 2 == e.slot))).map (·.no)) ]

/-! ### The check of one plot (R90) -/

/-- Every rule that applies, in ascending code order. BND_WAIT stands at its code's place, so a lower rule that fails too is
the one reported (DEDUCED from R90, log entry 181). -/
def ruleList (s : State) (j : Judged) : List (Option Fail) :=
  let c := j.content
  let tenant := j.plot != 0
  (if !tenant && !j.pre then frmRules s j else []) ++
    (match j.bundle with | some full => mapRules j full | none => []) ++
    (if tenant then annealRules c j.plot else []) ++
    (if tenant && !j.pre then modeRules j.rws else []) ++
    (if tenant then graftRules c j.plot ++ quantRules s c j.plot j.rws ++ searchRules c j.plot else []) ++
    (match j.bundle with
     | some full => extentRule s c (if full then tenantPlots else [mkPlot j.plot]) ::
         ingestRules s c (if full then c.ingests else (c.ingestFor j.plot).map ingestOf)
     | none => []) ++
    (if !tenant && !j.pre then [capRule s j] else []) ++
    (match j.wait with | some p => [some (0xB0, p)] | none => [])

/-- The first failed rule of a plot (R90). -/
def checkPlot (s : State) (j : Judged) : Option Fail := (ruleList s j).findSome? id

end Sys2Proof.Machine
end

