-- ==== Sys2Proof/Machine/Bundle.lean ====
section
/-!
DEFINITION. Sys2Proof/Machine/Bundle.lean: loading, verifying and staging a bit-stream (R80 to R85, Tables 3-13 and 3-14),
REVERT (R91), and the fuse operations (R78, R79, Table 3-12).
-/
namespace Sys2Proof.Machine

/-- Change the global CFG state. -/
def State.modCfg (s : State) (f : CfgState → CfgState) : State := { s with cfg := f s.cfg }

/-- CFG_LOAD_STATUS.STATE codes. -/
def LoadState.num : LoadState → Nat
  | .idle => 0 | .fetching => 1 | .verifying => 2 | .staging => 3 | .staged => 4 | .waiting => 5

/-! ### Commons pages (R81, R113, R114) -/

/-- Pages of the commons that a quota or the staging holds: bank and page. -/
def usedPages (m : MshState) : List (Nat × Nat) := m.quota.map (fun x => (x.bank, x.page)) ++ m.staging

/-- A free page: in the first bank from `b` that has one, its lowest-numbered or highest-numbered (R81, R114). -/
def freePage (used : List (Nat × Nat)) (b : Nat) (low : Bool) : Option (Nat × Nat) :=
  (List.range 8).findSome? (fun i =>
    let bank := (b + i) % 8
    let order := if low then List.range 384 else (List.range 384).reverse
    (order.find? (fun p => !used.contains (bank, p))).map (fun p => (bank, p)))

/-- Staging pages from number j on, or none where the pages run out (R81). -/
def reservePages (used : List (Nat × Nat)) : Nat → Nat → Option (List (Nat × Nat))
  | 0, _ => some []
  | n + 1, j =>
    match freePage used j false with
    | none => none
    | some p => (reservePages (p :: used) n (j + 1)).map (p :: ·)

/-! ### The load (Table 3-13) -/

/-- The bundle in progress is gone: its pages are cleared and released (R81, R120) and its waits end. -/
def dropBundle (s : State) : State :=
  let s := s.modCfg (fun c => { c with load := .idle, file := [], bundle := none, waitMap := 0, waited := 0 })
  let pages := s.msh.staging.map (fun x => ({ plot := 0, i := 0, bank := x.1, page := x.2 } : QuotaPage))
  let s := { s with msh := { s.msh with
    staging := [], poison := s.msh.poison.filter (fun l => !pages.any (fun x => quotaPageLine x l)) } }
  s.eachPlot allPlots (fun s q => s.modCfgSet q (fun x => { x with touched := false, waited := false }))

/-- A load fails (R82): ERR, LAST, PF cause CFG_LOAD, one log line. -/
def failLoad (s : State) (code : BitVec 8) : State :=
  let s := (dropBundle s).modCfg (fun c => { c with err := code, last := 2 })
  (s.raisePf 3).logLine 0x21 noPlot none code.toNat 0

/-- ABORT (Table 3-13). -/
def abortBundle (s : State) : State := if s.cfg.load = .idle then s else failLoad s 0x0F

/-- Commit steps 1 to 4 of this frame are under way: 2,176 of the sequence's 4,200 cycles (Table 1-3). -/
def State.inSteps14 (s : State) : Bool :=
  let openAt := s.frm.tickAt + 94 * s.frm.framePeriod
  s.frm.opened && decide (s.boot.tclk < openAt + (s.frm.commitEnd - openAt) * 2176 / 4200)

/-- LOAD (R80 to R82). The new load clears PRECHECK_FAIL; CFG_PRECHECK keeps its word until the next pre-check (DEDUCED, log
entry 179). -/
def startLoad (s : State) : State :=
  if s.cfg.load ≠ .idle then s.logLine 0x20 noPlot none s.cfg.load.num 0
  else
    let len := s.cfg.srcLen.toNat
    let s := s.modCfg (fun c => { c with capAddr := c.srcAddr, capLen := len, precheckFail := false })
    if len % 64 ≠ 0 ∨ len < 512 ∨ 16777216 < len then failLoad s 0x02
    else match reservePages (usedPages s.msh) (ceilDiv len 65536) 0 with
      | none => failLoad s 0x0E
      | some ps =>
        let s := { s with msh := { s.msh with staging := ps } }
        let s := s.modCfg (fun c => { c with load := .fetching })
        if s.permitted 0 then s.hostRead 0 .bitstream s.cfg.capAddr.toNat len else failLoad s 0x01

/-- The fetch of a bit-stream ends (R82, R83). -/
def fetchDone (s : State) (r : Fetched) : State :=
  if s.cfg.load ≠ .fetching then s
  else match r with
    | .failed k => failLoad (dmaError s 0 .bitstream k) 0x01
    | .bytes b => s.modCfg (fun c => { c with load := .verifying, file := slice b 0 c.capLen })

/-- The first check of Table 3-14 that fetched bytes fail, or the slot that signed them. -/
def verifyFile (s : State) (d : List Byte) : Except (BitVec 8) (Fin 4) :=
  if d.length ≠ hdrTotal d then .error 0x02
  else if !headerOk d then .error 0x03
  else if !partOk s.fuses d then .error 0x04
  else if !tableOk d then .error 0x05
  else if !crcsOk d then .error 0x06
  else if !s.fuses.owned then .error 0x07
  else match ownerSlot s.fuses d with
    | none => .error 0x08
    | some slot =>
      let slip := hdrKind d == 1
      if !vendorOk s.fuses d then .error 0x09
      else if !formatOk d (if s.cfg.loaded then some s.cfg.content.slotLen else none) then .error 0x0A
      else if !scopeOk d then .error 0x0B
      else if (if slip then decide (hdrSeq d ≤ (s.plot (mkPlot (hdrSlipPlot d))).cfg.pslipSeq.toNat)
               else decide (hdrSeq d < s.cfg.seq.toNat)) then .error 0x0C
      else if slip && (!s.cfg.loaded || hdrBase d != s.cfg.seq.toNat) then .error 0x0D
      else .ok slot

/-- While the PF is in D3hot no bundle load runs (R301): what is being verified or staged waits for D0 (DEDUCED, log entry
233). -/
def State.loadHeld (s : State) : Bool := s.fns[(0 : Fn)].d3

/-- VERIFYING ends: every check passes, or the first failure ends the load (R82, Table 3-14). -/
def verifyDone (s : State) : State :=
  if s.cfg.load ≠ .verifying ∨ s.loadHeld then s
  else
    let d := s.cfg.file
    let s := if d.length = hdrTotal d ∧ headerOk d then s.modCfg (fun c => { c with kind := hdrKind d == 1 }) else s
    match verifyFile s d with
    | .error e => failLoad s e
    | .ok slot => s.modCfg (fun c => { c with load := .staging, bundle := some (bundleOf d slot.val) })

/-- PRESET values overlay a plot's registers (R88). -/
def PlotRws.overlay (r : PlotRws) (l : List (RwsReg × Nat)) : PlotRws := l.foldl (fun r x => r.set x.1 x.2) r

/-- PRESET values overlay the device-wide registers. -/
def DevRws.overlay (r : DevRws) (l : List (RwsReg × Nat)) : DevRws := l.foldl (fun r x => r.set x.1 x.2) r

/-- Are a bundle's rules reported for a plot, and is it a full bit-stream (Table 3-15)? -/
def Bundle.reports (b : Bundle) (q : Nat) : Option Bool := if q = (if b.slip then b.plot else 0) then some (!b.slip) else none

/-- Plots a bundle touches, in the order of R22. -/
def Bundle.touched (b : Bundle) : List PlotId := allPlots.filter (fun q => b.touches q.val)

/-- The pre-check (R85): the first failing rule in plot order, with the committed registers. -/
def preCheck (s : State) (b : Bundle) : Option (PlotId × Fail) :=
  let c := b.apply s.cfg.content
  b.touched.findSome? (fun q =>
    (checkPlot s {
      plot := q.val, dev := s.frm.rws, rws := (s.plot q).rws.overlay (b.presets q.val), content := c,
      bundle := b.reports q.val, pre := true }).map (fun f => (q, f)))

/-- CFG_COMMIT_ERR and CFG_PRECHECK words. -/
def refusalWord (q : PlotId) (f : Fail) : Word := BitVec.ofNat 32 (q.val * 2 ^ 25 + f.1 * 65536 + f.2 % 65536)

/-- STAGING ends (R84, R85). -/
def stagingDone (s : State) : State :=
  if s.cfg.load ≠ .staging ∨ s.loadHeld then s
  else match s.cfg.bundle with
    | none => s
    | some b =>
      let r := preCheck s b
      let s := s.modCfg (fun c => { c with
        load := .staged, waited := 0, precheckFail := r.isSome,
        precheck := (match r with | some x => refusalWord x.1 x.2 | none => 0) })
      let s := s.eachPlot b.touched (fun s q => s.modCfgSet q (fun x => { x with touched := true }))
      s.raisePf 3

/-- CFG_CTL.ARM takes a value; clearing it while WAITING takes the bundle back to STAGED. -/
def setArm (s : State) (arm : Bool) : State :=
  s.modCfg (fun c => { c with
    arm := arm,
    load := if c.load = .waiting ∧ !arm then .staged else c.load,
    waited := if c.load = .waiting ∧ !arm then 0 else c.waited })

/-- The state that a LOAD meets and that makes it ignored beyond what CFG_LOAD_STATUS now says (R80): during commit steps 1 to
4 that of the bundle that joined them, or that of a bundle whose abort is held over. -/
def heldState (s : State) (abort : Bool) : Option Nat :=
  if !s.inSteps14 then none
  else match s.cfg.joined with
    | some n => some n
    | none => if abort && s.cfg.load != .idle then some s.cfg.load.num else none

/-- A write of CFG_CTL (R80): ABORT, then ARM, then LOAD. During commit steps 1 to 4 a LOAD is ignored while a bundle takes
part in them or its abort is held over. -/
def cfgCtlWrite (s : State) (load abort arm : Bool) : State :=
  let held := heldState s abort
  let s := if abort then abortBundle s else s
  let s := setArm s arm
  if !load then s
  else match held with
    | some n => s.logLine 0x20 noPlot none n 0
    | none => startLoad s

/-! ### Refusals (R90, R91) -/

/-- A plot's commit is refused: its registers, counters, causes and log line. -/
def refusePlot (s : State) (q : PlotId) (f : Fail) : State :=
  let code := BitVec.ofNat 8 f.1
  let detail := BitVec.ofNat 16 f.2
  let fresh := (s.plot q).cfg.lastRefusal != some (code, detail)
  let s := s.modCfgSet q (fun x => { x with
    perrCode := code, perrDetail := detail, prefuse := satInc x.prefuse, lastRefusal := some (code, detail) })
  let s := s.modCfg (fun c => { c with commitErr := refusalWord q f, refuseCnt := satInc c.refuseCnt })
  let s := (if q = 0 then s else s.raisePlot q 0x20).raisePf 2
  if fresh then s.logLine 0x22 q.val none (code.toNat * 65536 + detail.toNat) 0 else s

/-- The bundle is refused and discarded (R88). -/
def refuseBundle (s : State) : State := ((dropBundle s).modCfg (fun c => { c with last := 3 })).raisePf 3

/-- CFG_WAIT_FRAMES commit windows have passed in WAITING: the bundle is refused with BND_WAIT (Table 3-13), at once and
without the registers of its plots, whose next commit stands on its own (DEDUCED, log entry 180). -/
def waitExpired (s : State) : State :=
  match s.cfg.bundle with
  | none => s
  | some b =>
    if s.cfg.load ≠ .waiting ∨ s.cfg.waited < s.cfg.waitFrames.toNat then s
    else
      let low := (maskList s.cfg.waitMap).headD 0 + 1
      let judge := if b.slip then b.plot else 0
      let s := s.eachPlot b.touched (fun s q => refusePlot s q (if q.val = judge then (0xB0, low) else (0xB2, judge)))
      refuseBundle s

/-! ### Fuse operations (R78, R79, Table 3-12) -/

/-- A refused fuse operation (CFG_FUSE_STATUS.OP_ERR). -/
def fuseRefuse (s : State) (e : BitVec 4) : State := s.modCfg (fun c => { c with opErr := e })

/-- KEY and BUSY, which every operation checks first. -/
def fuseGate (s : State) (key : Byte) (k : State → State) : State :=
  if key ≠ 0xA5 then fuseRefuse s 1
  else if s.cfg.fuseBusy.isSome then fuseRefuse s 6
  else k s

/-- An operation starts; OP_ERR reads 0 again (DEDUCED, log entry 182). -/
def fuseStart (s : State) (o : FuseOp) : State := s.modCfg (fun c => { c with fuseBusy := some o, opErr := 0 })

/-- PROGRAM. -/
def fuseProgram (s : State) (key : Byte) (slot : Fin 4) : State :=
  fuseGate s key (fun s =>
    if s.fuses.lock then fuseRefuse s 5
    else if s.fuses.owner[slot].written then fuseRefuse s 3
    else if s.fuses.owned && !s.cfg.content.ownerAdmit then fuseRefuse s 2
    else fuseStart s (.program slot s.cfg.fuseData))

/-- REVOKE. -/
def fuseRevoke (s : State) (key : Byte) (slot : Fin 4) : State :=
  fuseGate s key (fun s =>
    if !s.cfg.content.revokeAdmit || (s.cfg.loaded && s.cfg.slot.toNat == slot.val) then fuseRefuse s 2
    else if !(List.finRange 4).any (fun i => i != slot && s.fuses.owner[i].accepted) then fuseRefuse s 4
    else fuseStart s (.revoke slot))

/-- LOCK. -/
def fuseLock (s : State) (key : Byte) : State :=
  fuseGate s key (fun s => if !s.fuses.owned then fuseRefuse s 2 else fuseStart s .lock)

/-- The running operation finishes. -/
def fuseDone (s : State) : State :=
  match s.cfg.fuseBusy with
  | none => s
  | some o =>
    let s := s.modCfg (fun c => { c with fuseBusy := none })
    let f := s.fuses
    match o with
    | .program slot h =>
      { s with fuses := { f with owner := f.owner.set slot { f.owner[slot] with
          hash := h, crc := crc32c (hashBytes h), valid := true } } }
    | .revoke slot => { s with fuses := { f with owner := f.owner.set slot { f.owner[slot] with revoke := true } } }
    | .lock => { s with fuses := { f with lock := true } }

/-- A reset cuts a fuse operation short: a PROGRAM leaves a hash that is not defined, without its CRC (R78). -/
def fuseCut (s : State) : State :=
  match s.cfg.fuseBusy with
  | some (.program slot _) =>
    let f := s.fuses
    { s with fuses := { f with owner := f.owner.set slot { f.owner[slot] with hash := Config.freeHash s.free } }, free := s.free + 1 }
  | _ => s

/-! ### The rows -/

/-- CFG_LOAD: a write of CFG_CTL with LOAD = 1 by the PF. -/
def execCfgLoad (abort arm : Bool) (s : State) : Result := .next (hostGate s 0 (fun s => cfgCtlWrite s true abort arm))

/-- CFG_ABORT: a write of CFG_CTL with ABORT = 1. -/
def execCfgAbort (arm : Bool) (s : State) : Result := .next (hostGate s 0 (fun s => cfgCtlWrite s false true arm))

/-- CFG_ARM: a write of CFG_CTL with neither. -/
def execCfgArm (arm : Bool) (s : State) : Result := .next (hostGate s 0 (fun s => cfgCtlWrite s false false arm))

/-- LOAD_FETCH_COMPLETE. -/
def execLoadFetchComplete (r : Fetched) (s : State) : Result := .next (fetchDone s r)

/-- LOAD_VERIFY_COMPLETE. -/
def execLoadVerifyComplete (s : State) : Result := .next (verifyDone s)

/-- STAGING_COMPLETE. -/
def execStagingComplete (s : State) : Result := .next (stagingDone s)

/-- BUNDLE_WAIT_EXPIRE. -/
def execBundleWaitExpire (s : State) : Result := .next (waitExpired s)

/-- REVERT: a write of CFG_PCTL with REVERT = 1 (R91). -/
def execRevert (f : Fn) (q : PlotId) (s : State) : Result := .next (hostGate s f (fun s => revertFrom s f q))

/-- FUSE_PROGRAM: a write of CFG_FUSE_CTL with OP 1 by the PF. -/
def execFuseProgram (key : Byte) (slot : Fin 4) (s : State) : Result := .next (hostGate s 0 (fun s => fuseProgram s key slot))

/-- FUSE_REVOKE: a write with OP 2. -/
def execFuseRevoke (key : Byte) (slot : Fin 4) (s : State) : Result := .next (hostGate s 0 (fun s => fuseRevoke s key slot))

/-- FUSE_LOCK: a write with OP 3. -/
def execFuseLock (key : Byte) (s : State) : Result := .next (hostGate s 0 (fun s => fuseLock s key))

/-- FUSE_OP_COMPLETE. -/
def execFuseOpComplete (s : State) : Result := .next (fuseDone s)

end Sys2Proof.Machine
end

