-- ==== Sys2Proof/Machine/Apply.lean ====
section
/-!
DEFINITION. Sys2Proof/Machine/Apply.lean: step 4 of the commit sequence: a plot's snapshot becomes its committed values, a
bundle takes effect (R88, R89), engine sets change (Table 2-2, R357), commons pages are placed (R113, R114); and the
undoing of a commit that a hold-off overrun leaves unapplied (R39).
-/
namespace Sys2Proof.Machine

/-! ### Plot memory when the plot map changes -/

/-- Where a plot address lies after the plot's tiles and engines have changed; none where its slice is gone. -/
def moveAddr (old new : Content) (q a : Nat) : Option Nat :=
  if a < 0x80000000 then
    match (old.tileList q)[a / 0x2000000]? with
    | none => none
    | some t => (firstIdx (· == t) (new.tileList q)).map (fun k => k * 0x2000000 + a % 0x2000000)
  else if a < 0x90000000 then
    match (old.mxeList q)[(a - 0x80000000) / 0x1000000]? with
    | none => none
    | some m => (firstIdx (· == m) (new.mxeList q)).map (fun k => 0x80000000 + k * 0x1000000 + a % 0x1000000)
  else some a

/-- Memory of a plot follows its tiles and engines to their new within-plot indices; a removed engine's is cleared (R60). -/
def moveCells (old new : Content) (q : PlotId) (m : List Host.Cell) : List Host.Cell :=
  m.foldl (fun r c =>
    if c.1 / plotSpan = q.val then
      match moveAddr old new q.val (c.1 % plotSpan) with
      | some a => cellPut r (memKey q a) c.2
      | none => r
    else cellPut r c.1 c.2) []

/-- Where a page lies after the plot's tiles and engines have changed. -/
def movePage (old new : Content) (q p : Nat) : Option Nat := (moveAddr old new q (65536 * p)).map (· / 65536)

/-- A job's private copies follow their pages; those of a slice that is gone are dropped (R54, R60). -/
def Job.moveCopies (j : Job) (old new : Content) (q : PlotId) : Job :=
  { j with
    ovl := moveCells old new q j.ovl, copies := j.copies.filterMap (movePage old new q.val),
    copying := j.copying.filterMap (movePage old new q.val),
    frames := j.frames.filterMap (fun x => (movePage old new q.val x.1).map (fun p => (p, x.2))),
    writes := j.writes.filterMap (fun w => (moveAddr old new q.val w.2.1).map (fun a =>
      (w.1.filterMap (movePage old new q.val), a, w.2.2))) }

/-- Is a node one of a plot's tiles or engines? -/
def ownsNode (c : Content) (q n : Nat) : Bool := engineLine c q (n * 2 ^ 25)

/-- A plot's memory, the copies of its jobs and its moved pages follow a change of its engine set (R54, R60, R120). -/
def moveHeld (old new : Content) (s : State) (q : PlotId) : State :=
  if old.tiles q.val = new.tiles q.val ∧ old.mxes q.val = new.mxes q.val then s
  else
    let s := s.modPlt q (fun p => { p with jobs := p.jobs.map (fun j => j.moveCopies old new q) })
    let s := s.modMsh q (fun m => { m with moved := m.moved.filter (fun x => x.1 == 120 || ownsNode new q.val x.1) })
    { s with
      mem := moveCells old new q s.mem,
      msh := { s.msh with poison := s.msh.poison.filter (fun l => !(engineLine old q.val l && !engineLine new q.val l)) } }

/-- Home pages of the commons that a quota brings or takes away read 0 (R60). -/
def wipeQuota (h h' : Nat) (s : State) (q : PlotId) : State :=
  if h = h' then s else s.wipeMem q (0x90000000 + 65536 * min h h') (0x90000000 + 65536 * max h h')

/-- A plot's memory follows a change of the plot map: slices move with their engines, those of removed engines are cleared
(R60, R120), and home pages of a smaller quota leave (R112, R114). The new content is in force. -/
def movePlot (old new : Content) (s : State) (q : PlotId) : State :=
  let s := moveHeld old new s q
  let m := (s.plot q).msh
  let h := m.cmnHome (old.quota q.val)
  let h' := m.cmnHome (new.quota q.val)
  let s := wipeQuota h h' s q
  let gone := m.resident.filter (fun r => match r.home with | some n => !ownsNode new q.val n | none => false)
  let stale := if old.backings q.val = new.backings q.val then gone else m.resident
  let s := stale.foldl (fun s r => evict s q r.page) s
  if old.quota q.val = new.quota q.val then s else fitPool s q .commons h

/-! ### Commons quotas (R113, R114) -/

/-- Pages `i` and up of a plot are placed, `n` of them. -/
def placePages (m : MshState) (q : Nat) : Nat → Nat → MshState
  | 0, _ => m
  | n + 1, i =>
    match freePage (usedPages m) (i % 8) true with
    | some p => placePages { m with quota := m.quota ++ [{ plot := q, i := i, bank := p.1, page := p.2 }] } q n (i + 1)
    | none => m

/-- Pages a plot holds. -/
def quotaHeld (m : MshState) (q : Nat) : Nat := (m.quota.filter (fun x => x.plot == q)).length

/-- Placement in step 4 (R114): releases first, then grants; a page released and placed again is cleared first. Released and
placed pages read 0, so their check bits are rewritten (R60, R120). -/
def placeQuotas (s : State) (new : Content) : State :=
  let keep := s.msh.quota.filter (fun x => decide (x.i < new.quota x.plot))
  let released := s.msh.quota.filter (fun x => !keep.contains x)
  let freed := released.map (fun x => (x.bank, x.page))
  let s := { s with msh := { s.msh with
    quota := keep, staging := [],
    poison := s.msh.poison.filter (fun l => !released.any (fun x => quotaPageLine x l)) } }
  s.eachPlot tenantPlots (fun s q =>
    let held := quotaHeld s.msh q.val
    let m := placePages s.msh q.val (new.quota q.val - held) held
    let mine := m.quota.filter (fun x => x.plot == q.val && decide (held ≤ x.i))
    let s := { s with msh := { m with poison := m.poison.filter (fun l => !mine.any (fun x => quotaPageLine x l)) } }
    if mine.any (fun x => freed.contains (x.bank, x.page)) then s.modMsh q (fun y => { y with zeroing := true }) else s)

/-! ### A bundle takes effect (R89) -/

/-- A commit changes the engine set of a plot: its stop or clearing begins (Table 2-2). -/
def reassignPlot (s : State) (q : PlotId) : State :=
  match (s.plot q).plt.state with
  | .running => startStop (s.modPlt q (fun p => { p with reqReassign := true })) q
  | .idle | .disabled => (stopEngines s q).setPlotState q .clearing
  | .stopping => s.modPlt q (fun p => { p with reqReassign := true })
  | _ => s

/-- A plot that had nothing and now owns something is DISABLED, and goes on from there (Table 2-2). -/
def adoptPlot (s : State) (q : PlotId) : State :=
  if (s.plot q).plt.state == .unassigned && s.cfg.content.ownsAny q.val then reviewPlot (s.setPlotState q .disabled) q else s

/-- The state of every INDEX entry that is new or changed is reset (R241). -/
def freshIndexes (old : Content) (s : State) (q : PlotId) : State :=
  (List.finRange 16).foldl (fun s ix =>
    if old.index? q.val ix.val = s.cfg.content.index? q.val ix.val then s else resetIndex s q ix) s

/-- A committed bundle takes effect in step 4. -/
def applyBundle (s : State) (b : Bundle) : State :=
  let old := s.cfg.content
  let new := b.apply old
  let plots := b.touched.filter (fun q => q != 0)
  let s := s.eachPlot plots (fun s q => if engineChange old new q.val then reassignPlot s q else s)
  let s := s.modCfg (fun c => { c with content := new })
  let s := s.eachPlot plots (movePlot old new)
  let s := placeQuotas s new
  let s := s.modCfg (fun c => { c with
    seq := if b.slip then c.seq else BitVec.ofNat 64 b.seq,
    slot := if b.slip then c.slot else BitVec.ofNat 2 b.slot,
    loaded := c.loaded || !b.slip })
  let s := if b.slip then s.modCfgSet (mkPlot b.plot) (fun x => { x with pslipSeq := BitVec.ofNat 64 b.seq })
    else s.eachPlot allPlots (fun s q => s.modCfgSet q (fun x => { x with pslipSeq := 0 }))
  let s := s.eachPlot plots (freshIndexes old)
  let s := s.eachPlot plots adoptPlot
  let s := if old.chans != new.chans || old.ownerAdmit != new.ownerAdmit || old.revokeAdmit != new.revokeAdmit
    then initLanes s else s
  ((dropBundle s).modCfg (fun c => { c with last := 1 })).raisePf 3

/-! ### Registers -/

/-- The committed source changes (R38): the current frame still ends as the old source gives it. -/
def switchSource (s : State) (src : BitVec 2) : State :=
  let st : SrcState := if src = 1 then .ppsAcq else if src = 2 then .plantAcq else .internal
  (s.modFrm (fun f => { f with
    srcState := st, missRun := 0, relockNext := false, ppsExpect := none, ppsOut4 := 0 })).frmEvent 7

/-- The step 1 snapshot of plot 0, with a joined bundle's PRESET values. -/
def snapDev (s : State) (b : Option Bundle) : DevRws :=
  match b with | some b => s.frm.snap.overlay (b.presets 0) | none => s.frm.snap

/-- The step 1 snapshot of a plot, with a joined bundle's PRESET values. -/
def snapRws (s : State) (q : PlotId) (b : Option Bundle) : PlotRws :=
  match b with | some b => (s.plot q).snap.overlay (b.presets q.val) | none => (s.plot q).snap

/-- Did a committed value of the plot change in this window (CFG_PCOMMIT)? -/
def noteCommit (s : State) (q : PlotId) (changed : Bool) : State :=
  if changed then s.modCfgSet q (fun x => { x with pcommit := s.frm.count }) else s

/-- A plot whose check passed takes its snapshot as committed values (step 4); a bundle's PRESET values become shadow
values too (R75). -/
def applyPlot (s : State) (q : PlotId) (b : Option Bundle) (configChanged : Bool) : State :=
  let presets := match b with | some b => b.presets q.val | none => []
  if q = 0 then
    let old := s.frm.rws
    let new := snapDev s b
    let s := noteCommit s q (configChanged || old != new)
    let s := s.modFrm (fun f => { f with rws := new, shadow := f.shadow.overlay presets })
    if old.src = new.src then s else switchSource s new.src
  else
    let old := (s.plot q).rws
    let new := snapRws s q b
    let s := noteCommit s q (configChanged || old != new)
    let s := s.modPlot q (fun p => { p with rws := new, shadow := p.shadow.overlay presets })
    if !sameTape old new && decide ((s.plot q).plt.admitted = 0) then resetLanes s q else s

/-! ### A commit that is not applied after all (R39) -/

/-- What stands before step 4, kept until the tick. -/
def undoRecord (s : State) (touched : List PlotId) : Undo :=
  { dev := s.frm.rws, shadow := s.frm.shadow, src := s.frm.srcState, cfg := s.cfg, plots := s.plots, touched := touched,
    msh := s.msh, mem := s.mem, lanes := s.lanes, mxes := s.mxes, partials := s.partials }

/-- A field that still holds what a commit wrote goes back; one written since stays. -/
def giveBack {α : Type} [DecidableEq α] (now new old : α) : α := if now = new then old else now

/-- Plot 0's shadow without the PRESET values of a commit that is not applied. -/
def DevRws.giveBack (now new old : DevRws) : DevRws :=
  { period := Machine.giveBack now.period new.period old.period, src := Machine.giveBack now.src new.src old.src,
    ppsDiv := Machine.giveBack now.ppsDiv new.ppsDiv old.ppsDiv,
    plantWin := Machine.giveBack now.plantWin new.plantWin old.plantWin,
    plantEntry := Machine.giveBack now.plantEntry new.plantEntry old.plantEntry,
    limit := Machine.giveBack now.limit new.limit old.limit, cap := Machine.giveBack now.cap new.cap old.cap }

/-- A plot's shadow without the PRESET values of a commit that is not applied. -/
def PlotRws.giveBack (now new old : PlotRws) : PlotRws :=
  { cls := Machine.giveBack now.cls new.cls old.cls, strict := Machine.giveBack now.strict new.strict old.strict,
    cap := Machine.giveBack now.cap new.cap old.cap, tapeDir := Machine.giveBack now.tapeDir new.tapeDir old.tapeDir,
    tapeOn := Machine.giveBack now.tapeOn new.tapeOn old.tapeOn,
    tapeLen := Machine.giveBack now.tapeLen new.tapeLen old.tapeLen,
    tapeBase := Machine.giveBack now.tapeBase new.tapeBase old.tapeBase,
    group := Machine.giveBack now.group new.group old.group }

/-- PRESET values of the bundle that was committed, for a plot. -/
def Undo.presets (u : Undo) (q : PlotId) : List (RwsReg × Nat) :=
  if u.touched.contains q then (match u.cfg.bundle with | some b => b.presets q.val | none => []) else []

/-- The tick source is as it was before a switch of the source: the designated message that is held off has locked a plant
source, and completes an acquisition (Table 1-4). -/
def undoSource (s : State) (u : Undo) : State :=
  if s.frm.rws.src = u.dev.src then s
  else
    let plant := u.src = .plantAcq ∨ u.src = .plantLock ∨ u.src = .plantHold
    let s := s.modFrm (fun f => { f with srcState := if plant then .plantLock else u.src })
    if u.src = .plantAcq then s.frmEvent 8 else s

/-- The plot's registers go back to what was committed before; its shadows remain as software left them (R39). -/
def unapplyPlot (s : State) (u : Undo) (q : PlotId) : State :=
  let was := u.plots[q]
  let s := s.modCfgSet q (fun x => { x with pcommit := was.cfg.pcommit, pslipSeq := was.cfg.pslipSeq })
  if q = 0 then
    (undoSource s u).modFrm (fun f => { f with
      rws := u.dev, shadow := f.shadow.giveBack (u.shadow.overlay (u.presets 0)) u.shadow })
  else
    let fresh := !sameTape was.rws (s.plot q).rws && decide (was.plt.admitted = 0)
    s.modPlot q (fun p => { p with
      rws := was.rws, shadow := p.shadow.giveBack (was.shadow.overlay (u.presets q)) was.shadow,
      nse := if fresh then { p.nse with lanes := was.nse.lanes, prev := was.nse.prev, halted := was.nse.halted } else p.nse })

/-- Did a commit take a byte of a plot out of memory: its slice is gone, its page left the commons quota, or its backed page
left its frame? -/
def lostByte (old new : Content) (u : Undo) (s : State) (q : PlotId) (a : Nat) : Bool :=
  let m := u.plots[q].msh
  let h := m.cmnHome (old.quota q.val)
  let h' := m.cmnHome (new.quota q.val)
  let page := (a - 0x90000000) / 65536
  (moveAddr old new q.val a).isNone ||
    (decide (0x90000000 ≤ a) && decide (min h h' ≤ page) && decide (page < max h h')) ||
    (m.resident.any (fun r => r.page == (a - 0x800000000) / 65536) && decide (0x800000000 ≤ a) &&
      !(s.plot q).msh.resident.any (fun r => r.page == (a - 0x800000000) / 65536))

/-- A plot's memory as it was before the commit, with what other commands wrote since. -/
def undoMemory (old new : Content) (u : Undo) (s : State) (q : PlotId) : State :=
  let lost := fun (k : Nat) => decide (k / plotSpan = q.val) && lostByte old new u s q (k % plotSpan)
  let back := if old.tiles q.val = new.tiles q.val ∧ old.mxes q.val = new.mxes q.val then s.mem else moveCells new old q s.mem
  let cleared := fun (l : Nat) => (engineLine old q.val l && !engineLine new q.val l) ||
    (quotaLine u.msh q.val l && decide (old.quota q.val ≠ new.quota q.val))
  { s with
    mem := applyOver back (u.mem.filter (fun c => lost c.1)),
    msh := { s.msh with poison :=
      s.msh.poison ++ u.msh.poison.filter (fun l => cleared l && !s.msh.poison.contains l) } }

/-- A job that the commit cancelled is as it was. -/
def undoJobs (now old : List Job) : List Job :=
  now.map (fun j => if j.code == .cancelled then (old.find? (fun k => k.idx == j.idx && !(k.code == .cancelled))).getD j else j)

/-- The engines of a plot that the commit stopped are as they were, after the bank swap of step 5. -/
def undoEngines (old : Content) (u : Undo) (s : State) (q : PlotId) : State :=
  let was := u.plots[q]
  let mine := old.mxes q.val
  let s := s.modPlot q (fun p => { p with
    held := was.held, an := was.an, grf := was.grf,
    nse := { p.nse with lanes := was.nse.lanes, prev := was.nse.prev, halted := was.nse.halted },
    fln := { p.fln with queries := was.fln.queries, idx := was.fln.idx }, msh := { p.msh with pageIns := was.msh.pageIns },
    plt := { p.plt with jobs := undoJobs p.plt.jobs was.plt.jobs, reqReassign := was.plt.reqReassign } })
  { s with
    mxes := Vector.ofFn (fun (m : Fin 16) => if mine.getLsbD m.val then u.mxes[m].normalise else s.mxes[m]),
    partials := s.partials.filter (fun p => !(p.plot == q)) ++ u.partials.filter (fun p => p.plot == q),
    msh := { s.msh with
      retries := s.msh.retries.filter (fun r => !(r.plot == q)) ++ u.msh.retries.filter (fun r => r.plot == q),
      reserves := s.msh.reserves.filter (fun r => !(r.plot == q)) ++ u.msh.reserves.filter (fun r => r.plot == q) },
    lanes := Vector.ofFn (fun (l : Fin 8) => { s.lanes[l] with
      queue := s.lanes[l].queue.filter (fun x => !(x.plot == q)) ++ u.lanes[l].queue.filter (fun x => x.plot == q),
      ops := s.lanes[l].ops.filter (fun o => o.issued || !(o.plot == q)) ++ u.lanes[l].ops.filter (fun o => !o.issued && o.plot == q) }) }

/-- A plot that the bundle touched is as it was before step 4, but for what a reset of the plot has begun since. -/
def undoPlot (old new : Content) (u : Undo) (s : State) (q : PlotId) : State :=
  let was := u.plots[q]
  let s := undoMemory old new u s q
  let s := s.modPlot q (fun p => { p with
    msh := { p.msh with resident := was.msh.resident, moved := was.msh.moved, zeroing := was.msh.zeroing },
    cfg := { p.cfg with touched := was.cfg.touched, waited := was.cfg.waited },
    fln := { p.fln with idx := Vector.ofFn (fun (ix : Fin 16) =>
      if old.index? q.val ix.val = new.index? q.val ix.val then p.fln.idx[ix] else was.fln.idx[ix]) } })
  let now := (s.plot q).plt
  let stopped := now.state == .stopping || now.state == .clearing
  if now.reqReset then s
  else if stopped && !(now.state == was.plt.state) then (undoEngines old u s q).setPlotState q was.plt.state
  else if stopped then s.modPlt q (fun p => { p with reqReassign := was.plt.reqReassign })
  else if was.plt.state == .unassigned && decide (now.admitted = 0) then s.setPlotState q .unassigned
  else s

/-- The bundle is not committed in that window after all: it is STAGED and armed again, and the plots it touched have what
they had. -/
def unapplyBundle (s : State) (u : Undo) : State :=
  let new := s.cfg.content
  let old := u.cfg.content
  let lanesUndone := old.chans != new.chans || old.ownerAdmit != new.ownerAdmit || old.revokeAdmit != new.revokeAdmit
  let s := { s with msh := { s.msh with quota := u.msh.quota, staging := u.msh.staging } }
  let s := s.modCfg (fun c => { u.cfg with
    arm := c.arm, srcAddr := c.srcAddr, srcLen := c.srcLen, waitFrames := c.waitFrames, fuseData := c.fuseData,
    fuseBusy := c.fuseBusy, opErr := c.opErr, refuseCnt := c.refuseCnt, commitErr := c.commitErr })
  let s := if lanesUndone then { s with lanes := u.lanes } else s
  s.eachPlot (u.touched.filter (fun q => q != 0)) (undoPlot old new u)

/-- Some plots' dispatch preparation had not finished when the held-off tick came (R39). A bundle is committed whole or not at
all (R88): where one of its plots is late, none of them commits (DEDUCED, log entry 173). -/
def unapply (s : State) (u : Undo) (late : List PlotId) : State :=
  let joint := late.any (fun q => u.touched.contains q)
  let plots := if joint then late ++ u.touched.filter (fun q => !late.contains q) else late
  let s := s.eachPlot plots (fun s q => unapplyPlot s u q)
  if joint then unapplyBundle s u else s

end Sys2Proof.Machine
end

