-- ==== Sys2Proof/Machine/Commit.lean ====
section
/-!
DEFINITION. Sys2Proof/Machine/Commit.lean: the commit window (R20) and the eight steps of its sequence (R22, Table 1-3):
deadline, snapshot, agreement, apply, banks, admission (R25 to R27, R52), dispatch, records.
-/
namespace Sys2Proof.Machine

/-! ### What frame programs did in the frame -/

/-- Did a job of this index issue writes in an attempt, and is its record still to be written? -/
def Job.wrote (i : BitVec 16) (j : Job) : Bool :=
  j.idx == i && decide (0 < j.attempts) && !(j.phase == .finished) && !(j.phase == .between)

/-- A frame program's writes to its output buffer, in order (R345): a stream within OUT_MAX, sent as posted writes. Those an
attempt issued in this frame before its abandonment or a stop began have left the device too and count (R57, Table 2-4,
Table 2-5), whether or not requests are still permitted when the window reports them (DEDUCED, log entry 172). -/
def outWrites (s : State) (q : PlotId) (i : BitVec 16) : List (Nat × List Byte) → State
  | [] => s
  | (off, bs) :: rest =>
    match (s.plot q).plt.jobs.find? (Job.wrote i) with
    | none => s
    | some j =>
      if off ≠ j.out.length ∨ j.img.outMax < off + bs.length then
        if j.phase == .running && !j.budget then chargeFault s q i .image none else s
      else
        let s := s.modPlt q (fun p => { p with
          jobs := p.jobs.map (fun k => if k.wrote i then { k with out := k.out ++ bs } else k) })
        outWrites (s.emit (.write q (j.desc.outAddr + off) bs s.devCtl.relaxed s.maxPayload)) q i rest

/-- Is an operation, a drain or a call of a job still under way? It is part of the job's frame program (R201, R29). -/
def engineBusy (s : State) (q : PlotId) (i : BitVec 16) : Bool :=
  (List.finRange 16).any (fun m => MxeRun.of s.mxes[m].run q i) ||
  (List.finRange 16).any (fun h => match s.hccs[h].call with | some c => c.plot == q && c.idx == i | none => false) ||
  (List.finRange 4).any (fun n => match s.qces[n].call with | some c => c.plot == q && c.idx == i | none => false)

/-- A frame program ended before the window opened (R29): the job's next one follows, or its last has finished. -/
def programDone (s : State) (q : PlotId) (i : BitVec 16) : State :=
  match (s.plot q).plt.job? i with
  | none => s
  | some j =>
    if j.phase != .running || j.budget || j.deadline then s
    else
      let s := carryOpen s q i
      let last := decide (j.img.frames ≤ j.done + 1)
      let open_ := (s.plot q).fln.queries.any (fun x => x.job == i)
      let writing := (List.finRange 8).any (fun l => (s.lane l).ops.any (fun o => o.plot == q && o.job == i && o.kind != .read))
      if (runningJob s q i).isNone || engineBusy s q i || (last && writing) then s
      else if last && open_ then chargeFault s q i .image none
      else s.modJob q i (fun j => { j with done := j.done + 1, phase := if last then .finished else .between })

/-- What a job held in an index is its own again (R254, R256). -/
def IndexState.regain (x old : IndexState) (i : BitVec 16) : IndexState :=
  let x := { x with epochs := x.epochs.map (fun e => if old.epochs.contains (e.1, .running i) then (e.1, .running i) else e) }
  if old.writer == some i then
    { x with writer := old.writer, merge := old.merge, next := old.next, staged := old.staged, t0 := old.t0, seen := old.seen }
  else x

/-- A job cancelled by a stop of this frame had finished its last frame before the event: it completes OK and its page
copies replace the originals (chapter 02, edge on a plot disabled in the frame in which a job completes). -/
def regainJob (s : State) (q : PlotId) (i : BitVec 16) : State :=
  match (s.plot q).held with
  | none => s
  | some (jobs, idx) =>
    match jobs.find? (fun j => j.idx == i) with
    | none => s
    | some j =>
      let mine := fun (k : Job) => k.idx == i && k.code == .cancelled && decide (0 < k.attempts)
      if !(s.plot q).plt.jobs.any mine then s
      else s.modPlot q (fun p => { p with
        plt := { p.plt with jobs := p.plt.jobs.map (fun k =>
          if mine k then { j with phase := .finished, done := j.done + 1, out := k.out, energy := k.energy } else k) },
        fln := { p.fln with idx := Vector.ofFn (fun (n : Fin 16) => p.fln.idx[n].regain idx[n] i) } })

/-- One frame program's report. -/
def takeReport (s : State) (r : FrameReport) : State :=
  let s := outWrites s r.plot r.idx r.out
  if r.finished then regainJob (programDone s r.plot r.idx) r.plot r.idx else s

/-! ### Step 1 -/

/-- Is work of the plot still to drain (R87)? -/
def hasWork (s : State) (q : PlotId) : Bool := (s.plot q).plt.jobs.any (fun j => j.live && j.phase != .finished)

/-- Plots that an armed bundle waits for (R87). -/
def drainList (s : State) (b : Bundle) : List PlotId :=
  let old := s.cfg.content
  let new := b.apply old
  b.touched.filter (fun q => q != 0 && hasWork s q && planChange old new q.val && !engineChange old new q.val)

/-- Frame programs still running overrun, shadows and ring heads are captured, parts park (step 1). -/
def step1Plot (s : State) (q : PlotId) : State :=
  let late := (s.plot q).plt.jobs.filter (fun j => j.live && j.phase == .running)
  let s := late.foldl (fun s j => recordOverrun s q j false) s
  let s := parkAll s q
  s.modPlot q (fun p => { p with
    snap := p.shadow,
    plt := { p.plt with snapHead := (match p.plt.head with | .ready _ _ => true | _ => false) },
    nse := { p.nse with lowRaised := false },
    skt := { p.skt with raised := false } })

/-- An armed bundle waits or joins the snapshot (R87, R88); answers the bundle that joined, with the wait limit reached. -/
def bundleStep1 (s : State) : State × Option (Bundle × Option Nat) :=
  let clear := fun (s : State) => s.eachPlot allPlots (fun s q => s.modCfgSet q (fun x => { x with waited := false }))
  let ready := s.cfg.arm && (s.cfg.load == .staged || s.cfg.load == .waiting)
  match (if ready then s.cfg.bundle else none) with
  | none => (clear (s.modCfg (fun c => { c with waitMap := 0 })), none)
  | some b =>
    match drainList s b with
    | [] => (clear (s.modCfg (fun c => { c with waitMap := 0 })), some (b, none))
    | q :: qs =>
      if s.cfg.waited < s.cfg.waitFrames.toNat then
        let wait := q :: qs
        let map := wait.foldl (fun (m : BitVec 64) q => setBit m (q.val - 1) true) 0
        let s := s.modCfg (fun c => { c with load := .waiting, waited := c.waited + 1, waitMap := map })
        (s.eachPlot allPlots (fun s q => s.modCfgSet q (fun x => { x with waited := wait.contains q })), none)
      else (s, some (b, some q.val))

/-! ### Step 2 -/

/-- Abandonment begins for every job marked as overrun (R30). -/
def abandonLate (s : State) (q : PlotId) : State :=
  let late := (s.plot q).plt.jobs.filter (fun j => j.live && (j.budget || j.deadline) && j.phase != .abandoning)
  late.foldl (fun s j => beginAbandon s q j .overrun none) s

/-- The plot's OVERRUN line of this frame: one, whatever the number of overruns (R30); a further one is withheld (R351). -/
def overrunLine (s : State) (q : PlotId) : State :=
  let p := (s.plot q).plt
  if p.ovrFrame = 0 then s
  else if p.ovrLogged then s.logSuppressed
  else (s.modPlt q (fun p => { p with ovrLogged := true })).logLine 0x11 q.val none p.ovrFrame
    (b2n p.ovrBudget + 2 * b2n p.ovrDeadline)

/-- A plot's counter snapshots (R148, R174, R192, R213, R230, R263, R286). -/
def latchPlot (s : State) (q : PlotId) : State :=
  let carry := carryBits s q
  let info := graftInfo s q
  let group := match (s.plot q).plt.jobs.find? (fun j => j.live) with | some j => j.group | none => 0
  (latchFlash s q).modPlot q (fun p => { p with
    an := p.an.latch, grf := p.grf.latch p.an.offset info,
    mxe := { p.mxe with shown := p.mxe.live, shownCarry := carry, shownGroup := group },
    qce := { p.qce with shown := p.qce.live }, pwr := p.pwr.latch })

/-- Device-wide snapshots: busy cycles of the quantise/convert engines and the links' flits (R121, R230). -/
def latchDevice (s : State) (links : List (Nat × Nat × Nat × Nat)) : State :=
  { s with
    qces := s.qces.map (fun e => { e with busyLast := satAdd 0 e.busy }),
    msh := { s.msh with links := links } }

/-! ### Steps 3 and 4 -/

/-- The check of every plot (R90), in the order of R22. -/
def checkAll (s : State) (j : Option (Bundle × Option Nat)) : List (PlotId × Option Fail) :=
  allPlots.map (fun q =>
    let b := match j with | some (b, _) => if b.touches q.val then some b else none | none => none
    let report := match b with | some b => b.reports q.val | none => none
    (q, checkPlot s {
      plot := q.val, dev := snapDev s b, rws := snapRws s q b,
      content := (match b with | some b => b.apply s.cfg.content | none => s.cfg.content),
      bundle := report, wait := if report.isSome then (match j with | some (_, w) => w | none => none) else none }))

/-- A touched plot that passed reports BND_PEER when another touched plot failed (R88). -/
def peerFails (b : Option Bundle) (l : List (PlotId × Option Fail)) : List (PlotId × Option Fail) :=
  match b with
  | none => l
  | some b =>
    match (l.filter (fun x => b.touches x.1.val && x.2.isSome)).head? with
    | none => l
    | some bad => l.map (fun x => if b.touches x.1.val ∧ x.2 = none then (x.1, some (0xB2, bad.1.val)) else x)

/-- Steps 3 and 4: refusals, the bundle's fate, and the plots that commit. -/
def steps34 (s : State) (j : Option (Bundle × Option Nat)) : State :=
  let b := j.map (·.1)
  let res := peerFails b (checkAll s j)
  let s := res.foldl (fun s x => match x.2 with
    | some f => refusePlot s x.1 f
    | none => s.modCfgSet x.1 (fun y => { y with lastRefusal := none })) s
  let passed := (res.filter (fun x => x.2 = none)).map (·.1)
  let bundleOk := match b with | some b => b.touched.all (fun q => passed.contains q) | none => false
  let joined := if bundleOk then b else none
  let s := if b.isSome && !bundleOk then refuseBundle s else s
  let u := undoRecord s (match joined with | some b => b.touched | none => [])
  let old := s.cfg.content
  let s := match joined with | some b => applyBundle s b | none => s
  let s := passed.foldl (fun s q =>
    let b := match joined with | some b => if b.touches q.val then some b else none | none => none
    applyPlot s q b (b.isSome && q != 0 && (planChange old s.cfg.content q.val || engineChange old s.cfg.content q.val))) s
  { s with undo := some u }

/-! ### Step 6 -/

/-- A job whose last frame program finished completes OK: its page copies replace the originals (R54), its side entries
and generations are published, a record tape gets its last segments. -/
def publishJob (s : State) (q : PlotId) (j : Job) : State :=
  let s := publishPages s q j
  let s := publishFlash s q j.idx
  let s := if j.passed && (s.plot q).an.job == j.idx then recordEnd s q else s
  let s := s.modFln q (fun f => { f with queries := f.queries.filter (fun x => !(x.job == j.idx)) })
  let s := if (s.plot q).an.job == j.idx then s.modPlot q (fun p => { p with grf := { p.grf with phase := 0, scan := none } }) else s
  let s := { s with mxes := s.mxes.map (fun (e : MxeEngine) => if MxeRun.of e.carry q j.idx then e.clear false else e) }
  s.modPlt q (fun p => { p with jobs := completeJobs p.jobs (fun k => k.idx == j.idx && k.live) })

/-- Completed jobs of a plot let go of their claims (R25); a RUNNING plot with none left is IDLE. -/
def releaseClaims (s : State) (q : PlotId) : State :=
  let done := (s.plot q).plt.jobs.filter (fun j => j.live && j.phase == .finished &&
    (!(j.passed && (s.plot q).an.job == j.idx && (tapeRws s q).tapeOn && (tapeRws s q).tapeDir) || recordRoom s q))
  let s := done.foldl (fun s j => publishJob s q j) s
  let s := s.modPlt q (fun p => { p with jobs := p.jobs.map (fun j => if j.phase == .over then { j with released := true } else j) })
  if (s.plot q).plt.state == .running && decide ((s.plot q).plt.admitted = 0) then reviewPlot (s.setPlotState q .idle) q else s

/-- Plots in the order of R26: class by class, highest first, each class in rotation. -/
def admitOrder (s : State) : List PlotId :=
  let ring := (List.range 64).map (fun i => mkPlot ((s.frm.rotation - 1 + i) % 64 + 1))
  [3, 2, 1, 0].flatMap (fun c => ring.filter (fun q => decide ((s.plot q).rws.cls.toNat = c)))

/-- No frame can ever admit the job (R27). -/
def neverFits (s : State) (q : PlotId) (i : Image) : Bool :=
  let c := s.cfg.content
  let a := s.admitA
  i.claims.any (fun cl => decide (a < cl.cycles) ||
    (match cl.kind with
     | 0 => decide ((c.tileList q.val).length ≤ cl.index)
     | 1 => decide ((c.mxeList q.val).length ≤ cl.index)
     | 4 => c.ctx q.val (nodeKind cl.index).2 == 0
     | _ => false))

/-- Every operator the image names is committed (R89). -/
def opsKnown (c : Content) (i : Image) : Bool := i.ops.all (fun o => c.ops.any (fun e => e.1 == o.1 && e.2.1 == o.2))

/-- On every engine its claim table names, the claims sum to at most A (R25). -/
def claimsFit (s : State) (q : PlotId) (i : Image) : Bool :=
  let c := s.cfg.content
  let j : Job := { img := i }
  i.claims.all (fun cl => match claimNode c q.val cl with
    | some n => decide (s.claimSum n + j.claimOn c q.val n ≤ s.admitA)
    | none => false)

/-- No claimed lane is initialising (R234). -/
def lanesUp (s : State) (i : Image) : Bool :=
  i.claims.all (fun cl => cl.kind != 4 || (s.lane (mkLane (nodeKind cl.index).2)).state != .init)

/-- The conditions of R52, R112, R114 and R165; `held` is what the plot had admitted in step 1. -/
def mayAdmit (s : State) (q : PlotId) (d : Desc) (i : Image) (held : Nat) : Bool :=
  let p := s.plot q
  (!d.fence || decide (p.plt.admitted = 0)) &&
    decide (held + occupancy p.plt.cqTail p.plt.cqHead + p.plt.formed.length < 256) &&
    decide (i.wrPages ≤ cacheFree s q) && !p.msh.zeroing && lanesUp s i &&
    (match p.nse.cap with | some c => decide (p.plt.admitted = 0) || sameTape c p.rws | none => true)

/-- The head job is admitted (R26): what it captures, and the next descriptor is fetched. -/
def admitJob (s : State) (q : PlotId) (d : Desc) (i : Image) : State :=
  let r := (s.plot q).rws
  let s := match (s.plot q).nse.prev with
    | some c => if sameTape c r then s else resetLanes s q
    | none => s
  let p := (s.plot q).plt
  let j : Job := {
    idx := p.sqHead, desc := d, img := i, strict := r.strict, cap := r.cap.toNat, group := r.group.toNat }
  let s := s.modPlot q (fun x => { x with
    plt := { x.plt with
      jobs := x.plt.jobs ++ [j], sqHead := x.plt.sqHead + 1, head := .empty, snapHead := false, prev := some i },
    nse := { x.nse with prev := some r, cap := some r },
    an := { x.an with captured := false } })
  startFetch (s.setPlotState q .running) q

/-- Admission of one plot's head job (R26, R27). -/
def considerHead (held : List (PlotId × Nat)) (s : State) (q : PlotId) : State :=
  let p := (s.plot q).plt
  if !p.snapHead || !(p.state == .idle || p.state == .running) then s
  else match p.head with
    | .ready d i =>
      if neverFits s q i then completeUnran s q d .noFit
      else if !opsKnown s.cfg.content i then completeUnran s q d .image
      else if claimsFit s q i && mayAdmit s q d i (assocD held q 0) then admitJob s q d i
      else s
    | _ => s

/-- Step 6. -/
def step6 (s : State) : State :=
  let held := allPlots.map (fun q => (q, (s.plot q).plt.admitted))
  let s := s.eachPlot allPlots releaseClaims
  let s := s.eachPlot (admitOrder s) (considerHead held)
  s.modFrm (fun f => { f with rotation := f.rotation % 64 + 1 })

/-! ### Step 8 and the whole sequence -/

/-- The plot's records of this frame are formed, in order of completion, and written (R55). -/
def step8Plot (s : State) (q : PlotId) : State :=
  let done := (s.plot q).plt.jobs.filter (fun j => j.phase == .over)
  let s := done.foldl (fun s j => formRecord s q j) s
  let s := s.modPlt q (fun p => { p with jobs := p.jobs.filter (fun j => j.phase != .over) })
  writeFormed s q

/-- The commit window opens (R20) and the sequence runs (R22). -/
def commitWindow (s : State) (r : WindowReport) : State :=
  if !s.isReady || s.frm.opened then s
  else
    let s := s.advanceTo (s.frm.tickAt + 94 * s.frm.framePeriod)
    let s := s.modFrm (fun f => { f with opened := true, commitEnd := s.boot.tclk + r.commitTclk, snap := f.shadow })
    let s := { s with pwr := { s.pwr with warned := false } }
    let s := r.frames.foldl takeReport s
    let s := s.eachPlot allPlots (fun s q => s.modPlot q (fun p => { p with held := none }))
    let s := s.eachPlot allPlots step1Plot
    let (s, j) := bundleStep1 s
    let s := s.modCfg (fun c => { c with joined := j.map (fun _ => c.load.num) })
    let s := s.eachPlot allPlots abandonLate
    let s := s.eachPlot allPlots overrunLine
    let s := s.eachPlot allPlots latchPlot
    let s := latchDevice s r.links
    let s := steps34 s j
    let s := normaliseBanks s
    let s := step6 s
    s.eachPlot allPlots step8Plot

/-- BUDGET_OVERRUN (R28): a job's metered cycles reach a claim of its table before its frame program ends, and the program
stops at once (DEDUCED: on every engine, log entry 170). -/
def budgetOverrun (s : State) (q : PlotId) (i : BitVec 16) (claim : Nat) : State :=
  match (s.plot q).plt.job? i with
  | none => s
  | some j =>
    if j.img.claims.length ≤ claim || j.phase != .running || j.budget || j.deadline || s.frm.opened then s
    else stopProgram (recordOverrun s q j true) q i

/-! ### The rows -/

/-- COMMIT_WINDOW_OPEN. -/
def execCommitWindowOpen (r : WindowReport) (s : State) : Result := .next (commitWindow s r)

/-- BUDGET_OVERRUN. -/
def execBudgetOverrun (q : PlotId) (idx : BitVec 16) (claim : Nat) (s : State) : Result := .next (budgetOverrun s q idx claim)

/-- ABANDONMENT_COMPLETE (R58). -/
def execAbandonmentComplete (q : PlotId) (idx : BitVec 16) (s : State) : Result := .next (resumeFetching (abandonmentDone s q idx) q idx)

end Sys2Proof.Machine
end

