-- ==== Sys2Proof/Machine/Frame.lean ====
section
/-!
DEFINITION. Sys2Proof/Machine/Frame.lean: ticks and their sources (R16 to R19, R32 to R39, Table 1-4), and the listen
port's rows, whose accepted messages may be ticks.
-/
namespace Sys2Proof.Machine

/-! ### A tick (R16, R19, R21) -/

/-- An attempt's input buffer is read from host memory, at a restart again (R58, R291). -/
def readInput (s : State) (q : PlotId) (j : Job) : State :=
  if j.desc.inLen = 0 || !s.permitted q then s else s.hostRead q (.jobInput j.idx) j.desc.inAddr j.desc.inLen

/-- A job's attempt starts (R26, R58): Table 2-4's counts, and the engines' values of the attempt are 0 (R148, R164, R192). -/
def startAttempt (s : State) (q : PlotId) (j : Job) : State :=
  let s := if j.attempts = 0 then s else s.modPlt q (fun p => { p with restartCnt := satInc p.restartCnt })
  let s := s.modJob q j.idx (fun j => { j with
    phase := .running, attempts := j.attempts + 1, first := some (j.first.getD s.frm.count.toNat), done := 0, out := [],
    passed := false, genDone := 0 })
  let s := readInput s q j
  let p := s.plot q
  let busy := p.plt.jobs.any (fun k => k.live && k.idx != j.idx && k.idx == p.an.job && k.phase != .waiting)
  if busy then s
  else takeFabric s q j.idx

/-- Frame programs of a plot start (R21), and what is counted per frame starts anew. -/
def startFrame (s : State) (q : PlotId) : State :=
  let jobs := (s.plot q).plt.jobs.filter Job.live
  let s := s.modPlot q (fun p => { p with
    plt := { p.plt with
      ovrFrame := 0, ovrLogged := false, ovrBudget := false, ovrDeadline := false,
      jobs := p.plt.jobs.map (fun j => { j with logged := false, phase := if j.phase = .between then .running else j.phase }) },
    msh := { p.msh with resident := p.msh.resident.map (fun r => { r with used := false }) },
    an := { p.an with auditLogged := false, unit := 0 }, grf := { p.grf with logged := false } })
  let s := (jobs.filter (fun j => j.phase == .waiting)).foldl (fun s j => startAttempt s q j) s
  unparkAll s q

/-- The length of a frame in TCLK cycles, as FRM_LEN_LAST holds it. -/
def frameLen (a b : Nat) : BitVec 28 := satAdd 0 (b - a)

/-- A tick that the locked or held source gave: the fractional remainder that is carried on is one of the new divisor (R33). -/
def ppsTick (f : FrmState) : FrmState :=
  if f.frameDev.ppsDiv = f.rws.ppsDiv then f
  else { f with ppsRem := f.ppsRem * f.rws.ppsDiv.toNat / max f.frameDev.ppsDiv.toNat 1 }

/-- The frame that begins is a locked or held one: its length is the rate over the divisor with the remainder carried, and
while locked one cycle of the phase difference is moved (R33, R34). -/
def ppsFrame (f : FrmState) : FrmState :=
  if f.gov = .ppsLock ∨ f.gov = .ppsHold then
    let d := max f.frameDev.ppsDiv.toNat 1
    let n := (f.ppsRate.toNat + f.ppsRem) / d
    let move : Int := if f.gov = .ppsLock then (if 0 < f.ppsPhase then 1 else if f.ppsPhase < 0 then -1 else 0) else 0
    { f with
      ppsRem := (f.ppsRate.toNat + f.ppsRem) % d, ppsPhase := f.ppsPhase - move, ppsLen := ((n : Int) - move).toNat }
  else f

/-- The PPS source locks at the end of the lengthened frame, if the edges still meet R33 then (R37). -/
def ppsLockAt (s : State) (t : Nat) : State :=
  if s.frm.gov = .ppsAcq ∧ s.frm.srcState = .ppsAcq ∧ s.frm.acqEnd.isSome ∧ ppsValidAt s.frm t then
    match s.frm.ppsLast with
    | none => s
    | some e =>
      (s.modFrm (fun f => { f with
        srcState := .ppsLock, ppsExpect := some (e + f.ppsRate.toNat), ppsOut4 := 0, ppsRem := 0, ppsPhase := 0 })).frmEvent 8
  else s.modFrm (fun f => if f.gov = .ppsLock ∨ f.gov = .ppsHold then ppsTick f else f)

/-- PPS acquisition: the frame it governs ends at the first point of the PPS grid at least P after its start (R37). -/
def ppsAcquire (s : State) : State :=
  if s.frm.gov = .ppsAcq ∧ s.frm.srcState = .ppsAcq ∧ ppsValidAt s.frm s.boot.tclk ∧ s.frm.acqEnd = none then
    match s.frm.ppsLast with
    | none => s
    | some e =>
      let p := max (100 * s.frm.framePeriod) 1
      s.modFrm (fun f => { f with acqEnd := some (e + p * ceilDiv (f.tickAt + p - e) p) })
  else s

/-- A tick at a TCLK edge: the frame ends and the next begins (R16, R19). -/
def doTick (s : State) (t : Nat) : State :=
  let s := ppsLockAt (s.advanceTo t) t
  let s := s.modFrm (fun f =>
    let st := if f.srcState = .fallback ∧ f.relockNext then .plantAcq else f.srcState
    { f with
      lenLast := frameLen f.tickAt t, count := satInc f.count, tickAt := t, framePeriod := f.rws.period.toNat,
      frameDev := f.rws, srcState := st, gov := st, missRun := if f.srcState = st then f.missRun else 0,
      relockNext := false, acqEnd := none, windowUsed := false, opened := false, holdoff := none, eventFrame := 0,
      tickLogged := false })
  let s := { s with
    undo := none, msh := { s.msh with routes := s.cfg.content.routes, slotLen := s.cfg.content.slotLen },
    nse := { s.nse with logged := [] }, qces := s.qces.map (fun e => { e with busy := 0 }) }
  let s := latchIngest s
  let s := resumeLanes (s.eachPlot allPlots startFrame)
  ppsAcquire (s.modFrm ppsFrame)

/-! ### When the governing source gives the next tick -/

/-- The TCLK edge at which a counted tick is due (R32, R33, R37); none where a message or its absence gives it. -/
def tickDue (f : FrmState) : Option Nat :=
  match f.gov with
  | .internal | .fallback => some (f.tickAt + 100 * f.framePeriod)
  | .ppsAcq => some (f.acqEnd.getD (f.tickAt + 100 * f.framePeriod))
  | .ppsLock | .ppsHold => some (f.tickAt + f.ppsLen)
  | .plantAcq | .plantLock | .plantHold => none

/-- TICK: a counted tick, or a held-off one when the commit sequence completes in time (R39). -/
def tickNow (s : State) : State :=
  if !s.isReady || !s.frm.opened then s
  else match s.frm.holdoff with
    | some t =>
      if s.frm.commitEnd ≤ t + 200 then
        let s := s.modFrm (fun f => { f with holdoffCnt := satInc f.holdoffCnt })
        doTick (s.frmEvent 1) s.frm.commitEnd
      else s
    | none =>
      match tickDue s.frm with
      | some t => doTick s t
      | none => s

/-- TICK_HOLDOFF_TIMEOUT (R39): the tick comes 2 µs after the message; plots whose dispatch preparation had not finished
lose their commit and their admitted jobs overrun. -/
def holdoffTimeout (s : State) (late : List PlotId) : State :=
  match s.frm.holdoff with
  | none => s
  | some t =>
    if s.frm.commitEnd ≤ t + 200 then s
    else
      let s := s.modFrm (fun f => { f with holdoffOvr := satInc f.holdoffOvr })
      let s := (s.frmEvent 1).frmEvent 2
      let s := match s.undo with | some u => unapply s u late | none => s
      let s := s.eachPlot late (fun s q =>
        let jobs := (s.plot q).plt.jobs.filter (fun j => j.live && j.phase != .abandoning)
        let s := jobs.foldl (fun s j => recordOverrun s q j false) s
        if jobs.isEmpty then s else overrunLine (abandonLate s q) q)
      doTick s (t + 200)

/-! ### The plant-locked source (R36, R37) -/

/-- A designated message that is no tick (FRM_PLANT_OUT_CNT). -/
def plantOut (s : State) : State := s.modFrm (fun f => { f with plantOut := satInc f.plantOut })

/-- A designated message becomes the tick, or waits for the commit sequence (R39). -/
def plantTick (s : State) (t : Nat) : State :=
  let s := s.modFrm (fun f => { f with
    windowUsed := true, missRun := 0,
    srcState := if f.srcState = .plantAcq ∨ f.srcState = .plantLock ∨ f.srcState = .plantHold then .plantLock else f.srcState })
  if t < s.frm.commitEnd then s.modFrm (fun f => { f with holdoff := some t }) else doTick s t

/-- Is the entry the designated one (R36)? -/
def State.designated (s : State) (e : Ingest) : Bool :=
  (s.frm.rws.src == 2 || s.frm.frameDev.src == 2) && e.no == s.frm.frameDev.plantEntry.toNat

/-- An accepted designated message completes its checks at an edge (R36, R37, Table 1-4). -/
def designatedMessage (s : State) (t : Nat) : State :=
  let f := s.frm
  let p := 100 * f.framePeriod
  let w := 100 * f.frameDev.plantWin.toNat
  match f.gov with
  | .plantLock | .plantHold =>
    if f.tickAt + p ≤ t + w ∧ t ≤ f.tickAt + p + w ∧ !f.windowUsed ∧ f.opened then plantTick s t else plantOut s
  | .plantAcq =>
    if f.tickAt + p ≤ t ∧ t ≤ f.tickAt + 2 * p ∧ !f.windowUsed ∧ f.opened then plantTick (if f.srcState == .plantAcq then s.frmEvent 8 else s) t else plantOut s
  | .fallback =>
    plantOut (if f.autoRelock && f.srcState == .fallback then s.modFrm (fun f => { f with relockNext := true }) else s)
  | _ => plantOut s

/-- A missed window or acquisition frame: the miss run, and FALLBACK at the third (Table 1-4). -/
def plantMiss (s : State) (hold : Bool) : State :=
  let run := s.frm.missRun.toNat + 1
  let plant := s.frm.srcState = .plantAcq ∨ s.frm.srcState = .plantLock ∨ s.frm.srcState = .plantHold
  if !plant then s
  else if 3 ≤ run then (s.modFrm (fun f => { f with missRun := 3, srcState := .fallback })).frmEvent 4
  else s.modFrm (fun f => { f with missRun := BitVec.ofNat 2 run, srcState := if hold then .plantHold else f.srcState })

/-- PLANT_WINDOW_CLOSE (R36). -/
def windowClose (s : State) : State :=
  let f := s.frm
  if !s.isReady || !f.opened || f.windowUsed || !(f.gov == .plantLock || f.gov == .plantHold) then s
  else
    let s := (s.modFrm (fun f => { f with plantMiss := satInc f.plantMiss })).frmEvent 3
    doTick (plantMiss s true) (f.tickAt + 100 * f.framePeriod + 100 * f.frameDev.plantWin.toNat)

/-- PLANT_ACQ_TIMEOUT (R37). -/
def acqTimeout (s : State) : State :=
  let f := s.frm
  if !s.isReady || !f.opened || f.windowUsed || f.gov != .plantAcq then s
  else doTick (plantMiss s false) (f.tickAt + 200 * f.framePeriod)

/-! ### PPS (R33 to R35) -/

/-- Does an edge lie within ±5 µs of an expected time (Table 1-4)? -/
def ppsNear (f : FrmState) (t : Nat) : Bool :=
  match f.ppsExpect with
  | none => false
  | some e => decide (e ≤ t + 500) && decide ((t + 500 - e) % max f.ppsRate.toNat 1 ≤ 1000)

/-- The difference between the tick that falls on the edge and the edge (R33): of the tick that began the current frame and
the one that ends it, the nearer. Where FRM_PPS_DIV changed so that no tick falls on an edge, the nearest tick is compared
(DESIGN CHOICE, log entry 164). -/
def ppsDiff (f : FrmState) (t : Nat) : Int :=
  let a := (f.tickAt : Int) - t
  let b := ((f.tickAt + f.ppsLen : Nat) : Int) - t
  if f.gov = .ppsLock ∨ f.gov = .ppsHold then (if a.natAbs ≤ b.natAbs then a else b) else f.ppsPhase

/-- An edge while locked or held: within the window, or one of four outside it (Table 1-4). -/
def ppsLockedEdge (s : State) (t : Nat) (apart : Bool) : State :=
  if ppsNear s.frm t then
    s.modFrm (fun f => { f with
      srcState := .ppsLock, gov := if f.gov = .ppsHold then .ppsLock else f.gov, ppsOut4 := 0,
      ppsExpect := some (t + f.ppsRate.toNat), ppsPhase := ppsDiff f t })
  else
    let n := if apart then s.frm.ppsOut4 + 1 else 1
    let s := (s.modFrm (fun f => { f with ppsOut := satInc f.ppsOut, ppsOut4 := n })).frmEvent 6
    if n < 4 then s
    else ppsAcquire (s.modFrm (fun f => { f with
      srcState := .ppsAcq, ppsOut4 := 0, ppsExpect := none,
      gov := if f.gov = .ppsLock ∨ f.gov = .ppsHold then .ppsAcq else f.gov }))

/-- PPS_EDGE: an edge on PPS_IN (R33). -/
def ppsEdge (s : State) (wait : Nat) (rising : Bool) : State :=
  if !s.isReady then s
  else
    let s := s.advanceTo (s.boot.tclk + wait)
    if !s.frm.ppsEn || rising == s.frm.ppsPol then s
    else
      let t := s.boot.tclk
      let d := match s.frm.ppsLast with | some l => t - l | none => 0
      let apart := decide (99990000 ≤ d) && decide (d ≤ 100010000)
      let s := s.modFrm (fun f => { f with
        ppsLast := some t, ppsValid := apart, ppsRate := if apart then BitVec.ofNat 27 d else f.ppsRate })
      match s.frm.srcState with
      | .ppsAcq => ppsAcquire s
      | .ppsLock | .ppsHold => ppsLockedEdge s t apart
      | _ => s

/-- PPS_EDGE_MISSING: no edge within ±5 µs of the expected time while locked or held (Table 1-4); in the other states, no
edge in the interval that R33 asks for, and PPS_VALID is 0. Table 1-4 counts a missing edge in its row for PPS_LOCK only; each
further one in PPS_HOLD counts too, as FRM_EVENT.PPS_MISS says (DEDUCED, log entry 165). -/
def ppsMissing (s : State) : State :=
  if !s.isReady || !s.frm.ppsEn then s
  else if s.frm.srcState == .ppsLock || s.frm.srcState == .ppsHold then
    match s.frm.ppsExpect with
    | none => s
    | some e =>
      (((s.advanceTo (e + 501)).modFrm (fun f => { f with
        srcState := .ppsHold, gov := if f.gov = .ppsLock then .ppsHold else f.gov,
        ppsMiss := satInc f.ppsMiss, ppsExpect := some (e + f.ppsRate.toNat) }))).frmEvent 5
  else match s.frm.ppsLast with
    | none => s
    | some l => (s.advanceTo (l + 100010001)).modFrm (fun f => { f with ppsValid := false })

/-- A write of FRM_CTL (R35). A frame that acquisition had lengthened ends as the internal counter gives it, or at the next
edge where that point has passed. -/
def frmCtl (s : State) (v : Word) : State :=
  let was := s.frm.ppsEn
  let s := s.modFrm (fun f => { f with ppsEn := v.getLsbD 0, autoRelock := v.getLsbD 1, ppsPol := v.getLsbD 2 })
  if was && !v.getLsbD 0 then
    let now := s.boot.tclk
    s.modFrm (fun f => { f with
      ppsValid := false, ppsLast := none, ppsOut4 := 0,
      acqEnd := if f.acqEnd.isSome && decide (f.tickAt + 100 * f.framePeriod < now) then some (now + 1) else none,
      srcState := if f.srcState = .ppsLock then .ppsHold else f.srcState,
      gov := if f.gov = .ppsLock then .ppsHold else f.gov })
  else s

/-! ### The rows -/

/-- TICK. -/
def execTick (s : State) : Result := .next (tickNow s)

/-- PPS_EDGE. -/
def execPpsEdge (wait : Nat) (rising : Bool) (s : State) : Result := .next (ppsEdge s wait rising)

/-- PPS_EDGE_MISSING. -/
def execPpsEdgeMissing (s : State) : Result := .next (ppsMissing s)

/-- PLANT_WINDOW_CLOSE. -/
def execPlantWindowClose (s : State) : Result := .next (windowClose s)

/-- PLANT_ACQ_TIMEOUT. -/
def execPlantAcqTimeout (s : State) : Result := .next (acqTimeout s)

/-- TICK_HOLDOFF_TIMEOUT. -/
def execTickHoldoffTimeout (unprepared : List PlotId) (s : State) : Result := .next (holdoffTimeout s unprepared)

/-- FRM_CTL_WRITE. -/
def execFrmCtlWrite (v : Word) (s : State) : Result := .next (hostGate s 0 (fun s => frmCtl s v))

/-- SKOET_FRAME_RECEIVE (R318 to R325). -/
def execSkoetFrameReceive (cage : Fin 2) (pcs : Bool) (frame : List Byte) (s : State) : Result :=
  .next (frameReceived s cage pcs frame)

/-- MESSAGE_CHECK_COMPLETE (R324 to R326). -/
def execMessageCheckComplete (s : State) : Result :=
  let r := checksComplete s
  .next (match r.2 with
    | some e => if r.1.designated e then designatedMessage r.1 r.1.boot.tclk else r.1
    | none => r.1)

/-- SKT_KEY_LOAD (R321). -/
def execSktKeyLoad (f : Fn) (s : State) : Result := .next (hostGate s f (fun s => if f = 0 then keyLoad s f else s))

/-- SKT_KEY_CLEAR (R321). -/
def execSktKeyClear (f : Fn) (s : State) : Result := .next (hostGate s f (fun s => if f = 0 then keyClear s f else s))

/-- PORT_MODE_WRITE (R317). -/
def execPortModeWrite (f : Fn) (cage : Fin 2) (v : Word) (s : State) : Result :=
  .next (hostGate s f (fun s => if f = 0 then portWrite s cage v else s))

/-- PORT_LOSS_OF_LOCK (R317). -/
def execPortLossOfLock (cage : Fin 2) (los modAbs : Bool) (s : State) : Result := .next (portLoss s cage los modAbs)

/-- PORT_LOCK (R317). -/
def execPortLock (cage : Fin 2) (modAbs : Bool) (s : State) : Result := .next (portGain s cage modAbs)

end Sys2Proof.Machine
end

