-- ==== Sys2Proof/Machine/HostLink.lean ====
section
/-!
DEFINITION. Sys2Proof/Machine/HostLink.lean: what the host does to plots and functions: enable, reset and cancel (R44, R59,
R61), Bus Master Enable and power states (R42, R292, R301), SR-IOV control, function-level resets (Table 2-6), lost writes
and failed reads (R51, R299), and PTM (R300).
-/
namespace Sys2Proof.Machine

/-! ### Plots (R44, Table 2-2) -/

/-- A write of PLT_CTL.EN and PF_FAULT_EN by the PF. -/
def plotControl (s : State) (q : PlotId) (en fault : Bool) : State :=
  if q = 0 then s else reviewPlot (s.modPlt q (fun p => { p with en := en, pfFaultEn := fault })) q

/-- PLT_CTL.RESET by the PF, or PLT_VCTL.RESET by either (R61). -/
def plotResetFrom (s : State) (f : Fn) (q : PlotId) : State :=
  if q ≠ 0 ∧ reaches f q then resetPlot s q else s

/-- PLT_VCTL.CANCEL_ALL: a RUNNING plot stops (Table 2-2). -/
def cancelPlot (s : State) (q : PlotId) : State :=
  if (s.plot q).plt.state = .running then startStop s q else s

/-- CANCEL_ALL by a function that reaches the plot. -/
def cancelFrom (s : State) (f : Fn) (q : PlotId) : State := if q ≠ 0 ∧ reaches f q then cancelPlot s q else s

/-! ### Requests permitted again, or no more (R292, R298, R301) -/

/-- What waited for a function's requests goes: records, messages, descriptor and tape fetches. -/
def releaseFn (s : State) (f : Fn) : State :=
  if s.permitted f then
    let s := if f = 0 then s else fetchLanes (startFetch (writeFormed s f) f) f
    s.releasePba f
  else s

/-- A bit-stream fetch cannot go on while the PF's requests are not permitted (R292, R301). -/
def reviewLoad (s : State) : State :=
  if s.cfg.load = .fetching ∧ !s.permitted 0 then failLoad s 0x01 else s

/-- A write of a function's Bus Master Enable (R42, R292). -/
def masterEnable (s : State) (f : Fn) (on : Bool) : State :=
  let s := s.modFn f (fun g => { g with bme := on })
  if f = 0 then releaseFn (reviewLoad s) 0 else releaseFn (reviewPlot s f) f

/-- Every plot is held against its conditions, then what waits goes. -/
def reviewAll (s : State) : State := s.eachPlot tenantPlots (fun s p => releaseFn (reviewPlot s p) p)

/-- The PF enters D3hot, or returns to D0 (R301). -/
def pfPower (s : State) (d3 : Bool) : State :=
  let s := s.modFn 0 (fun g => { g with d3 := d3 })
  reviewAll (releaseFn (reviewLoad s) 0)

/-- A VF enters D3hot, or returns to D0 (R301). -/
def vfPower (s : State) (p : PlotId) (d3 : Bool) : State :=
  if p = 0 then s else releaseFn (reviewPlot (s.modFn p (fun g => { g with d3 := d3 })) p) p

/-! ### Configuration space (R42, R290, R296, R297, R300) -/

/-- VF Enable takes the value 0 (Table 2-6, Table 3-13): every VF is reset and a bundle in progress is aborted. -/
def vfDisable (s : State) : State :=
  if s.hst.vfEn then clearVfEnable (abortBundle s) else s

/-- The bits of the AER registers that are there (PRESUMED: the base specification's places, log entry 234). -/
def aerUncorrBits : Word := 0x005FF030
def aerCorrBits : Word := 0x0000F1C1

/-- Writes of the PF's configuration fields that have no row of their own; NumVFs only while VF Enable is 0. -/
def configWrite (s : State) : ConfigField → State
  | .memSpace on => { s with hst := { s.hst with memSpace := on } }
  | .vfMemSpace on => { s with hst := { s.hst with vfMemSpace := on } }
  | .vfEnable => reviewAll { s with hst := { s.hst with vfEn := true } }
  | .numVfs n => if s.hst.vfEn || decide (64 < n.toNat) then s else { s with hst := { s.hst with numVfs := n } }
  | .ariHierarchy on => { s with hst := { s.hst with ari := on } }
  | .ptmEnable on => { s with hst := { s.hst with ptmEn := on } }
  | _ => s

/-- A write of one of a function's own Device Control fields (R289). -/
def DeviceControl.write (d : DeviceControl) : ConfigField → DeviceControl
  | .relaxedOrdering on => { d with relaxed := on }
  | .maxPayload c => { d with payload := c }
  | .maxReadRequest c => { d with readReq := c }
  | .extendedTag on => { d with extTag := on }
  | .tenBitTag on => { d with tenBitTag := on }
  | .timeoutValue c => { d with timeout := c }
  | _ => d

/-- A write of a function's AER registers (R299): status bits are cleared by ones, and with the first error's bit its record. -/
def AerState.write (a : AerState) : ConfigField → AerState
  | .aerUncorrStatus v =>
    { a with uncorr := a.uncorr &&& ~~~v, first := a.first.filter (fun b => !v.getLsbD b) }
  | .aerCorrStatus v => { a with corr := a.corr &&& ~~~v }
  | .aerUncorrMask v => { a with uncorrMask := v &&& aerUncorrBits }
  | .aerCorrMask v => { a with corrMask := v &&& aerCorrBits }
  | .aerSeverity v => { a with severity := v &&& aerUncorrBits }
  | _ => a

/-- A write of a configuration field: SR-IOV, ARI, PTM and Memory Space belong to the PF; every function has Device Control
fields, of which the PF's govern (R289), and AER registers (R299). -/
def configWriteFrom (s : State) (f : Fn) (c : ConfigField) : State :=
  let s := if f = 0 then configWrite s c else s
  s.modFn f (fun g => { g with ctl := g.ctl.write c, aer := g.aer.write c })

/-! ### Function-level resets (Table 2-6, R12, R14, R356) -/

/-- A VF FLR. -/
def vfReset (s : State) (p : PlotId) : State := if p = 0 then s else resetVf s p

/-- The PF's configuration space and interrupt registers at their reset values, NumVFs apart (Table 2-6). -/
def pfSpaceReset (s : State) : State :=
  { s with
    pf := { s.pf with irqStatus := 0, irqMask := 0x7FFF },
    hst := { s.hst with memSpace := false, vfMemSpace := false, ari := false, ptmEn := false } }

/-- A PF FLR: the PF's own space, interrupt registers and random request, then VF Enable is cleared and every plot is
reset. -/
def pfReset (s : State) : State :=
  let s := endRng (s.modFn 0 (fun f => f.resetCopies.resetSpace)) 0
  let s := clearVfEnable (abortBundle (pfSpaceReset s))
  { s with hst := { s.hst with numVfs := 0 } }

/-! ### Lost writes and failed reads (R51, R158, R299, R347, Table 12-5) -/

/-- A posted write is lost before it leaves the device: the affected work ends as a failed write does. -/
def writeLostWork (s : State) (q : PlotId) : DmaUser → State
  | .jobOutput i => chargeFault s q i .hostDma none
  | .tapeRecord _ =>
    match tapeJob s q with
    | some i => chargeFault s q i .hostDma none
    | none => s
  | .rng => rngLost s q
  | .report => s.modAtt q (fun a => if a.busy then { a with busy := false, result := 3 } else a)
  | .descriptor | .image | .jobInput _ | .tapeSegment _ | .bitstream => s

/-- An uncorrectable error in the host link's own buffers loses a posted write (Table 12-5): an Uncorrectable Internal Error of
the function, and the affected work ends. -/
def writeLost (s : State) (q : PlotId) (u : DmaUser) : State :=
  if s.isReady then writeLostWork (s.aerError q 22) q u else s

/-- A device read fails: it is counted and treated as failed by its reader (R299). -/
def hostReadError (s : State) (q : PlotId) (u : DmaUser) (k : ReadFail) : State :=
  match u with
  | .descriptor => descriptorFetched s q (.failed k)
  | .image => imageFetched s q (.failed k) []
  | .jobInput i => chargeFault (dmaError s q u k) q i .hostDma none
  | .tapeSegment t => segmentArrived s q t (.failed k)
  | .bitstream => fetchDone s (.failed k)
  | .report => (dmaError s q u k).modAtt q (fun a => if a.busy then { a with busy := false, result := 3 } else a)
  | .jobOutput _ | .tapeRecord _ | .rng => s

/-! ### Errors in what is received (Table 12-5) -/

/-- The bit of an error in the AER status registers, and whether it is correctable (PRESUMED: the base specification's places, log
entry 234). -/
def linkErrorBit : LinkError → Nat × Bool
  | .unsupported => (20, false)
  | .unexpectedCompletion => (16, false)
  | .requestEcrc => (19, false)
  | .receiver => (0, true) | .badTlp => (6, true) | .badDllp => (7, true)
  | .replayTimeout => (12, true) | .replayRollover => (8, true)
  | .malformed => (18, false) | .flowControl => (13, false) | .dataLink => (4, false)

/-- What is received is in error: it is discarded, and logged for the function it is attributable to, errors of the link layer
for the PF. Only a request that is not supported is answered. -/
def linkError (s : State) (f : Fn) (e : LinkError) : State :=
  if !s.isReady || !s.hst.linkUp then s
  else
    let g : Fn := match e with
      | .unsupported | .unexpectedCompletion | .requestEcrc => if s.cfgOk f then f else 0
      | _ => 0
    let s := if e = .unsupported then { s with resp := { error := true } } else s
    if (linkErrorBit e).2 then s.aerCorrectable g (linkErrorBit e).1 else s.aerError g (linkErrorBit e).1

/-! ### PTM (R300) -/

/-- GO, or the automatic timer: a dialog starts unless one is in flight. While the PF's requests are not permitted nothing is
sent (R292, R301), so the dialog receives no ResponseD. -/
def ptmStart (s : State) : State :=
  if !s.hst.ptmEn then { s with hst := { s.hst with ptmNoResp := true } }
  else if s.hst.ptmBusy then s
  else
    let sent := s.permitted 0
    let s := { s with hst := { s.hst with ptmBusy := true, ptmAt := s.boot.tclk, ptmSent := sent } }
    if sent then s.emit .ptmRequest else s

/-- A write of HST_PTM_CTL. -/
def ptmControl (s : State) (v : Word) : State :=
  let s := { s with hst := { s.hst with ptmAuto := v.setWidth 8 } }
  if v.getLsbD 31 then ptmStart s else s

/-- Every AUTO_MS ms a dialog starts, while PTM Enable is 1. -/
def ptmTimer (s : State) : State :=
  if s.isReady && s.hst.ptmEn && !(s.hst.ptmAuto == 0) then ptmStart s else s

/-- FRM_TIME at a TCLK edge since ready (R17). -/
def frmTimeAt (s : State) (t : Nat) : Word64 := BitVec.ofNat 64 (min (10 * (t - s.boot.readyAt)) (2 ^ 64 - 1))

/-- A ResponseD arrives, a number of TCLK edges after the request and within 10 ms of it: T1 and T4 are FRM_TIME at the request
and at the receipt, and the four values and the count change together (DEDUCED that both belong to the dialog of the request
in flight, log entry 237). -/
def ptmAnswer (s : State) (wait : Nat) (master : Word64) (prop : Word) : State :=
  let at_ := s.hst.ptmAt + wait
  if !s.hst.ptmBusy || !s.hst.ptmSent || decide (1000000 < wait) || decide (at_ < s.boot.tclk) then s
  else
    let s := s.advanceTo at_
    { s with hst := { s.hst with
      ptmBusy := false, ptmValid := true, ptmNoResp := false, dialogs := satInc s.hst.dialogs,
      ptmT1 := frmTimeAt s s.hst.ptmAt, ptmT4 := frmTimeAt s at_, ptmMaster := master, ptmProp := prop } }

/-- No ResponseD within 10 ms of the request. -/
def ptmSilent (s : State) : State :=
  if !s.hst.ptmBusy then s
  else
    let s := s.advanceTo (s.hst.ptmAt + 1000000)
    { s with hst := { s.hst with ptmBusy := false, ptmNoResp := true } }

/-! ### The rows -/

/-- SQ_TAIL_WRITE (R46). -/
def execSqTailWrite (f : Fn) (q : PlotId) (v : Word) (s : State) : Result :=
  .next (hostGate s f (fun s => if q ≠ 0 ∧ reaches f q then sqTailWrite s q (v.setWidth 16) else s))

/-- CQ_HEAD_WRITE (R46). -/
def execCqHeadWrite (f : Fn) (q : PlotId) (v : Word) (s : State) : Result :=
  .next (hostGate s f (fun s => if q ≠ 0 ∧ reaches f q then cqHeadWrite s q (v.setWidth 16) else s))

/-- DESCRIPTOR_FETCH (R48 to R51). -/
def execDescriptorFetch (q : PlotId) (r : Fetched) (s : State) : Result := .next (descriptorFetched s q r)

/-- IMAGE_FETCH (R50, R51). -/
def execImageFetch (q : PlotId) (r : Fetched) (ops : List (Nat × Nat)) (s : State) : Result := .next (imageFetched s q r ops)

/-- PLOT_ENABLE_WRITE: the PF writes PLT_CTL (Table 2-2). -/
def execPlotEnableWrite (q : PlotId) (en pfFaultEn : Bool) (s : State) : Result :=
  .next (hostGate s 0 (fun s => plotControl s q en pfFaultEn))

/-- PLOT_RESET (R61). -/
def execPlotReset (f : Fn) (q : PlotId) (s : State) : Result := .next (hostGate s f (fun s => plotResetFrom s f q))

/-- CANCEL_ALL (Table 2-2). -/
def execCancelAll (f : Fn) (q : PlotId) (s : State) : Result := .next (hostGate s f (fun s => cancelFrom s f q))

/-- STOP_END (R44). -/
def execStopEnd (q : PlotId) (s : State) : Result := .next (stopEnded s q)

/-- CLEARING_END (R60). -/
def execClearingEnd (q : PlotId) (s : State) : Result := .next (clearingEnded s q)

/-- IRQ_MASK_WRITE (R62, R63). -/
def execIrqMaskWrite (f : Fn) (q : PlotId) (v : Word) (s : State) : Result :=
  .next (hostGate s f (fun s => irqMaskWrite s f q v))

/-- BUS_MASTER_ENABLE_WRITE (R42, R292). -/
def execBusMasterEnableWrite (f : Fn) (on : Bool) (s : State) : Result := .next (cfgGate s f (fun s => masterEnable s f on))

/-- VF_ENABLE_CLEAR (Table 2-6). -/
def execVfEnableClear (s : State) : Result := .next (cfgGate s 0 vfDisable)

/-- VF_FLR (Table 2-6). -/
def execVfFlr (p : PlotId) (s : State) : Result := .next (cfgGate s p (fun s => vfReset s p))

/-- PF_FLR (Table 2-6). -/
def execPfFlr (s : State) : Result := .next (cfgGate s 0 pfReset)

/-- HOST_WRITE_LOSS (Table 12-5). -/
def execHostWriteLoss (q : PlotId) (user : DmaUser) (s : State) : Result := .next (writeLost s q user)

/-- HOST_READ_ERROR (R51, R299). -/
def execHostReadError (q : PlotId) (user : DmaUser) (kind : ReadFail) (s : State) : Result :=
  .next (hostReadError s q user kind)

/-- UNSUPPORTED_REQUEST (Table 12-5): answered with Unsupported Request, which the function's AER shows; and the table's other
errors in what is received. -/
def execUnsupportedRequest (f : Fn) (e : LinkError) (s : State) : Result := .next (linkError s f e)

/-- PF_D3HOT_ENTER (R301). -/
def execPfD3hotEnter (s : State) : Result := .next (cfgGate s 0 (fun s => pfPower s true))

/-- PF_D0_RETURN (R301). -/
def execPfD0Return (s : State) : Result := .next (cfgGate s 0 (fun s => pfPower s false))

/-- VF_D3HOT_ENTER (R301). -/
def execVfD3hotEnter (p : PlotId) (s : State) : Result := .next (cfgGate s p (fun s => vfPower s p true))

/-- VF_D0_RETURN (R301). -/
def execVfD0Return (p : PlotId) (s : State) : Result := .next (cfgGate s p (fun s => vfPower s p false))

/-- MSIX_ENABLE_WRITE (R298). -/
def execMsixEnableWrite (f : Fn) (en mask : Bool) (s : State) : Result := .next (cfgGate s f (fun s => msixControl s f en mask))

/-- MSIX_VECTOR_UNMASK (R298): the vector's Mask bit in the table in BAR0. -/
def execMsixVectorUnmask (f : Fn) (vec : Fin 32) (s : State) : Result := .next (hostGate s f (fun s => msixUnmask s f vec))

/-- PTM_GO (R300): a write of HST_PTM_CTL by the PF. -/
def execPtmGo (v : Word) (s : State) : Result := .next (hostGate s 0 (fun s => ptmControl s v))

/-- PTM_AUTO_TIMER (R300). -/
def execPtmAutoTimer (s : State) : Result := .next (ptmTimer s)

/-- PTM_RESPONSE (R300). -/
def execPtmResponse (wait : Nat) (master : Word64) (prop : Word) (s : State) : Result := .next (ptmAnswer s wait master prop)

/-- PTM_NO_RESPONSE (R300). -/
def execPtmNoResponse (s : State) : Result := .next (ptmSilent s)

end Sys2Proof.Machine
end

