-- ==== Sys2Proof/Machine/LogAtt.lean ====
section
/-!
DEFINITION. Sys2Proof/Machine/LogAtt.lean: the event log's acknowledgement (R350) and attestation reports (R347, R348,
Table 14-4).
-/
namespace Sys2Proof.Machine

/-! ### The log (R350) -/

/-- A write of LOG_ACK: clamped to LOG_NEXT - 1, ignored while no line exists. -/
def logAck (s : State) (v : Word64) : State :=
  if s.log.next = 0 then s
  else { s with log := { s.log with ack := if v < s.log.next then v else s.log.next - 1 } }

/-! ### Reports (R347, R348) -/

/-- A report ends: BUSY falls and RESULT is set. -/
def attEnd (s : State) (q : PlotId) (r : BitVec 4) : State := s.modAtt q (fun a => { a with busy := false, result := r })

/-- ATT_REQ.GO: the 144-byte request is fetched; a GO while BUSY is ignored. Where the function's requests are not permitted the
request cannot be read, and ends with HOST_DMA (R292; DEDUCED, log entry 240). -/
def attGo (s : State) (q : PlotId) : State :=
  if s.att.sets[q].busy then s
  else
    let addr := s.att.sets[q].addr
    let s := s.modAtt q (fun a => { a with busy := true, result := 0, cap := addr })
    if s.permitted q then s.hostRead q .report addr.toNat 144 else attEnd s q 3

/-- ATT_REQ.GO by a function that reaches the set. -/
def attGoFrom (s : State) (f : Fn) (q : PlotId) : State := if reaches f q then attGo s q else s

/-- WRAPPED_KEY: the key of the function wrapped for the requester, or zeros after KEY_FAIL (R348). -/
def wrappedKey (s : State) (q : PlotId) (challenge pub : List Byte) : List Byte :=
  if s.aux.keyFail then List.replicate 40 0
  else
    let kek := (hashBytes (Config.sha384 (Config.ecdh pub ++ challenge))).take 32
    Config.keyWrap kek (if q = 0 then s.keyBytes else plotKey s.keyBytes q.val)

/-- Bytes 0 to 255 of a report (Table 14-4). -/
def reportHead (s : State) (q : PlotId) (challenge pub : List Byte) : List Byte :=
  leBytes 4 0x52374E41 ++ leBytes 2 1 ++ [BitVec.ofNat 8 q.val] ++ [(s.stopReason q).setWidth 8] ++ leBytes 4 s.fuses.epoch ++
    leBytes 4 0 ++ leBytes 8 s.fuses.serial.toNat ++ leBytes 8 s.cfg.seq.toNat ++
    leBytes 8 (if q = 0 then 0 else (s.plot q).cfg.pslipSeq.toNat) ++ leBytes 8 s.cfg.content.mcBuild ++
    leBytes 8 (if q = 0 then 0 else (s.aux.pseq[q]).toNat) ++ leBytes 8 s.frmTime ++ slice challenge 0 48 ++
    slice (wrappedKey s q challenge pub) 0 40 ++ List.replicate 104 0

/-- The whole report: its signature over bytes 0 to 255 follows them (R348). -/
def report (s : State) (q : PlotId) (challenge pub : List Byte) : List Byte :=
  let head := reportHead s q challenge pub
  head ++ slice (Config.ecdsaSign head s.free) 0 96 ++ List.replicate 32 0

/-- A request has been read and its report is due. Before K is drawn it waits; it ends with HOST_DMA where a transfer
fails, with BAD_KEY where the public key is not on the curve. -/
def attDone (s : State) (q : PlotId) (request : Fetched) (written : Bool) : State :=
  if !s.att.sets[q].busy || (s.aux.key.isNone && !s.aux.keyFail) then s
  else match request with
  | .failed k => attEnd (dmaError s q .report k) q 3
  | .bytes b =>
    let challenge := slice b 0 48
    let pub := slice b 48 96
    if !p384Valid pub then attEnd s q 2
    else if !s.permitted q || !written then attEnd s q 3
    else
      let bytes := report s q challenge pub
      let s := { s with free := s.free + 1 }
      let s := s.hostWrite q (s.att.sets[q].cap.toNat + 256) bytes false
      attEnd s q (if s.aux.keyFail then 4 else 1)

/-! ### The rows -/

/-- ATT_REQUEST (R347): a host write of ATT_REQ with GO = 1. -/
def execAttRequest (f : Fn) (q : PlotId) (s : State) : Result := .next (hostGate s f (fun s => attGoFrom s f q))

/-- ATT_REPORT_DONE (R348). -/
def execAttReportDone (q : PlotId) (request : Fetched) (written : Bool) (s : State) : Result :=
  .next (attDone s q request written)

end Sys2Proof.Machine
end

