-- ==== Sys2Proof/Machine/Regs.lean ====
section
/-!
DEFINITION. Sys2Proof/Machine/Regs.lean: what every register reads (R8, R9, R355 and the field tables of each chapter), the
PF layout and the plot views (R293, R294), and the values that one first register latches whole (R12, R149, R352).
A register is named by its PF BAR0 offset; the register tables list (offset, value), a value of several words standing at
its first register.
-/
namespace Sys2Proof.Machine

/-! ### Places (R293, R294, Table 14-8) -/

/-- Stride of a block's per-plot sets, and whether set 0 exists; FRM has no sets. -/
def strideOf (b : Nat) : Option (Nat × Bool) :=
  if b = 1 then some (0x100, false)
  else if b = 4 then some (0x80, false)
  else if b = 5 then some (0x80, true)
  else if b = 2 ∨ b = 10 ∨ b = 14 then some (0x40, true)
  else if b = 0 ∨ 14 < b then none
  else some (0x40, false)

/-- Where a PF offset lies. -/
inductive Place where
  | glob (block off : Nat)
  | set (block : Nat) (q : PlotId) (off : Nat)
  | none
deriving DecidableEq, Repr

/-- The place of a PF BAR0 offset (R293). -/
def placeOf (a : Nat) : Place :=
  let b := a / 0x10000
  let o := a % 0x10000
  if 15 ≤ b then .none
  else if o < 0x1000 then .glob b o
  else match strideOf b with
    | none => .none
    | some (st, zero) =>
      let i := (o - 0x1000) / st + (if zero then 0 else 1)
      if h : i < 65 then .set b ⟨i, h⟩ ((o - 0x1000) % st) else .none

/-- The PF offset of a register of a plot's set. -/
def setAddr (b : Nat) (q : PlotId) (o : Nat) : Nat :=
  match strideOf b with
  | none => 0xFFFFFF
  | some (st, zero) => 0x10000 * b + 0x1000 + st * (q.val - (if zero then 0 else 1)) + o

/-- FRM registers a plot view shows at their own offsets (chapter 01, registers). -/
def frmView : List Nat := [0x04, 0x18, 0x1C, 0x24, 0x28, 0x2C, 0x30, 0x34, 0x38, 0x3C]

/-- The register a function reaches at a BAR0 offset, by its PF offset (R293, R294); none where it reaches none. -/
def regAt (f : Fn) (off : Nat) : Option Nat :=
  if f = 0 then (if off < 0xF0000 then some off else none)
  else
    let b := off / 0x1000
    let o := off % 0x1000
    if b = 0 then
      if frmView.contains o then some o else if o = 0x100 then some (0x100 + 4 * (f.val - 1)) else none
    else match strideOf b with
      | none => none
      | some (st, _) => if b < 15 ∧ o < st then some (setAddr b f o) else none

/-- The region of an MSI-X table or PBA (Table 12-4): whether it is the PBA, and the byte within it. -/
def msixAt (f : Fn) (off : Nat) : Option (Bool × Nat) :=
  let t := if f = 0 then 0xFF0000 else 0xF000
  let p := if f = 0 then 0xFF8000 else 0xF800
  if t ≤ off ∧ off < t + 16 * vectorCount f then some (false, off - t)
  else if p ≤ off ∧ off < p + 8 then some (true, off - p)
  else none

/-! ### Small helpers -/

/-- Rounding of a quotient to nearest, ties upward (R6). -/
def nearestDiv (n d : Nat) : Nat := (2 * n + d) / (2 * d)

/-- A quantity cut to the largest value of `w` bits. -/
def capBits (w n : Nat) : Nat := min n (2 ^ w - 1)

/-- A list of flags as a number, bit 0 first. -/
def flagBits : List Bool → Nat
  | [] => 0
  | b :: l => b2n b + 2 * flagBits l

/-- A function's copy of a register that each function holds on its own (R356). -/
def State.sel (s : State) (f : Fn) (a : Nat) : Nat := assocD s.fns[f].sels a 0

/-- A plot's name from a number that a register holds. -/
def plotOf (n : Nat) : PlotId := ⟨n % 65, Nat.mod_lt _ (by decide)⟩

/-! ### FRM (Tables 1-9 to 1-14) -/

/-- FRM_STATUS.SRC_STATE codes. -/
def SrcState.num : SrcState → Nat
  | .internal => 0 | .ppsAcq => 1 | .ppsLock => 2 | .ppsHold => 3
  | .plantAcq => 4 | .plantLock => 5 | .plantHold => 6 | .fallback => 7

/-- COMMIT_BUSY: from window opening to the end of step 8. -/
def State.commitBusy (s : State) : Bool := s.frm.opened && decide (s.boot.tclk < s.frm.commitEnd)

/-- The FRM block as a function reads it. -/
def frmRegs (s : State) (f : Fn) : List (Nat × Nat) :=
  let x := s.frm
  [(0x00, 4 * b2n x.ppsPol + 2 * b2n x.autoRelock + b2n x.ppsEn),
   (0x04, (if f = 0 then x.shadow else x.rws).word .period),
   (0x08, x.shadow.word .src), (0x0C, x.shadow.word .ppsDiv), (0x10, x.shadow.word .plant), (0x14, x.shadow.word .limit),
   (0x18, s.fuses.cycPerUs),
   (0x1C, 512 * b2n s.commitBusy + 256 * b2n (ppsValidAt x s.boot.tclk) + 16 * x.missRun.toNat + x.srcState.num),
   (0x20, x.event.toNat),
   (0x24, admissible x.framePeriod s.fuses.cycPerUs x.frameDev.limit.toNat),
   (0x28, x.count.toNat), (0x30, s.frmTime), (0x38, if s.isReady then 10 * (x.tickAt - s.boot.readyAt) else 0),
   (0x40, x.lenLast.toNat), (0x44, x.ppsRate.toNat), (0x48, x.claimSel.toNat), (0x4C, s.claimSum x.claimSel.toNat),
   (0x50, x.plantMiss.toNat), (0x54, x.plantOut.toNat), (0x58, x.ppsMiss.toNat), (0x5C, x.ppsOut.toNat),
   (0x60, x.holdoffCnt.toNat), (0x64, x.holdoffOvr.toNat)] ++
  tenantPlots.map (fun p => (0x100 + 4 * (p.val - 1), (x.plotOvr[p]).toNat))

/-! ### PLT (Tables 2-11 to 2-13) -/

/-- PLT_EN_MAP: plots that are IDLE or RUNNING. -/
def State.enMap (s : State) : Nat :=
  flagBits (tenantPlots.map (fun p => (s.plot p).plt.state == .idle || (s.plot p).plt.state == .running))

/-- The PLT globals. -/
def pltGlobals (s : State) : List (Nat × Nat) :=
  [(0x00, s.pf.irqStatus.toNat), (0x04, s.pf.irqMask.toNat),
   (0x10, s.enMap % 2 ^ 32), (0x14, s.enMap / 2 ^ 32),
   (0x18, s.pf.chgMap.toNat % 2 ^ 32), (0x1C, s.pf.chgMap.toNat / 2 ^ 32),
   (0x20, s.pf.faultMap.toNat % 2 ^ 32), (0x24, s.pf.faultMap.toNat / 2 ^ 32)]

/-- The PLT set of a plot. -/
def pltRegs (s : State) (f : Fn) (q : PlotId) : List (Nat × Nat) :=
  let x := s.plot q
  let p := x.plt
  let c := s.cfg.content
  [(0x00, 4 * b2n p.pfFaultEn + b2n p.en), (0x04, (if f = 0 then x.shadow else x.rws).word .qos),
   (0x08, 2 ^ 24 * b2n p.ringHalt + 256 * min p.admitted 256 + 8 * b2n (s.vfReady q) + p.state.num),
   (0x0C, 2 ^ 16 * c.ctxTotal q.val + 256 * (c.mxeList q.val).length + (c.tileList q.val).length),
   (0x10, b2n p.ringEn), (0x14, 65536 * p.errIndex.toNat + p.errReason.toNat),
   (0x18, p.sqBase.toNat), (0x20, p.cqBase.toNat),
   (0x28, p.sqTail.toNat), (0x2C, p.sqHead.toNat), (0x30, p.cqTail.toNat), (0x34, p.cqHead.toNat),
   (0x38, p.irqStatus.toNat), (0x3C, p.irqMask.toNat), (0x40, p.vec0.toNat), (0x44, p.vec1.toNat),
   (0x48, p.doneCnt.toNat), (0x4C, p.faultCnt.toNat),
   (0x50, 65536 * p.lastTag.toNat + 32768 * b2n p.lastNodeValid + 256 * p.lastNode.toNat + p.lastCode.toNat),
   (0x54, p.restartCnt.toNat)]

/-! ### CFG (Tables 3-16 to 3-18) -/

/-- The CFG globals. -/
def cfgGlobals (s : State) : List (Nat × Nat) :=
  let c := s.cfg
  let o := s.fuses.owner
  [(0x00, 4 * b2n c.arm),
   (0x04, 65536 * c.err.toNat + 256 * c.last.toNat + 128 * b2n c.precheckFail + 16 * b2n c.kind + c.load.num),
   (0x08, c.srcAddr.toNat), (0x10, c.srcLen.toNat), (0x14, c.waitFrames.toNat),
   (0x18, c.waitMap.toNat % 2 ^ 32), (0x1C, c.waitMap.toNat / 2 ^ 32),
   (0x20, c.commitErr.toNat), (0x24, c.refuseCnt.toNat), (0x28, c.seq.toNat),
   (0x30, 2 * c.slot.toNat + b2n c.loaded), (0x38, c.precheck.toNat),
   (0x44, 2 ^ 31 * b2n c.fuseBusy.isSome + 2 ^ 24 * c.opErr.toNat + 4096 * b2n s.fuses.lock +
     256 * flagBits (o.toList.map KeySlot.revoked) + flagBits (o.toList.map (·.valid)))] ++
  (List.range 12).map (fun i => (0x50 + 4 * i, c.fuseData.toNat / 2 ^ (32 * i) % 2 ^ 32))

/-- The CFG set of a plot. -/
def cfgRegs (s : State) (q : PlotId) : List (Nat × Nat) :=
  let x := (s.plot q).cfg
  [(0x04, 65536 * x.perrCode.toNat + x.perrDetail.toNat), (0x08, x.prefuse.toNat), (0x0C, x.pcommit.toNat),
   (0x14, x.pslipSeq.toNat), (0x1C, 2 * b2n x.touched + b2n x.waited)]

/-! ### MSH (Tables 4-11, 4-12) -/

/-- The plot that owns a node's tile or engine, 0 otherwise. -/
def nodePlot (c : Content) (n : Nat) : Nat :=
  match nodeKind n with
  | (.at_, i) => c.tileOwner i
  | (.mxe, i) => c.mxeOwner i
  | _ => 0

/-- MSH_NODE_INFO of a node (Table 4-2). -/
def nodeInfo (c : Content) (n : Nat) : Nat :=
  2 ^ 24 * nodePlot c n + 2 ^ 20 * (n % 12) + 65536 * (n / 12) + 256 * (nodeKind n).2 + (nodeKind n).1.num

/-- Flits of a port in the last completed frame: all and scheduled. -/
def linkFlits (m : MshState) (node port : Nat) : Nat × Nat :=
  match m.links.find? (fun e => e.1 == node && e.2.1 == port) with
  | some e => e.2.2
  | none => (0, 0)

/-- The MSH globals. -/
def mshGlobals (s : State) : List (Nat × Nat) :=
  let m := s.msh
  let fl := linkFlits m m.linkNode.toNat m.linkPort.toNat
  [(0x00, b2n m.scrubEn), (0x04, s.cfg.content.slotLen), (0x08, m.ceCnt.toNat), (0x0C, m.ueCnt.toNat),
   (0x10, m.eccAddr.toNat), (0x14, m.linkReplay.toNat), (0x18, m.linkFail.toNat), (0x1C, m.mcFault.toNat),
   (0x20, 128 * m.linkPort.toNat + m.linkNode.toNat), (0x24, capBits 32 fl.1), (0x28, capBits 32 fl.2),
   (0x2C, 3072 - (usedPages m).length), (0x30, m.scrubPass.toNat), (0x34, m.nodeSel.toNat),
   (0x38, nodeInfo s.cfg.content m.nodeSel.toNat)]

/-- The MSH set of a plot. -/
def mshRegs (s : State) (q : PlotId) : List (Nat × Nat) :=
  let m := (s.plot q).msh
  [(0x00, 2 ^ 18 * m.cmnCache.toNat + 512 * m.mxeCache.toNat + m.atCache.toNat), (0x04, b2n m.ign),
   (0x08, homePages s q), (0x0C, cacheFree s q), (0x10, m.pageIn.toNat), (0x14, m.miss.toNat), (0x18, m.copy.toNat),
   (0x1C, m.mcRetry.toNat), (0x20, m.merge.toNat)]

/-! ### ANL (Tables 5-4, 5-5) -/

/-- ANL_TILE_INFO of a tile. -/
def tileInfo (s : State) (t : Nat) : Nat :=
  let c := s.cfg.content
  let owner := c.tileOwner t
  if owner = 0 then 0
  else
    let q := plotOf owner
    let i := ((c.tileList owner).findIdx? (· == t)).getD 0
    let depth := match (s.plot q).an.tiles.find? (fun x => x.idx == i) with | some x => x.queue.length | none => 0
    let vars := match annealSec s q with
      | some x => (match (tileEntries x).find? (fun e => e.tile == i) with | some e => e.v | none => 0)
      | none => 0
    2 ^ 24 * owner + 65536 * i + 1024 * depth + vars

/-- The ANL globals. -/
def anlGlobals (s : State) : List (Nat × Nat) :=
  [(0x00, s.anl.devProp.toNat), (0x08, b2n s.anl.devWrap), (0x0C, s.anl.tileSel.toNat),
   (0x10, tileInfo s s.anl.tileSel.toNat)]

/-- ANL_PRD_DATA: a word of the spin vectors latched in step 2, as the function's ANL_PRD_SEL selects it (R150). -/
def spinWord (a : AnShow) (sel : Nat) : Nat :=
  let bits := assocD (if bitOf sel 31 then a.bests else a.spins) (fieldOf sel 13 8) []
  flagBits ((List.range 32).map (fun k => (bits[32 * fieldOf sel 3 0 + k]?).getD false))

/-- The job whose attempt a plot's anneal fabric holds, while it is admitted. -/
def runningAnneal (s : State) (q : PlotId) : Option Job := (s.plot q).plt.job? (s.plot q).an.job

/-- ANL_PSTATUS.STATE codes. -/
def AnState.num : AnState → Nat
  | .idle => 0 | .init => 1 | .run => 2 | .drain => 3 | .audit => 4 | .frozen => 5

/-- The ANL set of a plot. -/
def anlRegs (s : State) (f : Fn) (q : PlotId) : List (Nat × Nat) :=
  let x := s.plot q
  let a := x.an
  let v := a.shown
  let sel := s.sel f (setAddr 4 q 0x6C)
  let job := runningAnneal s q
  [(0x00, x.shadow.word .anneal),
   (0x04, 65536 * laneLag s.cfg.content q.val +
     (match annealSec s q with | some x => (tileEntries x).length | none => 0)),
   (0x08, 2 ^ 17 * b2n a.captured + 65536 * b2n a.bestValid + 4096 * (match job with | some j => j.cap | none => 0) +
     256 * b2n (match job with | some j => j.strict | none => false) + a.state.num),
   (0x0C, 2 * b2n a.flipWrap + b2n a.propWrap),
   (0x10, v.sweeps.toNat), (0x18, v.prop.toNat), (0x20, v.flip.toNat), (0x28, v.energy.toNat), (0x34, v.bestEnergy.toNat),
   (0x40, v.bestSweep.toNat), (0x48, v.auditDelta.toNat), (0x50, v.auditCnt.toNat), (0x54, v.deferCnt.toNat),
   (0x58, v.dropCnt.toNat), (0x5C, v.shedCnt.toNat), (0x60, v.blockCnt.toNat), (0x64, v.voidCnt.toNat),
   (0x68, v.holdCnt.toNat), (0x6C, sel), (0x70, spinWord v sel), (0x74, v.qmax.toNat)]

/-! ### NSE (Tables 6-6 to 6-8) -/

/-- The tiles whose well meets a test, bit i for tile i. -/
def wellMap (s : State) (p : Well → Bool) : Nat := flagBits (s.nse.wells.toList.map p)

/-- NSE_TILE_STAT of a tile. -/
def tileStat (s : State) (t : TileId) : Nat :=
  let w := s.nse.wells[t]
  let st := match w.state with | .startup => 0 | .healthy => 1 | .failed => 2 | .locked => 3
  2 ^ 30 * st + 2 ^ 29 * b2n w.draw + 65536 * min (recentFails w.fails s.boot.tclk).length 16 + w.fifo.len / 8

/-- The NSE globals. -/
def nseGlobals (s : State) : List (Nat × Nat) :=
  let n := s.nse
  let fails := wellMap s (fun w => w.state == .failed)
  let locks := wellMap s (fun w => w.state == .locked)
  let draws := wellMap s (fun w => w.draw)
  let chans (st : WellState) := flagBits (n.chans.toList.map (fun c => c.state == st))
  [(0x00, b2n n.dwHostEn), (0x08, fails % 2 ^ 32), (0x0C, fails / 2 ^ 32), (0x10, locks % 2 ^ 32), (0x14, locks / 2 ^ 32),
   (0x18, draws % 2 ^ 32), (0x1C, draws / 2 ^ 32), (0x20, n.tileSel.toNat),
   (0x24, tileStat s ⟨n.tileSel.toNat, n.tileSel.isLt⟩),
   (0x28, 65536 * n.pool.length + 16 * chans .locked + chans .healthy), (0x2C, n.rctFail.toNat), (0x30, n.aptFail.toNat),
   (0x34, n.icdfSel.toNat), (0x38, unsigned 32 (icdf n.icdfSel.toNat)), (0x3C, n.dwInt.toNat), (0x44, n.dwHost.toNat)]

/-- The random-request registers of a set; reserved address bits read 0 (R8). -/
def rngRegs (s : State) (q : PlotId) : List (Nat × Nat) :=
  let r := s.nse.rng[q]
  [(0x44, r.addr.toNat / 64 * 64),
   (0x50, 2 ^ 31 * b2n r.busy + 2 ^ 24 * r.result.toNat + (if r.busy then r.done else r.blocks.toNat))]

/-- The NSE set of a plot; set 0 has the random-request registers only. -/
def nseRegs (s : State) (q : PlotId) : List (Nat × Nat) :=
  let x := s.plot q
  let n := x.nse
  let v := x.an.shown
  let l := n.lanes[(⟨n.sel.toNat, n.sel.isLt⟩ : Fin 64)]
  rngRegs s q ++
  (if q = 0 then [] else
  [(0x00, x.shadow.word .tapeCfg), (0x04, x.shadow.tapeBase.toNat), (0x0C, n.low.toNat), (0x14, n.sel.toNat),
   (0x18, 65536 * l.head.toNat + l.tail.toNat), (0x1C, l.next.toNat), (0x20, l.start.toNat),
   (0x24, 2 ^ 24 * n.errTile.toNat + 65536 * n.errReason.toNat + n.errSeg.toNat), (0x28, v.pauseCnt.toNat),
   (0x2C, v.bear.toNat), (0x30, v.left.toNat), (0x34, v.sigma.toNat), (0x38, v.stallCnt.toNat),
   (0x3C, v.starveCnt.toNat), (0x40, v.drawCnt.toNat)])

/-! ### GRF (Tables 7-5, 7-6) -/

/-- The GRF set of a plot. -/
def grfRegs (s : State) (f : Fn) (q : PlotId) : List (Nat × Nat) :=
  let v := (s.plot q).grf.shown
  let sel := s.sel f (setAddr 6 q 0x14)
  [(0x00, v.info.toNat), (0x04, v.phase.toNat), (0x08, v.count.toNat), (0x10, v.cursor % 4096), (0x14, sel),
   (0x18, 65536 * capBits 16 ((v.flips[sel]?).getD 0) + (v.slots[sel]?).getD 0), (0x1C, v.offset.toNat),
   (0x28, v.fullDelta.toNat), (0x30, v.fullAudit.toNat), (0x34, v.gMax.toNat), (0x3C, v.rotCyc.toNat)]

/-! ### MXE (Tables 8-5, 8-6) -/

/-- Do a plot's engines run in spin mode (R206): is a full pass, a stage or a full audit under way? -/
def spinning (s : State) (p : Nat) : Bool :=
  if h : p < 65 then
    let g := s.plots[p].grf
    g.scan.isSome && (g.phase == 1 || g.phase == 3 || g.auditDue)
  else false

/-- MXE_ENG_STATUS of an engine. A drain that waits reads DRAIN, or STALL while a further tile waits for its bank. -/
def engineStatus (s : State) (m : MxeId) : Nat :=
  let e := s.mxes[m]
  2 ^ 24 * s.cfg.content.mxeOwner m.val + 65536 * b2n e.carry.isSome + 256 * b2n e.active +
    (if e.stopped then 5
     else match e.run with
      | some r => if e.draining then (if r.tile + 1 < opTiles r.op then 3 else 2) else 1
      | none => if spinning s (s.cfg.content.mxeOwner m.val) then 4 else 0)

/-- MXE_HCC_STATUS of a cluster. -/
def clusterStatus (s : State) (h : HccId) : Nat :=
  match s.hccs[h].call with
  | some c => 2 ^ 24 * c.plot.val + 256 * c.op.toNat + 1
  | none => if s.hccs[h].dirty.isSome then 2 else 0

/-- The MXE globals. -/
def mxeGlobals (s : State) (f : Fn) : List (Nat × Nat) :=
  let c := s.cfg.content
  let m := s.sel f 0x70008
  let h := s.sel f 0x70014
  let eng : MxeId := ⟨m % 16, Nat.mod_lt _ (by decide)⟩
  [(0x00, capBits 64 (s.devMacs / 65536)), (0x08, m), (0x0C, engineStatus s eng), (0x10, (s.mxes[eng]).stall.toNat),
   (0x14, h), (0x18, clusterStatus s ⟨h % 16, Nat.mod_lt _ (by decide)⟩), (0x1C, s.hccTrap.toNat), (0x20, c.mcBuild),
   (0x28, 65536 * b2n s.cfg.loaded + c.ops.length)]

/-- The MXE set of a plot. -/
def mxeRegs (s : State) (q : PlotId) : List (Nat × Nat) :=
  let x := s.plot q
  let v := x.mxe.shown
  [(0x00, x.shadow.word .group), (0x04, 65536 * x.mxe.shownGroup + x.mxe.shownCarry.toNat),
   (0x08, capBits 64 (v.macs / 65536)), (0x10, v.tile.toNat), (0x14, v.sat.toNat), (0x18, v.range.toNat),
   (0x1C, v.stall.toNat), (0x20, v.call.toNat), (0x24, v.trap.toNat)]

/-! ### QCE (Tables 9-5, 9-6) -/

/-- The QCE globals. -/
def qceGlobals (s : State) (f : Fn) : List (Nat × Nat) :=
  let n := s.sel f 0x80008
  let e := s.qces[(⟨n % 4, Nat.mod_lt _ (by decide)⟩ : Fin 4)]
  let status := match e.call with
    | some c => 2 ^ 24 * c.plot.val + 256 * (c.dest % 65536) + e.pass
    | none => if e.dirty.isSome then 3 else 0
  [(0x00, s.qceBytes.toNat), (0x08, n), (0x0C, status), (0x10, e.busyLast.toNat), (0x14, s.qceTrap.toNat)]

/-- The QCE set of a plot. -/
def qceRegs (s : State) (q : PlotId) : List (Nat × Nat) :=
  let v := (s.plot q).qce.shown
  [(0x00, v.bytes.toNat), (0x08, v.call.toNat), (0x0C, v.sat.toNat), (0x10, v.clamp.toNat), (0x14, v.nonfin.toNat),
   (0x18, v.trap.toNat), (0x1C, 65536 * v.lastTensor.toNat + v.lastEngine.toNat)]

/-! ### FLN (Tables 10-11, 10-12) -/

/-- FLN_LANE_STATUS.STATE codes. -/
def LaneState.num : LaneState → Nat
  | .off => 0 | .init => 1 | .ready => 2

/-- The FLN globals: the lane registers of the lane the function selects. -/
def flnGlobals (s : State) (f : Fn) : List (Nat × Nat) :=
  let n := s.sel f 0x90000
  let l := mkLane n
  let x := s.lane l
  [(0x00, n), (0x04, 65536 * s.ctxBusy l + x.state.num), (0x08, x.suspect.toNat), (0x10, x.retry.toNat),
   (0x14, x.uncorr.toNat), (0x18, x.weak.toNat), (0x1C, x.timeout.toNat), (0x20, x.rb.toNat), (0x24, x.pfail.toNat),
   (0x28, x.rdBytes.toNat), (0x30, x.pgBytes.toNat), (0x38, x.erase.toNat)]

/-- The FLN set of a plot: the index registers of the index the function selects. -/
def flnRegs (s : State) (f : Fn) (q : PlotId) : List (Nat × Nat) :=
  let x := (s.plot q).fln
  let v := x.shown
  let sel := s.sel f (setAddr 9 q 0)
  let i := x.shownIdx[mkIndex sel]
  [(0x00, sel), (0x04, i.1), (0x08, i.2.1), (0x0C, i.2.2.1), (0x10, i.2.2.2), (0x14, v.scan.toNat), (0x1C, v.filter.toNat),
   (0x24, v.query.toNat), (0x28, v.park.toNat), (0x2C, v.sideFull.toNat), (0x30, v.sectErr.toNat), (0x34, v.merge.toNat),
   (0x38, v.delHit.toNat)]

/-! ### PWR (Tables 11-6 to 11-8) -/

/-- PWR_STATUS. -/
def pwrStatus (s : State) : Nat :=
  let p := s.pwr
  let holds (l : Fin 11) : Bool := p.levels[l].toList.any (fun k => decide (0 < k))
  2 ^ 31 * b2n p.lowest + 2 ^ 28 * p.cause.toNat + 2 ^ 27 * b2n (decide (s.fuses.nominal < p.fclk)) +
    2 ^ 26 * b2n p.lt.isSome + 2 ^ 25 * b2n (holds 9) +
    65536 * flagBits ((List.finRange 9).map (fun l => holds ⟨l.val, by omega⟩)) + 256 * (p.band % 4)

/-- PWR_THERM_MAX: 0 while no sensor reads validly. -/
def thermMax (p : PwrState) : Nat :=
  match hottest p with
  | some h => 65536 * h.1 + unsigned 12 h.2
  | none => 0

/-- PWR_POWER: 1 ms demand and calibrated power in 0.1 W. -/
def powerWord (p : PwrState) : Nat × Nat :=
  (capBits 16 (nearestDiv (demandPower p) (10 ^ 11)), capBits 16 (nearestDiv (meanPower p) (10 ^ 11)))

/-- The registers of a rail. -/
def railRegs (p : PwrState) (r : Fin 5) : List (Nat × Nat) :=
  let x := p.rails[r]
  [(0x54, nearestDiv (5 * x.volts) 2), (0x58, 65536 * capBits 16 (nearestDiv x.raw 100000) + capBits 16 (nearestDiv x.cal 100000)),
   (0x5C, 2 ^ 31 * b2n x.measValid + 65536 * x.status.toNat + capBits 16 (nearestDiv x.amps 100)),
   (0x60, capBits 11 (nearestDiv (x.gain * 1024) 1000000))]

/-- PWR_SENS of a sensor. -/
def sensWord (p : PwrState) (i : Nat) : Nat :=
  if h : i < 48 then
    2 ^ 31 * b2n (p.sens[i]).fault + 65536 * (Config.sensorNode i).toNat + unsigned 12 (p.sens[i]).temp
  else 0

/-- The PWR globals. -/
def pwrGlobals (s : State) (f : Fn) : List (Nat × Nat) :=
  let p := s.pwr
  let lv := s.sel f 0xA0018
  let rail := s.sel f 0xA0050
  let vt := s.sel f 0xA0068
  let se := s.sel f 0xA0074
  let fam := fieldOf lv 5 4
  let faults := flagBits (p.sens.toList.map (·.fault))
  [(0x00, 4 * b2n p.trimEn + 2 * b2n p.calEn + b2n p.fixedFreq), (0x04, s.frm.shadow.word .cap), (0x08, pwrStatus s),
   (0x0C, p.event.toNat), (0x10, 65536 * p.targetMhz + p.fclk), (0x14, 65536 * (powerWord p).1 + (powerWord p).2),
   (0x18, lv), (0x1C, 256 * levelSource p fam (lv % 4) + levelInForce p fam (lv % 4)), (0x50, rail),
   (0x64, unsigned 8 (-(5 * (p.trim : Int)))), (0x68, vt), (0x6C, ((s.fuses.vtab.toList[vt]?).getD 0).toNat % 4096),
   (0x70, 65536 * p.boostMax.toNat + 256 * p.throttle.toNat + p.warn.toNat), (0x74, se), (0x78, sensWord p se),
   (0x7C, thermMax p), (0x80, s.aux.trip.toNat), (0x84, p.droopThresh.toNat), (0x88, p.droopCnt.toNat),
   (0x8C, p.stretch.toNat), (0x90, p.lowestCnt.toNat), (0x94, p.vrCnt.toNat), (0x98, faults % 2 ^ 32), (0x9C, faults / 2 ^ 32),
   (0xA0, p.energy / 10 ^ 18), (0xA8, b2n p.wrap)] ++
  railRegs p (mkRail rail) ++
  (List.finRange 9).map (fun i => (0x20 + 0x10 * (i.val / 3) + 4 * (i.val % 3), (p.ilim[i]).toNat))

/-- The PWR set of a plot. -/
def pwrRegs (s : State) (q : PlotId) : List (Nat × Nat) :=
  let x := (s.plot q).pwr
  let c := s.classOf q
  [(0x00, x.energy / 10 ^ 18), (0x08, b2n x.wrap),
   (0x0C, 65536 * levelInForce s.pwr 2 c + 256 * levelInForce s.pwr 1 c + levelInForce s.pwr 0 c),
   (0x10, x.shownBubbles.toNat), (0x14, x.shownPower.toNat)]

/-! ### HST (Tables 12-13, 12-14) -/

/-- HST_ID. -/
def hstId (f : FuseState) : Nat :=
  65536 * (if f.gradeF then 0x0A71 else 0x0A70) + 256 * (if f.revB1 then 0xB1 else 0xB0) + b2n f.gradeF

/-- HST_EPOCH. -/
def hstEpoch (s : State) : Nat := 2 ^ 30 * s.aux.epochState.toNat + s.fuses.epoch

/-- HST_STATUS. -/
def hstStatus (s : State) : Nat :=
  let h := s.hst
  2 ^ 31 * b2n s.isReady + 2 ^ 30 * b2n (s.fns[(0 : Fn)]).d3 + 2 ^ 29 * b2n h.vfEn + 2 ^ 28 * b2n h.ari +
    2 ^ 27 * b2n h.linkUp + 2 ^ 24 * h.speed.toNat + 65536 * h.width.toNat + h.numVfs.toNat % 128

/-- The HST globals. -/
def hstGlobals (s : State) : List (Nat × Nat) :=
  let h := s.hst
  [(0x00, hstId s.fuses), (0x04, hstStatus s), (0x08, s.aux.cause.toNat), (0x0C, hstEpoch s), (0x10, h.accessErr.toNat),
   (0x14, h.accessCnt.toNat), (0x18, h.dmaErrCnt.toNat), (0x1C, h.dmaLast.toNat), (0x20, h.ptmAuto.toNat),
   (0x24, 2 ^ 31 * b2n h.ptmValid + 2 ^ 30 * b2n h.ptmBusy + 2 ^ 29 * b2n h.ptmNoResp + h.dialogs.toNat),
   (0x28, h.ptmT1.toNat), (0x30, h.ptmT4.toNat), (0x38, h.ptmMaster.toNat), (0x40, h.ptmProp.toNat),
   (0x64, 65536 * h.pmbModeErr.toNat + 256 * h.pmbNoAck.toNat + h.pmbOk.toNat), (0x68, h.pmbErr.toNat),
   (0x6C, 65536 * h.smbPec.toNat + h.smbXfers.toNat)] ++
  (List.finRange 5).map (fun r => (0x50 + 4 * r.val, (h.rail[r]).toNat))

/-- The HST set of a plot. -/
def hstRegs (s : State) (q : PlotId) : List (Nat × Nat) :=
  [(0x00, (s.hst.pAccessErr[q]).toNat), (0x04, (s.hst.pAccessCnt[q]).toNat), (0x08, (s.hst.pDmaErr[q]).toNat)]

/-! ### SKT (Tables 13-13, 13-14) -/

/-- The committed ingest entry of a number. -/
def ingestNo (s : State) (n : Nat) : Option Ingest := s.cfg.content.ingests.find? (fun e => e.no == n)

/-- SKT_ENTRY_STAT of an entry's values. -/
def entryStat (x : SktEntry) : Nat := 65536 * x.age.toNat + x.last.seq.toNat

/-- The SKT globals. -/
def sktGlobals (s : State) (f : Fn) : List (Nat × Nat) :=
  let k := s.skt
  let n := s.sel f 0xC0044
  let x := k.entry n
  let port (c : SktCage) : Nat := 16 * b2n c.inv + c.mode.toNat
  let status (c : SktCage) : Nat := 65536 * c.down.toNat + 4 * b2n c.modAbs + 2 * b2n c.los + b2n c.lock
  let c0 := k.cages[(0 : Fin 2)]
  let c1 := k.cages[(1 : Fin 2)]
  [(0x00, port c0), (0x04, port c1), (0x08, status c0), (0x0C, status c1), (0x10, s.sel f 0xC0010), (0x14, k.token.toNat),
   (0x1C, flagBits ((List.range 32).map (fun i => (k.banks.lookup i).isSome))), (0x40, k.violLast.toNat), (0x44, n),
   (0x48, match ingestNo s n with | some e => 2 ^ 24 * e.plot + 65536 * e.flags + 1 | none => 0), (0x4C, entryStat x),
   (0x50, x.rx.toNat), (0x54, x.gap.toNat), (0x58, x.dup.toNat), (0x5C, x.red.toNat)] ++
  (List.finRange 12).map (fun t => (0x100 + 4 * t.val, (c0.vcnt[t]).toNat)) ++
  (List.finRange 12).map (fun t => (0x140 + 4 * t.val, (c1.vcnt[t]).toNat))

/-- The SKT set of a plot: an entry it does not own reads 0 (R338). -/
def sktRegs (s : State) (f : Fn) (q : PlotId) : List (Nat × Nat) :=
  let sel := s.sel f (setAddr 12 q 0)
  let own := match ingestNo s sel with | some e => e.plot == q.val | none => false
  let x := s.skt.entry sel
  [(0x00, sel), (0x04, if own then entryStat x else 0), (0x08, if own then x.rx.toNat else 0),
   (0x0C, (s.plot q).skt.stale.toNat)]

/-! ### LOG and ATT (Table 14-7) -/

/-- The bytes of a log line as a number (Table 14-5). -/
def LogLine.value (l : LogLine) : Nat :=
  l.seq + 2 ^ 64 * l.time + 2 ^ 128 * (l.code % 65536) + 2 ^ 144 * (l.plot % 256) +
    2 ^ 152 * (match l.node with | some n => 128 + n.val | none => 0) + 2 ^ 160 * (l.arg0 % 2 ^ 32) + 2 ^ 192 * (l.arg1 % 2 ^ 64)

/-- The line a function's LOG_SEL selects, if the log holds it. -/
def selectedLine (s : State) (f : Fn) : Option LogLine := s.log.lines.find? (fun l => l.seq == s.sel f 0xD0010)

/-- The LOG globals. -/
def logGlobals (s : State) (f : Fn) : List (Nat × Nat) :=
  let l := s.log
  [(0x00, l.next.toNat), (0x08, l.ack.toNat), (0x10, s.sel f 0xD0010),
   (0x18, 2 ^ 31 * b2n (s.fns[f]).logValid + l.lines.length),
   (0x20, match selectedLine s f with | some x => x.value | none => 0), (0x40, l.lost.toNat), (0x44, l.suppress.toNat)]

/-- The LOG set of a plot. -/
def logRegs (s : State) (q : PlotId) : List (Nat × Nat) :=
  [(0x00, (s.log.pcnt[q]).toNat), (0x04, (s.log.plast[q]).toNat)]

/-- Device-wide signing is active: K is held and no device-wide reason stands. -/
def State.signing (s : State) : Bool := s.aux.key.isSome && s.att.stop == 0

/-- The ATT globals. -/
def attGlobals (s : State) (f : Fn) : List (Nat × Nat) :=
  let w := s.sel f 0xE0004
  [(0x00, 2 ^ 31 * b2n s.signing + 2 ^ 28 * s.att.stop.toNat + s.fuses.epoch), (0x04, w),
   (0x08, s.fuses.devKey.toNat / 2 ^ (32 * w) % 2 ^ 32)]

/-- The ATT set of a function. -/
def attRegs (s : State) (q : PlotId) : List (Nat × Nat) :=
  let a := s.att.sets[q]
  [(0x00, a.addr.toNat), (0x0C, 2 ^ 31 * b2n a.busy + a.result.toNat), (0x10, if q = 0 then 0 else (s.aux.pseq[q]).toNat),
   (0x18, a.unsignedCnt.toNat), (0x1C, (s.stopReason q).toNat)]

/-! ### One value -/

/-- The registers of a block's globals as a function reads them. -/
def globalRegs (s : State) (f : Fn) (b : Nat) : List (Nat × Nat) :=
  match b with
  | 0 => frmRegs s f
  | 1 => pltGlobals s
  | 2 => cfgGlobals s
  | 3 => mshGlobals s
  | 4 => anlGlobals s
  | 5 => nseGlobals s
  | 6 => [(0x00, s.devGraft.toNat)]
  | 7 => mxeGlobals s f
  | 8 => qceGlobals s f
  | 9 => flnGlobals s f
  | 10 => pwrGlobals s f
  | 11 => hstGlobals s
  | 12 => sktGlobals s f
  | 13 => logGlobals s f
  | 14 => attGlobals s f
  | _ => []

/-- The registers of a plot's set in a block as a function reads them. -/
def setRegs (s : State) (f : Fn) (b : Nat) (q : PlotId) : List (Nat × Nat) :=
  match b with
  | 1 => pltRegs s f q
  | 2 => cfgRegs s q
  | 3 => mshRegs s q
  | 4 => anlRegs s f q
  | 5 => nseRegs s q
  | 6 => grfRegs s f q
  | 7 => mxeRegs s q
  | 8 => qceRegs s q
  | 9 => flnRegs s f q
  | 10 => pwrRegs s q
  | 11 => hstRegs s q
  | 12 => sktRegs s f q
  | 13 => logRegs s q
  | 14 => attRegs s q
  | _ => []

/-- The value that stands at a register: all its words at the first register of a group; an unassigned offset reads 0 (R8). -/
def regValue (s : State) (f : Fn) (a : Nat) : Nat :=
  match placeOf a with
  | .glob b o => assocD (globalRegs s f b) o 0
  | .set b q o => assocD (setRegs s f b q) o 0
  | .none => 0

/-! ### Values of several words (R12, R149, R352) -/

/-- The groups among a block's globals: first offset and number of words. -/
def globalGroups (b : Nat) : List (Nat × Nat) :=
  match b with
  | 0 => [(0x28, 2), (0x30, 2), (0x38, 2)]
  | 2 => [(0x08, 2), (0x28, 2)]
  | 4 => [(0x00, 2)]
  | 5 => [(0x3C, 2), (0x44, 2)]
  | 6 => [(0x00, 2)]
  | 7 => [(0x00, 2), (0x20, 2)]
  | 8 => [(0x00, 2)]
  | 9 => [(0x28, 2), (0x30, 2)]
  | 10 => [(0xA0, 2)]
  | 11 => [(0x28, 2), (0x30, 2), (0x38, 2)]
  | 13 => [(0x00, 2), (0x08, 2), (0x10, 2), (0x20, 8)]
  | _ => []

/-- The groups of a block's per-plot set. -/
def setGroups (b : Nat) : List (Nat × Nat) :=
  match b with
  | 1 => [(0x18, 2), (0x20, 2)]
  | 2 => [(0x0C, 2), (0x14, 2)]
  | 4 => [(0x10, 2), (0x18, 2), (0x20, 2), (0x28, 3), (0x34, 3), (0x40, 2), (0x48, 2)]
  | 5 => [(0x04, 2), (0x44, 2)]
  | 6 => [(0x08, 2), (0x1C, 3), (0x28, 2), (0x34, 2)]
  | 7 => [(0x08, 2)]
  | 8 => [(0x00, 2)]
  | 9 => [(0x14, 2), (0x1C, 2)]
  | 10 => [(0x00, 2)]
  | 14 => [(0x00, 2), (0x10, 2)]
  | _ => []

/-- The word of a group that an offset is: how many words after the first register. -/
def wordIn (gs : List (Nat × Nat)) (o : Nat) : Option Nat :=
  (gs.find? (fun g => decide (g.1 ≤ o) && decide (o < g.1 + 4 * g.2))).map (fun g => (o - g.1) / 4)

/-- The word number of a register within its group, if it lies in one; 0 is the register that latches. -/
def groupWord (a : Nat) : Option Nat :=
  match placeOf a with
  | .glob b o => wordIn (globalGroups b) o
  | .set b q o => if b = 5 ∧ q = 0 ∧ o < 0x44 then none else wordIn (setGroups b) o
  | .none => none

/-! ### Reads -/

/-- Selectors that name nothing: the spec states no value for these reads (DESIGN CHOICE: a free value). -/
def openValue (s : State) (f : Fn) (a : Nat) : Bool :=
  if a = 0x4C then decide (120 ≤ s.frm.claimSel.toNat)
  else if a = 0x30024 ∨ a = 0x30028 then decide (120 ≤ s.msh.linkNode.toNat) || decide (6 ≤ s.msh.linkPort.toNat)
  else if a = 0x30038 then decide (120 ≤ s.msh.nodeSel.toNat)
  else if a = 0xA001C then decide (3 ≤ fieldOf (s.sel f 0xA0018) 5 4)
  else if 0xA0054 ≤ a ∧ a ≤ 0xA0060 then decide (5 ≤ s.sel f 0xA0050)
  else if a = 0xA0078 then decide (48 ≤ s.sel f 0xA0074)
  else if a = 0xE0008 then decide (24 ≤ s.sel f 0xE0004)
  else false

/-- One word read with a set of latches (R12): the word, and the latches after it. -/
def latchedRead (s : State) (f : Fn) (latches : List (Nat × Nat)) (a : Nat) : Nat × List (Nat × Nat) :=
  match groupWord a with
  | some 0 => let v := regValue s f a; (v % 2 ^ 32, assocSet latches a v)
  | some (k + 1) => (assocD latches (a - 4 * (k + 1)) 0 / 2 ^ (32 * (k + 1)) % 2 ^ 32, latches)
  | none => (regValue s f a % 2 ^ 32, latches)

/-- The register at an offset as a function reads it (R9, R12, R352): the state after the read, and the word. -/
def readReg (s : State) (f : Fn) (a : Nat) : State × Nat :=
  if openValue s f a then (s.takeFree.2, s.takeFree.1.toNat % 2 ^ 32)
  else
    let r := latchedRead s f s.fns[f].latches a
    let s' := s.modFn f (fun g => { g with latches := r.2 })
    (if a = 0xD0020 then s'.modFn f (fun g => { g with logValid := (selectedLine s f).isSome }) else s', r.1)

end Sys2Proof.Machine
end

