-- ==== Sys2Proof/Machine/Access.lean ====
section
/-!
DEFINITION. Sys2Proof/Machine/Access.lean: host reads and writes of BAR0 (R7 to R14, R293 to R297, R356): discarded accesses,
latching reads, writes by access type, and writable pairs.
-/
namespace Sys2Proof.Machine

/-! ### Discarded accesses (R7, R296) -/

/-- The word of HST_ACCESS_ERR: FUNC, WRITE, OFFSET and KIND (Table 12-14). -/
def accessWord (f : Fn) (write : Bool) (off kind : Nat) : Nat :=
  f.val * 2 ^ 25 + b2n write * 2 ^ 24 + off / 4 % 2 ^ 22 * 4 + kind

/-- A discarded access is recorded, for the device and for the discarding VF, and raises ACCESS (R296). -/
def discard (s : State) (f : Fn) (write : Bool) (off kind : Nat) : State :=
  let h := s.hst
  let w : Word := BitVec.ofNat 32 (accessWord f write off kind)
  let h := { h with accessErr := w, accessCnt := satInc h.accessCnt }
  let h := if f = 0 then h else
    { h with pAccessErr := h.pAccessErr.set f w, pAccessCnt := h.pAccessCnt.set f (satInc h.pAccessCnt[f]) }
  ({ s with hst := h }).raisePf 14

/-! ### Reads (R7, R8, R12, R295) -/

/-- The bytes of a word from byte `at_` on, `len` of them. -/
def partOf (w at_ len : Nat) : Nat := w / 2 ^ (8 * at_) % 2 ^ (8 * len)

/-- A word of a function's MSI-X table or PBA, by its byte in the region. -/
def regionWord (s : State) (f : Fn) (pba : Bool) (b : Nat) : Nat :=
  if pba then s.fns[f].pba.toNat / 2 ^ (8 * (b / 4 * 4)) % 2 ^ 32 else msixWord s f (b / 4)

/-- A served read: the state after it and the data returned. -/
def hostReadData (s : State) (f : Fn) (off len : Nat) : State × Nat :=
  if len = 0 then (s, 0)
  else match msixAt f off with
  | some (pba, b) =>
    if len = 8 ∧ off % 8 = 0 then (s, regionWord s f pba b + 2 ^ 32 * regionWord s f pba (b + 4))
    else if off % 4 + len ≤ 4 then (s, partOf (regionWord s f pba b) (off % 4) len)
    else (discard s f false off 2, 0)
  | none =>
    if off % 4 + len ≤ 4 then
      match regAt f (off / 4 * 4) with
      | none => (s, 0)
      | some a => let r := readReg s f a; (r.1, partOf r.2 (off % 4) len)
    else (discard s f false off 2, 0)

/-- A host read of BAR0. -/
def hostRead (s : State) (f : Fn) (off len : Nat) : State :=
  hostGate s f (fun s => let r := hostReadData s f off len; { r.1 with resp := { data := r.2 } })

/-- A host write that R7 may discard: partial writes and boundary crossings. It carries no data, so an access that R7
serves has no effect here. -/
def hostPartialWrite (s : State) (f : Fn) (off len : Nat) (enables : BitVec 8) : State :=
  hostGate s f (fun s =>
    let on := enables.toNat % 2 ^ len
    if on = 0 then s
    else if len = 8 ∧ off % 8 = 0 ∧ (msixAt f off).isSome then
      (if on = 255 then s else discard s f true off 1)
    else if 4 < off % 4 + len then discard s f true off 2
    else if len = 4 ∧ on = 15 then s
    else discard s f true off 1)

/-! ### Writable pairs (R14) -/

/-- The writable pair that a register belongs to: whether it is the HI half, and the PF offset of the LO half. -/
def pairAt (a : Nat) : Option (Bool × Nat) :=
  let half (o base : Nat) : Option (Bool × Nat) :=
    if o = base then some (false, a) else if o = base + 4 then some (true, a - 4) else none
  match placeOf a with
  | .glob 2 o => half o 0x08
  | .glob 13 o => if o < 0x10 then half o 0x08 else half o 0x10
  | .set 1 _ o => if o < 0x20 then half o 0x18 else half o 0x20
  | .set 5 q o => if o < 0x44 then (if q = 0 then none else half o 0x04) else half o 0x44
  | .set 14 _ o => half o 0x00
  | _ => none

/-- The lower half in force of a pair; the shadow's for an RWS pair. -/
def lowerHalf (s : State) (f : Fn) (base : Nat) : Nat :=
  match placeOf base with
  | .set 5 q o => if o = 0x44 then s.nse.rng[q].addr.toNat % 2 ^ 32 else regValue s f base % 2 ^ 32
  | _ => regValue s f base % 2 ^ 32

/-- A pair takes a 64-bit value. Ring bases are writable only while RING_EN is 0. -/
def setPair (s : State) (f : Fn) (base : Nat) (v : Nat) : State :=
  match placeOf base with
  | .glob 2 _ => s.modCfg (fun c => { c with srcAddr := BitVec.ofNat 64 (v / 64 * 64) })
  | .glob 13 o => if o = 0x08 then logAck s (BitVec.ofNat 64 v) else s.modFn f (fun g => { g with sels := assocSet g.sels base v })
  | .set 1 q o =>
    let x : Word64 := BitVec.ofNat 64 (v / 4096 * 4096)
    s.modPlt q (fun p => if p.ringEn then p else if o = 0x18 then { p with sqBase := x } else { p with cqBase := x })
  | .set 5 q o =>
    if o = 0x44 then s.modRng q (fun r => { r with addr := BitVec.ofNat 64 v })
    else (s.setShadow q .tapeLo (v % 2 ^ 32)).setShadow q .tapeHi (v / 2 ^ 32)
  | .set 14 q _ => s.modAtt q (fun x => { x with addr := BitVec.ofNat 64 (v / 64 * 64) })
  | _ => s

/-- A write of the LO half is held for the writing function. -/
def holdLow (s : State) (f : Fn) (base : Nat) (v : Word) : State :=
  s.modFn f (fun g => { g with held := assocSet g.held base v })

/-- A write of the HI half applies the half the function holds, or else the one in force; nothing is held afterwards. -/
def applyHigh (s : State) (f : Fn) (base : Nat) (v : Word) : State :=
  let lo := match s.fns[f].held.lookup base with | some x => x.toNat | none => lowerHalf s f base
  (setPair s f base (v.toNat * 2 ^ 32 + lo)).modFn f (fun g => { g with held := assocDel g.held base })

/-! ### Registers that each function holds on its own (R356) -/

/-- The writable bits of a selector that each function holds on its own. -/
def selMask (a : Nat) : Option Nat :=
  match placeOf a with
  | .glob 7 o => if o = 0x08 ∨ o = 0x14 then some 0xF else none
  | .glob 8 o => if o = 0x08 then some 0x3 else none
  | .glob 9 o => if o = 0x00 then some 0x7 else none
  | .glob 10 o =>
    if o = 0x18 then some 0x33 else if o = 0x50 then some 0x7 else if o = 0x68 then some 0x1F
    else if o = 0x74 then some 0x3F else none
  | .glob 12 o => if o = 0x10 then some 0x10F else if o = 0x44 then some 0xFF else none
  | .glob 14 o => if o = 0x04 then some 0x1F else none
  | .set 4 _ o => if o = 0x6C then some 0x80003F0F else none
  | .set 6 _ o => if o = 0x14 then some 0x3F else none
  | .set 9 _ o => if o = 0x00 then some 0xF else none
  | .set 12 _ o => if o = 0x00 then some 0xFF else none
  | _ => none

/-- A selector takes a word. -/
def setSel (s : State) (f : Fn) (a mask : Nat) (v : Word) : State :=
  s.modFn f (fun g => { g with sels := assocSet g.sels a (v.toNat &&& mask) })

/-! ### RWS registers (R9, R69) -/

/-- Which function may write an RWS register: the PF every one, a VF those its plot view shows as writable. -/
def rwsWritable (f : Fn) (r : RwsReg) : Bool :=
  f == 0 || (match r with | .anneal | .tapeCfg | .tapeLo | .tapeHi | .group => true | _ => false)

/-! ### Writes by block (R9) -/

/-- FRM. -/
def writeFrm (s : State) (o : Nat) (v : Word) : State :=
  if o = 0x00 then frmCtl s v
  else if o = 0x20 then s.modFrm (fun x => { x with event := rw1c x.event (v.setWidth 9) })
  else if o = 0x48 then s.modFrm (fun x => { x with claimSel := v.setWidth 7 })
  else s

/-- PLT globals. -/
def writePltGlobal (s : State) (o : Nat) (v : Word) : State :=
  if o = 0x00 then pfIrqClear s v
  else if o = 0x04 then irqMaskWrite s 0 0 v
  else if o = 0x18 then chgClear s 0 v
  else if o = 0x1C then chgClear s 1 v
  else if o = 0x20 then faultClear s 0 v
  else if o = 0x24 then faultClear s 1 v
  else s

/-- PLT_CTL by the PF: EN and PF_FAULT_EN take effect, then RESET. -/
def writePltCtl (s : State) (q : PlotId) (v : Word) : State :=
  let s := plotControl s q (v.getLsbD 0) (v.getLsbD 2)
  if v.getLsbD 1 then plotResetFrom s 0 q else s

/-- PLT_VCTL: RING_EN, then CANCEL_ALL, then RESET. -/
def writePltVctl (s : State) (f : Fn) (q : PlotId) (v : Word) : State :=
  let s := startFetch (s.modPlt q (fun p => { p with ringEn := v.getLsbD 0 })) q
  let s := if v.getLsbD 2 then cancelFrom s f q else s
  if v.getLsbD 1 then plotResetFrom s f q else s

/-- A plot's PLT set. -/
def writePltSet (s : State) (f : Fn) (q : PlotId) (o : Nat) (v : Word) : State :=
  if o = 0x00 then (if f = 0 then writePltCtl s q v else s)
  else if o = 0x10 then writePltVctl s f q v
  else if o = 0x28 then sqTailWrite s q (v.setWidth 16)
  else if o = 0x34 then cqHeadWrite s q (v.setWidth 16)
  else if o = 0x38 then irqClear s q v
  else if o = 0x3C then irqMaskWrite s f q v
  else if o = 0x40 then s.modPlt q (fun p => { p with vec0 := v })
  else if o = 0x44 then s.modPlt q (fun p => { p with vec1 := v.setWidth 20 })
  else s

/-- CFG_FUSE_CTL (Table 3-12): KEY, SLOT and OP. OP 0 names no operation and changes nothing, whatever KEY holds (DEDUCED,
log entry 183). -/
def writeFuseCtl (s : State) (v : Word) : State :=
  let key : Byte := BitVec.ofNat 8 (fieldOf v.toNat 31 24)
  let slot : Fin 4 := ⟨fieldOf v.toNat 9 8 % 4, Nat.mod_lt _ (by decide)⟩
  let op := fieldOf v.toNat 1 0
  if op = 1 then fuseProgram s key slot
  else if op = 2 then fuseRevoke s key slot
  else if op = 3 then fuseLock s key
  else s

/-- One word of the 384-bit CFG_FUSE_DATA. -/
def setFuseWord (d : BitVec 384) (i : Nat) (v : Word) : BitVec 384 :=
  (d &&& ~~~(BitVec.ofNat 384 ((2 ^ 32 - 1) * 2 ^ (32 * i)))) ||| BitVec.ofNat 384 (v.toNat * 2 ^ (32 * i))

/-- CFG globals. -/
def writeCfgGlobal (s : State) (o : Nat) (v : Word) : State :=
  if o = 0x00 then cfgCtlWrite s (v.getLsbD 0) (v.getLsbD 1) (v.getLsbD 2)
  else if o = 0x10 then s.modCfg (fun c => { c with srcLen := v.setWidth 25 })
  else if o = 0x14 then s.modCfg (fun c => { c with waitFrames := v.setWidth 16 })
  else if o = 0x40 then writeFuseCtl s v
  else if 0x50 ≤ o ∧ o < 0x80 ∧ o % 4 = 0 then s.modCfg (fun c => { c with fuseData := setFuseWord c.fuseData ((o - 0x50) / 4) v })
  else s

/-- MSH globals. -/
def writeMshGlobal (s : State) (o : Nat) (v : Word) : State :=
  if o = 0x00 then { s with msh := { s.msh with scrubEn := v.getLsbD 0 } }
  else if o = 0x20 then { s with msh := { s.msh with linkNode := v.setWidth 7, linkPort := (v >>> 7).setWidth 3 } }
  else if o = 0x34 then { s with msh := { s.msh with nodeSel := v.setWidth 7 } }
  else s

/-- A plot's MSH set. -/
def writeMshSet (s : State) (f : Fn) (q : PlotId) (o : Nat) (v : Word) : State :=
  if o = 0x00 then (if f = 0 then pcacheWrite s q v else s)
  else if o = 0x04 then s.modMsh q (fun m => { m with ign := m.ign && !v.getLsbD 0 })
  else s

/-- ANL globals. -/
def writeAnlGlobal (s : State) (o : Nat) (v : Word) : State :=
  if o = 0x08 then { s with anl := { s.anl with devWrap := s.anl.devWrap && !v.getLsbD 0 } }
  else if o = 0x0C then { s with anl := { s.anl with tileSel := v.setWidth 6 } }
  else s

/-- A plot's ANL set. -/
def writeAnlSet (s : State) (q : PlotId) (o : Nat) (v : Word) : State :=
  if o = 0x0C then s.modPlot q (fun p => { p with an := { p.an with
    propWrap := p.an.propWrap && !v.getLsbD 0, flipWrap := p.an.flipWrap && !v.getLsbD 1 } })
  else s

/-- NSE_RETRY: a tile's well, then a deep-well channel. -/
def writeRetry (s : State) (v : Word) : State :=
  let s := if v.getLsbD 8 then retryWell s ⟨v.toNat % 64, Nat.mod_lt _ (by decide)⟩ else s
  if v.getLsbD 20 then retryChannel s ⟨fieldOf v.toNat 17 16 % 4, Nat.mod_lt _ (by decide)⟩ else s

/-- NSE globals. -/
def writeNseGlobal (s : State) (o : Nat) (v : Word) : State :=
  if o = 0x00 then { s with nse := { s.nse with dwHostEn := v.getLsbD 0 } }
  else if o = 0x04 then writeRetry s v
  else if o = 0x20 then { s with nse := { s.nse with tileSel := v.setWidth 6 } }
  else if o = 0x34 then { s with nse := { s.nse with icdfSel := v.setWidth 12 } }
  else s

/-- A set of NSE: the random request, and in sets 1 to 64 the tape registers. -/
def writeNseSet (s : State) (q : PlotId) (o : Nat) (v : Word) : State :=
  if o = 0x4C then (if v.getLsbD 31 then rngRequest s q (v.toNat % 2 ^ 15) else s)
  else if q = 0 then s
  else if o = 0x0C then s.modNse q (fun n => { n with low := v.setWidth 12 })
  else if o = 0x10 then
    tapeDoorbell s q ⟨fieldOf v.toNat 21 16 % 64, Nat.mod_lt _ (by decide)⟩ (v.setWidth 16)
  else if o = 0x14 then s.modNse q (fun n => { n with sel := v.setWidth 6 })
  else s

/-- FLN globals: FLN_LUN_CLR. -/
def writeFlnGlobal (s : State) (o : Nat) (v : Word) : State :=
  if o = 0x0C ∧ v.getLsbD 31 then
    lunClear s (mkLane (fieldOf v.toNat 7 5)) (fieldOf v.toNat 4 3) (fieldOf v.toNat 2 0)
  else s

/-- PWR globals. -/
def writePwrGlobal (s : State) (o : Nat) (v : Word) : State :=
  if o = 0x00 then pwrCtlWrite s v
  else if o = 0x0C then s.modPwr (fun p => { p with event := rw1c p.event (v.setWidth 9) })
  else if 0x20 ≤ o ∧ o < 0x50 ∧ o % 16 < 12 ∧ o % 4 = 0 then
    s.modPwr (fun p => { p with
      ilim := p.ilim.set ((3 * ((o - 0x20) / 16) + o % 16 / 4) % 9) (v.setWidth 16) (Nat.mod_lt _ (by decide)) })
  else if o = 0x70 then s.modPwr (fun p => { p with
    warn := v.setWidth 8, throttle := (v >>> 8).setWidth 8, boostMax := (v >>> 16).setWidth 8 })
  else if o = 0x84 then s.modPwr (fun p => { p with droopThresh := v.setWidth 7 })
  else if o = 0xA8 then s.modPwr (fun p => { p with wrap := p.wrap && !v.getLsbD 0 })
  else s

/-- A PWR set. -/
def writePwrSet (s : State) (q : PlotId) (o : Nat) (v : Word) : State :=
  if o = 0x08 then s.modPlot q (fun p => { p with pwr := { p.pwr with wrap := p.pwr.wrap && !v.getLsbD 0 } })
  else s

/-- HST globals. -/
def writeHstGlobal (s : State) (o : Nat) (v : Word) : State :=
  if o = 0x20 then ptmControl s v
  else if 0x50 ≤ o ∧ o < 0x64 ∧ o % 4 = 0 then
    { s with hst := { s.hst with rail := s.hst.rail.set (mkRail ((o - 0x50) / 4)) (v &&& 0x8000FF7F) } }
  else s

/-- SKT globals. -/
def writeSktGlobal (s : State) (f : Fn) (o : Nat) (v : Word) : State :=
  if o = 0x00 then portWrite s 0 v
  else if o = 0x04 then portWrite s 1 v
  else if o = 0x14 then s.modSkt (fun k => { k with token := v })
  else if o = 0x18 then
    let s := if v.getLsbD 0 then keyLoad s f else s
    if v.getLsbD 1 then keyClear s f else s
  else if 0x20 ≤ o ∧ o < 0x40 ∧ o % 4 = 0 then
    s.modSkt (fun k => { k with keyData := k.keyData.set ((o - 0x20) / 4 % 8) v (Nat.mod_lt _ (by decide)) })
  else s

/-- A global register is written by the PF. -/
def writeGlobal (s : State) (f : Fn) (b o : Nat) (v : Word) : State :=
  match b with
  | 0 => writeFrm s o v
  | 1 => writePltGlobal s o v
  | 2 => writeCfgGlobal s o v
  | 3 => writeMshGlobal s o v
  | 4 => writeAnlGlobal s o v
  | 5 => writeNseGlobal s o v
  | 9 => writeFlnGlobal s o v
  | 10 => writePwrGlobal s o v
  | 11 => writeHstGlobal s o v
  | 12 => writeSktGlobal s f o v
  | _ => s

/-- A register of a plot's set is written. -/
def writeSet (s : State) (f : Fn) (b : Nat) (q : PlotId) (o : Nat) (v : Word) : State :=
  match b with
  | 1 => writePltSet s f q o v
  | 2 => if o = 0x00 ∧ v.getLsbD 0 then revertFrom s f q else s
  | 3 => writeMshSet s f q o v
  | 4 => writeAnlSet s q o v
  | 5 => writeNseSet s q o v
  | 10 => writePwrSet s q o v
  | 14 => if o = 0x08 ∧ v.getLsbD 31 then attGoFrom s f q else s
  | _ => s

/-- A register, named by its PF offset, is written by a function (R8, R9, R14, R356): the state of RO and unassigned ones
stays. -/
def writeReg (s : State) (f : Fn) (a : Nat) (v : Word) : State :=
  match pairAt a with
  | some (false, base) => holdLow s f base v
  | some (true, base) => applyHigh s f base v
  | none =>
    match selMask a with
    | some m => setSel s f a m v
    | none =>
      match rwsAt a with
      | some (q, r) =>
        if h : q < 65 then (if rwsWritable f r then s.setShadow ⟨q, h⟩ r (v.toNat &&& r.mask) else s) else s
      | none =>
        match placeOf a with
        | .glob b o => if f = 0 then writeGlobal s f b o v else s
        | .set b q o => writeSet s f b q o v
        | .none => s

/-- The write-one-to-clear registers (Table 0-6). -/
def rw1cAt (a : Nat) : Bool :=
  match placeOf a with
  | .glob 0 o => o == 0x20
  | .glob 1 o => [0x00, 0x18, 0x1C, 0x20, 0x24].contains o
  | .glob 4 o => o == 0x08
  | .glob 10 o => o == 0x0C || o == 0xA8
  | .set 1 _ o => o == 0x38
  | .set 3 _ o => o == 0x04
  | .set 4 _ o => o == 0x0C
  | .set 10 _ o => o == 0x08
  | _ => false

/-- A 4-byte host write of BAR0. A write of 1 to a bit that hardware sets in the same cycle leaves the bit to hardware (R10). -/
def hostWriteWord (s : State) (f : Fn) (off : Nat) (v same : Word) : State :=
  hostGate s f (fun s =>
    if off % 4 ≠ 0 then discard s f true off 2
    else match msixAt f off with
    | some (pba, b) => if pba then s else msixWordWrite s f (b / 4) v.toNat
    | none => match regAt f off with
      | some a => writeReg s f a (if rw1cAt a then v &&& ~~~same else v)
      | none => s)

/-- An 8-byte host write of BAR0: served in an MSI-X table or PBA where it is aligned, discarded elsewhere (R295). -/
def hostWriteWide (s : State) (f : Fn) (off : Nat) (v : Word64) : State :=
  hostGate s f (fun s =>
    match msixAt f off with
    | some (pba, b) =>
      if off % 8 ≠ 0 then discard s f true off 2
      else if pba then s
      else msixWordWrite (msixWordWrite s f (b / 4) (v.toNat % 2 ^ 32)) f (b / 4 + 1) (v.toNat / 2 ^ 32)
    | none => discard s f true off 2)

/-- A write of a configuration field. -/
def configFrom (s : State) (f : Fn) (c : ConfigField) : State := cfgGate s f (fun s => configWriteFrom s f c)

/-- A host write without a row of its own. -/
def hostWriteAny (s : State) (f : Fn) : HostWrite → State
  | .reg off v same => hostWriteWord s f off.toNat v same
  | .wide off v => hostWriteWide s f off.toNat v
  | .config c => configFrom s f c

/-- The pair half a host write names, if it names one: LO or HI. -/
def pairOf (f : Fn) (off : Nat) : Option (Bool × Nat) :=
  if off % 4 ≠ 0 then none else (regAt f off).bind pairAt

/-! ### The rows -/

/-- REGISTER_WRITE (R9, R295, R297). -/
def execRegisterWrite (f : Fn) (w : HostWrite) (s : State) : Result := .next (hostWriteAny s f w)

/-- ACCESS_DISCARD (R7, R295, R296). -/
def execAccessDiscard (f : Fn) (write : Bool) (off : BitVec 24) (len : Fin 9) (enables : BitVec 8) (s : State) : Result :=
  .next (if write then hostPartialWrite s f off.toNat len.val enables else hostRead s f off.toNat len.val)

/-- POISONED_WRITE (R296, R299). -/
def execPoisonedWrite (f : Fn) (off : BitVec 24) (s : State) : Result :=
  .next (hostGate s f (fun s => (discard s f true off.toNat 3).aerError f 12))

/-- LO_READ_LATCH (R12). -/
def execLoReadLatch (f : Fn) (off : BitVec 24) (len : Fin 5) (s : State) : Result := .next (hostRead s f off.toNat len.val)

/-- LO_WRITE_HOLD (R14): a write of the LO half of a writable pair. -/
def execLoWriteHold (f : Fn) (off : BitVec 24) (v : Word) (s : State) : Result :=
  .next (hostGate s f (fun s => match pairOf f off.toNat with | some (false, base) => holdLow s f base v | _ => s))

/-- HI_WRITE_APPLY (R14): a write of the HI half of a writable pair. -/
def execHiWriteApply (f : Fn) (off : BitVec 24) (v : Word) (s : State) : Result :=
  .next (hostGate s f (fun s => match pairOf f off.toNat with | some (true, base) => applyHigh s f base v | _ => s))

/-- LOG_ACK_WRITE (R350): the PF writes both halves of LOG_ACK, LO and then HI; nothing of the pair is held afterwards (R14). -/
def execLogAckWrite (v : Word64) (s : State) : Result :=
  .next (hostGate s 0 (fun s => (logAck s v).modFn 0 (fun g => { g with held := assocDel g.held 0xD0008 })))

/-- LOG_LINE_LATCH (R352): a read of LOG_DATA[0] by a function that reaches it. -/
def execLogLineLatch (f : Fn) (s : State) : Result :=
  .next (if f = 0 then hostRead s 0 0xD0020 4 else hostGate s f (fun s => s))

end Sys2Proof.Machine
end

