-- ==== Sys2Proof/Machine/PowerUp.lean ====
section
/-!
DEFINITION. Sys2Proof/Machine/PowerUp.lean: device resets and start-up (R308 to R312, Table 2-6, Tables 12-10 and 12-11),
the VDD_AUX domain, the thermal trip (R282), the link, JTAG (R313, R314) and the SMBus target (R302, R303).
-/
namespace Sys2Proof.Machine

/-! ### Device resets (Table 2-6, R15, R339) -/

/-- Instructions that hold the device in reset (R314). -/
def JtagInstr.holds : JtagInstr → Bool
  | .extest | .clamp | .highz => true
  | _ => false

/-- PWR_CAP after reset by grade (Table 11-7). -/
def resetDev (f : FuseState) : DevRws := { cap := if f.gradeF then 180 else 250 }

/-- The frame block after reset. -/
def resetFrm (f : FuseState) : FrmState :=
  { shadow := resetDev f, snap := resetDev f, rws := resetDev f, frameDev := resetDev f }

/-- A device reset: every register, plot memory, the log and the bit-stream return to reset. What stays is the VDD_AUX
domain, the fuses, the pins, and the model's own records. -/
def wiped (s : State) : State :=
  let cut := fuseCut s
  { pending := s.pending, boot := { s.boot with phase := .held, readyAt := 0, startAt := 0 }, aux := s.aux, fuses := cut.fuses,
    frm := resetFrm s.fuses, pwr := { fixedFreq := s.fuses.gradeF, fclk := s.fuses.nominal },
    skt := { cages := s.skt.cages.map (fun c => { los := c.los, modAbs := c.modAbs }) },
    out := s.out, resp := s.resp, free := cut.free }

/-! ### The boot epoch (R311, R312) -/

/-- The first fuse from `k` on that has never failed. -/
def nextFuse : Nat → List Nat → Nat → Nat
  | 0, _, k => k
  | n + 1, failed, k => if failed.contains k then nextFuse n failed (k + 1) else k

/-- The fuse an epoch step tries next, none past the last of 4,096. -/
def FuseState.candidate (f : FuseState) : Option Nat :=
  let k := nextFuse f.failed.length f.failed (f.epoch + 1)
  if k ≤ 4096 then some k else none

/-- Up to `n` fuses are tried, with the read-backs they give (one not given succeeds): the fuses after it and the STATE,
0 OK, 1 EXHAUSTED, 2 FAIL. -/
def tryFuses : Nat → FuseState → List Bool → FuseState × BitVec 2
  | 0, f, _ => (f, 2)
  | n + 1, f, rb =>
    match f.candidate with
    | none => (f, 1)
    | some k =>
      if rb.headD true then ({ f with blown := k :: f.blown }, 0)
      else tryFuses n { f with failed := k :: f.failed } rb.tail

/-- A start-up begins: a cold boot takes its epoch step, empties the record sequences and lets go of K; a further reset may
interrupt the step. The step ends at a free instant after 120 µs and up to 320 µs from the start event (Table 12-10); until
then HST_EPOCH holds its old word (DESIGN CHOICE on when, log entry 238). -/
def bootFrom (s : State) (e : EpochRun) : State :=
  let s := { s with boot := { s.boot with
    phase := .clearing, startAt := s.boot.tclk, epochWas := BitVec.ofNat 32 (hstEpoch s), epochAt := s.boot.tclk } }
  if !s.aux.coldFlag then s
  else
    let f := s.takeFree
    let s := f.2
    let s := { s with boot := { s.boot with epochAt := s.boot.tclk + 12001 + f.1.toNat % 20000 } }
    let s := { s with aux := { s.aux with pseq := Vector.replicate 65 0, key := none, keyFail := false } }
    match e with
    | .interrupted blown =>
      let fuses := match s.fuses.candidate with
        | some k => if blown then { s.fuses with blown := k :: s.fuses.blown } else s.fuses
        | none => s.fuses
      { s with fuses := fuses, boot := { s.boot with phase := .fusing } }
    | .runs rb =>
      let r := if 4096 ≤ s.fuses.epoch then (s.fuses, 1) else tryFuses 3 s.fuses rb
      { s with fuses := r.1, aux := { s.aux with epochState := r.2, coldFlag := false } }

/-- A start event: PWR_OK high and no JTAG instruction holding the device (R309, R314). -/
def startUp (s : State) (e : EpochRun) : State :=
  if s.aux.on && s.boot.pwrOk && !s.boot.jtag.holds then bootFrom s e else s

/-- A device reset of Table 12-11 while PWR_OK is high. -/
def resetFor (s : State) (cause : BitVec 4) (e : EpochRun) : State :=
  let s := wiped s
  startUp { s with aux := { s.aux with cause := cause } } e

/-! ### PWR_OK, PERST_N, the link (R308, R310, R311) -/

/-- PWR_OK rises. -/
def pwrOkRises (s : State) (e : EpochRun) : State :=
  if !s.aux.on || s.boot.pwrOk then s
  else
    let cause : BitVec 4 := if s.aux.risen then 2 else 1
    resetFor { s with boot := { s.boot with pwrOk := true }, aux := { s.aux with risen := true } } cause e

/-- PWR_OK falls: a device reset at once. -/
def pwrOkFalls (s : State) : State :=
  if s.boot.pwrOk then
    let s := wiped s
    { s with boot := { s.boot with pwrOk := false } }
  else s

/-- PERST_N is asserted. -/
def perstOn (s : State) (e : EpochRun) : State :=
  if !s.aux.on || s.boot.perst then s
  else
    let s := { s with boot := { s.boot with perst := true } }
    if s.boot.pwrOk then resetFor s 3 e else s

/-- PERST_N is deasserted. -/
def perstOff (s : State) : State := { s with boot := { s.boot with perst := false } }

/-- Hot Reset or link down, while the link is up. -/
def linkReset (s : State) (cause : BitVec 4) (e : EpochRun) : State := if s.hst.linkUp then resetFor s cause e else s

/-- Link training completes, at the earliest 200 µs after the start event (R310). -/
def linkTrains (s : State) (speed : Fin 6) (width : Fin 17) : State :=
  if !s.boot.pwrOk || s.boot.phase == .held || s.boot.perst || s.hst.linkUp || speed == 0 ||
      !([1, 2, 4, 8, 16].contains width.val) then s
  else
    let s := s.advanceTo (s.boot.startAt + 20000)
    { s with hst := { s.hst with linkUp := true, speed := BitVec.ofNat 3 speed.val, width := BitVec.ofNat 5 width.val } }

/-! ### The start-up timeline (Table 12-10) -/

/-- Memory initialisation is complete: 1,700 µs from the start event. -/
def memoryReady (s : State) : State :=
  if s.boot.phase = .clearing then
    let s := s.advanceTo (s.boot.startAt + 170000)
    { s with boot := { s.boot with phase := .cleared } }
  else s

/-- Stop conditions that still hold at ready arise anew (R346): plots first, then the device. -/
def renewStops (s : State) : State :=
  let s := s.eachPlot tenantPlots (fun s p => if s.aux.pseq[p] = BitVec.allOnes 64 then stopPlotSigning s p else s)
  let s := if s.aux.epochState = 1 then stopSigning s 1 else if s.aux.epochState = 2 then stopSigning s 2 else s
  if s.aux.keyFail then stopSigning s 4 else s

/-- Ready (R309): 1.8 ms from the start event frame 0 begins, the BOOT line is written and the PMBus work starts. -/
def becomeReady (s : State) : State :=
  if s.boot.phase = .cleared then
    let s := s.advanceTo (s.boot.startAt + 180000)
    let now := s.boot.tclk
    let s := { s with boot := { s.boot with phase := .ready, readyAt := now } }.modFrm (fun x => { x with tickAt := now })
    let s := s.logLine 0x01 noPlot none s.aux.cause.toNat (hstEpoch s)
    let s := pmbusStart (renewStops s)
    if s.boot.vrAlert then vrAlertReport s else s
  else s

/-- No whole key 100 ms after ready (R341): KEY_FAIL. -/
def keyTimeout (s : State) : State :=
  if s.isReady && s.aux.key.isNone && !s.aux.keyFail then
    let s := s.advanceTo (s.boot.readyAt + 10000000)
    stopSigning { s with aux := { s.aux with keyFail := true } } 4
  else s

/-! ### The thermal trip and VDD_AUX (R282, R303, R311) -/

/-- A sensor reads 115 °C or more: THERMTRIP_N asserts, PWR_TRIP records the sensor, work is lost as at a device reset. A
trip that is held already stays as it is until VDD_AUX falls. -/
def tripOn (s : State) (i : Fin 48) : State :=
  if trips s i then
    let w : Word := BitVec.ofNat 32 (2 ^ 31 + 65536 * i.val + unsigned 12 s.pwr.sens[i].temp)
    let s := wiped s
    { s with aux := { s.aux with trip := if s.aux.trip.getLsbD 31 then s.aux.trip else w, thermTrip := true } }
  else s

/-- VDD_AUX becomes valid. -/
def auxOn (s : State) (strap : Fin 4) : State :=
  if s.aux.on then s
  else { s with aux := { on := true, since := s.boot.tclk, strap := strap }, boot := { s.boot with jtag := .idcode } }

/-- VDD_AUX falls: its domain's state is lost. -/
def auxOff (s : State) : State :=
  if s.aux.on then
    let s := wiped s
    { s with aux := { on := false }, boot := { s.boot with pwrOk := false, jtag := .idcode } }
  else s

/-! ### JTAG (R313, R314) -/

/-- The instruction an opcode selects (Table 12-12). -/
def jtagOf (op : Byte) : JtagInstr :=
  if op = 0x00 then .extest else if op = 0x01 then .idcode else if op = 0x02 then .samplePreload
  else if op = 0x04 then .clamp else if op = 0x05 then .highz else .bypass

/-- An instruction becomes current: it may hold the device in reset, or let it go into a start-up with cause JTAG. -/
def jtagSelect (s : State) (i : JtagInstr) (e : EpochRun) : State :=
  if !s.aux.on then s
  else
    let was := s.boot.jtag.holds
    let s := { s with boot := { s.boot with jtag := i } }
    if i.holds then wiped s
    else if was && s.boot.pwrOk then resetFor s 6 e
    else s

/-- The 32-bit identification register (Table 12-12). -/
def jtagId (f : FuseState) : Nat :=
  2 ^ 28 * b2n f.revB1 + 2 ^ 12 * (if f.gradeF then 0x0A71 else 0x0A70) + 2 * 0x2E5 + 1

/-- IDCODE, and the identification register that is shifted out. -/
def jtagIdentify (s : State) (e : EpochRun) : State :=
  if !s.aux.on then s else { jtagSelect s .idcode e with resp := { data := jtagId s.fuses } }

/-- SAMPLE/PRELOAD, and the boundary-scan register that is shifted out: the spec gives no cell order, a free value. -/
def jtagSample (s : State) (e : EpochRun) : State :=
  if !s.aux.on then s
  else
    let r := (jtagSelect s .samplePreload e).takeFree
    { r.2 with resp := { data := r.1.toNat } }

/-- EXTEST, CLAMP or HIGHZ is left: for Test-Logic-Reset (IDCODE), or by the update of another instruction. -/
def jtagLeave (s : State) (e : EpochRun) (next : Option Byte) : State :=
  if s.boot.jtag.holds then jtagSelect s (match next with | none => .idcode | some op => jtagOf op) e else s

/-! ### The SMBus target (R302, R303) -/

/-- One bit of CRC-8 with polynomial x^8 + x^2 + x + 1 (SMBus 2.0, PEC). -/
def crc8Bit (c : Byte) : Byte := if c.getLsbD 7 then (c <<< 1) ^^^ 0x07 else c <<< 1

/-- One byte of CRC-8. -/
def crc8Byte (c b : Byte) : Byte :=
  crc8Bit (crc8Bit (crc8Bit (crc8Bit (crc8Bit (crc8Bit (crc8Bit (crc8Bit (c ^^^ b))))))))

/-- The PEC of a transfer: CRC-8 over all its bytes, addresses with their read or write bit included (R302). -/
def pecOf (l : List Byte) : Byte := l.foldl crc8Byte 0

/-- The SMBus address of the target: 0x58 + SMB_ADDR (R302). -/
def State.smbAddress (s : State) : BitVec 7 := BitVec.ofNat 7 (0x58 + s.aux.strap.val)

/-- Does the target answer: at its address, from 10 ms after VDD_AUX became valid (R302, R303)? -/
def State.smbAnswers (s : State) (x : SmbXfer) : Bool :=
  s.aux.on && decide (s.aux.since + 1000000 ≤ s.boot.tclk) && x.addr == s.smbAddress

/-- The bytes of an address as they stand on the bus before a write and before a read. -/
def smbWriteByte (a : BitVec 7) : Byte := BitVec.ofNat 8 (2 * a.toNat)
def smbReadByte (a : BitVec 7) : Byte := BitVec.ofNat 8 (2 * a.toNat + 1)

/-- A transfer that is answered is counted as served; any other address or time is not acknowledged. -/
def smbServe (s : State) (x : SmbXfer) (k : State → State × Response) : State :=
  if s.smbAnswers x then
    let r := k s
    { r.1 with resp := r.2, hst := { r.1.hst with smbXfers := satInc r.1.hst.smbXfers } }
  else { s with resp := { error := true } }

/-- A read of `n` bytes under a command code, as byte and word reads or as a block read, which gives its length first; the PEC
follows where the host clocks it (Table 12-7, R302). -/
def smbRead (s : State) (x : SmbXfer) (code n : Nat) (block : Bool) (v : State → State × Nat) : State :=
  smbServe s x (fun s =>
    let r := v s
    let bytes := (if block then [BitVec.ofNat 8 n] else []) ++ leBytes n r.2
    (r.1, { data := r.2 % 2 ^ (8 * n),
            pec := if x.pec then some (pecOf ([smbWriteByte x.addr, BitVec.ofNat 8 code, smbReadByte x.addr] ++ bytes)) else none }))

/-- A value that SMBus returns as 0 until ready (R303). -/
def smbValue (v : State → Nat) (s : State) : State × Nat := (s, if s.isReady then v s else 0)

/-- Signing is stopped for some reason (R346). -/
def State.signingStopped (s : State) : Bool := !(s.att.stop == 0) || s.att.sets.toList.any (fun a => !(a.stop == 0))

/-- The STATUS byte (Table 12-7). -/
def smbStatusByte (s : State) : Nat :=
  flagBits [s.isReady, s.aux.trip.getLsbD 31, s.pwr.lowest, s.hst.linkUp, s.boot.vrAlert, s.signingStopped]

/-- TEMP: the hottest reading as a signed 16-bit word. -/
def smbTempWord (s : State) : Nat := match hottest s.pwr with | some h => unsigned 16 h.2 | none => 0

/-- HST_EPOCH as IDENT shows it: its old word until the epoch step has ended. -/
def epochNow (s : State) : Nat := if s.boot.tclk < s.boot.epochAt then s.boot.epochWas.toNat else hstEpoch s

/-- IDENT: HST_ID, then HST_EPOCH, from 120 µs after the start event; before that a free value. -/
def smbIdentity (s : State) : State × Nat :=
  if s.boot.phase != .held && decide (s.boot.startAt + 12000 ≤ s.boot.tclk) then
    (s, hstId s.fuses + 2 ^ 32 * epochNow s)
  else (s.takeFree.2, s.takeFree.1.toNat)

/-- REG_ADDR is written, or read. A block write whose PEC is wrong is discarded and counted. -/
def smbRegAddress (s : State) (x : SmbXfer) (write : Option (Word × Option Byte)) : State :=
  match write with
  | none => smbRead s x 0x10 4 true (smbValue (fun s => s.hst.smbAddr.toNat))
  | some (w, pec) =>
    let right := pecOf ([smbWriteByte x.addr, 0x10, 4] ++ leBytes 4 w.toNat)
    if s.smbAnswers x && pec.any (fun p => p != right) then
      { s with resp := { error := true }, hst := { s.hst with smbPec := satInc s.hst.smbPec } }
    else smbServe s x (fun s => ({ s with hst := { s.hst with smbAddr := w } }, {}))

/-- The register at REG_ADDR as a PF read returns it, with latches of the target's own (R302); a free value at an address
that is no multiple of 4 (Table 12-7). -/
def smbRegister (s : State) : State × Nat :=
  let a := s.hst.smbAddr.toNat
  if !s.isReady then (s, 0)
  else if a % 4 ≠ 0 then (s.takeFree.2, s.takeFree.1.toNat % 2 ^ 32)
  else match msixAt 0 a with
  | some (pba, b) => (s, regionWord s 0 pba b)
  | none =>
    match regAt 0 a with
    | none => (s, 0)
    | some a =>
      if openValue s 0 a then (s.takeFree.2, s.takeFree.1.toNat % 2 ^ 32)
      else
        let r := latchedRead s 0 s.hst.smbLatches a
        ({ s with hst := { s.hst with smbLatches := r.2 } }, r.1)

/-! ### The rows -/

/-- THERMAL_TRIP (R282). -/
def execThermalTrip (sensor : Fin 48) (s : State) : Result := .next (tripOn s sensor)

/-- PWR_OK_RISE (R309). -/
def execPwrOkRise (e : EpochRun) (s : State) : Result := .next (pwrOkRises s e)

/-- MEMORY_INIT_DONE (R309). -/
def execMemoryInitDone (s : State) : Result := .next (memoryReady s)

/-- READY (R309). -/
def execReady (s : State) : Result := .next (becomeReady s)

/-- TAG_KEY_TIMEOUT (R341). -/
def execTagKeyTimeout (s : State) : Result := .next (keyTimeout s)

/-- PWR_OK_FALL (R308). -/
def execPwrOkFall (s : State) : Result := .next (pwrOkFalls s)

/-- PERST_ASSERT (Table 12-11). -/
def execPerstAssert (e : EpochRun) (s : State) : Result := .next (perstOn s e)

/-- PERST_DEASSERT (R310). -/
def execPerstDeassert (s : State) : Result := .next (perstOff s)

/-- HOT_RESET (Table 12-11). -/
def execHotReset (e : EpochRun) (s : State) : Result := .next (linkReset s 4 e)

/-- LINK_DOWN (Table 12-11). -/
def execLinkDown (e : EpochRun) (s : State) : Result := .next (linkReset s 5 e)

/-- LINK_UP (R310). -/
def execLinkUp (speed : Fin 6) (width : Fin 17) (s : State) : Result := .next (linkTrains s speed width)

/-- VDD_AUX_POWER_ON (R303, R311). -/
def execVddAuxPowerOn (strap : Fin 4) (s : State) : Result := .next (auxOn s strap)

/-- VDD_AUX_LOSS (R282, R311). -/
def execVddAuxLoss (s : State) : Result := .next (auxOff s)

/-- SMB_STATUS (Table 12-7). -/
def execSmbStatus (x : SmbXfer) (s : State) : Result := .next (smbRead s x 0x00 1 false (fun s => (s, smbStatusByte s)))

/-- SMB_TEMP. -/
def execSmbTemp (x : SmbXfer) (s : State) : Result := .next (smbRead s x 0x01 2 false (smbValue smbTempWord))

/-- SMB_POWER. -/
def execSmbPower (x : SmbXfer) (s : State) : Result :=
  .next (smbRead s x 0x02 2 false (smbValue (fun s => (powerWord s.pwr).2)))

/-- SMB_CAP: the committed PWR_CAP. -/
def execSmbCap (x : SmbXfer) (s : State) : Result :=
  .next (smbRead s x 0x03 2 false (smbValue (fun s => s.frm.rws.cap.toNat)))

/-- SMB_TRIP. -/
def execSmbTrip (x : SmbXfer) (s : State) : Result := .next (smbRead s x 0x04 4 true (fun s => (s, s.aux.trip.toNat)))

/-- SMB_IDENT. -/
def execSmbIdent (x : SmbXfer) (s : State) : Result := .next (smbRead s x 0x05 8 true smbIdentity)

/-- SMB_RESET_CAUSE. -/
def execSmbResetCause (x : SmbXfer) (s : State) : Result :=
  .next (smbRead s x 0x06 1 false (smbValue (fun s => s.aux.cause.toNat)))

/-- SMB_REG_ADDR. -/
def execSmbRegAddr (x : SmbXfer) (write : Option (Word × Option Byte)) (s : State) : Result := .next (smbRegAddress s x write)

/-- SMB_REG_DATA. -/
def execSmbRegData (x : SmbXfer) (s : State) : Result := .next (smbRead s x 0x11 4 true smbRegister)

/-- JTAG_EXTEST (R314). -/
def execJtagExtest (s : State) : Result := .next (jtagSelect s .extest (.runs []))

/-- JTAG_IDCODE (R313). -/
def execJtagIdcode (e : EpochRun) (s : State) : Result := .next (jtagIdentify s e)

/-- JTAG_SAMPLE_PRELOAD (R313). -/
def execJtagSamplePreload (e : EpochRun) (s : State) : Result := .next (jtagSample s e)

/-- JTAG_CLAMP (R314). -/
def execJtagClamp (s : State) : Result := .next (jtagSelect s .clamp (.runs []))

/-- JTAG_HIGHZ (R314). -/
def execJtagHighz (s : State) : Result := .next (jtagSelect s .highz (.runs []))

/-- JTAG_BYPASS (R313): BYPASS or an opcode outside Table 12-12. -/
def execJtagBypass (opcode : Byte) (e : EpochRun) (s : State) : Result :=
  .next (if jtagOf opcode = .bypass then jtagSelect s .bypass e else s)

/-- JTAG_RESET_EXIT (R314, Table 12-11). -/
def execJtagResetExit (e : EpochRun) (next : Option Byte) (s : State) : Result := .next (jtagLeave s e next)

end Sys2Proof.Machine
end

