-- ==== Sys2Proof/Machine/Dispatch.lean ====
section
/-!
DEFINITION. Sys2Proof/Machine/Dispatch.lean: the meaning of every command, one arm per row of spec/opcode_table.json.
-/
namespace Sys2Proof.Machine

/-- The effect of a command on everything but the queue. -/
def exec (i : Instr) (s : State) : Host.Outcome State Fault Refusal :=
  match i with
  | .registerWrite f w => Sys2Proof.Machine.execRegisterWrite f w s
  | .accessDiscard f write off len enables => Sys2Proof.Machine.execAccessDiscard f write off len enables s
  | .poisonedWrite f off => Sys2Proof.Machine.execPoisonedWrite f off s
  | .loReadLatch f off len => Sys2Proof.Machine.execLoReadLatch f off len s
  | .loWriteHold f off v => Sys2Proof.Machine.execLoWriteHold f off v s
  | .hiWriteApply f off v => Sys2Proof.Machine.execHiWriteApply f off v s
  | .tick => Sys2Proof.Machine.execTick s
  | .commitWindowOpen r => Sys2Proof.Machine.execCommitWindowOpen r s
  | .budgetOverrun q idx claim => Sys2Proof.Machine.execBudgetOverrun q idx claim s
  | .abandonmentComplete q idx => Sys2Proof.Machine.execAbandonmentComplete q idx s
  | .ppsEdge wait rising => Sys2Proof.Machine.execPpsEdge wait rising s
  | .ppsEdgeMissing => Sys2Proof.Machine.execPpsEdgeMissing s
  | .plantWindowClose => Sys2Proof.Machine.execPlantWindowClose s
  | .plantAcqTimeout => Sys2Proof.Machine.execPlantAcqTimeout s
  | .tickHoldoffTimeout unprepared => Sys2Proof.Machine.execTickHoldoffTimeout unprepared s
  | .frmCtlWrite v => Sys2Proof.Machine.execFrmCtlWrite v s
  | .sqTailWrite f q v => Sys2Proof.Machine.execSqTailWrite f q v s
  | .cqHeadWrite f q v => Sys2Proof.Machine.execCqHeadWrite f q v s
  | .descriptorFetch q r => Sys2Proof.Machine.execDescriptorFetch q r s
  | .imageFetch q r ops => Sys2Proof.Machine.execImageFetch q r ops s
  | .plotEnableWrite q en pfFaultEn => Sys2Proof.Machine.execPlotEnableWrite q en pfFaultEn s
  | .plotReset f q => Sys2Proof.Machine.execPlotReset f q s
  | .cancelAll f q => Sys2Proof.Machine.execCancelAll f q s
  | .stopEnd q => Sys2Proof.Machine.execStopEnd q s
  | .clearingEnd q => Sys2Proof.Machine.execClearingEnd q s
  | .irqMaskWrite f q v => Sys2Proof.Machine.execIrqMaskWrite f q v s
  | .busMasterEnableWrite f on => Sys2Proof.Machine.execBusMasterEnableWrite f on s
  | .vfEnableClear => Sys2Proof.Machine.execVfEnableClear s
  | .vfFlr p => Sys2Proof.Machine.execVfFlr p s
  | .pfFlr => Sys2Proof.Machine.execPfFlr s
  | .hostWriteLoss q user => Sys2Proof.Machine.execHostWriteLoss q user s
  | .hostReadError q user kind => Sys2Proof.Machine.execHostReadError q user kind s
  | .unsupportedRequest f e => Sys2Proof.Machine.execUnsupportedRequest f e s
  | .cfgLoad abort arm => Sys2Proof.Machine.execCfgLoad abort arm s
  | .cfgAbort arm => Sys2Proof.Machine.execCfgAbort arm s
  | .cfgArm arm => Sys2Proof.Machine.execCfgArm arm s
  | .loadFetchComplete r => Sys2Proof.Machine.execLoadFetchComplete r s
  | .loadVerifyComplete => Sys2Proof.Machine.execLoadVerifyComplete s
  | .stagingComplete => Sys2Proof.Machine.execStagingComplete s
  | .bundleWaitExpire => Sys2Proof.Machine.execBundleWaitExpire s
  | .revert f q => Sys2Proof.Machine.execRevert f q s
  | .fuseProgram key slot => Sys2Proof.Machine.execFuseProgram key slot s
  | .fuseRevoke key slot => Sys2Proof.Machine.execFuseRevoke key slot s
  | .fuseLock key => Sys2Proof.Machine.execFuseLock key s
  | .fuseOpComplete => Sys2Proof.Machine.execFuseOpComplete s
  | .retriedMulticastLaunch q idx entry flits => Sys2Proof.Machine.execRetriedMulticastLaunch q idx entry flits s
  | .multicastAckNack src q entry target ack => Sys2Proof.Machine.execMulticastAckNack src q entry target ack s
  | .multicastReady src q entry target => Sys2Proof.Machine.execMulticastReady src q entry target s
  | .multicastTimeout src q entry => Sys2Proof.Machine.execMulticastTimeout src q entry s
  | .creditReservation q idx entry step => Sys2Proof.Machine.execCreditReservation q idx entry step s
  | .mergedRead q addr readers single uncorrectable => Sys2Proof.Machine.execMergedRead q addr readers single uncorrectable s
  | .homePageFirstWrite q idx node addr data => Sys2Proof.Machine.execHomePageFirstWrite q idx node addr data s
  | .writeCopyComplete q idx page => Sys2Proof.Machine.execWriteCopyComplete q idx page s
  | .backedPageMiss q idx node addr => Sys2Proof.Machine.execBackedPageMiss q idx node addr s
  | .pageInRequest q idx node addr => Sys2Proof.Machine.execPageInRequest q idx node addr s
  | .pageInComplete q page => Sys2Proof.Machine.execPageInComplete q page s
  | .patrolScrub addr single uncorrectable pass => Sys2Proof.Machine.execPatrolScrub addr single uncorrectable pass s
  | .linkCrcFail router owner failures => Sys2Proof.Machine.execLinkCrcFail router owner failures s
  | .pcacheWrite q v => Sys2Proof.Machine.execPcacheWrite q v s
  | .frameZeroingDone q => Sys2Proof.Machine.execFrameZeroingDone q s
  | .annealInitialPass q idx => Sys2Proof.Machine.execAnnealInitialPass q idx s
  | .annealRunStart q idx sweeps bearing => Sys2Proof.Machine.execAnnealRunStart q idx sweeps bearing s
  | .flipSlot q idx => Sys2Proof.Machine.execFlipSlot q idx s
  | .sweepComplete q idx => Sys2Proof.Machine.execSweepComplete q idx s
  | .energyAudit q idx hardwareError => Sys2Proof.Machine.execEnergyAudit q idx hardwareError s
  | .stallWindowEnd q idx => Sys2Proof.Machine.execStallWindowEnd q idx s
  | .bearingPeriodEnd q idx => Sys2Proof.Machine.execBearingPeriodEnd q idx s
  | .annealRunEnd q idx => Sys2Proof.Machine.execAnnealRunEnd q idx s
  | .wellHealthFail source apt => Sys2Proof.Machine.execWellHealthFail source apt s
  | .startupTestPass source => Sys2Proof.Machine.execStartupTestPass source s
  | .wellRetry f t => Sys2Proof.Machine.execWellRetry f t s
  | .deepWellRetry f channel => Sys2Proof.Machine.execDeepWellRetry f channel s
  | .deepWellDrawStart t => Sys2Proof.Machine.execDeepWellDrawStart t s
  | .deepWellBlock => Sys2Proof.Machine.execDeepWellBlock s
  | .rngRequest f q blocks => Sys2Proof.Machine.execRngRequest f q blocks s
  | .rngWindowExpire q => Sys2Proof.Machine.execRngWindowExpire q s
  | .tapeDoorbell f q tile index => Sys2Proof.Machine.execTapeDoorbell f q tile index s
  | .tapeSegmentArrival q tile r => Sys2Proof.Machine.execTapeSegmentArrival q tile r s
  | .tapeRecordWrite q tile => Sys2Proof.Machine.execTapeRecordWrite q tile s
  | .graftFullPass q idx => Sys2Proof.Machine.execGraftFullPass q idx s
  | .graftSelect q idx cluster => Sys2Proof.Machine.execGraftSelect q idx cluster s
  | .graftStage q idx => Sys2Proof.Machine.execGraftStage q idx s
  | .graftPass q idx => Sys2Proof.Machine.execGraftPass q idx s
  | .graftHarvest q idx => Sys2Proof.Machine.execGraftHarvest q idx s
  | .graftFullAudit q idx => Sys2Proof.Machine.execGraftFullAudit q idx s
  | .mxeOperationStart q idx engine op => Sys2Proof.Machine.execMxeOperationStart q idx engine op s
  | .bankSwap engine stall => Sys2Proof.Machine.execBankSwap engine stall s
  | .partialTileReceive engine => Sys2Proof.Machine.execPartialTileReceive engine s
  | .helperCallStart cluster ready => Sys2Proof.Machine.execHelperCallStart cluster ready s
  | .helperCallEnd cluster e => Sys2Proof.Machine.execHelperCallEnd cluster e s
  | .qceCallStart engine ready => Sys2Proof.Machine.execQceCallStart engine ready s
  | .qcePass1 engine => Sys2Proof.Machine.execQcePass1 engine s
  | .qcePass2 engine => Sys2Proof.Machine.execQcePass2 engine s
  | .laneInitDone lane => Sys2Proof.Machine.execLaneInitDone lane s
  | .queryStart q idx addr => Sys2Proof.Machine.execQueryStart q idx addr s
  | .queryPartStart q idx query lane => Sys2Proof.Machine.execQueryPartStart q idx query lane s
  | .flashPageReady lane ce lun block page r => Sys2Proof.Machine.execFlashPageReady lane ce lun block page r s
  | .laneClaimPark q idx lane => Sys2Proof.Machine.execLaneClaimPark q idx lane s
  | .queryDeadlineReached q idx query lane => Sys2Proof.Machine.execQueryDeadlineReached q idx query lane s
  | .queryResultMerge q idx query => Sys2Proof.Machine.execQueryResultMerge q idx query s
  | .sideAppend q idx index addr count => Sys2Proof.Machine.execSideAppend q idx index addr count s
  | .genWrite q idx index sector addr count flush => Sys2Proof.Machine.execGenWrite q idx index sector addr count flush s
  | .genMerge q idx index sector addr count flush => Sys2Proof.Machine.execGenMerge q idx index sector addr count flush s
  | .lunReadyTimeout lane ce lun block page => Sys2Proof.Machine.execLunReadyTimeout lane ce lun block page s
  | .programEraseComplete lane ce lun fail => Sys2Proof.Machine.execProgramEraseComplete lane ce lun fail s
  | .programEraseTimeout lane ce lun => Sys2Proof.Machine.execProgramEraseTimeout lane ce lun s
  | .lunClr lane ce lun => Sys2Proof.Machine.execLunClr lane ce lun s
  | .powerSample x => Sys2Proof.Machine.execPowerSample x s
  | .currentLimiterEval rail window => Sys2Proof.Machine.execCurrentLimiterEval rail window s
  | .capLimiterEval => Sys2Proof.Machine.execCapLimiterEval s
  | .calibrationRead rail reading => Sys2Proof.Machine.execCalibrationRead rail reading s
  | .calibrationLost rail => Sys2Proof.Machine.execCalibrationLost rail s
  | .voltageBandEval => Sys2Proof.Machine.execVoltageBandEval s
  | .ageingTrimStep pass8 fail4 => Sys2Proof.Machine.execAgeingTrimStep pass8 fail4 s
  | .boostCheck => Sys2Proof.Machine.execBoostCheck s
  | .fixedFreqWrite f v => Sys2Proof.Machine.execFixedFreqWrite f v s
  | .droopCrossing depth => Sys2Proof.Machine.execDroopCrossing depth s
  | .droopPersist => Sys2Proof.Machine.execDroopPersist s
  | .vrAlert => Sys2Proof.Machine.execVrAlert s
  | .lowestStateExit => Sys2Proof.Machine.execLowestStateExit s
  | .thermalSample temps => Sys2Proof.Machine.execThermalSample temps s
  | .thermalLimitUpdate => Sys2Proof.Machine.execThermalLimitUpdate s
  | .thermalTrip sensor => Sys2Proof.Machine.execThermalTrip sensor s
  | .pmbusTransaction answer => Sys2Proof.Machine.execPmbusTransaction answer s
  | .pwrOkRise e => Sys2Proof.Machine.execPwrOkRise e s
  | .memoryInitDone => Sys2Proof.Machine.execMemoryInitDone s
  | .ready => Sys2Proof.Machine.execReady s
  | .tagKeyTimeout => Sys2Proof.Machine.execTagKeyTimeout s
  | .pwrOkFall => Sys2Proof.Machine.execPwrOkFall s
  | .perstAssert e => Sys2Proof.Machine.execPerstAssert e s
  | .perstDeassert => Sys2Proof.Machine.execPerstDeassert s
  | .hotReset e => Sys2Proof.Machine.execHotReset e s
  | .linkDown e => Sys2Proof.Machine.execLinkDown e s
  | .pfD3hotEnter => Sys2Proof.Machine.execPfD3hotEnter s
  | .pfD0Return => Sys2Proof.Machine.execPfD0Return s
  | .vfD3hotEnter p => Sys2Proof.Machine.execVfD3hotEnter p s
  | .msixEnableWrite f en mask => Sys2Proof.Machine.execMsixEnableWrite f en mask s
  | .msixVectorUnmask f vec => Sys2Proof.Machine.execMsixVectorUnmask f vec s
  | .ptmGo v => Sys2Proof.Machine.execPtmGo v s
  | .ptmAutoTimer => Sys2Proof.Machine.execPtmAutoTimer s
  | .ptmResponse wait master prop => Sys2Proof.Machine.execPtmResponse wait master prop s
  | .ptmNoResponse => Sys2Proof.Machine.execPtmNoResponse s
  | .smbStatus x => Sys2Proof.Machine.execSmbStatus x s
  | .smbTemp x => Sys2Proof.Machine.execSmbTemp x s
  | .smbPower x => Sys2Proof.Machine.execSmbPower x s
  | .smbCap x => Sys2Proof.Machine.execSmbCap x s
  | .smbTrip x => Sys2Proof.Machine.execSmbTrip x s
  | .smbIdent x => Sys2Proof.Machine.execSmbIdent x s
  | .smbResetCause x => Sys2Proof.Machine.execSmbResetCause x s
  | .smbRegAddr x write => Sys2Proof.Machine.execSmbRegAddr x write s
  | .smbRegData x => Sys2Proof.Machine.execSmbRegData x s
  | .jtagExtest => Sys2Proof.Machine.execJtagExtest s
  | .jtagIdcode e => Sys2Proof.Machine.execJtagIdcode e s
  | .jtagSamplePreload e => Sys2Proof.Machine.execJtagSamplePreload e s
  | .jtagClamp => Sys2Proof.Machine.execJtagClamp s
  | .jtagHighz => Sys2Proof.Machine.execJtagHighz s
  | .jtagBypass opcode e => Sys2Proof.Machine.execJtagBypass opcode e s
  | .jtagResetExit e next => Sys2Proof.Machine.execJtagResetExit e next s
  | .skoetFrameReceive cage pcs frame => Sys2Proof.Machine.execSkoetFrameReceive cage pcs frame s
  | .messageCheckComplete => Sys2Proof.Machine.execMessageCheckComplete s
  | .sktKeyLoad f => Sys2Proof.Machine.execSktKeyLoad f s
  | .sktKeyClear f => Sys2Proof.Machine.execSktKeyClear f s
  | .portModeWrite f cage v => Sys2Proof.Machine.execPortModeWrite f cage v s
  | .portLossOfLock cage los modAbs => Sys2Proof.Machine.execPortLossOfLock cage los modAbs s
  | .attRequest f q => Sys2Proof.Machine.execAttRequest f q s
  | .attReportDone q request written => Sys2Proof.Machine.execAttReportDone q request written s
  | .logAckWrite v => Sys2Proof.Machine.execLogAckWrite v s
  | .logLineLatch f => Sys2Proof.Machine.execLogLineLatch f s
  | .vddAuxPowerOn strap => Sys2Proof.Machine.execVddAuxPowerOn strap s
  | .vddAuxLoss => Sys2Proof.Machine.execVddAuxLoss s
  | .linkUp speed width => Sys2Proof.Machine.execLinkUp speed width s
  | .vfD0Return p => Sys2Proof.Machine.execVfD0Return p s
  | .vrAlertDeasserted => Sys2Proof.Machine.execVrAlertDeasserted s
  | .droopRecovery stretched => Sys2Proof.Machine.execDroopRecovery stretched s
  | .portLock cage modAbs => Sys2Proof.Machine.execPortLock cage modAbs s
  | .lunInitTimeout lane ce lun => Sys2Proof.Machine.execLunInitTimeout lane ce lun s
  | .lunClrDone lane ce lun => Sys2Proof.Machine.execLunClrDone lane ce lun s
  | .voltageSettleEnd => Sys2Proof.Machine.execVoltageSettleEnd s
  | .conditionerOutput t bits => Sys2Proof.Machine.execConditionerOutput t bits s
  | .deepWellOutput channel bits => Sys2Proof.Machine.execDeepWellOutput channel bits s

end Sys2Proof.Machine
end

