-- ==== Sys2Proof/Machine/Step.lean ====
section
/-!
DEFINITION. Sys2Proof/Machine/Step.lean: one step takes the command at the front of the queue; on an empty queue one TCLK edge
passes.
-/
namespace Sys2Proof.Machine

/-- One step: exec of the front command on the state with the queue's rest. With nothing waiting, one TCLK rising edge
passes and nothing else happens (DESIGN CHOICE, log entry 2). -/
def step (s : State) : Host.Outcome State Fault Refusal :=
  match s.pending with
  | [] => .next (s.advanceTo (s.boot.tclk + 1))
  | i :: rest => exec i { s with pending := rest }

/-- The state with the command that a table word spells at the front of its queue; the table's rows have no bits, so no
word spells a command and the state stays. -/
def State.withFetchWord (s : State) (nbits w : Nat) : State :=
  match decodeTableWord nbits w with
  | some i => { s with pending := i :: s.pending }
  | none => s

end Sys2Proof.Machine
end

