-- ==== Sys2Proof/Machine/ConfigSpace.lean ====
section
/-!
DEFINITION. Sys2Proof/Machine/ConfigSpace.lean: what the functions present to configuration reads (R288 to R290, Tables 12-2,
12-3 and 12-6). The spec gives no places of capabilities in configuration space, so fields are named, not numbered.
-/
namespace Sys2Proof.Machine

/-- The capabilities of Table 12-3. -/
inductive Capability where
  | powerManagement | pciExpress | msix | aer | ari | srIov | acs | ptm | serialNumber
  | secondaryPcie | dataLinkFeature | phy16 | phy32 | laneMargining
deriving DecidableEq, Repr

/-- Which function has a capability; the functions present no others (R288). -/
def Capability.present (c : Capability) (f : Fn) : Bool :=
  match c with
  | .powerManagement | .pciExpress | .msix | .aer | .ari | .acs => true
  | .srIov | .ptm | .serialNumber | .secondaryPcie | .dataLinkFeature | .phy16 | .phy32 | .laneMargining => f == 0

/-- Fields that a configuration read returns. -/
inductive ConfigItem where
  | vendorId | deviceId | revisionId | classCode | headerType | subsystemVendorId | subsystemId | interruptPin
  | busMaster | memSpace
  | capability (c : Capability)
  /-- Power Management. -/
  | powerState | noSoftReset | pmeSupport
  /-- PCI Express. -/
  | flrCapable | aspmSupport | maxPayloadSupported | maxPayload | maxReadRequest | relaxedOrdering
  | extendedTagSupported | extendedTag | tenBitRequester | tenBitCompleter | tenBitTag
  | timeoutRanges | timeoutDisable | timeoutValue
  /-- MSI-X: the table size field holds the number of vectors less one. -/
  | msixVectors | msixEnable | msixFunctionMask | msixTable | msixPba
  /-- AER. -/
  | ecrcGeneration | ecrcCheck | uncorrStatus | uncorrMask | uncorrSeverity | corrStatus | corrMask | firstError | headerLog
  /-- ARI, ACS, PTM, Device Serial Number. -/
  | ariNextFunction | acsRequestRedirect | acsCompletionRedirect | acsEgressControl
  | ptmRequester | ptmGranularity | ptmEnable | serialNumber
  /-- SR-IOV (Table 12-6). -/
  | initialVfs | totalVfs | numVfs | vfEnable | vfMemSpace | ariHierarchy | firstVfOffset | vfStride | vfDeviceId
  | supportedPageSizes | functionDependency | vfMigration | vfBar0Size | vfBarCount
  | bar0Size | bar0Is64Bit | bar0Prefetchable
deriving DecidableEq, Repr

/-- The capability a field belongs to, if it belongs to one. -/
def ConfigItem.capability? : ConfigItem → Option Capability
  | .powerState | .noSoftReset | .pmeSupport => some .powerManagement
  | .flrCapable | .aspmSupport | .maxPayloadSupported | .maxPayload | .maxReadRequest | .relaxedOrdering
  | .extendedTagSupported | .extendedTag | .tenBitRequester | .tenBitCompleter | .tenBitTag
  | .timeoutRanges | .timeoutDisable | .timeoutValue => some .pciExpress
  | .msixVectors | .msixEnable | .msixFunctionMask | .msixTable | .msixPba => some .msix
  | .ecrcGeneration | .ecrcCheck | .uncorrStatus | .uncorrMask | .uncorrSeverity | .corrStatus | .corrMask | .firstError
  | .headerLog => some .aer
  | .ariNextFunction => some .ari
  | .acsRequestRedirect | .acsCompletionRedirect | .acsEgressControl => some .acs
  | .ptmRequester | .ptmGranularity | .ptmEnable => some .ptm
  | .serialNumber => some .serialNumber
  | .initialVfs | .totalVfs | .numVfs | .vfEnable | .vfMemSpace | .ariHierarchy | .firstVfOffset | .vfStride | .vfDeviceId
  | .supportedPageSizes | .functionDependency | .vfMigration | .vfBar0Size | .vfBarCount => some .srIov
  | _ => none

/-- The value of a field that a function has. -/
def configValue (s : State) (f : Fn) : ConfigItem → Nat
  | .vendorId => if f = 0 then 0x1FA7 else 0xFFFF
  | .deviceId => if f = 0 then (if s.fuses.gradeF then 0x0A71 else 0x0A70) else 0xFFFF
  | .revisionId => if s.fuses.revB1 then 0xB1 else 0xB0
  | .classCode => 0x120000
  | .headerType => if f = 0 then 0x80 else 0
  | .subsystemVendorId | .subsystemId => 0x0000
  | .interruptPin => 0
  | .busMaster => b2n s.fns[f].bme
  | .memSpace => if f = 0 then b2n s.hst.memSpace else 0
  | .capability c => b2n (c.present f)
  | .powerState => if s.fns[f].d3 then 3 else 0
  | .noSoftReset => 1
  | .pmeSupport => 0
  | .flrCapable => 1
  | .aspmSupport => 0
  | .maxPayloadSupported => 2
  | .maxPayload => s.fns[f].ctl.payload.toNat
  | .maxReadRequest => s.fns[f].ctl.readReq.toNat
  | .relaxedOrdering => b2n s.fns[f].ctl.relaxed
  | .extendedTagSupported => 1
  | .extendedTag => b2n s.fns[f].ctl.extTag
  | .tenBitRequester | .tenBitCompleter => 1
  | .tenBitTag => b2n s.fns[f].ctl.tenBitTag
  | .timeoutRanges => 3
  | .timeoutDisable => 0
  | .timeoutValue => s.fns[f].ctl.timeout.toNat
  | .msixVectors => if f = 0 then 32 else 16
  | .msixEnable => b2n s.fns[f].msixEn
  | .msixFunctionMask => b2n s.fns[f].fmask
  | .msixTable => if f = 0 then 0xFF0000 else 0xF000
  | .msixPba => if f = 0 then 0xFF8000 else 0xF800
  | .ecrcGeneration | .ecrcCheck => 1
  | .uncorrStatus => s.fns[f].aer.uncorr.toNat
  | .uncorrMask => s.fns[f].aer.uncorrMask.toNat
  | .uncorrSeverity => s.fns[f].aer.severity.toNat
  | .corrStatus => s.fns[f].aer.corr.toNat
  | .corrMask => s.fns[f].aer.corrMask.toNat
  | .firstError => s.fns[f].aer.first.getD 0
  | .headerLog => s.fns[f].aer.header.toNat
  | .ariNextFunction => 0
  | .acsRequestRedirect | .acsCompletionRedirect | .acsEgressControl => 1
  | .ptmRequester => 1
  | .ptmGranularity => 10
  | .ptmEnable => b2n s.hst.ptmEn
  | .serialNumber => s.fuses.serial.toNat
  | .initialVfs | .totalVfs => 64
  | .numVfs => s.hst.numVfs.toNat
  | .vfEnable => b2n s.hst.vfEn
  | .vfMemSpace => b2n s.hst.vfMemSpace
  | .ariHierarchy => b2n s.hst.ari
  | .firstVfOffset | .vfStride => 1
  | .vfDeviceId => 0x0A78
  | .supportedPageSizes => 0x1F
  | .functionDependency | .vfMigration => 0
  | .vfBar0Size => 65536
  | .vfBarCount => 1
  | .bar0Size => if f = 0 then 16777216 else 65536
  | .bar0Is64Bit => 1
  | .bar0Prefetchable => 0

/-- What a configuration read of a field returns (R288); nothing where the function lacks the field's capability. -/
def configRead (s : State) (f : Fn) (i : ConfigItem) : Option Nat :=
  match i.capability? with
  | some c => if c.present f then some (configValue s f i) else none
  | none => some (configValue s f i)

/-- The routing ID of a function, from the PF's: VFp has PF + p (R290, First VF Offset and VF Stride 1). -/
def routingId (pf : Nat) (f : Fn) : Nat := pf + f.val

/-- Where the host's BAR assignment puts a VF's BAR0 (Table 12-6: 64 KiB per VF). -/
def vfBarAt (aperture : Nat) (p : PlotId) : Nat := aperture + (p.val - 1) * 65536

end Sys2Proof.Machine
end

