-- ==== Sys2Proof/WellFormed.lean ====
section
/-!
DEFINITION. Sys2Proof/WellFormed.lean: the operands a command can have: what comes from outside the device keeps to what the
spec says can come. The meanings are total and do not rely on it.
-/
namespace Sys2Proof

/-- The plot whose job, ring, tape or function a command names; plot 0 has none of these (R43, R291). -/
def Instr.tenant : Instr → Option PlotId
  | .budgetOverrun q _ _ | .abandonmentComplete q _ | .descriptorFetch q _ | .imageFetch q _ _ | .stopEnd q | .clearingEnd q
  | .retriedMulticastLaunch q _ _ _ | .multicastAckNack _ q _ _ _ | .multicastReady _ q _ _ | .multicastTimeout _ q _
  | .creditReservation q _ _ _ | .mergedRead q _ _ _ _ | .homePageFirstWrite q _ _ _ _ | .writeCopyComplete q _ _
  | .backedPageMiss q _ _ _ | .pageInRequest q _ _ _ | .pageInComplete q _ | .frameZeroingDone q
  | .annealInitialPass q _ | .annealRunStart q _ _ _ | .flipSlot q _ | .sweepComplete q _ | .energyAudit q _ _
  | .stallWindowEnd q _ | .bearingPeriodEnd q _ | .annealRunEnd q _ | .tapeSegmentArrival q _ _ | .tapeRecordWrite q _
  | .graftFullPass q _ | .graftSelect q _ _ | .graftStage q _ | .graftPass q _ | .graftHarvest q _ | .graftFullAudit q _
  | .mxeOperationStart q _ _ _ | .queryStart q _ _ | .queryPartStart q _ _ _ | .laneClaimPark q _ _
  | .queryDeadlineReached q _ _ _ | .queryResultMerge q _ _ | .sideAppend q _ _ _ _ | .genWrite q _ _ _ _ _ _
  | .genMerge q _ _ _ _ _ _ | .vfFlr q | .vfD3hotEnter q | .vfD0Return q => some q
  | _ => none

/-- A command that names a tenant's work names a plot from 1 to 64. -/
def Instr.tenantOk (i : Instr) : Bool := i.tenant != some 0

/-- A host access lies within its own alignment: registers are written by aligned words (R7), MSI-X regions also by aligned
8-byte writes (R295); LO_READ_LATCH reads within one register. -/
def Instr.accessOk : Instr → Bool
  | .registerWrite _ (.reg off _ _) => off.toNat % 4 == 0
  | .registerWrite _ (.wide off _) => off.toNat % 8 == 0
  | .loReadLatch _ off len => decide (1 ≤ len.val) && decide (off.toNat % 4 + len.val ≤ 4)
  | .loWriteHold _ off _ | .hiWriteApply _ off _ => off.toNat % 4 == 0
  | _ => true

/-- A link has one of the speeds and widths of HST_STATUS (Table 12-14). -/
def Instr.linkOk : Instr → Bool
  | .linkUp speed width => speed != 0 && [1, 2, 4, 8, 16].contains width.val
  | _ => true

/-- BYPASS has an opcode that Table 12-12 gives to no other instruction. -/
def Instr.opcodeOk : Instr → Bool
  | .jtagBypass op _ => !([0x00, 0x01, 0x02, 0x04, 0x05] : List Byte).contains op
  | _ => true

/-- Physical samples: a power sample takes time (R265); a thermal reading fits its 12-bit field (PWR_SENS). -/
def Instr.sampleOk : Instr → Bool
  | .powerSample x => decide (0 < x.dt)
  | .thermalSample ts => ts.toList.all (fun t => decide (-2048 ≤ t) && decide (t ≤ 2047))
  | _ => true

/-- Fetches return what was asked for: 64 bytes of a descriptor (R48), 144 of a report request (R347). -/
def Instr.fetchOk : Instr → Bool
  | .descriptorFetch _ (.bytes b) => b.length == 64
  | .attReportDone _ (.bytes b) _ => b.length == 144
  | _ => true

/-- A command as the device can meet it. -/
def Instr.wellFormed (i : Instr) : Bool :=
  i.tenantOk && i.accessOk && i.linkOk && i.opcodeOk && i.sampleOk && i.fetchOk

end Sys2Proof
end

