-- ==== Sys2Proof/Safety.lean ====
section
/-!
DEFINITION. Sys2Proof/Safety.lean: what statements call safe: a step that goes on, the invariants every step keeps, and the areas of
the state that a command may write.
-/
namespace Sys2Proof.Machine

/-- The command answers a next state of which `P` holds. -/
def Gives (c : Instr) (s : State) (P : State → Prop) : Prop := ∃ t, exec c s = .next t ∧ P t

/-- Plot memory has its canonical form. -/
def MemInv (s : State) : Prop := Memory.wf s.mem = true

/-- The log holds at most 8,192 lines, each with a sequence number below LOG_NEXT, and LOG_ACK is 0 or below LOG_NEXT (R350);
at its last value LOG_NEXT stays. -/
def LogInv (s : State) : Prop :=
  s.log.lines.length ≤ 8192 ∧
  (∀ l ∈ s.log.lines, l.seq < s.log.next.toNat ∨ s.log.next = BitVec.allOnes 64) ∧
  (s.log.ack = 0 ∨ s.log.ack < s.log.next)

/-! ### The areas of the state, and which of them a command may write -/

/-- The areas of the state: one for each field of State but the queue and the plots. -/
inductive Area where
  | boot | aux | fuses | frm | pf | fns | hst | cfg | undo | msh | log | att | anl | nse | lanes | devGraft | mxes
  | partials | devMacs | hccs | hccTrap | qces | qceBytes | qceTrap | pwr | skt | mem | out | resp | free
deriving DecidableEq, Repr

/-- An area has the same value in two states. -/
def Area.kept (s t : State) : Area → Prop
  | .boot => t.boot = s.boot
  | .aux => t.aux = s.aux
  | .fuses => t.fuses = s.fuses
  | .frm => t.frm = s.frm
  | .pf => t.pf = s.pf
  | .fns => t.fns = s.fns
  | .hst => t.hst = s.hst
  | .cfg => t.cfg = s.cfg
  | .undo => t.undo = s.undo
  | .msh => t.msh = s.msh
  | .log => t.log = s.log
  | .att => t.att = s.att
  | .anl => t.anl = s.anl
  | .nse => t.nse = s.nse
  | .lanes => t.lanes = s.lanes
  | .devGraft => t.devGraft = s.devGraft
  | .mxes => t.mxes = s.mxes
  | .partials => t.partials = s.partials
  | .devMacs => t.devMacs = s.devMacs
  | .hccs => t.hccs = s.hccs
  | .hccTrap => t.hccTrap = s.hccTrap
  | .qces => t.qces = s.qces
  | .qceBytes => t.qceBytes = s.qceBytes
  | .qceTrap => t.qceTrap = s.qceTrap
  | .pwr => t.pwr = s.pwr
  | .skt => t.skt = s.skt
  | .mem => t.mem = s.mem
  | .out => t.out = s.out
  | .resp => t.resp = s.resp
  | .free => t.free = s.free

/-- Every area. -/
def Area.all : List Area :=
  [.boot, .aux, .fuses, .frm, .pf, .fns, .hst, .cfg, .undo, .msh, .log, .att, .anl, .nse, .lanes, .devGraft, .mxes,
  .partials, .devMacs, .hccs, .hccTrap, .qces, .qceBytes, .qceTrap, .pwr, .skt, .mem, .out, .resp, .free]

/-- An interrupt cause: the PF's causes, a function's pending messages, a message sent. -/
def Area.notice : List Area := [.pf, .fns, .out]
/-- A log line with the causes that come with it. -/
def Area.logged : List Area := Area.notice ++ [.log]
/-- What a plot's engines hold. -/
def Area.engines : List Area := [.msh, .lanes, .mxes, .partials, .hccs, .qces]
/-- A job's fault: its engines, a log line and the causes. -/
def Area.jobFault : List Area := Area.logged ++ Area.engines

/-- The areas a command may write; the rows of one line may write the same ones. -/
def areasOf : Instr → List Area
  | .mergedRead .. | .backedPageMiss .. | .pageInRequest .. | .linkCrcFail .. | .annealRunStart .. | .sweepComplete ..
  | .energyAudit .. | .graftSelect .. | .graftPass .. | .mxeOperationStart .. | .partialTileReceive .. | .queryStart ..
  | .queryPartStart .. | .flashPageReady .. | .genWrite .. | .genMerge .. | .lunReadyTimeout .. | .programEraseComplete ..
  | .programEraseTimeout .. | .lunInitTimeout .. => Area.jobFault
  | .smbStatus .. | .smbTemp .. | .smbPower .. | .smbCap .. | .smbTrip .. | .smbResetCause .. | .smbRegAddr ..
  => [.hst, .resp]
  | .frameZeroingDone .. | .stallWindowEnd .. | .bearingPeriodEnd .. | .annealRunEnd .. | .laneClaimPark .. => []
  | .accessDiscard .. | .poisonedWrite .. | .loReadLatch .. | .logLineLatch .. => Area.notice ++ [.hst, .resp, .free]
  | .tick | .plantWindowClose | .plantAcqTimeout | .messageCheckComplete
  => Area.jobFault ++ [.boot, .frm, .hst, .undo, .nse, .skt, .mem]
  | .retriedMulticastLaunch .. | .multicastAckNack .. | .multicastReady .. | .creditReservation .. => [.msh, .out]
  | .startupTestPass .. | .deepWellDrawStart .. | .conditionerOutput .. | .deepWellOutput .. => [.nse]
  | .currentLimiterEval .. | .capLimiterEval | .droopPersist | .thermalSample .. => Area.logged ++ [.pwr]
  | .calibrationLost .. | .lowestStateExit | .vrAlertDeasserted | .voltageSettleEnd => [.boot, .pwr]
  | .voltageBandEval | .ageingTrimStep .. | .boostCheck | .droopCrossing .. => [.pwr, .out]
  | .busMasterEnableWrite .. | .pfD3hotEnter | .pfD0Return => Area.jobFault ++ [.hst, .cfg, .resp]
  | .cfgLoad .. | .cfgAbort .. | .cfgArm .. => Area.logged ++ [.hst, .cfg, .msh, .resp]
  | .fuseProgram .. | .fuseRevoke .. | .fuseLock .. => [.cfg, .resp]
  | .graftStage .. | .graftFullAudit .. | .bankSwap .. => Area.jobFault ++ [.devMacs, .mem]
  | .laneInitDone .. | .queryDeadlineReached .. | .lunClrDone .. => [.lanes, .out]
  | .powerSample .. | .thermalLimitUpdate | .droopRecovery .. => [.pwr]
  | .ptmResponse .. | .ptmNoResponse | .linkUp .. => [.boot, .hst]
  | .sktKeyLoad .. | .sktKeyClear .. | .portModeWrite .. => [.skt, .resp]
  | .ppsEdge .. | .ppsEdgeMissing => Area.logged ++ [.boot, .frm]
  | .frmCtlWrite .. | .revert .. => [.frm, .resp]
  | .sqTailWrite .. | .tapeDoorbell .. => Area.logged ++ [.hst, .resp]
  | .plotEnableWrite .. | .cancelAll .. => Area.engines ++ Area.notice ++ [.resp]
  | .plotReset .. | .vfFlr .. => Area.engines ++ Area.notice ++ [.nse, .resp]
  | .vfEnableClear | .pfFlr => Area.jobFault ++ [.hst, .cfg, .nse, .resp]
  | .loadVerifyComplete | .bundleWaitExpire => Area.logged ++ [.cfg, .msh]
  | .homePageFirstWrite .. | .sideAppend .. => Area.jobFault ++ [.mem]
  | .wellRetry .. | .deepWellRetry .. => [.nse, .resp]
  | .calibrationRead .. | .pmbusTransaction .. => [.hst, .pwr, .out]
  | .memoryInitDone | .perstDeassert => [.boot]
  | .vfD3hotEnter .. | .vfD0Return .. => Area.engines ++ Area.notice ++ [.hst, .resp]
  | .msixEnableWrite .. | .msixVectorUnmask .. => [.fns, .out, .resp]
  | .smbIdent .. | .smbRegData .. => [.hst, .resp, .free]
  | .portLossOfLock .. | .portLock .. => [.skt]
  | .registerWrite .. => Area.jobFault ++ [.frm, .hst, .cfg, .att, .anl, .nse, .pwr, .skt, .mem, .resp]
  | .loWriteHold .. => [.fns, .resp]
  | .hiWriteApply .. => [.frm, .fns, .cfg, .log, .att, .nse, .resp]
  | .commitWindowOpen .. => Area.jobFault ++ [.boot, .aux, .frm, .hst, .cfg, .undo, .att, .devMacs, .pwr, .mem]
  | .budgetOverrun .. => Area.logged ++ [.frm, .mxes, .hccs, .qces]
  | .abandonmentComplete .. => [.hst, .msh, .hccs, .qces, .out]
  | .tickHoldoffTimeout .. => Area.jobFault ++ [.boot, .frm, .hst, .cfg, .undo, .nse, .skt, .mem]
  | .cqHeadWrite .. => Area.logged ++ [.resp]
  | .descriptorFetch .. => Area.logged ++ [.boot, .hst, .free]
  | .imageFetch .. => [.boot, .fns, .hst, .out, .free]
  | .stopEnd .. => Area.engines ++ Area.notice
  | .clearingEnd .. => Area.notice ++ [.msh, .mxes, .mem]
  | .irqMaskWrite .. => Area.notice ++ [.resp]
  | .hostWriteLoss .. => Area.jobFault ++ [.att, .nse, .free]
  | .hostReadError .. => Area.jobFault ++ [.boot, .hst, .cfg, .att, .free]
  | .unsupportedRequest .. => [.fns, .out, .resp, .free]
  | .loadFetchComplete .. => Area.logged ++ [.boot, .hst, .cfg, .msh, .free]
  | .stagingComplete => Area.notice ++ [.cfg]
  | .fuseOpComplete => [.fuses, .cfg]
  | .multicastTimeout .. => Area.jobFault ++ [.boot]
  | .writeCopyComplete .. => [.msh]
  | .pageInComplete .. => [.msh, .lanes, .mem, .out]
  | .patrolScrub .. => Area.logged ++ [.msh]
  | .pcacheWrite .. => [.msh, .mem, .resp]
  | .annealInitialPass .. => Area.jobFault ++ [.hst]
  | .flipSlot .. => Area.jobFault ++ [.hst, .anl, .nse]
  | .wellHealthFail .. => Area.logged ++ [.nse]
  | .deepWellBlock => Area.notice ++ [.aux, .nse]
  | .rngRequest .. => Area.notice ++ [.nse, .resp]
  | .rngWindowExpire .. => Area.notice ++ [.boot, .nse]
  | .tapeSegmentArrival .. => Area.jobFault ++ [.boot, .hst, .free]
  | .tapeRecordWrite .. => [.fns, .out]
  | .graftFullPass .. => Area.jobFault ++ [.hst, .devMacs, .mem]
  | .graftHarvest .. => Area.jobFault ++ [.devGraft, .mem]
  | .helperCallStart .. => [.hccs]
  | .helperCallEnd .. => Area.jobFault ++ [.hccTrap, .mem, .free]
  | .qceCallStart .. => [.qces]
  | .qcePass1 .. => Area.jobFault ++ [.qceBytes, .qceTrap, .mem]
  | .qcePass2 .. => Area.jobFault ++ [.qceBytes, .mem]
  | .queryResultMerge .. => Area.jobFault ++ [.mem, .free]
  | .lunClr .. => [.lanes, .out, .resp]
  | .fixedFreqWrite .. => [.pwr, .out, .resp]
  | .vrAlert => Area.logged ++ [.boot, .pwr]
  | .ready => Area.logged ++ [.boot, .frm, .att, .pwr]
  | .tagKeyTimeout => Area.logged ++ [.boot, .aux, .att]
  | .ptmGo .. => [.hst, .out, .resp]
  | .ptmAutoTimer => [.hst, .out]
  | .skoetFrameReceive .. => Area.logged ++ [.skt]
  | .attRequest .. => [.hst, .att, .out, .resp]
  | .attReportDone .. => [.boot, .fns, .hst, .att, .out, .free]
  | .logAckWrite .. => [.fns, .log, .resp]
  | .thermalTrip .. | .pwrOkRise .. | .pwrOkFall | .perstAssert .. | .hotReset .. | .linkDown .. | .jtagExtest
  | .jtagIdcode .. | .jtagSamplePreload .. | .jtagClamp | .jtagHighz | .jtagBypass .. | .jtagResetExit ..
  | .vddAuxPowerOn .. | .vddAuxLoss => Area.all

/-- The plots a command may change: none, one it names, or any. -/
def touchesPlot : Instr → PlotId → Bool
  | .accessDiscard .., _ | .poisonedWrite .., _ | .loReadLatch .., _ | .loWriteHold .., _ | .ppsEdge .., _
  | .ppsEdgeMissing, _ | .frmCtlWrite .., _ | .unsupportedRequest .., _ | .fuseProgram .., _ | .fuseRevoke .., _
  | .fuseLock .., _ | .fuseOpComplete, _ | .retriedMulticastLaunch .., _ | .multicastAckNack .., _
  | .creditReservation .., _ | .patrolScrub .., _ | .wellHealthFail .., _ | .startupTestPass .., _ | .wellRetry .., _
  | .deepWellRetry .., _ | .deepWellDrawStart .., _ | .helperCallStart .., _ | .qceCallStart .., _ | .lunClr .., _
  | .calibrationRead .., _ | .calibrationLost .., _ | .voltageBandEval, _ | .ageingTrimStep .., _ | .boostCheck, _
  | .fixedFreqWrite .., _ | .droopCrossing .., _ | .lowestStateExit, _ | .thermalLimitUpdate, _ | .pmbusTransaction .., _
  | .memoryInitDone, _ | .tagKeyTimeout, _ | .perstDeassert, _ | .msixEnableWrite .., _ | .msixVectorUnmask .., _
  | .ptmGo .., _ | .ptmAutoTimer, _ | .ptmResponse .., _ | .ptmNoResponse, _ | .smbStatus .., _ | .smbTemp .., _
  | .smbPower .., _ | .smbCap .., _ | .smbTrip .., _ | .smbIdent .., _ | .smbResetCause .., _ | .smbRegAddr .., _
  | .smbRegData .., _ | .skoetFrameReceive .., _ | .sktKeyLoad .., _ | .sktKeyClear .., _ | .portModeWrite .., _
  | .portLossOfLock .., _ | .attRequest .., _ | .attReportDone .., _ | .logAckWrite .., _ | .logLineLatch .., _
  | .linkUp .., _ | .vrAlertDeasserted, _ | .droopRecovery .., _ | .portLock .., _ | .lunClrDone .., _
  | .voltageSettleEnd, _ | .conditionerOutput .., _ | .deepWellOutput .., _ => false
  | .registerWrite .., _ | .hiWriteApply .., _ | .tick, _ | .commitWindowOpen .., _ | .plantWindowClose, _
  | .plantAcqTimeout, _ | .tickHoldoffTimeout .., _ | .busMasterEnableWrite .., _ | .vfEnableClear, _ | .pfFlr, _
  | .hostReadError .., _ | .cfgLoad .., _ | .cfgAbort .., _ | .cfgArm .., _ | .loadFetchComplete .., _
  | .loadVerifyComplete, _ | .stagingComplete, _ | .bundleWaitExpire, _ | .linkCrcFail .., _ | .deepWellBlock, _
  | .bankSwap .., _ | .partialTileReceive .., _ | .helperCallEnd .., _ | .qcePass1 .., _ | .qcePass2 .., _
  | .laneInitDone .., _ | .flashPageReady .., _ | .lunReadyTimeout .., _ | .programEraseComplete .., _
  | .programEraseTimeout .., _ | .powerSample .., _ | .currentLimiterEval .., _ | .capLimiterEval, _ | .droopPersist, _
  | .vrAlert, _ | .thermalSample .., _ | .thermalTrip .., _ | .pwrOkRise .., _ | .ready, _ | .pwrOkFall, _
  | .perstAssert .., _ | .hotReset .., _ | .linkDown .., _ | .pfD3hotEnter, _ | .pfD0Return, _ | .jtagExtest, _
  | .jtagIdcode .., _ | .jtagSamplePreload .., _ | .jtagClamp, _ | .jtagHighz, _ | .jtagBypass .., _ | .jtagResetExit .., _
  | .messageCheckComplete, _ | .vddAuxPowerOn .., _ | .vddAuxLoss, _ | .lunInitTimeout .., _ => true
  | .budgetOverrun q _ _, p | .abandonmentComplete q _, p | .sqTailWrite _ q _, p | .cqHeadWrite _ q _, p
  | .descriptorFetch q _, p | .imageFetch q _ _, p | .plotEnableWrite q _ _, p | .plotReset _ q, p | .cancelAll _ q, p
  | .stopEnd q, p | .clearingEnd q, p | .irqMaskWrite _ q _, p | .vfFlr q, p | .hostWriteLoss q _, p | .revert _ q, p
  | .multicastReady _ q _ _, p | .multicastTimeout _ q _, p | .mergedRead q _ _ _ _, p | .homePageFirstWrite q _ _ _ _, p
  | .writeCopyComplete q _ _, p | .backedPageMiss q _ _ _, p | .pageInRequest q _ _ _, p | .pageInComplete q _, p
  | .pcacheWrite q _, p | .frameZeroingDone q, p | .annealInitialPass q _, p | .annealRunStart q _ _ _, p | .flipSlot q _, p
  | .sweepComplete q _, p | .energyAudit q _ _, p | .stallWindowEnd q _, p | .bearingPeriodEnd q _, p | .annealRunEnd q _, p
  | .rngRequest _ q _, p | .rngWindowExpire q, p | .tapeDoorbell _ q _ _, p | .tapeSegmentArrival q _ _, p
  | .tapeRecordWrite q _, p | .graftFullPass q _, p | .graftSelect q _ _, p | .graftStage q _, p | .graftPass q _, p
  | .graftHarvest q _, p | .graftFullAudit q _, p | .mxeOperationStart q _ _ _, p | .queryStart q _ _, p
  | .queryPartStart q _ _ _, p | .laneClaimPark q _ _, p | .queryDeadlineReached q _ _ _, p | .queryResultMerge q _ _, p
  | .sideAppend q _ _ _ _, p | .genWrite q _ _ _ _ _ _, p | .genMerge q _ _ _ _ _ _, p | .vfD3hotEnter q, p
  | .vfD0Return q, p => p == q

end Sys2Proof.Machine
end

