-- ==== Sys2Proof/Certificates/Slice0/Obligations.lean ====
section
/-!
DEFINITION. Sys2Proof/Certificates/Slice0/Obligations.lean: the statements for the provers, and the shapes they share. A statement
that rests on a choice of the model says so and names the log entry.
-/
open Sys2Proof Sys2Proof.Machine

/-! ### The whole machine -/

/-- A step takes the command at the front of the queue and runs it on the state with the queue's rest. -/
def Obligations.StepRunsFrontCommand : Prop :=
  ∀ (c : Instr) (rest : List Instr) (s : State), step { s with pending := c :: rest } = exec c { s with pending := rest }

/-- With nothing waiting, one TCLK rising edge passes and nothing else changes (the model's choice, log entry 2). -/
def emptyQueueLetsOneEdgePass : Prop :=
  ∀ s : State, s.pending = [] → step s = .next { s with boot := { s.boot with tclk := s.boot.tclk + 1 } }

/-- No command of the table ends in a fault or a refusal, and no step does: the device never stops. -/
def noCommandStopsTheDevice : Prop :=
  (∀ (c : Instr) (s : State), Gives c s (fun _ => True)) ∧ ∀ s : State, ∃ t, step s = .next t

/-- No command stops the device, and an empty queue lets one TCLK edge pass. Every command of the table, in every
state, answers a next state; so does every step. With no command waiting a step lets one TCLK edge pass and changes
nothing else (the model's choice, log entry 2). -/
def Obligations.EveryStepAnswersANextState : Prop := emptyQueueLetsOneEdgePass ∧ noCommandStopsTheDevice

/-- Every step keeps the canonical form of plot memory: keys strictly rising, no listed byte 0. -/
def Obligations.EveryStepKeepsMemoryForm : Prop :=
  ∀ s t : State, MemInv s → step s = .next t → MemInv t

/-- Every step keeps the log's invariant (R350): at most 8,192 lines, every SEQ below LOG_NEXT until it stays at its last
value, and LOG_ACK 0 or below LOG_NEXT. -/
def Obligations.EveryStepKeepsLogInvariant : Prop :=
  ∀ s t : State, LogInv s → step s = .next t → LogInv t

/-- The state after reset has both invariants. -/
def resetHasTheInvariants : Prop := MemInv State.reset ∧ LogInv State.reset

/-- No nonce of epoch and record sequence comes back (R311, R312, R343): whenever a step leaves the device able to tag
records under the boot's epoch (its epoch step over, STATE OK), the epoch has risen, or it is the same and no plot's
sequence has fallen. -/
def Obligations.TagNoncesNeverComeBack : Prop :=
  ∀ s t : State, step s = .next t → t.aux.coldFlag = false → t.aux.epochState = 0 →
    s.fuses.epoch < t.fuses.epoch ∨ (s.fuses.epoch = t.fuses.epoch ∧ ∀ q : PlotId, s.aux.pseq[q] ≤ t.aux.pseq[q])

/-- A blown epoch fuse stays blown and the epoch never falls (R311, R312). -/
def epochNeverFalls : Prop :=
  ∀ s t : State, step s = .next t →
    (∀ k, k ∈ s.fuses.blown → k ∈ t.fuses.blown) ∧ s.fuses.epoch ≤ t.fuses.epoch

/-- Time never goes back, what has left the device has left, and no command adds to the queue (R17, R297). -/
def timeAndOutputOnlyGrow : Prop :=
  ∀ s t : State, step s = .next t →
    s.boot.tclk ≤ t.boot.tclk ∧ s.out <+: t.out ∧ t.pending = s.pending.tail

/-- Time, output and blown epoch fuses only grow. No step moves the time back, takes back what has left the device,
adds a command to the queue, unblows an epoch fuse or lowers the epoch. -/
def Obligations.TimeOutputAndFusesOnlyGrow : Prop := timeAndOutputOnlyGrow ∧ epochNeverFalls

/-- What State.reset holds where the spec gives the value (Tables 1-12, 2-13, 3-13, 12-14, 14-4): no committed bit-stream,
every plot UNASSIGNED with its rings disabled and its causes masked, the cold-boot flag set, an empty log and queue. -/
def resetState : Prop :=
  State.reset.pending = [] ∧ State.reset.isReady = false ∧ State.reset.aux.coldFlag = true ∧
  (∀ q : PlotId, State.reset.aux.pseq[q] = 0) ∧ State.reset.fuses.epoch = 0 ∧
  State.reset.frm.rws.period = 1000 ∧ State.reset.frm.rws.src = 0 ∧ State.reset.frm.rws.limit = 940 ∧
  (∀ q : PlotId, ((State.reset.plot q).plt.state = .unassigned ∧ (State.reset.plot q).plt.en = false ∧
    (State.reset.plot q).plt.ringEn = false ∧ (State.reset.plot q).plt.irqMask = 0x1FFF ∧
    (State.reset.plot q).plt.vec0 = 0x76543210 ∧ (State.reset.plot q).rws.cls = 1)) ∧
  State.reset.pf.irqMask = 0x7FFF ∧ State.reset.cfg.loaded = false ∧ State.reset.cfg.load = .idle ∧
  State.reset.log.next = 0 ∧ State.reset.log.lines = [] ∧ State.reset.mem = []

/-- The state after reset. The values the spec gives for reset: rings disabled, causes masked, plots UNASSIGNED, no
bit-stream, an empty log, the cold-boot flag set; and the state has the two invariants. -/
def Obligations.ResetState : Prop := resetHasTheInvariants ∧ resetState

/-! ### Resets and start-up (chapter 12) -/

/-- A device reset with no start event: every register, plot memory, the log and the bit-stream at reset, the start-up not
begun; the VDD_AUX domain, the pins and what has left the device stay (Table 2-6, R311). -/
def heldOf (s : State) (aux : AuxState) (boot : BootState) (t : State) : Prop :=
  t.fuses.blown = s.fuses.blown ∧ (s.cfg.fuseBusy = none → t.fuses = s.fuses) ∧
  t = { pending := s.pending, boot := boot, aux := aux, fuses := t.fuses,
        frm := { shadow := { cap := if s.fuses.gradeF then 180 else 250 }, snap := { cap := if s.fuses.gradeF then 180 else 250 },
                 rws := { cap := if s.fuses.gradeF then 180 else 250 }, frameDev := { cap := if s.fuses.gradeF then 180 else 250 } },
        pwr := { fixedFreq := s.fuses.gradeF, fclk := if s.fuses.gradeF then 1000 else 1200 },
        skt := { cages := s.skt.cages.map (fun c => { los := c.los, modAbs := c.modAbs }) },
        out := s.out, resp := s.resp, free := t.free }

/-- The boot state of a start-up that begins now and needs no epoch step: HST_EPOCH reads what it read before. -/
def startedAt (s : State) (b : BootState) : BootState :=
  { b with phase := .clearing, readyAt := 0, startAt := b.tclk, epochWas := BitVec.ofNat 32 (hstEpoch s), epochAt := b.tclk }

/-- The device resets of Table 12-11 on a device whose cold-boot flag is clear are warm boots: the start-up begins at the
event, CAUSE is the table's, the VDD_AUX domain keeps all else, and everything outside it returns to reset (R311). -/
def Obligations.DeviceResetsAreWarmBoots : Prop :=
  ∀ (s : State) (e : EpochRun), s.aux.on = true → s.aux.coldFlag = false →
    (s.boot.pwrOk = false → s.boot.jtag.holds = false →
      Gives (.pwrOkRise e) s (heldOf s { s.aux with cause := if s.aux.risen then 2 else 1, risen := true }
        (startedAt s { s.boot with pwrOk := true }))) ∧
    (s.boot.pwrOk = true → s.boot.perst = false → s.boot.jtag.holds = false →
      Gives (.perstAssert e) s (heldOf s { s.aux with cause := 3 } (startedAt s { s.boot with perst := true }))) ∧
    (s.hst.linkUp = true → s.boot.pwrOk = true → s.boot.jtag.holds = false →
      Gives (.hotReset e) s (heldOf s { s.aux with cause := 4 } (startedAt s s.boot)) ∧
      Gives (.linkDown e) s (heldOf s { s.aux with cause := 5 } (startedAt s s.boot))) ∧
    (s.boot.jtag.holds = true → s.boot.pwrOk = true →
      Gives (.jtagResetExit e none) s (heldOf s { s.aux with cause := 6 } (startedAt s { s.boot with jtag := .idcode })) ∧
      Gives (.jtagResetExit e (some 0x02)) s
        (heldOf s { s.aux with cause := 6 } (startedAt s { s.boot with jtag := .samplePreload })))

/-- A cold boot programs fuse EPOCH + 1 and reads it back, trying up to three fuses that have not failed before (R312): the
epoch becomes the number of the first that reads back; STATE reads FAIL when all three fail and EXHAUSTED when fuse 4,096
reads blown; a reset that interrupts the step leaves the flag set, its fuse blown or not. Record sequences return to 0 and
K is let go. -/
def Obligations.ColdBootAdvancesTheEpoch : Prop :=
  ∀ (s : State) (more : List Bool), s.aux.on = true → s.aux.coldFlag = true → s.boot.pwrOk = false → s.boot.jtag.holds = false →
    s.cfg.fuseBusy = none → (∀ k ∈ s.fuses.failed, k ≤ s.fuses.epoch) →
    (∀ e : EpochRun, Gives (.pwrOkRise e) s (fun t =>
      (∀ q : PlotId, t.aux.pseq[q] = 0) ∧ t.aux.key = none ∧ t.aux.keyFail = false ∧ t.aux.trip = s.aux.trip)) ∧
    (s.fuses.epoch < 4096 → Gives (.pwrOkRise (.runs (true :: more))) s (fun t =>
      t.fuses.epoch = s.fuses.epoch + 1 ∧ t.aux.epochState = 0 ∧ t.aux.coldFlag = false ∧ t.boot.phase = .clearing)) ∧
    (s.fuses.epoch < 4095 → Gives (.pwrOkRise (.runs (false :: true :: more))) s (fun t =>
      t.fuses.epoch = s.fuses.epoch + 2 ∧ t.aux.epochState = 0 ∧ t.aux.coldFlag = false)) ∧
    (s.fuses.epoch < 4094 → Gives (.pwrOkRise (.runs (false :: false :: true :: more))) s (fun t =>
      t.fuses.epoch = s.fuses.epoch + 3 ∧ t.aux.epochState = 0 ∧ t.aux.coldFlag = false)) ∧
    (s.fuses.epoch < 4094 → Gives (.pwrOkRise (.runs (false :: false :: false :: more))) s (fun t =>
      t.fuses.blown = s.fuses.blown ∧ t.aux.epochState = 2 ∧ t.aux.coldFlag = false)) ∧
    (4096 ≤ s.fuses.epoch → Gives (.pwrOkRise (.runs more)) s (fun t =>
      t.fuses = s.fuses ∧ t.aux.epochState = 1 ∧ t.aux.coldFlag = false)) ∧
    (s.fuses.epoch < 4096 → Gives (.pwrOkRise (.interrupted true)) s (fun t =>
      t.fuses.epoch = s.fuses.epoch + 1 ∧ t.aux.coldFlag = true)) ∧
    Gives (.pwrOkRise (.interrupted false)) s (fun t => t.fuses = s.fuses ∧ t.aux.coldFlag = true)

/-- What holds the device in reset with no start-up: a fall of PWR_OK (R308), EXTEST, CLAMP and HIGHZ (R314), a thermal trip
with its sensor recorded in PWR_TRIP, which holds the first trip until VDD_AUX falls (R282), and the loss of VDD_AUX, which takes
its whole domain with it (R311). The sensors are live from 220 µs after the start event (Table 12-10). -/
def Obligations.WhatHoldsTheDeviceInReset : Prop :=
  ∀ s : State, s.aux.on = true →
    (s.boot.pwrOk = true → Gives .pwrOkFall s
      (heldOf s s.aux { s.boot with phase := .held, readyAt := 0, startAt := 0, pwrOk := false })) ∧
    Gives .jtagExtest s (heldOf s s.aux { s.boot with phase := .held, readyAt := 0, startAt := 0, jtag := .extest }) ∧
    Gives .jtagClamp s (heldOf s s.aux { s.boot with phase := .held, readyAt := 0, startAt := 0, jtag := .clamp }) ∧
    Gives .jtagHighz s (heldOf s s.aux { s.boot with phase := .held, readyAt := 0, startAt := 0, jtag := .highz }) ∧
    (∀ i : Fin 48, s.boot.phase ≠ .held → s.boot.startAt + 22000 ≤ s.boot.tclk → s.pwr.sens[i].seen = true →
      s.pwr.sens[i].fault = false → 460 ≤ s.pwr.sens[i].temp →
      Gives (.thermalTrip i) s (heldOf s
        { s.aux with
          trip := if s.aux.trip.getLsbD 31 then s.aux.trip
            else BitVec.ofNat 32 (2 ^ 31 + 2 ^ 16 * i.val + unsigned 12 s.pwr.sens[i].temp),
          thermTrip := true }
        { s.boot with phase := .held, readyAt := 0, startAt := 0 })) ∧
    Gives .vddAuxLoss s
      (heldOf s { on := false } { s.boot with phase := .held, readyAt := 0, startAt := 0, pwrOk := false, jtag := .idcode })

/-- The start-up timeline (R309, R310, Table 12-10): memory is initialised at the earliest 1,700 µs and the device ready
1,800 µs after the start event, with tick 0 of frame 0 there; VDD_AUX comes up with its flag set; PERST_N delays no step;
the link trains at the earliest 200 µs after the start event, once PERST_N is deasserted. -/
def Obligations.StartUpTimeline : Prop :=
  ∀ s : State,
    (s.boot.phase = .clearing → Gives .memoryInitDone s (fun t =>
      t = { s with boot := { s.boot with phase := .cleared, tclk := max s.boot.tclk (s.boot.startAt + 170000) } })) ∧
    (s.boot.phase = .cleared → Gives .ready s (fun t =>
      t.boot = { s.boot with phase := .ready, tclk := max s.boot.tclk (s.boot.startAt + 180000),
                             readyAt := max s.boot.tclk (s.boot.startAt + 180000) } ∧
      t.frm.tickAt = t.boot.readyAt ∧ t.frm.count = s.frm.count ∧ t.mem = s.mem ∧ t.fuses = s.fuses ∧ t.aux = s.aux)) ∧
    Gives .perstDeassert s (fun t => t = { s with boot := { s.boot with perst := false } }) ∧
    (∀ (speed : Fin 6) (width : Fin 17), s.boot.pwrOk = true → s.boot.phase ≠ .held → s.boot.perst = false →
      s.hst.linkUp = false → (Instr.linkUp speed width).wellFormed = true →
      Gives (.linkUp speed width) s (fun t => t = { s with
        boot := { s.boot with tclk := max s.boot.tclk (s.boot.startAt + 20000) },
        hst := { s.hst with linkUp := true, speed := BitVec.ofNat 3 speed.val, width := BitVec.ofNat 5 width.val } })) ∧
    (∀ strap : Fin 4, s.aux.on = false → Gives (.vddAuxPowerOn strap) s (fun t =>
      t = { s with aux := { on := true, since := s.boot.tclk, strap := strap }, boot := { s.boot with jtag := .idcode } } ∧
      t.aux.coldFlag = true)) ∧
    (s.isReady = true → s.aux.key = none → s.aux.keyFail = false → Gives .tagKeyTimeout s (fun t =>
      t.aux = { s.aux with keyFail := true } ∧ t.att.stop = 4 ∧ t.log.next = satInc s.log.next ∧
      t.boot.tclk = max s.boot.tclk (s.boot.readyAt + 10000000) ∧ t.mem = s.mem ∧ t.plots = s.plots))

/-! ### SMBus and JTAG (chapter 12) -/

/-- A read of `n` bytes of value `v` under an SMBus command code as the host gets it: the low `n` bytes, and after them, where it
clocks a PEC, the CRC-8 of the transfer, in which a block read's length stands before its bytes. -/
def smbAnswer (x : SmbXfer) (code n : Nat) (block : Bool) (v : Nat) : Response :=
  { data := v % 2 ^ (8 * n),
    pec := if x.pec then some (pecOf ([BitVec.ofNat 8 (2 * x.addr.toNat), BitVec.ofNat 8 code, BitVec.ofNat 8 (2 * x.addr.toNat + 1)] ++
      (if block then [BitVec.ofNat 8 n] else []) ++ leBytes n v)) else none }

/-- The SMBus target answers at 0x58 + SMB_ADDR from 10 ms after VDD_AUX becomes valid, whatever the state of PWR_OK: STATUS and
TRIP are valid at all times, IDENT from 120 µs after the start event, its epoch the old one until the epoch step has ended, and
every other command returns 0 until ready (R302, R303, Table 12-7). A read ends with a PEC where the host clocks one. -/
def smbusTargetAnswers : Prop :=
  ∀ (s : State) (x : SmbXfer), s.aux.on = true → s.aux.since + 1000000 ≤ s.boot.tclk → x.addr.toNat = 0x58 + s.aux.strap.val →
    Gives (.smbStatus x) s (fun t => t.resp = smbAnswer x 0x00 1 false
      (b2n s.isReady + 2 * b2n (s.aux.trip.getLsbD 31) + 4 * b2n s.pwr.lowest + 8 * b2n s.hst.linkUp + 16 * b2n s.boot.vrAlert +
        32 * b2n (s.att.stop != 0 || s.att.sets.toList.any (fun a => a.stop != 0)))) ∧
    Gives (.smbTrip x) s (fun t => t.resp = smbAnswer x 0x04 4 true s.aux.trip.toNat) ∧
    (s.boot.phase ≠ .held → s.boot.startAt + 12000 ≤ s.boot.tclk → Gives (.smbIdent x) s (fun t =>
      t.resp = smbAnswer x 0x05 8 true (hstId s.fuses +
        2 ^ 32 * (if s.boot.tclk < s.boot.epochAt then s.boot.epochWas.toNat else hstEpoch s)))) ∧
    Gives (.smbTemp x) s (fun t => t.resp = smbAnswer x 0x01 2 false (if s.isReady then smbTempWord s else 0)) ∧
    Gives (.smbPower x) s (fun t => t.resp = smbAnswer x 0x02 2 false (if s.isReady then (powerWord s.pwr).2 else 0)) ∧
    Gives (.smbCap x) s (fun t => t.resp = smbAnswer x 0x03 2 false (if s.isReady then s.frm.rws.cap.toNat else 0)) ∧
    Gives (.smbResetCause x) s (fun t => t.resp = smbAnswer x 0x06 1 false (if s.isReady then s.aux.cause.toNat else 0)) ∧
    Gives (.smbRegAddr x none) s (fun t => t.resp = smbAnswer x 0x10 4 true (if s.isReady then s.hst.smbAddr.toNat else 0)) ∧
    (∀ w, Gives (.smbRegAddr x (some (w, none))) s (fun t => t.resp = {} ∧ t.hst.smbAddr = w)) ∧
    (s.isReady = false → Gives (.smbRegData x) s (fun t => t.resp = smbAnswer x 0x11 4 true 0)) ∧
    (∀ a, s.isReady = true → s.hst.smbAddr.toNat % 4 = 0 → msixAt 0 s.hst.smbAddr.toNat = none →
      regAt 0 s.hst.smbAddr.toNat = some a → openValue s 0 a = false → groupWord a = none →
      Gives (.smbRegData x) s (fun t => t.resp = smbAnswer x 0x11 4 true (regValue s 0 a)))

/-- The commands of the SMBus target. -/
def smbCommands (x : SmbXfer) (w : Option (Word × Option Byte)) : List Instr :=
  [.smbStatus x, .smbTemp x, .smbPower x, .smbCap x, .smbTrip x, .smbIdent x, .smbResetCause x, .smbRegAddr x w, .smbRegData x]

/-- SMBus changes nothing in the device (R302): it writes no register, raises no interrupt, and only its own address, latches
and counters move. Another address, and a time before the first 10 ms are over, are not acknowledged. A write of REG_ADDR with a
wrong PEC is discarded and counted. -/
def smbusChangesNothing : Prop :=
  (∀ (s : State) (x : SmbXfer) (w : Option (Word × Option Byte)), ∀ c ∈ smbCommands x w,
    Gives c s (fun t => t = { s with
      resp := t.resp, free := t.free, hst := { s.hst with
        smbXfers := t.hst.smbXfers, smbAddr := t.hst.smbAddr, smbLatches := t.hst.smbLatches, smbPec := t.hst.smbPec } }) ∧
    (s.aux.on = false ∨ s.boot.tclk < s.aux.since + 1000000 ∨ x.addr.toNat ≠ 0x58 + s.aux.strap.val →
      Gives c s (fun t => t = { s with resp := { error := true } }))) ∧
  ∀ (s : State) (x : SmbXfer) (w : Word) (pec : Byte), s.aux.on = true → s.aux.since + 1000000 ≤ s.boot.tclk →
    x.addr.toNat = 0x58 + s.aux.strap.val →
    (pec ≠ pecOf ([BitVec.ofNat 8 (2 * x.addr.toNat), 0x10, 4] ++ leBytes 4 w.toNat) →
      Gives (.smbRegAddr x (some (w, some pec))) s (fun t =>
        t = { s with hst := { s.hst with smbPec := satInc s.hst.smbPec }, resp := { error := true } })) ∧
    (pec = pecOf ([BitVec.ofNat 8 (2 * x.addr.toNat), 0x10, 4] ++ leBytes 4 w.toNat) →
      Gives (.smbRegAddr x (some (w, some pec))) s (fun t => t.resp = {} ∧ t.hst.smbAddr = w))

/-- The SMBus target answers and changes nothing. From 10 ms after VDD_AUX is valid STATUS and TRIP answer at all
times, IDENT from 120 us after the start event, all else 0 until ready; SMBus changes nothing in the device but its
own address, latches and counters. -/
def Obligations.SmbusServesWithoutEffect : Prop := smbusTargetAnswers ∧ smbusChangesNothing

/-- SAMPLE/PRELOAD, IDCODE and BYPASS do not disturb a device that no JTAG instruction holds (R313, R314); IDCODE shifts out
the register of Table 12-12, and every opcode outside the table selects BYPASS. -/
def Obligations.JtagDoesNotDisturbOperation : Prop :=
  ∀ (s : State) (e : EpochRun), s.aux.on = true → s.boot.jtag.holds = false →
    Gives (.jtagIdcode e) s (fun t => t = { s with
      boot := { s.boot with jtag := .idcode },
      resp := { data := 2 ^ 28 * b2n s.fuses.revB1 + 2 ^ 12 * (if s.fuses.gradeF then 0x0A71 else 0x0A70) + 2 * 0x2E5 + 1 } }) ∧
    Gives (.jtagSamplePreload e) s (fun t => t = { s with
      boot := { s.boot with jtag := .samplePreload }, resp := t.resp, free := s.free + 1 }) ∧
    (∀ op : Byte, op ≠ 0x00 → op ≠ 0x01 → op ≠ 0x02 → op ≠ 0x04 → op ≠ 0x05 →
      Gives (.jtagBypass op e) s (fun t => t = { s with boot := { s.boot with jtag := .bypass } }))

/-! ### Host accesses (chapters 00 and 12) -/

/-- A discarded access as HST_ACCESS_ERR shows it, counted for the device and for a VF, with the PF cause ACCESS; nothing
else changes but what the message leaves behind (R7, R296). -/
def recorded (f : Fn) (write : Bool) (off kind : Nat) (s t : State) : Prop :=
  t.hst.accessErr = BitVec.ofNat 32 (2 ^ 25 * f.val + 2 ^ 24 * b2n write + off / 4 * 4 + kind) ∧
  t.hst.accessCnt = satInc s.hst.accessCnt ∧
  (f ≠ 0 → t.hst.pAccessErr[f] = t.hst.accessErr ∧ t.hst.pAccessCnt[f] = satInc s.hst.pAccessCnt[f]) ∧
  (∀ g : Fn, f = 0 ∨ g ≠ f → t.hst.pAccessErr[g] = s.hst.pAccessErr[g] ∧ t.hst.pAccessCnt[g] = s.hst.pAccessCnt[g]) ∧
  t.pf.irqStatus = s.pf.irqStatus ||| 0x4000 ∧
  (∀ g : Fn, t.fns[g] = { s.fns[g] with pba := t.fns[g].pba }) ∧
  t = { s with
    hst := { s.hst with accessErr := t.hst.accessErr, accessCnt := t.hst.accessCnt, pAccessErr := t.hst.pAccessErr,
                        pAccessCnt := t.hst.pAccessCnt },
    pf := { s.pf with irqStatus := t.pf.irqStatus }, fns := t.fns, out := t.out, resp := t.resp }

/-- An uncorrectable error as the function's AER capability shows it: its status bit, the first error where none is recorded yet, with
a header the spec leaves open, and a report where the bit is not masked (R299, Table 12-5; the bits' places are the base
specification's, log entry 234). -/
def aerLogged (f : Fn) (bit : Nat) (s t : State) : Prop :=
  t.fns[f] = { s.fns[f] with aer := { s.fns[f].aer with
    uncorr := setBit s.fns[f].aer.uncorr bit true, header := t.fns[f].aer.header,
    first := if s.fns[f].aer.uncorrMask.getLsbD bit then s.fns[f].aer.first else s.fns[f].aer.first.or (some bit) } } ∧
  (∀ g : Fn, g ≠ f → t.fns[g] = s.fns[g]) ∧
  t.out = s.out ++ (if s.fns[f].aer.uncorrMask.getLsbD bit then []
    else [.aer f bit (if s.fns[f].aer.severity.getLsbD bit then 2 else 1)]) ∧
  t = { s with fns := t.fns, out := t.out, free := t.free }

/-- Outside the MSI-X regions an access that enables some byte but not all 4, or crosses a 4-byte boundary, is discarded,
recorded and has no other effect; a read of the kind returns 0; an access with no byte enabled is neither. A poisoned write
is recorded with KIND 3, and an unsupported request is answered; both are logged in the function's AER capability, as are the
other errors in what is received, those of the link layer in the PF's (R7, R296, R299, Table 12-5). -/
def Obligations.DiscardedAccessesHaveNoEffect : Prop :=
  ∀ (s : State) (f : Fn) (off : BitVec 24) (len : Fin 9), s.hostOk f = true → msixAt f off.toNat = none →
    (0 < len.val → 4 < off.toNat % 4 + len.val → ∀ en, Gives (.accessDiscard f false off len en) s (fun t =>
      recorded f false off.toNat 2 s t ∧ t.resp = { data := 0 })) ∧
    (∀ en : BitVec 8, en.toNat % 2 ^ len.val ≠ 0 → 4 < off.toNat % 4 + len.val →
      Gives (.accessDiscard f true off len en) s (recorded f true off.toNat 2 s)) ∧
    (∀ en : BitVec 8, off.toNat % 4 + len.val ≤ 4 → en.toNat % 2 ^ len.val ≠ 0 → (len.val < 4 ∨ en.toNat % 16 ≠ 15) →
      Gives (.accessDiscard f true off len en) s (recorded f true off.toNat 1 s)) ∧
    (∀ en : BitVec 8, en.toNat % 2 ^ len.val = 0 → Gives (.accessDiscard f true off len en) s (fun t => t = { s with resp := {} })) ∧
    (∀ en, Gives (.accessDiscard f false off 0 en) s (fun t => t = { s with resp := { data := 0 } })) ∧
    Gives (.poisonedWrite f off) s (fun t => ∃ u, recorded f true off.toNat 3 s u ∧ aerLogged f 12 u t) ∧
    Gives (.unsupportedRequest f .unsupported) s (aerLogged f 20 { s with resp := { error := true } }) ∧
    (∀ e : LinkError, e ≠ .unsupported → (linkErrorBit e).2 = false → Gives (.unsupportedRequest f e) s
      (aerLogged (if e = .unexpectedCompletion ∨ e = .requestEcrc then f else 0) (linkErrorBit e).1 s)) ∧
    (∀ e : LinkError, (linkErrorBit e).2 = true → Gives (.unsupportedRequest f e) s (fun t =>
      t.fns[(0 : Fn)].aer = { s.fns[(0 : Fn)].aer with corr := setBit s.fns[(0 : Fn)].aer.corr (linkErrorBit e).1 true } ∧
      t = { s with fns := t.fns, out := t.out }))

/-- A read of the first register of a latched group latches the whole value for the reading function and returns its low
word's addressed bytes; a following read of the upper half returns the latched half and latches nothing; no other
function's latch moves. A function's first read of the upper half returns 0 (R12). LOG_LINE_LATCH is such a read by the PF
of LOG_DATA[0]; a VF's reaches no register. -/
def latchesBelongToTheirFunction : Prop :=
  ∀ (s : State) (f : Fn) (off : BitVec 24) (len : Fin 5) (a : Nat), s.hostOk f = true → msixAt f off.toNat = none →
    (Instr.loReadLatch f off len).wellFormed = true → regAt f (off.toNat / 4 * 4) = some a → openValue s f a = false →
    (groupWord a = some 0 → Gives (.loReadLatch f off len) s (fun t =>
      t.resp.data = regValue s f a % 2 ^ 32 / 2 ^ (8 * (off.toNat % 4)) % 2 ^ (8 * len.val) ∧
      t.fns[f].latches.lookup a = some (regValue s f a) ∧
      (∀ b, b ≠ a → t.fns[f].latches.lookup b = s.fns[f].latches.lookup b) ∧
      (∀ g : Fn, g ≠ f → t.fns[g] = s.fns[g]) ∧ t = { s with fns := t.fns, resp := t.resp })) ∧
    (∀ k, groupWord a = some (k + 1) → Gives (.loReadLatch f off len) s (fun t =>
      t.resp.data = (match s.fns[f].latches.lookup (a - 4 * (k + 1)) with | some v => v | none => 0) /
        2 ^ (32 * (k + 1)) % 2 ^ 32 / 2 ^ (8 * (off.toNat % 4)) % 2 ^ (8 * len.val) ∧
      t = { s with resp := t.resp })) ∧
    (s.hostOk 0 = true → Gives (.logLineLatch 0) s (fun t =>
      t.fns[(0 : Fn)].logValid = (selectedLine s 0).isSome ∧ t.fns[(0 : Fn)].latches.lookup 0xD0020 = some (regValue s 0 0xD0020) ∧
      t.resp.data = regValue s 0 0xD0020 % 2 ^ 32 ∧ (∀ g : Fn, g ≠ 0 → t.fns[g] = s.fns[g]) ∧
      t = { s with fns := t.fns, resp := t.resp })) ∧
    (f ≠ 0 → Gives (.logLineLatch f) s (fun t => t = { s with resp := {} }))

/-- A write of the LO half of a writable pair is held for the writing function and does nothing else; a write of the HI half
applies the half this function holds, or the one in force where it holds none, and nothing is held afterwards; another
function's half is never used (R14). Stated for every pair, and with the value for ATT_ADDR, whose bits 5:0 are 0. -/
def heldHalvesApplyTogether : Prop :=
  ∀ (s : State) (f : Fn) (off : BitVec 24) (v : Word) (base : Nat), s.hostOk f = true →
    (pairOf f off.toNat = some (false, base) → Gives (.loWriteHold f off v) s (fun t =>
      t.fns[f].held.lookup base = some v ∧ (∀ b, b ≠ base → t.fns[f].held.lookup b = s.fns[f].held.lookup b) ∧
      (∀ g : Fn, g ≠ f → t.fns[g] = s.fns[g]) ∧ t = { s with fns := t.fns, resp := {} })) ∧
    (pairOf f off.toNat = some (true, base) → Gives (.hiWriteApply f off v) s (fun t =>
      t.fns[f].held.lookup base = none ∧ (∀ b, b ≠ base → t.fns[f].held.lookup b = s.fns[f].held.lookup b) ∧
      (∀ g : Fn, g ≠ f → t.fns[g] = s.fns[g]) ∧ t.mem = s.mem ∧ t.log.lines = s.log.lines)) ∧
    (∀ q : PlotId, pairOf f off.toNat = some (true, setAddr 14 q 0) → Gives (.hiWriteApply f off v) s (fun t =>
      t.att.sets[q].addr.toNat = (v.toNat * 2 ^ 32 + (match s.fns[f].held.lookup (setAddr 14 q 0) with
        | some lo => lo.toNat | none => s.att.sets[q].addr.toNat % 2 ^ 32)) / 64 * 64 ∧
      ∀ p : PlotId, p ≠ q → t.att.sets[p] = s.att.sets[p]))

/-- Read latches and held write halves belong to their function. A read of the first word of a group latches it for
the reading function alone; a write of the upper half applies the half this function holds. -/
def Obligations.LatchesAndHeldHalves : Prop := latchesBelongToTheirFunction ∧ heldHalvesApplyTogether

/-- A write of an RWS register lands in the shadow, which is what a read returns, and the committed value stays; REVERT puts
the committed values back into the plot's shadows (R9, R69, R91). -/
def rwsWritesLandInTheShadow : Prop :=
  (∀ (s : State) (off : BitVec 24) (v same : Word) (q : PlotId) (r : RwsReg), s.hostOk 0 = true →
    rwsAt off.toNat = some (q.val, r) → pairAt off.toNat = none →
    Gives (.registerWrite 0 (.reg off v same)) s (fun t =>
      (q = 0 → t.frm.shadow.word r = v.toNat &&& r.mask ∧ t = { s with frm := { s.frm with shadow := t.frm.shadow }, resp := {} }) ∧
      (q ≠ 0 → (t.plot q).shadow.word r = v.toNat &&& r.mask ∧ t.plot q = { s.plot q with shadow := (t.plot q).shadow } ∧
        (∀ p : PlotId, p ≠ q → t.plot p = s.plot p) ∧ t = { s with plots := t.plots, resp := {} }))) ∧
  ∀ (s : State) (f : Fn) (q : PlotId), s.hostOk f = true → f = 0 ∨ f = q →
    Gives (.revert f q) s (fun t =>
      (q = 0 → t = { s with frm := { s.frm with shadow := s.frm.rws }, resp := {} }) ∧
      (q ≠ 0 → t.plot q = { s.plot q with shadow := (s.plot q).rws } ∧ (∀ p : PlotId, p ≠ q → t.plot p = s.plot p) ∧
        t = { s with plots := t.plots, resp := {} }))

/-- Status bits of type RW1C: each bit written 1 is cleared, bits written 0 are unchanged (R9), and a bit that hardware sets in the
same cycle stays 1 (R10): the PF's causes, a plot's causes, FRM_EVENT. An RW register takes the value written: CFG_WAIT_FRAMES,
PWR_DROOP_CFG, a plot's PLT_VEC0. A write of a read-only register, or of an offset with no
register, changes nothing (R8, R9). A write that is not served is answered with Unsupported Request and has no effect (R296). -/
def writeOneClearsAndReadOnlyStays : Prop :=
  ∀ (s : State) (v same : Word), s.hostOk 0 = true →
    Gives (.registerWrite 0 (.reg 0x10000 v same)) s (fun t =>
      t = { s with pf := { s.pf with irqStatus := s.pf.irqStatus &&& ~~~ ((v &&& ~~~ same).setWidth 15) }, resp := {} }) ∧
    Gives (.registerWrite 0 (.reg 0x20 v same)) s (fun t =>
      t = { s with frm := { s.frm with event := s.frm.event &&& ~~~ ((v &&& ~~~ same).setWidth 9) }, resp := {} }) ∧
    (∀ p : Fn, p ≠ 0 → s.hostOk p = true → Gives (.registerWrite p (.reg 0x1038 v same)) s (fun t =>
      t.plot p = { s.plot p with
        plt := { (s.plot p).plt with irqStatus := (s.plot p).plt.irqStatus &&& ~~~ ((v &&& ~~~ same).setWidth 13) } } ∧
      (∀ q : PlotId, q ≠ p → t.plot q = s.plot q) ∧ t = { s with plots := t.plots, resp := {} })) ∧
    Gives (.registerWrite 0 (.reg 0x20014 v same)) s (fun t =>
      t = { s with cfg := { s.cfg with waitFrames := v.setWidth 16 }, resp := {} }) ∧
    Gives (.registerWrite 0 (.reg 0xA0084 v same)) s (fun t =>
      t = { s with pwr := { s.pwr with droopThresh := v.setWidth 7 }, resp := {} }) ∧
    (∀ p : Fn, p ≠ 0 → s.hostOk p = true → Gives (.registerWrite p (.reg 0x1040 v same)) s (fun t =>
      t.plot p = { s.plot p with plt := { (s.plot p).plt with vec0 := v } } ∧
      (∀ q : PlotId, q ≠ p → t.plot q = s.plot q) ∧ t = { s with plots := t.plots, resp := {} })) ∧
    Gives (.registerWrite 0 (.reg 0x1C v same)) s (fun t => t = { s with resp := {} }) ∧
    Gives (.registerWrite 0 (.reg 0xF0000 v same)) s (fun t => t = { s with resp := {} }) ∧
    ∀ (f : Fn) (off : BitVec 24), s.hostOk f = false →
      Gives (.registerWrite f (.reg off v same)) s (fun t => t = { s with resp := { error := true } })

/-- A configuration write takes effect in its function: each has its Device Control fields, of which the PF's govern what every
function requests, and its AER registers, whose status bits are cleared by ones (R289, R299; log entries 229, 234). NumVFs is
taken only while VF Enable is 0. Before ready a configuration request completes with Request Retry Status (R310). A configuration
read returns the capabilities of Table 12-3, the identity of Table 12-2, and a function's own control bits (R288, R289). -/
def configurationSpace : Prop :=
  ∀ (s : State) (f : Fn), s.cfgOk f = true →
    (∀ c : BitVec 3, Gives (.registerWrite f (.config (.maxPayload c))) s (fun t =>
      t = { s with fns := s.fns.set f { s.fns[f] with ctl := { s.fns[f].ctl with payload := c } } } ∧
      (f = 0 → t.maxPayload = min (128 * 2 ^ c.toNat) 512) ∧ (f ≠ 0 → t.maxPayload = s.maxPayload))) ∧
    (∀ c : BitVec 3, Gives (.registerWrite f (.config (.maxReadRequest c))) s (fun t =>
      t = { s with fns := s.fns.set f { s.fns[f] with ctl := { s.fns[f].ctl with readReq := c } } } ∧
      (f = 0 → t.maxRead = min (128 * 2 ^ c.toNat) 4096))) ∧
    (∀ v : Word, Gives (.registerWrite f (.config (.aerUncorrStatus v))) s (fun t =>
      t = { s with fns := s.fns.set f { s.fns[f] with aer := { s.fns[f].aer with
        uncorr := s.fns[f].aer.uncorr &&& ~~~ v, first := s.fns[f].aer.first.filter (fun b => !v.getLsbD b) } } })) ∧
    (f = 0 → ∀ n : BitVec 16, s.hst.vfEn = false → n.toNat ≤ 64 → Gives (.registerWrite 0 (.config (.numVfs n))) s (fun t =>
      t = { s with hst := { s.hst with numVfs := n } })) ∧
    (f = 0 → ∀ n : BitVec 16, s.hst.vfEn = true → Gives (.registerWrite 0 (.config (.numVfs n))) s (fun t => t = s)) ∧
    (∀ (u : State) (w : ConfigField), u.isReady = false → u.hst.linkUp = true → Gives (.registerWrite f (.config w)) u (fun t =>
      t = { u with resp := { retry := true } })) ∧
    configRead s f .vendorId = some (if f = 0 then 0x1FA7 else 0xFFFF) ∧
    configRead s f .deviceId = some (if f = 0 then (if s.fuses.gradeF then 0x0A71 else 0x0A70) else 0xFFFF) ∧
    configRead s f .maxPayload = some s.fns[f].ctl.payload.toNat ∧ configRead s f .uncorrStatus = some s.fns[f].aer.uncorr.toNat ∧
    configRead s f .msixVectors = some (if f = 0 then 32 else 16) ∧ configRead s f .bar0Size = some (if f = 0 then 2 ^ 24 else 2 ^ 16) ∧
    configRead s 0 .numVfs = some s.hst.numVfs.toNat ∧ configRead s 0 .serialNumber = some s.fuses.serial.toNat ∧
    (f ≠ 0 → configRead s f .numVfs = none ∧ configRead s f .serialNumber = none ∧ configRead s f .ptmEnable = none)

/-- Registers and configuration fields take writes by their access type. -/
def Obligations.RegisterWritesByAccessType : Prop :=
  rwsWritesLandInTheShadow ∧ writeOneClearsAndReadOnlyStays ∧ configurationSpace

/-! ### Interrupts (R62, R63, R298) -/

/-- A write of an interrupt mask sends one message for each distinct vector of the causes that read 1 and whose mask bit
clears, or holds it in the PBA (R62, R63); nothing but the mask, the PBA and what has left the device changes. -/
def maskWritesSendWhatIsDue : Prop :=
  ∀ (s : State) (f : Fn) (v : Word), s.hostOk f = true →
    (f = 0 → Gives (.irqMaskWrite 0 0 v) s (fun t => t.pf = { s.pf with irqMask := v.setWidth 15 } ∧
      t = { s with pf := t.pf, fns := t.fns, out := t.out, resp := {} })) ∧
    (∀ q : PlotId, q ≠ 0 → f = 0 ∨ f = q → Gives (.irqMaskWrite f q v) s (fun t =>
      t.plot q = { s.plot q with plt := { (s.plot q).plt with irqMask := v.setWidth 13 } } ∧
      (∀ p : PlotId, p ≠ q → t.plot p = s.plot p) ∧ t = { s with plots := t.plots, fns := t.fns, out := t.out, resp := {} } ∧
      ((s.plot q).plt.irqMask &&& ~~~ (v.setWidth 13) &&& (s.plot q).plt.irqStatus = 0 → t.fns = s.fns ∧ t.out = s.out) ∧
      (∀ c : Nat, c < 13 → (s.plot q).plt.irqMask &&& ~~~ (v.setWidth 13) &&& (s.plot q).plt.irqStatus = BitVec.twoPow 13 c →
        s.fns[q].msixEn = true → s.permitted q = true → s.fns[q].fmask = false →
        ∀ e : Fin 32, e.val = (s.plot q).plt.vector c → s.fns[q].msix[e].mask = false →
        t.out = s.out ++ [.msix q s.fns[q].msix[e].addr.toNat s.fns[q].msix[e].data])))

/-- MSI-X Enable and Function Mask: clearing the enable clears every PBA bit and sends nothing; setting it makes each vector
with an unmasked cause due once. Clearing a vector's Mask bit sends the message its PBA bit holds, once (R298). -/
def msixControlAndUnmask : Prop :=
  ∀ (s : State) (f : Fn),
    (s.cfgOk f = true → ∀ mask, Gives (.msixEnableWrite f false mask) s (fun t =>
      t.fns[f] = { s.fns[f] with msixEn := false, fmask := mask, pba := 0 } ∧ (∀ g : Fn, g ≠ f → t.fns[g] = s.fns[g]) ∧
      t = { s with fns := t.fns })) ∧
    (s.cfgOk f = true → s.fns[f].msixEn = false → ∀ mask, Gives (.msixEnableWrite f true mask) s (fun t =>
      t.fns[f] = { s.fns[f] with msixEn := true, fmask := mask, pba := t.fns[f].pba } ∧ (∀ g : Fn, g ≠ f → t.fns[g] = s.fns[g]) ∧
      (pendingVectors s f = [] → t.out = s.out ∧ t.fns[f].pba = s.fns[f].pba) ∧ t = { s with fns := t.fns, out := t.out })) ∧
    (s.hostOk f = true → ∀ v : Fin 32, v.val < (if f = 0 then 32 else 16) → Gives (.msixVectorUnmask f v) s (fun t =>
      t.fns[f].msix[v].mask = false ∧ (∀ w : Fin 32, w ≠ v → t.fns[f].msix[w] = s.fns[f].msix[w]) ∧
      (∀ g : Fn, g ≠ f → t.fns[g] = s.fns[g]) ∧ t = { s with fns := t.fns, out := t.out, resp := {} } ∧
      (s.fns[f].pba = BitVec.twoPow 32 v.val → s.fns[f].msixEn = true → s.fns[f].fmask = false → s.permitted f = true →
        t.fns[f].pba = 0 ∧ t.out = s.out ++ [.msix f s.fns[f].msix[v].addr.toNat s.fns[f].msix[v].data])))

/-- Masks, MSI-X Enable and vector masks send what is due. A mask write sends or holds one message for each vector
that becomes due; MSI-X Enable cleared clears the PBA; unmasking a vector sends the message its PBA bit holds. -/
def Obligations.InterruptMessages : Prop := maskWritesSendWhatIsDue ∧ msixControlAndUnmask

/-! ### PTM (R300) -/

/-- A PTM dialog starts at GO or at the automatic timer unless one is in flight, its request sent while the PF's requests are
permitted; a ResponseD stores the four values and counts the dialog at once, T1 and T4 being FRM_TIME at the request and at the
receipt; NO_RESP is set when none comes within 10 ms and when GO is written while PTM Enable is 0; a GO
while BUSY is ignored (R300). -/
def Obligations.PtmDialogs : Prop :=
  ∀ s : State,
    (∀ v : Word, s.hostOk 0 = true → v.getLsbD 31 = true → s.hst.ptmEn = true → s.hst.ptmBusy = false →
      s.permitted 0 = true → Gives (.ptmGo v) s (fun t => t = { s with
        hst := { s.hst with ptmAuto := v.setWidth 8, ptmBusy := true, ptmAt := s.boot.tclk, ptmSent := true },
        out := s.out ++ [.ptmRequest], resp := {} })) ∧
    (∀ v : Word, s.hostOk 0 = true → v.getLsbD 31 = true → s.hst.ptmEn = true → s.hst.ptmBusy = false →
      s.permitted 0 = false → Gives (.ptmGo v) s (fun t => t = { s with
        hst := { s.hst with ptmAuto := v.setWidth 8, ptmBusy := true, ptmAt := s.boot.tclk, ptmSent := false }, resp := {} })) ∧
    (∀ v : Word, s.hostOk 0 = true → v.getLsbD 31 = true → s.hst.ptmEn = true → s.hst.ptmBusy = true →
      Gives (.ptmGo v) s (fun t => t = { s with hst := { s.hst with ptmAuto := v.setWidth 8 }, resp := {} })) ∧
    (∀ v : Word, s.hostOk 0 = true → v.getLsbD 31 = true → s.hst.ptmEn = false →
      Gives (.ptmGo v) s (fun t => t = { s with hst := { s.hst with ptmAuto := v.setWidth 8, ptmNoResp := true }, resp := {} })) ∧
    (s.isReady = true → s.hst.ptmEn = true → s.hst.ptmAuto ≠ 0 → s.hst.ptmBusy = false → s.permitted 0 = true →
      Gives .ptmAutoTimer s (fun t => t = { s with
        hst := { s.hst with ptmBusy := true, ptmAt := s.boot.tclk, ptmSent := true }, out := s.out ++ [.ptmRequest] })) ∧
    (∀ (wait : Nat) (m : Word64) (prop : Word), s.isReady = true → s.boot.readyAt ≤ s.hst.ptmAt → s.hst.ptmBusy = true →
      s.hst.ptmSent = true → wait ≤ 1000000 → s.boot.tclk ≤ s.hst.ptmAt + wait →
      Gives (.ptmResponse wait m prop) s (fun t =>
        t = { s with
          boot := { s.boot with tclk := s.hst.ptmAt + wait },
          hst := { s.hst with
            ptmBusy := false, ptmValid := true, ptmNoResp := false, dialogs := satInc s.hst.dialogs, ptmMaster := m, ptmProp := prop,
            ptmT1 := BitVec.ofNat 64 (min (10 * (s.hst.ptmAt - s.boot.readyAt)) (2 ^ 64 - 1)), ptmT4 := BitVec.ofNat 64 t.frmTime } })) ∧
    (s.hst.ptmBusy = true → Gives .ptmNoResponse s (fun t => t = { s with
      hst := { s.hst with ptmBusy := false, ptmNoResp := true },
      boot := { s.boot with tclk := max s.boot.tclk (s.hst.ptmAt + 1000000) } }))

/-! ### Rings, descriptors, images (R45 to R51) -/

/-- A ring error as R46 has it: the indices stay, PLT_RING_ERR is set, RING_ERR is raised and one line is written. -/
def ringErrorOf (s : State) (q : PlotId) (reason : BitVec 4) (index : BitVec 16) (t : State) : Prop :=
  (t.plot q).plt = { (s.plot q).plt with
    errReason := reason, errIndex := index, irqStatus := (s.plot q).plt.irqStatus ||| 0x8 } ∧
  (∀ p : PlotId, p ≠ q → t.plot p = s.plot p) ∧ t.log.next = satInc s.log.next ∧
  t.log.lines.head? = some { seq := s.log.next.toNat, time := s.frmTime, code := 0x12, plot := q.val, node := none,
                             arg0 := reason.toNat, arg1 := index.toNat }

/-- A write of PLT_SQ_TAIL or PLT_CQ_HEAD that would make the occupancy exceed 256 is ignored, with REASON, cause and log
line; a write of PLT_SQ_TAIL while RING_EN is 0 likewise (R46). -/
def Obligations.RingIndexErrors : Prop :=
  ∀ (s : State) (f : Fn) (q : PlotId) (v : Word), s.hostOk f = true → q ≠ 0 → f = 0 ∨ f = q →
    ((s.plot q).plt.ringEn = false → Gives (.sqTailWrite f q v) s (ringErrorOf s q 4 (v.setWidth 16))) ∧
    ((s.plot q).plt.ringEn = true → 256 < (v.setWidth 16 - (s.plot q).plt.sqHead).toNat →
      Gives (.sqTailWrite f q v) s (ringErrorOf s q 1 (v.setWidth 16))) ∧
    (256 < ((s.plot q).plt.cqTail - v.setWidth 16).toNat →
      Gives (.cqHeadWrite f q v) s (ringErrorOf s q 2 (v.setWidth 16)))

/-- A doorbell within the ring takes effect, and the descriptor at the head, at the ring base plus 64 × (index mod 256), is
fetched at once under the plot's own function (R45, R48, R291); a completion head within the ring takes effect. -/
def doorbellsWithinTheRing : Prop :=
  ∀ (s : State) (f : Fn) (q : PlotId) (v : Word), s.hostOk f = true → q ≠ 0 → f = 0 ∨ f = q →
    ((s.plot q).plt.ringEn = true → (v.setWidth 16 - (s.plot q).plt.sqHead).toNat ≤ 256 →
      Gives (.sqTailWrite f q v) s (fun t =>
        (t.plot q).plt.sqTail = v.setWidth 16 ∧ (t.plot q).plt.sqHead = (s.plot q).plt.sqHead ∧
        (∀ p : PlotId, p ≠ q → t.plot p = s.plot p) ∧ t.log = s.log ∧
        ((s.plot q).plt.head = .empty → (s.plot q).plt.ringHalt = false → v.setWidth 16 ≠ (s.plot q).plt.sqHead →
          s.permitted q = true → (t.plot q).plt.head = .fetchingDesc ∧
          t.out = s.out ++ [.readReq q ((s.plot q).plt.sqBase.toNat + 64 * ((s.plot q).plt.sqHead.toNat % 256)) 64
            s.maxRead s.tagBits]))) ∧
    (((s.plot q).plt.cqTail - v.setWidth 16).toNat ≤ 256 → (s.plot q).plt.formed = [] →
      Gives (.cqHeadWrite f q v) s (fun t =>
        t.plot q = { s.plot q with plt := { (s.plot q).plt with cqHead := v.setWidth 16 } } ∧
        (∀ p : PlotId, p ≠ q → t.plot p = s.plot p) ∧ t = { s with plots := t.plots, resp := {} }))

/-- A device read that fails is counted for the device and its function and shown in HST_DMA_LAST and in the function's AER status
(R299). A Completion Timeout does not come before the function's timeout has passed (R289). -/
def dmaCounted (f : Fn) (k : ReadFail) (s t : State) : Prop :=
  t.hst = { s.hst with
    dmaErrCnt := satInc s.hst.dmaErrCnt, pDmaErr := s.hst.pDmaErr.set f (satInc s.hst.pDmaErr[f]),
    dmaLast := BitVec.ofNat 32 (2 ^ 25 * f.val + match k with | .ur => 1 | .ca => 2 | .poisoned => 3 | .timeout => 4 | .ecrc => 5) } ∧
  t.fns[f].aer.uncorr = setBit s.fns[f].aer.uncorr (readFailBit k) true ∧ (k ≠ .timeout → t.boot = s.boot)

/-- Fetches (R48 to R51, R299): a good descriptor has its image fetched; one that fails its check completes the job with
DESC and PLT_SQ_HEAD advances past it; a failed descriptor fetch halts the ring with REASON FETCH and no advance; a failed
image fetch completes the job with HOST_DMA; a matching image makes the job the ring head. While requests are not permitted no
image is asked for (R292); that the descriptor is then fetched anew is the model's reading, log entry 232. -/
def descriptorAndImageFetches : Prop :=
  ∀ (s : State) (q : PlotId), q ≠ 0 →
    (∀ b, (s.plot q).plt.head = .fetchingDesc → descOk (slice b 0 64) = true → (descOf b).reuse = false → s.permitted q = true →
      Gives (.descriptorFetch q (.bytes b)) s (fun t =>
        (t.plot q).plt = { (s.plot q).plt with head := .fetchingImage (descOf b) } ∧
        t.out = s.out ++ [.readReq q (descOf b).imageAddr (descOf b).imageLen s.maxRead s.tagBits])) ∧
    (∀ b, (s.plot q).plt.head = .fetchingDesc → descOk (slice b 0 64) = true → (descOf b).reuse = false → s.permitted q = false →
      Gives (.descriptorFetch q (.bytes b)) s (fun t =>
        (t.plot q).plt = { (s.plot q).plt with head := .empty } ∧ t.out = s.out)) ∧
    (∀ b, (s.plot q).plt.head = .fetchingDesc → descOk (slice b 0 64) = false →
      Gives (.descriptorFetch q (.bytes b)) s (fun t =>
        (t.plot q).plt.sqHead = (s.plot q).plt.sqHead + 1 ∧
        ∃ j, (t.plot q).plt.jobs = (s.plot q).plt.jobs ++ [j] ∧ j.code = .desc ∧ j.phase = .over ∧ j.attempts = 0 ∧
          j.idx = (s.plot q).plt.sqHead ∧ j.desc = descOf b)) ∧
    (∀ k, (s.plot q).plt.head = .fetchingDesc → Gives (.hostReadError q .descriptor k) s (fun t =>
      (t.plot q).plt.ringHalt = true ∧ (t.plot q).plt.errReason = 3 ∧ (t.plot q).plt.sqHead = (s.plot q).plt.sqHead ∧
      (t.plot q).plt.head = .empty ∧ dmaCounted q k s t)) ∧
    (∀ k d, (s.plot q).plt.head = .fetchingImage d → Gives (.hostReadError q .image k) s (fun t =>
      (t.plot q).plt.sqHead = (s.plot q).plt.sqHead + 1 ∧
      dmaCounted q k s t ∧
      ∃ j, (t.plot q).plt.jobs = (s.plot q).plt.jobs ++ [j] ∧ j.code = .hostDma ∧ j.phase = .over ∧ j.attempts = 0)) ∧
    (∀ b ops d i, (s.plot q).plt.head = .fetchingImage d → b.length = d.imageLen → imageOf b d.imageLen ops = some i →
      i.inMin ≤ d.inLen → i.outMax ≤ d.outLen →
      Gives (.imageFetch q (.bytes b) ops) s (fun t => t.plot q = { s.plot q with plt := { (s.plot q).plt with head := .ready d i } } ∧
        (∀ p : PlotId, p ≠ q → t.plot p = s.plot p) ∧ t = { s with plots := t.plots })) ∧
    (∀ b ops d, (s.plot q).plt.head = .fetchingImage d → imageOf b d.imageLen ops = none →
      Gives (.imageFetch q (.bytes b) ops) s (fun t =>
        (t.plot q).plt.sqHead = (s.plot q).plt.sqHead + 1 ∧
        ∃ j, (t.plot q).plt.jobs = (s.plot q).plt.jobs ++ [j] ∧ j.code = .image ∧ j.phase = .over ∧ j.attempts = 0))

/-- Doorbells and the fetches of descriptors and images. A doorbell within the ring fetches the descriptor at the
head; a good one has its image fetched; each check that fails completes the job with its code or halts the ring. -/
def Obligations.DoorbellsAndFetches : Prop := doorbellsWithinTheRing ∧ descriptorAndImageFetches

/-- A write lost before it leaves the device, by an uncorrectable error in the host link's own buffers, is an Uncorrectable
Internal Error of its function: a job's output faults the job with HOST_DMA, and its abandonment begins at detection with its
private copies discarded; a random request and a report end with HOST_DMA (Table 12-5, R56, R57). A job's input that cannot be
read faults it the same way (R299). -/
def Obligations.LostWritesEndTheirWork : Prop :=
  ∀ (s : State) (q : PlotId),
    (∀ (i : BitVec 16) (j : Job), (s.plot q).plt.job? i = some j → j.phase ≠ .abandoning → j.budget = false → j.deadline = false →
      (s.isReady = true → Gives (.hostWriteLoss q (.jobOutput i)) s (fun t =>
        (∀ k ∈ (t.plot q).plt.jobs, k.idx = i → k.live = true →
          k.phase = .abandoning ∧ k.code = .hostDma ∧ k.node = none ∧ k.ovl = [] ∧ k.copies = []) ∧
        t.fns[q].aer.uncorr = setBit s.fns[q].aer.uncorr 22 true)) ∧
      ∀ k, Gives (.hostReadError q (.jobInput i) k) s (fun t =>
        (∀ k ∈ (t.plot q).plt.jobs, k.idx = i → k.live = true →
          k.phase = .abandoning ∧ k.code = .hostDma ∧ k.node = none ∧ k.ovl = [] ∧ k.copies = []) ∧
        t.hst.dmaErrCnt = satInc s.hst.dmaErrCnt)) ∧
    (s.isReady = true → s.att.sets[q].busy = true → Gives (.hostWriteLoss q .report) s (fun t =>
      t.att.sets[q] = { s.att.sets[q] with busy := false, result := 3 } ∧
      t = { s with att := t.att, fns := t.fns, out := t.out, free := t.free })) ∧
    (s.isReady = true → s.nse.rng[q].busy = true → Gives (.hostWriteLoss q .rng) s (fun t =>
      t.nse.rng[q].busy = false ∧ t.nse.rng[q].result = 3))

/-! ### Reports and the log (chapter 14) -/

/-- ATT_REQ.GO captures the request's address and has its 144 bytes read; a GO while BUSY is ignored. The report ends with
BUSY 0 and a RESULT: OK with the report written at the captured address + 256, BAD_KEY where the public key is no valid
point, HOST_DMA where a transfer fails, KEY_FAIL in a boot without K (R347, R348, Table 14-7). That a GO whose request may not be read
ends with HOST_DMA is the model's reading, log entry 240. -/
def attestationReports : Prop :=
  ∀ (s : State) (f : Fn) (q : PlotId),
    (s.hostOk f = true → f = 0 ∨ f = q → s.att.sets[q].busy = false → s.permitted q = true →
      Gives (.attRequest f q) s (fun t =>
        t.att.sets[q] = { s.att.sets[q] with busy := true, result := 0, cap := s.att.sets[q].addr } ∧
        t = { s with
          att := t.att, hst := { s.hst with asked := t.hst.asked }, resp := {},
          out := s.out ++ [.readReq q s.att.sets[q].addr.toNat 144 s.maxRead s.tagBits] })) ∧
    (s.hostOk f = true → f = 0 ∨ f = q → s.att.sets[q].busy = false → s.permitted q = false →
      Gives (.attRequest f q) s (fun t =>
        t.att.sets[q] = { s.att.sets[q] with busy := false, result := 3, cap := s.att.sets[q].addr } ∧
        t = { s with att := t.att, resp := {} })) ∧
    (s.hostOk f = true → s.att.sets[q].busy = true → Gives (.attRequest f q) s (fun t => t = { s with resp := {} })) ∧
    (∀ b, s.att.sets[q].busy = true → s.aux.key ≠ none ∨ s.aux.keyFail = true →
      (p384Valid (slice b 48 96) = false → ∀ w, Gives (.attReportDone q (.bytes b) w) s (fun t =>
        t.att.sets[q] = { s.att.sets[q] with busy := false, result := 2 } ∧ t = { s with att := t.att })) ∧
      (p384Valid (slice b 48 96) = true → s.permitted q = true → Gives (.attReportDone q (.bytes b) true) s (fun t =>
        t.att.sets[q] = { s.att.sets[q] with busy := false, result := if s.aux.keyFail then 4 else 1 } ∧
        ∃ bytes : List Byte, bytes.length = 384 ∧
          t = { s with att := t.att, out := s.out ++ [.write q (s.att.sets[q].cap.toNat + 256) bytes false s.maxPayload], free := s.free + 1 })) ∧
      (p384Valid (slice b 48 96) = true → Gives (.attReportDone q (.bytes b) false) s (fun t =>
        t.att.sets[q] = { s.att.sets[q] with busy := false, result := 3 } ∧ t = { s with att := t.att })) ∧
      ∀ k w, Gives (.attReportDone q (.failed k) w) s (fun t =>
        t.att.sets[q] = { s.att.sets[q] with busy := false, result := 3 } ∧ t.hst.dmaErrCnt = satInc s.hst.dmaErrCnt))

/-- A write of LOG_ACK takes the value written, at most LOG_NEXT − 1, and is ignored while no line exists (R350); the PF holds no
half of it afterwards (R14). -/
def logAckIsBounded : Prop :=
  ∀ (s : State) (v : Word64), s.hostOk 0 = true →
    Gives (.logAckWrite v) s (fun t =>
      t.log = { s.log with ack := if s.log.next = 0 then s.log.ack else if v < s.log.next then v else s.log.next - 1 } ∧
      t.fns[(0 : Fn)].held.lookup 0xD0008 = none ∧ (∀ b, b ≠ 0xD0008 → t.fns[(0 : Fn)].held.lookup b = s.fns[(0 : Fn)].held.lookup b) ∧
      (∀ g : Fn, g ≠ 0 → t.fns[g] = s.fns[g]) ∧ t = { s with log := t.log, fns := t.fns, resp := {} })

/-- Attestation reports and LOG_ACK. A request captures its address and ends with a RESULT and, when OK, a report
written; LOG_ACK takes at most LOG_NEXT - 1 and nothing while no line exists. -/
def Obligations.ReportsAndLogAck : Prop := attestationReports ∧ logAckIsBounded

/-! ### The plot state machine (R44, Table 2-2), stops and clearing (R59, R60), resets (R61, Table 2-6) -/

/-- PLT_STATUS.STATE takes a value; a change raises the plot's STATE cause. -/
def movedSet (p : PltSet) (st : PlotState) : PltSet :=
  if p.state = st then p else { p with state := st, irqStatus := p.irqStatus ||| 0x10 }

/-- A stop of work in flight begins: out of admission, every admitted job that has not finished is cancelled (R59). -/
def stoppedSet (p : PltSet) : PltSet := movedSet { p with jobs := p.jobs.map Job.cancel, snapHead := false } .stopping

/-- The rows of Table 2-2 for EN and VF_READY; `ok` says that both read 1. -/
def reviewedSet (p : PltSet) (ok : Bool) : PltSet :=
  match p.state, ok with
  | .idle, false => movedSet p .disabled
  | .disabled, true => movedSet p .idle
  | .running, false => stoppedSet p
  | _, _ => p

/-- A reset of a plot: ring indices, RING_EN and IRQ status to 0; then the row of Table 2-2 for a reset. -/
def resetSet (p : PltSet) : PltSet :=
  let z := { p with sqTail := 0, sqHead := 0, cqTail := 0, cqHead := 0, ringEn := false, ringHalt := false, irqStatus := 0,
                    head := .empty, snapHead := false }
  match p.state with
  | .unassigned => z
  | .disabled | .idle => movedSet { z with clearAll := true } .clearing
  | .running => stoppedSet { z with reqReset := true, clearAll := true }
  | .stopping => { z with reqReset := true, clearAll := true }
  | .clearing => { z with clearAll := true }

/-- PLT_CTL.EN written by the PF moves the plot as Table 2-2 has it, with VF_READY as it reads: IDLE and DISABLED at once, a
RUNNING plot by a stop of its work. A change of STATE sets the plot's bit of PLT_CHG_MAP and the causes STATE and PLOT_STATE;
without a stop nothing else of the plot changes. -/
def plotEnableMovesThePlot : Prop :=
  ∀ (s : State) (q : PlotId) (en fe : Bool), s.hostOk 0 = true → q ≠ 0 → Gives (.plotEnableWrite q en fe) s (fun t =>
    let p := { (s.plot q).plt with en := en, pfFaultEn := fe }
    (t.plot q).plt = reviewedSet p (en && s.vfReady q) ∧
    ((t.plot q).plt.state ≠ p.state → t.pf.chgMap.getLsbD (q.val - 1) = true ∧ t.pf.irqStatus.getLsbD 4 = true) ∧
    ((t.plot q).plt.state = p.state → t.pf = s.pf ∧ t.out = s.out) ∧
    (p.state ≠ .running ∨ (en && s.vfReady q) = true → t.plot q = { s.plot q with plt := (t.plot q).plt }))

/-- CANCEL_ALL takes a RUNNING plot to STOPPING: every admitted job whose last frame program has not finished is cancelled,
its page copies are discarded, and the rest of the plot's rings and registers stays. In any other state it does nothing
(R44, R59). -/
def cancelAllStopsARunningPlot : Prop :=
  ∀ (s : State) (f : Fn) (q : PlotId), s.hostOk f = true → q ≠ 0 → f = 0 ∨ f = q →
    ((s.plot q).plt.state = .running → Gives (.cancelAll f q) s (fun t =>
      (t.plot q).plt = stoppedSet (s.plot q).plt ∧
      (∀ j ∈ (t.plot q).plt.jobs, j.live = true → j.phase ≠ .finished → j.phase = .abandoning ∧ j.code = .cancelled ∧ j.ovl = []) ∧
      t.log = s.log)) ∧
    ((s.plot q).plt.state ≠ .running → Gives (.cancelAll f q) s (fun t => t = { s with resp := {} }))

/-- When a stop ends, its cancelled jobs have completed and the next state is taken from the strongest request received since
the stop began: reassignment or reset first, then disable; else IDLE when EN reads 1 and VF_READY holds, or DISABLED (R44).
A command at any other time does nothing. -/
def stopEndsByTheStrongestRequest : Prop :=
  ∀ (s : State) (q : PlotId),
    ((s.plot q).plt.state = .stopping → Gives (.stopEnd q) s (fun t =>
      (t.plot q).plt = movedSet { (s.plot q).plt with jobs := (t.plot q).plt.jobs }
        (if (s.plot q).plt.reqReset || (s.plot q).plt.reqReassign then .clearing
         else if (s.plot q).plt.en && s.vfReady q then .idle else .disabled) ∧
      (∀ j ∈ (t.plot q).plt.jobs, j.live = true → j.phase ≠ .abandoning) ∧
      (∀ j ∈ (s.plot q).plt.jobs, ¬ (j.live = true ∧ j.phase = .abandoning) → j ∈ (t.plot q).plt.jobs) ∧
      (t.plot q).plt.jobs.length = (s.plot q).plt.jobs.length ∧ t.pf.chgMap.getLsbD (q.val - 1) = true)) ∧
    ((s.plot q).plt.state ≠ .stopping → Gives (.stopEnd q) s (fun t => t = s))

/-- PLT_CTL, CANCEL_ALL and the end of a stop move a plot as Table 2-2 has it. EN moves the plot at once or by a stop;
CANCEL_ALL stops a RUNNING plot only; a stop ends by the strongest request received. -/
def Obligations.PlotStateMachine : Prop :=
  plotEnableMovesThePlot ∧ cancelAllStopsARunningPlot ∧ stopEndsByTheStrongestRequest

/-- Clearing writes zero to all of the plot's memory and to no other plot's, and ends in UNASSIGNED when the plot has no
engine left, else in IDLE or DISABLED (R60, Table 2-2); after a change of the engine set it zeroes the commons pages of the quota,
home pages and cache frames, and clears the captured anneal state (R146). No poison of what it zeroes is left (R120). Clearing has
not ended while a CANCELLED record of the stop is still to be issued (Table 2-5). -/
def Obligations.ClearingZeroesThePlotAlone : Prop :=
  ∀ (s : State) (q : PlotId), (s.plot q).plt.state = .clearing →
    ((∀ j ∈ (s.plot q).plt.jobs, j.code ≠ .cancelled) → Gives (.clearingEnd q) s (fun t =>
      ((s.plot q).plt.clearAll = true → (∀ a < plotSpan, t.peekMem q a = 0) ∧
        (∀ l ∈ t.msh.poison, engineLine s.cfg.content q.val l = false) ∧ (t.plot q).msh.resident = []) ∧
      ((s.plot q).plt.clearAll = false →
        (∀ a, 0x90000000 ≤ a → a < 0x9B000000 → t.peekMem q a = 0) ∧
        (∀ r ∈ (s.plot q).msh.resident, r.home = none → ∀ a < plotSpan, a / 65536 = 0x80000 + r.page → t.peekMem q a = 0) ∧
        (∀ a < plotSpan, (a < 0x90000000 ∨ 0x9B000000 ≤ a) →
          (∀ r ∈ (s.plot q).msh.resident, r.home = none → a / 65536 ≠ 0x80000 + r.page) → t.peekMem q a = s.peekMem q a)) ∧
      (∀ l ∈ t.msh.poison, quotaLine s.msh q.val l = false) ∧ (t.plot q).an.captured = false ∧ (t.plot q).an.tiles = [] ∧
      (∀ p : PlotId, p ≠ q → t.plot p = s.plot p ∧ ∀ a < plotSpan, t.peekMem p a = s.peekMem p a) ∧
      (t.plot q).plt = movedSet { (s.plot q).plt with reqReset := false, reqReassign := false, clearAll := false }
        (if s.cfg.content.ownsAny q.val = false then .unassigned
         else if (s.plot q).plt.en && s.vfReady q then .idle else .disabled))) ∧
    ((∃ j ∈ (s.plot q).plt.jobs, j.code = .cancelled) → Gives (.clearingEnd q) s (fun t => t = s))

/-- A plot reset sets the ring indices, RING_EN and the IRQ status to 0, stops work in flight, and asks for the clearing of
all the plot's engines and pages; bases, masks, vectors and PLT_CTL stay, memory stays until the clearing ends, and an
outstanding random request ends (R61, Table 2-6, R158). -/
def plotResetZeroesRings : Prop :=
  ∀ (s : State) (f : Fn) (q : PlotId), s.hostOk f = true → q ≠ 0 → f = 0 ∨ f = q →
    Gives (.plotReset f q) s (fun t =>
      (t.plot q).plt = resetSet (s.plot q).plt ∧ t.nse.rng[q].busy = false ∧
      (∀ p : PlotId, p ≠ q → t.nse.rng[p] = s.nse.rng[p]))

/-- A function's space after its FLR: as at reset, but Max_Payload_Size and the AER registers stay (log entry 236). -/
def afterFlr (f : FnState) : FnState := { ctl := { payload := f.ctl.payload }, aer := f.aer }

/-- A VF FLR resets its plot, its configuration space, its MSI-X table, its latches and copies, and the plot's bases, masks
and vectors; clearing VF Enable does so for every VF; a PF FLR also resets the PF's own space and clears VF Enable, VF MSE and
NumVFs (Table 2-6). The values of the PF's space after its FLR rest on log entry 41. -/
def functionLevelResets : Prop :=
  (∀ (s : State) (p : PlotId), s.cfgOk p = true → p ≠ 0 → Gives (.vfFlr p) s (fun t =>
    t.fns[p] = afterFlr s.fns[p] ∧ (t.plot p).plt = (resetSet (s.plot p).plt).resetVf ∧
    (∀ g : Fn, g ≠ 0 → g ≠ p → t.fns[g] = s.fns[g]))) ∧
  (∀ s : State, s.cfgOk 0 = true → s.hst.vfEn = true → Gives .vfEnableClear s (fun t =>
    t.hst = { s.hst with vfEn := false } ∧
    t.fns[(0 : Fn)] = { s.fns[(0 : Fn)] with latches := [], held := [], sels := [], logValid := false, pba := t.fns[(0 : Fn)].pba } ∧
    ∀ p : PlotId, p ≠ 0 → t.fns[p] = afterFlr s.fns[p] ∧ (t.plot p).plt = (resetSet (s.plot p).plt).resetVf)) ∧
  (∀ s : State, s.cfgOk 0 = true → Gives .pfFlr s (fun t =>
    t.hst = { s.hst with vfEn := false, numVfs := 0, memSpace := false, vfMemSpace := false, ari := false, ptmEn := false } ∧
    t.pf.irqMask = 0x7FFF ∧ t.fns[(0 : Fn)] = afterFlr s.fns[(0 : Fn)] ∧ t.nse.rng[(0 : Fn)].busy = false ∧ t.cfg.content = s.cfg.content ∧
    ∀ p : PlotId, p ≠ 0 → t.fns[p] = afterFlr s.fns[p] ∧ (t.plot p).plt = (resetSet (s.plot p).plt).resetVf))

/-- Plot resets and function-level resets. A plot reset, a VF FLR, clearing VF Enable and a PF FLR return what Table
2-6 lists to reset and nothing else of the sets named. The PF's own configuration values rest on log entry 41. -/
def Obligations.ResetsOfPlotsAndFunctions : Prop := plotResetZeroesRings ∧ functionLevelResets

/-- Bus Master Enable and the power states decide what a function may request (R42, R292, R301): a VF's plot leaves IDLE or
stops when its requests end and returns to IDLE when they may go and EN reads 1; D3hot of the PF does so for every plot; a
load that is being fetched fails with FETCH when the PF's requests end. -/
def Obligations.RequestsFollowMasterEnableAndPower : Prop :=
  (∀ (s : State) (p : PlotId) (on : Bool), p ≠ 0 → s.cfgOk p = true →
    Gives (.busMasterEnableWrite p on) s (fun t => t.fns[p].bme = on ∧ t.fns[p].d3 = s.fns[p].d3 ∧
      (∀ q : PlotId, q ≠ p → t.plot q = s.plot q) ∧
      (t.plot p).plt.state = (reviewedSet (s.plot p).plt
        ((s.plot p).plt.en && (s.modFn p (fun g => { g with bme := on })).vfReady p)).state)) ∧
  (∀ (s : State) (on : Bool), s.cfgOk 0 = true → Gives (.busMasterEnableWrite 0 on) s (fun t =>
    t.fns[(0 : Fn)].bme = on ∧ (∀ p : PlotId, (t.plot p).plt = (s.plot p).plt) ∧
    (s.cfg.load = .fetching → on = false → t.cfg.load = .idle ∧ t.cfg.err = 1) ∧
    (s.cfg.load ≠ .fetching → t.cfg = s.cfg))) ∧
  (∀ (s : State) (p : PlotId), p ≠ 0 → s.cfgOk p = true →
    Gives (.vfD3hotEnter p) s (fun t => t.fns[p].d3 = true ∧
      (t.plot p).plt.state = (reviewedSet (s.plot p).plt false).state) ∧
    Gives (.vfD0Return p) s (fun t => t.fns[p].d3 = false ∧
      (t.plot p).plt.state = (reviewedSet (s.plot p).plt
        ((s.plot p).plt.en && (s.modFn p (fun g => { g with d3 := false })).vfReady p)).state)) ∧
  (∀ s : State, s.cfgOk 0 = true →
    Gives .pfD3hotEnter s (fun t => t.fns[(0 : Fn)].d3 = true ∧
      (s.cfg.load = .fetching → t.cfg.load = .idle ∧ t.cfg.err = 1) ∧
      ∀ p : PlotId, p ≠ 0 → (t.plot p).plt.state = (reviewedSet (s.plot p).plt false).state) ∧
    Gives .pfD0Return s (fun t => t.fns[(0 : Fn)].d3 = false ∧
      ∀ p : PlotId, p ≠ 0 → (t.plot p).plt.state = (reviewedSet (s.plot p).plt
        ((s.plot p).plt.en && (s.modFn 0 (fun g => { g with d3 := false })).vfReady p)).state))

/-! ### What a command may write -/

/-- Every command leaves each area of the state that `areasOf` does not name for it exactly as it was: its frame. -/
def Obligations.CommandsWriteOnlyTheirAreas : Prop :=
  ∀ (c : Instr) (s t : State), exec c s = .next t → ∀ a : Area, a ∉ areasOf c → a.kept s t

/-- A command that names one plot, or none, leaves every other plot exactly as it was: no register, ring, job, page table or
engine value of another plot changes. -/
def Obligations.CommandsLeaveOtherPlotsAlone : Prop :=
  ∀ (c : Instr) (s t : State), exec c s = .next t → ∀ p : PlotId, touchesPlot c p = false → t.plot p = s.plot p

/-! ### Bit-streams (chapter 03) -/

/-- A load or bundle is gone with a result: nothing of it is left, and nothing committed has changed (R82, R88). -/
def droppedWith (s : State) (t : State) : Prop :=
  t.cfg = { s.cfg with arm := t.cfg.arm, load := .idle, err := t.cfg.err, last := t.cfg.last, kind := t.cfg.kind, file := [],
                       bundle := none, waitMap := 0, waited := 0, precheckFail := t.cfg.precheckFail, capAddr := t.cfg.capAddr,
                       capLen := t.cfg.capLen, commitErr := t.cfg.commitErr, refuseCnt := t.cfg.refuseCnt } ∧
  t.msh.staging = [] ∧ ∀ q : PlotId, (t.plot q).cfg.touched = false ∧ (t.plot q).cfg.waited = false ∧
    (t.plot q).rws = (s.plot q).rws ∧ (t.plot q).shadow = (s.plot q).shadow

/-- A LOAD_IGNORED line with the state that CFG_LOAD_STATUS reads, or read when its bundle joined commit steps 1 to 4 (R80). -/
def loadIgnored (s : State) (n : Nat) (t : State) : Prop :=
  t.log.lines.head? = some { seq := s.log.next.toNat, time := s.frmTime, code := 0x20, plot := 0xFF, node := none, arg0 := n, arg1 := 0 }

/-- LOAD outside IDLE, and LOAD during the commit steps 1 to 4 that a bundle joined, is ignored with a LOAD_IGNORED line, ABORT
beside it or not; in IDLE it captures CFG_SRC_ADDR and CFG_SRC_LEN, fails with SIZE for a length that is no multiple of 64 from
512 bytes to 16 MiB and with NO_SPACE when the commons has no pages left, and else reserves one 64 KiB page for each 65,536 bytes
begun and fetches the file as the PF, failing with FETCH where it may not (R80, R81, R292, Table 3-13). -/
def loadsStartFromIdle : Prop :=
  ∀ (s : State) (arm : Bool), s.hostOk 0 = true →
    (s.cfg.load ≠ .idle → s.cfg.load ≠ .waiting ∨ arm = true → s.inSteps14 = false ∨ s.cfg.joined = none →
      Gives (.cfgLoad false arm) s (fun t =>
        t.cfg = { s.cfg with arm := arm } ∧ t.msh = s.msh ∧ loadIgnored s s.cfg.load.num t)) ∧
    (∀ abort n, s.cfg.load = .idle → s.inSteps14 = true → s.cfg.joined = some n → Gives (.cfgLoad abort arm) s (fun t =>
      t.cfg = { s.cfg with arm := arm } ∧ t.msh = s.msh ∧ loadIgnored s n t)) ∧
    (s.cfg.load ≠ .idle → s.inSteps14 = true → s.cfg.joined = none → Gives (.cfgLoad true arm) s (fun t =>
      droppedWith s t ∧ t.cfg.err = 0x0F ∧ t.log.lines.head?.map (fun l => (l.code, l.arg0)) = some (0x20, s.cfg.load.num))) ∧
    (∀ abort, s.cfg.load = .idle → s.inSteps14 = false ∨ s.cfg.joined = none →
      s.cfg.srcLen.toNat % 64 ≠ 0 ∨ s.cfg.srcLen.toNat < 512 ∨ 2 ^ 24 < s.cfg.srcLen.toNat →
      Gives (.cfgLoad abort arm) s (fun t => droppedWith s t ∧ t.cfg.err = 0x02 ∧ t.cfg.last = 2 ∧ t.pf.irqStatus.getLsbD 3 = true)) ∧
    (∀ abort, s.cfg.load = .idle → s.inSteps14 = false ∨ s.cfg.joined = none →
      s.cfg.srcLen.toNat % 64 = 0 → 512 ≤ s.cfg.srcLen.toNat → s.cfg.srcLen.toNat ≤ 2 ^ 24 →
      (reservePages (usedPages s.msh) ((s.cfg.srcLen.toNat + 65535) / 65536) 0 = none →
        Gives (.cfgLoad abort arm) s (fun t => droppedWith s t ∧ t.cfg.err = 0x0E ∧ t.cfg.last = 2)) ∧
      (∀ ps, reservePages (usedPages s.msh) ((s.cfg.srcLen.toNat + 65535) / 65536) 0 = some ps →
        (s.permitted 0 = false → Gives (.cfgLoad abort arm) s (fun t => droppedWith s t ∧ t.cfg.err = 0x01 ∧ t.cfg.last = 2)) ∧
        (s.permitted 0 = true → Gives (.cfgLoad abort arm) s (fun t =>
          t.cfg = { s.cfg with arm := arm, load := .fetching, capAddr := s.cfg.srcAddr, capLen := s.cfg.srcLen.toNat,
                               precheckFail := false } ∧
          t.msh = { s.msh with staging := ps } ∧
          t.out = s.out ++ [.readReq 0 s.cfg.srcAddr.toNat s.cfg.srcLen.toNat s.maxRead s.tagBits]))))

/-- ABORT discards a load or bundle with ERR = ABORTED and a line, and in IDLE does nothing; ARM is the bit written, and
clearing it in WAITING takes the bundle back to STAGED (Table 3-13). -/
def abortAndArm : Prop :=
  ∀ (s : State) (arm : Bool), s.hostOk 0 = true →
    (s.cfg.load ≠ .idle → Gives (.cfgAbort arm) s (fun t =>
      droppedWith s t ∧ t.cfg.arm = arm ∧ t.cfg.err = 0x0F ∧ t.cfg.last = 2 ∧
      t.log.lines.head? = some { seq := s.log.next.toNat, time := s.frmTime, code := 0x21, plot := 0xFF, node := none,
                                 arg0 := 0x0F, arg1 := 0 })) ∧
    (s.cfg.load = .idle → Gives (.cfgAbort arm) s (fun t => t = { s with cfg := { s.cfg with arm := arm }, resp := {} })) ∧
    (s.cfg.load ≠ .waiting ∨ arm = true → Gives (.cfgArm arm) s (fun t => t = { s with cfg := { s.cfg with arm := arm }, resp := {} })) ∧
    (s.cfg.load = .waiting → Gives (.cfgArm false) s (fun t =>
      t = { s with cfg := { s.cfg with arm := false, load := .staged, waited := 0 }, resp := {} }))

/-- LOAD, ABORT and ARM. LOAD outside IDLE is ignored; in IDLE it captures, checks and fetches, or fails; ABORT
discards; ARM is the bit written, and clearing it takes a waiting bundle back. -/
def Obligations.LoadsStartAndStop : Prop := loadsStartFromIdle ∧ abortAndArm

/-- The fetch of a bit-stream ends in VERIFYING with the file's bytes, or fails with FETCH and the error counted; VERIFYING
ends with the first failing check of Table 3-14 or in STAGING with the bundle; STAGING ends in STAGED with the touched plots
marked and the PF cause CFG_LOAD. Nothing committed changes on the way (R82 to R85). While the PF is in D3hot verification and
staging wait (R301; log entry 233). -/
def loadsGoThroughTheirStates : Prop :=
  ∀ s : State,
    (∀ b : List Byte, s.cfg.load = .fetching → s.cfg.capLen ≤ b.length → Gives (.loadFetchComplete (.bytes b)) s (fun t =>
      t = { s with cfg := { s.cfg with load := .verifying, file := b.take s.cfg.capLen } })) ∧
    (∀ k : ReadFail, s.cfg.load = .fetching → Gives (.loadFetchComplete (.failed k)) s (fun t =>
      droppedWith s t ∧ t.cfg.err = 0x01 ∧ t.cfg.last = 2 ∧ t.hst.dmaErrCnt = satInc s.hst.dmaErrCnt ∧
      t.fns[(0 : Fn)].aer.uncorr = setBit s.fns[(0 : Fn)].aer.uncorr (readFailBit k) true)) ∧
    (s.fns[(0 : Fn)].d3 = true → Gives .loadVerifyComplete s (fun t => t = s) ∧ Gives .stagingComplete s (fun t => t = s)) ∧
    (∀ e, s.cfg.load = .verifying → s.fns[(0 : Fn)].d3 = false → verifyFile s s.cfg.file = .error e → Gives .loadVerifyComplete s (fun t =>
      droppedWith s t ∧ t.cfg.err = e ∧ t.cfg.last = 2)) ∧
    (∀ slot, s.cfg.load = .verifying → s.fns[(0 : Fn)].d3 = false → verifyFile s s.cfg.file = .ok slot → Gives .loadVerifyComplete s (fun t =>
      t.cfg = { s.cfg with load := .staging, kind := hdrKind s.cfg.file == 1, bundle := some (bundleOf s.cfg.file slot.val) } ∧
      t = { s with cfg := t.cfg })) ∧
    (∀ b, s.cfg.load = .staging → s.fns[(0 : Fn)].d3 = false → s.cfg.bundle = some b → Gives .stagingComplete s (fun t =>
      t.cfg = { s.cfg with load := .staged, waited := 0, precheckFail := (preCheck s b).isSome,
                           precheck := match preCheck s b with | some x => refusalWord x.1 x.2 | none => 0 } ∧
      t.pf.irqStatus.getLsbD 3 = true ∧
      ∀ q : PlotId, (t.plot q).cfg.touched = (b.touches q.val || (s.plot q).cfg.touched) ∧
        t.plot q = { s.plot q with cfg := { (s.plot q).cfg with touched := (t.plot q).cfg.touched } }))

/-- When CFG_WAIT_FRAMES windows have passed in WAITING the bundle is refused: the plot that reports its rules shows BND_WAIT
with the lowest waiting plot, every other touched plot BND_PEER, LAST reads REFUSED, and the bundle is discarded (R87, R88). -/
def waitsEnd : Prop :=
  ∀ (s : State) (b : Bundle), s.cfg.load = .waiting → s.cfg.bundle = some b → s.cfg.waitFrames.toNat ≤ s.cfg.waited →
    Gives .bundleWaitExpire s (fun t => droppedWith s t ∧ t.cfg.last = 3 ∧ t.pf.irqStatus.getLsbD 3 = true ∧
      t.cfg.refuseCnt.toNat = min (s.cfg.refuseCnt.toNat + b.touched.length) (2 ^ 32 - 1) ∧
      ∀ q : PlotId, (b.touches q.val = true →
          (t.plot q).cfg.perrCode = (if q.val = (if b.slip then b.plot else 0) then 0xB0 else 0xB2) ∧
          (t.plot q).cfg.prefuse = satInc (s.plot q).cfg.prefuse) ∧
        (b.touches q.val = false → (t.plot q).plt = (s.plot q).plt ∧ (t.plot q).cfg.perrCode = (s.plot q).cfg.perrCode ∧
          (t.plot q).cfg.prefuse = (s.plot q).cfg.prefuse))

/-- A load goes through its states and changes nothing committed. FETCHING, VERIFYING and STAGING end in the next
state or in a failure with its code; a bundle that waits too long is refused, with the codes of its plots. -/
def Obligations.LoadsGoThroughTheirStates : Prop := loadsGoThroughTheirStates ∧ waitsEnd

/-- A fuse operation is refused, by the first check that fails in the order of Table 3-12, with its OP_ERR and nothing else;
otherwise it starts and shows BUSY (R78, R79). -/
def fuseOperationsAreChecked : Prop :=
  ∀ (s : State) (key : Byte) (slot : Fin 4), s.hostOk 0 = true →
    let refused (e : BitVec 4) : State → Prop := fun t => t = { s with cfg := { s.cfg with opErr := e }, resp := {} }
    let starts (o : FuseOp) : State → Prop := fun t => t = { s with cfg := { s.cfg with fuseBusy := some o, opErr := 0 }, resp := {} }
    (key ≠ 0xA5 → Gives (.fuseProgram key slot) s (refused 1) ∧ Gives (.fuseRevoke key slot) s (refused 1) ∧
      Gives (.fuseLock key) s (refused 1)) ∧
    (s.cfg.fuseBusy ≠ none → Gives (.fuseProgram 0xA5 slot) s (refused 6) ∧ Gives (.fuseRevoke 0xA5 slot) s (refused 6) ∧
      Gives (.fuseLock 0xA5) s (refused 6)) ∧
    (s.cfg.fuseBusy = none →
      (s.fuses.lock = true → Gives (.fuseProgram 0xA5 slot) s (refused 5)) ∧
      (s.fuses.lock = false → s.fuses.owner[slot].written = true → Gives (.fuseProgram 0xA5 slot) s (refused 3)) ∧
      (s.fuses.lock = false → s.fuses.owner[slot].written = false → s.fuses.owned = true → s.cfg.content.ownerAdmit = false →
        Gives (.fuseProgram 0xA5 slot) s (refused 2)) ∧
      (s.fuses.lock = false → s.fuses.owner[slot].written = false → s.fuses.owned = false ∨ s.cfg.content.ownerAdmit = true →
        Gives (.fuseProgram 0xA5 slot) s (starts (.program slot s.cfg.fuseData))) ∧
      (s.cfg.content.revokeAdmit = false ∨ (s.cfg.loaded = true ∧ s.cfg.slot.toNat = slot.val) →
        Gives (.fuseRevoke 0xA5 slot) s (refused 2)) ∧
      (s.cfg.content.revokeAdmit = true → ¬ (s.cfg.loaded = true ∧ s.cfg.slot.toNat = slot.val) →
        ((∀ i : Fin 4, i ≠ slot → s.fuses.owner[i].accepted = false) → Gives (.fuseRevoke 0xA5 slot) s (refused 4)) ∧
        ((∃ i : Fin 4, i ≠ slot ∧ s.fuses.owner[i].accepted = true) → Gives (.fuseRevoke 0xA5 slot) s (starts (.revoke slot)))) ∧
      (s.fuses.owned = false → Gives (.fuseLock 0xA5) s (refused 2)) ∧
      (s.fuses.owned = true → Gives (.fuseLock 0xA5) s (starts .lock)))

/-- A fuse operation that ends has programmed the slot's hash, CRC and valid fuse, or blown its revoke fuse, or the lock; no
other fuse changes (R78, Table 3-11). -/
def fuseOperationsEnd : Prop :=
  ∀ s : State,
    (∀ slot h, s.cfg.fuseBusy = some (.program slot h) → Gives .fuseOpComplete s (fun t =>
      t.fuses.owner[slot] = { s.fuses.owner[slot] with hash := h, crc := crc32c (hashBytes h), valid := true } ∧
      (∀ i : Fin 4, i ≠ slot → t.fuses.owner[i] = s.fuses.owner[i]) ∧ t.fuses = { s.fuses with owner := t.fuses.owner } ∧
      t = { s with fuses := t.fuses, cfg := { s.cfg with fuseBusy := none } })) ∧
    (∀ slot, s.cfg.fuseBusy = some (.revoke slot) → Gives .fuseOpComplete s (fun t =>
      t.fuses.owner[slot] = { s.fuses.owner[slot] with revoke := true } ∧
      (∀ i : Fin 4, i ≠ slot → t.fuses.owner[i] = s.fuses.owner[i]) ∧ t.fuses = { s.fuses with owner := t.fuses.owner } ∧
      t = { s with fuses := t.fuses, cfg := { s.cfg with fuseBusy := none } })) ∧
    (s.cfg.fuseBusy = some .lock → Gives .fuseOpComplete s (fun t =>
      t = { s with fuses := { s.fuses with lock := true }, cfg := { s.cfg with fuseBusy := none } }))

/-- Fuse operations are checked in order and blow what they name. An operation that fails a check has its OP_ERR and
no other effect; one that ends has blown its fuses and no other. -/
def Obligations.FuseOperations : Prop := fuseOperationsAreChecked ∧ fuseOperationsEnd

/-! ### Frames (chapter 01) -/

/-- The frame has ended at a TCLK edge and the next one has begun: FRM_COUNT, FRM_LEN_LAST, the committed registers govern,
the window is shut, nothing of the last commit can be undone, and every job that waited for its frame program runs (R16, R19,
R21, R26). -/
def ticked (s : State) (edge : Nat) (t : State) : Prop :=
  t.boot.tclk = max s.boot.tclk edge ∧ t.frm.tickAt = edge ∧ t.frm.count = satInc s.frm.count ∧
  t.frm.lenLast.toNat = min (edge - s.frm.tickAt) (2 ^ 28 - 1) ∧ t.frm.framePeriod = t.frm.rws.period.toNat ∧
  t.frm.frameDev = t.frm.rws ∧ t.frm.opened = false ∧ t.frm.holdoff = none ∧ t.undo = none ∧
  t.msh.routes = t.cfg.content.routes ∧
  ∀ q : PlotId, ∀ j ∈ (t.plot q).plt.jobs, j.live = true → j.phase ≠ .waiting ∧ j.phase ≠ .between

/-- A counted source ends the frame at P after its start, a locked PPS source after the length it fixed; a tick held off by
the commit sequence comes when the sequence ends, if that is within 2 µs of its message, and is counted with FRM_EVENT.HOLDOFF
(R16, R32, R33, R39). Before the window has opened, and before ready, no tick comes. -/
def Obligations.TicksEndFrames : Prop :=
  ∀ s : State,
    (s.isReady = true → s.frm.opened = true → s.frm.holdoff = none →
      (s.frm.gov = .internal ∨ s.frm.gov = .fallback ∨ (s.frm.gov = .ppsAcq ∧ s.frm.acqEnd = none) → Gives .tick s (fun t =>
        ticked s (s.frm.tickAt + 100 * s.frm.framePeriod) t ∧ t.frm.rws = s.frm.rws)) ∧
      (s.frm.gov = .ppsLock ∨ s.frm.gov = .ppsHold → Gives .tick s (fun t =>
        ticked s (s.frm.tickAt + s.frm.ppsLen) t ∧ t.frm.rws = s.frm.rws))) ∧
    (∀ m, s.isReady = true → s.frm.opened = true → s.frm.holdoff = some m → s.frm.commitEnd ≤ m + 200 → Gives .tick s (fun t =>
      ticked s s.frm.commitEnd t ∧ t.frm.holdoffCnt = satInc s.frm.holdoffCnt ∧ t.frm.event.getLsbD 1 = true ∧
      t.pf.irqStatus.getLsbD 1 = true)) ∧
    (s.isReady = false ∨ s.frm.opened = false → Gives .tick s (fun t => t = s)) ∧
    (∀ (q : PlotId) (j : Job) (t : State), exec .tick s = .next t → t.frm.count ≠ s.frm.count → (s.plot q).plt.jobs = [j] →
      j.live = true → j.phase = .waiting → ∃ k, (t.plot q).plt.jobs = [k] ∧ k.idx = j.idx ∧ k.attempts = j.attempts + 1 ∧
        k.first = some (j.first.getD t.frm.count.toNat))

/-- A commit sequence that ends more than 2 µs after a designated message is a hold-off overrun: the tick comes 2 µs after the
message, FRM_HOLDOFF_OVR counts it with FRM_EVENT.HOLDOFF and HOLDOFF_OVR, and a plot whose dispatch preparation had not
finished keeps the registers committed before, and its shadows, and loses its jobs of the frame to an overrun (R39); where a
bundle touched it, every plot the bundle touched keeps its registers (R88). The bit HOLDOFF beside HOLDOFF_OVR (log entry 12)
and the latter (log entry 173) are the model's readings. -/
def holdoffOverrunsTick : Prop :=
  ∀ (s : State) (m : Nat) (late : List PlotId), s.frm.holdoff = some m → m + 200 < s.frm.commitEnd →
    Gives (.tickHoldoffTimeout late) s (fun t =>
      ticked s (m + 200) t ∧ t.frm.holdoffOvr = satInc s.frm.holdoffOvr ∧ t.frm.holdoffCnt = s.frm.holdoffCnt ∧
      t.frm.event &&& 0x6 = 0x6 ∧
      (∀ q ∈ late, ∀ j ∈ (t.plot q).plt.jobs, j.live = true → j.phase = .abandoning) ∧
      (∀ u, s.undo = some u → ∀ q : PlotId, q ≠ 0 →
        (q ∈ late → (t.plot q).rws = u.plots[q].rws ∧ (q ∉ u.touched → (t.plot q).shadow = (s.plot q).shadow)) ∧
        ((∃ p ∈ late, p ∈ u.touched) → q ∈ u.touched → (t.plot q).rws = u.plots[q].rws) ∧
        ((∀ p ∈ late, p ∉ u.touched) → q ∉ late →
          (t.plot q).rws = (s.plot q).rws ∧ (t.plot q).shadow = (s.plot q).shadow)))

/-- A plant window that closes without a designated message is a miss: FRM_PLANT_MISS_CNT and PLANT_MISS, the tick comes at
the end of the window, and the source holds, or falls back at the third miss in a row. An acquisition frame without one ends
2 × P after its start; it raises the miss run only (R36, R37, Table 1-4; the latter is the model's reading, log entry 13). -/
def plantWindowsClose : Prop :=
  ∀ s : State, s.isReady = true → s.frm.opened = true → s.frm.windowUsed = false → s.frm.relockNext = false →
    (s.frm.gov = .plantLock ∨ s.frm.gov = .plantHold →
      s.frm.srcState = .plantAcq ∨ s.frm.srcState = .plantLock ∨ s.frm.srcState = .plantHold →
      Gives .plantWindowClose s (fun t =>
        ticked s (s.frm.tickAt + 100 * s.frm.framePeriod + 100 * s.frm.frameDev.plantWin.toNat) t ∧
        t.frm.plantMiss = satInc s.frm.plantMiss ∧ t.frm.event.getLsbD 3 = true ∧
        (if s.frm.missRun.toNat < 2 then t.frm.srcState = .plantHold ∧ t.frm.missRun.toNat = s.frm.missRun.toNat + 1
         else t.frm.srcState = .fallback ∧ t.frm.event.getLsbD 4 = true))) ∧
    (s.frm.gov = .plantAcq → s.frm.srcState = .plantAcq → Gives .plantAcqTimeout s (fun t =>
      ticked s (s.frm.tickAt + 200 * s.frm.framePeriod) t ∧ t.frm.plantMiss = s.frm.plantMiss ∧
      (if s.frm.missRun.toNat < 2 then t.frm.srcState = .plantAcq ∧ t.frm.missRun.toNat = s.frm.missRun.toNat + 1
       else t.frm.srcState = .fallback ∧ t.frm.event.getLsbD 4 = true)))

/-- Hold-off overruns and plant windows that close. A hold-off overrun ticks 2 us after the message with its counts; a
plant window without a message is a miss, and the third falls back (readings of log entries 12 and 13). -/
def Obligations.LateSequencesAndPlantWindows : Prop := holdoffOverrunsTick ∧ plantWindowsClose

/-- An edge of the polarity in force measures the second: FRM_PPS_RATE takes the interval and PPS_VALID reads 1 where it lies
within 100 ppm of 1 s, and 0 else; an edge within 5 µs of the expected time locks; one outside counts, and the fourth in a row
acquires again; a missing edge holds, and once the next edge is more than 100 ppm late PPS_VALID reads 0 in every state (R33, Table
1-4). That a further missing edge while already in PPS_HOLD counts too is the model's reading (log entry 165). -/
def ppsEdges : Prop :=
  ∀ s : State, s.isReady = true → s.frm.ppsEn = true →
    (∀ (wait : Nat), Gives (.ppsEdge wait (!s.frm.ppsPol)) s (fun t =>
      let d := match s.frm.ppsLast with | some l => s.boot.tclk + wait - l | none => 0
      t.boot.tclk = s.boot.tclk + wait ∧ t.frm.ppsLast = some (s.boot.tclk + wait) ∧
      t.frm.ppsValid = (decide (99990000 ≤ d) && decide (d ≤ 100010000)) ∧
      t.frm.ppsRate.toNat = (if t.frm.ppsValid then d else s.frm.ppsRate.toNat) ∧
      (s.frm.srcState = .ppsLock ∨ s.frm.srcState = .ppsHold → ∀ e : Nat, s.frm.ppsExpect = some e →
        (e ≤ s.boot.tclk + wait + 500 → s.boot.tclk + wait ≤ e + 500 → t.frm.srcState = .ppsLock ∧ t.frm.ppsOut4 = 0 ∧
          t.frm.ppsOut = s.frm.ppsOut ∧ t.frm.ppsExpect = some (s.boot.tclk + wait + t.frm.ppsRate.toNat)) ∧
        (s.boot.tclk + wait + 500 < e → t.frm.ppsOut = satInc s.frm.ppsOut ∧ t.frm.event.getLsbD 6 = true ∧
          t.frm.srcState = (if t.frm.ppsValid = true ∧ 3 ≤ s.frm.ppsOut4 then .ppsAcq else s.frm.srcState))))) ∧
    (∀ (wait : Nat), Gives (.ppsEdge wait s.frm.ppsPol) s (fun t =>
      t = { s with boot := { s.boot with tclk := s.boot.tclk + wait } })) ∧
    (∀ e : Nat, s.frm.srcState = .ppsLock ∨ s.frm.srcState = .ppsHold → s.frm.ppsExpect = some e → Gives .ppsEdgeMissing s (fun t =>
      t.frm.srcState = .ppsHold ∧ t.frm.ppsMiss = satInc s.frm.ppsMiss ∧
      t.frm.gov = (if s.frm.gov = .ppsLock then .ppsHold else s.frm.gov) ∧
      t.frm.event = s.frm.event ||| 0x20 ∧ t.frm.ppsExpect = some (e + s.frm.ppsRate.toNat) ∧
      t.boot.tclk = max s.boot.tclk (e + 501) ∧ t.frm.ppsLast = s.frm.ppsLast ∧
      (∀ l, s.frm.ppsLast = some l → l + 100010000 < t.boot.tclk → ppsValidAt t.frm t.boot.tclk = false))) ∧
    (∀ l : Nat, s.frm.srcState ≠ .ppsLock → s.frm.srcState ≠ .ppsHold → s.frm.ppsLast = some l →
      Gives .ppsEdgeMissing s (fun t => t = { s with
        boot := { s.boot with tclk := max s.boot.tclk (l + 100010001) }, frm := { s.frm with ppsValid := false } }))

/-- FRM_CTL takes the bits written; clearing PPS_EN takes a locked source to PPS_HOLD and PPS_VALID to 0, and a frame that
acquisition had lengthened ends as the internal counter gives it, or at the next edge where that point has passed (R35; the
latter is the model's choice, log entry 166). -/
def frameControl : Prop :=
  ∀ (s : State) (v : Word), s.hostOk 0 = true → Gives (.frmCtlWrite v) s (fun t =>
    (s.frm.ppsEn = false ∨ v.getLsbD 0 = true → t = { s with resp := {}, frm := { s.frm with
      ppsEn := v.getLsbD 0, autoRelock := v.getLsbD 1, ppsPol := v.getLsbD 2 } }) ∧
    (s.frm.ppsEn = true → v.getLsbD 0 = false → t.frm.ppsValid = false ∧ t.frm.ppsLast = none ∧
      t.frm.srcState = (if s.frm.srcState = .ppsLock then .ppsHold else s.frm.srcState) ∧
      t.frm.gov = (if s.frm.gov = .ppsLock then .ppsHold else s.frm.gov) ∧
      (s.boot.tclk ≤ s.frm.tickAt + 100 * s.frm.framePeriod → t.frm.acqEnd = none) ∧
      t.frm.count = s.frm.count ∧ t.frm.ppsMiss = s.frm.ppsMiss ∧ t.frm.event = s.frm.event))

/-- PPS edges lock, hold and acquire; FRM_CTL. An edge measures the second and locks, counts or acquires; a missing
edge holds; FRM_CTL takes its bits. -/
def Obligations.PpsEdgesAndFrameControl : Prop := ppsEdges ∧ frameControl

/-! ### The commit window, overruns and abandonment -/

/-- The commit sequence runs whole: the window is open, time stands at its opening or later, admission's rotation moves on,
and of every plot the snapshot of its shadows was committed or its refusal counted, nothing in between; no frame program
runs any more, no finished job is left unpublished but one whose record tape has no room for its last segments (R169), and
no completed one unrecorded (R20, R22, R26, R29, R55, R90). Stated
where no bundle is armed; before ready, or with the window open, nothing happens. -/
def Obligations.CommitsAreWhole : Prop :=
  ∀ (s : State) (r : WindowReport),
    (s.isReady = true → s.frm.opened = false → Gives (.commitWindowOpen r) s (fun t =>
      t.frm.opened = true ∧ t.boot.tclk = max s.boot.tclk (s.frm.tickAt + 94 * s.frm.framePeriod) ∧
      t.frm.commitEnd = t.boot.tclk + r.commitTclk ∧ t.frm.rotation = s.frm.rotation % 64 + 1 ∧ t.frm.count = s.frm.count ∧
      (∀ q : PlotId, ∀ j ∈ (t.plot q).plt.jobs, j.phase ≠ .over ∧
        (j.live = true → j.phase = .waiting ∨ j.phase = .between ∨ j.phase = .abandoning ∨
          (j.phase = .finished ∧ j.passed = true ∧ (t.plot q).an.job = j.idx))) ∧
      (s.cfg.bundle = none ∨ s.cfg.arm = false → t.cfg.content = s.cfg.content ∧
        (t.frm.rws = s.frm.shadow ∧ (t.plot 0).cfg.prefuse = (s.plot 0).cfg.prefuse ∨
          t.frm.rws = s.frm.rws ∧ (t.plot 0).cfg.prefuse = satInc (s.plot 0).cfg.prefuse) ∧
        ∀ q : PlotId, q ≠ 0 → (t.plot q).shadow = (s.plot q).shadow ∧
          ((t.plot q).rws = (s.plot q).shadow ∧ (t.plot q).cfg.prefuse = (s.plot q).cfg.prefuse ∨
            (t.plot q).rws = (s.plot q).rws ∧ (t.plot q).cfg.prefuse = satInc (s.plot q).cfg.prefuse)))) ∧
    (s.isReady = false ∨ s.frm.opened = true → Gives (.commitWindowOpen r) s (fun t => t = s))

/-- A job's metered cycles reach a claim before its frame program ends: it is marked, FRM_PLOT_OVR counts, OVERRUN and
OVERRUN_ANY rise, and its program stops at once: no operation, call or pass of it goes on and its query parts are parked; a
job overruns once (R28, R30). That it stops on every engine is the model's reading (log entry 170). -/
def budgetOverrunsMarkTheJob : Prop :=
  ∀ (s : State) (q : PlotId) (j : Job) (claim : Nat), (s.plot q).plt.job? j.idx = some j → claim < j.img.claims.length →
    j.phase = .running → s.frm.opened = false →
    (j.budget = false → j.deadline = false → Gives (.budgetOverrun q j.idx claim) s (fun t =>
      (t.plot q).plt.job? j.idx = some { j with budget := true } ∧
      t.frm.plotOvr[q] = satInc s.frm.plotOvr[q] ∧ (∀ p : PlotId, p ≠ q → t.frm.plotOvr[p] = s.frm.plotOvr[p]) ∧
      (t.plot q).plt.irqStatus = (s.plot q).plt.irqStatus ||| 0x4 ∧ t.frm.event = s.frm.event ||| 0x1 ∧
      t.pf.irqStatus = s.pf.irqStatus ||| 0x2 ∧
      (∀ m : Fin 16, MxeRun.of t.mxes[m].run q j.idx = false) ∧
      (∀ h : Fin 16, ∀ c, t.hccs[h].call = some c → c.plot = q → c.idx ≠ j.idx) ∧
      (∀ n : Fin 4, ∀ c, t.qces[n].call = some c → c.plot = q → c.idx ≠ j.idx) ∧
      (∀ l : Fin 8, (j.idx, l) ∈ (t.plot q).fln.atClaim))) ∧
    (j.budget = true ∨ j.deadline = true → Gives (.budgetOverrun q j.idx claim) s (fun t => t = s))

/-- When abandonment has completed, a job whose code is restartable, whose ATTEMPTS is at most its RESTARTS and whose plot is
not STOPPING waits for its next attempt with its claims; any other completes with its code, behind the jobs that completed
before it (R58). A job that a stop cancelled completes when the stop ends. -/
def abandonmentEndsInRestartOrCompletion : Prop :=
  ∀ (s : State) (q : PlotId) (j : Job), (s.plot q).plt.job? j.idx = some j → j.phase = .abandoning → j.code ≠ .cancelled →
    (j.code.restartable = true → j.attempts ≤ j.desc.restarts → (s.plot q).plt.state ≠ .stopping →
      Gives (.abandonmentComplete q j.idx) s (fun t => (t.plot q).plt.job? j.idx = some { j with
        phase := .waiting, code := .ok, node := none, faultAt := none, done := 0, budget := false, deadline := false })) ∧
    (j.code.restartable = false ∨ j.desc.restarts < j.attempts ∨ (s.plot q).plt.state = .stopping →
      Gives (.abandonmentComplete q j.idx) s (fun t => (t.plot q).plt.job? j.idx = none ∧
        { j with phase := .over, budget := false, deadline := false } ∈ (t.plot q).plt.jobs ∧
        (t.plot q).plt.jobs.length = (s.plot q).plt.jobs.length))

/-- Budget overruns mark a job once; abandonment ends in a restart or a completion. -/
def Obligations.OverrunsAndAbandonment : Prop := budgetOverrunsMarkTheJob ∧ abandonmentEndsInRestartOrCompletion

/-! ### Mesh and memory (chapter 04) -/

/-- A live job runs a frame program and no overrun of it is recorded. -/
def runs (s : State) (q : PlotId) (j : Job) : Prop :=
  (s.plot q).plt.job? j.idx = some j ∧ j.phase = .running ∧ j.budget = false ∧ j.deadline = false

/-- A fault is charged to a job: its abandonment begins with the code and the node, its private copies are discarded, plot
memory stays, and one JOB_FAULT line is written for it in a frame (R56, R57, Table 14-6). -/
def faulted (s : State) (q : PlotId) (j : Job) (c : Code) (node : Option NodeId) (t : State) : Prop :=
  (t.plot q).plt.job? j.idx = some { j.dropCopies with phase := .abandoning, code := c, node := node, faultAt := some t.boot.tclk, logged := true } ∧
  t.mem = s.mem ∧
  (j.logged = false → ∃ l ∈ t.log.lines, s.log.next.toNat ≤ l.seq ∧ l.code = 0x10 ∧ l.plot = q.val ∧ l.node = node ∧
    l.arg0 = c.num + 256 * j.attempts ∧ l.arg1 = j.desc.tag.toNat)

/-- A fault of a job that runs abandons it and touches no other job's private copies, and no job of another plot; a job that
is being abandoned or is marked as overrun keeps its code, but of two faults of one cycle the code that stands higher in Table
2-7 counts (R56, R57, R67). Stated of the shared operation that every engine's fault takes. That one cycle is one TCLK edge of
the model is its choice (log entry 171). -/
def Obligations.FaultsAbandonTheirJob : Prop :=
  ∀ (s : State) (q : PlotId) (c : Code) (node : Option NodeId) (j : Job),
    (runs s q j → faulted s q j c node (chargeFault s q j.idx c node) ∧
      (∀ p : PlotId, p ≠ q → (chargeFault s q j.idx c node).plot p = s.plot p) ∧
      ∀ k : Job, k.idx ≠ j.idx → (k ∈ ((chargeFault s q j.idx c node).plot q).plt.jobs ↔ k ∈ (s.plot q).plt.jobs)) ∧
    ((s.plot q).plt.job? j.idx = some j →
      (j.phase ≠ .abandoning → j.budget = true ∨ j.deadline = true → chargeFault s q j.idx c node = s) ∧
      (j.phase = .abandoning → j.faultAt ≠ some s.boot.tclk ∨ c.rank ≤ j.code.rank → chargeFault s q j.idx c node = s) ∧
      (j.phase = .abandoning → j.faultAt = some s.boot.tclk → j.code.rank < c.rank →
        ((chargeFault s q j.idx c node).plot q).plt.job? j.idx = some { j with code := c, node := node } ∧
        (chargeFault s q j.idx c node).mem = s.mem ∧ ∀ p : PlotId, p ≠ q → (chargeFault s q j.idx c node).plot p = s.plot p))

/-- A retried multicast of 1 to 1,024 flits takes one of its source's 16 retry-table entries and leaves for all its targets
over the links of its route entry, or waits; an ACK closes a target, which has taken the whole transfer in, and the entry with
its last; a NACK is remembered, and READY resends to the targets still open and counts the retry; 100 µs after the launch an
unfinished one faults its job with MULTICAST at the source (R107, R108). -/
def retriedMulticasts : Prop :=
  (∀ (s : State) (q : PlotId) (j : Job) (entry flits : Nat) (r : Route) (ts : List Nat), runs s q j →
    findRoute s.msh.routes q.val entry = some (r, ts) → r.kind = 2 →
    (1 ≤ flits → flits ≤ 1024 → (s.msh.retries.filter (fun x => x.src == mkNode r.src)).length < 16 →
      Gives (.retriedMulticastLaunch q j.idx entry flits) s (fun t => t = { s with
        msh := { s.msh with retries := s.msh.retries ++
          [{ src := mkNode r.src, plot := q, job := j.idx, entry := entry, flits := flits, at_ := s.boot.tclk,
             open_ := ts.map mkNode, refused := [] }] },
        out := s.out ++ [.mesh (mkNode r.src) (ts.map mkNode) 2 flits (entryTree r ts)] })) ∧
    (flits = 0 ∨ 1024 < flits ∨ 16 ≤ (s.msh.retries.filter (fun x => x.src == mkNode r.src)).length →
      Gives (.retriedMulticastLaunch q j.idx entry flits) s (fun t => t = s))) ∧
  ∀ (s : State) (r : Retry) (a b : List Retry), s.msh.retries = a ++ r :: b →
    (∀ x ∈ a ++ b, x.is r.src r.plot r.entry = false ∧ x.open_ ≠ []) →
    (∀ target ∈ r.open_, target ∉ r.refused →
      (r.open_.filter (fun x => x != target) ≠ [] → Gives (.multicastAckNack r.src r.plot r.entry target true) s (fun t =>
        t.msh.retries = a ++ { r with open_ := r.open_.filter (fun x => x != target) } :: b ∧
        t.out = s.out ++ [.landed r.src target 2 r.flits])) ∧
      (r.open_.filter (fun x => x != target) = [] → Gives (.multicastAckNack r.src r.plot r.entry target true) s (fun t =>
        t.msh.retries = a ++ b ∧ t.out = s.out ++ [.landed r.src target 2 r.flits])) ∧
      Gives (.multicastAckNack r.src r.plot r.entry target false) s (fun t =>
        t.msh.retries = a ++ { r with refused := r.refused ++ [target] } :: b ∧ t.out = s.out)) ∧
    (∀ target ∈ r.refused, Gives (.multicastReady r.src r.plot r.entry target) s (fun t =>
      t.msh.retries = a ++ { r with refused := [] } :: b ∧
      (∀ e ts, findRoute s.msh.routes r.plot.val r.entry = some (e, ts) →
        t.out = s.out ++ [.mesh r.src r.open_ 2 r.flits (entryTree e (r.open_.map (·.val)))]) ∧
      (t.plot r.plot).msh = { (s.plot r.plot).msh with mcRetry := satInc (s.plot r.plot).msh.mcRetry })) ∧
    (∀ j : Job, j.idx = r.job → runs s r.plot j → Gives (.multicastTimeout r.src r.plot r.entry) s (fun t =>
      faulted s r.plot j .multicast (some r.src) t ∧ t.boot.tclk = max s.boot.tclk (r.at_ + 10000) ∧
      t.msh.mcFault = satInc s.msh.mcFault ∧ ∀ x ∈ t.msh.retries, x.is r.src r.plot r.entry = false))

/-- An unscheduled all-or-nothing multicast asks all its targets for grants, holds those it has, launches when the last one
has granted, and the targets hold their grants until it has landed at every one of them (R106). -/
def creditReservations : Prop :=
  ∀ (s : State) (q : PlotId) (j : Job) (entry : Nat) (r : Route) (ts : List Nat), runs s q j →
    findRoute s.msh.routes q.val entry = some (r, ts) → r.kind = 1 → r.flits = 0 →
    (∀ flits : Nat, (∀ x ∈ s.msh.reserves, ¬ (x.src = mkNode r.src ∧ x.plot = q ∧ x.entry = entry)) →
      Gives (.creditReservation q j.idx entry (.ask flits)) s (fun t => t = { s with
        msh := { s.msh with reserves := s.msh.reserves ++
          [{ src := mkNode r.src, plot := q, job := j.idx, entry := entry, flits := flits, waiting := ts.map mkNode, granted := [],
             launched := false }] },
        out := s.out ++ [.mesh (mkNode r.src) (ts.map mkNode) 3 1 (packetTree (mkNode r.src).val ts)] })) ∧
    (∀ x : Reserve, s.msh.reserves = [x] → x.src = mkNode r.src → x.plot = q → x.entry = entry →
      (∀ target ∈ x.waiting, Gives (.creditReservation q j.idx entry (.grant target)) s (fun t =>
        let left := x.waiting.filter (fun y => y != target)
        t.msh.reserves = [{ x with waiting := left, granted := x.granted ++ [target], launched := left.isEmpty }] ∧
        t.out = (if left = [] then s.out ++ [.mesh (mkNode r.src) (ts.map mkNode) 1 x.flits (entryTree r ts)] else s.out))) ∧
      (x.launched = true → Gives (.creditReservation q j.idx entry .landed) s (fun t =>
        t.msh.reserves = [] ∧ t.out = s.out ++ ts.map (fun n => .landed (mkNode r.src) (mkNode n) 1 x.flits))) ∧
      (x.launched = false → Gives (.creditReservation q j.idx entry .landed) s (fun t => t = s)))

/-- Retried and all-or-nothing multicasts. A retried multicast holds an entry of its source until every target
accepted or 100 us passed; an all-or-nothing one launches when every target granted. -/
def Obligations.MulticastsAndReservations : Prop := retriedMulticasts ∧ creditReservations

/-- Up to 16 readers that meet a line in one frame take one array access, counted in MSH_PMERGE, and the line leaves once, from
the node whose memory holds it; corrected single-bit errors count; an uncorrectable word poisons its 64-byte line, once, is
counted and logged, and faults the reader's job with ENGINE; a poisoned line is never delivered (R109, R119). -/
def Obligations.MergedReadsAndPoison : Prop :=
  ∀ (s : State) (q : PlotId) (a : BitVec 36) (readers : List (BitVec 16 × NodeId)) (m single : Nat),
    readers ≠ [] → readers.length ≤ 16 →
    let line := a.toNat / 64 * 64
    let at_ := m + line % 65536
    pageAccess s q (line / 65536) = .ok →
    (∀ r ∈ readers, ∃ j, j.idx = r.1 ∧ runs s q j ∧ pageMesh s q (some j) (line / 65536) = some m) →
    (s.msh.poison.contains at_ = false → Gives (.mergedRead q a readers single none) s (fun t =>
      (t.plot q).msh.merge = satAdd (s.plot q).msh.merge (readers.length - 1) ∧ t.msh.ceCnt = satAdd s.msh.ceCnt single ∧
      t.mem = s.mem ∧ t.log = s.log ∧
      t.out = s.out ++ [.mesh (meshNode at_) (readers.map (·.2)) 4 1 (packetTree (at_ / 2 ^ 25) (readers.map (·.2.val)))])) ∧
    (∀ (j : Job) (n : NodeId), readers = [(j.idx, n)] → runs s q j →
      (∀ w : Fin 8, s.msh.poison.contains at_ = false → Gives (.mergedRead q a readers single (some w)) s (fun t =>
        faulted s q j .engine (some (meshNode at_)) t ∧ t.msh.ueCnt = satInc s.msh.ueCnt ∧
        t.msh.eccAddr = BitVec.ofNat 32 (at_ + 8 * w.val) ∧ t.msh.poison = s.msh.poison ++ [at_] ∧
        (∀ e ∈ t.out.drop s.out.length, ∀ x y k n l, e ≠ .mesh x y k n l) ∧
        ∃ l ∈ t.log.lines, l.code = 0x30 ∧ l.plot = linePlot s at_ ∧ l.arg0 = at_ + 8 * w.val)) ∧
      (∀ bad : Option (Fin 8), s.msh.poison.contains at_ = true → Gives (.mergedRead q a readers single bad) s (fun t =>
        faulted s q j .engine (some (meshNode at_)) t ∧ t.msh.ueCnt = s.msh.ueCnt ∧ t.msh.poison = s.msh.poison ∧
        ∀ e ∈ t.out.drop s.out.length, ∀ x y k n l, e ≠ .mesh x y k n l)))

/-- A job's first write to a home page begins a private copy in a cache frame, and waits for it; once it has copies of all the
pages, a write lands in them at once, and plot memory itself never changes. An address it may not write, or a page beyond
WR_PAGES, is a defective image; a write of part of a poisoned line faults the job; with no cache frame the write waits. When a
copy is complete it holds the page as it stands, and the writes that waited for it land (R54, R115, R117, R119). -/
def Obligations.WritesGoToPrivateCopies : Prop :=
  ∀ (s : State) (q : PlotId) (j : Job) (node : NodeId) (a : BitVec 36) (bs : List Byte), runs s q j → bs ≠ [] →
    (mayWrite s q a.toNat bs.length = false →
      Gives (.homePageFirstWrite q j.idx node a bs) s (faulted s q j .image (some node))) ∧
    (∀ n, mayWrite s q a.toNat bs.length = true → partPoison s q j a.toNat bs.length = some n →
      Gives (.homePageFirstWrite q j.idx node a bs) s (faulted s q j .engine (some n))) ∧
    (mayWrite s q a.toNat bs.length = true → partPoison s q j a.toNat bs.length = none →
      (j.img.wrPages < j.copies.length + j.copying.length + (newPages j a.toNat bs.length).length →
        Gives (.homePageFirstWrite q j.idx node a bs) s (faulted s q j .image (some node))) ∧
      (j.copies.length + j.copying.length ≤ j.img.wrPages → (∀ p ∈ pagesOf a.toNat bs.length, p ∈ j.copies) →
        Gives (.homePageFirstWrite q j.idx node a bs) s (fun t =>
          (t.plot q).plt.job? j.idx = some { j with ovl := cellPutMany j.ovl (memKey q a.toNat) bs } ∧ t.mem = s.mem)) ∧
      (∀ p, pagesOf a.toNat bs.length = [p] → p ∉ j.copies → p ∈ j.copying → j.copies.length + j.copying.length ≤ j.img.wrPages →
        Gives (.homePageFirstWrite q j.idx node a bs) s (fun t =>
          (t.plot q).plt.job? j.idx = some { j with writes := j.writes ++ [([p], a.toNat, bs)] } ∧ t.mem = s.mem)) ∧
      (∀ p, pagesOf a.toNat bs.length = [p] → p ∉ j.copies → p ∉ j.copying → j.copies.length + j.copying.length < j.img.wrPages →
        (takeFrames s q j.idx [p] = none → Gives (.homePageFirstWrite q j.idx node a bs) s (fun t => t = s)) ∧
        (∀ u, takeFrames s q j.idx [p] = some u → Gives (.homePageFirstWrite q j.idx node a bs) s (fun t =>
          (∃ f, (t.plot q).plt.job? j.idx = some { j with
            frames := j.frames ++ [(p, f)], copying := j.copying ++ [p], writes := j.writes ++ [([p], a.toNat, bs)] }) ∧
          (t.plot q).msh.copy = satAdd (s.plot q).msh.copy 1 ∧ t.mem = u.mem)))) ∧
    (∀ p, p ∈ j.copying → (homePlace s q (65536 * p)).isSome = true → Gives (.writeCopyComplete q j.idx p) s (fun t =>
      ∃ k, (t.plot q).plt.job? j.idx = some k ∧ k.copies = j.copies ++ [p] ∧ k.copying = j.copying.filter (fun x => x != p) ∧
        t.mem = s.mem ∧
        (∀ b ys, j.writes = [([p], b, ys)] → k.writes = [] ∧ k.ovl = cellPutMany (applyOver j.ovl
          (cellsIn s.mem (memKey q (65536 * p)) (memKey q (65536 * (p + 1))))) (memKey q b) ys)))

/-- A read of a backed page that is not resident starts one page-in for all who ask, and counts as a miss where it is a
demand; a page on a suspect LUN faults the job with FLASH, an address nothing maps with IMAGE. A page whose flash pages have
all been read lands in a cache frame, counted in MSH_PPAGEIN (R116, R117). -/
def backedPagesComeIn : Prop :=
  ∀ (s : State) (q : PlotId) (j : Job) (node : NodeId) (a : BitVec 36), runs s q j →
    (region s.cfg.content q.val (s.plot q).msh a.toNat = .unmapped →
      Gives (.backedPageMiss q j.idx node a) s (faulted s q j .image (some node)) ∧
      Gives (.pageInRequest q j.idx node a) s (faulted s q j .image (some node))) ∧
    (∀ p b k, region s.cfg.content q.val (s.plot q).msh a.toNat = .backed p → s.cfg.content.backing? q.val p = some (b, k) →
      (∀ r ∈ (s.plot q).msh.resident, r.page ≠ p) →
      ((b.places (s.cfg.content.chan b.lane) k).any s.suspectAt = true →
        Gives (.backedPageMiss q j.idx node a) s (faulted s q j .flash (some (laneNode (mkLane b.lane))))) ∧
      ((b.places (s.cfg.content.chan b.lane) k).any s.suspectAt = false →
        Gives (.backedPageMiss q j.idx node a) s (fun t =>
          (t.plot q).msh.miss = satInc (s.plot q).msh.miss ∧ t.mem = s.mem ∧
          ∃ x ∈ (t.plot q).msh.pageIns, x.page = p ∧ j.idx ∈ x.readers) ∧
        Gives (.pageInRequest q j.idx node a) s (fun t =>
          (t.plot q).msh.miss = (s.plot q).msh.miss ∧ t.mem = s.mem ∧
          ∃ x ∈ (t.plot q).msh.pageIns, x.page = p ∧ j.idx ∈ x.readers)))

/-- A page-in that is complete writes its bytes into a cache frame, empty or the least recently used one not used in this
frame; it counts, and the page is resident; while any flash page is still to be read nothing happens (R116). -/
def pageInsLand : Prop :=
  ∀ (s : State) (q : PlotId) (x : PageIn), (s.plot q).msh.pageIns = [x] → x.ctx = true →
    (pageInWhole s q x = false → Gives (.pageInComplete q x.page) s (fun t => t = s)) ∧
    (pageInWhole s q x = true → takeFrame s q (pageInPool s q x.node) (0x80000 + x.page) true = none →
      Gives (.pageInComplete q x.page) s (fun t => t = s)) ∧
    (∀ f u, pageInWhole s q x = true → takeFrame s q (pageInPool s q x.node) (0x80000 + x.page) true = some (f, u) →
      Gives (.pageInComplete q x.page) s (fun t =>
      t.mem = (x.got.foldl (fun (s : State) g => s.pokeMem q (0x800000000 + 65536 * x.page + g.1) g.2) u).mem ∧
      (t.plot q).msh.pageIn = satInc (s.plot q).msh.pageIn ∧ (t.plot q).msh.pageIns = [] ∧
      ∃ r ∈ (t.plot q).msh.resident, r.page = x.page ∧ r.frame = f ∧ r.used = true))

/-- The patrol scrubber counts a corrected single-bit error and nothing else; an uncorrectable word is counted, shown in
MSH_ECC_ADDR and logged, and poisons its line, once; with SCRUB_EN 0, and at an address no memory has (R118), there is none. A flit is replayed
up to 3 times; after a third failed replay it is discarded and its job faults with ENGINE (R119, R121). -/
def Obligations.ScrubbingAndLinks : Prop :=
  ∀ s : State, s.isReady = true →
    (∀ addr : Word, s.msh.scrubEn = true → meshAssigned addr.toNat = true →
      Gives (.patrolScrub addr true false false) s (fun t => t = { s with msh := { s.msh with ceCnt := satInc s.msh.ceCnt } }) ∧
      Gives (.patrolScrub addr false false true) s (fun t => t = { s with msh := { s.msh with scrubPass := satInc s.msh.scrubPass } }) ∧
      (∀ single : Bool, addr.toNat / 64 * 64 ∉ s.msh.poison → Gives (.patrolScrub addr single true false) s (fun t =>
        t.msh = { s.msh with ueCnt := satInc s.msh.ueCnt, eccAddr := addr, poison := s.msh.poison ++ [addr.toNat / 64 * 64] } ∧
        ∃ l, t.log.lines.head? = some l ∧ l.code = 0x30 ∧ l.node = some (meshNode addr.toNat) ∧
          l.plot = linePlot s (addr.toNat / 64 * 64) ∧ l.arg0 = addr.toNat)) ∧
      (∀ single : Bool, addr.toNat / 64 * 64 ∈ s.msh.poison → Gives (.patrolScrub addr single true false) s (fun t => t = s))) ∧
    (∀ addr single bad pass, s.msh.scrubEn = false ∨ meshAssigned addr.toNat = false →
      Gives (.patrolScrub addr single bad pass) s (fun t => t = s)) ∧
    (∀ (n : NodeId) owner (k : Nat), k < 4 → Gives (.linkCrcFail n owner k) s (fun t =>
      t = { s with msh := { s.msh with linkReplay := satAdd s.msh.linkReplay k } })) ∧
    (∀ (n : NodeId) (q : PlotId) (j : Job) (k : Nat), 4 ≤ k → runs s q j → Gives (.linkCrcFail n (some (q, j.idx)) k) s (fun t =>
      faulted s q j .engine (some n) t ∧ t.msh.linkReplay = satAdd s.msh.linkReplay 3 ∧ t.msh.linkFail = satInc s.msh.linkFail))

/-- MSH_PCACHE is taken only while the plot is UNASSIGNED, DISABLED or IDLE and holds no admitted job; otherwise the write is
ignored and IGN is set. Frames whose role changes read 0 and are being zeroed until FRAME_ZEROING_DONE (R112). -/
def cacheFramesMove : Prop :=
  ∀ (s : State) (q : PlotId) (v : Word), s.hostOk 0 = true → q ≠ 0 →
    let idle : Prop := (s.plot q).plt.admitted = 0 ∧ ((s.plot q).plt.state = .unassigned ∨ (s.plot q).plt.state = .disabled ∨
      (s.plot q).plt.state = .idle)
    let m : MshSet := { (s.plot q).msh with
      atCache := v.setWidth 9, mxeCache := BitVec.ofNat 9 (v.toNat / 2 ^ 9), cmnCache := BitVec.ofNat 12 (v.toNat / 2 ^ 18) }
    (¬ idle → Gives (.pcacheWrite q v) s (fun t =>
      t.plot q = { s.plot q with msh := { (s.plot q).msh with ign := true } } ∧ t.mem = s.mem ∧ t.msh = s.msh)) ∧
    (idle → Gives (.pcacheWrite q v) s (fun t =>
      (t.plot q).msh = { m with
        zeroing := (t.plot q).msh.zeroing, resident := (t.plot q).msh.resident, moved := (t.plot q).msh.moved } ∧
      ((t.plot q).msh.zeroing = true ↔ (s.plot q).msh.zeroing = true ∨ pcacheMoves s.cfg.content q.val (s.plot q).msh m ≠ []) ∧
      (∀ r ∈ pcacheMoves s.cfg.content q.val (s.plot q).msh m, ∀ a, r.1 ≤ a → a < r.2 → t.peekMem q a = 0))) ∧
    Gives (.frameZeroingDone q) s (fun t => t.plot q = { s.plot q with msh := { (s.plot q).msh with zeroing := false } } ∧
      t = { s with plots := t.plots })

/-- Backed pages come into cache frames; MSH_PCACHE moves the boundary. A read of a page that is not resident starts
one page-in; a complete one lands in a frame; the cache boundary moves only while the plot is idle, and the frames it
moves read 0. -/
def Obligations.PagesComeInAndFramesMove : Prop := backedPagesComeIn ∧ pageInsLand ∧ cacheFramesMove

/-! ### The anneal fabric (chapters 05 and 06) -/

/-- A plot's anneal fabric holds the attempt of a job that runs. -/
def holdsAttempt (s : State) (q : PlotId) (j : Job) : Prop := runs s q j ∧ (s.plot q).an.job = j.idx

/-- The initial pass of an attempt takes the fabric, reads every tile's tables and computes every field and the energy from
scratch; the best state is the initial one, and the schedule is at its start. It runs once per attempt; a COUP_ADDR outside the
tile's slice, whatever memory holds, or an order that is no permutation is a defective image; while a page is not resident the
fabric is in INIT (R116, R123, R124, R131, R162, Table 5-5). That the pass takes a fabric that another job of the plot holds is
the model's reading (log entry 187). -/
def initialPassComputesFromScratch : Prop :=
  ∀ (s : State) (q : PlotId) (j : Job) (x : Section), runs s q j → annealSec s q = some x → grafts s q = false →
    let es := tileEntries x
    let ts := es.map (loadTile s q j x.param)
    let spins := spinVec ts x.param
    let ms := ts.map (tileMatrix s q j x.param)
    (j.passed = true → Gives (.annealInitialPass q j.idx) s (fun t => t = s)) ∧
    (j.passed = false → ∀ e, es.find? (fun e => !inSlice e.tile e.coup) = some e → Gives (.annealInitialPass q j.idx) s
      (faulted s q j .image (tileNodeOf s q e.tile))) ∧
    (j.passed = false → (∀ e ∈ es, inSlice e.tile e.coup = true) →
      ((∀ e ∈ es, ∀ r ∈ tileTables x.param e, readAccess s q j r.1 r.2 = .ok) →
        (∀ b, (es.zip ts).find? (fun y => !isPerm y.2.order y.1.v) = some b → Gives (.annealInitialPass q j.idx) s
          (faulted s q j .image (tileNodeOf s q b.1.tile))) ∧
        ((∀ e ∈ es.zip ts, isPerm e.2.order e.1.v = true) →
          (∀ e ∈ es, ∀ r ∈ tileColumns x.param none e, readAccess s q j r.1 r.2 = .ok) → Gives (.annealInitialPass q j.idx) s (fun t =>
            let p := (t.plot q).an
            p.energy = freshEnergy ts ms spins ∧ p.bestEnergy = p.energy ∧ p.bestValid = true ∧ p.state = .idle ∧ p.job = j.idx ∧
            p.n = x.param ∧ p.tiles.length = es.length ∧
            p.tiles.map (·.fields) = (ts.zip ms).map (fun y => freshFields spins y.1 y.2) ∧
            (∀ y ∈ p.tiles, y.best = y.spins ∧ y.queue = [] ∧ y.ptr = 0) ∧ p.tiles.map (·.spins) = ts.map (·.spins) ∧
            p.b = (schedOf x).start ∧ p.left = ((schedOf x).bearing (schedOf x).start).2.2 ∧ p.sigma = 0 ∧
            (t.plot q).plt.job? j.idx = some { j with passed := true } ∧ t.mem = s.mem))) ∧
      ((∀ e ∈ es, ∀ r ∈ tileTables x.param e, readAccess s q j r.1 r.2 = .ok ∨ readAccess s q j r.1 r.2 = .wait) →
        (∃ e ∈ es, ∃ r ∈ tileTables x.param e, readAccess s q j r.1 r.2 = .wait) → Gives (.annealInitialPass q j.idx) s (fun t =>
          (t.plot q).an.state = .init ∧ (t.plot q).an.job = j.idx ∧ (t.plot q).plt.job? j.idx = some j ∧ t.mem = s.mem)))

/-- A run starts from IDLE with its number of sweeps, at the bearing in force or at a named one; a bearing the schedule does
not have is a defective image. A plot that grafts runs GRAFT_SWEEPS sweeps after its pass (R187). It ends in IDLE when its last sweep is complete, no event of it is due and every committed
flip has been applied (R145, R162). -/
def runsStartAndEnd : Prop :=
  ∀ (s : State) (q : PlotId) (j : Job), holdsAttempt s q j →
    ((s.plot q).an.state = .idle → (s.plot q).an.bestValid = true → grafts s q = false → ∀ n : Nat, 0 < n →
      Gives (.annealRunStart q j.idx n none) s (fun t =>
        t.plot q = { s.plot q with an := { (s.plot q).an with state := .run, slot := 0, runLeft := n } } ∧
        t = { s with plots := t.plots }) ∧
      (∀ b < (planSched s q).count, Gives (.annealRunStart q j.idx n (some b)) s (fun t =>
        (t.plot q).an.state = .run ∧ (t.plot q).an.runLeft = n ∧ (t.plot q).an.b = b ∧
        (t.plot q).an.left = ((planSched s q).bearing b).2.2 ∧ t = { s with plots := t.plots } ∧
        ((planSched s q).bearingReset = true → (t.plot q).an.sigma = 0 ∧ (t.plot q).an.c = 0 ∧
          (t.plot q).an.m = (s.plot q).an.bestEnergy))) ∧
      (∀ b, (planSched s q).count ≤ b → Gives (.annealRunStart q j.idx n (some b)) s (faulted s q j .image (tileNodeOf s q 0)))) ∧
    (∀ e x n, graftOf s q = some (e, x) →
      ((s.plot q).grf.phase ≠ 4 → Gives (.annealRunStart q j.idx n none) s (fun t => t = s)) ∧
      ((s.plot q).grf.phase = 4 → (s.plot q).an.state = .idle → (s.plot q).an.bestValid = true → 0 < e.sweeps →
        Gives (.annealRunStart q j.idx n none) s (fun t => t.plot q = { s.plot q with
            an := { (s.plot q).an with state := .run, slot := 0, runLeft := e.sweeps }, grf := { (s.plot q).grf with phase := 5 } } ∧
          t = { s with plots := t.plots }))) ∧
    ((s.plot q).an.state = .run ∨ (s.plot q).an.state = .drain → (s.plot q).an.runLeft = 0 → (s.plot q).an.inflight = [] →
      (s.plot q).an.sweepDue = false → (s.plot q).an.auditDue = false → (s.plot q).an.left ≠ 0 →
      (planSched s q).stallEn = false ∨ (s.plot q).an.c < 2 ^ (planSched s q).k → Gives (.annealRunEnd q j.idx) s (fun t =>
        t.plot q = { s.plot q with an := { (s.plot q).an with state := .idle } } ∧ t = { s with plots := t.plots }))

/-- A bubble slot pauses every tile and counts a compute bubble unit for each; where the plot would pause on its tape in that
slot too, it is metered as a tape pause. In a drain slot nothing is proposed, the flips
that are due are applied, and the slot counts. In a relaxed slot a tile with a free candidate takes one word, proposes, and
commits the flip if s (h + N) is negative and the lane grants it; with too few bits it is starved and stays at its candidate
(R132 to R136, R154, R170, R271). The slot of work is stated for a plot of one tile. -/
def flipSlotsPropose : Prop :=
  ∀ (s : State) (q : PlotId) (j : Job), holdsAttempt s q j →
    (isBubble (s.plot q).an.unit (levelInForce s.pwr 0 (s.classOf q)) = true → Gives (.flipSlot q j.idx) s (fun t =>
      t.plot q = { s.plot q with
        an := { (s.plot q).an with
          unit := (s.plot q).an.unit + 1,
          live := (if tapePause s q j then { (s.plot q).an.live with pauseCnt := satInc (s.plot q).an.live.pauseCnt }
            else (s.plot q).an.live) },
        pwr := { (s.plot q).pwr with bubbles := (s.plot q).pwr.bubbles + (s.plot q).an.tiles.length } } ∧
      t = { s with plots := t.plots })) ∧
    (isBubble (s.plot q).an.unit (levelInForce s.pwr 0 (s.classOf q)) = false → duePoison s q j = none →
      ((s.plot q).an.state = .drain → Gives (.flipSlot q j.idx) s (fun t =>
        (t.plot q).an.slot = (s.plot q).an.slot + 1 ∧ (t.plot q).an.live.prop = (s.plot q).an.live.prop ∧
        (t.plot q).an.inflight = (s.plot q).an.inflight.filter
          (fun f => !decide (f.slot + laneLag s.cfg.content q.val ≤ (s.plot q).an.slot + 1)) ∧
        t = { s with plots := t.plots })) ∧
      ∀ (x : AnTile) (row : Nat) (f : TileId), (s.plot q).an.state = .run → (s.plot q).an.tiles = [x] → j.strict = false →
        0 < j.cap → x.queue = [] → x.candidate = some row → blocked (s.plot q).an 0 x row = false → wordSource s q = .well →
        tileFamily s q x.idx = some f → (s.plot q).an.sweepDue = false → (s.plot q).an.auditDue = false →
        (s.plot q).an.left ≠ 0 → (planSched s q).stallEn = false →
        (∀ u r, s.nse.wells[f].fifo.word = some (u, r) →
          let won := favourable x row (slotNoise (planSched s q) (s.plot q).an u)
          Gives (.flipSlot q j.idx) s (fun t =>
            (t.plot q).an.live.prop = (s.plot q).an.live.prop + 1 ∧
            (t.plot q).an.live.flip = (s.plot q).an.live.flip + (if won then 1 else 0) ∧
            (t.plot q).an.slot = (s.plot q).an.slot + 1 ∧ (t.plot q).an.tiles.map (·.ptr) = [x.ptr + 1] ∧
            (won = true → 2 ≤ laneLag s.cfg.content q.val →
              ({ slot := (s.plot q).an.slot, tile := 0, row := row } : Flip) ∈ (t.plot q).an.inflight) ∧
            t.nse.wells[f].fifo = r ∧ (∀ g : TileId, g ≠ f → t.nse.wells[g] = s.nse.wells[g]) ∧
            t.anl.devProp = s.anl.devProp + 1)) ∧
        (s.nse.wells[f].fifo.word = none → Gives (.flipSlot q j.idx) s (fun t =>
          (t.plot q).an.live.starveCnt = satInc (s.plot q).an.live.starveCnt ∧
          (t.plot q).an.live.prop = (s.plot q).an.live.prop ∧ (t.plot q).an.live.flip = (s.plot q).an.live.flip ∧
          (t.plot q).an.tiles.map (·.ptr) = [x.ptr] ∧ t.nse.wells[f].fifo = s.nse.wells[f].fifo)))

/-- Flip slots propose and commit flips. -/
def Obligations.FlipSlotsPropose : Prop := flipSlotsPropose

/-- A sweep that is complete counts, starts every tile's pass again, and makes an audit due after every 65,536th (R133, R142,
R162). -/
def sweepsCount : Prop :=
  ∀ (s : State) (q : PlotId) (j : Job), holdsAttempt s q j → (s.plot q).an.state = .run → (s.plot q).an.sweepDue = true →
    Gives (.sweepComplete q j.idx) s (fun t =>
      let p := (s.plot q).an
      let p' := (t.plot q).an
      p'.live.sweeps = satInc p.live.sweeps ∧ p'.sweepDue = false ∧ (∀ x ∈ p'.tiles, x.ptr = 0) ∧
      p'.tiles.map (·.spins) = p.tiles.map (·.spins) ∧ p'.left = p.left - 1 ∧ p'.runLeft = p.runLeft - 1 ∧
      p'.c = (if (planSched s q).stallEn then p.c + 1 else p.c) ∧
      p'.auditDue = decide ((satInc p.live.sweeps).toNat % 65536 = 0) ∧ p'.energy = p.energy ∧ p'.inflight = p.inflight ∧
      p'.bestEnergy = p.bestEnergy ∧ t = { s with plots := t.plots })

/-- The energy audit compares the register with the energy computed from scratch: equal, nothing changes; unequal, the
computed value replaces the register, the difference shows in ANL_PAUDIT_DELTA, the job is marked, ENERGY_AUDIT rises and one
line is written in a frame. A field that does not match is a hardware error and faults the job (R142, Table 2-4). -/
def auditsCorrectTheEnergy : Prop :=
  ∀ (s : State) (q : PlotId) (j : Job), holdsAttempt s q j → (s.plot q).an.auditDue = true → (s.plot q).an.inflight = [] →
    (∀ x ∈ (s.plot q).an.tiles, ∀ r ∈ columnRanges (s.plot q).an.n x.mask x.coup (colStride x.v x.format),
      poisonAt s q j r.1 r.2 = none) →
    let p := (s.plot q).an
    let spins := spinVec p.tiles p.n
    let ms := p.tiles.map (tileMatrix s q j p.n)
    let e := freshEnergy p.tiles ms spins + p.offset
    (∀ x : Nat, Gives (.energyAudit q j.idx (some x)) s (faulted s q j .engine (tileNodeOf s q x))) ∧
    ((∀ y ∈ p.tiles.zip ms, freshFields spins y.1 y.2 = y.1.fields) →
      (e = p.energy → Gives (.energyAudit q j.idx none) s (fun t =>
        (t.plot q).an.auditDue = false ∧ (t.plot q).an.energy = p.energy ∧ (t.plot q).an.live = p.live ∧
        t = { s with plots := t.plots })) ∧
      (e ≠ p.energy → Gives (.energyAudit q j.idx none) s (fun t =>
        (t.plot q).an.auditDue = false ∧ (t.plot q).an.energy = e ∧ (t.plot q).an.bestEnergy = min p.bestEnergy e ∧
        (t.plot q).an.live.auditDelta = BitVec.ofInt 64 (max (-(2 ^ 63)) (min (2 ^ 63 - 1) (e - p.energy))) ∧
        (t.plot q).an.live.auditCnt = satInc p.live.auditCnt ∧
        (t.plot q).plt.job? j.idx = some { j with audit := true } ∧
        (t.plot q).plt.irqStatus = (s.plot q).plt.irqStatus ||| 0x400 ∧
        (p.auditLogged = false → ∃ l, t.log.lines.head? = some l ∧ l.code = 0x13 ∧ l.plot = q.val))))

/-- At the end of a stall window the noise offset steps up to its cap when the best energy has not improved, and returns to 0
when it has; at the end of a bearing period the next bearing begins, as END says at the last one (R162, R163). -/
def scheduleSteps : Prop :=
  ∀ (s : State) (q : PlotId) (j : Job), holdsAttempt s q j → (s.plot q).an.auditDue = false →
    let p := (s.plot q).an
    let sc := planSched s q
    (sc.stallEn = true → 2 ^ sc.k ≤ p.c → Gives (.stallWindowEnd q j.idx) s (fun t =>
      (t.plot q).an.c = 0 ∧ (t.plot q).an.m = p.bestEnergy ∧
      (p.bestEnergy < p.m → (t.plot q).an.sigma = 0 ∧ (t.plot q).an.live.stallCnt = p.live.stallCnt) ∧
      (p.m ≤ p.bestEnergy → (t.plot q).an.sigma = min (p.sigma + sc.step) sc.cap ∧
        (t.plot q).an.live.stallCnt = satInc p.live.stallCnt) ∧
      t = { s with plots := t.plots })) ∧
    (sc.stallEn = false ∨ p.c < 2 ^ sc.k → p.left = 0 → p.state = .run ∨ p.state = .audit ∨ p.state = .drain →
      Gives (.bearingPeriodEnd q j.idx) s (fun t =>
        let b := if p.b + 1 < sc.count then p.b + 1 else if sc.endMode = 1 then sc.loop else p.b
        (t.plot q).an.b = b ∧ (t.plot q).an.left = (sc.bearing b).2.2 ∧
        (t.plot q).an.sigma = (if sc.bearingReset then 0 else p.sigma) ∧ t = { s with plots := t.plots }))

/-- An anneal attempt: initial pass, runs, sweeps, schedule and audit. -/
def Obligations.AnnealAttempts : Prop :=
  initialPassComputesFromScratch ∧ runsStartAndEnd ∧ sweepsCount ∧ scheduleSteps ∧ auditsCorrectTheEnergy

/-! ### Noise (chapter 06) -/

/-- The health registers, the cause and the line a failure leaves: RCT_FAIL or APT_FAIL counts, NOISE_HEALTH rises, and one
line is written for the source in a frame (R153, Table 14-6). -/
def healthNoted (s t : State) (src : NoiseSource) (apt : Bool) : Prop :=
  t.nse.rctFail = (if apt then s.nse.rctFail else satInc s.nse.rctFail) ∧
  t.nse.aptFail = (if apt then satInc s.nse.aptFail else s.nse.aptFail) ∧ t.pf.irqStatus.getLsbD 11 = true ∧
  (s.nse.logged.contains src = false → ∃ l, t.log.lines.head? = some l ∧ l.code = 0x40) ∧
  (s.nse.logged.contains src = true → t.log.lines = s.log.lines ∧ t.log.suppress = satInc s.log.suppress)

/-- A source that fails a health test goes out of service, FAILED, or LOCKED at the 16th failure within one second; a well's
reservoir is emptied and a channel's waiting half is dropped. A LOCKED source is not tested (R153). -/
def failuresTakeSourcesOut : Prop :=
  ∀ (s : State) (apt : Bool),
    (∀ w : TileId, (s.nse.wells[w].state = .locked → Gives (.wellHealthFail (.well w) apt) s (fun t => t = s)) ∧
      (s.nse.wells[w].state ≠ .locked → Gives (.wellHealthFail (.well w) apt) s (fun t =>
        t.nse.wells[w].state = (if (s.nse.wells[w].fails.filter (fun x => decide (s.boot.tclk < x + 100000000))).length < 15
          then .failed else .locked) ∧
        t.nse.wells[w].fifo = {} ∧ t.nse.wells[w].draw = s.nse.wells[w].draw ∧
        (∀ v : TileId, v ≠ w → t.nse.wells[v] = s.nse.wells[v]) ∧ t.nse.chans = s.nse.chans ∧ t.nse.pool = s.nse.pool ∧
        healthNoted s t (.well w) apt))) ∧
    (∀ c : Fin 4, (s.nse.chans[c].state = .locked → Gives (.wellHealthFail (.channel c) apt) s (fun t => t = s)) ∧
      (s.nse.chans[c].state ≠ .locked → Gives (.wellHealthFail (.channel c) apt) s (fun t =>
        t.nse.chans[c].state = (if (s.nse.chans[c].fails.filter (fun x => decide (s.boot.tclk < x + 100000000))).length < 15
          then .failed else .locked) ∧
        t.nse.chans[c].half = none ∧ (∀ d : Fin 4, d ≠ c → t.nse.chans[d] = s.nse.chans[d]) ∧
        t.nse.wells = s.nse.wells ∧ t.nse.pool = s.nse.pool ∧ healthNoted s t (.channel c) apt)))

/-- A well in STARTUP or FAILED that passes its start-up test is HEALTHY, and so is a deep-well channel once it has formed one
full pool block; a HEALTHY or LOCKED one has none to pass. The PF's NSE_RETRY starts a source's start-up test whatever its
state, with no failures counted against one that was LOCKED; no VF reaches it (R152, R153, Table 6-2). -/
def sourcesReturn : Prop :=
  ∀ (s : State) (w : TileId) (c : Fin 4) (f : Fn),
    (s.nse.wells[w].state = .startup ∨ s.nse.wells[w].state = .failed → Gives (.startupTestPass (.well w)) s (fun t =>
      t.nse.wells[w].state = .healthy ∧ t.nse.wells[w].fifo = s.nse.wells[w].fifo ∧
      (∀ v : TileId, v ≠ w → t.nse.wells[v] = s.nse.wells[v]) ∧ t = { s with nse := { s.nse with wells := t.nse.wells } })) ∧
    (s.nse.wells[w].state = .healthy ∨ s.nse.wells[w].state = .locked →
      Gives (.startupTestPass (.well w)) s (fun t => t = s)) ∧
    (s.nse.chans[c].state = .startup ∨ s.nse.chans[c].state = .failed → s.nse.chans[c].warm = 1 →
      Gives (.startupTestPass (.channel c)) s (fun t =>
        t.nse.chans[c] = { s.nse.chans[c] with state := .healthy, half := none, warm := 0 } ∧
        (∀ d : Fin 4, d ≠ c → t.nse.chans[d] = s.nse.chans[d]) ∧ (∀ q : PlotId, t.nse.rng[q] = { s.nse.rng[q] with up := true }) ∧
        t = { s with nse := { s.nse with chans := t.nse.chans, rng := t.nse.rng } })) ∧
    (s.nse.chans[c].state = .healthy ∨ s.nse.chans[c].state = .locked ∨ s.nse.chans[c].warm ≠ 1 →
      Gives (.startupTestPass (.channel c)) s (fun t => t = s)) ∧
    (s.hostOk 0 = true → Gives (.wellRetry 0 w) s (fun t =>
      t.nse.wells[w] = { s.nse.wells[w] with
        state := .startup, fails := if s.nse.wells[w].state = .locked then [] else s.nse.wells[w].fails } ∧
      (∀ v : TileId, v ≠ w → t.nse.wells[v] = s.nse.wells[v]) ∧
      t = { s with resp := {}, nse := { s.nse with wells := t.nse.wells } })) ∧
    (s.hostOk 0 = true → Gives (.deepWellRetry 0 c) s (fun t =>
      t.nse.chans[c] = { s.nse.chans[c] with
        state := .startup, fails := (if s.nse.chans[c].state = .locked then [] else s.nse.chans[c].fails), half := none, warm := 0 } ∧
      (∀ d : Fin 4, d ≠ c → t.nse.chans[d] = s.nse.chans[d]) ∧
      t = { s with resp := {}, nse := { s.nse with chans := t.nse.chans, rng := t.nse.rng } })) ∧
    (s.hostOk f = true → f ≠ 0 → Gives (.wellRetry f w) s (fun t => t = { s with resp := {} }) ∧
      Gives (.deepWellRetry f c) s (fun t => t = { s with resp := {} }))

/-- Noise sources fail, lock and return. -/
def Obligations.NoiseSourcesFailAndReturn : Prop := failuresTakeSourcesOut ∧ sourcesReturn

/-- A healthy well's 128 bits go behind those its reservoir holds, which stay where they are; what does not fit is discarded,
and a well out of service has no output. A tile whose well is out of service, or whose last 64 slots that needed a word were
short, draws from the deep well (R151, R155). -/
def reservoirsFill : Prop :=
  ∀ (s : State) (w : TileId) (bits : BitVec 128),
    (s.nse.wells[w].state = .healthy → Gives (.conditionerOutput w bits) s (fun t =>
      t.nse.wells[w].fifo.len = s.nse.wells[w].fifo.len + min 128 (32768 - s.nse.wells[w].fifo.len) ∧
      t.nse.wells[w].fifo.bits = s.nse.wells[w].fifo.bits +
        bits.toNat % 2 ^ min 128 (32768 - s.nse.wells[w].fifo.len) * 2 ^ s.nse.wells[w].fifo.len ∧
      (∀ v : TileId, v ≠ w → t.nse.wells[v] = s.nse.wells[v]) ∧ t = { s with nse := { s.nse with wells := t.nse.wells } })) ∧
    (s.nse.wells[w].state ≠ .healthy → Gives (.conditionerOutput w bits) s (fun t => t = s)) ∧
    (s.nse.wells[w].state = .failed ∨ s.nse.wells[w].state = .locked ∨ 64 ≤ s.nse.wells[w].short →
      Gives (.deepWellDrawStart w) s (fun t => t.nse.wells[w] = { s.nse.wells[w] with draw := true } ∧
        (∀ v : TileId, v ≠ w → t.nse.wells[v] = s.nse.wells[v]) ∧ t = { s with nse := { s.nse with wells := t.nse.wells } })) ∧
    (s.nse.wells[w].state = .healthy ∨ s.nse.wells[w].state = .startup → s.nse.wells[w].short < 64 →
      Gives (.deepWellDrawStart w) s (fun t => t = s))

/-- Two outputs of a channel make a block, the first its low half (the model's choice, log entry 188); a healthy
channel's enters the pool, one formed in a start-up test and one that finds the pool full are not kept. The pool's oldest block goes to the attestation key while it is wanted,
else to the next drawing tile with 64 bytes free, else to the next host request; with none of them it stays (R156). -/
def theDeepWellServes : Prop :=
  ∀ s : State,
    (∀ (c : Fin 4) (bits : BitVec 256), s.nse.chans[c].state ≠ .locked →
      (s.nse.chans[c].half = none → Gives (.deepWellOutput c bits) s (fun t =>
        t.nse.chans[c] = { s.nse.chans[c] with half := some bits } ∧ t = { s with nse := { s.nse with chans := t.nse.chans } })) ∧
      (∀ lo, s.nse.chans[c].half = some lo → Gives (.deepWellOutput c bits) s (fun t =>
        t.nse.chans[c] = { s.nse.chans[c] with half := none, warm := if s.nse.chans[c].state = .healthy then 0 else 1 } ∧
        t.nse.pool = (if s.nse.chans[c].state = .healthy ∧ s.nse.pool.length < 256 then s.nse.pool ++ [bits ++ lo]
          else s.nse.pool) ∧
        t = { s with nse := { s.nse with chans := t.nse.chans, pool := t.nse.pool } }))) ∧
    (∀ (c : Fin 4) (bits : BitVec 256), s.nse.chans[c].state = .locked → Gives (.deepWellOutput c bits) s (fun t => t = s)) ∧
    (s.nse.pool = [] → Gives .deepWellBlock s (fun t => t = s)) ∧
    (∀ blk rest, s.nse.pool = blk :: rest →
      (drawsKey s = true → Gives .deepWellBlock s (fun t =>
        t = { s with nse := { s.nse with pool := rest, dwInt := satInc s.nse.dwInt },
                     aux := { s.aux with key := some (blk.setWidth 256) } })) ∧
      (∀ w : TileId, drawsKey s = false → nextDrawTile s = some w → Gives .deepWellBlock s (fun t =>
        t.nse.pool = rest ∧ t.nse.dwInt = satInc s.nse.dwInt ∧ t.nse.dwHost = s.nse.dwHost ∧ t.out = s.out ∧ t.aux = s.aux ∧
        t.nse.wells[w].fifo.len = s.nse.wells[w].fifo.len + 512 ∧
        t.nse.wells[w].fifo.bits = s.nse.wells[w].fifo.bits + blk.toNat * 2 ^ s.nse.wells[w].fifo.len ∧
        (∀ v : TileId, v ≠ w → t.nse.wells[v] = s.nse.wells[v]) ∧ t.nse.rrTile = (w.val + 1) % 64)) ∧
      (∀ q : PlotId, drawsKey s = false → nextDrawTile s = none → nextRng s = some q → Gives .deepWellBlock s (fun t =>
        t.nse.pool = rest ∧ t.nse.dwInt = s.nse.dwInt ∧ t.nse.dwHost = satInc s.nse.dwHost ∧ t.nse.wells = s.nse.wells ∧
        t.nse.rng[q].done = s.nse.rng[q].done + 1 ∧ t.nse.rrFn = (q.val + 1) % 65 ∧
        (∃ more, t.out = s.out ++
          .write q (s.nse.rng[q].cap.toNat + 64 * s.nse.rng[q].done) (leBytes 64 blk.toNat) s.devCtl.relaxed
            s.maxPayload :: more) ∧
        (t.nse.rng[q].busy = false ↔ s.nse.rng[q].done + 1 = s.nse.rng[q].want))) ∧
      (drawsKey s = false → nextDrawTile s = none → nextRng s = none → Gives .deepWellBlock s (fun t => t = s)))

/-- RNG_READY of the PF or of a plot has risen. -/
def rngReadyRaised (t : State) (q : PlotId) : Prop :=
  if q = 0 then t.pf.irqStatus.getLsbD 12 = true else (t.plot q).plt.irqStatus.getLsbD 11 = true

/-- GO captures the address and the number of blocks and begins the 1 ms window; an address that is not a multiple of 64, or a
number outside 1 to 16,384, is IGNORED. A GO while BUSY changes nothing until the request ends, which then reads IGNORED. With
DW_HOST_EN = 0 the request ends at once with HEALTH. At the window's end a request ends with what it has, DONE, or HEALTH where
no channel was in service in the whole window or DW_HOST_EN is 0 then (R157, R158; that a request ends at once with DW_HOST_EN =
0, and that it runs on when DW_HOST_EN is cleared later, are the model's, log entries 65 and 189). -/
def randomRequests : Prop :=
  ∀ (s : State) (f : Fn) (q : PlotId) (n : BitVec 15), s.hostOk f = true → reaches f q = true →
    (s.nse.rng[q].busy = true → Gives (.rngRequest f q n) s (fun t =>
      t.nse.rng[q] = { s.nse.rng[q] with again := true } ∧ (∀ p : PlotId, p ≠ q → t.nse.rng[p] = s.nse.rng[p]) ∧
      t = { s with resp := {}, nse := { s.nse with rng := t.nse.rng } })) ∧
    (s.nse.rng[q].busy = false → s.nse.rng[q].addr.toNat % 64 ≠ 0 ∨ n = 0 ∨ 16384 < n.toNat → Gives (.rngRequest f q n) s (fun t =>
      t.nse.rng[q] = { s.nse.rng[q] with result := 4, blocks := 0 } ∧ (∀ p : PlotId, p ≠ q → t.nse.rng[p] = s.nse.rng[p]) ∧
      t = { s with resp := {}, nse := { s.nse with rng := t.nse.rng } })) ∧
    (s.nse.rng[q].busy = false → s.nse.rng[q].addr.toNat % 64 = 0 → n ≠ 0 → n.toNat ≤ 16384 →
      (s.nse.dwHostEn = true → Gives (.rngRequest f q n) s (fun t =>
        let r := t.nse.rng[q]
        r.busy = true ∧ r.up = !deepWellDown s ∧ r.cap = s.nse.rng[q].addr ∧ r.want = n.toNat ∧ r.done = 0 ∧ r.goAt = s.boot.tclk ∧ r.again = false ∧
        (∀ p : PlotId, p ≠ q → t.nse.rng[p] = s.nse.rng[p]) ∧ t = { s with resp := {}, nse := { s.nse with rng := t.nse.rng } })) ∧
      (s.nse.dwHostEn = false → Gives (.rngRequest f q n) s (fun t =>
        t.nse.rng[q].busy = false ∧ t.nse.rng[q].result = 2 ∧ t.nse.rng[q].blocks = 0 ∧ rngReadyRaised t q))) ∧
    (s.nse.rng[q].busy = false → Gives (.rngWindowExpire q) s (fun t => t = s)) ∧
    (s.nse.rng[q].busy = true → Gives (.rngWindowExpire q) s (fun t =>
      t.boot.tclk = max s.boot.tclk (s.nse.rng[q].goAt + 100000) ∧ t.nse.rng[q].busy = false ∧
      t.nse.rng[q].blocks = BitVec.ofNat 15 s.nse.rng[q].done ∧ rngReadyRaised t q ∧
      t.nse.rng[q].result = (if s.nse.rng[q].again then 4
        else if s.nse.dwHostEn = false ∨ s.nse.rng[q].up = false then 2 else 1)))

/-- Reservoirs fill, the deep well serves, and random requests end. That a request with DW_HOST_EN = 0 ends at once is
the model's reading (log entry 65). -/
def Obligations.NoiseIsServed : Prop := reservoirsFill ∧ theDeepWellServes ∧ randomRequests

/-- The lane of a plot's within-plot tile. -/
def laneOf (s : State) (q : PlotId) (i : Fin 64) : TapeLane := (s.plot q).nse.lanes[i]

/-- A doorbell takes its index where the plot has a tape, the tile is the plot's and the occupancy fits; otherwise it is
ignored, shown as DB_RANGE and logged. In play the published index moves and Compass fetches what the lane has room for. The
tape registers of set 0 are reserved: a write there does nothing (R167, R173). -/
def tapeDoorbells : Prop :=
  (∀ (s : State) (i : Fin 64) (x : BitVec 16), s.hostOk 0 = true → Gives (.tapeDoorbell 0 0 i x) s (fun t => t = { s with resp := {} })) ∧
  ∀ (s : State) (f : Fn) (q : PlotId) (i : Fin 64) (x : BitVec 16), s.hostOk f = true → reaches f q = true → q ≠ 0 →
    let c := tapeRws s q
    let l := laneOf s q i
    let occ := if c.tapeDir then occupancy l.tail x else occupancy x l.head
    ((s.plot q).rws.tapeOn = false ∨ (s.cfg.content.tileList q.val).length ≤ i.val ∨ c.tapeLen.toNat < occ →
      Gives (.tapeDoorbell f q i x) s (fun t =>
        (t.plot q).nse = { (s.plot q).nse with errTile := BitVec.ofNat 6 i.val, errReason := 8 } ∧
        ∃ y, t.log.lines.head? = some y ∧ y.code = 0x42 ∧ y.plot = q.val ∧ y.arg0 = i.val ∧ y.arg1 = x.toNat)) ∧
    ((s.plot q).rws.tapeOn = true → i.val < (s.cfg.content.tileList q.val).length → occ ≤ c.tapeLen.toNat →
      Gives (.tapeDoorbell f q i x) s (fun t =>
        (∀ k : Fin 64, k ≠ i → laneOf t q k = laneOf s q k) ∧ t.log = s.log ∧
        (c.tapeDir = true → (laneOf t q i).head = x ∧ (laneOf t q i).tail = l.tail) ∧
        (c.tapeDir = false → (laneOf t q i).tail = x ∧ (laneOf t q i).head = l.head ∧ (laneOf t q i).bufs = l.bufs ∧
          (c.tapeOn = true → (s.plot q).nse.halted = none → s.permitted q = true → l.flight = 0 → l.refetch = false →
            l.bufs.length < 4 → occ = 1 → (laneOf t q i).flight = 1 ∧
              ∃ more, t.out = s.out ++ .readReq q (laneAddr c i.val l.head) 4096 s.maxRead s.tagBits :: more))))

/-- A segment that fails a check is recorded with the check's reason, raises TAPE_REFUSED, is logged, and faults the plot's
tape job, whose abandonment fetching waits for. -/
def segmentRefused (s t : State) (q : PlotId) (i : Fin 64) (reason : Nat) (c : Code) : Prop :=
  (t.plot q).nse.errTile = BitVec.ofNat 6 i.val ∧ (t.plot q).nse.errReason = BitVec.ofNat 4 reason ∧
  (t.plot q).plt.irqStatus.getLsbD 7 = true ∧
  (∃ y, t.log.lines.head? = some y ∧ y.code = 0x41 ∧ y.plot = q.val ∧ y.arg0 = reason * 65536 + i.val) ∧
  (∀ j : Job, tapeJob s q = some j.idx → runs s q j → (t.plot q).nse.halted = some j.idx ∧
    (t.plot q).plt.job? j.idx = some { j.dropCopies with
      phase := .abandoning, code := c, node := tileNodeOf s q i.val, faultAt := some t.boot.tclk, logged := true })

/-- A segment that arrives passes the checks in order and is buffered behind the others, and HEAD and the expected number
advance; the first check that fails refuses it. A fetch that fails is reason 9, and the job's fault is HOST_DMA; with no job
admitted nothing halts and the segment is fetched again. A full record
segment is written at the lane's tail where the lane has space, numbered and with FIRST at an attempt's first (R166 to R169). -/
def tapeSegments : Prop :=
  ∀ (s : State) (q : PlotId) (i : Fin 64),
    let l := laneOf s q i
    (l.flight = 0 ∨ l.refetch = true → ∀ r, Gives (.tapeSegmentArrival q i r) s (fun t => t = s)) ∧
    (0 < l.flight → l.refetch = false →
      (∀ k, Gives (.tapeSegmentArrival q i (.failed k)) s (fun t => segmentRefused s t q i 9 .hostDma ∧
        (laneOf t q i).head = l.head ∧ (laneOf t q i).next = l.next ∧
        (tapeJob s q = none → (tapeRws s q).tapeOn = true → (tapeRws s q).tapeDir = false → (s.plot q).nse.halted = none →
          s.permitted q = true →
          .readReq q (laneAddr (tapeRws s q) i.val l.head) 4096 s.maxRead s.tagBits ∈ t.out.drop s.out.length))) ∧
      (∀ b0, let b := slice b0 0 4096
        (segmentReason b i.val l.next = 0 → Gives (.tapeSegmentArrival q i (.bytes b0)) s (fun t =>
          (laneOf t q i).head = l.head + 1 ∧ (laneOf t q i).next = l.next + 1 ∧ (laneOf t q i).tail = l.tail ∧
          (laneOf t q i).bufs = skipEmpty (l.bufs ++
            [{ segNo := leAt b 4 4, words := segmentWords b, last := bitOf (leAt b 9 1) 0 }]) ∧
          (∀ k : Fin 64, k ≠ i → laneOf t q k = laneOf s q k) ∧ t.log = s.log)) ∧
        (segmentReason b i.val l.next ≠ 0 → Gives (.tapeSegmentArrival q i (.bytes b0)) s (fun t =>
          segmentRefused s t q i (segmentReason b i.val l.next) .tape ∧ (laneOf t q i).head = l.head + 1 ∧
          (laneOf t q i).next = l.next)))) ∧
    (let c := tapeRws s q
     let full := c.tapeOn = true ∧ c.tapeDir = true ∧ 2688 ≤ l.record.length ∧ occupancy l.tail l.head < c.tapeLen.toNat ∧
       s.permitted q = true
     (¬ full → Gives (.tapeRecordWrite q i) s (fun t => t = s)) ∧
     (full → Gives (.tapeRecordWrite q i) s (fun t =>
       (laneOf t q i).record = l.record.drop 2688 ∧ (laneOf t q i).tail = l.tail + 1 ∧ (laneOf t q i).next = l.next + 1 ∧
       (laneOf t q i).fresh = false ∧ (∀ k : Fin 64, k ≠ i → laneOf t q k = laneOf s q k) ∧
       ∃ more, t.out = s.out ++ .write q (laneAddr c i.val l.tail)
         (segmentBytes l.next.toNat i.val (if l.fresh then 2 else 0) (l.record.take 2688)) s.devCtl.relaxed s.maxPayload ::
           more)))

/-- Noise tapes: doorbells, segments and records. -/
def Obligations.TapesPlayAndRecord : Prop := tapeDoorbells ∧ tapeSegments

/-! ### Grafting (chapter 07) -/

/-- A job's writes land at once: every page they touch is a home page it may write and has its private copy, and no poisoned
line would be written in part. -/
def landAtOnce (s : State) (q : PlotId) (j : Job) (ws : List (Nat × List Byte)) : Prop :=
  j.copies.length + j.copying.length ≤ j.img.wrPages ∧
  ∀ w ∈ ws, mayWrite s q w.1 w.2.length = true ∧ partPoison s q j w.1 w.2.length = none ∧
    ∀ p ∈ pagesOf w.1 w.2.length, p ∈ j.copies

/-- The job with its writes in its private copies. -/
def writtenBy (q : PlotId) (j : Job) (ws : List (Nat × List Byte)) : Job := ws.foldl (fun j w => j.put q w.1 w.2) j

/-- A directory row can be read, is no longer than the number of blocks, and passes the checks of R178. -/
def rowOk (s : State) (q : PlotId) (j : Job) (e : GraftEntry) (a : Nat) : Prop :=
  readAccess s q j (e.dir + 8 * a) 8 = .ok ∧ (rowHead s q j e a).2 ≤ e.nb ∧
  readAccess s q j (e.entryAddr (rowHead s q j e a).1) (16 * (rowHead s q j e a).2) = .ok ∧ (dirRow s q j e a).ok e.nb = true

/-- What the whole-problem energy reads of a row of the directory is there to read. -/
def rowReads (s : State) (q : PlotId) (j : Job) (e : GraftEntry) (x : Section) (a : Nat) : Prop :=
  (∀ r ∈ e.blockReads a, readAccess s q j r.1 r.2 = .ok) ∧
  ∀ y ∈ upperEntries s q j e a, ∀ g < 8, ∀ r ∈ e.energyReads x a y.1 y.2 g, readAccess s q j r.1 r.2 = .ok

/-- The full pass checks the directory and the scratch row by row, computes the energy of the whole problem from its tables, and
writes the state table as the best table; the attempt's grafting begins. A directory row that fails a check, or scratch that
breaks R177, is a defective image. It runs once per attempt; where a page is not resident it waits in INIT (R116, R177, R178,
R180). -/
def fullPassReadsTheProblem : Prop :=
  ∀ (s : State) (q : PlotId) (j : Job) (e : GraftEntry) (x : Section), runs s q j → graftOf s q = some (e, x) →
    (j.passed = true → Gives (.graftFullPass q j.idx) s (fun t => t = s)) ∧
    (j.passed = false → (s.plot q).grf.scan = none →
      (∀ i, badScratch s q e x = some i → Gives (.graftFullPass q j.idx) s (faulted s q j .image (tileNodeOf s q i))) ∧
      (badScratch s q e x = none →
        (0 < e.nb → readAccess s q j e.dir 8 = .wait → Gives (.graftFullPass q j.idx) s (fun t =>
          (t.plot q).an.state = .init ∧ (t.plot q).grf.scan = some {} ∧ (t.plot q).plt.job? j.idx = some j ∧ t.mem = s.mem)) ∧
        (∀ a, a < e.nb → (∀ b, b < a → rowOk s q j e b ∧ rowReads s q j e x b ∧ scratchOn e x (rowPages s q j e b) = none) →
          (readAccess s q j (e.dir + 8 * a) 8 = .ok → (e.nb < (rowHead s q j e a).2 ∨
            (readAccess s q j (e.entryAddr (rowHead s q j e a).1) (16 * (rowHead s q j e a).2) = .ok ∧
              (dirRow s q j e a).ok e.nb = false)) →
            Gives (.graftFullPass q j.idx) s (faulted s q j .image (mxeNodeOf s q 0))) ∧
          (rowOk s q j e a → ∀ i, scratchOn e x (rowPages s q j e a) = some i →
            Gives (.graftFullPass q j.idx) s (faulted s q j .image (tileNodeOf s q i)))) ∧
        ((∀ a, a < e.nb → rowOk s q j e a ∧ rowReads s q j e x a ∧ scratchOn e x (rowPages s q j e a) = none) →
          readAccess s q j e.state (e.total / 8) = .ok → landAtOnce s q j (bestWrite s q j e) → 8 ≤ e.total →
          Gives (.graftFullPass q j.idx) s (fun t =>
            let p := (t.plot q).an
            p.energy = fullEnergy s q j e (graftBook s q j x) ∧ p.bestEnergy = p.energy ∧ p.bestValid = true ∧ p.job = j.idx ∧
            p.tiles = [] ∧ p.state = .idle ∧ (t.plot q).grf.phase = 1 ∧ (t.plot q).grf.scan = none ∧ (t.plot q).grf.count = 0 ∧
            (t.plot q).grf.slots = [] ∧
            (t.plot q).plt.job? j.idx = some { writtenBy q j (bestWrite s q j e) with passed := true } ∧ t.mem = s.mem))))

/-- The next scion is chosen by the policy, on a helper cluster that runs no call, as a call that counts; a block that stays
keeps its slot; the first scion stands in ascending order. A LIST set that names a block twice or beyond the problem is a
defective image (R181, R182, R208, R213). -/
def scionsAreChosen : Prop :=
  ∀ (s : State) (q : PlotId) (j : Job) (e : GraftEntry) (x : Section) (h : HccId), runs s q j → graftOf s q = some (e, x) →
    let r := (s.plot q).grf
    let g := if r.phase = 1 then 0 else r.g + 1
    (s.hccs[h] ≠ {} ∨ r.scan ≠ none ∨ r.auditDue = true → Gives (.graftSelect q j.idx h) s (fun t => t = s)) ∧
    (s.hccs[h] = {} → r.scan = none → r.auditDue = false → r.phase = 1 ∨ r.phase = 6 →
    (e.policy = 1 → readAccess s q j (e.list + 64 * ceilDiv (2 * e.w) 64 * (g % max e.listLen 1)) (2 * e.w) = .ok) →
    (chooseScion s q j e r g = none →
      Gives (.graftSelect q j.idx h) s (faulted s q j .image (some (mkNode (nodeOf .hcc h.val))))) ∧
    (∀ xs cur, chooseScion s q j e r g = some (xs, cur) → Gives (.graftSelect q j.idx h) s (fun t =>
      let u := (t.plot q).grf
      u.phase = 2 ∧ u.g = g ∧ u.cursor = cur ∧ u.prev = r.slots ∧ (t.plot q).plt = (s.plot q).plt ∧
      (t.plot q).mxe.live.call = satInc (s.plot q).mxe.live.call ∧
      (r.phase = 6 → ∀ (k b : Nat), k < e.w → r.slots[k]? = some b → b ∈ xs → u.slots[k]? = some b) ∧
      (r.phase = 1 → e.policy = 0 → e.w ≤ e.nb → u.slots = List.range e.w) ∧ t.mem = s.mem)))

/-- A page of memory holds no scratch of the graft. -/
def offScratch (e : GraftEntry) (x : Section) (pages : List Nat) : Prop := scratchOn e x pages = none

/-- What the stage reads for slot k, block a, is there to read, and no scratch lies on the directory entries and records it
reads (R177). -/
def slotReads (s : State) (q : PlotId) (j : Job) (e : GraftEntry) (x : Section) (r : GrfPlot) (k a : Nat) : Prop :=
  rowOk s q j e a ∧ offScratch e x (rowPages s q j e a) ∧ (∀ z ∈ e.blockReads a, readAccess s q j z.1 z.2 = .ok) ∧
  (∀ y ∈ rootRecords s q j e r.slots a, readAccess s q j (e.state + 64 * y.1) 64 = .ok ∧
    readAccess s q j y.2 e.recordBytes = .ok) ∧
  ∀ y ∈ rowPairs s q j e r.slots k a, ∀ addr, recordAddr s q j e a ((r.slots[y.2]?).getD 0) = some addr →
    readAccess s q j addr e.recordBytes = .ok

/-- Staging writes scratch only, gives the last slot's tile its block's spins, and keeps the rootstock bias of every slot's
rows and the presence masks. Stated where nothing it reads lies on scratch, no line is poisoned, and no job holds a private
copy of a scratch page (R177, R183, R185). -/
def stagingFillsScratch : Prop :=
  ∀ (s : State) (q : PlotId) (j : Job) (e : GraftEntry) (x : Section), runs s q j → graftOf s q = some (e, x) →
    let r := (s.plot q).grf
    let ts := tileEntries x
    (r.phase ≠ 2 → r.phase ≠ 3 ∨ r.scan = none → Gives (.graftStage q j.idx) s (fun t => t = s)) ∧
    (r.phase = 2 → r.scan = none → r.slots.length ≤ e.w → (∀ b ∈ r.slots, b < e.nb) → s.msh.poison = [] →
      badScratch s q e x = none → (∀ z ∈ bookRange x, offScratch e x (pagesOf z.1 z.2) ∧ readAccess s q j z.1 z.2 = .ok) →
      (∀ k ∈ (s.plot q).plt.jobs, offScratch e x k.copies) →
      (∀ k b, r.slots[k]? = some b → slotReads s q j e x r k b) →
      Gives (.graftStage q j.idx) s (fun t =>
        let u := (t.plot q).grf
        u.phase = 3 ∧ u.scan = none ∧ u.root = r.slots.map (rootBias s q j e (graftBook s q j x) r.slots) ∧
        u.present = ((List.range r.slots.length).zip r.slots).flatMap (fun y => rowPairs s q j e r.slots y.1 y.2) ∧
        (t.plot q).plt = (s.plot q).plt ∧
        (∀ a : Nat, (∀ y ∈ ts, ∀ z ∈ scratchOf e y, a < z.1 ∨ z.1 + z.2 ≤ a) → t.peekMem q a = s.peekMem q a) ∧
        (∀ y b, 0 < r.slots.length → ts[r.slots.length - 1]? = some y → r.slots.getLast? = some b →
          t.plotBytes q y.spin 64 = jobBytes s q j (e.state + 64 * b) 64)))

/-- A graft: full pass, choice of the scion, staging. -/
def Obligations.GraftsBegin : Prop := fullPassReadsTheProblem ∧ scionsAreChosen ∧ stagingFillsScratch

/-- The pass of a graft computes every field with its rootstock bias and sets the offset so that the tracked energy is that of
the whole problem; energy, best state, best buffers and sweep count stay. A COUP_ADDR outside the tile's slice or an order that
is no permutation is a defective image (R131, R186). -/
def graftPassesKeepTheEnergy : Prop :=
  ∀ (s : State) (q : PlotId) (j : Job) (e : GraftEntry) (x : Section), runs s q j → graftOf s q = some (e, x) →
    let r := (s.plot q).grf
    let es := tileEntries x
    let ts := graftTiles s q j r x.param es
    let spins := spinVec ts x.param
    let ms := ts.map (tileMatrix s q j x.param)
    (r.phase ≠ 3 ∨ r.scan ≠ none → Gives (.graftPass q j.idx) s (fun t => t = s)) ∧
    (r.phase = 3 → r.scan = none → ∀ y, es.find? (fun y => !inSlice y.tile y.coup) = some y →
      Gives (.graftPass q j.idx) s (faulted s q j .image (tileNodeOf s q y.tile))) ∧
    (r.phase = 3 → r.scan = none → (∀ y ∈ es, inSlice y.tile y.coup = true) →
      (∀ y ∈ es, ∀ z ∈ tileTables x.param y, readAccess s q j z.1 z.2 = .ok) →
      (∀ b, (es.zip ts).find? (fun y => !isPerm y.2.order y.1.v) = some b →
        Gives (.graftPass q j.idx) s (faulted s q j .image (tileNodeOf s q b.1.tile))) ∧
      ((∀ b ∈ es.zip ts, isPerm b.2.order b.1.v = true) →
        (∀ y ∈ es, ∀ z ∈ tileColumns x.param (some (r.mask y.tile)) y, readAccess s q j z.1 z.2 = .ok) →
        Gives (.graftPass q j.idx) s (fun t =>
          let p := (t.plot q).an
          p.energy = (s.plot q).an.energy ∧ p.bestEnergy = (s.plot q).an.bestEnergy ∧ p.live = (s.plot q).an.live ∧
          p.offset = p.energy - freshEnergy ts ms spins ∧ p.state = .idle ∧ p.bestNew = false ∧ p.inflight = [] ∧
          p.tiles.map (·.fields) = (ts.zip ms).map (fun y => freshFields spins y.1 y.2) ∧
          (∀ y ∈ p.tiles, y.queue = [] ∧ y.ptr = 0 ∧ y.flips = 0 ∧
            y.best = (((s.plot q).an.tiles.find? (fun z => z.idx == y.idx)).map (·.best)).getD []) ∧
          (t.plot q).grf.phase = 4 ∧ t.mem = s.mem)))

/-- A harvest writes the scion's spins to the state table, after the best table where the graft found a new best, counts the
graft for the plot and the device, and makes the full audit due at every FULL_AUDIT-th (R188). -/
def harvestsWriteTheTables : Prop :=
  ∀ (s : State) (q : PlotId) (j : Job) (e : GraftEntry) (x : Section), runs s q j → graftOf s q = some (e, x) →
    let r := (s.plot q).grf
    let p := (s.plot q).an
    let best := (e.best, replaceBlocks (jobBytes s q j e.state (e.total / 8)) r.slots (p.tiles.map (fun t => spinBytes t.best)))
    let blocks := (r.slots.zip p.tiles).map (fun y => (e.state + 64 * y.1, spinBytes y.2.spins))
    let ws := (if p.bestNew then [best] else []) ++ blocks
    (p.state ≠ .idle ∨ (r.phase ≠ 5 ∧ (r.phase ≠ 6 ∨ r.scan = none ∨ r.auditDue = true)) →
      Gives (.graftHarvest q j.idx) s (fun t => t = s)) ∧
    (r.phase = 5 → p.state = .idle → readAccess s q j e.state (e.total / 8) = .ok → landAtOnce s q j ws → 8 ≤ e.total →
      Gives (.graftHarvest q j.idx) s (fun t =>
        (t.plot q).plt.job? j.idx = some (writtenBy q j ws) ∧ t.mem = s.mem ∧ t.devGraft = satInc s.devGraft ∧
        (t.plot q).an.bestNew = false ∧ (t.plot q).an.energy = p.energy ∧ (t.plot q).grf.phase = 6 ∧
        (t.plot q).grf.count = satInc r.count ∧ (t.plot q).grf.scan = none ∧ (t.plot q).grf.flips = p.tiles.map (·.flips) ∧
        ((t.plot q).grf.auditDue = true ↔ e.fullAudit ≠ 0 ∧ (r.g + 1) % e.fullAudit = 0)))

/-- The full audit compares the tracked energy with that of the whole problem: equal, nothing else changes; unequal, the
computed value replaces it, the difference is shown, the job is marked, ENERGY_AUDIT rises and one line is written in a frame
(R189; that a better value also becomes the best energy, with its table, is the model's reading, log entry 84). -/
def fullAuditsCorrectTheEnergy : Prop :=
  ∀ (s : State) (q : PlotId) (j : Job) (e : GraftEntry) (x : Section), runs s q j → graftOf s q = some (e, x) →
    let r := (s.plot q).grf
    let p := (s.plot q).an
    let en := fullEnergy s q j e (graftBook s q j x)
    (r.auditDue = false → Gives (.graftFullAudit q j.idx) s (fun t => t = s)) ∧
    (r.auditDue = true → r.scan = none → (∀ a, a < e.nb → rowOk s q j e a ∧ rowReads s q j e x a) →
      (en = p.energy → Gives (.graftFullAudit q j.idx) s (fun t =>
        (t.plot q).grf = { r with auditDue := false } ∧ (t.plot q).an = p ∧ (t.plot q).plt = (s.plot q).plt ∧ t.log = s.log)) ∧
      (en ≠ p.energy → (en < p.bestEnergy → readAccess s q j e.state (e.total / 8) = .ok ∧ 8 ≤ e.total ∧
        landAtOnce s q j (bestWrite s q j e)) → Gives (.graftFullAudit q j.idx) s (fun t =>
          (t.plot q).an.energy = en ∧ (t.plot q).an.bestEnergy = min p.bestEnergy en ∧ (t.plot q).grf.auditDue = false ∧
          (en < p.bestEnergy → (t.plot q).an.tiles.map (·.best) = p.tiles.map (·.spins)) ∧
          (t.plot q).grf.fullDelta = BitVec.ofInt 64 (max (-(2 ^ 63)) (min (2 ^ 63 - 1) (en - p.energy))) ∧
          (t.plot q).grf.fullAudit = satInc r.fullAudit ∧ (∃ k, (t.plot q).plt.job? j.idx = some k ∧ k.audit = true) ∧
          (t.plot q).plt.irqStatus = (s.plot q).plt.irqStatus ||| 0x400 ∧
          (r.logged = false → ∃ l, t.log.lines.head? = some l ∧ l.code = 0x14 ∧ l.plot = q.val))))

/-- A graft: pass, harvest and full audit. That a better audited value also becomes the best energy, with its table,
is the model's reading (log entry 84). -/
def Obligations.GraftsEnd : Prop := graftPassesKeepTheEnergy ∧ harvestsWriteTheTables ∧ fullAuditsCorrectTheEnergy

/-! ### Matrix engines, helper clusters, quantise/convert engines (chapters 08 and 09) -/

/-- An operation starts on a free engine of the job's plot with its tensors, or resumes the tile its job carries there; an
operand that is missing, lies outside the engine's slice, or does not fit its local SRAM, or a carry that does not match, is a
defective image. An engine that runs, or is not the plot's, starts nothing; nor does one that carries another job's tile (R194,
R198, R201, R204; the latter is the model's choice, log entry 199). -/
def operationsStart : Prop :=
  ∀ (s : State) (q : PlotId) (j : Job) (m : MxeId) (o : MxeOp), runs s q j →
    let e := s.mxes[m]
    let mine := (s.cfg.content.mxes q.val).getLsbD m.val = true ∧ e.run = none
    (¬ mine → Gives (.mxeOperationStart q j.idx m o) s (fun t => t = s)) ∧
    (mine → carryFits q j.idx o e.carry = false →
      Gives (.mxeOperationStart q j.idx m o) s (faulted s q j .image (some (engineNode m)))) ∧
    (mine → carryFits q j.idx o e.carry = true →
      (e.carry ≠ none → MxeRun.of e.carry q j.idx = false → Gives (.mxeOperationStart q j.idx m o) s (fun t => t = s)) ∧
      (e.carry = none ∨ MxeRun.of e.carry q j.idx = true → o.search = none →
        (opTensors s q o = none → Gives (.mxeOperationStart q j.idx m o) s (faulted s q j .image (some (engineNode m)))) ∧
        (∀ w a, opTensors s q o = some (w, a) →
          let rw := w.ranges (w.gsize j)
          let ra := a.ranges (a.gsize j)
          let loc := localRanges o rw ra
          let fits := (∀ r ∈ sliceRanges o rw ra, inEngine s q m r = true) ∧
            (∀ k < opTiles o, ∀ r ∈ epiReads o k, inEngine s q m r = true) ∧ sumNat (loc.map (·.2)) ≤ 1048576
          (¬ fits → Gives (.mxeOperationStart q j.idx m o) s (faulted s q j .image (some (engineNode m)))) ∧
          (fits → (∀ r ∈ rw ++ ra, readAccess s q j r.1 r.2 = .ok) → Gives (.mxeOperationStart q j.idx m o) s (fun t =>
            t.mxes[m] = { e with
              run := some { plot := q, job := j.idx, op := o, tile := match e.carry with | some c => c.tile | none => 0 },
              carry := none, stopped := false, draining := false, sram := sramImage s q j loc } ∧
            (∀ k : MxeId, k ≠ m → t.mxes[k] = s.mxes[k]) ∧ (t.plot q).plt = (s.plot q).plt ∧ t.mem = s.mem ∧ t.out = s.out)))))

/-- PQ_TABLE forms the query's table from exact contributions, one rounding each under the query's shift; RERANK reads the rows
of a result's IDs at BASE + i × ROW_BYTES, forms their exact distances, and writes the first K2 by (exact distance, ID); its row
that is not resident is waited for, and one outside the BACKING entry is a defective image (R116, R242, R252). The form of the
operands and of the new result is the model's choice (log entries 217 and 218). -/
def searchOperatorsRun : Prop :=
  (∀ (l : List (Int × Nat)) (k : Nat), (rerankKeep l k).length = min k l.length ∧
    (rerankKeep l k).Pairwise (fun x y => x.1 < y.1 ∨ (x.1 = y.1 ∧ x.2 ≤ y.2)) ∧ (∀ y ∈ rerankKeep l k, y ∈ l) ∧
    ∀ x ∈ l, x ∉ rerankKeep l k → ∀ y ∈ rerankKeep l k, y.1 < x.1 ∨ (y.1 = x.1 ∧ y.2 ≤ x.2)) ∧
  (∀ (s : State) (q : PlotId) (j : Job) (m : MxeId) (o : MxeOp), runs s q j →
    (s.cfg.content.mxes q.val).getLsbD m.val = true → s.mxes[m].run = none → s.mxes[m].carry = none → o.resume = false →
    let started (ids : List Nat) : State → Prop := fun t =>
      t.mxes[m] = { s.mxes[m] with run := some { plot := q, job := j.idx, op := o, ids := ids }, stopped := false, draining := false } ∧
      (t.plot q).plt = (s.plot q).plt ∧ t.mem = s.mem
    (∀ ix query row cents inner shift out, o.search = some (.pqTable ix query row cents inner shift out) →
      (pqTensors s.cfg.content q ix query row cents out = none →
        Gives (.mxeOperationStart q j.idx m o) s (faulted s q j .image (some (engineNode m)))) ∧
      (∀ z, pqTensors s.cfg.content q ix query row cents out = some z →
        (∀ r ∈ pqReads j row z, inEngine s q m r = true ∧ readAccess s q j r.1 r.2 = .ok) →
        Gives (.mxeOperationStart q j.idx m o) s (started []))) ∧
    (∀ result b rb rows query row inner k2 out, o.search = some (.rerank result b rb rows query row inner k2 out) →
      (rerankTensors s.cfg.content q b rows query row = none ∨ k2 = 0 ∨ 256 < k2 →
        Gives (.mxeOperationStart q j.idx m o) s (faulted s q j .image (some (engineNode m)))) ∧
      ((rerankTensors s.cfg.content q b rows query row).isSome = true → 0 < k2 → k2 ≤ 256 →
        let n := jobNat s q j result 2
        n ≤ 256 → readAccess s q j result 64 = .ok → readAccess s q j result (64 + 16 * n) = .ok →
        Gives (.mxeOperationStart q j.idx m o) s (started (resultIds (jobBytes s q j result (64 + 16 * n))))))) ∧
  ∀ (s : State) (j : Job) (m : MxeId) (r : MxeRun) (stall : Nat), s.mxes[m].run = some r → runs s r.plot j → j.idx = r.job →
    let q := r.plot
    let done (out : Nat) (bs : List Byte) (macs : Nat) : State → Prop := fun t =>
      (t.plot q).plt.job? j.idx = some (writtenBy q j [(out, bs)]) ∧ t.mem = s.mem ∧ t.mxes[m].run = none ∧
      t.devMacs = s.devMacs + macs
    (∀ ix query row cents inner shift out, r.op.search = some (.pqTable ix query row cents inner shift out) →
      ∀ z, pqTensors s.cfg.content q ix query row cents out = some z → (∀ y ∈ pqReads j row z, readAccess s q j y.1 y.2 = .ok) →
        (pqTable s q j row inner r.op.pl shift z = none → Gives (.bankSwap m stall) s (fun t =>
          faulted s q j .image (some (engineNode m)) t ∧ (t.plot q).mxe.live.range = satInc (s.plot q).mxe.live.range)) ∧
        (∀ bs, pqTable s q j row inner r.op.pl shift z = some bs → landAtOnce s q j [(out, bs)] →
          Gives (.bankSwap m stall) s (done out bs (256 * z.1.dim)))) ∧
    (∀ result b rb rows query row inner k2 out, r.op.search = some (.rerank result b rb rows query row inner k2 out) →
      ∀ z, rerankTensors s.cfg.content q b rows query row = some z →
        let raw (n : Nat) := rawRow z.2.1 j z.1 rb n
        let reads (n : Nat) := (raw n).rowRanges j 0 ++ z.2.2.rowRanges j row
        (∀ d : Nat → Int, (∀ n ∈ r.ids, rowInside (raw n) z.1 = true ∧ (∀ y ∈ reads n, readAccess s q j y.1 y.2 = .ok) ∧
            rerankDistance s q j inner r.op.pl (raw n) z.2.2 row = some (d n)) →
          let l := r.dists ++ r.ids.map (fun n => (d n, n))
          landAtOnce s q j [(out, rerankBytes (rerankKeep l k2))] →
          Gives (.bankSwap m stall) s (done out (rerankBytes (rerankKeep l k2)) (l.length * z.2.2.k))) ∧
        (∀ n ns, r.ids = n :: ns →
          (rowInside (raw n) z.1 = false → Gives (.bankSwap m stall) s (faulted s q j .image (some (engineNode m)))) ∧
          (rowInside (raw n) z.1 = true → (∀ y ∈ reads n, readAccess s q j y.1 y.2 = .ok ∨ readAccess s q j y.1 y.2 = .wait) →
            (∃ y ∈ reads n, readAccess s q j y.1 y.2 = .wait) → Gives (.bankSwap m stall) s (fun t => t = s))))

/-- After a swap the other bank is active and zero, the finished bank holds the tile's sums, and the next tile follows or the
operation is over (R200). -/
def swapped (e e' : MxeEngine) (r : MxeRun) (rows : List (List Int)) : Prop :=
  e'.active = !e.active ∧ e'.bank = {} ∧ (if e.active then e'.bank1 else e'.bank0) = { rows := rows } ∧
  e'.draining = false ∧ e'.sram = e.sram ∧
  e'.run = (if r.tile + 1 < opTiles r.op then some { r with tile := r.tile + 1, got := 0 } else none)

/-- At a swap the tile's exact sums are drained: written in the job's private copies, or sent to the engine that drains them.
A sum, or an element of the drain, outside its range is a RANGE event: counted, and a defective image. A tile that still
misses partial tiles, or is left open, is not swapped; one whose operands or second tensor are not resident waits in DRAIN (R116,
R197, R199, R200, R203 to R205). -/
def tilesSwap : Prop :=
  ∀ (s : State) (j : Job) (m : MxeId) (r : MxeRun) (w a : QuantEntry) (stall : Nat),
    s.mxes[m].run = some r → runs s r.plot j → j.idx = r.job → r.op.search = none → opTensors s r.plot r.op = some (w, a) →
    let q := r.plot
    let o := r.op
    let e := s.mxes[m]
    let reads := sliceRanges o (w.ranges (w.gsize j)) (a.ranges (a.gsize j)) ++ epiReads o r.tile
    (r.got < o.parts ∨ (o.openEnd = true ∧ r.tile + 1 = opTiles o) → Gives (.bankSwap m stall) s (fun t => t = s)) ∧
    (o.parts ≤ r.got → o.openEnd = false ∨ r.tile + 1 ≠ opTiles o →
      (∀ y ∈ reads, readAccess s q j y.1 y.2 = .ok ∨ readAccess s q j y.1 y.2 = .wait) →
      (∃ y ∈ reads, readAccess s q j y.1 y.2 = .wait) → Gives (.bankSwap m stall) s (fun t =>
        t.mxes[m] = { e with draining := true } ∧ t = { s with mxes := t.mxes })) ∧
    (o.parts ≤ r.got → o.openEnd = false ∨ r.tile + 1 ≠ opTiles o → (∀ y ∈ reads, readAccess s q j y.1 y.2 = .ok) →
      (tileSums s q j o w a r.tile e = none → Gives (.bankSwap m stall) s (fun t =>
        faulted s q j .image (some (engineNode m)) t ∧
        (t.plot q).mxe.live.range = satInc (s.plot q).mxe.live.range)) ∧
      (∀ rows, tileSums s q j o w a r.tile e = some rows →
        (∀ k, o.sendTo = some k → Gives (.bankSwap m stall) s (fun t =>
          swapped e t.mxes[m] r rows ∧ (∀ i : MxeId, i ≠ m → t.mxes[i] = s.mxes[i]) ∧
          t.partials = s.partials ++ [{ plot := q, job := r.job, sink := k, tile := r.tile, rows := rows }] ∧
          t.out = s.out ++ [partialFlits m k rows] ∧ (t.plot q).plt = (s.plot q).plt ∧
          t.devMacs = s.devMacs + tileMacs o w r.tile)) ∧
        (o.sendTo = none → drainTile s q j o r.tile rows = none → Gives (.bankSwap m stall) s (fun t =>
          faulted s q j .image (some (engineNode m)) t ∧
          (t.plot q).mxe.live.range = satInc (s.plot q).mxe.live.range)) ∧
        (∀ codes ws, o.sendTo = none → drainTile s q j o r.tile rows = some codes →
          tileWrites s q j o r.tile codes = some ws → landAtOnce s q j ws → Gives (.bankSwap m stall) s (fun t =>
            swapped e t.mxes[m] r rows ∧ (t.plot q).plt.job? j.idx = some (writtenBy q j ws) ∧ t.mem = s.mem ∧
            (t.plot q).mxe.live.tile = satInc (s.plot q).mxe.live.tile ∧
            (t.plot q).mxe.live.macs = (s.plot q).mxe.live.macs + tileMacs o w r.tile))))

/-- A partial tile of another engine is added exactly, element by element, into the active bank; a sum outside X72 is a RANGE
event (R197, R199, R205). -/
def partialTilesAdd : Prop :=
  ∀ (s : State) (j : Job) (m : MxeId) (r : MxeRun) (p : Partial) (pre post : List Partial),
    s.mxes[m].run = some r → runs s r.plot j → j.idx = r.job → r.got < r.op.parts →
    s.partials = pre ++ p :: post → p.sink = m → p.plot = r.plot → p.job = r.job → p.tile = r.tile →
    (∀ x ∈ pre, ¬ (x.sink = m ∧ x.plot = r.plot ∧ x.job = r.job ∧ x.tile = r.tile)) →
    let x := opTileAt r.op r.tile
    let rows := (List.range x.2.2.1).map (fun i => (List.range x.2.2.2).map (fun c =>
      s.mxes[m].bank.at_ i c + (((p.rows[i]?).getD [])[c]?).getD 0))
    ((∀ l ∈ rows, ∀ v ∈ l, -(2 ^ 71) ≤ v ∧ v < 2 ^ 71) → Gives (.partialTileReceive m) s (fun t =>
      t.mxes[m].bank = { rows := rows } ∧ t.mxes[m].run = some { r with got := r.got + 1 } ∧
      t.mxes[m].active = s.mxes[m].active ∧ t.partials = pre ++ post ∧ t.plots = s.plots)) ∧
    ((∃ l ∈ rows, ∃ v ∈ l, v < -(2 ^ 71) ∨ 2 ^ 71 ≤ v) → Gives (.partialTileReceive m) s (fun t =>
      faulted s r.plot j .image (some (engineNode m)) t ∧
      (t.plot r.plot).mxe.live.range = satInc (s.plot r.plot).mxe.live.range))

/-- Matrix operations start, swap exact tiles, and add partial tiles. -/
def Obligations.MatrixOperations : Prop := operationsStart ∧ searchOperatorsRun ∧ tilesSwap ∧ partialTilesAdd

/-- Does one ready call come before another: a higher job class, then the earlier ready, then the lower plot (R208)? -/
def comesFirst (s : State) (p : PlotId) (at_ : Nat) (p' : PlotId) (at' : Nat) : Prop :=
  (s.plot p').rws.cls < (s.plot p).rws.cls ∨
  ((s.plot p').rws.cls = (s.plot p).rws.cls ∧ (at_ < at' ∨ (at_ = at' ∧ p.val < p'.val)))

/-- A free cluster, or quantise/convert engine, starts the ready call that comes first; a busy one, or one that has still to
zero what an interrupted call left, starts none. A call of a job that no longer runs never starts, nor does a helper call of an
operator that the committed microcode or the image does not have (R207, R208, R221). -/
def callsStartInOrder : Prop :=
  ∀ s : State,
    (∀ (h : HccId) (ready : List HelperCall) (c : HelperCall), c ∈ ready → callKnown s c = true →
      (∀ d ∈ ready, d = c ∨ comesFirst s c.plot c.readyAt d.plot d.readyAt ∨ callKnown s d = false) →
      (s.hccs[h] = {} → Gives (.helperCallStart h ready) s (fun t =>
        t.hccs[h] = { call := some c } ∧ (∀ k : HccId, k ≠ h → t.hccs[k] = s.hccs[k]) ∧ t = { s with hccs := t.hccs }))) ∧
    (∀ (h : HccId) (ready : List HelperCall), s.hccs[h] ≠ {} ∨ (∀ d ∈ ready, callKnown s d = false) →
      Gives (.helperCallStart h ready) s (fun t => t = s)) ∧
    (∀ (n : QceId) (ready : List QceCall) (c : QceCall), c ∈ ready → (∃ j, j.idx = c.idx ∧ runs s c.plot j) →
      (∀ d ∈ ready, d = c ∨ comesFirst s c.plot c.readyAt d.plot d.readyAt ∨ runningJob s d.plot d.idx = none) →
      (s.qces[n].call = none → s.qces[n].dirty = none → Gives (.qceCallStart n ready) s (fun t =>
        t.qces[n] = { s.qces[n] with call := some c, pass := 1 } ∧ (∀ k : QceId, k ≠ n → t.qces[k] = s.qces[k]) ∧
        t = { s with qces := t.qces }))) ∧
    (∀ (n : QceId) (ready : List QceCall),
      s.qces[n].call ≠ none ∨ s.qces[n].dirty ≠ none ∨ (∀ d ∈ ready, runningJob s d.plot d.idx = none) →
      Gives (.qceCallStart n ready) s (fun t => t = s))

/-- A call that ends writes its results in its job's private copies and frees its cluster: an operator's are one function of
OP_ID, OP_VER and what it reads (the function is the model's opaque constant), a LAYOUT call's are the bytes it copies, an
INGEST_DECODE call's the fields of its entry's message, a SIDE_MERGE call's the partition's new sectors. A trap frees it, is
counted for device and plot, and ends the job with IMAGE at the cluster's node; an uncorrectable error of its local SRAM ends it
with ENGINE (R208 to R211, R257, R329). -/
def helperCallsEnd : Prop :=
  ∀ (s : State) (h : HccId) (c : HelperCall) (j : Job), s.hccs[h].call = some c → runs s c.plot j → j.idx = c.idx →
    let node := some (clusterNode h)
    let trapped : State → Prop := fun t => faulted s c.plot j .image node t ∧ t.hccs[h] = {} ∧ t.hccTrap = satInc s.hccTrap ∧
      (t.plot c.plot).mxe.live.trap = satInc (s.plot c.plot).mxe.live.trap
    let done : List (Nat × List Byte) → State → Prop := fun ws t =>
      (t.plot c.plot).plt.job? j.idx = some (writtenBy c.plot j ws) ∧ t.mem = s.mem ∧ t.hccs[h] = {} ∧
      (∀ k : HccId, k ≠ h → t.hccs[k] = s.hccs[k]) ∧
      (t.plot c.plot).mxe.live.call = satInc (s.plot c.plot).mxe.live.call
    Gives (.helperCallEnd h .trap) s trapped ∧
    ((∀ r ∈ c.reads, readAccess s c.plot j r.1 r.2 = .ok) → landAtOnce s c.plot j (operatorWrites s c j) →
      Gives (.helperCallEnd h .done) s (done (operatorWrites s c j))) ∧
    (∀ ms : List (Nat × Nat × Nat), (∀ x ∈ ms, readAccess s c.plot j x.1 x.2.2 = .ok) →
      let ws := ms.map (fun x => (x.2.1, jobBytes s c.plot j x.1 x.2.2))
      landAtOnce s c.plot j ws → Gives (.helperCallEnd h (.layout ms)) s (done ws)) ∧
    (∀ no, s.cfg.content.ingests.find? (fun e => e.no == no && e.plot == c.plot.val && e.plot != 0) = none →
      Gives (.helperCallEnd h (.ingestDecode no)) s trapped) ∧
    (∀ no e, s.cfg.content.ingests.find? (fun e => e.no == no && e.plot == c.plot.val && e.plot != 0) = some e →
      readAccess s c.plot j e.slotAddr e.slotBytes = .ok → readAccess s c.plot j e.fieldAddr (8 * e.count) = .ok →
      let r := ingestWrites e (jobBytes s c.plot j e.slotAddr e.slotBytes) (jobBytes s c.plot j e.fieldAddr (8 * e.count)) s.free
      (r = none → Gives (.helperCallEnd h (.ingestDecode no)) s trapped) ∧
      (∀ ws, r = some ws → landAtOnce s c.plot j ws → Gives (.helperCallEnd h (.ingestDecode no)) s (done ws))) ∧
    (∀ (ix : Fin 16) (part first old n out : Nat),
      let x := (s.plot c.plot).fln.idx[ix]
      (s.cfg.content.index? c.plot.val ix.val = none ∨ x.writer ≠ some c.idx ∨ x.merge = false →
        Gives (.helperCallEnd h (.sideMerge ix part first old n out)) s trapped) ∧
      (∀ e, s.cfg.content.index? c.plot.val ix.val = some e → x.writer = some c.idx → x.merge = true →
        readAccess s c.plot j old (4096 * n) = .ok →
        let r := sideMerge x e.m part first ((List.range n).map (fun k => jobBytes s c.plot j (old + 4096 * k) 4096))
        (r = none → Gives (.helperCallEnd h (.sideMerge ix part first old n out)) s trapped) ∧
        (∀ bs, r = some bs →
          let ws := (List.range bs.length).map (fun k => (out + 4096 * k, (bs[k]?).getD []))
          landAtOnce s c.plot j ws → Gives (.helperCallEnd h (.sideMerge ix part first old n out)) s (done ws)))) ∧
    (∀ off : Fin 524288, Gives (.helperCallEnd h (.sramError off)) s (fun t =>
      let line := ((nodeOf .hcc h.val) * 2 ^ 25 + 0x1800000 + off.val) / 64 * 64
      faulted s c.plot j .engine node t ∧ t.hccs[h].call = none ∧
      (line ∉ s.msh.poison → t.msh.poison = s.msh.poison ++ [line] ∧ t.msh.ueCnt = satInc s.msh.ueCnt)))

/-- Pass 1 of a conversion writes the scale entry of every group of every row, derived from the largest magnitude of the
group's values; pass 2 writes every code under the scales that pass 1 wrote and ends the call. A pass reads what it needs and
writes in the job's private copies only. An outlier list that is not ascending or not within the row is a trap; a source that is
no A8 or A16 tensor of the plot is a defective image (R220, R222 to R226, R228). The writes are stated for a destination without
outliers. -/
def conversionsRunInTwoPasses : Prop :=
  ∀ (s : State) (n : QceId) (c : QceCall) (j : Job) (e : QuantEntry), s.qces[n].call = some c → runs s c.plot j →
    j.idx = c.idx → s.cfg.content.tensor? c.plot.val c.dest = some e →
    (sourceOk s c = false → s.qces[n].pass = 1 → Gives (.qcePass1 n) s (faulted s c.plot j .image (some (qceNode n)))) ∧
    (sourceOk s c = true → (∀ r ∈ qceReads s c j e, readAccess s c.plot j r.1 r.2 = .ok) →
    let q := c.plot
    let g := e.gsize j
    let ls := levels s q j e
    (s.qces[n].pass = 1 → outliersOk (outliers s q j e) e.k = false → Gives (.qcePass1 n) s (fun t =>
      faulted s q j .image (some (qceNode n)) t ∧ t.qces[n].call = none ∧ t.qceTrap = satInc s.qceTrap ∧
      (t.plot q).qce.live.trap = satInc (s.plot q).qce.live.trap)) ∧
    (e.outlier = false →
      (s.qces[n].pass = 1 → (e.format = 2 ∨ e.format = 3 → ∃ l ∈ ls, l ≠ 0) →
        let ws := (List.range e.cols).flatMap (fun r =>
          let row := rotateRow e (qceRow s c j e r)
          (List.range (row.length / max g 1)).map (fun i =>
            let z := deriveScale e (qMax e ls) (groupMax row [] g i)
            (paramAddr e g r i, paramEntry e z.1 z.2.1)))
        landAtOnce s q j ws → Gives (.qcePass1 n) s (fun t =>
          (t.plot q).plt.job? j.idx = some (writtenBy q j ws) ∧ t.mem = s.mem ∧ t.qces[n].call = some c ∧ t.qces[n].pass = 2 ∧
          t.qceBytes = satAdd s.qceBytes (qceIn s c j e))) ∧
      (s.qces[n].pass = 2 → (∀ r ∈ qceScales j e none, readAccess s q j r.1 r.2 = .ok) →
        let ws := (List.range e.cols).flatMap (fun r =>
          let row := rotateRow e (qceRow s c j e r)
          codeWrites e r ((List.range row.length).map (fun k =>
            let z := writtenScale s q j e g r (k / max g 1)
            (codeFor e ls z.1 z.2 ((row[k]?).getD (.fin 0))).1)))
        landAtOnce s q j ws → Gives (.qcePass2 n) s (fun t =>
          (t.plot q).plt.job? j.idx = some (writtenBy q j ws) ∧ t.mem = s.mem ∧ t.qces[n].call = none ∧ t.qces[n].pass = 0 ∧
          (t.plot q).qce.live.call = satInc (s.plot q).qce.live.call))))

/-- Helper calls and conversions start in order and end whole. -/
def Obligations.HelperAndConversionCalls : Prop := callsStartInOrder ∧ helperCallsEnd ∧ conversionsRunInTwoPasses

/-! ### Flash lanes and vector search (chapter 10) -/

/-- A LUN becomes suspect: its bit is set, its commands and retries go, FLASH rises, one line names it and the kind of error,
and every running job that needs it faults with FLASH at the lane (R261, Table 14-6). -/
def becomesSuspect (s t : State) (l : LaneId) (ce lun kind : Nat) : Prop :=
  (t.lane l).suspect.getLsbD (8 * ce + lun) = true ∧ (∀ o ∈ (t.lane l).ops, ¬ (o.ce = ce ∧ o.lun = lun)) ∧
  (∀ k : LaneId, k ≠ l → (t.lane k).suspect = (s.lane k).suspect) ∧ t.pf.irqStatus.getLsbD 10 = true ∧
  (∃ y, t.log.lines.head? = some y ∧ y.code = 0x50 ∧ y.arg0 = 32 * l.val + 8 * ce + lun ∧ y.arg1 = kind) ∧
  (∀ (q : PlotId) (j : Job), runs s q j → j.idx ∈ jobsNeeding s q l ce lun →
    (t.plot q).plt.job? j.idx = some { j.dropCopies with
      phase := .abandoning, code := .flash, node := some (laneNode l), faultAt := some t.boot.tclk, logged := true })

/-- A lane in INIT is READY when its LUNs are set up; a LUN that is not in time is suspect. FLN_LUN_CLR resets a suspect LUN, sets
its three features to the channel's values and calibrates it, and it is back in service when that is done; it does nothing to
another (R234, R260, R261, Table 10-4). -/
def lanesComeUp : Prop :=
  ∀ (s : State) (l : LaneId) (ce : Fin 4) (lun : Fin 8),
    let ch := s.cfg.content.chan l.val
    ((s.lane l).state = .init → Gives (.laneInitDone l) s (fun t => (t.lane l).state = .ready ∧
      (t.lane l).suspect = (s.lane l).suspect ∧ (∀ k : LaneId, k ≠ l → t.lane k = s.lane k) ∧ t.mem = s.mem)) ∧
    ((s.lane l).state ≠ .init → Gives (.laneInitDone l) s (fun t => t = s)) ∧
    ((s.lane l).state = .init → ch.has ce.val lun.val = true → s.suspectAt ⟨l.val, ce.val, lun.val, 0, 0⟩ = false →
      Gives (.lunInitTimeout l ce lun) s (fun t => becomesSuspect s t l ce.val lun.val 4 ∧
        (t.lane l).pfail = satInc (s.lane l).pfail)) ∧
    (s.hostOk 0 = true → (s.lane l).suspect.getLsbD (8 * ce.val + lun.val) = true → Gives (.lunClr l ce lun) s (fun t =>
      (t.lane l).clearing.getLsbD (8 * ce.val + lun.val) = true ∧ (t.lane l).suspect = (s.lane l).suspect ∧
      t.out = s.out ++ ([(0xFF, []), (0xEF, [1, ch.featTiming]), (0xEF, [2, ch.featDdr3]), (0xEF, [0x10, ch.featDrive]),
        (0xF9, [])] : List (Nat × List Nat)).map (fun c => .flashCommand l.val ce.val lun.val c.1 c.2) ∧
      (∀ k : LaneId, k ≠ l → t.lane k = s.lane k) ∧ t = { s with resp := {}, lanes := t.lanes, out := t.out })) ∧
    (s.hostOk 0 = true → (s.lane l).suspect.getLsbD (8 * ce.val + lun.val) = false →
      Gives (.lunClr l ce lun) s (fun t => t = { s with resp := {} })) ∧
    ((s.lane l).clearing.getLsbD (8 * ce.val + lun.val) = true → Gives (.lunClrDone l ce lun) s (fun t =>
      (t.lane l).suspect.getLsbD (8 * ce.val + lun.val) = false ∧ (t.lane l).clearing.getLsbD (8 * ce.val + lun.val) = false ∧
      (∀ i, i ≠ 8 * ce.val + lun.val → (t.lane l).suspect.getLsbD i = (s.lane l).suspect.getLsbD i) ∧
      (∀ k : LaneId, k ≠ l → t.lane k = s.lane k) ∧ t = { s with lanes := t.lanes, out := t.out })) ∧
    ((s.lane l).clearing.getLsbD (8 * ce.val + lun.val) = false → Gives (.lunClrDone l ce lun) s (fun t => t = s))

/-- A read under way that fails is counted by its kind and repeated, up to three times; then its LUN is suspect; one whose data
nothing needs any more is not repeated. Without a read under way of the page nothing happens (R232, R235, R259, R262; that a FAIL
status counts with the uncorrectable codewords is the model's choice, log entry 210). -/
def failedReadsRepeat : Prop :=
  ∀ (s : State) (l : LaneId) (ce : Fin 4) (lun : Fin 8) (block page : Nat),
    let a : FlashPlace := ⟨l.val, ce.val, lun.val, block, page⟩
    ((s.lane l).reading? a = none → ∀ r, Gives (.flashPageReady l ce lun block page r) s (fun t => t = s) ∧
      Gives (.lunReadyTimeout l ce lun block page) s (fun t => t = s)) ∧
    (∀ o, (s.lane l).reading? a = some o →
      let again : State → Prop := fun t => (t.lane l).retry = satInc (s.lane l).retry ∧
        (t.lane l).ops = (s.lane l).ops.map (fun p => if p = o then { p with tries := p.tries + 1 } else p) ∧
        (t.lane l).suspect = (s.lane l).suspect ∧ t.out = s.out ++ [.flashRead l.val ce.val lun.val block page] ∧ t.plots = s.plots
      (pageNeeded s a = false → Gives (.lunReadyTimeout l ce lun block page) s (fun t =>
        (t.lane l).retry = (s.lane l).retry ∧ (t.lane l).suspect = (s.lane l).suspect ∧
        (t.lane l).timeout = satInc (s.lane l).timeout ∧ t.plots = s.plots)) ∧
      (pageNeeded s a = true → o.tries < 3 →
        Gives (.flashPageReady l ce lun block page .fail) s (fun t => again t ∧ (t.lane l).uncorr = satInc (s.lane l).uncorr) ∧
        Gives (.flashPageReady l ce lun block page .readyBusy) s (fun t => again t ∧ (t.lane l).rb = satInc (s.lane l).rb) ∧
        Gives (.lunReadyTimeout l ce lun block page) s (fun t => again t ∧ (t.lane l).timeout = satInc (s.lane l).timeout)) ∧
      (pageNeeded s a = true → 3 ≤ o.tries → s.suspectAt a = false →
        Gives (.flashPageReady l ce lun block page .fail) s (fun t => becomesSuspect s t l ce.val lun.val 1) ∧
        Gives (.lunReadyTimeout l ce lun block page) s (fun t => becomesSuspect s t l ce.val lun.val 1)) ∧
      (∀ cws k, k ∈ wantedCodewords s a (s.cfg.content.chan l.val).cw → (∀ c, cws[k]? = some c → Codeword.bytes? c = none) →
        pageNeeded s a = true → o.tries < 3 → Gives (.flashPageReady l ce lun block page (.page cws)) s (fun t => again t ∧
          (t.lane l).weak = satAdd (s.lane l).weak
            (((wantedCodewords s a (s.cfg.content.chan l.val).cw).filterMap (fun i => cws[i]?)).filter
              (fun c => codewordWeak c (s.cfg.content.chan l.val).eccWarn)).length)))

/-- A page that is read reaches all that wait for it: a page-in keeps its bytes, and a query's sector is scanned, each record
through the predicate and the heap, when the query's visibility is known; the lane counts the codewords it read (R235, R240,
R246, R248). The scan is stated for a plot with one query of one part. -/
def pagesReachTheirReaders : Prop :=
  ∀ (s : State) (l : LaneId) (ce : Fin 4) (lun : Fin 8) (block page : Nat) (cws : List Codeword) (q : PlotId),
    let a : FlashPlace := ⟨l.val, ce.val, lun.val, block, page⟩
    let cw := (s.cfg.content.chan l.val).cw
    (s.lane l).reading? a ≠ none →
    (∀ k ∈ wantedCodewords s a cw, ∃ c b, cws[k]? = some c ∧ Codeword.bytes? c = some b) →
    let data := (List.range cw).map (fun k => match cws[k]? with | some c => (Codeword.bytes? c).getD [] | none => [])
    let r : PageRead := .page cws
    Gives (.flashPageReady l ce lun block page r) s (fun t =>
      (t.lane l).rdBytes = satAdd (s.lane l).rdBytes (4096 * (wantedCodewords s a cw).length) ∧
      (t.lane l).retry = (s.lane l).retry ∧
      ∀ x ∈ (s.plot q).msh.pageIns, ∀ off, pageInWants s.cfg.content q x a = some off →
        ∃ y ∈ (t.plot q).msh.pageIns, y.page = x.page ∧ (off, data.flatten) ∈ y.got) ∧
    (∀ (x : Query) (p : Part) (vis : List SideEntry) (e : IndexEntry) (n part k : Nat) (b : List Byte),
      (s.plot q).fln.queries = [x] → x.parts = [p] → p.lane = l → p.started = true → p.done = false →
      p.buf = [] → p.todo = [(n, part)] → x.vis = some vis → s.runsOn q x.job l = true →
      s.cfg.content.index? q.val x.index = some e → e.place (s.cfg.content.indexChan e) (x.gen.getD false) n = (a, k) →
      data[k]? = some b → sectorOk b n e.m (x.gen.getD false) part = true →
      let z := (sectorRecords b e.m).foldl (fun (y : Part) r => (examine x vis y r.1 r.2.1 r.2.2 none).1)
        { p with sectors := p.sectors + 1, todo := [] }
      Gives (.flashPageReady l ce lun block page r) s (fun t =>
        (t.plot q).fln.queries = [{ x with parts := [{ z with
          done := true, status := if x.tuned = true ∧ x.budget ≠ 0 ∧ x.budget ≤ z.sectors then 1 else p.status }] }] ∧
        t.mem = s.mem))

/-- A query record keeps to the limits of its index (R243, Table 10-8). -/
def queryRecordOk (s : State) (q : PlotId) (j : Job) (e : IndexEntry) (b : List Byte) : Prop :=
  (leAt b 1 1 = 0 ∨ leAt b 1 1 = 1) ∧ leAt b 2 1 ≤ 3 ∧ leAt b 3 1 ≤ 4 ∧ 0 < leAt b 4 2 ∧ leAt b 4 2 ≤ e.kMax ∧
  0 < leAt b 8 4 ∧ leAt b 8 4 ≤ e.nlist ∧ zeroAt b 6 2 = true ∧ zeroAt b 52 12 = true ∧
  (leAt b 1 1 = 0 → leAt b 12 4 = 0 ∧ leAt b 48 4 = 0) ∧
  probesOk ((List.range (leAt b 8 4)).map (fun p => leNat (jobBytes s q j (leAt b 24 8 + 2 * p) 2))) e.nlist = true ∧
  ∀ c ∈ clausesAt s q j (leAt b 32 8) (leAt b 3 1), clauseOk c = true

/-- A query starts from its record, with one part for each lane of its index, each behind the others in its lane's queue; a
record that breaks a limit is a defective image at the index's home lane, and so is one at an address nothing maps (R117, R243,
R245; the node of a record that names no index is the model's choice, log entry 205). -/
def queriesStart : Prop :=
  ∀ (s : State) (q : PlotId) (j : Job) (addr : BitVec 36), runs s q j →
    let b := jobBytes s q j addr.toNat 64
    (readAccess s q j addr.toNat 64 = .unmapped →
      Gives (.queryStart q j.idx addr) s (faulted s q j .image (some (queryNode s q j addr.toNat)))) ∧
    (readAccess s q j addr.toNat 64 = .ok →
    (s.cfg.content.index? q.val (leAt b 0 1) = none →
      Gives (.queryStart q j.idx addr) s (faulted s q j .image (some (queryNode s q j addr.toNat)))) ∧
    (∀ e, s.cfg.content.index? q.val (leAt b 0 1) = some e →
      (recordOk b e = false →
        Gives (.queryStart q j.idx addr) s (faulted s q j .image (some (laneNode (mkLane e.home))))) ∧
      (readAccess s q j (leAt b 24 8) (2 * leAt b 8 4) = .ok → readAccess s q j (leAt b 32 8) (24 * leAt b 3 1) = .ok →
      (¬ queryRecordOk s q j e b →
        Gives (.queryStart q j.idx addr) s (faulted s q j .image (some (laneNode (mkLane e.home))))) ∧
      (queryRecordOk s q j e b → Gives (.queryStart q j.idx addr) s (fun t =>
        (t.plot q).plt.job? j.idx = some { j with queries := j.queries + 1 } ∧
        (∃ x, (t.plot q).fln.queries = (s.plot q).fln.queries ++ [x] ∧ x.job = j.idx ∧ x.no = j.queries ∧ x.index = e.id ∧
          x.k = leAt b 4 2 ∧ x.probes.length = leAt b 8 4 ∧ (x.tuned = true ↔ leAt b 1 1 = 1) ∧ x.budget = leAt b 12 4 ∧
          x.deadline = leAt b 48 4 ∧ x.vis = none ∧ x.gen = none ∧
          x.parts = ((members 8 e.laneMask).map (fun l => { lane := mkLane l }))) ∧
        (∀ l : LaneId, (t.lane l).queue =
          if (members 8 e.laneMask).contains l.val then (s.lane l).queue ++ [.part q j.idx j.queries] else (s.lane l).queue) ∧
        t.mem = s.mem)))))

/-- A part starts at the front of its lane's queue, in a free context, while its job has a claim there that is not spent and the
commit window is shut: it takes its table, its predicate and its sectors of the active generation, in ascending probe order; the
home lane's also captures what is visible and scans the visible inserts of the partitions probed. A partition outside the index
is a defective image, a sector on a suspect LUN faults the job with FLASH. Otherwise the part waits (R241, R245, R247, R249, R250,
R261). Stated where no other query's buffers hold sectors it wants. -/
def partsStart : Prop :=
  ∀ (s : State) (q : PlotId) (j : Job) (no : Nat) (l : LaneId) (x : Query) (p : Part) (e : IndexEntry),
    (s.plot q).plt.job? j.idx = some j → j.phase = .running ∨ j.phase = .between → j.budget = false → j.deadline = false →
    (s.plot q).fln.queries = [x] → x.job = j.idx → x.no = no → x.parts.find? (fun p => p.lane == l && !p.started) = some p →
    s.cfg.content.index? q.val x.index = some e → (∀ y ∈ x.parts, y.buf = []) →
    let c := s.cfg.content
    let gen := x.gen.getD ((s.plot q).fln.idx[mkIndex x.index]).gen
    let ranges := x.probes.map (fun n => (n, dirRange s q j e gen n))
    let todo := partSectors e (c.indexChan e) gen l ranges
    (mayStart s q j x e.home l = false → Gives (.queryPartStart q j.idx no l) s (fun t => t = s)) ∧
    (mayStart s q j x e.home l = true →
      (∀ r ∈ [(x.tableAddr, 512 * e.m), (x.predAddr, 24 * x.clauseCount)] ++ x.probes.map (fun p => (e.dirEntry gen p, 16)),
        readAccess s q j r.1 r.2 = .ok) →
      ((∃ r ∈ ranges, r.2.2 ≠ 0 ∧ e.capacity (c.indexChan e) < r.2.1 + r.2.2) →
        Gives (.queryPartStart q j.idx no l) s (faulted s q j .image (some (laneNode l)))) ∧
      ((∀ r ∈ ranges, r.2.2 = 0 ∨ r.2.1 + r.2.2 ≤ e.capacity (c.indexChan e)) →
        ((∃ n ∈ todo, s.suspectAt (e.place (c.indexChan e) gen n.1).1 = true) →
          Gives (.queryPartStart q j.idx no l) s (faulted s q j .flash (some (laneNode l)))) ∧
        ((∀ n ∈ todo, s.suspectAt (e.place (c.indexChan e) gen n.1).1 = false) →
          Gives (.queryPartStart q j.idx no l) s (fun t => ∃ y, (t.plot q).fln.queries = [y] ∧
            y.job = x.job ∧ y.no = x.no ∧ y.k = x.k ∧
            (∃ z ∈ y.parts, z.lane = l ∧ z.started = true ∧ z.table = jobBytes s q j x.tableAddr (512 * e.m) ∧
              (z.done = false → z.todo = todo)) ∧
            (l.val ≠ e.home → y.gen = x.gen ∧ y.vis = x.vis ∧ (t.plot q).fln.live = (s.plot q).fln.live) ∧
            (l.val = e.home → y.gen = some gen ∧ y.vis = some (visibleNow ((s.plot q).fln.idx[mkIndex x.index]) j.idx) ∧
              (x.skipSide = false → (t.plot q).fln.live.scan = satAdd (s.plot q).fln.live.scan
                ((visibleNow ((s.plot q).fln.idx[mkIndex x.index]) j.idx).filter
                  (fun d => !d.del && x.probes.contains d.part)).length)) ∧ t.mem = s.mem))))

/-- Queries and their parts start. -/
def Obligations.QueriesStart : Prop := queriesStart ∧ partsStart

/-- At its claim's limit a job's work on a lane parks until the frame ends, once counted; at its DEADLINE a recall-tuned part ends
with status DEADLINE and what it has; an exact query has no deadline (R247, R251). -/
def partsParkAndEnd : Prop :=
  ∀ (s : State) (q : PlotId) (i : BitVec 16) (l : LaneId),
    (laneWork s q i l = true → s.parkedOn q i l = false → Gives (.laneClaimPark q i l) s (fun t =>
      (t.plot q).fln = { (s.plot q).fln with
        atClaim := (s.plot q).fln.atClaim ++ [(i, l)],
        live := { (s.plot q).fln.live with park := satInc (s.plot q).fln.live.park } } ∧ t.parkedOn q i l = true ∧
      t = { s with plots := t.plots })) ∧
    (laneWork s q i l = false ∨ s.parkedOn q i l = true → Gives (.laneClaimPark q i l) s (fun t => t = s)) ∧
    (∀ (x : Query) (p : Part), (s.plot q).fln.queries = [x] → x.job = i → x.parts = [p] → p.lane = l → p.started = true →
      p.done = false →
      (x.tuned = true → x.deadline ≠ 0 → Gives (.queryDeadlineReached q i x.no l) s (fun t =>
        (t.plot q).fln.queries = [{ x with parts := [{ p with done := true, status := 2, todo := [], buf := [] }] }] ∧
        (t.plot q).fln.live = (s.plot q).fln.live ∧ t.mem = s.mem)) ∧
      (x.tuned = false ∨ x.deadline = 0 → Gives (.queryDeadlineReached q i x.no l) s (fun t => t = s)))

/-- When every part has ended, the home lane writes the K best candidates of all parts, by distance and then by ID, with the
counts and the status, to the result area, and the query is over; while the job's work there is parked it waits (R247, R248, R251).
Where BUDGET and DEADLINE both occurred the spec names neither status; the clause leaves that case out. -/
def resultsMerge : Prop :=
  ∀ (s : State) (q : PlotId) (j : Job) (no : Nat) (x : Query) (e : IndexEntry), runs s q j → (s.plot q).fln.queries = [x] →
    x.job = j.idx → x.no = no → s.cfg.content.index? q.val x.index = some e →
    ((∃ p ∈ x.parts, p.done = false) ∨ s.parkedOn q j.idx (mkLane e.home) = true →
      Gives (.queryResultMerge q j.idx no) s (fun t => t = s)) ∧
    ((∀ p ∈ x.parts, p.done = true) → s.parkedOn q j.idx (mkLane e.home) = false →
      (∀ p ∈ x.parts, p.status ≠ 1) ∨ (∀ p ∈ x.parts, p.status ≠ 2) →
      let heap := ((x.parts.flatMap (fun p => p.heap)).mergeSort candLe).take x.k
      let status := if (x.parts.any (fun p => p.status == 1)) = true then 1 else if (x.parts.any (fun p => p.status == 2)) = true then 2 else 0
      let total : (Part → Nat) → Nat := fun f => sumNat (x.parts.map f)
      let ws := [(x.resultAddr, resultBytes heap status (total Part.scanned) (total Part.filtered) (total Part.sectors))]
      landAtOnce s q j ws → Gives (.queryResultMerge q j.idx no) s (fun t =>
        (t.plot q).plt.job? j.idx = some (writtenBy q j ws) ∧ (t.plot q).fln.queries = [] ∧
        (t.plot q).fln.live.query = satInc (s.plot q).fln.live.query ∧ t.mem = s.mem))

/-- Queries scan their sectors, park, end and merge. -/
def Obligations.QueriesScanParkAndMerge : Prop := pagesReachTheirReaders ∧ partsParkAndEnd ∧ resultsMerge

/-- An append takes the next place of the ring under the attempt's epoch, of which an attempt takes one at its first append;
a full list, or no free epoch, faults the job with SIDE_FULL, and an entry that breaks Table 10-10 with IMAGE, both at the
home lane (R253, R254). Stated for calls of one entry. -/
def sideListAppends : Prop :=
  ∀ (s : State) (q : PlotId) (j : Job) (i : Fin 16) (addr : BitVec 36) (e : IndexEntry), runs s q j →
    s.cfg.content.index? q.val i.val = some e → e.id = i.val → readAccess s q j addr.toNat 64 = .ok →
    let b := jobBytes s q j addr.toNat 64
    let x := (s.plot q).fln.idx[i]
    let node := some (laneNode (mkLane e.home))
    (sideOk b e.nlist = false → Gives (.sideAppend q j.idx i addr 1) s (faulted s q j .image node)) ∧
    (sideOk b e.nlist = true → e.sideCap ≤ x.entries.length ∨
        ((∀ y ∈ x.epochs, y.2 ≠ .running j.idx) ∧ ∀ n < 4096, (x.epochs.lookup n).isSome = true) →
      Gives (.sideAppend q j.idx i addr 1) s (fun t => faulted s q j .sideFull node t ∧
        (t.plot q).fln.live.sideFull = satInc (s.plot q).fln.live.sideFull)) ∧
    (∀ ep y, sideOk b e.nlist = true → x.entries.length < e.sideCap → epochOf x j.idx = some (ep, y) →
      Gives (.sideAppend q j.idx i addr 1) s (fun t =>
        ((t.plot q).fln.idx[i]).tail = x.tail + 1 ∧ ((t.plot q).fln.idx[i]).epochs.lookup ep = y.epochs.lookup ep ∧
        ((t.plot q).fln.idx[i]).entries = x.entries ++ [sideEntry b x.tail ep] ∧
        t.plotBytes q (e.sideAddr + 64 * (x.tail % e.sideCap)) 64 = slice b 0 24 ++ leBytes 2 ep ++ slice b 26 38 ∧
        (∀ k : Fin 16, k ≠ i → (t.plot q).fln.idx[k] = (s.plot q).fln.idx[k]) ∧
        (∀ a : Nat, a < e.sideAddr ∨ e.sideAddr + 64 * e.sideCap ≤ a → t.peekMem q a = s.peekMem q a)))

/-- What a generation call of one sector does (R256, R257), for a call with the MERGE option or without; `G` is what the call
gives. -/
def generationCall (s : State) (q : PlotId) (j : Job) (i : Fin 16) (sector : Nat) (addr : BitVec 36) (flush merge : Bool)
    (e : IndexEntry) (G : (State → Prop) → Prop) : Prop :=
  let x := (s.plot q).fln.idx[i]
  let ch := s.cfg.content.indexChan e
  let a := (e.place ch (!x.gen) sector).1
  let data := jobBytes s q j addr.toNat 4096
  let before := if x.writer = none then [] else x.staged
  let staged := before ++ [data]
  let busy := (∃ k, x.writer = some k ∧ k ≠ j.idx) ∨ ∃ y ∈ (s.plot q).fln.queries, y.index = i.val ∧ y.gen = some (!x.gen)
  let next := if x.writer = none then 0 else x.next
  let ended (c : Code) (l : LaneId) : State → Prop := fun t => (t.plot q).plt.job? j.idx = some { j.dropCopies with
    phase := .abandoning, code := c, node := some (laneNode l), faultAt := some t.boot.tclk, logged := true, genBusy := false }
  let taken := takeGeneration (s.modJob q j.idx (fun j => { j with genBusy := false })) q j.idx i merge
  let room := before ≠ [] ∨ stageRoom taken (mkLane a.lane) = true
  (busy → G (fun t => (t.plot q).plt.job? j.idx = some { j with genBusy := true } ∧
    (t.plot q).fln = (s.plot q).fln ∧ t.lanes = s.lanes ∧ t.mem = s.mem)) ∧
  (¬ busy → sector ≠ next ∨ e.capacity ch ≤ sector → G (ended .image (mkLane e.home))) ∧
  (¬ busy → sector = next → sector < e.capacity ch → s.suspectAt a = true → G (ended .flash (mkLane a.lane))) ∧
  (¬ busy → sector = next → sector < e.capacity ch → s.suspectAt a = false → ¬ room → G (fun t =>
    (t.plot q).plt.job? j.idx = some { j with genBusy := false } ∧ ((t.plot q).fln.idx[i]).next = next ∧ t.lanes = s.lanes)) ∧
  (¬ busy → sector = next → sector < e.capacity ch → s.suspectAt a = false → room → G (fun t =>
    let y := (t.plot q).fln.idx[i]
    y.writer = some j.idx ∧ y.next = sector + 1 ∧ y.gen = x.gen ∧ y.entries = x.entries ∧
    (t.plot q).plt.job? j.idx = some { j with genBusy := false } ∧
    (staged.length < ch.cw → flush = false → y.staged = staged ∧ t.lanes = s.lanes) ∧
    (ch.cw ≤ staged.length ∨ flush = true → y.staged = [] ∧
      (∃ o ∈ (t.lane (mkLane a.lane)).ops, o.ce = a.ce ∧ o.lun = a.lun ∧ o.block = a.block ∧ o.page = a.page ∧
        o.kind = .program ∧ o.data = staged.flatten ∧ o.plot = q ∧ o.job = j.idx) ∧
      (a.page = 0 → ∃ o ∈ (t.lane (mkLane a.lane)).ops, o.ce = a.ce ∧ o.lun = a.lun ∧ o.block = a.block ∧ o.kind = .erase)) ∧
    (merge = true → x.merge = false → y.merge = true ∧ y.t0 = x.tail ∧
      y.seen = (x.epochs.filter (fun p => p.2 == .published || p.2 == .running j.idx)).map (·.1)) ∧
    (merge = false → y.merge = x.merge)))

/-- A generation is written by one job, sector by sector from 0, with no gap; a whole stripe page, or what a FLUSH finds, is
programmed, its block erased first at its first page. Another job's call, or one while a query reads the generation, is BUSY and
does nothing else; a sector out of order is a defective image; a suspect LUN a FLASH fault; with no staging free the call waits.
MERGE captures the side list's tail and the epochs visible at its first call (R231, R256, R257). -/
def generationsAreWritten : Prop :=
  ∀ (s : State) (q : PlotId) (j : Job) (i : Fin 16) (sector : Nat) (addr : BitVec 36) (flush : Bool) (e : IndexEntry), runs s q j →
    s.cfg.content.index? q.val i.val = some e → e.id = i.val → readAccess s q j addr.toNat 4096 = .ok → j.genDone = 0 →
    generationCall s q j i sector addr flush false e (Gives (.genWrite q j.idx i sector addr 1 flush) s) ∧
    generationCall s q j i sector addr flush true e (Gives (.genMerge q j.idx i sector addr 1 flush) s)

/-- Side lists are appended and generations written. -/
def Obligations.SideListsAndGenerations : Prop := sideListAppends ∧ generationsAreWritten

/-- A LUN's program or erase that ends is counted, and the lane goes on; one that fails, or is not in time and is reset, makes the
LUN suspect (R260, R261). -/
def programsEnd : Prop :=
  ∀ (s : State) (l : LaneId) (ce : Fin 4) (lun : Fin 8),
    ((s.lane l).programming ce.val lun.val = none → ∀ bad, Gives (.programEraseComplete l ce lun bad) s (fun t => t = s) ∧
      Gives (.programEraseTimeout l ce lun) s (fun t => t = s)) ∧
    (∀ o, (s.lane l).programming ce.val lun.val = some o →
      Gives (.programEraseComplete l ce lun false) s (fun t =>
        ((t.lane l).ops.filter (fun p => p.kind != .read)).length + 1 = ((s.lane l).ops.filter (fun p => p.kind != .read)).length ∧
        (t.lane l).erase = (if o.kind = .erase then satInc (s.lane l).erase else (s.lane l).erase) ∧
        (t.lane l).pgBytes = (if o.kind = .erase then (s.lane l).pgBytes else satAdd (s.lane l).pgBytes o.data.length) ∧
        (t.lane l).suspect = (s.lane l).suspect ∧ (∀ k : LaneId, k ≠ l → t.lane k = s.lane k) ∧ t.plots = s.plots) ∧
      (s.suspectAt ⟨l.val, ce.val, lun.val, 0, 0⟩ = false →
        Gives (.programEraseComplete l ce lun true) s (fun t =>
          becomesSuspect s t l ce.val lun.val (if o.kind = .erase then 3 else 2) ∧ (t.lane l).pfail = satInc (s.lane l).pfail) ∧
        Gives (.programEraseTimeout l ce lun) s (fun t =>
          becomesSuspect s t l ce.val lun.val (if o.kind = .erase then 3 else 2) ∧ (t.lane l).pfail = satInc (s.lane l).pfail ∧
          t.out[s.out.length]? = some (.flashCommand l.val ce.val lun.val 0xFF []))))

/-- Flash lanes come up, reads repeat, programs and erases end. -/
def Obligations.FlashLanes : Prop := lanesComeUp ∧ failedReadsRepeat ∧ programsEnd

/-! ### Power and heat (chapter 11) -/

/-- Energy of a sample's events of a plot, and of a job of it (Table 11-5). -/
def activityEnergy (s : State) (x : PowerSample) (q : PlotId) : Nat :=
  sumNat ((x.acts.filter (fun a => a.plot == q)).map (eventCost s))

/-- A sample gives every rail its raw current, the fused charge of the events over the sample's time and the leakage of the nodes,
and its calibrated current; its energy is charged to the device and to the plots: each the energy of its events and of what it
owns, plot 0 what the others leave, so the charges add up; a job of a plot has the energy of its own events. Before ready there
are no samples (R265, R266, R283 to R285). -/
def samplesChargeEnergy : Prop :=
  ∀ (s : State) (x : PowerSample),
    (s.isReady = false → Gives (.powerSample x) s (fun t => t = s)) ∧
    (s.isReady = true → Gives (.powerSample x) s (fun t =>
      let e := (histOf s x).power * x.dt
      let fits := sumNat (x.acts.map (eventCost s)) + sumNat (tenantPlots.map (standingCost s x.dt)) ≤ e
      (∀ r : Fin 5, t.pwr.rails[r].raw = sumNat (x.acts.map (fun a =>
            a.count * (s.fuses.charge.toList[5 * kindNo a.kind + r.val]?).getD 0)) / max x.dt 1 +
          sumNat ((List.range 120).map (fun n => Config.leakage r.val n s.fuses.leak[r] s.pwr.rails[r].volts (sensorReadings s.pwr))) ∧
        t.pwr.rails[r].cal = (t.pwr.rails[r].raw * s.pwr.rails[r].gain + 500000) / 1000000 ∧ t.pwr.rails[r].gain = s.pwr.rails[r].gain) ∧
      t.pwr.energy = (s.pwr.energy + e) % (2 ^ 48 * 10 ^ 18) ∧
      sumNat (allPlots.map (fun q => (t.plot q).pwr.frameE)) = sumNat (allPlots.map (fun q => (s.plot q).pwr.frameE)) + e ∧
      (fits → ∀ q : PlotId, q ≠ 0 →
        (t.plot q).pwr.frameE = (s.plot q).pwr.frameE + activityEnergy s x q + standingCost s x.dt q) ∧
      (fits → ∀ (a : Activity) (i : BitVec 16), x.acts = [a] → a.job = some i → (t.plot a.plot).plt.jobs =
        (s.plot a.plot).plt.jobs.map (fun j =>
          if j.idx == i && !(j.phase == .over) then { j with energy := j.energy + eventCost s a } else j)) ∧
      (∀ (q : PlotId) (n : Nat), x.bubbles = [(q, n)] → (t.plot q).pwr.bubbles = (s.plot q).pwr.bubbles + n) ∧
      (∀ q : PlotId, (t.plot q).plt.state = (s.plot q).plt.state ∧ (t.plot q).pwr.frameT = (s.plot q).pwr.frameT + x.dt) ∧
      t.pwr.levels = s.pwr.levels ∧ t.log = s.log ∧ t.out = s.out ∧ t.mem = s.mem))

/-- What an evaluation does to one limiter with its average X, its limit and the demands in the order of Table 11-3: with no
limit or X not above it every level falls by one; above it the levels are raised in order until 64 (X - L) is shed, none
beyond KMAX; a raise sets the limiter's event and POWER and ends boost; a limiter at KMAX everywhere and still above its limit
is a cause of the lowest state (R269, R276, R279). -/
def limiterMoves (s t : State) (l : Fin 11) (x : Nat) (limit : Option Nat) (ds : List (Nat × Nat × Nat)) (event : Nat) : Prop :=
  let above := ∃ n, limit = some n ∧ n < x
  (¬ above → (∀ i ∈ actsOn l.val, levelAt t.pwr.levels[l] i = levelAt s.pwr.levels[l] i - 1)) ∧
  (∀ n, limit = some n → n < x → t.pwr.levels[l] = shed ds (64 * ((x : Int) - n)) s.pwr.levels[l]) ∧
  (∀ i < 12, i ∉ actsOn l.val → levelAt t.pwr.levels[l] i = levelAt s.pwr.levels[l] i) ∧
  ((∃ i < 12, levelAt s.pwr.levels[l] i < levelAt t.pwr.levels[l] i) →
    t.pwr.event.getLsbD event = true ∧ t.pf.irqStatus.getLsbD 6 = true ∧ t.pwr.fclk = s.fuses.nominal ∧ t.pwr.boostNext = none) ∧
  (above → (∀ i ∈ actsOn l.val, levelAt s.pwr.levels[l] i = kMax (i / 4)) → t.pwr.lowest = true)

/-- The nine current limiters are evaluated each over its rail and window, and the cap and thermal limiters over the 1 ms
demand power; an evaluation changes no other limiter's levels (R268, R269, R272). -/
def limitersEvaluate : Prop :=
  ∀ (s : State), s.isReady = true →
    (∀ (r w : Fin 3) (l : Fin 11), l.val = 3 * r.val + w.val → Gives (.currentLimiterEval r w) s (fun t =>
      limiterMoves s t l (railDemand s.pwr r.val (windowPs w.val)) (railLimit s.pwr r.val w.val)
        (railDemands s.pwr r.val (windowPs w.val)) 1 ∧
      (∀ k : Fin 11, k ≠ l → t.pwr.levels[k] = s.pwr.levels[k]) ∧ t.mem = s.mem)) ∧
    Gives .capLimiterEval s (fun t =>
      limiterMoves s t 9 (demandPower s.pwr) (some (max s.frm.rws.cap.toNat 80 * 10 ^ 12)) (powerDemands s.pwr) 0 ∧
      limiterMoves s t 10 (demandPower s.pwr) s.pwr.lt (powerDemands s.pwr) 0 ∧
      (∀ k : Fin 11, k ≠ 9 → k ≠ 10 → t.pwr.levels[k] = s.pwr.levels[k]) ∧ t.mem = s.mem)

/-- Every 10 ms a rail's READ_VOUT and READ_IOUT queue behind what waits; the answer of a READ_IOUT that is on the bus is the
reading. A reading that is accepted moves the rail's gain by a sixteenth of the way to the measured ratio, over the average raw
estimate of the 10 ms before, within 0.80 to 1.25; one beyond four times, or below a quarter, is rejected with an event; a
regulator that does not answer is asked three times more and counted. A rail without an accepted reading for one second has
its gain at 1.10 or more (R267, R305). -/
def calibrationTracksTheRegulators : Prop :=
  ∀ (s : State) (r : Fin 5), s.isReady = true → s.pwr.calEn = true →
    (s.hst.rail[r].getLsbD 31 = true → s.pwr.pmb = [] → ∀ m, Gives (.calibrationRead r m) s (fun t =>
      t.pwr = { s.pwr with pmb := [{ rail := r, command := 0x8B }, { rail := r, command := 0x8C }] } ∧ t.hst = s.hst)) ∧
    (∀ rest : List PmbTxn, s.pwr.pmb = { rail := r, command := 0x8C } :: rest →
      (s.pwr.tries < 3 → Gives (.calibrationRead r none) s (fun t =>
        t.pwr = { s.pwr with tries := s.pwr.tries + 1 } ∧ t.hst = s.hst)) ∧
      (3 ≤ s.pwr.tries → Gives (.calibrationRead r none) s (fun t => t.hst.pmbErr = satInc s.hst.pmbErr ∧
        t.hst.pmbNoAck.getLsbD r.val = true ∧ t.pwr = { s.pwr with pmb := rest, tries := 0 })) ∧
      (∀ m : Nat,
        let x := s.pwr.rails[r]
        let e := average s.pwr (fun h => (h.raw[r.val]?).getD 0) (10 * msPs)
        let little : Prop := match railLimit s.pwr r.val 2 with
          | some l => if r.val < 3 then 20 * e < l else e < 1000000
          | none => e < 1000000
        Gives (.calibrationRead r (some m)) s (fun t =>
          t.pwr.rails[r].amps = m ∧ t.hst.pmbOk.getLsbD r.val = true ∧ t.hst.pmbErr = s.hst.pmbErr ∧ t.pwr.pmb = rest ∧
          (∀ k : Fin 5, k ≠ r → t.pwr.rails[k] = s.pwr.rails[k]) ∧
          (little → t.pwr.rails[r].gain = x.gain ∧ t.pwr.event = s.pwr.event) ∧
          (¬ little → 4 * (1000 * m) < e ∨ 4 * e < 1000 * m → t.pwr.rails[r].gain = x.gain ∧ t.pwr.event.getLsbD 7 = true) ∧
          (¬ little → e ≤ 4 * (1000 * m) → 1000 * m ≤ 4 * e →
            800000 ≤ t.pwr.rails[r].gain ∧ t.pwr.rails[r].gain ≤ 1250000 ∧ t.pwr.rails[r].accepted = true ∧
            (t.pwr.rails[r].gain : Int) = clampInt 800000 1250000
              (x.gain + roundDiv (((1000000 * (1000 * m) + e / 2) / e : Nat) - x.gain) 16) ∧
            t.pwr.event = s.pwr.event)))) ∧
    (s.pwr.rails[r].lost = false → Gives (.calibrationLost r) s (fun t =>
      t.pwr.rails[r] = { s.pwr.rails[r] with lost := true, gain := max s.pwr.rails[r].gain 1100000 } ∧
      (∀ k : Fin 5, k ≠ r → t.pwr.rails[k] = s.pwr.rails[k]) ∧ t.pwr.event.getLsbD 6 = true ∧
      t.boot.tclk = max s.boot.tclk
        ((if s.pwr.rails[r].accepted then s.pwr.rails[r].acceptedAt else s.boot.readyAt) + 100000000)))

/-- Samples charge energy, limiters move levels, gains follow the regulators. -/
def Obligations.EnergyAndLimiters : Prop := samplesChargeEnergy ∧ limitersEvaluate ∧ calibrationTracksTheRegulators

/-- A commanded rail whose regulator answers in linear format has its target for an FCLK. -/
def aimed (t : State) (fclk : Nat) : Prop :=
  ∀ rail : Nat, rail < 2 → t.pwr.rails[mkRail rail].mode ≠ none → t.hst.rail[mkRail rail].getLsbD 31 = true →
    t.pwr.rails[mkRail rail].want = voltTarget t rail fclk

/-- The temperature band rises on crossing a boundary and falls 2 °C below it; the trim moves one step of 2.5 mV, at most ten,
down in voltage after a second of passes and back on a fail, which also ends boost; both aim the voltages (R274, R275). -/
def bandsAndTrim : Prop :=
  ∀ (s : State), s.isReady = true →
    (∀ i h, hottest s.pwr = some (i, h) → s.pwr.band ≤ 3 → Gives .voltageBandEval s (fun t =>
      let b := s.pwr.band
      (b = 3 ∨ h ≤ bandTop b → b = 0 ∨ bandTop (b - 1) - 8 < h → t.pwr.band = b) ∧
      (∀ k, k < 3 → b ≤ k → bandTop k < h → k < t.pwr.band) ∧
      (0 < b → h ≤ bandTop (b - 1) - 8 → t.pwr.band < b) ∧ aimed t t.pwr.targetMhz ∧ t.pwr.fclk = s.pwr.fclk)) ∧
    (hottest s.pwr = none → Gives .voltageBandEval s (fun t => t.pwr.band = s.pwr.band ∧ aimed t t.pwr.targetMhz)) ∧
    (∀ fail4 : Bool, s.pwr.trimEn = true → Gives (.ageingTrimStep (!fail4) fail4) s (fun t =>
      t.pwr.trim = (if fail4 then s.pwr.trim - 1 else min (s.pwr.trim + 1) 10) ∧ aimed t t.pwr.targetMhz ∧
      (fail4 = true → t.pwr.fclk = s.fuses.nominal ∧ t.pwr.boostNext = none))) ∧
    (s.pwr.trimEn = false → ∀ pass8, Gives (.ageingTrimStep pass8 false) s (fun t => t = s))

/-- Boost rises by one step of 25 MHz, the voltages first, and FCLK follows 50 µs after the last raise is acknowledged; where a
condition of R276 fails it ends at once. PWR_CTL's bits take effect as written by the PF alone; a grade F part is always fixed
(R274, R276, R277, R306; that CAL_EN = 0 sets every gain to 1.10 is the model's reading of R267, log entry 132). -/
def boostStepsAndFixedFrequency : Prop :=
  ∀ (s : State),
    (s.isReady = true → boostAllowed s = false → Gives .boostCheck s (fun t =>
      t.pwr.fclk = s.fuses.nominal ∧ t.pwr.boostNext = none ∧ t.mem = s.mem)) ∧
    (s.isReady = true → boostAllowed s = true → s.pwr.fclk < 1400 → s.pwr.boostNext = none → Gives .boostCheck s (fun t =>
      (t.pwr.fclk = s.pwr.fclk + 25 ∧ t.pwr.boostNext = none ∧ voltsPending t = false ∨
        t.pwr.fclk = s.pwr.fclk ∧ t.pwr.boostNext = some (s.pwr.fclk + 25) ∧ voltsPending t = true) ∧
      aimed t (s.pwr.fclk + 25))) ∧
    (∀ f a, s.pwr.boostNext = some f → s.pwr.ackAt = some a →
      (voltsPending s = true → Gives .voltageSettleEnd s (fun t => t = s)) ∧
      (voltsPending s = false → Gives .voltageSettleEnd s (fun t =>
        let now := max s.boot.tclk (a + 5000)
        t = { s with pwr := { s.pwr with fclk := f, boostNext := none, ackAt := none,
                                         cyc := s.pwr.cyc + (now - s.pwr.cycAt) * s.pwr.fclk, cycAt := now },
                     boot := { s.boot with tclk := now } }))) ∧
    (∀ (f : Fn) (v : Word), s.hostOk f = true →
      (f ≠ 0 → Gives (.fixedFreqWrite f v) s (fun t => t = { s with resp := {} })) ∧
      (f = 0 → Gives (.fixedFreqWrite f v) s (fun t =>
        t.pwr.fixedFreq = (s.fuses.gradeF || v.getLsbD 0) ∧ t.pwr.calEn = v.getLsbD 1 ∧ t.pwr.trimEn = v.getLsbD 2 ∧
        (v.getLsbD 1 = false → ∀ r : Fin 5, t.pwr.rails[r].gain = 1100000) ∧ (v.getLsbD 2 = false → t.pwr.trim = 0) ∧
        (s.fuses.gradeF = true ∨ v.getLsbD 0 = true → t.pwr.fclk = s.fuses.nominal ∧ t.pwr.boostNext = none))))

/-- The transaction in front is answered, and the next begins; or it is not acknowledged and is repeated, three times, and
then given up and counted. A voltage command that is answered has the voltage it carried; a raise that is given up ends the boost
step; a transfer carries the regulator's address, and PEC once its CAPABILITY reports it
(R304, R305). -/
def pmbusTransactions : Prop :=
  ∀ (s : State) (x : PmbTxn) (rest : List PmbTxn),
    (s.pwr.pmb = [] → ∀ a, Gives (.pmbusTransaction a) s (fun t => t = s)) ∧
    (s.pwr.pmb = x :: rest →
      (s.pwr.tries < 3 → Gives (.pmbusTransaction none) s (fun t => t.pwr = { s.pwr with tries := s.pwr.tries + 1 } ∧
        t.out.getLast? = some (.pmbus x.rail.val (s.hst.rail[x.rail].toNat % 128) x.command x.value s.pwr.rails[x.rail].pec) ∧
        t.hst = s.hst)) ∧
      (3 ≤ s.pwr.tries → Gives (.pmbusTransaction none) s (fun t => t.pwr.pmb = rest ∧ t.pwr.tries = 0 ∧
        t.hst.pmbErr = satInc s.hst.pmbErr ∧ t.hst.pmbNoAck.getLsbD x.rail.val = true ∧
        (x.command = 0x21 → t.pwr.boostNext = none ∧ t.pwr.rails[x.rail].want =
          if s.pwr.rails[x.rail].want = x.steps then s.pwr.rails[x.rail].volts else s.pwr.rails[x.rail].want))) ∧
      (x.command = 0x21 → ∀ d, Gives (.pmbusTransaction (some d)) s (fun t => t.pwr.pmb = rest ∧ t.pwr.tries = 0 ∧
        t.hst.pmbOk.getLsbD x.rail.val = true ∧ t.hst.pmbErr = s.hst.pmbErr ∧
        t.pwr.rails[x.rail].volts = x.steps ∧ (∀ r : Fin 5, r ≠ x.rail → t.pwr.rails[r] = s.pwr.rails[r]) ∧
        (s.pwr.rails[x.rail].volts < x.steps → t.pwr.ackAt = some s.boot.tclk))) ∧
      (x.command = 0x19 → ∀ d, Gives (.pmbusTransaction (some d)) s (fun t =>
        t.pwr.rails[x.rail] = { s.pwr.rails[x.rail] with pec := bitOf d 7 } ∧ t.pwr.pmb = rest)) ∧
      (x.command = 0x20 → ∀ d, d / 32 % 8 ≠ 0 → Gives (.pmbusTransaction (some d)) s (fun t =>
        t.hst.pmbModeErr.getLsbD x.rail.val = true ∧ t.pwr.fclk = s.fuses.nominal)))

/-- Bands, trim, boost and PMBus set the voltages. That CAL_EN = 0 sets every gain to 1.10 is the model's reading (log
entry 132). -/
def Obligations.VoltagesAndBoost : Prop := bandsAndTrim ∧ boostStepsAndFixedFrequency ∧ pmbusTransactions

/-- The lowest state begins: its cause is shown, it is counted, LOWEST is logged, POWER rises, and boost ends. -/
def lowestBegins (s t : State) (cause : BitVec 3) : Prop :=
  t.pwr.lowest = true ∧ (s.pwr.lowest = false → t.pwr.cause = cause ∧ t.pwr.lowestCnt = satInc s.pwr.lowestCnt ∧
    t.pwr.event.getLsbD 3 = true ∧ t.pf.irqStatus.getLsbD 6 = true ∧ t.pwr.fclk = s.fuses.nominal ∧
    ∃ l ∈ t.log.lines, s.log.next.toNat ≤ l.seq ∧ l.code = 0x60 ∧ l.arg0 = cause.toNat) ∧
  (s.pwr.lowest = true → t.pwr.cause = s.pwr.cause ∧ t.pwr.lowestCnt = s.pwr.lowestCnt)

/-- From 200 µs after the start event a droop beyond the threshold, the next lower multiple of 5 mV from 20 to 75, is counted and
ends boost; one beyond it by 20 mV more is a deep one; persisting it is a cause of the lowest state, as VR_ALERT_N is, which is also counted
and logged and whose status is read on PMBus. 1 ms after every cause has ended the lowest state ends, every limiter at its
KMAX (R278 to R280). -/
def droopsAlertsAndTheLowestState : Prop :=
  ∀ (s : State),
    (∀ depth : Nat,
      let armed := s.boot.phase ≠ .held ∧ s.boot.startAt + 20000 ≤ s.boot.tclk
      let limit := min 75 (max 20 (s.pwr.droopThresh.toNat / 5 * 5))
      (¬ armed ∨ depth ≤ limit → Gives (.droopCrossing depth) s (fun t => t = s)) ∧
      (armed → limit < depth → Gives (.droopCrossing depth) s (fun t =>
        t.pwr.droop = true ∧ (t.pwr.deep = true ↔ s.pwr.deep = true ∨ limit + 20 < depth) ∧
        t.pwr.droopCnt = satInc s.pwr.droopCnt ∧ t.pwr.droopAt = some s.boot.tclk ∧
        t.pwr.event.getLsbD 5 = true ∧ t.pwr.fclk = s.fuses.nominal ∧ t.pwr.boostNext = none))) ∧
    (s.pwr.droop = true → Gives .droopPersist s (fun t => lowestBegins s t 3 ∧ t.pwr.droopCause = true)) ∧
    (s.pwr.droop = false → Gives .droopPersist s (fun t => t = s)) ∧
    (∀ n, (s.pwr.droop = true → Gives (.droopRecovery n) s (fun t => t = { s with pwr := { s.pwr with
        droop := false, deep := false, stretch := satAdd s.pwr.stretch n,
        droopClear := if s.pwr.droopCause then s.boot.tclk else s.pwr.droopClear } })) ∧
      (s.pwr.droop = false → Gives (.droopRecovery n) s (fun t => t = s))) ∧
    (s.aux.on = true → s.boot.vrAlert = false → s.isReady = true → Gives .vrAlert s (fun t => t.boot.vrAlert = true ∧
      lowestBegins s t 1 ∧ t.pwr.vrCnt = satInc s.pwr.vrCnt ∧ t.pwr.event.getLsbD 2 = true ∧ t.pf.irqStatus.getLsbD 8 = true ∧
      (∃ l, t.log.lines.head? = some l ∧ l.code = 0x61) ∧
      (∀ r : Fin 5, s.hst.rail[r].getLsbD 31 = true → ∀ c ∈ [0x79, 0x7A, 0x7B, 0x03], ({ rail := r, command := c } : PmbTxn) ∈ t.pwr.pmb))) ∧
    (s.boot.vrAlert = true → Gives .vrAlertDeasserted s (fun t => t = { s with
      boot := { s.boot with vrAlert := false }, pwr := { s.pwr with vrClear := s.boot.tclk } })) ∧
    (let ended := s.pwr.lowest = true ∧ s.boot.vrAlert = false ∧ ¬ (s.pwr.droopCause = true ∧ s.pwr.droop = true) ∧
       faultySensors s.pwr < 8 ∧ s.pwr.satOver = 0
     (¬ ended → Gives .lowestStateExit s (fun t => t = s)) ∧
     (ended → Gives .lowestStateExit s (fun t => t.pwr.lowest = false ∧ t.pwr.droopCause = false ∧
       s.pwr.vrClear + 100000 ≤ t.boot.tclk ∧ s.pwr.droopClear + 100000 ≤ t.boot.tclk ∧ s.pwr.satClear + 100000 ≤ t.boot.tclk ∧
       s.pwr.sensClear + 100000 ≤ t.boot.tclk ∧
       (∀ (l : Fin 11), ∀ i < 12, levelAt t.pwr.levels[l] i = if i ∈ actsOn l.val then kMax (i / 4) else 0) ∧
       t.plots = s.plots ∧ t.mem = s.mem)))

/-- From 220 µs after the start event the sensors are sampled. A sensor outside -40 to 150 °C, or that jumps by more than 20 °C, is faulty until 100 samples in a row are good; eight faulty
ones are a cause of the lowest state; the warning comes once, on crossing WARN. The thermal limit falls by a fiftieth while
the hottest sensor is at THROTTLE or above, and rises back, and away above the cap, 3 °C below it (R281). -/
def sensorsAndTheThermalLimit : Prop :=
  ∀ (s : State),
    (s.boot.phase = .held ∨ s.boot.tclk < s.boot.startAt + 22000 → ∀ ts, Gives (.thermalSample ts) s (fun t => t = s)) ∧
    (s.boot.phase ≠ .held → s.boot.startAt + 22000 ≤ s.boot.tclk → ∀ ts : Vector Int 48, Gives (.thermalSample ts) s (fun t =>
      (∀ i : Fin 48,
        let x := s.pwr.sens[i]
        let bad := ts[i] < -160 ∨ 600 < ts[i] ∨ (x.seen = true ∧ (80 < ts[i] - x.temp ∨ 80 < x.temp - ts[i]))
        let y := t.pwr.sens[i]
        y.temp = ts[i] ∧ y.seen = true ∧ (bad → y.fault = true ∧ y.run = 0) ∧
        (¬ bad → x.fault = false → y.fault = false) ∧ (¬ bad → x.fault = true → y.run = x.run + 1 ∧ (y.fault = true ↔ x.run + 1 < 100))) ∧
      (8 ≤ faultySensors t.pwr → lowestBegins s t 4) ∧ (faultySensors t.pwr < 8 → t.pwr.lowest = s.pwr.lowest) ∧
      (∀ h, hottest t.pwr = some h → thermThresh s.pwr.warn ≤ h.2 → s.pwr.warned = false →
        (∀ b, hottest s.pwr = some b → b.2 < thermThresh s.pwr.warn) →
        t.pwr.warned = true ∧ t.pwr.event.getLsbD 4 = true ∧ t.pf.irqStatus.getLsbD 7 = true))) ∧
    (s.isReady = true → ∀ h, hottest s.pwr = some h →
      (thermThresh s.pwr.throttle ≤ h.2 → Gives .thermalLimitUpdate s (fun t => t = { s with pwr := { s.pwr with
        lt := some (match s.pwr.lt with | none => demandPower s.pwr | some l => l - l / 50) } })) ∧
      (h.2 < thermThresh s.pwr.throttle - 12 → ∀ l, s.pwr.lt = some l → Gives .thermalLimitUpdate s (fun t =>
        t = { s with pwr := { s.pwr with lt := if s.capPw < l + l / 50 then none else some (l + l / 50) } })) ∧
      (thermThresh s.pwr.throttle - 12 ≤ h.2 → h.2 < thermThresh s.pwr.throttle →
        Gives .thermalLimitUpdate s (fun t => t = s)))

/-- Droops, alerts, the lowest state and the thermal limit. -/
def Obligations.DroopAndHeat : Prop := droopsAlertsAndTheLowestState ∧ sensorsAndTheThermalLimit

/-! ### The listen port (chapter 13) -/

/-- A violation counts on its cage. Every type but NOMATCH is shown in SKT_VIOL_LAST, and has one line in a frame, with the PF
cause SKT (R330, Table 14-6). -/
def violated (s t : State) (cage : Fin 2) (type : Fin 12) (entry : Option Nat) : Prop :=
  t.skt.cages[cage].vcnt[type] = satInc s.skt.cages[cage].vcnt[type] ∧
  (∀ x : Fin 12, x ≠ type → t.skt.cages[cage].vcnt[x] = s.skt.cages[cage].vcnt[x]) ∧
  (∀ c : Fin 2, c ≠ cage → t.skt.cages[c] = s.skt.cages[c]) ∧ t.mem = s.mem ∧ t.plots = s.plots ∧
  (type = 5 → t.skt.violLast = s.skt.violLast ∧ t.log = s.log) ∧
  (type ≠ 5 →
    t.skt.violLast = BitVec.ofNat 32 (entry.getD 0 * 2 ^ 24 + (if entry.isSome then 2 ^ 23 else 0) + 2 ^ 16 * cage.val + type.val) ∧
    (s.skt.logged.getLsbD type.val = true → t.log.lines = s.log.lines ∧ t.log.suppress = satInc s.log.suppress) ∧
    (s.skt.logged.getLsbD type.val = false → t.pf.irqStatus.getLsbD 9 = true ∧ ∃ l, t.log.lines.head? = some l ∧ l.code = 0x70))

/-- A cage that listens takes a frame that passes its checks into its FIFO, with its checks complete 120 TCLK cycles later; the
first check that fails is its violation, and so is a frame the FIFO has no room for. A cage that does not listen takes none
(R317, R318, R324, R330, R331). -/
def framesAreChecked : Prop :=
  ∀ (s : State) (c : Fin 2) (pcs : Bool) (f : List Byte),
    let listens := s.isReady = true ∧ s.skt.cages[c].lock = true ∧ s.skt.cages[c].los = false ∧
      (s.skt.cages[c].mode = 1 ∨ s.skt.cages[c].mode = 2)
    (¬ listens → Gives (.skoetFrameReceive c pcs f) s (fun t => t = s)) ∧
    (listens → 16384 < fifoUsed s.skt c + 1522 → Gives (.skoetFrameReceive c pcs f) s (fun t =>
      violated s t c 11 none ∧ t.skt.queue = s.skt.queue)) ∧
    (listens → fifoUsed s.skt c + 1522 ≤ 16384 →
      (∀ type e, checkFrame s.skt.ingests s.skt.banks c pcs f = .refused type e → Gives (.skoetFrameReceive c pcs f) s (fun t =>
        violated s t c type e ∧ t.skt.queue = s.skt.queue)) ∧
      (∀ m, checkFrame s.skt.ingests s.skt.banks c pcs f = .message m → Gives (.skoetFrameReceive c pcs f) s (fun t =>
        t = { s with skt := { s.skt with queue := s.skt.queue ++
          [{ cage := c, due := s.boot.tclk + 120, bytes := f, banks := s.skt.banks }] } })))

/-- A frame with a PCS error, shorter than 64 bytes, or longer than its limit fails in that order (R318, Table 13-2). -/
def lengthChecksComeFirst : Prop :=
  ∀ (table : List Ingest) (banks : List (Nat × SktBank)) (c : Fin 2) (f : List Byte),
    checkFrame table banks c false f = .refused 0 none ∧
    (f.length < 64 → checkFrame table banks c true f = .refused 1 none) ∧
    (1522 < f.length → checkFrame table banks c true f = .refused 2 none) ∧
    (∀ m, checkFrame table banks c true f = .message m → 64 ≤ f.length ∧ f.length ≤ 1522 ∧ ∃ e ∈ table, e.no = m.entry)

/-- An accepted message is the entry's last. -/
def accepted (s t : State) (e : Ingest) (cage : Fin 2) (m : SktMsg) (gap : Nat) : Prop :=
  let x := s.skt.entry e.no
  let y := t.skt.entry e.no
  y.valid = true ∧ y.last = m ∧ y.cage = cage ∧ y.new = satInc x.new ∧ y.rx = satInc x.rx ∧ y.age = x.age ∧
  y.gap = (if gap = 0 then x.gap else satInc x.gap) ∧ y.dup = x.dup ∧ y.red = x.red

/-- When a message's checks complete, its sequence number decides: the first, one after a stale stretch, and the next in
sequence are accepted; one ahead is accepted and a gap; the one just accepted, again, is REDUNDANT from the other cage and a
duplicate from the same; one behind is a duplicate. Other entries keep their values (R324, R325). -/
def sequenceDecides : Prop :=
  ∀ (s : State) (f : SktFrame) (m : SktMsg) (e : Ingest), s.skt.queue = [f] →
    checkFrame s.skt.ingests f.banks f.cage true f.bytes = .message m →
    s.skt.ingests.find? (fun e => e.no == m.entry) = some e → s.designated e = false →
    let x := s.skt.entry e.no
    let d := (m.seq - x.last.seq).toNat
    let fresh := x.valid = false ∨ e.stale ≤ x.age.toNat
    let others : State → Prop := fun t => t.skt.queue = [] ∧ t.boot.tclk = max s.boot.tclk f.due ∧ t.frm = s.frm ∧
      ∀ n, n ≠ e.no → t.skt.entry n = s.skt.entry n
    (fresh ∨ d = 1 → Gives .messageCheckComplete s (fun t => accepted s t e f.cage m 0 ∧ others t ∧
      t.skt.cages = s.skt.cages ∧ t.log = s.log)) ∧
    (¬ fresh → 2 ≤ d → d ≤ 32767 → Gives .messageCheckComplete s (fun t => accepted s t e f.cage m 1 ∧ others t ∧
      violated s t f.cage 10 (some e.no))) ∧
    (¬ fresh → d = 0 → f.cage ≠ x.cage → Gives .messageCheckComplete s (fun t => others t ∧
      t.skt.entry e.no = { x with red := satInc x.red } ∧ t.skt.cages = s.skt.cages ∧ t.log = s.log)) ∧
    (¬ fresh → (d = 0 ∧ f.cage = x.cage) ∨ 32767 < d → Gives .messageCheckComplete s (fun t => others t ∧
      t.skt.entry e.no = { x with dup := satInc x.dup } ∧ violated s t f.cage 9 (some e.no)))

/-- The governing table judges a frame again when its checks complete; without a frame nothing completes. The next to complete
is the earliest due (R89, R324). -/
def checksCompleteInOrder : Prop :=
  ∀ s : State,
    (s.skt.queue = [] → Gives .messageCheckComplete s (fun t => t = s)) ∧
    (∀ f type e, s.skt.queue = [f] → checkFrame s.skt.ingests f.banks f.cage true f.bytes = .refused type e →
      Gives .messageCheckComplete s (fun t => violated s t f.cage type e ∧ t.skt.queue = [])) ∧
    (∀ f g type e, s.skt.queue = [f, g] → g.due < f.due → checkFrame s.skt.ingests g.banks g.cage true g.bytes = .refused type e →
      Gives .messageCheckComplete s (fun t => t.skt.queue = [f] ∧ t.boot.tclk = max s.boot.tclk g.due))

/-- An accepted message of the designated entry is the tick when its checks complete within the window of a locked plant
source and the commit sequence is over; while that runs the tick is held off; outside the window, or after the window's tick,
it is counted in FRM_PLANT_OUT_CNT (R36, R39). Stated for the message next in sequence. -/
def designatedMessagesTick : Prop :=
  ∀ (s : State) (f : SktFrame) (m : SktMsg) (e : Ingest), s.skt.queue = [f] →
    checkFrame s.skt.ingests f.banks f.cage true f.bytes = .message m →
    s.skt.ingests.find? (fun e => e.no == m.entry) = some e → s.designated e = true →
    (m.seq - (s.skt.entry e.no).last.seq).toNat = 1 →
    s.frm.gov = .plantLock ∨ s.frm.gov = .plantHold →
    let at_ := max s.boot.tclk f.due
    let mid := s.frm.tickAt + 100 * s.frm.framePeriod
    let w := 100 * s.frm.frameDev.plantWin.toNat
    let inside := mid ≤ at_ + w ∧ at_ ≤ mid + w ∧ s.frm.windowUsed = false ∧ s.frm.opened = true
    (inside → s.frm.commitEnd ≤ at_ → Gives .messageCheckComplete s (fun t => ticked s at_ t ∧
      t.frm.plantOut = s.frm.plantOut ∧ t.frm.plantMiss = s.frm.plantMiss)) ∧
    (inside → at_ < s.frm.commitEnd → Gives .messageCheckComplete s (fun t => t.frm.holdoff = some at_ ∧
      t.frm.windowUsed = true ∧ t.frm.count = s.frm.count ∧ t.frm.tickAt = s.frm.tickAt)) ∧
    (¬ inside → Gives .messageCheckComplete s (fun t => t.frm = { s.frm with plantOut := satInc s.frm.plantOut }))

/-- A tick latches every entry: its slot in an IDLE or RUNNING plot takes the image of Table 13-6, NEW is 0 again, and AGE
is 0 after a message and counts on without one; a slot of a plot in another state is not written (R327, R328). Stated for a
counted tick and a table of one entry that the tick does not change. -/
def ticksLatchTheEntries : Prop :=
  ∀ (s : State) (b : List Byte) (q : PlotId), s.isReady = true → s.frm.opened = true → s.frm.holdoff = none →
    s.frm.gov = .internal → s.skt.table = [b] → s.cfg.content.ingest = [b] →
    let e := ingestOf b
    let x := s.skt.entry e.no
    q ≠ 0 → e.plot = q.val → Gives .tick s (fun t =>
      let y := t.skt.entry e.no
      y.new = 0 ∧ y.age = (if x.new ≠ 0 then 0 else if x.valid then satInc x.age else x.age) ∧ y.last = x.last ∧
      y.valid = x.valid ∧ y.rx = x.rx ∧
      ((s.plot q).plt.state = .idle ∨ (s.plot q).plt.state = .running →
        t.plotBytes q e.slotAddr (64 + 64 * ceilDiv e.len 64) = slotImage e x (satInc s.frm.count).toNat ∧
        (∀ a : Nat, a < e.slotAddr ∨ e.slotAddr + 64 + 64 * ceilDiv e.len 64 ≤ a → t.peekMem q a = s.peekMem q a)) ∧
      ((s.plot q).plt.state ≠ .idle → (s.plot q).plt.state ≠ .running → t.mem = s.mem))

/-- Sequence numbers decide, designated messages tick, ticks latch the entries. -/
def Obligations.IngestEntriesFollowMessages : Prop :=
  sequenceDecides ∧ designatedMessagesTick ∧ ticksLatchTheEntries

/-- The PF's LOAD puts SKT_TOKEN and SKT_KEY into the selected bank, and CLEAR empties it; no VF reaches them, and no bank but
the selected one changes (R321). -/
def keysLoadAndClear : Prop :=
  ∀ (s : State) (f : Fn), s.hostOk f = true →
    (f ≠ 0 → Gives (.sktKeyLoad f) s (fun t => t = { s with resp := {} }) ∧
      Gives (.sktKeyClear f) s (fun t => t = { s with resp := {} })) ∧
    (f = 0 →
      let n := keySel s 0
      Gives (.sktKeyLoad f) s (fun t =>
        t.skt.banks.lookup n = some { token := s.skt.token, key := s.skt.keyData.toList.flatMap (fun w => leBytes 4 w.toNat) } ∧
        (∀ k, k ≠ n → t.skt.banks.lookup k = s.skt.banks.lookup k) ∧ t = { s with resp := {}, skt := { s.skt with banks := t.skt.banks } }) ∧
      Gives (.sktKeyClear f) s (fun t => t.skt.banks.lookup n = none ∧
        (∀ k, k ≠ n → t.skt.banks.lookup k = s.skt.banks.lookup k) ∧ t = { s with resp := {}, skt := { s.skt with banks := t.skt.banks } }))

/-- A write of a cage's mode restarts its receiver and discards its FIFO uncounted; a locked cage that loses lock counts it in
DOWN_CNT (that the restart's loss counts too is the model's reading, log entry 241); a listening cage locks when its signal is there (R317). -/
def portsListen : Prop :=
  ∀ (s : State) (f : Fn) (c : Fin 2) (v : Word) (los modAbs : Bool),
    (s.hostOk f = true → f ≠ 0 → Gives (.portModeWrite f c v) s (fun t => t = { s with resp := {} })) ∧
    (s.hostOk 0 = true → Gives (.portModeWrite 0 c v) s (fun t =>
      t.skt.cages[c] = { s.skt.cages[c] with
        inv := v.getLsbD 4, mode := v.setWidth 2, lock := false,
        down := if s.skt.cages[c].lock then satInc s.skt.cages[c].down else s.skt.cages[c].down } ∧
      (∀ d : Fin 2, d ≠ c → t.skt.cages[d] = s.skt.cages[d]) ∧ t.skt.queue = s.skt.queue.filter (fun x => !(x.cage == c)) ∧
      t = { s with resp := {}, skt := { s.skt with cages := t.skt.cages, queue := t.skt.queue } })) ∧
    Gives (.portLossOfLock c los modAbs) s (fun t =>
      t.skt.cages[c] = { s.skt.cages[c] with
        los := los, modAbs := modAbs, lock := false,
        down := if s.skt.cages[c].lock then satInc s.skt.cages[c].down else s.skt.cages[c].down } ∧
      (∀ d : Fin 2, d ≠ c → t.skt.cages[d] = s.skt.cages[d]) ∧ t = { s with skt := { s.skt with cages := t.skt.cages } }) ∧
    Gives (.portLock c modAbs) s (fun t =>
      t.skt.cages[c] = { s.skt.cages[c] with los := false, modAbs := modAbs, lock := t.skt.cages[c].lock } ∧
      (t.skt.cages[c].lock = true ↔ s.isReady = true ∧ (s.skt.cages[c].mode = 1 ∨ s.skt.cages[c].mode = 2)) ∧
      (∀ d : Fin 2, d ≠ c → t.skt.cages[d] = s.skt.cages[d]) ∧ t = { s with skt := { s.skt with cages := t.skt.cages } })

/-- The listen port checks frames, in order. -/
def Obligations.ListenPortChecksFrames : Prop :=
  framesAreChecked ∧ lengthChecksComeFirst ∧ checksCompleteInOrder ∧ keysLoadAndClear ∧ portsListen
end

