-- ==== Sys2Proof/Laws/Memory.lean ====
section
/-!
SUPPORT. Sys2Proof/Laws/Memory.lean: memory operations keep the canonical form, and what a read gives after a write.
-/
namespace Sys2Proof.Machine

/-! ### The canonical form -/

theorem cellsAbove_mono {lo hi : Nat} {m : List Host.Cell} (h : cellsAbove hi m = true) (le : lo ≤ hi) :
    cellsAbove lo m = true := by
  cases m with
  | nil => rfl
  | cons c m => simp only [cellsAbove, Bool.and_eq_true, decide_eq_true_eq] at h ⊢; exact ⟨⟨by omega, h.1.2⟩, h.2⟩

theorem cellsAbove_cellPut {lo : Nat} {m : List Host.Cell} {a : Nat} {b : Byte} (h : cellsAbove lo m = true)
    (le : lo ≤ a) : cellsAbove lo (cellPut m a b) = true := by
  induction m generalizing lo with
  | nil =>
    unfold cellPut
    split
    · rfl
    · rename_i hb
      simp only [cellsAbove, Bool.and_eq_true, decide_eq_true_eq, Bool.not_eq_true', beq_eq_false_iff_ne]
      exact ⟨⟨le, hb⟩, trivial⟩
  | cons c m ih =>
    obtain ⟨x, y⟩ := c
    simp only [cellsAbove, Bool.and_eq_true, decide_eq_true_eq] at h
    unfold cellPut
    split
    · split
      · simp only [cellsAbove, Bool.and_eq_true, decide_eq_true_eq]; exact h
      · rename_i hlt hb
        simp only [cellsAbove, Bool.and_eq_true, decide_eq_true_eq, Bool.not_eq_true', beq_eq_false_iff_ne]
        exact ⟨⟨le, hb⟩, ⟨by omega, by simpa using h.1.2⟩, h.2⟩
    · split
      · rename_i hlt heq
        subst heq
        split
        · exact cellsAbove_mono h.2 (by omega)
        · rename_i hb
          simp only [cellsAbove, Bool.and_eq_true, decide_eq_true_eq, Bool.not_eq_true', beq_eq_false_iff_ne]
          exact ⟨⟨le, hb⟩, h.2⟩
      · rename_i hlt hne
        simp only [cellsAbove, Bool.and_eq_true, decide_eq_true_eq]
        exact ⟨h.1, ih h.2 (by omega)⟩

theorem cellsAbove_filter {lo : Nat} {m : List Host.Cell} (f : Host.Cell → Bool) (h : cellsAbove lo m = true) :
    cellsAbove lo (m.filter f) = true := by
  induction m generalizing lo with
  | nil => rfl
  | cons c m ih =>
    obtain ⟨x, y⟩ := c
    simp only [cellsAbove, Bool.and_eq_true, decide_eq_true_eq] at h
    rw [List.filter_cons]
    split
    · simp only [cellsAbove, Bool.and_eq_true, decide_eq_true_eq]; exact ⟨h.1, ih h.2⟩
    · exact cellsAbove_mono (ih h.2) (by omega)

/-- Writing one byte keeps the canonical form. -/
theorem wf_cellPut {m : List Host.Cell} (h : Memory.wf m = true) (a : Nat) (b : Byte) : Memory.wf (cellPut m a b) = true :=
  cellsAbove_cellPut h (Nat.zero_le _)

/-- Writing a run of bytes keeps it. -/
theorem wf_cellPutMany {m : List Host.Cell} (h : Memory.wf m = true) (a : Nat) (bs : List Byte) :
    Memory.wf (cellPutMany m a bs) = true := by
  induction bs generalizing m a with
  | nil => exact h
  | cons b bs ih => exact ih (wf_cellPut h a b) (a + 1)

/-- Zeroing a range keeps it. -/
theorem wf_cellClear {m : List Host.Cell} (h : Memory.wf m = true) (lo hi : Nat) : Memory.wf (cellClear m lo hi) = true :=
  cellsAbove_filter _ h

/-- Replacing originals by a job's copies keeps it. -/
theorem wf_applyOver {m : List Host.Cell} (h : Memory.wf m = true) (o : List Host.Cell) : Memory.wf (applyOver m o) = true := by
  unfold applyOver
  induction o generalizing m with
  | nil => exact h
  | cons c o ih => exact ih (wf_cellPut h c.1 c.2)

/-- Replacing whole pages by a job's copies of them keeps it. -/
theorem wf_replacePages {m : List Host.Cell} (h : Memory.wf m = true) (q : PlotId) (j : Job) (pages : List Nat) :
    Memory.wf (replacePages m q j pages) = true := by
  unfold replacePages
  induction pages generalizing m with
  | nil => exact h
  | cons p ps ih => exact ih (wf_applyOver (wf_cellClear h _ _) _)

/-- Empty memory has it. -/
theorem wf_nil : Memory.wf [] = true := rfl

/-! ### Reads after writes -/

theorem cellGet_below {lo : Nat} {m : List Host.Cell} (h : cellsAbove lo m = true) {a : Nat} (lt : a < lo) : cellGet m a = 0 := by
  induction m generalizing lo with
  | nil => rfl
  | cons c m ih =>
    obtain ⟨x, y⟩ := c
    simp only [cellsAbove, Bool.and_eq_true, decide_eq_true_eq] at h
    have hx : a ≠ x := by omega
    simp only [cellGet, hx, if_false]
    exact ih h.2 (by omega)

theorem cellsAbove_get {lo : Nat} {m : List Host.Cell} {a : Nat} {b : Byte} (h : cellsAbove lo m = true) (k : Nat) :
    cellGet (cellPut m a b) k = if k = a then b else cellGet m k := by
  induction m generalizing lo with
  | nil =>
    unfold cellPut
    split
    · rename_i hb; subst hb; simp [cellGet]
    · rfl
  | cons c m ih =>
    obtain ⟨x, y⟩ := c
    simp only [cellsAbove, Bool.and_eq_true, decide_eq_true_eq] at h
    unfold cellPut
    split
    · rename_i hlt
      split
      · rename_i hb
        subst hb
        by_cases hk : k = a
        · subst hk
          have hkx : k ≠ x := by omega
          simp [cellGet, hkx, cellGet_below h.2 (show k < x + 1 by omega)]
        · simp [hk]
      · simp [cellGet]
    · split
      · rename_i hlt heq
        subst heq
        split
        · rename_i hb
          subst hb
          by_cases hk : k = a
          · subst hk; simp [cellGet_below h.2 (Nat.lt_succ_self _)]
          · simp [cellGet, hk]
        · by_cases hk : k = a <;> simp [cellGet, hk]
      · rename_i hlt hne
        by_cases hx : k = x
        · subst hx
          have : k ≠ a := fun e => hne e.symm
          simp [cellGet, this]
        · simp only [cellGet, hx, if_false]; exact ih h.2

/-- A byte reads as the last write to its address left it, every other as before. -/
theorem cellGet_cellPut {m : List Host.Cell} (h : Memory.wf m = true) (a k : Nat) (b : Byte) :
    cellGet (cellPut m a b) k = if k = a then b else cellGet m k := cellsAbove_get h k

/-- A run of bytes leaves every byte outside it. -/
theorem cellGet_cellPutMany_outside {m : List Host.Cell} (h : Memory.wf m = true) (a : Nat) (bs : List Byte) {k : Nat}
    (out : k < a ∨ a + bs.length ≤ k) : cellGet (cellPutMany m a bs) k = cellGet m k := by
  induction bs generalizing m a with
  | nil => rfl
  | cons b bs ih =>
    simp only [List.length_cons] at out
    rw [cellPutMany, ih (wf_cellPut h a b) (a + 1) (by omega), cellGet_cellPut h]
    rw [if_neg (by omega)]

/-- A run of bytes reads back. -/
theorem cellGet_cellPutMany_inside {m : List Host.Cell} (h : Memory.wf m = true) (a : Nat) (bs : List Byte) {i : Nat}
    (lt : i < bs.length) : cellGet (cellPutMany m a bs) (a + i) = bs[i] := by
  induction bs generalizing m a i with
  | nil => exact absurd lt (Nat.not_lt_zero _)
  | cons b bs ih =>
    rw [cellPutMany]
    cases i with
    | zero =>
      show cellGet _ a = b
      rw [cellGet_cellPutMany_outside (wf_cellPut h a b) (a + 1) bs (Or.inl (Nat.lt_succ_self a)),
        cellGet_cellPut h, if_pos rfl]
    | succ i =>
      have e : a + (i + 1) = a + 1 + i := by omega
      rw [e, ih (wf_cellPut h a b) (a + 1) (by simpa using lt)]
      simp

/-- Zeroed bytes read 0, every other as before. -/
theorem cellGet_cellClear (m : List Host.Cell) (lo hi k : Nat) :
    cellGet (cellClear m lo hi) k = if lo ≤ k ∧ k < hi then 0 else cellGet m k := by
  induction m with
  | nil => simp [cellClear, cellGet]
  | cons c m ih =>
    obtain ⟨x, y⟩ := c
    unfold cellClear at ih ⊢
    rw [List.filter_cons]
    by_cases hr : lo ≤ x ∧ x < hi
    · have : (!(decide (lo ≤ x) && decide (x < hi))) = false := by simp [hr.1, hr.2]
      simp only [this]
      by_cases hk : k = x
      · subst hk; simp only [Bool.false_eq_true, if_false, ih, cellGet]
        simp [hr]
      · simp only [Bool.false_eq_true, if_false, ih, cellGet, hk]
    · have : (!(decide (lo ≤ x) && decide (x < hi))) = true := by
        simp only [Bool.not_eq_true', Bool.and_eq_false_iff, decide_eq_false_iff_not]; omega
      simp only [this, if_true, cellGet]
      by_cases hk : k = x
      · subst hk; simp [hr]
      · simp only [hk, if_false]; exact ih

end Sys2Proof.Machine
end

