-- ==== Sys2Proof/Laws/Keeps.lean ====
section
/-!
SUPPORT. Sys2Proof/Laws/Keeps.lean: what a change that resets nothing leaves alone, or moves one way only: memory keeps its
form and the log its invariant, the queue, the epoch fuses and the epoch state stay, tag sequences and time do not fall, and
what has left the device has left; and which parts of the state it may write at all. The files Keeps<Group>.lean say so of
every operation over State, by name.
-/
namespace Sys2Proof.Machine

set_option Elab.async false
set_option linter.all false

/-! ### The parts of the state that an operation may write

A set of parts is a number: one bit for each field of State but the queue and the plots, in the order of Same's fields. -/

/-- The set `w` holds every part of the set `m`. -/
def Covers (w m : Nat) : Prop := ∀ i : Nat, m.testBit i = true → w.testBit i = true

theorem Covers.refl (w : Nat) : Covers w w := fun _ h => h

theorem Covers.of {w a b : Nat} (h : Covers w b) (hab : (b &&& a == a) = true) : Covers w a := by
  intro i hi
  apply h i
  have e : b &&& a = a := by simpa using hab
  have := congrArg (fun n => n.testBit i) e
  simp only [Nat.testBit_and, hi] at this
  simpa using this

theorem Covers.bit {w b : Nat} (h : Covers w b) (i : Nat) (hb : b.testBit i = true) : w.testBit i = true := h i hb

/-- Only parts in `w`, and of the plots only those of `P`, differ. -/
structure Same (w : Nat) (P : PlotId → Bool) (s t : State) : Prop where
  boot : w.testBit 0 = true ∨ t.boot = s.boot
  aux : w.testBit 1 = true ∨ t.aux = s.aux
  fuses : w.testBit 2 = true ∨ t.fuses = s.fuses
  frm : w.testBit 3 = true ∨ t.frm = s.frm
  pf : w.testBit 4 = true ∨ t.pf = s.pf
  fns : w.testBit 5 = true ∨ t.fns = s.fns
  hst : w.testBit 6 = true ∨ t.hst = s.hst
  cfg : w.testBit 7 = true ∨ t.cfg = s.cfg
  undo : w.testBit 8 = true ∨ t.undo = s.undo
  msh : w.testBit 9 = true ∨ t.msh = s.msh
  log : w.testBit 10 = true ∨ t.log = s.log
  att : w.testBit 11 = true ∨ t.att = s.att
  anl : w.testBit 12 = true ∨ t.anl = s.anl
  nse : w.testBit 13 = true ∨ t.nse = s.nse
  lanes : w.testBit 14 = true ∨ t.lanes = s.lanes
  devGraft : w.testBit 15 = true ∨ t.devGraft = s.devGraft
  mxes : w.testBit 16 = true ∨ t.mxes = s.mxes
  partials : w.testBit 17 = true ∨ t.partials = s.partials
  devMacs : w.testBit 18 = true ∨ t.devMacs = s.devMacs
  hccs : w.testBit 19 = true ∨ t.hccs = s.hccs
  hccTrap : w.testBit 20 = true ∨ t.hccTrap = s.hccTrap
  qces : w.testBit 21 = true ∨ t.qces = s.qces
  qceBytes : w.testBit 22 = true ∨ t.qceBytes = s.qceBytes
  qceTrap : w.testBit 23 = true ∨ t.qceTrap = s.qceTrap
  pwr : w.testBit 24 = true ∨ t.pwr = s.pwr
  skt : w.testBit 25 = true ∨ t.skt = s.skt
  mem : w.testBit 26 = true ∨ t.mem = s.mem
  out : w.testBit 27 = true ∨ t.out = s.out
  resp : w.testBit 28 = true ∨ t.resp = s.resp
  free : w.testBit 29 = true ∨ t.free = s.free
  plots : (∀ q : PlotId, P q = true) ∨ ∀ q : PlotId, P q = false → t.plots[q] = s.plots[q]

theorem Same.refl (w : Nat) (P : PlotId → Bool) (s : State) : Same w P s s := by
  constructor <;> first | exact .inr rfl | exact .inr (fun _ _ => rfl)

/-- Two changes of one part. -/
theorem part_trans {α : Type} {b : Prop} {x y z : α} (h : b ∨ y = x) (k : b ∨ z = y) : b ∨ z = x :=
  h.elim .inl (fun e => k.elim .inl (fun f => .inr (f.trans e)))

theorem Same.trans {w : Nat} {P : PlotId → Bool} {a b c : State} (h : Same w P a b) (k : Same w P b c) : Same w P a c where
  boot := part_trans h.boot k.boot
  aux := part_trans h.aux k.aux
  fuses := part_trans h.fuses k.fuses
  frm := part_trans h.frm k.frm
  pf := part_trans h.pf k.pf
  fns := part_trans h.fns k.fns
  hst := part_trans h.hst k.hst
  cfg := part_trans h.cfg k.cfg
  undo := part_trans h.undo k.undo
  msh := part_trans h.msh k.msh
  log := part_trans h.log k.log
  att := part_trans h.att k.att
  anl := part_trans h.anl k.anl
  nse := part_trans h.nse k.nse
  lanes := part_trans h.lanes k.lanes
  devGraft := part_trans h.devGraft k.devGraft
  mxes := part_trans h.mxes k.mxes
  partials := part_trans h.partials k.partials
  devMacs := part_trans h.devMacs k.devMacs
  hccs := part_trans h.hccs k.hccs
  hccTrap := part_trans h.hccTrap k.hccTrap
  qces := part_trans h.qces k.qces
  qceBytes := part_trans h.qceBytes k.qceBytes
  qceTrap := part_trans h.qceTrap k.qceTrap
  pwr := part_trans h.pwr k.pwr
  skt := part_trans h.skt k.skt
  mem := part_trans h.mem k.mem
  out := part_trans h.out k.out
  resp := part_trans h.resp k.resp
  free := part_trans h.free k.free
  plots := h.plots.elim .inl (fun e => k.plots.elim .inl (fun f => .inr (fun q hq => (f q hq).trans (e q hq))))

/-- What every operation that is no reset keeps of the state `s` it started from. -/
structure Keeps (w : Nat) (P : PlotId → Bool) (s t : State) : Prop where
  same : Same w P s t
  mem : MemInv s → MemInv t
  log : LogInv s → LogInv t
  pending : t.pending = s.pending
  blown : t.fuses.blown = s.fuses.blown
  cold : t.aux.coldFlag = s.aux.coldFlag
  epoch : t.aux.epochState = s.aux.epochState
  seq : ∀ q : PlotId, s.aux.pseq[q] ≤ t.aux.pseq[q]
  time : s.boot.tclk ≤ t.boot.tclk
  out : s.out <+: t.out

theorem Keeps.refl {w : Nat} {P : PlotId → Bool} (s : State) : Keeps w P s s :=
  ⟨Same.refl w P s, id, id, rfl, rfl, rfl, rfl, fun _ => BitVec.le_refl _, Nat.le_refl _, List.prefix_refl _⟩

theorem Keeps.trans {w : Nat} {P : PlotId → Bool} {a b c : State} (h : Keeps w P a b) (k : Keeps w P b c) : Keeps w P a c :=
  ⟨h.same.trans k.same, k.mem ∘ h.mem, k.log ∘ h.log, k.pending.trans h.pending, k.blown.trans h.blown, k.cold.trans h.cold,
   k.epoch.trans h.epoch, fun q => BitVec.le_trans (h.seq q) (k.seq q), Nat.le_trans h.time k.time, h.out.trans k.out⟩

/-- A change of fields the other clauses do not speak of keeps. -/
theorem Keeps.upd {w : Nat} {P : PlotId → Bool} {a s : State} {boot : BootState} {aux : AuxState} {fuses : FuseState} {frm : FrmState} {pf : PfState} {fns : Vector FnState 65} {hst : HstState} {plots : Vector Plot 65} {cfg : CfgState} {undo : Option Undo} {msh : MshState} {att : AttState} {anl : AnState0} {nse : NseState} {lanes : Vector FlashLane 8} {devGraft : Word64} {mxes : Vector MxeEngine 16} {partials : List Partial} {devMacs : Nat} {hccs : Vector HccCluster 16} {hccTrap : Word} {qces : Vector QceEngine 4} {qceBytes : Word64} {qceTrap : Word} {pwr : PwrState} {skt : SktState} {resp : Response} {free : Nat}
    (h : Keeps w P a s) (hb : fuses.blown = s.fuses.blown) (hc : aux.coldFlag = s.aux.coldFlag)
    (he : aux.epochState = s.aux.epochState) (hs : aux.pseq = s.aux.pseq) (ht : boot.tclk = s.boot.tclk)
    (hw : Same w P s (State.mk s.pending boot aux fuses frm pf fns hst plots cfg undo msh s.log att anl nse lanes devGraft mxes partials devMacs hccs hccTrap qces qceBytes qceTrap pwr skt s.mem s.out resp free) := by
      constructor <;> first | exact .inr rfl | exact .inr (fun _ _ => rfl) | exact .inl (Covers.bit (by assumption) _ (by decide)) |
        exact .inl (by assumption)) :
    Keeps w P a (State.mk s.pending boot aux fuses frm pf fns hst plots cfg undo msh s.log att anl nse lanes devGraft mxes partials devMacs hccs hccTrap qces qceBytes qceTrap pwr skt s.mem s.out resp free) := by
  refine h.trans ⟨hw, id, id, rfl, hb, hc, he, ?_, ?_, List.prefix_refl _⟩
  · intro q
    show s.aux.pseq[q] ≤ aux.pseq[q]
    rw [hs]; exact BitVec.le_refl _
  · show s.boot.tclk ≤ boot.tclk
    exact Nat.le_of_eq ht.symm

theorem Keeps.foldl {w : Nat} {P : PlotId → Bool} {a s : State} {α : Type} {f : State → α → State} {l : List α}
    (h : Keeps w P a s) (hf : ∀ t x, Keeps w P a t → Keeps w P a (f t x)) : Keeps w P a (l.foldl f s) := by
  induction l generalizing s with
  | nil => exact h
  | cons x l ih => exact ih (hf s x h)

theorem Keeps.eachPlot {w : Nat} {P : PlotId → Bool} {a s : State} {f : State → PlotId → State} {l : List PlotId}
    (h : Keeps w P a s) (hf : ∀ t x, Keeps w P a t → Keeps w P a (f t x)) : Keeps w P a (s.eachPlot l f) := h.foldl hf

theorem Keeps.of_snd {w : Nat} {P : PlotId → Bool} {a s : State} {α : Type} {p : α × State} {x : α} (e : p = (x, s))
    (h : Keeps w P a p.2) : Keeps w P a s := by
  subst e; exact h
theorem Keeps.of_fst {w : Nat} {P : PlotId → Bool} {a s : State} {α : Type} {p : State × α} {x : α} (e : p = (s, x))
    (h : Keeps w P a p.1) : Keeps w P a s := by
  subst e; exact h

theorem Keeps.withMem {w : Nat} {P : PlotId → Bool} {s0 s : State} (h : Keeps w P s0 s) (m : List Host.Cell)
    (hm : Memory.wf s.mem = true → Memory.wf m = true) (hw : Covers w 67108864 := by exact Covers.of (by assumption) (by decide)) :
    Keeps w P s0 { s with mem := m } := by
  refine h.trans ⟨?_, hm, id, rfl, rfl, rfl, rfl, fun _ => BitVec.le_refl _, Nat.le_refl _, List.prefix_refl _⟩
  constructor <;> first | exact .inr rfl | exact .inr (fun _ _ => rfl) | exact .inl (hw.bit _ (by decide))

theorem Keeps.withLog {w : Nat} {P : PlotId → Bool} {s0 s : State} (h : Keeps w P s0 s) (l : LogState)
    (hl : LogInv s → LogInv { s with log := l }) (hw : Covers w 1024 := by exact Covers.of (by assumption) (by decide)) :
    Keeps w P s0 { s with log := l } := by
  refine h.trans ⟨?_, id, hl, rfl, rfl, rfl, rfl, fun _ => BitVec.le_refl _, Nat.le_refl _, List.prefix_refl _⟩
  constructor <;> first | exact .inr rfl | exact .inr (fun _ _ => rfl) | exact .inl (hw.bit _ (by decide))

/-- A change of one plot. -/
theorem Keeps.withPlot {w : Nat} {P : PlotId → Bool} {s0 s : State} (h : Keeps w P s0 s) (q : PlotId) (x : Plot)
    (hq : P q = true) : Keeps w P s0 { s with plots := s.plots.set q x } := by
  refine h.trans ⟨?_, id, id, rfl, rfl, rfl, rfl, fun _ => BitVec.le_refl _, Nat.le_refl _, List.prefix_refl _⟩
  constructor
  case plots =>
    refine .inr (fun p hp => ?_)
    have e : q.val ≠ p.val := fun e => by
      have : q = p := Fin.ext e
      subst this
      simp [hq] at hp
    show (s.plots.set q x)[p] = _
    simp only [Fin.getElem_fin, Vector.getElem_set_ne _ _ e]
  all_goals exact .inr rfl

theorem satInc_toNat {w : Nat} (x : BitVec w) : (satInc x).toNat = min (x.toNat + 1) (2 ^ w - 1) := by
  have := Nat.one_le_two_pow (n := w)
  unfold satInc satAdd
  rw [BitVec.toNat_ofNat, Nat.mod_eq_of_lt (by omega)]

/-- A new line keeps the log's invariant: SEQ is LOG_NEXT, which then advances, and a full log drops its oldest line. -/
theorem logInv_line {s : State} {l : LogState} {line : LogLine} (h : LogInv s) (hs : line.seq = s.log.next.toNat)
    (hn : l.next = satInc s.log.next) (ha : l.ack = s.log.ack)
    (hl : l.lines = line :: (if 8192 ≤ s.log.lines.length then s.log.lines.dropLast else s.log.lines)) :
    LogInv { s with log := l } := by
  obtain ⟨len, seqs, ack⟩ := h
  have top : (BitVec.allOnes 64).toNat = 2 ^ 64 - 1 := by decide
  have inc := satInc_toNat s.log.next
  have lt := s.log.next.isLt
  have far : s.log.next = BitVec.allOnes 64 → l.next = BitVec.allOnes 64 := by
    intro e; apply BitVec.eq_of_toNat_eq; rw [hn, inc, top, e, top]; decide
  have max : ¬ s.log.next.toNat < l.next.toNat → l.next = BitVec.allOnes 64 := by
    intro e; apply BitVec.eq_of_toNat_eq; rw [hn, inc] at e; rw [hn, inc, top]; omega
  refine ⟨?_, ?_, ?_⟩
  · show l.lines.length ≤ 8192
    rw [hl]; split <;> simp [List.length_dropLast] <;> omega
  · intro x hx
    change x ∈ l.lines at hx
    show x.seq < l.next.toNat ∨ _
    rw [hl] at hx
    have old : x ∈ s.log.lines → x.seq < l.next.toNat ∨ l.next = BitVec.allOnes 64 := by
      intro m
      rcases seqs x m with g | g
      · left; rw [hn, inc]; omega
      · exact Or.inr (far g)
    rcases List.mem_cons.mp hx with rfl | m
    · by_cases e : s.log.next.toNat < l.next.toNat
      · left; rw [hs]; exact e
      · exact Or.inr (max e)
    · apply old
      split at m
      · exact List.dropLast_subset _ m
      · exact m
  · show l.ack = 0 ∨ l.ack < l.next
    rw [ha]
    rcases ack with g | g
    · exact Or.inl g
    · right
      rw [BitVec.lt_def] at g ⊢
      rw [hn, inc]; omega

end Sys2Proof.Machine
end

