-- ==== Sys2Proof/Laws/KeepsOps.lean ====
section
/-!
SUPPORT. Sys2Proof/Laws/KeepsOps.lean: the operations over memory, host writes, interrupts and log lines, slices, plot states and faults keep what Keeps says.
-/
namespace Sys2Proof.Machine

set_option Elab.async false
set_option linter.all false

/-! ### Sys2Proof/Machine/Memory.lean -/

theorem State.pokeMem_keeps {w : Nat} {P : PlotId → Bool} {s0 s : State} (h : Keeps w P s0 s) (q : PlotId) (a : Nat) (bs : List Byte) (hw : Covers w 67108864 := by exact Covers.of (by assumption) (by decide)) :
    Keeps w P s0 (s.pokeMem q a bs) := h.withMem _ (fun w => wf_cellPutMany w _ _)

theorem State.wipeMem_keeps {w : Nat} {P : PlotId → Bool} {s0 s : State} (h : Keeps w P s0 s) (q : PlotId) (lo hi : Nat) (hw : Covers w 67108864 := by exact Covers.of (by assumption) (by decide)) :
    Keeps w P s0 (s.wipeMem q lo hi) := h.withMem _ (fun w => wf_cellClear w _ _)

/-! ### Sys2Proof/Machine/Ops.lean -/

theorem State.modPlot_keeps {w : Nat} {P : PlotId → Bool} {s0 s : State} (q : PlotId) (f : Plot → Plot) (hK : Keeps w P s0 s)
    (hP : P q = true := by first | assumption | exact ‹∀ q, P q = true› _) : Keeps w P s0 (State.modPlot s q f) :=
  hK.withPlot q _ hP

theorem State.modPlt_keeps {w : Nat} {P : PlotId → Bool} {s0 s : State} (q : PlotId) (f : PltSet → PltSet) (hK : Keeps w P s0 s) (hP : P q = true := by first | assumption | exact ‹∀ q, P q = true› _) :
    Keeps w P s0 (State.modPlt s q f) := by
  unfold State.modPlt
  repeat' first
    | with_reducible assumption
    | with_reducible apply Same.mk
    | with_reducible exact .inr rfl
    | exact .inr (fun _ _ => rfl)
    | intro x
    | with_reducible exact Keeps.refl _
    | with_reducible apply State.modPlot_keeps
    | with_reducible apply Keeps.upd
    | exact rfl

theorem State.modMsh_keeps {w : Nat} {P : PlotId → Bool} {s0 s : State} (q : PlotId) (f : MshSet → MshSet) (hK : Keeps w P s0 s) (hP : P q = true := by first | assumption | exact ‹∀ q, P q = true› _) :
    Keeps w P s0 (State.modMsh s q f) := by
  unfold State.modMsh
  repeat' first
    | with_reducible assumption
    | with_reducible apply Same.mk
    | with_reducible exact .inr rfl
    | exact .inr (fun _ _ => rfl)
    | intro x
    | with_reducible exact Keeps.refl _
    | with_reducible apply State.modPlot_keeps
    | with_reducible apply Keeps.upd
    | exact rfl

theorem State.modCfgSet_keeps {w : Nat} {P : PlotId → Bool} {s0 s : State} (q : PlotId) (f : CfgSet → CfgSet) (hK : Keeps w P s0 s) (hP : P q = true := by first | assumption | exact ‹∀ q, P q = true› _) :
    Keeps w P s0 (State.modCfgSet s q f) := by
  unfold State.modCfgSet
  repeat' first
    | with_reducible assumption
    | with_reducible apply Same.mk
    | with_reducible exact .inr rfl
    | exact .inr (fun _ _ => rfl)
    | intro x
    | with_reducible exact Keeps.refl _
    | with_reducible apply State.modPlot_keeps
    | with_reducible apply Keeps.upd
    | exact rfl

theorem State.modFn_keeps {w : Nat} {P : PlotId → Bool} {s0 s : State} (h : Keeps w P s0 s) (f : Fn) (g : FnState → FnState)
    (hw : Covers w 32 := by exact Covers.of (by assumption) (by decide)) : Keeps w P s0 (s.modFn f g) :=
  Keeps.upd h rfl rfl rfl rfl rfl

theorem State.modFrm_keeps {w : Nat} {P : PlotId → Bool} {s0 s : State} (h : Keeps w P s0 s) (g : FrmState → FrmState)
    (hw : Covers w 8 := by exact Covers.of (by assumption) (by decide)) : Keeps w P s0 (s.modFrm g) :=
  Keeps.upd h rfl rfl rfl rfl rfl

theorem State.modAtt_keeps {w : Nat} {P : PlotId → Bool} {s0 s : State} (q : PlotId) (g : AttSet → AttSet) (hK : Keeps w P s0 s) (hw : Covers w 2048 := by exact Covers.of (by assumption) (by decide)) :
    Keeps w P s0 (State.modAtt s q g) := by
  unfold State.modAtt
  repeat' first
    | with_reducible assumption
    | with_reducible exact Covers.of hw (by decide)
    | with_reducible apply Same.mk
    | with_reducible exact .inr rfl
    | exact .inl (hw.bit _ (by decide))
    | exact .inr (fun _ _ => rfl)
    | intro x
    | with_reducible exact Keeps.refl _
    | with_reducible apply Keeps.upd
    | exact rfl

theorem State.advanceTo_keeps {w : Nat} {P : PlotId → Bool} {s0 s : State} (h : Keeps w P s0 s) (t : Nat)
    (hw : Covers w 1 := by exact Covers.of (by assumption) (by decide)) : Keeps w P s0 (s.advanceTo t) := by
  refine h.trans ⟨?_, id, id, rfl, rfl, rfl, rfl, fun _ => BitVec.le_refl _, Nat.le_max_left _ _, List.prefix_refl _⟩
  constructor <;> first | exact .inr rfl | exact .inr (fun _ _ => rfl) | exact .inl (hw.bit _ (by decide))

theorem State.takeFree_keeps {w : Nat} {P : PlotId → Bool} {s0 s : State} (h : Keeps w P s0 s)
    (hw : Covers w 536870912 := by exact Covers.of (by assumption) (by decide)) : Keeps w P s0 s.takeFree.2 :=
  Keeps.upd h rfl rfl rfl rfl rfl

theorem State.emit_keeps {w : Nat} {P : PlotId → Bool} {s0 s : State} (h : Keeps w P s0 s) (e : OutEvent)
    (hw : Covers w 134217728 := by exact Covers.of (by assumption) (by decide)) : Keeps w P s0 (s.emit e) := by
  refine h.trans ⟨?_, id, id, rfl, rfl, rfl, rfl, fun _ => BitVec.le_refl _, Nat.le_refl _, List.prefix_append _ _⟩
  constructor <;> first | exact .inr rfl | exact .inr (fun _ _ => rfl) | exact .inl (hw.bit _ (by decide))

theorem State.hostWrite_keeps {w : Nat} {P : PlotId → Bool} {s0 s : State} (f : Fn) (addr : Nat) (data : List Byte) (relaxed : Bool) (hK : Keeps w P s0 s) (hw : Covers w 134217728 := by exact Covers.of (by assumption) (by decide)) :
    Keeps w P s0 (State.hostWrite s f addr data relaxed) := by
  unfold State.hostWrite
  repeat' first
    | with_reducible assumption
    | with_reducible exact Covers.of hw (by decide)
    | intro x
    | with_reducible exact Keeps.refl _
    | with_reducible apply State.emit_keeps
    | split

theorem State.hostRead_keeps {w : Nat} {P : PlotId → Bool} {s0 s : State} (q : PlotId) (u : DmaUser) (addr len : Nat) (hK : Keeps w P s0 s) (hw : Covers w 134217792 := by exact Covers.of (by assumption) (by decide)) :
    Keeps w P s0 (State.hostRead s q u addr len) := by
  unfold State.hostRead
  repeat' first
    | with_reducible assumption
    | with_reducible exact Covers.of hw (by decide)
    | with_reducible apply Same.mk
    | with_reducible exact .inr rfl
    | exact .inl (hw.bit _ (by decide))
    | exact .inr (fun _ _ => rfl)
    | intro x
    | with_reducible exact Keeps.refl _
    | with_reducible apply State.emit_keeps
    | with_reducible apply Keeps.upd
    | exact rfl

theorem State.aerError_keeps {w : Nat} {P : PlotId → Bool} {s0 s : State} (f : Fn) (bit : Nat) (hK : Keeps w P s0 s) (hw : Covers w 671088672 := by exact Covers.of (by assumption) (by decide)) :
    Keeps w P s0 (State.aerError s f bit) := by
  unfold State.aerError
  repeat' first
    | with_reducible assumption
    | with_reducible exact Covers.of hw (by decide)
    | with_reducible apply Same.mk
    | with_reducible exact .inr rfl
    | exact .inl (hw.bit _ (by decide))
    | exact .inr (fun _ _ => rfl)
    | (intro x; have hx : Keeps w P s0 x := by { dsimp only [x]; repeat' first
          | with_reducible assumption
          | with_reducible exact Covers.of hw (by decide)
          | with_reducible apply Same.mk
          | with_reducible exact .inr rfl
          | exact .inl (hw.bit _ (by decide))
          | exact .inr (fun _ _ => rfl)
          | with_reducible exact Keeps.refl _
          | with_reducible apply State.modFn_keeps
          | with_reducible apply State.takeFree_keeps
          | with_reducible apply State.emit_keeps
          | refine Keeps.of_snd (by assumption) ?_
          | split
          | with_reducible apply Keeps.upd
          | exact rfl
          | intro y
          | lift_lets }; clear_value x)
    | intro x
    | with_reducible exact Keeps.refl _
    | with_reducible apply State.modFn_keeps
    | with_reducible apply State.takeFree_keeps
    | with_reducible apply State.emit_keeps
    | refine Keeps.of_snd (by assumption) ?_
    | split
    | with_reducible apply Keeps.upd
    | exact rfl
    | lift_lets

theorem State.aerCorrectable_keeps {w : Nat} {P : PlotId → Bool} {s0 s : State} (f : Fn) (bit : Nat) (hK : Keeps w P s0 s) (hw : Covers w 134217760 := by exact Covers.of (by assumption) (by decide)) :
    Keeps w P s0 (State.aerCorrectable s f bit) := by
  unfold State.aerCorrectable
  repeat' first
    | with_reducible assumption
    | with_reducible exact Covers.of hw (by decide)
    | with_reducible apply Same.mk
    | with_reducible exact .inr rfl
    | exact .inl (hw.bit _ (by decide))
    | exact .inr (fun _ _ => rfl)
    | (intro x; have hx : Keeps w P s0 x := by { dsimp only [x]; repeat' first
          | with_reducible assumption
          | with_reducible exact Covers.of hw (by decide)
          | with_reducible apply Same.mk
          | with_reducible exact .inr rfl
          | exact .inl (hw.bit _ (by decide))
          | exact .inr (fun _ _ => rfl)
          | with_reducible exact Keeps.refl _
          | with_reducible apply State.modFn_keeps
          | with_reducible apply State.emit_keeps
          | split
          | with_reducible apply Keeps.upd
          | exact rfl
          | intro y
          | lift_lets }; clear_value x)
    | intro x
    | with_reducible exact Keeps.refl _
    | with_reducible apply State.modFn_keeps
    | with_reducible apply State.emit_keeps
    | split
    | with_reducible apply Keeps.upd
    | exact rfl
    | lift_lets

theorem State.sendVector_keeps {w : Nat} {P : PlotId → Bool} {s0 s : State} (f : Fn) (v : Fin 32) (hK : Keeps w P s0 s) (hw : Covers w 134217760 := by exact Covers.of (by assumption) (by decide)) :
    Keeps w P s0 (State.sendVector s f v) := by
  unfold State.sendVector
  repeat' first
    | with_reducible assumption
    | with_reducible exact Covers.of hw (by decide)
    | with_reducible apply Same.mk
    | with_reducible exact .inr rfl
    | exact .inl (hw.bit _ (by decide))
    | exact .inr (fun _ _ => rfl)
    | (intro x; have hx : Keeps w P s0 x := by { dsimp only [x]; repeat' first
          | with_reducible assumption
          | with_reducible exact Covers.of hw (by decide)
          | with_reducible apply Same.mk
          | with_reducible exact .inr rfl
          | exact .inl (hw.bit _ (by decide))
          | exact .inr (fun _ _ => rfl)
          | with_reducible exact Keeps.refl _
          | with_reducible apply State.modFn_keeps
          | with_reducible apply State.emit_keeps
          | split
          | with_reducible apply Keeps.upd
          | exact rfl
          | intro y
          | lift_lets }; clear_value x)
    | intro x
    | with_reducible exact Keeps.refl _
    | with_reducible apply State.modFn_keeps
    | with_reducible apply State.emit_keeps
    | split
    | with_reducible apply Keeps.upd
    | exact rfl
    | lift_lets

theorem State.sendVectors_keeps {w : Nat} {P : PlotId → Bool} {s0 s : State} (f : Fn) (vs : List (Fin 32)) (hK : Keeps w P s0 s) (hw : Covers w 134217760 := by exact Covers.of (by assumption) (by decide)) :
    Keeps w P s0 (State.sendVectors s f vs) := by
  unfold State.sendVectors
  repeat' first
    | with_reducible assumption
    | with_reducible exact Covers.of hw (by decide)
    | intro x
    | with_reducible exact Keeps.refl _
    | with_reducible apply State.sendVector_keeps
    | with_reducible apply Keeps.foldl

theorem State.releasePba_keeps {w : Nat} {P : PlotId → Bool} {s0 s : State} (f : Fn) (hK : Keeps w P s0 s) (hw : Covers w 134217760 := by exact Covers.of (by assumption) (by decide)) :
    Keeps w P s0 (State.releasePba s f) := by
  unfold State.releasePba
  repeat' first
    | with_reducible assumption
    | with_reducible exact Covers.of hw (by decide)
    | with_reducible apply Same.mk
    | with_reducible exact .inr rfl
    | exact .inl (hw.bit _ (by decide))
    | exact .inr (fun _ _ => rfl)
    | (intro x; have hx : Keeps w P s0 x := by { dsimp only [x]; repeat' first
          | with_reducible assumption
          | with_reducible exact Covers.of hw (by decide)
          | with_reducible apply Same.mk
          | with_reducible exact .inr rfl
          | exact .inl (hw.bit _ (by decide))
          | exact .inr (fun _ _ => rfl)
          | with_reducible exact Keeps.refl _
          | with_reducible apply State.modFn_keeps
          | with_reducible apply State.emit_keeps
          | with_reducible apply Keeps.foldl
          | split
          | with_reducible apply Keeps.upd
          | exact rfl
          | intro y
          | lift_lets }; clear_value x)
    | intro x
    | with_reducible exact Keeps.refl _
    | with_reducible apply State.modFn_keeps
    | with_reducible apply State.emit_keeps
    | with_reducible apply Keeps.foldl
    | split
    | with_reducible apply Keeps.upd
    | exact rfl
    | lift_lets

theorem State.raisePf_keeps {w : Nat} {P : PlotId → Bool} {s0 s : State} (c : Fin 15) (hK : Keeps w P s0 s) (hw : Covers w 134217776 := by exact Covers.of (by assumption) (by decide)) :
    Keeps w P s0 (State.raisePf s c) := by
  unfold State.raisePf
  repeat' first
    | with_reducible assumption
    | with_reducible exact Covers.of hw (by decide)
    | with_reducible apply Same.mk
    | with_reducible exact .inr rfl
    | exact .inl (hw.bit _ (by decide))
    | exact .inr (fun _ _ => rfl)
    | (intro x; have hx : Keeps w P s0 x := by { dsimp only [x]; repeat' first
          | with_reducible assumption
          | with_reducible exact Covers.of hw (by decide)
          | with_reducible apply Same.mk
          | with_reducible exact .inr rfl
          | exact .inl (hw.bit _ (by decide))
          | exact .inr (fun _ _ => rfl)
          | with_reducible exact Keeps.refl _
          | with_reducible apply State.sendVector_keeps
          | split
          | with_reducible apply Keeps.upd
          | exact rfl
          | intro y
          | lift_lets }; clear_value x)
    | intro x
    | with_reducible exact Keeps.refl _
    | with_reducible apply State.sendVector_keeps
    | split
    | with_reducible apply Keeps.upd
    | exact rfl
    | lift_lets

theorem State.raisePlot_keeps {w : Nat} {P : PlotId → Bool} {s0 s : State} (q : PlotId) (m : BitVec 13) (hK : Keeps w P s0 s) (hw : Covers w 134217760 := by exact Covers.of (by assumption) (by decide)) (hP : P q = true := by first | assumption | exact ‹∀ q, P q = true› _) :
    Keeps w P s0 (State.raisePlot s q m) := by
  unfold State.raisePlot
  repeat' first
    | with_reducible assumption
    | with_reducible exact Covers.of hw (by decide)
    | with_reducible apply Same.mk
    | with_reducible exact .inr rfl
    | exact .inl (hw.bit _ (by decide))
    | exact .inr (fun _ _ => rfl)
    | (intro x; have hx : Keeps w P s0 x := by { dsimp only [x]; repeat' first
          | with_reducible assumption
          | with_reducible exact Covers.of hw (by decide)
          | with_reducible apply Same.mk
          | with_reducible exact .inr rfl
          | exact .inl (hw.bit _ (by decide))
          | exact .inr (fun _ _ => rfl)
          | with_reducible exact Keeps.refl _
          | with_reducible apply State.modPlt_keeps
          | with_reducible apply State.sendVectors_keeps
          | with_reducible apply Keeps.upd
          | exact rfl
          | intro y
          | lift_lets }; clear_value x)
    | intro x
    | with_reducible exact Keeps.refl _
    | with_reducible apply State.modPlt_keeps
    | with_reducible apply State.sendVectors_keeps
    | with_reducible apply Keeps.upd
    | exact rfl
    | lift_lets

theorem State.logLine_keeps {w : Nat} {P : PlotId → Bool} {s0 s : State} (h : Keeps w P s0 s) (code plot : Nat) (node : Option NodeId)
    (arg0 arg1 : Nat) (hw : Covers w 134218800 := by exact Covers.of (by assumption) (by decide)) :
    Keeps w P s0 (s.logLine code plot node arg0 arg1) := by
  unfold State.logLine
  refine State.raisePf_keeps _ (Keeps.withLog h _ (fun i => ?_))
  refine logInv_line i (line := { seq := s.log.next.toNat, time := s.frmTime, code, plot, node, arg0, arg1 }) rfl ?_ ?_ ?_
  all_goals
    dsimp only
    split
    · split <;> simp only [decide_eq_true_eq]
    · simp only [decide_eq_true_eq]

theorem State.logSuppressed_keeps {w : Nat} {P : PlotId → Bool} {s0 s : State} (h : Keeps w P s0 s) (hw : Covers w 1024 := by exact Covers.of (by assumption) (by decide)) : Keeps w P s0 s.logSuppressed := h.withLog _ id

theorem State.frmEvent_keeps {w : Nat} {P : PlotId → Bool} {s0 s : State} (b : Fin 9) (hK : Keeps w P s0 s) (hw : Covers w 134218808 := by exact Covers.of (by assumption) (by decide)) :
    Keeps w P s0 (State.frmEvent s b) := by
  unfold State.frmEvent
  repeat' first
    | with_reducible assumption
    | with_reducible exact Covers.of hw (by decide)
    | with_reducible apply Same.mk
    | with_reducible exact .inr rfl
    | exact .inl (hw.bit _ (by decide))
    | exact .inr (fun _ _ => rfl)
    | (intro x; have hx : Keeps w P s0 x := by { dsimp only [x]; repeat' first
          | with_reducible assumption
          | with_reducible exact Covers.of hw (by decide)
          | with_reducible apply Same.mk
          | with_reducible exact .inr rfl
          | exact .inl (hw.bit _ (by decide))
          | exact .inr (fun _ _ => rfl)
          | with_reducible exact Keeps.refl _
          | with_reducible apply State.modFrm_keeps
          | with_reducible apply State.raisePf_keeps
          | with_reducible apply State.logLine_keeps
          | with_reducible apply State.logSuppressed_keeps
          | split
          | with_reducible apply Keeps.upd
          | exact rfl
          | intro y
          | lift_lets }; clear_value x)
    | intro x
    | with_reducible exact Keeps.refl _
    | with_reducible apply State.modFrm_keeps
    | with_reducible apply State.raisePf_keeps
    | with_reducible apply State.logLine_keeps
    | with_reducible apply State.logSuppressed_keeps
    | split
    | with_reducible apply Keeps.upd
    | exact rfl
    | lift_lets

theorem State.setPlotState_keeps {w : Nat} {P : PlotId → Bool} {s0 s : State} (q : PlotId) (st : PlotState) (hK : Keeps w P s0 s) (hw : Covers w 134217776 := by exact Covers.of (by assumption) (by decide)) (hP : P q = true := by first | assumption | exact ‹∀ q, P q = true› _) :
    Keeps w P s0 (State.setPlotState s q st) := by
  unfold State.setPlotState
  repeat' first
    | with_reducible assumption
    | with_reducible exact Covers.of hw (by decide)
    | with_reducible apply Same.mk
    | with_reducible exact .inr rfl
    | exact .inl (hw.bit _ (by decide))
    | exact .inr (fun _ _ => rfl)
    | (intro x; have hx : Keeps w P s0 x := by { dsimp only [x]; repeat' first
          | with_reducible assumption
          | with_reducible exact Covers.of hw (by decide)
          | with_reducible apply Same.mk
          | with_reducible exact .inr rfl
          | exact .inl (hw.bit _ (by decide))
          | exact .inr (fun _ _ => rfl)
          | with_reducible exact Keeps.refl _
          | with_reducible apply State.modPlt_keeps
          | with_reducible apply State.raisePf_keeps
          | with_reducible apply State.raisePlot_keeps
          | split
          | with_reducible apply Keeps.upd
          | exact rfl
          | intro y
          | lift_lets }; clear_value x)
    | intro x
    | with_reducible exact Keeps.refl _
    | with_reducible apply State.modPlt_keeps
    | with_reducible apply State.raisePf_keeps
    | with_reducible apply State.raisePlot_keeps
    | split
    | with_reducible apply Keeps.upd
    | exact rfl
    | lift_lets

theorem State.modJob_keeps {w : Nat} {P : PlotId → Bool} {s0 s : State} (q : PlotId) (i : BitVec 16) (f : Job → Job) (hK : Keeps w P s0 s) (hP : P q = true := by first | assumption | exact ‹∀ q, P q = true› _) :
    Keeps w P s0 (State.modJob s q i f) := by
  unfold State.modJob
  repeat' first
    | with_reducible assumption
    | with_reducible apply Same.mk
    | with_reducible exact .inr rfl
    | exact .inr (fun _ _ => rfl)
    | intro x
    | with_reducible exact Keeps.refl _
    | with_reducible apply State.modPlt_keeps
    | split
    | with_reducible apply Keeps.upd
    | exact rfl

/-! ### Sys2Proof/Machine/Fabric.lean -/

theorem State.modAn_keeps {w : Nat} {P : PlotId → Bool} {s0 s : State} (q : PlotId) (f : AnPlot → AnPlot) (hK : Keeps w P s0 s) (hP : P q = true := by first | assumption | exact ‹∀ q, P q = true› _) :
    Keeps w P s0 (State.modAn s q f) := by
  unfold State.modAn
  repeat' first
    | with_reducible assumption
    | with_reducible apply Same.mk
    | with_reducible exact .inr rfl
    | exact .inr (fun _ _ => rfl)
    | intro x
    | with_reducible exact Keeps.refl _
    | with_reducible apply State.modPlot_keeps
    | with_reducible apply Keeps.upd
    | exact rfl

theorem State.modMxeCnt_keeps {w : Nat} {P : PlotId → Bool} {s0 s : State} (q : PlotId) (f : MxeCnt → MxeCnt) (hK : Keeps w P s0 s) (hP : P q = true := by first | assumption | exact ‹∀ q, P q = true› _) :
    Keeps w P s0 (State.modMxeCnt s q f) := by
  unfold State.modMxeCnt
  repeat' first
    | with_reducible assumption
    | with_reducible apply Same.mk
    | with_reducible exact .inr rfl
    | exact .inr (fun _ _ => rfl)
    | intro x
    | with_reducible exact Keeps.refl _
    | with_reducible apply State.modPlot_keeps
    | with_reducible apply Keeps.upd
    | exact rfl

theorem countMacs_keeps {w : Nat} {P : PlotId → Bool} {s0 s : State} (q : PlotId) (n : Nat) (hK : Keeps w P s0 s) (hw : Covers w 262144 := by exact Covers.of (by assumption) (by decide)) (hP : P q = true := by first | assumption | exact ‹∀ q, P q = true› _) :
    Keeps w P s0 (countMacs s q n) := by
  unfold countMacs
  repeat' first
    | with_reducible assumption
    | with_reducible exact Covers.of hw (by decide)
    | with_reducible apply Same.mk
    | with_reducible exact .inr rfl
    | exact .inl (hw.bit _ (by decide))
    | exact .inr (fun _ _ => rfl)
    | intro x
    | with_reducible exact Keeps.refl _
    | with_reducible apply State.modMxeCnt_keeps
    | with_reducible apply Keeps.upd
    | exact rfl

theorem freezeAnneal_keeps {w : Nat} {P : PlotId → Bool} {s0 s : State} (q : PlotId) (j : Option Job) (hK : Keeps w P s0 s) (hP : P q = true := by first | assumption | exact ‹∀ q, P q = true› _) :
    Keeps w P s0 (freezeAnneal s q j) := by
  unfold freezeAnneal
  repeat' first
    | with_reducible assumption
    | with_reducible apply Same.mk
    | with_reducible exact .inr rfl
    | exact .inr (fun _ _ => rfl)
    | (intro x; have hx : Keeps w P s0 x := by { dsimp only [x]; repeat' first
          | with_reducible assumption
          | with_reducible apply Same.mk
          | with_reducible exact .inr rfl
          | exact .inr (fun _ _ => rfl)
          | with_reducible exact Keeps.refl _
          | with_reducible apply State.modAn_keeps
          | split
          | with_reducible apply Keeps.upd
          | exact rfl
          | intro y
          | lift_lets }; clear_value x)
    | intro x
    | with_reducible exact Keeps.refl _
    | with_reducible apply State.modAn_keeps
    | split
    | with_reducible apply Keeps.upd
    | exact rfl
    | lift_lets

/-! ### Sys2Proof/Machine/Clear.lean -/

theorem clearMeshJob_keeps {w : Nat} {P : PlotId → Bool} {s0 s : State} (q : PlotId) (i : BitVec 16) (hK : Keeps w P s0 s) (hw : Covers w 512 := by exact Covers.of (by assumption) (by decide)) :
    Keeps w P s0 (clearMeshJob s q i) := by
  unfold clearMeshJob
  repeat' first
    | with_reducible assumption
    | with_reducible exact Covers.of hw (by decide)
    | with_reducible apply Same.mk
    | with_reducible exact .inr rfl
    | exact .inl (hw.bit _ (by decide))
    | exact .inr (fun _ _ => rfl)
    | intro x
    | with_reducible exact Keeps.refl _
    | with_reducible apply Keeps.upd
    | exact rfl

theorem clearMeshPlot_keeps {w : Nat} {P : PlotId → Bool} {s0 s : State} (q : PlotId) (hK : Keeps w P s0 s) (hw : Covers w 512 := by exact Covers.of (by assumption) (by decide)) :
    Keeps w P s0 (clearMeshPlot s q) := by
  unfold clearMeshPlot
  repeat' first
    | with_reducible assumption
    | with_reducible exact Covers.of hw (by decide)
    | with_reducible apply Same.mk
    | with_reducible exact .inr rfl
    | exact .inl (hw.bit _ (by decide))
    | exact .inr (fun _ _ => rfl)
    | intro x
    | with_reducible exact Keeps.refl _
    | with_reducible apply Keeps.upd
    | exact rfl

theorem clearAnnealJob_keeps {w : Nat} {P : PlotId → Bool} {s0 s : State} (q : PlotId) (i : BitVec 16) (hK : Keeps w P s0 s) (hP : P q = true := by first | assumption | exact ‹∀ q, P q = true› _) :
    Keeps w P s0 (clearAnnealJob s q i) := by
  unfold clearAnnealJob
  repeat' first
    | with_reducible assumption
    | with_reducible apply Same.mk
    | with_reducible exact .inr rfl
    | exact .inr (fun _ _ => rfl)
    | intro x
    | with_reducible exact Keeps.refl _
    | with_reducible apply State.modPlot_keeps
    | split
    | with_reducible apply Keeps.upd
    | exact rfl

theorem clearFlashJob_keeps {w : Nat} {P : PlotId → Bool} {s0 s : State} (q : PlotId) (i : BitVec 16) (hK : Keeps w P s0 s) (hw : Covers w 16384 := by exact Covers.of (by assumption) (by decide)) (hP : P q = true := by first | assumption | exact ‹∀ q, P q = true› _) :
    Keeps w P s0 (clearFlashJob s q i) := by
  unfold clearFlashJob
  repeat' first
    | with_reducible assumption
    | with_reducible exact Covers.of hw (by decide)
    | with_reducible apply Same.mk
    | with_reducible exact .inr rfl
    | exact .inl (hw.bit _ (by decide))
    | exact .inr (fun _ _ => rfl)
    | (intro x; have hx : Keeps w P s0 x := by { dsimp only [x]; repeat' first
          | with_reducible assumption
          | with_reducible exact Covers.of hw (by decide)
          | with_reducible apply Same.mk
          | with_reducible exact .inr rfl
          | exact .inl (hw.bit _ (by decide))
          | exact .inr (fun _ _ => rfl)
          | with_reducible exact Keeps.refl _
          | with_reducible apply State.modPlot_keeps
          | split
          | with_reducible apply Keeps.upd
          | exact rfl
          | intro y
          | lift_lets }; clear_value x)
    | intro x
    | with_reducible exact Keeps.refl _
    | with_reducible apply State.modPlot_keeps
    | split
    | with_reducible apply Keeps.upd
    | exact rfl
    | lift_lets

theorem clearFlashPlot_keeps {w : Nat} {P : PlotId → Bool} {s0 s : State} (q : PlotId) (hK : Keeps w P s0 s) (hw : Covers w 16384 := by exact Covers.of (by assumption) (by decide)) (hP : P q = true := by first | assumption | exact ‹∀ q, P q = true› _) :
    Keeps w P s0 (clearFlashPlot s q) := by
  unfold clearFlashPlot
  repeat' first
    | with_reducible assumption
    | with_reducible exact Covers.of hw (by decide)
    | with_reducible apply Same.mk
    | with_reducible exact .inr rfl
    | exact .inl (hw.bit _ (by decide))
    | exact .inr (fun _ _ => rfl)
    | (intro x; have hx : Keeps w P s0 x := by { dsimp only [x]; repeat' first
          | with_reducible assumption
          | with_reducible exact Covers.of hw (by decide)
          | with_reducible apply Same.mk
          | with_reducible exact .inr rfl
          | exact .inl (hw.bit _ (by decide))
          | exact .inr (fun _ _ => rfl)
          | with_reducible exact Keeps.refl _
          | with_reducible apply State.modPlot_keeps
          | split
          | with_reducible apply Keeps.upd
          | exact rfl
          | intro y
          | lift_lets }; clear_value x)
    | intro x
    | with_reducible exact Keeps.refl _
    | with_reducible apply State.modPlot_keeps
    | split
    | with_reducible apply Keeps.upd
    | exact rfl
    | lift_lets

theorem resetLanes_keeps {w : Nat} {P : PlotId → Bool} {s0 s : State} (q : PlotId) (hK : Keeps w P s0 s) (hP : P q = true := by first | assumption | exact ‹∀ q, P q = true› _) :
    Keeps w P s0 (resetLanes s q) := by
  unfold resetLanes
  repeat' first
    | with_reducible assumption
    | with_reducible apply Same.mk
    | with_reducible exact .inr rfl
    | exact .inr (fun _ _ => rfl)
    | intro x
    | with_reducible exact Keeps.refl _
    | with_reducible apply State.modPlot_keeps
    | with_reducible apply Keeps.upd
    | exact rfl

theorem clearGraftJob_keeps {w : Nat} {P : PlotId → Bool} {s0 s : State} (q : PlotId) (i : BitVec 16) (hK : Keeps w P s0 s) (hP : P q = true := by first | assumption | exact ‹∀ q, P q = true› _) :
    Keeps w P s0 (clearGraftJob s q i) := by
  unfold clearGraftJob
  repeat' first
    | with_reducible assumption
    | with_reducible apply Same.mk
    | with_reducible exact .inr rfl
    | exact .inr (fun _ _ => rfl)
    | intro x
    | with_reducible exact Keeps.refl _
    | with_reducible apply State.modPlot_keeps
    | split
    | with_reducible apply Keeps.upd
    | exact rfl

theorem clearMatrixJob_keeps {w : Nat} {P : PlotId → Bool} {s0 s : State} (q : PlotId) (i : BitVec 16) (hK : Keeps w P s0 s) (hw : Covers w 2818048 := by exact Covers.of (by assumption) (by decide)) :
    Keeps w P s0 (clearMatrixJob s q i) := by
  unfold clearMatrixJob
  repeat' first
    | with_reducible assumption
    | with_reducible exact Covers.of hw (by decide)
    | with_reducible apply Same.mk
    | with_reducible exact .inr rfl
    | exact .inl (hw.bit _ (by decide))
    | exact .inr (fun _ _ => rfl)
    | intro x
    | with_reducible exact Keeps.refl _
    | split
    | with_reducible apply Keeps.upd
    | exact rfl

theorem clearMatrixPlot_keeps {w : Nat} {P : PlotId → Bool} {s0 s : State} (q : PlotId) (hK : Keeps w P s0 s) (hw : Covers w 2818048 := by exact Covers.of (by assumption) (by decide)) :
    Keeps w P s0 (clearMatrixPlot s q) := by
  unfold clearMatrixPlot
  repeat' first
    | with_reducible assumption
    | with_reducible exact Covers.of hw (by decide)
    | with_reducible apply Same.mk
    | with_reducible exact .inr rfl
    | exact .inl (hw.bit _ (by decide))
    | exact .inr (fun _ _ => rfl)
    | (intro x; have hx : Keeps w P s0 x := by { dsimp only [x]; repeat' first
          | with_reducible assumption
          | with_reducible exact Covers.of hw (by decide)
          | with_reducible apply Same.mk
          | with_reducible exact .inr rfl
          | exact .inl (hw.bit _ (by decide))
          | exact .inr (fun _ _ => rfl)
          | with_reducible exact Keeps.refl _
          | split
          | with_reducible apply Keeps.upd
          | exact rfl
          | intro y
          | lift_lets }; clear_value x)
    | intro x
    | with_reducible exact Keeps.refl _
    | split
    | with_reducible apply Keeps.upd
    | exact rfl
    | lift_lets

theorem zeroClusters_keeps {w : Nat} {P : PlotId → Bool} {s0 s : State} (p : PlotId × BitVec 16 → Bool) (hK : Keeps w P s0 s) (hw : Covers w 2621952 := by exact Covers.of (by assumption) (by decide)) :
    Keeps w P s0 (zeroClusters s p) := by
  unfold zeroClusters
  repeat' first
    | with_reducible assumption
    | with_reducible exact Covers.of hw (by decide)
    | with_reducible apply Same.mk
    | with_reducible exact .inr rfl
    | exact .inl (hw.bit _ (by decide))
    | exact .inr (fun _ _ => rfl)
    | (intro x; have hx : Keeps w P s0 x := by { dsimp only [x]; repeat' first
          | with_reducible assumption
          | with_reducible exact Covers.of hw (by decide)
          | with_reducible apply Same.mk
          | with_reducible exact .inr rfl
          | exact .inl (hw.bit _ (by decide))
          | exact .inr (fun _ _ => rfl)
          | with_reducible exact Keeps.refl _
          | split
          | with_reducible apply Keeps.upd
          | exact rfl
          | intro y
          | lift_lets }; clear_value x)
    | intro x
    | with_reducible exact Keeps.refl _
    | split
    | with_reducible apply Keeps.upd
    | exact rfl
    | lift_lets

theorem idleEngines_keeps {w : Nat} {P : PlotId → Bool} {s0 s : State} (q : PlotId) (hK : Keeps w P s0 s) (hw : Covers w 65536 := by exact Covers.of (by assumption) (by decide)) :
    Keeps w P s0 (idleEngines s q) := by
  unfold idleEngines
  repeat' first
    | with_reducible assumption
    | with_reducible exact Covers.of hw (by decide)
    | with_reducible apply Same.mk
    | with_reducible exact .inr rfl
    | exact .inl (hw.bit _ (by decide))
    | exact .inr (fun _ _ => rfl)
    | (intro x; have hx : Keeps w P s0 x := by { dsimp only [x]; repeat' first
          | with_reducible assumption
          | with_reducible exact Covers.of hw (by decide)
          | with_reducible apply Same.mk
          | with_reducible exact .inr rfl
          | exact .inl (hw.bit _ (by decide))
          | exact .inr (fun _ _ => rfl)
          | with_reducible exact Keeps.refl _
          | split
          | with_reducible apply Keeps.upd
          | exact rfl
          | intro y
          | lift_lets }; clear_value x)
    | intro x
    | with_reducible exact Keeps.refl _
    | split
    | with_reducible apply Keeps.upd
    | exact rfl
    | lift_lets

theorem stopProgram_keeps {w : Nat} {P : PlotId → Bool} {s0 s : State} (q : PlotId) (i : BitVec 16) (hK : Keeps w P s0 s) (hw : Covers w 2686976 := by exact Covers.of (by assumption) (by decide)) (hP : P q = true := by first | assumption | exact ‹∀ q, P q = true› _) :
    Keeps w P s0 (stopProgram s q i) := by
  unfold stopProgram
  repeat' first
    | with_reducible assumption
    | with_reducible exact Covers.of hw (by decide)
    | with_reducible apply Same.mk
    | with_reducible exact .inr rfl
    | exact .inl (hw.bit _ (by decide))
    | exact .inr (fun _ _ => rfl)
    | (intro x; have hx : Keeps w P s0 x := by { dsimp only [x]; repeat' first
          | with_reducible assumption
          | with_reducible exact Covers.of hw (by decide)
          | with_reducible apply Same.mk
          | with_reducible exact .inr rfl
          | exact .inl (hw.bit _ (by decide))
          | exact .inr (fun _ _ => rfl)
          | with_reducible exact Keeps.refl _
          | with_reducible apply State.modPlot_keeps
          | split
          | with_reducible apply Keeps.upd
          | exact rfl
          | intro y
          | lift_lets }; clear_value x)
    | intro x
    | with_reducible exact Keeps.refl _
    | with_reducible apply State.modPlot_keeps
    | split
    | with_reducible apply Keeps.upd
    | exact rfl
    | lift_lets

theorem clearJobRest_keeps {w : Nat} {P : PlotId → Bool} {s0 s : State} (q : PlotId) (i : BitVec 16) (hK : Keeps w P s0 s) (hw : Covers w 2834944 := by exact Covers.of (by assumption) (by decide)) (hP : P q = true := by first | assumption | exact ‹∀ q, P q = true› _) :
    Keeps w P s0 (clearJobRest s q i) := by
  unfold clearJobRest
  repeat' first
    | with_reducible assumption
    | with_reducible exact Covers.of hw (by decide)
    | (intro x; have hx : Keeps w P s0 x := by { dsimp only [x]; repeat' first
          | with_reducible assumption
          | with_reducible exact Covers.of hw (by decide)
          | with_reducible exact Keeps.refl _
          | with_reducible apply clearMeshJob_keeps
          | with_reducible apply clearFlashJob_keeps
          | with_reducible apply clearMatrixJob_keeps
          | intro y
          | lift_lets }; clear_value x)
    | intro x
    | with_reducible exact Keeps.refl _
    | with_reducible apply clearMeshJob_keeps
    | with_reducible apply clearFlashJob_keeps
    | with_reducible apply clearMatrixJob_keeps
    | lift_lets

theorem clearJobEngines_keeps {w : Nat} {P : PlotId → Bool} {s0 s : State} (q : PlotId) (i : BitVec 16) (hK : Keeps w P s0 s) (hw : Covers w 2834944 := by exact Covers.of (by assumption) (by decide)) (hP : P q = true := by first | assumption | exact ‹∀ q, P q = true› _) :
    Keeps w P s0 (clearJobEngines s q i) := by
  unfold clearJobEngines
  repeat' first
    | with_reducible assumption
    | with_reducible exact Covers.of hw (by decide)
    | intro x
    | with_reducible exact Keeps.refl _
    | with_reducible apply clearAnnealJob_keeps
    | with_reducible apply clearGraftJob_keeps
    | with_reducible apply clearJobRest_keeps

theorem stopEngines_keeps {w : Nat} {P : PlotId → Bool} {s0 s : State} (q : PlotId) (hK : Keeps w P s0 s) (hw : Covers w 2834944 := by exact Covers.of (by assumption) (by decide)) (hP : P q = true := by first | assumption | exact ‹∀ q, P q = true› _) :
    Keeps w P s0 (stopEngines s q) := by
  unfold stopEngines
  repeat' first
    | with_reducible assumption
    | with_reducible exact Covers.of hw (by decide)
    | with_reducible apply Same.mk
    | with_reducible exact .inr rfl
    | exact .inl (hw.bit _ (by decide))
    | exact .inr (fun _ _ => rfl)
    | (intro x; have hx : Keeps w P s0 x := by { dsimp only [x]; repeat' first
          | with_reducible assumption
          | with_reducible exact Covers.of hw (by decide)
          | with_reducible apply Same.mk
          | with_reducible exact .inr rfl
          | exact .inl (hw.bit _ (by decide))
          | exact .inr (fun _ _ => rfl)
          | with_reducible exact Keeps.refl _
          | with_reducible apply State.modPlot_keeps
          | with_reducible apply clearMeshPlot_keeps
          | with_reducible apply clearFlashPlot_keeps
          | with_reducible apply resetLanes_keeps
          | with_reducible apply clearMatrixPlot_keeps
          | with_reducible apply Keeps.upd
          | exact rfl
          | intro y
          | lift_lets }; clear_value x)
    | intro x
    | with_reducible exact Keeps.refl _
    | with_reducible apply State.modPlot_keeps
    | with_reducible apply clearMeshPlot_keeps
    | with_reducible apply clearFlashPlot_keeps
    | with_reducible apply resetLanes_keeps
    | with_reducible apply clearMatrixPlot_keeps
    | with_reducible apply Keeps.upd
    | exact rfl
    | lift_lets

theorem clearAllOf_keeps {w : Nat} {P : PlotId → Bool} {s0 s : State} (q : PlotId) (hK : Keeps w P s0 s) (hw : Covers w 67174912 := by exact Covers.of (by assumption) (by decide)) (hP : P q = true := by first | assumption | exact ‹∀ q, P q = true› _) :
    Keeps w P s0 (clearAllOf s q) := by
  unfold clearAllOf
  repeat' first
    | with_reducible assumption
    | with_reducible exact Covers.of hw (by decide)
    | with_reducible apply Same.mk
    | with_reducible exact .inr rfl
    | exact .inl (hw.bit _ (by decide))
    | exact .inr (fun _ _ => rfl)
    | (intro x; have hx : Keeps w P s0 x := by { dsimp only [x]; repeat' first
          | with_reducible assumption
          | with_reducible exact Covers.of hw (by decide)
          | with_reducible apply Same.mk
          | with_reducible exact .inr rfl
          | exact .inl (hw.bit _ (by decide))
          | exact .inr (fun _ _ => rfl)
          | with_reducible exact Keeps.refl _
          | with_reducible apply State.wipeMem_keeps
          | with_reducible apply State.modPlot_keeps
          | with_reducible apply State.modMsh_keeps
          | with_reducible apply idleEngines_keeps
          | with_reducible apply Keeps.upd
          | exact rfl
          | intro y
          | lift_lets }; clear_value x)
    | intro x
    | with_reducible exact Keeps.refl _
    | with_reducible apply State.wipeMem_keeps
    | with_reducible apply State.modPlot_keeps
    | with_reducible apply State.modMsh_keeps
    | with_reducible apply idleEngines_keeps
    | with_reducible apply Keeps.upd
    | exact rfl
    | lift_lets

theorem clearRemoved_keeps {w : Nat} {P : PlotId → Bool} {s0 s : State} (q : PlotId) (hK : Keeps w P s0 s) (hw : Covers w 67174912 := by exact Covers.of (by assumption) (by decide)) (hP : P q = true := by first | assumption | exact ‹∀ q, P q = true› _) :
    Keeps w P s0 (clearRemoved s q) := by
  unfold clearRemoved
  repeat' first
    | with_reducible assumption
    | with_reducible exact Covers.of hw (by decide)
    | with_reducible apply Same.mk
    | with_reducible exact .inr rfl
    | exact .inl (hw.bit _ (by decide))
    | exact .inr (fun _ _ => rfl)
    | (intro x; have hx : Keeps w P s0 x := by { dsimp only [x]; repeat' first
          | with_reducible assumption
          | with_reducible exact Covers.of hw (by decide)
          | with_reducible apply Same.mk
          | with_reducible exact .inr rfl
          | exact .inl (hw.bit _ (by decide))
          | exact .inr (fun _ _ => rfl)
          | with_reducible exact Keeps.refl _
          | with_reducible apply State.wipeMem_keeps
          | with_reducible apply State.modPlot_keeps
          | with_reducible apply Keeps.foldl
          | split
          | with_reducible apply Keeps.upd
          | exact rfl
          | intro y
          | lift_lets }; clear_value x)
    | intro x
    | with_reducible exact Keeps.refl _
    | with_reducible apply State.wipeMem_keeps
    | with_reducible apply State.modPlot_keeps
    | with_reducible apply Keeps.foldl
    | split
    | with_reducible apply Keeps.upd
    | exact rfl
    | lift_lets

theorem endRng_keeps {w : Nat} {P : PlotId → Bool} {s0 s : State} (q : PlotId) (hK : Keeps w P s0 s) (hw : Covers w 8192 := by exact Covers.of (by assumption) (by decide)) :
    Keeps w P s0 (endRng s q) := by
  unfold endRng
  repeat' first
    | with_reducible assumption
    | with_reducible exact Covers.of hw (by decide)
    | with_reducible apply Same.mk
    | with_reducible exact .inr rfl
    | exact .inl (hw.bit _ (by decide))
    | exact .inr (fun _ _ => rfl)
    | (intro x; have hx : Keeps w P s0 x := by { dsimp only [x]; repeat' first
          | with_reducible assumption
          | with_reducible exact Covers.of hw (by decide)
          | with_reducible apply Same.mk
          | with_reducible exact .inr rfl
          | exact .inl (hw.bit _ (by decide))
          | exact .inr (fun _ _ => rfl)
          | with_reducible exact Keeps.refl _
          | split
          | with_reducible apply Keeps.upd
          | exact rfl
          | intro y
          | lift_lets }; clear_value x)
    | intro x
    | with_reducible exact Keeps.refl _
    | split
    | with_reducible apply Keeps.upd
    | exact rfl
    | lift_lets

theorem resetPlotBlocks_keeps {w : Nat} {P : PlotId → Bool} {s0 s : State} (q : PlotId) (hK : Keeps w P s0 s) (hw : Covers w 8192 := by exact Covers.of (by assumption) (by decide)) (hP : P q = true := by first | assumption | exact ‹∀ q, P q = true› _) :
    Keeps w P s0 (resetPlotBlocks s q) := by
  unfold resetPlotBlocks
  repeat' first
    | with_reducible assumption
    | with_reducible exact Covers.of hw (by decide)
    | intro x
    | with_reducible exact Keeps.refl _
    | with_reducible apply resetLanes_keeps
    | with_reducible apply endRng_keeps

/-! ### Sys2Proof/Machine/Attest.lean -/

theorem stopSigning_keeps {w : Nat} {P : PlotId → Bool} {s0 s : State} (reason : BitVec 3) (hK : Keeps w P s0 s) (hw : Covers w 134220848 := by exact Covers.of (by assumption) (by decide)) :
    Keeps w P s0 (stopSigning s reason) := by
  unfold stopSigning
  repeat' first
    | with_reducible assumption
    | with_reducible exact Covers.of hw (by decide)
    | with_reducible apply Same.mk
    | with_reducible exact .inr rfl
    | exact .inl (hw.bit _ (by decide))
    | exact .inr (fun _ _ => rfl)
    | (intro x; have hx : Keeps w P s0 x := by { dsimp only [x]; repeat' first
          | with_reducible assumption
          | with_reducible exact Covers.of hw (by decide)
          | with_reducible apply Same.mk
          | with_reducible exact .inr rfl
          | exact .inl (hw.bit _ (by decide))
          | exact .inr (fun _ _ => rfl)
          | with_reducible exact Keeps.refl _
          | with_reducible apply State.raisePf_keeps
          | with_reducible apply State.logLine_keeps
          | with_reducible apply Keeps.upd
          | exact rfl
          | intro y
          | lift_lets }; clear_value x)
    | intro x
    | with_reducible exact Keeps.refl _
    | with_reducible apply State.raisePf_keeps
    | with_reducible apply State.logLine_keeps
    | with_reducible apply Keeps.upd
    | exact rfl
    | lift_lets

theorem stopPlotSigning_keeps {w : Nat} {P : PlotId → Bool} {s0 s : State} (q : PlotId) (hK : Keeps w P s0 s) (hw : Covers w 134220848 := by exact Covers.of (by assumption) (by decide)) :
    Keeps w P s0 (stopPlotSigning s q) := by
  unfold stopPlotSigning
  repeat' first
    | with_reducible assumption
    | with_reducible exact Covers.of hw (by decide)
    | with_reducible apply Same.mk
    | with_reducible exact .inr rfl
    | exact .inl (hw.bit _ (by decide))
    | exact .inr (fun _ _ => rfl)
    | (intro x; have hx : Keeps w P s0 x := by { dsimp only [x]; repeat' first
          | with_reducible assumption
          | with_reducible exact Covers.of hw (by decide)
          | with_reducible apply Same.mk
          | with_reducible exact .inr rfl
          | exact .inl (hw.bit _ (by decide))
          | exact .inr (fun _ _ => rfl)
          | with_reducible exact Keeps.refl _
          | with_reducible apply State.modAtt_keeps
          | with_reducible apply State.raisePf_keeps
          | with_reducible apply State.logLine_keeps
          | with_reducible apply Keeps.upd
          | exact rfl
          | intro y
          | lift_lets }; clear_value x)
    | intro x
    | with_reducible exact Keeps.refl _
    | with_reducible apply State.modAtt_keeps
    | with_reducible apply State.raisePf_keeps
    | with_reducible apply State.logLine_keeps
    | with_reducible apply Keeps.upd
    | exact rfl
    | lift_lets

theorem formRecord_keeps {w : Nat} {P : PlotId → Bool} {s0 s : State} (q : PlotId) (j : Job) (h : Keeps w P s0 s)
    (hw : Covers w 134220850 := by exact Covers.of (by assumption) (by decide))
    (hP : P q = true := by first | assumption | exact ‹∀ q, P q = true› _) : Keeps w P s0 (formRecord s q j) := by
  unfold formRecord
  have step : ∀ t : State, Keeps w P s0 t → Keeps w P s0 { t with aux := { t.aux with pseq := t.aux.pseq.set q (satInc t.aux.pseq[q]) } } := by
    intro t k
    refine k.trans ⟨?_, id, id, rfl, rfl, rfl, rfl, ?_, Nat.le_refl _, List.prefix_refl _⟩
    · constructor <;> first | exact .inr rfl | exact .inr (fun _ _ => rfl) | exact .inl (hw.bit _ (by decide))
    intro p
    show _ ≤ (t.aux.pseq.set q (satInc t.aux.pseq[q]))[p]
    rw [BitVec.le_def]
    by_cases e : q.val = p.val
    · have e' : q = p := Fin.ext e
      subst e'
      have := satInc_toNat t.aux.pseq[q]
      have lt := (t.aux.pseq[q]).isLt
      simp only [Fin.getElem_fin, Vector.getElem_set_self] at *
      omega
    · simp only [Fin.getElem_fin, Vector.getElem_set_ne _ _ e]
      exact Nat.le_refl _
  lift_lets
  intro p signed seq index head bytes s1
  have h1 : Keeps w P s0 s1 := State.modPlt_keeps _ _ h
  clear_value s1
  intro s2
  have h2 : Keeps w P s0 s2 := by
    dsimp only [s2]; split
    · exact h1
    · exact State.modPlt_keeps _ _ h1
  clear_value s2
  split
  · have h3 := step s2 h2
    show Keeps w P s0 (if _ then _ else _)
    split
    · exact stopPlotSigning_keeps _ h3
    · exact h3
  · exact State.modAtt_keeps _ _ h2

theorem writeFormedAux_keeps {w : Nat} {P : PlotId → Bool} {s0 s : State} (n : Nat) (q : PlotId) (irq : Bool) (h : Keeps w P s0 s)
    (hw : Covers w 134217776 := by exact Covers.of (by assumption) (by decide))
    (hP : P q = true := by first | assumption | exact ‹∀ q, P q = true› _) : Keeps w P s0 (writeFormedAux n s q irq).1 := by
  induction n generalizing s irq with
  | zero => exact h
  | succ n ih =>
    unfold writeFormedAux
    dsimp only
    split
    · exact h
    · rename_i r rest hf
      split
      · exact h
      · apply ih
        have h1 := fun (g : PltSet → PltSet) => State.modPlt_keeps q g
          (State.emit_keeps h (.write q (ringAddr (s.plot q).plt.cqBase (s.plot q).plt.cqTail) r.bytes false s.maxPayload))
        split
        · split
          · exact State.raisePf_keeps 5 (State.raisePlot_keeps q 0x2 (Keeps.upd (h1 _) rfl rfl rfl rfl rfl))
          · exact State.raisePlot_keeps q 0x2 (Keeps.upd (h1 _) rfl rfl rfl rfl rfl)
        · exact h1 _

theorem writeFormed_keeps {w : Nat} {P : PlotId → Bool} {s0 s : State} (q : PlotId) (h : Keeps w P s0 s)
    (hw : Covers w 134217776 := by exact Covers.of (by assumption) (by decide))
    (hP : P q = true := by first | assumption | exact ‹∀ q, P q = true› _) : Keeps w P s0 (writeFormed s q) := by
  unfold writeFormed
  have := writeFormedAux_keeps (w := w) (P := P) (s0 := s0) (s.plot q).plt.formed.length q false h
  revert this
  generalize writeFormedAux _ s q false = r
  intro hr
  obtain ⟨t, irq⟩ := r
  dsimp only
  split
  · exact State.raisePlot_keeps _ _ hr
  · exact hr

/-! ### Sys2Proof/Machine/Plots.lean -/

theorem hostGate_keeps {w : Nat} {P : PlotId → Bool} {s0 s : State} (f : Fn) {k : State → State} (h : Keeps w P s0 s) (hk : ∀ t, Keeps w P s0 t → Keeps w P s0 (k t)) (hw : Covers w 268435456 := by exact Covers.of (by assumption) (by decide)) :
    Keeps w P s0 (hostGate s f k) := by
  unfold hostGate
  split
  · exact hk _ (Keeps.upd h rfl rfl rfl rfl rfl)
  · exact Keeps.upd h rfl rfl rfl rfl rfl

theorem cfgGate_keeps {w : Nat} {P : PlotId → Bool} {s0 s : State} (f : Fn) {k : State → State} (h : Keeps w P s0 s)
    (hk : ∀ t, Keeps w P s0 t → Keeps w P s0 (k t)) (hw : Covers w 268435456 := by exact Covers.of (by assumption) (by decide)) :
    Keeps w P s0 (cfgGate s f k) := by
  unfold cfgGate
  split
  · exact hk _ h
  · split
    · exact Keeps.upd h rfl rfl rfl rfl rfl
    · exact h

theorem dmaError_keeps {w : Nat} {P : PlotId → Bool} {s0 s : State} (f : Fn) (u : DmaUser) (k : ReadFail) (hK : Keeps w P s0 s) (hw : Covers w 671088737 := by exact Covers.of (by assumption) (by decide)) :
    Keeps w P s0 (dmaError s f u k) := by
  unfold dmaError
  repeat' first
    | with_reducible assumption
    | with_reducible exact Covers.of hw (by decide)
    | with_reducible apply Same.mk
    | with_reducible exact .inr rfl
    | exact .inl (hw.bit _ (by decide))
    | exact .inr (fun _ _ => rfl)
    | (intro x; have hx : Keeps w P s0 x := by { dsimp only [x]; repeat' first
          | with_reducible assumption
          | with_reducible exact Covers.of hw (by decide)
          | with_reducible apply Same.mk
          | with_reducible exact .inr rfl
          | exact .inl (hw.bit _ (by decide))
          | exact .inr (fun _ _ => rfl)
          | with_reducible exact Keeps.refl _
          | with_reducible apply State.advanceTo_keeps
          | with_reducible apply State.aerError_keeps
          | split
          | with_reducible apply Keeps.upd
          | exact rfl
          | intro y
          | lift_lets }; clear_value x)
    | intro x
    | with_reducible exact Keeps.refl _
    | with_reducible apply State.advanceTo_keeps
    | with_reducible apply State.aerError_keeps
    | split
    | with_reducible apply Keeps.upd
    | exact rfl
    | lift_lets

theorem ringErr_keeps {w : Nat} {P : PlotId → Bool} {s0 s : State} (q : PlotId) (reason : BitVec 4) (index : BitVec 16) (hK : Keeps w P s0 s) (hw : Covers w 134218800 := by exact Covers.of (by assumption) (by decide)) (hP : P q = true := by first | assumption | exact ‹∀ q, P q = true› _) :
    Keeps w P s0 (ringErr s q reason index) := by
  unfold ringErr
  repeat' first
    | with_reducible assumption
    | with_reducible exact Covers.of hw (by decide)
    | with_reducible apply Same.mk
    | with_reducible exact .inr rfl
    | exact .inl (hw.bit _ (by decide))
    | exact .inr (fun _ _ => rfl)
    | (intro x; have hx : Keeps w P s0 x := by { dsimp only [x]; repeat' first
          | with_reducible assumption
          | with_reducible exact Covers.of hw (by decide)
          | with_reducible apply Same.mk
          | with_reducible exact .inr rfl
          | exact .inl (hw.bit _ (by decide))
          | exact .inr (fun _ _ => rfl)
          | with_reducible exact Keeps.refl _
          | with_reducible apply State.modPlt_keeps
          | with_reducible apply State.raisePlot_keeps
          | with_reducible apply State.logLine_keeps
          | with_reducible apply Keeps.upd
          | exact rfl
          | intro y
          | lift_lets }; clear_value x)
    | intro x
    | with_reducible exact Keeps.refl _
    | with_reducible apply State.modPlt_keeps
    | with_reducible apply State.raisePlot_keeps
    | with_reducible apply State.logLine_keeps
    | with_reducible apply Keeps.upd
    | exact rfl
    | lift_lets

theorem startFetch_keeps {w : Nat} {P : PlotId → Bool} {s0 s : State} (q : PlotId) (hK : Keeps w P s0 s) (hw : Covers w 134217792 := by exact Covers.of (by assumption) (by decide)) (hP : P q = true := by first | assumption | exact ‹∀ q, P q = true› _) :
    Keeps w P s0 (startFetch s q) := by
  unfold startFetch
  repeat' first
    | with_reducible assumption
    | with_reducible exact Covers.of hw (by decide)
    | with_reducible apply Same.mk
    | with_reducible exact .inr rfl
    | exact .inl (hw.bit _ (by decide))
    | exact .inr (fun _ _ => rfl)
    | (intro x; have hx : Keeps w P s0 x := by { dsimp only [x]; repeat' first
          | with_reducible assumption
          | with_reducible exact Covers.of hw (by decide)
          | with_reducible apply Same.mk
          | with_reducible exact .inr rfl
          | exact .inl (hw.bit _ (by decide))
          | exact .inr (fun _ _ => rfl)
          | with_reducible exact Keeps.refl _
          | with_reducible apply State.modPlt_keeps
          | with_reducible apply State.hostRead_keeps
          | split
          | with_reducible apply Keeps.upd
          | exact rfl
          | intro y
          | lift_lets }; clear_value x)
    | intro x
    | with_reducible exact Keeps.refl _
    | with_reducible apply State.modPlt_keeps
    | with_reducible apply State.hostRead_keeps
    | split
    | with_reducible apply Keeps.upd
    | exact rfl
    | lift_lets

theorem sqTailWrite_keeps {w : Nat} {P : PlotId → Bool} {s0 s : State} (q : PlotId) (v : BitVec 16) (hK : Keeps w P s0 s) (hw : Covers w 134218864 := by exact Covers.of (by assumption) (by decide)) (hP : P q = true := by first | assumption | exact ‹∀ q, P q = true› _) :
    Keeps w P s0 (sqTailWrite s q v) := by
  unfold sqTailWrite
  repeat' first
    | with_reducible assumption
    | with_reducible exact Covers.of hw (by decide)
    | with_reducible apply Same.mk
    | with_reducible exact .inr rfl
    | exact .inl (hw.bit _ (by decide))
    | exact .inr (fun _ _ => rfl)
    | (intro x; have hx : Keeps w P s0 x := by { dsimp only [x]; repeat' first
          | with_reducible assumption
          | with_reducible exact Covers.of hw (by decide)
          | with_reducible apply Same.mk
          | with_reducible exact .inr rfl
          | exact .inl (hw.bit _ (by decide))
          | exact .inr (fun _ _ => rfl)
          | with_reducible exact Keeps.refl _
          | with_reducible apply State.modPlt_keeps
          | with_reducible apply ringErr_keeps
          | with_reducible apply startFetch_keeps
          | split
          | with_reducible apply Keeps.upd
          | exact rfl
          | intro y
          | lift_lets }; clear_value x)
    | intro x
    | with_reducible exact Keeps.refl _
    | with_reducible apply State.modPlt_keeps
    | with_reducible apply ringErr_keeps
    | with_reducible apply startFetch_keeps
    | split
    | with_reducible apply Keeps.upd
    | exact rfl
    | lift_lets

theorem cqHeadWrite_keeps {w : Nat} {P : PlotId → Bool} {s0 s : State} (q : PlotId) (v : BitVec 16) (hK : Keeps w P s0 s) (hw : Covers w 134218800 := by exact Covers.of (by assumption) (by decide)) (hP : P q = true := by first | assumption | exact ‹∀ q, P q = true› _) :
    Keeps w P s0 (cqHeadWrite s q v) := by
  unfold cqHeadWrite
  repeat' first
    | with_reducible assumption
    | with_reducible exact Covers.of hw (by decide)
    | with_reducible apply Same.mk
    | with_reducible exact .inr rfl
    | exact .inl (hw.bit _ (by decide))
    | exact .inr (fun _ _ => rfl)
    | (intro x; have hx : Keeps w P s0 x := by { dsimp only [x]; repeat' first
          | with_reducible assumption
          | with_reducible exact Covers.of hw (by decide)
          | with_reducible apply Same.mk
          | with_reducible exact .inr rfl
          | exact .inl (hw.bit _ (by decide))
          | exact .inr (fun _ _ => rfl)
          | with_reducible exact Keeps.refl _
          | with_reducible apply State.modPlt_keeps
          | with_reducible apply writeFormed_keeps
          | with_reducible apply ringErr_keeps
          | split
          | with_reducible apply Keeps.upd
          | exact rfl
          | intro y
          | lift_lets }; clear_value x)
    | intro x
    | with_reducible exact Keeps.refl _
    | with_reducible apply State.modPlt_keeps
    | with_reducible apply writeFormed_keeps
    | with_reducible apply ringErr_keeps
    | split
    | with_reducible apply Keeps.upd
    | exact rfl
    | lift_lets

theorem completeUnran_keeps {w : Nat} {P : PlotId → Bool} {s0 s : State} (q : PlotId) (d : Desc) (c : Code) (hK : Keeps w P s0 s) (hw : Covers w 134217792 := by exact Covers.of (by assumption) (by decide)) (hP : P q = true := by first | assumption | exact ‹∀ q, P q = true› _) :
    Keeps w P s0 (completeUnran s q d c) := by
  unfold completeUnran
  repeat' first
    | with_reducible assumption
    | with_reducible exact Covers.of hw (by decide)
    | with_reducible apply Same.mk
    | with_reducible exact .inr rfl
    | exact .inl (hw.bit _ (by decide))
    | exact .inr (fun _ _ => rfl)
    | (intro x; have hx : Keeps w P s0 x := by { dsimp only [x]; repeat' first
          | with_reducible assumption
          | with_reducible exact Covers.of hw (by decide)
          | with_reducible apply Same.mk
          | with_reducible exact .inr rfl
          | exact .inl (hw.bit _ (by decide))
          | exact .inr (fun _ _ => rfl)
          | with_reducible exact Keeps.refl _
          | with_reducible apply State.modPlt_keeps
          | with_reducible apply startFetch_keeps
          | with_reducible apply Keeps.upd
          | exact rfl
          | intro y
          | lift_lets }; clear_value x)
    | intro x
    | with_reducible exact Keeps.refl _
    | with_reducible apply State.modPlt_keeps
    | with_reducible apply startFetch_keeps
    | with_reducible apply Keeps.upd
    | exact rfl
    | lift_lets

theorem ringHalt_keeps {w : Nat} {P : PlotId → Bool} {s0 s : State} (q : PlotId) (hK : Keeps w P s0 s) (hw : Covers w 134218800 := by exact Covers.of (by assumption) (by decide)) (hP : P q = true := by first | assumption | exact ‹∀ q, P q = true› _) :
    Keeps w P s0 (ringHalt s q) := by
  unfold ringHalt
  repeat' first
    | with_reducible assumption
    | with_reducible exact Covers.of hw (by decide)
    | with_reducible apply Same.mk
    | with_reducible exact .inr rfl
    | exact .inl (hw.bit _ (by decide))
    | exact .inr (fun _ _ => rfl)
    | (intro x; have hx : Keeps w P s0 x := by { dsimp only [x]; repeat' first
          | with_reducible assumption
          | with_reducible exact Covers.of hw (by decide)
          | with_reducible apply Same.mk
          | with_reducible exact .inr rfl
          | exact .inl (hw.bit _ (by decide))
          | exact .inr (fun _ _ => rfl)
          | with_reducible exact Keeps.refl _
          | with_reducible apply State.modPlt_keeps
          | with_reducible apply ringErr_keeps
          | with_reducible apply Keeps.upd
          | exact rfl
          | intro y
          | lift_lets }; clear_value x)
    | intro x
    | with_reducible exact Keeps.refl _
    | with_reducible apply State.modPlt_keeps
    | with_reducible apply ringErr_keeps
    | with_reducible apply Keeps.upd
    | exact rfl
    | lift_lets

theorem imageKnown_keeps {w : Nat} {P : PlotId → Bool} {s0 s : State} (q : PlotId) (d : Desc) (i : Option Image) (hK : Keeps w P s0 s) (hw : Covers w 134217792 := by exact Covers.of (by assumption) (by decide)) (hP : P q = true := by first | assumption | exact ‹∀ q, P q = true› _) :
    Keeps w P s0 (imageKnown s q d i) := by
  unfold imageKnown
  repeat' first
    | with_reducible assumption
    | with_reducible exact Covers.of hw (by decide)
    | with_reducible apply Same.mk
    | with_reducible exact .inr rfl
    | exact .inl (hw.bit _ (by decide))
    | exact .inr (fun _ _ => rfl)
    | intro x
    | with_reducible exact Keeps.refl _
    | with_reducible apply State.modPlt_keeps
    | with_reducible apply completeUnran_keeps
    | split
    | with_reducible apply Keeps.upd
    | exact rfl

theorem descriptorFetched_keeps {w : Nat} {P : PlotId → Bool} {s0 s : State} (q : PlotId) (r : Fetched) (hK : Keeps w P s0 s) (hw : Covers w 671089777 := by exact Covers.of (by assumption) (by decide)) (hP : P q = true := by first | assumption | exact ‹∀ q, P q = true› _) :
    Keeps w P s0 (descriptorFetched s q r) := by
  unfold descriptorFetched
  repeat' first
    | with_reducible assumption
    | with_reducible exact Covers.of hw (by decide)
    | with_reducible apply Same.mk
    | with_reducible exact .inr rfl
    | exact .inl (hw.bit _ (by decide))
    | exact .inr (fun _ _ => rfl)
    | (intro x; have hx : Keeps w P s0 x := by { dsimp only [x]; repeat' first
          | with_reducible assumption
          | with_reducible exact Covers.of hw (by decide)
          | with_reducible apply Same.mk
          | with_reducible exact .inr rfl
          | exact .inl (hw.bit _ (by decide))
          | exact .inr (fun _ _ => rfl)
          | with_reducible exact Keeps.refl _
          | with_reducible apply State.modPlt_keeps
          | with_reducible apply State.hostRead_keeps
          | with_reducible apply dmaError_keeps
          | with_reducible apply completeUnran_keeps
          | with_reducible apply ringHalt_keeps
          | with_reducible apply imageKnown_keeps
          | split
          | with_reducible apply Keeps.upd
          | exact rfl
          | intro y
          | lift_lets }; clear_value x)
    | intro x
    | with_reducible exact Keeps.refl _
    | with_reducible apply State.modPlt_keeps
    | with_reducible apply State.hostRead_keeps
    | with_reducible apply dmaError_keeps
    | with_reducible apply completeUnran_keeps
    | with_reducible apply ringHalt_keeps
    | with_reducible apply imageKnown_keeps
    | split
    | with_reducible apply Keeps.upd
    | exact rfl
    | lift_lets

theorem imageFetched_keeps {w : Nat} {P : PlotId → Bool} {s0 s : State} (q : PlotId) (r : Fetched) (ops : List (Nat × Nat)) (hK : Keeps w P s0 s) (hw : Covers w 671088737 := by exact Covers.of (by assumption) (by decide)) (hP : P q = true := by first | assumption | exact ‹∀ q, P q = true› _) :
    Keeps w P s0 (imageFetched s q r ops) := by
  unfold imageFetched
  repeat' first
    | with_reducible assumption
    | with_reducible exact Covers.of hw (by decide)
    | intro x
    | with_reducible exact Keeps.refl _
    | with_reducible apply dmaError_keeps
    | with_reducible apply completeUnran_keeps
    | with_reducible apply imageKnown_keeps
    | split

theorem beginAbandon_keeps {w : Nat} {P : PlotId → Bool} {s0 s : State} (q : PlotId) (j : Job) (c : Code) (node : Option NodeId) (hK : Keeps w P s0 s) (hw : Covers w 137053744 := by exact Covers.of (by assumption) (by decide)) (hP : P q = true := by first | assumption | exact ‹∀ q, P q = true› _) :
    Keeps w P s0 (beginAbandon s q j c node) := by
  unfold beginAbandon
  repeat' first
    | with_reducible assumption
    | with_reducible exact Covers.of hw (by decide)
    | with_reducible apply Same.mk
    | with_reducible exact .inr rfl
    | exact .inl (hw.bit _ (by decide))
    | exact .inr (fun _ _ => rfl)
    | (intro x; have hx : Keeps w P s0 x := by { dsimp only [x]; repeat' first
          | with_reducible assumption
          | with_reducible exact Covers.of hw (by decide)
          | with_reducible apply Same.mk
          | with_reducible exact .inr rfl
          | exact .inl (hw.bit _ (by decide))
          | exact .inr (fun _ _ => rfl)
          | with_reducible exact Keeps.refl _
          | with_reducible apply State.logLine_keeps
          | with_reducible apply State.logSuppressed_keeps
          | with_reducible apply State.modJob_keeps
          | with_reducible apply clearJobEngines_keeps
          | split
          | with_reducible apply Keeps.upd
          | exact rfl
          | intro y
          | lift_lets }; clear_value x)
    | intro x
    | with_reducible exact Keeps.refl _
    | with_reducible apply State.logLine_keeps
    | with_reducible apply State.logSuppressed_keeps
    | with_reducible apply State.modJob_keeps
    | with_reducible apply clearJobEngines_keeps
    | split
    | with_reducible apply Keeps.upd
    | exact rfl
    | lift_lets

theorem raiseFault_keeps {w : Nat} {P : PlotId → Bool} {s0 s : State} (q : PlotId) (j : Job) (c : Code) (node : Option NodeId)
    (h : Keeps w P s0 s) (hw : Covers w 1024 := by exact Covers.of (by assumption) (by decide))
    (hP : P q = true := by first | assumption | exact ‹∀ q, P q = true› _) : Keeps w P s0 (raiseFault s q j c node) := by
  unfold raiseFault
  refine Keeps.withLog (State.modJob_keeps _ _ _ h) _ ?_
  rintro ⟨len, seqs, ack⟩
  refine ⟨by simpa using len, ?_, ack⟩
  intro x hx
  obtain ⟨l, hl, rfl⟩ := List.mem_map.mp hx
  have := seqs l hl
  split <;> exact this

theorem chargeFault_keeps {w : Nat} {P : PlotId → Bool} {s0 s : State} (q : PlotId) (i : BitVec 16) (c : Code) (node : Option NodeId) (hK : Keeps w P s0 s) (hw : Covers w 137053744 := by exact Covers.of (by assumption) (by decide)) (hP : P q = true := by first | assumption | exact ‹∀ q, P q = true› _) :
    Keeps w P s0 (chargeFault s q i c node) := by
  unfold chargeFault
  repeat' first
    | with_reducible assumption
    | with_reducible exact Covers.of hw (by decide)
    | intro x
    | with_reducible exact Keeps.refl _
    | with_reducible apply beginAbandon_keeps
    | with_reducible apply raiseFault_keeps
    | split

theorem recordOverrun_keeps {w : Nat} {P : PlotId → Bool} {s0 s : State} (q : PlotId) (j : Job) (budget : Bool) (hK : Keeps w P s0 s) (hw : Covers w 134218808 := by exact Covers.of (by assumption) (by decide)) (hP : P q = true := by first | assumption | exact ‹∀ q, P q = true› _) :
    Keeps w P s0 (recordOverrun s q j budget) := by
  unfold recordOverrun
  repeat' first
    | with_reducible assumption
    | with_reducible exact Covers.of hw (by decide)
    | with_reducible apply Same.mk
    | with_reducible exact .inr rfl
    | exact .inl (hw.bit _ (by decide))
    | exact .inr (fun _ _ => rfl)
    | (intro x; have hx : Keeps w P s0 x := by { dsimp only [x]; repeat' first
          | with_reducible assumption
          | with_reducible exact Covers.of hw (by decide)
          | with_reducible apply Same.mk
          | with_reducible exact .inr rfl
          | exact .inl (hw.bit _ (by decide))
          | exact .inr (fun _ _ => rfl)
          | with_reducible exact Keeps.refl _
          | with_reducible apply State.modPlt_keeps
          | with_reducible apply State.modFrm_keeps
          | with_reducible apply State.raisePlot_keeps
          | with_reducible apply State.frmEvent_keeps
          | with_reducible apply State.modJob_keeps
          | split
          | with_reducible apply Keeps.upd
          | exact rfl
          | intro y
          | lift_lets }; clear_value x)
    | intro x
    | with_reducible exact Keeps.refl _
    | with_reducible apply State.modPlt_keeps
    | with_reducible apply State.modFrm_keeps
    | with_reducible apply State.raisePlot_keeps
    | with_reducible apply State.frmEvent_keeps
    | with_reducible apply State.modJob_keeps
    | split
    | with_reducible apply Keeps.upd
    | exact rfl
    | lift_lets

theorem abandonmentDone_keeps {w : Nat} {P : PlotId → Bool} {s0 s : State} (q : PlotId) (i : BitVec 16) (hK : Keeps w P s0 s) (hw : Covers w 2621952 := by exact Covers.of (by assumption) (by decide)) (hP : P q = true := by first | assumption | exact ‹∀ q, P q = true› _) :
    Keeps w P s0 (abandonmentDone s q i) := by
  unfold abandonmentDone
  repeat' first
    | with_reducible assumption
    | with_reducible exact Covers.of hw (by decide)
    | with_reducible apply Same.mk
    | with_reducible exact .inr rfl
    | exact .inl (hw.bit _ (by decide))
    | exact .inr (fun _ _ => rfl)
    | (intro x; have hx : Keeps w P s0 x := by { dsimp only [x]; repeat' first
          | with_reducible assumption
          | with_reducible exact Covers.of hw (by decide)
          | with_reducible apply Same.mk
          | with_reducible exact .inr rfl
          | exact .inl (hw.bit _ (by decide))
          | exact .inr (fun _ _ => rfl)
          | with_reducible exact Keeps.refl _
          | with_reducible apply State.modPlt_keeps
          | with_reducible apply State.modJob_keeps
          | with_reducible apply zeroClusters_keeps
          | split
          | with_reducible apply Keeps.upd
          | exact rfl
          | intro y
          | lift_lets }; clear_value x)
    | intro x
    | with_reducible exact Keeps.refl _
    | with_reducible apply State.modPlt_keeps
    | with_reducible apply State.modJob_keeps
    | with_reducible apply zeroClusters_keeps
    | split
    | with_reducible apply Keeps.upd
    | exact rfl
    | lift_lets

theorem startStop_keeps {w : Nat} {P : PlotId → Bool} {s0 s : State} (q : PlotId) (hK : Keeps w P s0 s) (hw : Covers w 137052720 := by exact Covers.of (by assumption) (by decide)) (hP : P q = true := by first | assumption | exact ‹∀ q, P q = true› _) :
    Keeps w P s0 (startStop s q) := by
  unfold startStop
  repeat' first
    | with_reducible assumption
    | with_reducible exact Covers.of hw (by decide)
    | with_reducible apply Same.mk
    | with_reducible exact .inr rfl
    | exact .inl (hw.bit _ (by decide))
    | exact .inr (fun _ _ => rfl)
    | (intro x; have hx : Keeps w P s0 x := by { dsimp only [x]; repeat' first
          | with_reducible assumption
          | with_reducible exact Covers.of hw (by decide)
          | with_reducible apply Same.mk
          | with_reducible exact .inr rfl
          | exact .inl (hw.bit _ (by decide))
          | exact .inr (fun _ _ => rfl)
          | with_reducible exact Keeps.refl _
          | with_reducible apply State.modPlot_keeps
          | with_reducible apply State.modPlt_keeps
          | with_reducible apply State.setPlotState_keeps
          | with_reducible apply freezeAnneal_keeps
          | with_reducible apply clearJobRest_keeps
          | with_reducible apply stopEngines_keeps
          | with_reducible apply Keeps.foldl
          | split
          | with_reducible apply Keeps.upd
          | exact rfl
          | intro y
          | lift_lets }; clear_value x)
    | intro x
    | with_reducible exact Keeps.refl _
    | with_reducible apply State.modPlot_keeps
    | with_reducible apply State.modPlt_keeps
    | with_reducible apply State.setPlotState_keeps
    | with_reducible apply freezeAnneal_keeps
    | with_reducible apply clearJobRest_keeps
    | with_reducible apply stopEngines_keeps
    | with_reducible apply Keeps.foldl
    | split
    | with_reducible apply Keeps.upd
    | exact rfl
    | lift_lets

theorem reviewPlot_keeps {w : Nat} {P : PlotId → Bool} {s0 s : State} (q : PlotId) (hK : Keeps w P s0 s) (hw : Covers w 137052720 := by exact Covers.of (by assumption) (by decide)) (hP : P q = true := by first | assumption | exact ‹∀ q, P q = true› _) :
    Keeps w P s0 (reviewPlot s q) := by
  unfold reviewPlot
  repeat' first
    | with_reducible assumption
    | with_reducible exact Covers.of hw (by decide)
    | (intro x; have hx : Keeps w P s0 x := by { dsimp only [x]; repeat' first
          | with_reducible assumption
          | with_reducible exact Covers.of hw (by decide)
          | with_reducible exact Keeps.refl _
          | with_reducible apply State.setPlotState_keeps
          | with_reducible apply startStop_keeps
          | split
          | intro y
          | lift_lets }; clear_value x)
    | intro x
    | with_reducible exact Keeps.refl _
    | with_reducible apply State.setPlotState_keeps
    | with_reducible apply startStop_keeps
    | split
    | lift_lets

theorem stopEnded_keeps {w : Nat} {P : PlotId → Bool} {s0 s : State} (q : PlotId) (hK : Keeps w P s0 s) (hw : Covers w 137052720 := by exact Covers.of (by assumption) (by decide)) (hP : P q = true := by first | assumption | exact ‹∀ q, P q = true› _) :
    Keeps w P s0 (stopEnded s q) := by
  unfold stopEnded
  repeat' first
    | with_reducible assumption
    | with_reducible exact Covers.of hw (by decide)
    | with_reducible apply Same.mk
    | with_reducible exact .inr rfl
    | exact .inl (hw.bit _ (by decide))
    | exact .inr (fun _ _ => rfl)
    | (intro x; have hx : Keeps w P s0 x := by { dsimp only [x]; repeat' first
          | with_reducible assumption
          | with_reducible exact Covers.of hw (by decide)
          | with_reducible apply Same.mk
          | with_reducible exact .inr rfl
          | exact .inl (hw.bit _ (by decide))
          | exact .inr (fun _ _ => rfl)
          | with_reducible exact Keeps.refl _
          | with_reducible apply State.modPlt_keeps
          | with_reducible apply State.setPlotState_keeps
          | with_reducible apply zeroClusters_keeps
          | with_reducible apply reviewPlot_keeps
          | split
          | with_reducible apply Keeps.upd
          | exact rfl
          | intro y
          | lift_lets }; clear_value x)
    | intro x
    | with_reducible exact Keeps.refl _
    | with_reducible apply State.modPlt_keeps
    | with_reducible apply State.setPlotState_keeps
    | with_reducible apply zeroClusters_keeps
    | with_reducible apply reviewPlot_keeps
    | split
    | with_reducible apply Keeps.upd
    | exact rfl
    | lift_lets

theorem clearingEnded_keeps {w : Nat} {P : PlotId → Bool} {s0 s : State} (q : PlotId) (hK : Keeps w P s0 s) (hw : Covers w 201392688 := by exact Covers.of (by assumption) (by decide)) (hP : P q = true := by first | assumption | exact ‹∀ q, P q = true› _) :
    Keeps w P s0 (clearingEnded s q) := by
  unfold clearingEnded
  repeat' first
    | with_reducible assumption
    | with_reducible exact Covers.of hw (by decide)
    | with_reducible apply Same.mk
    | with_reducible exact .inr rfl
    | exact .inl (hw.bit _ (by decide))
    | exact .inr (fun _ _ => rfl)
    | (intro x; have hx : Keeps w P s0 x := by { dsimp only [x]; repeat' first
          | with_reducible assumption
          | with_reducible exact Covers.of hw (by decide)
          | with_reducible apply Same.mk
          | with_reducible exact .inr rfl
          | exact .inl (hw.bit _ (by decide))
          | exact .inr (fun _ _ => rfl)
          | with_reducible exact Keeps.refl _
          | with_reducible apply State.modPlt_keeps
          | with_reducible apply State.setPlotState_keeps
          | with_reducible apply clearAllOf_keeps
          | with_reducible apply clearRemoved_keeps
          | split
          | with_reducible apply Keeps.upd
          | exact rfl
          | intro y
          | lift_lets }; clear_value x)
    | intro x
    | with_reducible exact Keeps.refl _
    | with_reducible apply State.modPlt_keeps
    | with_reducible apply State.setPlotState_keeps
    | with_reducible apply clearAllOf_keeps
    | with_reducible apply clearRemoved_keeps
    | split
    | with_reducible apply Keeps.upd
    | exact rfl
    | lift_lets

theorem resetPlot_keeps {w : Nat} {P : PlotId → Bool} {s0 s : State} (q : PlotId) (hK : Keeps w P s0 s) (hw : Covers w 137060912 := by exact Covers.of (by assumption) (by decide)) (hP : P q = true := by first | assumption | exact ‹∀ q, P q = true› _) :
    Keeps w P s0 (resetPlot s q) := by
  unfold resetPlot
  repeat' first
    | with_reducible assumption
    | with_reducible exact Covers.of hw (by decide)
    | with_reducible apply Same.mk
    | with_reducible exact .inr rfl
    | exact .inl (hw.bit _ (by decide))
    | exact .inr (fun _ _ => rfl)
    | (intro x; have hx : Keeps w P s0 x := by { dsimp only [x]; repeat' first
          | with_reducible assumption
          | with_reducible exact Covers.of hw (by decide)
          | with_reducible apply Same.mk
          | with_reducible exact .inr rfl
          | exact .inl (hw.bit _ (by decide))
          | exact .inr (fun _ _ => rfl)
          | with_reducible exact Keeps.refl _
          | with_reducible apply State.modPlt_keeps
          | with_reducible apply State.setPlotState_keeps
          | with_reducible apply stopEngines_keeps
          | with_reducible apply resetPlotBlocks_keeps
          | with_reducible apply ringHalt_keeps
          | with_reducible apply startStop_keeps
          | split
          | with_reducible apply Keeps.upd
          | exact rfl
          | intro y
          | lift_lets }; clear_value x)
    | intro x
    | with_reducible exact Keeps.refl _
    | with_reducible apply State.modPlt_keeps
    | with_reducible apply State.setPlotState_keeps
    | with_reducible apply stopEngines_keeps
    | with_reducible apply resetPlotBlocks_keeps
    | with_reducible apply ringHalt_keeps
    | with_reducible apply startStop_keeps
    | split
    | with_reducible apply Keeps.upd
    | exact rfl
    | lift_lets

theorem resetVf_keeps {w : Nat} {P : PlotId → Bool} {s0 s : State} (p : PlotId) (hK : Keeps w P s0 s) (hw : Covers w 137060912 := by exact Covers.of (by assumption) (by decide)) (hP : P p = true := by first | assumption | exact ‹∀ q, P q = true› _) :
    Keeps w P s0 (resetVf s p) := by
  unfold resetVf
  repeat' first
    | with_reducible assumption
    | with_reducible exact Covers.of hw (by decide)
    | (intro x; have hx : Keeps w P s0 x := by { dsimp only [x]; repeat' first
          | with_reducible assumption
          | with_reducible exact Covers.of hw (by decide)
          | with_reducible exact Keeps.refl _
          | with_reducible apply State.modPlt_keeps
          | with_reducible apply State.modFn_keeps
          | with_reducible apply reviewPlot_keeps
          | with_reducible apply resetPlot_keeps
          | intro y
          | lift_lets }; clear_value x)
    | intro x
    | with_reducible exact Keeps.refl _
    | with_reducible apply State.modPlt_keeps
    | with_reducible apply State.modFn_keeps
    | with_reducible apply reviewPlot_keeps
    | with_reducible apply resetPlot_keeps
    | lift_lets

theorem clearVfEnable_keeps {w : Nat} {P : PlotId → Bool} {s0 s : State} (hK : Keeps w P s0 s) (hw : Covers w 137060976 := by exact Covers.of (by assumption) (by decide)) (hP : ∀ q, P q = true := by assumption) :
    Keeps w P s0 (clearVfEnable s) := by
  unfold clearVfEnable
  repeat' first
    | with_reducible assumption
    | with_reducible exact Covers.of hw (by decide)
    | with_reducible exact .inl hP
    | with_reducible exact hP _
    | with_reducible apply Same.mk
    | with_reducible exact .inr rfl
    | exact .inl (hw.bit _ (by decide))
    | exact .inr (fun _ _ => rfl)
    | (intro x; have hx : Keeps w P s0 x := by { dsimp only [x]; repeat' first
          | with_reducible assumption
          | with_reducible exact Covers.of hw (by decide)
          | with_reducible exact .inl hP
          | with_reducible exact hP _
          | with_reducible apply Same.mk
          | with_reducible exact .inr rfl
          | exact .inl (hw.bit _ (by decide))
          | exact .inr (fun _ _ => rfl)
          | with_reducible exact Keeps.refl _
          | with_reducible apply State.modFn_keeps
          | with_reducible apply resetVf_keeps
          | with_reducible apply Keeps.eachPlot
          | with_reducible apply Keeps.upd
          | exact rfl
          | intro y
          | lift_lets }; clear_value x)
    | intro x
    | with_reducible exact Keeps.refl _
    | with_reducible apply State.modFn_keeps
    | with_reducible apply resetVf_keeps
    | with_reducible apply Keeps.eachPlot
    | with_reducible apply Keeps.upd
    | exact rfl
    | lift_lets

end Sys2Proof.Machine
end

