-- ==== Sys2Proof/Laws/KeepsNoise.lean ====
section
/-!
SUPPORT. Sys2Proof/Laws/KeepsNoise.lean: the operations over tape, RNG, flash lanes and the mesh keep what Keeps says.
-/
namespace Sys2Proof.Machine

set_option Elab.async false
set_option linter.all false

/-! ### Sys2Proof/Machine/Noise.lean -/

theorem State.modWell_keeps {w : Nat} {P : PlotId → Bool} {s0 s : State} (t : TileId) (f : Well → Well) (hK : Keeps w P s0 s) (hw : Covers w 8192 := by exact Covers.of (by assumption) (by decide)) :
    Keeps w P s0 (State.modWell s t f) := by
  unfold State.modWell
  repeat' first
    | with_reducible assumption
    | with_reducible exact Covers.of hw (by decide)
    | with_reducible apply Same.mk
    | with_reducible exact .inr rfl
    | exact .inl (hw.bit _ (by decide))
    | exact .inr (fun _ _ => rfl)
    | intro x
    | with_reducible exact Keeps.refl _
    | with_reducible apply Keeps.upd
    | exact rfl

theorem State.modNse_keeps {w : Nat} {P : PlotId → Bool} {s0 s : State} (q : PlotId) (f : NsePlot → NsePlot) (hK : Keeps w P s0 s) (hP : P q = true := by first | assumption | exact ‹∀ q, P q = true› _) :
    Keeps w P s0 (State.modNse s q f) := by
  unfold State.modNse
  repeat' first
    | with_reducible assumption
    | with_reducible apply Same.mk
    | with_reducible exact .inr rfl
    | exact .inr (fun _ _ => rfl)
    | intro x
    | with_reducible exact Keeps.refl _
    | with_reducible apply State.modPlot_keeps
    | with_reducible apply Keeps.upd
    | exact rfl

theorem State.modLane_keeps {w : Nat} {P : PlotId → Bool} {s0 s : State} (q : PlotId) (t : Fin 64) (f : TapeLane → TapeLane) (hK : Keeps w P s0 s) (hP : P q = true := by first | assumption | exact ‹∀ q, P q = true› _) :
    Keeps w P s0 (State.modLane s q t f) := by
  unfold State.modLane
  repeat' first
    | with_reducible assumption
    | with_reducible apply Same.mk
    | with_reducible exact .inr rfl
    | exact .inr (fun _ _ => rfl)
    | intro x
    | with_reducible exact Keeps.refl _
    | with_reducible apply State.modNse_keeps
    | with_reducible apply Keeps.upd
    | exact rfl

theorem State.modLive_keeps {w : Nat} {P : PlotId → Bool} {s0 s : State} (q : PlotId) (f : AnShow → AnShow) (hK : Keeps w P s0 s) (hP : P q = true := by first | assumption | exact ‹∀ q, P q = true› _) :
    Keeps w P s0 (State.modLive s q f) := by
  unfold State.modLive
  repeat' first
    | with_reducible assumption
    | with_reducible apply Same.mk
    | with_reducible exact .inr rfl
    | exact .inr (fun _ _ => rfl)
    | intro x
    | with_reducible exact Keeps.refl _
    | with_reducible apply State.modPlot_keeps
    | with_reducible apply Keeps.upd
    | exact rfl

theorem fetchLaneAux_keeps {w : Nat} {P : PlotId → Bool} {s0 s : State} (n : Nat) (q : PlotId) (t : Fin 64) (h : Keeps w P s0 s)
    (hw : Covers w 134217792 := by exact Covers.of (by assumption) (by decide))
    (hP : P q = true := by first | assumption | exact ‹∀ q, P q = true› _) : Keeps w P s0 (fetchLaneAux n s q t) := by
  induction n generalizing s with
  | zero => exact h
  | succ n ih =>
    unfold fetchLaneAux
    lift_lets
    intro c ns l
    split
    · exact h
    · split
      · exact ih (State.hostRead_keeps _ _ _ _ (State.modLane_keeps _ _ _ h))
      · split
        · exact ih (State.hostRead_keeps _ _ _ _ (State.modLane_keeps _ _ _ h))
        · exact h

theorem fetchLane_keeps {w : Nat} {P : PlotId → Bool} {s0 s : State} (q : PlotId) (t : Fin 64) (h : Keeps w P s0 s)
    (hw : Covers w 134217792 := by exact Covers.of (by assumption) (by decide))
    (hP : P q = true := by first | assumption | exact ‹∀ q, P q = true› _) : Keeps w P s0 (fetchLane s q t) :=
  fetchLaneAux_keeps 5 q t h

theorem fetchLanes_keeps {w : Nat} {P : PlotId → Bool} {s0 s : State} (q : PlotId) (hK : Keeps w P s0 s) (hw : Covers w 134217792 := by exact Covers.of (by assumption) (by decide)) (hP : P q = true := by first | assumption | exact ‹∀ q, P q = true› _) :
    Keeps w P s0 (fetchLanes s q) := by
  unfold fetchLanes
  repeat' first
    | with_reducible assumption
    | with_reducible exact Covers.of hw (by decide)
    | intro x
    | with_reducible exact Keeps.refl _
    | with_reducible apply fetchLane_keeps
    | with_reducible apply Keeps.foldl

theorem checkLow_keeps {w : Nat} {P : PlotId → Bool} {s0 s : State} (q : PlotId) (t : Fin 64) (hK : Keeps w P s0 s) (hw : Covers w 134217760 := by exact Covers.of (by assumption) (by decide)) (hP : P q = true := by first | assumption | exact ‹∀ q, P q = true› _) :
    Keeps w P s0 (checkLow s q t) := by
  unfold checkLow
  repeat' first
    | with_reducible assumption
    | with_reducible exact Covers.of hw (by decide)
    | with_reducible apply Same.mk
    | with_reducible exact .inr rfl
    | exact .inl (hw.bit _ (by decide))
    | exact .inr (fun _ _ => rfl)
    | (intro x; have hx : Keeps w P s0 x := by { dsimp only [x]; repeat' first
          | with_reducible assumption
          | with_reducible exact Covers.of hw (by decide)
          | with_reducible apply Same.mk
          | with_reducible exact .inr rfl
          | exact .inl (hw.bit _ (by decide))
          | exact .inr (fun _ _ => rfl)
          | with_reducible exact Keeps.refl _
          | with_reducible apply State.raisePlot_keeps
          | with_reducible apply State.modNse_keeps
          | with_reducible apply State.modLane_keeps
          | split
          | with_reducible apply Keeps.upd
          | exact rfl
          | intro y
          | lift_lets }; clear_value x)
    | intro x
    | with_reducible exact Keeps.refl _
    | with_reducible apply State.raisePlot_keeps
    | with_reducible apply State.modNse_keeps
    | with_reducible apply State.modLane_keeps
    | split
    | with_reducible apply Keeps.upd
    | exact rfl
    | lift_lets

theorem tapeErr_keeps {w : Nat} {P : PlotId → Bool} {s0 s : State} (q : PlotId) (t : Nat) (reason : Nat) (seg : Nat) (hK : Keeps w P s0 s) (hP : P q = true := by first | assumption | exact ‹∀ q, P q = true› _) :
    Keeps w P s0 (tapeErr s q t reason seg) := by
  unfold tapeErr
  repeat' first
    | with_reducible assumption
    | with_reducible apply Same.mk
    | with_reducible exact .inr rfl
    | exact .inr (fun _ _ => rfl)
    | intro x
    | with_reducible exact Keeps.refl _
    | with_reducible apply State.modNse_keeps
    | with_reducible apply Keeps.upd
    | exact rfl

theorem refuseSegment_keeps {w : Nat} {P : PlotId → Bool} {s0 s : State} (q : PlotId) (t : Fin 64) (reason seg : Nat) (c : Code) (hK : Keeps w P s0 s) (hw : Covers w 137053744 := by exact Covers.of (by assumption) (by decide)) (hP : P q = true := by first | assumption | exact ‹∀ q, P q = true› _) :
    Keeps w P s0 (refuseSegment s q t reason seg c) := by
  unfold refuseSegment
  repeat' first
    | with_reducible assumption
    | with_reducible exact Covers.of hw (by decide)
    | with_reducible apply Same.mk
    | with_reducible exact .inr rfl
    | exact .inl (hw.bit _ (by decide))
    | exact .inr (fun _ _ => rfl)
    | (intro x; have hx : Keeps w P s0 x := by { dsimp only [x]; repeat' first
          | with_reducible assumption
          | with_reducible exact Covers.of hw (by decide)
          | with_reducible apply Same.mk
          | with_reducible exact .inr rfl
          | exact .inl (hw.bit _ (by decide))
          | exact .inr (fun _ _ => rfl)
          | with_reducible exact Keeps.refl _
          | with_reducible apply State.raisePlot_keeps
          | with_reducible apply State.logLine_keeps
          | with_reducible apply chargeFault_keeps
          | with_reducible apply State.modNse_keeps
          | with_reducible apply tapeErr_keeps
          | split
          | with_reducible apply Keeps.upd
          | exact rfl
          | intro y
          | lift_lets }; clear_value x)
    | intro x
    | with_reducible exact Keeps.refl _
    | with_reducible apply State.raisePlot_keeps
    | with_reducible apply State.logLine_keeps
    | with_reducible apply chargeFault_keeps
    | with_reducible apply State.modNse_keeps
    | with_reducible apply tapeErr_keeps
    | split
    | with_reducible apply Keeps.upd
    | exact rfl
    | lift_lets

theorem resumeFetching_keeps {w : Nat} {P : PlotId → Bool} {s0 s : State} (q : PlotId) (i : BitVec 16) (hK : Keeps w P s0 s) (hw : Covers w 134217792 := by exact Covers.of (by assumption) (by decide)) (hP : P q = true := by first | assumption | exact ‹∀ q, P q = true› _) :
    Keeps w P s0 (resumeFetching s q i) := by
  unfold resumeFetching
  repeat' first
    | with_reducible assumption
    | with_reducible exact Covers.of hw (by decide)
    | with_reducible apply Same.mk
    | with_reducible exact .inr rfl
    | exact .inl (hw.bit _ (by decide))
    | exact .inr (fun _ _ => rfl)
    | intro x
    | with_reducible exact Keeps.refl _
    | with_reducible apply State.modNse_keeps
    | with_reducible apply fetchLanes_keeps
    | split
    | with_reducible apply Keeps.upd
    | exact rfl

theorem segmentArrived_keeps {w : Nat} {P : PlotId → Bool} {s0 s : State} (q : PlotId) (t : Fin 64) (r : Fetched) (hK : Keeps w P s0 s) (hw : Covers w 673924721 := by exact Covers.of (by assumption) (by decide)) (hP : P q = true := by first | assumption | exact ‹∀ q, P q = true› _) :
    Keeps w P s0 (segmentArrived s q t r) := by
  unfold segmentArrived
  repeat' first
    | with_reducible assumption
    | with_reducible exact Covers.of hw (by decide)
    | with_reducible apply Same.mk
    | with_reducible exact .inr rfl
    | exact .inl (hw.bit _ (by decide))
    | exact .inr (fun _ _ => rfl)
    | (intro x; have hx : Keeps w P s0 x := by { dsimp only [x]; repeat' first
          | with_reducible assumption
          | with_reducible exact Covers.of hw (by decide)
          | with_reducible apply Same.mk
          | with_reducible exact .inr rfl
          | exact .inl (hw.bit _ (by decide))
          | exact .inr (fun _ _ => rfl)
          | with_reducible exact Keeps.refl _
          | with_reducible apply State.takeFree_keeps
          | with_reducible apply dmaError_keeps
          | with_reducible apply State.modLane_keeps
          | with_reducible apply fetchLane_keeps
          | with_reducible apply checkLow_keeps
          | with_reducible apply refuseSegment_keeps
          | refine Keeps.of_snd (by assumption) ?_
          | split
          | with_reducible apply Keeps.upd
          | exact rfl
          | intro y
          | lift_lets }; clear_value x)
    | intro x
    | with_reducible exact Keeps.refl _
    | with_reducible apply State.takeFree_keeps
    | with_reducible apply dmaError_keeps
    | with_reducible apply State.modLane_keeps
    | with_reducible apply fetchLane_keeps
    | with_reducible apply checkLow_keeps
    | with_reducible apply refuseSegment_keeps
    | refine Keeps.of_snd (by assumption) ?_
    | split
    | with_reducible apply Keeps.upd
    | exact rfl
    | lift_lets

theorem beginLanes_keeps {w : Nat} {P : PlotId → Bool} {s0 s : State} (q : PlotId) (hK : Keeps w P s0 s) (hP : P q = true := by first | assumption | exact ‹∀ q, P q = true› _) :
    Keeps w P s0 (beginLanes s q) := by
  unfold beginLanes
  repeat' first
    | with_reducible assumption
    | with_reducible apply Same.mk
    | with_reducible exact .inr rfl
    | exact .inr (fun _ _ => rfl)
    | intro x
    | with_reducible exact Keeps.refl _
    | with_reducible apply State.modNse_keeps
    | split
    | with_reducible apply Keeps.upd
    | exact rfl

theorem checkLows_keeps {w : Nat} {P : PlotId → Bool} {s0 s : State} (q : PlotId) (hK : Keeps w P s0 s) (hw : Covers w 134217760 := by exact Covers.of (by assumption) (by decide)) (hP : P q = true := by first | assumption | exact ‹∀ q, P q = true› _) :
    Keeps w P s0 (checkLows s q) := by
  unfold checkLows
  repeat' first
    | with_reducible assumption
    | with_reducible exact Covers.of hw (by decide)
    | intro x
    | with_reducible exact Keeps.refl _
    | with_reducible apply checkLow_keeps
    | with_reducible apply Keeps.foldl
    | split

theorem attemptLanes_keeps {w : Nat} {P : PlotId → Bool} {s0 s : State} (q : PlotId) (hK : Keeps w P s0 s) (hw : Covers w 134217824 := by exact Covers.of (by assumption) (by decide)) (hP : P q = true := by first | assumption | exact ‹∀ q, P q = true› _) :
    Keeps w P s0 (attemptLanes s q) := by
  unfold attemptLanes
  repeat' first
    | with_reducible assumption
    | with_reducible exact Covers.of hw (by decide)
    | intro x
    | with_reducible exact Keeps.refl _
    | with_reducible apply fetchLanes_keeps
    | with_reducible apply beginLanes_keeps
    | with_reducible apply checkLows_keeps

theorem writeSegment_keeps {w : Nat} {P : PlotId → Bool} {s0 s : State} (q : PlotId) (t : Fin 64) (words : List Nat) (last : Bool) (hK : Keeps w P s0 s) (hw : Covers w 134217760 := by exact Covers.of (by assumption) (by decide)) (hP : P q = true := by first | assumption | exact ‹∀ q, P q = true› _) :
    Keeps w P s0 (writeSegment s q t words last) := by
  unfold writeSegment
  repeat' first
    | with_reducible assumption
    | with_reducible exact Covers.of hw (by decide)
    | with_reducible apply Same.mk
    | with_reducible exact .inr rfl
    | exact .inl (hw.bit _ (by decide))
    | exact .inr (fun _ _ => rfl)
    | (intro x; have hx : Keeps w P s0 x := by { dsimp only [x]; repeat' first
          | with_reducible assumption
          | with_reducible exact Covers.of hw (by decide)
          | with_reducible apply Same.mk
          | with_reducible exact .inr rfl
          | exact .inl (hw.bit _ (by decide))
          | exact .inr (fun _ _ => rfl)
          | with_reducible exact Keeps.refl _
          | with_reducible apply State.hostWrite_keeps
          | with_reducible apply State.modLane_keeps
          | with_reducible apply checkLow_keeps
          | split
          | with_reducible apply Keeps.upd
          | exact rfl
          | intro y
          | lift_lets }; clear_value x)
    | intro x
    | with_reducible exact Keeps.refl _
    | with_reducible apply State.hostWrite_keeps
    | with_reducible apply State.modLane_keeps
    | with_reducible apply checkLow_keeps
    | split
    | with_reducible apply Keeps.upd
    | exact rfl
    | lift_lets

theorem recordWrite_keeps {w : Nat} {P : PlotId → Bool} {s0 s : State} (q : PlotId) (t : Fin 64) (hK : Keeps w P s0 s) (hw : Covers w 134217760 := by exact Covers.of (by assumption) (by decide)) (hP : P q = true := by first | assumption | exact ‹∀ q, P q = true› _) :
    Keeps w P s0 (recordWrite s q t) := by
  unfold recordWrite
  repeat' first
    | with_reducible assumption
    | with_reducible exact Covers.of hw (by decide)
    | with_reducible apply Same.mk
    | with_reducible exact .inr rfl
    | exact .inl (hw.bit _ (by decide))
    | exact .inr (fun _ _ => rfl)
    | (intro x; have hx : Keeps w P s0 x := by { dsimp only [x]; repeat' first
          | with_reducible assumption
          | with_reducible exact Covers.of hw (by decide)
          | with_reducible apply Same.mk
          | with_reducible exact .inr rfl
          | exact .inl (hw.bit _ (by decide))
          | exact .inr (fun _ _ => rfl)
          | with_reducible exact Keeps.refl _
          | with_reducible apply State.modLane_keeps
          | with_reducible apply writeSegment_keeps
          | split
          | with_reducible apply Keeps.upd
          | exact rfl
          | intro y
          | lift_lets }; clear_value x)
    | intro x
    | with_reducible exact Keeps.refl _
    | with_reducible apply State.modLane_keeps
    | with_reducible apply writeSegment_keeps
    | split
    | with_reducible apply Keeps.upd
    | exact rfl
    | lift_lets

theorem writeFull_keeps {w : Nat} {P : PlotId → Bool} {s0 s : State} (n : Nat) (q : PlotId) (t : Fin 64) (h : Keeps w P s0 s)
    (hw : Covers w 134217760 := by exact Covers.of (by assumption) (by decide))
    (hP : P q = true := by first | assumption | exact ‹∀ q, P q = true› _) : Keeps w P s0 (writeFull n s q t) := by
  induction n generalizing s with
  | zero => exact h
  | succ n ih => exact ih (recordWrite_keeps _ _ h)

theorem recordEnd_keeps {w : Nat} {P : PlotId → Bool} {s0 s : State} (q : PlotId) (hK : Keeps w P s0 s) (hw : Covers w 134217760 := by exact Covers.of (by assumption) (by decide)) (hP : P q = true := by first | assumption | exact ‹∀ q, P q = true› _) :
    Keeps w P s0 (recordEnd s q) := by
  unfold recordEnd
  repeat' first
    | with_reducible assumption
    | with_reducible exact Covers.of hw (by decide)
    | with_reducible apply Same.mk
    | with_reducible exact .inr rfl
    | exact .inl (hw.bit _ (by decide))
    | exact .inr (fun _ _ => rfl)
    | (intro x; have hx : Keeps w P s0 x := by { dsimp only [x]; repeat' first
          | with_reducible assumption
          | with_reducible exact Covers.of hw (by decide)
          | with_reducible apply Same.mk
          | with_reducible exact .inr rfl
          | exact .inl (hw.bit _ (by decide))
          | exact .inr (fun _ _ => rfl)
          | with_reducible exact Keeps.refl _
          | with_reducible apply State.modLane_keeps
          | with_reducible apply writeSegment_keeps
          | with_reducible apply writeFull_keeps
          | with_reducible apply Keeps.foldl
          | split
          | with_reducible apply Keeps.upd
          | exact rfl
          | intro y
          | lift_lets }; clear_value x)
    | intro x
    | with_reducible exact Keeps.refl _
    | with_reducible apply State.modLane_keeps
    | with_reducible apply writeSegment_keeps
    | with_reducible apply writeFull_keeps
    | with_reducible apply Keeps.foldl
    | split
    | with_reducible apply Keeps.upd
    | exact rfl
    | lift_lets

theorem tapeDoorbell_keeps {w : Nat} {P : PlotId → Bool} {s0 s : State} (q : PlotId) (t : Fin 64) (index : BitVec 16) (hK : Keeps w P s0 s) (hw : Covers w 134218864 := by exact Covers.of (by assumption) (by decide)) (hP : P q = true := by first | assumption | exact ‹∀ q, P q = true› _) :
    Keeps w P s0 (tapeDoorbell s q t index) := by
  unfold tapeDoorbell
  repeat' first
    | with_reducible assumption
    | with_reducible exact Covers.of hw (by decide)
    | with_reducible apply Same.mk
    | with_reducible exact .inr rfl
    | exact .inl (hw.bit _ (by decide))
    | exact .inr (fun _ _ => rfl)
    | (intro x; have hx : Keeps w P s0 x := by { dsimp only [x]; repeat' first
          | with_reducible assumption
          | with_reducible exact Covers.of hw (by decide)
          | with_reducible apply Same.mk
          | with_reducible exact .inr rfl
          | exact .inl (hw.bit _ (by decide))
          | exact .inr (fun _ _ => rfl)
          | with_reducible exact Keeps.refl _
          | with_reducible apply State.logLine_keeps
          | with_reducible apply State.modLane_keeps
          | with_reducible apply fetchLane_keeps
          | with_reducible apply checkLow_keeps
          | with_reducible apply tapeErr_keeps
          | split
          | with_reducible apply Keeps.upd
          | exact rfl
          | intro y
          | lift_lets }; clear_value x)
    | intro x
    | with_reducible exact Keeps.refl _
    | with_reducible apply State.logLine_keeps
    | with_reducible apply State.modLane_keeps
    | with_reducible apply fetchLane_keeps
    | with_reducible apply checkLow_keeps
    | with_reducible apply tapeErr_keeps
    | split
    | with_reducible apply Keeps.upd
    | exact rfl
    | lift_lets

theorem State.modRng_keeps {w : Nat} {P : PlotId → Bool} {s0 s : State} (q : PlotId) (f : RngSet → RngSet) (hK : Keeps w P s0 s) (hw : Covers w 8192 := by exact Covers.of (by assumption) (by decide)) :
    Keeps w P s0 (State.modRng s q f) := by
  unfold State.modRng
  repeat' first
    | with_reducible assumption
    | with_reducible exact Covers.of hw (by decide)
    | with_reducible apply Same.mk
    | with_reducible exact .inr rfl
    | exact .inl (hw.bit _ (by decide))
    | exact .inr (fun _ _ => rfl)
    | intro x
    | with_reducible exact Keeps.refl _
    | with_reducible apply Keeps.upd
    | exact rfl

theorem markChannelsUp_keeps {w : Nat} {P : PlotId → Bool} {s0 s : State} (hK : Keeps w P s0 s) (hw : Covers w 8192 := by exact Covers.of (by assumption) (by decide)) :
    Keeps w P s0 (markChannelsUp s) := by
  unfold markChannelsUp
  repeat' first
    | with_reducible assumption
    | with_reducible exact Covers.of hw (by decide)
    | with_reducible apply Same.mk
    | with_reducible exact .inr rfl
    | exact .inl (hw.bit _ (by decide))
    | exact .inr (fun _ _ => rfl)
    | intro x
    | with_reducible exact Keeps.refl _
    | with_reducible apply State.modRng_keeps
    | with_reducible apply Keeps.foldl
    | with_reducible apply Keeps.upd
    | exact rfl

theorem noteHealth_keeps {w : Nat} {P : PlotId → Bool} {s0 s : State} (src : NoiseSource) (apt : Bool) (fails : Nat) (hK : Keeps w P s0 s) (hw : Covers w 134226992 := by exact Covers.of (by assumption) (by decide)) :
    Keeps w P s0 (noteHealth s src apt fails) := by
  unfold noteHealth
  repeat' first
    | with_reducible assumption
    | with_reducible exact Covers.of hw (by decide)
    | with_reducible apply Same.mk
    | with_reducible exact .inr rfl
    | exact .inl (hw.bit _ (by decide))
    | exact .inr (fun _ _ => rfl)
    | (intro x; have hx : Keeps w P s0 x := by { dsimp only [x]; repeat' first
          | with_reducible assumption
          | with_reducible exact Covers.of hw (by decide)
          | with_reducible apply Same.mk
          | with_reducible exact .inr rfl
          | exact .inl (hw.bit _ (by decide))
          | exact .inr (fun _ _ => rfl)
          | with_reducible exact Keeps.refl _
          | with_reducible apply State.raisePf_keeps
          | with_reducible apply State.logLine_keeps
          | with_reducible apply State.logSuppressed_keeps
          | split
          | with_reducible apply Keeps.upd
          | exact rfl
          | intro y
          | lift_lets }; clear_value x)
    | intro x
    | with_reducible exact Keeps.refl _
    | with_reducible apply State.raisePf_keeps
    | with_reducible apply State.logLine_keeps
    | with_reducible apply State.logSuppressed_keeps
    | split
    | with_reducible apply Keeps.upd
    | exact rfl
    | lift_lets

theorem healthFail_keeps {w : Nat} {P : PlotId → Bool} {s0 s : State} (src : NoiseSource) (apt : Bool) (hK : Keeps w P s0 s) (hw : Covers w 134226992 := by exact Covers.of (by assumption) (by decide)) :
    Keeps w P s0 (healthFail s src apt) := by
  unfold healthFail
  repeat' first
    | with_reducible assumption
    | with_reducible exact Covers.of hw (by decide)
    | with_reducible apply Same.mk
    | with_reducible exact .inr rfl
    | exact .inl (hw.bit _ (by decide))
    | exact .inr (fun _ _ => rfl)
    | (intro x; have hx : Keeps w P s0 x := by { dsimp only [x]; repeat' first
          | with_reducible assumption
          | with_reducible exact Covers.of hw (by decide)
          | with_reducible apply Same.mk
          | with_reducible exact .inr rfl
          | exact .inl (hw.bit _ (by decide))
          | exact .inr (fun _ _ => rfl)
          | with_reducible exact Keeps.refl _
          | with_reducible apply State.modWell_keeps
          | with_reducible apply noteHealth_keeps
          | split
          | with_reducible apply Keeps.upd
          | exact rfl
          | intro y
          | lift_lets }; clear_value x)
    | intro x
    | with_reducible exact Keeps.refl _
    | with_reducible apply State.modWell_keeps
    | with_reducible apply noteHealth_keeps
    | split
    | with_reducible apply Keeps.upd
    | exact rfl
    | lift_lets

theorem startupPass_keeps {w : Nat} {P : PlotId → Bool} {s0 s : State} (src : NoiseSource) (hK : Keeps w P s0 s) (hw : Covers w 8192 := by exact Covers.of (by assumption) (by decide)) :
    Keeps w P s0 (startupPass s src) := by
  unfold startupPass
  repeat' first
    | with_reducible assumption
    | with_reducible exact Covers.of hw (by decide)
    | with_reducible apply Same.mk
    | with_reducible exact .inr rfl
    | exact .inl (hw.bit _ (by decide))
    | exact .inr (fun _ _ => rfl)
    | (intro x; have hx : Keeps w P s0 x := by { dsimp only [x]; repeat' first
          | with_reducible assumption
          | with_reducible exact Covers.of hw (by decide)
          | with_reducible apply Same.mk
          | with_reducible exact .inr rfl
          | exact .inl (hw.bit _ (by decide))
          | exact .inr (fun _ _ => rfl)
          | with_reducible exact Keeps.refl _
          | with_reducible apply State.modWell_keeps
          | with_reducible apply markChannelsUp_keeps
          | split
          | with_reducible apply Keeps.upd
          | exact rfl
          | intro y
          | lift_lets }; clear_value x)
    | intro x
    | with_reducible exact Keeps.refl _
    | with_reducible apply State.modWell_keeps
    | with_reducible apply markChannelsUp_keeps
    | split
    | with_reducible apply Keeps.upd
    | exact rfl
    | lift_lets

theorem retryWell_keeps {w : Nat} {P : PlotId → Bool} {s0 s : State} (t : TileId) (hK : Keeps w P s0 s) (hw : Covers w 8192 := by exact Covers.of (by assumption) (by decide)) :
    Keeps w P s0 (retryWell s t) := by
  unfold retryWell
  repeat' first
    | with_reducible assumption
    | with_reducible exact Covers.of hw (by decide)
    | with_reducible apply Same.mk
    | with_reducible exact .inr rfl
    | exact .inl (hw.bit _ (by decide))
    | exact .inr (fun _ _ => rfl)
    | intro x
    | with_reducible exact Keeps.refl _
    | with_reducible apply State.modWell_keeps
    | split
    | with_reducible apply Keeps.upd
    | exact rfl

theorem retryChannel_keeps {w : Nat} {P : PlotId → Bool} {s0 s : State} (c : Fin 4) (hK : Keeps w P s0 s) (hw : Covers w 8192 := by exact Covers.of (by assumption) (by decide)) :
    Keeps w P s0 (retryChannel s c) := by
  unfold retryChannel
  repeat' first
    | with_reducible assumption
    | with_reducible exact Covers.of hw (by decide)
    | with_reducible apply Same.mk
    | with_reducible exact .inr rfl
    | exact .inl (hw.bit _ (by decide))
    | exact .inr (fun _ _ => rfl)
    | (intro x; have hx : Keeps w P s0 x := by { dsimp only [x]; repeat' first
          | with_reducible assumption
          | with_reducible exact Covers.of hw (by decide)
          | with_reducible apply Same.mk
          | with_reducible exact .inr rfl
          | exact .inl (hw.bit _ (by decide))
          | exact .inr (fun _ _ => rfl)
          | with_reducible exact Keeps.refl _
          | with_reducible apply markChannelsUp_keeps
          | split
          | with_reducible apply Keeps.upd
          | exact rfl
          | intro y
          | lift_lets }; clear_value x)
    | intro x
    | with_reducible exact Keeps.refl _
    | with_reducible apply markChannelsUp_keeps
    | split
    | with_reducible apply Keeps.upd
    | exact rfl
    | lift_lets

theorem drawStart_keeps {w : Nat} {P : PlotId → Bool} {s0 s : State} (t : TileId) (hK : Keeps w P s0 s) (hw : Covers w 8192 := by exact Covers.of (by assumption) (by decide)) :
    Keeps w P s0 (drawStart s t) := by
  unfold drawStart
  repeat' first
    | with_reducible assumption
    | with_reducible exact Covers.of hw (by decide)
    | with_reducible apply Same.mk
    | with_reducible exact .inr rfl
    | exact .inl (hw.bit _ (by decide))
    | exact .inr (fun _ _ => rfl)
    | intro x
    | with_reducible exact Keeps.refl _
    | with_reducible apply State.modWell_keeps
    | split
    | with_reducible apply Keeps.upd
    | exact rfl

theorem conditioner_keeps {w : Nat} {P : PlotId → Bool} {s0 s : State} (t : TileId) (bits : BitVec 128) (hK : Keeps w P s0 s) (hw : Covers w 8192 := by exact Covers.of (by assumption) (by decide)) :
    Keeps w P s0 (conditioner s t bits) := by
  unfold conditioner
  repeat' first
    | with_reducible assumption
    | with_reducible exact Covers.of hw (by decide)
    | with_reducible apply Same.mk
    | with_reducible exact .inr rfl
    | exact .inl (hw.bit _ (by decide))
    | exact .inr (fun _ _ => rfl)
    | intro x
    | with_reducible exact Keeps.refl _
    | with_reducible apply State.modWell_keeps
    | split
    | with_reducible apply Keeps.upd
    | exact rfl

theorem channelOutput_keeps {w : Nat} {P : PlotId → Bool} {s0 s : State} (c : Fin 4) (bits : BitVec 256) (hK : Keeps w P s0 s) (hw : Covers w 8192 := by exact Covers.of (by assumption) (by decide)) :
    Keeps w P s0 (channelOutput s c bits) := by
  unfold channelOutput
  repeat' first
    | with_reducible assumption
    | with_reducible exact Covers.of hw (by decide)
    | with_reducible apply Same.mk
    | with_reducible exact .inr rfl
    | exact .inl (hw.bit _ (by decide))
    | exact .inr (fun _ _ => rfl)
    | (intro x; have hx : Keeps w P s0 x := by { dsimp only [x]; repeat' first
          | with_reducible assumption
          | with_reducible exact Covers.of hw (by decide)
          | with_reducible apply Same.mk
          | with_reducible exact .inr rfl
          | exact .inl (hw.bit _ (by decide))
          | exact .inr (fun _ _ => rfl)
          | with_reducible exact Keeps.refl _
          | split
          | with_reducible apply Keeps.upd
          | exact rfl
          | intro y
          | lift_lets }; clear_value x)
    | intro x
    | with_reducible exact Keeps.refl _
    | split
    | with_reducible apply Keeps.upd
    | exact rfl
    | lift_lets

theorem rngReady_keeps {w : Nat} {P : PlotId → Bool} {s0 s : State} (q : PlotId) (hK : Keeps w P s0 s) (hw : Covers w 134217776 := by exact Covers.of (by assumption) (by decide)) (hP : P q = true := by first | assumption | exact ‹∀ q, P q = true› _) :
    Keeps w P s0 (rngReady s q) := by
  unfold rngReady
  repeat' first
    | with_reducible assumption
    | with_reducible exact Covers.of hw (by decide)
    | intro x
    | with_reducible exact Keeps.refl _
    | with_reducible apply State.raisePf_keeps
    | with_reducible apply State.raisePlot_keeps
    | split

theorem rngEnd_keeps {w : Nat} {P : PlotId → Bool} {s0 s : State} (q : PlotId) (result : BitVec 4) (hK : Keeps w P s0 s) (hw : Covers w 134225968 := by exact Covers.of (by assumption) (by decide)) (hP : P q = true := by first | assumption | exact ‹∀ q, P q = true› _) :
    Keeps w P s0 (rngEnd s q result) := by
  unfold rngEnd
  repeat' first
    | with_reducible assumption
    | with_reducible exact Covers.of hw (by decide)
    | with_reducible apply Same.mk
    | with_reducible exact .inr rfl
    | exact .inl (hw.bit _ (by decide))
    | exact .inr (fun _ _ => rfl)
    | (intro x; have hx : Keeps w P s0 x := by { dsimp only [x]; repeat' first
          | with_reducible assumption
          | with_reducible exact Covers.of hw (by decide)
          | with_reducible apply Same.mk
          | with_reducible exact .inr rfl
          | exact .inl (hw.bit _ (by decide))
          | exact .inr (fun _ _ => rfl)
          | with_reducible exact Keeps.refl _
          | with_reducible apply State.modRng_keeps
          | with_reducible apply rngReady_keeps
          | split
          | with_reducible apply Keeps.upd
          | exact rfl
          | intro y
          | lift_lets }; clear_value x)
    | intro x
    | with_reducible exact Keeps.refl _
    | with_reducible apply State.modRng_keeps
    | with_reducible apply rngReady_keeps
    | split
    | with_reducible apply Keeps.upd
    | exact rfl
    | lift_lets

theorem rngRequest_keeps {w : Nat} {P : PlotId → Bool} {s0 s : State} (q : PlotId) (blocks : Nat) (hK : Keeps w P s0 s) (hw : Covers w 134225968 := by exact Covers.of (by assumption) (by decide)) (hP : P q = true := by first | assumption | exact ‹∀ q, P q = true› _) :
    Keeps w P s0 (rngRequest s q blocks) := by
  unfold rngRequest
  repeat' first
    | with_reducible assumption
    | with_reducible exact Covers.of hw (by decide)
    | with_reducible apply Same.mk
    | with_reducible exact .inr rfl
    | exact .inl (hw.bit _ (by decide))
    | exact .inr (fun _ _ => rfl)
    | (intro x; have hx : Keeps w P s0 x := by { dsimp only [x]; repeat' first
          | with_reducible assumption
          | with_reducible exact Covers.of hw (by decide)
          | with_reducible apply Same.mk
          | with_reducible exact .inr rfl
          | exact .inl (hw.bit _ (by decide))
          | exact .inr (fun _ _ => rfl)
          | with_reducible exact Keeps.refl _
          | with_reducible apply State.modRng_keeps
          | with_reducible apply rngEnd_keeps
          | split
          | with_reducible apply Keeps.upd
          | exact rfl
          | intro y
          | lift_lets }; clear_value x)
    | intro x
    | with_reducible exact Keeps.refl _
    | with_reducible apply State.modRng_keeps
    | with_reducible apply rngEnd_keeps
    | split
    | with_reducible apply Keeps.upd
    | exact rfl
    | lift_lets

theorem rngExpire_keeps {w : Nat} {P : PlotId → Bool} {s0 s : State} (q : PlotId) (hK : Keeps w P s0 s) (hw : Covers w 134225969 := by exact Covers.of (by assumption) (by decide)) (hP : P q = true := by first | assumption | exact ‹∀ q, P q = true› _) :
    Keeps w P s0 (rngExpire s q) := by
  unfold rngExpire
  repeat' first
    | with_reducible assumption
    | with_reducible exact Covers.of hw (by decide)
    | (intro x; have hx : Keeps w P s0 x := by { dsimp only [x]; repeat' first
          | with_reducible assumption
          | with_reducible exact Covers.of hw (by decide)
          | with_reducible exact Keeps.refl _
          | with_reducible apply State.advanceTo_keeps
          | with_reducible apply rngEnd_keeps
          | split
          | intro y
          | lift_lets }; clear_value x)
    | intro x
    | with_reducible exact Keeps.refl _
    | with_reducible apply State.advanceTo_keeps
    | with_reducible apply rngEnd_keeps
    | split
    | lift_lets

theorem rngLost_keeps {w : Nat} {P : PlotId → Bool} {s0 s : State} (q : PlotId) (hK : Keeps w P s0 s) (hw : Covers w 134225968 := by exact Covers.of (by assumption) (by decide)) (hP : P q = true := by first | assumption | exact ‹∀ q, P q = true› _) :
    Keeps w P s0 (rngLost s q) := by
  unfold rngLost
  repeat' first
    | with_reducible assumption
    | with_reducible exact Covers.of hw (by decide)
    | with_reducible apply Same.mk
    | with_reducible exact .inr rfl
    | exact .inl (hw.bit _ (by decide))
    | exact .inr (fun _ _ => rfl)
    | (intro x; have hx : Keeps w P s0 x := by { dsimp only [x]; repeat' first
          | with_reducible assumption
          | with_reducible exact Covers.of hw (by decide)
          | with_reducible apply Same.mk
          | with_reducible exact .inr rfl
          | exact .inl (hw.bit _ (by decide))
          | exact .inr (fun _ _ => rfl)
          | with_reducible exact Keeps.refl _
          | with_reducible apply State.modRng_keeps
          | with_reducible apply rngEnd_keeps
          | split
          | with_reducible apply Keeps.upd
          | exact rfl
          | intro y
          | lift_lets }; clear_value x)
    | intro x
    | with_reducible exact Keeps.refl _
    | with_reducible apply State.modRng_keeps
    | with_reducible apply rngEnd_keeps
    | split
    | with_reducible apply Keeps.upd
    | exact rfl
    | lift_lets

theorem deepBlock_keeps {w : Nat} {P : PlotId → Bool} {s0 s : State} (hK : Keeps w P s0 s) (hw : Covers w 134225970 := by exact Covers.of (by assumption) (by decide)) (hP : ∀ q, P q = true := by assumption) :
    Keeps w P s0 (deepBlock s) := by
  unfold deepBlock
  repeat' first
    | with_reducible assumption
    | with_reducible exact Covers.of hw (by decide)
    | with_reducible exact .inl hP
    | with_reducible exact hP _
    | with_reducible apply Same.mk
    | with_reducible exact .inr rfl
    | exact .inl (hw.bit _ (by decide))
    | exact .inr (fun _ _ => rfl)
    | (intro x; have hx : Keeps w P s0 x := by { dsimp only [x]; repeat' first
          | with_reducible assumption
          | with_reducible exact Covers.of hw (by decide)
          | with_reducible exact .inl hP
          | with_reducible exact hP _
          | with_reducible apply Same.mk
          | with_reducible exact .inr rfl
          | exact .inl (hw.bit _ (by decide))
          | exact .inr (fun _ _ => rfl)
          | with_reducible exact Keeps.refl _
          | with_reducible apply State.hostWrite_keeps
          | with_reducible apply State.modWell_keeps
          | with_reducible apply State.modLive_keeps
          | with_reducible apply State.modRng_keeps
          | with_reducible apply rngEnd_keeps
          | split
          | with_reducible apply Keeps.upd
          | exact rfl
          | intro y
          | lift_lets }; clear_value x)
    | intro x
    | with_reducible exact Keeps.refl _
    | with_reducible apply State.hostWrite_keeps
    | with_reducible apply State.modWell_keeps
    | with_reducible apply State.modLive_keeps
    | with_reducible apply State.modRng_keeps
    | with_reducible apply rngEnd_keeps
    | split
    | with_reducible apply Keeps.upd
    | exact rfl
    | lift_lets

/-! ### Sys2Proof/Machine/Lanes.lean -/

theorem State.modLaneOf_keeps {w : Nat} {P : PlotId → Bool} {s0 s : State} (l : LaneId) (f : FlashLane → FlashLane) (hK : Keeps w P s0 s) (hw : Covers w 16384 := by exact Covers.of (by assumption) (by decide)) :
    Keeps w P s0 (State.modLaneOf s l f) := by
  unfold State.modLaneOf
  repeat' first
    | with_reducible assumption
    | with_reducible exact Covers.of hw (by decide)
    | with_reducible apply Same.mk
    | with_reducible exact .inr rfl
    | exact .inl (hw.bit _ (by decide))
    | exact .inr (fun _ _ => rfl)
    | intro x
    | with_reducible exact Keeps.refl _
    | with_reducible apply Keeps.upd
    | exact rfl

theorem State.modFln_keeps {w : Nat} {P : PlotId → Bool} {s0 s : State} (q : PlotId) (f : FlnPlot → FlnPlot) (hK : Keeps w P s0 s) (hP : P q = true := by first | assumption | exact ‹∀ q, P q = true› _) :
    Keeps w P s0 (State.modFln s q f) := by
  unfold State.modFln
  repeat' first
    | with_reducible assumption
    | with_reducible apply Same.mk
    | with_reducible exact .inr rfl
    | exact .inr (fun _ _ => rfl)
    | intro x
    | with_reducible exact Keeps.refl _
    | with_reducible apply State.modPlot_keeps
    | with_reducible apply Keeps.upd
    | exact rfl

theorem State.modIdx_keeps {w : Nat} {P : PlotId → Bool} {s0 s : State} (q : PlotId) (i : Fin 16) (f : IndexState → IndexState) (hK : Keeps w P s0 s) (hP : P q = true := by first | assumption | exact ‹∀ q, P q = true› _) :
    Keeps w P s0 (State.modIdx s q i f) := by
  unfold State.modIdx
  repeat' first
    | with_reducible assumption
    | with_reducible apply Same.mk
    | with_reducible exact .inr rfl
    | exact .inr (fun _ _ => rfl)
    | intro x
    | with_reducible exact Keeps.refl _
    | with_reducible apply State.modFln_keeps
    | with_reducible apply Keeps.upd
    | exact rfl

theorem State.modFlnCnt_keeps {w : Nat} {P : PlotId → Bool} {s0 s : State} (q : PlotId) (f : FlnCnt → FlnCnt) (hK : Keeps w P s0 s) (hP : P q = true := by first | assumption | exact ‹∀ q, P q = true› _) :
    Keeps w P s0 (State.modFlnCnt s q f) := by
  unfold State.modFlnCnt
  repeat' first
    | with_reducible assumption
    | with_reducible apply Same.mk
    | with_reducible exact .inr rfl
    | exact .inr (fun _ _ => rfl)
    | intro x
    | with_reducible exact Keeps.refl _
    | with_reducible apply State.modFln_keeps
    | with_reducible apply Keeps.upd
    | exact rfl

theorem issueOp_keeps {w : Nat} {P : PlotId → Bool} {s0 s : State} (l : LaneId) (o : FlashOp) (hK : Keeps w P s0 s) (hw : Covers w 134234112 := by exact Covers.of (by assumption) (by decide)) :
    Keeps w P s0 (issueOp s l o) := by
  unfold issueOp
  repeat' first
    | with_reducible assumption
    | with_reducible exact Covers.of hw (by decide)
    | with_reducible apply Same.mk
    | with_reducible exact .inr rfl
    | exact .inl (hw.bit _ (by decide))
    | exact .inr (fun _ _ => rfl)
    | (intro x; have hx : Keeps w P s0 x := by { dsimp only [x]; repeat' first
          | with_reducible assumption
          | with_reducible exact Covers.of hw (by decide)
          | with_reducible apply Same.mk
          | with_reducible exact .inr rfl
          | exact .inl (hw.bit _ (by decide))
          | exact .inr (fun _ _ => rfl)
          | with_reducible exact Keeps.refl _
          | with_reducible apply State.emit_keeps
          | with_reducible apply State.modLaneOf_keeps
          | split
          | with_reducible apply Keeps.upd
          | exact rfl
          | intro y
          | lift_lets }; clear_value x)
    | intro x
    | with_reducible exact Keeps.refl _
    | with_reducible apply State.emit_keeps
    | with_reducible apply State.modLaneOf_keeps
    | split
    | with_reducible apply Keeps.upd
    | exact rfl
    | lift_lets

theorem issueLaneAux_keeps {w : Nat} {P : PlotId → Bool} {s0 s : State} (n : Nat) (l : LaneId) (h : Keeps w P s0 s)
    (hw : Covers w 134234112 := by exact Covers.of (by assumption) (by decide)) : Keeps w P s0 (issueLaneAux n s l) := by
  induction n generalizing s with
  | zero => exact h
  | succ n ih =>
    unfold issueLaneAux
    split
    · exact h
    · exact ih (issueOp_keeps _ _ h)

theorem issueLane_keeps {w : Nat} {P : PlotId → Bool} {s0 s : State} (l : LaneId) (hK : Keeps w P s0 s) (hw : Covers w 134234112 := by exact Covers.of (by assumption) (by decide)) :
    Keeps w P s0 (issueLane s l) := by
  unfold issueLane
  repeat' first
    | with_reducible assumption
    | with_reducible exact Covers.of hw (by decide)
    | intro x
    | with_reducible exact Keeps.refl _
    | with_reducible apply issueLaneAux_keeps

theorem startPageInsAux_keeps {w : Nat} {P : PlotId → Bool} {s0 s : State} (n : Nat) (q : PlotId) (l : LaneId) (h : Keeps w P s0 s)
    (hw : Covers w 16384 := by exact Covers.of (by assumption) (by decide))
    (hP : P q = true := by first | assumption | exact ‹∀ q, P q = true› _) : Keeps w P s0 (startPageInsAux n s q l) := by
  induction n generalizing s with
  | zero => exact h
  | succ n ih =>
    unfold startPageInsAux
    split
    · split
      · exact ih (State.modMsh_keeps _ _ (State.modLaneOf_keeps _ _ h))
      · exact h
    · exact h

theorem startPageIns_keeps {w : Nat} {P : PlotId → Bool} {s0 s : State} (q : PlotId) (l : LaneId) (hK : Keeps w P s0 s) (hw : Covers w 134234112 := by exact Covers.of (by assumption) (by decide)) (hP : P q = true := by first | assumption | exact ‹∀ q, P q = true› _) :
    Keeps w P s0 (startPageIns s q l) := by
  unfold startPageIns
  repeat' first
    | with_reducible assumption
    | with_reducible exact Covers.of hw (by decide)
    | intro x
    | with_reducible exact Keeps.refl _
    | with_reducible apply issueLane_keeps
    | with_reducible apply startPageInsAux_keeps

theorem markSuspect_keeps {w : Nat} {P : PlotId → Bool} {s0 s : State} (l : LaneId) (ce lun kind : Nat) (hK : Keeps w P s0 s) (hw : Covers w 137053744 := by exact Covers.of (by assumption) (by decide)) (hP : ∀ q, P q = true := by assumption) :
    Keeps w P s0 (markSuspect s l ce lun kind) := by
  unfold markSuspect
  repeat' first
    | with_reducible assumption
    | with_reducible exact Covers.of hw (by decide)
    | with_reducible exact .inl hP
    | with_reducible exact hP _
    | with_reducible apply Same.mk
    | with_reducible exact .inr rfl
    | exact .inl (hw.bit _ (by decide))
    | exact .inr (fun _ _ => rfl)
    | (intro x; have hx : Keeps w P s0 x := by { dsimp only [x]; repeat' first
          | with_reducible assumption
          | with_reducible exact Covers.of hw (by decide)
          | with_reducible exact .inl hP
          | with_reducible exact hP _
          | with_reducible apply Same.mk
          | with_reducible exact .inr rfl
          | exact .inl (hw.bit _ (by decide))
          | exact .inr (fun _ _ => rfl)
          | with_reducible exact Keeps.refl _
          | with_reducible apply State.modMsh_keeps
          | with_reducible apply State.raisePf_keeps
          | with_reducible apply State.logLine_keeps
          | with_reducible apply chargeFault_keeps
          | with_reducible apply State.modLaneOf_keeps
          | with_reducible apply Keeps.foldl
          | with_reducible apply Keeps.eachPlot
          | split
          | with_reducible apply Keeps.upd
          | exact rfl
          | intro y
          | lift_lets }; clear_value x)
    | intro x
    | with_reducible exact Keeps.refl _
    | with_reducible apply State.modMsh_keeps
    | with_reducible apply State.raisePf_keeps
    | with_reducible apply State.logLine_keeps
    | with_reducible apply chargeFault_keeps
    | with_reducible apply State.modLaneOf_keeps
    | with_reducible apply Keeps.foldl
    | with_reducible apply Keeps.eachPlot
    | split
    | with_reducible apply Keeps.upd
    | exact rfl
    | lift_lets

/-! ### Sys2Proof/Machine/Mesh.lean -/

theorem State.modMesh_keeps {w : Nat} {P : PlotId → Bool} {s0 s : State} (f : MshState → MshState) (hK : Keeps w P s0 s) (hw : Covers w 512 := by exact Covers.of (by assumption) (by decide)) :
    Keeps w P s0 (State.modMesh s f) := by
  unfold State.modMesh
  repeat' first
    | with_reducible assumption
    | with_reducible exact Covers.of hw (by decide)
    | with_reducible apply Same.mk
    | with_reducible exact .inr rfl
    | exact .inl (hw.bit _ (by decide))
    | exact .inr (fun _ _ => rfl)
    | intro x
    | with_reducible exact Keeps.refl _
    | with_reducible apply Keeps.upd
    | exact rfl

theorem launchMulticast_keeps {w : Nat} {P : PlotId → Bool} {s0 s : State} (q : PlotId) (i : BitVec 16) (entry flits : Nat) (hK : Keeps w P s0 s) (hw : Covers w 134218240 := by exact Covers.of (by assumption) (by decide)) :
    Keeps w P s0 (launchMulticast s q i entry flits) := by
  unfold launchMulticast
  repeat' first
    | with_reducible assumption
    | with_reducible exact Covers.of hw (by decide)
    | with_reducible apply Same.mk
    | with_reducible exact .inr rfl
    | exact .inl (hw.bit _ (by decide))
    | exact .inr (fun _ _ => rfl)
    | (intro x; have hx : Keeps w P s0 x := by { dsimp only [x]; repeat' first
          | with_reducible assumption
          | with_reducible exact Covers.of hw (by decide)
          | with_reducible apply Same.mk
          | with_reducible exact .inr rfl
          | exact .inl (hw.bit _ (by decide))
          | exact .inr (fun _ _ => rfl)
          | with_reducible exact Keeps.refl _
          | with_reducible apply State.emit_keeps
          | with_reducible apply State.modMesh_keeps
          | split
          | with_reducible apply Keeps.upd
          | exact rfl
          | intro y
          | lift_lets }; clear_value x)
    | intro x
    | with_reducible exact Keeps.refl _
    | with_reducible apply State.emit_keeps
    | with_reducible apply State.modMesh_keeps
    | split
    | with_reducible apply Keeps.upd
    | exact rfl
    | lift_lets

theorem multicastAnswer_keeps {w : Nat} {P : PlotId → Bool} {s0 s : State} (src : NodeId) (q : PlotId) (entry : Nat) (t : NodeId) (ack : Bool) (hK : Keeps w P s0 s) (hw : Covers w 134218240 := by exact Covers.of (by assumption) (by decide)) :
    Keeps w P s0 (multicastAnswer s src q entry t ack) := by
  unfold multicastAnswer
  repeat' first
    | with_reducible assumption
    | with_reducible exact Covers.of hw (by decide)
    | with_reducible apply Same.mk
    | with_reducible exact .inr rfl
    | exact .inl (hw.bit _ (by decide))
    | exact .inr (fun _ _ => rfl)
    | (intro x; have hx : Keeps w P s0 x := by { dsimp only [x]; repeat' first
          | with_reducible assumption
          | with_reducible exact Covers.of hw (by decide)
          | with_reducible apply Same.mk
          | with_reducible exact .inr rfl
          | exact .inl (hw.bit _ (by decide))
          | exact .inr (fun _ _ => rfl)
          | with_reducible exact Keeps.refl _
          | with_reducible apply State.emit_keeps
          | with_reducible apply State.modMesh_keeps
          | split
          | with_reducible apply Keeps.upd
          | exact rfl
          | intro y
          | lift_lets }; clear_value x)
    | intro x
    | with_reducible exact Keeps.refl _
    | with_reducible apply State.emit_keeps
    | with_reducible apply State.modMesh_keeps
    | split
    | with_reducible apply Keeps.upd
    | exact rfl
    | lift_lets

theorem multicastResend_keeps {w : Nat} {P : PlotId → Bool} {s0 s : State} (src : NodeId) (q : PlotId) (entry : Nat) (t : NodeId) (hK : Keeps w P s0 s) (hw : Covers w 134218240 := by exact Covers.of (by assumption) (by decide)) (hP : P q = true := by first | assumption | exact ‹∀ q, P q = true› _) :
    Keeps w P s0 (multicastResend s src q entry t) := by
  unfold multicastResend
  repeat' first
    | with_reducible assumption
    | with_reducible exact Covers.of hw (by decide)
    | with_reducible apply Same.mk
    | with_reducible exact .inr rfl
    | exact .inl (hw.bit _ (by decide))
    | exact .inr (fun _ _ => rfl)
    | (intro x; have hx : Keeps w P s0 x := by { dsimp only [x]; repeat' first
          | with_reducible assumption
          | with_reducible exact Covers.of hw (by decide)
          | with_reducible apply Same.mk
          | with_reducible exact .inr rfl
          | exact .inl (hw.bit _ (by decide))
          | exact .inr (fun _ _ => rfl)
          | with_reducible exact Keeps.refl _
          | with_reducible apply State.modMsh_keeps
          | with_reducible apply State.emit_keeps
          | with_reducible apply State.modMesh_keeps
          | split
          | with_reducible apply Keeps.upd
          | exact rfl
          | intro y
          | lift_lets }; clear_value x)
    | intro x
    | with_reducible exact Keeps.refl _
    | with_reducible apply State.modMsh_keeps
    | with_reducible apply State.emit_keeps
    | with_reducible apply State.modMesh_keeps
    | split
    | with_reducible apply Keeps.upd
    | exact rfl
    | lift_lets

theorem multicastExpire_keeps {w : Nat} {P : PlotId → Bool} {s0 s : State} (src : NodeId) (q : PlotId) (entry : Nat) (hK : Keeps w P s0 s) (hw : Covers w 137053745 := by exact Covers.of (by assumption) (by decide)) (hP : P q = true := by first | assumption | exact ‹∀ q, P q = true› _) :
    Keeps w P s0 (multicastExpire s src q entry) := by
  unfold multicastExpire
  repeat' first
    | with_reducible assumption
    | with_reducible exact Covers.of hw (by decide)
    | with_reducible apply Same.mk
    | with_reducible exact .inr rfl
    | exact .inl (hw.bit _ (by decide))
    | exact .inr (fun _ _ => rfl)
    | (intro x; have hx : Keeps w P s0 x := by { dsimp only [x]; repeat' first
          | with_reducible assumption
          | with_reducible exact Covers.of hw (by decide)
          | with_reducible apply Same.mk
          | with_reducible exact .inr rfl
          | exact .inl (hw.bit _ (by decide))
          | exact .inr (fun _ _ => rfl)
          | with_reducible exact Keeps.refl _
          | with_reducible apply State.advanceTo_keeps
          | with_reducible apply chargeFault_keeps
          | with_reducible apply State.modMesh_keeps
          | split
          | with_reducible apply Keeps.upd
          | exact rfl
          | intro y
          | lift_lets }; clear_value x)
    | intro x
    | with_reducible exact Keeps.refl _
    | with_reducible apply State.advanceTo_keeps
    | with_reducible apply chargeFault_keeps
    | with_reducible apply State.modMesh_keeps
    | split
    | with_reducible apply Keeps.upd
    | exact rfl
    | lift_lets

theorem reserveStep_keeps {w : Nat} {P : PlotId → Bool} {s0 s : State} (q : PlotId) (i : BitVec 16) (entry : Nat) (step : CreditStep) (hK : Keeps w P s0 s) (hw : Covers w 134218240 := by exact Covers.of (by assumption) (by decide)) :
    Keeps w P s0 (reserveStep s q i entry step) := by
  unfold reserveStep
  repeat' first
    | with_reducible assumption
    | with_reducible exact Covers.of hw (by decide)
    | with_reducible apply Same.mk
    | with_reducible exact .inr rfl
    | exact .inl (hw.bit _ (by decide))
    | exact .inr (fun _ _ => rfl)
    | (intro x; have hx : Keeps w P s0 x := by { dsimp only [x]; repeat' first
          | with_reducible assumption
          | with_reducible exact Covers.of hw (by decide)
          | with_reducible apply Same.mk
          | with_reducible exact .inr rfl
          | exact .inl (hw.bit _ (by decide))
          | exact .inr (fun _ _ => rfl)
          | with_reducible exact Keeps.refl _
          | with_reducible apply State.emit_keeps
          | with_reducible apply State.modMesh_keeps
          | with_reducible apply Keeps.foldl
          | split
          | with_reducible apply Keeps.upd
          | exact rfl
          | intro y
          | lift_lets }; clear_value x)
    | intro x
    | with_reducible exact Keeps.refl _
    | with_reducible apply State.emit_keeps
    | with_reducible apply State.modMesh_keeps
    | with_reducible apply Keeps.foldl
    | split
    | with_reducible apply Keeps.upd
    | exact rfl
    | lift_lets

theorem State.modPoison_keeps {w : Nat} {P : PlotId → Bool} {s0 s : State} (f : List Nat → List Nat) (hK : Keeps w P s0 s) (hw : Covers w 512 := by exact Covers.of (by assumption) (by decide)) :
    Keeps w P s0 (State.modPoison s f) := by
  unfold State.modPoison
  repeat' first
    | with_reducible assumption
    | with_reducible exact Covers.of hw (by decide)
    | with_reducible apply Same.mk
    | with_reducible exact .inr rfl
    | exact .inl (hw.bit _ (by decide))
    | exact .inr (fun _ _ => rfl)
    | intro x
    | with_reducible exact Keeps.refl _
    | with_reducible apply State.modMesh_keeps
    | with_reducible apply Keeps.upd
    | exact rfl

theorem healRange_keeps {w : Nat} {P : PlotId → Bool} {s0 s : State} (q : PlotId) (j : Option Job) (a n : Nat) (hK : Keeps w P s0 s) (hw : Covers w 512 := by exact Covers.of (by assumption) (by decide)) :
    Keeps w P s0 (healRange s q j a n) := by
  unfold healRange
  repeat' first
    | with_reducible assumption
    | with_reducible exact Covers.of hw (by decide)
    | (intro x; have hx : Keeps w P s0 x := by { dsimp only [x]; repeat' first
          | with_reducible assumption
          | with_reducible exact Covers.of hw (by decide)
          | with_reducible exact Keeps.refl _
          | with_reducible apply State.modPoison_keeps
          | with_reducible apply Keeps.foldl
          | intro y
          | lift_lets }; clear_value x)
    | intro x
    | with_reducible exact Keeps.refl _
    | with_reducible apply State.modPoison_keeps
    | with_reducible apply Keeps.foldl
    | lift_lets

theorem healFrame_keeps {w : Nat} {P : PlotId → Bool} {s0 s : State} (q : PlotId) (b : Pool) (f : Nat) (hK : Keeps w P s0 s) (hw : Covers w 512 := by exact Covers.of (by assumption) (by decide)) :
    Keeps w P s0 (healFrame s q b f) := by
  unfold healFrame
  repeat' first
    | with_reducible assumption
    | with_reducible exact Covers.of hw (by decide)
    | intro x
    | with_reducible exact Keeps.refl _
    | with_reducible apply State.modPoison_keeps
    | split

theorem copyLines_keeps {w : Nat} {P : PlotId → Bool} {s0 s : State} (q : PlotId) (b : Pool) (fr to_ : Nat) (hK : Keeps w P s0 s) (hw : Covers w 512 := by exact Covers.of (by assumption) (by decide)) :
    Keeps w P s0 (copyLines s q b fr to_) := by
  unfold copyLines
  repeat' first
    | with_reducible assumption
    | with_reducible exact Covers.of hw (by decide)
    | intro x
    | with_reducible exact Keeps.refl _
    | with_reducible apply State.modPoison_keeps
    | split

theorem State.pokeHome_keeps {w : Nat} {P : PlotId → Bool} {s0 s : State} (q : PlotId) (a : Nat) (bs : List Byte) (hK : Keeps w P s0 s) (hw : Covers w 67109376 := by exact Covers.of (by assumption) (by decide)) (hP : P q = true := by first | assumption | exact ‹∀ q, P q = true› _) :
    Keeps w P s0 (State.pokeHome s q a bs) := by
  unfold State.pokeHome
  repeat' first
    | with_reducible assumption
    | with_reducible exact Covers.of hw (by decide)
    | (intro x; have hx : Keeps w P s0 x := by { dsimp only [x]; repeat' first
          | with_reducible assumption
          | with_reducible exact Covers.of hw (by decide)
          | with_reducible exact Keeps.refl _
          | with_reducible apply State.pokeMem_keeps
          | with_reducible apply State.modJob_keeps
          | with_reducible apply healRange_keeps
          | with_reducible apply Keeps.foldl
          | intro y
          | lift_lets }; clear_value x)
    | intro x
    | with_reducible exact Keeps.refl _
    | with_reducible apply State.pokeMem_keeps
    | with_reducible apply State.modJob_keeps
    | with_reducible apply healRange_keeps
    | with_reducible apply Keeps.foldl
    | lift_lets

theorem evict_keeps {w : Nat} {P : PlotId → Bool} {s0 s : State} (q : PlotId) (page : Nat) (hK : Keeps w P s0 s) (hw : Covers w 67108864 := by exact Covers.of (by assumption) (by decide)) (hP : P q = true := by first | assumption | exact ‹∀ q, P q = true› _) :
    Keeps w P s0 (evict s q page) := by
  unfold evict
  repeat' first
    | with_reducible assumption
    | with_reducible exact Covers.of hw (by decide)
    | with_reducible apply Same.mk
    | with_reducible exact .inr rfl
    | exact .inl (hw.bit _ (by decide))
    | exact .inr (fun _ _ => rfl)
    | (intro x; have hx : Keeps w P s0 x := by { dsimp only [x]; repeat' first
          | with_reducible assumption
          | with_reducible exact Covers.of hw (by decide)
          | with_reducible apply Same.mk
          | with_reducible exact .inr rfl
          | exact .inl (hw.bit _ (by decide))
          | exact .inr (fun _ _ => rfl)
          | with_reducible exact Keeps.refl _
          | with_reducible apply State.wipeMem_keeps
          | with_reducible apply State.modMsh_keeps
          | with_reducible apply Keeps.upd
          | exact rfl
          | intro y
          | lift_lets }; clear_value x)
    | intro x
    | with_reducible exact Keeps.refl _
    | with_reducible apply State.wipeMem_keeps
    | with_reducible apply State.modMsh_keeps
    | with_reducible apply Keeps.upd
    | exact rfl
    | lift_lets

theorem takeFrame_keeps {w : Nat} {P : PlotId → Bool} {s0 s t : State} {q : PlotId} {b : Pool} {page f : Nat} {idle : Bool}
    (e : takeFrame s q b page idle = some (f, t)) (h : Keeps w P s0 s)
    (hw : Covers w 67108864 := by exact Covers.of (by assumption) (by decide))
    (hP : P q = true := by first | assumption | exact ‹∀ q, P q = true› _) : Keeps w P s0 t := by
  unfold takeFrame at e
  split at e
  · cases e; exact h
  · cases hm : oldest s q b idle with
    | none => rw [hm] at e; cases e
    | some r => rw [hm] at e; cases e; exact evict_keeps _ _ h

theorem touchPage_keeps {w : Nat} {P : PlotId → Bool} {s0 s : State} (q : PlotId) (page : Nat) (hK : Keeps w P s0 s) (hP : P q = true := by first | assumption | exact ‹∀ q, P q = true› _) :
    Keeps w P s0 (touchPage s q page) := by
  unfold touchPage
  repeat' first
    | with_reducible assumption
    | with_reducible apply Same.mk
    | with_reducible exact .inr rfl
    | exact .inr (fun _ _ => rfl)
    | (intro x; have hx : Keeps w P s0 x := by { dsimp only [x]; repeat' first
          | with_reducible assumption
          | with_reducible apply Same.mk
          | with_reducible exact .inr rfl
          | exact .inr (fun _ _ => rfl)
          | with_reducible exact Keeps.refl _
          | with_reducible apply State.modMsh_keeps
          | with_reducible apply Keeps.foldl
          | split
          | with_reducible apply Keeps.upd
          | exact rfl
          | intro y
          | lift_lets }; clear_value x)
    | intro x
    | with_reducible exact Keeps.refl _
    | with_reducible apply State.modMsh_keeps
    | with_reducible apply Keeps.foldl
    | split
    | with_reducible apply Keeps.upd
    | exact rfl
    | lift_lets

theorem withReads_keeps {w : Nat} {P : PlotId → Bool} {s0 s : State} (q : PlotId) (j : Job) (rs : List (Nat × Nat)) (node : Option NodeId) {k : State → State}
    (h : Keeps w P s0 s) (hk : ∀ t, Keeps w P s0 t → Keeps w P s0 (k t)) (hw : Covers w 137053744 := by exact Covers.of (by assumption) (by decide)) (hP : P q = true := by first | assumption | exact ‹∀ q, P q = true› _) : Keeps w P s0 (withReads s q j rs node k) := by
  unfold withReads
  lift_lets
  intro as
  split
  · exact chargeFault_keeps _ _ _ _ h
  · split
    · exact chargeFault_keeps _ _ _ _ h
    · split
      · exact h
      · apply hk
        refine h.foldl (fun t r k => k.foldl (fun u p m => ?_))
        split
        · exact touchPage_keeps _ _ m
        · exact m

theorem makeCopy_keeps {w : Nat} {P : PlotId → Bool} {s0 s : State} (q : PlotId) (i : BitVec 16) (page : Nat) (hK : Keeps w P s0 s) (hw : Covers w 512 := by exact Covers.of (by assumption) (by decide)) (hP : P q = true := by first | assumption | exact ‹∀ q, P q = true› _) :
    Keeps w P s0 (makeCopy s q i page) := by
  unfold makeCopy
  repeat' first
    | with_reducible assumption
    | with_reducible exact Covers.of hw (by decide)
    | with_reducible apply Same.mk
    | with_reducible exact .inr rfl
    | exact .inl (hw.bit _ (by decide))
    | exact .inr (fun _ _ => rfl)
    | (intro x; have hx : Keeps w P s0 x := by { dsimp only [x]; repeat' first
          | with_reducible assumption
          | with_reducible exact Covers.of hw (by decide)
          | with_reducible apply Same.mk
          | with_reducible exact .inr rfl
          | exact .inl (hw.bit _ (by decide))
          | exact .inr (fun _ _ => rfl)
          | with_reducible exact Keeps.refl _
          | with_reducible apply State.modJob_keeps
          | with_reducible apply copyLines_keeps
          | split
          | with_reducible apply Keeps.upd
          | exact rfl
          | intro y
          | lift_lets }; clear_value x)
    | intro x
    | with_reducible exact Keeps.refl _
    | with_reducible apply State.modJob_keeps
    | with_reducible apply copyLines_keeps
    | split
    | with_reducible apply Keeps.upd
    | exact rfl
    | lift_lets

theorem takeFrames_keeps {w : Nat} {P : PlotId → Bool} {s0 s t : State} {q : PlotId} {i : BitVec 16} {l : List Nat}
    (e : takeFrames s q i l = some t) (h : Keeps w P s0 s)
    (hw : Covers w 67108864 := by exact Covers.of (by assumption) (by decide))
    (hP : P q = true := by first | assumption | exact ‹∀ q, P q = true› _) : Keeps w P s0 t := by
  induction l generalizing s with
  | nil => cases e; exact h
  | cons p ps ih =>
    unfold takeFrames at e
    split at e
    · cases e
    · split at e
      · cases e
      · rename_i hf
        exact ih e (State.modJob_keeps _ _ _ (takeFrame_keeps hf h))

theorem landBytes_keeps {w : Nat} {P : PlotId → Bool} {s0 s : State} (q : PlotId) (i : BitVec 16) (a : Nat) (bs : List Byte) (hK : Keeps w P s0 s) (hw : Covers w 512 := by exact Covers.of (by assumption) (by decide)) (hP : P q = true := by first | assumption | exact ‹∀ q, P q = true› _) :
    Keeps w P s0 (landBytes s q i a bs) := by
  unfold landBytes
  repeat' first
    | with_reducible assumption
    | with_reducible exact Covers.of hw (by decide)
    | (intro x; have hx : Keeps w P s0 x := by { dsimp only [x]; repeat' first
          | with_reducible assumption
          | with_reducible exact Covers.of hw (by decide)
          | with_reducible exact Keeps.refl _
          | with_reducible apply State.modJob_keeps
          | with_reducible apply healRange_keeps
          | split
          | intro y
          | lift_lets }; clear_value x)
    | intro x
    | with_reducible exact Keeps.refl _
    | with_reducible apply State.modJob_keeps
    | with_reducible apply healRange_keeps
    | split
    | lift_lets

theorem withWrites_keeps {w : Nat} {P : PlotId → Bool} {s0 s : State} (q : PlotId) (j : Job) (ws : List (Nat × List Byte)) (node : Option NodeId) (k : State → State) (hK : Keeps w P s0 s) (hk : ∀ t, Keeps w P s0 t → Keeps w P s0 (k t)) (hw : Covers w 204162608 := by exact Covers.of (by assumption) (by decide)) (hP : P q = true := by first | assumption | exact ‹∀ q, P q = true› _) :
    Keeps w P s0 (withWrites s q j ws node k) := by
  unfold withWrites
  repeat' first
    | with_reducible assumption
    | with_reducible exact Covers.of hw (by decide)
    | with_reducible apply Same.mk
    | with_reducible exact .inr rfl
    | exact .inl (hw.bit _ (by decide))
    | exact .inr (fun _ _ => rfl)
    | (intro x; have hx : Keeps w P s0 x := by { dsimp only [x]; repeat' first
          | with_reducible assumption
          | with_reducible exact Covers.of hw (by decide)
          | with_reducible apply Same.mk
          | with_reducible exact .inr rfl
          | exact .inl (hw.bit _ (by decide))
          | exact .inr (fun _ _ => rfl)
          | with_reducible exact Keeps.refl _
          | with_reducible apply hk
          | with_reducible apply State.modMsh_keeps
          | with_reducible apply chargeFault_keeps
          | with_reducible apply makeCopy_keeps
          | with_reducible refine takeFrames_keeps (by assumption) ?_
          | with_reducible apply landBytes_keeps
          | with_reducible apply Keeps.foldl
          | split
          | with_reducible apply Keeps.upd
          | exact rfl
          | intro y
          | lift_lets }; clear_value x)
    | intro x
    | with_reducible exact Keeps.refl _
    | with_reducible apply hk
    | with_reducible apply State.modMsh_keeps
    | with_reducible apply chargeFault_keeps
    | with_reducible apply makeCopy_keeps
    | with_reducible refine takeFrames_keeps (by assumption) ?_
    | with_reducible apply landBytes_keeps
    | with_reducible apply Keeps.foldl
    | split
    | with_reducible apply Keeps.upd
    | exact rfl
    | lift_lets

theorem firstWrite_keeps {w : Nat} {P : PlotId → Bool} {s0 s : State} (q : PlotId) (i : BitVec 16) (node : NodeId) (a : Nat) (bs : List Byte) (hK : Keeps w P s0 s) (hw : Covers w 204162608 := by exact Covers.of (by assumption) (by decide)) (hP : P q = true := by first | assumption | exact ‹∀ q, P q = true› _) :
    Keeps w P s0 (firstWrite s q i node a bs) := by
  unfold firstWrite
  repeat' first
    | with_reducible assumption
    | with_reducible exact Covers.of hw (by decide)
    | with_reducible apply Same.mk
    | with_reducible exact .inr rfl
    | exact .inl (hw.bit _ (by decide))
    | exact .inr (fun _ _ => rfl)
    | (intro x; have hx : Keeps w P s0 x := by { dsimp only [x]; repeat' first
          | with_reducible assumption
          | with_reducible exact Covers.of hw (by decide)
          | with_reducible apply Same.mk
          | with_reducible exact .inr rfl
          | exact .inl (hw.bit _ (by decide))
          | exact .inr (fun _ _ => rfl)
          | with_reducible exact Keeps.refl _
          | with_reducible apply State.modMsh_keeps
          | with_reducible apply State.modJob_keeps
          | with_reducible apply chargeFault_keeps
          | with_reducible refine takeFrames_keeps (by assumption) ?_
          | with_reducible apply landBytes_keeps
          | split
          | with_reducible apply Keeps.upd
          | exact rfl
          | intro y
          | lift_lets }; clear_value x)
    | intro x
    | with_reducible exact Keeps.refl _
    | with_reducible apply State.modMsh_keeps
    | with_reducible apply State.modJob_keeps
    | with_reducible apply chargeFault_keeps
    | with_reducible refine takeFrames_keeps (by assumption) ?_
    | with_reducible apply landBytes_keeps
    | split
    | with_reducible apply Keeps.upd
    | exact rfl
    | lift_lets

theorem copyDone_keeps {w : Nat} {P : PlotId → Bool} {s0 s : State} (q : PlotId) (i : BitVec 16) (page : Nat) (hK : Keeps w P s0 s) (hw : Covers w 512 := by exact Covers.of (by assumption) (by decide)) (hP : P q = true := by first | assumption | exact ‹∀ q, P q = true› _) :
    Keeps w P s0 (copyDone s q i page) := by
  unfold copyDone
  repeat' first
    | with_reducible assumption
    | with_reducible exact Covers.of hw (by decide)
    | with_reducible apply Same.mk
    | with_reducible exact .inr rfl
    | exact .inl (hw.bit _ (by decide))
    | exact .inr (fun _ _ => rfl)
    | (intro x; have hx : Keeps w P s0 x := by { dsimp only [x]; repeat' first
          | with_reducible assumption
          | with_reducible exact Covers.of hw (by decide)
          | with_reducible apply Same.mk
          | with_reducible exact .inr rfl
          | exact .inl (hw.bit _ (by decide))
          | exact .inr (fun _ _ => rfl)
          | with_reducible exact Keeps.refl _
          | with_reducible apply State.modJob_keeps
          | with_reducible apply makeCopy_keeps
          | with_reducible apply landBytes_keeps
          | with_reducible apply Keeps.foldl
          | split
          | with_reducible apply Keeps.upd
          | exact rfl
          | intro y
          | lift_lets }; clear_value x)
    | intro x
    | with_reducible exact Keeps.refl _
    | with_reducible apply State.modJob_keeps
    | with_reducible apply makeCopy_keeps
    | with_reducible apply landBytes_keeps
    | with_reducible apply Keeps.foldl
    | split
    | with_reducible apply Keeps.upd
    | exact rfl
    | lift_lets

theorem publishPages_keeps {w : Nat} {P : PlotId → Bool} {s0 s : State} (q : PlotId) (j : Job) (h : Keeps w P s0 s)
    (hw : Covers w 67108864 := by exact Covers.of (by assumption) (by decide))
    (hP : P q = true := by first | assumption | exact ‹∀ q, P q = true› _) : Keeps w P s0 (publishPages s q j) := by
  unfold publishPages
  dsimp only
  refine Keeps.withMem (h.foldl (fun t p ht => ?_)) _ ?_
  · split
    · exact State.modMsh_keeps _ _ ht
    · exact ht
  · intro m
    exact wf_replacePages m _ _ _

theorem askPage_keeps {w : Nat} {P : PlotId → Bool} {s0 s : State} (q : PlotId) (i : BitVec 16) (node : NodeId) (page : Nat) (b : Backing) (hK : Keeps w P s0 s) (hw : Covers w 134234112 := by exact Covers.of (by assumption) (by decide)) (hP : P q = true := by first | assumption | exact ‹∀ q, P q = true› _) :
    Keeps w P s0 (askPage s q i node page b) := by
  unfold askPage
  repeat' first
    | with_reducible assumption
    | with_reducible exact Covers.of hw (by decide)
    | with_reducible apply Same.mk
    | with_reducible exact .inr rfl
    | exact .inl (hw.bit _ (by decide))
    | exact .inr (fun _ _ => rfl)
    | (intro x; have hx : Keeps w P s0 x := by { dsimp only [x]; repeat' first
          | with_reducible assumption
          | with_reducible exact Covers.of hw (by decide)
          | with_reducible apply Same.mk
          | with_reducible exact .inr rfl
          | exact .inl (hw.bit _ (by decide))
          | exact .inr (fun _ _ => rfl)
          | with_reducible exact Keeps.refl _
          | with_reducible apply State.modMsh_keeps
          | with_reducible apply State.modLaneOf_keeps
          | with_reducible apply startPageIns_keeps
          | split
          | with_reducible apply Keeps.upd
          | exact rfl
          | intro y
          | lift_lets }; clear_value x)
    | intro x
    | with_reducible exact Keeps.refl _
    | with_reducible apply State.modMsh_keeps
    | with_reducible apply State.modLaneOf_keeps
    | with_reducible apply startPageIns_keeps
    | split
    | with_reducible apply Keeps.upd
    | exact rfl
    | lift_lets

theorem needPage_keeps {w : Nat} {P : PlotId → Bool} {s0 s : State} (q : PlotId) (i : BitVec 16) (node : NodeId) (a : Nat) (demand : Bool) (hK : Keeps w P s0 s) (hw : Covers w 137053744 := by exact Covers.of (by assumption) (by decide)) (hP : P q = true := by first | assumption | exact ‹∀ q, P q = true› _) :
    Keeps w P s0 (needPage s q i node a demand) := by
  unfold needPage
  repeat' first
    | with_reducible assumption
    | with_reducible exact Covers.of hw (by decide)
    | with_reducible apply Same.mk
    | with_reducible exact .inr rfl
    | exact .inl (hw.bit _ (by decide))
    | exact .inr (fun _ _ => rfl)
    | (intro x; have hx : Keeps w P s0 x := by { dsimp only [x]; repeat' first
          | with_reducible assumption
          | with_reducible exact Covers.of hw (by decide)
          | with_reducible apply Same.mk
          | with_reducible exact .inr rfl
          | exact .inl (hw.bit _ (by decide))
          | exact .inr (fun _ _ => rfl)
          | with_reducible exact Keeps.refl _
          | with_reducible apply State.modMsh_keeps
          | with_reducible apply chargeFault_keeps
          | with_reducible apply touchPage_keeps
          | with_reducible apply askPage_keeps
          | split
          | with_reducible apply Keeps.upd
          | exact rfl
          | intro y
          | lift_lets }; clear_value x)
    | intro x
    | with_reducible exact Keeps.refl _
    | with_reducible apply State.modMsh_keeps
    | with_reducible apply chargeFault_keeps
    | with_reducible apply touchPage_keeps
    | with_reducible apply askPage_keeps
    | split
    | with_reducible apply Keeps.upd
    | exact rfl
    | lift_lets

theorem pageInDone_keeps {w : Nat} {P : PlotId → Bool} {s0 s : State} (q : PlotId) (page : Nat) (hK : Keeps w P s0 s) (hw : Covers w 201343488 := by exact Covers.of (by assumption) (by decide)) (hP : P q = true := by first | assumption | exact ‹∀ q, P q = true› _) :
    Keeps w P s0 (pageInDone s q page) := by
  unfold pageInDone
  repeat' first
    | with_reducible assumption
    | with_reducible exact Covers.of hw (by decide)
    | with_reducible apply Same.mk
    | with_reducible exact .inr rfl
    | exact .inl (hw.bit _ (by decide))
    | exact .inr (fun _ _ => rfl)
    | (intro x; have hx : Keeps w P s0 x := by { dsimp only [x]; repeat' first
          | with_reducible assumption
          | with_reducible exact Covers.of hw (by decide)
          | with_reducible apply Same.mk
          | with_reducible exact .inr rfl
          | exact .inl (hw.bit _ (by decide))
          | exact .inr (fun _ _ => rfl)
          | with_reducible exact Keeps.refl _
          | with_reducible apply State.pokeMem_keeps
          | with_reducible apply State.modMsh_keeps
          | with_reducible apply startPageIns_keeps
          | with_reducible apply healFrame_keeps
          | with_reducible refine takeFrame_keeps (by assumption) ?_
          | with_reducible apply touchPage_keeps
          | with_reducible apply Keeps.foldl
          | split
          | with_reducible apply Keeps.upd
          | exact rfl
          | intro y
          | lift_lets }; clear_value x)
    | intro x
    | with_reducible exact Keeps.refl _
    | with_reducible apply State.pokeMem_keeps
    | with_reducible apply State.modMsh_keeps
    | with_reducible apply startPageIns_keeps
    | with_reducible apply healFrame_keeps
    | with_reducible refine takeFrame_keeps (by assumption) ?_
    | with_reducible apply touchPage_keeps
    | with_reducible apply Keeps.foldl
    | split
    | with_reducible apply Keeps.upd
    | exact rfl
    | lift_lets

theorem detectError_keeps {w : Nat} {P : PlotId → Bool} {s0 s : State} (addr : Nat) (faults : State → State) (hK : Keeps w P s0 s) (hfaults : ∀ t, Keeps w P s0 t → Keeps w P s0 (faults t)) (hw : Covers w 134219312 := by exact Covers.of (by assumption) (by decide)) :
    Keeps w P s0 (detectError s addr faults) := by
  unfold detectError
  repeat' first
    | with_reducible assumption
    | with_reducible exact Covers.of hw (by decide)
    | with_reducible apply Same.mk
    | with_reducible exact .inr rfl
    | exact .inl (hw.bit _ (by decide))
    | exact .inr (fun _ _ => rfl)
    | (intro x; have hx : Keeps w P s0 x := by { dsimp only [x]; repeat' first
          | with_reducible assumption
          | with_reducible exact Covers.of hw (by decide)
          | with_reducible apply Same.mk
          | with_reducible exact .inr rfl
          | exact .inl (hw.bit _ (by decide))
          | exact .inr (fun _ _ => rfl)
          | with_reducible exact Keeps.refl _
          | with_reducible apply hfaults
          | with_reducible apply State.logLine_keeps
          | with_reducible apply State.modMesh_keeps
          | split
          | with_reducible apply Keeps.upd
          | exact rfl
          | intro y
          | lift_lets }; clear_value x)
    | intro x
    | with_reducible exact Keeps.refl _
    | with_reducible apply hfaults
    | with_reducible apply State.logLine_keeps
    | with_reducible apply State.modMesh_keeps
    | split
    | with_reducible apply Keeps.upd
    | exact rfl
    | lift_lets

theorem serveLine_keeps {w : Nat} {P : PlotId → Bool} {s0 s : State} (q : PlotId) (line : Nat) (rs : List (BitVec 16 × NodeId)) (hK : Keeps w P s0 s) (hw : Covers w 137053744 := by exact Covers.of (by assumption) (by decide)) (hP : P q = true := by first | assumption | exact ‹∀ q, P q = true› _) :
    Keeps w P s0 (serveLine s q line rs) := by
  unfold serveLine
  repeat' first
    | with_reducible assumption
    | with_reducible exact Covers.of hw (by decide)
    | intro x
    | with_reducible exact Keeps.refl _
    | with_reducible apply State.emit_keeps
    | with_reducible apply chargeFault_keeps
    | with_reducible apply Keeps.foldl
    | split

theorem mergedRead_keeps {w : Nat} {P : PlotId → Bool} {s0 s : State} (q : PlotId) (a : Nat) (readers : List (BitVec 16 × NodeId)) (single : Nat) (bad : Option (Fin 8)) (hK : Keeps w P s0 s) (hw : Covers w 137053744 := by exact Covers.of (by assumption) (by decide)) (hP : P q = true := by first | assumption | exact ‹∀ q, P q = true› _) :
    Keeps w P s0 (mergedRead s q a readers single bad) := by
  unfold mergedRead
  repeat' first
    | with_reducible assumption
    | with_reducible exact Covers.of hw (by decide)
    | with_reducible apply Same.mk
    | with_reducible exact .inr rfl
    | exact .inl (hw.bit _ (by decide))
    | exact .inr (fun _ _ => rfl)
    | (intro x; have hx : Keeps w P s0 x := by { dsimp only [x]; repeat' first
          | with_reducible assumption
          | with_reducible exact Covers.of hw (by decide)
          | with_reducible apply Same.mk
          | with_reducible exact .inr rfl
          | exact .inl (hw.bit _ (by decide))
          | exact .inr (fun _ _ => rfl)
          | with_reducible exact Keeps.refl _
          | with_reducible apply State.modMsh_keeps
          | with_reducible apply chargeFault_keeps
          | with_reducible apply State.modMesh_keeps
          | with_reducible apply touchPage_keeps
          | with_reducible apply detectError_keeps
          | with_reducible apply serveLine_keeps
          | with_reducible apply Keeps.foldl
          | split
          | with_reducible apply Keeps.upd
          | exact rfl
          | intro y
          | lift_lets }; clear_value x)
    | intro x
    | with_reducible exact Keeps.refl _
    | with_reducible apply State.modMsh_keeps
    | with_reducible apply chargeFault_keeps
    | with_reducible apply State.modMesh_keeps
    | with_reducible apply touchPage_keeps
    | with_reducible apply detectError_keeps
    | with_reducible apply serveLine_keeps
    | with_reducible apply Keeps.foldl
    | split
    | with_reducible apply Keeps.upd
    | exact rfl
    | lift_lets

theorem patrol_keeps {w : Nat} {P : PlotId → Bool} {s0 s : State} (addr : Word) (single bad pass : Bool) (hK : Keeps w P s0 s) (hw : Covers w 134219312 := by exact Covers.of (by assumption) (by decide)) :
    Keeps w P s0 (patrol s addr single bad pass) := by
  unfold patrol
  repeat' first
    | with_reducible assumption
    | with_reducible exact Covers.of hw (by decide)
    | with_reducible apply Same.mk
    | with_reducible exact .inr rfl
    | exact .inl (hw.bit _ (by decide))
    | exact .inr (fun _ _ => rfl)
    | (intro x; have hx : Keeps w P s0 x := by { dsimp only [x]; repeat' first
          | with_reducible assumption
          | with_reducible exact Covers.of hw (by decide)
          | with_reducible apply Same.mk
          | with_reducible exact .inr rfl
          | exact .inl (hw.bit _ (by decide))
          | exact .inr (fun _ _ => rfl)
          | with_reducible exact Keeps.refl _
          | with_reducible apply State.modMesh_keeps
          | with_reducible apply detectError_keeps
          | split
          | with_reducible apply Keeps.upd
          | exact rfl
          | intro y
          | lift_lets }; clear_value x)
    | intro x
    | with_reducible exact Keeps.refl _
    | with_reducible apply State.modMesh_keeps
    | with_reducible apply detectError_keeps
    | split
    | with_reducible apply Keeps.upd
    | exact rfl
    | lift_lets

theorem linkFail_keeps {w : Nat} {P : PlotId → Bool} {s0 s : State} (router : NodeId) (owner : Option (PlotId × BitVec 16)) (failures : Nat) (hK : Keeps w P s0 s) (hw : Covers w 137053744 := by exact Covers.of (by assumption) (by decide)) (hP : ∀ q, P q = true := by assumption) :
    Keeps w P s0 (linkFail s router owner failures) := by
  unfold linkFail
  repeat' first
    | with_reducible assumption
    | with_reducible exact Covers.of hw (by decide)
    | with_reducible exact .inl hP
    | with_reducible exact hP _
    | with_reducible apply Same.mk
    | with_reducible exact .inr rfl
    | exact .inl (hw.bit _ (by decide))
    | exact .inr (fun _ _ => rfl)
    | (intro x; have hx : Keeps w P s0 x := by { dsimp only [x]; repeat' first
          | with_reducible assumption
          | with_reducible exact Covers.of hw (by decide)
          | with_reducible exact .inl hP
          | with_reducible exact hP _
          | with_reducible apply Same.mk
          | with_reducible exact .inr rfl
          | exact .inl (hw.bit _ (by decide))
          | exact .inr (fun _ _ => rfl)
          | with_reducible exact Keeps.refl _
          | with_reducible apply chargeFault_keeps
          | with_reducible apply State.modMesh_keeps
          | split
          | with_reducible apply Keeps.upd
          | exact rfl
          | intro y
          | lift_lets }; clear_value x)
    | intro x
    | with_reducible exact Keeps.refl _
    | with_reducible apply chargeFault_keeps
    | with_reducible apply State.modMesh_keeps
    | split
    | with_reducible apply Keeps.upd
    | exact rfl
    | lift_lets

theorem shrinkPool_keeps {w : Nat} {P : PlotId → Bool} {s0 s : State} (n : Nat) (q : PlotId) (b : Pool) (h : Keeps w P s0 s)
    (hw : Covers w 67108864 := by exact Covers.of (by assumption) (by decide))
    (hP : P q = true := by first | assumption | exact ‹∀ q, P q = true› _) : Keeps w P s0 (shrinkPool n s q b) := by
  induction n generalizing s with
  | zero => exact h
  | succ n ih =>
    unfold shrinkPool
    split
    · split
      · exact ih (evict_keeps _ _ h)
      · exact h
    · exact h

theorem moveHome_keeps {w : Nat} {P : PlotId → Bool} {s0 s : State} (q : PlotId) (b : Pool) (h k : Nat) (hK : Keeps w P s0 s) (hw : Covers w 512 := by exact Covers.of (by assumption) (by decide)) (hP : P q = true := by first | assumption | exact ‹∀ q, P q = true› _) :
    Keeps w P s0 (moveHome s q b h k) := by
  unfold moveHome
  repeat' first
    | with_reducible assumption
    | with_reducible exact Covers.of hw (by decide)
    | (intro x; have hx : Keeps w P s0 x := by { dsimp only [x]; repeat' first
          | with_reducible assumption
          | with_reducible exact Covers.of hw (by decide)
          | with_reducible exact Keeps.refl _
          | with_reducible apply State.modMsh_keeps
          | with_reducible apply copyLines_keeps
          | split
          | intro y
          | lift_lets }; clear_value x)
    | intro x
    | with_reducible exact Keeps.refl _
    | with_reducible apply State.modMsh_keeps
    | with_reducible apply copyLines_keeps
    | split
    | lift_lets

theorem newHome_keeps {w : Nat} {P : PlotId → Bool} {s0 s : State} (q : PlotId) (b : Pool) (k : Nat) (hK : Keeps w P s0 s) (hw : Covers w 512 := by exact Covers.of (by assumption) (by decide)) (hP : P q = true := by first | assumption | exact ‹∀ q, P q = true› _) :
    Keeps w P s0 (newHome s q b k) := by
  unfold newHome
  repeat' first
    | with_reducible assumption
    | with_reducible exact Covers.of hw (by decide)
    | (intro x; have hx : Keeps w P s0 x := by { dsimp only [x]; repeat' first
          | with_reducible assumption
          | with_reducible exact Covers.of hw (by decide)
          | with_reducible exact Keeps.refl _
          | with_reducible apply State.modMsh_keeps
          | with_reducible apply healFrame_keeps
          | split
          | intro y
          | lift_lets }; clear_value x)
    | intro x
    | with_reducible exact Keeps.refl _
    | with_reducible apply State.modMsh_keeps
    | with_reducible apply healFrame_keeps
    | split
    | lift_lets

theorem fitPool_keeps {w : Nat} {P : PlotId → Bool} {s0 s : State} (q : PlotId) (b : Pool) (h : Nat) (hK : Keeps w P s0 s) (hw : Covers w 67109376 := by exact Covers.of (by assumption) (by decide)) (hP : P q = true := by first | assumption | exact ‹∀ q, P q = true› _) :
    Keeps w P s0 (fitPool s q b h) := by
  unfold fitPool
  repeat' first
    | with_reducible assumption
    | with_reducible exact Covers.of hw (by decide)
    | with_reducible apply Same.mk
    | with_reducible exact .inr rfl
    | exact .inl (hw.bit _ (by decide))
    | exact .inr (fun _ _ => rfl)
    | (intro x; have hx : Keeps w P s0 x := by { dsimp only [x]; repeat' first
          | with_reducible assumption
          | with_reducible exact Covers.of hw (by decide)
          | with_reducible apply Same.mk
          | with_reducible exact .inr rfl
          | exact .inl (hw.bit _ (by decide))
          | exact .inr (fun _ _ => rfl)
          | with_reducible exact Keeps.refl _
          | with_reducible apply State.modMsh_keeps
          | with_reducible apply healFrame_keeps
          | with_reducible apply evict_keeps
          | with_reducible apply shrinkPool_keeps
          | with_reducible apply moveHome_keeps
          | with_reducible apply newHome_keeps
          | with_reducible apply Keeps.foldl
          | with_reducible apply Keeps.upd
          | exact rfl
          | intro y
          | lift_lets }; clear_value x)
    | intro x
    | with_reducible exact Keeps.refl _
    | with_reducible apply State.modMsh_keeps
    | with_reducible apply healFrame_keeps
    | with_reducible apply evict_keeps
    | with_reducible apply shrinkPool_keeps
    | with_reducible apply moveHome_keeps
    | with_reducible apply newHome_keeps
    | with_reducible apply Keeps.foldl
    | with_reducible apply Keeps.upd
    | exact rfl
    | lift_lets

theorem pcacheWrite_keeps {w : Nat} {P : PlotId → Bool} {s0 s : State} (q : PlotId) (v : Word) (hK : Keeps w P s0 s) (hw : Covers w 67109376 := by exact Covers.of (by assumption) (by decide)) (hP : P q = true := by first | assumption | exact ‹∀ q, P q = true› _) :
    Keeps w P s0 (pcacheWrite s q v) := by
  unfold pcacheWrite
  repeat' first
    | with_reducible assumption
    | with_reducible exact Covers.of hw (by decide)
    | with_reducible apply Same.mk
    | with_reducible exact .inr rfl
    | exact .inl (hw.bit _ (by decide))
    | exact .inr (fun _ _ => rfl)
    | (intro x; have hx : Keeps w P s0 x := by { dsimp only [x]; repeat' first
          | with_reducible assumption
          | with_reducible exact Covers.of hw (by decide)
          | with_reducible apply Same.mk
          | with_reducible exact .inr rfl
          | exact .inl (hw.bit _ (by decide))
          | exact .inr (fun _ _ => rfl)
          | with_reducible exact Keeps.refl _
          | with_reducible apply State.wipeMem_keeps
          | with_reducible apply State.modMsh_keeps
          | with_reducible apply fitPool_keeps
          | with_reducible apply Keeps.foldl
          | split
          | with_reducible apply Keeps.upd
          | exact rfl
          | intro y
          | lift_lets }; clear_value x)
    | intro x
    | with_reducible exact Keeps.refl _
    | with_reducible apply State.wipeMem_keeps
    | with_reducible apply State.modMsh_keeps
    | with_reducible apply fitPool_keeps
    | with_reducible apply Keeps.foldl
    | split
    | with_reducible apply Keeps.upd
    | exact rfl
    | lift_lets

theorem zeroingDone_keeps {w : Nat} {P : PlotId → Bool} {s0 s : State} (q : PlotId) (hK : Keeps w P s0 s) (hP : P q = true := by first | assumption | exact ‹∀ q, P q = true› _) :
    Keeps w P s0 (zeroingDone s q) := by
  unfold zeroingDone
  repeat' first
    | with_reducible assumption
    | with_reducible apply Same.mk
    | with_reducible exact .inr rfl
    | exact .inr (fun _ _ => rfl)
    | intro x
    | with_reducible exact Keeps.refl _
    | with_reducible apply State.modMsh_keeps
    | with_reducible apply Keeps.upd
    | exact rfl

end Sys2Proof.Machine
end

