-- ==== Sys2Proof/Laws/KeepsPower.lean ====
section
/-!
SUPPORT. Sys2Proof/Laws/KeepsPower.lean: the operations over power keep what Keeps says.
-/
namespace Sys2Proof.Machine

set_option Elab.async false
set_option linter.all false

/-! ### Sys2Proof/Machine/Power.lean -/

theorem State.modPwr_keeps {w : Nat} {P : PlotId → Bool} {s0 s : State} (f : PwrState → PwrState) (hK : Keeps w P s0 s) (hw : Covers w 16777216 := by exact Covers.of (by assumption) (by decide)) :
    Keeps w P s0 (State.modPwr s f) := by
  unfold State.modPwr
  repeat' first
    | with_reducible assumption
    | with_reducible exact Covers.of hw (by decide)
    | with_reducible apply Same.mk
    | with_reducible exact .inr rfl
    | exact .inl (hw.bit _ (by decide))
    | exact .inr (fun _ _ => rfl)
    | intro x
    | with_reducible exact Keeps.refl _
    | with_reducible apply Keeps.upd
    | exact rfl

theorem State.modRail_keeps {w : Nat} {P : PlotId → Bool} {s0 s : State} (r : Fin 5) (f : PwrRail → PwrRail) (hK : Keeps w P s0 s) (hw : Covers w 16777216 := by exact Covers.of (by assumption) (by decide)) :
    Keeps w P s0 (State.modRail s r f) := by
  unfold State.modRail
  repeat' first
    | with_reducible assumption
    | with_reducible exact Covers.of hw (by decide)
    | with_reducible apply Same.mk
    | with_reducible exact .inr rfl
    | exact .inl (hw.bit _ (by decide))
    | exact .inr (fun _ _ => rfl)
    | intro x
    | with_reducible exact Keeps.refl _
    | with_reducible apply State.modPwr_keeps
    | with_reducible apply Keeps.upd
    | exact rfl

theorem pwrEvent_keeps {w : Nat} {P : PlotId → Bool} {s0 s : State} (b : Nat) (hK : Keeps w P s0 s) (hw : Covers w 16777216 := by exact Covers.of (by assumption) (by decide)) :
    Keeps w P s0 (pwrEvent s b) := by
  unfold pwrEvent
  repeat' first
    | with_reducible assumption
    | with_reducible exact Covers.of hw (by decide)
    | with_reducible apply Same.mk
    | with_reducible exact .inr rfl
    | exact .inl (hw.bit _ (by decide))
    | exact .inr (fun _ _ => rfl)
    | intro x
    | with_reducible exact Keeps.refl _
    | with_reducible apply State.modPwr_keeps
    | with_reducible apply Keeps.upd
    | exact rfl

theorem transfer_keeps {w : Nat} {P : PlotId → Bool} {s0 s : State} (r : Fin 5) (command value : Nat) (hK : Keeps w P s0 s) (hw : Covers w 134217728 := by exact Covers.of (by assumption) (by decide)) :
    Keeps w P s0 (transfer s r command value) := by
  unfold transfer
  repeat' first
    | with_reducible assumption
    | with_reducible exact Covers.of hw (by decide)
    | intro x
    | with_reducible exact Keeps.refl _
    | with_reducible apply State.emit_keeps

theorem sendTxn_keeps {w : Nat} {P : PlotId → Bool} {s0 s : State} (t : PmbTxn) (hK : Keeps w P s0 s) (hw : Covers w 134217728 := by exact Covers.of (by assumption) (by decide)) :
    Keeps w P s0 (sendTxn s t) := by
  unfold sendTxn
  repeat' first
    | with_reducible assumption
    | with_reducible exact Covers.of hw (by decide)
    | (intro x; have hx : Keeps w P s0 x := by { dsimp only [x]; repeat' first
          | with_reducible assumption
          | with_reducible exact Covers.of hw (by decide)
          | with_reducible exact Keeps.refl _
          | with_reducible apply transfer_keeps
          | split
          | intro y
          | lift_lets }; clear_value x)
    | intro x
    | with_reducible exact Keeps.refl _
    | with_reducible apply transfer_keeps
    | split
    | lift_lets

theorem queueTxn_keeps {w : Nat} {P : PlotId → Bool} {s0 s : State} (t : PmbTxn) (hK : Keeps w P s0 s) (hw : Covers w 150994944 := by exact Covers.of (by assumption) (by decide)) :
    Keeps w P s0 (queueTxn s t) := by
  unfold queueTxn
  repeat' first
    | with_reducible assumption
    | with_reducible exact Covers.of hw (by decide)
    | with_reducible apply Same.mk
    | with_reducible exact .inr rfl
    | exact .inl (hw.bit _ (by decide))
    | exact .inr (fun _ _ => rfl)
    | (intro x; have hx : Keeps w P s0 x := by { dsimp only [x]; repeat' first
          | with_reducible assumption
          | with_reducible exact Covers.of hw (by decide)
          | with_reducible apply Same.mk
          | with_reducible exact .inr rfl
          | exact .inl (hw.bit _ (by decide))
          | exact .inr (fun _ _ => rfl)
          | with_reducible exact Keeps.refl _
          | with_reducible apply State.modPwr_keeps
          | with_reducible apply sendTxn_keeps
          | split
          | with_reducible apply Keeps.upd
          | exact rfl
          | intro y
          | lift_lets }; clear_value x)
    | intro x
    | with_reducible exact Keeps.refl _
    | with_reducible apply State.modPwr_keeps
    | with_reducible apply sendTxn_keeps
    | split
    | with_reducible apply Keeps.upd
    | exact rfl
    | lift_lets

theorem commandRail_keeps {w : Nat} {P : PlotId → Bool} {s0 s : State} (rail fclk : Nat) (hK : Keeps w P s0 s) (hw : Covers w 150994944 := by exact Covers.of (by assumption) (by decide)) :
    Keeps w P s0 (commandRail s rail fclk) := by
  unfold commandRail
  repeat' first
    | with_reducible assumption
    | with_reducible exact Covers.of hw (by decide)
    | with_reducible apply Same.mk
    | with_reducible exact .inr rfl
    | exact .inl (hw.bit _ (by decide))
    | exact .inr (fun _ _ => rfl)
    | (intro x; have hx : Keeps w P s0 x := by { dsimp only [x]; repeat' first
          | with_reducible assumption
          | with_reducible exact Covers.of hw (by decide)
          | with_reducible apply Same.mk
          | with_reducible exact .inr rfl
          | exact .inl (hw.bit _ (by decide))
          | exact .inr (fun _ _ => rfl)
          | with_reducible exact Keeps.refl _
          | with_reducible apply State.modRail_keeps
          | with_reducible apply queueTxn_keeps
          | split
          | with_reducible apply Keeps.upd
          | exact rfl
          | intro y
          | lift_lets }; clear_value x)
    | intro x
    | with_reducible exact Keeps.refl _
    | with_reducible apply State.modRail_keeps
    | with_reducible apply queueTxn_keeps
    | split
    | with_reducible apply Keeps.upd
    | exact rfl
    | lift_lets

theorem retarget_keeps {w : Nat} {P : PlotId → Bool} {s0 s : State} (fclk : Nat) (hK : Keeps w P s0 s) (hw : Covers w 150994944 := by exact Covers.of (by assumption) (by decide)) :
    Keeps w P s0 (retarget s fclk) := by
  unfold retarget
  repeat' first
    | with_reducible assumption
    | with_reducible exact Covers.of hw (by decide)
    | intro x
    | with_reducible exact Keeps.refl _
    | with_reducible apply commandRail_keeps

theorem endBoost_keeps {w : Nat} {P : PlotId → Bool} {s0 s : State} (hK : Keeps w P s0 s) (hw : Covers w 150994944 := by exact Covers.of (by assumption) (by decide)) :
    Keeps w P s0 (endBoost s) := by
  unfold endBoost
  repeat' first
    | with_reducible assumption
    | with_reducible exact Covers.of hw (by decide)
    | with_reducible apply Same.mk
    | with_reducible exact .inr rfl
    | exact .inl (hw.bit _ (by decide))
    | exact .inr (fun _ _ => rfl)
    | (intro x; have hx : Keeps w P s0 x := by { dsimp only [x]; repeat' first
          | with_reducible assumption
          | with_reducible exact Covers.of hw (by decide)
          | with_reducible apply Same.mk
          | with_reducible exact .inr rfl
          | exact .inl (hw.bit _ (by decide))
          | exact .inr (fun _ _ => rfl)
          | with_reducible exact Keeps.refl _
          | with_reducible apply State.modPwr_keeps
          | with_reducible apply retarget_keeps
          | split
          | with_reducible apply Keeps.upd
          | exact rfl
          | intro y
          | lift_lets }; clear_value x)
    | intro x
    | with_reducible exact Keeps.refl _
    | with_reducible apply State.modPwr_keeps
    | with_reducible apply retarget_keeps
    | split
    | with_reducible apply Keeps.upd
    | exact rfl
    | lift_lets

theorem settleEnd_keeps {w : Nat} {P : PlotId → Bool} {s0 s : State} (hK : Keeps w P s0 s) (hw : Covers w 16777217 := by exact Covers.of (by assumption) (by decide)) :
    Keeps w P s0 (settleEnd s) := by
  unfold settleEnd
  repeat' first
    | with_reducible assumption
    | with_reducible exact Covers.of hw (by decide)
    | with_reducible apply Same.mk
    | with_reducible exact .inr rfl
    | exact .inl (hw.bit _ (by decide))
    | exact .inr (fun _ _ => rfl)
    | (intro x; have hx : Keeps w P s0 x := by { dsimp only [x]; repeat' first
          | with_reducible assumption
          | with_reducible exact Covers.of hw (by decide)
          | with_reducible apply Same.mk
          | with_reducible exact .inr rfl
          | exact .inl (hw.bit _ (by decide))
          | exact .inr (fun _ _ => rfl)
          | with_reducible exact Keeps.refl _
          | with_reducible apply State.advanceTo_keeps
          | with_reducible apply State.modPwr_keeps
          | split
          | with_reducible apply Keeps.upd
          | exact rfl
          | intro y
          | lift_lets }; clear_value x)
    | intro x
    | with_reducible exact Keeps.refl _
    | with_reducible apply State.advanceTo_keeps
    | with_reducible apply State.modPwr_keeps
    | split
    | with_reducible apply Keeps.upd
    | exact rfl
    | lift_lets

theorem throttlePlots_keeps {w : Nat} {P : PlotId → Bool} {s0 s : State} (c : Nat → Bool) (hK : Keeps w P s0 s) (hw : Covers w 134217760 := by exact Covers.of (by assumption) (by decide)) (hP : ∀ q, P q = true := by assumption) :
    Keeps w P s0 (throttlePlots s c) := by
  unfold throttlePlots
  repeat' first
    | with_reducible assumption
    | with_reducible exact Covers.of hw (by decide)
    | with_reducible exact .inl hP
    | with_reducible exact hP _
    | intro x
    | with_reducible exact Keeps.refl _
    | with_reducible apply State.raisePlot_keeps
    | with_reducible apply Keeps.foldl
    | split

theorem enterLowest_keeps {w : Nat} {P : PlotId → Bool} {s0 s : State} (cause : BitVec 3) (hK : Keeps w P s0 s) (hw : Covers w 150996016 := by exact Covers.of (by assumption) (by decide)) (hP : ∀ q, P q = true := by assumption) :
    Keeps w P s0 (enterLowest s cause) := by
  unfold enterLowest
  repeat' first
    | with_reducible assumption
    | with_reducible exact Covers.of hw (by decide)
    | with_reducible exact .inl hP
    | with_reducible exact hP _
    | with_reducible apply Same.mk
    | with_reducible exact .inr rfl
    | exact .inl (hw.bit _ (by decide))
    | exact .inr (fun _ _ => rfl)
    | (intro x; have hx : Keeps w P s0 x := by { dsimp only [x]; repeat' first
          | with_reducible assumption
          | with_reducible exact Covers.of hw (by decide)
          | with_reducible exact .inl hP
          | with_reducible exact hP _
          | with_reducible apply Same.mk
          | with_reducible exact .inr rfl
          | exact .inl (hw.bit _ (by decide))
          | exact .inr (fun _ _ => rfl)
          | with_reducible exact Keeps.refl _
          | with_reducible apply State.raisePf_keeps
          | with_reducible apply State.logLine_keeps
          | with_reducible apply State.modPwr_keeps
          | with_reducible apply pwrEvent_keeps
          | with_reducible apply endBoost_keeps
          | with_reducible apply throttlePlots_keeps
          | split
          | with_reducible apply Keeps.upd
          | exact rfl
          | intro y
          | lift_lets }; clear_value x)
    | intro x
    | with_reducible exact Keeps.refl _
    | with_reducible apply State.raisePf_keeps
    | with_reducible apply State.logLine_keeps
    | with_reducible apply State.modPwr_keeps
    | with_reducible apply pwrEvent_keeps
    | with_reducible apply endBoost_keeps
    | with_reducible apply throttlePlots_keeps
    | split
    | with_reducible apply Keeps.upd
    | exact rfl
    | lift_lets

theorem leaveLowest_keeps {w : Nat} {P : PlotId → Bool} {s0 s : State} (hK : Keeps w P s0 s) (hw : Covers w 16777217 := by exact Covers.of (by assumption) (by decide)) :
    Keeps w P s0 (leaveLowest s) := by
  unfold leaveLowest
  repeat' first
    | with_reducible assumption
    | with_reducible exact Covers.of hw (by decide)
    | with_reducible apply Same.mk
    | with_reducible exact .inr rfl
    | exact .inl (hw.bit _ (by decide))
    | exact .inr (fun _ _ => rfl)
    | (intro x; have hx : Keeps w P s0 x := by { dsimp only [x]; repeat' first
          | with_reducible assumption
          | with_reducible exact Covers.of hw (by decide)
          | with_reducible apply Same.mk
          | with_reducible exact .inr rfl
          | exact .inl (hw.bit _ (by decide))
          | exact .inr (fun _ _ => rfl)
          | with_reducible exact Keeps.refl _
          | with_reducible apply State.advanceTo_keeps
          | with_reducible apply State.modPwr_keeps
          | split
          | with_reducible apply Keeps.upd
          | exact rfl
          | intro y
          | lift_lets }; clear_value x)
    | intro x
    | with_reducible exact Keeps.refl _
    | with_reducible apply State.advanceTo_keeps
    | with_reducible apply State.modPwr_keeps
    | split
    | with_reducible apply Keeps.upd
    | exact rfl
    | lift_lets

theorem chargeEnergy_keeps {w : Nat} {P : PlotId → Bool} {s0 s : State} (q : PlotId) (i : Option (BitVec 16)) (e : Nat) (hK : Keeps w P s0 s) (hP : P q = true := by first | assumption | exact ‹∀ q, P q = true› _) :
    Keeps w P s0 (chargeEnergy s q i e) := by
  unfold chargeEnergy
  repeat' first
    | with_reducible assumption
    | with_reducible apply Same.mk
    | with_reducible exact .inr rfl
    | exact .inr (fun _ _ => rfl)
    | (intro x; have hx : Keeps w P s0 x := by { dsimp only [x]; repeat' first
          | with_reducible assumption
          | with_reducible apply Same.mk
          | with_reducible exact .inr rfl
          | exact .inr (fun _ _ => rfl)
          | with_reducible exact Keeps.refl _
          | with_reducible apply State.modPlot_keeps
          | with_reducible apply State.modPlt_keeps
          | split
          | with_reducible apply Keeps.upd
          | exact rfl
          | intro y
          | lift_lets }; clear_value x)
    | intro x
    | with_reducible exact Keeps.refl _
    | with_reducible apply State.modPlot_keeps
    | with_reducible apply State.modPlt_keeps
    | split
    | with_reducible apply Keeps.upd
    | exact rfl
    | lift_lets

theorem shareEnergy_keeps {w : Nat} {P : PlotId → Bool} {s0 s : State} (l : List (PlotId × Option (BitVec 16) × Nat))
    (left : Nat) (h : Keeps w P s0 s) (hP : ∀ q, P q = true := by assumption) : Keeps w P s0 (shareEnergy s l left) := by
  induction l generalizing s left with
  | nil => exact chargeEnergy_keeps _ _ _ h
  | cons x l ih =>
    obtain ⟨_, _, _⟩ := x
    exact ih _ (chargeEnergy_keeps _ _ _ h)

theorem powerSample_keeps {w : Nat} {P : PlotId → Bool} {s0 s : State} (x : PowerSample) (hK : Keeps w P s0 s) (hw : Covers w 16777216 := by exact Covers.of (by assumption) (by decide)) (hP : ∀ q, P q = true := by assumption) :
    Keeps w P s0 (powerSample s x) := by
  unfold powerSample
  repeat' first
    | with_reducible assumption
    | with_reducible exact Covers.of hw (by decide)
    | with_reducible exact .inl hP
    | with_reducible exact hP _
    | with_reducible apply Same.mk
    | with_reducible exact .inr rfl
    | exact .inl (hw.bit _ (by decide))
    | exact .inr (fun _ _ => rfl)
    | (intro x; have hx : Keeps w P s0 x := by { dsimp only [x]; repeat' first
          | with_reducible assumption
          | with_reducible exact Covers.of hw (by decide)
          | with_reducible exact .inl hP
          | with_reducible exact hP _
          | with_reducible apply Same.mk
          | with_reducible exact .inr rfl
          | exact .inl (hw.bit _ (by decide))
          | exact .inr (fun _ _ => rfl)
          | with_reducible exact Keeps.refl _
          | with_reducible apply State.modPlot_keeps
          | with_reducible apply State.modPwr_keeps
          | with_reducible apply shareEnergy_keeps
          | with_reducible apply Keeps.foldl
          | split
          | with_reducible apply Keeps.upd
          | exact rfl
          | intro y
          | lift_lets }; clear_value x)
    | intro x
    | with_reducible exact Keeps.refl _
    | with_reducible apply State.modPlot_keeps
    | with_reducible apply State.modPwr_keeps
    | with_reducible apply shareEnergy_keeps
    | with_reducible apply Keeps.foldl
    | split
    | with_reducible apply Keeps.upd
    | exact rfl
    | lift_lets

theorem evaluate_keeps {w : Nat} {P : PlotId → Bool} {s0 s : State} (l : Fin 11) (x : Nat) (limit : Option Nat) (ds : List (Nat × Nat × Nat)) (event : Nat)
    (h : Keeps w P s0 s) (hw : Covers w 150996016 := by exact Covers.of (by assumption) (by decide)) (hP : ∀ q, P q = true := by assumption) : Keeps w P s0 (evaluate s l x limit ds event) := by
  unfold evaluate
  lift_lets
  intro old above x64 new before s1 raised t1 t2 s2 saturated
  have h1 : Keeps w P s0 s1 := State.modPwr_keeps _ h
  have ht : Keeps w P s0 t1 := State.raisePf_keeps _ (pwrEvent_keeps _ h1)
  have ht2 : Keeps w P s0 t2 := by
    dsimp only [t2]
    exact throttlePlots_keeps _ ht
  have h2 : Keeps w P s0 s2 := by
    dsimp only [s2]
    clear_value raised t2 t1 s1
    split
    · exact endBoost_keeps ht2
    · exact h1
  clear_value s2
  split
  · exact enterLowest_keeps _ (State.modPwr_keeps _ h2)
  · split
    · split
      · exact State.modPwr_keeps _ h2
      · split
        · exact State.modPwr_keeps _ h2
        · exact h2
    · exact h2

theorem currentEval_keeps {w : Nat} {P : PlotId → Bool} {s0 s : State} (r win : Fin 3) (h : Keeps w P s0 s)
    (hw : Covers w 150996016 := by exact Covers.of (by assumption) (by decide)) (hP : ∀ q, P q = true := by assumption) :
    Keeps w P s0 (currentEval s r win) := by
  unfold currentEval
  split
  · exact h
  · exact evaluate_keeps _ _ _ _ _ h

theorem capEval_keeps {w : Nat} {P : PlotId → Bool} {s0 s : State} (h : Keeps w P s0 s) (hw : Covers w 150996016 := by exact Covers.of (by assumption) (by decide)) (hP : ∀ q, P q = true := by assumption) : Keeps w P s0 (capEval s) := by
  unfold capEval
  split
  · exact h
  · exact evaluate_keeps _ _ _ _ _ (evaluate_keeps _ _ _ _ _ h)

theorem pmbFailed_keeps {w : Nat} {P : PlotId → Bool} {s0 s : State} (r : Fin 5) (hK : Keeps w P s0 s) (hw : Covers w 64 := by exact Covers.of (by assumption) (by decide)) :
    Keeps w P s0 (pmbFailed s r) := by
  unfold pmbFailed
  repeat' first
    | with_reducible assumption
    | with_reducible exact Covers.of hw (by decide)
    | with_reducible apply Same.mk
    | with_reducible exact .inr rfl
    | exact .inl (hw.bit _ (by decide))
    | exact .inr (fun _ _ => rfl)
    | intro x
    | with_reducible exact Keeps.refl _
    | with_reducible apply Keeps.upd
    | exact rfl

theorem pmbAnswered_keeps {w : Nat} {P : PlotId → Bool} {s0 s : State} (r : Fin 5) (hK : Keeps w P s0 s) (hw : Covers w 64 := by exact Covers.of (by assumption) (by decide)) :
    Keeps w P s0 (pmbAnswered s r) := by
  unfold pmbAnswered
  repeat' first
    | with_reducible assumption
    | with_reducible exact Covers.of hw (by decide)
    | with_reducible apply Same.mk
    | with_reducible exact .inr rfl
    | exact .inl (hw.bit _ (by decide))
    | exact .inr (fun _ _ => rfl)
    | intro x
    | with_reducible exact Keeps.refl _
    | with_reducible apply Keeps.upd
    | exact rfl

theorem calibrateRail_keeps {w : Nat} {P : PlotId → Bool} {s0 s : State} (r : Fin 5) (m : Nat) (hK : Keeps w P s0 s) (hw : Covers w 16777216 := by exact Covers.of (by assumption) (by decide)) :
    Keeps w P s0 (calibrateRail s r m) := by
  unfold calibrateRail
  repeat' first
    | with_reducible assumption
    | with_reducible exact Covers.of hw (by decide)
    | with_reducible apply Same.mk
    | with_reducible exact .inr rfl
    | exact .inl (hw.bit _ (by decide))
    | exact .inr (fun _ _ => rfl)
    | (intro x; have hx : Keeps w P s0 x := by { dsimp only [x]; repeat' first
          | with_reducible assumption
          | with_reducible exact Covers.of hw (by decide)
          | with_reducible apply Same.mk
          | with_reducible exact .inr rfl
          | exact .inl (hw.bit _ (by decide))
          | exact .inr (fun _ _ => rfl)
          | with_reducible exact Keeps.refl _
          | with_reducible apply State.modRail_keeps
          | with_reducible apply pwrEvent_keeps
          | split
          | with_reducible apply Keeps.upd
          | exact rfl
          | intro y
          | lift_lets }; clear_value x)
    | intro x
    | with_reducible exact Keeps.refl _
    | with_reducible apply State.modRail_keeps
    | with_reducible apply pwrEvent_keeps
    | split
    | with_reducible apply Keeps.upd
    | exact rfl
    | lift_lets

theorem calibrationLost_keeps {w : Nat} {P : PlotId → Bool} {s0 s : State} (r : Fin 5) (hK : Keeps w P s0 s) (hw : Covers w 16777217 := by exact Covers.of (by assumption) (by decide)) :
    Keeps w P s0 (calibrationLost s r) := by
  unfold calibrationLost
  repeat' first
    | with_reducible assumption
    | with_reducible exact Covers.of hw (by decide)
    | with_reducible apply Same.mk
    | with_reducible exact .inr rfl
    | exact .inl (hw.bit _ (by decide))
    | exact .inr (fun _ _ => rfl)
    | (intro x; have hx : Keeps w P s0 x := by { dsimp only [x]; repeat' first
          | with_reducible assumption
          | with_reducible exact Covers.of hw (by decide)
          | with_reducible apply Same.mk
          | with_reducible exact .inr rfl
          | exact .inl (hw.bit _ (by decide))
          | exact .inr (fun _ _ => rfl)
          | with_reducible exact Keeps.refl _
          | with_reducible apply State.advanceTo_keeps
          | with_reducible apply State.modRail_keeps
          | with_reducible apply pwrEvent_keeps
          | split
          | with_reducible apply Keeps.upd
          | exact rfl
          | intro y
          | lift_lets }; clear_value x)
    | intro x
    | with_reducible exact Keeps.refl _
    | with_reducible apply State.advanceTo_keeps
    | with_reducible apply State.modRail_keeps
    | with_reducible apply pwrEvent_keeps
    | split
    | with_reducible apply Keeps.upd
    | exact rfl
    | lift_lets

theorem bandEval_keeps {w : Nat} {P : PlotId → Bool} {s0 s : State} (hK : Keeps w P s0 s) (hw : Covers w 150994944 := by exact Covers.of (by assumption) (by decide)) :
    Keeps w P s0 (bandEval s) := by
  unfold bandEval
  repeat' first
    | with_reducible assumption
    | with_reducible exact Covers.of hw (by decide)
    | with_reducible apply Same.mk
    | with_reducible exact .inr rfl
    | exact .inl (hw.bit _ (by decide))
    | exact .inr (fun _ _ => rfl)
    | (intro x; have hx : Keeps w P s0 x := by { dsimp only [x]; repeat' first
          | with_reducible assumption
          | with_reducible exact Covers.of hw (by decide)
          | with_reducible apply Same.mk
          | with_reducible exact .inr rfl
          | exact .inl (hw.bit _ (by decide))
          | exact .inr (fun _ _ => rfl)
          | with_reducible exact Keeps.refl _
          | with_reducible apply State.modPwr_keeps
          | with_reducible apply retarget_keeps
          | split
          | with_reducible apply Keeps.upd
          | exact rfl
          | intro y
          | lift_lets }; clear_value x)
    | intro x
    | with_reducible exact Keeps.refl _
    | with_reducible apply State.modPwr_keeps
    | with_reducible apply retarget_keeps
    | split
    | with_reducible apply Keeps.upd
    | exact rfl
    | lift_lets

theorem trimStep_keeps {w : Nat} {P : PlotId → Bool} {s0 s : State} (pass8 fail4 : Bool) (hK : Keeps w P s0 s) (hw : Covers w 150994944 := by exact Covers.of (by assumption) (by decide)) :
    Keeps w P s0 (trimStep s pass8 fail4) := by
  unfold trimStep
  repeat' first
    | with_reducible assumption
    | with_reducible exact Covers.of hw (by decide)
    | with_reducible apply Same.mk
    | with_reducible exact .inr rfl
    | exact .inl (hw.bit _ (by decide))
    | exact .inr (fun _ _ => rfl)
    | (intro x; have hx : Keeps w P s0 x := by { dsimp only [x]; repeat' first
          | with_reducible assumption
          | with_reducible exact Covers.of hw (by decide)
          | with_reducible apply Same.mk
          | with_reducible exact .inr rfl
          | exact .inl (hw.bit _ (by decide))
          | exact .inr (fun _ _ => rfl)
          | with_reducible exact Keeps.refl _
          | with_reducible apply State.modPwr_keeps
          | with_reducible apply retarget_keeps
          | with_reducible apply endBoost_keeps
          | split
          | with_reducible apply Keeps.upd
          | exact rfl
          | intro y
          | lift_lets }; clear_value x)
    | intro x
    | with_reducible exact Keeps.refl _
    | with_reducible apply State.modPwr_keeps
    | with_reducible apply retarget_keeps
    | with_reducible apply endBoost_keeps
    | split
    | with_reducible apply Keeps.upd
    | exact rfl
    | lift_lets

theorem boostCheck_keeps {w : Nat} {P : PlotId → Bool} {s0 s : State} (hK : Keeps w P s0 s) (hw : Covers w 150994944 := by exact Covers.of (by assumption) (by decide)) :
    Keeps w P s0 (boostCheck s) := by
  unfold boostCheck
  repeat' first
    | with_reducible assumption
    | with_reducible exact Covers.of hw (by decide)
    | with_reducible apply Same.mk
    | with_reducible exact .inr rfl
    | exact .inl (hw.bit _ (by decide))
    | exact .inr (fun _ _ => rfl)
    | (intro x; have hx : Keeps w P s0 x := by { dsimp only [x]; repeat' first
          | with_reducible assumption
          | with_reducible exact Covers.of hw (by decide)
          | with_reducible apply Same.mk
          | with_reducible exact .inr rfl
          | exact .inl (hw.bit _ (by decide))
          | exact .inr (fun _ _ => rfl)
          | with_reducible exact Keeps.refl _
          | with_reducible apply State.modPwr_keeps
          | with_reducible apply retarget_keeps
          | with_reducible apply endBoost_keeps
          | split
          | with_reducible apply Keeps.upd
          | exact rfl
          | intro y
          | lift_lets }; clear_value x)
    | intro x
    | with_reducible exact Keeps.refl _
    | with_reducible apply State.modPwr_keeps
    | with_reducible apply retarget_keeps
    | with_reducible apply endBoost_keeps
    | split
    | with_reducible apply Keeps.upd
    | exact rfl
    | lift_lets

theorem pwrCtlWrite_keeps {w : Nat} {P : PlotId → Bool} {s0 s : State} (v : Word) (hK : Keeps w P s0 s) (hw : Covers w 150994944 := by exact Covers.of (by assumption) (by decide)) :
    Keeps w P s0 (pwrCtlWrite s v) := by
  unfold pwrCtlWrite
  repeat' first
    | with_reducible assumption
    | with_reducible exact Covers.of hw (by decide)
    | with_reducible apply Same.mk
    | with_reducible exact .inr rfl
    | exact .inl (hw.bit _ (by decide))
    | exact .inr (fun _ _ => rfl)
    | (intro x; have hx : Keeps w P s0 x := by { dsimp only [x]; repeat' first
          | with_reducible assumption
          | with_reducible exact Covers.of hw (by decide)
          | with_reducible apply Same.mk
          | with_reducible exact .inr rfl
          | exact .inl (hw.bit _ (by decide))
          | exact .inr (fun _ _ => rfl)
          | with_reducible exact Keeps.refl _
          | with_reducible apply State.modPwr_keeps
          | with_reducible apply retarget_keeps
          | with_reducible apply endBoost_keeps
          | split
          | with_reducible apply Keeps.upd
          | exact rfl
          | intro y
          | lift_lets }; clear_value x)
    | intro x
    | with_reducible exact Keeps.refl _
    | with_reducible apply State.modPwr_keeps
    | with_reducible apply retarget_keeps
    | with_reducible apply endBoost_keeps
    | split
    | with_reducible apply Keeps.upd
    | exact rfl
    | lift_lets

theorem droopCross_keeps {w : Nat} {P : PlotId → Bool} {s0 s : State} (depth : Nat) (hK : Keeps w P s0 s) (hw : Covers w 150994944 := by exact Covers.of (by assumption) (by decide)) :
    Keeps w P s0 (droopCross s depth) := by
  unfold droopCross
  repeat' first
    | with_reducible assumption
    | with_reducible exact Covers.of hw (by decide)
    | with_reducible apply Same.mk
    | with_reducible exact .inr rfl
    | exact .inl (hw.bit _ (by decide))
    | exact .inr (fun _ _ => rfl)
    | intro x
    | with_reducible exact Keeps.refl _
    | with_reducible apply State.modPwr_keeps
    | with_reducible apply pwrEvent_keeps
    | with_reducible apply endBoost_keeps
    | split
    | with_reducible apply Keeps.upd
    | exact rfl

theorem droopPersists_keeps {w : Nat} {P : PlotId → Bool} {s0 s : State} (hK : Keeps w P s0 s) (hw : Covers w 150996016 := by exact Covers.of (by assumption) (by decide)) (hP : ∀ q, P q = true := by assumption) :
    Keeps w P s0 (droopPersists s) := by
  unfold droopPersists
  repeat' first
    | with_reducible assumption
    | with_reducible exact Covers.of hw (by decide)
    | with_reducible exact .inl hP
    | with_reducible exact hP _
    | with_reducible apply Same.mk
    | with_reducible exact .inr rfl
    | exact .inl (hw.bit _ (by decide))
    | exact .inr (fun _ _ => rfl)
    | intro x
    | with_reducible exact Keeps.refl _
    | with_reducible apply State.modPwr_keeps
    | with_reducible apply enterLowest_keeps
    | split
    | with_reducible apply Keeps.upd
    | exact rfl

theorem droopRecovers_keeps {w : Nat} {P : PlotId → Bool} {s0 s : State} (stretched : Nat) (hK : Keeps w P s0 s) (hw : Covers w 16777216 := by exact Covers.of (by assumption) (by decide)) :
    Keeps w P s0 (droopRecovers s stretched) := by
  unfold droopRecovers
  repeat' first
    | with_reducible assumption
    | with_reducible exact Covers.of hw (by decide)
    | with_reducible apply Same.mk
    | with_reducible exact .inr rfl
    | exact .inl (hw.bit _ (by decide))
    | exact .inr (fun _ _ => rfl)
    | intro x
    | with_reducible exact Keeps.refl _
    | with_reducible apply State.modPwr_keeps
    | split
    | with_reducible apply Keeps.upd
    | exact rfl

theorem vrAlertReport_keeps {w : Nat} {P : PlotId → Bool} {s0 s : State} (hK : Keeps w P s0 s) (hw : Covers w 150996016 := by exact Covers.of (by assumption) (by decide)) (hP : ∀ q, P q = true := by assumption) :
    Keeps w P s0 (vrAlertReport s) := by
  unfold vrAlertReport
  repeat' first
    | with_reducible assumption
    | with_reducible exact Covers.of hw (by decide)
    | with_reducible exact .inl hP
    | with_reducible exact hP _
    | with_reducible apply Same.mk
    | with_reducible exact .inr rfl
    | exact .inl (hw.bit _ (by decide))
    | exact .inr (fun _ _ => rfl)
    | (intro x; have hx : Keeps w P s0 x := by { dsimp only [x]; repeat' first
          | with_reducible assumption
          | with_reducible exact Covers.of hw (by decide)
          | with_reducible exact .inl hP
          | with_reducible exact hP _
          | with_reducible apply Same.mk
          | with_reducible exact .inr rfl
          | exact .inl (hw.bit _ (by decide))
          | exact .inr (fun _ _ => rfl)
          | with_reducible exact Keeps.refl _
          | with_reducible apply State.raisePf_keeps
          | with_reducible apply State.logLine_keeps
          | with_reducible apply State.modPwr_keeps
          | with_reducible apply pwrEvent_keeps
          | with_reducible apply queueTxn_keeps
          | with_reducible apply endBoost_keeps
          | with_reducible apply enterLowest_keeps
          | with_reducible apply Keeps.foldl
          | with_reducible apply Keeps.upd
          | exact rfl
          | intro y
          | lift_lets }; clear_value x)
    | intro x
    | with_reducible exact Keeps.refl _
    | with_reducible apply State.raisePf_keeps
    | with_reducible apply State.logLine_keeps
    | with_reducible apply State.modPwr_keeps
    | with_reducible apply pwrEvent_keeps
    | with_reducible apply queueTxn_keeps
    | with_reducible apply endBoost_keeps
    | with_reducible apply enterLowest_keeps
    | with_reducible apply Keeps.foldl
    | with_reducible apply Keeps.upd
    | exact rfl
    | lift_lets

theorem vrAlertOn_keeps {w : Nat} {P : PlotId → Bool} {s0 s : State} (hK : Keeps w P s0 s) (hw : Covers w 150996017 := by exact Covers.of (by assumption) (by decide)) (hP : ∀ q, P q = true := by assumption) :
    Keeps w P s0 (vrAlertOn s) := by
  unfold vrAlertOn
  repeat' first
    | with_reducible assumption
    | with_reducible exact Covers.of hw (by decide)
    | with_reducible exact .inl hP
    | with_reducible exact hP _
    | with_reducible apply Same.mk
    | with_reducible exact .inr rfl
    | exact .inl (hw.bit _ (by decide))
    | exact .inr (fun _ _ => rfl)
    | (intro x; have hx : Keeps w P s0 x := by { dsimp only [x]; repeat' first
          | with_reducible assumption
          | with_reducible exact Covers.of hw (by decide)
          | with_reducible exact .inl hP
          | with_reducible exact hP _
          | with_reducible apply Same.mk
          | with_reducible exact .inr rfl
          | exact .inl (hw.bit _ (by decide))
          | exact .inr (fun _ _ => rfl)
          | with_reducible exact Keeps.refl _
          | with_reducible apply vrAlertReport_keeps
          | split
          | with_reducible apply Keeps.upd
          | exact rfl
          | intro y
          | lift_lets }; clear_value x)
    | intro x
    | with_reducible exact Keeps.refl _
    | with_reducible apply vrAlertReport_keeps
    | split
    | with_reducible apply Keeps.upd
    | exact rfl
    | lift_lets

theorem vrAlertOff_keeps {w : Nat} {P : PlotId → Bool} {s0 s : State} (hK : Keeps w P s0 s) (hw : Covers w 16777217 := by exact Covers.of (by assumption) (by decide)) :
    Keeps w P s0 (vrAlertOff s) := by
  unfold vrAlertOff
  repeat' first
    | with_reducible assumption
    | with_reducible exact Covers.of hw (by decide)
    | with_reducible apply Same.mk
    | with_reducible exact .inr rfl
    | exact .inl (hw.bit _ (by decide))
    | exact .inr (fun _ _ => rfl)
    | intro x
    | with_reducible exact Keeps.refl _
    | with_reducible apply State.modPwr_keeps
    | split
    | with_reducible apply Keeps.upd
    | exact rfl

theorem thermalSample_keeps {w : Nat} {P : PlotId → Bool} {s0 s : State} (ts : Vector Int 48) (hK : Keeps w P s0 s) (hw : Covers w 150996016 := by exact Covers.of (by assumption) (by decide)) (hP : ∀ q, P q = true := by assumption) :
    Keeps w P s0 (thermalSample s ts) := by
  unfold thermalSample
  repeat' first
    | with_reducible assumption
    | with_reducible exact Covers.of hw (by decide)
    | with_reducible exact .inl hP
    | with_reducible exact hP _
    | with_reducible apply Same.mk
    | with_reducible exact .inr rfl
    | exact .inl (hw.bit _ (by decide))
    | exact .inr (fun _ _ => rfl)
    | (intro x; have hx : Keeps w P s0 x := by { dsimp only [x]; repeat' first
          | with_reducible assumption
          | with_reducible exact Covers.of hw (by decide)
          | with_reducible exact .inl hP
          | with_reducible exact hP _
          | with_reducible apply Same.mk
          | with_reducible exact .inr rfl
          | exact .inl (hw.bit _ (by decide))
          | exact .inr (fun _ _ => rfl)
          | with_reducible exact Keeps.refl _
          | with_reducible apply State.raisePf_keeps
          | with_reducible apply State.logLine_keeps
          | with_reducible apply State.modPwr_keeps
          | with_reducible apply pwrEvent_keeps
          | with_reducible apply enterLowest_keeps
          | with_reducible apply Keeps.foldl
          | split
          | with_reducible apply Keeps.upd
          | exact rfl
          | intro y
          | lift_lets }; clear_value x)
    | intro x
    | with_reducible exact Keeps.refl _
    | with_reducible apply State.raisePf_keeps
    | with_reducible apply State.logLine_keeps
    | with_reducible apply State.modPwr_keeps
    | with_reducible apply pwrEvent_keeps
    | with_reducible apply enterLowest_keeps
    | with_reducible apply Keeps.foldl
    | split
    | with_reducible apply Keeps.upd
    | exact rfl
    | lift_lets

theorem thermalLimit_keeps {w : Nat} {P : PlotId → Bool} {s0 s : State} (hK : Keeps w P s0 s) (hw : Covers w 16777216 := by exact Covers.of (by assumption) (by decide)) :
    Keeps w P s0 (thermalLimit s) := by
  unfold thermalLimit
  repeat' first
    | with_reducible assumption
    | with_reducible exact Covers.of hw (by decide)
    | with_reducible apply Same.mk
    | with_reducible exact .inr rfl
    | exact .inl (hw.bit _ (by decide))
    | exact .inr (fun _ _ => rfl)
    | (intro x; have hx : Keeps w P s0 x := by { dsimp only [x]; repeat' first
          | with_reducible assumption
          | with_reducible exact Covers.of hw (by decide)
          | with_reducible apply Same.mk
          | with_reducible exact .inr rfl
          | exact .inl (hw.bit _ (by decide))
          | exact .inr (fun _ _ => rfl)
          | with_reducible exact Keeps.refl _
          | with_reducible apply State.modPwr_keeps
          | split
          | with_reducible apply Keeps.upd
          | exact rfl
          | intro y
          | lift_lets }; clear_value x)
    | intro x
    | with_reducible exact Keeps.refl _
    | with_reducible apply State.modPwr_keeps
    | split
    | with_reducible apply Keeps.upd
    | exact rfl
    | lift_lets

theorem txnDone_keeps {w : Nat} {P : PlotId → Bool} {s0 s : State} (t : PmbTxn) (data : Nat) (hK : Keeps w P s0 s) (hw : Covers w 150995008 := by exact Covers.of (by assumption) (by decide)) :
    Keeps w P s0 (txnDone s t data) := by
  unfold txnDone
  repeat' first
    | with_reducible assumption
    | with_reducible exact Covers.of hw (by decide)
    | with_reducible apply Same.mk
    | with_reducible exact .inr rfl
    | exact .inl (hw.bit _ (by decide))
    | exact .inr (fun _ _ => rfl)
    | (intro x; have hx : Keeps w P s0 x := by { dsimp only [x]; repeat' first
          | with_reducible assumption
          | with_reducible exact Covers.of hw (by decide)
          | with_reducible apply Same.mk
          | with_reducible exact .inr rfl
          | exact .inl (hw.bit _ (by decide))
          | exact .inr (fun _ _ => rfl)
          | with_reducible exact Keeps.refl _
          | with_reducible apply State.modPwr_keeps
          | with_reducible apply State.modRail_keeps
          | with_reducible apply retarget_keeps
          | with_reducible apply endBoost_keeps
          | with_reducible apply calibrateRail_keeps
          | split
          | with_reducible apply Keeps.upd
          | exact rfl
          | intro y
          | lift_lets }; clear_value x)
    | intro x
    | with_reducible exact Keeps.refl _
    | with_reducible apply State.modPwr_keeps
    | with_reducible apply State.modRail_keeps
    | with_reducible apply retarget_keeps
    | with_reducible apply endBoost_keeps
    | with_reducible apply calibrateRail_keeps
    | split
    | with_reducible apply Keeps.upd
    | exact rfl
    | lift_lets

theorem txnGivenUp_keeps {w : Nat} {P : PlotId → Bool} {s0 s : State} (t : PmbTxn) (hK : Keeps w P s0 s) (hw : Covers w 16777280 := by exact Covers.of (by assumption) (by decide)) :
    Keeps w P s0 (txnGivenUp s t) := by
  unfold txnGivenUp
  repeat' first
    | with_reducible assumption
    | with_reducible exact Covers.of hw (by decide)
    | with_reducible apply Same.mk
    | with_reducible exact .inr rfl
    | exact .inl (hw.bit _ (by decide))
    | exact .inr (fun _ _ => rfl)
    | (intro x; have hx : Keeps w P s0 x := by { dsimp only [x]; repeat' first
          | with_reducible assumption
          | with_reducible exact Covers.of hw (by decide)
          | with_reducible apply Same.mk
          | with_reducible exact .inr rfl
          | exact .inl (hw.bit _ (by decide))
          | exact .inr (fun _ _ => rfl)
          | with_reducible exact Keeps.refl _
          | with_reducible apply State.modPwr_keeps
          | with_reducible apply State.modRail_keeps
          | with_reducible apply pmbFailed_keeps
          | split
          | with_reducible apply Keeps.upd
          | exact rfl
          | intro y
          | lift_lets }; clear_value x)
    | intro x
    | with_reducible exact Keeps.refl _
    | with_reducible apply State.modPwr_keeps
    | with_reducible apply State.modRail_keeps
    | with_reducible apply pmbFailed_keeps
    | split
    | with_reducible apply Keeps.upd
    | exact rfl
    | lift_lets

theorem nextTxn_keeps {w : Nat} {P : PlotId → Bool} {s0 s : State} (hK : Keeps w P s0 s) (hw : Covers w 150994944 := by exact Covers.of (by assumption) (by decide)) :
    Keeps w P s0 (nextTxn s) := by
  unfold nextTxn
  repeat' first
    | with_reducible assumption
    | with_reducible exact Covers.of hw (by decide)
    | with_reducible apply Same.mk
    | with_reducible exact .inr rfl
    | exact .inl (hw.bit _ (by decide))
    | exact .inr (fun _ _ => rfl)
    | (intro x; have hx : Keeps w P s0 x := by { dsimp only [x]; repeat' first
          | with_reducible assumption
          | with_reducible exact Covers.of hw (by decide)
          | with_reducible apply Same.mk
          | with_reducible exact .inr rfl
          | exact .inl (hw.bit _ (by decide))
          | exact .inr (fun _ _ => rfl)
          | with_reducible exact Keeps.refl _
          | with_reducible apply State.modPwr_keeps
          | with_reducible apply sendTxn_keeps
          | split
          | with_reducible apply Keeps.upd
          | exact rfl
          | intro y
          | lift_lets }; clear_value x)
    | intro x
    | with_reducible exact Keeps.refl _
    | with_reducible apply State.modPwr_keeps
    | with_reducible apply sendTxn_keeps
    | split
    | with_reducible apply Keeps.upd
    | exact rfl
    | lift_lets

theorem pmbusAnswer_keeps {w : Nat} {P : PlotId → Bool} {s0 s : State} (answer : Option Nat) (hK : Keeps w P s0 s) (hw : Covers w 150995008 := by exact Covers.of (by assumption) (by decide)) :
    Keeps w P s0 (pmbusAnswer s answer) := by
  unfold pmbusAnswer
  repeat' first
    | with_reducible assumption
    | with_reducible exact Covers.of hw (by decide)
    | with_reducible apply Same.mk
    | with_reducible exact .inr rfl
    | exact .inl (hw.bit _ (by decide))
    | exact .inr (fun _ _ => rfl)
    | intro x
    | with_reducible exact Keeps.refl _
    | with_reducible apply State.modPwr_keeps
    | with_reducible apply sendTxn_keeps
    | with_reducible apply pmbAnswered_keeps
    | with_reducible apply txnDone_keeps
    | with_reducible apply txnGivenUp_keeps
    | with_reducible apply nextTxn_keeps
    | split
    | with_reducible apply Keeps.upd
    | exact rfl

theorem calibrationRead_keeps {w : Nat} {P : PlotId → Bool} {s0 s : State} (r : Fin 5) (m : Option Nat) (hK : Keeps w P s0 s) (hw : Covers w 150995008 := by exact Covers.of (by assumption) (by decide)) :
    Keeps w P s0 (calibrationRead s r m) := by
  unfold calibrationRead
  repeat' first
    | with_reducible assumption
    | with_reducible exact Covers.of hw (by decide)
    | with_reducible apply Same.mk
    | with_reducible exact .inr rfl
    | exact .inl (hw.bit _ (by decide))
    | exact .inr (fun _ _ => rfl)
    | intro x
    | with_reducible exact Keeps.refl _
    | with_reducible apply queueTxn_keeps
    | with_reducible apply pmbusAnswer_keeps
    | split
    | with_reducible apply Keeps.upd
    | exact rfl

theorem pmbusStart_keeps {w : Nat} {P : PlotId → Bool} {s0 s : State} (hK : Keeps w P s0 s) (hw : Covers w 150994944 := by exact Covers.of (by assumption) (by decide)) :
    Keeps w P s0 (pmbusStart s) := by
  unfold pmbusStart
  repeat' first
    | with_reducible assumption
    | with_reducible exact Covers.of hw (by decide)
    | with_reducible apply Same.mk
    | with_reducible exact .inr rfl
    | exact .inl (hw.bit _ (by decide))
    | exact .inr (fun _ _ => rfl)
    | (intro x; have hx : Keeps w P s0 x := by { dsimp only [x]; repeat' first
          | with_reducible assumption
          | with_reducible exact Covers.of hw (by decide)
          | with_reducible apply Same.mk
          | with_reducible exact .inr rfl
          | exact .inl (hw.bit _ (by decide))
          | exact .inr (fun _ _ => rfl)
          | with_reducible exact Keeps.refl _
          | with_reducible apply State.modPwr_keeps
          | with_reducible apply queueTxn_keeps
          | with_reducible apply Keeps.foldl
          | split
          | with_reducible apply Keeps.upd
          | exact rfl
          | intro y
          | lift_lets }; clear_value x)
    | intro x
    | with_reducible exact Keeps.refl _
    | with_reducible apply State.modPwr_keeps
    | with_reducible apply queueTxn_keeps
    | with_reducible apply Keeps.foldl
    | split
    | with_reducible apply Keeps.upd
    | exact rfl
    | lift_lets

end Sys2Proof.Machine
end

