-- ==== Sys2Proof/Laws/KeepsAnneal.lean ====
section
/-!
SUPPORT. Sys2Proof/Laws/KeepsAnneal.lean: the operations over anneal slots and grafts keep what Keeps says.
-/
namespace Sys2Proof.Machine

set_option Elab.async false
set_option linter.all false

/-! ### Sys2Proof/Machine/Anneal.lean -/

theorem readTiles_keeps {w : Nat} {P : PlotId → Bool} {s0 s : State} (q : PlotId) (j : Job) {k : State → State}
    (es : List (TileEntry × List (Nat × Nat))) (h : Keeps w P s0 s) (hk : ∀ t, Keeps w P s0 t → Keeps w P s0 (k t))
    (hw : Covers w 137053744 := by exact Covers.of (by assumption) (by decide))
    (hP : P q = true := by first | assumption | exact ‹∀ q, P q = true› _) : Keeps w P s0 (readTiles q j es s k) := by
  induction es generalizing s with
  | nil => exact hk s h
  | cons e es ih => exact withReads_keeps _ _ _ _ h (fun t ht => ih ht)

theorem takeFabric_keeps {w : Nat} {P : PlotId → Bool} {s0 s : State} (q : PlotId) (i : BitVec 16) (hK : Keeps w P s0 s) (hw : Covers w 134217824 := by exact Covers.of (by assumption) (by decide)) (hP : P q = true := by first | assumption | exact ‹∀ q, P q = true› _) :
    Keeps w P s0 (takeFabric s q i) := by
  unfold takeFabric
  repeat' first
    | with_reducible assumption
    | with_reducible exact Covers.of hw (by decide)
    | with_reducible apply Same.mk
    | with_reducible exact .inr rfl
    | exact .inl (hw.bit _ (by decide))
    | exact .inr (fun _ _ => rfl)
    | intro x
    | with_reducible exact Keeps.refl _
    | with_reducible apply State.modPlot_keeps
    | with_reducible apply attemptLanes_keeps
    | with_reducible apply Keeps.upd
    | exact rfl

theorem initialPass_keeps {w : Nat} {P : PlotId → Bool} {s0 s : State} (q : PlotId) (i : BitVec 16) (hK : Keeps w P s0 s) (hw : Covers w 137053808 := by exact Covers.of (by assumption) (by decide)) (hP : P q = true := by first | assumption | exact ‹∀ q, P q = true› _) :
    Keeps w P s0 (initialPass s q i) := by
  unfold initialPass
  repeat' first
    | with_reducible assumption
    | with_reducible exact Covers.of hw (by decide)
    | with_reducible apply Same.mk
    | with_reducible exact .inr rfl
    | exact .inl (hw.bit _ (by decide))
    | exact .inr (fun _ _ => rfl)
    | (intro x; have hx : Keeps w P s0 x := by { dsimp only [x]; repeat' first
          | with_reducible assumption
          | with_reducible exact Covers.of hw (by decide)
          | with_reducible apply Same.mk
          | with_reducible exact .inr rfl
          | exact .inl (hw.bit _ (by decide))
          | exact .inr (fun _ _ => rfl)
          | with_reducible exact Keeps.refl _
          | with_reducible apply State.modJob_keeps
          | with_reducible apply State.modAn_keeps
          | with_reducible apply chargeFault_keeps
          | with_reducible apply readTiles_keeps
          | with_reducible apply takeFabric_keeps
          | split
          | with_reducible apply Keeps.upd
          | exact rfl
          | intro y
          | lift_lets }; clear_value x)
    | intro x
    | with_reducible exact Keeps.refl _
    | with_reducible apply State.modJob_keeps
    | with_reducible apply State.modAn_keeps
    | with_reducible apply chargeFault_keeps
    | with_reducible apply readTiles_keeps
    | with_reducible apply takeFabric_keeps
    | split
    | with_reducible apply Keeps.upd
    | exact rfl
    | lift_lets

theorem takeWord_keeps {w : Nat} {P : PlotId → Bool} {s0 s t : State} {q : PlotId} {src : WordSource} {a : AnTile} {u : Nat}
    (e : takeWord s q src a = some (u, t)) (h : Keeps w P s0 s) (hw : Covers w 134226016 := by exact Covers.of (by assumption) (by decide)) (hP : P q = true := by first | assumption | exact ‹∀ q, P q = true› _) : Keeps w P s0 t := by
  unfold takeWord at e
  dsimp only at e
  split at e
  · split at e
    · cases e; exact checkLow_keeps _ _ (fetchLane_keeps _ _ (State.modLane_keeps _ _ _ h))
    · cases e
  · split at e
    · cases e
    · split at e
      · cases e
      · cases e
        split
        · exact State.modLane_keeps _ _ _ (State.modWell_keeps _ _ h)
        · exact State.modWell_keeps _ _ h

theorem starve_keeps {w : Nat} {P : PlotId → Bool} {s0 s : State} (q : PlotId) (t : AnTile) (hK : Keeps w P s0 s) (hw : Covers w 8192 := by exact Covers.of (by assumption) (by decide)) (hP : P q = true := by first | assumption | exact ‹∀ q, P q = true› _) :
    Keeps w P s0 (starve s q t) := by
  unfold starve
  repeat' first
    | with_reducible assumption
    | with_reducible exact Covers.of hw (by decide)
    | with_reducible apply Same.mk
    | with_reducible exact .inr rfl
    | exact .inl (hw.bit _ (by decide))
    | exact .inr (fun _ _ => rfl)
    | (intro x; have hx : Keeps w P s0 x := by { dsimp only [x]; repeat' first
          | with_reducible assumption
          | with_reducible exact Covers.of hw (by decide)
          | with_reducible apply Same.mk
          | with_reducible exact .inr rfl
          | exact .inl (hw.bit _ (by decide))
          | exact .inr (fun _ _ => rfl)
          | with_reducible exact Keeps.refl _
          | with_reducible apply State.modWell_keeps
          | with_reducible apply State.modLive_keeps
          | split
          | with_reducible apply Keeps.upd
          | exact rfl
          | intro y
          | lift_lets }; clear_value x)
    | intro x
    | with_reducible exact Keeps.refl _
    | with_reducible apply State.modWell_keeps
    | with_reducible apply State.modLive_keeps
    | split
    | with_reducible apply Keeps.upd
    | exact rfl
    | lift_lets

theorem countProposal_keeps {w : Nat} {P : PlotId → Bool} {s0 s : State} (q : PlotId) (hK : Keeps w P s0 s) (hw : Covers w 4096 := by exact Covers.of (by assumption) (by decide)) (hP : P q = true := by first | assumption | exact ‹∀ q, P q = true› _) :
    Keeps w P s0 (countProposal s q) := by
  unfold countProposal
  repeat' first
    | with_reducible assumption
    | with_reducible exact Covers.of hw (by decide)
    | with_reducible apply Same.mk
    | with_reducible exact .inr rfl
    | exact .inl (hw.bit _ (by decide))
    | exact .inr (fun _ _ => rfl)
    | (intro x; have hx : Keeps w P s0 x := by { dsimp only [x]; repeat' first
          | with_reducible assumption
          | with_reducible exact Covers.of hw (by decide)
          | with_reducible apply Same.mk
          | with_reducible exact .inr rfl
          | exact .inl (hw.bit _ (by decide))
          | exact .inr (fun _ _ => rfl)
          | with_reducible exact Keeps.refl _
          | with_reducible apply State.modAn_keeps
          | with_reducible apply Keeps.upd
          | exact rfl
          | intro y
          | lift_lets }; clear_value x)
    | intro x
    | with_reducible exact Keeps.refl _
    | with_reducible apply State.modAn_keeps
    | with_reducible apply Keeps.upd
    | exact rfl
    | lift_lets

theorem recheckHead_keeps {w : Nat} {P : PlotId → Bool} {s0 s : State} (q : PlotId) (t : AnTile) (h : Keeps w P s0 s)
    (hP : P q = true := by first | assumption | exact ‹∀ q, P q = true› _) : Keeps w P s0 (recheckHead s q t).1 := by
  unfold recheckHead
  split
  · exact h
  · split
    · exact h
    · dsimp only
      exact State.modLive_keeps _ _ h

theorem relaxedProposal_keeps {w : Nat} {P : PlotId → Bool} {s0 s : State} (c : Sched) (src : WordSource) (q : PlotId) (t : AnTile)
    (row : Nat) (req : Option (QEntry × Bool)) (h : Keeps w P s0 s)
    (hw : Covers w 134230112 := by exact Covers.of (by assumption) (by decide))
    (hP : P q = true := by first | assumption | exact ‹∀ q, P q = true› _) : Keeps w P s0 (relaxedProposal c src s q t row req).1 := by
  unfold relaxedProposal
  split
  · exact starve_keeps _ _ h
  · rename_i e
    have h2 := countProposal_keeps q (takeWord_keeps e h)
    dsimp only
    split
    · split <;> exact h2
    · exact h2

theorem relaxedTile_keeps {w : Nat} {P : PlotId → Bool} {s0 s : State} (c : Sched) (src : WordSource) (q : PlotId) (k : Nat)
    (t : AnTile) (h : Keeps w P s0 s) (hw : Covers w 134230112 := by exact Covers.of (by assumption) (by decide))
    (hP : P q = true := by first | assumption | exact ‹∀ q, P q = true› _) : Keeps w P s0 (relaxedTile c src s q k t).1 := by
  have h1 := recheckHead_keeps q t h
  unfold relaxedTile
  generalize recheckHead s q t = r at h1
  obtain ⟨s, t, req⟩ := r
  dsimp only at h1 ⊢
  split
  · exact h1
  · split
    · dsimp only
      exact State.modLive_keeps _ _ h1
    · exact relaxedProposal_keeps _ _ _ _ _ _ h1

theorem strictTile_keeps {w : Nat} {P : PlotId → Bool} {s0 s : State} (c : Sched) (src : WordSource) (q : PlotId) (t : AnTile) (hK : Keeps w P s0 s) (hw : Covers w 134230112 := by exact Covers.of (by assumption) (by decide)) (hP : P q = true := by first | assumption | exact ‹∀ q, P q = true› _) :
    Keeps w P s0 (strictTile c src s q t).1 := by
  unfold strictTile
  repeat' first
    | with_reducible assumption
    | with_reducible exact Covers.of hw (by decide)
    | with_reducible apply Same.mk
    | with_reducible exact .inr rfl
    | exact .inl (hw.bit _ (by decide))
    | exact .inr (fun _ _ => rfl)
    | (intro x; have hx : Keeps w P s0 x := by { dsimp only [x]; repeat' first
          | with_reducible assumption
          | with_reducible exact Covers.of hw (by decide)
          | with_reducible apply Same.mk
          | with_reducible exact .inr rfl
          | exact .inl (hw.bit _ (by decide))
          | exact .inr (fun _ _ => rfl)
          | with_reducible exact Keeps.refl _
          | with_reducible refine takeWord_keeps (by assumption) ?_
          | with_reducible apply starve_keeps
          | with_reducible apply countProposal_keeps
          | split
          | with_reducible apply Keeps.upd
          | exact rfl
          | intro y
          | lift_lets }; clear_value x)
    | intro x
    | with_reducible exact Keeps.refl _
    | with_reducible refine takeWord_keeps (by assumption) ?_
    | with_reducible apply starve_keeps
    | with_reducible apply countProposal_keeps
    | split
    | with_reducible apply Keeps.upd
    | exact rfl
    | lift_lets

theorem actAll_keeps {w : Nat} {P : PlotId → Bool} {s0 s : State} {act : State → Nat → AnTile → State × TileAct}
    (ha : ∀ t k x, Keeps w P s0 t → Keeps w P s0 (act t k x).1) (l : List AnTile) (k : Nat) (h : Keeps w P s0 s) :
    Keeps w P s0 (actAll act s k l).1 := by
  induction l generalizing s k with
  | nil => exact h
  | cons x l ih => exact ih _ (ha s k x h)

theorem relaxedSlot_keeps {w : Nat} {P : PlotId → Bool} {s0 s : State} (q : PlotId) (j : Job) (src : WordSource) (hK : Keeps w P s0 s) (hw : Covers w 134230112 := by exact Covers.of (by assumption) (by decide)) (hP : P q = true := by first | assumption | exact ‹∀ q, P q = true› _) :
    Keeps w P s0 (relaxedSlot s q j src) := by
  unfold relaxedSlot
  repeat' first
    | with_reducible assumption
    | with_reducible exact Covers.of hw (by decide)
    | with_reducible apply Same.mk
    | with_reducible exact .inr rfl
    | exact .inl (hw.bit _ (by decide))
    | exact .inr (fun _ _ => rfl)
    | (intro x; have hx : Keeps w P s0 x := by { dsimp only [x]; repeat' first
          | with_reducible assumption
          | with_reducible exact Covers.of hw (by decide)
          | with_reducible apply Same.mk
          | with_reducible exact .inr rfl
          | exact .inl (hw.bit _ (by decide))
          | exact .inr (fun _ _ => rfl)
          | with_reducible exact Keeps.refl _
          | with_reducible apply State.modAn_keeps
          | with_reducible apply relaxedTile_keeps
          | with_reducible apply actAll_keeps
          | refine Keeps.of_fst (by assumption) ?_
          | split
          | with_reducible apply Keeps.upd
          | exact rfl
          | intro y
          | lift_lets }; clear_value x)
    | intro x
    | with_reducible exact Keeps.refl _
    | with_reducible apply State.modAn_keeps
    | with_reducible apply relaxedTile_keeps
    | with_reducible apply actAll_keeps
    | refine Keeps.of_fst (by assumption) ?_
    | split
    | with_reducible apply Keeps.upd
    | exact rfl
    | lift_lets

theorem strictRound_keeps {w : Nat} {P : PlotId → Bool} {s0 s : State} (q : PlotId) (j : Job) (src : WordSource) (hK : Keeps w P s0 s) (hw : Covers w 134230112 := by exact Covers.of (by assumption) (by decide)) (hP : P q = true := by first | assumption | exact ‹∀ q, P q = true› _) :
    Keeps w P s0 (strictRound s q j src) := by
  unfold strictRound
  repeat' first
    | with_reducible assumption
    | with_reducible exact Covers.of hw (by decide)
    | with_reducible apply Same.mk
    | with_reducible exact .inr rfl
    | exact .inl (hw.bit _ (by decide))
    | exact .inr (fun _ _ => rfl)
    | (intro x; have hx : Keeps w P s0 x := by { dsimp only [x]; repeat' first
          | with_reducible assumption
          | with_reducible exact Covers.of hw (by decide)
          | with_reducible apply Same.mk
          | with_reducible exact .inr rfl
          | exact .inl (hw.bit _ (by decide))
          | exact .inr (fun _ _ => rfl)
          | with_reducible exact Keeps.refl _
          | with_reducible apply State.modAn_keeps
          | with_reducible apply strictTile_keeps
          | with_reducible apply actAll_keeps
          | refine Keeps.of_fst (by assumption) ?_
          | split
          | with_reducible apply Keeps.upd
          | exact rfl
          | intro y
          | lift_lets }; clear_value x)
    | intro x
    | with_reducible exact Keeps.refl _
    | with_reducible apply State.modAn_keeps
    | with_reducible apply strictTile_keeps
    | with_reducible apply actAll_keeps
    | refine Keeps.of_fst (by assumption) ?_
    | split
    | with_reducible apply Keeps.upd
    | exact rfl
    | lift_lets

theorem quietSlot_keeps {w : Nat} {P : PlotId → Bool} {s0 s : State} (q : PlotId) (j : Job) (hold : Bool) (hK : Keeps w P s0 s) (hP : P q = true := by first | assumption | exact ‹∀ q, P q = true› _) :
    Keeps w P s0 (quietSlot s q j hold) := by
  unfold quietSlot
  repeat' first
    | with_reducible assumption
    | with_reducible apply Same.mk
    | with_reducible exact .inr rfl
    | exact .inr (fun _ _ => rfl)
    | (intro x; have hx : Keeps w P s0 x := by { dsimp only [x]; repeat' first
          | with_reducible assumption
          | with_reducible apply Same.mk
          | with_reducible exact .inr rfl
          | exact .inr (fun _ _ => rfl)
          | with_reducible exact Keeps.refl _
          | with_reducible apply State.modAn_keeps
          | split
          | with_reducible apply Keeps.upd
          | exact rfl
          | intro y
          | lift_lets }; clear_value x)
    | intro x
    | with_reducible exact Keeps.refl _
    | with_reducible apply State.modAn_keeps
    | split
    | with_reducible apply Keeps.upd
    | exact rfl
    | lift_lets

theorem bubbleSlot_keeps {w : Nat} {P : PlotId → Bool} {s0 s : State} (q : PlotId) (hK : Keeps w P s0 s) (hP : P q = true := by first | assumption | exact ‹∀ q, P q = true› _) :
    Keeps w P s0 (bubbleSlot s q) := by
  unfold bubbleSlot
  repeat' first
    | with_reducible assumption
    | with_reducible apply Same.mk
    | with_reducible exact .inr rfl
    | exact .inr (fun _ _ => rfl)
    | intro x
    | with_reducible exact Keeps.refl _
    | with_reducible apply State.modPlot_keeps
    | with_reducible apply Keeps.upd
    | exact rfl

theorem countPause_keeps {w : Nat} {P : PlotId → Bool} {s0 s : State} (q : PlotId) (hK : Keeps w P s0 s) (hP : P q = true := by first | assumption | exact ‹∀ q, P q = true› _) :
    Keeps w P s0 (countPause s q) := by
  unfold countPause
  repeat' first
    | with_reducible assumption
    | with_reducible apply Same.mk
    | with_reducible exact .inr rfl
    | exact .inr (fun _ _ => rfl)
    | intro x
    | with_reducible exact Keeps.refl _
    | with_reducible apply State.modLive_keeps
    | with_reducible apply Keeps.upd
    | exact rfl

theorem workSlot_keeps {w : Nat} {P : PlotId → Bool} {s0 s : State} (q : PlotId) (j : Job) (hK : Keeps w P s0 s) (hw : Covers w 137066096 := by exact Covers.of (by assumption) (by decide)) (hP : P q = true := by first | assumption | exact ‹∀ q, P q = true› _) :
    Keeps w P s0 (workSlot s q j) := by
  unfold workSlot
  repeat' first
    | with_reducible assumption
    | with_reducible exact Covers.of hw (by decide)
    | (intro x; have hx : Keeps w P s0 x := by { dsimp only [x]; repeat' first
          | with_reducible assumption
          | with_reducible exact Covers.of hw (by decide)
          | with_reducible exact Keeps.refl _
          | with_reducible apply chargeFault_keeps
          | with_reducible apply tapeErr_keeps
          | with_reducible apply relaxedSlot_keeps
          | with_reducible apply strictRound_keeps
          | with_reducible apply quietSlot_keeps
          | with_reducible apply countPause_keeps
          | split
          | intro y
          | lift_lets }; clear_value x)
    | intro x
    | with_reducible exact Keeps.refl _
    | with_reducible apply chargeFault_keeps
    | with_reducible apply tapeErr_keeps
    | with_reducible apply relaxedSlot_keeps
    | with_reducible apply strictRound_keeps
    | with_reducible apply quietSlot_keeps
    | with_reducible apply countPause_keeps
    | split
    | lift_lets

theorem flipSlot_keeps {w : Nat} {P : PlotId → Bool} {s0 s : State} (q : PlotId) (i : BitVec 16) (hK : Keeps w P s0 s) (hw : Covers w 137066096 := by exact Covers.of (by assumption) (by decide)) (hP : P q = true := by first | assumption | exact ‹∀ q, P q = true› _) :
    Keeps w P s0 (flipSlot s q i) := by
  unfold flipSlot
  repeat' first
    | with_reducible assumption
    | with_reducible exact Covers.of hw (by decide)
    | with_reducible apply Same.mk
    | with_reducible exact .inr rfl
    | exact .inl (hw.bit _ (by decide))
    | exact .inr (fun _ _ => rfl)
    | (intro x; have hx : Keeps w P s0 x := by { dsimp only [x]; repeat' first
          | with_reducible assumption
          | with_reducible exact Covers.of hw (by decide)
          | with_reducible apply Same.mk
          | with_reducible exact .inr rfl
          | exact .inl (hw.bit _ (by decide))
          | exact .inr (fun _ _ => rfl)
          | with_reducible exact Keeps.refl _
          | with_reducible apply State.modPlot_keeps
          | with_reducible apply bubbleSlot_keeps
          | with_reducible apply countPause_keeps
          | with_reducible apply workSlot_keeps
          | split
          | with_reducible apply Keeps.upd
          | exact rfl
          | intro y
          | lift_lets }; clear_value x)
    | intro x
    | with_reducible exact Keeps.refl _
    | with_reducible apply State.modPlot_keeps
    | with_reducible apply bubbleSlot_keeps
    | with_reducible apply countPause_keeps
    | with_reducible apply workSlot_keeps
    | split
    | with_reducible apply Keeps.upd
    | exact rfl
    | lift_lets

theorem runStart_keeps {w : Nat} {P : PlotId → Bool} {s0 s : State} (q : PlotId) (i : BitVec 16) (sweeps : Nat) (bearing : Option Nat) (hK : Keeps w P s0 s) (hw : Covers w 137053744 := by exact Covers.of (by assumption) (by decide)) (hP : P q = true := by first | assumption | exact ‹∀ q, P q = true› _) :
    Keeps w P s0 (runStart s q i sweeps bearing) := by
  unfold runStart
  repeat' first
    | with_reducible assumption
    | with_reducible exact Covers.of hw (by decide)
    | with_reducible apply Same.mk
    | with_reducible exact .inr rfl
    | exact .inl (hw.bit _ (by decide))
    | exact .inr (fun _ _ => rfl)
    | (intro x; have hx : Keeps w P s0 x := by { dsimp only [x]; repeat' first
          | with_reducible assumption
          | with_reducible exact Covers.of hw (by decide)
          | with_reducible apply Same.mk
          | with_reducible exact .inr rfl
          | exact .inl (hw.bit _ (by decide))
          | exact .inr (fun _ _ => rfl)
          | with_reducible exact Keeps.refl _
          | with_reducible apply State.modAn_keeps
          | with_reducible apply chargeFault_keeps
          | split
          | with_reducible apply Keeps.upd
          | exact rfl
          | intro y
          | lift_lets }; clear_value x)
    | intro x
    | with_reducible exact Keeps.refl _
    | with_reducible apply State.modAn_keeps
    | with_reducible apply chargeFault_keeps
    | split
    | with_reducible apply Keeps.upd
    | exact rfl
    | lift_lets

theorem sweepDone_keeps {w : Nat} {P : PlotId → Bool} {s0 s : State} (q : PlotId) (i : BitVec 16) (hK : Keeps w P s0 s) (hw : Covers w 137053744 := by exact Covers.of (by assumption) (by decide)) (hP : P q = true := by first | assumption | exact ‹∀ q, P q = true› _) :
    Keeps w P s0 (sweepDone s q i) := by
  unfold sweepDone
  repeat' first
    | with_reducible assumption
    | with_reducible exact Covers.of hw (by decide)
    | with_reducible apply Same.mk
    | with_reducible exact .inr rfl
    | exact .inl (hw.bit _ (by decide))
    | exact .inr (fun _ _ => rfl)
    | (intro x; have hx : Keeps w P s0 x := by { dsimp only [x]; repeat' first
          | with_reducible assumption
          | with_reducible exact Covers.of hw (by decide)
          | with_reducible apply Same.mk
          | with_reducible exact .inr rfl
          | exact .inl (hw.bit _ (by decide))
          | exact .inr (fun _ _ => rfl)
          | with_reducible exact Keeps.refl _
          | with_reducible apply State.modAn_keeps
          | split
          | with_reducible apply Keeps.upd
          | exact rfl
          | intro y
          | lift_lets }; clear_value x)
    | intro x
    | with_reducible exact Keeps.refl _
    | with_reducible apply State.modAn_keeps
    | split
    | with_reducible apply Keeps.upd
    | exact rfl
    | lift_lets

theorem audit_keeps {w : Nat} {P : PlotId → Bool} {s0 s : State} (q : PlotId) (i : BitVec 16) (bad : Option Nat) (hK : Keeps w P s0 s) (hw : Covers w 137053744 := by exact Covers.of (by assumption) (by decide)) (hP : P q = true := by first | assumption | exact ‹∀ q, P q = true› _) :
    Keeps w P s0 (audit s q i bad) := by
  unfold audit
  repeat' first
    | with_reducible assumption
    | with_reducible exact Covers.of hw (by decide)
    | with_reducible apply Same.mk
    | with_reducible exact .inr rfl
    | exact .inl (hw.bit _ (by decide))
    | exact .inr (fun _ _ => rfl)
    | (intro x; have hx : Keeps w P s0 x := by { dsimp only [x]; repeat' first
          | with_reducible assumption
          | with_reducible exact Covers.of hw (by decide)
          | with_reducible apply Same.mk
          | with_reducible exact .inr rfl
          | exact .inl (hw.bit _ (by decide))
          | exact .inr (fun _ _ => rfl)
          | with_reducible exact Keeps.refl _
          | with_reducible apply State.raisePlot_keeps
          | with_reducible apply State.logLine_keeps
          | with_reducible apply State.logSuppressed_keeps
          | with_reducible apply State.modJob_keeps
          | with_reducible apply State.modAn_keeps
          | with_reducible apply chargeFault_keeps
          | split
          | with_reducible apply Keeps.upd
          | exact rfl
          | intro y
          | lift_lets }; clear_value x)
    | intro x
    | with_reducible exact Keeps.refl _
    | with_reducible apply State.raisePlot_keeps
    | with_reducible apply State.logLine_keeps
    | with_reducible apply State.logSuppressed_keeps
    | with_reducible apply State.modJob_keeps
    | with_reducible apply State.modAn_keeps
    | with_reducible apply chargeFault_keeps
    | split
    | with_reducible apply Keeps.upd
    | exact rfl
    | lift_lets

theorem stallEnd_keeps {w : Nat} {P : PlotId → Bool} {s0 s : State} (q : PlotId) (i : BitVec 16) (hK : Keeps w P s0 s) (hP : P q = true := by first | assumption | exact ‹∀ q, P q = true› _) :
    Keeps w P s0 (stallEnd s q i) := by
  unfold stallEnd
  repeat' first
    | with_reducible assumption
    | with_reducible apply Same.mk
    | with_reducible exact .inr rfl
    | exact .inr (fun _ _ => rfl)
    | (intro x; have hx : Keeps w P s0 x := by { dsimp only [x]; repeat' first
          | with_reducible assumption
          | with_reducible apply Same.mk
          | with_reducible exact .inr rfl
          | exact .inr (fun _ _ => rfl)
          | with_reducible exact Keeps.refl _
          | with_reducible apply State.modAn_keeps
          | split
          | with_reducible apply Keeps.upd
          | exact rfl
          | intro y
          | lift_lets }; clear_value x)
    | intro x
    | with_reducible exact Keeps.refl _
    | with_reducible apply State.modAn_keeps
    | split
    | with_reducible apply Keeps.upd
    | exact rfl
    | lift_lets

theorem bearingEnd_keeps {w : Nat} {P : PlotId → Bool} {s0 s : State} (q : PlotId) (i : BitVec 16) (hK : Keeps w P s0 s) (hP : P q = true := by first | assumption | exact ‹∀ q, P q = true› _) :
    Keeps w P s0 (bearingEnd s q i) := by
  unfold bearingEnd
  repeat' first
    | with_reducible assumption
    | with_reducible apply Same.mk
    | with_reducible exact .inr rfl
    | exact .inr (fun _ _ => rfl)
    | (intro x; have hx : Keeps w P s0 x := by { dsimp only [x]; repeat' first
          | with_reducible assumption
          | with_reducible apply Same.mk
          | with_reducible exact .inr rfl
          | exact .inr (fun _ _ => rfl)
          | with_reducible exact Keeps.refl _
          | with_reducible apply State.modAn_keeps
          | with_reducible apply audit_keeps
          | split
          | with_reducible apply Keeps.upd
          | exact rfl
          | intro y
          | lift_lets }; clear_value x)
    | intro x
    | with_reducible exact Keeps.refl _
    | with_reducible apply State.modAn_keeps
    | with_reducible apply audit_keeps
    | split
    | with_reducible apply Keeps.upd
    | exact rfl
    | lift_lets

theorem runEnd_keeps {w : Nat} {P : PlotId → Bool} {s0 s : State} (q : PlotId) (i : BitVec 16) (hK : Keeps w P s0 s) (hP : P q = true := by first | assumption | exact ‹∀ q, P q = true› _) :
    Keeps w P s0 (runEnd s q i) := by
  unfold runEnd
  repeat' first
    | with_reducible assumption
    | with_reducible apply Same.mk
    | with_reducible exact .inr rfl
    | exact .inr (fun _ _ => rfl)
    | (intro x; have hx : Keeps w P s0 x := by { dsimp only [x]; repeat' first
          | with_reducible assumption
          | with_reducible apply Same.mk
          | with_reducible exact .inr rfl
          | exact .inr (fun _ _ => rfl)
          | with_reducible exact Keeps.refl _
          | with_reducible apply State.modAn_keeps
          | split
          | with_reducible apply Keeps.upd
          | exact rfl
          | intro y
          | lift_lets }; clear_value x)
    | intro x
    | with_reducible exact Keeps.refl _
    | with_reducible apply State.modAn_keeps
    | split
    | with_reducible apply Keeps.upd
    | exact rfl
    | lift_lets

theorem sweepStep_keeps {w : Nat} {P : PlotId → Bool} {s0 s : State} (q : PlotId) (i : BitVec 16) (hK : Keeps w P s0 s) (hw : Covers w 137053744 := by exact Covers.of (by assumption) (by decide)) (hP : P q = true := by first | assumption | exact ‹∀ q, P q = true› _) :
    Keeps w P s0 (sweepStep s q i) := by
  unfold sweepStep
  repeat' first
    | with_reducible assumption
    | with_reducible exact Covers.of hw (by decide)
    | (intro x; have hx : Keeps w P s0 x := by { dsimp only [x]; repeat' first
          | with_reducible assumption
          | with_reducible exact Covers.of hw (by decide)
          | with_reducible exact Keeps.refl _
          | with_reducible apply State.modAn_keeps
          | with_reducible apply sweepDone_keeps
          | split
          | intro y
          | lift_lets }; clear_value x)
    | intro x
    | with_reducible exact Keeps.refl _
    | with_reducible apply State.modAn_keeps
    | with_reducible apply sweepDone_keeps
    | split
    | lift_lets

/-! ### Sys2Proof/Machine/Graft.lean -/

/-- A part of a graft's step keeps what Keeps says, whatever it goes on with. -/
def PartKeeps (w : Nat) (P : PlotId → Bool) (s0 : State) (f : GraftPart) : Prop :=
  ∀ t k, Keeps w P s0 t → (∀ u, Keeps w P s0 u → Keeps w P s0 (k u)) → Keeps w P s0 (f t k)

theorem State.modGrf_keeps {w : Nat} {P : PlotId → Bool} {s0 s : State} (q : PlotId) (f : GrfPlot → GrfPlot) (hK : Keeps w P s0 s) (hP : P q = true := by first | assumption | exact ‹∀ q, P q = true› _) :
    Keeps w P s0 (State.modGrf s q f) := by
  unfold State.modGrf
  repeat' first
    | with_reducible assumption
    | with_reducible apply Same.mk
    | with_reducible exact .inr rfl
    | exact .inr (fun _ _ => rfl)
    | intro x
    | with_reducible exact Keeps.refl _
    | with_reducible apply State.modPlot_keeps
    | with_reducible apply Keeps.upd
    | exact rfl

theorem readRow_keeps {w : Nat} {P : PlotId → Bool} {s0 s : State} (q : PlotId) (j : Job) (e : GraftEntry) (node : Option NodeId) (a : Nat) (k : State → State) (hK : Keeps w P s0 s) (hk : ∀ t, Keeps w P s0 t → Keeps w P s0 (k t)) (hw : Covers w 137053744 := by exact Covers.of (by assumption) (by decide)) (hP : P q = true := by first | assumption | exact ‹∀ q, P q = true› _) :
    Keeps w P s0 (readRow q j e node a s k) := by
  unfold readRow
  repeat' first
    | with_reducible assumption
    | with_reducible exact Covers.of hw (by decide)
    | (intro x; have hx : Keeps w P s0 x := by { dsimp only [x]; repeat' first
          | with_reducible assumption
          | with_reducible exact Covers.of hw (by decide)
          | with_reducible exact Keeps.refl _
          | with_reducible apply hk
          | with_reducible apply chargeFault_keeps
          | with_reducible apply withReads_keeps
          | split
          | intro y
          | lift_lets }; clear_value x)
    | intro x
    | with_reducible exact Keeps.refl _
    | with_reducible apply hk
    | with_reducible apply chargeFault_keeps
    | with_reducible apply withReads_keeps
    | split
    | lift_lets

theorem State.modScan_keeps {w : Nat} {P : PlotId → Bool} {s0 s : State} (q : PlotId) (f : GrfScan → GrfScan) (hK : Keeps w P s0 s) (hP : P q = true := by first | assumption | exact ‹∀ q, P q = true› _) :
    Keeps w P s0 (State.modScan s q f) := by
  unfold State.modScan
  repeat' first
    | with_reducible assumption
    | with_reducible apply Same.mk
    | with_reducible exact .inr rfl
    | exact .inr (fun _ _ => rfl)
    | intro x
    | with_reducible exact Keeps.refl _
    | with_reducible apply State.modGrf_keeps
    | with_reducible apply Keeps.upd
    | exact rfl

theorem runParts_keeps {w : Nat} {P : PlotId → Bool} {s0 s : State} (q : PlotId) (fs : List GraftPart) {k : State → State}
    (h : Keeps w P s0 s) (hf : ∀ f ∈ fs, PartKeeps w P s0 f) (hk : ∀ t, Keeps w P s0 t → Keeps w P s0 (k t))
    (hP : P q = true := by first | assumption | exact ‹∀ q, P q = true› _) : Keeps w P s0 (runParts q fs s k) := by
  induction fs generalizing s with
  | nil => exact hk s h
  | cons f fs ih =>
    exact hf f List.mem_cons_self s _ h (fun t ht => ih (State.modScan_keeps _ _ ht) (fun g m => hf g (List.mem_cons_of_mem _ m)))

theorem runRows_keeps {w : Nat} {P : PlotId → Bool} {s0 s : State} (q : PlotId) (j : Job) (e : GraftEntry)
    (node : Nat → Option NodeId) {parts : State → Nat → Nat → List GraftPart} (l : List (Nat × Nat)) {k : State → State}
    (h : Keeps w P s0 s) (hf : ∀ t r a, ∀ f ∈ parts t r a, PartKeeps w P s0 f) (hk : ∀ t, Keeps w P s0 t → Keeps w P s0 (k t))
    (hw : Covers w 137053744 := by exact Covers.of (by assumption) (by decide))
    (hP : P q = true := by first | assumption | exact ‹∀ q, P q = true› _) : Keeps w P s0 (runRows q j e node parts l s k) := by
  induction l generalizing s with
  | nil => exact hk s h
  | cons x l ih =>
    obtain ⟨r, a⟩ := x
    refine readRow_keeps _ _ _ _ _ _ h (fun t ht => ?_)
    exact runParts_keeps _ _ ht (fun f m => hf _ _ _ f (List.mem_of_mem_drop m)) (fun u hu => ih (State.modScan_keeps _ _ hu))

theorem runFrom_keeps {w : Nat} {P : PlotId → Bool} {s0 s : State} (q : PlotId) (j : Job) (e : GraftEntry)
    (node : Nat → Option NodeId) {parts : State → Nat → Nat → List GraftPart} (l : List Nat) {k : State → State}
    (h : Keeps w P s0 s) (hf : ∀ t r a, ∀ f ∈ parts t r a, PartKeeps w P s0 f) (hk : ∀ t, Keeps w P s0 t → Keeps w P s0 (k t))
    (hw : Covers w 137053744 := by exact Covers.of (by assumption) (by decide))
    (hP : P q = true := by first | assumption | exact ‹∀ q, P q = true› _) : Keeps w P s0 (runFrom q j e node parts l s k) :=
  runRows_keeps _ _ _ _ _ h hf hk

theorem State.addScan_keeps {w : Nat} {P : PlotId → Bool} {s0 s : State} (q : PlotId) (v : Int) (hK : Keeps w P s0 s) (hP : P q = true := by first | assumption | exact ‹∀ q, P q = true› _) :
    Keeps w P s0 (State.addScan s q v) := by
  unfold State.addScan
  repeat' first
    | with_reducible assumption
    | with_reducible apply Same.mk
    | with_reducible exact .inr rfl
    | exact .inr (fun _ _ => rfl)
    | intro x
    | with_reducible exact Keeps.refl _
    | with_reducible apply State.modScan_keeps
    | with_reducible apply Keeps.upd
    | exact rfl

theorem blockPart_keeps {w : Nat} {P : PlotId → Bool} {s0 : State} (q : PlotId) (j : Job) (e : GraftEntry) (node : Option NodeId) (a : Nat) (hw : Covers w 137053744 := by exact Covers.of (by assumption) (by decide)) (hP : P q = true := by first | assumption | exact ‹∀ q, P q = true› _) :
    PartKeeps w P s0 (blockPart q j e node a) := by
  intro s k hK hk
  unfold blockPart
  repeat' first
    | with_reducible assumption
    | with_reducible exact Covers.of hw (by decide)
    | intro x
    | with_reducible exact Keeps.refl _
    | with_reducible apply hk
    | with_reducible apply withReads_keeps
    | with_reducible apply State.addScan_keeps

theorem groupPart_keeps {w : Nat} {P : PlotId → Bool} {s0 : State} (q : PlotId) (j : Job) (e : GraftEntry) (x : Section) (node : Option NodeId) (a b addr g : Nat) (hw : Covers w 137315888 := by exact Covers.of (by assumption) (by decide)) (hP : P q = true := by first | assumption | exact ‹∀ q, P q = true› _) :
    PartKeeps w P s0 (groupPart q j e x node a b addr g) := by
  intro s k hK hk
  unfold groupPart
  repeat' first
    | with_reducible assumption
    | with_reducible exact Covers.of hw (by decide)
    | intro x
    | with_reducible exact Keeps.refl _
    | with_reducible apply hk
    | with_reducible apply countMacs_keeps
    | with_reducible apply withReads_keeps
    | with_reducible apply State.addScan_keeps

theorem energyParts_keeps {w : Nat} {P : PlotId → Bool} {s0 : State} (q : PlotId) (j : Job) (e : GraftEntry) (x : Section)
    (node : Option NodeId) (s : State) (a : Nat) {f : GraftPart} (hf : f ∈ energyParts q j e x node s a) (hw : Covers w 137315888 := by exact Covers.of (by assumption) (by decide))
    (hP : P q = true := by first | assumption | exact ‹∀ q, P q = true› _) :
    PartKeeps w P s0 f := by
  unfold energyParts at hf
  rcases List.mem_cons.mp hf with rfl | hf
  · exact blockPart_keeps _ _ _ _ _
  · obtain ⟨y, _, hf⟩ := List.mem_flatMap.mp hf
    obtain ⟨g, _, rfl⟩ := List.mem_map.mp hf
    exact groupPart_keeps _ _ _ _ _ _ _ _ _

theorem scratchPart_keeps {w : Nat} {P : PlotId → Bool} {s0 : State} (q : PlotId) (j : Job) (e : GraftEntry) (x : Section) (a : Nat) (hw : Covers w 137053744 := by exact Covers.of (by assumption) (by decide)) (hP : P q = true := by first | assumption | exact ‹∀ q, P q = true› _) :
    PartKeeps w P s0 (scratchPart q j e x a) := by
  intro s k hK hk
  unfold scratchPart
  repeat' first
    | with_reducible assumption
    | with_reducible exact Covers.of hw (by decide)
    | intro x
    | with_reducible exact Keeps.refl _
    | with_reducible apply hk
    | with_reducible apply chargeFault_keeps
    | split

theorem fullPassDone_keeps {w : Nat} {P : PlotId → Bool} {s0 s : State} (q : PlotId) (i : BitVec 16) (x : Section) (hK : Keeps w P s0 s) (hP : P q = true := by first | assumption | exact ‹∀ q, P q = true› _) :
    Keeps w P s0 (fullPassDone s q i x) := by
  unfold fullPassDone
  repeat' first
    | with_reducible assumption
    | with_reducible apply Same.mk
    | with_reducible exact .inr rfl
    | exact .inr (fun _ _ => rfl)
    | (intro x; have hx : Keeps w P s0 x := by { dsimp only [x]; repeat' first
          | with_reducible assumption
          | with_reducible apply Same.mk
          | with_reducible exact .inr rfl
          | exact .inr (fun _ _ => rfl)
          | with_reducible exact Keeps.refl _
          | with_reducible apply State.modJob_keeps
          | with_reducible apply State.modAn_keeps
          | with_reducible apply State.modGrf_keeps
          | with_reducible apply Keeps.upd
          | exact rfl
          | intro y
          | lift_lets }; clear_value x)
    | intro x
    | with_reducible exact Keeps.refl _
    | with_reducible apply State.modJob_keeps
    | with_reducible apply State.modAn_keeps
    | with_reducible apply State.modGrf_keeps
    | with_reducible apply Keeps.upd
    | exact rfl
    | lift_lets

theorem graftFullPass_keeps {w : Nat} {P : PlotId → Bool} {s0 s : State} (q : PlotId) (i : BitVec 16) (h : Keeps w P s0 s)
    (hw : Covers w 204424816 := by exact Covers.of (by assumption) (by decide))
    (hP : P q = true := by first | assumption | exact ‹∀ q, P q = true› _) : Keeps w P s0 (graftFullPass s q i) := by
  unfold graftFullPass
  split
  · split
    · exact h
    · rename_i j e x _ _ _
      have h1 : Keeps w P s0 (if (s.plot q).an.job == i then s else takeFabric s q i) := by
        split
        · exact h
        · exact takeFabric_keeps _ _ h
      generalize (if (s.plot q).an.job == i then s else takeFabric s q i) = s1 at h1
      have h2 : Keeps w P s0 (if (s1.plot q).grf.scan.isSome then s1 else
          (s1.modAn q (fun p => { p with state := .init })).modGrf q (fun g => { g.clear with phase := 1, scan := some {} })) := by
        split
        · exact h1
        · exact State.modGrf_keeps _ _ (State.modAn_keeps _ _ h1)
      dsimp only
      generalize (if (s1.plot q).grf.scan.isSome then s1 else
          (s1.modAn q (fun p => { p with state := .init })).modGrf q (fun g => { g.clear with phase := 1, scan := some {} })) = s2 at h2
      split
      · exact chargeFault_keeps _ _ _ _ h2
      · refine runFrom_keeps _ _ _ _ _ h2 (fun t r a f m => ?_) (fun t ht => ?_)
        · rcases List.mem_cons.mp m with rfl | m
          · exact scratchPart_keeps _ _ _ _ _
          · exact energyParts_keeps _ _ _ _ _ _ _ m
        · exact withReads_keeps _ _ _ _ ht (fun u hu => withWrites_keeps _ _ _ _ _ hu (fun v hv => fullPassDone_keeps _ _ _ hv))
  · exact h

theorem graftSelect_keeps {w : Nat} {P : PlotId → Bool} {s0 s : State} (q : PlotId) (i : BitVec 16) (h : HccId) (hK : Keeps w P s0 s) (hw : Covers w 137053744 := by exact Covers.of (by assumption) (by decide)) (hP : P q = true := by first | assumption | exact ‹∀ q, P q = true› _) :
    Keeps w P s0 (graftSelect s q i h) := by
  unfold graftSelect
  repeat' first
    | with_reducible assumption
    | with_reducible exact Covers.of hw (by decide)
    | with_reducible apply Same.mk
    | with_reducible exact .inr rfl
    | exact .inl (hw.bit _ (by decide))
    | exact .inr (fun _ _ => rfl)
    | (intro x; have hx : Keeps w P s0 x := by { dsimp only [x]; repeat' first
          | with_reducible assumption
          | with_reducible exact Covers.of hw (by decide)
          | with_reducible apply Same.mk
          | with_reducible exact .inr rfl
          | exact .inl (hw.bit _ (by decide))
          | exact .inr (fun _ _ => rfl)
          | with_reducible exact Keeps.refl _
          | with_reducible apply State.modMxeCnt_keeps
          | with_reducible apply chargeFault_keeps
          | with_reducible apply withReads_keeps
          | with_reducible apply State.modGrf_keeps
          | split
          | with_reducible apply Keeps.upd
          | exact rfl
          | intro y
          | lift_lets }; clear_value x)
    | intro x
    | with_reducible exact Keeps.refl _
    | with_reducible apply State.modMxeCnt_keeps
    | with_reducible apply chargeFault_keeps
    | with_reducible apply withReads_keeps
    | with_reducible apply State.modGrf_keeps
    | split
    | with_reducible apply Keeps.upd
    | exact rfl
    | lift_lets

theorem biasPart_keeps {w : Nat} {P : PlotId → Bool} {s0 : State} (q : PlotId) (j : Job) (e : GraftEntry) (x : Section) (k b addr g : Nat) (hw : Covers w 137315888 := by exact Covers.of (by assumption) (by decide)) (hP : P q = true := by first | assumption | exact ‹∀ q, P q = true› _) :
    PartKeeps w P s0 (biasPart q j e x k b addr g) := by
  intro s k hK hk
  unfold biasPart
  repeat' first
    | with_reducible assumption
    | with_reducible exact Covers.of hw (by decide)
    | with_reducible apply Same.mk
    | with_reducible exact .inr rfl
    | exact .inl (hw.bit _ (by decide))
    | exact .inr (fun _ _ => rfl)
    | (intro x; have hx : Keeps w P s0 x := by { dsimp only [x]; repeat' first
          | with_reducible assumption
          | with_reducible exact Covers.of hw (by decide)
          | with_reducible apply Same.mk
          | with_reducible exact .inr rfl
          | exact .inl (hw.bit _ (by decide))
          | exact .inr (fun _ _ => rfl)
          | with_reducible exact Keeps.refl _
          | with_reducible apply hk
          | with_reducible apply countMacs_keeps
          | with_reducible apply withReads_keeps
          | with_reducible apply State.modGrf_keeps
          | with_reducible apply Keeps.upd
          | exact rfl
          | intro y
          | lift_lets }; clear_value x)
    | intro x
    | with_reducible exact Keeps.refl _
    | with_reducible apply hk
    | with_reducible apply countMacs_keeps
    | with_reducible apply withReads_keeps
    | with_reducible apply State.modGrf_keeps
    | with_reducible apply Keeps.upd
    | exact rfl
    | lift_lets

theorem writeScratch_keeps {w : Nat} {P : PlotId → Bool} {s0 s : State} (q : PlotId) (j : Job) (l : List (Nat × List Byte))
    {c : State → State} (h : Keeps w P s0 s) (hk : ∀ t, Keeps w P s0 t → Keeps w P s0 (c t))
    (hw : Covers w 204162608 := by exact Covers.of (by assumption) (by decide))
    (hP : P q = true := by first | assumption | exact ‹∀ q, P q = true› _) : Keeps w P s0 (writeScratch q j l s c) := by
  induction l generalizing s with
  | nil => exact hk s h
  | cons x l ih =>
    unfold writeScratch
    split
    · exact chargeFault_keeps _ _ _ _ h
    · exact ih (State.pokeHome_keeps _ _ _ h)

theorem streamPart_keeps {w : Nat} {P : PlotId → Bool} {s0 : State} (q : PlotId) (j : Job) (e : GraftEntry) (t : TileEntry) (m addr g : Nat) (hw : Covers w 204162608 := by exact Covers.of (by assumption) (by decide)) (hP : P q = true := by first | assumption | exact ‹∀ q, P q = true› _) :
    PartKeeps w P s0 (streamPart q j e t m addr g) := by
  intro s k hK hk
  unfold streamPart
  repeat' first
    | with_reducible assumption
    | with_reducible exact Covers.of hw (by decide)
    | (intro x; have hx : Keeps w P s0 x := by { dsimp only [x]; repeat' first
          | with_reducible assumption
          | with_reducible exact Covers.of hw (by decide)
          | with_reducible exact Keeps.refl _
          | with_reducible apply hk
          | with_reducible apply withReads_keeps
          | with_reducible apply writeScratch_keeps
          | intro y
          | lift_lets }; clear_value x)
    | intro x
    | with_reducible exact Keeps.refl _
    | with_reducible apply hk
    | with_reducible apply withReads_keeps
    | with_reducible apply writeScratch_keeps
    | lift_lets

theorem shiftPart_keeps {w : Nat} {P : PlotId → Bool} {s0 : State} (q : PlotId) (j : Job) (e : GraftEntry) (t : TileEntry) (m addr : Nat) (hw : Covers w 204162608 := by exact Covers.of (by assumption) (by decide)) (hP : P q = true := by first | assumption | exact ‹∀ q, P q = true› _) :
    PartKeeps w P s0 (shiftPart q j e t m addr) := by
  intro s k hK hk
  unfold shiftPart
  repeat' first
    | with_reducible assumption
    | with_reducible exact Covers.of hw (by decide)
    | intro x
    | with_reducible exact Keeps.refl _
    | with_reducible apply hk
    | with_reducible apply withReads_keeps
    | with_reducible apply writeScratch_keeps

theorem tablesPart_keeps {w : Nat} {P : PlotId → Bool} {s0 : State} (q : PlotId) (j : Job) (e : GraftEntry) (t : TileEntry) (a : Nat) (hw : Covers w 204162608 := by exact Covers.of (by assumption) (by decide)) (hP : P q = true := by first | assumption | exact ‹∀ q, P q = true› _) :
    PartKeeps w P s0 (tablesPart q j e t a) := by
  intro s k hK hk
  unfold tablesPart
  repeat' first
    | with_reducible assumption
    | with_reducible exact Covers.of hw (by decide)
    | intro x
    | with_reducible exact Keeps.refl _
    | with_reducible apply hk
    | with_reducible apply withReads_keeps
    | with_reducible apply writeScratch_keeps

theorem deliverPart_keeps {w : Nat} {P : PlotId → Bool} {s0 : State} (q : PlotId) (k : Nat) (roots : Bool) (hw : Covers w 134217728 := by exact Covers.of (by assumption) (by decide)) :
    PartKeeps w P s0 (deliverPart q k roots) := by
  intro s k hK hk
  unfold deliverPart
  repeat' first
    | with_reducible assumption
    | with_reducible exact Covers.of hw (by decide)
    | (intro x; have hx : Keeps w P s0 x := by { dsimp only [x]; repeat' first
          | with_reducible assumption
          | with_reducible exact Covers.of hw (by decide)
          | with_reducible exact Keeps.refl _
          | with_reducible apply hk
          | with_reducible apply State.emit_keeps
          | split
          | intro y
          | lift_lets }; clear_value x)
    | intro x
    | with_reducible exact Keeps.refl _
    | with_reducible apply hk
    | with_reducible apply State.emit_keeps
    | split
    | lift_lets

theorem presentPart_keeps {w : Nat} {P : PlotId → Bool} {s0 : State} (q : PlotId) (l : List (Nat × Nat)) (hP : P q = true := by first | assumption | exact ‹∀ q, P q = true› _) :
    PartKeeps w P s0 (presentPart q l) := by
  intro s k hK hk
  unfold presentPart
  repeat' first
    | with_reducible assumption
    | with_reducible apply Same.mk
    | with_reducible exact .inr rfl
    | exact .inr (fun _ _ => rfl)
    | intro x
    | with_reducible exact Keeps.refl _
    | with_reducible apply hk
    | with_reducible apply State.modGrf_keeps
    | with_reducible apply Keeps.upd
    | exact rfl

theorem stageParts_keeps {w : Nat} {P : PlotId → Bool} {s0 : State} (q : PlotId) (j : Job) (e : GraftEntry) (x : Section)
    (r : GrfPlot) (s : State) (k a : Nat) {f : GraftPart} (hf : f ∈ stageParts q j e x r s k a) (hw : Covers w 204424752 := by exact Covers.of (by assumption) (by decide))
    (hP : P q = true := by first | assumption | exact ‹∀ q, P q = true› _) :
    PartKeeps w P s0 f := by
  unfold stageParts at hf
  dsimp only at hf
  rcases List.mem_append.mp hf with hf | hf
  · rcases List.mem_append.mp hf with hf | hf
    · rcases List.mem_append.mp hf with hf | hf
      · rcases List.mem_append.mp hf with hf | hf
        · cases List.mem_singleton.mp hf
          exact presentPart_keeps _ _
        · obtain ⟨y, _, hf⟩ := List.mem_flatMap.mp hf
          split at hf
          · cases hf
          · split at hf
            · rcases List.mem_append.mp hf with hf | hf
              · obtain ⟨g, _, rfl⟩ := List.mem_map.mp hf
                exact streamPart_keeps _ _ _ _ _ _ _
              · cases List.mem_singleton.mp hf
                exact shiftPart_keeps _ _ _ _ _ _
            · cases hf
      · obtain ⟨y, _, hf⟩ := List.mem_flatMap.mp hf
        obtain ⟨g, _, rfl⟩ := List.mem_map.mp hf
        exact biasPart_keeps _ _ _ _ _ _ _ _
    · split at hf
      · cases List.mem_singleton.mp hf
        exact tablesPart_keeps _ _ _ _ _
      · cases hf
  · cases List.mem_singleton.mp hf
    exact deliverPart_keeps _ _ _

theorem graftStage_keeps {w : Nat} {P : PlotId → Bool} {s0 s : State} (q : PlotId) (i : BitVec 16) (h : Keeps w P s0 s)
    (hw : Covers w 204424752 := by exact Covers.of (by assumption) (by decide))
    (hP : P q = true := by first | assumption | exact ‹∀ q, P q = true› _) : Keeps w P s0 (graftStage s q i) := by
  unfold graftStage
  split
  · dsimp only
    split
    · exact h
    · refine runFrom_keeps _ _ _ _ _ ?_ (fun t r a f m => stageParts_keeps _ _ _ _ _ _ _ _ m) (fun t ht => State.modGrf_keeps _ _ ht)
      split
      · exact State.modGrf_keeps _ _ h
      · exact h
  · exact h

theorem graftPass_keeps {w : Nat} {P : PlotId → Bool} {s0 s : State} (q : PlotId) (i : BitVec 16) (hK : Keeps w P s0 s) (hw : Covers w 137053744 := by exact Covers.of (by assumption) (by decide)) (hP : P q = true := by first | assumption | exact ‹∀ q, P q = true› _) :
    Keeps w P s0 (graftPass s q i) := by
  unfold graftPass
  repeat' first
    | with_reducible assumption
    | with_reducible exact Covers.of hw (by decide)
    | with_reducible apply Same.mk
    | with_reducible exact .inr rfl
    | exact .inl (hw.bit _ (by decide))
    | exact .inr (fun _ _ => rfl)
    | (intro x; have hx : Keeps w P s0 x := by { dsimp only [x]; repeat' first
          | with_reducible assumption
          | with_reducible exact Covers.of hw (by decide)
          | with_reducible apply Same.mk
          | with_reducible exact .inr rfl
          | exact .inl (hw.bit _ (by decide))
          | exact .inr (fun _ _ => rfl)
          | with_reducible exact Keeps.refl _
          | with_reducible apply State.modAn_keeps
          | with_reducible apply chargeFault_keeps
          | with_reducible apply readTiles_keeps
          | with_reducible apply State.modGrf_keeps
          | split
          | with_reducible apply Keeps.upd
          | exact rfl
          | intro y
          | lift_lets }; clear_value x)
    | intro x
    | with_reducible exact Keeps.refl _
    | with_reducible apply State.modAn_keeps
    | with_reducible apply chargeFault_keeps
    | with_reducible apply readTiles_keeps
    | with_reducible apply State.modGrf_keeps
    | split
    | with_reducible apply Keeps.upd
    | exact rfl
    | lift_lets

theorem graftHarvest_keeps {w : Nat} {P : PlotId → Bool} {s0 s : State} (q : PlotId) (i : BitVec 16) (hK : Keeps w P s0 s) (hw : Covers w 204195376 := by exact Covers.of (by assumption) (by decide)) (hP : P q = true := by first | assumption | exact ‹∀ q, P q = true› _) :
    Keeps w P s0 (graftHarvest s q i) := by
  unfold graftHarvest
  repeat' first
    | with_reducible assumption
    | with_reducible exact Covers.of hw (by decide)
    | with_reducible apply Same.mk
    | with_reducible exact .inr rfl
    | exact .inl (hw.bit _ (by decide))
    | exact .inr (fun _ _ => rfl)
    | (intro x; have hx : Keeps w P s0 x := by { dsimp only [x]; repeat' first
          | with_reducible assumption
          | with_reducible exact Covers.of hw (by decide)
          | with_reducible apply Same.mk
          | with_reducible exact .inr rfl
          | exact .inl (hw.bit _ (by decide))
          | exact .inr (fun _ _ => rfl)
          | with_reducible exact Keeps.refl _
          | with_reducible apply State.modAn_keeps
          | with_reducible apply withReads_keeps
          | with_reducible apply withWrites_keeps
          | with_reducible apply State.modGrf_keeps
          | split
          | with_reducible apply Keeps.upd
          | exact rfl
          | intro y
          | lift_lets }; clear_value x)
    | intro x
    | with_reducible exact Keeps.refl _
    | with_reducible apply State.modAn_keeps
    | with_reducible apply withReads_keeps
    | with_reducible apply withWrites_keeps
    | with_reducible apply State.modGrf_keeps
    | split
    | with_reducible apply Keeps.upd
    | exact rfl
    | lift_lets

theorem auditFound_keeps {w : Nat} {P : PlotId → Bool} {s0 s : State} (q : PlotId) (i : BitVec 16) (en : Int) (hK : Keeps w P s0 s) (hw : Covers w 134218800 := by exact Covers.of (by assumption) (by decide)) (hP : P q = true := by first | assumption | exact ‹∀ q, P q = true› _) :
    Keeps w P s0 (auditFound s q i en) := by
  unfold auditFound
  repeat' first
    | with_reducible assumption
    | with_reducible exact Covers.of hw (by decide)
    | with_reducible apply Same.mk
    | with_reducible exact .inr rfl
    | exact .inl (hw.bit _ (by decide))
    | exact .inr (fun _ _ => rfl)
    | (intro x; have hx : Keeps w P s0 x := by { dsimp only [x]; repeat' first
          | with_reducible assumption
          | with_reducible exact Covers.of hw (by decide)
          | with_reducible apply Same.mk
          | with_reducible exact .inr rfl
          | exact .inl (hw.bit _ (by decide))
          | exact .inr (fun _ _ => rfl)
          | with_reducible exact Keeps.refl _
          | with_reducible apply State.raisePlot_keeps
          | with_reducible apply State.logLine_keeps
          | with_reducible apply State.logSuppressed_keeps
          | with_reducible apply State.modJob_keeps
          | with_reducible apply State.modAn_keeps
          | with_reducible apply audit_keeps
          | with_reducible apply State.modGrf_keeps
          | split
          | with_reducible apply Keeps.upd
          | exact rfl
          | intro y
          | lift_lets }; clear_value x)
    | intro x
    | with_reducible exact Keeps.refl _
    | with_reducible apply State.raisePlot_keeps
    | with_reducible apply State.logLine_keeps
    | with_reducible apply State.logSuppressed_keeps
    | with_reducible apply State.modJob_keeps
    | with_reducible apply State.modAn_keeps
    | with_reducible apply audit_keeps
    | with_reducible apply State.modGrf_keeps
    | split
    | with_reducible apply Keeps.upd
    | exact rfl
    | lift_lets

theorem graftAudit_keeps {w : Nat} {P : PlotId → Bool} {s0 s : State} (q : PlotId) (i : BitVec 16) (h : Keeps w P s0 s)
    (hw : Covers w 204424752 := by exact Covers.of (by assumption) (by decide))
    (hP : P q = true := by first | assumption | exact ‹∀ q, P q = true› _) : Keeps w P s0 (graftAudit s q i) := by
  unfold graftAudit
  split
  · split
    · exact h
    · dsimp only
      refine runFrom_keeps _ _ _ _ _ ?_ (fun t r a f m => energyParts_keeps _ _ _ _ _ _ _ m) (fun t ht => ?_)
      · split
        · exact h
        · exact State.modGrf_keeps _ _ h
      · split
        · exact State.modGrf_keeps _ _ ht
        · split
          · exact withReads_keeps _ _ _ _ ht (fun u hu => withWrites_keeps _ _ _ _ _ hu (fun v hv => auditFound_keeps _ _ _ hv))
          · exact auditFound_keeps _ _ _ ht
  · exact h

theorem startRun_keeps {w : Nat} {P : PlotId → Bool} {s0 s : State} (q : PlotId) (i : BitVec 16) (sweeps : Nat) (bearing : Option Nat) (hK : Keeps w P s0 s) (hw : Covers w 137053744 := by exact Covers.of (by assumption) (by decide)) (hP : P q = true := by first | assumption | exact ‹∀ q, P q = true› _) :
    Keeps w P s0 (startRun s q i sweeps bearing) := by
  unfold startRun
  repeat' first
    | with_reducible assumption
    | with_reducible exact Covers.of hw (by decide)
    | with_reducible apply Same.mk
    | with_reducible exact .inr rfl
    | exact .inl (hw.bit _ (by decide))
    | exact .inr (fun _ _ => rfl)
    | (intro x; have hx : Keeps w P s0 x := by { dsimp only [x]; repeat' first
          | with_reducible assumption
          | with_reducible exact Covers.of hw (by decide)
          | with_reducible apply Same.mk
          | with_reducible exact .inr rfl
          | exact .inl (hw.bit _ (by decide))
          | exact .inr (fun _ _ => rfl)
          | with_reducible exact Keeps.refl _
          | with_reducible apply runStart_keeps
          | with_reducible apply State.modGrf_keeps
          | split
          | with_reducible apply Keeps.upd
          | exact rfl
          | intro y
          | lift_lets }; clear_value x)
    | intro x
    | with_reducible exact Keeps.refl _
    | with_reducible apply runStart_keeps
    | with_reducible apply State.modGrf_keeps
    | split
    | with_reducible apply Keeps.upd
    | exact rfl
    | lift_lets

end Sys2Proof.Machine
end

