-- ==== Sys2Proof/Laws/KeepsFlash.lean ====
section
/-!
SUPPORT. Sys2Proof/Laws/KeepsFlash.lean: the operations over SKOET, flash queries, writes and sessions keep what Keeps says.
-/
namespace Sys2Proof.Machine

set_option Elab.async false
set_option linter.all false

/-! ### Sys2Proof/Machine/Skoet.lean -/

theorem State.modSkt_keeps {w : Nat} {P : PlotId → Bool} {s0 s : State} (f : SktState → SktState) (hK : Keeps w P s0 s) (hw : Covers w 33554432 := by exact Covers.of (by assumption) (by decide)) :
    Keeps w P s0 (State.modSkt s f) := by
  unfold State.modSkt
  repeat' first
    | with_reducible assumption
    | with_reducible exact Covers.of hw (by decide)
    | with_reducible apply Same.mk
    | with_reducible exact .inr rfl
    | exact .inl (hw.bit _ (by decide))
    | exact .inr (fun _ _ => rfl)
    | intro x
    | with_reducible exact Keeps.refl _
    | with_reducible apply Keeps.upd
    | exact rfl

theorem State.modCage_keeps {w : Nat} {P : PlotId → Bool} {s0 s : State} (c : Fin 2) (f : SktCage → SktCage) (hK : Keeps w P s0 s) (hw : Covers w 33554432 := by exact Covers.of (by assumption) (by decide)) :
    Keeps w P s0 (State.modCage s c f) := by
  unfold State.modCage
  repeat' first
    | with_reducible assumption
    | with_reducible exact Covers.of hw (by decide)
    | with_reducible apply Same.mk
    | with_reducible exact .inr rfl
    | exact .inl (hw.bit _ (by decide))
    | exact .inr (fun _ _ => rfl)
    | intro x
    | with_reducible exact Keeps.refl _
    | with_reducible apply State.modSkt_keeps
    | with_reducible apply Keeps.upd
    | exact rfl

theorem violation_keeps {w : Nat} {P : PlotId → Bool} {s0 s : State} (cage : Fin 2) (type : Fin 12) (entry : Option Nat) (hK : Keeps w P s0 s) (hw : Covers w 167773232 := by exact Covers.of (by assumption) (by decide)) :
    Keeps w P s0 (violation s cage type entry) := by
  unfold violation
  repeat' first
    | with_reducible assumption
    | with_reducible exact Covers.of hw (by decide)
    | with_reducible apply Same.mk
    | with_reducible exact .inr rfl
    | exact .inl (hw.bit _ (by decide))
    | exact .inr (fun _ _ => rfl)
    | (intro x; have hx : Keeps w P s0 x := by { dsimp only [x]; repeat' first
          | with_reducible assumption
          | with_reducible exact Covers.of hw (by decide)
          | with_reducible apply Same.mk
          | with_reducible exact .inr rfl
          | exact .inl (hw.bit _ (by decide))
          | exact .inr (fun _ _ => rfl)
          | with_reducible exact Keeps.refl _
          | with_reducible apply State.raisePf_keeps
          | with_reducible apply State.logLine_keeps
          | with_reducible apply State.logSuppressed_keeps
          | with_reducible apply State.modSkt_keeps
          | with_reducible apply State.modCage_keeps
          | split
          | with_reducible apply Keeps.upd
          | exact rfl
          | intro y
          | lift_lets }; clear_value x)
    | intro x
    | with_reducible exact Keeps.refl _
    | with_reducible apply State.raisePf_keeps
    | with_reducible apply State.logLine_keeps
    | with_reducible apply State.logSuppressed_keeps
    | with_reducible apply State.modSkt_keeps
    | with_reducible apply State.modCage_keeps
    | split
    | with_reducible apply Keeps.upd
    | exact rfl
    | lift_lets

theorem frameReceived_keeps {w : Nat} {P : PlotId → Bool} {s0 s : State} (cage : Fin 2) (pcs : Bool) (f : List Byte) (hK : Keeps w P s0 s) (hw : Covers w 167773232 := by exact Covers.of (by assumption) (by decide)) :
    Keeps w P s0 (frameReceived s cage pcs f) := by
  unfold frameReceived
  repeat' first
    | with_reducible assumption
    | with_reducible exact Covers.of hw (by decide)
    | with_reducible apply Same.mk
    | with_reducible exact .inr rfl
    | exact .inl (hw.bit _ (by decide))
    | exact .inr (fun _ _ => rfl)
    | intro x
    | with_reducible exact Keeps.refl _
    | with_reducible apply State.modSkt_keeps
    | with_reducible apply violation_keeps
    | split
    | with_reducible apply Keeps.upd
    | exact rfl

theorem State.modEntry_keeps {w : Nat} {P : PlotId → Bool} {s0 s : State} (no : Nat) (f : SktEntry → SktEntry) (hK : Keeps w P s0 s) (hw : Covers w 33554432 := by exact Covers.of (by assumption) (by decide)) :
    Keeps w P s0 (State.modEntry s no f) := by
  unfold State.modEntry
  repeat' first
    | with_reducible assumption
    | with_reducible exact Covers.of hw (by decide)
    | with_reducible apply Same.mk
    | with_reducible exact .inr rfl
    | exact .inl (hw.bit _ (by decide))
    | exact .inr (fun _ _ => rfl)
    | intro x
    | with_reducible exact Keeps.refl _
    | with_reducible apply State.modSkt_keeps
    | with_reducible apply Keeps.upd
    | exact rfl

theorem sequence_keeps {w : Nat} {P : PlotId → Bool} {s0 s : State} (e : Ingest) (cage : Fin 2) (m : SktMsg) (hK : Keeps w P s0 s) (hw : Covers w 167773232 := by exact Covers.of (by assumption) (by decide)) :
    Keeps w P s0 (sequence s e cage m).1 := by
  unfold sequence
  repeat' first
    | with_reducible assumption
    | with_reducible exact Covers.of hw (by decide)
    | with_reducible apply Same.mk
    | with_reducible exact .inr rfl
    | exact .inl (hw.bit _ (by decide))
    | exact .inr (fun _ _ => rfl)
    | (intro x; have hx : Keeps w P s0 x := by { dsimp only [x]; repeat' first
          | with_reducible assumption
          | with_reducible exact Covers.of hw (by decide)
          | with_reducible apply Same.mk
          | with_reducible exact .inr rfl
          | exact .inl (hw.bit _ (by decide))
          | exact .inr (fun _ _ => rfl)
          | with_reducible exact Keeps.refl _
          | with_reducible apply violation_keeps
          | with_reducible apply State.modEntry_keeps
          | split
          | with_reducible apply Keeps.upd
          | exact rfl
          | intro y
          | lift_lets }; clear_value x)
    | intro x
    | with_reducible exact Keeps.refl _
    | with_reducible apply violation_keeps
    | with_reducible apply State.modEntry_keeps
    | split
    | with_reducible apply Keeps.upd
    | exact rfl
    | lift_lets

theorem checksComplete_keeps {w : Nat} {P : PlotId → Bool} {s0 s : State} (h : Keeps w P s0 s) (hw : Covers w 167773233 := by exact Covers.of (by assumption) (by decide)) : Keeps w P s0 (checksComplete s).1 := by
  unfold checksComplete
  split
  · exact h
  · rename_i f _
    have h1 := State.modSkt_keeps (fun k => { k with queue := k.queue.erase f }) (State.advanceTo_keeps h f.due)
    dsimp only
    split
    · exact violation_keeps _ _ _ h1
    · split
      · exact h1
      · exact sequence_keeps _ _ _ h1

theorem staleReached_keeps {w : Nat} {P : PlotId → Bool} {s0 s : State} (q : PlotId) (hK : Keeps w P s0 s) (hw : Covers w 134217760 := by exact Covers.of (by assumption) (by decide)) (hP : P q = true := by first | assumption | exact ‹∀ q, P q = true› _) :
    Keeps w P s0 (staleReached s q) := by
  unfold staleReached
  repeat' first
    | with_reducible assumption
    | with_reducible exact Covers.of hw (by decide)
    | with_reducible apply Same.mk
    | with_reducible exact .inr rfl
    | exact .inl (hw.bit _ (by decide))
    | exact .inr (fun _ _ => rfl)
    | intro x
    | with_reducible exact Keeps.refl _
    | with_reducible apply State.modPlot_keeps
    | with_reducible apply State.raisePlot_keeps
    | split
    | with_reducible apply Keeps.upd
    | exact rfl

theorem latchEntry_keeps {w : Nat} {P : PlotId → Bool} {s0 s : State} (e : Ingest) (hK : Keeps w P s0 s) (hw : Covers w 234881568 := by exact Covers.of (by assumption) (by decide)) (hP : ∀ q, P q = true := by assumption) :
    Keeps w P s0 (latchEntry s e) := by
  unfold latchEntry
  repeat' first
    | with_reducible assumption
    | with_reducible exact Covers.of hw (by decide)
    | with_reducible exact .inl hP
    | with_reducible exact hP _
    | with_reducible apply Same.mk
    | with_reducible exact .inr rfl
    | exact .inl (hw.bit _ (by decide))
    | exact .inr (fun _ _ => rfl)
    | (intro x; have hx : Keeps w P s0 x := by { dsimp only [x]; repeat' first
          | with_reducible assumption
          | with_reducible exact Covers.of hw (by decide)
          | with_reducible exact .inl hP
          | with_reducible exact hP _
          | with_reducible apply Same.mk
          | with_reducible exact .inr rfl
          | exact .inl (hw.bit _ (by decide))
          | exact .inr (fun _ _ => rfl)
          | with_reducible exact Keeps.refl _
          | with_reducible apply State.pokeHome_keeps
          | with_reducible apply State.modEntry_keeps
          | with_reducible apply staleReached_keeps
          | split
          | with_reducible apply Keeps.upd
          | exact rfl
          | intro y
          | lift_lets }; clear_value x)
    | intro x
    | with_reducible exact Keeps.refl _
    | with_reducible apply State.pokeHome_keeps
    | with_reducible apply State.modEntry_keeps
    | with_reducible apply staleReached_keeps
    | split
    | with_reducible apply Keeps.upd
    | exact rfl
    | lift_lets

theorem adoptTable_keeps {w : Nat} {P : PlotId → Bool} {s0 s : State} (hK : Keeps w P s0 s) (hw : Covers w 33554432 := by exact Covers.of (by assumption) (by decide)) :
    Keeps w P s0 (adoptTable s) := by
  unfold adoptTable
  repeat' first
    | with_reducible assumption
    | with_reducible exact Covers.of hw (by decide)
    | with_reducible apply Same.mk
    | with_reducible exact .inr rfl
    | exact .inl (hw.bit _ (by decide))
    | exact .inr (fun _ _ => rfl)
    | (intro x; have hx : Keeps w P s0 x := by { dsimp only [x]; repeat' first
          | with_reducible assumption
          | with_reducible exact Covers.of hw (by decide)
          | with_reducible apply Same.mk
          | with_reducible exact .inr rfl
          | exact .inl (hw.bit _ (by decide))
          | exact .inr (fun _ _ => rfl)
          | with_reducible exact Keeps.refl _
          | with_reducible apply State.modSkt_keeps
          | with_reducible apply Keeps.upd
          | exact rfl
          | intro y
          | lift_lets }; clear_value x)
    | intro x
    | with_reducible exact Keeps.refl _
    | with_reducible apply State.modSkt_keeps
    | with_reducible apply Keeps.upd
    | exact rfl
    | lift_lets

theorem latchIngest_keeps {w : Nat} {P : PlotId → Bool} {s0 s : State} (hK : Keeps w P s0 s) (hw : Covers w 234881568 := by exact Covers.of (by assumption) (by decide)) (hP : ∀ q, P q = true := by assumption) :
    Keeps w P s0 (latchIngest s) := by
  unfold latchIngest
  repeat' first
    | with_reducible assumption
    | with_reducible exact Covers.of hw (by decide)
    | with_reducible exact .inl hP
    | with_reducible exact hP _
    | with_reducible apply Same.mk
    | with_reducible exact .inr rfl
    | exact .inl (hw.bit _ (by decide))
    | exact .inr (fun _ _ => rfl)
    | (intro x; have hx : Keeps w P s0 x := by { dsimp only [x]; repeat' first
          | with_reducible assumption
          | with_reducible exact Covers.of hw (by decide)
          | with_reducible exact .inl hP
          | with_reducible exact hP _
          | with_reducible apply Same.mk
          | with_reducible exact .inr rfl
          | exact .inl (hw.bit _ (by decide))
          | exact .inr (fun _ _ => rfl)
          | with_reducible exact Keeps.refl _
          | with_reducible apply State.modSkt_keeps
          | with_reducible apply latchEntry_keeps
          | with_reducible apply adoptTable_keeps
          | with_reducible apply Keeps.foldl
          | with_reducible apply Keeps.upd
          | exact rfl
          | intro y
          | lift_lets }; clear_value x)
    | intro x
    | with_reducible exact Keeps.refl _
    | with_reducible apply State.modSkt_keeps
    | with_reducible apply latchEntry_keeps
    | with_reducible apply adoptTable_keeps
    | with_reducible apply Keeps.foldl
    | with_reducible apply Keeps.upd
    | exact rfl
    | lift_lets

theorem keyLoad_keeps {w : Nat} {P : PlotId → Bool} {s0 s : State} (f : Fn) (hK : Keeps w P s0 s) (hw : Covers w 33554432 := by exact Covers.of (by assumption) (by decide)) :
    Keeps w P s0 (keyLoad s f) := by
  unfold keyLoad
  repeat' first
    | with_reducible assumption
    | with_reducible exact Covers.of hw (by decide)
    | with_reducible apply Same.mk
    | with_reducible exact .inr rfl
    | exact .inl (hw.bit _ (by decide))
    | exact .inr (fun _ _ => rfl)
    | (intro x; have hx : Keeps w P s0 x := by { dsimp only [x]; repeat' first
          | with_reducible assumption
          | with_reducible exact Covers.of hw (by decide)
          | with_reducible apply Same.mk
          | with_reducible exact .inr rfl
          | exact .inl (hw.bit _ (by decide))
          | exact .inr (fun _ _ => rfl)
          | with_reducible exact Keeps.refl _
          | with_reducible apply State.modSkt_keeps
          | with_reducible apply Keeps.upd
          | exact rfl
          | intro y
          | lift_lets }; clear_value x)
    | intro x
    | with_reducible exact Keeps.refl _
    | with_reducible apply State.modSkt_keeps
    | with_reducible apply Keeps.upd
    | exact rfl
    | lift_lets

theorem keyClear_keeps {w : Nat} {P : PlotId → Bool} {s0 s : State} (f : Fn) (hK : Keeps w P s0 s) (hw : Covers w 33554432 := by exact Covers.of (by assumption) (by decide)) :
    Keeps w P s0 (keyClear s f) := by
  unfold keyClear
  repeat' first
    | with_reducible assumption
    | with_reducible exact Covers.of hw (by decide)
    | with_reducible apply Same.mk
    | with_reducible exact .inr rfl
    | exact .inl (hw.bit _ (by decide))
    | exact .inr (fun _ _ => rfl)
    | (intro x; have hx : Keeps w P s0 x := by { dsimp only [x]; repeat' first
          | with_reducible assumption
          | with_reducible exact Covers.of hw (by decide)
          | with_reducible apply Same.mk
          | with_reducible exact .inr rfl
          | exact .inl (hw.bit _ (by decide))
          | exact .inr (fun _ _ => rfl)
          | with_reducible exact Keeps.refl _
          | with_reducible apply State.modSkt_keeps
          | with_reducible apply Keeps.upd
          | exact rfl
          | intro y
          | lift_lets }; clear_value x)
    | intro x
    | with_reducible exact Keeps.refl _
    | with_reducible apply State.modSkt_keeps
    | with_reducible apply Keeps.upd
    | exact rfl
    | lift_lets

theorem portWrite_keeps {w : Nat} {P : PlotId → Bool} {s0 s : State} (cage : Fin 2) (v : Word) (hK : Keeps w P s0 s) (hw : Covers w 33554432 := by exact Covers.of (by assumption) (by decide)) :
    Keeps w P s0 (portWrite s cage v) := by
  unfold portWrite
  repeat' first
    | with_reducible assumption
    | with_reducible exact Covers.of hw (by decide)
    | with_reducible apply Same.mk
    | with_reducible exact .inr rfl
    | exact .inl (hw.bit _ (by decide))
    | exact .inr (fun _ _ => rfl)
    | intro x
    | with_reducible exact Keeps.refl _
    | with_reducible apply State.modSkt_keeps
    | with_reducible apply State.modCage_keeps
    | split
    | with_reducible apply Keeps.upd
    | exact rfl

theorem portLoss_keeps {w : Nat} {P : PlotId → Bool} {s0 s : State} (cage : Fin 2) (los modAbs : Bool) (hK : Keeps w P s0 s) (hw : Covers w 33554432 := by exact Covers.of (by assumption) (by decide)) :
    Keeps w P s0 (portLoss s cage los modAbs) := by
  unfold portLoss
  repeat' first
    | with_reducible assumption
    | with_reducible exact Covers.of hw (by decide)
    | with_reducible apply Same.mk
    | with_reducible exact .inr rfl
    | exact .inl (hw.bit _ (by decide))
    | exact .inr (fun _ _ => rfl)
    | intro x
    | with_reducible exact Keeps.refl _
    | with_reducible apply State.modCage_keeps
    | split
    | with_reducible apply Keeps.upd
    | exact rfl

theorem portGain_keeps {w : Nat} {P : PlotId → Bool} {s0 s : State} (cage : Fin 2) (modAbs : Bool) (hK : Keeps w P s0 s) (hw : Covers w 33554432 := by exact Covers.of (by assumption) (by decide)) :
    Keeps w P s0 (portGain s cage modAbs) := by
  unfold portGain
  repeat' first
    | with_reducible assumption
    | with_reducible exact Covers.of hw (by decide)
    | with_reducible apply Same.mk
    | with_reducible exact .inr rfl
    | exact .inl (hw.bit _ (by decide))
    | exact .inr (fun _ _ => rfl)
    | intro x
    | with_reducible exact Keeps.refl _
    | with_reducible apply State.modCage_keeps
    | with_reducible apply Keeps.upd
    | exact rfl

/-! ### Sys2Proof/Machine/Flash.lean -/

theorem State.modPart_keeps {w : Nat} {P : PlotId → Bool} {s0 s : State} (q : PlotId) (i : BitVec 16) (no : Nat) (l : LaneId) (f : Part → Part) (hK : Keeps w P s0 s) (hP : P q = true := by first | assumption | exact ‹∀ q, P q = true› _) :
    Keeps w P s0 (State.modPart s q i no l f) := by
  unfold State.modPart
  repeat' first
    | with_reducible assumption
    | with_reducible apply Same.mk
    | with_reducible exact .inr rfl
    | exact .inr (fun _ _ => rfl)
    | intro x
    | with_reducible exact Keeps.refl _
    | with_reducible apply State.modFln_keeps
    | split
    | with_reducible apply Keeps.upd
    | exact rfl

theorem State.modQuery_keeps {w : Nat} {P : PlotId → Bool} {s0 s : State} (q : PlotId) (i : BitVec 16) (no : Nat) (f : Query → Query) (hK : Keeps w P s0 s) (hP : P q = true := by first | assumption | exact ‹∀ q, P q = true› _) :
    Keeps w P s0 (State.modQuery s q i no f) := by
  unfold State.modQuery
  repeat' first
    | with_reducible assumption
    | with_reducible apply Same.mk
    | with_reducible exact .inr rfl
    | exact .inr (fun _ _ => rfl)
    | intro x
    | with_reducible exact Keeps.refl _
    | with_reducible apply State.modFln_keeps
    | split
    | with_reducible apply Keeps.upd
    | exact rfl

theorem startQuery_keeps {w : Nat} {P : PlotId → Bool} {s0 s : State} (q : PlotId) (i : BitVec 16) (a : Nat) (hK : Keeps w P s0 s) (hw : Covers w 137053744 := by exact Covers.of (by assumption) (by decide)) (hP : P q = true := by first | assumption | exact ‹∀ q, P q = true› _) :
    Keeps w P s0 (startQuery s q i a) := by
  unfold startQuery
  repeat' first
    | with_reducible assumption
    | with_reducible exact Covers.of hw (by decide)
    | with_reducible apply Same.mk
    | with_reducible exact .inr rfl
    | exact .inl (hw.bit _ (by decide))
    | exact .inr (fun _ _ => rfl)
    | (intro x; have hx : Keeps w P s0 x := by { dsimp only [x]; repeat' first
          | with_reducible assumption
          | with_reducible exact Covers.of hw (by decide)
          | with_reducible apply Same.mk
          | with_reducible exact .inr rfl
          | exact .inl (hw.bit _ (by decide))
          | exact .inr (fun _ _ => rfl)
          | with_reducible exact Keeps.refl _
          | with_reducible apply State.modJob_keeps
          | with_reducible apply chargeFault_keeps
          | with_reducible apply State.modLaneOf_keeps
          | with_reducible apply State.modFln_keeps
          | with_reducible apply withReads_keeps
          | with_reducible apply Keeps.foldl
          | split
          | with_reducible apply Keeps.upd
          | exact rfl
          | intro y
          | lift_lets }; clear_value x)
    | intro x
    | with_reducible exact Keeps.refl _
    | with_reducible apply State.modJob_keeps
    | with_reducible apply chargeFault_keeps
    | with_reducible apply State.modLaneOf_keeps
    | with_reducible apply State.modFln_keeps
    | with_reducible apply withReads_keeps
    | with_reducible apply Keeps.foldl
    | split
    | with_reducible apply Keeps.upd
    | exact rfl
    | lift_lets

theorem countScan_keeps {w : Nat} {P : PlotId → Bool} {s0 s : State} (q : PlotId) (was now : Part) (hits : Nat) (hK : Keeps w P s0 s) (hP : P q = true := by first | assumption | exact ‹∀ q, P q = true› _) :
    Keeps w P s0 (countScan s q was now hits) := by
  unfold countScan
  repeat' first
    | with_reducible assumption
    | with_reducible apply Same.mk
    | with_reducible exact .inr rfl
    | exact .inr (fun _ _ => rfl)
    | intro x
    | with_reducible exact Keeps.refl _
    | with_reducible apply State.modFlnCnt_keeps
    | with_reducible apply Keeps.upd
    | exact rfl

theorem badSector_keeps {w : Nat} {P : PlotId → Bool} {s0 s : State} (q : PlotId) (i : BitVec 16) (l : LaneId) (sector : Nat) (hK : Keeps w P s0 s) (hw : Covers w 137053744 := by exact Covers.of (by assumption) (by decide)) (hP : P q = true := by first | assumption | exact ‹∀ q, P q = true› _) :
    Keeps w P s0 (badSector s q i l sector) := by
  unfold badSector
  repeat' first
    | with_reducible assumption
    | with_reducible exact Covers.of hw (by decide)
    | with_reducible apply Same.mk
    | with_reducible exact .inr rfl
    | exact .inl (hw.bit _ (by decide))
    | exact .inr (fun _ _ => rfl)
    | intro x
    | with_reducible exact Keeps.refl _
    | with_reducible apply State.logLine_keeps
    | with_reducible apply chargeFault_keeps
    | with_reducible apply State.modFlnCnt_keeps
    | with_reducible apply Keeps.upd
    | exact rfl

theorem scanNext_keeps {w : Nat} {P : PlotId → Bool} {s0 s u : State} (q : PlotId) (i : BitVec 16) (no : Nat) (l : LaneId)
    (e : scanNext s q i no l = some u) (h : Keeps w P s0 s) (hw : Covers w 137053744 := by exact Covers.of (by assumption) (by decide))
    (hP : P q = true := by first | assumption | exact ‹∀ q, P q = true› _) : Keeps w P s0 u := by
  unfold scanNext at e
  split at e
  · cases e
  · split at e
    · split at e
      · cases e
      · split at e
        · cases e
        · split at e
          · cases e; exact badSector_keeps _ _ _ _ h
          · cases e; exact State.modPart_keeps _ _ _ _ _ (countScan_keeps _ _ _ _ h)
    · cases e

theorem drainAux_keeps {w : Nat} {P : PlotId → Bool} {s0 s : State} (n : Nat) (q : PlotId) (i : BitVec 16) (no : Nat) (l : LaneId)
    (h : Keeps w P s0 s) (hw : Covers w 137053744 := by exact Covers.of (by assumption) (by decide))
    (hP : P q = true := by first | assumption | exact ‹∀ q, P q = true› _) : Keeps w P s0 (drainAux n s q i no l) := by
  induction n generalizing s with
  | zero => exact h
  | succ n ih =>
    unfold drainAux
    split
    · exact h
    · rename_i e
      exact ih (scanNext_keeps _ _ _ _ e h)

theorem drainBuf_keeps {w : Nat} {P : PlotId → Bool} {s0 s : State} (q : PlotId) (i : BitVec 16) (no : Nat) (l : LaneId) (hK : Keeps w P s0 s) (hw : Covers w 137053744 := by exact Covers.of (by assumption) (by decide)) (hP : P q = true := by first | assumption | exact ‹∀ q, P q = true› _) :
    Keeps w P s0 (drainBuf s q i no l) := by
  unfold drainBuf
  repeat' first
    | with_reducible assumption
    | with_reducible exact Covers.of hw (by decide)
    | (intro x; have hx : Keeps w P s0 x := by { dsimp only [x]; repeat' first
          | with_reducible assumption
          | with_reducible exact Covers.of hw (by decide)
          | with_reducible exact Keeps.refl _
          | with_reducible apply startPageIns_keeps
          | with_reducible apply drainAux_keeps
          | split
          | intro y
          | lift_lets }; clear_value x)
    | intro x
    | with_reducible exact Keeps.refl _
    | with_reducible apply startPageIns_keeps
    | with_reducible apply drainAux_keeps
    | split
    | lift_lets

theorem scanSide_keeps {w : Nat} {P : PlotId → Bool} {s0 s : State} (q : PlotId) (x : Query) (m : Nat) (vis : List SideEntry) (p : Part) (hK : Keeps w P s0 s) (hP : P q = true := by first | assumption | exact ‹∀ q, P q = true› _) :
    Keeps w P s0 (scanSide s q x m vis p).1 := by
  unfold scanSide
  repeat' first
    | with_reducible assumption
    | (intro x; have hx : Keeps w P s0 x := by { dsimp only [x]; repeat' first
          | with_reducible assumption
          | with_reducible exact Keeps.refl _
          | with_reducible apply countScan_keeps
          | with_reducible apply Keeps.foldl
          | split
          | intro y
          | lift_lets }; clear_value x)
    | intro x
    | with_reducible exact Keeps.refl _
    | with_reducible apply countScan_keeps
    | with_reducible apply Keeps.foldl
    | split
    | lift_lets

theorem startPart_keeps {w : Nat} {P : PlotId → Bool} {s0 s : State} (q : PlotId) (i : BitVec 16) (no : Nat) (l : LaneId) (hK : Keeps w P s0 s) (hw : Covers w 137053744 := by exact Covers.of (by assumption) (by decide)) (hP : P q = true := by first | assumption | exact ‹∀ q, P q = true› _) :
    Keeps w P s0 (startPart s q i no l) := by
  unfold startPart
  repeat' first
    | with_reducible assumption
    | with_reducible exact Covers.of hw (by decide)
    | with_reducible apply Same.mk
    | with_reducible exact .inr rfl
    | exact .inl (hw.bit _ (by decide))
    | exact .inr (fun _ _ => rfl)
    | (intro x; have hx : Keeps w P s0 x := by { dsimp only [x]; repeat' first
          | with_reducible assumption
          | with_reducible exact Covers.of hw (by decide)
          | with_reducible apply Same.mk
          | with_reducible exact .inr rfl
          | exact .inl (hw.bit _ (by decide))
          | exact .inr (fun _ _ => rfl)
          | with_reducible exact Keeps.refl _
          | with_reducible apply chargeFault_keeps
          | with_reducible apply State.modLaneOf_keeps
          | with_reducible apply withReads_keeps
          | with_reducible apply State.modPart_keeps
          | with_reducible apply State.modQuery_keeps
          | with_reducible apply drainBuf_keeps
          | with_reducible apply scanSide_keeps
          | refine Keeps.of_fst (by assumption) ?_
          | split
          | with_reducible apply Keeps.upd
          | exact rfl
          | intro y
          | lift_lets }; clear_value x)
    | intro x
    | with_reducible exact Keeps.refl _
    | with_reducible apply chargeFault_keeps
    | with_reducible apply State.modLaneOf_keeps
    | with_reducible apply withReads_keeps
    | with_reducible apply State.modPart_keeps
    | with_reducible apply State.modQuery_keeps
    | with_reducible apply drainBuf_keeps
    | with_reducible apply scanSide_keeps
    | refine Keeps.of_fst (by assumption) ?_
    | split
    | with_reducible apply Keeps.upd
    | exact rfl
    | lift_lets

theorem parkClaim_keeps {w : Nat} {P : PlotId → Bool} {s0 s : State} (q : PlotId) (i : BitVec 16) (l : LaneId) (hK : Keeps w P s0 s) (hP : P q = true := by first | assumption | exact ‹∀ q, P q = true› _) :
    Keeps w P s0 (parkClaim s q i l) := by
  unfold parkClaim
  repeat' first
    | with_reducible assumption
    | with_reducible apply Same.mk
    | with_reducible exact .inr rfl
    | exact .inr (fun _ _ => rfl)
    | intro x
    | with_reducible exact Keeps.refl _
    | with_reducible apply State.modFln_keeps
    | with_reducible apply State.modFlnCnt_keeps
    | split
    | with_reducible apply Keeps.upd
    | exact rfl

theorem parkAll_keeps {w : Nat} {P : PlotId → Bool} {s0 s : State} (q : PlotId) (hK : Keeps w P s0 s) (hP : P q = true := by first | assumption | exact ‹∀ q, P q = true› _) :
    Keeps w P s0 (parkAll s q) := by
  unfold parkAll
  repeat' first
    | with_reducible assumption
    | with_reducible apply Same.mk
    | with_reducible exact .inr rfl
    | exact .inr (fun _ _ => rfl)
    | intro x
    | with_reducible exact Keeps.refl _
    | with_reducible apply State.modFln_keeps
    | with_reducible apply Keeps.upd
    | exact rfl

theorem unparkAll_keeps {w : Nat} {P : PlotId → Bool} {s0 s : State} (q : PlotId) (hK : Keeps w P s0 s) (hP : P q = true := by first | assumption | exact ‹∀ q, P q = true› _) :
    Keeps w P s0 (unparkAll s q) := by
  unfold unparkAll
  repeat' first
    | with_reducible assumption
    | with_reducible apply Same.mk
    | with_reducible exact .inr rfl
    | exact .inr (fun _ _ => rfl)
    | intro x
    | with_reducible exact Keeps.refl _
    | with_reducible apply State.modFln_keeps
    | with_reducible apply Keeps.upd
    | exact rfl

theorem resumeLanes_keeps {w : Nat} {P : PlotId → Bool} {s0 s : State} (hK : Keeps w P s0 s) (hw : Covers w 137053744 := by exact Covers.of (by assumption) (by decide)) (hP : ∀ q, P q = true := by assumption) :
    Keeps w P s0 (resumeLanes s) := by
  unfold resumeLanes
  repeat' first
    | with_reducible assumption
    | with_reducible exact Covers.of hw (by decide)
    | with_reducible exact .inl hP
    | with_reducible exact hP _
    | (intro x; have hx : Keeps w P s0 x := by { dsimp only [x]; repeat' first
          | with_reducible assumption
          | with_reducible exact Covers.of hw (by decide)
          | with_reducible exact .inl hP
          | with_reducible exact hP _
          | with_reducible exact Keeps.refl _
          | with_reducible apply issueLane_keeps
          | with_reducible apply drainBuf_keeps
          | with_reducible apply Keeps.foldl
          | with_reducible apply Keeps.eachPlot
          | intro y
          | lift_lets }; clear_value x)
    | intro x
    | with_reducible exact Keeps.refl _
    | with_reducible apply issueLane_keeps
    | with_reducible apply drainBuf_keeps
    | with_reducible apply Keeps.foldl
    | with_reducible apply Keeps.eachPlot
    | lift_lets

theorem partDeadline_keeps {w : Nat} {P : PlotId → Bool} {s0 s : State} (q : PlotId) (i : BitVec 16) (no : Nat) (l : LaneId) (hK : Keeps w P s0 s) (hw : Covers w 134234112 := by exact Covers.of (by assumption) (by decide)) (hP : P q = true := by first | assumption | exact ‹∀ q, P q = true› _) :
    Keeps w P s0 (partDeadline s q i no l) := by
  unfold partDeadline
  repeat' first
    | with_reducible assumption
    | with_reducible exact Covers.of hw (by decide)
    | with_reducible apply Same.mk
    | with_reducible exact .inr rfl
    | exact .inl (hw.bit _ (by decide))
    | exact .inr (fun _ _ => rfl)
    | intro x
    | with_reducible exact Keeps.refl _
    | with_reducible apply startPageIns_keeps
    | with_reducible apply State.modPart_keeps
    | split
    | with_reducible apply Keeps.upd
    | exact rfl

theorem queryStatus_keeps {w : Nat} {P : PlotId → Bool} {s0 s : State} (x : Query) (h : Keeps w P s0 s) (hw : Covers w 536870912 := by exact Covers.of (by assumption) (by decide)) : Keeps w P s0 (queryStatus s x).2 := by
  unfold queryStatus
  dsimp only
  split
  · exact State.takeFree_keeps h
  · exact h

theorem mergeResult_keeps {w : Nat} {P : PlotId → Bool} {s0 s : State} (q : PlotId) (i : BitVec 16) (no : Nat) (hK : Keeps w P s0 s) (hw : Covers w 741033520 := by exact Covers.of (by assumption) (by decide)) (hP : P q = true := by first | assumption | exact ‹∀ q, P q = true› _) :
    Keeps w P s0 (mergeResult s q i no) := by
  unfold mergeResult
  repeat' first
    | with_reducible assumption
    | with_reducible exact Covers.of hw (by decide)
    | with_reducible apply Same.mk
    | with_reducible exact .inr rfl
    | exact .inl (hw.bit _ (by decide))
    | exact .inr (fun _ _ => rfl)
    | (intro x; have hx : Keeps w P s0 x := by { dsimp only [x]; repeat' first
          | with_reducible assumption
          | with_reducible exact Covers.of hw (by decide)
          | with_reducible apply Same.mk
          | with_reducible exact .inr rfl
          | exact .inl (hw.bit _ (by decide))
          | exact .inr (fun _ _ => rfl)
          | with_reducible exact Keeps.refl _
          | with_reducible apply State.modFln_keeps
          | with_reducible apply State.modFlnCnt_keeps
          | with_reducible apply withWrites_keeps
          | with_reducible apply queryStatus_keeps
          | refine Keeps.of_snd (by assumption) ?_
          | with_reducible apply Keeps.foldl
          | split
          | with_reducible apply Keeps.upd
          | exact rfl
          | intro y
          | lift_lets }; clear_value x)
    | intro x
    | with_reducible exact Keeps.refl _
    | with_reducible apply State.modFln_keeps
    | with_reducible apply State.modFlnCnt_keeps
    | with_reducible apply withWrites_keeps
    | with_reducible apply queryStatus_keeps
    | refine Keeps.of_snd (by assumption) ?_
    | with_reducible apply Keeps.foldl
    | split
    | with_reducible apply Keeps.upd
    | exact rfl
    | lift_lets

theorem dropRead_keeps {w : Nat} {P : PlotId → Bool} {s0 s : State} (l : LaneId) (o : FlashOp) (hK : Keeps w P s0 s) (hw : Covers w 16384 := by exact Covers.of (by assumption) (by decide)) :
    Keeps w P s0 (dropRead s l o) := by
  unfold dropRead
  repeat' first
    | with_reducible assumption
    | with_reducible exact Covers.of hw (by decide)
    | with_reducible apply Same.mk
    | with_reducible exact .inr rfl
    | exact .inl (hw.bit _ (by decide))
    | exact .inr (fun _ _ => rfl)
    | intro x
    | with_reducible exact Keeps.refl _
    | with_reducible apply State.modLaneOf_keeps
    | with_reducible apply Keeps.upd
    | exact rfl

theorem readFailed_keeps {w : Nat} {P : PlotId → Bool} {s0 s : State} (l : LaneId) (o : FlashOp) (a : FlashPlace) (hK : Keeps w P s0 s) (hw : Covers w 137053744 := by exact Covers.of (by assumption) (by decide)) (hP : ∀ q, P q = true := by assumption) :
    Keeps w P s0 (readFailed s l o a) := by
  unfold readFailed
  repeat' first
    | with_reducible assumption
    | with_reducible exact Covers.of hw (by decide)
    | with_reducible exact .inl hP
    | with_reducible exact hP _
    | with_reducible apply Same.mk
    | with_reducible exact .inr rfl
    | exact .inl (hw.bit _ (by decide))
    | exact .inr (fun _ _ => rfl)
    | intro x
    | with_reducible exact Keeps.refl _
    | with_reducible apply State.emit_keeps
    | with_reducible apply State.modLaneOf_keeps
    | with_reducible apply issueLane_keeps
    | with_reducible apply markSuspect_keeps
    | with_reducible apply dropRead_keeps
    | split
    | with_reducible apply Keeps.upd
    | exact rfl

theorem deliverPage_keeps {w : Nat} {P : PlotId → Bool} {s0 s : State} (q : PlotId) (l : LaneId) (a : FlashPlace) (data : List (List Byte)) (hK : Keeps w P s0 s) (hw : Covers w 137053744 := by exact Covers.of (by assumption) (by decide)) (hP : P q = true := by first | assumption | exact ‹∀ q, P q = true› _) :
    Keeps w P s0 (deliverPage s q l a data) := by
  unfold deliverPage
  repeat' first
    | with_reducible assumption
    | with_reducible exact Covers.of hw (by decide)
    | with_reducible apply Same.mk
    | with_reducible exact .inr rfl
    | exact .inl (hw.bit _ (by decide))
    | exact .inr (fun _ _ => rfl)
    | (intro x; have hx : Keeps w P s0 x := by { dsimp only [x]; repeat' first
          | with_reducible assumption
          | with_reducible exact Covers.of hw (by decide)
          | with_reducible apply Same.mk
          | with_reducible exact .inr rfl
          | exact .inl (hw.bit _ (by decide))
          | exact .inr (fun _ _ => rfl)
          | with_reducible exact Keeps.refl _
          | with_reducible apply State.modMsh_keeps
          | with_reducible apply State.modPart_keeps
          | with_reducible apply drainBuf_keeps
          | with_reducible apply Keeps.foldl
          | split
          | with_reducible apply Keeps.upd
          | exact rfl
          | intro y
          | lift_lets }; clear_value x)
    | intro x
    | with_reducible exact Keeps.refl _
    | with_reducible apply State.modMsh_keeps
    | with_reducible apply State.modPart_keeps
    | with_reducible apply drainBuf_keeps
    | with_reducible apply Keeps.foldl
    | split
    | with_reducible apply Keeps.upd
    | exact rfl
    | lift_lets

theorem pageRead_keeps {w : Nat} {P : PlotId → Bool} {s0 s : State} (l : LaneId) (o : FlashOp) (a : FlashPlace) (cws : List Codeword) (hK : Keeps w P s0 s) (hw : Covers w 137053744 := by exact Covers.of (by assumption) (by decide)) (hP : ∀ q, P q = true := by assumption) :
    Keeps w P s0 (pageRead s l o a cws) := by
  unfold pageRead
  repeat' first
    | with_reducible assumption
    | with_reducible exact Covers.of hw (by decide)
    | with_reducible exact .inl hP
    | with_reducible exact hP _
    | with_reducible apply Same.mk
    | with_reducible exact .inr rfl
    | exact .inl (hw.bit _ (by decide))
    | exact .inr (fun _ _ => rfl)
    | (intro x; have hx : Keeps w P s0 x := by { dsimp only [x]; repeat' first
          | with_reducible assumption
          | with_reducible exact Covers.of hw (by decide)
          | with_reducible exact .inl hP
          | with_reducible exact hP _
          | with_reducible apply Same.mk
          | with_reducible exact .inr rfl
          | exact .inl (hw.bit _ (by decide))
          | exact .inr (fun _ _ => rfl)
          | with_reducible exact Keeps.refl _
          | with_reducible apply State.modLaneOf_keeps
          | with_reducible apply issueLane_keeps
          | with_reducible apply dropRead_keeps
          | with_reducible apply readFailed_keeps
          | with_reducible apply deliverPage_keeps
          | with_reducible apply Keeps.eachPlot
          | split
          | with_reducible apply Keeps.upd
          | exact rfl
          | intro y
          | lift_lets }; clear_value x)
    | intro x
    | with_reducible exact Keeps.refl _
    | with_reducible apply State.modLaneOf_keeps
    | with_reducible apply issueLane_keeps
    | with_reducible apply dropRead_keeps
    | with_reducible apply readFailed_keeps
    | with_reducible apply deliverPage_keeps
    | with_reducible apply Keeps.eachPlot
    | split
    | with_reducible apply Keeps.upd
    | exact rfl
    | lift_lets

theorem pageReady_keeps {w : Nat} {P : PlotId → Bool} {s0 s : State} (l : LaneId) (ce lun block page : Nat) (r : PageRead) (hK : Keeps w P s0 s) (hw : Covers w 137053744 := by exact Covers.of (by assumption) (by decide)) (hP : ∀ q, P q = true := by assumption) :
    Keeps w P s0 (pageReady s l ce lun block page r) := by
  unfold pageReady
  repeat' first
    | with_reducible assumption
    | with_reducible exact Covers.of hw (by decide)
    | with_reducible exact .inl hP
    | with_reducible exact hP _
    | with_reducible apply Same.mk
    | with_reducible exact .inr rfl
    | exact .inl (hw.bit _ (by decide))
    | exact .inr (fun _ _ => rfl)
    | (intro x; have hx : Keeps w P s0 x := by { dsimp only [x]; repeat' first
          | with_reducible assumption
          | with_reducible exact Covers.of hw (by decide)
          | with_reducible exact .inl hP
          | with_reducible exact hP _
          | with_reducible apply Same.mk
          | with_reducible exact .inr rfl
          | exact .inl (hw.bit _ (by decide))
          | exact .inr (fun _ _ => rfl)
          | with_reducible exact Keeps.refl _
          | with_reducible apply State.modLaneOf_keeps
          | with_reducible apply readFailed_keeps
          | with_reducible apply pageRead_keeps
          | split
          | with_reducible apply Keeps.upd
          | exact rfl
          | intro y
          | lift_lets }; clear_value x)
    | intro x
    | with_reducible exact Keeps.refl _
    | with_reducible apply State.modLaneOf_keeps
    | with_reducible apply readFailed_keeps
    | with_reducible apply pageRead_keeps
    | split
    | with_reducible apply Keeps.upd
    | exact rfl
    | lift_lets

theorem readTimeout_keeps {w : Nat} {P : PlotId → Bool} {s0 s : State} (l : LaneId) (ce lun block page : Nat) (hK : Keeps w P s0 s) (hw : Covers w 137053744 := by exact Covers.of (by assumption) (by decide)) (hP : ∀ q, P q = true := by assumption) :
    Keeps w P s0 (readTimeout s l ce lun block page) := by
  unfold readTimeout
  repeat' first
    | with_reducible assumption
    | with_reducible exact Covers.of hw (by decide)
    | with_reducible exact .inl hP
    | with_reducible exact hP _
    | with_reducible apply Same.mk
    | with_reducible exact .inr rfl
    | exact .inl (hw.bit _ (by decide))
    | exact .inr (fun _ _ => rfl)
    | (intro x; have hx : Keeps w P s0 x := by { dsimp only [x]; repeat' first
          | with_reducible assumption
          | with_reducible exact Covers.of hw (by decide)
          | with_reducible exact .inl hP
          | with_reducible exact hP _
          | with_reducible apply Same.mk
          | with_reducible exact .inr rfl
          | exact .inl (hw.bit _ (by decide))
          | exact .inr (fun _ _ => rfl)
          | with_reducible exact Keeps.refl _
          | with_reducible apply State.modLaneOf_keeps
          | with_reducible apply readFailed_keeps
          | split
          | with_reducible apply Keeps.upd
          | exact rfl
          | intro y
          | lift_lets }; clear_value x)
    | intro x
    | with_reducible exact Keeps.refl _
    | with_reducible apply State.modLaneOf_keeps
    | with_reducible apply readFailed_keeps
    | split
    | with_reducible apply Keeps.upd
    | exact rfl
    | lift_lets

theorem appendOne_keeps {w : Nat} {P : PlotId → Bool} {s0 s : State} (q : PlotId) (i : BitVec 16) (e : IndexEntry) (b : List Byte) (hK : Keeps w P s0 s) (hw : Covers w 204162608 := by exact Covers.of (by assumption) (by decide)) (hP : P q = true := by first | assumption | exact ‹∀ q, P q = true› _) :
    Keeps w P s0 (appendOne s q i e b) := by
  unfold appendOne
  repeat' first
    | with_reducible assumption
    | with_reducible exact Covers.of hw (by decide)
    | with_reducible apply Same.mk
    | with_reducible exact .inr rfl
    | exact .inl (hw.bit _ (by decide))
    | exact .inr (fun _ _ => rfl)
    | (intro x; have hx : Keeps w P s0 x := by { dsimp only [x]; repeat' first
          | with_reducible assumption
          | with_reducible exact Covers.of hw (by decide)
          | with_reducible apply Same.mk
          | with_reducible exact .inr rfl
          | exact .inl (hw.bit _ (by decide))
          | exact .inr (fun _ _ => rfl)
          | with_reducible exact Keeps.refl _
          | with_reducible apply State.raisePlot_keeps
          | with_reducible apply chargeFault_keeps
          | with_reducible apply State.modFln_keeps
          | with_reducible apply State.modIdx_keeps
          | with_reducible apply State.modFlnCnt_keeps
          | with_reducible apply State.pokeHome_keeps
          | split
          | with_reducible apply Keeps.upd
          | exact rfl
          | intro y
          | lift_lets }; clear_value x)
    | intro x
    | with_reducible exact Keeps.refl _
    | with_reducible apply State.raisePlot_keeps
    | with_reducible apply chargeFault_keeps
    | with_reducible apply State.modFln_keeps
    | with_reducible apply State.modIdx_keeps
    | with_reducible apply State.modFlnCnt_keeps
    | with_reducible apply State.pokeHome_keeps
    | split
    | with_reducible apply Keeps.upd
    | exact rfl
    | lift_lets

theorem appendSide_keeps {w : Nat} {P : PlotId → Bool} {s0 s : State} (q : PlotId) (i : BitVec 16) (ix : Fin 16) (a n : Nat) (hK : Keeps w P s0 s) (hw : Covers w 204162608 := by exact Covers.of (by assumption) (by decide)) (hP : P q = true := by first | assumption | exact ‹∀ q, P q = true› _) :
    Keeps w P s0 (appendSide s q i ix a n) := by
  unfold appendSide
  repeat' first
    | with_reducible assumption
    | with_reducible exact Covers.of hw (by decide)
    | (intro x; have hx : Keeps w P s0 x := by { dsimp only [x]; repeat' first
          | with_reducible assumption
          | with_reducible exact Covers.of hw (by decide)
          | with_reducible exact Keeps.refl _
          | with_reducible apply chargeFault_keeps
          | with_reducible apply withReads_keeps
          | with_reducible apply appendOne_keeps
          | with_reducible apply Keeps.foldl
          | split
          | intro y
          | lift_lets }; clear_value x)
    | intro x
    | with_reducible exact Keeps.refl _
    | with_reducible apply chargeFault_keeps
    | with_reducible apply withReads_keeps
    | with_reducible apply appendOne_keeps
    | with_reducible apply Keeps.foldl
    | split
    | lift_lets

theorem programPage_keeps {w : Nat} {P : PlotId → Bool} {s0 s : State} (q : PlotId) (i : BitVec 16) (ix : Nat) (a : FlashPlace) (data : List Byte) (hK : Keeps w P s0 s) (hw : Covers w 134234112 := by exact Covers.of (by assumption) (by decide)) :
    Keeps w P s0 (programPage s q i ix a data) := by
  unfold programPage
  repeat' first
    | with_reducible assumption
    | with_reducible exact Covers.of hw (by decide)
    | with_reducible apply Same.mk
    | with_reducible exact .inr rfl
    | exact .inl (hw.bit _ (by decide))
    | exact .inr (fun _ _ => rfl)
    | (intro x; have hx : Keeps w P s0 x := by { dsimp only [x]; repeat' first
          | with_reducible assumption
          | with_reducible exact Covers.of hw (by decide)
          | with_reducible apply Same.mk
          | with_reducible exact .inr rfl
          | exact .inl (hw.bit _ (by decide))
          | exact .inr (fun _ _ => rfl)
          | with_reducible exact Keeps.refl _
          | with_reducible apply State.modLaneOf_keeps
          | with_reducible apply issueLane_keeps
          | split
          | with_reducible apply Keeps.upd
          | exact rfl
          | intro y
          | lift_lets }; clear_value x)
    | intro x
    | with_reducible exact Keeps.refl _
    | with_reducible apply State.modLaneOf_keeps
    | with_reducible apply issueLane_keeps
    | split
    | with_reducible apply Keeps.upd
    | exact rfl
    | lift_lets

theorem writeSector_keeps {w : Nat} {P : PlotId → Bool} {s0 s u : State} (q : PlotId) (i : BitVec 16) (en : IndexEntry) (sector : Nat)
    (data : List Byte) (e : writeSector s q i en sector data = some u) (h : Keeps w P s0 s) (hw : Covers w 137053744 := by exact Covers.of (by assumption) (by decide))
    (hP : P q = true := by first | assumption | exact ‹∀ q, P q = true› _) : Keeps w P s0 u := by
  unfold writeSector at e
  dsimp only at e
  split at e
  · cases e; exact chargeFault_keeps _ _ _ _ h
  · split at e
    · cases e; exact chargeFault_keeps _ _ _ _ h
    · split at e
      · cases e
      · cases e
        split
        · exact programPage_keeps _ _ _ _ _ (State.modIdx_keeps _ _ _ (State.modJob_keeps _ _ _ h))
        · exact State.modIdx_keeps _ _ _ (State.modJob_keeps _ _ _ h)

theorem writeSectors_keeps {w : Nat} {P : PlotId → Bool} {s0 s : State} (q : PlotId) (i : BitVec 16) (x : IndexEntry)
    (l : List (Nat × List Byte)) (h : Keeps w P s0 s) (hw : Covers w 137053744 := by exact Covers.of (by assumption) (by decide))
    (hP : P q = true := by first | assumption | exact ‹∀ q, P q = true› _) : Keeps w P s0 (writeSectors q i x l s).1 := by
  induction l generalizing s with
  | nil => exact h
  | cons y l ih =>
    obtain ⟨sector, data⟩ := y
    unfold writeSectors
    split
    · exact h
    · rename_i e
      split
      · exact ih (writeSector_keeps _ _ _ _ _ e h)
      · exact writeSector_keeps _ _ _ _ _ e h

theorem flushPage_keeps {w : Nat} {P : PlotId → Bool} {s0 s : State} (q : PlotId) (i : BitVec 16) (e : IndexEntry) (hK : Keeps w P s0 s) (hw : Covers w 134234112 := by exact Covers.of (by assumption) (by decide)) (hP : P q = true := by first | assumption | exact ‹∀ q, P q = true› _) :
    Keeps w P s0 (flushPage s q i e) := by
  unfold flushPage
  repeat' first
    | with_reducible assumption
    | with_reducible exact Covers.of hw (by decide)
    | with_reducible apply Same.mk
    | with_reducible exact .inr rfl
    | exact .inl (hw.bit _ (by decide))
    | exact .inr (fun _ _ => rfl)
    | (intro x; have hx : Keeps w P s0 x := by { dsimp only [x]; repeat' first
          | with_reducible assumption
          | with_reducible exact Covers.of hw (by decide)
          | with_reducible apply Same.mk
          | with_reducible exact .inr rfl
          | exact .inl (hw.bit _ (by decide))
          | exact .inr (fun _ _ => rfl)
          | with_reducible exact Keeps.refl _
          | with_reducible apply State.modIdx_keeps
          | with_reducible apply programPage_keeps
          | split
          | with_reducible apply Keeps.upd
          | exact rfl
          | intro y
          | lift_lets }; clear_value x)
    | intro x
    | with_reducible exact Keeps.refl _
    | with_reducible apply State.modIdx_keeps
    | with_reducible apply programPage_keeps
    | split
    | with_reducible apply Keeps.upd
    | exact rfl
    | lift_lets

theorem takeGeneration_keeps {w : Nat} {P : PlotId → Bool} {s0 s : State} (q : PlotId) (i : BitVec 16) (ix : Fin 16) (merge : Bool) (hK : Keeps w P s0 s) (hP : P q = true := by first | assumption | exact ‹∀ q, P q = true› _) :
    Keeps w P s0 (takeGeneration s q i ix merge) := by
  unfold takeGeneration
  repeat' first
    | with_reducible assumption
    | with_reducible apply Same.mk
    | with_reducible exact .inr rfl
    | exact .inr (fun _ _ => rfl)
    | (intro x; have hx : Keeps w P s0 x := by { dsimp only [x]; repeat' first
          | with_reducible assumption
          | with_reducible apply Same.mk
          | with_reducible exact .inr rfl
          | exact .inr (fun _ _ => rfl)
          | with_reducible exact Keeps.refl _
          | with_reducible apply State.modIdx_keeps
          | split
          | with_reducible apply Keeps.upd
          | exact rfl
          | intro y
          | lift_lets }; clear_value x)
    | intro x
    | with_reducible exact Keeps.refl _
    | with_reducible apply State.modIdx_keeps
    | split
    | with_reducible apply Keeps.upd
    | exact rfl
    | lift_lets

theorem genCall_keeps {w : Nat} {P : PlotId → Bool} {s0 s : State} (q : PlotId) (i : BitVec 16) (ix : Fin 16) (merge : Bool) (sector a n : Nat) (flush : Bool) (hK : Keeps w P s0 s) (hw : Covers w 137053744 := by exact Covers.of (by assumption) (by decide)) (hP : P q = true := by first | assumption | exact ‹∀ q, P q = true› _) :
    Keeps w P s0 (genCall s q i ix merge sector a n flush) := by
  unfold genCall
  repeat' first
    | with_reducible assumption
    | with_reducible exact Covers.of hw (by decide)
    | with_reducible apply Same.mk
    | with_reducible exact .inr rfl
    | exact .inl (hw.bit _ (by decide))
    | exact .inr (fun _ _ => rfl)
    | (intro x; have hx : Keeps w P s0 x := by { dsimp only [x]; repeat' first
          | with_reducible assumption
          | with_reducible exact Covers.of hw (by decide)
          | with_reducible apply Same.mk
          | with_reducible exact .inr rfl
          | exact .inl (hw.bit _ (by decide))
          | exact .inr (fun _ _ => rfl)
          | with_reducible exact Keeps.refl _
          | with_reducible apply State.modJob_keeps
          | with_reducible apply chargeFault_keeps
          | with_reducible apply withReads_keeps
          | with_reducible apply writeSectors_keeps
          | with_reducible apply flushPage_keeps
          | with_reducible apply takeGeneration_keeps
          | refine Keeps.of_fst (by assumption) ?_
          | split
          | with_reducible apply Keeps.upd
          | exact rfl
          | intro y
          | lift_lets }; clear_value x)
    | intro x
    | with_reducible exact Keeps.refl _
    | with_reducible apply State.modJob_keeps
    | with_reducible apply chargeFault_keeps
    | with_reducible apply withReads_keeps
    | with_reducible apply writeSectors_keeps
    | with_reducible apply flushPage_keeps
    | with_reducible apply takeGeneration_keeps
    | refine Keeps.of_fst (by assumption) ?_
    | split
    | with_reducible apply Keeps.upd
    | exact rfl
    | lift_lets

theorem opComplete_keeps {w : Nat} {P : PlotId → Bool} {s0 s : State} (l : LaneId) (ce lun : Nat) (fail : Bool) (hK : Keeps w P s0 s) (hw : Covers w 137053744 := by exact Covers.of (by assumption) (by decide)) (hP : ∀ q, P q = true := by assumption) :
    Keeps w P s0 (opComplete s l ce lun fail) := by
  unfold opComplete
  repeat' first
    | with_reducible assumption
    | with_reducible exact Covers.of hw (by decide)
    | with_reducible exact .inl hP
    | with_reducible exact hP _
    | with_reducible apply Same.mk
    | with_reducible exact .inr rfl
    | exact .inl (hw.bit _ (by decide))
    | exact .inr (fun _ _ => rfl)
    | (intro x; have hx : Keeps w P s0 x := by { dsimp only [x]; repeat' first
          | with_reducible assumption
          | with_reducible exact Covers.of hw (by decide)
          | with_reducible exact .inl hP
          | with_reducible exact hP _
          | with_reducible apply Same.mk
          | with_reducible exact .inr rfl
          | exact .inl (hw.bit _ (by decide))
          | exact .inr (fun _ _ => rfl)
          | with_reducible exact Keeps.refl _
          | with_reducible apply State.modLaneOf_keeps
          | with_reducible apply issueLane_keeps
          | with_reducible apply markSuspect_keeps
          | split
          | with_reducible apply Keeps.upd
          | exact rfl
          | intro y
          | lift_lets }; clear_value x)
    | intro x
    | with_reducible exact Keeps.refl _
    | with_reducible apply State.modLaneOf_keeps
    | with_reducible apply issueLane_keeps
    | with_reducible apply markSuspect_keeps
    | split
    | with_reducible apply Keeps.upd
    | exact rfl
    | lift_lets

theorem opTimeout_keeps {w : Nat} {P : PlotId → Bool} {s0 s : State} (l : LaneId) (ce lun : Nat) (hK : Keeps w P s0 s) (hw : Covers w 137053744 := by exact Covers.of (by assumption) (by decide)) (hP : ∀ q, P q = true := by assumption) :
    Keeps w P s0 (opTimeout s l ce lun) := by
  unfold opTimeout
  repeat' first
    | with_reducible assumption
    | with_reducible exact Covers.of hw (by decide)
    | with_reducible exact .inl hP
    | with_reducible exact hP _
    | with_reducible apply Same.mk
    | with_reducible exact .inr rfl
    | exact .inl (hw.bit _ (by decide))
    | exact .inr (fun _ _ => rfl)
    | intro x
    | with_reducible exact Keeps.refl _
    | with_reducible apply State.emit_keeps
    | with_reducible apply State.modLaneOf_keeps
    | with_reducible apply markSuspect_keeps
    | split
    | with_reducible apply Keeps.upd
    | exact rfl

theorem publishFlash_keeps {w : Nat} {P : PlotId → Bool} {s0 s : State} (q : PlotId) (i : BitVec 16) (hK : Keeps w P s0 s) (hw : Covers w 67109376 := by exact Covers.of (by assumption) (by decide)) (hP : P q = true := by first | assumption | exact ‹∀ q, P q = true› _) :
    Keeps w P s0 (publishFlash s q i) := by
  unfold publishFlash
  repeat' first
    | with_reducible assumption
    | with_reducible exact Covers.of hw (by decide)
    | with_reducible apply Same.mk
    | with_reducible exact .inr rfl
    | exact .inl (hw.bit _ (by decide))
    | exact .inr (fun _ _ => rfl)
    | (intro x; have hx : Keeps w P s0 x := by { dsimp only [x]; repeat' first
          | with_reducible assumption
          | with_reducible exact Covers.of hw (by decide)
          | with_reducible apply Same.mk
          | with_reducible exact .inr rfl
          | exact .inl (hw.bit _ (by decide))
          | exact .inr (fun _ _ => rfl)
          | with_reducible exact Keeps.refl _
          | with_reducible apply State.modIdx_keeps
          | with_reducible apply State.modFlnCnt_keeps
          | with_reducible apply State.pokeHome_keeps
          | with_reducible apply Keeps.foldl
          | split
          | with_reducible apply Keeps.upd
          | exact rfl
          | intro y
          | lift_lets }; clear_value x)
    | intro x
    | with_reducible exact Keeps.refl _
    | with_reducible apply State.modIdx_keeps
    | with_reducible apply State.modFlnCnt_keeps
    | with_reducible apply State.pokeHome_keeps
    | with_reducible apply Keeps.foldl
    | split
    | with_reducible apply Keeps.upd
    | exact rfl
    | lift_lets

theorem latchFlash_keeps {w : Nat} {P : PlotId → Bool} {s0 s : State} (q : PlotId) (hK : Keeps w P s0 s) (hP : P q = true := by first | assumption | exact ‹∀ q, P q = true› _) :
    Keeps w P s0 (latchFlash s q) := by
  unfold latchFlash
  repeat' first
    | with_reducible assumption
    | with_reducible apply Same.mk
    | with_reducible exact .inr rfl
    | exact .inr (fun _ _ => rfl)
    | (intro x; have hx : Keeps w P s0 x := by { dsimp only [x]; repeat' first
          | with_reducible assumption
          | with_reducible apply Same.mk
          | with_reducible exact .inr rfl
          | exact .inr (fun _ _ => rfl)
          | with_reducible exact Keeps.refl _
          | with_reducible apply State.modFln_keeps
          | with_reducible apply Keeps.upd
          | exact rfl
          | intro y
          | lift_lets }; clear_value x)
    | intro x
    | with_reducible exact Keeps.refl _
    | with_reducible apply State.modFln_keeps
    | with_reducible apply Keeps.upd
    | exact rfl
    | lift_lets

theorem setupLun_keeps {w : Nat} {P : PlotId → Bool} {s0 s : State} (l : LaneId) (ce lun : Nat) (hK : Keeps w P s0 s) (hw : Covers w 134217728 := by exact Covers.of (by assumption) (by decide)) :
    Keeps w P s0 (setupLun s l ce lun) := by
  unfold setupLun
  repeat' first
    | with_reducible assumption
    | with_reducible exact Covers.of hw (by decide)
    | (intro x; have hx : Keeps w P s0 x := by { dsimp only [x]; repeat' first
          | with_reducible assumption
          | with_reducible exact Covers.of hw (by decide)
          | with_reducible exact Keeps.refl _
          | with_reducible apply State.emit_keeps
          | intro y
          | lift_lets }; clear_value x)
    | intro x
    | with_reducible exact Keeps.refl _
    | with_reducible apply State.emit_keeps
    | lift_lets

theorem initLanes_keeps {w : Nat} {P : PlotId → Bool} {s0 s : State} (hK : Keeps w P s0 s) (hw : Covers w 134234112 := by exact Covers.of (by assumption) (by decide)) :
    Keeps w P s0 (initLanes s) := by
  unfold initLanes
  repeat' first
    | with_reducible assumption
    | with_reducible exact Covers.of hw (by decide)
    | with_reducible apply Same.mk
    | with_reducible exact .inr rfl
    | exact .inl (hw.bit _ (by decide))
    | exact .inr (fun _ _ => rfl)
    | (intro x; have hx : Keeps w P s0 x := by { dsimp only [x]; repeat' first
          | with_reducible assumption
          | with_reducible exact Covers.of hw (by decide)
          | with_reducible apply Same.mk
          | with_reducible exact .inr rfl
          | exact .inl (hw.bit _ (by decide))
          | exact .inr (fun _ _ => rfl)
          | with_reducible exact Keeps.refl _
          | with_reducible apply State.modLaneOf_keeps
          | with_reducible apply setupLun_keeps
          | with_reducible apply Keeps.foldl
          | split
          | with_reducible apply Keeps.upd
          | exact rfl
          | intro y
          | lift_lets }; clear_value x)
    | intro x
    | with_reducible exact Keeps.refl _
    | with_reducible apply State.modLaneOf_keeps
    | with_reducible apply setupLun_keeps
    | with_reducible apply Keeps.foldl
    | split
    | with_reducible apply Keeps.upd
    | exact rfl
    | lift_lets

theorem laneReady_keeps {w : Nat} {P : PlotId → Bool} {s0 s : State} (l : LaneId) (hK : Keeps w P s0 s) (hw : Covers w 134234112 := by exact Covers.of (by assumption) (by decide)) (hP : ∀ q, P q = true := by assumption) :
    Keeps w P s0 (laneReady s l) := by
  unfold laneReady
  repeat' first
    | with_reducible assumption
    | with_reducible exact Covers.of hw (by decide)
    | with_reducible exact .inl hP
    | with_reducible exact hP _
    | with_reducible apply Same.mk
    | with_reducible exact .inr rfl
    | exact .inl (hw.bit _ (by decide))
    | exact .inr (fun _ _ => rfl)
    | (intro x; have hx : Keeps w P s0 x := by { dsimp only [x]; repeat' first
          | with_reducible assumption
          | with_reducible exact Covers.of hw (by decide)
          | with_reducible exact .inl hP
          | with_reducible exact hP _
          | with_reducible apply Same.mk
          | with_reducible exact .inr rfl
          | exact .inl (hw.bit _ (by decide))
          | exact .inr (fun _ _ => rfl)
          | with_reducible exact Keeps.refl _
          | with_reducible apply State.modLaneOf_keeps
          | with_reducible apply issueLane_keeps
          | with_reducible apply startPageIns_keeps
          | with_reducible apply Keeps.eachPlot
          | split
          | with_reducible apply Keeps.upd
          | exact rfl
          | intro y
          | lift_lets }; clear_value x)
    | intro x
    | with_reducible exact Keeps.refl _
    | with_reducible apply State.modLaneOf_keeps
    | with_reducible apply issueLane_keeps
    | with_reducible apply startPageIns_keeps
    | with_reducible apply Keeps.eachPlot
    | split
    | with_reducible apply Keeps.upd
    | exact rfl
    | lift_lets

theorem lunInitFailed_keeps {w : Nat} {P : PlotId → Bool} {s0 s : State} (l : LaneId) (ce lun : Nat) (hK : Keeps w P s0 s) (hw : Covers w 137053744 := by exact Covers.of (by assumption) (by decide)) (hP : ∀ q, P q = true := by assumption) :
    Keeps w P s0 (lunInitFailed s l ce lun) := by
  unfold lunInitFailed
  repeat' first
    | with_reducible assumption
    | with_reducible exact Covers.of hw (by decide)
    | with_reducible exact .inl hP
    | with_reducible exact hP _
    | with_reducible apply Same.mk
    | with_reducible exact .inr rfl
    | exact .inl (hw.bit _ (by decide))
    | exact .inr (fun _ _ => rfl)
    | intro x
    | with_reducible exact Keeps.refl _
    | with_reducible apply State.modLaneOf_keeps
    | with_reducible apply markSuspect_keeps
    | split
    | with_reducible apply Keeps.upd
    | exact rfl

theorem lunClear_keeps {w : Nat} {P : PlotId → Bool} {s0 s : State} (l : LaneId) (ce lun : Nat) (hK : Keeps w P s0 s) (hw : Covers w 134234112 := by exact Covers.of (by assumption) (by decide)) :
    Keeps w P s0 (lunClear s l ce lun) := by
  unfold lunClear
  repeat' first
    | with_reducible assumption
    | with_reducible exact Covers.of hw (by decide)
    | with_reducible apply Same.mk
    | with_reducible exact .inr rfl
    | exact .inl (hw.bit _ (by decide))
    | exact .inr (fun _ _ => rfl)
    | intro x
    | with_reducible exact Keeps.refl _
    | with_reducible apply State.modLaneOf_keeps
    | with_reducible apply setupLun_keeps
    | split
    | with_reducible apply Keeps.upd
    | exact rfl

theorem lunCleared_keeps {w : Nat} {P : PlotId → Bool} {s0 s : State} (l : LaneId) (ce lun : Nat) (hK : Keeps w P s0 s) (hw : Covers w 134234112 := by exact Covers.of (by assumption) (by decide)) :
    Keeps w P s0 (lunCleared s l ce lun) := by
  unfold lunCleared
  repeat' first
    | with_reducible assumption
    | with_reducible exact Covers.of hw (by decide)
    | with_reducible apply Same.mk
    | with_reducible exact .inr rfl
    | exact .inl (hw.bit _ (by decide))
    | exact .inr (fun _ _ => rfl)
    | intro x
    | with_reducible exact Keeps.refl _
    | with_reducible apply State.modLaneOf_keeps
    | with_reducible apply issueLane_keeps
    | split
    | with_reducible apply Keeps.upd
    | exact rfl

theorem resetIndex_keeps {w : Nat} {P : PlotId → Bool} {s0 s : State} (q : PlotId) (ix : Fin 16) (hK : Keeps w P s0 s) (hP : P q = true := by first | assumption | exact ‹∀ q, P q = true› _) :
    Keeps w P s0 (resetIndex s q ix) := by
  unfold resetIndex
  repeat' first
    | with_reducible assumption
    | intro x
    | with_reducible exact Keeps.refl _
    | with_reducible apply State.modIdx_keeps

end Sys2Proof.Machine
end

