-- ==== Sys2Proof/Laws/KeepsMatrix.lean ====
section
/-!
SUPPORT. Sys2Proof/Laws/KeepsMatrix.lean: the operations over matrix engines, quantise/convert engines and register sets keep what Keeps says.
-/
namespace Sys2Proof.Machine

set_option Elab.async false
set_option linter.all false

/-! ### Sys2Proof/Machine/Matrix.lean -/

theorem State.modEngine_keeps {w : Nat} {P : PlotId → Bool} {s0 s : State} (m : MxeId) (f : MxeEngine → MxeEngine) (hK : Keeps w P s0 s) (hw : Covers w 65536 := by exact Covers.of (by assumption) (by decide)) :
    Keeps w P s0 (State.modEngine s m f) := by
  unfold State.modEngine
  repeat' first
    | with_reducible assumption
    | with_reducible exact Covers.of hw (by decide)
    | with_reducible apply Same.mk
    | with_reducible exact .inr rfl
    | exact .inl (hw.bit _ (by decide))
    | exact .inr (fun _ _ => rfl)
    | intro x
    | with_reducible exact Keeps.refl _
    | with_reducible apply Keeps.upd
    | exact rfl

theorem rangeEvent_keeps {w : Nat} {P : PlotId → Bool} {s0 s : State} (q : PlotId) (i : BitVec 16) (m : MxeId) (hK : Keeps w P s0 s) (hw : Covers w 137053744 := by exact Covers.of (by assumption) (by decide)) (hP : P q = true := by first | assumption | exact ‹∀ q, P q = true› _) :
    Keeps w P s0 (rangeEvent s q i m) := by
  unfold rangeEvent
  repeat' first
    | with_reducible assumption
    | with_reducible exact Covers.of hw (by decide)
    | with_reducible apply Same.mk
    | with_reducible exact .inr rfl
    | exact .inl (hw.bit _ (by decide))
    | exact .inr (fun _ _ => rfl)
    | intro x
    | with_reducible exact Keeps.refl _
    | with_reducible apply State.modMxeCnt_keeps
    | with_reducible apply chargeFault_keeps
    | with_reducible apply Keeps.upd
    | exact rfl

theorem startSearch_keeps {w : Nat} {P : PlotId → Bool} {s0 s : State} (q : PlotId) (j : Job) (m : MxeId) (o : MxeOp) (x : SearchOp) (hK : Keeps w P s0 s) (hw : Covers w 137053744 := by exact Covers.of (by assumption) (by decide)) (hP : P q = true := by first | assumption | exact ‹∀ q, P q = true› _) :
    Keeps w P s0 (startSearch s q j m o x) := by
  unfold startSearch
  repeat' first
    | with_reducible assumption
    | with_reducible exact Covers.of hw (by decide)
    | with_reducible apply Same.mk
    | with_reducible exact .inr rfl
    | exact .inl (hw.bit _ (by decide))
    | exact .inr (fun _ _ => rfl)
    | (intro x; have hx : Keeps w P s0 x := by { dsimp only [x]; repeat' first
          | with_reducible assumption
          | with_reducible exact Covers.of hw (by decide)
          | with_reducible apply Same.mk
          | with_reducible exact .inr rfl
          | exact .inl (hw.bit _ (by decide))
          | exact .inr (fun _ _ => rfl)
          | with_reducible exact Keeps.refl _
          | with_reducible apply chargeFault_keeps
          | with_reducible apply withReads_keeps
          | with_reducible apply State.modEngine_keeps
          | split
          | with_reducible apply Keeps.upd
          | exact rfl
          | intro y
          | lift_lets }; clear_value x)
    | intro x
    | with_reducible exact Keeps.refl _
    | with_reducible apply chargeFault_keeps
    | with_reducible apply withReads_keeps
    | with_reducible apply State.modEngine_keeps
    | split
    | with_reducible apply Keeps.upd
    | exact rfl
    | lift_lets

theorem startOperation_keeps {w : Nat} {P : PlotId → Bool} {s0 s : State} (q : PlotId) (i : BitVec 16) (m : MxeId) (o : MxeOp) (hK : Keeps w P s0 s) (hw : Covers w 137053744 := by exact Covers.of (by assumption) (by decide)) (hP : P q = true := by first | assumption | exact ‹∀ q, P q = true› _) :
    Keeps w P s0 (startOperation s q i m o) := by
  unfold startOperation
  repeat' first
    | with_reducible assumption
    | with_reducible exact Covers.of hw (by decide)
    | with_reducible apply Same.mk
    | with_reducible exact .inr rfl
    | exact .inl (hw.bit _ (by decide))
    | exact .inr (fun _ _ => rfl)
    | (intro x; have hx : Keeps w P s0 x := by { dsimp only [x]; repeat' first
          | with_reducible assumption
          | with_reducible exact Covers.of hw (by decide)
          | with_reducible apply Same.mk
          | with_reducible exact .inr rfl
          | exact .inl (hw.bit _ (by decide))
          | exact .inr (fun _ _ => rfl)
          | with_reducible exact Keeps.refl _
          | with_reducible apply chargeFault_keeps
          | with_reducible apply withReads_keeps
          | with_reducible apply State.modEngine_keeps
          | with_reducible apply startSearch_keeps
          | split
          | with_reducible apply Keeps.upd
          | exact rfl
          | intro y
          | lift_lets }; clear_value x)
    | intro x
    | with_reducible exact Keeps.refl _
    | with_reducible apply chargeFault_keeps
    | with_reducible apply withReads_keeps
    | with_reducible apply State.modEngine_keeps
    | with_reducible apply startSearch_keeps
    | split
    | with_reducible apply Keeps.upd
    | exact rfl
    | lift_lets

theorem countStall_keeps {w : Nat} {P : PlotId → Bool} {s0 s : State} (q : PlotId) (m : MxeId) (stall : Nat) (hK : Keeps w P s0 s) (hw : Covers w 65536 := by exact Covers.of (by assumption) (by decide)) (hP : P q = true := by first | assumption | exact ‹∀ q, P q = true› _) :
    Keeps w P s0 (countStall s q m stall) := by
  unfold countStall
  repeat' first
    | with_reducible assumption
    | with_reducible exact Covers.of hw (by decide)
    | with_reducible apply Same.mk
    | with_reducible exact .inr rfl
    | exact .inl (hw.bit _ (by decide))
    | exact .inr (fun _ _ => rfl)
    | intro x
    | with_reducible exact Keeps.refl _
    | with_reducible apply State.modMxeCnt_keeps
    | with_reducible apply State.modEngine_keeps
    | with_reducible apply Keeps.upd
    | exact rfl

theorem finishTile_keeps {w : Nat} {P : PlotId → Bool} {s0 s : State} (m : MxeId) (j : Job) (r : MxeRun) (stall : Nat) (wt : QuantEntry) (rows : List (List Int)) (hK : Keeps w P s0 s) (hw : Covers w 204424752 := by exact Covers.of (by assumption) (by decide)) (hP : ∀ q, P q = true := by assumption) :
    Keeps w P s0 (finishTile s m j r stall wt rows) := by
  unfold finishTile
  repeat' first
    | with_reducible assumption
    | with_reducible exact Covers.of hw (by decide)
    | with_reducible exact .inl hP
    | with_reducible exact hP _
    | with_reducible apply Same.mk
    | with_reducible exact .inr rfl
    | exact .inl (hw.bit _ (by decide))
    | exact .inr (fun _ _ => rfl)
    | (intro x; have hx : Keeps w P s0 x := by { dsimp only [x]; repeat' first
          | with_reducible assumption
          | with_reducible exact Covers.of hw (by decide)
          | with_reducible exact .inl hP
          | with_reducible exact hP _
          | with_reducible apply Same.mk
          | with_reducible exact .inr rfl
          | exact .inl (hw.bit _ (by decide))
          | exact .inr (fun _ _ => rfl)
          | with_reducible exact Keeps.refl _
          | with_reducible apply State.emit_keeps
          | with_reducible apply State.modMxeCnt_keeps
          | with_reducible apply countMacs_keeps
          | with_reducible apply chargeFault_keeps
          | with_reducible apply withWrites_keeps
          | with_reducible apply State.modEngine_keeps
          | with_reducible apply rangeEvent_keeps
          | with_reducible apply countStall_keeps
          | split
          | with_reducible apply Keeps.upd
          | exact rfl
          | intro y
          | lift_lets }; clear_value x)
    | intro x
    | with_reducible exact Keeps.refl _
    | with_reducible apply State.emit_keeps
    | with_reducible apply State.modMxeCnt_keeps
    | with_reducible apply countMacs_keeps
    | with_reducible apply chargeFault_keeps
    | with_reducible apply withWrites_keeps
    | with_reducible apply State.modEngine_keeps
    | with_reducible apply rangeEvent_keeps
    | with_reducible apply countStall_keeps
    | split
    | with_reducible apply Keeps.upd
    | exact rfl
    | lift_lets

theorem searchDone_keeps {w : Nat} {P : PlotId → Bool} {s0 s : State} (m : MxeId) (r : MxeRun) (stall macs out : Nat) (bs : List Byte) (j : Job) (hK : Keeps w P s0 s) (hw : Covers w 204424752 := by exact Covers.of (by assumption) (by decide)) (hP : ∀ q, P q = true := by assumption) :
    Keeps w P s0 (searchDone s m r stall macs out bs j) := by
  unfold searchDone
  repeat' first
    | with_reducible assumption
    | with_reducible exact Covers.of hw (by decide)
    | with_reducible exact .inl hP
    | with_reducible exact hP _
    | with_reducible apply Same.mk
    | with_reducible exact .inr rfl
    | exact .inl (hw.bit _ (by decide))
    | exact .inr (fun _ _ => rfl)
    | intro x
    | with_reducible exact Keeps.refl _
    | with_reducible apply countMacs_keeps
    | with_reducible apply withWrites_keeps
    | with_reducible apply State.modEngine_keeps
    | with_reducible apply countStall_keeps
    | with_reducible apply Keeps.upd
    | exact rfl

theorem rerankRows_keeps {w : Nat} {P : PlotId → Bool} {s0 s : State} (q : PlotId) (i : BitVec 16) (m : MxeId)
    (t : Backing × QuantEntry × QuantEntry) (rowBytes row : Nat) (inner : Bool) (pl : Int) (l : List Nat) (h : Keeps w P s0 s)
    (hw : Covers w 137053744 := by exact Covers.of (by assumption) (by decide))
    (hP : P q = true := by first | assumption | exact ‹∀ q, P q = true› _) :
    Keeps w P s0 (rerankRows q i m t rowBytes row inner pl l s) := by
  induction l generalizing s with
  | nil => exact h
  | cons n ns ih =>
    unfold rerankRows
    split
    · split
      · exact h
      · dsimp only
        split
        · exact chargeFault_keeps _ _ _ _ h
        · apply ih
          refine withReads_keeps _ _ _ _ h (fun u hu => ?_)
          split
          · exact rangeEvent_keeps _ _ _ hu
          · exact State.modEngine_keeps _ _ hu
    · exact h

theorem searchStep_keeps {w : Nat} {P : PlotId → Bool} {s0 s : State} (m : MxeId) (stall : Nat) (r : MxeRun) (j : Job) (x : SearchOp) (hK : Keeps w P s0 s) (hw : Covers w 204424752 := by exact Covers.of (by assumption) (by decide)) (hP : ∀ q, P q = true := by assumption) :
    Keeps w P s0 (searchStep s m stall r j x) := by
  unfold searchStep
  repeat' first
    | with_reducible assumption
    | with_reducible exact Covers.of hw (by decide)
    | with_reducible exact .inl hP
    | with_reducible exact hP _
    | (intro x; have hx : Keeps w P s0 x := by { dsimp only [x]; repeat' first
          | with_reducible assumption
          | with_reducible exact Covers.of hw (by decide)
          | with_reducible exact .inl hP
          | with_reducible exact hP _
          | with_reducible exact Keeps.refl _
          | with_reducible apply withReads_keeps
          | with_reducible apply rangeEvent_keeps
          | with_reducible apply searchDone_keeps
          | with_reducible apply rerankRows_keeps
          | split
          | intro y
          | lift_lets }; clear_value x)
    | intro x
    | with_reducible exact Keeps.refl _
    | with_reducible apply withReads_keeps
    | with_reducible apply rangeEvent_keeps
    | with_reducible apply searchDone_keeps
    | with_reducible apply rerankRows_keeps
    | split
    | lift_lets

theorem swapTile_keeps {w : Nat} {P : PlotId → Bool} {s0 s : State} (m : MxeId) (stall : Nat) (r : MxeRun) (j : Job)
    (h : Keeps w P s0 s) (hw : Covers w 204424752 := by exact Covers.of (by assumption) (by decide)) (hP : ∀ q, P q = true := by assumption) : Keeps w P s0 (swapTile s m stall r j) := by
  unfold swapTile
  dsimp only
  split
  · exact h
  · split
    · exact h
    · refine withReads_keeps _ _ _ _ (State.modEngine_keeps _ _ h) (fun t ht => ?_)
      split
      · exact rangeEvent_keeps _ _ _ (State.modEngine_keeps _ _ ht)
      · exact finishTile_keeps _ _ _ _ _ _ ht

theorem bankSwap_keeps {w : Nat} {P : PlotId → Bool} {s0 s : State} (m : MxeId) (stall : Nat)
    (h : Keeps w P s0 s) (hw : Covers w 204424752 := by exact Covers.of (by assumption) (by decide)) (hP : ∀ q, P q = true := by assumption) : Keeps w P s0 (bankSwap s m stall) := by
  unfold bankSwap
  split
  · exact h
  · split
    · exact h
    · split
      · exact searchStep_keeps _ _ _ _ _ h
      · exact swapTile_keeps _ _ _ _ h

theorem receivePartial_keeps {w : Nat} {P : PlotId → Bool} {s0 s : State} (m : MxeId) (hK : Keeps w P s0 s) (hw : Covers w 137053744 := by exact Covers.of (by assumption) (by decide)) (hP : ∀ q, P q = true := by assumption) :
    Keeps w P s0 (receivePartial s m) := by
  unfold receivePartial
  repeat' first
    | with_reducible assumption
    | with_reducible exact Covers.of hw (by decide)
    | with_reducible exact .inl hP
    | with_reducible exact hP _
    | with_reducible apply Same.mk
    | with_reducible exact .inr rfl
    | exact .inl (hw.bit _ (by decide))
    | exact .inr (fun _ _ => rfl)
    | (intro x; have hx : Keeps w P s0 x := by { dsimp only [x]; repeat' first
          | with_reducible assumption
          | with_reducible exact Covers.of hw (by decide)
          | with_reducible exact .inl hP
          | with_reducible exact hP _
          | with_reducible apply Same.mk
          | with_reducible exact .inr rfl
          | exact .inl (hw.bit _ (by decide))
          | exact .inr (fun _ _ => rfl)
          | with_reducible exact Keeps.refl _
          | with_reducible apply State.modEngine_keeps
          | with_reducible apply rangeEvent_keeps
          | split
          | with_reducible apply Keeps.upd
          | exact rfl
          | intro y
          | lift_lets }; clear_value x)
    | intro x
    | with_reducible exact Keeps.refl _
    | with_reducible apply State.modEngine_keeps
    | with_reducible apply rangeEvent_keeps
    | split
    | with_reducible apply Keeps.upd
    | exact rfl
    | lift_lets

theorem carryOpen_keeps {w : Nat} {P : PlotId → Bool} {s0 s : State} (q : PlotId) (i : BitVec 16) (hK : Keeps w P s0 s) (hw : Covers w 137315888 := by exact Covers.of (by assumption) (by decide)) (hP : P q = true := by first | assumption | exact ‹∀ q, P q = true› _) :
    Keeps w P s0 (carryOpen s q i) := by
  unfold carryOpen
  repeat' first
    | with_reducible assumption
    | with_reducible exact Covers.of hw (by decide)
    | with_reducible apply Same.mk
    | with_reducible exact .inr rfl
    | exact .inl (hw.bit _ (by decide))
    | exact .inr (fun _ _ => rfl)
    | (intro x; have hx : Keeps w P s0 x := by { dsimp only [x]; repeat' first
          | with_reducible assumption
          | with_reducible exact Covers.of hw (by decide)
          | with_reducible apply Same.mk
          | with_reducible exact .inr rfl
          | exact .inl (hw.bit _ (by decide))
          | exact .inr (fun _ _ => rfl)
          | with_reducible exact Keeps.refl _
          | with_reducible apply countMacs_keeps
          | with_reducible apply withReads_keeps
          | with_reducible apply State.modEngine_keeps
          | with_reducible apply rangeEvent_keeps
          | with_reducible apply Keeps.foldl
          | split
          | with_reducible apply Keeps.upd
          | exact rfl
          | intro y
          | lift_lets }; clear_value x)
    | intro x
    | with_reducible exact Keeps.refl _
    | with_reducible apply countMacs_keeps
    | with_reducible apply withReads_keeps
    | with_reducible apply State.modEngine_keeps
    | with_reducible apply rangeEvent_keeps
    | with_reducible apply Keeps.foldl
    | split
    | with_reducible apply Keeps.upd
    | exact rfl
    | lift_lets

theorem normaliseBanks_keeps {w : Nat} {P : PlotId → Bool} {s0 s : State} (hK : Keeps w P s0 s) (hw : Covers w 65536 := by exact Covers.of (by assumption) (by decide)) :
    Keeps w P s0 (normaliseBanks s) := by
  unfold normaliseBanks
  repeat' first
    | with_reducible assumption
    | with_reducible exact Covers.of hw (by decide)
    | with_reducible apply Same.mk
    | with_reducible exact .inr rfl
    | exact .inl (hw.bit _ (by decide))
    | exact .inr (fun _ _ => rfl)
    | intro x
    | with_reducible exact Keeps.refl _
    | with_reducible apply Keeps.upd
    | exact rfl

theorem helperStart_keeps {w : Nat} {P : PlotId → Bool} {s0 s : State} (h : HccId) (ready : List HelperCall) (hK : Keeps w P s0 s) (hw : Covers w 524288 := by exact Covers.of (by assumption) (by decide)) :
    Keeps w P s0 (helperStart s h ready) := by
  unfold helperStart
  repeat' first
    | with_reducible assumption
    | with_reducible exact Covers.of hw (by decide)
    | with_reducible apply Same.mk
    | with_reducible exact .inr rfl
    | exact .inl (hw.bit _ (by decide))
    | exact .inr (fun _ _ => rfl)
    | intro x
    | with_reducible exact Keeps.refl _
    | split
    | with_reducible apply Keeps.upd
    | exact rfl

theorem helperTrap_keeps {w : Nat} {P : PlotId → Bool} {s0 s : State} (h : HccId) (c : HelperCall) (hK : Keeps w P s0 s) (hw : Covers w 138102320 := by exact Covers.of (by assumption) (by decide)) (hP : ∀ q, P q = true := by assumption) :
    Keeps w P s0 (helperTrap s h c) := by
  unfold helperTrap
  repeat' first
    | with_reducible assumption
    | with_reducible exact Covers.of hw (by decide)
    | with_reducible exact .inl hP
    | with_reducible exact hP _
    | with_reducible apply Same.mk
    | with_reducible exact .inr rfl
    | exact .inl (hw.bit _ (by decide))
    | exact .inr (fun _ _ => rfl)
    | (intro x; have hx : Keeps w P s0 x := by { dsimp only [x]; repeat' first
          | with_reducible assumption
          | with_reducible exact Covers.of hw (by decide)
          | with_reducible exact .inl hP
          | with_reducible exact hP _
          | with_reducible apply Same.mk
          | with_reducible exact .inr rfl
          | exact .inl (hw.bit _ (by decide))
          | exact .inr (fun _ _ => rfl)
          | with_reducible exact Keeps.refl _
          | with_reducible apply State.modMxeCnt_keeps
          | with_reducible apply chargeFault_keeps
          | with_reducible apply Keeps.upd
          | exact rfl
          | intro y
          | lift_lets }; clear_value x)
    | intro x
    | with_reducible exact Keeps.refl _
    | with_reducible apply State.modMxeCnt_keeps
    | with_reducible apply chargeFault_keeps
    | with_reducible apply Keeps.upd
    | exact rfl
    | lift_lets

theorem helperDone_keeps {w : Nat} {P : PlotId → Bool} {s0 s : State} (h : HccId) (c : HelperCall) (j : Job) (ws : List (Nat × List Byte)) (hK : Keeps w P s0 s) (hw : Covers w 204162608 := by exact Covers.of (by assumption) (by decide)) (hP : ∀ q, P q = true := by assumption) :
    Keeps w P s0 (helperDone s h c j ws) := by
  unfold helperDone
  repeat' first
    | with_reducible assumption
    | with_reducible exact Covers.of hw (by decide)
    | with_reducible exact .inl hP
    | with_reducible exact hP _
    | with_reducible apply Same.mk
    | with_reducible exact .inr rfl
    | exact .inl (hw.bit _ (by decide))
    | exact .inr (fun _ _ => rfl)
    | intro x
    | with_reducible exact Keeps.refl _
    | with_reducible apply State.modMxeCnt_keeps
    | with_reducible apply withWrites_keeps
    | with_reducible apply Keeps.upd
    | exact rfl

theorem sramError_keeps {w : Nat} {P : PlotId → Bool} {s0 s : State} (h : HccId) (c : HelperCall) (offset : Nat) (hK : Keeps w P s0 s) (hw : Covers w 137053744 := by exact Covers.of (by assumption) (by decide)) (hP : ∀ q, P q = true := by assumption) :
    Keeps w P s0 (sramError s h c offset) := by
  unfold sramError
  repeat' first
    | with_reducible assumption
    | with_reducible exact Covers.of hw (by decide)
    | with_reducible exact .inl hP
    | with_reducible exact hP _
    | intro x
    | with_reducible exact Keeps.refl _
    | with_reducible apply chargeFault_keeps
    | with_reducible apply detectError_keeps

theorem ingestDecode_keeps {w : Nat} {P : PlotId → Bool} {s0 s : State} (h : HccId) (c : HelperCall) (j : Job) (no : Nat) (hK : Keeps w P s0 s) (hw : Covers w 742082096 := by exact Covers.of (by assumption) (by decide)) (hP : ∀ q, P q = true := by assumption) :
    Keeps w P s0 (ingestDecode s h c j no) := by
  unfold ingestDecode
  repeat' first
    | with_reducible assumption
    | with_reducible exact Covers.of hw (by decide)
    | with_reducible exact .inl hP
    | with_reducible exact hP _
    | with_reducible apply Same.mk
    | with_reducible exact .inr rfl
    | exact .inl (hw.bit _ (by decide))
    | exact .inr (fun _ _ => rfl)
    | intro x
    | with_reducible exact Keeps.refl _
    | with_reducible apply withReads_keeps
    | with_reducible apply helperTrap_keeps
    | with_reducible apply helperDone_keeps
    | split
    | with_reducible apply Keeps.upd
    | exact rfl

theorem sideMergeEnd_keeps {w : Nat} {P : PlotId → Bool} {s0 s : State} (h : HccId) (c : HelperCall) (j : Job) (ix : Fin 16) (part first old n out : Nat) (hK : Keeps w P s0 s) (hw : Covers w 205211184 := by exact Covers.of (by assumption) (by decide)) (hP : ∀ q, P q = true := by assumption) :
    Keeps w P s0 (sideMergeEnd s h c j ix part first old n out) := by
  unfold sideMergeEnd
  repeat' first
    | with_reducible assumption
    | with_reducible exact Covers.of hw (by decide)
    | with_reducible exact .inl hP
    | with_reducible exact hP _
    | (intro x; have hx : Keeps w P s0 x := by { dsimp only [x]; repeat' first
          | with_reducible assumption
          | with_reducible exact Covers.of hw (by decide)
          | with_reducible exact .inl hP
          | with_reducible exact hP _
          | with_reducible exact Keeps.refl _
          | with_reducible apply withReads_keeps
          | with_reducible apply helperTrap_keeps
          | with_reducible apply helperDone_keeps
          | split
          | intro y
          | lift_lets }; clear_value x)
    | intro x
    | with_reducible exact Keeps.refl _
    | with_reducible apply withReads_keeps
    | with_reducible apply helperTrap_keeps
    | with_reducible apply helperDone_keeps
    | split
    | lift_lets

theorem helperEnd_keeps {w : Nat} {P : PlotId → Bool} {s0 s : State} (h : HccId) (r : HelperEnd) (hK : Keeps w P s0 s) (hw : Covers w 742082096 := by exact Covers.of (by assumption) (by decide)) (hP : ∀ q, P q = true := by assumption) :
    Keeps w P s0 (helperEnd s h r) := by
  unfold helperEnd
  repeat' first
    | with_reducible assumption
    | with_reducible exact Covers.of hw (by decide)
    | with_reducible exact .inl hP
    | with_reducible exact hP _
    | with_reducible apply Same.mk
    | with_reducible exact .inr rfl
    | exact .inl (hw.bit _ (by decide))
    | exact .inr (fun _ _ => rfl)
    | intro x
    | with_reducible exact Keeps.refl _
    | with_reducible apply withReads_keeps
    | with_reducible apply helperTrap_keeps
    | with_reducible apply helperDone_keeps
    | with_reducible apply sramError_keeps
    | with_reducible apply ingestDecode_keeps
    | with_reducible apply sideMergeEnd_keeps
    | split
    | with_reducible apply Keeps.upd
    | exact rfl

/-! ### Sys2Proof/Machine/Quant.lean -/

theorem State.modQce_keeps {w : Nat} {P : PlotId → Bool} {s0 s : State} (n : QceId) (f : QceEngine → QceEngine) (hK : Keeps w P s0 s) (hw : Covers w 2097152 := by exact Covers.of (by assumption) (by decide)) :
    Keeps w P s0 (State.modQce s n f) := by
  unfold State.modQce
  repeat' first
    | with_reducible assumption
    | with_reducible exact Covers.of hw (by decide)
    | with_reducible apply Same.mk
    | with_reducible exact .inr rfl
    | exact .inl (hw.bit _ (by decide))
    | exact .inr (fun _ _ => rfl)
    | intro x
    | with_reducible exact Keeps.refl _
    | with_reducible apply Keeps.upd
    | exact rfl

theorem State.modQceCnt_keeps {w : Nat} {P : PlotId → Bool} {s0 s : State} (q : PlotId) (f : QceCnt → QceCnt) (hK : Keeps w P s0 s) (hP : P q = true := by first | assumption | exact ‹∀ q, P q = true› _) :
    Keeps w P s0 (State.modQceCnt s q f) := by
  unfold State.modQceCnt
  repeat' first
    | with_reducible assumption
    | with_reducible apply Same.mk
    | with_reducible exact .inr rfl
    | exact .inr (fun _ _ => rfl)
    | intro x
    | with_reducible exact Keeps.refl _
    | with_reducible apply State.modPlot_keeps
    | with_reducible apply Keeps.upd
    | exact rfl

theorem qceStart_keeps {w : Nat} {P : PlotId → Bool} {s0 s : State} (n : QceId) (ready : List QceCall) (hK : Keeps w P s0 s) (hw : Covers w 2097152 := by exact Covers.of (by assumption) (by decide)) :
    Keeps w P s0 (qceStart s n ready) := by
  unfold qceStart
  repeat' first
    | with_reducible assumption
    | with_reducible exact Covers.of hw (by decide)
    | with_reducible apply Same.mk
    | with_reducible exact .inr rfl
    | exact .inl (hw.bit _ (by decide))
    | exact .inr (fun _ _ => rfl)
    | intro x
    | with_reducible exact Keeps.refl _
    | with_reducible apply State.modQce_keeps
    | split
    | with_reducible apply Keeps.upd
    | exact rfl

theorem qceTrap_keeps {w : Nat} {P : PlotId → Bool} {s0 s : State} (n : QceId) (c : QceCall) (hK : Keeps w P s0 s) (hw : Covers w 145442352 := by exact Covers.of (by assumption) (by decide)) (hP : ∀ q, P q = true := by assumption) :
    Keeps w P s0 (qceTrap s n c) := by
  unfold qceTrap
  repeat' first
    | with_reducible assumption
    | with_reducible exact Covers.of hw (by decide)
    | with_reducible exact .inl hP
    | with_reducible exact hP _
    | with_reducible apply Same.mk
    | with_reducible exact .inr rfl
    | exact .inl (hw.bit _ (by decide))
    | exact .inr (fun _ _ => rfl)
    | (intro x; have hx : Keeps w P s0 x := by { dsimp only [x]; repeat' first
          | with_reducible assumption
          | with_reducible exact Covers.of hw (by decide)
          | with_reducible exact .inl hP
          | with_reducible exact hP _
          | with_reducible apply Same.mk
          | with_reducible exact .inr rfl
          | exact .inl (hw.bit _ (by decide))
          | exact .inr (fun _ _ => rfl)
          | with_reducible exact Keeps.refl _
          | with_reducible apply chargeFault_keeps
          | with_reducible apply State.modQce_keeps
          | with_reducible apply State.modQceCnt_keeps
          | with_reducible apply Keeps.upd
          | exact rfl
          | intro y
          | lift_lets }; clear_value x)
    | intro x
    | with_reducible exact Keeps.refl _
    | with_reducible apply chargeFault_keeps
    | with_reducible apply State.modQce_keeps
    | with_reducible apply State.modQceCnt_keeps
    | with_reducible apply Keeps.upd
    | exact rfl
    | lift_lets

theorem countPass_keeps {w : Nat} {P : PlotId → Bool} {s0 s : State} (n : QceId) (q : PlotId) (inB outB : Nat) (hK : Keeps w P s0 s) (hw : Covers w 6291456 := by exact Covers.of (by assumption) (by decide)) (hP : P q = true := by first | assumption | exact ‹∀ q, P q = true› _) :
    Keeps w P s0 (countPass s n q inB outB) := by
  unfold countPass
  repeat' first
    | with_reducible assumption
    | with_reducible exact Covers.of hw (by decide)
    | with_reducible apply Same.mk
    | with_reducible exact .inr rfl
    | exact .inl (hw.bit _ (by decide))
    | exact .inr (fun _ _ => rfl)
    | (intro x; have hx : Keeps w P s0 x := by { dsimp only [x]; repeat' first
          | with_reducible assumption
          | with_reducible exact Covers.of hw (by decide)
          | with_reducible apply Same.mk
          | with_reducible exact .inr rfl
          | exact .inl (hw.bit _ (by decide))
          | exact .inr (fun _ _ => rfl)
          | with_reducible exact Keeps.refl _
          | with_reducible apply State.modQce_keeps
          | with_reducible apply State.modQceCnt_keeps
          | with_reducible apply Keeps.upd
          | exact rfl
          | intro y
          | lift_lets }; clear_value x)
    | intro x
    | with_reducible exact Keeps.refl _
    | with_reducible apply State.modQce_keeps
    | with_reducible apply State.modQceCnt_keeps
    | with_reducible apply Keeps.upd
    | exact rfl
    | lift_lets

theorem qcePass1_keeps {w : Nat} {P : PlotId → Bool} {s0 s : State} (n : QceId) (hK : Keeps w P s0 s) (hw : Covers w 216745520 := by exact Covers.of (by assumption) (by decide)) (hP : ∀ q, P q = true := by assumption) :
    Keeps w P s0 (qcePass1 s n) := by
  unfold qcePass1
  repeat' first
    | with_reducible assumption
    | with_reducible exact Covers.of hw (by decide)
    | with_reducible exact .inl hP
    | with_reducible exact hP _
    | with_reducible apply Same.mk
    | with_reducible exact .inr rfl
    | exact .inl (hw.bit _ (by decide))
    | exact .inr (fun _ _ => rfl)
    | (intro x; have hx : Keeps w P s0 x := by { dsimp only [x]; repeat' first
          | with_reducible assumption
          | with_reducible exact Covers.of hw (by decide)
          | with_reducible exact .inl hP
          | with_reducible exact hP _
          | with_reducible apply Same.mk
          | with_reducible exact .inr rfl
          | exact .inl (hw.bit _ (by decide))
          | exact .inr (fun _ _ => rfl)
          | with_reducible exact Keeps.refl _
          | with_reducible apply chargeFault_keeps
          | with_reducible apply withReads_keeps
          | with_reducible apply withWrites_keeps
          | with_reducible apply State.modQce_keeps
          | with_reducible apply State.modQceCnt_keeps
          | with_reducible apply qceTrap_keeps
          | with_reducible apply countPass_keeps
          | split
          | with_reducible apply Keeps.upd
          | exact rfl
          | intro y
          | lift_lets }; clear_value x)
    | intro x
    | with_reducible exact Keeps.refl _
    | with_reducible apply chargeFault_keeps
    | with_reducible apply withReads_keeps
    | with_reducible apply withWrites_keeps
    | with_reducible apply State.modQce_keeps
    | with_reducible apply State.modQceCnt_keeps
    | with_reducible apply qceTrap_keeps
    | with_reducible apply countPass_keeps
    | split
    | with_reducible apply Keeps.upd
    | exact rfl
    | lift_lets

theorem qcePass2_keeps {w : Nat} {P : PlotId → Bool} {s0 s : State} (n : QceId) (hK : Keeps w P s0 s) (hw : Covers w 208356912 := by exact Covers.of (by assumption) (by decide)) (hP : ∀ q, P q = true := by assumption) :
    Keeps w P s0 (qcePass2 s n) := by
  unfold qcePass2
  repeat' first
    | with_reducible assumption
    | with_reducible exact Covers.of hw (by decide)
    | with_reducible exact .inl hP
    | with_reducible exact hP _
    | with_reducible apply Same.mk
    | with_reducible exact .inr rfl
    | exact .inl (hw.bit _ (by decide))
    | exact .inr (fun _ _ => rfl)
    | (intro x; have hx : Keeps w P s0 x := by { dsimp only [x]; repeat' first
          | with_reducible assumption
          | with_reducible exact Covers.of hw (by decide)
          | with_reducible exact .inl hP
          | with_reducible exact hP _
          | with_reducible apply Same.mk
          | with_reducible exact .inr rfl
          | exact .inl (hw.bit _ (by decide))
          | exact .inr (fun _ _ => rfl)
          | with_reducible exact Keeps.refl _
          | with_reducible apply chargeFault_keeps
          | with_reducible apply withReads_keeps
          | with_reducible apply withWrites_keeps
          | with_reducible apply State.modQce_keeps
          | with_reducible apply State.modQceCnt_keeps
          | with_reducible apply countPass_keeps
          | split
          | with_reducible apply Keeps.upd
          | exact rfl
          | intro y
          | lift_lets }; clear_value x)
    | intro x
    | with_reducible exact Keeps.refl _
    | with_reducible apply chargeFault_keeps
    | with_reducible apply withReads_keeps
    | with_reducible apply withWrites_keeps
    | with_reducible apply State.modQce_keeps
    | with_reducible apply State.modQceCnt_keeps
    | with_reducible apply countPass_keeps
    | split
    | with_reducible apply Keeps.upd
    | exact rfl
    | lift_lets

/-! ### Sys2Proof/Machine/Rws.lean -/

theorem State.setShadow_keeps {w : Nat} {P : PlotId → Bool} {s0 s : State} (q : PlotId) (r : RwsReg) (v : Nat) (hK : Keeps w P s0 s) (hw : Covers w 8 := by exact Covers.of (by assumption) (by decide)) (hP : P q = true := by first | assumption | exact ‹∀ q, P q = true› _) :
    Keeps w P s0 (State.setShadow s q r v) := by
  unfold State.setShadow
  repeat' first
    | with_reducible assumption
    | with_reducible exact Covers.of hw (by decide)
    | with_reducible apply Same.mk
    | with_reducible exact .inr rfl
    | exact .inl (hw.bit _ (by decide))
    | exact .inr (fun _ _ => rfl)
    | intro x
    | with_reducible exact Keeps.refl _
    | with_reducible apply State.modPlot_keeps
    | with_reducible apply State.modFrm_keeps
    | split
    | with_reducible apply Keeps.upd
    | exact rfl

theorem revertPlot_keeps {w : Nat} {P : PlotId → Bool} {s0 s : State} (q : PlotId) (hK : Keeps w P s0 s) (hw : Covers w 8 := by exact Covers.of (by assumption) (by decide)) (hP : P q = true := by first | assumption | exact ‹∀ q, P q = true› _) :
    Keeps w P s0 (revertPlot s q) := by
  unfold revertPlot
  repeat' first
    | with_reducible assumption
    | with_reducible exact Covers.of hw (by decide)
    | with_reducible apply Same.mk
    | with_reducible exact .inr rfl
    | exact .inl (hw.bit _ (by decide))
    | exact .inr (fun _ _ => rfl)
    | intro x
    | with_reducible exact Keeps.refl _
    | with_reducible apply State.modPlot_keeps
    | with_reducible apply State.modFrm_keeps
    | split
    | with_reducible apply Keeps.upd
    | exact rfl

theorem revertFrom_keeps {w : Nat} {P : PlotId → Bool} {s0 s : State} (f : Fn) (q : PlotId) (hK : Keeps w P s0 s) (hw : Covers w 8 := by exact Covers.of (by assumption) (by decide)) (hP : P q = true := by first | assumption | exact ‹∀ q, P q = true› _) :
    Keeps w P s0 (revertFrom s f q) := by
  unfold revertFrom
  repeat' first
    | with_reducible assumption
    | with_reducible exact Covers.of hw (by decide)
    | intro x
    | with_reducible exact Keeps.refl _
    | with_reducible apply revertPlot_keeps
    | split

end Sys2Proof.Machine
end

