-- ==== Sys2Proof/Laws/KeepsCommit.lean ====
section
/-!
SUPPORT. Sys2Proof/Laws/KeepsCommit.lean: the operations over bundles and the commit sequence keep what Keeps says.
-/
namespace Sys2Proof.Machine

set_option Elab.async false
set_option linter.all false

/-! ### Sys2Proof/Machine/Bundle.lean -/

theorem State.modCfg_keeps {w : Nat} {P : PlotId → Bool} {s0 s : State} (f : CfgState → CfgState) (hK : Keeps w P s0 s) (hw : Covers w 128 := by exact Covers.of (by assumption) (by decide)) :
    Keeps w P s0 (State.modCfg s f) := by
  unfold State.modCfg
  repeat' first
    | with_reducible assumption
    | with_reducible exact Covers.of hw (by decide)
    | with_reducible apply Same.mk
    | with_reducible exact .inr rfl
    | exact .inl (hw.bit _ (by decide))
    | exact .inr (fun _ _ => rfl)
    | intro x
    | with_reducible exact Keeps.refl _
    | with_reducible apply Keeps.upd
    | exact rfl

theorem dropBundle_keeps {w : Nat} {P : PlotId → Bool} {s0 s : State} (hK : Keeps w P s0 s) (hw : Covers w 640 := by exact Covers.of (by assumption) (by decide)) (hP : ∀ q, P q = true := by assumption) :
    Keeps w P s0 (dropBundle s) := by
  unfold dropBundle
  repeat' first
    | with_reducible assumption
    | with_reducible exact Covers.of hw (by decide)
    | with_reducible exact .inl hP
    | with_reducible exact hP _
    | with_reducible apply Same.mk
    | with_reducible exact .inr rfl
    | exact .inl (hw.bit _ (by decide))
    | exact .inr (fun _ _ => rfl)
    | (intro x; have hx : Keeps w P s0 x := by { dsimp only [x]; repeat' first
          | with_reducible assumption
          | with_reducible exact Covers.of hw (by decide)
          | with_reducible exact .inl hP
          | with_reducible exact hP _
          | with_reducible apply Same.mk
          | with_reducible exact .inr rfl
          | exact .inl (hw.bit _ (by decide))
          | exact .inr (fun _ _ => rfl)
          | with_reducible exact Keeps.refl _
          | with_reducible apply State.modCfgSet_keeps
          | with_reducible apply State.modCfg_keeps
          | with_reducible apply Keeps.eachPlot
          | with_reducible apply Keeps.upd
          | exact rfl
          | intro y
          | lift_lets }; clear_value x)
    | intro x
    | with_reducible exact Keeps.refl _
    | with_reducible apply State.modCfgSet_keeps
    | with_reducible apply State.modCfg_keeps
    | with_reducible apply Keeps.eachPlot
    | with_reducible apply Keeps.upd
    | exact rfl
    | lift_lets

theorem failLoad_keeps {w : Nat} {P : PlotId → Bool} {s0 s : State} (code : BitVec 8) (hK : Keeps w P s0 s) (hw : Covers w 134219440 := by exact Covers.of (by assumption) (by decide)) (hP : ∀ q, P q = true := by assumption) :
    Keeps w P s0 (failLoad s code) := by
  unfold failLoad
  repeat' first
    | with_reducible assumption
    | with_reducible exact Covers.of hw (by decide)
    | with_reducible exact .inl hP
    | with_reducible exact hP _
    | with_reducible apply Same.mk
    | with_reducible exact .inr rfl
    | exact .inl (hw.bit _ (by decide))
    | exact .inr (fun _ _ => rfl)
    | (intro x; have hx : Keeps w P s0 x := by { dsimp only [x]; repeat' first
          | with_reducible assumption
          | with_reducible exact Covers.of hw (by decide)
          | with_reducible exact .inl hP
          | with_reducible exact hP _
          | with_reducible apply Same.mk
          | with_reducible exact .inr rfl
          | exact .inl (hw.bit _ (by decide))
          | exact .inr (fun _ _ => rfl)
          | with_reducible exact Keeps.refl _
          | with_reducible apply State.raisePf_keeps
          | with_reducible apply State.logLine_keeps
          | with_reducible apply State.modCfg_keeps
          | with_reducible apply dropBundle_keeps
          | with_reducible apply Keeps.upd
          | exact rfl
          | intro y
          | lift_lets }; clear_value x)
    | intro x
    | with_reducible exact Keeps.refl _
    | with_reducible apply State.raisePf_keeps
    | with_reducible apply State.logLine_keeps
    | with_reducible apply State.modCfg_keeps
    | with_reducible apply dropBundle_keeps
    | with_reducible apply Keeps.upd
    | exact rfl
    | lift_lets

theorem abortBundle_keeps {w : Nat} {P : PlotId → Bool} {s0 s : State} (hK : Keeps w P s0 s) (hw : Covers w 134219440 := by exact Covers.of (by assumption) (by decide)) (hP : ∀ q, P q = true := by assumption) :
    Keeps w P s0 (abortBundle s) := by
  unfold abortBundle
  repeat' first
    | with_reducible assumption
    | with_reducible exact Covers.of hw (by decide)
    | with_reducible exact .inl hP
    | with_reducible exact hP _
    | intro x
    | with_reducible exact Keeps.refl _
    | with_reducible apply failLoad_keeps
    | split

theorem startLoad_keeps {w : Nat} {P : PlotId → Bool} {s0 s : State} (hK : Keeps w P s0 s) (hw : Covers w 134219504 := by exact Covers.of (by assumption) (by decide)) (hP : ∀ q, P q = true := by assumption) :
    Keeps w P s0 (startLoad s) := by
  unfold startLoad
  repeat' first
    | with_reducible assumption
    | with_reducible exact Covers.of hw (by decide)
    | with_reducible exact .inl hP
    | with_reducible exact hP _
    | with_reducible apply Same.mk
    | with_reducible exact .inr rfl
    | exact .inl (hw.bit _ (by decide))
    | exact .inr (fun _ _ => rfl)
    | (intro x; have hx : Keeps w P s0 x := by { dsimp only [x]; repeat' first
          | with_reducible assumption
          | with_reducible exact Covers.of hw (by decide)
          | with_reducible exact .inl hP
          | with_reducible exact hP _
          | with_reducible apply Same.mk
          | with_reducible exact .inr rfl
          | exact .inl (hw.bit _ (by decide))
          | exact .inr (fun _ _ => rfl)
          | with_reducible exact Keeps.refl _
          | with_reducible apply State.hostRead_keeps
          | with_reducible apply State.logLine_keeps
          | with_reducible apply State.modCfg_keeps
          | with_reducible apply failLoad_keeps
          | split
          | with_reducible apply Keeps.upd
          | exact rfl
          | intro y
          | lift_lets }; clear_value x)
    | intro x
    | with_reducible exact Keeps.refl _
    | with_reducible apply State.hostRead_keeps
    | with_reducible apply State.logLine_keeps
    | with_reducible apply State.modCfg_keeps
    | with_reducible apply failLoad_keeps
    | split
    | with_reducible apply Keeps.upd
    | exact rfl
    | lift_lets

theorem fetchDone_keeps {w : Nat} {P : PlotId → Bool} {s0 s : State} (r : Fetched) (hK : Keeps w P s0 s) (hw : Covers w 671090417 := by exact Covers.of (by assumption) (by decide)) (hP : ∀ q, P q = true := by assumption) :
    Keeps w P s0 (fetchDone s r) := by
  unfold fetchDone
  repeat' first
    | with_reducible assumption
    | with_reducible exact Covers.of hw (by decide)
    | with_reducible exact .inl hP
    | with_reducible exact hP _
    | with_reducible apply Same.mk
    | with_reducible exact .inr rfl
    | exact .inl (hw.bit _ (by decide))
    | exact .inr (fun _ _ => rfl)
    | intro x
    | with_reducible exact Keeps.refl _
    | with_reducible apply dmaError_keeps
    | with_reducible apply State.modCfg_keeps
    | with_reducible apply failLoad_keeps
    | split
    | with_reducible apply Keeps.upd
    | exact rfl

theorem verifyDone_keeps {w : Nat} {P : PlotId → Bool} {s0 s : State} (hK : Keeps w P s0 s) (hw : Covers w 134219440 := by exact Covers.of (by assumption) (by decide)) (hP : ∀ q, P q = true := by assumption) :
    Keeps w P s0 (verifyDone s) := by
  unfold verifyDone
  repeat' first
    | with_reducible assumption
    | with_reducible exact Covers.of hw (by decide)
    | with_reducible exact .inl hP
    | with_reducible exact hP _
    | with_reducible apply Same.mk
    | with_reducible exact .inr rfl
    | exact .inl (hw.bit _ (by decide))
    | exact .inr (fun _ _ => rfl)
    | (intro x; have hx : Keeps w P s0 x := by { dsimp only [x]; repeat' first
          | with_reducible assumption
          | with_reducible exact Covers.of hw (by decide)
          | with_reducible exact .inl hP
          | with_reducible exact hP _
          | with_reducible apply Same.mk
          | with_reducible exact .inr rfl
          | exact .inl (hw.bit _ (by decide))
          | exact .inr (fun _ _ => rfl)
          | with_reducible exact Keeps.refl _
          | with_reducible apply State.modCfg_keeps
          | with_reducible apply failLoad_keeps
          | split
          | with_reducible apply Keeps.upd
          | exact rfl
          | intro y
          | lift_lets }; clear_value x)
    | intro x
    | with_reducible exact Keeps.refl _
    | with_reducible apply State.modCfg_keeps
    | with_reducible apply failLoad_keeps
    | split
    | with_reducible apply Keeps.upd
    | exact rfl
    | lift_lets

theorem stagingDone_keeps {w : Nat} {P : PlotId → Bool} {s0 s : State} (hK : Keeps w P s0 s) (hw : Covers w 134217904 := by exact Covers.of (by assumption) (by decide)) (hP : ∀ q, P q = true := by assumption) :
    Keeps w P s0 (stagingDone s) := by
  unfold stagingDone
  repeat' first
    | with_reducible assumption
    | with_reducible exact Covers.of hw (by decide)
    | with_reducible exact .inl hP
    | with_reducible exact hP _
    | with_reducible apply Same.mk
    | with_reducible exact .inr rfl
    | exact .inl (hw.bit _ (by decide))
    | exact .inr (fun _ _ => rfl)
    | (intro x; have hx : Keeps w P s0 x := by { dsimp only [x]; repeat' first
          | with_reducible assumption
          | with_reducible exact Covers.of hw (by decide)
          | with_reducible exact .inl hP
          | with_reducible exact hP _
          | with_reducible apply Same.mk
          | with_reducible exact .inr rfl
          | exact .inl (hw.bit _ (by decide))
          | exact .inr (fun _ _ => rfl)
          | with_reducible exact Keeps.refl _
          | with_reducible apply State.modCfgSet_keeps
          | with_reducible apply State.raisePf_keeps
          | with_reducible apply State.modCfg_keeps
          | with_reducible apply Keeps.eachPlot
          | split
          | with_reducible apply Keeps.upd
          | exact rfl
          | intro y
          | lift_lets }; clear_value x)
    | intro x
    | with_reducible exact Keeps.refl _
    | with_reducible apply State.modCfgSet_keeps
    | with_reducible apply State.raisePf_keeps
    | with_reducible apply State.modCfg_keeps
    | with_reducible apply Keeps.eachPlot
    | split
    | with_reducible apply Keeps.upd
    | exact rfl
    | lift_lets

theorem setArm_keeps {w : Nat} {P : PlotId → Bool} {s0 s : State} (arm : Bool) (hK : Keeps w P s0 s) (hw : Covers w 128 := by exact Covers.of (by assumption) (by decide)) :
    Keeps w P s0 (setArm s arm) := by
  unfold setArm
  repeat' first
    | with_reducible assumption
    | with_reducible exact Covers.of hw (by decide)
    | with_reducible apply Same.mk
    | with_reducible exact .inr rfl
    | exact .inl (hw.bit _ (by decide))
    | exact .inr (fun _ _ => rfl)
    | intro x
    | with_reducible exact Keeps.refl _
    | with_reducible apply State.modCfg_keeps
    | split
    | with_reducible apply Keeps.upd
    | exact rfl

theorem cfgCtlWrite_keeps {w : Nat} {P : PlotId → Bool} {s0 s : State} (load abort arm : Bool) (h : Keeps w P s0 s) (hw : Covers w 134219504 := by exact Covers.of (by assumption) (by decide))
    (hP : ∀ q, P q = true := by assumption) : Keeps w P s0 (cfgCtlWrite s load abort arm) := by
  unfold cfgCtlWrite
  have h2 : Keeps w P s0 (setArm (if abort then abortBundle s else s) arm) := by
    refine setArm_keeps _ ?_
    split
    · exact abortBundle_keeps h
    · exact h
  dsimp only
  split
  · exact h2
  · split
    · exact State.logLine_keeps h2 _ _ _ _ _
    · exact startLoad_keeps h2

theorem refusePlot_keeps {w : Nat} {P : PlotId → Bool} {s0 s : State} (q : PlotId) (f : Fail) (hK : Keeps w P s0 s) (hw : Covers w 134218928 := by exact Covers.of (by assumption) (by decide)) (hP : P q = true := by first | assumption | exact ‹∀ q, P q = true› _) :
    Keeps w P s0 (refusePlot s q f) := by
  unfold refusePlot
  repeat' first
    | with_reducible assumption
    | with_reducible exact Covers.of hw (by decide)
    | with_reducible apply Same.mk
    | with_reducible exact .inr rfl
    | exact .inl (hw.bit _ (by decide))
    | exact .inr (fun _ _ => rfl)
    | (intro x; have hx : Keeps w P s0 x := by { dsimp only [x]; repeat' first
          | with_reducible assumption
          | with_reducible exact Covers.of hw (by decide)
          | with_reducible apply Same.mk
          | with_reducible exact .inr rfl
          | exact .inl (hw.bit _ (by decide))
          | exact .inr (fun _ _ => rfl)
          | with_reducible exact Keeps.refl _
          | with_reducible apply State.modCfgSet_keeps
          | with_reducible apply State.raisePf_keeps
          | with_reducible apply State.raisePlot_keeps
          | with_reducible apply State.logLine_keeps
          | with_reducible apply State.modCfg_keeps
          | split
          | with_reducible apply Keeps.upd
          | exact rfl
          | intro y
          | lift_lets }; clear_value x)
    | intro x
    | with_reducible exact Keeps.refl _
    | with_reducible apply State.modCfgSet_keeps
    | with_reducible apply State.raisePf_keeps
    | with_reducible apply State.raisePlot_keeps
    | with_reducible apply State.logLine_keeps
    | with_reducible apply State.modCfg_keeps
    | split
    | with_reducible apply Keeps.upd
    | exact rfl
    | lift_lets

theorem refuseBundle_keeps {w : Nat} {P : PlotId → Bool} {s0 s : State} (hK : Keeps w P s0 s) (hw : Covers w 134218416 := by exact Covers.of (by assumption) (by decide)) (hP : ∀ q, P q = true := by assumption) :
    Keeps w P s0 (refuseBundle s) := by
  unfold refuseBundle
  repeat' first
    | with_reducible assumption
    | with_reducible exact Covers.of hw (by decide)
    | with_reducible exact .inl hP
    | with_reducible exact hP _
    | with_reducible apply Same.mk
    | with_reducible exact .inr rfl
    | exact .inl (hw.bit _ (by decide))
    | exact .inr (fun _ _ => rfl)
    | intro x
    | with_reducible exact Keeps.refl _
    | with_reducible apply State.raisePf_keeps
    | with_reducible apply State.modCfg_keeps
    | with_reducible apply dropBundle_keeps
    | with_reducible apply Keeps.upd
    | exact rfl

theorem waitExpired_keeps {w : Nat} {P : PlotId → Bool} {s0 s : State} (hK : Keeps w P s0 s) (hw : Covers w 134219440 := by exact Covers.of (by assumption) (by decide)) (hP : ∀ q, P q = true := by assumption) :
    Keeps w P s0 (waitExpired s) := by
  unfold waitExpired
  repeat' first
    | with_reducible assumption
    | with_reducible exact Covers.of hw (by decide)
    | with_reducible exact .inl hP
    | with_reducible exact hP _
    | (intro x; have hx : Keeps w P s0 x := by { dsimp only [x]; repeat' first
          | with_reducible assumption
          | with_reducible exact Covers.of hw (by decide)
          | with_reducible exact .inl hP
          | with_reducible exact hP _
          | with_reducible exact Keeps.refl _
          | with_reducible apply refusePlot_keeps
          | with_reducible apply refuseBundle_keeps
          | with_reducible apply Keeps.eachPlot
          | split
          | intro y
          | lift_lets }; clear_value x)
    | intro x
    | with_reducible exact Keeps.refl _
    | with_reducible apply refusePlot_keeps
    | with_reducible apply refuseBundle_keeps
    | with_reducible apply Keeps.eachPlot
    | split
    | lift_lets

theorem fuseRefuse_keeps {w : Nat} {P : PlotId → Bool} {s0 s : State} (e : BitVec 4) (hK : Keeps w P s0 s) (hw : Covers w 128 := by exact Covers.of (by assumption) (by decide)) :
    Keeps w P s0 (fuseRefuse s e) := by
  unfold fuseRefuse
  repeat' first
    | with_reducible assumption
    | with_reducible exact Covers.of hw (by decide)
    | with_reducible apply Same.mk
    | with_reducible exact .inr rfl
    | exact .inl (hw.bit _ (by decide))
    | exact .inr (fun _ _ => rfl)
    | intro x
    | with_reducible exact Keeps.refl _
    | with_reducible apply State.modCfg_keeps
    | with_reducible apply Keeps.upd
    | exact rfl

theorem fuseGate_keeps {w : Nat} {P : PlotId → Bool} {s0 s : State} (key : Byte) {k : State → State} (h : Keeps w P s0 s) (hk : ∀ t, Keeps w P s0 t → Keeps w P s0 (k t)) (hw : Covers w 128 := by exact Covers.of (by assumption) (by decide)) :
    Keeps w P s0 (fuseGate s key k) := by
  unfold fuseGate
  split
  · exact fuseRefuse_keeps _ h
  · split
    · exact fuseRefuse_keeps _ h
    · exact hk _ h

theorem fuseStart_keeps {w : Nat} {P : PlotId → Bool} {s0 s : State} (o : FuseOp) (hK : Keeps w P s0 s) (hw : Covers w 128 := by exact Covers.of (by assumption) (by decide)) :
    Keeps w P s0 (fuseStart s o) := by
  unfold fuseStart
  repeat' first
    | with_reducible assumption
    | with_reducible exact Covers.of hw (by decide)
    | with_reducible apply Same.mk
    | with_reducible exact .inr rfl
    | exact .inl (hw.bit _ (by decide))
    | exact .inr (fun _ _ => rfl)
    | intro x
    | with_reducible exact Keeps.refl _
    | with_reducible apply State.modCfg_keeps
    | with_reducible apply Keeps.upd
    | exact rfl

theorem fuseProgram_keeps {w : Nat} {P : PlotId → Bool} {s0 s : State} (key : Byte) (slot : Fin 4) (hK : Keeps w P s0 s) (hw : Covers w 128 := by exact Covers.of (by assumption) (by decide)) :
    Keeps w P s0 (fuseProgram s key slot) := by
  unfold fuseProgram
  repeat' first
    | with_reducible assumption
    | with_reducible exact Covers.of hw (by decide)
    | intro x
    | with_reducible exact Keeps.refl _
    | with_reducible apply fuseRefuse_keeps
    | with_reducible apply fuseGate_keeps
    | with_reducible apply fuseStart_keeps
    | split

theorem fuseRevoke_keeps {w : Nat} {P : PlotId → Bool} {s0 s : State} (key : Byte) (slot : Fin 4) (hK : Keeps w P s0 s) (hw : Covers w 128 := by exact Covers.of (by assumption) (by decide)) :
    Keeps w P s0 (fuseRevoke s key slot) := by
  unfold fuseRevoke
  repeat' first
    | with_reducible assumption
    | with_reducible exact Covers.of hw (by decide)
    | intro x
    | with_reducible exact Keeps.refl _
    | with_reducible apply fuseRefuse_keeps
    | with_reducible apply fuseGate_keeps
    | with_reducible apply fuseStart_keeps
    | split

theorem fuseLock_keeps {w : Nat} {P : PlotId → Bool} {s0 s : State} (key : Byte) (hK : Keeps w P s0 s) (hw : Covers w 128 := by exact Covers.of (by assumption) (by decide)) :
    Keeps w P s0 (fuseLock s key) := by
  unfold fuseLock
  repeat' first
    | with_reducible assumption
    | with_reducible exact Covers.of hw (by decide)
    | intro x
    | with_reducible exact Keeps.refl _
    | with_reducible apply fuseRefuse_keeps
    | with_reducible apply fuseGate_keeps
    | with_reducible apply fuseStart_keeps
    | split

theorem fuseDone_keeps {w : Nat} {P : PlotId → Bool} {s0 s : State} (hK : Keeps w P s0 s) (hw : Covers w 132 := by exact Covers.of (by assumption) (by decide)) :
    Keeps w P s0 (fuseDone s) := by
  unfold fuseDone
  repeat' first
    | with_reducible assumption
    | with_reducible exact Covers.of hw (by decide)
    | with_reducible apply Same.mk
    | with_reducible exact .inr rfl
    | exact .inl (hw.bit _ (by decide))
    | exact .inr (fun _ _ => rfl)
    | (intro x; have hx : Keeps w P s0 x := by { dsimp only [x]; repeat' first
          | with_reducible assumption
          | with_reducible exact Covers.of hw (by decide)
          | with_reducible apply Same.mk
          | with_reducible exact .inr rfl
          | exact .inl (hw.bit _ (by decide))
          | exact .inr (fun _ _ => rfl)
          | with_reducible exact Keeps.refl _
          | with_reducible apply State.modCfg_keeps
          | split
          | with_reducible apply Keeps.upd
          | exact rfl
          | intro y
          | lift_lets }; clear_value x)
    | intro x
    | with_reducible exact Keeps.refl _
    | with_reducible apply State.modCfg_keeps
    | split
    | with_reducible apply Keeps.upd
    | exact rfl
    | lift_lets

theorem fuseCut_keeps {w : Nat} {P : PlotId → Bool} {s0 s : State} (hK : Keeps w P s0 s) (hw : Covers w 536870916 := by exact Covers.of (by assumption) (by decide)) :
    Keeps w P s0 (fuseCut s) := by
  unfold fuseCut
  repeat' first
    | with_reducible assumption
    | with_reducible exact Covers.of hw (by decide)
    | with_reducible apply Same.mk
    | with_reducible exact .inr rfl
    | exact .inl (hw.bit _ (by decide))
    | exact .inr (fun _ _ => rfl)
    | (intro x; have hx : Keeps w P s0 x := by { dsimp only [x]; repeat' first
          | with_reducible assumption
          | with_reducible exact Covers.of hw (by decide)
          | with_reducible apply Same.mk
          | with_reducible exact .inr rfl
          | exact .inl (hw.bit _ (by decide))
          | exact .inr (fun _ _ => rfl)
          | with_reducible exact Keeps.refl _
          | split
          | with_reducible apply Keeps.upd
          | exact rfl
          | intro y
          | lift_lets }; clear_value x)
    | intro x
    | with_reducible exact Keeps.refl _
    | split
    | with_reducible apply Keeps.upd
    | exact rfl
    | lift_lets

/-! ### Sys2Proof/Machine/Apply.lean -/

/-- Memory that follows its engines keeps the canonical form. -/
theorem wf_moveCells (old new : Content) (q : PlotId) (m : List Host.Cell) : Memory.wf (moveCells old new q m) = true := by
  have go : ∀ (l r : List Host.Cell), Memory.wf r = true → Memory.wf (l.foldl (fun r c =>
      if c.1 / plotSpan = q.val then
        match moveAddr old new q.val (c.1 % plotSpan) with
        | some a => cellPut r (memKey q a) c.2
        | none => r
      else cellPut r c.1 c.2) r) = true := by
    intro l
    induction l with
    | nil => intro r h; exact h
    | cons c l ih =>
      intro r h
      apply ih
      dsimp only
      split
      · split
        · exact wf_cellPut h _ _
        · exact h
      · exact wf_cellPut h _ _
  exact go m [] wf_nil

theorem moveHeld_keeps {w : Nat} {P : PlotId → Bool} {s0 s : State} (old new : Content) (q : PlotId) (h : Keeps w P s0 s) (hw : Covers w 67109376 := by exact Covers.of (by assumption) (by decide))
    (hP : P q = true := by first | assumption | exact ‹∀ q, P q = true› _) : Keeps w P s0 (moveHeld old new s q) := by
  unfold moveHeld
  split
  · exact h
  · exact Keeps.upd ((State.modMsh_keeps q _ (State.modPlt_keeps q _ h)).withMem _ (fun _ => wf_moveCells old new q _)) rfl rfl rfl rfl rfl

theorem wipeQuota_keeps {w : Nat} {P : PlotId → Bool} {s0 s : State} (a b : Nat) (q : PlotId) (h : Keeps w P s0 s) (hw : Covers w 67108864 := by exact Covers.of (by assumption) (by decide)) :
    Keeps w P s0 (wipeQuota a b s q) := by
  unfold wipeQuota
  split
  · exact h
  · exact State.wipeMem_keeps h _ _ _

theorem movePlot_keeps {w : Nat} {P : PlotId → Bool} {s0 s : State} (old new : Content) (q : PlotId) (h : Keeps w P s0 s) (hw : Covers w 67109376 := by exact Covers.of (by assumption) (by decide))
    (hP : P q = true := by first | assumption | exact ‹∀ q, P q = true› _) : Keeps w P s0 (movePlot old new s q) := by
  have h1 := moveHeld_keeps old new q h
  unfold movePlot
  generalize moveHeld old new s q = t at h1
  dsimp only
  have h2 : ∀ (a b : Nat) (l : List Resident), Keeps w P s0 (l.foldl (fun s r => evict s q r.page) (wipeQuota a b t q)) :=
    fun a b l => (wipeQuota_keeps a b q h1).foldl (fun _ _ k => evict_keeps _ _ k)
  split
  · exact h2 _ _ _
  · exact fitPool_keeps _ _ _ (h2 _ _ _)

theorem placeQuotas_keeps {w : Nat} {P : PlotId → Bool} {s0 s : State} (new : Content) (hK : Keeps w P s0 s) (hw : Covers w 512 := by exact Covers.of (by assumption) (by decide)) (hP : ∀ q, P q = true := by assumption) :
    Keeps w P s0 (placeQuotas s new) := by
  unfold placeQuotas
  repeat' first
    | with_reducible assumption
    | with_reducible exact Covers.of hw (by decide)
    | with_reducible exact .inl hP
    | with_reducible exact hP _
    | with_reducible apply Same.mk
    | with_reducible exact .inr rfl
    | exact .inl (hw.bit _ (by decide))
    | exact .inr (fun _ _ => rfl)
    | (intro x; have hx : Keeps w P s0 x := by { dsimp only [x]; repeat' first
          | with_reducible assumption
          | with_reducible exact Covers.of hw (by decide)
          | with_reducible exact .inl hP
          | with_reducible exact hP _
          | with_reducible apply Same.mk
          | with_reducible exact .inr rfl
          | exact .inl (hw.bit _ (by decide))
          | exact .inr (fun _ _ => rfl)
          | with_reducible exact Keeps.refl _
          | with_reducible apply State.modMsh_keeps
          | with_reducible apply Keeps.eachPlot
          | split
          | with_reducible apply Keeps.upd
          | exact rfl
          | intro y
          | lift_lets }; clear_value x)
    | intro x
    | with_reducible exact Keeps.refl _
    | with_reducible apply State.modMsh_keeps
    | with_reducible apply Keeps.eachPlot
    | split
    | with_reducible apply Keeps.upd
    | exact rfl
    | lift_lets

theorem reassignPlot_keeps {w : Nat} {P : PlotId → Bool} {s0 s : State} (q : PlotId) (hK : Keeps w P s0 s) (hw : Covers w 137052720 := by exact Covers.of (by assumption) (by decide)) (hP : P q = true := by first | assumption | exact ‹∀ q, P q = true› _) :
    Keeps w P s0 (reassignPlot s q) := by
  unfold reassignPlot
  repeat' first
    | with_reducible assumption
    | with_reducible exact Covers.of hw (by decide)
    | with_reducible apply Same.mk
    | with_reducible exact .inr rfl
    | exact .inl (hw.bit _ (by decide))
    | exact .inr (fun _ _ => rfl)
    | intro x
    | with_reducible exact Keeps.refl _
    | with_reducible apply State.modPlt_keeps
    | with_reducible apply State.setPlotState_keeps
    | with_reducible apply stopEngines_keeps
    | with_reducible apply startStop_keeps
    | split
    | with_reducible apply Keeps.upd
    | exact rfl

theorem adoptPlot_keeps {w : Nat} {P : PlotId → Bool} {s0 s : State} (q : PlotId) (hK : Keeps w P s0 s) (hw : Covers w 137052720 := by exact Covers.of (by assumption) (by decide)) (hP : P q = true := by first | assumption | exact ‹∀ q, P q = true› _) :
    Keeps w P s0 (adoptPlot s q) := by
  unfold adoptPlot
  repeat' first
    | with_reducible assumption
    | with_reducible exact Covers.of hw (by decide)
    | intro x
    | with_reducible exact Keeps.refl _
    | with_reducible apply State.setPlotState_keeps
    | with_reducible apply reviewPlot_keeps
    | split

theorem freshIndexes_keeps {w : Nat} {P : PlotId → Bool} {s0 s : State} (old : Content) (q : PlotId) (hK : Keeps w P s0 s) (hP : P q = true := by first | assumption | exact ‹∀ q, P q = true› _) :
    Keeps w P s0 (freshIndexes old s q) := by
  unfold freshIndexes
  repeat' first
    | with_reducible assumption
    | intro x
    | with_reducible exact Keeps.refl _
    | with_reducible apply resetIndex_keeps
    | with_reducible apply Keeps.foldl
    | split

theorem applyBundle_keeps {w : Nat} {P : PlotId → Bool} {s0 s : State} (b : Bundle) (hK : Keeps w P s0 s) (hw : Covers w 204161712 := by exact Covers.of (by assumption) (by decide)) (hP : ∀ q, P q = true := by assumption) :
    Keeps w P s0 (applyBundle s b) := by
  unfold applyBundle
  repeat' first
    | with_reducible assumption
    | with_reducible exact Covers.of hw (by decide)
    | with_reducible exact .inl hP
    | with_reducible exact hP _
    | with_reducible apply Same.mk
    | with_reducible exact .inr rfl
    | exact .inl (hw.bit _ (by decide))
    | exact .inr (fun _ _ => rfl)
    | (intro x; have hx : Keeps w P s0 x := by { dsimp only [x]; repeat' first
          | with_reducible assumption
          | with_reducible exact Covers.of hw (by decide)
          | with_reducible exact .inl hP
          | with_reducible exact hP _
          | with_reducible apply Same.mk
          | with_reducible exact .inr rfl
          | exact .inl (hw.bit _ (by decide))
          | exact .inr (fun _ _ => rfl)
          | with_reducible exact Keeps.refl _
          | with_reducible apply State.modCfgSet_keeps
          | with_reducible apply State.raisePf_keeps
          | with_reducible apply initLanes_keeps
          | with_reducible apply State.modCfg_keeps
          | with_reducible apply dropBundle_keeps
          | with_reducible apply movePlot_keeps
          | with_reducible apply placeQuotas_keeps
          | with_reducible apply reassignPlot_keeps
          | with_reducible apply adoptPlot_keeps
          | with_reducible apply freshIndexes_keeps
          | with_reducible apply Keeps.eachPlot
          | split
          | with_reducible apply Keeps.upd
          | exact rfl
          | intro y
          | lift_lets }; clear_value x)
    | intro x
    | with_reducible exact Keeps.refl _
    | with_reducible apply State.modCfgSet_keeps
    | with_reducible apply State.raisePf_keeps
    | with_reducible apply initLanes_keeps
    | with_reducible apply State.modCfg_keeps
    | with_reducible apply dropBundle_keeps
    | with_reducible apply movePlot_keeps
    | with_reducible apply placeQuotas_keeps
    | with_reducible apply reassignPlot_keeps
    | with_reducible apply adoptPlot_keeps
    | with_reducible apply freshIndexes_keeps
    | with_reducible apply Keeps.eachPlot
    | split
    | with_reducible apply Keeps.upd
    | exact rfl
    | lift_lets

theorem switchSource_keeps {w : Nat} {P : PlotId → Bool} {s0 s : State} (src : BitVec 2) (hK : Keeps w P s0 s) (hw : Covers w 134218808 := by exact Covers.of (by assumption) (by decide)) :
    Keeps w P s0 (switchSource s src) := by
  unfold switchSource
  repeat' first
    | with_reducible assumption
    | with_reducible exact Covers.of hw (by decide)
    | with_reducible apply Same.mk
    | with_reducible exact .inr rfl
    | exact .inl (hw.bit _ (by decide))
    | exact .inr (fun _ _ => rfl)
    | (intro x; have hx : Keeps w P s0 x := by { dsimp only [x]; repeat' first
          | with_reducible assumption
          | with_reducible exact Covers.of hw (by decide)
          | with_reducible apply Same.mk
          | with_reducible exact .inr rfl
          | exact .inl (hw.bit _ (by decide))
          | exact .inr (fun _ _ => rfl)
          | with_reducible exact Keeps.refl _
          | with_reducible apply State.modFrm_keeps
          | with_reducible apply State.frmEvent_keeps
          | split
          | with_reducible apply Keeps.upd
          | exact rfl
          | intro y
          | lift_lets }; clear_value x)
    | intro x
    | with_reducible exact Keeps.refl _
    | with_reducible apply State.modFrm_keeps
    | with_reducible apply State.frmEvent_keeps
    | split
    | with_reducible apply Keeps.upd
    | exact rfl
    | lift_lets

theorem noteCommit_keeps {w : Nat} {P : PlotId → Bool} {s0 s : State} (q : PlotId) (changed : Bool) (hK : Keeps w P s0 s) (hP : P q = true := by first | assumption | exact ‹∀ q, P q = true› _) :
    Keeps w P s0 (noteCommit s q changed) := by
  unfold noteCommit
  repeat' first
    | with_reducible assumption
    | with_reducible apply Same.mk
    | with_reducible exact .inr rfl
    | exact .inr (fun _ _ => rfl)
    | intro x
    | with_reducible exact Keeps.refl _
    | with_reducible apply State.modCfgSet_keeps
    | split
    | with_reducible apply Keeps.upd
    | exact rfl

theorem applyPlot_keeps {w : Nat} {P : PlotId → Bool} {s0 s : State} (q : PlotId) (b : Option Bundle) (configChanged : Bool) (hK : Keeps w P s0 s) (hw : Covers w 134218808 := by exact Covers.of (by assumption) (by decide)) (hP : P q = true := by first | assumption | exact ‹∀ q, P q = true› _) :
    Keeps w P s0 (applyPlot s q b configChanged) := by
  unfold applyPlot
  repeat' first
    | with_reducible assumption
    | with_reducible exact Covers.of hw (by decide)
    | with_reducible apply Same.mk
    | with_reducible exact .inr rfl
    | exact .inl (hw.bit _ (by decide))
    | exact .inr (fun _ _ => rfl)
    | (intro x; have hx : Keeps w P s0 x := by { dsimp only [x]; repeat' first
          | with_reducible assumption
          | with_reducible exact Covers.of hw (by decide)
          | with_reducible apply Same.mk
          | with_reducible exact .inr rfl
          | exact .inl (hw.bit _ (by decide))
          | exact .inr (fun _ _ => rfl)
          | with_reducible exact Keeps.refl _
          | with_reducible apply State.modPlot_keeps
          | with_reducible apply State.modFrm_keeps
          | with_reducible apply resetLanes_keeps
          | with_reducible apply switchSource_keeps
          | with_reducible apply noteCommit_keeps
          | split
          | with_reducible apply Keeps.upd
          | exact rfl
          | intro y
          | lift_lets }; clear_value x)
    | intro x
    | with_reducible exact Keeps.refl _
    | with_reducible apply State.modPlot_keeps
    | with_reducible apply State.modFrm_keeps
    | with_reducible apply resetLanes_keeps
    | with_reducible apply switchSource_keeps
    | with_reducible apply noteCommit_keeps
    | split
    | with_reducible apply Keeps.upd
    | exact rfl
    | lift_lets

theorem undoSource_keeps {w : Nat} {P : PlotId → Bool} {s0 s : State} (u : Undo) (hK : Keeps w P s0 s) (hw : Covers w 134218808 := by exact Covers.of (by assumption) (by decide)) :
    Keeps w P s0 (undoSource s u) := by
  unfold undoSource
  repeat' first
    | with_reducible assumption
    | with_reducible exact Covers.of hw (by decide)
    | with_reducible apply Same.mk
    | with_reducible exact .inr rfl
    | exact .inl (hw.bit _ (by decide))
    | exact .inr (fun _ _ => rfl)
    | (intro x; have hx : Keeps w P s0 x := by { dsimp only [x]; repeat' first
          | with_reducible assumption
          | with_reducible exact Covers.of hw (by decide)
          | with_reducible apply Same.mk
          | with_reducible exact .inr rfl
          | exact .inl (hw.bit _ (by decide))
          | exact .inr (fun _ _ => rfl)
          | with_reducible exact Keeps.refl _
          | with_reducible apply State.modFrm_keeps
          | with_reducible apply State.frmEvent_keeps
          | split
          | with_reducible apply Keeps.upd
          | exact rfl
          | intro y
          | lift_lets }; clear_value x)
    | intro x
    | with_reducible exact Keeps.refl _
    | with_reducible apply State.modFrm_keeps
    | with_reducible apply State.frmEvent_keeps
    | split
    | with_reducible apply Keeps.upd
    | exact rfl
    | lift_lets

theorem unapplyPlot_keeps {w : Nat} {P : PlotId → Bool} {s0 s : State} (u : Undo) (q : PlotId) (hK : Keeps w P s0 s) (hw : Covers w 134218808 := by exact Covers.of (by assumption) (by decide)) (hP : P q = true := by first | assumption | exact ‹∀ q, P q = true› _) :
    Keeps w P s0 (unapplyPlot s u q) := by
  unfold unapplyPlot
  repeat' first
    | with_reducible assumption
    | with_reducible exact Covers.of hw (by decide)
    | with_reducible apply Same.mk
    | with_reducible exact .inr rfl
    | exact .inl (hw.bit _ (by decide))
    | exact .inr (fun _ _ => rfl)
    | (intro x; have hx : Keeps w P s0 x := by { dsimp only [x]; repeat' first
          | with_reducible assumption
          | with_reducible exact Covers.of hw (by decide)
          | with_reducible apply Same.mk
          | with_reducible exact .inr rfl
          | exact .inl (hw.bit _ (by decide))
          | exact .inr (fun _ _ => rfl)
          | with_reducible exact Keeps.refl _
          | with_reducible apply State.modPlot_keeps
          | with_reducible apply State.modCfgSet_keeps
          | with_reducible apply State.modFrm_keeps
          | with_reducible apply undoSource_keeps
          | split
          | with_reducible apply Keeps.upd
          | exact rfl
          | intro y
          | lift_lets }; clear_value x)
    | intro x
    | with_reducible exact Keeps.refl _
    | with_reducible apply State.modPlot_keeps
    | with_reducible apply State.modCfgSet_keeps
    | with_reducible apply State.modFrm_keeps
    | with_reducible apply undoSource_keeps
    | split
    | with_reducible apply Keeps.upd
    | exact rfl
    | lift_lets

theorem undoMemory_keeps {w : Nat} {P : PlotId → Bool} {s0 s : State} (old new : Content) (u : Undo) (q : PlotId)
    (h : Keeps w P s0 s) (hw : Covers w 67109376 := by exact Covers.of (by assumption) (by decide)) : Keeps w P s0 (undoMemory old new u s q) := by
  unfold undoMemory
  refine Keeps.upd (h.withMem _ (fun m => wf_applyOver ?_ _)) rfl rfl rfl rfl rfl
  split
  · exact m
  · exact wf_moveCells new old q _

theorem undoEngines_keeps {w : Nat} {P : PlotId → Bool} {s0 s : State} (old : Content) (u : Undo) (q : PlotId) (hK : Keeps w P s0 s) (hw : Covers w 213504 := by exact Covers.of (by assumption) (by decide)) (hP : P q = true := by first | assumption | exact ‹∀ q, P q = true› _) :
    Keeps w P s0 (undoEngines old u s q) := by
  unfold undoEngines
  repeat' first
    | with_reducible assumption
    | with_reducible exact Covers.of hw (by decide)
    | with_reducible apply Same.mk
    | with_reducible exact .inr rfl
    | exact .inl (hw.bit _ (by decide))
    | exact .inr (fun _ _ => rfl)
    | (intro x; have hx : Keeps w P s0 x := by { dsimp only [x]; repeat' first
          | with_reducible assumption
          | with_reducible exact Covers.of hw (by decide)
          | with_reducible apply Same.mk
          | with_reducible exact .inr rfl
          | exact .inl (hw.bit _ (by decide))
          | exact .inr (fun _ _ => rfl)
          | with_reducible exact Keeps.refl _
          | with_reducible apply State.modPlot_keeps
          | split
          | with_reducible apply Keeps.upd
          | exact rfl
          | intro y
          | lift_lets }; clear_value x)
    | intro x
    | with_reducible exact Keeps.refl _
    | with_reducible apply State.modPlot_keeps
    | split
    | with_reducible apply Keeps.upd
    | exact rfl
    | lift_lets

theorem undoPlot_keeps {w : Nat} {P : PlotId → Bool} {s0 s : State} (old new : Content) (u : Undo) (q : PlotId) (hK : Keeps w P s0 s) (hw : Covers w 201540144 := by exact Covers.of (by assumption) (by decide)) (hP : P q = true := by first | assumption | exact ‹∀ q, P q = true› _) :
    Keeps w P s0 (undoPlot old new u s q) := by
  unfold undoPlot
  repeat' first
    | with_reducible assumption
    | with_reducible exact Covers.of hw (by decide)
    | with_reducible apply Same.mk
    | with_reducible exact .inr rfl
    | exact .inl (hw.bit _ (by decide))
    | exact .inr (fun _ _ => rfl)
    | (intro x; have hx : Keeps w P s0 x := by { dsimp only [x]; repeat' first
          | with_reducible assumption
          | with_reducible exact Covers.of hw (by decide)
          | with_reducible apply Same.mk
          | with_reducible exact .inr rfl
          | exact .inl (hw.bit _ (by decide))
          | exact .inr (fun _ _ => rfl)
          | with_reducible exact Keeps.refl _
          | with_reducible apply State.modPlot_keeps
          | with_reducible apply State.modPlt_keeps
          | with_reducible apply State.setPlotState_keeps
          | with_reducible apply undoMemory_keeps
          | with_reducible apply undoEngines_keeps
          | split
          | with_reducible apply Keeps.upd
          | exact rfl
          | intro y
          | lift_lets }; clear_value x)
    | intro x
    | with_reducible exact Keeps.refl _
    | with_reducible apply State.modPlot_keeps
    | with_reducible apply State.modPlt_keeps
    | with_reducible apply State.setPlotState_keeps
    | with_reducible apply undoMemory_keeps
    | with_reducible apply undoEngines_keeps
    | split
    | with_reducible apply Keeps.upd
    | exact rfl
    | lift_lets

theorem unapplyBundle_keeps {w : Nat} {P : PlotId → Bool} {s0 s : State} (u : Undo) (hK : Keeps w P s0 s) (hw : Covers w 201540272 := by exact Covers.of (by assumption) (by decide)) (hP : ∀ q, P q = true := by assumption) :
    Keeps w P s0 (unapplyBundle s u) := by
  unfold unapplyBundle
  repeat' first
    | with_reducible assumption
    | with_reducible exact Covers.of hw (by decide)
    | with_reducible exact .inl hP
    | with_reducible exact hP _
    | with_reducible apply Same.mk
    | with_reducible exact .inr rfl
    | exact .inl (hw.bit _ (by decide))
    | exact .inr (fun _ _ => rfl)
    | (intro x; have hx : Keeps w P s0 x := by { dsimp only [x]; repeat' first
          | with_reducible assumption
          | with_reducible exact Covers.of hw (by decide)
          | with_reducible exact .inl hP
          | with_reducible exact hP _
          | with_reducible apply Same.mk
          | with_reducible exact .inr rfl
          | exact .inl (hw.bit _ (by decide))
          | exact .inr (fun _ _ => rfl)
          | with_reducible exact Keeps.refl _
          | with_reducible apply State.modCfg_keeps
          | with_reducible apply undoPlot_keeps
          | with_reducible apply Keeps.eachPlot
          | split
          | with_reducible apply Keeps.upd
          | exact rfl
          | intro y
          | lift_lets }; clear_value x)
    | intro x
    | with_reducible exact Keeps.refl _
    | with_reducible apply State.modCfg_keeps
    | with_reducible apply undoPlot_keeps
    | with_reducible apply Keeps.eachPlot
    | split
    | with_reducible apply Keeps.upd
    | exact rfl
    | lift_lets

theorem unapply_keeps {w : Nat} {P : PlotId → Bool} {s0 s : State} (u : Undo) (late : List PlotId) (hK : Keeps w P s0 s) (hw : Covers w 201541304 := by exact Covers.of (by assumption) (by decide)) (hP : ∀ q, P q = true := by assumption) :
    Keeps w P s0 (unapply s u late) := by
  unfold unapply
  repeat' first
    | with_reducible assumption
    | with_reducible exact Covers.of hw (by decide)
    | with_reducible exact .inl hP
    | with_reducible exact hP _
    | (intro x; have hx : Keeps w P s0 x := by { dsimp only [x]; repeat' first
          | with_reducible assumption
          | with_reducible exact Covers.of hw (by decide)
          | with_reducible exact .inl hP
          | with_reducible exact hP _
          | with_reducible exact Keeps.refl _
          | with_reducible apply unapplyPlot_keeps
          | with_reducible apply unapplyBundle_keeps
          | with_reducible apply Keeps.eachPlot
          | split
          | intro y
          | lift_lets }; clear_value x)
    | intro x
    | with_reducible exact Keeps.refl _
    | with_reducible apply unapplyPlot_keeps
    | with_reducible apply unapplyBundle_keeps
    | with_reducible apply Keeps.eachPlot
    | split
    | lift_lets

/-! ### Sys2Proof/Machine/Commit.lean -/

theorem outWrites_keeps {w : Nat} {P : PlotId → Bool} {s0 s : State} (q : PlotId) (i : BitVec 16) (l : List (Nat × List Byte))
    (h : Keeps w P s0 s) (hw : Covers w 137053744 := by exact Covers.of (by assumption) (by decide))
    (hP : P q = true := by first | assumption | exact ‹∀ q, P q = true› _) : Keeps w P s0 (outWrites s q i l) := by
  induction l generalizing s with
  | nil => exact h
  | cons x l ih =>
    obtain ⟨off, bs⟩ := x
    unfold outWrites
    split
    · exact h
    · split
      · split
        · exact chargeFault_keeps _ _ _ _ h
        · exact h
      · exact ih (State.emit_keeps (State.modPlt_keeps _ _ h) _)

theorem programDone_keeps {w : Nat} {P : PlotId → Bool} {s0 s : State} (q : PlotId) (i : BitVec 16) (hK : Keeps w P s0 s) (hw : Covers w 137315888 := by exact Covers.of (by assumption) (by decide)) (hP : ∀ q, P q = true := by assumption) :
    Keeps w P s0 (programDone s q i) := by
  unfold programDone
  repeat' first
    | with_reducible assumption
    | with_reducible exact Covers.of hw (by decide)
    | with_reducible exact .inl hP
    | with_reducible exact hP _
    | with_reducible apply Same.mk
    | with_reducible exact .inr rfl
    | exact .inl (hw.bit _ (by decide))
    | exact .inr (fun _ _ => rfl)
    | (intro x; have hx : Keeps w P s0 x := by { dsimp only [x]; repeat' first
          | with_reducible assumption
          | with_reducible exact Covers.of hw (by decide)
          | with_reducible exact .inl hP
          | with_reducible exact hP _
          | with_reducible apply Same.mk
          | with_reducible exact .inr rfl
          | exact .inl (hw.bit _ (by decide))
          | exact .inr (fun _ _ => rfl)
          | with_reducible exact Keeps.refl _
          | with_reducible apply State.modJob_keeps
          | with_reducible apply chargeFault_keeps
          | with_reducible apply carryOpen_keeps
          | split
          | with_reducible apply Keeps.upd
          | exact rfl
          | intro y
          | lift_lets }; clear_value x)
    | intro x
    | with_reducible exact Keeps.refl _
    | with_reducible apply State.modJob_keeps
    | with_reducible apply chargeFault_keeps
    | with_reducible apply carryOpen_keeps
    | split
    | with_reducible apply Keeps.upd
    | exact rfl
    | lift_lets

theorem regainJob_keeps {w : Nat} {P : PlotId → Bool} {s0 s : State} (q : PlotId) (i : BitVec 16) (hK : Keeps w P s0 s) (hP : P q = true := by first | assumption | exact ‹∀ q, P q = true› _) :
    Keeps w P s0 (regainJob s q i) := by
  unfold regainJob
  repeat' first
    | with_reducible assumption
    | with_reducible apply Same.mk
    | with_reducible exact .inr rfl
    | exact .inr (fun _ _ => rfl)
    | (intro x; have hx : Keeps w P s0 x := by { dsimp only [x]; repeat' first
          | with_reducible assumption
          | with_reducible apply Same.mk
          | with_reducible exact .inr rfl
          | exact .inr (fun _ _ => rfl)
          | with_reducible exact Keeps.refl _
          | with_reducible apply State.modPlot_keeps
          | split
          | with_reducible apply Keeps.upd
          | exact rfl
          | intro y
          | lift_lets }; clear_value x)
    | intro x
    | with_reducible exact Keeps.refl _
    | with_reducible apply State.modPlot_keeps
    | split
    | with_reducible apply Keeps.upd
    | exact rfl
    | lift_lets

theorem takeReport_keeps {w : Nat} {P : PlotId → Bool} {s0 s : State} (r : FrameReport) (hK : Keeps w P s0 s) (hw : Covers w 137315888 := by exact Covers.of (by assumption) (by decide)) (hP : ∀ q, P q = true := by assumption) :
    Keeps w P s0 (takeReport s r) := by
  unfold takeReport
  repeat' first
    | with_reducible assumption
    | with_reducible exact Covers.of hw (by decide)
    | with_reducible exact .inl hP
    | with_reducible exact hP _
    | (intro x; have hx : Keeps w P s0 x := by { dsimp only [x]; repeat' first
          | with_reducible assumption
          | with_reducible exact Covers.of hw (by decide)
          | with_reducible exact .inl hP
          | with_reducible exact hP _
          | with_reducible exact Keeps.refl _
          | with_reducible apply outWrites_keeps
          | with_reducible apply programDone_keeps
          | with_reducible apply regainJob_keeps
          | split
          | intro y
          | lift_lets }; clear_value x)
    | intro x
    | with_reducible exact Keeps.refl _
    | with_reducible apply outWrites_keeps
    | with_reducible apply programDone_keeps
    | with_reducible apply regainJob_keeps
    | split
    | lift_lets

theorem step1Plot_keeps {w : Nat} {P : PlotId → Bool} {s0 s : State} (q : PlotId) (hK : Keeps w P s0 s) (hw : Covers w 134218808 := by exact Covers.of (by assumption) (by decide)) (hP : P q = true := by first | assumption | exact ‹∀ q, P q = true› _) :
    Keeps w P s0 (step1Plot s q) := by
  unfold step1Plot
  repeat' first
    | with_reducible assumption
    | with_reducible exact Covers.of hw (by decide)
    | with_reducible apply Same.mk
    | with_reducible exact .inr rfl
    | exact .inl (hw.bit _ (by decide))
    | exact .inr (fun _ _ => rfl)
    | (intro x; have hx : Keeps w P s0 x := by { dsimp only [x]; repeat' first
          | with_reducible assumption
          | with_reducible exact Covers.of hw (by decide)
          | with_reducible apply Same.mk
          | with_reducible exact .inr rfl
          | exact .inl (hw.bit _ (by decide))
          | exact .inr (fun _ _ => rfl)
          | with_reducible exact Keeps.refl _
          | with_reducible apply State.modPlot_keeps
          | with_reducible apply recordOverrun_keeps
          | with_reducible apply parkAll_keeps
          | with_reducible apply Keeps.foldl
          | split
          | with_reducible apply Keeps.upd
          | exact rfl
          | intro y
          | lift_lets }; clear_value x)
    | intro x
    | with_reducible exact Keeps.refl _
    | with_reducible apply State.modPlot_keeps
    | with_reducible apply recordOverrun_keeps
    | with_reducible apply parkAll_keeps
    | with_reducible apply Keeps.foldl
    | split
    | with_reducible apply Keeps.upd
    | exact rfl
    | lift_lets

theorem bundleStep1_keeps {w : Nat} {P : PlotId → Bool} {s0 s : State} (h : Keeps w P s0 s) (hw : Covers w 128 := by exact Covers.of (by assumption) (by decide)) (hP : ∀ q, P q = true := by assumption) : Keeps w P s0 (bundleStep1 s).1 := by
  have clear : ∀ t, Keeps w P s0 t →
      Keeps w P s0 (t.eachPlot allPlots (fun s q => s.modCfgSet q (fun x => { x with waited := false }))) :=
    fun t k => k.eachPlot (fun _ _ m => State.modCfgSet_keeps _ _ m)
  unfold bundleStep1
  dsimp only
  split
  · exact clear _ (State.modCfg_keeps _ h)
  · split
    · exact clear _ (State.modCfg_keeps _ h)
    · split
      · exact Keeps.eachPlot (State.modCfg_keeps _ h) (fun _ _ m => State.modCfgSet_keeps _ _ m)
      · exact h

theorem abandonLate_keeps {w : Nat} {P : PlotId → Bool} {s0 s : State} (q : PlotId) (hK : Keeps w P s0 s) (hw : Covers w 137053744 := by exact Covers.of (by assumption) (by decide)) (hP : P q = true := by first | assumption | exact ‹∀ q, P q = true› _) :
    Keeps w P s0 (abandonLate s q) := by
  unfold abandonLate
  repeat' first
    | with_reducible assumption
    | with_reducible exact Covers.of hw (by decide)
    | (intro x; have hx : Keeps w P s0 x := by { dsimp only [x]; repeat' first
          | with_reducible assumption
          | with_reducible exact Covers.of hw (by decide)
          | with_reducible exact Keeps.refl _
          | with_reducible apply beginAbandon_keeps
          | with_reducible apply Keeps.foldl
          | intro y
          | lift_lets }; clear_value x)
    | intro x
    | with_reducible exact Keeps.refl _
    | with_reducible apply beginAbandon_keeps
    | with_reducible apply Keeps.foldl
    | lift_lets

theorem overrunLine_keeps {w : Nat} {P : PlotId → Bool} {s0 s : State} (q : PlotId) (hK : Keeps w P s0 s) (hw : Covers w 134218800 := by exact Covers.of (by assumption) (by decide)) (hP : P q = true := by first | assumption | exact ‹∀ q, P q = true› _) :
    Keeps w P s0 (overrunLine s q) := by
  unfold overrunLine
  repeat' first
    | with_reducible assumption
    | with_reducible exact Covers.of hw (by decide)
    | with_reducible apply Same.mk
    | with_reducible exact .inr rfl
    | exact .inl (hw.bit _ (by decide))
    | exact .inr (fun _ _ => rfl)
    | (intro x; have hx : Keeps w P s0 x := by { dsimp only [x]; repeat' first
          | with_reducible assumption
          | with_reducible exact Covers.of hw (by decide)
          | with_reducible apply Same.mk
          | with_reducible exact .inr rfl
          | exact .inl (hw.bit _ (by decide))
          | exact .inr (fun _ _ => rfl)
          | with_reducible exact Keeps.refl _
          | with_reducible apply State.modPlt_keeps
          | with_reducible apply State.logLine_keeps
          | with_reducible apply State.logSuppressed_keeps
          | split
          | with_reducible apply Keeps.upd
          | exact rfl
          | intro y
          | lift_lets }; clear_value x)
    | intro x
    | with_reducible exact Keeps.refl _
    | with_reducible apply State.modPlt_keeps
    | with_reducible apply State.logLine_keeps
    | with_reducible apply State.logSuppressed_keeps
    | split
    | with_reducible apply Keeps.upd
    | exact rfl
    | lift_lets

theorem latchPlot_keeps {w : Nat} {P : PlotId → Bool} {s0 s : State} (q : PlotId) (hK : Keeps w P s0 s) (hP : P q = true := by first | assumption | exact ‹∀ q, P q = true› _) :
    Keeps w P s0 (latchPlot s q) := by
  unfold latchPlot
  repeat' first
    | with_reducible assumption
    | with_reducible apply Same.mk
    | with_reducible exact .inr rfl
    | exact .inr (fun _ _ => rfl)
    | (intro x; have hx : Keeps w P s0 x := by { dsimp only [x]; repeat' first
          | with_reducible assumption
          | with_reducible apply Same.mk
          | with_reducible exact .inr rfl
          | exact .inr (fun _ _ => rfl)
          | with_reducible exact Keeps.refl _
          | with_reducible apply State.modPlot_keeps
          | with_reducible apply latchFlash_keeps
          | split
          | with_reducible apply Keeps.upd
          | exact rfl
          | intro y
          | lift_lets }; clear_value x)
    | intro x
    | with_reducible exact Keeps.refl _
    | with_reducible apply State.modPlot_keeps
    | with_reducible apply latchFlash_keeps
    | split
    | with_reducible apply Keeps.upd
    | exact rfl
    | lift_lets

theorem latchDevice_keeps {w : Nat} {P : PlotId → Bool} {s0 s : State} (links : List (Nat × Nat × Nat × Nat)) (hK : Keeps w P s0 s) (hw : Covers w 2097664 := by exact Covers.of (by assumption) (by decide)) :
    Keeps w P s0 (latchDevice s links) := by
  unfold latchDevice
  repeat' first
    | with_reducible assumption
    | with_reducible exact Covers.of hw (by decide)
    | with_reducible apply Same.mk
    | with_reducible exact .inr rfl
    | exact .inl (hw.bit _ (by decide))
    | exact .inr (fun _ _ => rfl)
    | intro x
    | with_reducible exact Keeps.refl _
    | with_reducible apply Keeps.upd
    | exact rfl

theorem steps34_keeps {w : Nat} {P : PlotId → Bool} {s0 s : State} (j : Option (Bundle × Option Nat)) (hK : Keeps w P s0 s) (hw : Covers w 204163000 := by exact Covers.of (by assumption) (by decide)) (hP : ∀ q, P q = true := by assumption) :
    Keeps w P s0 (steps34 s j) := by
  unfold steps34
  repeat' first
    | with_reducible assumption
    | with_reducible exact Covers.of hw (by decide)
    | with_reducible exact .inl hP
    | with_reducible exact hP _
    | with_reducible apply Same.mk
    | with_reducible exact .inr rfl
    | exact .inl (hw.bit _ (by decide))
    | exact .inr (fun _ _ => rfl)
    | (intro x; have hx : Keeps w P s0 x := by { dsimp only [x]; repeat' first
          | with_reducible assumption
          | with_reducible exact Covers.of hw (by decide)
          | with_reducible exact .inl hP
          | with_reducible exact hP _
          | with_reducible apply Same.mk
          | with_reducible exact .inr rfl
          | exact .inl (hw.bit _ (by decide))
          | exact .inr (fun _ _ => rfl)
          | with_reducible exact Keeps.refl _
          | with_reducible apply State.modCfgSet_keeps
          | with_reducible apply refusePlot_keeps
          | with_reducible apply refuseBundle_keeps
          | with_reducible apply applyBundle_keeps
          | with_reducible apply applyPlot_keeps
          | with_reducible apply Keeps.foldl
          | split
          | with_reducible apply Keeps.upd
          | exact rfl
          | intro y
          | lift_lets }; clear_value x)
    | intro x
    | with_reducible exact Keeps.refl _
    | with_reducible apply State.modCfgSet_keeps
    | with_reducible apply refusePlot_keeps
    | with_reducible apply refuseBundle_keeps
    | with_reducible apply applyBundle_keeps
    | with_reducible apply applyPlot_keeps
    | with_reducible apply Keeps.foldl
    | split
    | with_reducible apply Keeps.upd
    | exact rfl
    | lift_lets

theorem publishJob_keeps {w : Nat} {P : PlotId → Bool} {s0 s : State} (q : PlotId) (j : Job) (h : Keeps w P s0 s) (hw : Covers w 201392672 := by exact Covers.of (by assumption) (by decide))
    (hP : ∀ q, P q = true := by assumption) : Keeps w P s0 (publishJob s q j) := by
  unfold publishJob
  lift_lets
  intro s1 s2 s3 s4 s5 s6
  have h2 : Keeps w P s0 s2 := publishFlash_keeps _ _ (publishPages_keeps _ _ h)
  have h3 : Keeps w P s0 s3 := by
    dsimp only [s3]
    split
    · exact recordEnd_keeps _ h2
    · exact h2
  have h4 : Keeps w P s0 s4 := State.modFln_keeps _ _ h3
  have h5 : Keeps w P s0 s5 := by
    dsimp only [s5]
    split
    · exact State.modPlot_keeps _ _ h4
    · exact h4
  have h6 : Keeps w P s0 s6 := Keeps.upd h5 rfl rfl rfl rfl rfl
  exact State.modPlt_keeps _ _ h6

theorem releaseClaims_keeps {w : Nat} {P : PlotId → Bool} {s0 s : State} (q : PlotId) (hK : Keeps w P s0 s) (hw : Covers w 204161584 := by exact Covers.of (by assumption) (by decide)) (hP : ∀ q, P q = true := by assumption) :
    Keeps w P s0 (releaseClaims s q) := by
  unfold releaseClaims
  repeat' first
    | with_reducible assumption
    | with_reducible exact Covers.of hw (by decide)
    | with_reducible exact .inl hP
    | with_reducible exact hP _
    | with_reducible apply Same.mk
    | with_reducible exact .inr rfl
    | exact .inl (hw.bit _ (by decide))
    | exact .inr (fun _ _ => rfl)
    | (intro x; have hx : Keeps w P s0 x := by { dsimp only [x]; repeat' first
          | with_reducible assumption
          | with_reducible exact Covers.of hw (by decide)
          | with_reducible exact .inl hP
          | with_reducible exact hP _
          | with_reducible apply Same.mk
          | with_reducible exact .inr rfl
          | exact .inl (hw.bit _ (by decide))
          | exact .inr (fun _ _ => rfl)
          | with_reducible exact Keeps.refl _
          | with_reducible apply State.modPlt_keeps
          | with_reducible apply State.setPlotState_keeps
          | with_reducible apply reviewPlot_keeps
          | with_reducible apply publishJob_keeps
          | with_reducible apply Keeps.foldl
          | split
          | with_reducible apply Keeps.upd
          | exact rfl
          | intro y
          | lift_lets }; clear_value x)
    | intro x
    | with_reducible exact Keeps.refl _
    | with_reducible apply State.modPlt_keeps
    | with_reducible apply State.setPlotState_keeps
    | with_reducible apply reviewPlot_keeps
    | with_reducible apply publishJob_keeps
    | with_reducible apply Keeps.foldl
    | split
    | with_reducible apply Keeps.upd
    | exact rfl
    | lift_lets

theorem admitJob_keeps {w : Nat} {P : PlotId → Bool} {s0 s : State} (q : PlotId) (d : Desc) (i : Image) (hK : Keeps w P s0 s) (hw : Covers w 134217840 := by exact Covers.of (by assumption) (by decide)) (hP : P q = true := by first | assumption | exact ‹∀ q, P q = true› _) :
    Keeps w P s0 (admitJob s q d i) := by
  unfold admitJob
  repeat' first
    | with_reducible assumption
    | with_reducible exact Covers.of hw (by decide)
    | with_reducible apply Same.mk
    | with_reducible exact .inr rfl
    | exact .inl (hw.bit _ (by decide))
    | exact .inr (fun _ _ => rfl)
    | (intro x; have hx : Keeps w P s0 x := by { dsimp only [x]; repeat' first
          | with_reducible assumption
          | with_reducible exact Covers.of hw (by decide)
          | with_reducible apply Same.mk
          | with_reducible exact .inr rfl
          | exact .inl (hw.bit _ (by decide))
          | exact .inr (fun _ _ => rfl)
          | with_reducible exact Keeps.refl _
          | with_reducible apply State.modPlot_keeps
          | with_reducible apply State.setPlotState_keeps
          | with_reducible apply resetLanes_keeps
          | with_reducible apply startFetch_keeps
          | split
          | with_reducible apply Keeps.upd
          | exact rfl
          | intro y
          | lift_lets }; clear_value x)
    | intro x
    | with_reducible exact Keeps.refl _
    | with_reducible apply State.modPlot_keeps
    | with_reducible apply State.setPlotState_keeps
    | with_reducible apply resetLanes_keeps
    | with_reducible apply startFetch_keeps
    | split
    | with_reducible apply Keeps.upd
    | exact rfl
    | lift_lets

theorem considerHead_keeps {w : Nat} {P : PlotId → Bool} {s0 s : State} (held : List (PlotId × Nat)) (q : PlotId) (hK : Keeps w P s0 s) (hw : Covers w 134217840 := by exact Covers.of (by assumption) (by decide)) (hP : P q = true := by first | assumption | exact ‹∀ q, P q = true› _) :
    Keeps w P s0 (considerHead held s q) := by
  unfold considerHead
  repeat' first
    | with_reducible assumption
    | with_reducible exact Covers.of hw (by decide)
    | (intro x; have hx : Keeps w P s0 x := by { dsimp only [x]; repeat' first
          | with_reducible assumption
          | with_reducible exact Covers.of hw (by decide)
          | with_reducible exact Keeps.refl _
          | with_reducible apply completeUnran_keeps
          | with_reducible apply admitJob_keeps
          | split
          | intro y
          | lift_lets }; clear_value x)
    | intro x
    | with_reducible exact Keeps.refl _
    | with_reducible apply completeUnran_keeps
    | with_reducible apply admitJob_keeps
    | split
    | lift_lets

theorem step6_keeps {w : Nat} {P : PlotId → Bool} {s0 s : State} (hK : Keeps w P s0 s) (hw : Covers w 204161656 := by exact Covers.of (by assumption) (by decide)) (hP : ∀ q, P q = true := by assumption) :
    Keeps w P s0 (step6 s) := by
  unfold step6
  repeat' first
    | with_reducible assumption
    | with_reducible exact Covers.of hw (by decide)
    | with_reducible exact .inl hP
    | with_reducible exact hP _
    | with_reducible apply Same.mk
    | with_reducible exact .inr rfl
    | exact .inl (hw.bit _ (by decide))
    | exact .inr (fun _ _ => rfl)
    | (intro x; have hx : Keeps w P s0 x := by { dsimp only [x]; repeat' first
          | with_reducible assumption
          | with_reducible exact Covers.of hw (by decide)
          | with_reducible exact .inl hP
          | with_reducible exact hP _
          | with_reducible apply Same.mk
          | with_reducible exact .inr rfl
          | exact .inl (hw.bit _ (by decide))
          | exact .inr (fun _ _ => rfl)
          | with_reducible exact Keeps.refl _
          | with_reducible apply State.modFrm_keeps
          | with_reducible apply releaseClaims_keeps
          | with_reducible apply considerHead_keeps
          | with_reducible apply Keeps.eachPlot
          | with_reducible apply Keeps.upd
          | exact rfl
          | intro y
          | lift_lets }; clear_value x)
    | intro x
    | with_reducible exact Keeps.refl _
    | with_reducible apply State.modFrm_keeps
    | with_reducible apply releaseClaims_keeps
    | with_reducible apply considerHead_keeps
    | with_reducible apply Keeps.eachPlot
    | with_reducible apply Keeps.upd
    | exact rfl
    | lift_lets

theorem step8Plot_keeps {w : Nat} {P : PlotId → Bool} {s0 s : State} (q : PlotId) (hK : Keeps w P s0 s) (hw : Covers w 134220850 := by exact Covers.of (by assumption) (by decide)) (hP : P q = true := by first | assumption | exact ‹∀ q, P q = true› _) :
    Keeps w P s0 (step8Plot s q) := by
  unfold step8Plot
  repeat' first
    | with_reducible assumption
    | with_reducible exact Covers.of hw (by decide)
    | with_reducible apply Same.mk
    | with_reducible exact .inr rfl
    | exact .inl (hw.bit _ (by decide))
    | exact .inr (fun _ _ => rfl)
    | (intro x; have hx : Keeps w P s0 x := by { dsimp only [x]; repeat' first
          | with_reducible assumption
          | with_reducible exact Covers.of hw (by decide)
          | with_reducible apply Same.mk
          | with_reducible exact .inr rfl
          | exact .inl (hw.bit _ (by decide))
          | exact .inr (fun _ _ => rfl)
          | with_reducible exact Keeps.refl _
          | with_reducible apply State.modPlt_keeps
          | with_reducible apply formRecord_keeps
          | with_reducible apply writeFormed_keeps
          | with_reducible apply Keeps.foldl
          | with_reducible apply Keeps.upd
          | exact rfl
          | intro y
          | lift_lets }; clear_value x)
    | intro x
    | with_reducible exact Keeps.refl _
    | with_reducible apply State.modPlt_keeps
    | with_reducible apply formRecord_keeps
    | with_reducible apply writeFormed_keeps
    | with_reducible apply Keeps.foldl
    | with_reducible apply Keeps.upd
    | exact rfl
    | lift_lets

theorem commitWindow_keeps {w : Nat} {P : PlotId → Bool} {s0 s : State} (r : WindowReport) (hK : Keeps w P s0 s) (hw : Covers w 221204475 := by exact Covers.of (by assumption) (by decide)) (hP : ∀ q, P q = true := by assumption) :
    Keeps w P s0 (commitWindow s r) := by
  unfold commitWindow
  repeat' first
    | with_reducible assumption
    | with_reducible exact Covers.of hw (by decide)
    | with_reducible exact .inl hP
    | with_reducible exact hP _
    | with_reducible apply Same.mk
    | with_reducible exact .inr rfl
    | exact .inl (hw.bit _ (by decide))
    | exact .inr (fun _ _ => rfl)
    | (intro x; have hx : Keeps w P s0 x := by { dsimp only [x]; repeat' first
          | with_reducible assumption
          | with_reducible exact Covers.of hw (by decide)
          | with_reducible exact .inl hP
          | with_reducible exact hP _
          | with_reducible apply Same.mk
          | with_reducible exact .inr rfl
          | exact .inl (hw.bit _ (by decide))
          | exact .inr (fun _ _ => rfl)
          | with_reducible exact Keeps.refl _
          | with_reducible apply State.modPlot_keeps
          | with_reducible apply State.modFrm_keeps
          | with_reducible apply State.advanceTo_keeps
          | with_reducible apply normaliseBanks_keeps
          | with_reducible apply State.modCfg_keeps
          | with_reducible apply takeReport_keeps
          | with_reducible apply step1Plot_keeps
          | with_reducible apply bundleStep1_keeps
          | with_reducible apply abandonLate_keeps
          | with_reducible apply overrunLine_keeps
          | with_reducible apply latchPlot_keeps
          | with_reducible apply latchDevice_keeps
          | with_reducible apply steps34_keeps
          | with_reducible apply step6_keeps
          | with_reducible apply step8Plot_keeps
          | refine Keeps.of_fst (by assumption) ?_
          | with_reducible apply Keeps.foldl
          | with_reducible apply Keeps.eachPlot
          | split
          | with_reducible apply Keeps.upd
          | exact rfl
          | intro y
          | lift_lets }; clear_value x)
    | intro x
    | with_reducible exact Keeps.refl _
    | with_reducible apply State.modPlot_keeps
    | with_reducible apply State.modFrm_keeps
    | with_reducible apply State.advanceTo_keeps
    | with_reducible apply normaliseBanks_keeps
    | with_reducible apply State.modCfg_keeps
    | with_reducible apply takeReport_keeps
    | with_reducible apply step1Plot_keeps
    | with_reducible apply bundleStep1_keeps
    | with_reducible apply abandonLate_keeps
    | with_reducible apply overrunLine_keeps
    | with_reducible apply latchPlot_keeps
    | with_reducible apply latchDevice_keeps
    | with_reducible apply steps34_keeps
    | with_reducible apply step6_keeps
    | with_reducible apply step8Plot_keeps
    | refine Keeps.of_fst (by assumption) ?_
    | with_reducible apply Keeps.foldl
    | with_reducible apply Keeps.eachPlot
    | split
    | with_reducible apply Keeps.upd
    | exact rfl
    | lift_lets

theorem budgetOverrun_keeps {w : Nat} {P : PlotId → Bool} {s0 s : State} (q : PlotId) (i : BitVec 16) (claim : Nat) (hK : Keeps w P s0 s) (hw : Covers w 136905784 := by exact Covers.of (by assumption) (by decide)) (hP : P q = true := by first | assumption | exact ‹∀ q, P q = true› _) :
    Keeps w P s0 (budgetOverrun s q i claim) := by
  unfold budgetOverrun
  repeat' first
    | with_reducible assumption
    | with_reducible exact Covers.of hw (by decide)
    | intro x
    | with_reducible exact Keeps.refl _
    | with_reducible apply stopProgram_keeps
    | with_reducible apply recordOverrun_keeps
    | split

end Sys2Proof.Machine
end

