-- ==== Sys2Proof/Laws/KeepsFrame.lean ====
section
/-!
SUPPORT. Sys2Proof/Laws/KeepsFrame.lean: the operations over the frame clock, flags and the host link keep what Keeps says.
-/
namespace Sys2Proof.Machine

set_option Elab.async false
set_option linter.all false

/-! ### Sys2Proof/Machine/Frame.lean -/

theorem readInput_keeps {w : Nat} {P : PlotId → Bool} {s0 s : State} (q : PlotId) (j : Job) (hK : Keeps w P s0 s) (hw : Covers w 134217792 := by exact Covers.of (by assumption) (by decide)) :
    Keeps w P s0 (readInput s q j) := by
  unfold readInput
  repeat' first
    | with_reducible assumption
    | with_reducible exact Covers.of hw (by decide)
    | intro x
    | with_reducible exact Keeps.refl _
    | with_reducible apply State.hostRead_keeps
    | split

theorem startAttempt_keeps {w : Nat} {P : PlotId → Bool} {s0 s : State} (q : PlotId) (j : Job) (hK : Keeps w P s0 s) (hw : Covers w 134217824 := by exact Covers.of (by assumption) (by decide)) (hP : P q = true := by first | assumption | exact ‹∀ q, P q = true› _) :
    Keeps w P s0 (startAttempt s q j) := by
  unfold startAttempt
  repeat' first
    | with_reducible assumption
    | with_reducible exact Covers.of hw (by decide)
    | with_reducible apply Same.mk
    | with_reducible exact .inr rfl
    | exact .inl (hw.bit _ (by decide))
    | exact .inr (fun _ _ => rfl)
    | (intro x; have hx : Keeps w P s0 x := by { dsimp only [x]; repeat' first
          | with_reducible assumption
          | with_reducible exact Covers.of hw (by decide)
          | with_reducible apply Same.mk
          | with_reducible exact .inr rfl
          | exact .inl (hw.bit _ (by decide))
          | exact .inr (fun _ _ => rfl)
          | with_reducible exact Keeps.refl _
          | with_reducible apply State.modPlt_keeps
          | with_reducible apply State.modJob_keeps
          | with_reducible apply takeFabric_keeps
          | with_reducible apply readInput_keeps
          | split
          | with_reducible apply Keeps.upd
          | exact rfl
          | intro y
          | lift_lets }; clear_value x)
    | intro x
    | with_reducible exact Keeps.refl _
    | with_reducible apply State.modPlt_keeps
    | with_reducible apply State.modJob_keeps
    | with_reducible apply takeFabric_keeps
    | with_reducible apply readInput_keeps
    | split
    | with_reducible apply Keeps.upd
    | exact rfl
    | lift_lets

theorem startFrame_keeps {w : Nat} {P : PlotId → Bool} {s0 s : State} (q : PlotId) (hK : Keeps w P s0 s) (hw : Covers w 134217824 := by exact Covers.of (by assumption) (by decide)) (hP : P q = true := by first | assumption | exact ‹∀ q, P q = true› _) :
    Keeps w P s0 (startFrame s q) := by
  unfold startFrame
  repeat' first
    | with_reducible assumption
    | with_reducible exact Covers.of hw (by decide)
    | with_reducible apply Same.mk
    | with_reducible exact .inr rfl
    | exact .inl (hw.bit _ (by decide))
    | exact .inr (fun _ _ => rfl)
    | (intro x; have hx : Keeps w P s0 x := by { dsimp only [x]; repeat' first
          | with_reducible assumption
          | with_reducible exact Covers.of hw (by decide)
          | with_reducible apply Same.mk
          | with_reducible exact .inr rfl
          | exact .inl (hw.bit _ (by decide))
          | exact .inr (fun _ _ => rfl)
          | with_reducible exact Keeps.refl _
          | with_reducible apply State.modPlot_keeps
          | with_reducible apply unparkAll_keeps
          | with_reducible apply startAttempt_keeps
          | with_reducible apply Keeps.foldl
          | split
          | with_reducible apply Keeps.upd
          | exact rfl
          | intro y
          | lift_lets }; clear_value x)
    | intro x
    | with_reducible exact Keeps.refl _
    | with_reducible apply State.modPlot_keeps
    | with_reducible apply unparkAll_keeps
    | with_reducible apply startAttempt_keeps
    | with_reducible apply Keeps.foldl
    | split
    | with_reducible apply Keeps.upd
    | exact rfl
    | lift_lets

theorem ppsLockAt_keeps {w : Nat} {P : PlotId → Bool} {s0 s : State} (t : Nat) (hK : Keeps w P s0 s) (hw : Covers w 134218808 := by exact Covers.of (by assumption) (by decide)) :
    Keeps w P s0 (ppsLockAt s t) := by
  unfold ppsLockAt
  repeat' first
    | with_reducible assumption
    | with_reducible exact Covers.of hw (by decide)
    | with_reducible apply Same.mk
    | with_reducible exact .inr rfl
    | exact .inl (hw.bit _ (by decide))
    | exact .inr (fun _ _ => rfl)
    | intro x
    | with_reducible exact Keeps.refl _
    | with_reducible apply State.modFrm_keeps
    | with_reducible apply State.frmEvent_keeps
    | split
    | with_reducible apply Keeps.upd
    | exact rfl

theorem ppsAcquire_keeps {w : Nat} {P : PlotId → Bool} {s0 s : State} (hK : Keeps w P s0 s) (hw : Covers w 8 := by exact Covers.of (by assumption) (by decide)) :
    Keeps w P s0 (ppsAcquire s) := by
  unfold ppsAcquire
  repeat' first
    | with_reducible assumption
    | with_reducible exact Covers.of hw (by decide)
    | with_reducible apply Same.mk
    | with_reducible exact .inr rfl
    | exact .inl (hw.bit _ (by decide))
    | exact .inr (fun _ _ => rfl)
    | (intro x; have hx : Keeps w P s0 x := by { dsimp only [x]; repeat' first
          | with_reducible assumption
          | with_reducible exact Covers.of hw (by decide)
          | with_reducible apply Same.mk
          | with_reducible exact .inr rfl
          | exact .inl (hw.bit _ (by decide))
          | exact .inr (fun _ _ => rfl)
          | with_reducible exact Keeps.refl _
          | with_reducible apply State.modFrm_keeps
          | split
          | with_reducible apply Keeps.upd
          | exact rfl
          | intro y
          | lift_lets }; clear_value x)
    | intro x
    | with_reducible exact Keeps.refl _
    | with_reducible apply State.modFrm_keeps
    | split
    | with_reducible apply Keeps.upd
    | exact rfl
    | lift_lets

theorem doTick_keeps {w : Nat} {P : PlotId → Bool} {s0 s : State} (t : Nat) (hK : Keeps w P s0 s) (hw : Covers w 237725561 := by exact Covers.of (by assumption) (by decide)) (hP : ∀ q, P q = true := by assumption) :
    Keeps w P s0 (doTick s t) := by
  unfold doTick
  repeat' first
    | with_reducible assumption
    | with_reducible exact Covers.of hw (by decide)
    | with_reducible exact .inl hP
    | with_reducible exact hP _
    | with_reducible apply Same.mk
    | with_reducible exact .inr rfl
    | exact .inl (hw.bit _ (by decide))
    | exact .inr (fun _ _ => rfl)
    | (intro x; have hx : Keeps w P s0 x := by { dsimp only [x]; repeat' first
          | with_reducible assumption
          | with_reducible exact Covers.of hw (by decide)
          | with_reducible exact .inl hP
          | with_reducible exact hP _
          | with_reducible apply Same.mk
          | with_reducible exact .inr rfl
          | exact .inl (hw.bit _ (by decide))
          | exact .inr (fun _ _ => rfl)
          | with_reducible exact Keeps.refl _
          | with_reducible apply State.modFrm_keeps
          | with_reducible apply State.advanceTo_keeps
          | with_reducible apply latchIngest_keeps
          | with_reducible apply resumeLanes_keeps
          | with_reducible apply startFrame_keeps
          | with_reducible apply ppsLockAt_keeps
          | with_reducible apply ppsAcquire_keeps
          | with_reducible apply Keeps.eachPlot
          | split
          | with_reducible apply Keeps.upd
          | exact rfl
          | intro y
          | lift_lets }; clear_value x)
    | intro x
    | with_reducible exact Keeps.refl _
    | with_reducible apply State.modFrm_keeps
    | with_reducible apply State.advanceTo_keeps
    | with_reducible apply latchIngest_keeps
    | with_reducible apply resumeLanes_keeps
    | with_reducible apply startFrame_keeps
    | with_reducible apply ppsLockAt_keeps
    | with_reducible apply ppsAcquire_keeps
    | with_reducible apply Keeps.eachPlot
    | split
    | with_reducible apply Keeps.upd
    | exact rfl
    | lift_lets

theorem tickNow_keeps {w : Nat} {P : PlotId → Bool} {s0 s : State} (hK : Keeps w P s0 s) (hw : Covers w 237725561 := by exact Covers.of (by assumption) (by decide)) (hP : ∀ q, P q = true := by assumption) :
    Keeps w P s0 (tickNow s) := by
  unfold tickNow
  repeat' first
    | with_reducible assumption
    | with_reducible exact Covers.of hw (by decide)
    | with_reducible exact .inl hP
    | with_reducible exact hP _
    | with_reducible apply Same.mk
    | with_reducible exact .inr rfl
    | exact .inl (hw.bit _ (by decide))
    | exact .inr (fun _ _ => rfl)
    | (intro x; have hx : Keeps w P s0 x := by { dsimp only [x]; repeat' first
          | with_reducible assumption
          | with_reducible exact Covers.of hw (by decide)
          | with_reducible exact .inl hP
          | with_reducible exact hP _
          | with_reducible apply Same.mk
          | with_reducible exact .inr rfl
          | exact .inl (hw.bit _ (by decide))
          | exact .inr (fun _ _ => rfl)
          | with_reducible exact Keeps.refl _
          | with_reducible apply State.modFrm_keeps
          | with_reducible apply State.frmEvent_keeps
          | with_reducible apply doTick_keeps
          | split
          | with_reducible apply Keeps.upd
          | exact rfl
          | intro y
          | lift_lets }; clear_value x)
    | intro x
    | with_reducible exact Keeps.refl _
    | with_reducible apply State.modFrm_keeps
    | with_reducible apply State.frmEvent_keeps
    | with_reducible apply doTick_keeps
    | split
    | with_reducible apply Keeps.upd
    | exact rfl
    | lift_lets

theorem holdoffTimeout_keeps {w : Nat} {P : PlotId → Bool} {s0 s : State} (late : List PlotId) (hK : Keeps w P s0 s) (hw : Covers w 237725689 := by exact Covers.of (by assumption) (by decide)) (hP : ∀ q, P q = true := by assumption) :
    Keeps w P s0 (holdoffTimeout s late) := by
  unfold holdoffTimeout
  repeat' first
    | with_reducible assumption
    | with_reducible exact Covers.of hw (by decide)
    | with_reducible exact .inl hP
    | with_reducible exact hP _
    | with_reducible apply Same.mk
    | with_reducible exact .inr rfl
    | exact .inl (hw.bit _ (by decide))
    | exact .inr (fun _ _ => rfl)
    | (intro x; have hx : Keeps w P s0 x := by { dsimp only [x]; repeat' first
          | with_reducible assumption
          | with_reducible exact Covers.of hw (by decide)
          | with_reducible exact .inl hP
          | with_reducible exact hP _
          | with_reducible apply Same.mk
          | with_reducible exact .inr rfl
          | exact .inl (hw.bit _ (by decide))
          | exact .inr (fun _ _ => rfl)
          | with_reducible exact Keeps.refl _
          | with_reducible apply State.modFrm_keeps
          | with_reducible apply State.frmEvent_keeps
          | with_reducible apply recordOverrun_keeps
          | with_reducible apply unapply_keeps
          | with_reducible apply abandonLate_keeps
          | with_reducible apply overrunLine_keeps
          | with_reducible apply doTick_keeps
          | with_reducible apply Keeps.foldl
          | with_reducible apply Keeps.eachPlot
          | split
          | with_reducible apply Keeps.upd
          | exact rfl
          | intro y
          | lift_lets }; clear_value x)
    | intro x
    | with_reducible exact Keeps.refl _
    | with_reducible apply State.modFrm_keeps
    | with_reducible apply State.frmEvent_keeps
    | with_reducible apply recordOverrun_keeps
    | with_reducible apply unapply_keeps
    | with_reducible apply abandonLate_keeps
    | with_reducible apply overrunLine_keeps
    | with_reducible apply doTick_keeps
    | with_reducible apply Keeps.foldl
    | with_reducible apply Keeps.eachPlot
    | split
    | with_reducible apply Keeps.upd
    | exact rfl
    | lift_lets

theorem plantOut_keeps {w : Nat} {P : PlotId → Bool} {s0 s : State} (hK : Keeps w P s0 s) (hw : Covers w 8 := by exact Covers.of (by assumption) (by decide)) :
    Keeps w P s0 (plantOut s) := by
  unfold plantOut
  repeat' first
    | with_reducible assumption
    | with_reducible exact Covers.of hw (by decide)
    | with_reducible apply Same.mk
    | with_reducible exact .inr rfl
    | exact .inl (hw.bit _ (by decide))
    | exact .inr (fun _ _ => rfl)
    | intro x
    | with_reducible exact Keeps.refl _
    | with_reducible apply State.modFrm_keeps
    | with_reducible apply Keeps.upd
    | exact rfl

theorem plantTick_keeps {w : Nat} {P : PlotId → Bool} {s0 s : State} (t : Nat) (hK : Keeps w P s0 s) (hw : Covers w 237725561 := by exact Covers.of (by assumption) (by decide)) (hP : ∀ q, P q = true := by assumption) :
    Keeps w P s0 (plantTick s t) := by
  unfold plantTick
  repeat' first
    | with_reducible assumption
    | with_reducible exact Covers.of hw (by decide)
    | with_reducible exact .inl hP
    | with_reducible exact hP _
    | with_reducible apply Same.mk
    | with_reducible exact .inr rfl
    | exact .inl (hw.bit _ (by decide))
    | exact .inr (fun _ _ => rfl)
    | (intro x; have hx : Keeps w P s0 x := by { dsimp only [x]; repeat' first
          | with_reducible assumption
          | with_reducible exact Covers.of hw (by decide)
          | with_reducible exact .inl hP
          | with_reducible exact hP _
          | with_reducible apply Same.mk
          | with_reducible exact .inr rfl
          | exact .inl (hw.bit _ (by decide))
          | exact .inr (fun _ _ => rfl)
          | with_reducible exact Keeps.refl _
          | with_reducible apply State.modFrm_keeps
          | with_reducible apply doTick_keeps
          | split
          | with_reducible apply Keeps.upd
          | exact rfl
          | intro y
          | lift_lets }; clear_value x)
    | intro x
    | with_reducible exact Keeps.refl _
    | with_reducible apply State.modFrm_keeps
    | with_reducible apply doTick_keeps
    | split
    | with_reducible apply Keeps.upd
    | exact rfl
    | lift_lets

theorem designatedMessage_keeps {w : Nat} {P : PlotId → Bool} {s0 s : State} (t : Nat) (hK : Keeps w P s0 s) (hw : Covers w 237725561 := by exact Covers.of (by assumption) (by decide)) (hP : ∀ q, P q = true := by assumption) :
    Keeps w P s0 (designatedMessage s t) := by
  unfold designatedMessage
  repeat' first
    | with_reducible assumption
    | with_reducible exact Covers.of hw (by decide)
    | with_reducible exact .inl hP
    | with_reducible exact hP _
    | with_reducible apply Same.mk
    | with_reducible exact .inr rfl
    | exact .inl (hw.bit _ (by decide))
    | exact .inr (fun _ _ => rfl)
    | (intro x; have hx : Keeps w P s0 x := by { dsimp only [x]; repeat' first
          | with_reducible assumption
          | with_reducible exact Covers.of hw (by decide)
          | with_reducible exact .inl hP
          | with_reducible exact hP _
          | with_reducible apply Same.mk
          | with_reducible exact .inr rfl
          | exact .inl (hw.bit _ (by decide))
          | exact .inr (fun _ _ => rfl)
          | with_reducible exact Keeps.refl _
          | with_reducible apply State.modFrm_keeps
          | with_reducible apply State.frmEvent_keeps
          | with_reducible apply plantOut_keeps
          | with_reducible apply plantTick_keeps
          | split
          | with_reducible apply Keeps.upd
          | exact rfl
          | intro y
          | lift_lets }; clear_value x)
    | intro x
    | with_reducible exact Keeps.refl _
    | with_reducible apply State.modFrm_keeps
    | with_reducible apply State.frmEvent_keeps
    | with_reducible apply plantOut_keeps
    | with_reducible apply plantTick_keeps
    | split
    | with_reducible apply Keeps.upd
    | exact rfl
    | lift_lets

theorem plantMiss_keeps {w : Nat} {P : PlotId → Bool} {s0 s : State} (hold : Bool) (hK : Keeps w P s0 s) (hw : Covers w 134218808 := by exact Covers.of (by assumption) (by decide)) :
    Keeps w P s0 (plantMiss s hold) := by
  unfold plantMiss
  repeat' first
    | with_reducible assumption
    | with_reducible exact Covers.of hw (by decide)
    | with_reducible apply Same.mk
    | with_reducible exact .inr rfl
    | exact .inl (hw.bit _ (by decide))
    | exact .inr (fun _ _ => rfl)
    | (intro x; have hx : Keeps w P s0 x := by { dsimp only [x]; repeat' first
          | with_reducible assumption
          | with_reducible exact Covers.of hw (by decide)
          | with_reducible apply Same.mk
          | with_reducible exact .inr rfl
          | exact .inl (hw.bit _ (by decide))
          | exact .inr (fun _ _ => rfl)
          | with_reducible exact Keeps.refl _
          | with_reducible apply State.modFrm_keeps
          | with_reducible apply State.frmEvent_keeps
          | split
          | with_reducible apply Keeps.upd
          | exact rfl
          | intro y
          | lift_lets }; clear_value x)
    | intro x
    | with_reducible exact Keeps.refl _
    | with_reducible apply State.modFrm_keeps
    | with_reducible apply State.frmEvent_keeps
    | split
    | with_reducible apply Keeps.upd
    | exact rfl
    | lift_lets

theorem windowClose_keeps {w : Nat} {P : PlotId → Bool} {s0 s : State} (hK : Keeps w P s0 s) (hw : Covers w 237725561 := by exact Covers.of (by assumption) (by decide)) (hP : ∀ q, P q = true := by assumption) :
    Keeps w P s0 (windowClose s) := by
  unfold windowClose
  repeat' first
    | with_reducible assumption
    | with_reducible exact Covers.of hw (by decide)
    | with_reducible exact .inl hP
    | with_reducible exact hP _
    | with_reducible apply Same.mk
    | with_reducible exact .inr rfl
    | exact .inl (hw.bit _ (by decide))
    | exact .inr (fun _ _ => rfl)
    | (intro x; have hx : Keeps w P s0 x := by { dsimp only [x]; repeat' first
          | with_reducible assumption
          | with_reducible exact Covers.of hw (by decide)
          | with_reducible exact .inl hP
          | with_reducible exact hP _
          | with_reducible apply Same.mk
          | with_reducible exact .inr rfl
          | exact .inl (hw.bit _ (by decide))
          | exact .inr (fun _ _ => rfl)
          | with_reducible exact Keeps.refl _
          | with_reducible apply State.modFrm_keeps
          | with_reducible apply State.frmEvent_keeps
          | with_reducible apply doTick_keeps
          | with_reducible apply plantMiss_keeps
          | split
          | with_reducible apply Keeps.upd
          | exact rfl
          | intro y
          | lift_lets }; clear_value x)
    | intro x
    | with_reducible exact Keeps.refl _
    | with_reducible apply State.modFrm_keeps
    | with_reducible apply State.frmEvent_keeps
    | with_reducible apply doTick_keeps
    | with_reducible apply plantMiss_keeps
    | split
    | with_reducible apply Keeps.upd
    | exact rfl
    | lift_lets

theorem acqTimeout_keeps {w : Nat} {P : PlotId → Bool} {s0 s : State} (hK : Keeps w P s0 s) (hw : Covers w 237725561 := by exact Covers.of (by assumption) (by decide)) (hP : ∀ q, P q = true := by assumption) :
    Keeps w P s0 (acqTimeout s) := by
  unfold acqTimeout
  repeat' first
    | with_reducible assumption
    | with_reducible exact Covers.of hw (by decide)
    | with_reducible exact .inl hP
    | with_reducible exact hP _
    | (intro x; have hx : Keeps w P s0 x := by { dsimp only [x]; repeat' first
          | with_reducible assumption
          | with_reducible exact Covers.of hw (by decide)
          | with_reducible exact .inl hP
          | with_reducible exact hP _
          | with_reducible exact Keeps.refl _
          | with_reducible apply doTick_keeps
          | with_reducible apply plantMiss_keeps
          | split
          | intro y
          | lift_lets }; clear_value x)
    | intro x
    | with_reducible exact Keeps.refl _
    | with_reducible apply doTick_keeps
    | with_reducible apply plantMiss_keeps
    | split
    | lift_lets

theorem ppsLockedEdge_keeps {w : Nat} {P : PlotId → Bool} {s0 s : State} (t : Nat) (apart : Bool) (hK : Keeps w P s0 s) (hw : Covers w 134218808 := by exact Covers.of (by assumption) (by decide)) :
    Keeps w P s0 (ppsLockedEdge s t apart) := by
  unfold ppsLockedEdge
  repeat' first
    | with_reducible assumption
    | with_reducible exact Covers.of hw (by decide)
    | with_reducible apply Same.mk
    | with_reducible exact .inr rfl
    | exact .inl (hw.bit _ (by decide))
    | exact .inr (fun _ _ => rfl)
    | (intro x; have hx : Keeps w P s0 x := by { dsimp only [x]; repeat' first
          | with_reducible assumption
          | with_reducible exact Covers.of hw (by decide)
          | with_reducible apply Same.mk
          | with_reducible exact .inr rfl
          | exact .inl (hw.bit _ (by decide))
          | exact .inr (fun _ _ => rfl)
          | with_reducible exact Keeps.refl _
          | with_reducible apply State.modFrm_keeps
          | with_reducible apply State.frmEvent_keeps
          | with_reducible apply ppsAcquire_keeps
          | split
          | with_reducible apply Keeps.upd
          | exact rfl
          | intro y
          | lift_lets }; clear_value x)
    | intro x
    | with_reducible exact Keeps.refl _
    | with_reducible apply State.modFrm_keeps
    | with_reducible apply State.frmEvent_keeps
    | with_reducible apply ppsAcquire_keeps
    | split
    | with_reducible apply Keeps.upd
    | exact rfl
    | lift_lets

theorem ppsEdge_keeps {w : Nat} {P : PlotId → Bool} {s0 s : State} (wait : Nat) (rising : Bool) (hK : Keeps w P s0 s) (hw : Covers w 134218809 := by exact Covers.of (by assumption) (by decide)) :
    Keeps w P s0 (ppsEdge s wait rising) := by
  unfold ppsEdge
  repeat' first
    | with_reducible assumption
    | with_reducible exact Covers.of hw (by decide)
    | with_reducible apply Same.mk
    | with_reducible exact .inr rfl
    | exact .inl (hw.bit _ (by decide))
    | exact .inr (fun _ _ => rfl)
    | (intro x; have hx : Keeps w P s0 x := by { dsimp only [x]; repeat' first
          | with_reducible assumption
          | with_reducible exact Covers.of hw (by decide)
          | with_reducible apply Same.mk
          | with_reducible exact .inr rfl
          | exact .inl (hw.bit _ (by decide))
          | exact .inr (fun _ _ => rfl)
          | with_reducible exact Keeps.refl _
          | with_reducible apply State.modFrm_keeps
          | with_reducible apply State.advanceTo_keeps
          | with_reducible apply ppsAcquire_keeps
          | with_reducible apply ppsLockedEdge_keeps
          | split
          | with_reducible apply Keeps.upd
          | exact rfl
          | intro y
          | lift_lets }; clear_value x)
    | intro x
    | with_reducible exact Keeps.refl _
    | with_reducible apply State.modFrm_keeps
    | with_reducible apply State.advanceTo_keeps
    | with_reducible apply ppsAcquire_keeps
    | with_reducible apply ppsLockedEdge_keeps
    | split
    | with_reducible apply Keeps.upd
    | exact rfl
    | lift_lets

theorem ppsMissing_keeps {w : Nat} {P : PlotId → Bool} {s0 s : State} (hK : Keeps w P s0 s) (hw : Covers w 134218809 := by exact Covers.of (by assumption) (by decide)) :
    Keeps w P s0 (ppsMissing s) := by
  unfold ppsMissing
  repeat' first
    | with_reducible assumption
    | with_reducible exact Covers.of hw (by decide)
    | with_reducible apply Same.mk
    | with_reducible exact .inr rfl
    | exact .inl (hw.bit _ (by decide))
    | exact .inr (fun _ _ => rfl)
    | intro x
    | with_reducible exact Keeps.refl _
    | with_reducible apply State.modFrm_keeps
    | with_reducible apply State.advanceTo_keeps
    | with_reducible apply State.frmEvent_keeps
    | split
    | with_reducible apply Keeps.upd
    | exact rfl

theorem frmCtl_keeps {w : Nat} {P : PlotId → Bool} {s0 s : State} (v : Word) (hK : Keeps w P s0 s) (hw : Covers w 8 := by exact Covers.of (by assumption) (by decide)) :
    Keeps w P s0 (frmCtl s v) := by
  unfold frmCtl
  repeat' first
    | with_reducible assumption
    | with_reducible exact Covers.of hw (by decide)
    | with_reducible apply Same.mk
    | with_reducible exact .inr rfl
    | exact .inl (hw.bit _ (by decide))
    | exact .inr (fun _ _ => rfl)
    | (intro x; have hx : Keeps w P s0 x := by { dsimp only [x]; repeat' first
          | with_reducible assumption
          | with_reducible exact Covers.of hw (by decide)
          | with_reducible apply Same.mk
          | with_reducible exact .inr rfl
          | exact .inl (hw.bit _ (by decide))
          | exact .inr (fun _ _ => rfl)
          | with_reducible exact Keeps.refl _
          | with_reducible apply State.modFrm_keeps
          | split
          | with_reducible apply Keeps.upd
          | exact rfl
          | intro y
          | lift_lets }; clear_value x)
    | intro x
    | with_reducible exact Keeps.refl _
    | with_reducible apply State.modFrm_keeps
    | split
    | with_reducible apply Keeps.upd
    | exact rfl
    | lift_lets

/-! ### Sys2Proof/Machine/Flags.lean -/

theorem plotMaskWrite_keeps {w : Nat} {P : PlotId → Bool} {s0 s : State} (q : PlotId) (m : BitVec 13) (hK : Keeps w P s0 s) (hw : Covers w 134217760 := by exact Covers.of (by assumption) (by decide)) (hP : P q = true := by first | assumption | exact ‹∀ q, P q = true› _) :
    Keeps w P s0 (plotMaskWrite s q m) := by
  unfold plotMaskWrite
  repeat' first
    | with_reducible assumption
    | with_reducible exact Covers.of hw (by decide)
    | with_reducible apply Same.mk
    | with_reducible exact .inr rfl
    | exact .inl (hw.bit _ (by decide))
    | exact .inr (fun _ _ => rfl)
    | (intro x; have hx : Keeps w P s0 x := by { dsimp only [x]; repeat' first
          | with_reducible assumption
          | with_reducible exact Covers.of hw (by decide)
          | with_reducible apply Same.mk
          | with_reducible exact .inr rfl
          | exact .inl (hw.bit _ (by decide))
          | exact .inr (fun _ _ => rfl)
          | with_reducible exact Keeps.refl _
          | with_reducible apply State.modPlt_keeps
          | with_reducible apply State.sendVectors_keeps
          | with_reducible apply Keeps.upd
          | exact rfl
          | intro y
          | lift_lets }; clear_value x)
    | intro x
    | with_reducible exact Keeps.refl _
    | with_reducible apply State.modPlt_keeps
    | with_reducible apply State.sendVectors_keeps
    | with_reducible apply Keeps.upd
    | exact rfl
    | lift_lets

theorem pfMaskWrite_keeps {w : Nat} {P : PlotId → Bool} {s0 s : State} (m : BitVec 15) (hK : Keeps w P s0 s) (hw : Covers w 134217776 := by exact Covers.of (by assumption) (by decide)) :
    Keeps w P s0 (pfMaskWrite s m) := by
  unfold pfMaskWrite
  repeat' first
    | with_reducible assumption
    | with_reducible exact Covers.of hw (by decide)
    | with_reducible apply Same.mk
    | with_reducible exact .inr rfl
    | exact .inl (hw.bit _ (by decide))
    | exact .inr (fun _ _ => rfl)
    | (intro x; have hx : Keeps w P s0 x := by { dsimp only [x]; repeat' first
          | with_reducible assumption
          | with_reducible exact Covers.of hw (by decide)
          | with_reducible apply Same.mk
          | with_reducible exact .inr rfl
          | exact .inl (hw.bit _ (by decide))
          | exact .inr (fun _ _ => rfl)
          | with_reducible exact Keeps.refl _
          | with_reducible apply State.sendVectors_keeps
          | with_reducible apply Keeps.upd
          | exact rfl
          | intro y
          | lift_lets }; clear_value x)
    | intro x
    | with_reducible exact Keeps.refl _
    | with_reducible apply State.sendVectors_keeps
    | with_reducible apply Keeps.upd
    | exact rfl
    | lift_lets

theorem irqMaskWrite_keeps {w : Nat} {P : PlotId → Bool} {s0 s : State} (f : Fn) (q : PlotId) (v : Word) (hK : Keeps w P s0 s) (hw : Covers w 134217776 := by exact Covers.of (by assumption) (by decide)) (hP : P q = true := by first | assumption | exact ‹∀ q, P q = true› _) :
    Keeps w P s0 (irqMaskWrite s f q v) := by
  unfold irqMaskWrite
  repeat' first
    | with_reducible assumption
    | with_reducible exact Covers.of hw (by decide)
    | intro x
    | with_reducible exact Keeps.refl _
    | with_reducible apply plotMaskWrite_keeps
    | with_reducible apply pfMaskWrite_keeps
    | split

theorem irqClear_keeps {w : Nat} {P : PlotId → Bool} {s0 s : State} (q : PlotId) (v : Word) (hK : Keeps w P s0 s) (hP : P q = true := by first | assumption | exact ‹∀ q, P q = true› _) :
    Keeps w P s0 (irqClear s q v) := by
  unfold irqClear
  repeat' first
    | with_reducible assumption
    | with_reducible apply Same.mk
    | with_reducible exact .inr rfl
    | exact .inr (fun _ _ => rfl)
    | intro x
    | with_reducible exact Keeps.refl _
    | with_reducible apply State.modPlt_keeps
    | with_reducible apply Keeps.upd
    | exact rfl

theorem pfIrqClear_keeps {w : Nat} {P : PlotId → Bool} {s0 s : State} (v : Word) (hK : Keeps w P s0 s) (hw : Covers w 16 := by exact Covers.of (by assumption) (by decide)) :
    Keeps w P s0 (pfIrqClear s v) := by
  unfold pfIrqClear
  repeat' first
    | with_reducible assumption
    | with_reducible exact Covers.of hw (by decide)
    | with_reducible apply Same.mk
    | with_reducible exact .inr rfl
    | exact .inl (hw.bit _ (by decide))
    | exact .inr (fun _ _ => rfl)
    | intro x
    | with_reducible exact Keeps.refl _
    | with_reducible apply Keeps.upd
    | exact rfl

theorem chgClear_keeps {w : Nat} {P : PlotId → Bool} {s0 s : State} (half : Nat) (v : Word) (hK : Keeps w P s0 s) (hw : Covers w 16 := by exact Covers.of (by assumption) (by decide)) :
    Keeps w P s0 (chgClear s half v) := by
  unfold chgClear
  repeat' first
    | with_reducible assumption
    | with_reducible exact Covers.of hw (by decide)
    | with_reducible apply Same.mk
    | with_reducible exact .inr rfl
    | exact .inl (hw.bit _ (by decide))
    | exact .inr (fun _ _ => rfl)
    | intro x
    | with_reducible exact Keeps.refl _
    | with_reducible apply Keeps.upd
    | exact rfl

theorem faultClear_keeps {w : Nat} {P : PlotId → Bool} {s0 s : State} (half : Nat) (v : Word) (hK : Keeps w P s0 s) (hw : Covers w 16 := by exact Covers.of (by assumption) (by decide)) :
    Keeps w P s0 (faultClear s half v) := by
  unfold faultClear
  repeat' first
    | with_reducible assumption
    | with_reducible exact Covers.of hw (by decide)
    | with_reducible apply Same.mk
    | with_reducible exact .inr rfl
    | exact .inl (hw.bit _ (by decide))
    | exact .inr (fun _ _ => rfl)
    | intro x
    | with_reducible exact Keeps.refl _
    | with_reducible apply Keeps.upd
    | exact rfl

theorem msixControl_keeps {w : Nat} {P : PlotId → Bool} {s0 s : State} (f : Fn) (en mask : Bool) (hK : Keeps w P s0 s) (hw : Covers w 134217760 := by exact Covers.of (by assumption) (by decide)) :
    Keeps w P s0 (msixControl s f en mask) := by
  unfold msixControl
  repeat' first
    | with_reducible assumption
    | with_reducible exact Covers.of hw (by decide)
    | with_reducible apply Same.mk
    | with_reducible exact .inr rfl
    | exact .inl (hw.bit _ (by decide))
    | exact .inr (fun _ _ => rfl)
    | (intro x; have hx : Keeps w P s0 x := by { dsimp only [x]; repeat' first
          | with_reducible assumption
          | with_reducible exact Covers.of hw (by decide)
          | with_reducible apply Same.mk
          | with_reducible exact .inr rfl
          | exact .inl (hw.bit _ (by decide))
          | exact .inr (fun _ _ => rfl)
          | with_reducible exact Keeps.refl _
          | with_reducible apply State.modFn_keeps
          | with_reducible apply State.sendVectors_keeps
          | with_reducible apply State.releasePba_keeps
          | split
          | with_reducible apply Keeps.upd
          | exact rfl
          | intro y
          | lift_lets }; clear_value x)
    | intro x
    | with_reducible exact Keeps.refl _
    | with_reducible apply State.modFn_keeps
    | with_reducible apply State.sendVectors_keeps
    | with_reducible apply State.releasePba_keeps
    | split
    | with_reducible apply Keeps.upd
    | exact rfl
    | lift_lets

theorem msixUnmask_keeps {w : Nat} {P : PlotId → Bool} {s0 s : State} (f : Fn) (v : Fin 32) (hK : Keeps w P s0 s) (hw : Covers w 134217760 := by exact Covers.of (by assumption) (by decide)) :
    Keeps w P s0 (msixUnmask s f v) := by
  unfold msixUnmask
  repeat' first
    | with_reducible assumption
    | with_reducible exact Covers.of hw (by decide)
    | with_reducible apply Same.mk
    | with_reducible exact .inr rfl
    | exact .inl (hw.bit _ (by decide))
    | exact .inr (fun _ _ => rfl)
    | intro x
    | with_reducible exact Keeps.refl _
    | with_reducible apply State.modFn_keeps
    | with_reducible apply State.releasePba_keeps
    | split
    | with_reducible apply Keeps.upd
    | exact rfl

theorem msixWordWrite_keeps {w : Nat} {P : PlotId → Bool} {s0 s : State} (f : Fn) (n : Nat) (v : Nat) (hK : Keeps w P s0 s) (hw : Covers w 134217760 := by exact Covers.of (by assumption) (by decide)) :
    Keeps w P s0 (msixWordWrite s f n v) := by
  unfold msixWordWrite
  repeat' first
    | with_reducible assumption
    | with_reducible exact Covers.of hw (by decide)
    | with_reducible apply Same.mk
    | with_reducible exact .inr rfl
    | exact .inl (hw.bit _ (by decide))
    | exact .inr (fun _ _ => rfl)
    | intro x
    | with_reducible exact Keeps.refl _
    | with_reducible apply State.modFn_keeps
    | with_reducible apply State.releasePba_keeps
    | split
    | with_reducible apply Keeps.upd
    | exact rfl

/-! ### Sys2Proof/Machine/HostLink.lean -/

theorem plotControl_keeps {w : Nat} {P : PlotId → Bool} {s0 s : State} (q : PlotId) (en fault : Bool) (hK : Keeps w P s0 s) (hw : Covers w 137052720 := by exact Covers.of (by assumption) (by decide)) (hP : P q = true := by first | assumption | exact ‹∀ q, P q = true› _) :
    Keeps w P s0 (plotControl s q en fault) := by
  unfold plotControl
  repeat' first
    | with_reducible assumption
    | with_reducible exact Covers.of hw (by decide)
    | with_reducible apply Same.mk
    | with_reducible exact .inr rfl
    | exact .inl (hw.bit _ (by decide))
    | exact .inr (fun _ _ => rfl)
    | intro x
    | with_reducible exact Keeps.refl _
    | with_reducible apply State.modPlt_keeps
    | with_reducible apply reviewPlot_keeps
    | split
    | with_reducible apply Keeps.upd
    | exact rfl

theorem plotResetFrom_keeps {w : Nat} {P : PlotId → Bool} {s0 s : State} (f : Fn) (q : PlotId) (hK : Keeps w P s0 s) (hw : Covers w 137060912 := by exact Covers.of (by assumption) (by decide)) (hP : P q = true := by first | assumption | exact ‹∀ q, P q = true› _) :
    Keeps w P s0 (plotResetFrom s f q) := by
  unfold plotResetFrom
  repeat' first
    | with_reducible assumption
    | with_reducible exact Covers.of hw (by decide)
    | intro x
    | with_reducible exact Keeps.refl _
    | with_reducible apply resetPlot_keeps
    | split

theorem cancelPlot_keeps {w : Nat} {P : PlotId → Bool} {s0 s : State} (q : PlotId) (hK : Keeps w P s0 s) (hw : Covers w 137052720 := by exact Covers.of (by assumption) (by decide)) (hP : P q = true := by first | assumption | exact ‹∀ q, P q = true› _) :
    Keeps w P s0 (cancelPlot s q) := by
  unfold cancelPlot
  repeat' first
    | with_reducible assumption
    | with_reducible exact Covers.of hw (by decide)
    | intro x
    | with_reducible exact Keeps.refl _
    | with_reducible apply startStop_keeps
    | split

theorem cancelFrom_keeps {w : Nat} {P : PlotId → Bool} {s0 s : State} (f : Fn) (q : PlotId) (hK : Keeps w P s0 s) (hw : Covers w 137052720 := by exact Covers.of (by assumption) (by decide)) (hP : P q = true := by first | assumption | exact ‹∀ q, P q = true› _) :
    Keeps w P s0 (cancelFrom s f q) := by
  unfold cancelFrom
  repeat' first
    | with_reducible assumption
    | with_reducible exact Covers.of hw (by decide)
    | intro x
    | with_reducible exact Keeps.refl _
    | with_reducible apply cancelPlot_keeps
    | split

theorem releaseFn_keeps {w : Nat} {P : PlotId → Bool} {s0 s : State} (f : Fn) (hK : Keeps w P s0 s) (hw : Covers w 134217840 := by exact Covers.of (by assumption) (by decide)) (hP : P f = true := by first | assumption | exact ‹∀ q, P q = true› _) :
    Keeps w P s0 (releaseFn s f) := by
  unfold releaseFn
  repeat' first
    | with_reducible assumption
    | with_reducible exact Covers.of hw (by decide)
    | (intro x; have hx : Keeps w P s0 x := by { dsimp only [x]; repeat' first
          | with_reducible assumption
          | with_reducible exact Covers.of hw (by decide)
          | with_reducible exact Keeps.refl _
          | with_reducible apply State.releasePba_keeps
          | with_reducible apply writeFormed_keeps
          | with_reducible apply startFetch_keeps
          | with_reducible apply fetchLanes_keeps
          | split
          | intro y
          | lift_lets }; clear_value x)
    | intro x
    | with_reducible exact Keeps.refl _
    | with_reducible apply State.releasePba_keeps
    | with_reducible apply writeFormed_keeps
    | with_reducible apply startFetch_keeps
    | with_reducible apply fetchLanes_keeps
    | split
    | lift_lets

theorem reviewLoad_keeps {w : Nat} {P : PlotId → Bool} {s0 s : State} (hK : Keeps w P s0 s) (hw : Covers w 134219440 := by exact Covers.of (by assumption) (by decide)) (hP : ∀ q, P q = true := by assumption) :
    Keeps w P s0 (reviewLoad s) := by
  unfold reviewLoad
  repeat' first
    | with_reducible assumption
    | with_reducible exact Covers.of hw (by decide)
    | with_reducible exact .inl hP
    | with_reducible exact hP _
    | intro x
    | with_reducible exact Keeps.refl _
    | with_reducible apply failLoad_keeps
    | split

theorem masterEnable_keeps {w : Nat} {P : PlotId → Bool} {s0 s : State} (f : Fn) (on : Bool) (hK : Keeps w P s0 s) (hw : Covers w 137053936 := by exact Covers.of (by assumption) (by decide)) (hP : ∀ q, P q = true := by assumption) :
    Keeps w P s0 (masterEnable s f on) := by
  unfold masterEnable
  repeat' first
    | with_reducible assumption
    | with_reducible exact Covers.of hw (by decide)
    | with_reducible exact .inl hP
    | with_reducible exact hP _
    | with_reducible apply Same.mk
    | with_reducible exact .inr rfl
    | exact .inl (hw.bit _ (by decide))
    | exact .inr (fun _ _ => rfl)
    | (intro x; have hx : Keeps w P s0 x := by { dsimp only [x]; repeat' first
          | with_reducible assumption
          | with_reducible exact Covers.of hw (by decide)
          | with_reducible exact .inl hP
          | with_reducible exact hP _
          | with_reducible apply Same.mk
          | with_reducible exact .inr rfl
          | exact .inl (hw.bit _ (by decide))
          | exact .inr (fun _ _ => rfl)
          | with_reducible exact Keeps.refl _
          | with_reducible apply State.modFn_keeps
          | with_reducible apply reviewPlot_keeps
          | with_reducible apply releaseFn_keeps
          | with_reducible apply reviewLoad_keeps
          | split
          | with_reducible apply Keeps.upd
          | exact rfl
          | intro y
          | lift_lets }; clear_value x)
    | intro x
    | with_reducible exact Keeps.refl _
    | with_reducible apply State.modFn_keeps
    | with_reducible apply reviewPlot_keeps
    | with_reducible apply releaseFn_keeps
    | with_reducible apply reviewLoad_keeps
    | split
    | with_reducible apply Keeps.upd
    | exact rfl
    | lift_lets

theorem reviewAll_keeps {w : Nat} {P : PlotId → Bool} {s0 s : State} (hK : Keeps w P s0 s) (hw : Covers w 137052784 := by exact Covers.of (by assumption) (by decide)) (hP : ∀ q, P q = true := by assumption) :
    Keeps w P s0 (reviewAll s) := by
  unfold reviewAll
  repeat' first
    | with_reducible assumption
    | with_reducible exact Covers.of hw (by decide)
    | with_reducible exact .inl hP
    | with_reducible exact hP _
    | intro x
    | with_reducible exact Keeps.refl _
    | with_reducible apply reviewPlot_keeps
    | with_reducible apply releaseFn_keeps
    | with_reducible apply Keeps.eachPlot

theorem pfPower_keeps {w : Nat} {P : PlotId → Bool} {s0 s : State} (d3 : Bool) (hK : Keeps w P s0 s) (hw : Covers w 137053936 := by exact Covers.of (by assumption) (by decide)) (hP : ∀ q, P q = true := by assumption) :
    Keeps w P s0 (pfPower s d3) := by
  unfold pfPower
  repeat' first
    | with_reducible assumption
    | with_reducible exact Covers.of hw (by decide)
    | with_reducible exact .inl hP
    | with_reducible exact hP _
    | with_reducible apply Same.mk
    | with_reducible exact .inr rfl
    | exact .inl (hw.bit _ (by decide))
    | exact .inr (fun _ _ => rfl)
    | (intro x; have hx : Keeps w P s0 x := by { dsimp only [x]; repeat' first
          | with_reducible assumption
          | with_reducible exact Covers.of hw (by decide)
          | with_reducible exact .inl hP
          | with_reducible exact hP _
          | with_reducible apply Same.mk
          | with_reducible exact .inr rfl
          | exact .inl (hw.bit _ (by decide))
          | exact .inr (fun _ _ => rfl)
          | with_reducible exact Keeps.refl _
          | with_reducible apply State.modFn_keeps
          | with_reducible apply releaseFn_keeps
          | with_reducible apply reviewLoad_keeps
          | with_reducible apply reviewAll_keeps
          | with_reducible apply Keeps.upd
          | exact rfl
          | intro y
          | lift_lets }; clear_value x)
    | intro x
    | with_reducible exact Keeps.refl _
    | with_reducible apply State.modFn_keeps
    | with_reducible apply releaseFn_keeps
    | with_reducible apply reviewLoad_keeps
    | with_reducible apply reviewAll_keeps
    | with_reducible apply Keeps.upd
    | exact rfl
    | lift_lets

theorem vfPower_keeps {w : Nat} {P : PlotId → Bool} {s0 s : State} (p : PlotId) (d3 : Bool) (hK : Keeps w P s0 s) (hw : Covers w 137052784 := by exact Covers.of (by assumption) (by decide)) (hP : P p = true := by first | assumption | exact ‹∀ q, P q = true› _) :
    Keeps w P s0 (vfPower s p d3) := by
  unfold vfPower
  repeat' first
    | with_reducible assumption
    | with_reducible exact Covers.of hw (by decide)
    | with_reducible apply Same.mk
    | with_reducible exact .inr rfl
    | exact .inl (hw.bit _ (by decide))
    | exact .inr (fun _ _ => rfl)
    | intro x
    | with_reducible exact Keeps.refl _
    | with_reducible apply State.modFn_keeps
    | with_reducible apply reviewPlot_keeps
    | with_reducible apply releaseFn_keeps
    | split
    | with_reducible apply Keeps.upd
    | exact rfl

theorem vfDisable_keeps {w : Nat} {P : PlotId → Bool} {s0 s : State} (hK : Keeps w P s0 s) (hw : Covers w 137062128 := by exact Covers.of (by assumption) (by decide)) (hP : ∀ q, P q = true := by assumption) :
    Keeps w P s0 (vfDisable s) := by
  unfold vfDisable
  repeat' first
    | with_reducible assumption
    | with_reducible exact Covers.of hw (by decide)
    | with_reducible exact .inl hP
    | with_reducible exact hP _
    | intro x
    | with_reducible exact Keeps.refl _
    | with_reducible apply clearVfEnable_keeps
    | with_reducible apply abortBundle_keeps
    | split

theorem configWrite_keeps {w : Nat} {P : PlotId → Bool} {s0 s : State} (c : ConfigField) (h : Keeps w P s0 s) (hw : Covers w 137052784 := by exact Covers.of (by assumption) (by decide)) (hP : ∀ q, P q = true := by assumption) : Keeps w P s0 (configWrite s c) := by
  cases c with
  | vfEnable => exact reviewAll_keeps (Keeps.upd h rfl rfl rfl rfl rfl)
  | numVfs n =>
    unfold configWrite
    dsimp only
    split
    · exact h
    · exact Keeps.upd h rfl rfl rfl rfl rfl
  | _ => exact Keeps.upd h rfl rfl rfl rfl rfl

theorem configWriteFrom_keeps {w : Nat} {P : PlotId → Bool} {s0 s : State} (f : Fn) (c : ConfigField) (hK : Keeps w P s0 s) (hw : Covers w 137052784 := by exact Covers.of (by assumption) (by decide)) (hP : ∀ q, P q = true := by assumption) :
    Keeps w P s0 (configWriteFrom s f c) := by
  unfold configWriteFrom
  repeat' first
    | with_reducible assumption
    | with_reducible exact Covers.of hw (by decide)
    | with_reducible exact .inl hP
    | with_reducible exact hP _
    | with_reducible apply Same.mk
    | with_reducible exact .inr rfl
    | exact .inl (hw.bit _ (by decide))
    | exact .inr (fun _ _ => rfl)
    | (intro x; have hx : Keeps w P s0 x := by { dsimp only [x]; repeat' first
          | with_reducible assumption
          | with_reducible exact Covers.of hw (by decide)
          | with_reducible exact .inl hP
          | with_reducible exact hP _
          | with_reducible apply Same.mk
          | with_reducible exact .inr rfl
          | exact .inl (hw.bit _ (by decide))
          | exact .inr (fun _ _ => rfl)
          | with_reducible exact Keeps.refl _
          | with_reducible apply State.modFn_keeps
          | with_reducible apply configWrite_keeps
          | split
          | with_reducible apply Keeps.upd
          | exact rfl
          | intro y
          | lift_lets }; clear_value x)
    | intro x
    | with_reducible exact Keeps.refl _
    | with_reducible apply State.modFn_keeps
    | with_reducible apply configWrite_keeps
    | split
    | with_reducible apply Keeps.upd
    | exact rfl
    | lift_lets

theorem vfReset_keeps {w : Nat} {P : PlotId → Bool} {s0 s : State} (p : PlotId) (hK : Keeps w P s0 s) (hw : Covers w 137060912 := by exact Covers.of (by assumption) (by decide)) (hP : P p = true := by first | assumption | exact ‹∀ q, P q = true› _) :
    Keeps w P s0 (vfReset s p) := by
  unfold vfReset
  repeat' first
    | with_reducible assumption
    | with_reducible exact Covers.of hw (by decide)
    | intro x
    | with_reducible exact Keeps.refl _
    | with_reducible apply resetVf_keeps
    | split

theorem pfSpaceReset_keeps {w : Nat} {P : PlotId → Bool} {s0 s : State} (hK : Keeps w P s0 s) (hw : Covers w 80 := by exact Covers.of (by assumption) (by decide)) :
    Keeps w P s0 (pfSpaceReset s) := by
  unfold pfSpaceReset
  repeat' first
    | with_reducible assumption
    | with_reducible exact Covers.of hw (by decide)
    | with_reducible apply Same.mk
    | with_reducible exact .inr rfl
    | exact .inl (hw.bit _ (by decide))
    | exact .inr (fun _ _ => rfl)
    | intro x
    | with_reducible exact Keeps.refl _
    | with_reducible apply Keeps.upd
    | exact rfl

theorem pfReset_keeps {w : Nat} {P : PlotId → Bool} {s0 s : State} (h : Keeps w P s0 s) (hw : Covers w 137062128 := by exact Covers.of (by assumption) (by decide))
    (hP : ∀ q, P q = true := by assumption) : Keeps w P s0 (pfReset s) := by
  have h1 := clearVfEnable_keeps (abortBundle_keeps (pfSpaceReset_keeps (endRng_keeps 0 (State.modFn_keeps h 0 (fun f => f.resetCopies.resetSpace)))))
  unfold pfReset
  dsimp only
  generalize clearVfEnable (abortBundle (pfSpaceReset (endRng (s.modFn 0 (fun f => f.resetCopies.resetSpace)) 0))) = t at h1
  exact Keeps.upd h1 rfl rfl rfl rfl rfl

theorem writeLostWork_keeps {w : Nat} {P : PlotId → Bool} {s0 s : State} (q : PlotId) (u : DmaUser) (h : Keeps w P s0 s)
    (hw : Covers w 137063984 := by exact Covers.of (by assumption) (by decide)) (hP : P q = true := by first | assumption | exact ‹∀ q, P q = true› _) :
    Keeps w P s0 (writeLostWork s q u) := by
  cases u with
  | jobOutput i => exact chargeFault_keeps _ _ _ _ h
  | tapeRecord t =>
    show Keeps w P s0 (match tapeJob s q with | some i => chargeFault s q i .hostDma none | none => s)
    split
    · exact chargeFault_keeps _ _ _ _ h
    · exact h
  | rng => exact rngLost_keeps _ h
  | report => exact State.modAtt_keeps _ _ h
  | _ => exact h

theorem writeLost_keeps {w : Nat} {P : PlotId → Bool} {s0 s : State} (q : PlotId) (u : DmaUser) (hK : Keeps w P s0 s) (hw : Covers w 673934896 := by exact Covers.of (by assumption) (by decide)) (hP : P q = true := by first | assumption | exact ‹∀ q, P q = true› _) :
    Keeps w P s0 (writeLost s q u) := by
  unfold writeLost
  repeat' first
    | with_reducible assumption
    | with_reducible exact Covers.of hw (by decide)
    | intro x
    | with_reducible exact Keeps.refl _
    | with_reducible apply State.aerError_keeps
    | with_reducible apply writeLostWork_keeps
    | split

theorem hostReadError_keeps {w : Nat} {P : PlotId → Bool} {s0 s : State} (q : PlotId) (u : DmaUser) (k : ReadFail) (hK : Keeps w P s0 s) (hw : Covers w 673926897 := by exact Covers.of (by assumption) (by decide)) (hP : ∀ q, P q = true := by assumption) :
    Keeps w P s0 (hostReadError s q u k) := by
  unfold hostReadError
  repeat' first
    | with_reducible assumption
    | with_reducible exact Covers.of hw (by decide)
    | with_reducible exact .inl hP
    | with_reducible exact hP _
    | with_reducible apply Same.mk
    | with_reducible exact .inr rfl
    | exact .inl (hw.bit _ (by decide))
    | exact .inr (fun _ _ => rfl)
    | intro x
    | with_reducible exact Keeps.refl _
    | with_reducible apply State.modAtt_keeps
    | with_reducible apply dmaError_keeps
    | with_reducible apply descriptorFetched_keeps
    | with_reducible apply imageFetched_keeps
    | with_reducible apply chargeFault_keeps
    | with_reducible apply segmentArrived_keeps
    | with_reducible apply fetchDone_keeps
    | split
    | with_reducible apply Keeps.upd
    | exact rfl

theorem linkError_keeps {w : Nat} {P : PlotId → Bool} {s0 s : State} (f : Fn) (e : LinkError) (hK : Keeps w P s0 s) (hw : Covers w 939524128 := by exact Covers.of (by assumption) (by decide)) :
    Keeps w P s0 (linkError s f e) := by
  unfold linkError
  repeat' first
    | with_reducible assumption
    | with_reducible exact Covers.of hw (by decide)
    | with_reducible apply Same.mk
    | with_reducible exact .inr rfl
    | exact .inl (hw.bit _ (by decide))
    | exact .inr (fun _ _ => rfl)
    | (intro x; have hx : Keeps w P s0 x := by { dsimp only [x]; repeat' first
          | with_reducible assumption
          | with_reducible exact Covers.of hw (by decide)
          | with_reducible apply Same.mk
          | with_reducible exact .inr rfl
          | exact .inl (hw.bit _ (by decide))
          | exact .inr (fun _ _ => rfl)
          | with_reducible exact Keeps.refl _
          | with_reducible apply State.aerError_keeps
          | with_reducible apply State.aerCorrectable_keeps
          | split
          | with_reducible apply Keeps.upd
          | exact rfl
          | intro y
          | lift_lets }; clear_value x)
    | intro x
    | with_reducible exact Keeps.refl _
    | with_reducible apply State.aerError_keeps
    | with_reducible apply State.aerCorrectable_keeps
    | split
    | with_reducible apply Keeps.upd
    | exact rfl
    | lift_lets

theorem ptmStart_keeps {w : Nat} {P : PlotId → Bool} {s0 s : State} (hK : Keeps w P s0 s) (hw : Covers w 134217792 := by exact Covers.of (by assumption) (by decide)) :
    Keeps w P s0 (ptmStart s) := by
  unfold ptmStart
  repeat' first
    | with_reducible assumption
    | with_reducible exact Covers.of hw (by decide)
    | with_reducible apply Same.mk
    | with_reducible exact .inr rfl
    | exact .inl (hw.bit _ (by decide))
    | exact .inr (fun _ _ => rfl)
    | (intro x; have hx : Keeps w P s0 x := by { dsimp only [x]; repeat' first
          | with_reducible assumption
          | with_reducible exact Covers.of hw (by decide)
          | with_reducible apply Same.mk
          | with_reducible exact .inr rfl
          | exact .inl (hw.bit _ (by decide))
          | exact .inr (fun _ _ => rfl)
          | with_reducible exact Keeps.refl _
          | with_reducible apply State.emit_keeps
          | split
          | with_reducible apply Keeps.upd
          | exact rfl
          | intro y
          | lift_lets }; clear_value x)
    | intro x
    | with_reducible exact Keeps.refl _
    | with_reducible apply State.emit_keeps
    | split
    | with_reducible apply Keeps.upd
    | exact rfl
    | lift_lets

theorem ptmControl_keeps {w : Nat} {P : PlotId → Bool} {s0 s : State} (v : Word) (hK : Keeps w P s0 s) (hw : Covers w 134217792 := by exact Covers.of (by assumption) (by decide)) :
    Keeps w P s0 (ptmControl s v) := by
  unfold ptmControl
  repeat' first
    | with_reducible assumption
    | with_reducible exact Covers.of hw (by decide)
    | with_reducible apply Same.mk
    | with_reducible exact .inr rfl
    | exact .inl (hw.bit _ (by decide))
    | exact .inr (fun _ _ => rfl)
    | (intro x; have hx : Keeps w P s0 x := by { dsimp only [x]; repeat' first
          | with_reducible assumption
          | with_reducible exact Covers.of hw (by decide)
          | with_reducible apply Same.mk
          | with_reducible exact .inr rfl
          | exact .inl (hw.bit _ (by decide))
          | exact .inr (fun _ _ => rfl)
          | with_reducible exact Keeps.refl _
          | with_reducible apply ptmStart_keeps
          | split
          | with_reducible apply Keeps.upd
          | exact rfl
          | intro y
          | lift_lets }; clear_value x)
    | intro x
    | with_reducible exact Keeps.refl _
    | with_reducible apply ptmStart_keeps
    | split
    | with_reducible apply Keeps.upd
    | exact rfl
    | lift_lets

theorem ptmTimer_keeps {w : Nat} {P : PlotId → Bool} {s0 s : State} (hK : Keeps w P s0 s) (hw : Covers w 134217792 := by exact Covers.of (by assumption) (by decide)) :
    Keeps w P s0 (ptmTimer s) := by
  unfold ptmTimer
  repeat' first
    | with_reducible assumption
    | with_reducible exact Covers.of hw (by decide)
    | intro x
    | with_reducible exact Keeps.refl _
    | with_reducible apply ptmStart_keeps
    | split

theorem ptmAnswer_keeps {w : Nat} {P : PlotId → Bool} {s0 s : State} (wait : Nat) (master : Word64) (prop : Word) (hK : Keeps w P s0 s) (hw : Covers w 65 := by exact Covers.of (by assumption) (by decide)) :
    Keeps w P s0 (ptmAnswer s wait master prop) := by
  unfold ptmAnswer
  repeat' first
    | with_reducible assumption
    | with_reducible exact Covers.of hw (by decide)
    | with_reducible apply Same.mk
    | with_reducible exact .inr rfl
    | exact .inl (hw.bit _ (by decide))
    | exact .inr (fun _ _ => rfl)
    | (intro x; have hx : Keeps w P s0 x := by { dsimp only [x]; repeat' first
          | with_reducible assumption
          | with_reducible exact Covers.of hw (by decide)
          | with_reducible apply Same.mk
          | with_reducible exact .inr rfl
          | exact .inl (hw.bit _ (by decide))
          | exact .inr (fun _ _ => rfl)
          | with_reducible exact Keeps.refl _
          | with_reducible apply State.advanceTo_keeps
          | split
          | with_reducible apply Keeps.upd
          | exact rfl
          | intro y
          | lift_lets }; clear_value x)
    | intro x
    | with_reducible exact Keeps.refl _
    | with_reducible apply State.advanceTo_keeps
    | split
    | with_reducible apply Keeps.upd
    | exact rfl
    | lift_lets

theorem ptmSilent_keeps {w : Nat} {P : PlotId → Bool} {s0 s : State} (hK : Keeps w P s0 s) (hw : Covers w 65 := by exact Covers.of (by assumption) (by decide)) :
    Keeps w P s0 (ptmSilent s) := by
  unfold ptmSilent
  repeat' first
    | with_reducible assumption
    | with_reducible exact Covers.of hw (by decide)
    | with_reducible apply Same.mk
    | with_reducible exact .inr rfl
    | exact .inl (hw.bit _ (by decide))
    | exact .inr (fun _ _ => rfl)
    | (intro x; have hx : Keeps w P s0 x := by { dsimp only [x]; repeat' first
          | with_reducible assumption
          | with_reducible exact Covers.of hw (by decide)
          | with_reducible apply Same.mk
          | with_reducible exact .inr rfl
          | exact .inl (hw.bit _ (by decide))
          | exact .inr (fun _ _ => rfl)
          | with_reducible exact Keeps.refl _
          | with_reducible apply State.advanceTo_keeps
          | split
          | with_reducible apply Keeps.upd
          | exact rfl
          | intro y
          | lift_lets }; clear_value x)
    | intro x
    | with_reducible exact Keeps.refl _
    | with_reducible apply State.advanceTo_keeps
    | split
    | with_reducible apply Keeps.upd
    | exact rfl
    | lift_lets

end Sys2Proof.Machine
end

