-- ==== Sys2Proof/Laws/KeepsAccess.lean ====
section
/-!
SUPPORT. Sys2Proof/Laws/KeepsAccess.lean: the operations over register accesses, the log, reports and the SMBus target keep what Keeps says.
-/
namespace Sys2Proof.Machine

set_option Elab.async false
set_option linter.all false

/-! ### Sys2Proof/Machine/Regs.lean -/

theorem readReg_keeps {w : Nat} {P : PlotId → Bool} {s0 s : State} (f : Fn) (a : Nat) (hK : Keeps w P s0 s) (hw : Covers w 536870944 := by exact Covers.of (by assumption) (by decide)) :
    Keeps w P s0 (readReg s f a).1 := by
  unfold readReg
  repeat' first
    | with_reducible assumption
    | with_reducible exact Covers.of hw (by decide)
    | with_reducible apply Same.mk
    | with_reducible exact .inr rfl
    | exact .inl (hw.bit _ (by decide))
    | exact .inr (fun _ _ => rfl)
    | (intro x; have hx : Keeps w P s0 x := by { dsimp only [x]; repeat' first
          | with_reducible assumption
          | with_reducible exact Covers.of hw (by decide)
          | with_reducible apply Same.mk
          | with_reducible exact .inr rfl
          | exact .inl (hw.bit _ (by decide))
          | exact .inr (fun _ _ => rfl)
          | with_reducible exact Keeps.refl _
          | with_reducible apply State.modFn_keeps
          | with_reducible apply State.takeFree_keeps
          | refine Keeps.of_snd (by assumption) ?_
          | split
          | with_reducible apply Keeps.upd
          | exact rfl
          | intro y
          | lift_lets }; clear_value x)
    | intro x
    | with_reducible exact Keeps.refl _
    | with_reducible apply State.modFn_keeps
    | with_reducible apply State.takeFree_keeps
    | refine Keeps.of_snd (by assumption) ?_
    | split
    | with_reducible apply Keeps.upd
    | exact rfl
    | lift_lets

/-! ### Sys2Proof/Machine/LogAtt.lean -/

theorem logAck_keeps {w : Nat} {P : PlotId → Bool} {s0 s : State} (v : Word64) (h : Keeps w P s0 s) (hw : Covers w 1024 := by exact Covers.of (by assumption) (by decide)) : Keeps w P s0 (logAck s v) := by
  unfold logAck
  split
  · exact h
  · rename_i hn
    refine h.withLog _ (fun i => ⟨i.1, i.2.1, Or.inr ?_⟩)
    show (if v < s.log.next then v else s.log.next - 1) < s.log.next
    split
    · assumption
    · have h0 : s.log.next.toNat ≠ 0 := fun e => hn (BitVec.eq_of_toNat_eq e)
      have := s.log.next.isLt
      rw [BitVec.lt_def, BitVec.toNat_sub]
      have one : BitVec.toNat (1 : Word64) = 1 := rfl
      rw [one]
      change s.log.next.toNat ≠ 0 at h0
      omega

theorem attEnd_keeps {w : Nat} {P : PlotId → Bool} {s0 s : State} (q : PlotId) (r : BitVec 4) (hK : Keeps w P s0 s) (hw : Covers w 2048 := by exact Covers.of (by assumption) (by decide)) :
    Keeps w P s0 (attEnd s q r) := by
  unfold attEnd
  repeat' first
    | with_reducible assumption
    | with_reducible exact Covers.of hw (by decide)
    | with_reducible apply Same.mk
    | with_reducible exact .inr rfl
    | exact .inl (hw.bit _ (by decide))
    | exact .inr (fun _ _ => rfl)
    | intro x
    | with_reducible exact Keeps.refl _
    | with_reducible apply State.modAtt_keeps
    | with_reducible apply Keeps.upd
    | exact rfl

theorem attGo_keeps {w : Nat} {P : PlotId → Bool} {s0 s : State} (q : PlotId) (hK : Keeps w P s0 s) (hw : Covers w 134219840 := by exact Covers.of (by assumption) (by decide)) :
    Keeps w P s0 (attGo s q) := by
  unfold attGo
  repeat' first
    | with_reducible assumption
    | with_reducible exact Covers.of hw (by decide)
    | with_reducible apply Same.mk
    | with_reducible exact .inr rfl
    | exact .inl (hw.bit _ (by decide))
    | exact .inr (fun _ _ => rfl)
    | (intro x; have hx : Keeps w P s0 x := by { dsimp only [x]; repeat' first
          | with_reducible assumption
          | with_reducible exact Covers.of hw (by decide)
          | with_reducible apply Same.mk
          | with_reducible exact .inr rfl
          | exact .inl (hw.bit _ (by decide))
          | exact .inr (fun _ _ => rfl)
          | with_reducible exact Keeps.refl _
          | with_reducible apply State.modAtt_keeps
          | with_reducible apply State.hostRead_keeps
          | with_reducible apply attEnd_keeps
          | split
          | with_reducible apply Keeps.upd
          | exact rfl
          | intro y
          | lift_lets }; clear_value x)
    | intro x
    | with_reducible exact Keeps.refl _
    | with_reducible apply State.modAtt_keeps
    | with_reducible apply State.hostRead_keeps
    | with_reducible apply attEnd_keeps
    | split
    | with_reducible apply Keeps.upd
    | exact rfl
    | lift_lets

theorem attGoFrom_keeps {w : Nat} {P : PlotId → Bool} {s0 s : State} (f : Fn) (q : PlotId) (hK : Keeps w P s0 s) (hw : Covers w 134219840 := by exact Covers.of (by assumption) (by decide)) :
    Keeps w P s0 (attGoFrom s f q) := by
  unfold attGoFrom
  repeat' first
    | with_reducible assumption
    | with_reducible exact Covers.of hw (by decide)
    | intro x
    | with_reducible exact Keeps.refl _
    | with_reducible apply attGo_keeps
    | split

theorem attDone_keeps {w : Nat} {P : PlotId → Bool} {s0 s : State} (q : PlotId) (request : Fetched) (written : Bool) (hK : Keeps w P s0 s) (hw : Covers w 671090785 := by exact Covers.of (by assumption) (by decide)) :
    Keeps w P s0 (attDone s q request written) := by
  unfold attDone
  repeat' first
    | with_reducible assumption
    | with_reducible exact Covers.of hw (by decide)
    | with_reducible apply Same.mk
    | with_reducible exact .inr rfl
    | exact .inl (hw.bit _ (by decide))
    | exact .inr (fun _ _ => rfl)
    | (intro x; have hx : Keeps w P s0 x := by { dsimp only [x]; repeat' first
          | with_reducible assumption
          | with_reducible exact Covers.of hw (by decide)
          | with_reducible apply Same.mk
          | with_reducible exact .inr rfl
          | exact .inl (hw.bit _ (by decide))
          | exact .inr (fun _ _ => rfl)
          | with_reducible exact Keeps.refl _
          | with_reducible apply State.hostWrite_keeps
          | with_reducible apply dmaError_keeps
          | with_reducible apply attEnd_keeps
          | split
          | with_reducible apply Keeps.upd
          | exact rfl
          | intro y
          | lift_lets }; clear_value x)
    | intro x
    | with_reducible exact Keeps.refl _
    | with_reducible apply State.hostWrite_keeps
    | with_reducible apply dmaError_keeps
    | with_reducible apply attEnd_keeps
    | split
    | with_reducible apply Keeps.upd
    | exact rfl
    | lift_lets

/-! ### Sys2Proof/Machine/Access.lean -/

theorem discard_keeps {w : Nat} {P : PlotId → Bool} {s0 s : State} (f : Fn) (write : Bool) (off kind : Nat) (hK : Keeps w P s0 s) (hw : Covers w 134217840 := by exact Covers.of (by assumption) (by decide)) :
    Keeps w P s0 (discard s f write off kind) := by
  unfold discard
  repeat' first
    | with_reducible assumption
    | with_reducible exact Covers.of hw (by decide)
    | with_reducible apply Same.mk
    | with_reducible exact .inr rfl
    | exact .inl (hw.bit _ (by decide))
    | exact .inr (fun _ _ => rfl)
    | (intro x; have hx : Keeps w P s0 x := by { dsimp only [x]; repeat' first
          | with_reducible assumption
          | with_reducible exact Covers.of hw (by decide)
          | with_reducible apply Same.mk
          | with_reducible exact .inr rfl
          | exact .inl (hw.bit _ (by decide))
          | exact .inr (fun _ _ => rfl)
          | with_reducible exact Keeps.refl _
          | with_reducible apply State.raisePf_keeps
          | split
          | with_reducible apply Keeps.upd
          | exact rfl
          | intro y
          | lift_lets }; clear_value x)
    | intro x
    | with_reducible exact Keeps.refl _
    | with_reducible apply State.raisePf_keeps
    | split
    | with_reducible apply Keeps.upd
    | exact rfl
    | lift_lets

theorem hostReadData_keeps {w : Nat} {P : PlotId → Bool} {s0 s : State} (f : Fn) (off len : Nat) (hK : Keeps w P s0 s) (hw : Covers w 671088752 := by exact Covers.of (by assumption) (by decide)) :
    Keeps w P s0 (hostReadData s f off len).1 := by
  unfold hostReadData
  repeat' first
    | with_reducible assumption
    | with_reducible exact Covers.of hw (by decide)
    | (intro x; have hx : Keeps w P s0 x := by { dsimp only [x]; repeat' first
          | with_reducible assumption
          | with_reducible exact Covers.of hw (by decide)
          | with_reducible exact Keeps.refl _
          | with_reducible apply readReg_keeps
          | with_reducible apply discard_keeps
          | refine Keeps.of_fst (by assumption) ?_
          | split
          | intro y
          | lift_lets }; clear_value x)
    | intro x
    | with_reducible exact Keeps.refl _
    | with_reducible apply readReg_keeps
    | with_reducible apply discard_keeps
    | refine Keeps.of_fst (by assumption) ?_
    | split
    | lift_lets

theorem hostRead_keeps {w : Nat} {P : PlotId → Bool} {s0 s : State} (f : Fn) (off len : Nat) (hK : Keeps w P s0 s) (hw : Covers w 939524208 := by exact Covers.of (by assumption) (by decide)) :
    Keeps w P s0 (hostRead s f off len) := by
  unfold hostRead
  repeat' first
    | with_reducible assumption
    | with_reducible exact Covers.of hw (by decide)
    | with_reducible apply Same.mk
    | with_reducible exact .inr rfl
    | exact .inl (hw.bit _ (by decide))
    | exact .inr (fun _ _ => rfl)
    | (intro x; have hx : Keeps w P s0 x := by { dsimp only [x]; repeat' first
          | with_reducible assumption
          | with_reducible exact Covers.of hw (by decide)
          | with_reducible apply Same.mk
          | with_reducible exact .inr rfl
          | exact .inl (hw.bit _ (by decide))
          | exact .inr (fun _ _ => rfl)
          | with_reducible exact Keeps.refl _
          | with_reducible apply hostGate_keeps
          | with_reducible apply hostReadData_keeps
          | refine Keeps.of_fst (by assumption) ?_
          | split
          | with_reducible apply Keeps.upd
          | exact rfl
          | intro y
          | lift_lets }; clear_value x)
    | intro x
    | with_reducible exact Keeps.refl _
    | with_reducible apply hostGate_keeps
    | with_reducible apply hostReadData_keeps
    | refine Keeps.of_fst (by assumption) ?_
    | split
    | with_reducible apply Keeps.upd
    | exact rfl
    | lift_lets

theorem hostPartialWrite_keeps {w : Nat} {P : PlotId → Bool} {s0 s : State} (f : Fn) (off len : Nat) (enables : BitVec 8) (hK : Keeps w P s0 s) (hw : Covers w 402653296 := by exact Covers.of (by assumption) (by decide)) :
    Keeps w P s0 (hostPartialWrite s f off len enables) := by
  unfold hostPartialWrite
  repeat' first
    | with_reducible assumption
    | with_reducible exact Covers.of hw (by decide)
    | (intro x; have hx : Keeps w P s0 x := by { dsimp only [x]; repeat' first
          | with_reducible assumption
          | with_reducible exact Covers.of hw (by decide)
          | with_reducible exact Keeps.refl _
          | with_reducible apply hostGate_keeps
          | with_reducible apply discard_keeps
          | split
          | intro y
          | lift_lets }; clear_value x)
    | intro x
    | with_reducible exact Keeps.refl _
    | with_reducible apply hostGate_keeps
    | with_reducible apply discard_keeps
    | split
    | lift_lets

theorem setPair_keeps {w : Nat} {P : PlotId → Bool} {s0 s : State} (f : Fn) (base : Nat) (v : Nat) (hK : Keeps w P s0 s) (hw : Covers w 11432 := by exact Covers.of (by assumption) (by decide)) (hP : ∀ q, P q = true := by assumption) :
    Keeps w P s0 (setPair s f base v) := by
  unfold setPair
  repeat' first
    | with_reducible assumption
    | with_reducible exact Covers.of hw (by decide)
    | with_reducible exact .inl hP
    | with_reducible exact hP _
    | with_reducible apply Same.mk
    | with_reducible exact .inr rfl
    | exact .inl (hw.bit _ (by decide))
    | exact .inr (fun _ _ => rfl)
    | (intro x; have hx : Keeps w P s0 x := by { dsimp only [x]; repeat' first
          | with_reducible assumption
          | with_reducible exact Covers.of hw (by decide)
          | with_reducible exact .inl hP
          | with_reducible exact hP _
          | with_reducible apply Same.mk
          | with_reducible exact .inr rfl
          | exact .inl (hw.bit _ (by decide))
          | exact .inr (fun _ _ => rfl)
          | with_reducible exact Keeps.refl _
          | with_reducible apply State.modPlt_keeps
          | with_reducible apply State.modFn_keeps
          | with_reducible apply State.modAtt_keeps
          | with_reducible apply State.modRng_keeps
          | with_reducible apply State.setShadow_keeps
          | with_reducible apply State.modCfg_keeps
          | with_reducible apply logAck_keeps
          | split
          | with_reducible apply Keeps.upd
          | exact rfl
          | intro y
          | lift_lets }; clear_value x)
    | intro x
    | with_reducible exact Keeps.refl _
    | with_reducible apply State.modPlt_keeps
    | with_reducible apply State.modFn_keeps
    | with_reducible apply State.modAtt_keeps
    | with_reducible apply State.modRng_keeps
    | with_reducible apply State.setShadow_keeps
    | with_reducible apply State.modCfg_keeps
    | with_reducible apply logAck_keeps
    | split
    | with_reducible apply Keeps.upd
    | exact rfl
    | lift_lets

theorem holdLow_keeps {w : Nat} {P : PlotId → Bool} {s0 s : State} (f : Fn) (base : Nat) (v : Word) (hK : Keeps w P s0 s) (hw : Covers w 32 := by exact Covers.of (by assumption) (by decide)) :
    Keeps w P s0 (holdLow s f base v) := by
  unfold holdLow
  repeat' first
    | with_reducible assumption
    | with_reducible exact Covers.of hw (by decide)
    | with_reducible apply Same.mk
    | with_reducible exact .inr rfl
    | exact .inl (hw.bit _ (by decide))
    | exact .inr (fun _ _ => rfl)
    | intro x
    | with_reducible exact Keeps.refl _
    | with_reducible apply State.modFn_keeps
    | with_reducible apply Keeps.upd
    | exact rfl

theorem applyHigh_keeps {w : Nat} {P : PlotId → Bool} {s0 s : State} (f : Fn) (base : Nat) (v : Word) (hK : Keeps w P s0 s) (hw : Covers w 11432 := by exact Covers.of (by assumption) (by decide)) (hP : ∀ q, P q = true := by assumption) :
    Keeps w P s0 (applyHigh s f base v) := by
  unfold applyHigh
  repeat' first
    | with_reducible assumption
    | with_reducible exact Covers.of hw (by decide)
    | with_reducible exact .inl hP
    | with_reducible exact hP _
    | with_reducible apply Same.mk
    | with_reducible exact .inr rfl
    | exact .inl (hw.bit _ (by decide))
    | exact .inr (fun _ _ => rfl)
    | (intro x; have hx : Keeps w P s0 x := by { dsimp only [x]; repeat' first
          | with_reducible assumption
          | with_reducible exact Covers.of hw (by decide)
          | with_reducible exact .inl hP
          | with_reducible exact hP _
          | with_reducible apply Same.mk
          | with_reducible exact .inr rfl
          | exact .inl (hw.bit _ (by decide))
          | exact .inr (fun _ _ => rfl)
          | with_reducible exact Keeps.refl _
          | with_reducible apply State.modFn_keeps
          | with_reducible apply setPair_keeps
          | split
          | with_reducible apply Keeps.upd
          | exact rfl
          | intro y
          | lift_lets }; clear_value x)
    | intro x
    | with_reducible exact Keeps.refl _
    | with_reducible apply State.modFn_keeps
    | with_reducible apply setPair_keeps
    | split
    | with_reducible apply Keeps.upd
    | exact rfl
    | lift_lets

theorem setSel_keeps {w : Nat} {P : PlotId → Bool} {s0 s : State} (f : Fn) (a mask : Nat) (v : Word) (hK : Keeps w P s0 s) (hw : Covers w 32 := by exact Covers.of (by assumption) (by decide)) :
    Keeps w P s0 (setSel s f a mask v) := by
  unfold setSel
  repeat' first
    | with_reducible assumption
    | with_reducible exact Covers.of hw (by decide)
    | with_reducible apply Same.mk
    | with_reducible exact .inr rfl
    | exact .inl (hw.bit _ (by decide))
    | exact .inr (fun _ _ => rfl)
    | intro x
    | with_reducible exact Keeps.refl _
    | with_reducible apply State.modFn_keeps
    | with_reducible apply Keeps.upd
    | exact rfl

theorem writeFrm_keeps {w : Nat} {P : PlotId → Bool} {s0 s : State} (o : Nat) (v : Word) (hK : Keeps w P s0 s) (hw : Covers w 8 := by exact Covers.of (by assumption) (by decide)) :
    Keeps w P s0 (writeFrm s o v) := by
  unfold writeFrm
  repeat' first
    | with_reducible assumption
    | with_reducible exact Covers.of hw (by decide)
    | with_reducible apply Same.mk
    | with_reducible exact .inr rfl
    | exact .inl (hw.bit _ (by decide))
    | exact .inr (fun _ _ => rfl)
    | intro x
    | with_reducible exact Keeps.refl _
    | with_reducible apply State.modFrm_keeps
    | with_reducible apply frmCtl_keeps
    | split
    | with_reducible apply Keeps.upd
    | exact rfl

theorem writePltGlobal_keeps {w : Nat} {P : PlotId → Bool} {s0 s : State} (o : Nat) (v : Word) (hK : Keeps w P s0 s) (hw : Covers w 134217776 := by exact Covers.of (by assumption) (by decide)) (hP : ∀ q, P q = true := by assumption) :
    Keeps w P s0 (writePltGlobal s o v) := by
  unfold writePltGlobal
  repeat' first
    | with_reducible assumption
    | with_reducible exact Covers.of hw (by decide)
    | with_reducible exact .inl hP
    | with_reducible exact hP _
    | intro x
    | with_reducible exact Keeps.refl _
    | with_reducible apply irqMaskWrite_keeps
    | with_reducible apply pfIrqClear_keeps
    | with_reducible apply chgClear_keeps
    | with_reducible apply faultClear_keeps
    | split

theorem writePltCtl_keeps {w : Nat} {P : PlotId → Bool} {s0 s : State} (q : PlotId) (v : Word) (hK : Keeps w P s0 s) (hw : Covers w 137060912 := by exact Covers.of (by assumption) (by decide)) (hP : P q = true := by first | assumption | exact ‹∀ q, P q = true› _) :
    Keeps w P s0 (writePltCtl s q v) := by
  unfold writePltCtl
  repeat' first
    | with_reducible assumption
    | with_reducible exact Covers.of hw (by decide)
    | (intro x; have hx : Keeps w P s0 x := by { dsimp only [x]; repeat' first
          | with_reducible assumption
          | with_reducible exact Covers.of hw (by decide)
          | with_reducible exact Keeps.refl _
          | with_reducible apply plotControl_keeps
          | with_reducible apply plotResetFrom_keeps
          | split
          | intro y
          | lift_lets }; clear_value x)
    | intro x
    | with_reducible exact Keeps.refl _
    | with_reducible apply plotControl_keeps
    | with_reducible apply plotResetFrom_keeps
    | split
    | lift_lets

theorem writePltVctl_keeps {w : Nat} {P : PlotId → Bool} {s0 s : State} (f : Fn) (q : PlotId) (v : Word) (hK : Keeps w P s0 s) (hw : Covers w 137060976 := by exact Covers.of (by assumption) (by decide)) (hP : P q = true := by first | assumption | exact ‹∀ q, P q = true› _) :
    Keeps w P s0 (writePltVctl s f q v) := by
  unfold writePltVctl
  repeat' first
    | with_reducible assumption
    | with_reducible exact Covers.of hw (by decide)
    | with_reducible apply Same.mk
    | with_reducible exact .inr rfl
    | exact .inl (hw.bit _ (by decide))
    | exact .inr (fun _ _ => rfl)
    | (intro x; have hx : Keeps w P s0 x := by { dsimp only [x]; repeat' first
          | with_reducible assumption
          | with_reducible exact Covers.of hw (by decide)
          | with_reducible apply Same.mk
          | with_reducible exact .inr rfl
          | exact .inl (hw.bit _ (by decide))
          | exact .inr (fun _ _ => rfl)
          | with_reducible exact Keeps.refl _
          | with_reducible apply State.modPlt_keeps
          | with_reducible apply startFetch_keeps
          | with_reducible apply plotResetFrom_keeps
          | with_reducible apply cancelFrom_keeps
          | split
          | with_reducible apply Keeps.upd
          | exact rfl
          | intro y
          | lift_lets }; clear_value x)
    | intro x
    | with_reducible exact Keeps.refl _
    | with_reducible apply State.modPlt_keeps
    | with_reducible apply startFetch_keeps
    | with_reducible apply plotResetFrom_keeps
    | with_reducible apply cancelFrom_keeps
    | split
    | with_reducible apply Keeps.upd
    | exact rfl
    | lift_lets

theorem writePltSet_keeps {w : Nat} {P : PlotId → Bool} {s0 s : State} (f : Fn) (q : PlotId) (o : Nat) (v : Word) (hK : Keeps w P s0 s) (hw : Covers w 137062000 := by exact Covers.of (by assumption) (by decide)) (hP : P q = true := by first | assumption | exact ‹∀ q, P q = true› _) :
    Keeps w P s0 (writePltSet s f q o v) := by
  unfold writePltSet
  repeat' first
    | with_reducible assumption
    | with_reducible exact Covers.of hw (by decide)
    | with_reducible apply Same.mk
    | with_reducible exact .inr rfl
    | exact .inl (hw.bit _ (by decide))
    | exact .inr (fun _ _ => rfl)
    | intro x
    | with_reducible exact Keeps.refl _
    | with_reducible apply State.modPlt_keeps
    | with_reducible apply sqTailWrite_keeps
    | with_reducible apply cqHeadWrite_keeps
    | with_reducible apply irqMaskWrite_keeps
    | with_reducible apply irqClear_keeps
    | with_reducible apply writePltCtl_keeps
    | with_reducible apply writePltVctl_keeps
    | split
    | with_reducible apply Keeps.upd
    | exact rfl

theorem writeFuseCtl_keeps {w : Nat} {P : PlotId → Bool} {s0 s : State} (v : Word) (hK : Keeps w P s0 s) (hw : Covers w 128 := by exact Covers.of (by assumption) (by decide)) :
    Keeps w P s0 (writeFuseCtl s v) := by
  unfold writeFuseCtl
  repeat' first
    | with_reducible assumption
    | with_reducible exact Covers.of hw (by decide)
    | (intro x; have hx : Keeps w P s0 x := by { dsimp only [x]; repeat' first
          | with_reducible assumption
          | with_reducible exact Covers.of hw (by decide)
          | with_reducible exact Keeps.refl _
          | with_reducible apply fuseProgram_keeps
          | with_reducible apply fuseRevoke_keeps
          | with_reducible apply fuseLock_keeps
          | split
          | intro y
          | lift_lets }; clear_value x)
    | intro x
    | with_reducible exact Keeps.refl _
    | with_reducible apply fuseProgram_keeps
    | with_reducible apply fuseRevoke_keeps
    | with_reducible apply fuseLock_keeps
    | split
    | lift_lets

theorem writeCfgGlobal_keeps {w : Nat} {P : PlotId → Bool} {s0 s : State} (o : Nat) (v : Word) (hK : Keeps w P s0 s) (hw : Covers w 134219504 := by exact Covers.of (by assumption) (by decide)) (hP : ∀ q, P q = true := by assumption) :
    Keeps w P s0 (writeCfgGlobal s o v) := by
  unfold writeCfgGlobal
  repeat' first
    | with_reducible assumption
    | with_reducible exact Covers.of hw (by decide)
    | with_reducible exact .inl hP
    | with_reducible exact hP _
    | with_reducible apply Same.mk
    | with_reducible exact .inr rfl
    | exact .inl (hw.bit _ (by decide))
    | exact .inr (fun _ _ => rfl)
    | intro x
    | with_reducible exact Keeps.refl _
    | with_reducible apply State.modCfg_keeps
    | with_reducible apply cfgCtlWrite_keeps
    | with_reducible apply writeFuseCtl_keeps
    | split
    | with_reducible apply Keeps.upd
    | exact rfl

theorem writeMshGlobal_keeps {w : Nat} {P : PlotId → Bool} {s0 s : State} (o : Nat) (v : Word) (hK : Keeps w P s0 s) (hw : Covers w 512 := by exact Covers.of (by assumption) (by decide)) :
    Keeps w P s0 (writeMshGlobal s o v) := by
  unfold writeMshGlobal
  repeat' first
    | with_reducible assumption
    | with_reducible exact Covers.of hw (by decide)
    | with_reducible apply Same.mk
    | with_reducible exact .inr rfl
    | exact .inl (hw.bit _ (by decide))
    | exact .inr (fun _ _ => rfl)
    | intro x
    | with_reducible exact Keeps.refl _
    | split
    | with_reducible apply Keeps.upd
    | exact rfl

theorem writeMshSet_keeps {w : Nat} {P : PlotId → Bool} {s0 s : State} (f : Fn) (q : PlotId) (o : Nat) (v : Word) (hK : Keeps w P s0 s) (hw : Covers w 67109376 := by exact Covers.of (by assumption) (by decide)) (hP : P q = true := by first | assumption | exact ‹∀ q, P q = true› _) :
    Keeps w P s0 (writeMshSet s f q o v) := by
  unfold writeMshSet
  repeat' first
    | with_reducible assumption
    | with_reducible exact Covers.of hw (by decide)
    | with_reducible apply Same.mk
    | with_reducible exact .inr rfl
    | exact .inl (hw.bit _ (by decide))
    | exact .inr (fun _ _ => rfl)
    | intro x
    | with_reducible exact Keeps.refl _
    | with_reducible apply State.modMsh_keeps
    | with_reducible apply pcacheWrite_keeps
    | split
    | with_reducible apply Keeps.upd
    | exact rfl

theorem writeAnlGlobal_keeps {w : Nat} {P : PlotId → Bool} {s0 s : State} (o : Nat) (v : Word) (hK : Keeps w P s0 s) (hw : Covers w 4096 := by exact Covers.of (by assumption) (by decide)) :
    Keeps w P s0 (writeAnlGlobal s o v) := by
  unfold writeAnlGlobal
  repeat' first
    | with_reducible assumption
    | with_reducible exact Covers.of hw (by decide)
    | with_reducible apply Same.mk
    | with_reducible exact .inr rfl
    | exact .inl (hw.bit _ (by decide))
    | exact .inr (fun _ _ => rfl)
    | intro x
    | with_reducible exact Keeps.refl _
    | split
    | with_reducible apply Keeps.upd
    | exact rfl

theorem writeAnlSet_keeps {w : Nat} {P : PlotId → Bool} {s0 s : State} (q : PlotId) (o : Nat) (v : Word) (hK : Keeps w P s0 s) (hP : P q = true := by first | assumption | exact ‹∀ q, P q = true› _) :
    Keeps w P s0 (writeAnlSet s q o v) := by
  unfold writeAnlSet
  repeat' first
    | with_reducible assumption
    | with_reducible apply Same.mk
    | with_reducible exact .inr rfl
    | exact .inr (fun _ _ => rfl)
    | intro x
    | with_reducible exact Keeps.refl _
    | with_reducible apply State.modPlot_keeps
    | split
    | with_reducible apply Keeps.upd
    | exact rfl

theorem writeRetry_keeps {w : Nat} {P : PlotId → Bool} {s0 s : State} (v : Word) (hK : Keeps w P s0 s) (hw : Covers w 8192 := by exact Covers.of (by assumption) (by decide)) :
    Keeps w P s0 (writeRetry s v) := by
  unfold writeRetry
  repeat' first
    | with_reducible assumption
    | with_reducible exact Covers.of hw (by decide)
    | (intro x; have hx : Keeps w P s0 x := by { dsimp only [x]; repeat' first
          | with_reducible assumption
          | with_reducible exact Covers.of hw (by decide)
          | with_reducible exact Keeps.refl _
          | with_reducible apply retryWell_keeps
          | with_reducible apply retryChannel_keeps
          | split
          | intro y
          | lift_lets }; clear_value x)
    | intro x
    | with_reducible exact Keeps.refl _
    | with_reducible apply retryWell_keeps
    | with_reducible apply retryChannel_keeps
    | split
    | lift_lets

theorem writeNseGlobal_keeps {w : Nat} {P : PlotId → Bool} {s0 s : State} (o : Nat) (v : Word) (hK : Keeps w P s0 s) (hw : Covers w 8192 := by exact Covers.of (by assumption) (by decide)) :
    Keeps w P s0 (writeNseGlobal s o v) := by
  unfold writeNseGlobal
  repeat' first
    | with_reducible assumption
    | with_reducible exact Covers.of hw (by decide)
    | with_reducible apply Same.mk
    | with_reducible exact .inr rfl
    | exact .inl (hw.bit _ (by decide))
    | exact .inr (fun _ _ => rfl)
    | intro x
    | with_reducible exact Keeps.refl _
    | with_reducible apply writeRetry_keeps
    | split
    | with_reducible apply Keeps.upd
    | exact rfl

theorem writeNseSet_keeps {w : Nat} {P : PlotId → Bool} {s0 s : State} (q : PlotId) (o : Nat) (v : Word) (hK : Keeps w P s0 s) (hw : Covers w 134227056 := by exact Covers.of (by assumption) (by decide)) (hP : P q = true := by first | assumption | exact ‹∀ q, P q = true› _) :
    Keeps w P s0 (writeNseSet s q o v) := by
  unfold writeNseSet
  repeat' first
    | with_reducible assumption
    | with_reducible exact Covers.of hw (by decide)
    | with_reducible apply Same.mk
    | with_reducible exact .inr rfl
    | exact .inl (hw.bit _ (by decide))
    | exact .inr (fun _ _ => rfl)
    | intro x
    | with_reducible exact Keeps.refl _
    | with_reducible apply State.modNse_keeps
    | with_reducible apply tapeDoorbell_keeps
    | with_reducible apply rngRequest_keeps
    | split
    | with_reducible apply Keeps.upd
    | exact rfl

theorem writeFlnGlobal_keeps {w : Nat} {P : PlotId → Bool} {s0 s : State} (o : Nat) (v : Word) (hK : Keeps w P s0 s) (hw : Covers w 134234112 := by exact Covers.of (by assumption) (by decide)) :
    Keeps w P s0 (writeFlnGlobal s o v) := by
  unfold writeFlnGlobal
  repeat' first
    | with_reducible assumption
    | with_reducible exact Covers.of hw (by decide)
    | intro x
    | with_reducible exact Keeps.refl _
    | with_reducible apply lunClear_keeps
    | split

theorem writePwrGlobal_keeps {w : Nat} {P : PlotId → Bool} {s0 s : State} (o : Nat) (v : Word) (hK : Keeps w P s0 s) (hw : Covers w 150994944 := by exact Covers.of (by assumption) (by decide)) :
    Keeps w P s0 (writePwrGlobal s o v) := by
  unfold writePwrGlobal
  repeat' first
    | with_reducible assumption
    | with_reducible exact Covers.of hw (by decide)
    | with_reducible apply Same.mk
    | with_reducible exact .inr rfl
    | exact .inl (hw.bit _ (by decide))
    | exact .inr (fun _ _ => rfl)
    | intro x
    | with_reducible exact Keeps.refl _
    | with_reducible apply State.modPwr_keeps
    | with_reducible apply pwrCtlWrite_keeps
    | split
    | with_reducible apply Keeps.upd
    | exact rfl

theorem writePwrSet_keeps {w : Nat} {P : PlotId → Bool} {s0 s : State} (q : PlotId) (o : Nat) (v : Word) (hK : Keeps w P s0 s) (hP : P q = true := by first | assumption | exact ‹∀ q, P q = true› _) :
    Keeps w P s0 (writePwrSet s q o v) := by
  unfold writePwrSet
  repeat' first
    | with_reducible assumption
    | with_reducible apply Same.mk
    | with_reducible exact .inr rfl
    | exact .inr (fun _ _ => rfl)
    | intro x
    | with_reducible exact Keeps.refl _
    | with_reducible apply State.modPlot_keeps
    | split
    | with_reducible apply Keeps.upd
    | exact rfl

theorem writeHstGlobal_keeps {w : Nat} {P : PlotId → Bool} {s0 s : State} (o : Nat) (v : Word) (hK : Keeps w P s0 s) (hw : Covers w 134217792 := by exact Covers.of (by assumption) (by decide)) :
    Keeps w P s0 (writeHstGlobal s o v) := by
  unfold writeHstGlobal
  repeat' first
    | with_reducible assumption
    | with_reducible exact Covers.of hw (by decide)
    | with_reducible apply Same.mk
    | with_reducible exact .inr rfl
    | exact .inl (hw.bit _ (by decide))
    | exact .inr (fun _ _ => rfl)
    | intro x
    | with_reducible exact Keeps.refl _
    | with_reducible apply ptmControl_keeps
    | split
    | with_reducible apply Keeps.upd
    | exact rfl

theorem writeSktGlobal_keeps {w : Nat} {P : PlotId → Bool} {s0 s : State} (f : Fn) (o : Nat) (v : Word) (hK : Keeps w P s0 s) (hw : Covers w 33554432 := by exact Covers.of (by assumption) (by decide)) :
    Keeps w P s0 (writeSktGlobal s f o v) := by
  unfold writeSktGlobal
  repeat' first
    | with_reducible assumption
    | with_reducible exact Covers.of hw (by decide)
    | with_reducible apply Same.mk
    | with_reducible exact .inr rfl
    | exact .inl (hw.bit _ (by decide))
    | exact .inr (fun _ _ => rfl)
    | (intro x; have hx : Keeps w P s0 x := by { dsimp only [x]; repeat' first
          | with_reducible assumption
          | with_reducible exact Covers.of hw (by decide)
          | with_reducible apply Same.mk
          | with_reducible exact .inr rfl
          | exact .inl (hw.bit _ (by decide))
          | exact .inr (fun _ _ => rfl)
          | with_reducible exact Keeps.refl _
          | with_reducible apply State.modSkt_keeps
          | with_reducible apply keyLoad_keeps
          | with_reducible apply keyClear_keeps
          | with_reducible apply portWrite_keeps
          | split
          | with_reducible apply Keeps.upd
          | exact rfl
          | intro y
          | lift_lets }; clear_value x)
    | intro x
    | with_reducible exact Keeps.refl _
    | with_reducible apply State.modSkt_keeps
    | with_reducible apply keyLoad_keeps
    | with_reducible apply keyClear_keeps
    | with_reducible apply portWrite_keeps
    | split
    | with_reducible apply Keeps.upd
    | exact rfl
    | lift_lets

theorem writeGlobal_keeps {w : Nat} {P : PlotId → Bool} {s0 s : State} (f : Fn) (b o : Nat) (v : Word) (hK : Keeps w P s0 s) (hw : Covers w 184579832 := by exact Covers.of (by assumption) (by decide)) (hP : ∀ q, P q = true := by assumption) :
    Keeps w P s0 (writeGlobal s f b o v) := by
  unfold writeGlobal
  repeat' first
    | with_reducible assumption
    | with_reducible exact Covers.of hw (by decide)
    | with_reducible exact .inl hP
    | with_reducible exact hP _
    | intro x
    | with_reducible exact Keeps.refl _
    | with_reducible apply writeFrm_keeps
    | with_reducible apply writePltGlobal_keeps
    | with_reducible apply writeCfgGlobal_keeps
    | with_reducible apply writeMshGlobal_keeps
    | with_reducible apply writeAnlGlobal_keeps
    | with_reducible apply writeNseGlobal_keeps
    | with_reducible apply writeFlnGlobal_keeps
    | with_reducible apply writePwrGlobal_keeps
    | with_reducible apply writeHstGlobal_keeps
    | with_reducible apply writeSktGlobal_keeps
    | split

theorem writeSet_keeps {w : Nat} {P : PlotId → Bool} {s0 s : State} (f : Fn) (b : Nat) (q : PlotId) (o : Nat) (v : Word) (hK : Keeps w P s0 s) (hw : Covers w 204172920 := by exact Covers.of (by assumption) (by decide)) (hP : P q = true := by first | assumption | exact ‹∀ q, P q = true› _) :
    Keeps w P s0 (writeSet s f b q o v) := by
  unfold writeSet
  repeat' first
    | with_reducible assumption
    | with_reducible exact Covers.of hw (by decide)
    | intro x
    | with_reducible exact Keeps.refl _
    | with_reducible apply revertFrom_keeps
    | with_reducible apply attGoFrom_keeps
    | with_reducible apply writePltSet_keeps
    | with_reducible apply writeMshSet_keeps
    | with_reducible apply writeAnlSet_keeps
    | with_reducible apply writeNseSet_keeps
    | with_reducible apply writePwrSet_keeps
    | split

theorem writeReg_keeps {w : Nat} {P : PlotId → Bool} {s0 s : State} (f : Fn) (a : Nat) (v : Word) (hK : Keeps w P s0 s) (hw : Covers w 254508792 := by exact Covers.of (by assumption) (by decide)) (hP : ∀ q, P q = true := by assumption) :
    Keeps w P s0 (writeReg s f a v) := by
  unfold writeReg
  repeat' first
    | with_reducible assumption
    | with_reducible exact Covers.of hw (by decide)
    | with_reducible exact .inl hP
    | with_reducible exact hP _
    | intro x
    | with_reducible exact Keeps.refl _
    | with_reducible apply State.setShadow_keeps
    | with_reducible apply holdLow_keeps
    | with_reducible apply applyHigh_keeps
    | with_reducible apply setSel_keeps
    | with_reducible apply writeGlobal_keeps
    | with_reducible apply writeSet_keeps
    | split

theorem hostWriteWord_keeps {w : Nat} {P : PlotId → Bool} {s0 s : State} (f : Fn) (off : Nat) (v same : Word) (hK : Keeps w P s0 s) (hw : Covers w 522944248 := by exact Covers.of (by assumption) (by decide)) (hP : ∀ q, P q = true := by assumption) :
    Keeps w P s0 (hostWriteWord s f off v same) := by
  unfold hostWriteWord
  repeat' first
    | with_reducible assumption
    | with_reducible exact Covers.of hw (by decide)
    | with_reducible exact .inl hP
    | with_reducible exact hP _
    | intro x
    | with_reducible exact Keeps.refl _
    | with_reducible apply hostGate_keeps
    | with_reducible apply msixWordWrite_keeps
    | with_reducible apply discard_keeps
    | with_reducible apply writeReg_keeps
    | split

theorem hostWriteWide_keeps {w : Nat} {P : PlotId → Bool} {s0 s : State} (f : Fn) (off : Nat) (v : Word64) (hK : Keeps w P s0 s) (hw : Covers w 402653296 := by exact Covers.of (by assumption) (by decide)) :
    Keeps w P s0 (hostWriteWide s f off v) := by
  unfold hostWriteWide
  repeat' first
    | with_reducible assumption
    | with_reducible exact Covers.of hw (by decide)
    | intro x
    | with_reducible exact Keeps.refl _
    | with_reducible apply hostGate_keeps
    | with_reducible apply msixWordWrite_keeps
    | with_reducible apply discard_keeps
    | split

theorem configFrom_keeps {w : Nat} {P : PlotId → Bool} {s0 s : State} (f : Fn) (c : ConfigField) (hK : Keeps w P s0 s) (hw : Covers w 405488240 := by exact Covers.of (by assumption) (by decide)) (hP : ∀ q, P q = true := by assumption) :
    Keeps w P s0 (configFrom s f c) := by
  unfold configFrom
  repeat' first
    | with_reducible assumption
    | with_reducible exact Covers.of hw (by decide)
    | with_reducible exact .inl hP
    | with_reducible exact hP _
    | intro x
    | with_reducible exact Keeps.refl _
    | with_reducible apply cfgGate_keeps
    | with_reducible apply configWriteFrom_keeps

theorem hostWriteAny_keeps {w : Nat} {P : PlotId → Bool} {s0 s : State} (f : Fn) (x : HostWrite) (h : Keeps w P s0 s) (hw : Covers w 522944248 := by exact Covers.of (by assumption) (by decide))
    (hP : ∀ q, P q = true := by assumption) : Keeps w P s0 (hostWriteAny s f x) := by
  cases x with
  | reg off v same => exact hostWriteWord_keeps _ _ _ _ h
  | wide off v => exact hostWriteWide_keeps _ _ _ h
  | config c => exact configFrom_keeps _ _ h

/-! ### Sys2Proof/Machine/PowerUp.lean -/

theorem perstOff_keeps {w : Nat} {P : PlotId → Bool} {s0 s : State} (hK : Keeps w P s0 s) (hw : Covers w 1 := by exact Covers.of (by assumption) (by decide)) :
    Keeps w P s0 (perstOff s) := by
  unfold perstOff
  repeat' first
    | with_reducible assumption
    | with_reducible exact Covers.of hw (by decide)
    | with_reducible apply Same.mk
    | with_reducible exact .inr rfl
    | exact .inl (hw.bit _ (by decide))
    | exact .inr (fun _ _ => rfl)
    | intro x
    | with_reducible exact Keeps.refl _
    | with_reducible apply Keeps.upd
    | exact rfl

theorem linkTrains_keeps {w : Nat} {P : PlotId → Bool} {s0 s : State} (speed : Fin 6) (width : Fin 17) (hK : Keeps w P s0 s) (hw : Covers w 65 := by exact Covers.of (by assumption) (by decide)) :
    Keeps w P s0 (linkTrains s speed width) := by
  unfold linkTrains
  repeat' first
    | with_reducible assumption
    | with_reducible exact Covers.of hw (by decide)
    | with_reducible apply Same.mk
    | with_reducible exact .inr rfl
    | exact .inl (hw.bit _ (by decide))
    | exact .inr (fun _ _ => rfl)
    | (intro x; have hx : Keeps w P s0 x := by { dsimp only [x]; repeat' first
          | with_reducible assumption
          | with_reducible exact Covers.of hw (by decide)
          | with_reducible apply Same.mk
          | with_reducible exact .inr rfl
          | exact .inl (hw.bit _ (by decide))
          | exact .inr (fun _ _ => rfl)
          | with_reducible exact Keeps.refl _
          | with_reducible apply State.advanceTo_keeps
          | split
          | with_reducible apply Keeps.upd
          | exact rfl
          | intro y
          | lift_lets }; clear_value x)
    | intro x
    | with_reducible exact Keeps.refl _
    | with_reducible apply State.advanceTo_keeps
    | split
    | with_reducible apply Keeps.upd
    | exact rfl
    | lift_lets

theorem memoryReady_keeps {w : Nat} {P : PlotId → Bool} {s0 s : State} (hK : Keeps w P s0 s) (hw : Covers w 1 := by exact Covers.of (by assumption) (by decide)) :
    Keeps w P s0 (memoryReady s) := by
  unfold memoryReady
  repeat' first
    | with_reducible assumption
    | with_reducible exact Covers.of hw (by decide)
    | with_reducible apply Same.mk
    | with_reducible exact .inr rfl
    | exact .inl (hw.bit _ (by decide))
    | exact .inr (fun _ _ => rfl)
    | (intro x; have hx : Keeps w P s0 x := by { dsimp only [x]; repeat' first
          | with_reducible assumption
          | with_reducible exact Covers.of hw (by decide)
          | with_reducible apply Same.mk
          | with_reducible exact .inr rfl
          | exact .inl (hw.bit _ (by decide))
          | exact .inr (fun _ _ => rfl)
          | with_reducible exact Keeps.refl _
          | with_reducible apply State.advanceTo_keeps
          | split
          | with_reducible apply Keeps.upd
          | exact rfl
          | intro y
          | lift_lets }; clear_value x)
    | intro x
    | with_reducible exact Keeps.refl _
    | with_reducible apply State.advanceTo_keeps
    | split
    | with_reducible apply Keeps.upd
    | exact rfl
    | lift_lets

theorem renewStops_keeps {w : Nat} {P : PlotId → Bool} {s0 s : State} (hK : Keeps w P s0 s) (hw : Covers w 134220848 := by exact Covers.of (by assumption) (by decide)) :
    Keeps w P s0 (renewStops s) := by
  unfold renewStops
  repeat' first
    | with_reducible assumption
    | with_reducible exact Covers.of hw (by decide)
    | (intro x; have hx : Keeps w P s0 x := by { dsimp only [x]; repeat' first
          | with_reducible assumption
          | with_reducible exact Covers.of hw (by decide)
          | with_reducible exact Keeps.refl _
          | with_reducible apply stopSigning_keeps
          | with_reducible apply stopPlotSigning_keeps
          | with_reducible apply Keeps.eachPlot
          | split
          | intro y
          | lift_lets }; clear_value x)
    | intro x
    | with_reducible exact Keeps.refl _
    | with_reducible apply stopSigning_keeps
    | with_reducible apply stopPlotSigning_keeps
    | with_reducible apply Keeps.eachPlot
    | split
    | lift_lets

theorem becomeReady_keeps {w : Nat} {P : PlotId → Bool} {s0 s : State} (hK : Keeps w P s0 s) (hw : Covers w 150998073 := by exact Covers.of (by assumption) (by decide)) (hP : ∀ q, P q = true := by assumption) :
    Keeps w P s0 (becomeReady s) := by
  unfold becomeReady
  repeat' first
    | with_reducible assumption
    | with_reducible exact Covers.of hw (by decide)
    | with_reducible exact .inl hP
    | with_reducible exact hP _
    | with_reducible apply Same.mk
    | with_reducible exact .inr rfl
    | exact .inl (hw.bit _ (by decide))
    | exact .inr (fun _ _ => rfl)
    | (intro x; have hx : Keeps w P s0 x := by { dsimp only [x]; repeat' first
          | with_reducible assumption
          | with_reducible exact Covers.of hw (by decide)
          | with_reducible exact .inl hP
          | with_reducible exact hP _
          | with_reducible apply Same.mk
          | with_reducible exact .inr rfl
          | exact .inl (hw.bit _ (by decide))
          | exact .inr (fun _ _ => rfl)
          | with_reducible exact Keeps.refl _
          | with_reducible apply State.modFrm_keeps
          | with_reducible apply State.advanceTo_keeps
          | with_reducible apply State.logLine_keeps
          | with_reducible apply vrAlertReport_keeps
          | with_reducible apply pmbusStart_keeps
          | with_reducible apply renewStops_keeps
          | split
          | with_reducible apply Keeps.upd
          | exact rfl
          | intro y
          | lift_lets }; clear_value x)
    | intro x
    | with_reducible exact Keeps.refl _
    | with_reducible apply State.modFrm_keeps
    | with_reducible apply State.advanceTo_keeps
    | with_reducible apply State.logLine_keeps
    | with_reducible apply vrAlertReport_keeps
    | with_reducible apply pmbusStart_keeps
    | with_reducible apply renewStops_keeps
    | split
    | with_reducible apply Keeps.upd
    | exact rfl
    | lift_lets

theorem keyTimeout_keeps {w : Nat} {P : PlotId → Bool} {s0 s : State} (hK : Keeps w P s0 s) (hw : Covers w 134220851 := by exact Covers.of (by assumption) (by decide)) :
    Keeps w P s0 (keyTimeout s) := by
  unfold keyTimeout
  repeat' first
    | with_reducible assumption
    | with_reducible exact Covers.of hw (by decide)
    | with_reducible apply Same.mk
    | with_reducible exact .inr rfl
    | exact .inl (hw.bit _ (by decide))
    | exact .inr (fun _ _ => rfl)
    | (intro x; have hx : Keeps w P s0 x := by { dsimp only [x]; repeat' first
          | with_reducible assumption
          | with_reducible exact Covers.of hw (by decide)
          | with_reducible apply Same.mk
          | with_reducible exact .inr rfl
          | exact .inl (hw.bit _ (by decide))
          | exact .inr (fun _ _ => rfl)
          | with_reducible exact Keeps.refl _
          | with_reducible apply State.advanceTo_keeps
          | with_reducible apply stopSigning_keeps
          | split
          | with_reducible apply Keeps.upd
          | exact rfl
          | intro y
          | lift_lets }; clear_value x)
    | intro x
    | with_reducible exact Keeps.refl _
    | with_reducible apply State.advanceTo_keeps
    | with_reducible apply stopSigning_keeps
    | split
    | with_reducible apply Keeps.upd
    | exact rfl
    | lift_lets

theorem smbServe_keeps {w : Nat} {P : PlotId → Bool} {s0 s : State} (x : SmbXfer) (k : State → State × Response) (hK : Keeps w P s0 s) (hk : ∀ t, Keeps w P s0 t → Keeps w P s0 (k t).1) (hw : Covers w 268435520 := by exact Covers.of (by assumption) (by decide)) :
    Keeps w P s0 (smbServe s x k) := by
  unfold smbServe
  repeat' first
    | with_reducible assumption
    | with_reducible exact Covers.of hw (by decide)
    | with_reducible apply Same.mk
    | with_reducible exact .inr rfl
    | exact .inl (hw.bit _ (by decide))
    | exact .inr (fun _ _ => rfl)
    | (intro x; have hx : Keeps w P s0 x := by { dsimp only [x]; repeat' first
          | with_reducible assumption
          | with_reducible exact Covers.of hw (by decide)
          | with_reducible apply Same.mk
          | with_reducible exact .inr rfl
          | exact .inl (hw.bit _ (by decide))
          | exact .inr (fun _ _ => rfl)
          | with_reducible exact Keeps.refl _
          | with_reducible apply hk
          | split
          | with_reducible apply Keeps.upd
          | exact rfl
          | intro y
          | lift_lets }; clear_value x)
    | intro x
    | with_reducible exact Keeps.refl _
    | with_reducible apply hk
    | split
    | with_reducible apply Keeps.upd
    | exact rfl
    | lift_lets

theorem smbRead_keeps {w : Nat} {P : PlotId → Bool} {s0 s : State} (x : SmbXfer) (code n : Nat) (block : Bool) (v : State → State × Nat) (hK : Keeps w P s0 s) (hv : ∀ t, Keeps w P s0 t → Keeps w P s0 (v t).1) (hw : Covers w 268435520 := by exact Covers.of (by assumption) (by decide)) :
    Keeps w P s0 (smbRead s x code n block v) := by
  unfold smbRead
  repeat' first
    | with_reducible assumption
    | with_reducible exact Covers.of hw (by decide)
    | with_reducible apply Same.mk
    | with_reducible exact .inr rfl
    | exact .inl (hw.bit _ (by decide))
    | exact .inr (fun _ _ => rfl)
    | (intro x; have hx : Keeps w P s0 x := by { dsimp only [x]; repeat' first
          | with_reducible assumption
          | with_reducible exact Covers.of hw (by decide)
          | with_reducible apply Same.mk
          | with_reducible exact .inr rfl
          | exact .inl (hw.bit _ (by decide))
          | exact .inr (fun _ _ => rfl)
          | with_reducible exact Keeps.refl _
          | with_reducible apply hv
          | with_reducible apply smbServe_keeps
          | split
          | with_reducible apply Keeps.upd
          | exact rfl
          | intro y
          | lift_lets }; clear_value x)
    | intro x
    | with_reducible exact Keeps.refl _
    | with_reducible apply hv
    | with_reducible apply smbServe_keeps
    | split
    | with_reducible apply Keeps.upd
    | exact rfl
    | lift_lets

theorem smbValue_keeps {w : Nat} {P : PlotId → Bool} {s0 s : State} (v : State → Nat) (h : Keeps w P s0 s) : Keeps w P s0 (smbValue v s).1 := h

theorem smbIdentity_keeps {w : Nat} {P : PlotId → Bool} {s0 s : State} (hK : Keeps w P s0 s) (hw : Covers w 536870912 := by exact Covers.of (by assumption) (by decide)) :
    Keeps w P s0 (smbIdentity s).1 := by
  unfold smbIdentity
  repeat' first
    | with_reducible assumption
    | with_reducible exact Covers.of hw (by decide)
    | intro x
    | with_reducible exact Keeps.refl _
    | with_reducible apply State.takeFree_keeps
    | refine Keeps.of_snd (by assumption) ?_
    | split

theorem smbRegAddress_keeps {w : Nat} {P : PlotId → Bool} {s0 s : State} (x : SmbXfer) (write : Option (Word × Option Byte)) (hK : Keeps w P s0 s) (hw : Covers w 268435520 := by exact Covers.of (by assumption) (by decide)) :
    Keeps w P s0 (smbRegAddress s x write) := by
  unfold smbRegAddress
  repeat' first
    | with_reducible assumption
    | with_reducible exact Covers.of hw (by decide)
    | with_reducible apply Same.mk
    | with_reducible exact .inr rfl
    | exact .inl (hw.bit _ (by decide))
    | exact .inr (fun _ _ => rfl)
    | (intro x; have hx : Keeps w P s0 x := by { dsimp only [x]; repeat' first
          | with_reducible assumption
          | with_reducible exact Covers.of hw (by decide)
          | with_reducible apply Same.mk
          | with_reducible exact .inr rfl
          | exact .inl (hw.bit _ (by decide))
          | exact .inr (fun _ _ => rfl)
          | with_reducible exact Keeps.refl _
          | with_reducible apply smbServe_keeps
          | with_reducible apply smbRead_keeps
          | with_reducible apply smbValue_keeps
          | refine Keeps.of_fst (by assumption) ?_
          | split
          | with_reducible apply Keeps.upd
          | exact rfl
          | intro y
          | lift_lets }; clear_value x)
    | intro x
    | with_reducible exact Keeps.refl _
    | with_reducible apply smbServe_keeps
    | with_reducible apply smbRead_keeps
    | with_reducible apply smbValue_keeps
    | refine Keeps.of_fst (by assumption) ?_
    | split
    | with_reducible apply Keeps.upd
    | exact rfl
    | lift_lets

theorem smbRegister_keeps {w : Nat} {P : PlotId → Bool} {s0 s : State} (h : Keeps w P s0 s) (hw : Covers w 536870976 := by exact Covers.of (by assumption) (by decide)) : Keeps w P s0 (smbRegister s).1 := by
  unfold smbRegister
  dsimp only
  split
  · exact h
  · split
    · exact State.takeFree_keeps h
    · split
      · exact h
      · split
        · exact h
        · split
          · exact State.takeFree_keeps h
          · exact Keeps.upd h rfl rfl rfl rfl rfl

end Sys2Proof.Machine
end

