-- ==== Sys2Proof/Laws/Follows.lean ====
section
/-!
SUPPORT. Sys2Proof/Laws/Follows.lean: what any command, a reset among them, keeps of the state it started from.
-/
namespace Sys2Proof.Machine

set_option Elab.async false
set_option linter.all false

/-! ### Resets and start-ups -/

/-- What one command may do to what outlives it (R312, R343, R311): blown fuses stay blown, time goes on, what has left the
device has left, and a plot's tag sequence falls only when the cold-boot flag is set, the epoch step failed, or a new epoch
was reached. -/
structure Follows (s t : State) : Prop where
  mem : MemInv s → MemInv t
  log : LogInv s → LogInv t
  pending : t.pending = s.pending
  blown : s.fuses.blown <:+ t.fuses.blown
  nonce : t.aux.coldFlag = true ∨ t.aux.epochState ≠ 0 ∨ s.fuses.epoch < t.fuses.epoch ∨
    ∀ q : PlotId, s.aux.pseq[q] ≤ t.aux.pseq[q]
  time : s.boot.tclk ≤ t.boot.tclk
  out : s.out <+: t.out

theorem Keeps.follows {w : Nat} {P : PlotId → Bool} {s t : State} (h : Keeps w P s t) : Follows s t :=
  ⟨h.mem, h.log, h.pending, h.blown ▸ List.suffix_refl _, .inr (.inr (.inr h.seq)), h.time, h.out⟩

theorem Follows.refl (s : State) : Follows s s := (Keeps.refl (w := 0) (P := fun _ => false) s).follows

theorem le_foldl_max : ∀ (l : List Nat) (n : Nat), n ≤ l.foldl max n
  | [], _ => Nat.le_refl _
  | x :: l, n => Nat.le_trans (Nat.le_max_left n x) (le_foldl_max l (max n x))

theorem foldl_max_mono : ∀ (l : List Nat) {m n : Nat}, m ≤ n → l.foldl max m ≤ l.foldl max n
  | [], _, _, h => h
  | _ :: l, _, _, h => foldl_max_mono l (by omega)

/-- More blown fuses, no smaller epoch. -/
theorem epoch_mono {f g : FuseState} (h : f.blown <:+ g.blown) : f.epoch ≤ g.epoch := by
  obtain ⟨l, hl⟩ := h
  unfold FuseState.epoch
  rw [← hl, List.foldl_append]
  exact foldl_max_mono _ (Nat.zero_le _)

/-- A kept state after a step. -/
theorem Follows.keeps {w : Nat} {P : PlotId → Bool} {a b c : State} (h : Follows a b) (k : Keeps w P b c) : Follows a c := by
  refine ⟨k.mem ∘ h.mem, k.log ∘ h.log, k.pending.trans h.pending, k.blown ▸ h.blown, ?_, Nat.le_trans h.time k.time, h.out.trans k.out⟩
  rcases h.nonce with e | e | e | e
  · exact .inl (k.cold.trans e)
  · exact .inr (.inl (by rw [k.epoch]; exact e))
  · refine .inr (.inr (.inl ?_))
    have : b.fuses.epoch = c.fuses.epoch := by unfold FuseState.epoch; rw [k.blown]
    omega
  · exact .inr (.inr (.inr (fun q => BitVec.le_trans (e q) (k.seq q))))

/-- A step after a kept state. -/
theorem Follows.of_keeps {w : Nat} {P : PlotId → Bool} {a b c : State} (k : Keeps w P a b) (h : Follows b c) : Follows a c := by
  refine ⟨h.mem ∘ k.mem, h.log ∘ k.log, h.pending.trans k.pending, k.blown ▸ h.blown, ?_, Nat.le_trans k.time h.time, k.out.trans h.out⟩
  rcases h.nonce with e | e | e | e
  · exact .inl e
  · exact .inr (.inl e)
  · refine .inr (.inr (.inl ?_))
    have : a.fuses.epoch = b.fuses.epoch := by unfold FuseState.epoch; rw [k.blown]
    omega
  · exact .inr (.inr (.inr (fun q => BitVec.le_trans (k.seq q) (e q))))

/-- What a reset keeps: it may write every part. -/
abbrev Any : State → State → Prop := Keeps (2 ^ 30 - 1) (fun _ => true)

theorem every_part : Covers (2 ^ 30 - 1) (2 ^ 30 - 1) := Covers.refl _
theorem every_plot : ∀ q : PlotId, (fun _ : PlotId => true) q = true := fun _ => rfl

theorem fuseCut_blown (s : State) : (fuseCut s).fuses.blown = s.fuses.blown := by
  unfold fuseCut
  split <;> rfl

/-- A wiped device keeps the VDD_AUX domain, the fuses that read blown, time and what has left the device. -/
theorem wiped_keeps {s0 s : State} (h : Any s0 s) : Any s0 (wiped s) := by
  have hw := every_part
  have hP := every_plot
  refine h.trans ⟨?_, fun _ => wf_nil, fun _ => ?_, rfl, fuseCut_blown s, rfl, rfl, fun _ => BitVec.le_refl _, Nat.le_refl _, List.prefix_refl _⟩
  · constructor <;> first | exact .inl (hw.bit _ (by decide)) | exact .inl hP
  exact ⟨Nat.zero_le _, fun x hx => (List.not_mem_nil hx).elim, .inl rfl⟩

/-- What an epoch step's tries do: STATE 0 comes with one more fuse blown, past every fuse blown before. -/
theorem tryFuses_spec : ∀ (n : Nat) (f : FuseState) (rb : List Bool),
    f.blown <:+ (tryFuses n f rb).1.blown ∧ ((tryFuses n f rb).2 = 0 → f.epoch < (tryFuses n f rb).1.epoch)
  | 0, f, rb => ⟨List.suffix_refl _, fun e => by simp [tryFuses] at e⟩
  | n + 1, f, rb => by
    unfold tryFuses
    split
    · exact ⟨List.suffix_refl _, fun e => by simp at e⟩
    · rename_i k hk
      split
      · refine ⟨List.suffix_cons _ _, fun _ => ?_⟩
        have hk' : f.epoch + 1 ≤ k := candidate_above hk
        show f.epoch < List.foldl max 0 (k :: f.blown)
        simp only [List.foldl_cons]
        have : k ≤ f.blown.foldl max (max 0 k) := Nat.le_trans (by omega) (le_foldl_max _ _)
        omega
      · obtain ⟨h1, h2⟩ := tryFuses_spec n { f with failed := k :: f.failed } rb.tail
        exact ⟨h1, h2⟩
where
  nextFuse_ge : ∀ (n : Nat) (l : List Nat) (k : Nat), k ≤ nextFuse n l k
    | 0, _, _ => Nat.le_refl _
    | n + 1, l, k => by
      unfold nextFuse
      split
      · exact Nat.le_trans (Nat.le_succ k) (nextFuse_ge n l (k + 1))
      · exact Nat.le_refl _
  candidate_above {f : FuseState} {k : Nat} (h : f.candidate = some k) : f.epoch + 1 ≤ k := by
    unfold FuseState.candidate at h
    dsimp only at h
    split at h
    · cases h; exact nextFuse_ge _ _ _
    · cases h

theorem bootFrom_follows {s0 s : State} (e : EpochRun) (h : Any s0 s) : Follows s0 (bootFrom s e) := by
  have hw := every_part
  have hP := every_plot
  unfold bootFrom
  dsimp only
  split
  · apply Keeps.follows
    exact Keeps.upd h rfl rfl rfl rfl rfl
  · rename_i hc
    have hc : s.aux.coldFlag = true := by simpa using hc
    refine .of_keeps h ?_
    split
    · refine ⟨id, id, rfl, ?_, .inl hc, Nat.le_refl _, List.prefix_refl _⟩
      dsimp only
      split
      · split
        · exact List.suffix_cons _ _
        · exact List.suffix_refl _
      · exact List.suffix_refl _
    · rename_i rb
      split
      · refine ⟨id, id, rfl, List.suffix_refl _, .inr (.inl ?_), Nat.le_refl _, List.prefix_refl _⟩
        simp
      · obtain ⟨h1, h2⟩ := tryFuses_spec 3 s.fuses rb
        refine ⟨id, id, rfl, h1, ?_, Nat.le_refl _, List.prefix_refl _⟩
        by_cases z : (tryFuses 3 s.fuses rb).2 = 0
        · exact .inr (.inr (.inl (h2 z)))
        · exact .inr (.inl z)

theorem startUp_follows {s0 s : State} (e : EpochRun) (h : Any s0 s) : Follows s0 (startUp s e) := by
  unfold startUp
  split
  · exact bootFrom_follows e h
  · exact h.follows

theorem resetFor_follows {s0 s : State} (cause : BitVec 4) (e : EpochRun) (h : Any s0 s) : Follows s0 (resetFor s cause e) := by
  have hw := every_part
  have hP := every_plot
  exact startUp_follows e (Keeps.upd (wiped_keeps h) rfl rfl rfl rfl rfl)

theorem pwrOkRises_follows {s0 s : State} (e : EpochRun) (h : Any s0 s) : Follows s0 (pwrOkRises s e) := by
  have hw := every_part
  have hP := every_plot
  unfold pwrOkRises
  split
  · exact h.follows
  · exact resetFor_follows _ e (Keeps.upd h rfl rfl rfl rfl rfl)

theorem pwrOkFalls_keeps {s0 s : State} (h : Any s0 s) : Any s0 (pwrOkFalls s) := by
  have hw := every_part
  have hP := every_plot
  unfold pwrOkFalls
  split
  · exact Keeps.upd (wiped_keeps h) rfl rfl rfl rfl rfl
  · exact h

theorem perstOn_follows {s0 s : State} (e : EpochRun) (h : Any s0 s) : Follows s0 (perstOn s e) := by
  have hw := every_part
  have hP := every_plot
  unfold perstOn
  have h1 : Any s0 { s with boot := { s.boot with perst := true } } := Keeps.upd h rfl rfl rfl rfl rfl
  split
  · exact h.follows
  · dsimp only
    split
    · exact resetFor_follows _ e h1
    · exact h1.follows

theorem linkReset_follows {s0 s : State} (cause : BitVec 4) (e : EpochRun) (h : Any s0 s) : Follows s0 (linkReset s cause e) := by
  unfold linkReset
  split
  · exact resetFor_follows _ e h
  · exact h.follows

theorem tripOn_keeps {s0 s : State} (i : Fin 48) (h : Any s0 s) : Any s0 (tripOn s i) := by
  have hw := every_part
  have hP := every_plot
  unfold tripOn
  split
  · exact Keeps.upd (wiped_keeps h) rfl rfl rfl rfl rfl
  · exact h

/-- VDD_AUX comes up with the cold-boot flag set. -/
theorem auxOn_follows {s0 s : State} (strap : Fin 4) (h : Any s0 s) : Follows s0 (auxOn s strap) := by
  unfold auxOn
  split
  · exact h.follows
  · exact .of_keeps h ⟨id, id, rfl, List.suffix_refl _, .inl rfl, Nat.le_refl _, List.prefix_refl _⟩

/-- VDD_AUX goes with everything in its domain. -/
theorem auxOff_follows {s0 s : State} (h : Any s0 s) : Follows s0 (auxOff s) := by
  unfold auxOff
  split
  · exact .of_keeps (wiped_keeps h) ⟨id, id, rfl, List.suffix_refl _, .inl rfl, Nat.le_refl _, List.prefix_refl _⟩
  · exact h.follows

theorem jtagSelect_follows {s0 s : State} (i : JtagInstr) (e : EpochRun) (h : Any s0 s) : Follows s0 (jtagSelect s i e) := by
  have hw := every_part
  have hP := every_plot
  unfold jtagSelect
  have h1 : Any s0 { s with boot := { s.boot with jtag := i } } := Keeps.upd h rfl rfl rfl rfl rfl
  split
  · exact h.follows
  · dsimp only
    split
    · exact (wiped_keeps h1).follows
    · split
      · exact resetFor_follows _ e h1
      · exact h1.follows

theorem jtagIdentify_follows {s0 s : State} (e : EpochRun) (h : Any s0 s) : Follows s0 (jtagIdentify s e) := by
  have hw := every_part
  have hP := every_plot
  unfold jtagIdentify
  split
  · exact h.follows
  · exact (jtagSelect_follows _ e h).keeps (Keeps.upd (Keeps.refl (w := 2 ^ 30 - 1) (P := fun _ => true) _) rfl rfl rfl rfl rfl)

theorem jtagSample_follows {s0 s : State} (e : EpochRun) (h : Any s0 s) : Follows s0 (jtagSample s e) := by
  have hw := every_part
  have hP := every_plot
  unfold jtagSample
  split
  · exact h.follows
  · exact (jtagSelect_follows _ e h).keeps (Keeps.upd (State.takeFree_keeps (Keeps.refl (w := 2 ^ 30 - 1) (P := fun _ => true) _)) rfl rfl rfl rfl rfl)

theorem jtagLeave_follows {s0 s : State} (e : EpochRun) (next : Option Byte) (h : Any s0 s) :
    Follows s0 (jtagLeave s e next) := by
  unfold jtagLeave
  split
  · exact jtagSelect_follows _ e h
  · exact h.follows

end Sys2Proof.Machine
end

