-- ==== Sys2Proof/Laws/Exec.lean ====
section
/-!
SUPPORT. Sys2Proof/Laws/Exec.lean: what each command keeps of the state it ran in.
-/
namespace Sys2Proof.Machine

set_option Elab.async false
set_option linter.all false

theorem execWellHealthFail_keeps {w : Nat} {P : PlotId → Bool} (source : NoiseSource) (apt : Bool) (hw : Covers w 134226992) {s u : State} (h : execWellHealthFail source apt s = .next u) :
    Keeps w P s u := by
  cases h
  repeat' first
    | with_reducible assumption
    | with_reducible exact Covers.of hw (by decide)
    | intro x
    | with_reducible exact Keeps.refl _
    | with_reducible apply healthFail_keeps

theorem execStartupTestPass_keeps {w : Nat} {P : PlotId → Bool} (source : NoiseSource) (hw : Covers w 8192) {s u : State} (h : execStartupTestPass source s = .next u) :
    Keeps w P s u := by
  cases h
  repeat' first
    | with_reducible assumption
    | with_reducible exact Covers.of hw (by decide)
    | intro x
    | with_reducible exact Keeps.refl _
    | with_reducible apply startupPass_keeps

theorem execWellRetry_keeps {w : Nat} {P : PlotId → Bool} (f : Fn) (t : TileId) (hw : Covers w 268443648) {s u : State} (h : execWellRetry f t s = .next u) :
    Keeps w P s u := by
  cases h
  repeat' first
    | with_reducible assumption
    | with_reducible exact Covers.of hw (by decide)
    | intro x
    | with_reducible exact Keeps.refl _
    | with_reducible apply hostGate_keeps
    | with_reducible apply retryWell_keeps
    | split

theorem execDeepWellRetry_keeps {w : Nat} {P : PlotId → Bool} (f : Fn) (channel : Fin 4) (hw : Covers w 268443648) {s u : State} (h : execDeepWellRetry f channel s = .next u) :
    Keeps w P s u := by
  cases h
  repeat' first
    | with_reducible assumption
    | with_reducible exact Covers.of hw (by decide)
    | intro x
    | with_reducible exact Keeps.refl _
    | with_reducible apply hostGate_keeps
    | with_reducible apply retryChannel_keeps
    | split

theorem execDeepWellDrawStart_keeps {w : Nat} {P : PlotId → Bool} (t : TileId) (hw : Covers w 8192) {s u : State} (h : execDeepWellDrawStart t s = .next u) :
    Keeps w P s u := by
  cases h
  repeat' first
    | with_reducible assumption
    | with_reducible exact Covers.of hw (by decide)
    | intro x
    | with_reducible exact Keeps.refl _
    | with_reducible apply drawStart_keeps

theorem execDeepWellBlock_keeps {w : Nat} {P : PlotId → Bool} (hw : Covers w 134225970) (hP : ∀ q, P q = true) {s u : State} (h : execDeepWellBlock s = .next u) :
    Keeps w P s u := by
  cases h
  repeat' first
    | with_reducible assumption
    | with_reducible exact Covers.of hw (by decide)
    | with_reducible exact hP _
    | with_reducible exact .inl hP
    | intro x
    | with_reducible exact Keeps.refl _
    | with_reducible apply deepBlock_keeps

theorem execRngRequest_keeps {w : Nat} {P : PlotId → Bool} (f : Fn) (q : PlotId) (blocks : BitVec 15) (hw : Covers w 402661424) (hP : P q = true) {s u : State} (h : execRngRequest f q blocks s = .next u) :
    Keeps w P s u := by
  cases h
  repeat' first
    | with_reducible assumption
    | with_reducible exact Covers.of hw (by decide)
    | intro x
    | with_reducible exact Keeps.refl _
    | with_reducible apply hostGate_keeps
    | with_reducible apply rngRequest_keeps
    | split

theorem execRngWindowExpire_keeps {w : Nat} {P : PlotId → Bool} (q : PlotId) (hw : Covers w 134225969) (hP : P q = true) {s u : State} (h : execRngWindowExpire q s = .next u) :
    Keeps w P s u := by
  cases h
  repeat' first
    | with_reducible assumption
    | with_reducible exact Covers.of hw (by decide)
    | intro x
    | with_reducible exact Keeps.refl _
    | with_reducible apply rngExpire_keeps

theorem execTapeDoorbell_keeps {w : Nat} {P : PlotId → Bool} (f : Fn) (q : PlotId) (tile : Fin 64) (index : BitVec 16) (hw : Covers w 402654320) (hP : P q = true) {s u : State} (h : execTapeDoorbell f q tile index s = .next u) :
    Keeps w P s u := by
  cases h
  repeat' first
    | with_reducible assumption
    | with_reducible exact Covers.of hw (by decide)
    | intro x
    | with_reducible exact Keeps.refl _
    | with_reducible apply hostGate_keeps
    | with_reducible apply tapeDoorbell_keeps
    | split

theorem execTapeSegmentArrival_keeps {w : Nat} {P : PlotId → Bool} (q : PlotId) (tile : Fin 64) (r : Fetched) (hw : Covers w 673924721) (hP : P q = true) {s u : State} (h : execTapeSegmentArrival q tile r s = .next u) :
    Keeps w P s u := by
  cases h
  repeat' first
    | with_reducible assumption
    | with_reducible exact Covers.of hw (by decide)
    | intro x
    | with_reducible exact Keeps.refl _
    | with_reducible apply segmentArrived_keeps

theorem execTapeRecordWrite_keeps {w : Nat} {P : PlotId → Bool} (q : PlotId) (tile : Fin 64) (hw : Covers w 134217760) (hP : P q = true) {s u : State} (h : execTapeRecordWrite q tile s = .next u) :
    Keeps w P s u := by
  cases h
  repeat' first
    | with_reducible assumption
    | with_reducible exact Covers.of hw (by decide)
    | intro x
    | with_reducible exact Keeps.refl _
    | with_reducible apply recordWrite_keeps

theorem execConditionerOutput_keeps {w : Nat} {P : PlotId → Bool} (t : TileId) (bits : BitVec 128) (hw : Covers w 8192) {s u : State} (h : execConditionerOutput t bits s = .next u) :
    Keeps w P s u := by
  cases h
  repeat' first
    | with_reducible assumption
    | with_reducible exact Covers.of hw (by decide)
    | intro x
    | with_reducible exact Keeps.refl _
    | with_reducible apply conditioner_keeps

theorem execDeepWellOutput_keeps {w : Nat} {P : PlotId → Bool} (channel : Fin 4) (bits : BitVec 256) (hw : Covers w 8192) {s u : State} (h : execDeepWellOutput channel bits s = .next u) :
    Keeps w P s u := by
  cases h
  repeat' first
    | with_reducible assumption
    | with_reducible exact Covers.of hw (by decide)
    | intro x
    | with_reducible exact Keeps.refl _
    | with_reducible apply channelOutput_keeps

theorem execRetriedMulticastLaunch_keeps {w : Nat} {P : PlotId → Bool} (q : PlotId) (idx : BitVec 16) (entry flits : Nat) (hw : Covers w 134218240) {s u : State} (h : execRetriedMulticastLaunch q idx entry flits s = .next u) :
    Keeps w P s u := by
  cases h
  repeat' first
    | with_reducible assumption
    | with_reducible exact Covers.of hw (by decide)
    | intro x
    | with_reducible exact Keeps.refl _
    | with_reducible apply launchMulticast_keeps

theorem execMulticastAckNack_keeps {w : Nat} {P : PlotId → Bool} (src : NodeId) (q : PlotId) (entry : Nat) (target : NodeId) (ack : Bool) (hw : Covers w 134218240) {s u : State} (h : execMulticastAckNack src q entry target ack s = .next u) :
    Keeps w P s u := by
  cases h
  repeat' first
    | with_reducible assumption
    | with_reducible exact Covers.of hw (by decide)
    | intro x
    | with_reducible exact Keeps.refl _
    | with_reducible apply multicastAnswer_keeps

theorem execMulticastReady_keeps {w : Nat} {P : PlotId → Bool} (src : NodeId) (q : PlotId) (entry : Nat) (target : NodeId) (hw : Covers w 134218240) (hP : P q = true) {s u : State} (h : execMulticastReady src q entry target s = .next u) :
    Keeps w P s u := by
  cases h
  repeat' first
    | with_reducible assumption
    | with_reducible exact Covers.of hw (by decide)
    | intro x
    | with_reducible exact Keeps.refl _
    | with_reducible apply multicastResend_keeps

theorem execMulticastTimeout_keeps {w : Nat} {P : PlotId → Bool} (src : NodeId) (q : PlotId) (entry : Nat) (hw : Covers w 137053745) (hP : P q = true) {s u : State} (h : execMulticastTimeout src q entry s = .next u) :
    Keeps w P s u := by
  cases h
  repeat' first
    | with_reducible assumption
    | with_reducible exact Covers.of hw (by decide)
    | intro x
    | with_reducible exact Keeps.refl _
    | with_reducible apply multicastExpire_keeps

theorem execCreditReservation_keeps {w : Nat} {P : PlotId → Bool} (q : PlotId) (idx : BitVec 16) (entry : Nat) (step : CreditStep) (hw : Covers w 134218240) {s u : State} (h : execCreditReservation q idx entry step s = .next u) :
    Keeps w P s u := by
  cases h
  repeat' first
    | with_reducible assumption
    | with_reducible exact Covers.of hw (by decide)
    | intro x
    | with_reducible exact Keeps.refl _
    | with_reducible apply reserveStep_keeps

theorem execMergedRead_keeps {w : Nat} {P : PlotId → Bool} (q : PlotId) (addr : BitVec 36) (readers : List (BitVec 16 × NodeId)) (single : Nat) (bad : Option (Fin 8)) (hw : Covers w 137053744) (hP : P q = true) {s u : State} (h : execMergedRead q addr readers single bad s = .next u) :
    Keeps w P s u := by
  cases h
  repeat' first
    | with_reducible assumption
    | with_reducible exact Covers.of hw (by decide)
    | intro x
    | with_reducible exact Keeps.refl _
    | with_reducible apply mergedRead_keeps

theorem execHomePageFirstWrite_keeps {w : Nat} {P : PlotId → Bool} (q : PlotId) (idx : BitVec 16) (node : NodeId) (addr : BitVec 36) (data : List Byte) (hw : Covers w 204162608) (hP : P q = true) {s u : State} (h : execHomePageFirstWrite q idx node addr data s = .next u) :
    Keeps w P s u := by
  cases h
  repeat' first
    | with_reducible assumption
    | with_reducible exact Covers.of hw (by decide)
    | intro x
    | with_reducible exact Keeps.refl _
    | with_reducible apply firstWrite_keeps

theorem execWriteCopyComplete_keeps {w : Nat} {P : PlotId → Bool} (q : PlotId) (idx : BitVec 16) (page : Nat) (hw : Covers w 512) (hP : P q = true) {s u : State} (h : execWriteCopyComplete q idx page s = .next u) :
    Keeps w P s u := by
  cases h
  repeat' first
    | with_reducible assumption
    | with_reducible exact Covers.of hw (by decide)
    | intro x
    | with_reducible exact Keeps.refl _
    | with_reducible apply copyDone_keeps

theorem execBackedPageMiss_keeps {w : Nat} {P : PlotId → Bool} (q : PlotId) (idx : BitVec 16) (node : NodeId) (addr : BitVec 36) (hw : Covers w 137053744) (hP : P q = true) {s u : State} (h : execBackedPageMiss q idx node addr s = .next u) :
    Keeps w P s u := by
  cases h
  repeat' first
    | with_reducible assumption
    | with_reducible exact Covers.of hw (by decide)
    | intro x
    | with_reducible exact Keeps.refl _
    | with_reducible apply needPage_keeps

theorem execPageInRequest_keeps {w : Nat} {P : PlotId → Bool} (q : PlotId) (idx : BitVec 16) (node : NodeId) (addr : BitVec 36) (hw : Covers w 137053744) (hP : P q = true) {s u : State} (h : execPageInRequest q idx node addr s = .next u) :
    Keeps w P s u := by
  cases h
  repeat' first
    | with_reducible assumption
    | with_reducible exact Covers.of hw (by decide)
    | intro x
    | with_reducible exact Keeps.refl _
    | with_reducible apply needPage_keeps

theorem execPageInComplete_keeps {w : Nat} {P : PlotId → Bool} (q : PlotId) (page : Nat) (hw : Covers w 201343488) (hP : P q = true) {s u : State} (h : execPageInComplete q page s = .next u) :
    Keeps w P s u := by
  cases h
  repeat' first
    | with_reducible assumption
    | with_reducible exact Covers.of hw (by decide)
    | intro x
    | with_reducible exact Keeps.refl _
    | with_reducible apply pageInDone_keeps

theorem execPatrolScrub_keeps {w : Nat} {P : PlotId → Bool} (addr : Word) (single bad pass : Bool) (hw : Covers w 134219312) {s u : State} (h : execPatrolScrub addr single bad pass s = .next u) :
    Keeps w P s u := by
  cases h
  repeat' first
    | with_reducible assumption
    | with_reducible exact Covers.of hw (by decide)
    | intro x
    | with_reducible exact Keeps.refl _
    | with_reducible apply patrol_keeps
    | split

theorem execLinkCrcFail_keeps {w : Nat} {P : PlotId → Bool} (router : NodeId) (owner : Option (PlotId × BitVec 16)) (failures : Nat) (hw : Covers w 137053744) (hP : ∀ q, P q = true) {s u : State} (h : execLinkCrcFail router owner failures s = .next u) :
    Keeps w P s u := by
  cases h
  repeat' first
    | with_reducible assumption
    | with_reducible exact Covers.of hw (by decide)
    | with_reducible exact hP _
    | with_reducible exact .inl hP
    | intro x
    | with_reducible exact Keeps.refl _
    | with_reducible apply linkFail_keeps
    | split

theorem execPcacheWrite_keeps {w : Nat} {P : PlotId → Bool} (q : PlotId) (v : Word) (hw : Covers w 335544832) (hP : P q = true) {s u : State} (h : execPcacheWrite q v s = .next u) :
    Keeps w P s u := by
  cases h
  repeat' first
    | with_reducible assumption
    | with_reducible exact Covers.of hw (by decide)
    | intro x
    | with_reducible exact Keeps.refl _
    | with_reducible apply hostGate_keeps
    | with_reducible apply pcacheWrite_keeps
    | split

theorem execFrameZeroingDone_keeps {w : Nat} {P : PlotId → Bool} (q : PlotId) (hP : P q = true) {s u : State} (h : execFrameZeroingDone q s = .next u) :
    Keeps w P s u := by
  cases h
  repeat' first
    | with_reducible assumption
    | intro x
    | with_reducible exact Keeps.refl _
    | with_reducible apply zeroingDone_keeps

theorem execPowerSample_keeps {w : Nat} {P : PlotId → Bool} (x : PowerSample) (hw : Covers w 16777216) (hP : ∀ q, P q = true) {s u : State} (h : execPowerSample x s = .next u) :
    Keeps w P s u := by
  cases h
  repeat' first
    | with_reducible assumption
    | with_reducible exact Covers.of hw (by decide)
    | with_reducible exact hP _
    | with_reducible exact .inl hP
    | intro x
    | with_reducible exact Keeps.refl _
    | with_reducible apply powerSample_keeps

theorem execCurrentLimiterEval_keeps {w : Nat} {P : PlotId → Bool} (rail window : Fin 3) (hw : Covers w 150996016) (hP : ∀ q, P q = true) {s u : State} (h : execCurrentLimiterEval rail window s = .next u) :
    Keeps w P s u := by
  cases h
  repeat' first
    | with_reducible assumption
    | with_reducible exact Covers.of hw (by decide)
    | with_reducible exact hP _
    | with_reducible exact .inl hP
    | intro x
    | with_reducible exact Keeps.refl _
    | with_reducible apply currentEval_keeps

theorem execCapLimiterEval_keeps {w : Nat} {P : PlotId → Bool} (hw : Covers w 150996016) (hP : ∀ q, P q = true) {s u : State} (h : execCapLimiterEval s = .next u) :
    Keeps w P s u := by
  cases h
  repeat' first
    | with_reducible assumption
    | with_reducible exact Covers.of hw (by decide)
    | with_reducible exact hP _
    | with_reducible exact .inl hP
    | intro x
    | with_reducible exact Keeps.refl _
    | with_reducible apply capEval_keeps

theorem execCalibrationRead_keeps {w : Nat} {P : PlotId → Bool} (rail : Fin 5) (reading : Option Nat) (hw : Covers w 150995008) {s u : State} (h : execCalibrationRead rail reading s = .next u) :
    Keeps w P s u := by
  cases h
  repeat' first
    | with_reducible assumption
    | with_reducible exact Covers.of hw (by decide)
    | intro x
    | with_reducible exact Keeps.refl _
    | with_reducible apply calibrationRead_keeps

theorem execCalibrationLost_keeps {w : Nat} {P : PlotId → Bool} (rail : Fin 5) (hw : Covers w 16777217) {s u : State} (h : execCalibrationLost rail s = .next u) :
    Keeps w P s u := by
  cases h
  repeat' first
    | with_reducible assumption
    | with_reducible exact Covers.of hw (by decide)
    | intro x
    | with_reducible exact Keeps.refl _
    | with_reducible apply calibrationLost_keeps

theorem execVoltageBandEval_keeps {w : Nat} {P : PlotId → Bool} (hw : Covers w 150994944) {s u : State} (h : execVoltageBandEval s = .next u) :
    Keeps w P s u := by
  cases h
  repeat' first
    | with_reducible assumption
    | with_reducible exact Covers.of hw (by decide)
    | intro x
    | with_reducible exact Keeps.refl _
    | with_reducible apply bandEval_keeps

theorem execAgeingTrimStep_keeps {w : Nat} {P : PlotId → Bool} (pass8 fail4 : Bool) (hw : Covers w 150994944) {s u : State} (h : execAgeingTrimStep pass8 fail4 s = .next u) :
    Keeps w P s u := by
  cases h
  repeat' first
    | with_reducible assumption
    | with_reducible exact Covers.of hw (by decide)
    | intro x
    | with_reducible exact Keeps.refl _
    | with_reducible apply trimStep_keeps

theorem execBoostCheck_keeps {w : Nat} {P : PlotId → Bool} (hw : Covers w 150994944) {s u : State} (h : execBoostCheck s = .next u) :
    Keeps w P s u := by
  cases h
  repeat' first
    | with_reducible assumption
    | with_reducible exact Covers.of hw (by decide)
    | intro x
    | with_reducible exact Keeps.refl _
    | with_reducible apply boostCheck_keeps

theorem execFixedFreqWrite_keeps {w : Nat} {P : PlotId → Bool} (f : Fn) (v : Word) (hw : Covers w 419430400) {s u : State} (h : execFixedFreqWrite f v s = .next u) :
    Keeps w P s u := by
  cases h
  repeat' first
    | with_reducible assumption
    | with_reducible exact Covers.of hw (by decide)
    | intro x
    | with_reducible exact Keeps.refl _
    | with_reducible apply hostGate_keeps
    | with_reducible apply pwrCtlWrite_keeps
    | split

theorem execDroopCrossing_keeps {w : Nat} {P : PlotId → Bool} (depth : Nat) (hw : Covers w 150994944) {s u : State} (h : execDroopCrossing depth s = .next u) :
    Keeps w P s u := by
  cases h
  repeat' first
    | with_reducible assumption
    | with_reducible exact Covers.of hw (by decide)
    | intro x
    | with_reducible exact Keeps.refl _
    | with_reducible apply droopCross_keeps

theorem execDroopPersist_keeps {w : Nat} {P : PlotId → Bool} (hw : Covers w 150996016) (hP : ∀ q, P q = true) {s u : State} (h : execDroopPersist s = .next u) :
    Keeps w P s u := by
  cases h
  repeat' first
    | with_reducible assumption
    | with_reducible exact Covers.of hw (by decide)
    | with_reducible exact hP _
    | with_reducible exact .inl hP
    | intro x
    | with_reducible exact Keeps.refl _
    | with_reducible apply droopPersists_keeps

theorem execVrAlert_keeps {w : Nat} {P : PlotId → Bool} (hw : Covers w 150996017) (hP : ∀ q, P q = true) {s u : State} (h : execVrAlert s = .next u) :
    Keeps w P s u := by
  cases h
  repeat' first
    | with_reducible assumption
    | with_reducible exact Covers.of hw (by decide)
    | with_reducible exact hP _
    | with_reducible exact .inl hP
    | intro x
    | with_reducible exact Keeps.refl _
    | with_reducible apply vrAlertOn_keeps

theorem execLowestStateExit_keeps {w : Nat} {P : PlotId → Bool} (hw : Covers w 16777217) {s u : State} (h : execLowestStateExit s = .next u) :
    Keeps w P s u := by
  cases h
  repeat' first
    | with_reducible assumption
    | with_reducible exact Covers.of hw (by decide)
    | intro x
    | with_reducible exact Keeps.refl _
    | with_reducible apply leaveLowest_keeps

theorem execThermalSample_keeps {w : Nat} {P : PlotId → Bool} (temps : Vector Int 48) (hw : Covers w 150996016) (hP : ∀ q, P q = true) {s u : State} (h : execThermalSample temps s = .next u) :
    Keeps w P s u := by
  cases h
  repeat' first
    | with_reducible assumption
    | with_reducible exact Covers.of hw (by decide)
    | with_reducible exact hP _
    | with_reducible exact .inl hP
    | intro x
    | with_reducible exact Keeps.refl _
    | with_reducible apply thermalSample_keeps

theorem execThermalLimitUpdate_keeps {w : Nat} {P : PlotId → Bool} (hw : Covers w 16777216) {s u : State} (h : execThermalLimitUpdate s = .next u) :
    Keeps w P s u := by
  cases h
  repeat' first
    | with_reducible assumption
    | with_reducible exact Covers.of hw (by decide)
    | intro x
    | with_reducible exact Keeps.refl _
    | with_reducible apply thermalLimit_keeps

theorem execPmbusTransaction_keeps {w : Nat} {P : PlotId → Bool} (answer : Option Nat) (hw : Covers w 150995008) {s u : State} (h : execPmbusTransaction answer s = .next u) :
    Keeps w P s u := by
  cases h
  repeat' first
    | with_reducible assumption
    | with_reducible exact Covers.of hw (by decide)
    | intro x
    | with_reducible exact Keeps.refl _
    | with_reducible apply pmbusAnswer_keeps

theorem execVrAlertDeasserted_keeps {w : Nat} {P : PlotId → Bool} (hw : Covers w 16777217) {s u : State} (h : execVrAlertDeasserted s = .next u) :
    Keeps w P s u := by
  cases h
  repeat' first
    | with_reducible assumption
    | with_reducible exact Covers.of hw (by decide)
    | intro x
    | with_reducible exact Keeps.refl _
    | with_reducible apply vrAlertOff_keeps

theorem execDroopRecovery_keeps {w : Nat} {P : PlotId → Bool} (stretched : Nat) (hw : Covers w 16777216) {s u : State} (h : execDroopRecovery stretched s = .next u) :
    Keeps w P s u := by
  cases h
  repeat' first
    | with_reducible assumption
    | with_reducible exact Covers.of hw (by decide)
    | intro x
    | with_reducible exact Keeps.refl _
    | with_reducible apply droopRecovers_keeps

theorem execVoltageSettleEnd_keeps {w : Nat} {P : PlotId → Bool} (hw : Covers w 16777217) {s u : State} (h : execVoltageSettleEnd s = .next u) :
    Keeps w P s u := by
  cases h
  repeat' first
    | with_reducible assumption
    | with_reducible exact Covers.of hw (by decide)
    | intro x
    | with_reducible exact Keeps.refl _
    | with_reducible apply settleEnd_keeps

theorem execAnnealInitialPass_keeps {w : Nat} {P : PlotId → Bool} (q : PlotId) (idx : BitVec 16) (hw : Covers w 137053808) (hP : P q = true) {s u : State} (h : execAnnealInitialPass q idx s = .next u) :
    Keeps w P s u := by
  cases h
  repeat' first
    | with_reducible assumption
    | with_reducible exact Covers.of hw (by decide)
    | intro x
    | with_reducible exact Keeps.refl _
    | with_reducible apply initialPass_keeps

theorem execAnnealRunStart_keeps {w : Nat} {P : PlotId → Bool} (q : PlotId) (idx : BitVec 16) (sweeps : Nat) (bearing : Option Nat) (hw : Covers w 137053744) (hP : P q = true) {s u : State} (h : execAnnealRunStart q idx sweeps bearing s = .next u) :
    Keeps w P s u := by
  cases h
  repeat' first
    | with_reducible assumption
    | with_reducible exact Covers.of hw (by decide)
    | intro x
    | with_reducible exact Keeps.refl _
    | with_reducible apply startRun_keeps

theorem execFlipSlot_keeps {w : Nat} {P : PlotId → Bool} (q : PlotId) (idx : BitVec 16) (hw : Covers w 137066096) (hP : P q = true) {s u : State} (h : execFlipSlot q idx s = .next u) :
    Keeps w P s u := by
  cases h
  repeat' first
    | with_reducible assumption
    | with_reducible exact Covers.of hw (by decide)
    | intro x
    | with_reducible exact Keeps.refl _
    | with_reducible apply flipSlot_keeps

theorem execSweepComplete_keeps {w : Nat} {P : PlotId → Bool} (q : PlotId) (idx : BitVec 16) (hw : Covers w 137053744) (hP : P q = true) {s u : State} (h : execSweepComplete q idx s = .next u) :
    Keeps w P s u := by
  cases h
  repeat' first
    | with_reducible assumption
    | with_reducible exact Covers.of hw (by decide)
    | intro x
    | with_reducible exact Keeps.refl _
    | with_reducible apply sweepStep_keeps

theorem execEnergyAudit_keeps {w : Nat} {P : PlotId → Bool} (q : PlotId) (idx : BitVec 16) (bad : Option Nat) (hw : Covers w 137053744) (hP : P q = true) {s u : State} (h : execEnergyAudit q idx bad s = .next u) :
    Keeps w P s u := by
  cases h
  repeat' first
    | with_reducible assumption
    | with_reducible exact Covers.of hw (by decide)
    | intro x
    | with_reducible exact Keeps.refl _
    | with_reducible apply audit_keeps

theorem execStallWindowEnd_keeps {w : Nat} {P : PlotId → Bool} (q : PlotId) (idx : BitVec 16) (hP : P q = true) {s u : State} (h : execStallWindowEnd q idx s = .next u) :
    Keeps w P s u := by
  cases h
  repeat' first
    | with_reducible assumption
    | intro x
    | with_reducible exact Keeps.refl _
    | with_reducible apply stallEnd_keeps

theorem execBearingPeriodEnd_keeps {w : Nat} {P : PlotId → Bool} (q : PlotId) (idx : BitVec 16) (hP : P q = true) {s u : State} (h : execBearingPeriodEnd q idx s = .next u) :
    Keeps w P s u := by
  cases h
  repeat' first
    | with_reducible assumption
    | intro x
    | with_reducible exact Keeps.refl _
    | with_reducible apply bearingEnd_keeps

theorem execAnnealRunEnd_keeps {w : Nat} {P : PlotId → Bool} (q : PlotId) (idx : BitVec 16) (hP : P q = true) {s u : State} (h : execAnnealRunEnd q idx s = .next u) :
    Keeps w P s u := by
  cases h
  repeat' first
    | with_reducible assumption
    | intro x
    | with_reducible exact Keeps.refl _
    | with_reducible apply runEnd_keeps

theorem execGraftFullPass_keeps {w : Nat} {P : PlotId → Bool} (q : PlotId) (idx : BitVec 16) (hw : Covers w 204424816) (hP : P q = true) {s u : State} (h : execGraftFullPass q idx s = .next u) :
    Keeps w P s u := by
  cases h
  repeat' first
    | with_reducible assumption
    | with_reducible exact Covers.of hw (by decide)
    | intro x
    | with_reducible exact Keeps.refl _
    | with_reducible apply graftFullPass_keeps

theorem execGraftSelect_keeps {w : Nat} {P : PlotId → Bool} (q : PlotId) (idx : BitVec 16) (cluster : HccId) (hw : Covers w 137053744) (hP : P q = true) {s u : State} (h : execGraftSelect q idx cluster s = .next u) :
    Keeps w P s u := by
  cases h
  repeat' first
    | with_reducible assumption
    | with_reducible exact Covers.of hw (by decide)
    | intro x
    | with_reducible exact Keeps.refl _
    | with_reducible apply graftSelect_keeps

theorem execGraftStage_keeps {w : Nat} {P : PlotId → Bool} (q : PlotId) (idx : BitVec 16) (hw : Covers w 204424752) (hP : P q = true) {s u : State} (h : execGraftStage q idx s = .next u) :
    Keeps w P s u := by
  cases h
  repeat' first
    | with_reducible assumption
    | with_reducible exact Covers.of hw (by decide)
    | intro x
    | with_reducible exact Keeps.refl _
    | with_reducible apply graftStage_keeps

theorem execGraftPass_keeps {w : Nat} {P : PlotId → Bool} (q : PlotId) (idx : BitVec 16) (hw : Covers w 137053744) (hP : P q = true) {s u : State} (h : execGraftPass q idx s = .next u) :
    Keeps w P s u := by
  cases h
  repeat' first
    | with_reducible assumption
    | with_reducible exact Covers.of hw (by decide)
    | intro x
    | with_reducible exact Keeps.refl _
    | with_reducible apply graftPass_keeps

theorem execGraftHarvest_keeps {w : Nat} {P : PlotId → Bool} (q : PlotId) (idx : BitVec 16) (hw : Covers w 204195376) (hP : P q = true) {s u : State} (h : execGraftHarvest q idx s = .next u) :
    Keeps w P s u := by
  cases h
  repeat' first
    | with_reducible assumption
    | with_reducible exact Covers.of hw (by decide)
    | intro x
    | with_reducible exact Keeps.refl _
    | with_reducible apply graftHarvest_keeps

theorem execGraftFullAudit_keeps {w : Nat} {P : PlotId → Bool} (q : PlotId) (idx : BitVec 16) (hw : Covers w 204424752) (hP : P q = true) {s u : State} (h : execGraftFullAudit q idx s = .next u) :
    Keeps w P s u := by
  cases h
  repeat' first
    | with_reducible assumption
    | with_reducible exact Covers.of hw (by decide)
    | intro x
    | with_reducible exact Keeps.refl _
    | with_reducible apply graftAudit_keeps

theorem execLaneInitDone_keeps {w : Nat} {P : PlotId → Bool} (lane : LaneId) (hw : Covers w 134234112) (hP : ∀ q, P q = true) {s u : State} (h : execLaneInitDone lane s = .next u) :
    Keeps w P s u := by
  cases h
  repeat' first
    | with_reducible assumption
    | with_reducible exact Covers.of hw (by decide)
    | with_reducible exact hP _
    | with_reducible exact .inl hP
    | intro x
    | with_reducible exact Keeps.refl _
    | with_reducible apply laneReady_keeps

theorem execQueryStart_keeps {w : Nat} {P : PlotId → Bool} (q : PlotId) (idx : BitVec 16) (addr : BitVec 36) (hw : Covers w 137053744) (hP : P q = true) {s u : State} (h : execQueryStart q idx addr s = .next u) :
    Keeps w P s u := by
  cases h
  repeat' first
    | with_reducible assumption
    | with_reducible exact Covers.of hw (by decide)
    | intro x
    | with_reducible exact Keeps.refl _
    | with_reducible apply startQuery_keeps

theorem execQueryPartStart_keeps {w : Nat} {P : PlotId → Bool} (q : PlotId) (idx : BitVec 16) (query : Nat) (lane : LaneId) (hw : Covers w 137053744) (hP : P q = true) {s u : State} (h : execQueryPartStart q idx query lane s = .next u) :
    Keeps w P s u := by
  cases h
  repeat' first
    | with_reducible assumption
    | with_reducible exact Covers.of hw (by decide)
    | intro x
    | with_reducible exact Keeps.refl _
    | with_reducible apply startPart_keeps

theorem execFlashPageReady_keeps {w : Nat} {P : PlotId → Bool} (lane : LaneId) (ce : Fin 4) (lun : Fin 8) (block page : Nat) (r : PageRead) (hw : Covers w 137053744) (hP : ∀ q, P q = true) {s u : State} (h : execFlashPageReady lane ce lun block page r s = .next u) :
    Keeps w P s u := by
  cases h
  repeat' first
    | with_reducible assumption
    | with_reducible exact Covers.of hw (by decide)
    | with_reducible exact hP _
    | with_reducible exact .inl hP
    | intro x
    | with_reducible exact Keeps.refl _
    | with_reducible apply pageReady_keeps

theorem execLaneClaimPark_keeps {w : Nat} {P : PlotId → Bool} (q : PlotId) (idx : BitVec 16) (lane : LaneId) (hP : P q = true) {s u : State} (h : execLaneClaimPark q idx lane s = .next u) :
    Keeps w P s u := by
  cases h
  repeat' first
    | with_reducible assumption
    | intro x
    | with_reducible exact Keeps.refl _
    | with_reducible apply parkClaim_keeps

theorem execQueryDeadlineReached_keeps {w : Nat} {P : PlotId → Bool} (q : PlotId) (idx : BitVec 16) (query : Nat) (lane : LaneId) (hw : Covers w 134234112) (hP : P q = true) {s u : State} (h : execQueryDeadlineReached q idx query lane s = .next u) :
    Keeps w P s u := by
  cases h
  repeat' first
    | with_reducible assumption
    | with_reducible exact Covers.of hw (by decide)
    | intro x
    | with_reducible exact Keeps.refl _
    | with_reducible apply partDeadline_keeps

theorem execQueryResultMerge_keeps {w : Nat} {P : PlotId → Bool} (q : PlotId) (idx : BitVec 16) (query : Nat) (hw : Covers w 741033520) (hP : P q = true) {s u : State} (h : execQueryResultMerge q idx query s = .next u) :
    Keeps w P s u := by
  cases h
  repeat' first
    | with_reducible assumption
    | with_reducible exact Covers.of hw (by decide)
    | intro x
    | with_reducible exact Keeps.refl _
    | with_reducible apply mergeResult_keeps

theorem execSideAppend_keeps {w : Nat} {P : PlotId → Bool} (q : PlotId) (idx : BitVec 16) (index : Fin 16) (addr : BitVec 36) (count : Nat) (hw : Covers w 204162608) (hP : P q = true) {s u : State} (h : execSideAppend q idx index addr count s = .next u) :
    Keeps w P s u := by
  cases h
  repeat' first
    | with_reducible assumption
    | with_reducible exact Covers.of hw (by decide)
    | intro x
    | with_reducible exact Keeps.refl _
    | with_reducible apply appendSide_keeps

theorem execGenWrite_keeps {w : Nat} {P : PlotId → Bool} (q : PlotId) (idx : BitVec 16) (index : Fin 16) (sector : Nat) (addr : BitVec 36) (count : Nat) (flush : Bool) (hw : Covers w 137053744) (hP : P q = true) {s u : State} (h : execGenWrite q idx index sector addr count flush s = .next u) :
    Keeps w P s u := by
  cases h
  repeat' first
    | with_reducible assumption
    | with_reducible exact Covers.of hw (by decide)
    | intro x
    | with_reducible exact Keeps.refl _
    | with_reducible apply genCall_keeps

theorem execGenMerge_keeps {w : Nat} {P : PlotId → Bool} (q : PlotId) (idx : BitVec 16) (index : Fin 16) (sector : Nat) (addr : BitVec 36) (count : Nat) (flush : Bool) (hw : Covers w 137053744) (hP : P q = true) {s u : State} (h : execGenMerge q idx index sector addr count flush s = .next u) :
    Keeps w P s u := by
  cases h
  repeat' first
    | with_reducible assumption
    | with_reducible exact Covers.of hw (by decide)
    | intro x
    | with_reducible exact Keeps.refl _
    | with_reducible apply genCall_keeps

theorem execLunReadyTimeout_keeps {w : Nat} {P : PlotId → Bool} (lane : LaneId) (ce : Fin 4) (lun : Fin 8) (block page : Nat) (hw : Covers w 137053744) (hP : ∀ q, P q = true) {s u : State} (h : execLunReadyTimeout lane ce lun block page s = .next u) :
    Keeps w P s u := by
  cases h
  repeat' first
    | with_reducible assumption
    | with_reducible exact Covers.of hw (by decide)
    | with_reducible exact hP _
    | with_reducible exact .inl hP
    | intro x
    | with_reducible exact Keeps.refl _
    | with_reducible apply readTimeout_keeps

theorem execProgramEraseComplete_keeps {w : Nat} {P : PlotId → Bool} (lane : LaneId) (ce : Fin 4) (lun : Fin 8) (fail : Bool) (hw : Covers w 137053744) (hP : ∀ q, P q = true) {s u : State} (h : execProgramEraseComplete lane ce lun fail s = .next u) :
    Keeps w P s u := by
  cases h
  repeat' first
    | with_reducible assumption
    | with_reducible exact Covers.of hw (by decide)
    | with_reducible exact hP _
    | with_reducible exact .inl hP
    | intro x
    | with_reducible exact Keeps.refl _
    | with_reducible apply opComplete_keeps

theorem execProgramEraseTimeout_keeps {w : Nat} {P : PlotId → Bool} (lane : LaneId) (ce : Fin 4) (lun : Fin 8) (hw : Covers w 137053744) (hP : ∀ q, P q = true) {s u : State} (h : execProgramEraseTimeout lane ce lun s = .next u) :
    Keeps w P s u := by
  cases h
  repeat' first
    | with_reducible assumption
    | with_reducible exact Covers.of hw (by decide)
    | with_reducible exact hP _
    | with_reducible exact .inl hP
    | intro x
    | with_reducible exact Keeps.refl _
    | with_reducible apply opTimeout_keeps

theorem execLunClr_keeps {w : Nat} {P : PlotId → Bool} (lane : LaneId) (ce : Fin 4) (lun : Fin 8) (hw : Covers w 402669568) {s u : State} (h : execLunClr lane ce lun s = .next u) :
    Keeps w P s u := by
  cases h
  repeat' first
    | with_reducible assumption
    | with_reducible exact Covers.of hw (by decide)
    | intro x
    | with_reducible exact Keeps.refl _
    | with_reducible apply hostGate_keeps
    | with_reducible apply lunClear_keeps

theorem execLunInitTimeout_keeps {w : Nat} {P : PlotId → Bool} (lane : LaneId) (ce : Fin 4) (lun : Fin 8) (hw : Covers w 137053744) (hP : ∀ q, P q = true) {s u : State} (h : execLunInitTimeout lane ce lun s = .next u) :
    Keeps w P s u := by
  cases h
  repeat' first
    | with_reducible assumption
    | with_reducible exact Covers.of hw (by decide)
    | with_reducible exact hP _
    | with_reducible exact .inl hP
    | intro x
    | with_reducible exact Keeps.refl _
    | with_reducible apply lunInitFailed_keeps

theorem execLunClrDone_keeps {w : Nat} {P : PlotId → Bool} (lane : LaneId) (ce : Fin 4) (lun : Fin 8) (hw : Covers w 134234112) {s u : State} (h : execLunClrDone lane ce lun s = .next u) :
    Keeps w P s u := by
  cases h
  repeat' first
    | with_reducible assumption
    | with_reducible exact Covers.of hw (by decide)
    | intro x
    | with_reducible exact Keeps.refl _
    | with_reducible apply lunCleared_keeps

theorem execMxeOperationStart_keeps {w : Nat} {P : PlotId → Bool} (q : PlotId) (idx : BitVec 16) (engine : MxeId) (op : MxeOp) (hw : Covers w 137053744) (hP : P q = true) {s u : State} (h : execMxeOperationStart q idx engine op s = .next u) :
    Keeps w P s u := by
  cases h
  repeat' first
    | with_reducible assumption
    | with_reducible exact Covers.of hw (by decide)
    | intro x
    | with_reducible exact Keeps.refl _
    | with_reducible apply startOperation_keeps

theorem execBankSwap_keeps {w : Nat} {P : PlotId → Bool} (engine : MxeId) (stall : Nat) (hw : Covers w 204424752) (hP : ∀ q, P q = true) {s u : State} (h : execBankSwap engine stall s = .next u) :
    Keeps w P s u := by
  cases h
  repeat' first
    | with_reducible assumption
    | with_reducible exact Covers.of hw (by decide)
    | with_reducible exact hP _
    | with_reducible exact .inl hP
    | intro x
    | with_reducible exact Keeps.refl _
    | with_reducible apply bankSwap_keeps

theorem execPartialTileReceive_keeps {w : Nat} {P : PlotId → Bool} (engine : MxeId) (hw : Covers w 137053744) (hP : ∀ q, P q = true) {s u : State} (h : execPartialTileReceive engine s = .next u) :
    Keeps w P s u := by
  cases h
  repeat' first
    | with_reducible assumption
    | with_reducible exact Covers.of hw (by decide)
    | with_reducible exact hP _
    | with_reducible exact .inl hP
    | intro x
    | with_reducible exact Keeps.refl _
    | with_reducible apply receivePartial_keeps

theorem execHelperCallStart_keeps {w : Nat} {P : PlotId → Bool} (cluster : HccId) (ready : List HelperCall) (hw : Covers w 524288) {s u : State} (h : execHelperCallStart cluster ready s = .next u) :
    Keeps w P s u := by
  cases h
  repeat' first
    | with_reducible assumption
    | with_reducible exact Covers.of hw (by decide)
    | intro x
    | with_reducible exact Keeps.refl _
    | with_reducible apply helperStart_keeps

theorem execHelperCallEnd_keeps {w : Nat} {P : PlotId → Bool} (cluster : HccId) (e : HelperEnd) (hw : Covers w 742082096) (hP : ∀ q, P q = true) {s u : State} (h : execHelperCallEnd cluster e s = .next u) :
    Keeps w P s u := by
  cases h
  repeat' first
    | with_reducible assumption
    | with_reducible exact Covers.of hw (by decide)
    | with_reducible exact hP _
    | with_reducible exact .inl hP
    | intro x
    | with_reducible exact Keeps.refl _
    | with_reducible apply helperEnd_keeps

theorem execQceCallStart_keeps {w : Nat} {P : PlotId → Bool} (engine : QceId) (ready : List QceCall) (hw : Covers w 2097152) {s u : State} (h : execQceCallStart engine ready s = .next u) :
    Keeps w P s u := by
  cases h
  repeat' first
    | with_reducible assumption
    | with_reducible exact Covers.of hw (by decide)
    | intro x
    | with_reducible exact Keeps.refl _
    | with_reducible apply qceStart_keeps

theorem execQcePass1_keeps {w : Nat} {P : PlotId → Bool} (engine : QceId) (hw : Covers w 216745520) (hP : ∀ q, P q = true) {s u : State} (h : execQcePass1 engine s = .next u) :
    Keeps w P s u := by
  cases h
  repeat' first
    | with_reducible assumption
    | with_reducible exact Covers.of hw (by decide)
    | with_reducible exact hP _
    | with_reducible exact .inl hP
    | intro x
    | with_reducible exact Keeps.refl _
    | with_reducible apply qcePass1_keeps

theorem execQcePass2_keeps {w : Nat} {P : PlotId → Bool} (engine : QceId) (hw : Covers w 208356912) (hP : ∀ q, P q = true) {s u : State} (h : execQcePass2 engine s = .next u) :
    Keeps w P s u := by
  cases h
  repeat' first
    | with_reducible assumption
    | with_reducible exact Covers.of hw (by decide)
    | with_reducible exact hP _
    | with_reducible exact .inl hP
    | intro x
    | with_reducible exact Keeps.refl _
    | with_reducible apply qcePass2_keeps

theorem execCfgLoad_keeps {w : Nat} {P : PlotId → Bool} (abort arm : Bool) (hw : Covers w 402654960) (hP : ∀ q, P q = true) {s u : State} (h : execCfgLoad abort arm s = .next u) :
    Keeps w P s u := by
  cases h
  repeat' first
    | with_reducible assumption
    | with_reducible exact Covers.of hw (by decide)
    | with_reducible exact hP _
    | with_reducible exact .inl hP
    | intro x
    | with_reducible exact Keeps.refl _
    | with_reducible apply hostGate_keeps
    | with_reducible apply cfgCtlWrite_keeps

theorem execCfgAbort_keeps {w : Nat} {P : PlotId → Bool} (arm : Bool) (hw : Covers w 402654960) (hP : ∀ q, P q = true) {s u : State} (h : execCfgAbort arm s = .next u) :
    Keeps w P s u := by
  cases h
  repeat' first
    | with_reducible assumption
    | with_reducible exact Covers.of hw (by decide)
    | with_reducible exact hP _
    | with_reducible exact .inl hP
    | intro x
    | with_reducible exact Keeps.refl _
    | with_reducible apply hostGate_keeps
    | with_reducible apply cfgCtlWrite_keeps

theorem execCfgArm_keeps {w : Nat} {P : PlotId → Bool} (arm : Bool) (hw : Covers w 402654960) (hP : ∀ q, P q = true) {s u : State} (h : execCfgArm arm s = .next u) :
    Keeps w P s u := by
  cases h
  repeat' first
    | with_reducible assumption
    | with_reducible exact Covers.of hw (by decide)
    | with_reducible exact hP _
    | with_reducible exact .inl hP
    | intro x
    | with_reducible exact Keeps.refl _
    | with_reducible apply hostGate_keeps
    | with_reducible apply cfgCtlWrite_keeps

theorem execLoadFetchComplete_keeps {w : Nat} {P : PlotId → Bool} (r : Fetched) (hw : Covers w 671090417) (hP : ∀ q, P q = true) {s u : State} (h : execLoadFetchComplete r s = .next u) :
    Keeps w P s u := by
  cases h
  repeat' first
    | with_reducible assumption
    | with_reducible exact Covers.of hw (by decide)
    | with_reducible exact hP _
    | with_reducible exact .inl hP
    | intro x
    | with_reducible exact Keeps.refl _
    | with_reducible apply fetchDone_keeps

theorem execLoadVerifyComplete_keeps {w : Nat} {P : PlotId → Bool} (hw : Covers w 134219440) (hP : ∀ q, P q = true) {s u : State} (h : execLoadVerifyComplete s = .next u) :
    Keeps w P s u := by
  cases h
  repeat' first
    | with_reducible assumption
    | with_reducible exact Covers.of hw (by decide)
    | with_reducible exact hP _
    | with_reducible exact .inl hP
    | intro x
    | with_reducible exact Keeps.refl _
    | with_reducible apply verifyDone_keeps

theorem execStagingComplete_keeps {w : Nat} {P : PlotId → Bool} (hw : Covers w 134217904) (hP : ∀ q, P q = true) {s u : State} (h : execStagingComplete s = .next u) :
    Keeps w P s u := by
  cases h
  repeat' first
    | with_reducible assumption
    | with_reducible exact Covers.of hw (by decide)
    | with_reducible exact hP _
    | with_reducible exact .inl hP
    | intro x
    | with_reducible exact Keeps.refl _
    | with_reducible apply stagingDone_keeps

theorem execBundleWaitExpire_keeps {w : Nat} {P : PlotId → Bool} (hw : Covers w 134219440) (hP : ∀ q, P q = true) {s u : State} (h : execBundleWaitExpire s = .next u) :
    Keeps w P s u := by
  cases h
  repeat' first
    | with_reducible assumption
    | with_reducible exact Covers.of hw (by decide)
    | with_reducible exact hP _
    | with_reducible exact .inl hP
    | intro x
    | with_reducible exact Keeps.refl _
    | with_reducible apply waitExpired_keeps

theorem execRevert_keeps {w : Nat} {P : PlotId → Bool} (f : Fn) (q : PlotId) (hw : Covers w 268435464) (hP : P q = true) {s u : State} (h : execRevert f q s = .next u) :
    Keeps w P s u := by
  cases h
  repeat' first
    | with_reducible assumption
    | with_reducible exact Covers.of hw (by decide)
    | intro x
    | with_reducible exact Keeps.refl _
    | with_reducible apply hostGate_keeps
    | with_reducible apply revertFrom_keeps

theorem execFuseProgram_keeps {w : Nat} {P : PlotId → Bool} (key : Byte) (slot : Fin 4) (hw : Covers w 268435584) {s u : State} (h : execFuseProgram key slot s = .next u) :
    Keeps w P s u := by
  cases h
  repeat' first
    | with_reducible assumption
    | with_reducible exact Covers.of hw (by decide)
    | intro x
    | with_reducible exact Keeps.refl _
    | with_reducible apply hostGate_keeps
    | with_reducible apply fuseProgram_keeps

theorem execFuseRevoke_keeps {w : Nat} {P : PlotId → Bool} (key : Byte) (slot : Fin 4) (hw : Covers w 268435584) {s u : State} (h : execFuseRevoke key slot s = .next u) :
    Keeps w P s u := by
  cases h
  repeat' first
    | with_reducible assumption
    | with_reducible exact Covers.of hw (by decide)
    | intro x
    | with_reducible exact Keeps.refl _
    | with_reducible apply hostGate_keeps
    | with_reducible apply fuseRevoke_keeps

theorem execFuseLock_keeps {w : Nat} {P : PlotId → Bool} (key : Byte) (hw : Covers w 268435584) {s u : State} (h : execFuseLock key s = .next u) :
    Keeps w P s u := by
  cases h
  repeat' first
    | with_reducible assumption
    | with_reducible exact Covers.of hw (by decide)
    | intro x
    | with_reducible exact Keeps.refl _
    | with_reducible apply hostGate_keeps
    | with_reducible apply fuseLock_keeps

theorem execFuseOpComplete_keeps {w : Nat} {P : PlotId → Bool} (hw : Covers w 132) {s u : State} (h : execFuseOpComplete s = .next u) :
    Keeps w P s u := by
  cases h
  repeat' first
    | with_reducible assumption
    | with_reducible exact Covers.of hw (by decide)
    | intro x
    | with_reducible exact Keeps.refl _
    | with_reducible apply fuseDone_keeps

theorem execCommitWindowOpen_keeps {w : Nat} {P : PlotId → Bool} (r : WindowReport) (hw : Covers w 221204475) (hP : ∀ q, P q = true) {s u : State} (h : execCommitWindowOpen r s = .next u) :
    Keeps w P s u := by
  cases h
  repeat' first
    | with_reducible assumption
    | with_reducible exact Covers.of hw (by decide)
    | with_reducible exact hP _
    | with_reducible exact .inl hP
    | intro x
    | with_reducible exact Keeps.refl _
    | with_reducible apply commitWindow_keeps

theorem execBudgetOverrun_keeps {w : Nat} {P : PlotId → Bool} (q : PlotId) (idx : BitVec 16) (claim : Nat) (hw : Covers w 136905784) (hP : P q = true) {s u : State} (h : execBudgetOverrun q idx claim s = .next u) :
    Keeps w P s u := by
  cases h
  repeat' first
    | with_reducible assumption
    | with_reducible exact Covers.of hw (by decide)
    | intro x
    | with_reducible exact Keeps.refl _
    | with_reducible apply budgetOverrun_keeps

theorem execAbandonmentComplete_keeps {w : Nat} {P : PlotId → Bool} (q : PlotId) (idx : BitVec 16) (hw : Covers w 136839744) (hP : P q = true) {s u : State} (h : execAbandonmentComplete q idx s = .next u) :
    Keeps w P s u := by
  cases h
  repeat' first
    | with_reducible assumption
    | with_reducible exact Covers.of hw (by decide)
    | intro x
    | with_reducible exact Keeps.refl _
    | with_reducible apply abandonmentDone_keeps
    | with_reducible apply resumeFetching_keeps

theorem execTick_keeps {w : Nat} {P : PlotId → Bool} (hw : Covers w 237725561) (hP : ∀ q, P q = true) {s u : State} (h : execTick s = .next u) :
    Keeps w P s u := by
  cases h
  repeat' first
    | with_reducible assumption
    | with_reducible exact Covers.of hw (by decide)
    | with_reducible exact hP _
    | with_reducible exact .inl hP
    | intro x
    | with_reducible exact Keeps.refl _
    | with_reducible apply tickNow_keeps

theorem execPpsEdge_keeps {w : Nat} {P : PlotId → Bool} (wait : Nat) (rising : Bool) (hw : Covers w 134218809) {s u : State} (h : execPpsEdge wait rising s = .next u) :
    Keeps w P s u := by
  cases h
  repeat' first
    | with_reducible assumption
    | with_reducible exact Covers.of hw (by decide)
    | intro x
    | with_reducible exact Keeps.refl _
    | with_reducible apply ppsEdge_keeps

theorem execPpsEdgeMissing_keeps {w : Nat} {P : PlotId → Bool} (hw : Covers w 134218809) {s u : State} (h : execPpsEdgeMissing s = .next u) :
    Keeps w P s u := by
  cases h
  repeat' first
    | with_reducible assumption
    | with_reducible exact Covers.of hw (by decide)
    | intro x
    | with_reducible exact Keeps.refl _
    | with_reducible apply ppsMissing_keeps

theorem execPlantWindowClose_keeps {w : Nat} {P : PlotId → Bool} (hw : Covers w 237725561) (hP : ∀ q, P q = true) {s u : State} (h : execPlantWindowClose s = .next u) :
    Keeps w P s u := by
  cases h
  repeat' first
    | with_reducible assumption
    | with_reducible exact Covers.of hw (by decide)
    | with_reducible exact hP _
    | with_reducible exact .inl hP
    | intro x
    | with_reducible exact Keeps.refl _
    | with_reducible apply windowClose_keeps

theorem execPlantAcqTimeout_keeps {w : Nat} {P : PlotId → Bool} (hw : Covers w 237725561) (hP : ∀ q, P q = true) {s u : State} (h : execPlantAcqTimeout s = .next u) :
    Keeps w P s u := by
  cases h
  repeat' first
    | with_reducible assumption
    | with_reducible exact Covers.of hw (by decide)
    | with_reducible exact hP _
    | with_reducible exact .inl hP
    | intro x
    | with_reducible exact Keeps.refl _
    | with_reducible apply acqTimeout_keeps

theorem execTickHoldoffTimeout_keeps {w : Nat} {P : PlotId → Bool} (unprepared : List PlotId) (hw : Covers w 237725689) (hP : ∀ q, P q = true) {s u : State} (h : execTickHoldoffTimeout unprepared s = .next u) :
    Keeps w P s u := by
  cases h
  repeat' first
    | with_reducible assumption
    | with_reducible exact Covers.of hw (by decide)
    | with_reducible exact hP _
    | with_reducible exact .inl hP
    | intro x
    | with_reducible exact Keeps.refl _
    | with_reducible apply holdoffTimeout_keeps

theorem execFrmCtlWrite_keeps {w : Nat} {P : PlotId → Bool} (v : Word) (hw : Covers w 268435464) {s u : State} (h : execFrmCtlWrite v s = .next u) :
    Keeps w P s u := by
  cases h
  repeat' first
    | with_reducible assumption
    | with_reducible exact Covers.of hw (by decide)
    | intro x
    | with_reducible exact Keeps.refl _
    | with_reducible apply hostGate_keeps
    | with_reducible apply frmCtl_keeps

theorem execSkoetFrameReceive_keeps {w : Nat} {P : PlotId → Bool} (cage : Fin 2) (pcs : Bool) (frame : List Byte) (hw : Covers w 167773232) {s u : State} (h : execSkoetFrameReceive cage pcs frame s = .next u) :
    Keeps w P s u := by
  cases h
  repeat' first
    | with_reducible assumption
    | with_reducible exact Covers.of hw (by decide)
    | intro x
    | with_reducible exact Keeps.refl _
    | with_reducible apply frameReceived_keeps

theorem execMessageCheckComplete_keeps {w : Nat} {P : PlotId → Bool} (hw : Covers w 237725561) (hP : ∀ q, P q = true) {s u : State} (h : execMessageCheckComplete s = .next u) :
    Keeps w P s u := by
  cases h
  repeat' first
    | with_reducible assumption
    | with_reducible exact Covers.of hw (by decide)
    | with_reducible exact hP _
    | with_reducible exact .inl hP
    | (intro x; have hx : Keeps w P s0 x := by { dsimp only [x]; repeat' first
          | with_reducible assumption
          | with_reducible exact Covers.of hw (by decide)
          | with_reducible exact hP _
          | with_reducible exact .inl hP
          | with_reducible exact Keeps.refl _
          | with_reducible apply checksComplete_keeps
          | with_reducible apply designatedMessage_keeps
          | refine Keeps.of_fst (by assumption) ?_
          | split
          | intro y
          | lift_lets }; clear_value x)
    | intro x
    | with_reducible exact Keeps.refl _
    | with_reducible apply checksComplete_keeps
    | with_reducible apply designatedMessage_keeps
    | refine Keeps.of_fst (by assumption) ?_
    | split
    | lift_lets

theorem execSktKeyLoad_keeps {w : Nat} {P : PlotId → Bool} (f : Fn) (hw : Covers w 301989888) {s u : State} (h : execSktKeyLoad f s = .next u) :
    Keeps w P s u := by
  cases h
  repeat' first
    | with_reducible assumption
    | with_reducible exact Covers.of hw (by decide)
    | intro x
    | with_reducible exact Keeps.refl _
    | with_reducible apply hostGate_keeps
    | with_reducible apply keyLoad_keeps
    | split

theorem execSktKeyClear_keeps {w : Nat} {P : PlotId → Bool} (f : Fn) (hw : Covers w 301989888) {s u : State} (h : execSktKeyClear f s = .next u) :
    Keeps w P s u := by
  cases h
  repeat' first
    | with_reducible assumption
    | with_reducible exact Covers.of hw (by decide)
    | intro x
    | with_reducible exact Keeps.refl _
    | with_reducible apply hostGate_keeps
    | with_reducible apply keyClear_keeps
    | split

theorem execPortModeWrite_keeps {w : Nat} {P : PlotId → Bool} (f : Fn) (cage : Fin 2) (v : Word) (hw : Covers w 301989888) {s u : State} (h : execPortModeWrite f cage v s = .next u) :
    Keeps w P s u := by
  cases h
  repeat' first
    | with_reducible assumption
    | with_reducible exact Covers.of hw (by decide)
    | intro x
    | with_reducible exact Keeps.refl _
    | with_reducible apply hostGate_keeps
    | with_reducible apply portWrite_keeps
    | split

theorem execPortLossOfLock_keeps {w : Nat} {P : PlotId → Bool} (cage : Fin 2) (los modAbs : Bool) (hw : Covers w 33554432) {s u : State} (h : execPortLossOfLock cage los modAbs s = .next u) :
    Keeps w P s u := by
  cases h
  repeat' first
    | with_reducible assumption
    | with_reducible exact Covers.of hw (by decide)
    | intro x
    | with_reducible exact Keeps.refl _
    | with_reducible apply portLoss_keeps

theorem execPortLock_keeps {w : Nat} {P : PlotId → Bool} (cage : Fin 2) (modAbs : Bool) (hw : Covers w 33554432) {s u : State} (h : execPortLock cage modAbs s = .next u) :
    Keeps w P s u := by
  cases h
  repeat' first
    | with_reducible assumption
    | with_reducible exact Covers.of hw (by decide)
    | intro x
    | with_reducible exact Keeps.refl _
    | with_reducible apply portGain_keeps

theorem execSqTailWrite_keeps {w : Nat} {P : PlotId → Bool} (f : Fn) (q : PlotId) (v : Word) (hw : Covers w 402654320) (hP : P q = true) {s u : State} (h : execSqTailWrite f q v s = .next u) :
    Keeps w P s u := by
  cases h
  repeat' first
    | with_reducible assumption
    | with_reducible exact Covers.of hw (by decide)
    | intro x
    | with_reducible exact Keeps.refl _
    | with_reducible apply hostGate_keeps
    | with_reducible apply sqTailWrite_keeps
    | split

theorem execCqHeadWrite_keeps {w : Nat} {P : PlotId → Bool} (f : Fn) (q : PlotId) (v : Word) (hw : Covers w 402654256) (hP : P q = true) {s u : State} (h : execCqHeadWrite f q v s = .next u) :
    Keeps w P s u := by
  cases h
  repeat' first
    | with_reducible assumption
    | with_reducible exact Covers.of hw (by decide)
    | intro x
    | with_reducible exact Keeps.refl _
    | with_reducible apply hostGate_keeps
    | with_reducible apply cqHeadWrite_keeps
    | split

theorem execDescriptorFetch_keeps {w : Nat} {P : PlotId → Bool} (q : PlotId) (r : Fetched) (hw : Covers w 671089777) (hP : P q = true) {s u : State} (h : execDescriptorFetch q r s = .next u) :
    Keeps w P s u := by
  cases h
  repeat' first
    | with_reducible assumption
    | with_reducible exact Covers.of hw (by decide)
    | intro x
    | with_reducible exact Keeps.refl _
    | with_reducible apply descriptorFetched_keeps

theorem execImageFetch_keeps {w : Nat} {P : PlotId → Bool} (q : PlotId) (r : Fetched) (ops : List (Nat × Nat)) (hw : Covers w 671088737) (hP : P q = true) {s u : State} (h : execImageFetch q r ops s = .next u) :
    Keeps w P s u := by
  cases h
  repeat' first
    | with_reducible assumption
    | with_reducible exact Covers.of hw (by decide)
    | intro x
    | with_reducible exact Keeps.refl _
    | with_reducible apply imageFetched_keeps

theorem execPlotEnableWrite_keeps {w : Nat} {P : PlotId → Bool} (q : PlotId) (en pfFaultEn : Bool) (hw : Covers w 405488176) (hP : P q = true) {s u : State} (h : execPlotEnableWrite q en pfFaultEn s = .next u) :
    Keeps w P s u := by
  cases h
  repeat' first
    | with_reducible assumption
    | with_reducible exact Covers.of hw (by decide)
    | intro x
    | with_reducible exact Keeps.refl _
    | with_reducible apply hostGate_keeps
    | with_reducible apply plotControl_keeps

theorem execPlotReset_keeps {w : Nat} {P : PlotId → Bool} (f : Fn) (q : PlotId) (hw : Covers w 405496368) (hP : P q = true) {s u : State} (h : execPlotReset f q s = .next u) :
    Keeps w P s u := by
  cases h
  repeat' first
    | with_reducible assumption
    | with_reducible exact Covers.of hw (by decide)
    | intro x
    | with_reducible exact Keeps.refl _
    | with_reducible apply hostGate_keeps
    | with_reducible apply plotResetFrom_keeps

theorem execCancelAll_keeps {w : Nat} {P : PlotId → Bool} (f : Fn) (q : PlotId) (hw : Covers w 405488176) (hP : P q = true) {s u : State} (h : execCancelAll f q s = .next u) :
    Keeps w P s u := by
  cases h
  repeat' first
    | with_reducible assumption
    | with_reducible exact Covers.of hw (by decide)
    | intro x
    | with_reducible exact Keeps.refl _
    | with_reducible apply hostGate_keeps
    | with_reducible apply cancelFrom_keeps

theorem execStopEnd_keeps {w : Nat} {P : PlotId → Bool} (q : PlotId) (hw : Covers w 137052720) (hP : P q = true) {s u : State} (h : execStopEnd q s = .next u) :
    Keeps w P s u := by
  cases h
  repeat' first
    | with_reducible assumption
    | with_reducible exact Covers.of hw (by decide)
    | intro x
    | with_reducible exact Keeps.refl _
    | with_reducible apply stopEnded_keeps

theorem execClearingEnd_keeps {w : Nat} {P : PlotId → Bool} (q : PlotId) (hw : Covers w 201392688) (hP : P q = true) {s u : State} (h : execClearingEnd q s = .next u) :
    Keeps w P s u := by
  cases h
  repeat' first
    | with_reducible assumption
    | with_reducible exact Covers.of hw (by decide)
    | intro x
    | with_reducible exact Keeps.refl _
    | with_reducible apply clearingEnded_keeps

theorem execIrqMaskWrite_keeps {w : Nat} {P : PlotId → Bool} (f : Fn) (q : PlotId) (v : Word) (hw : Covers w 402653232) (hP : P q = true) {s u : State} (h : execIrqMaskWrite f q v s = .next u) :
    Keeps w P s u := by
  cases h
  repeat' first
    | with_reducible assumption
    | with_reducible exact Covers.of hw (by decide)
    | intro x
    | with_reducible exact Keeps.refl _
    | with_reducible apply hostGate_keeps
    | with_reducible apply irqMaskWrite_keeps

theorem execBusMasterEnableWrite_keeps {w : Nat} {P : PlotId → Bool} (f : Fn) (on : Bool) (hw : Covers w 405489392) (hP : ∀ q, P q = true) {s u : State} (h : execBusMasterEnableWrite f on s = .next u) :
    Keeps w P s u := by
  cases h
  repeat' first
    | with_reducible assumption
    | with_reducible exact Covers.of hw (by decide)
    | with_reducible exact hP _
    | with_reducible exact .inl hP
    | intro x
    | with_reducible exact Keeps.refl _
    | with_reducible apply cfgGate_keeps
    | with_reducible apply masterEnable_keeps

theorem execVfEnableClear_keeps {w : Nat} {P : PlotId → Bool} (hw : Covers w 405497584) (hP : ∀ q, P q = true) {s u : State} (h : execVfEnableClear s = .next u) :
    Keeps w P s u := by
  cases h
  repeat' first
    | with_reducible assumption
    | with_reducible exact Covers.of hw (by decide)
    | with_reducible exact hP _
    | with_reducible exact .inl hP
    | intro x
    | with_reducible exact Keeps.refl _
    | with_reducible apply cfgGate_keeps
    | with_reducible apply vfDisable_keeps

theorem execVfFlr_keeps {w : Nat} {P : PlotId → Bool} (p : PlotId) (hw : Covers w 405496368) (hP : P p = true) {s u : State} (h : execVfFlr p s = .next u) :
    Keeps w P s u := by
  cases h
  repeat' first
    | with_reducible assumption
    | with_reducible exact Covers.of hw (by decide)
    | intro x
    | with_reducible exact Keeps.refl _
    | with_reducible apply cfgGate_keeps
    | with_reducible apply vfReset_keeps

theorem execPfFlr_keeps {w : Nat} {P : PlotId → Bool} (hw : Covers w 405497584) (hP : ∀ q, P q = true) {s u : State} (h : execPfFlr s = .next u) :
    Keeps w P s u := by
  cases h
  repeat' first
    | with_reducible assumption
    | with_reducible exact Covers.of hw (by decide)
    | with_reducible exact hP _
    | with_reducible exact .inl hP
    | intro x
    | with_reducible exact Keeps.refl _
    | with_reducible apply cfgGate_keeps
    | with_reducible apply pfReset_keeps

theorem execHostWriteLoss_keeps {w : Nat} {P : PlotId → Bool} (q : PlotId) (user : DmaUser) (hw : Covers w 673934896) (hP : P q = true) {s u : State} (h : execHostWriteLoss q user s = .next u) :
    Keeps w P s u := by
  cases h
  repeat' first
    | with_reducible assumption
    | with_reducible exact Covers.of hw (by decide)
    | intro x
    | with_reducible exact Keeps.refl _
    | with_reducible apply writeLost_keeps

theorem execHostReadError_keeps {w : Nat} {P : PlotId → Bool} (q : PlotId) (user : DmaUser) (kind : ReadFail) (hw : Covers w 673926897) (hP : ∀ q, P q = true) {s u : State} (h : execHostReadError q user kind s = .next u) :
    Keeps w P s u := by
  cases h
  repeat' first
    | with_reducible assumption
    | with_reducible exact Covers.of hw (by decide)
    | with_reducible exact hP _
    | with_reducible exact .inl hP
    | intro x
    | with_reducible exact Keeps.refl _
    | with_reducible apply hostReadError_keeps

theorem execUnsupportedRequest_keeps {w : Nat} {P : PlotId → Bool} (f : Fn) (e : LinkError) (hw : Covers w 939524128) {s u : State} (h : execUnsupportedRequest f e s = .next u) :
    Keeps w P s u := by
  cases h
  repeat' first
    | with_reducible assumption
    | with_reducible exact Covers.of hw (by decide)
    | intro x
    | with_reducible exact Keeps.refl _
    | with_reducible apply linkError_keeps

theorem execPfD3hotEnter_keeps {w : Nat} {P : PlotId → Bool} (hw : Covers w 405489392) (hP : ∀ q, P q = true) {s u : State} (h : execPfD3hotEnter s = .next u) :
    Keeps w P s u := by
  cases h
  repeat' first
    | with_reducible assumption
    | with_reducible exact Covers.of hw (by decide)
    | with_reducible exact hP _
    | with_reducible exact .inl hP
    | intro x
    | with_reducible exact Keeps.refl _
    | with_reducible apply cfgGate_keeps
    | with_reducible apply pfPower_keeps

theorem execPfD0Return_keeps {w : Nat} {P : PlotId → Bool} (hw : Covers w 405489392) (hP : ∀ q, P q = true) {s u : State} (h : execPfD0Return s = .next u) :
    Keeps w P s u := by
  cases h
  repeat' first
    | with_reducible assumption
    | with_reducible exact Covers.of hw (by decide)
    | with_reducible exact hP _
    | with_reducible exact .inl hP
    | intro x
    | with_reducible exact Keeps.refl _
    | with_reducible apply cfgGate_keeps
    | with_reducible apply pfPower_keeps

theorem execVfD3hotEnter_keeps {w : Nat} {P : PlotId → Bool} (p : PlotId) (hw : Covers w 405488240) (hP : P p = true) {s u : State} (h : execVfD3hotEnter p s = .next u) :
    Keeps w P s u := by
  cases h
  repeat' first
    | with_reducible assumption
    | with_reducible exact Covers.of hw (by decide)
    | intro x
    | with_reducible exact Keeps.refl _
    | with_reducible apply cfgGate_keeps
    | with_reducible apply vfPower_keeps

theorem execVfD0Return_keeps {w : Nat} {P : PlotId → Bool} (p : PlotId) (hw : Covers w 405488240) (hP : P p = true) {s u : State} (h : execVfD0Return p s = .next u) :
    Keeps w P s u := by
  cases h
  repeat' first
    | with_reducible assumption
    | with_reducible exact Covers.of hw (by decide)
    | intro x
    | with_reducible exact Keeps.refl _
    | with_reducible apply cfgGate_keeps
    | with_reducible apply vfPower_keeps

theorem execMsixEnableWrite_keeps {w : Nat} {P : PlotId → Bool} (f : Fn) (en mask : Bool) (hw : Covers w 402653216) {s u : State} (h : execMsixEnableWrite f en mask s = .next u) :
    Keeps w P s u := by
  cases h
  repeat' first
    | with_reducible assumption
    | with_reducible exact Covers.of hw (by decide)
    | intro x
    | with_reducible exact Keeps.refl _
    | with_reducible apply cfgGate_keeps
    | with_reducible apply msixControl_keeps

theorem execMsixVectorUnmask_keeps {w : Nat} {P : PlotId → Bool} (f : Fn) (vec : Fin 32) (hw : Covers w 402653216) {s u : State} (h : execMsixVectorUnmask f vec s = .next u) :
    Keeps w P s u := by
  cases h
  repeat' first
    | with_reducible assumption
    | with_reducible exact Covers.of hw (by decide)
    | intro x
    | with_reducible exact Keeps.refl _
    | with_reducible apply hostGate_keeps
    | with_reducible apply msixUnmask_keeps

theorem execPtmGo_keeps {w : Nat} {P : PlotId → Bool} (v : Word) (hw : Covers w 402653248) {s u : State} (h : execPtmGo v s = .next u) :
    Keeps w P s u := by
  cases h
  repeat' first
    | with_reducible assumption
    | with_reducible exact Covers.of hw (by decide)
    | intro x
    | with_reducible exact Keeps.refl _
    | with_reducible apply hostGate_keeps
    | with_reducible apply ptmControl_keeps

theorem execPtmAutoTimer_keeps {w : Nat} {P : PlotId → Bool} (hw : Covers w 134217792) {s u : State} (h : execPtmAutoTimer s = .next u) :
    Keeps w P s u := by
  cases h
  repeat' first
    | with_reducible assumption
    | with_reducible exact Covers.of hw (by decide)
    | intro x
    | with_reducible exact Keeps.refl _
    | with_reducible apply ptmTimer_keeps

theorem execPtmResponse_keeps {w : Nat} {P : PlotId → Bool} (wait : Nat) (master : Word64) (prop : Word) (hw : Covers w 65) {s u : State} (h : execPtmResponse wait master prop s = .next u) :
    Keeps w P s u := by
  cases h
  repeat' first
    | with_reducible assumption
    | with_reducible exact Covers.of hw (by decide)
    | intro x
    | with_reducible exact Keeps.refl _
    | with_reducible apply ptmAnswer_keeps

theorem execPtmNoResponse_keeps {w : Nat} {P : PlotId → Bool} (hw : Covers w 65) {s u : State} (h : execPtmNoResponse s = .next u) :
    Keeps w P s u := by
  cases h
  repeat' first
    | with_reducible assumption
    | with_reducible exact Covers.of hw (by decide)
    | intro x
    | with_reducible exact Keeps.refl _
    | with_reducible apply ptmSilent_keeps

theorem execAttRequest_keeps {w : Nat} {P : PlotId → Bool} (f : Fn) (q : PlotId) (hw : Covers w 402655296) {s u : State} (h : execAttRequest f q s = .next u) :
    Keeps w P s u := by
  cases h
  repeat' first
    | with_reducible assumption
    | with_reducible exact Covers.of hw (by decide)
    | intro x
    | with_reducible exact Keeps.refl _
    | with_reducible apply hostGate_keeps
    | with_reducible apply attGoFrom_keeps

theorem execAttReportDone_keeps {w : Nat} {P : PlotId → Bool} (q : PlotId) (request : Fetched) (written : Bool) (hw : Covers w 671090785) {s u : State} (h : execAttReportDone q request written s = .next u) :
    Keeps w P s u := by
  cases h
  repeat' first
    | with_reducible assumption
    | with_reducible exact Covers.of hw (by decide)
    | intro x
    | with_reducible exact Keeps.refl _
    | with_reducible apply attDone_keeps

theorem execRegisterWrite_keeps {w : Nat} {P : PlotId → Bool} (f : Fn) (wt : HostWrite) (hw : Covers w 522944248) (hP : ∀ q, P q = true) {s u : State} (h : execRegisterWrite f wt s = .next u) :
    Keeps w P s u := by
  cases h
  repeat' first
    | with_reducible assumption
    | with_reducible exact Covers.of hw (by decide)
    | with_reducible exact hP _
    | with_reducible exact .inl hP
    | intro x
    | with_reducible exact Keeps.refl _
    | with_reducible apply hostWriteAny_keeps

theorem execAccessDiscard_keeps {w : Nat} {P : PlotId → Bool} (f : Fn) (write : Bool) (off : BitVec 24) (len : Fin 9) (enables : BitVec 8) (hw : Covers w 939524208) {s u : State} (h : execAccessDiscard f write off len enables s = .next u) :
    Keeps w P s u := by
  cases h
  repeat' first
    | with_reducible assumption
    | with_reducible exact Covers.of hw (by decide)
    | intro x
    | with_reducible exact Keeps.refl _
    | with_reducible apply hostRead_keeps
    | with_reducible apply hostPartialWrite_keeps
    | split

theorem execPoisonedWrite_keeps {w : Nat} {P : PlotId → Bool} (f : Fn) (off : BitVec 24) (hw : Covers w 939524208) {s u : State} (h : execPoisonedWrite f off s = .next u) :
    Keeps w P s u := by
  cases h
  repeat' first
    | with_reducible assumption
    | with_reducible exact Covers.of hw (by decide)
    | intro x
    | with_reducible exact Keeps.refl _
    | with_reducible apply State.aerError_keeps
    | with_reducible apply hostGate_keeps
    | with_reducible apply discard_keeps

theorem execLoReadLatch_keeps {w : Nat} {P : PlotId → Bool} (f : Fn) (off : BitVec 24) (len : Fin 5) (hw : Covers w 939524208) {s u : State} (h : execLoReadLatch f off len s = .next u) :
    Keeps w P s u := by
  cases h
  repeat' first
    | with_reducible assumption
    | with_reducible exact Covers.of hw (by decide)
    | intro x
    | with_reducible exact Keeps.refl _
    | with_reducible apply hostRead_keeps

theorem execLoWriteHold_keeps {w : Nat} {P : PlotId → Bool} (f : Fn) (off : BitVec 24) (v : Word) (hw : Covers w 268435488) {s u : State} (h : execLoWriteHold f off v s = .next u) :
    Keeps w P s u := by
  cases h
  repeat' first
    | with_reducible assumption
    | with_reducible exact Covers.of hw (by decide)
    | intro x
    | with_reducible exact Keeps.refl _
    | with_reducible apply hostGate_keeps
    | with_reducible apply holdLow_keeps
    | split

theorem execHiWriteApply_keeps {w : Nat} {P : PlotId → Bool} (f : Fn) (off : BitVec 24) (v : Word) (hw : Covers w 268446888) (hP : ∀ q, P q = true) {s u : State} (h : execHiWriteApply f off v s = .next u) :
    Keeps w P s u := by
  cases h
  repeat' first
    | with_reducible assumption
    | with_reducible exact Covers.of hw (by decide)
    | with_reducible exact hP _
    | with_reducible exact .inl hP
    | intro x
    | with_reducible exact Keeps.refl _
    | with_reducible apply hostGate_keeps
    | with_reducible apply applyHigh_keeps
    | split

theorem execLogAckWrite_keeps {w : Nat} {P : PlotId → Bool} (v : Word64) (hw : Covers w 268436512) {s u : State} (h : execLogAckWrite v s = .next u) :
    Keeps w P s u := by
  cases h
  repeat' first
    | with_reducible assumption
    | with_reducible exact Covers.of hw (by decide)
    | with_reducible apply Same.mk
    | with_reducible exact .inr rfl
    | exact .inl (hw.bit _ (by decide))
    | exact .inr (fun _ _ => rfl)
    | intro x
    | with_reducible exact Keeps.refl _
    | with_reducible apply State.modFn_keeps
    | with_reducible apply hostGate_keeps
    | with_reducible apply logAck_keeps
    | with_reducible apply Keeps.upd
    | exact rfl

theorem execLogLineLatch_keeps {w : Nat} {P : PlotId → Bool} (f : Fn) (hw : Covers w 939524208) {s u : State} (h : execLogLineLatch f s = .next u) :
    Keeps w P s u := by
  cases h
  repeat' first
    | with_reducible assumption
    | with_reducible exact Covers.of hw (by decide)
    | intro x
    | with_reducible exact Keeps.refl _
    | with_reducible apply hostGate_keeps
    | with_reducible apply hostRead_keeps
    | split

theorem execThermalTrip_keeps (sensor : Fin 48) {s u : State} (h : execThermalTrip sensor s = .next u) : Any s u := by
  cases h
  apply tripOn_keeps
  exact Keeps.refl _

theorem execPwrOkRise_follows (e : EpochRun) {s u : State} (h : execPwrOkRise e s = .next u) : Follows s u := by
  cases h
  exact pwrOkRises_follows _ (Keeps.refl s)

theorem execMemoryInitDone_keeps {w : Nat} {P : PlotId → Bool} (hw : Covers w 1) {s u : State} (h : execMemoryInitDone s = .next u) :
    Keeps w P s u := by
  cases h
  repeat' first
    | with_reducible assumption
    | with_reducible exact Covers.of hw (by decide)
    | intro x
    | with_reducible exact Keeps.refl _
    | with_reducible apply memoryReady_keeps

theorem execReady_keeps {w : Nat} {P : PlotId → Bool} (hw : Covers w 150998073) (hP : ∀ q, P q = true) {s u : State} (h : execReady s = .next u) :
    Keeps w P s u := by
  cases h
  repeat' first
    | with_reducible assumption
    | with_reducible exact Covers.of hw (by decide)
    | with_reducible exact hP _
    | with_reducible exact .inl hP
    | intro x
    | with_reducible exact Keeps.refl _
    | with_reducible apply becomeReady_keeps

theorem execTagKeyTimeout_keeps {w : Nat} {P : PlotId → Bool} (hw : Covers w 134220851) {s u : State} (h : execTagKeyTimeout s = .next u) :
    Keeps w P s u := by
  cases h
  repeat' first
    | with_reducible assumption
    | with_reducible exact Covers.of hw (by decide)
    | intro x
    | with_reducible exact Keeps.refl _
    | with_reducible apply keyTimeout_keeps

theorem execPwrOkFall_keeps {s u : State} (h : execPwrOkFall  s = .next u) : Any s u := by
  cases h
  apply pwrOkFalls_keeps
  exact Keeps.refl _

theorem execPerstAssert_follows (e : EpochRun) {s u : State} (h : execPerstAssert e s = .next u) : Follows s u := by
  cases h
  exact perstOn_follows _ (Keeps.refl s)

theorem execPerstDeassert_keeps {w : Nat} {P : PlotId → Bool} (hw : Covers w 1) {s u : State} (h : execPerstDeassert s = .next u) :
    Keeps w P s u := by
  cases h
  repeat' first
    | with_reducible assumption
    | with_reducible exact Covers.of hw (by decide)
    | intro x
    | with_reducible exact Keeps.refl _
    | with_reducible apply perstOff_keeps

theorem execHotReset_follows (e : EpochRun) {s u : State} (h : execHotReset e s = .next u) : Follows s u := by
  cases h
  exact linkReset_follows _ _ (Keeps.refl s)

theorem execLinkDown_follows (e : EpochRun) {s u : State} (h : execLinkDown e s = .next u) : Follows s u := by
  cases h
  exact linkReset_follows _ _ (Keeps.refl s)

theorem execLinkUp_keeps {w : Nat} {P : PlotId → Bool} (speed : Fin 6) (width : Fin 17) (hw : Covers w 65) {s u : State} (h : execLinkUp speed width s = .next u) :
    Keeps w P s u := by
  cases h
  repeat' first
    | with_reducible assumption
    | with_reducible exact Covers.of hw (by decide)
    | intro x
    | with_reducible exact Keeps.refl _
    | with_reducible apply linkTrains_keeps

theorem execVddAuxPowerOn_follows (strap : Fin 4) {s u : State} (h : execVddAuxPowerOn strap s = .next u) : Follows s u := by
  cases h
  exact auxOn_follows _ (Keeps.refl s)

theorem execVddAuxLoss_follows {s u : State} (h : execVddAuxLoss  s = .next u) : Follows s u := by
  cases h
  exact auxOff_follows (Keeps.refl s)

theorem execSmbStatus_keeps {w : Nat} {P : PlotId → Bool} (x : SmbXfer) (hw : Covers w 268435520) {s u : State} (h : execSmbStatus x s = .next u) :
    Keeps w P s u := by
  cases h
  repeat' first
    | with_reducible assumption
    | with_reducible exact Covers.of hw (by decide)
    | intro x
    | with_reducible exact Keeps.refl _
    | with_reducible apply smbRead_keeps

theorem execSmbTemp_keeps {w : Nat} {P : PlotId → Bool} (x : SmbXfer) (hw : Covers w 268435520) {s u : State} (h : execSmbTemp x s = .next u) :
    Keeps w P s u := by
  cases h
  repeat' first
    | with_reducible assumption
    | with_reducible exact Covers.of hw (by decide)
    | intro x
    | with_reducible exact Keeps.refl _
    | with_reducible apply smbRead_keeps
    | with_reducible apply smbValue_keeps
    | refine Keeps.of_fst (by assumption) ?_
    | split

theorem execSmbPower_keeps {w : Nat} {P : PlotId → Bool} (x : SmbXfer) (hw : Covers w 268435520) {s u : State} (h : execSmbPower x s = .next u) :
    Keeps w P s u := by
  cases h
  repeat' first
    | with_reducible assumption
    | with_reducible exact Covers.of hw (by decide)
    | intro x
    | with_reducible exact Keeps.refl _
    | with_reducible apply smbRead_keeps
    | with_reducible apply smbValue_keeps
    | refine Keeps.of_fst (by assumption) ?_
    | split

theorem execSmbCap_keeps {w : Nat} {P : PlotId → Bool} (x : SmbXfer) (hw : Covers w 268435520) {s u : State} (h : execSmbCap x s = .next u) :
    Keeps w P s u := by
  cases h
  repeat' first
    | with_reducible assumption
    | with_reducible exact Covers.of hw (by decide)
    | intro x
    | with_reducible exact Keeps.refl _
    | with_reducible apply smbRead_keeps
    | with_reducible apply smbValue_keeps
    | refine Keeps.of_fst (by assumption) ?_
    | split

theorem execSmbTrip_keeps {w : Nat} {P : PlotId → Bool} (x : SmbXfer) (hw : Covers w 268435520) {s u : State} (h : execSmbTrip x s = .next u) :
    Keeps w P s u := by
  cases h
  repeat' first
    | with_reducible assumption
    | with_reducible exact Covers.of hw (by decide)
    | intro x
    | with_reducible exact Keeps.refl _
    | with_reducible apply smbRead_keeps

theorem execSmbIdent_keeps {w : Nat} {P : PlotId → Bool} (x : SmbXfer) (hw : Covers w 805306432) {s u : State} (h : execSmbIdent x s = .next u) :
    Keeps w P s u := by
  cases h
  repeat' first
    | with_reducible assumption
    | with_reducible exact Covers.of hw (by decide)
    | intro x
    | with_reducible exact Keeps.refl _
    | with_reducible apply smbRead_keeps
    | with_reducible apply smbIdentity_keeps
    | refine Keeps.of_fst (by assumption) ?_
    | split

theorem execSmbResetCause_keeps {w : Nat} {P : PlotId → Bool} (x : SmbXfer) (hw : Covers w 268435520) {s u : State} (h : execSmbResetCause x s = .next u) :
    Keeps w P s u := by
  cases h
  repeat' first
    | with_reducible assumption
    | with_reducible exact Covers.of hw (by decide)
    | intro x
    | with_reducible exact Keeps.refl _
    | with_reducible apply smbRead_keeps
    | with_reducible apply smbValue_keeps
    | refine Keeps.of_fst (by assumption) ?_
    | split

theorem execSmbRegAddr_keeps {w : Nat} {P : PlotId → Bool} (x : SmbXfer) (write : Option (Word × Option Byte)) (hw : Covers w 268435520) {s u : State} (h : execSmbRegAddr x write s = .next u) :
    Keeps w P s u := by
  cases h
  repeat' first
    | with_reducible assumption
    | with_reducible exact Covers.of hw (by decide)
    | intro x
    | with_reducible exact Keeps.refl _
    | with_reducible apply smbRegAddress_keeps

theorem execSmbRegData_keeps {w : Nat} {P : PlotId → Bool} (x : SmbXfer) (hw : Covers w 805306432) {s u : State} (h : execSmbRegData x s = .next u) :
    Keeps w P s u := by
  cases h
  repeat' first
    | with_reducible assumption
    | with_reducible exact Covers.of hw (by decide)
    | intro x
    | with_reducible exact Keeps.refl _
    | with_reducible apply smbRead_keeps
    | with_reducible apply smbRegister_keeps
    | refine Keeps.of_fst (by assumption) ?_
    | split

theorem execJtagExtest_follows {s u : State} (h : execJtagExtest  s = .next u) : Follows s u := by
  cases h
  exact jtagSelect_follows _ _ (Keeps.refl s)

theorem execJtagIdcode_follows (e : EpochRun) {s u : State} (h : execJtagIdcode e s = .next u) : Follows s u := by
  cases h
  exact jtagIdentify_follows _ (Keeps.refl s)

theorem execJtagSamplePreload_follows (e : EpochRun) {s u : State} (h : execJtagSamplePreload e s = .next u) : Follows s u := by
  cases h
  exact jtagSample_follows _ (Keeps.refl s)

theorem execJtagClamp_follows {s u : State} (h : execJtagClamp  s = .next u) : Follows s u := by
  cases h
  exact jtagSelect_follows _ _ (Keeps.refl s)

theorem execJtagHighz_follows {s u : State} (h : execJtagHighz  s = .next u) : Follows s u := by
  cases h
  exact jtagSelect_follows _ _ (Keeps.refl s)

theorem execJtagBypass_follows (opcode : Byte) (e : EpochRun) {s u : State} (h : execJtagBypass opcode e s = .next u) : Follows s u := by
  cases h
  split
  · exact jtagSelect_follows _ _ (Keeps.refl s)
  · exact Follows.refl s

theorem execJtagResetExit_follows (e : EpochRun) (next : Option Byte) {s u : State} (h : execJtagResetExit e next s = .next u) : Follows s u := by
  cases h
  exact jtagLeave_follows _ _ (Keeps.refl s)

/-- Every command answers a next state that follows the one it ran in. -/
theorem exec_follows (c : Instr) {s u : State} (h : exec c s = .next u) : Follows s u := by
  cases c with
  | registerWrite f w => exact (execRegisterWrite_keeps f w (Covers.refl _) (P := fun _ => true) (fun _ => rfl) h).follows
  | accessDiscard f write off len enables => exact (execAccessDiscard_keeps f write off len enables (Covers.refl _) (P := fun _ => true) h).follows
  | poisonedWrite f off => exact (execPoisonedWrite_keeps f off (Covers.refl _) (P := fun _ => true) h).follows
  | loReadLatch f off len => exact (execLoReadLatch_keeps f off len (Covers.refl _) (P := fun _ => true) h).follows
  | loWriteHold f off v => exact (execLoWriteHold_keeps f off v (Covers.refl _) (P := fun _ => true) h).follows
  | hiWriteApply f off v => exact (execHiWriteApply_keeps f off v (Covers.refl _) (P := fun _ => true) (fun _ => rfl) h).follows
  | tick => exact (execTick_keeps (Covers.refl _) (P := fun _ => true) (fun _ => rfl) h).follows
  | commitWindowOpen r => exact (execCommitWindowOpen_keeps r (Covers.refl _) (P := fun _ => true) (fun _ => rfl) h).follows
  | budgetOverrun q idx claim => exact (execBudgetOverrun_keeps q idx claim (Covers.refl _) (P := fun _ => true) rfl h).follows
  | abandonmentComplete q idx => exact (execAbandonmentComplete_keeps q idx (Covers.refl _) (P := fun _ => true) rfl h).follows
  | ppsEdge wait rising => exact (execPpsEdge_keeps wait rising (Covers.refl _) (P := fun _ => true) h).follows
  | ppsEdgeMissing => exact (execPpsEdgeMissing_keeps (Covers.refl _) (P := fun _ => true) h).follows
  | plantWindowClose => exact (execPlantWindowClose_keeps (Covers.refl _) (P := fun _ => true) (fun _ => rfl) h).follows
  | plantAcqTimeout => exact (execPlantAcqTimeout_keeps (Covers.refl _) (P := fun _ => true) (fun _ => rfl) h).follows
  | tickHoldoffTimeout unprepared => exact (execTickHoldoffTimeout_keeps unprepared (Covers.refl _) (P := fun _ => true) (fun _ => rfl) h).follows
  | frmCtlWrite v => exact (execFrmCtlWrite_keeps v (Covers.refl _) (P := fun _ => true) h).follows
  | sqTailWrite f q v => exact (execSqTailWrite_keeps f q v (Covers.refl _) (P := fun _ => true) rfl h).follows
  | cqHeadWrite f q v => exact (execCqHeadWrite_keeps f q v (Covers.refl _) (P := fun _ => true) rfl h).follows
  | descriptorFetch q r => exact (execDescriptorFetch_keeps q r (Covers.refl _) (P := fun _ => true) rfl h).follows
  | imageFetch q r ops => exact (execImageFetch_keeps q r ops (Covers.refl _) (P := fun _ => true) rfl h).follows
  | plotEnableWrite q en pfFaultEn => exact (execPlotEnableWrite_keeps q en pfFaultEn (Covers.refl _) (P := fun _ => true) rfl h).follows
  | plotReset f q => exact (execPlotReset_keeps f q (Covers.refl _) (P := fun _ => true) rfl h).follows
  | cancelAll f q => exact (execCancelAll_keeps f q (Covers.refl _) (P := fun _ => true) rfl h).follows
  | stopEnd q => exact (execStopEnd_keeps q (Covers.refl _) (P := fun _ => true) rfl h).follows
  | clearingEnd q => exact (execClearingEnd_keeps q (Covers.refl _) (P := fun _ => true) rfl h).follows
  | irqMaskWrite f q v => exact (execIrqMaskWrite_keeps f q v (Covers.refl _) (P := fun _ => true) rfl h).follows
  | busMasterEnableWrite f on => exact (execBusMasterEnableWrite_keeps f on (Covers.refl _) (P := fun _ => true) (fun _ => rfl) h).follows
  | vfEnableClear => exact (execVfEnableClear_keeps (Covers.refl _) (P := fun _ => true) (fun _ => rfl) h).follows
  | vfFlr p => exact (execVfFlr_keeps p (Covers.refl _) (P := fun _ => true) rfl h).follows
  | pfFlr => exact (execPfFlr_keeps (Covers.refl _) (P := fun _ => true) (fun _ => rfl) h).follows
  | hostWriteLoss q user => exact (execHostWriteLoss_keeps q user (Covers.refl _) (P := fun _ => true) rfl h).follows
  | hostReadError q user kind => exact (execHostReadError_keeps q user kind (Covers.refl _) (P := fun _ => true) (fun _ => rfl) h).follows
  | unsupportedRequest f e => exact (execUnsupportedRequest_keeps f e (Covers.refl _) (P := fun _ => true) h).follows
  | cfgLoad abort arm => exact (execCfgLoad_keeps abort arm (Covers.refl _) (P := fun _ => true) (fun _ => rfl) h).follows
  | cfgAbort arm => exact (execCfgAbort_keeps arm (Covers.refl _) (P := fun _ => true) (fun _ => rfl) h).follows
  | cfgArm arm => exact (execCfgArm_keeps arm (Covers.refl _) (P := fun _ => true) (fun _ => rfl) h).follows
  | loadFetchComplete r => exact (execLoadFetchComplete_keeps r (Covers.refl _) (P := fun _ => true) (fun _ => rfl) h).follows
  | loadVerifyComplete => exact (execLoadVerifyComplete_keeps (Covers.refl _) (P := fun _ => true) (fun _ => rfl) h).follows
  | stagingComplete => exact (execStagingComplete_keeps (Covers.refl _) (P := fun _ => true) (fun _ => rfl) h).follows
  | bundleWaitExpire => exact (execBundleWaitExpire_keeps (Covers.refl _) (P := fun _ => true) (fun _ => rfl) h).follows
  | revert f q => exact (execRevert_keeps f q (Covers.refl _) (P := fun _ => true) rfl h).follows
  | fuseProgram key slot => exact (execFuseProgram_keeps key slot (Covers.refl _) (P := fun _ => true) h).follows
  | fuseRevoke key slot => exact (execFuseRevoke_keeps key slot (Covers.refl _) (P := fun _ => true) h).follows
  | fuseLock key => exact (execFuseLock_keeps key (Covers.refl _) (P := fun _ => true) h).follows
  | fuseOpComplete => exact (execFuseOpComplete_keeps (Covers.refl _) (P := fun _ => true) h).follows
  | retriedMulticastLaunch q idx entry flits => exact (execRetriedMulticastLaunch_keeps q idx entry flits (Covers.refl _) (P := fun _ => true) h).follows
  | multicastAckNack src q entry target ack => exact (execMulticastAckNack_keeps src q entry target ack (Covers.refl _) (P := fun _ => true) h).follows
  | multicastReady src q entry target => exact (execMulticastReady_keeps src q entry target (Covers.refl _) (P := fun _ => true) rfl h).follows
  | multicastTimeout src q entry => exact (execMulticastTimeout_keeps src q entry (Covers.refl _) (P := fun _ => true) rfl h).follows
  | creditReservation q idx entry step => exact (execCreditReservation_keeps q idx entry step (Covers.refl _) (P := fun _ => true) h).follows
  | mergedRead q addr readers single uncorrectable => exact (execMergedRead_keeps q addr readers single uncorrectable (Covers.refl _) (P := fun _ => true) rfl h).follows
  | homePageFirstWrite q idx node addr data => exact (execHomePageFirstWrite_keeps q idx node addr data (Covers.refl _) (P := fun _ => true) rfl h).follows
  | writeCopyComplete q idx page => exact (execWriteCopyComplete_keeps q idx page (Covers.refl _) (P := fun _ => true) rfl h).follows
  | backedPageMiss q idx node addr => exact (execBackedPageMiss_keeps q idx node addr (Covers.refl _) (P := fun _ => true) rfl h).follows
  | pageInRequest q idx node addr => exact (execPageInRequest_keeps q idx node addr (Covers.refl _) (P := fun _ => true) rfl h).follows
  | pageInComplete q page => exact (execPageInComplete_keeps q page (Covers.refl _) (P := fun _ => true) rfl h).follows
  | patrolScrub addr single uncorrectable pass => exact (execPatrolScrub_keeps addr single uncorrectable pass (Covers.refl _) (P := fun _ => true) h).follows
  | linkCrcFail router owner failures => exact (execLinkCrcFail_keeps router owner failures (Covers.refl _) (P := fun _ => true) (fun _ => rfl) h).follows
  | pcacheWrite q v => exact (execPcacheWrite_keeps q v (Covers.refl _) (P := fun _ => true) rfl h).follows
  | frameZeroingDone q => exact (execFrameZeroingDone_keeps q (w := 0) (P := fun _ => true) rfl h).follows
  | annealInitialPass q idx => exact (execAnnealInitialPass_keeps q idx (Covers.refl _) (P := fun _ => true) rfl h).follows
  | annealRunStart q idx sweeps bearing => exact (execAnnealRunStart_keeps q idx sweeps bearing (Covers.refl _) (P := fun _ => true) rfl h).follows
  | flipSlot q idx => exact (execFlipSlot_keeps q idx (Covers.refl _) (P := fun _ => true) rfl h).follows
  | sweepComplete q idx => exact (execSweepComplete_keeps q idx (Covers.refl _) (P := fun _ => true) rfl h).follows
  | energyAudit q idx hardwareError => exact (execEnergyAudit_keeps q idx hardwareError (Covers.refl _) (P := fun _ => true) rfl h).follows
  | stallWindowEnd q idx => exact (execStallWindowEnd_keeps q idx (w := 0) (P := fun _ => true) rfl h).follows
  | bearingPeriodEnd q idx => exact (execBearingPeriodEnd_keeps q idx (w := 0) (P := fun _ => true) rfl h).follows
  | annealRunEnd q idx => exact (execAnnealRunEnd_keeps q idx (w := 0) (P := fun _ => true) rfl h).follows
  | wellHealthFail source apt => exact (execWellHealthFail_keeps source apt (Covers.refl _) (P := fun _ => true) h).follows
  | startupTestPass source => exact (execStartupTestPass_keeps source (Covers.refl _) (P := fun _ => true) h).follows
  | wellRetry f t => exact (execWellRetry_keeps f t (Covers.refl _) (P := fun _ => true) h).follows
  | deepWellRetry f channel => exact (execDeepWellRetry_keeps f channel (Covers.refl _) (P := fun _ => true) h).follows
  | deepWellDrawStart t => exact (execDeepWellDrawStart_keeps t (Covers.refl _) (P := fun _ => true) h).follows
  | deepWellBlock => exact (execDeepWellBlock_keeps (Covers.refl _) (P := fun _ => true) (fun _ => rfl) h).follows
  | rngRequest f q blocks => exact (execRngRequest_keeps f q blocks (Covers.refl _) (P := fun _ => true) rfl h).follows
  | rngWindowExpire q => exact (execRngWindowExpire_keeps q (Covers.refl _) (P := fun _ => true) rfl h).follows
  | tapeDoorbell f q tile index => exact (execTapeDoorbell_keeps f q tile index (Covers.refl _) (P := fun _ => true) rfl h).follows
  | tapeSegmentArrival q tile r => exact (execTapeSegmentArrival_keeps q tile r (Covers.refl _) (P := fun _ => true) rfl h).follows
  | tapeRecordWrite q tile => exact (execTapeRecordWrite_keeps q tile (Covers.refl _) (P := fun _ => true) rfl h).follows
  | graftFullPass q idx => exact (execGraftFullPass_keeps q idx (Covers.refl _) (P := fun _ => true) rfl h).follows
  | graftSelect q idx cluster => exact (execGraftSelect_keeps q idx cluster (Covers.refl _) (P := fun _ => true) rfl h).follows
  | graftStage q idx => exact (execGraftStage_keeps q idx (Covers.refl _) (P := fun _ => true) rfl h).follows
  | graftPass q idx => exact (execGraftPass_keeps q idx (Covers.refl _) (P := fun _ => true) rfl h).follows
  | graftHarvest q idx => exact (execGraftHarvest_keeps q idx (Covers.refl _) (P := fun _ => true) rfl h).follows
  | graftFullAudit q idx => exact (execGraftFullAudit_keeps q idx (Covers.refl _) (P := fun _ => true) rfl h).follows
  | mxeOperationStart q idx engine op => exact (execMxeOperationStart_keeps q idx engine op (Covers.refl _) (P := fun _ => true) rfl h).follows
  | bankSwap engine stall => exact (execBankSwap_keeps engine stall (Covers.refl _) (P := fun _ => true) (fun _ => rfl) h).follows
  | partialTileReceive engine => exact (execPartialTileReceive_keeps engine (Covers.refl _) (P := fun _ => true) (fun _ => rfl) h).follows
  | helperCallStart cluster ready => exact (execHelperCallStart_keeps cluster ready (Covers.refl _) (P := fun _ => true) h).follows
  | helperCallEnd cluster e => exact (execHelperCallEnd_keeps cluster e (Covers.refl _) (P := fun _ => true) (fun _ => rfl) h).follows
  | qceCallStart engine ready => exact (execQceCallStart_keeps engine ready (Covers.refl _) (P := fun _ => true) h).follows
  | qcePass1 engine => exact (execQcePass1_keeps engine (Covers.refl _) (P := fun _ => true) (fun _ => rfl) h).follows
  | qcePass2 engine => exact (execQcePass2_keeps engine (Covers.refl _) (P := fun _ => true) (fun _ => rfl) h).follows
  | laneInitDone lane => exact (execLaneInitDone_keeps lane (Covers.refl _) (P := fun _ => true) (fun _ => rfl) h).follows
  | queryStart q idx addr => exact (execQueryStart_keeps q idx addr (Covers.refl _) (P := fun _ => true) rfl h).follows
  | queryPartStart q idx query lane => exact (execQueryPartStart_keeps q idx query lane (Covers.refl _) (P := fun _ => true) rfl h).follows
  | flashPageReady lane ce lun block page r => exact (execFlashPageReady_keeps lane ce lun block page r (Covers.refl _) (P := fun _ => true) (fun _ => rfl) h).follows
  | laneClaimPark q idx lane => exact (execLaneClaimPark_keeps q idx lane (w := 0) (P := fun _ => true) rfl h).follows
  | queryDeadlineReached q idx query lane => exact (execQueryDeadlineReached_keeps q idx query lane (Covers.refl _) (P := fun _ => true) rfl h).follows
  | queryResultMerge q idx query => exact (execQueryResultMerge_keeps q idx query (Covers.refl _) (P := fun _ => true) rfl h).follows
  | sideAppend q idx index addr count => exact (execSideAppend_keeps q idx index addr count (Covers.refl _) (P := fun _ => true) rfl h).follows
  | genWrite q idx index sector addr count flush => exact (execGenWrite_keeps q idx index sector addr count flush (Covers.refl _) (P := fun _ => true) rfl h).follows
  | genMerge q idx index sector addr count flush => exact (execGenMerge_keeps q idx index sector addr count flush (Covers.refl _) (P := fun _ => true) rfl h).follows
  | lunReadyTimeout lane ce lun block page => exact (execLunReadyTimeout_keeps lane ce lun block page (Covers.refl _) (P := fun _ => true) (fun _ => rfl) h).follows
  | programEraseComplete lane ce lun fail => exact (execProgramEraseComplete_keeps lane ce lun fail (Covers.refl _) (P := fun _ => true) (fun _ => rfl) h).follows
  | programEraseTimeout lane ce lun => exact (execProgramEraseTimeout_keeps lane ce lun (Covers.refl _) (P := fun _ => true) (fun _ => rfl) h).follows
  | lunClr lane ce lun => exact (execLunClr_keeps lane ce lun (Covers.refl _) (P := fun _ => true) h).follows
  | powerSample x => exact (execPowerSample_keeps x (Covers.refl _) (P := fun _ => true) (fun _ => rfl) h).follows
  | currentLimiterEval rail window => exact (execCurrentLimiterEval_keeps rail window (Covers.refl _) (P := fun _ => true) (fun _ => rfl) h).follows
  | capLimiterEval => exact (execCapLimiterEval_keeps (Covers.refl _) (P := fun _ => true) (fun _ => rfl) h).follows
  | calibrationRead rail reading => exact (execCalibrationRead_keeps rail reading (Covers.refl _) (P := fun _ => true) h).follows
  | calibrationLost rail => exact (execCalibrationLost_keeps rail (Covers.refl _) (P := fun _ => true) h).follows
  | voltageBandEval => exact (execVoltageBandEval_keeps (Covers.refl _) (P := fun _ => true) h).follows
  | ageingTrimStep pass8 fail4 => exact (execAgeingTrimStep_keeps pass8 fail4 (Covers.refl _) (P := fun _ => true) h).follows
  | boostCheck => exact (execBoostCheck_keeps (Covers.refl _) (P := fun _ => true) h).follows
  | fixedFreqWrite f v => exact (execFixedFreqWrite_keeps f v (Covers.refl _) (P := fun _ => true) h).follows
  | droopCrossing depth => exact (execDroopCrossing_keeps depth (Covers.refl _) (P := fun _ => true) h).follows
  | droopPersist => exact (execDroopPersist_keeps (Covers.refl _) (P := fun _ => true) (fun _ => rfl) h).follows
  | vrAlert => exact (execVrAlert_keeps (Covers.refl _) (P := fun _ => true) (fun _ => rfl) h).follows
  | lowestStateExit => exact (execLowestStateExit_keeps (Covers.refl _) (P := fun _ => true) h).follows
  | thermalSample temps => exact (execThermalSample_keeps temps (Covers.refl _) (P := fun _ => true) (fun _ => rfl) h).follows
  | thermalLimitUpdate => exact (execThermalLimitUpdate_keeps (Covers.refl _) (P := fun _ => true) h).follows
  | thermalTrip sensor => exact (execThermalTrip_keeps sensor h).follows
  | pmbusTransaction answer => exact (execPmbusTransaction_keeps answer (Covers.refl _) (P := fun _ => true) h).follows
  | pwrOkRise e => exact execPwrOkRise_follows e h
  | memoryInitDone => exact (execMemoryInitDone_keeps (Covers.refl _) (P := fun _ => true) h).follows
  | ready => exact (execReady_keeps (Covers.refl _) (P := fun _ => true) (fun _ => rfl) h).follows
  | tagKeyTimeout => exact (execTagKeyTimeout_keeps (Covers.refl _) (P := fun _ => true) h).follows
  | pwrOkFall => exact (execPwrOkFall_keeps h).follows
  | perstAssert e => exact execPerstAssert_follows e h
  | perstDeassert => exact (execPerstDeassert_keeps (Covers.refl _) (P := fun _ => true) h).follows
  | hotReset e => exact execHotReset_follows e h
  | linkDown e => exact execLinkDown_follows e h
  | pfD3hotEnter => exact (execPfD3hotEnter_keeps (Covers.refl _) (P := fun _ => true) (fun _ => rfl) h).follows
  | pfD0Return => exact (execPfD0Return_keeps (Covers.refl _) (P := fun _ => true) (fun _ => rfl) h).follows
  | vfD3hotEnter p => exact (execVfD3hotEnter_keeps p (Covers.refl _) (P := fun _ => true) rfl h).follows
  | msixEnableWrite f en mask => exact (execMsixEnableWrite_keeps f en mask (Covers.refl _) (P := fun _ => true) h).follows
  | msixVectorUnmask f vec => exact (execMsixVectorUnmask_keeps f vec (Covers.refl _) (P := fun _ => true) h).follows
  | ptmGo v => exact (execPtmGo_keeps v (Covers.refl _) (P := fun _ => true) h).follows
  | ptmAutoTimer => exact (execPtmAutoTimer_keeps (Covers.refl _) (P := fun _ => true) h).follows
  | ptmResponse wait master prop => exact (execPtmResponse_keeps wait master prop (Covers.refl _) (P := fun _ => true) h).follows
  | ptmNoResponse => exact (execPtmNoResponse_keeps (Covers.refl _) (P := fun _ => true) h).follows
  | smbStatus x => exact (execSmbStatus_keeps x (Covers.refl _) (P := fun _ => true) h).follows
  | smbTemp x => exact (execSmbTemp_keeps x (Covers.refl _) (P := fun _ => true) h).follows
  | smbPower x => exact (execSmbPower_keeps x (Covers.refl _) (P := fun _ => true) h).follows
  | smbCap x => exact (execSmbCap_keeps x (Covers.refl _) (P := fun _ => true) h).follows
  | smbTrip x => exact (execSmbTrip_keeps x (Covers.refl _) (P := fun _ => true) h).follows
  | smbIdent x => exact (execSmbIdent_keeps x (Covers.refl _) (P := fun _ => true) h).follows
  | smbResetCause x => exact (execSmbResetCause_keeps x (Covers.refl _) (P := fun _ => true) h).follows
  | smbRegAddr x write => exact (execSmbRegAddr_keeps x write (Covers.refl _) (P := fun _ => true) h).follows
  | smbRegData x => exact (execSmbRegData_keeps x (Covers.refl _) (P := fun _ => true) h).follows
  | jtagExtest => exact execJtagExtest_follows h
  | jtagIdcode e => exact execJtagIdcode_follows e h
  | jtagSamplePreload e => exact execJtagSamplePreload_follows e h
  | jtagClamp => exact execJtagClamp_follows h
  | jtagHighz => exact execJtagHighz_follows h
  | jtagBypass opcode e => exact execJtagBypass_follows opcode e h
  | jtagResetExit e next => exact execJtagResetExit_follows e next h
  | skoetFrameReceive cage pcs frame => exact (execSkoetFrameReceive_keeps cage pcs frame (Covers.refl _) (P := fun _ => true) h).follows
  | messageCheckComplete => exact (execMessageCheckComplete_keeps (Covers.refl _) (P := fun _ => true) (fun _ => rfl) h).follows
  | sktKeyLoad f => exact (execSktKeyLoad_keeps f (Covers.refl _) (P := fun _ => true) h).follows
  | sktKeyClear f => exact (execSktKeyClear_keeps f (Covers.refl _) (P := fun _ => true) h).follows
  | portModeWrite f cage v => exact (execPortModeWrite_keeps f cage v (Covers.refl _) (P := fun _ => true) h).follows
  | portLossOfLock cage los modAbs => exact (execPortLossOfLock_keeps cage los modAbs (Covers.refl _) (P := fun _ => true) h).follows
  | attRequest f q => exact (execAttRequest_keeps f q (Covers.refl _) (P := fun _ => true) h).follows
  | attReportDone q request written => exact (execAttReportDone_keeps q request written (Covers.refl _) (P := fun _ => true) h).follows
  | logAckWrite v => exact (execLogAckWrite_keeps v (Covers.refl _) (P := fun _ => true) h).follows
  | logLineLatch f => exact (execLogLineLatch_keeps f (Covers.refl _) (P := fun _ => true) h).follows
  | vddAuxPowerOn strap => exact execVddAuxPowerOn_follows strap h
  | vddAuxLoss => exact execVddAuxLoss_follows h
  | linkUp speed width => exact (execLinkUp_keeps speed width (Covers.refl _) (P := fun _ => true) h).follows
  | vfD0Return p => exact (execVfD0Return_keeps p (Covers.refl _) (P := fun _ => true) rfl h).follows
  | vrAlertDeasserted => exact (execVrAlertDeasserted_keeps (Covers.refl _) (P := fun _ => true) h).follows
  | droopRecovery stretched => exact (execDroopRecovery_keeps stretched (Covers.refl _) (P := fun _ => true) h).follows
  | portLock cage modAbs => exact (execPortLock_keeps cage modAbs (Covers.refl _) (P := fun _ => true) h).follows
  | lunInitTimeout lane ce lun => exact (execLunInitTimeout_keeps lane ce lun (Covers.refl _) (P := fun _ => true) (fun _ => rfl) h).follows
  | lunClrDone lane ce lun => exact (execLunClrDone_keeps lane ce lun (Covers.refl _) (P := fun _ => true) h).follows
  | voltageSettleEnd => exact (execVoltageSettleEnd_keeps (Covers.refl _) (P := fun _ => true) h).follows
  | conditionerOutput t bits => exact (execConditionerOutput_keeps t bits (Covers.refl _) (P := fun _ => true) h).follows
  | deepWellOutput channel bits => exact (execDeepWellOutput_keeps channel bits (Covers.refl _) (P := fun _ => true) h).follows

end Sys2Proof.Machine
end

