-- ==== Sys2Proof/Laws/State.lean ====
section
/-!
SUPPORT. Sys2Proof/Laws/State.lean: one lemma per field per update of the state, true by rfl, so that no proof unfolds a record
update; and what an update does to the part it changes.
-/
namespace Sys2Proof.Machine

/-! ### modPlot -/

@[simp] theorem State.modPlot_pending (s : State) (q : PlotId) (f : Plot → Plot) : (s.modPlot q f).pending = s.pending := rfl
@[simp] theorem State.modPlot_boot (s : State) (q : PlotId) (f : Plot → Plot) : (s.modPlot q f).boot = s.boot := rfl
@[simp] theorem State.modPlot_aux (s : State) (q : PlotId) (f : Plot → Plot) : (s.modPlot q f).aux = s.aux := rfl
@[simp] theorem State.modPlot_fuses (s : State) (q : PlotId) (f : Plot → Plot) : (s.modPlot q f).fuses = s.fuses := rfl
@[simp] theorem State.modPlot_frm (s : State) (q : PlotId) (f : Plot → Plot) : (s.modPlot q f).frm = s.frm := rfl
@[simp] theorem State.modPlot_pf (s : State) (q : PlotId) (f : Plot → Plot) : (s.modPlot q f).pf = s.pf := rfl
@[simp] theorem State.modPlot_fns (s : State) (q : PlotId) (f : Plot → Plot) : (s.modPlot q f).fns = s.fns := rfl
@[simp] theorem State.modPlot_hst (s : State) (q : PlotId) (f : Plot → Plot) : (s.modPlot q f).hst = s.hst := rfl
@[simp] theorem State.modPlot_cfg (s : State) (q : PlotId) (f : Plot → Plot) : (s.modPlot q f).cfg = s.cfg := rfl
@[simp] theorem State.modPlot_undo (s : State) (q : PlotId) (f : Plot → Plot) : (s.modPlot q f).undo = s.undo := rfl
@[simp] theorem State.modPlot_msh (s : State) (q : PlotId) (f : Plot → Plot) : (s.modPlot q f).msh = s.msh := rfl
@[simp] theorem State.modPlot_log (s : State) (q : PlotId) (f : Plot → Plot) : (s.modPlot q f).log = s.log := rfl
@[simp] theorem State.modPlot_att (s : State) (q : PlotId) (f : Plot → Plot) : (s.modPlot q f).att = s.att := rfl
@[simp] theorem State.modPlot_anl (s : State) (q : PlotId) (f : Plot → Plot) : (s.modPlot q f).anl = s.anl := rfl
@[simp] theorem State.modPlot_nse (s : State) (q : PlotId) (f : Plot → Plot) : (s.modPlot q f).nse = s.nse := rfl
@[simp] theorem State.modPlot_lanes (s : State) (q : PlotId) (f : Plot → Plot) : (s.modPlot q f).lanes = s.lanes := rfl
@[simp] theorem State.modPlot_devGraft (s : State) (q : PlotId) (f : Plot → Plot) : (s.modPlot q f).devGraft = s.devGraft := rfl
@[simp] theorem State.modPlot_mxes (s : State) (q : PlotId) (f : Plot → Plot) : (s.modPlot q f).mxes = s.mxes := rfl
@[simp] theorem State.modPlot_partials (s : State) (q : PlotId) (f : Plot → Plot) : (s.modPlot q f).partials = s.partials := rfl
@[simp] theorem State.modPlot_devMacs (s : State) (q : PlotId) (f : Plot → Plot) : (s.modPlot q f).devMacs = s.devMacs := rfl
@[simp] theorem State.modPlot_hccs (s : State) (q : PlotId) (f : Plot → Plot) : (s.modPlot q f).hccs = s.hccs := rfl
@[simp] theorem State.modPlot_hccTrap (s : State) (q : PlotId) (f : Plot → Plot) : (s.modPlot q f).hccTrap = s.hccTrap := rfl
@[simp] theorem State.modPlot_qces (s : State) (q : PlotId) (f : Plot → Plot) : (s.modPlot q f).qces = s.qces := rfl
@[simp] theorem State.modPlot_qceBytes (s : State) (q : PlotId) (f : Plot → Plot) : (s.modPlot q f).qceBytes = s.qceBytes := rfl
@[simp] theorem State.modPlot_qceTrap (s : State) (q : PlotId) (f : Plot → Plot) : (s.modPlot q f).qceTrap = s.qceTrap := rfl
@[simp] theorem State.modPlot_pwr (s : State) (q : PlotId) (f : Plot → Plot) : (s.modPlot q f).pwr = s.pwr := rfl
@[simp] theorem State.modPlot_skt (s : State) (q : PlotId) (f : Plot → Plot) : (s.modPlot q f).skt = s.skt := rfl
@[simp] theorem State.modPlot_mem (s : State) (q : PlotId) (f : Plot → Plot) : (s.modPlot q f).mem = s.mem := rfl
@[simp] theorem State.modPlot_out (s : State) (q : PlotId) (f : Plot → Plot) : (s.modPlot q f).out = s.out := rfl
@[simp] theorem State.modPlot_resp (s : State) (q : PlotId) (f : Plot → Plot) : (s.modPlot q f).resp = s.resp := rfl
@[simp] theorem State.modPlot_free (s : State) (q : PlotId) (f : Plot → Plot) : (s.modPlot q f).free = s.free := rfl

/-! ### modPlt -/

@[simp] theorem State.modPlt_pending (s : State) (q : PlotId) (f : PltSet → PltSet) : (s.modPlt q f).pending = s.pending := rfl
@[simp] theorem State.modPlt_boot (s : State) (q : PlotId) (f : PltSet → PltSet) : (s.modPlt q f).boot = s.boot := rfl
@[simp] theorem State.modPlt_aux (s : State) (q : PlotId) (f : PltSet → PltSet) : (s.modPlt q f).aux = s.aux := rfl
@[simp] theorem State.modPlt_fuses (s : State) (q : PlotId) (f : PltSet → PltSet) : (s.modPlt q f).fuses = s.fuses := rfl
@[simp] theorem State.modPlt_frm (s : State) (q : PlotId) (f : PltSet → PltSet) : (s.modPlt q f).frm = s.frm := rfl
@[simp] theorem State.modPlt_pf (s : State) (q : PlotId) (f : PltSet → PltSet) : (s.modPlt q f).pf = s.pf := rfl
@[simp] theorem State.modPlt_fns (s : State) (q : PlotId) (f : PltSet → PltSet) : (s.modPlt q f).fns = s.fns := rfl
@[simp] theorem State.modPlt_hst (s : State) (q : PlotId) (f : PltSet → PltSet) : (s.modPlt q f).hst = s.hst := rfl
@[simp] theorem State.modPlt_cfg (s : State) (q : PlotId) (f : PltSet → PltSet) : (s.modPlt q f).cfg = s.cfg := rfl
@[simp] theorem State.modPlt_undo (s : State) (q : PlotId) (f : PltSet → PltSet) : (s.modPlt q f).undo = s.undo := rfl
@[simp] theorem State.modPlt_msh (s : State) (q : PlotId) (f : PltSet → PltSet) : (s.modPlt q f).msh = s.msh := rfl
@[simp] theorem State.modPlt_log (s : State) (q : PlotId) (f : PltSet → PltSet) : (s.modPlt q f).log = s.log := rfl
@[simp] theorem State.modPlt_att (s : State) (q : PlotId) (f : PltSet → PltSet) : (s.modPlt q f).att = s.att := rfl
@[simp] theorem State.modPlt_anl (s : State) (q : PlotId) (f : PltSet → PltSet) : (s.modPlt q f).anl = s.anl := rfl
@[simp] theorem State.modPlt_nse (s : State) (q : PlotId) (f : PltSet → PltSet) : (s.modPlt q f).nse = s.nse := rfl
@[simp] theorem State.modPlt_lanes (s : State) (q : PlotId) (f : PltSet → PltSet) : (s.modPlt q f).lanes = s.lanes := rfl
@[simp] theorem State.modPlt_devGraft (s : State) (q : PlotId) (f : PltSet → PltSet) : (s.modPlt q f).devGraft = s.devGraft := rfl
@[simp] theorem State.modPlt_mxes (s : State) (q : PlotId) (f : PltSet → PltSet) : (s.modPlt q f).mxes = s.mxes := rfl
@[simp] theorem State.modPlt_partials (s : State) (q : PlotId) (f : PltSet → PltSet) : (s.modPlt q f).partials = s.partials := rfl
@[simp] theorem State.modPlt_devMacs (s : State) (q : PlotId) (f : PltSet → PltSet) : (s.modPlt q f).devMacs = s.devMacs := rfl
@[simp] theorem State.modPlt_hccs (s : State) (q : PlotId) (f : PltSet → PltSet) : (s.modPlt q f).hccs = s.hccs := rfl
@[simp] theorem State.modPlt_hccTrap (s : State) (q : PlotId) (f : PltSet → PltSet) : (s.modPlt q f).hccTrap = s.hccTrap := rfl
@[simp] theorem State.modPlt_qces (s : State) (q : PlotId) (f : PltSet → PltSet) : (s.modPlt q f).qces = s.qces := rfl
@[simp] theorem State.modPlt_qceBytes (s : State) (q : PlotId) (f : PltSet → PltSet) : (s.modPlt q f).qceBytes = s.qceBytes := rfl
@[simp] theorem State.modPlt_qceTrap (s : State) (q : PlotId) (f : PltSet → PltSet) : (s.modPlt q f).qceTrap = s.qceTrap := rfl
@[simp] theorem State.modPlt_pwr (s : State) (q : PlotId) (f : PltSet → PltSet) : (s.modPlt q f).pwr = s.pwr := rfl
@[simp] theorem State.modPlt_skt (s : State) (q : PlotId) (f : PltSet → PltSet) : (s.modPlt q f).skt = s.skt := rfl
@[simp] theorem State.modPlt_mem (s : State) (q : PlotId) (f : PltSet → PltSet) : (s.modPlt q f).mem = s.mem := rfl
@[simp] theorem State.modPlt_out (s : State) (q : PlotId) (f : PltSet → PltSet) : (s.modPlt q f).out = s.out := rfl
@[simp] theorem State.modPlt_resp (s : State) (q : PlotId) (f : PltSet → PltSet) : (s.modPlt q f).resp = s.resp := rfl
@[simp] theorem State.modPlt_free (s : State) (q : PlotId) (f : PltSet → PltSet) : (s.modPlt q f).free = s.free := rfl

/-! ### modMsh -/

@[simp] theorem State.modMsh_pending (s : State) (q : PlotId) (f : MshSet → MshSet) : (s.modMsh q f).pending = s.pending := rfl
@[simp] theorem State.modMsh_boot (s : State) (q : PlotId) (f : MshSet → MshSet) : (s.modMsh q f).boot = s.boot := rfl
@[simp] theorem State.modMsh_aux (s : State) (q : PlotId) (f : MshSet → MshSet) : (s.modMsh q f).aux = s.aux := rfl
@[simp] theorem State.modMsh_fuses (s : State) (q : PlotId) (f : MshSet → MshSet) : (s.modMsh q f).fuses = s.fuses := rfl
@[simp] theorem State.modMsh_frm (s : State) (q : PlotId) (f : MshSet → MshSet) : (s.modMsh q f).frm = s.frm := rfl
@[simp] theorem State.modMsh_pf (s : State) (q : PlotId) (f : MshSet → MshSet) : (s.modMsh q f).pf = s.pf := rfl
@[simp] theorem State.modMsh_fns (s : State) (q : PlotId) (f : MshSet → MshSet) : (s.modMsh q f).fns = s.fns := rfl
@[simp] theorem State.modMsh_hst (s : State) (q : PlotId) (f : MshSet → MshSet) : (s.modMsh q f).hst = s.hst := rfl
@[simp] theorem State.modMsh_cfg (s : State) (q : PlotId) (f : MshSet → MshSet) : (s.modMsh q f).cfg = s.cfg := rfl
@[simp] theorem State.modMsh_undo (s : State) (q : PlotId) (f : MshSet → MshSet) : (s.modMsh q f).undo = s.undo := rfl
@[simp] theorem State.modMsh_msh (s : State) (q : PlotId) (f : MshSet → MshSet) : (s.modMsh q f).msh = s.msh := rfl
@[simp] theorem State.modMsh_log (s : State) (q : PlotId) (f : MshSet → MshSet) : (s.modMsh q f).log = s.log := rfl
@[simp] theorem State.modMsh_att (s : State) (q : PlotId) (f : MshSet → MshSet) : (s.modMsh q f).att = s.att := rfl
@[simp] theorem State.modMsh_anl (s : State) (q : PlotId) (f : MshSet → MshSet) : (s.modMsh q f).anl = s.anl := rfl
@[simp] theorem State.modMsh_nse (s : State) (q : PlotId) (f : MshSet → MshSet) : (s.modMsh q f).nse = s.nse := rfl
@[simp] theorem State.modMsh_lanes (s : State) (q : PlotId) (f : MshSet → MshSet) : (s.modMsh q f).lanes = s.lanes := rfl
@[simp] theorem State.modMsh_devGraft (s : State) (q : PlotId) (f : MshSet → MshSet) : (s.modMsh q f).devGraft = s.devGraft := rfl
@[simp] theorem State.modMsh_mxes (s : State) (q : PlotId) (f : MshSet → MshSet) : (s.modMsh q f).mxes = s.mxes := rfl
@[simp] theorem State.modMsh_partials (s : State) (q : PlotId) (f : MshSet → MshSet) : (s.modMsh q f).partials = s.partials := rfl
@[simp] theorem State.modMsh_devMacs (s : State) (q : PlotId) (f : MshSet → MshSet) : (s.modMsh q f).devMacs = s.devMacs := rfl
@[simp] theorem State.modMsh_hccs (s : State) (q : PlotId) (f : MshSet → MshSet) : (s.modMsh q f).hccs = s.hccs := rfl
@[simp] theorem State.modMsh_hccTrap (s : State) (q : PlotId) (f : MshSet → MshSet) : (s.modMsh q f).hccTrap = s.hccTrap := rfl
@[simp] theorem State.modMsh_qces (s : State) (q : PlotId) (f : MshSet → MshSet) : (s.modMsh q f).qces = s.qces := rfl
@[simp] theorem State.modMsh_qceBytes (s : State) (q : PlotId) (f : MshSet → MshSet) : (s.modMsh q f).qceBytes = s.qceBytes := rfl
@[simp] theorem State.modMsh_qceTrap (s : State) (q : PlotId) (f : MshSet → MshSet) : (s.modMsh q f).qceTrap = s.qceTrap := rfl
@[simp] theorem State.modMsh_pwr (s : State) (q : PlotId) (f : MshSet → MshSet) : (s.modMsh q f).pwr = s.pwr := rfl
@[simp] theorem State.modMsh_skt (s : State) (q : PlotId) (f : MshSet → MshSet) : (s.modMsh q f).skt = s.skt := rfl
@[simp] theorem State.modMsh_mem (s : State) (q : PlotId) (f : MshSet → MshSet) : (s.modMsh q f).mem = s.mem := rfl
@[simp] theorem State.modMsh_out (s : State) (q : PlotId) (f : MshSet → MshSet) : (s.modMsh q f).out = s.out := rfl
@[simp] theorem State.modMsh_resp (s : State) (q : PlotId) (f : MshSet → MshSet) : (s.modMsh q f).resp = s.resp := rfl
@[simp] theorem State.modMsh_free (s : State) (q : PlotId) (f : MshSet → MshSet) : (s.modMsh q f).free = s.free := rfl

/-! ### modCfgSet -/

@[simp] theorem State.modCfgSet_pending (s : State) (q : PlotId) (f : CfgSet → CfgSet) : (s.modCfgSet q f).pending = s.pending := rfl
@[simp] theorem State.modCfgSet_boot (s : State) (q : PlotId) (f : CfgSet → CfgSet) : (s.modCfgSet q f).boot = s.boot := rfl
@[simp] theorem State.modCfgSet_aux (s : State) (q : PlotId) (f : CfgSet → CfgSet) : (s.modCfgSet q f).aux = s.aux := rfl
@[simp] theorem State.modCfgSet_fuses (s : State) (q : PlotId) (f : CfgSet → CfgSet) : (s.modCfgSet q f).fuses = s.fuses := rfl
@[simp] theorem State.modCfgSet_frm (s : State) (q : PlotId) (f : CfgSet → CfgSet) : (s.modCfgSet q f).frm = s.frm := rfl
@[simp] theorem State.modCfgSet_pf (s : State) (q : PlotId) (f : CfgSet → CfgSet) : (s.modCfgSet q f).pf = s.pf := rfl
@[simp] theorem State.modCfgSet_fns (s : State) (q : PlotId) (f : CfgSet → CfgSet) : (s.modCfgSet q f).fns = s.fns := rfl
@[simp] theorem State.modCfgSet_hst (s : State) (q : PlotId) (f : CfgSet → CfgSet) : (s.modCfgSet q f).hst = s.hst := rfl
@[simp] theorem State.modCfgSet_cfg (s : State) (q : PlotId) (f : CfgSet → CfgSet) : (s.modCfgSet q f).cfg = s.cfg := rfl
@[simp] theorem State.modCfgSet_undo (s : State) (q : PlotId) (f : CfgSet → CfgSet) : (s.modCfgSet q f).undo = s.undo := rfl
@[simp] theorem State.modCfgSet_msh (s : State) (q : PlotId) (f : CfgSet → CfgSet) : (s.modCfgSet q f).msh = s.msh := rfl
@[simp] theorem State.modCfgSet_log (s : State) (q : PlotId) (f : CfgSet → CfgSet) : (s.modCfgSet q f).log = s.log := rfl
@[simp] theorem State.modCfgSet_att (s : State) (q : PlotId) (f : CfgSet → CfgSet) : (s.modCfgSet q f).att = s.att := rfl
@[simp] theorem State.modCfgSet_anl (s : State) (q : PlotId) (f : CfgSet → CfgSet) : (s.modCfgSet q f).anl = s.anl := rfl
@[simp] theorem State.modCfgSet_nse (s : State) (q : PlotId) (f : CfgSet → CfgSet) : (s.modCfgSet q f).nse = s.nse := rfl
@[simp] theorem State.modCfgSet_lanes (s : State) (q : PlotId) (f : CfgSet → CfgSet) : (s.modCfgSet q f).lanes = s.lanes := rfl
@[simp] theorem State.modCfgSet_devGraft (s : State) (q : PlotId) (f : CfgSet → CfgSet) : (s.modCfgSet q f).devGraft = s.devGraft := rfl
@[simp] theorem State.modCfgSet_mxes (s : State) (q : PlotId) (f : CfgSet → CfgSet) : (s.modCfgSet q f).mxes = s.mxes := rfl
@[simp] theorem State.modCfgSet_partials (s : State) (q : PlotId) (f : CfgSet → CfgSet) : (s.modCfgSet q f).partials = s.partials := rfl
@[simp] theorem State.modCfgSet_devMacs (s : State) (q : PlotId) (f : CfgSet → CfgSet) : (s.modCfgSet q f).devMacs = s.devMacs := rfl
@[simp] theorem State.modCfgSet_hccs (s : State) (q : PlotId) (f : CfgSet → CfgSet) : (s.modCfgSet q f).hccs = s.hccs := rfl
@[simp] theorem State.modCfgSet_hccTrap (s : State) (q : PlotId) (f : CfgSet → CfgSet) : (s.modCfgSet q f).hccTrap = s.hccTrap := rfl
@[simp] theorem State.modCfgSet_qces (s : State) (q : PlotId) (f : CfgSet → CfgSet) : (s.modCfgSet q f).qces = s.qces := rfl
@[simp] theorem State.modCfgSet_qceBytes (s : State) (q : PlotId) (f : CfgSet → CfgSet) : (s.modCfgSet q f).qceBytes = s.qceBytes := rfl
@[simp] theorem State.modCfgSet_qceTrap (s : State) (q : PlotId) (f : CfgSet → CfgSet) : (s.modCfgSet q f).qceTrap = s.qceTrap := rfl
@[simp] theorem State.modCfgSet_pwr (s : State) (q : PlotId) (f : CfgSet → CfgSet) : (s.modCfgSet q f).pwr = s.pwr := rfl
@[simp] theorem State.modCfgSet_skt (s : State) (q : PlotId) (f : CfgSet → CfgSet) : (s.modCfgSet q f).skt = s.skt := rfl
@[simp] theorem State.modCfgSet_mem (s : State) (q : PlotId) (f : CfgSet → CfgSet) : (s.modCfgSet q f).mem = s.mem := rfl
@[simp] theorem State.modCfgSet_out (s : State) (q : PlotId) (f : CfgSet → CfgSet) : (s.modCfgSet q f).out = s.out := rfl
@[simp] theorem State.modCfgSet_resp (s : State) (q : PlotId) (f : CfgSet → CfgSet) : (s.modCfgSet q f).resp = s.resp := rfl
@[simp] theorem State.modCfgSet_free (s : State) (q : PlotId) (f : CfgSet → CfgSet) : (s.modCfgSet q f).free = s.free := rfl

/-! ### modAn -/

@[simp] theorem State.modAn_pending (s : State) (q : PlotId) (f : AnPlot → AnPlot) : (s.modAn q f).pending = s.pending := rfl
@[simp] theorem State.modAn_boot (s : State) (q : PlotId) (f : AnPlot → AnPlot) : (s.modAn q f).boot = s.boot := rfl
@[simp] theorem State.modAn_aux (s : State) (q : PlotId) (f : AnPlot → AnPlot) : (s.modAn q f).aux = s.aux := rfl
@[simp] theorem State.modAn_fuses (s : State) (q : PlotId) (f : AnPlot → AnPlot) : (s.modAn q f).fuses = s.fuses := rfl
@[simp] theorem State.modAn_frm (s : State) (q : PlotId) (f : AnPlot → AnPlot) : (s.modAn q f).frm = s.frm := rfl
@[simp] theorem State.modAn_pf (s : State) (q : PlotId) (f : AnPlot → AnPlot) : (s.modAn q f).pf = s.pf := rfl
@[simp] theorem State.modAn_fns (s : State) (q : PlotId) (f : AnPlot → AnPlot) : (s.modAn q f).fns = s.fns := rfl
@[simp] theorem State.modAn_hst (s : State) (q : PlotId) (f : AnPlot → AnPlot) : (s.modAn q f).hst = s.hst := rfl
@[simp] theorem State.modAn_cfg (s : State) (q : PlotId) (f : AnPlot → AnPlot) : (s.modAn q f).cfg = s.cfg := rfl
@[simp] theorem State.modAn_undo (s : State) (q : PlotId) (f : AnPlot → AnPlot) : (s.modAn q f).undo = s.undo := rfl
@[simp] theorem State.modAn_msh (s : State) (q : PlotId) (f : AnPlot → AnPlot) : (s.modAn q f).msh = s.msh := rfl
@[simp] theorem State.modAn_log (s : State) (q : PlotId) (f : AnPlot → AnPlot) : (s.modAn q f).log = s.log := rfl
@[simp] theorem State.modAn_att (s : State) (q : PlotId) (f : AnPlot → AnPlot) : (s.modAn q f).att = s.att := rfl
@[simp] theorem State.modAn_anl (s : State) (q : PlotId) (f : AnPlot → AnPlot) : (s.modAn q f).anl = s.anl := rfl
@[simp] theorem State.modAn_nse (s : State) (q : PlotId) (f : AnPlot → AnPlot) : (s.modAn q f).nse = s.nse := rfl
@[simp] theorem State.modAn_lanes (s : State) (q : PlotId) (f : AnPlot → AnPlot) : (s.modAn q f).lanes = s.lanes := rfl
@[simp] theorem State.modAn_devGraft (s : State) (q : PlotId) (f : AnPlot → AnPlot) : (s.modAn q f).devGraft = s.devGraft := rfl
@[simp] theorem State.modAn_mxes (s : State) (q : PlotId) (f : AnPlot → AnPlot) : (s.modAn q f).mxes = s.mxes := rfl
@[simp] theorem State.modAn_partials (s : State) (q : PlotId) (f : AnPlot → AnPlot) : (s.modAn q f).partials = s.partials := rfl
@[simp] theorem State.modAn_devMacs (s : State) (q : PlotId) (f : AnPlot → AnPlot) : (s.modAn q f).devMacs = s.devMacs := rfl
@[simp] theorem State.modAn_hccs (s : State) (q : PlotId) (f : AnPlot → AnPlot) : (s.modAn q f).hccs = s.hccs := rfl
@[simp] theorem State.modAn_hccTrap (s : State) (q : PlotId) (f : AnPlot → AnPlot) : (s.modAn q f).hccTrap = s.hccTrap := rfl
@[simp] theorem State.modAn_qces (s : State) (q : PlotId) (f : AnPlot → AnPlot) : (s.modAn q f).qces = s.qces := rfl
@[simp] theorem State.modAn_qceBytes (s : State) (q : PlotId) (f : AnPlot → AnPlot) : (s.modAn q f).qceBytes = s.qceBytes := rfl
@[simp] theorem State.modAn_qceTrap (s : State) (q : PlotId) (f : AnPlot → AnPlot) : (s.modAn q f).qceTrap = s.qceTrap := rfl
@[simp] theorem State.modAn_pwr (s : State) (q : PlotId) (f : AnPlot → AnPlot) : (s.modAn q f).pwr = s.pwr := rfl
@[simp] theorem State.modAn_skt (s : State) (q : PlotId) (f : AnPlot → AnPlot) : (s.modAn q f).skt = s.skt := rfl
@[simp] theorem State.modAn_mem (s : State) (q : PlotId) (f : AnPlot → AnPlot) : (s.modAn q f).mem = s.mem := rfl
@[simp] theorem State.modAn_out (s : State) (q : PlotId) (f : AnPlot → AnPlot) : (s.modAn q f).out = s.out := rfl
@[simp] theorem State.modAn_resp (s : State) (q : PlotId) (f : AnPlot → AnPlot) : (s.modAn q f).resp = s.resp := rfl
@[simp] theorem State.modAn_free (s : State) (q : PlotId) (f : AnPlot → AnPlot) : (s.modAn q f).free = s.free := rfl

/-! ### modLive -/

@[simp] theorem State.modLive_pending (s : State) (q : PlotId) (f : AnShow → AnShow) : (s.modLive q f).pending = s.pending := rfl
@[simp] theorem State.modLive_boot (s : State) (q : PlotId) (f : AnShow → AnShow) : (s.modLive q f).boot = s.boot := rfl
@[simp] theorem State.modLive_aux (s : State) (q : PlotId) (f : AnShow → AnShow) : (s.modLive q f).aux = s.aux := rfl
@[simp] theorem State.modLive_fuses (s : State) (q : PlotId) (f : AnShow → AnShow) : (s.modLive q f).fuses = s.fuses := rfl
@[simp] theorem State.modLive_frm (s : State) (q : PlotId) (f : AnShow → AnShow) : (s.modLive q f).frm = s.frm := rfl
@[simp] theorem State.modLive_pf (s : State) (q : PlotId) (f : AnShow → AnShow) : (s.modLive q f).pf = s.pf := rfl
@[simp] theorem State.modLive_fns (s : State) (q : PlotId) (f : AnShow → AnShow) : (s.modLive q f).fns = s.fns := rfl
@[simp] theorem State.modLive_hst (s : State) (q : PlotId) (f : AnShow → AnShow) : (s.modLive q f).hst = s.hst := rfl
@[simp] theorem State.modLive_cfg (s : State) (q : PlotId) (f : AnShow → AnShow) : (s.modLive q f).cfg = s.cfg := rfl
@[simp] theorem State.modLive_undo (s : State) (q : PlotId) (f : AnShow → AnShow) : (s.modLive q f).undo = s.undo := rfl
@[simp] theorem State.modLive_msh (s : State) (q : PlotId) (f : AnShow → AnShow) : (s.modLive q f).msh = s.msh := rfl
@[simp] theorem State.modLive_log (s : State) (q : PlotId) (f : AnShow → AnShow) : (s.modLive q f).log = s.log := rfl
@[simp] theorem State.modLive_att (s : State) (q : PlotId) (f : AnShow → AnShow) : (s.modLive q f).att = s.att := rfl
@[simp] theorem State.modLive_anl (s : State) (q : PlotId) (f : AnShow → AnShow) : (s.modLive q f).anl = s.anl := rfl
@[simp] theorem State.modLive_nse (s : State) (q : PlotId) (f : AnShow → AnShow) : (s.modLive q f).nse = s.nse := rfl
@[simp] theorem State.modLive_lanes (s : State) (q : PlotId) (f : AnShow → AnShow) : (s.modLive q f).lanes = s.lanes := rfl
@[simp] theorem State.modLive_devGraft (s : State) (q : PlotId) (f : AnShow → AnShow) : (s.modLive q f).devGraft = s.devGraft := rfl
@[simp] theorem State.modLive_mxes (s : State) (q : PlotId) (f : AnShow → AnShow) : (s.modLive q f).mxes = s.mxes := rfl
@[simp] theorem State.modLive_partials (s : State) (q : PlotId) (f : AnShow → AnShow) : (s.modLive q f).partials = s.partials := rfl
@[simp] theorem State.modLive_devMacs (s : State) (q : PlotId) (f : AnShow → AnShow) : (s.modLive q f).devMacs = s.devMacs := rfl
@[simp] theorem State.modLive_hccs (s : State) (q : PlotId) (f : AnShow → AnShow) : (s.modLive q f).hccs = s.hccs := rfl
@[simp] theorem State.modLive_hccTrap (s : State) (q : PlotId) (f : AnShow → AnShow) : (s.modLive q f).hccTrap = s.hccTrap := rfl
@[simp] theorem State.modLive_qces (s : State) (q : PlotId) (f : AnShow → AnShow) : (s.modLive q f).qces = s.qces := rfl
@[simp] theorem State.modLive_qceBytes (s : State) (q : PlotId) (f : AnShow → AnShow) : (s.modLive q f).qceBytes = s.qceBytes := rfl
@[simp] theorem State.modLive_qceTrap (s : State) (q : PlotId) (f : AnShow → AnShow) : (s.modLive q f).qceTrap = s.qceTrap := rfl
@[simp] theorem State.modLive_pwr (s : State) (q : PlotId) (f : AnShow → AnShow) : (s.modLive q f).pwr = s.pwr := rfl
@[simp] theorem State.modLive_skt (s : State) (q : PlotId) (f : AnShow → AnShow) : (s.modLive q f).skt = s.skt := rfl
@[simp] theorem State.modLive_mem (s : State) (q : PlotId) (f : AnShow → AnShow) : (s.modLive q f).mem = s.mem := rfl
@[simp] theorem State.modLive_out (s : State) (q : PlotId) (f : AnShow → AnShow) : (s.modLive q f).out = s.out := rfl
@[simp] theorem State.modLive_resp (s : State) (q : PlotId) (f : AnShow → AnShow) : (s.modLive q f).resp = s.resp := rfl
@[simp] theorem State.modLive_free (s : State) (q : PlotId) (f : AnShow → AnShow) : (s.modLive q f).free = s.free := rfl

/-! ### modNse -/

@[simp] theorem State.modNse_pending (s : State) (q : PlotId) (f : NsePlot → NsePlot) : (s.modNse q f).pending = s.pending := rfl
@[simp] theorem State.modNse_boot (s : State) (q : PlotId) (f : NsePlot → NsePlot) : (s.modNse q f).boot = s.boot := rfl
@[simp] theorem State.modNse_aux (s : State) (q : PlotId) (f : NsePlot → NsePlot) : (s.modNse q f).aux = s.aux := rfl
@[simp] theorem State.modNse_fuses (s : State) (q : PlotId) (f : NsePlot → NsePlot) : (s.modNse q f).fuses = s.fuses := rfl
@[simp] theorem State.modNse_frm (s : State) (q : PlotId) (f : NsePlot → NsePlot) : (s.modNse q f).frm = s.frm := rfl
@[simp] theorem State.modNse_pf (s : State) (q : PlotId) (f : NsePlot → NsePlot) : (s.modNse q f).pf = s.pf := rfl
@[simp] theorem State.modNse_fns (s : State) (q : PlotId) (f : NsePlot → NsePlot) : (s.modNse q f).fns = s.fns := rfl
@[simp] theorem State.modNse_hst (s : State) (q : PlotId) (f : NsePlot → NsePlot) : (s.modNse q f).hst = s.hst := rfl
@[simp] theorem State.modNse_cfg (s : State) (q : PlotId) (f : NsePlot → NsePlot) : (s.modNse q f).cfg = s.cfg := rfl
@[simp] theorem State.modNse_undo (s : State) (q : PlotId) (f : NsePlot → NsePlot) : (s.modNse q f).undo = s.undo := rfl
@[simp] theorem State.modNse_msh (s : State) (q : PlotId) (f : NsePlot → NsePlot) : (s.modNse q f).msh = s.msh := rfl
@[simp] theorem State.modNse_log (s : State) (q : PlotId) (f : NsePlot → NsePlot) : (s.modNse q f).log = s.log := rfl
@[simp] theorem State.modNse_att (s : State) (q : PlotId) (f : NsePlot → NsePlot) : (s.modNse q f).att = s.att := rfl
@[simp] theorem State.modNse_anl (s : State) (q : PlotId) (f : NsePlot → NsePlot) : (s.modNse q f).anl = s.anl := rfl
@[simp] theorem State.modNse_nse (s : State) (q : PlotId) (f : NsePlot → NsePlot) : (s.modNse q f).nse = s.nse := rfl
@[simp] theorem State.modNse_lanes (s : State) (q : PlotId) (f : NsePlot → NsePlot) : (s.modNse q f).lanes = s.lanes := rfl
@[simp] theorem State.modNse_devGraft (s : State) (q : PlotId) (f : NsePlot → NsePlot) : (s.modNse q f).devGraft = s.devGraft := rfl
@[simp] theorem State.modNse_mxes (s : State) (q : PlotId) (f : NsePlot → NsePlot) : (s.modNse q f).mxes = s.mxes := rfl
@[simp] theorem State.modNse_partials (s : State) (q : PlotId) (f : NsePlot → NsePlot) : (s.modNse q f).partials = s.partials := rfl
@[simp] theorem State.modNse_devMacs (s : State) (q : PlotId) (f : NsePlot → NsePlot) : (s.modNse q f).devMacs = s.devMacs := rfl
@[simp] theorem State.modNse_hccs (s : State) (q : PlotId) (f : NsePlot → NsePlot) : (s.modNse q f).hccs = s.hccs := rfl
@[simp] theorem State.modNse_hccTrap (s : State) (q : PlotId) (f : NsePlot → NsePlot) : (s.modNse q f).hccTrap = s.hccTrap := rfl
@[simp] theorem State.modNse_qces (s : State) (q : PlotId) (f : NsePlot → NsePlot) : (s.modNse q f).qces = s.qces := rfl
@[simp] theorem State.modNse_qceBytes (s : State) (q : PlotId) (f : NsePlot → NsePlot) : (s.modNse q f).qceBytes = s.qceBytes := rfl
@[simp] theorem State.modNse_qceTrap (s : State) (q : PlotId) (f : NsePlot → NsePlot) : (s.modNse q f).qceTrap = s.qceTrap := rfl
@[simp] theorem State.modNse_pwr (s : State) (q : PlotId) (f : NsePlot → NsePlot) : (s.modNse q f).pwr = s.pwr := rfl
@[simp] theorem State.modNse_skt (s : State) (q : PlotId) (f : NsePlot → NsePlot) : (s.modNse q f).skt = s.skt := rfl
@[simp] theorem State.modNse_mem (s : State) (q : PlotId) (f : NsePlot → NsePlot) : (s.modNse q f).mem = s.mem := rfl
@[simp] theorem State.modNse_out (s : State) (q : PlotId) (f : NsePlot → NsePlot) : (s.modNse q f).out = s.out := rfl
@[simp] theorem State.modNse_resp (s : State) (q : PlotId) (f : NsePlot → NsePlot) : (s.modNse q f).resp = s.resp := rfl
@[simp] theorem State.modNse_free (s : State) (q : PlotId) (f : NsePlot → NsePlot) : (s.modNse q f).free = s.free := rfl

/-! ### modLane -/

@[simp] theorem State.modLane_pending (s : State) (q : PlotId) (t : Fin 64) (f : TapeLane → TapeLane) : (s.modLane q t f).pending = s.pending := rfl
@[simp] theorem State.modLane_boot (s : State) (q : PlotId) (t : Fin 64) (f : TapeLane → TapeLane) : (s.modLane q t f).boot = s.boot := rfl
@[simp] theorem State.modLane_aux (s : State) (q : PlotId) (t : Fin 64) (f : TapeLane → TapeLane) : (s.modLane q t f).aux = s.aux := rfl
@[simp] theorem State.modLane_fuses (s : State) (q : PlotId) (t : Fin 64) (f : TapeLane → TapeLane) : (s.modLane q t f).fuses = s.fuses := rfl
@[simp] theorem State.modLane_frm (s : State) (q : PlotId) (t : Fin 64) (f : TapeLane → TapeLane) : (s.modLane q t f).frm = s.frm := rfl
@[simp] theorem State.modLane_pf (s : State) (q : PlotId) (t : Fin 64) (f : TapeLane → TapeLane) : (s.modLane q t f).pf = s.pf := rfl
@[simp] theorem State.modLane_fns (s : State) (q : PlotId) (t : Fin 64) (f : TapeLane → TapeLane) : (s.modLane q t f).fns = s.fns := rfl
@[simp] theorem State.modLane_hst (s : State) (q : PlotId) (t : Fin 64) (f : TapeLane → TapeLane) : (s.modLane q t f).hst = s.hst := rfl
@[simp] theorem State.modLane_cfg (s : State) (q : PlotId) (t : Fin 64) (f : TapeLane → TapeLane) : (s.modLane q t f).cfg = s.cfg := rfl
@[simp] theorem State.modLane_undo (s : State) (q : PlotId) (t : Fin 64) (f : TapeLane → TapeLane) : (s.modLane q t f).undo = s.undo := rfl
@[simp] theorem State.modLane_msh (s : State) (q : PlotId) (t : Fin 64) (f : TapeLane → TapeLane) : (s.modLane q t f).msh = s.msh := rfl
@[simp] theorem State.modLane_log (s : State) (q : PlotId) (t : Fin 64) (f : TapeLane → TapeLane) : (s.modLane q t f).log = s.log := rfl
@[simp] theorem State.modLane_att (s : State) (q : PlotId) (t : Fin 64) (f : TapeLane → TapeLane) : (s.modLane q t f).att = s.att := rfl
@[simp] theorem State.modLane_anl (s : State) (q : PlotId) (t : Fin 64) (f : TapeLane → TapeLane) : (s.modLane q t f).anl = s.anl := rfl
@[simp] theorem State.modLane_nse (s : State) (q : PlotId) (t : Fin 64) (f : TapeLane → TapeLane) : (s.modLane q t f).nse = s.nse := rfl
@[simp] theorem State.modLane_lanes (s : State) (q : PlotId) (t : Fin 64) (f : TapeLane → TapeLane) : (s.modLane q t f).lanes = s.lanes := rfl
@[simp] theorem State.modLane_devGraft (s : State) (q : PlotId) (t : Fin 64) (f : TapeLane → TapeLane) : (s.modLane q t f).devGraft = s.devGraft := rfl
@[simp] theorem State.modLane_mxes (s : State) (q : PlotId) (t : Fin 64) (f : TapeLane → TapeLane) : (s.modLane q t f).mxes = s.mxes := rfl
@[simp] theorem State.modLane_partials (s : State) (q : PlotId) (t : Fin 64) (f : TapeLane → TapeLane) : (s.modLane q t f).partials = s.partials := rfl
@[simp] theorem State.modLane_devMacs (s : State) (q : PlotId) (t : Fin 64) (f : TapeLane → TapeLane) : (s.modLane q t f).devMacs = s.devMacs := rfl
@[simp] theorem State.modLane_hccs (s : State) (q : PlotId) (t : Fin 64) (f : TapeLane → TapeLane) : (s.modLane q t f).hccs = s.hccs := rfl
@[simp] theorem State.modLane_hccTrap (s : State) (q : PlotId) (t : Fin 64) (f : TapeLane → TapeLane) : (s.modLane q t f).hccTrap = s.hccTrap := rfl
@[simp] theorem State.modLane_qces (s : State) (q : PlotId) (t : Fin 64) (f : TapeLane → TapeLane) : (s.modLane q t f).qces = s.qces := rfl
@[simp] theorem State.modLane_qceBytes (s : State) (q : PlotId) (t : Fin 64) (f : TapeLane → TapeLane) : (s.modLane q t f).qceBytes = s.qceBytes := rfl
@[simp] theorem State.modLane_qceTrap (s : State) (q : PlotId) (t : Fin 64) (f : TapeLane → TapeLane) : (s.modLane q t f).qceTrap = s.qceTrap := rfl
@[simp] theorem State.modLane_pwr (s : State) (q : PlotId) (t : Fin 64) (f : TapeLane → TapeLane) : (s.modLane q t f).pwr = s.pwr := rfl
@[simp] theorem State.modLane_skt (s : State) (q : PlotId) (t : Fin 64) (f : TapeLane → TapeLane) : (s.modLane q t f).skt = s.skt := rfl
@[simp] theorem State.modLane_mem (s : State) (q : PlotId) (t : Fin 64) (f : TapeLane → TapeLane) : (s.modLane q t f).mem = s.mem := rfl
@[simp] theorem State.modLane_out (s : State) (q : PlotId) (t : Fin 64) (f : TapeLane → TapeLane) : (s.modLane q t f).out = s.out := rfl
@[simp] theorem State.modLane_resp (s : State) (q : PlotId) (t : Fin 64) (f : TapeLane → TapeLane) : (s.modLane q t f).resp = s.resp := rfl
@[simp] theorem State.modLane_free (s : State) (q : PlotId) (t : Fin 64) (f : TapeLane → TapeLane) : (s.modLane q t f).free = s.free := rfl

/-! ### modGrf -/

@[simp] theorem State.modGrf_pending (s : State) (q : PlotId) (f : GrfPlot → GrfPlot) : (s.modGrf q f).pending = s.pending := rfl
@[simp] theorem State.modGrf_boot (s : State) (q : PlotId) (f : GrfPlot → GrfPlot) : (s.modGrf q f).boot = s.boot := rfl
@[simp] theorem State.modGrf_aux (s : State) (q : PlotId) (f : GrfPlot → GrfPlot) : (s.modGrf q f).aux = s.aux := rfl
@[simp] theorem State.modGrf_fuses (s : State) (q : PlotId) (f : GrfPlot → GrfPlot) : (s.modGrf q f).fuses = s.fuses := rfl
@[simp] theorem State.modGrf_frm (s : State) (q : PlotId) (f : GrfPlot → GrfPlot) : (s.modGrf q f).frm = s.frm := rfl
@[simp] theorem State.modGrf_pf (s : State) (q : PlotId) (f : GrfPlot → GrfPlot) : (s.modGrf q f).pf = s.pf := rfl
@[simp] theorem State.modGrf_fns (s : State) (q : PlotId) (f : GrfPlot → GrfPlot) : (s.modGrf q f).fns = s.fns := rfl
@[simp] theorem State.modGrf_hst (s : State) (q : PlotId) (f : GrfPlot → GrfPlot) : (s.modGrf q f).hst = s.hst := rfl
@[simp] theorem State.modGrf_cfg (s : State) (q : PlotId) (f : GrfPlot → GrfPlot) : (s.modGrf q f).cfg = s.cfg := rfl
@[simp] theorem State.modGrf_undo (s : State) (q : PlotId) (f : GrfPlot → GrfPlot) : (s.modGrf q f).undo = s.undo := rfl
@[simp] theorem State.modGrf_msh (s : State) (q : PlotId) (f : GrfPlot → GrfPlot) : (s.modGrf q f).msh = s.msh := rfl
@[simp] theorem State.modGrf_log (s : State) (q : PlotId) (f : GrfPlot → GrfPlot) : (s.modGrf q f).log = s.log := rfl
@[simp] theorem State.modGrf_att (s : State) (q : PlotId) (f : GrfPlot → GrfPlot) : (s.modGrf q f).att = s.att := rfl
@[simp] theorem State.modGrf_anl (s : State) (q : PlotId) (f : GrfPlot → GrfPlot) : (s.modGrf q f).anl = s.anl := rfl
@[simp] theorem State.modGrf_nse (s : State) (q : PlotId) (f : GrfPlot → GrfPlot) : (s.modGrf q f).nse = s.nse := rfl
@[simp] theorem State.modGrf_lanes (s : State) (q : PlotId) (f : GrfPlot → GrfPlot) : (s.modGrf q f).lanes = s.lanes := rfl
@[simp] theorem State.modGrf_devGraft (s : State) (q : PlotId) (f : GrfPlot → GrfPlot) : (s.modGrf q f).devGraft = s.devGraft := rfl
@[simp] theorem State.modGrf_mxes (s : State) (q : PlotId) (f : GrfPlot → GrfPlot) : (s.modGrf q f).mxes = s.mxes := rfl
@[simp] theorem State.modGrf_partials (s : State) (q : PlotId) (f : GrfPlot → GrfPlot) : (s.modGrf q f).partials = s.partials := rfl
@[simp] theorem State.modGrf_devMacs (s : State) (q : PlotId) (f : GrfPlot → GrfPlot) : (s.modGrf q f).devMacs = s.devMacs := rfl
@[simp] theorem State.modGrf_hccs (s : State) (q : PlotId) (f : GrfPlot → GrfPlot) : (s.modGrf q f).hccs = s.hccs := rfl
@[simp] theorem State.modGrf_hccTrap (s : State) (q : PlotId) (f : GrfPlot → GrfPlot) : (s.modGrf q f).hccTrap = s.hccTrap := rfl
@[simp] theorem State.modGrf_qces (s : State) (q : PlotId) (f : GrfPlot → GrfPlot) : (s.modGrf q f).qces = s.qces := rfl
@[simp] theorem State.modGrf_qceBytes (s : State) (q : PlotId) (f : GrfPlot → GrfPlot) : (s.modGrf q f).qceBytes = s.qceBytes := rfl
@[simp] theorem State.modGrf_qceTrap (s : State) (q : PlotId) (f : GrfPlot → GrfPlot) : (s.modGrf q f).qceTrap = s.qceTrap := rfl
@[simp] theorem State.modGrf_pwr (s : State) (q : PlotId) (f : GrfPlot → GrfPlot) : (s.modGrf q f).pwr = s.pwr := rfl
@[simp] theorem State.modGrf_skt (s : State) (q : PlotId) (f : GrfPlot → GrfPlot) : (s.modGrf q f).skt = s.skt := rfl
@[simp] theorem State.modGrf_mem (s : State) (q : PlotId) (f : GrfPlot → GrfPlot) : (s.modGrf q f).mem = s.mem := rfl
@[simp] theorem State.modGrf_out (s : State) (q : PlotId) (f : GrfPlot → GrfPlot) : (s.modGrf q f).out = s.out := rfl
@[simp] theorem State.modGrf_resp (s : State) (q : PlotId) (f : GrfPlot → GrfPlot) : (s.modGrf q f).resp = s.resp := rfl
@[simp] theorem State.modGrf_free (s : State) (q : PlotId) (f : GrfPlot → GrfPlot) : (s.modGrf q f).free = s.free := rfl

/-! ### modFln -/

@[simp] theorem State.modFln_pending (s : State) (q : PlotId) (f : FlnPlot → FlnPlot) : (s.modFln q f).pending = s.pending := rfl
@[simp] theorem State.modFln_boot (s : State) (q : PlotId) (f : FlnPlot → FlnPlot) : (s.modFln q f).boot = s.boot := rfl
@[simp] theorem State.modFln_aux (s : State) (q : PlotId) (f : FlnPlot → FlnPlot) : (s.modFln q f).aux = s.aux := rfl
@[simp] theorem State.modFln_fuses (s : State) (q : PlotId) (f : FlnPlot → FlnPlot) : (s.modFln q f).fuses = s.fuses := rfl
@[simp] theorem State.modFln_frm (s : State) (q : PlotId) (f : FlnPlot → FlnPlot) : (s.modFln q f).frm = s.frm := rfl
@[simp] theorem State.modFln_pf (s : State) (q : PlotId) (f : FlnPlot → FlnPlot) : (s.modFln q f).pf = s.pf := rfl
@[simp] theorem State.modFln_fns (s : State) (q : PlotId) (f : FlnPlot → FlnPlot) : (s.modFln q f).fns = s.fns := rfl
@[simp] theorem State.modFln_hst (s : State) (q : PlotId) (f : FlnPlot → FlnPlot) : (s.modFln q f).hst = s.hst := rfl
@[simp] theorem State.modFln_cfg (s : State) (q : PlotId) (f : FlnPlot → FlnPlot) : (s.modFln q f).cfg = s.cfg := rfl
@[simp] theorem State.modFln_undo (s : State) (q : PlotId) (f : FlnPlot → FlnPlot) : (s.modFln q f).undo = s.undo := rfl
@[simp] theorem State.modFln_msh (s : State) (q : PlotId) (f : FlnPlot → FlnPlot) : (s.modFln q f).msh = s.msh := rfl
@[simp] theorem State.modFln_log (s : State) (q : PlotId) (f : FlnPlot → FlnPlot) : (s.modFln q f).log = s.log := rfl
@[simp] theorem State.modFln_att (s : State) (q : PlotId) (f : FlnPlot → FlnPlot) : (s.modFln q f).att = s.att := rfl
@[simp] theorem State.modFln_anl (s : State) (q : PlotId) (f : FlnPlot → FlnPlot) : (s.modFln q f).anl = s.anl := rfl
@[simp] theorem State.modFln_nse (s : State) (q : PlotId) (f : FlnPlot → FlnPlot) : (s.modFln q f).nse = s.nse := rfl
@[simp] theorem State.modFln_lanes (s : State) (q : PlotId) (f : FlnPlot → FlnPlot) : (s.modFln q f).lanes = s.lanes := rfl
@[simp] theorem State.modFln_devGraft (s : State) (q : PlotId) (f : FlnPlot → FlnPlot) : (s.modFln q f).devGraft = s.devGraft := rfl
@[simp] theorem State.modFln_mxes (s : State) (q : PlotId) (f : FlnPlot → FlnPlot) : (s.modFln q f).mxes = s.mxes := rfl
@[simp] theorem State.modFln_partials (s : State) (q : PlotId) (f : FlnPlot → FlnPlot) : (s.modFln q f).partials = s.partials := rfl
@[simp] theorem State.modFln_devMacs (s : State) (q : PlotId) (f : FlnPlot → FlnPlot) : (s.modFln q f).devMacs = s.devMacs := rfl
@[simp] theorem State.modFln_hccs (s : State) (q : PlotId) (f : FlnPlot → FlnPlot) : (s.modFln q f).hccs = s.hccs := rfl
@[simp] theorem State.modFln_hccTrap (s : State) (q : PlotId) (f : FlnPlot → FlnPlot) : (s.modFln q f).hccTrap = s.hccTrap := rfl
@[simp] theorem State.modFln_qces (s : State) (q : PlotId) (f : FlnPlot → FlnPlot) : (s.modFln q f).qces = s.qces := rfl
@[simp] theorem State.modFln_qceBytes (s : State) (q : PlotId) (f : FlnPlot → FlnPlot) : (s.modFln q f).qceBytes = s.qceBytes := rfl
@[simp] theorem State.modFln_qceTrap (s : State) (q : PlotId) (f : FlnPlot → FlnPlot) : (s.modFln q f).qceTrap = s.qceTrap := rfl
@[simp] theorem State.modFln_pwr (s : State) (q : PlotId) (f : FlnPlot → FlnPlot) : (s.modFln q f).pwr = s.pwr := rfl
@[simp] theorem State.modFln_skt (s : State) (q : PlotId) (f : FlnPlot → FlnPlot) : (s.modFln q f).skt = s.skt := rfl
@[simp] theorem State.modFln_mem (s : State) (q : PlotId) (f : FlnPlot → FlnPlot) : (s.modFln q f).mem = s.mem := rfl
@[simp] theorem State.modFln_out (s : State) (q : PlotId) (f : FlnPlot → FlnPlot) : (s.modFln q f).out = s.out := rfl
@[simp] theorem State.modFln_resp (s : State) (q : PlotId) (f : FlnPlot → FlnPlot) : (s.modFln q f).resp = s.resp := rfl
@[simp] theorem State.modFln_free (s : State) (q : PlotId) (f : FlnPlot → FlnPlot) : (s.modFln q f).free = s.free := rfl

/-! ### modIdx -/

@[simp] theorem State.modIdx_pending (s : State) (q : PlotId) (i : Fin 16) (f : IndexState → IndexState) : (s.modIdx q i f).pending = s.pending := rfl
@[simp] theorem State.modIdx_boot (s : State) (q : PlotId) (i : Fin 16) (f : IndexState → IndexState) : (s.modIdx q i f).boot = s.boot := rfl
@[simp] theorem State.modIdx_aux (s : State) (q : PlotId) (i : Fin 16) (f : IndexState → IndexState) : (s.modIdx q i f).aux = s.aux := rfl
@[simp] theorem State.modIdx_fuses (s : State) (q : PlotId) (i : Fin 16) (f : IndexState → IndexState) : (s.modIdx q i f).fuses = s.fuses := rfl
@[simp] theorem State.modIdx_frm (s : State) (q : PlotId) (i : Fin 16) (f : IndexState → IndexState) : (s.modIdx q i f).frm = s.frm := rfl
@[simp] theorem State.modIdx_pf (s : State) (q : PlotId) (i : Fin 16) (f : IndexState → IndexState) : (s.modIdx q i f).pf = s.pf := rfl
@[simp] theorem State.modIdx_fns (s : State) (q : PlotId) (i : Fin 16) (f : IndexState → IndexState) : (s.modIdx q i f).fns = s.fns := rfl
@[simp] theorem State.modIdx_hst (s : State) (q : PlotId) (i : Fin 16) (f : IndexState → IndexState) : (s.modIdx q i f).hst = s.hst := rfl
@[simp] theorem State.modIdx_cfg (s : State) (q : PlotId) (i : Fin 16) (f : IndexState → IndexState) : (s.modIdx q i f).cfg = s.cfg := rfl
@[simp] theorem State.modIdx_undo (s : State) (q : PlotId) (i : Fin 16) (f : IndexState → IndexState) : (s.modIdx q i f).undo = s.undo := rfl
@[simp] theorem State.modIdx_msh (s : State) (q : PlotId) (i : Fin 16) (f : IndexState → IndexState) : (s.modIdx q i f).msh = s.msh := rfl
@[simp] theorem State.modIdx_log (s : State) (q : PlotId) (i : Fin 16) (f : IndexState → IndexState) : (s.modIdx q i f).log = s.log := rfl
@[simp] theorem State.modIdx_att (s : State) (q : PlotId) (i : Fin 16) (f : IndexState → IndexState) : (s.modIdx q i f).att = s.att := rfl
@[simp] theorem State.modIdx_anl (s : State) (q : PlotId) (i : Fin 16) (f : IndexState → IndexState) : (s.modIdx q i f).anl = s.anl := rfl
@[simp] theorem State.modIdx_nse (s : State) (q : PlotId) (i : Fin 16) (f : IndexState → IndexState) : (s.modIdx q i f).nse = s.nse := rfl
@[simp] theorem State.modIdx_lanes (s : State) (q : PlotId) (i : Fin 16) (f : IndexState → IndexState) : (s.modIdx q i f).lanes = s.lanes := rfl
@[simp] theorem State.modIdx_devGraft (s : State) (q : PlotId) (i : Fin 16) (f : IndexState → IndexState) : (s.modIdx q i f).devGraft = s.devGraft := rfl
@[simp] theorem State.modIdx_mxes (s : State) (q : PlotId) (i : Fin 16) (f : IndexState → IndexState) : (s.modIdx q i f).mxes = s.mxes := rfl
@[simp] theorem State.modIdx_partials (s : State) (q : PlotId) (i : Fin 16) (f : IndexState → IndexState) : (s.modIdx q i f).partials = s.partials := rfl
@[simp] theorem State.modIdx_devMacs (s : State) (q : PlotId) (i : Fin 16) (f : IndexState → IndexState) : (s.modIdx q i f).devMacs = s.devMacs := rfl
@[simp] theorem State.modIdx_hccs (s : State) (q : PlotId) (i : Fin 16) (f : IndexState → IndexState) : (s.modIdx q i f).hccs = s.hccs := rfl
@[simp] theorem State.modIdx_hccTrap (s : State) (q : PlotId) (i : Fin 16) (f : IndexState → IndexState) : (s.modIdx q i f).hccTrap = s.hccTrap := rfl
@[simp] theorem State.modIdx_qces (s : State) (q : PlotId) (i : Fin 16) (f : IndexState → IndexState) : (s.modIdx q i f).qces = s.qces := rfl
@[simp] theorem State.modIdx_qceBytes (s : State) (q : PlotId) (i : Fin 16) (f : IndexState → IndexState) : (s.modIdx q i f).qceBytes = s.qceBytes := rfl
@[simp] theorem State.modIdx_qceTrap (s : State) (q : PlotId) (i : Fin 16) (f : IndexState → IndexState) : (s.modIdx q i f).qceTrap = s.qceTrap := rfl
@[simp] theorem State.modIdx_pwr (s : State) (q : PlotId) (i : Fin 16) (f : IndexState → IndexState) : (s.modIdx q i f).pwr = s.pwr := rfl
@[simp] theorem State.modIdx_skt (s : State) (q : PlotId) (i : Fin 16) (f : IndexState → IndexState) : (s.modIdx q i f).skt = s.skt := rfl
@[simp] theorem State.modIdx_mem (s : State) (q : PlotId) (i : Fin 16) (f : IndexState → IndexState) : (s.modIdx q i f).mem = s.mem := rfl
@[simp] theorem State.modIdx_out (s : State) (q : PlotId) (i : Fin 16) (f : IndexState → IndexState) : (s.modIdx q i f).out = s.out := rfl
@[simp] theorem State.modIdx_resp (s : State) (q : PlotId) (i : Fin 16) (f : IndexState → IndexState) : (s.modIdx q i f).resp = s.resp := rfl
@[simp] theorem State.modIdx_free (s : State) (q : PlotId) (i : Fin 16) (f : IndexState → IndexState) : (s.modIdx q i f).free = s.free := rfl

/-! ### modFlnCnt -/

@[simp] theorem State.modFlnCnt_pending (s : State) (q : PlotId) (f : FlnCnt → FlnCnt) : (s.modFlnCnt q f).pending = s.pending := rfl
@[simp] theorem State.modFlnCnt_boot (s : State) (q : PlotId) (f : FlnCnt → FlnCnt) : (s.modFlnCnt q f).boot = s.boot := rfl
@[simp] theorem State.modFlnCnt_aux (s : State) (q : PlotId) (f : FlnCnt → FlnCnt) : (s.modFlnCnt q f).aux = s.aux := rfl
@[simp] theorem State.modFlnCnt_fuses (s : State) (q : PlotId) (f : FlnCnt → FlnCnt) : (s.modFlnCnt q f).fuses = s.fuses := rfl
@[simp] theorem State.modFlnCnt_frm (s : State) (q : PlotId) (f : FlnCnt → FlnCnt) : (s.modFlnCnt q f).frm = s.frm := rfl
@[simp] theorem State.modFlnCnt_pf (s : State) (q : PlotId) (f : FlnCnt → FlnCnt) : (s.modFlnCnt q f).pf = s.pf := rfl
@[simp] theorem State.modFlnCnt_fns (s : State) (q : PlotId) (f : FlnCnt → FlnCnt) : (s.modFlnCnt q f).fns = s.fns := rfl
@[simp] theorem State.modFlnCnt_hst (s : State) (q : PlotId) (f : FlnCnt → FlnCnt) : (s.modFlnCnt q f).hst = s.hst := rfl
@[simp] theorem State.modFlnCnt_cfg (s : State) (q : PlotId) (f : FlnCnt → FlnCnt) : (s.modFlnCnt q f).cfg = s.cfg := rfl
@[simp] theorem State.modFlnCnt_undo (s : State) (q : PlotId) (f : FlnCnt → FlnCnt) : (s.modFlnCnt q f).undo = s.undo := rfl
@[simp] theorem State.modFlnCnt_msh (s : State) (q : PlotId) (f : FlnCnt → FlnCnt) : (s.modFlnCnt q f).msh = s.msh := rfl
@[simp] theorem State.modFlnCnt_log (s : State) (q : PlotId) (f : FlnCnt → FlnCnt) : (s.modFlnCnt q f).log = s.log := rfl
@[simp] theorem State.modFlnCnt_att (s : State) (q : PlotId) (f : FlnCnt → FlnCnt) : (s.modFlnCnt q f).att = s.att := rfl
@[simp] theorem State.modFlnCnt_anl (s : State) (q : PlotId) (f : FlnCnt → FlnCnt) : (s.modFlnCnt q f).anl = s.anl := rfl
@[simp] theorem State.modFlnCnt_nse (s : State) (q : PlotId) (f : FlnCnt → FlnCnt) : (s.modFlnCnt q f).nse = s.nse := rfl
@[simp] theorem State.modFlnCnt_lanes (s : State) (q : PlotId) (f : FlnCnt → FlnCnt) : (s.modFlnCnt q f).lanes = s.lanes := rfl
@[simp] theorem State.modFlnCnt_devGraft (s : State) (q : PlotId) (f : FlnCnt → FlnCnt) : (s.modFlnCnt q f).devGraft = s.devGraft := rfl
@[simp] theorem State.modFlnCnt_mxes (s : State) (q : PlotId) (f : FlnCnt → FlnCnt) : (s.modFlnCnt q f).mxes = s.mxes := rfl
@[simp] theorem State.modFlnCnt_partials (s : State) (q : PlotId) (f : FlnCnt → FlnCnt) : (s.modFlnCnt q f).partials = s.partials := rfl
@[simp] theorem State.modFlnCnt_devMacs (s : State) (q : PlotId) (f : FlnCnt → FlnCnt) : (s.modFlnCnt q f).devMacs = s.devMacs := rfl
@[simp] theorem State.modFlnCnt_hccs (s : State) (q : PlotId) (f : FlnCnt → FlnCnt) : (s.modFlnCnt q f).hccs = s.hccs := rfl
@[simp] theorem State.modFlnCnt_hccTrap (s : State) (q : PlotId) (f : FlnCnt → FlnCnt) : (s.modFlnCnt q f).hccTrap = s.hccTrap := rfl
@[simp] theorem State.modFlnCnt_qces (s : State) (q : PlotId) (f : FlnCnt → FlnCnt) : (s.modFlnCnt q f).qces = s.qces := rfl
@[simp] theorem State.modFlnCnt_qceBytes (s : State) (q : PlotId) (f : FlnCnt → FlnCnt) : (s.modFlnCnt q f).qceBytes = s.qceBytes := rfl
@[simp] theorem State.modFlnCnt_qceTrap (s : State) (q : PlotId) (f : FlnCnt → FlnCnt) : (s.modFlnCnt q f).qceTrap = s.qceTrap := rfl
@[simp] theorem State.modFlnCnt_pwr (s : State) (q : PlotId) (f : FlnCnt → FlnCnt) : (s.modFlnCnt q f).pwr = s.pwr := rfl
@[simp] theorem State.modFlnCnt_skt (s : State) (q : PlotId) (f : FlnCnt → FlnCnt) : (s.modFlnCnt q f).skt = s.skt := rfl
@[simp] theorem State.modFlnCnt_mem (s : State) (q : PlotId) (f : FlnCnt → FlnCnt) : (s.modFlnCnt q f).mem = s.mem := rfl
@[simp] theorem State.modFlnCnt_out (s : State) (q : PlotId) (f : FlnCnt → FlnCnt) : (s.modFlnCnt q f).out = s.out := rfl
@[simp] theorem State.modFlnCnt_resp (s : State) (q : PlotId) (f : FlnCnt → FlnCnt) : (s.modFlnCnt q f).resp = s.resp := rfl
@[simp] theorem State.modFlnCnt_free (s : State) (q : PlotId) (f : FlnCnt → FlnCnt) : (s.modFlnCnt q f).free = s.free := rfl

/-! ### modPart -/

@[simp] theorem State.modPart_pending (s : State) (q : PlotId) (i : BitVec 16) (no : Nat) (l : LaneId) (f : Part → Part) : (s.modPart q i no l f).pending = s.pending := rfl
@[simp] theorem State.modPart_boot (s : State) (q : PlotId) (i : BitVec 16) (no : Nat) (l : LaneId) (f : Part → Part) : (s.modPart q i no l f).boot = s.boot := rfl
@[simp] theorem State.modPart_aux (s : State) (q : PlotId) (i : BitVec 16) (no : Nat) (l : LaneId) (f : Part → Part) : (s.modPart q i no l f).aux = s.aux := rfl
@[simp] theorem State.modPart_fuses (s : State) (q : PlotId) (i : BitVec 16) (no : Nat) (l : LaneId) (f : Part → Part) : (s.modPart q i no l f).fuses = s.fuses := rfl
@[simp] theorem State.modPart_frm (s : State) (q : PlotId) (i : BitVec 16) (no : Nat) (l : LaneId) (f : Part → Part) : (s.modPart q i no l f).frm = s.frm := rfl
@[simp] theorem State.modPart_pf (s : State) (q : PlotId) (i : BitVec 16) (no : Nat) (l : LaneId) (f : Part → Part) : (s.modPart q i no l f).pf = s.pf := rfl
@[simp] theorem State.modPart_fns (s : State) (q : PlotId) (i : BitVec 16) (no : Nat) (l : LaneId) (f : Part → Part) : (s.modPart q i no l f).fns = s.fns := rfl
@[simp] theorem State.modPart_hst (s : State) (q : PlotId) (i : BitVec 16) (no : Nat) (l : LaneId) (f : Part → Part) : (s.modPart q i no l f).hst = s.hst := rfl
@[simp] theorem State.modPart_cfg (s : State) (q : PlotId) (i : BitVec 16) (no : Nat) (l : LaneId) (f : Part → Part) : (s.modPart q i no l f).cfg = s.cfg := rfl
@[simp] theorem State.modPart_undo (s : State) (q : PlotId) (i : BitVec 16) (no : Nat) (l : LaneId) (f : Part → Part) : (s.modPart q i no l f).undo = s.undo := rfl
@[simp] theorem State.modPart_msh (s : State) (q : PlotId) (i : BitVec 16) (no : Nat) (l : LaneId) (f : Part → Part) : (s.modPart q i no l f).msh = s.msh := rfl
@[simp] theorem State.modPart_log (s : State) (q : PlotId) (i : BitVec 16) (no : Nat) (l : LaneId) (f : Part → Part) : (s.modPart q i no l f).log = s.log := rfl
@[simp] theorem State.modPart_att (s : State) (q : PlotId) (i : BitVec 16) (no : Nat) (l : LaneId) (f : Part → Part) : (s.modPart q i no l f).att = s.att := rfl
@[simp] theorem State.modPart_anl (s : State) (q : PlotId) (i : BitVec 16) (no : Nat) (l : LaneId) (f : Part → Part) : (s.modPart q i no l f).anl = s.anl := rfl
@[simp] theorem State.modPart_nse (s : State) (q : PlotId) (i : BitVec 16) (no : Nat) (l : LaneId) (f : Part → Part) : (s.modPart q i no l f).nse = s.nse := rfl
@[simp] theorem State.modPart_lanes (s : State) (q : PlotId) (i : BitVec 16) (no : Nat) (l : LaneId) (f : Part → Part) : (s.modPart q i no l f).lanes = s.lanes := rfl
@[simp] theorem State.modPart_devGraft (s : State) (q : PlotId) (i : BitVec 16) (no : Nat) (l : LaneId) (f : Part → Part) : (s.modPart q i no l f).devGraft = s.devGraft := rfl
@[simp] theorem State.modPart_mxes (s : State) (q : PlotId) (i : BitVec 16) (no : Nat) (l : LaneId) (f : Part → Part) : (s.modPart q i no l f).mxes = s.mxes := rfl
@[simp] theorem State.modPart_partials (s : State) (q : PlotId) (i : BitVec 16) (no : Nat) (l : LaneId) (f : Part → Part) : (s.modPart q i no l f).partials = s.partials := rfl
@[simp] theorem State.modPart_devMacs (s : State) (q : PlotId) (i : BitVec 16) (no : Nat) (l : LaneId) (f : Part → Part) : (s.modPart q i no l f).devMacs = s.devMacs := rfl
@[simp] theorem State.modPart_hccs (s : State) (q : PlotId) (i : BitVec 16) (no : Nat) (l : LaneId) (f : Part → Part) : (s.modPart q i no l f).hccs = s.hccs := rfl
@[simp] theorem State.modPart_hccTrap (s : State) (q : PlotId) (i : BitVec 16) (no : Nat) (l : LaneId) (f : Part → Part) : (s.modPart q i no l f).hccTrap = s.hccTrap := rfl
@[simp] theorem State.modPart_qces (s : State) (q : PlotId) (i : BitVec 16) (no : Nat) (l : LaneId) (f : Part → Part) : (s.modPart q i no l f).qces = s.qces := rfl
@[simp] theorem State.modPart_qceBytes (s : State) (q : PlotId) (i : BitVec 16) (no : Nat) (l : LaneId) (f : Part → Part) : (s.modPart q i no l f).qceBytes = s.qceBytes := rfl
@[simp] theorem State.modPart_qceTrap (s : State) (q : PlotId) (i : BitVec 16) (no : Nat) (l : LaneId) (f : Part → Part) : (s.modPart q i no l f).qceTrap = s.qceTrap := rfl
@[simp] theorem State.modPart_pwr (s : State) (q : PlotId) (i : BitVec 16) (no : Nat) (l : LaneId) (f : Part → Part) : (s.modPart q i no l f).pwr = s.pwr := rfl
@[simp] theorem State.modPart_skt (s : State) (q : PlotId) (i : BitVec 16) (no : Nat) (l : LaneId) (f : Part → Part) : (s.modPart q i no l f).skt = s.skt := rfl
@[simp] theorem State.modPart_mem (s : State) (q : PlotId) (i : BitVec 16) (no : Nat) (l : LaneId) (f : Part → Part) : (s.modPart q i no l f).mem = s.mem := rfl
@[simp] theorem State.modPart_out (s : State) (q : PlotId) (i : BitVec 16) (no : Nat) (l : LaneId) (f : Part → Part) : (s.modPart q i no l f).out = s.out := rfl
@[simp] theorem State.modPart_resp (s : State) (q : PlotId) (i : BitVec 16) (no : Nat) (l : LaneId) (f : Part → Part) : (s.modPart q i no l f).resp = s.resp := rfl
@[simp] theorem State.modPart_free (s : State) (q : PlotId) (i : BitVec 16) (no : Nat) (l : LaneId) (f : Part → Part) : (s.modPart q i no l f).free = s.free := rfl

/-! ### modQuery -/

@[simp] theorem State.modQuery_pending (s : State) (q : PlotId) (i : BitVec 16) (no : Nat) (f : Query → Query) : (s.modQuery q i no f).pending = s.pending := rfl
@[simp] theorem State.modQuery_boot (s : State) (q : PlotId) (i : BitVec 16) (no : Nat) (f : Query → Query) : (s.modQuery q i no f).boot = s.boot := rfl
@[simp] theorem State.modQuery_aux (s : State) (q : PlotId) (i : BitVec 16) (no : Nat) (f : Query → Query) : (s.modQuery q i no f).aux = s.aux := rfl
@[simp] theorem State.modQuery_fuses (s : State) (q : PlotId) (i : BitVec 16) (no : Nat) (f : Query → Query) : (s.modQuery q i no f).fuses = s.fuses := rfl
@[simp] theorem State.modQuery_frm (s : State) (q : PlotId) (i : BitVec 16) (no : Nat) (f : Query → Query) : (s.modQuery q i no f).frm = s.frm := rfl
@[simp] theorem State.modQuery_pf (s : State) (q : PlotId) (i : BitVec 16) (no : Nat) (f : Query → Query) : (s.modQuery q i no f).pf = s.pf := rfl
@[simp] theorem State.modQuery_fns (s : State) (q : PlotId) (i : BitVec 16) (no : Nat) (f : Query → Query) : (s.modQuery q i no f).fns = s.fns := rfl
@[simp] theorem State.modQuery_hst (s : State) (q : PlotId) (i : BitVec 16) (no : Nat) (f : Query → Query) : (s.modQuery q i no f).hst = s.hst := rfl
@[simp] theorem State.modQuery_cfg (s : State) (q : PlotId) (i : BitVec 16) (no : Nat) (f : Query → Query) : (s.modQuery q i no f).cfg = s.cfg := rfl
@[simp] theorem State.modQuery_undo (s : State) (q : PlotId) (i : BitVec 16) (no : Nat) (f : Query → Query) : (s.modQuery q i no f).undo = s.undo := rfl
@[simp] theorem State.modQuery_msh (s : State) (q : PlotId) (i : BitVec 16) (no : Nat) (f : Query → Query) : (s.modQuery q i no f).msh = s.msh := rfl
@[simp] theorem State.modQuery_log (s : State) (q : PlotId) (i : BitVec 16) (no : Nat) (f : Query → Query) : (s.modQuery q i no f).log = s.log := rfl
@[simp] theorem State.modQuery_att (s : State) (q : PlotId) (i : BitVec 16) (no : Nat) (f : Query → Query) : (s.modQuery q i no f).att = s.att := rfl
@[simp] theorem State.modQuery_anl (s : State) (q : PlotId) (i : BitVec 16) (no : Nat) (f : Query → Query) : (s.modQuery q i no f).anl = s.anl := rfl
@[simp] theorem State.modQuery_nse (s : State) (q : PlotId) (i : BitVec 16) (no : Nat) (f : Query → Query) : (s.modQuery q i no f).nse = s.nse := rfl
@[simp] theorem State.modQuery_lanes (s : State) (q : PlotId) (i : BitVec 16) (no : Nat) (f : Query → Query) : (s.modQuery q i no f).lanes = s.lanes := rfl
@[simp] theorem State.modQuery_devGraft (s : State) (q : PlotId) (i : BitVec 16) (no : Nat) (f : Query → Query) : (s.modQuery q i no f).devGraft = s.devGraft := rfl
@[simp] theorem State.modQuery_mxes (s : State) (q : PlotId) (i : BitVec 16) (no : Nat) (f : Query → Query) : (s.modQuery q i no f).mxes = s.mxes := rfl
@[simp] theorem State.modQuery_partials (s : State) (q : PlotId) (i : BitVec 16) (no : Nat) (f : Query → Query) : (s.modQuery q i no f).partials = s.partials := rfl
@[simp] theorem State.modQuery_devMacs (s : State) (q : PlotId) (i : BitVec 16) (no : Nat) (f : Query → Query) : (s.modQuery q i no f).devMacs = s.devMacs := rfl
@[simp] theorem State.modQuery_hccs (s : State) (q : PlotId) (i : BitVec 16) (no : Nat) (f : Query → Query) : (s.modQuery q i no f).hccs = s.hccs := rfl
@[simp] theorem State.modQuery_hccTrap (s : State) (q : PlotId) (i : BitVec 16) (no : Nat) (f : Query → Query) : (s.modQuery q i no f).hccTrap = s.hccTrap := rfl
@[simp] theorem State.modQuery_qces (s : State) (q : PlotId) (i : BitVec 16) (no : Nat) (f : Query → Query) : (s.modQuery q i no f).qces = s.qces := rfl
@[simp] theorem State.modQuery_qceBytes (s : State) (q : PlotId) (i : BitVec 16) (no : Nat) (f : Query → Query) : (s.modQuery q i no f).qceBytes = s.qceBytes := rfl
@[simp] theorem State.modQuery_qceTrap (s : State) (q : PlotId) (i : BitVec 16) (no : Nat) (f : Query → Query) : (s.modQuery q i no f).qceTrap = s.qceTrap := rfl
@[simp] theorem State.modQuery_pwr (s : State) (q : PlotId) (i : BitVec 16) (no : Nat) (f : Query → Query) : (s.modQuery q i no f).pwr = s.pwr := rfl
@[simp] theorem State.modQuery_skt (s : State) (q : PlotId) (i : BitVec 16) (no : Nat) (f : Query → Query) : (s.modQuery q i no f).skt = s.skt := rfl
@[simp] theorem State.modQuery_mem (s : State) (q : PlotId) (i : BitVec 16) (no : Nat) (f : Query → Query) : (s.modQuery q i no f).mem = s.mem := rfl
@[simp] theorem State.modQuery_out (s : State) (q : PlotId) (i : BitVec 16) (no : Nat) (f : Query → Query) : (s.modQuery q i no f).out = s.out := rfl
@[simp] theorem State.modQuery_resp (s : State) (q : PlotId) (i : BitVec 16) (no : Nat) (f : Query → Query) : (s.modQuery q i no f).resp = s.resp := rfl
@[simp] theorem State.modQuery_free (s : State) (q : PlotId) (i : BitVec 16) (no : Nat) (f : Query → Query) : (s.modQuery q i no f).free = s.free := rfl

/-! ### modMxeCnt -/

@[simp] theorem State.modMxeCnt_pending (s : State) (q : PlotId) (f : MxeCnt → MxeCnt) : (s.modMxeCnt q f).pending = s.pending := rfl
@[simp] theorem State.modMxeCnt_boot (s : State) (q : PlotId) (f : MxeCnt → MxeCnt) : (s.modMxeCnt q f).boot = s.boot := rfl
@[simp] theorem State.modMxeCnt_aux (s : State) (q : PlotId) (f : MxeCnt → MxeCnt) : (s.modMxeCnt q f).aux = s.aux := rfl
@[simp] theorem State.modMxeCnt_fuses (s : State) (q : PlotId) (f : MxeCnt → MxeCnt) : (s.modMxeCnt q f).fuses = s.fuses := rfl
@[simp] theorem State.modMxeCnt_frm (s : State) (q : PlotId) (f : MxeCnt → MxeCnt) : (s.modMxeCnt q f).frm = s.frm := rfl
@[simp] theorem State.modMxeCnt_pf (s : State) (q : PlotId) (f : MxeCnt → MxeCnt) : (s.modMxeCnt q f).pf = s.pf := rfl
@[simp] theorem State.modMxeCnt_fns (s : State) (q : PlotId) (f : MxeCnt → MxeCnt) : (s.modMxeCnt q f).fns = s.fns := rfl
@[simp] theorem State.modMxeCnt_hst (s : State) (q : PlotId) (f : MxeCnt → MxeCnt) : (s.modMxeCnt q f).hst = s.hst := rfl
@[simp] theorem State.modMxeCnt_cfg (s : State) (q : PlotId) (f : MxeCnt → MxeCnt) : (s.modMxeCnt q f).cfg = s.cfg := rfl
@[simp] theorem State.modMxeCnt_undo (s : State) (q : PlotId) (f : MxeCnt → MxeCnt) : (s.modMxeCnt q f).undo = s.undo := rfl
@[simp] theorem State.modMxeCnt_msh (s : State) (q : PlotId) (f : MxeCnt → MxeCnt) : (s.modMxeCnt q f).msh = s.msh := rfl
@[simp] theorem State.modMxeCnt_log (s : State) (q : PlotId) (f : MxeCnt → MxeCnt) : (s.modMxeCnt q f).log = s.log := rfl
@[simp] theorem State.modMxeCnt_att (s : State) (q : PlotId) (f : MxeCnt → MxeCnt) : (s.modMxeCnt q f).att = s.att := rfl
@[simp] theorem State.modMxeCnt_anl (s : State) (q : PlotId) (f : MxeCnt → MxeCnt) : (s.modMxeCnt q f).anl = s.anl := rfl
@[simp] theorem State.modMxeCnt_nse (s : State) (q : PlotId) (f : MxeCnt → MxeCnt) : (s.modMxeCnt q f).nse = s.nse := rfl
@[simp] theorem State.modMxeCnt_lanes (s : State) (q : PlotId) (f : MxeCnt → MxeCnt) : (s.modMxeCnt q f).lanes = s.lanes := rfl
@[simp] theorem State.modMxeCnt_devGraft (s : State) (q : PlotId) (f : MxeCnt → MxeCnt) : (s.modMxeCnt q f).devGraft = s.devGraft := rfl
@[simp] theorem State.modMxeCnt_mxes (s : State) (q : PlotId) (f : MxeCnt → MxeCnt) : (s.modMxeCnt q f).mxes = s.mxes := rfl
@[simp] theorem State.modMxeCnt_partials (s : State) (q : PlotId) (f : MxeCnt → MxeCnt) : (s.modMxeCnt q f).partials = s.partials := rfl
@[simp] theorem State.modMxeCnt_devMacs (s : State) (q : PlotId) (f : MxeCnt → MxeCnt) : (s.modMxeCnt q f).devMacs = s.devMacs := rfl
@[simp] theorem State.modMxeCnt_hccs (s : State) (q : PlotId) (f : MxeCnt → MxeCnt) : (s.modMxeCnt q f).hccs = s.hccs := rfl
@[simp] theorem State.modMxeCnt_hccTrap (s : State) (q : PlotId) (f : MxeCnt → MxeCnt) : (s.modMxeCnt q f).hccTrap = s.hccTrap := rfl
@[simp] theorem State.modMxeCnt_qces (s : State) (q : PlotId) (f : MxeCnt → MxeCnt) : (s.modMxeCnt q f).qces = s.qces := rfl
@[simp] theorem State.modMxeCnt_qceBytes (s : State) (q : PlotId) (f : MxeCnt → MxeCnt) : (s.modMxeCnt q f).qceBytes = s.qceBytes := rfl
@[simp] theorem State.modMxeCnt_qceTrap (s : State) (q : PlotId) (f : MxeCnt → MxeCnt) : (s.modMxeCnt q f).qceTrap = s.qceTrap := rfl
@[simp] theorem State.modMxeCnt_pwr (s : State) (q : PlotId) (f : MxeCnt → MxeCnt) : (s.modMxeCnt q f).pwr = s.pwr := rfl
@[simp] theorem State.modMxeCnt_skt (s : State) (q : PlotId) (f : MxeCnt → MxeCnt) : (s.modMxeCnt q f).skt = s.skt := rfl
@[simp] theorem State.modMxeCnt_mem (s : State) (q : PlotId) (f : MxeCnt → MxeCnt) : (s.modMxeCnt q f).mem = s.mem := rfl
@[simp] theorem State.modMxeCnt_out (s : State) (q : PlotId) (f : MxeCnt → MxeCnt) : (s.modMxeCnt q f).out = s.out := rfl
@[simp] theorem State.modMxeCnt_resp (s : State) (q : PlotId) (f : MxeCnt → MxeCnt) : (s.modMxeCnt q f).resp = s.resp := rfl
@[simp] theorem State.modMxeCnt_free (s : State) (q : PlotId) (f : MxeCnt → MxeCnt) : (s.modMxeCnt q f).free = s.free := rfl

/-! ### modQceCnt -/

@[simp] theorem State.modQceCnt_pending (s : State) (q : PlotId) (f : QceCnt → QceCnt) : (s.modQceCnt q f).pending = s.pending := rfl
@[simp] theorem State.modQceCnt_boot (s : State) (q : PlotId) (f : QceCnt → QceCnt) : (s.modQceCnt q f).boot = s.boot := rfl
@[simp] theorem State.modQceCnt_aux (s : State) (q : PlotId) (f : QceCnt → QceCnt) : (s.modQceCnt q f).aux = s.aux := rfl
@[simp] theorem State.modQceCnt_fuses (s : State) (q : PlotId) (f : QceCnt → QceCnt) : (s.modQceCnt q f).fuses = s.fuses := rfl
@[simp] theorem State.modQceCnt_frm (s : State) (q : PlotId) (f : QceCnt → QceCnt) : (s.modQceCnt q f).frm = s.frm := rfl
@[simp] theorem State.modQceCnt_pf (s : State) (q : PlotId) (f : QceCnt → QceCnt) : (s.modQceCnt q f).pf = s.pf := rfl
@[simp] theorem State.modQceCnt_fns (s : State) (q : PlotId) (f : QceCnt → QceCnt) : (s.modQceCnt q f).fns = s.fns := rfl
@[simp] theorem State.modQceCnt_hst (s : State) (q : PlotId) (f : QceCnt → QceCnt) : (s.modQceCnt q f).hst = s.hst := rfl
@[simp] theorem State.modQceCnt_cfg (s : State) (q : PlotId) (f : QceCnt → QceCnt) : (s.modQceCnt q f).cfg = s.cfg := rfl
@[simp] theorem State.modQceCnt_undo (s : State) (q : PlotId) (f : QceCnt → QceCnt) : (s.modQceCnt q f).undo = s.undo := rfl
@[simp] theorem State.modQceCnt_msh (s : State) (q : PlotId) (f : QceCnt → QceCnt) : (s.modQceCnt q f).msh = s.msh := rfl
@[simp] theorem State.modQceCnt_log (s : State) (q : PlotId) (f : QceCnt → QceCnt) : (s.modQceCnt q f).log = s.log := rfl
@[simp] theorem State.modQceCnt_att (s : State) (q : PlotId) (f : QceCnt → QceCnt) : (s.modQceCnt q f).att = s.att := rfl
@[simp] theorem State.modQceCnt_anl (s : State) (q : PlotId) (f : QceCnt → QceCnt) : (s.modQceCnt q f).anl = s.anl := rfl
@[simp] theorem State.modQceCnt_nse (s : State) (q : PlotId) (f : QceCnt → QceCnt) : (s.modQceCnt q f).nse = s.nse := rfl
@[simp] theorem State.modQceCnt_lanes (s : State) (q : PlotId) (f : QceCnt → QceCnt) : (s.modQceCnt q f).lanes = s.lanes := rfl
@[simp] theorem State.modQceCnt_devGraft (s : State) (q : PlotId) (f : QceCnt → QceCnt) : (s.modQceCnt q f).devGraft = s.devGraft := rfl
@[simp] theorem State.modQceCnt_mxes (s : State) (q : PlotId) (f : QceCnt → QceCnt) : (s.modQceCnt q f).mxes = s.mxes := rfl
@[simp] theorem State.modQceCnt_partials (s : State) (q : PlotId) (f : QceCnt → QceCnt) : (s.modQceCnt q f).partials = s.partials := rfl
@[simp] theorem State.modQceCnt_devMacs (s : State) (q : PlotId) (f : QceCnt → QceCnt) : (s.modQceCnt q f).devMacs = s.devMacs := rfl
@[simp] theorem State.modQceCnt_hccs (s : State) (q : PlotId) (f : QceCnt → QceCnt) : (s.modQceCnt q f).hccs = s.hccs := rfl
@[simp] theorem State.modQceCnt_hccTrap (s : State) (q : PlotId) (f : QceCnt → QceCnt) : (s.modQceCnt q f).hccTrap = s.hccTrap := rfl
@[simp] theorem State.modQceCnt_qces (s : State) (q : PlotId) (f : QceCnt → QceCnt) : (s.modQceCnt q f).qces = s.qces := rfl
@[simp] theorem State.modQceCnt_qceBytes (s : State) (q : PlotId) (f : QceCnt → QceCnt) : (s.modQceCnt q f).qceBytes = s.qceBytes := rfl
@[simp] theorem State.modQceCnt_qceTrap (s : State) (q : PlotId) (f : QceCnt → QceCnt) : (s.modQceCnt q f).qceTrap = s.qceTrap := rfl
@[simp] theorem State.modQceCnt_pwr (s : State) (q : PlotId) (f : QceCnt → QceCnt) : (s.modQceCnt q f).pwr = s.pwr := rfl
@[simp] theorem State.modQceCnt_skt (s : State) (q : PlotId) (f : QceCnt → QceCnt) : (s.modQceCnt q f).skt = s.skt := rfl
@[simp] theorem State.modQceCnt_mem (s : State) (q : PlotId) (f : QceCnt → QceCnt) : (s.modQceCnt q f).mem = s.mem := rfl
@[simp] theorem State.modQceCnt_out (s : State) (q : PlotId) (f : QceCnt → QceCnt) : (s.modQceCnt q f).out = s.out := rfl
@[simp] theorem State.modQceCnt_resp (s : State) (q : PlotId) (f : QceCnt → QceCnt) : (s.modQceCnt q f).resp = s.resp := rfl
@[simp] theorem State.modQceCnt_free (s : State) (q : PlotId) (f : QceCnt → QceCnt) : (s.modQceCnt q f).free = s.free := rfl

/-! ### modJob -/

@[simp] theorem State.modJob_pending (s : State) (q : PlotId) (i : BitVec 16) (f : Job → Job) : (s.modJob q i f).pending = s.pending := rfl
@[simp] theorem State.modJob_boot (s : State) (q : PlotId) (i : BitVec 16) (f : Job → Job) : (s.modJob q i f).boot = s.boot := rfl
@[simp] theorem State.modJob_aux (s : State) (q : PlotId) (i : BitVec 16) (f : Job → Job) : (s.modJob q i f).aux = s.aux := rfl
@[simp] theorem State.modJob_fuses (s : State) (q : PlotId) (i : BitVec 16) (f : Job → Job) : (s.modJob q i f).fuses = s.fuses := rfl
@[simp] theorem State.modJob_frm (s : State) (q : PlotId) (i : BitVec 16) (f : Job → Job) : (s.modJob q i f).frm = s.frm := rfl
@[simp] theorem State.modJob_pf (s : State) (q : PlotId) (i : BitVec 16) (f : Job → Job) : (s.modJob q i f).pf = s.pf := rfl
@[simp] theorem State.modJob_fns (s : State) (q : PlotId) (i : BitVec 16) (f : Job → Job) : (s.modJob q i f).fns = s.fns := rfl
@[simp] theorem State.modJob_hst (s : State) (q : PlotId) (i : BitVec 16) (f : Job → Job) : (s.modJob q i f).hst = s.hst := rfl
@[simp] theorem State.modJob_cfg (s : State) (q : PlotId) (i : BitVec 16) (f : Job → Job) : (s.modJob q i f).cfg = s.cfg := rfl
@[simp] theorem State.modJob_undo (s : State) (q : PlotId) (i : BitVec 16) (f : Job → Job) : (s.modJob q i f).undo = s.undo := rfl
@[simp] theorem State.modJob_msh (s : State) (q : PlotId) (i : BitVec 16) (f : Job → Job) : (s.modJob q i f).msh = s.msh := rfl
@[simp] theorem State.modJob_log (s : State) (q : PlotId) (i : BitVec 16) (f : Job → Job) : (s.modJob q i f).log = s.log := rfl
@[simp] theorem State.modJob_att (s : State) (q : PlotId) (i : BitVec 16) (f : Job → Job) : (s.modJob q i f).att = s.att := rfl
@[simp] theorem State.modJob_anl (s : State) (q : PlotId) (i : BitVec 16) (f : Job → Job) : (s.modJob q i f).anl = s.anl := rfl
@[simp] theorem State.modJob_nse (s : State) (q : PlotId) (i : BitVec 16) (f : Job → Job) : (s.modJob q i f).nse = s.nse := rfl
@[simp] theorem State.modJob_lanes (s : State) (q : PlotId) (i : BitVec 16) (f : Job → Job) : (s.modJob q i f).lanes = s.lanes := rfl
@[simp] theorem State.modJob_devGraft (s : State) (q : PlotId) (i : BitVec 16) (f : Job → Job) : (s.modJob q i f).devGraft = s.devGraft := rfl
@[simp] theorem State.modJob_mxes (s : State) (q : PlotId) (i : BitVec 16) (f : Job → Job) : (s.modJob q i f).mxes = s.mxes := rfl
@[simp] theorem State.modJob_partials (s : State) (q : PlotId) (i : BitVec 16) (f : Job → Job) : (s.modJob q i f).partials = s.partials := rfl
@[simp] theorem State.modJob_devMacs (s : State) (q : PlotId) (i : BitVec 16) (f : Job → Job) : (s.modJob q i f).devMacs = s.devMacs := rfl
@[simp] theorem State.modJob_hccs (s : State) (q : PlotId) (i : BitVec 16) (f : Job → Job) : (s.modJob q i f).hccs = s.hccs := rfl
@[simp] theorem State.modJob_hccTrap (s : State) (q : PlotId) (i : BitVec 16) (f : Job → Job) : (s.modJob q i f).hccTrap = s.hccTrap := rfl
@[simp] theorem State.modJob_qces (s : State) (q : PlotId) (i : BitVec 16) (f : Job → Job) : (s.modJob q i f).qces = s.qces := rfl
@[simp] theorem State.modJob_qceBytes (s : State) (q : PlotId) (i : BitVec 16) (f : Job → Job) : (s.modJob q i f).qceBytes = s.qceBytes := rfl
@[simp] theorem State.modJob_qceTrap (s : State) (q : PlotId) (i : BitVec 16) (f : Job → Job) : (s.modJob q i f).qceTrap = s.qceTrap := rfl
@[simp] theorem State.modJob_pwr (s : State) (q : PlotId) (i : BitVec 16) (f : Job → Job) : (s.modJob q i f).pwr = s.pwr := rfl
@[simp] theorem State.modJob_skt (s : State) (q : PlotId) (i : BitVec 16) (f : Job → Job) : (s.modJob q i f).skt = s.skt := rfl
@[simp] theorem State.modJob_mem (s : State) (q : PlotId) (i : BitVec 16) (f : Job → Job) : (s.modJob q i f).mem = s.mem := rfl
@[simp] theorem State.modJob_out (s : State) (q : PlotId) (i : BitVec 16) (f : Job → Job) : (s.modJob q i f).out = s.out := rfl
@[simp] theorem State.modJob_resp (s : State) (q : PlotId) (i : BitVec 16) (f : Job → Job) : (s.modJob q i f).resp = s.resp := rfl
@[simp] theorem State.modJob_free (s : State) (q : PlotId) (i : BitVec 16) (f : Job → Job) : (s.modJob q i f).free = s.free := rfl

/-! ### modFn -/

@[simp] theorem State.modFn_pending (s : State) (g : Fn) (f : FnState → FnState) : (s.modFn g f).pending = s.pending := rfl
@[simp] theorem State.modFn_boot (s : State) (g : Fn) (f : FnState → FnState) : (s.modFn g f).boot = s.boot := rfl
@[simp] theorem State.modFn_aux (s : State) (g : Fn) (f : FnState → FnState) : (s.modFn g f).aux = s.aux := rfl
@[simp] theorem State.modFn_fuses (s : State) (g : Fn) (f : FnState → FnState) : (s.modFn g f).fuses = s.fuses := rfl
@[simp] theorem State.modFn_frm (s : State) (g : Fn) (f : FnState → FnState) : (s.modFn g f).frm = s.frm := rfl
@[simp] theorem State.modFn_pf (s : State) (g : Fn) (f : FnState → FnState) : (s.modFn g f).pf = s.pf := rfl
@[simp] theorem State.modFn_hst (s : State) (g : Fn) (f : FnState → FnState) : (s.modFn g f).hst = s.hst := rfl
@[simp] theorem State.modFn_plots (s : State) (g : Fn) (f : FnState → FnState) : (s.modFn g f).plots = s.plots := rfl
@[simp] theorem State.modFn_cfg (s : State) (g : Fn) (f : FnState → FnState) : (s.modFn g f).cfg = s.cfg := rfl
@[simp] theorem State.modFn_undo (s : State) (g : Fn) (f : FnState → FnState) : (s.modFn g f).undo = s.undo := rfl
@[simp] theorem State.modFn_msh (s : State) (g : Fn) (f : FnState → FnState) : (s.modFn g f).msh = s.msh := rfl
@[simp] theorem State.modFn_log (s : State) (g : Fn) (f : FnState → FnState) : (s.modFn g f).log = s.log := rfl
@[simp] theorem State.modFn_att (s : State) (g : Fn) (f : FnState → FnState) : (s.modFn g f).att = s.att := rfl
@[simp] theorem State.modFn_anl (s : State) (g : Fn) (f : FnState → FnState) : (s.modFn g f).anl = s.anl := rfl
@[simp] theorem State.modFn_nse (s : State) (g : Fn) (f : FnState → FnState) : (s.modFn g f).nse = s.nse := rfl
@[simp] theorem State.modFn_lanes (s : State) (g : Fn) (f : FnState → FnState) : (s.modFn g f).lanes = s.lanes := rfl
@[simp] theorem State.modFn_devGraft (s : State) (g : Fn) (f : FnState → FnState) : (s.modFn g f).devGraft = s.devGraft := rfl
@[simp] theorem State.modFn_mxes (s : State) (g : Fn) (f : FnState → FnState) : (s.modFn g f).mxes = s.mxes := rfl
@[simp] theorem State.modFn_partials (s : State) (g : Fn) (f : FnState → FnState) : (s.modFn g f).partials = s.partials := rfl
@[simp] theorem State.modFn_devMacs (s : State) (g : Fn) (f : FnState → FnState) : (s.modFn g f).devMacs = s.devMacs := rfl
@[simp] theorem State.modFn_hccs (s : State) (g : Fn) (f : FnState → FnState) : (s.modFn g f).hccs = s.hccs := rfl
@[simp] theorem State.modFn_hccTrap (s : State) (g : Fn) (f : FnState → FnState) : (s.modFn g f).hccTrap = s.hccTrap := rfl
@[simp] theorem State.modFn_qces (s : State) (g : Fn) (f : FnState → FnState) : (s.modFn g f).qces = s.qces := rfl
@[simp] theorem State.modFn_qceBytes (s : State) (g : Fn) (f : FnState → FnState) : (s.modFn g f).qceBytes = s.qceBytes := rfl
@[simp] theorem State.modFn_qceTrap (s : State) (g : Fn) (f : FnState → FnState) : (s.modFn g f).qceTrap = s.qceTrap := rfl
@[simp] theorem State.modFn_pwr (s : State) (g : Fn) (f : FnState → FnState) : (s.modFn g f).pwr = s.pwr := rfl
@[simp] theorem State.modFn_skt (s : State) (g : Fn) (f : FnState → FnState) : (s.modFn g f).skt = s.skt := rfl
@[simp] theorem State.modFn_mem (s : State) (g : Fn) (f : FnState → FnState) : (s.modFn g f).mem = s.mem := rfl
@[simp] theorem State.modFn_out (s : State) (g : Fn) (f : FnState → FnState) : (s.modFn g f).out = s.out := rfl
@[simp] theorem State.modFn_resp (s : State) (g : Fn) (f : FnState → FnState) : (s.modFn g f).resp = s.resp := rfl
@[simp] theorem State.modFn_free (s : State) (g : Fn) (f : FnState → FnState) : (s.modFn g f).free = s.free := rfl

/-! ### modFrm -/

@[simp] theorem State.modFrm_pending (s : State) (f : FrmState → FrmState) : (s.modFrm f).pending = s.pending := rfl
@[simp] theorem State.modFrm_boot (s : State) (f : FrmState → FrmState) : (s.modFrm f).boot = s.boot := rfl
@[simp] theorem State.modFrm_aux (s : State) (f : FrmState → FrmState) : (s.modFrm f).aux = s.aux := rfl
@[simp] theorem State.modFrm_fuses (s : State) (f : FrmState → FrmState) : (s.modFrm f).fuses = s.fuses := rfl
@[simp] theorem State.modFrm_pf (s : State) (f : FrmState → FrmState) : (s.modFrm f).pf = s.pf := rfl
@[simp] theorem State.modFrm_fns (s : State) (f : FrmState → FrmState) : (s.modFrm f).fns = s.fns := rfl
@[simp] theorem State.modFrm_hst (s : State) (f : FrmState → FrmState) : (s.modFrm f).hst = s.hst := rfl
@[simp] theorem State.modFrm_plots (s : State) (f : FrmState → FrmState) : (s.modFrm f).plots = s.plots := rfl
@[simp] theorem State.modFrm_cfg (s : State) (f : FrmState → FrmState) : (s.modFrm f).cfg = s.cfg := rfl
@[simp] theorem State.modFrm_undo (s : State) (f : FrmState → FrmState) : (s.modFrm f).undo = s.undo := rfl
@[simp] theorem State.modFrm_msh (s : State) (f : FrmState → FrmState) : (s.modFrm f).msh = s.msh := rfl
@[simp] theorem State.modFrm_log (s : State) (f : FrmState → FrmState) : (s.modFrm f).log = s.log := rfl
@[simp] theorem State.modFrm_att (s : State) (f : FrmState → FrmState) : (s.modFrm f).att = s.att := rfl
@[simp] theorem State.modFrm_anl (s : State) (f : FrmState → FrmState) : (s.modFrm f).anl = s.anl := rfl
@[simp] theorem State.modFrm_nse (s : State) (f : FrmState → FrmState) : (s.modFrm f).nse = s.nse := rfl
@[simp] theorem State.modFrm_lanes (s : State) (f : FrmState → FrmState) : (s.modFrm f).lanes = s.lanes := rfl
@[simp] theorem State.modFrm_devGraft (s : State) (f : FrmState → FrmState) : (s.modFrm f).devGraft = s.devGraft := rfl
@[simp] theorem State.modFrm_mxes (s : State) (f : FrmState → FrmState) : (s.modFrm f).mxes = s.mxes := rfl
@[simp] theorem State.modFrm_partials (s : State) (f : FrmState → FrmState) : (s.modFrm f).partials = s.partials := rfl
@[simp] theorem State.modFrm_devMacs (s : State) (f : FrmState → FrmState) : (s.modFrm f).devMacs = s.devMacs := rfl
@[simp] theorem State.modFrm_hccs (s : State) (f : FrmState → FrmState) : (s.modFrm f).hccs = s.hccs := rfl
@[simp] theorem State.modFrm_hccTrap (s : State) (f : FrmState → FrmState) : (s.modFrm f).hccTrap = s.hccTrap := rfl
@[simp] theorem State.modFrm_qces (s : State) (f : FrmState → FrmState) : (s.modFrm f).qces = s.qces := rfl
@[simp] theorem State.modFrm_qceBytes (s : State) (f : FrmState → FrmState) : (s.modFrm f).qceBytes = s.qceBytes := rfl
@[simp] theorem State.modFrm_qceTrap (s : State) (f : FrmState → FrmState) : (s.modFrm f).qceTrap = s.qceTrap := rfl
@[simp] theorem State.modFrm_pwr (s : State) (f : FrmState → FrmState) : (s.modFrm f).pwr = s.pwr := rfl
@[simp] theorem State.modFrm_skt (s : State) (f : FrmState → FrmState) : (s.modFrm f).skt = s.skt := rfl
@[simp] theorem State.modFrm_mem (s : State) (f : FrmState → FrmState) : (s.modFrm f).mem = s.mem := rfl
@[simp] theorem State.modFrm_out (s : State) (f : FrmState → FrmState) : (s.modFrm f).out = s.out := rfl
@[simp] theorem State.modFrm_resp (s : State) (f : FrmState → FrmState) : (s.modFrm f).resp = s.resp := rfl
@[simp] theorem State.modFrm_free (s : State) (f : FrmState → FrmState) : (s.modFrm f).free = s.free := rfl

/-! ### modAtt -/

@[simp] theorem State.modAtt_pending (s : State) (q : PlotId) (f : AttSet → AttSet) : (s.modAtt q f).pending = s.pending := rfl
@[simp] theorem State.modAtt_boot (s : State) (q : PlotId) (f : AttSet → AttSet) : (s.modAtt q f).boot = s.boot := rfl
@[simp] theorem State.modAtt_aux (s : State) (q : PlotId) (f : AttSet → AttSet) : (s.modAtt q f).aux = s.aux := rfl
@[simp] theorem State.modAtt_fuses (s : State) (q : PlotId) (f : AttSet → AttSet) : (s.modAtt q f).fuses = s.fuses := rfl
@[simp] theorem State.modAtt_frm (s : State) (q : PlotId) (f : AttSet → AttSet) : (s.modAtt q f).frm = s.frm := rfl
@[simp] theorem State.modAtt_pf (s : State) (q : PlotId) (f : AttSet → AttSet) : (s.modAtt q f).pf = s.pf := rfl
@[simp] theorem State.modAtt_fns (s : State) (q : PlotId) (f : AttSet → AttSet) : (s.modAtt q f).fns = s.fns := rfl
@[simp] theorem State.modAtt_hst (s : State) (q : PlotId) (f : AttSet → AttSet) : (s.modAtt q f).hst = s.hst := rfl
@[simp] theorem State.modAtt_plots (s : State) (q : PlotId) (f : AttSet → AttSet) : (s.modAtt q f).plots = s.plots := rfl
@[simp] theorem State.modAtt_cfg (s : State) (q : PlotId) (f : AttSet → AttSet) : (s.modAtt q f).cfg = s.cfg := rfl
@[simp] theorem State.modAtt_undo (s : State) (q : PlotId) (f : AttSet → AttSet) : (s.modAtt q f).undo = s.undo := rfl
@[simp] theorem State.modAtt_msh (s : State) (q : PlotId) (f : AttSet → AttSet) : (s.modAtt q f).msh = s.msh := rfl
@[simp] theorem State.modAtt_log (s : State) (q : PlotId) (f : AttSet → AttSet) : (s.modAtt q f).log = s.log := rfl
@[simp] theorem State.modAtt_anl (s : State) (q : PlotId) (f : AttSet → AttSet) : (s.modAtt q f).anl = s.anl := rfl
@[simp] theorem State.modAtt_nse (s : State) (q : PlotId) (f : AttSet → AttSet) : (s.modAtt q f).nse = s.nse := rfl
@[simp] theorem State.modAtt_lanes (s : State) (q : PlotId) (f : AttSet → AttSet) : (s.modAtt q f).lanes = s.lanes := rfl
@[simp] theorem State.modAtt_devGraft (s : State) (q : PlotId) (f : AttSet → AttSet) : (s.modAtt q f).devGraft = s.devGraft := rfl
@[simp] theorem State.modAtt_mxes (s : State) (q : PlotId) (f : AttSet → AttSet) : (s.modAtt q f).mxes = s.mxes := rfl
@[simp] theorem State.modAtt_partials (s : State) (q : PlotId) (f : AttSet → AttSet) : (s.modAtt q f).partials = s.partials := rfl
@[simp] theorem State.modAtt_devMacs (s : State) (q : PlotId) (f : AttSet → AttSet) : (s.modAtt q f).devMacs = s.devMacs := rfl
@[simp] theorem State.modAtt_hccs (s : State) (q : PlotId) (f : AttSet → AttSet) : (s.modAtt q f).hccs = s.hccs := rfl
@[simp] theorem State.modAtt_hccTrap (s : State) (q : PlotId) (f : AttSet → AttSet) : (s.modAtt q f).hccTrap = s.hccTrap := rfl
@[simp] theorem State.modAtt_qces (s : State) (q : PlotId) (f : AttSet → AttSet) : (s.modAtt q f).qces = s.qces := rfl
@[simp] theorem State.modAtt_qceBytes (s : State) (q : PlotId) (f : AttSet → AttSet) : (s.modAtt q f).qceBytes = s.qceBytes := rfl
@[simp] theorem State.modAtt_qceTrap (s : State) (q : PlotId) (f : AttSet → AttSet) : (s.modAtt q f).qceTrap = s.qceTrap := rfl
@[simp] theorem State.modAtt_pwr (s : State) (q : PlotId) (f : AttSet → AttSet) : (s.modAtt q f).pwr = s.pwr := rfl
@[simp] theorem State.modAtt_skt (s : State) (q : PlotId) (f : AttSet → AttSet) : (s.modAtt q f).skt = s.skt := rfl
@[simp] theorem State.modAtt_mem (s : State) (q : PlotId) (f : AttSet → AttSet) : (s.modAtt q f).mem = s.mem := rfl
@[simp] theorem State.modAtt_out (s : State) (q : PlotId) (f : AttSet → AttSet) : (s.modAtt q f).out = s.out := rfl
@[simp] theorem State.modAtt_resp (s : State) (q : PlotId) (f : AttSet → AttSet) : (s.modAtt q f).resp = s.resp := rfl
@[simp] theorem State.modAtt_free (s : State) (q : PlotId) (f : AttSet → AttSet) : (s.modAtt q f).free = s.free := rfl

/-! ### modCfg -/

@[simp] theorem State.modCfg_pending (s : State) (f : CfgState → CfgState) : (s.modCfg f).pending = s.pending := rfl
@[simp] theorem State.modCfg_boot (s : State) (f : CfgState → CfgState) : (s.modCfg f).boot = s.boot := rfl
@[simp] theorem State.modCfg_aux (s : State) (f : CfgState → CfgState) : (s.modCfg f).aux = s.aux := rfl
@[simp] theorem State.modCfg_fuses (s : State) (f : CfgState → CfgState) : (s.modCfg f).fuses = s.fuses := rfl
@[simp] theorem State.modCfg_frm (s : State) (f : CfgState → CfgState) : (s.modCfg f).frm = s.frm := rfl
@[simp] theorem State.modCfg_pf (s : State) (f : CfgState → CfgState) : (s.modCfg f).pf = s.pf := rfl
@[simp] theorem State.modCfg_fns (s : State) (f : CfgState → CfgState) : (s.modCfg f).fns = s.fns := rfl
@[simp] theorem State.modCfg_hst (s : State) (f : CfgState → CfgState) : (s.modCfg f).hst = s.hst := rfl
@[simp] theorem State.modCfg_plots (s : State) (f : CfgState → CfgState) : (s.modCfg f).plots = s.plots := rfl
@[simp] theorem State.modCfg_undo (s : State) (f : CfgState → CfgState) : (s.modCfg f).undo = s.undo := rfl
@[simp] theorem State.modCfg_msh (s : State) (f : CfgState → CfgState) : (s.modCfg f).msh = s.msh := rfl
@[simp] theorem State.modCfg_log (s : State) (f : CfgState → CfgState) : (s.modCfg f).log = s.log := rfl
@[simp] theorem State.modCfg_att (s : State) (f : CfgState → CfgState) : (s.modCfg f).att = s.att := rfl
@[simp] theorem State.modCfg_anl (s : State) (f : CfgState → CfgState) : (s.modCfg f).anl = s.anl := rfl
@[simp] theorem State.modCfg_nse (s : State) (f : CfgState → CfgState) : (s.modCfg f).nse = s.nse := rfl
@[simp] theorem State.modCfg_lanes (s : State) (f : CfgState → CfgState) : (s.modCfg f).lanes = s.lanes := rfl
@[simp] theorem State.modCfg_devGraft (s : State) (f : CfgState → CfgState) : (s.modCfg f).devGraft = s.devGraft := rfl
@[simp] theorem State.modCfg_mxes (s : State) (f : CfgState → CfgState) : (s.modCfg f).mxes = s.mxes := rfl
@[simp] theorem State.modCfg_partials (s : State) (f : CfgState → CfgState) : (s.modCfg f).partials = s.partials := rfl
@[simp] theorem State.modCfg_devMacs (s : State) (f : CfgState → CfgState) : (s.modCfg f).devMacs = s.devMacs := rfl
@[simp] theorem State.modCfg_hccs (s : State) (f : CfgState → CfgState) : (s.modCfg f).hccs = s.hccs := rfl
@[simp] theorem State.modCfg_hccTrap (s : State) (f : CfgState → CfgState) : (s.modCfg f).hccTrap = s.hccTrap := rfl
@[simp] theorem State.modCfg_qces (s : State) (f : CfgState → CfgState) : (s.modCfg f).qces = s.qces := rfl
@[simp] theorem State.modCfg_qceBytes (s : State) (f : CfgState → CfgState) : (s.modCfg f).qceBytes = s.qceBytes := rfl
@[simp] theorem State.modCfg_qceTrap (s : State) (f : CfgState → CfgState) : (s.modCfg f).qceTrap = s.qceTrap := rfl
@[simp] theorem State.modCfg_pwr (s : State) (f : CfgState → CfgState) : (s.modCfg f).pwr = s.pwr := rfl
@[simp] theorem State.modCfg_skt (s : State) (f : CfgState → CfgState) : (s.modCfg f).skt = s.skt := rfl
@[simp] theorem State.modCfg_mem (s : State) (f : CfgState → CfgState) : (s.modCfg f).mem = s.mem := rfl
@[simp] theorem State.modCfg_out (s : State) (f : CfgState → CfgState) : (s.modCfg f).out = s.out := rfl
@[simp] theorem State.modCfg_resp (s : State) (f : CfgState → CfgState) : (s.modCfg f).resp = s.resp := rfl
@[simp] theorem State.modCfg_free (s : State) (f : CfgState → CfgState) : (s.modCfg f).free = s.free := rfl

/-! ### modMesh -/

@[simp] theorem State.modMesh_pending (s : State) (f : MshState → MshState) : (s.modMesh f).pending = s.pending := rfl
@[simp] theorem State.modMesh_boot (s : State) (f : MshState → MshState) : (s.modMesh f).boot = s.boot := rfl
@[simp] theorem State.modMesh_aux (s : State) (f : MshState → MshState) : (s.modMesh f).aux = s.aux := rfl
@[simp] theorem State.modMesh_fuses (s : State) (f : MshState → MshState) : (s.modMesh f).fuses = s.fuses := rfl
@[simp] theorem State.modMesh_frm (s : State) (f : MshState → MshState) : (s.modMesh f).frm = s.frm := rfl
@[simp] theorem State.modMesh_pf (s : State) (f : MshState → MshState) : (s.modMesh f).pf = s.pf := rfl
@[simp] theorem State.modMesh_fns (s : State) (f : MshState → MshState) : (s.modMesh f).fns = s.fns := rfl
@[simp] theorem State.modMesh_hst (s : State) (f : MshState → MshState) : (s.modMesh f).hst = s.hst := rfl
@[simp] theorem State.modMesh_plots (s : State) (f : MshState → MshState) : (s.modMesh f).plots = s.plots := rfl
@[simp] theorem State.modMesh_cfg (s : State) (f : MshState → MshState) : (s.modMesh f).cfg = s.cfg := rfl
@[simp] theorem State.modMesh_undo (s : State) (f : MshState → MshState) : (s.modMesh f).undo = s.undo := rfl
@[simp] theorem State.modMesh_log (s : State) (f : MshState → MshState) : (s.modMesh f).log = s.log := rfl
@[simp] theorem State.modMesh_att (s : State) (f : MshState → MshState) : (s.modMesh f).att = s.att := rfl
@[simp] theorem State.modMesh_anl (s : State) (f : MshState → MshState) : (s.modMesh f).anl = s.anl := rfl
@[simp] theorem State.modMesh_nse (s : State) (f : MshState → MshState) : (s.modMesh f).nse = s.nse := rfl
@[simp] theorem State.modMesh_lanes (s : State) (f : MshState → MshState) : (s.modMesh f).lanes = s.lanes := rfl
@[simp] theorem State.modMesh_devGraft (s : State) (f : MshState → MshState) : (s.modMesh f).devGraft = s.devGraft := rfl
@[simp] theorem State.modMesh_mxes (s : State) (f : MshState → MshState) : (s.modMesh f).mxes = s.mxes := rfl
@[simp] theorem State.modMesh_partials (s : State) (f : MshState → MshState) : (s.modMesh f).partials = s.partials := rfl
@[simp] theorem State.modMesh_devMacs (s : State) (f : MshState → MshState) : (s.modMesh f).devMacs = s.devMacs := rfl
@[simp] theorem State.modMesh_hccs (s : State) (f : MshState → MshState) : (s.modMesh f).hccs = s.hccs := rfl
@[simp] theorem State.modMesh_hccTrap (s : State) (f : MshState → MshState) : (s.modMesh f).hccTrap = s.hccTrap := rfl
@[simp] theorem State.modMesh_qces (s : State) (f : MshState → MshState) : (s.modMesh f).qces = s.qces := rfl
@[simp] theorem State.modMesh_qceBytes (s : State) (f : MshState → MshState) : (s.modMesh f).qceBytes = s.qceBytes := rfl
@[simp] theorem State.modMesh_qceTrap (s : State) (f : MshState → MshState) : (s.modMesh f).qceTrap = s.qceTrap := rfl
@[simp] theorem State.modMesh_pwr (s : State) (f : MshState → MshState) : (s.modMesh f).pwr = s.pwr := rfl
@[simp] theorem State.modMesh_skt (s : State) (f : MshState → MshState) : (s.modMesh f).skt = s.skt := rfl
@[simp] theorem State.modMesh_mem (s : State) (f : MshState → MshState) : (s.modMesh f).mem = s.mem := rfl
@[simp] theorem State.modMesh_out (s : State) (f : MshState → MshState) : (s.modMesh f).out = s.out := rfl
@[simp] theorem State.modMesh_resp (s : State) (f : MshState → MshState) : (s.modMesh f).resp = s.resp := rfl
@[simp] theorem State.modMesh_free (s : State) (f : MshState → MshState) : (s.modMesh f).free = s.free := rfl

/-! ### modWell -/

@[simp] theorem State.modWell_pending (s : State) (t : TileId) (f : Well → Well) : (s.modWell t f).pending = s.pending := rfl
@[simp] theorem State.modWell_boot (s : State) (t : TileId) (f : Well → Well) : (s.modWell t f).boot = s.boot := rfl
@[simp] theorem State.modWell_aux (s : State) (t : TileId) (f : Well → Well) : (s.modWell t f).aux = s.aux := rfl
@[simp] theorem State.modWell_fuses (s : State) (t : TileId) (f : Well → Well) : (s.modWell t f).fuses = s.fuses := rfl
@[simp] theorem State.modWell_frm (s : State) (t : TileId) (f : Well → Well) : (s.modWell t f).frm = s.frm := rfl
@[simp] theorem State.modWell_pf (s : State) (t : TileId) (f : Well → Well) : (s.modWell t f).pf = s.pf := rfl
@[simp] theorem State.modWell_fns (s : State) (t : TileId) (f : Well → Well) : (s.modWell t f).fns = s.fns := rfl
@[simp] theorem State.modWell_hst (s : State) (t : TileId) (f : Well → Well) : (s.modWell t f).hst = s.hst := rfl
@[simp] theorem State.modWell_plots (s : State) (t : TileId) (f : Well → Well) : (s.modWell t f).plots = s.plots := rfl
@[simp] theorem State.modWell_cfg (s : State) (t : TileId) (f : Well → Well) : (s.modWell t f).cfg = s.cfg := rfl
@[simp] theorem State.modWell_undo (s : State) (t : TileId) (f : Well → Well) : (s.modWell t f).undo = s.undo := rfl
@[simp] theorem State.modWell_msh (s : State) (t : TileId) (f : Well → Well) : (s.modWell t f).msh = s.msh := rfl
@[simp] theorem State.modWell_log (s : State) (t : TileId) (f : Well → Well) : (s.modWell t f).log = s.log := rfl
@[simp] theorem State.modWell_att (s : State) (t : TileId) (f : Well → Well) : (s.modWell t f).att = s.att := rfl
@[simp] theorem State.modWell_anl (s : State) (t : TileId) (f : Well → Well) : (s.modWell t f).anl = s.anl := rfl
@[simp] theorem State.modWell_lanes (s : State) (t : TileId) (f : Well → Well) : (s.modWell t f).lanes = s.lanes := rfl
@[simp] theorem State.modWell_devGraft (s : State) (t : TileId) (f : Well → Well) : (s.modWell t f).devGraft = s.devGraft := rfl
@[simp] theorem State.modWell_mxes (s : State) (t : TileId) (f : Well → Well) : (s.modWell t f).mxes = s.mxes := rfl
@[simp] theorem State.modWell_partials (s : State) (t : TileId) (f : Well → Well) : (s.modWell t f).partials = s.partials := rfl
@[simp] theorem State.modWell_devMacs (s : State) (t : TileId) (f : Well → Well) : (s.modWell t f).devMacs = s.devMacs := rfl
@[simp] theorem State.modWell_hccs (s : State) (t : TileId) (f : Well → Well) : (s.modWell t f).hccs = s.hccs := rfl
@[simp] theorem State.modWell_hccTrap (s : State) (t : TileId) (f : Well → Well) : (s.modWell t f).hccTrap = s.hccTrap := rfl
@[simp] theorem State.modWell_qces (s : State) (t : TileId) (f : Well → Well) : (s.modWell t f).qces = s.qces := rfl
@[simp] theorem State.modWell_qceBytes (s : State) (t : TileId) (f : Well → Well) : (s.modWell t f).qceBytes = s.qceBytes := rfl
@[simp] theorem State.modWell_qceTrap (s : State) (t : TileId) (f : Well → Well) : (s.modWell t f).qceTrap = s.qceTrap := rfl
@[simp] theorem State.modWell_pwr (s : State) (t : TileId) (f : Well → Well) : (s.modWell t f).pwr = s.pwr := rfl
@[simp] theorem State.modWell_skt (s : State) (t : TileId) (f : Well → Well) : (s.modWell t f).skt = s.skt := rfl
@[simp] theorem State.modWell_mem (s : State) (t : TileId) (f : Well → Well) : (s.modWell t f).mem = s.mem := rfl
@[simp] theorem State.modWell_out (s : State) (t : TileId) (f : Well → Well) : (s.modWell t f).out = s.out := rfl
@[simp] theorem State.modWell_resp (s : State) (t : TileId) (f : Well → Well) : (s.modWell t f).resp = s.resp := rfl
@[simp] theorem State.modWell_free (s : State) (t : TileId) (f : Well → Well) : (s.modWell t f).free = s.free := rfl

/-! ### modRng -/

@[simp] theorem State.modRng_pending (s : State) (q : PlotId) (f : RngSet → RngSet) : (s.modRng q f).pending = s.pending := rfl
@[simp] theorem State.modRng_boot (s : State) (q : PlotId) (f : RngSet → RngSet) : (s.modRng q f).boot = s.boot := rfl
@[simp] theorem State.modRng_aux (s : State) (q : PlotId) (f : RngSet → RngSet) : (s.modRng q f).aux = s.aux := rfl
@[simp] theorem State.modRng_fuses (s : State) (q : PlotId) (f : RngSet → RngSet) : (s.modRng q f).fuses = s.fuses := rfl
@[simp] theorem State.modRng_frm (s : State) (q : PlotId) (f : RngSet → RngSet) : (s.modRng q f).frm = s.frm := rfl
@[simp] theorem State.modRng_pf (s : State) (q : PlotId) (f : RngSet → RngSet) : (s.modRng q f).pf = s.pf := rfl
@[simp] theorem State.modRng_fns (s : State) (q : PlotId) (f : RngSet → RngSet) : (s.modRng q f).fns = s.fns := rfl
@[simp] theorem State.modRng_hst (s : State) (q : PlotId) (f : RngSet → RngSet) : (s.modRng q f).hst = s.hst := rfl
@[simp] theorem State.modRng_plots (s : State) (q : PlotId) (f : RngSet → RngSet) : (s.modRng q f).plots = s.plots := rfl
@[simp] theorem State.modRng_cfg (s : State) (q : PlotId) (f : RngSet → RngSet) : (s.modRng q f).cfg = s.cfg := rfl
@[simp] theorem State.modRng_undo (s : State) (q : PlotId) (f : RngSet → RngSet) : (s.modRng q f).undo = s.undo := rfl
@[simp] theorem State.modRng_msh (s : State) (q : PlotId) (f : RngSet → RngSet) : (s.modRng q f).msh = s.msh := rfl
@[simp] theorem State.modRng_log (s : State) (q : PlotId) (f : RngSet → RngSet) : (s.modRng q f).log = s.log := rfl
@[simp] theorem State.modRng_att (s : State) (q : PlotId) (f : RngSet → RngSet) : (s.modRng q f).att = s.att := rfl
@[simp] theorem State.modRng_anl (s : State) (q : PlotId) (f : RngSet → RngSet) : (s.modRng q f).anl = s.anl := rfl
@[simp] theorem State.modRng_lanes (s : State) (q : PlotId) (f : RngSet → RngSet) : (s.modRng q f).lanes = s.lanes := rfl
@[simp] theorem State.modRng_devGraft (s : State) (q : PlotId) (f : RngSet → RngSet) : (s.modRng q f).devGraft = s.devGraft := rfl
@[simp] theorem State.modRng_mxes (s : State) (q : PlotId) (f : RngSet → RngSet) : (s.modRng q f).mxes = s.mxes := rfl
@[simp] theorem State.modRng_partials (s : State) (q : PlotId) (f : RngSet → RngSet) : (s.modRng q f).partials = s.partials := rfl
@[simp] theorem State.modRng_devMacs (s : State) (q : PlotId) (f : RngSet → RngSet) : (s.modRng q f).devMacs = s.devMacs := rfl
@[simp] theorem State.modRng_hccs (s : State) (q : PlotId) (f : RngSet → RngSet) : (s.modRng q f).hccs = s.hccs := rfl
@[simp] theorem State.modRng_hccTrap (s : State) (q : PlotId) (f : RngSet → RngSet) : (s.modRng q f).hccTrap = s.hccTrap := rfl
@[simp] theorem State.modRng_qces (s : State) (q : PlotId) (f : RngSet → RngSet) : (s.modRng q f).qces = s.qces := rfl
@[simp] theorem State.modRng_qceBytes (s : State) (q : PlotId) (f : RngSet → RngSet) : (s.modRng q f).qceBytes = s.qceBytes := rfl
@[simp] theorem State.modRng_qceTrap (s : State) (q : PlotId) (f : RngSet → RngSet) : (s.modRng q f).qceTrap = s.qceTrap := rfl
@[simp] theorem State.modRng_pwr (s : State) (q : PlotId) (f : RngSet → RngSet) : (s.modRng q f).pwr = s.pwr := rfl
@[simp] theorem State.modRng_skt (s : State) (q : PlotId) (f : RngSet → RngSet) : (s.modRng q f).skt = s.skt := rfl
@[simp] theorem State.modRng_mem (s : State) (q : PlotId) (f : RngSet → RngSet) : (s.modRng q f).mem = s.mem := rfl
@[simp] theorem State.modRng_out (s : State) (q : PlotId) (f : RngSet → RngSet) : (s.modRng q f).out = s.out := rfl
@[simp] theorem State.modRng_resp (s : State) (q : PlotId) (f : RngSet → RngSet) : (s.modRng q f).resp = s.resp := rfl
@[simp] theorem State.modRng_free (s : State) (q : PlotId) (f : RngSet → RngSet) : (s.modRng q f).free = s.free := rfl

/-! ### modLaneOf -/

@[simp] theorem State.modLaneOf_pending (s : State) (l : LaneId) (f : FlashLane → FlashLane) : (s.modLaneOf l f).pending = s.pending := rfl
@[simp] theorem State.modLaneOf_boot (s : State) (l : LaneId) (f : FlashLane → FlashLane) : (s.modLaneOf l f).boot = s.boot := rfl
@[simp] theorem State.modLaneOf_aux (s : State) (l : LaneId) (f : FlashLane → FlashLane) : (s.modLaneOf l f).aux = s.aux := rfl
@[simp] theorem State.modLaneOf_fuses (s : State) (l : LaneId) (f : FlashLane → FlashLane) : (s.modLaneOf l f).fuses = s.fuses := rfl
@[simp] theorem State.modLaneOf_frm (s : State) (l : LaneId) (f : FlashLane → FlashLane) : (s.modLaneOf l f).frm = s.frm := rfl
@[simp] theorem State.modLaneOf_pf (s : State) (l : LaneId) (f : FlashLane → FlashLane) : (s.modLaneOf l f).pf = s.pf := rfl
@[simp] theorem State.modLaneOf_fns (s : State) (l : LaneId) (f : FlashLane → FlashLane) : (s.modLaneOf l f).fns = s.fns := rfl
@[simp] theorem State.modLaneOf_hst (s : State) (l : LaneId) (f : FlashLane → FlashLane) : (s.modLaneOf l f).hst = s.hst := rfl
@[simp] theorem State.modLaneOf_plots (s : State) (l : LaneId) (f : FlashLane → FlashLane) : (s.modLaneOf l f).plots = s.plots := rfl
@[simp] theorem State.modLaneOf_cfg (s : State) (l : LaneId) (f : FlashLane → FlashLane) : (s.modLaneOf l f).cfg = s.cfg := rfl
@[simp] theorem State.modLaneOf_undo (s : State) (l : LaneId) (f : FlashLane → FlashLane) : (s.modLaneOf l f).undo = s.undo := rfl
@[simp] theorem State.modLaneOf_msh (s : State) (l : LaneId) (f : FlashLane → FlashLane) : (s.modLaneOf l f).msh = s.msh := rfl
@[simp] theorem State.modLaneOf_log (s : State) (l : LaneId) (f : FlashLane → FlashLane) : (s.modLaneOf l f).log = s.log := rfl
@[simp] theorem State.modLaneOf_att (s : State) (l : LaneId) (f : FlashLane → FlashLane) : (s.modLaneOf l f).att = s.att := rfl
@[simp] theorem State.modLaneOf_anl (s : State) (l : LaneId) (f : FlashLane → FlashLane) : (s.modLaneOf l f).anl = s.anl := rfl
@[simp] theorem State.modLaneOf_nse (s : State) (l : LaneId) (f : FlashLane → FlashLane) : (s.modLaneOf l f).nse = s.nse := rfl
@[simp] theorem State.modLaneOf_devGraft (s : State) (l : LaneId) (f : FlashLane → FlashLane) : (s.modLaneOf l f).devGraft = s.devGraft := rfl
@[simp] theorem State.modLaneOf_mxes (s : State) (l : LaneId) (f : FlashLane → FlashLane) : (s.modLaneOf l f).mxes = s.mxes := rfl
@[simp] theorem State.modLaneOf_partials (s : State) (l : LaneId) (f : FlashLane → FlashLane) : (s.modLaneOf l f).partials = s.partials := rfl
@[simp] theorem State.modLaneOf_devMacs (s : State) (l : LaneId) (f : FlashLane → FlashLane) : (s.modLaneOf l f).devMacs = s.devMacs := rfl
@[simp] theorem State.modLaneOf_hccs (s : State) (l : LaneId) (f : FlashLane → FlashLane) : (s.modLaneOf l f).hccs = s.hccs := rfl
@[simp] theorem State.modLaneOf_hccTrap (s : State) (l : LaneId) (f : FlashLane → FlashLane) : (s.modLaneOf l f).hccTrap = s.hccTrap := rfl
@[simp] theorem State.modLaneOf_qces (s : State) (l : LaneId) (f : FlashLane → FlashLane) : (s.modLaneOf l f).qces = s.qces := rfl
@[simp] theorem State.modLaneOf_qceBytes (s : State) (l : LaneId) (f : FlashLane → FlashLane) : (s.modLaneOf l f).qceBytes = s.qceBytes := rfl
@[simp] theorem State.modLaneOf_qceTrap (s : State) (l : LaneId) (f : FlashLane → FlashLane) : (s.modLaneOf l f).qceTrap = s.qceTrap := rfl
@[simp] theorem State.modLaneOf_pwr (s : State) (l : LaneId) (f : FlashLane → FlashLane) : (s.modLaneOf l f).pwr = s.pwr := rfl
@[simp] theorem State.modLaneOf_skt (s : State) (l : LaneId) (f : FlashLane → FlashLane) : (s.modLaneOf l f).skt = s.skt := rfl
@[simp] theorem State.modLaneOf_mem (s : State) (l : LaneId) (f : FlashLane → FlashLane) : (s.modLaneOf l f).mem = s.mem := rfl
@[simp] theorem State.modLaneOf_out (s : State) (l : LaneId) (f : FlashLane → FlashLane) : (s.modLaneOf l f).out = s.out := rfl
@[simp] theorem State.modLaneOf_resp (s : State) (l : LaneId) (f : FlashLane → FlashLane) : (s.modLaneOf l f).resp = s.resp := rfl
@[simp] theorem State.modLaneOf_free (s : State) (l : LaneId) (f : FlashLane → FlashLane) : (s.modLaneOf l f).free = s.free := rfl

/-! ### modEngine -/

@[simp] theorem State.modEngine_pending (s : State) (m : MxeId) (f : MxeEngine → MxeEngine) : (s.modEngine m f).pending = s.pending := rfl
@[simp] theorem State.modEngine_boot (s : State) (m : MxeId) (f : MxeEngine → MxeEngine) : (s.modEngine m f).boot = s.boot := rfl
@[simp] theorem State.modEngine_aux (s : State) (m : MxeId) (f : MxeEngine → MxeEngine) : (s.modEngine m f).aux = s.aux := rfl
@[simp] theorem State.modEngine_fuses (s : State) (m : MxeId) (f : MxeEngine → MxeEngine) : (s.modEngine m f).fuses = s.fuses := rfl
@[simp] theorem State.modEngine_frm (s : State) (m : MxeId) (f : MxeEngine → MxeEngine) : (s.modEngine m f).frm = s.frm := rfl
@[simp] theorem State.modEngine_pf (s : State) (m : MxeId) (f : MxeEngine → MxeEngine) : (s.modEngine m f).pf = s.pf := rfl
@[simp] theorem State.modEngine_fns (s : State) (m : MxeId) (f : MxeEngine → MxeEngine) : (s.modEngine m f).fns = s.fns := rfl
@[simp] theorem State.modEngine_hst (s : State) (m : MxeId) (f : MxeEngine → MxeEngine) : (s.modEngine m f).hst = s.hst := rfl
@[simp] theorem State.modEngine_plots (s : State) (m : MxeId) (f : MxeEngine → MxeEngine) : (s.modEngine m f).plots = s.plots := rfl
@[simp] theorem State.modEngine_cfg (s : State) (m : MxeId) (f : MxeEngine → MxeEngine) : (s.modEngine m f).cfg = s.cfg := rfl
@[simp] theorem State.modEngine_undo (s : State) (m : MxeId) (f : MxeEngine → MxeEngine) : (s.modEngine m f).undo = s.undo := rfl
@[simp] theorem State.modEngine_msh (s : State) (m : MxeId) (f : MxeEngine → MxeEngine) : (s.modEngine m f).msh = s.msh := rfl
@[simp] theorem State.modEngine_log (s : State) (m : MxeId) (f : MxeEngine → MxeEngine) : (s.modEngine m f).log = s.log := rfl
@[simp] theorem State.modEngine_att (s : State) (m : MxeId) (f : MxeEngine → MxeEngine) : (s.modEngine m f).att = s.att := rfl
@[simp] theorem State.modEngine_anl (s : State) (m : MxeId) (f : MxeEngine → MxeEngine) : (s.modEngine m f).anl = s.anl := rfl
@[simp] theorem State.modEngine_nse (s : State) (m : MxeId) (f : MxeEngine → MxeEngine) : (s.modEngine m f).nse = s.nse := rfl
@[simp] theorem State.modEngine_lanes (s : State) (m : MxeId) (f : MxeEngine → MxeEngine) : (s.modEngine m f).lanes = s.lanes := rfl
@[simp] theorem State.modEngine_devGraft (s : State) (m : MxeId) (f : MxeEngine → MxeEngine) : (s.modEngine m f).devGraft = s.devGraft := rfl
@[simp] theorem State.modEngine_partials (s : State) (m : MxeId) (f : MxeEngine → MxeEngine) : (s.modEngine m f).partials = s.partials := rfl
@[simp] theorem State.modEngine_devMacs (s : State) (m : MxeId) (f : MxeEngine → MxeEngine) : (s.modEngine m f).devMacs = s.devMacs := rfl
@[simp] theorem State.modEngine_hccs (s : State) (m : MxeId) (f : MxeEngine → MxeEngine) : (s.modEngine m f).hccs = s.hccs := rfl
@[simp] theorem State.modEngine_hccTrap (s : State) (m : MxeId) (f : MxeEngine → MxeEngine) : (s.modEngine m f).hccTrap = s.hccTrap := rfl
@[simp] theorem State.modEngine_qces (s : State) (m : MxeId) (f : MxeEngine → MxeEngine) : (s.modEngine m f).qces = s.qces := rfl
@[simp] theorem State.modEngine_qceBytes (s : State) (m : MxeId) (f : MxeEngine → MxeEngine) : (s.modEngine m f).qceBytes = s.qceBytes := rfl
@[simp] theorem State.modEngine_qceTrap (s : State) (m : MxeId) (f : MxeEngine → MxeEngine) : (s.modEngine m f).qceTrap = s.qceTrap := rfl
@[simp] theorem State.modEngine_pwr (s : State) (m : MxeId) (f : MxeEngine → MxeEngine) : (s.modEngine m f).pwr = s.pwr := rfl
@[simp] theorem State.modEngine_skt (s : State) (m : MxeId) (f : MxeEngine → MxeEngine) : (s.modEngine m f).skt = s.skt := rfl
@[simp] theorem State.modEngine_mem (s : State) (m : MxeId) (f : MxeEngine → MxeEngine) : (s.modEngine m f).mem = s.mem := rfl
@[simp] theorem State.modEngine_out (s : State) (m : MxeId) (f : MxeEngine → MxeEngine) : (s.modEngine m f).out = s.out := rfl
@[simp] theorem State.modEngine_resp (s : State) (m : MxeId) (f : MxeEngine → MxeEngine) : (s.modEngine m f).resp = s.resp := rfl
@[simp] theorem State.modEngine_free (s : State) (m : MxeId) (f : MxeEngine → MxeEngine) : (s.modEngine m f).free = s.free := rfl

/-! ### modQce -/

@[simp] theorem State.modQce_pending (s : State) (n : QceId) (f : QceEngine → QceEngine) : (s.modQce n f).pending = s.pending := rfl
@[simp] theorem State.modQce_boot (s : State) (n : QceId) (f : QceEngine → QceEngine) : (s.modQce n f).boot = s.boot := rfl
@[simp] theorem State.modQce_aux (s : State) (n : QceId) (f : QceEngine → QceEngine) : (s.modQce n f).aux = s.aux := rfl
@[simp] theorem State.modQce_fuses (s : State) (n : QceId) (f : QceEngine → QceEngine) : (s.modQce n f).fuses = s.fuses := rfl
@[simp] theorem State.modQce_frm (s : State) (n : QceId) (f : QceEngine → QceEngine) : (s.modQce n f).frm = s.frm := rfl
@[simp] theorem State.modQce_pf (s : State) (n : QceId) (f : QceEngine → QceEngine) : (s.modQce n f).pf = s.pf := rfl
@[simp] theorem State.modQce_fns (s : State) (n : QceId) (f : QceEngine → QceEngine) : (s.modQce n f).fns = s.fns := rfl
@[simp] theorem State.modQce_hst (s : State) (n : QceId) (f : QceEngine → QceEngine) : (s.modQce n f).hst = s.hst := rfl
@[simp] theorem State.modQce_plots (s : State) (n : QceId) (f : QceEngine → QceEngine) : (s.modQce n f).plots = s.plots := rfl
@[simp] theorem State.modQce_cfg (s : State) (n : QceId) (f : QceEngine → QceEngine) : (s.modQce n f).cfg = s.cfg := rfl
@[simp] theorem State.modQce_undo (s : State) (n : QceId) (f : QceEngine → QceEngine) : (s.modQce n f).undo = s.undo := rfl
@[simp] theorem State.modQce_msh (s : State) (n : QceId) (f : QceEngine → QceEngine) : (s.modQce n f).msh = s.msh := rfl
@[simp] theorem State.modQce_log (s : State) (n : QceId) (f : QceEngine → QceEngine) : (s.modQce n f).log = s.log := rfl
@[simp] theorem State.modQce_att (s : State) (n : QceId) (f : QceEngine → QceEngine) : (s.modQce n f).att = s.att := rfl
@[simp] theorem State.modQce_anl (s : State) (n : QceId) (f : QceEngine → QceEngine) : (s.modQce n f).anl = s.anl := rfl
@[simp] theorem State.modQce_nse (s : State) (n : QceId) (f : QceEngine → QceEngine) : (s.modQce n f).nse = s.nse := rfl
@[simp] theorem State.modQce_lanes (s : State) (n : QceId) (f : QceEngine → QceEngine) : (s.modQce n f).lanes = s.lanes := rfl
@[simp] theorem State.modQce_devGraft (s : State) (n : QceId) (f : QceEngine → QceEngine) : (s.modQce n f).devGraft = s.devGraft := rfl
@[simp] theorem State.modQce_mxes (s : State) (n : QceId) (f : QceEngine → QceEngine) : (s.modQce n f).mxes = s.mxes := rfl
@[simp] theorem State.modQce_partials (s : State) (n : QceId) (f : QceEngine → QceEngine) : (s.modQce n f).partials = s.partials := rfl
@[simp] theorem State.modQce_devMacs (s : State) (n : QceId) (f : QceEngine → QceEngine) : (s.modQce n f).devMacs = s.devMacs := rfl
@[simp] theorem State.modQce_hccs (s : State) (n : QceId) (f : QceEngine → QceEngine) : (s.modQce n f).hccs = s.hccs := rfl
@[simp] theorem State.modQce_hccTrap (s : State) (n : QceId) (f : QceEngine → QceEngine) : (s.modQce n f).hccTrap = s.hccTrap := rfl
@[simp] theorem State.modQce_qceBytes (s : State) (n : QceId) (f : QceEngine → QceEngine) : (s.modQce n f).qceBytes = s.qceBytes := rfl
@[simp] theorem State.modQce_qceTrap (s : State) (n : QceId) (f : QceEngine → QceEngine) : (s.modQce n f).qceTrap = s.qceTrap := rfl
@[simp] theorem State.modQce_pwr (s : State) (n : QceId) (f : QceEngine → QceEngine) : (s.modQce n f).pwr = s.pwr := rfl
@[simp] theorem State.modQce_skt (s : State) (n : QceId) (f : QceEngine → QceEngine) : (s.modQce n f).skt = s.skt := rfl
@[simp] theorem State.modQce_mem (s : State) (n : QceId) (f : QceEngine → QceEngine) : (s.modQce n f).mem = s.mem := rfl
@[simp] theorem State.modQce_out (s : State) (n : QceId) (f : QceEngine → QceEngine) : (s.modQce n f).out = s.out := rfl
@[simp] theorem State.modQce_resp (s : State) (n : QceId) (f : QceEngine → QceEngine) : (s.modQce n f).resp = s.resp := rfl
@[simp] theorem State.modQce_free (s : State) (n : QceId) (f : QceEngine → QceEngine) : (s.modQce n f).free = s.free := rfl

/-! ### modPwr -/

@[simp] theorem State.modPwr_pending (s : State) (f : PwrState → PwrState) : (s.modPwr f).pending = s.pending := rfl
@[simp] theorem State.modPwr_boot (s : State) (f : PwrState → PwrState) : (s.modPwr f).boot = s.boot := rfl
@[simp] theorem State.modPwr_aux (s : State) (f : PwrState → PwrState) : (s.modPwr f).aux = s.aux := rfl
@[simp] theorem State.modPwr_fuses (s : State) (f : PwrState → PwrState) : (s.modPwr f).fuses = s.fuses := rfl
@[simp] theorem State.modPwr_frm (s : State) (f : PwrState → PwrState) : (s.modPwr f).frm = s.frm := rfl
@[simp] theorem State.modPwr_pf (s : State) (f : PwrState → PwrState) : (s.modPwr f).pf = s.pf := rfl
@[simp] theorem State.modPwr_fns (s : State) (f : PwrState → PwrState) : (s.modPwr f).fns = s.fns := rfl
@[simp] theorem State.modPwr_hst (s : State) (f : PwrState → PwrState) : (s.modPwr f).hst = s.hst := rfl
@[simp] theorem State.modPwr_plots (s : State) (f : PwrState → PwrState) : (s.modPwr f).plots = s.plots := rfl
@[simp] theorem State.modPwr_cfg (s : State) (f : PwrState → PwrState) : (s.modPwr f).cfg = s.cfg := rfl
@[simp] theorem State.modPwr_undo (s : State) (f : PwrState → PwrState) : (s.modPwr f).undo = s.undo := rfl
@[simp] theorem State.modPwr_msh (s : State) (f : PwrState → PwrState) : (s.modPwr f).msh = s.msh := rfl
@[simp] theorem State.modPwr_log (s : State) (f : PwrState → PwrState) : (s.modPwr f).log = s.log := rfl
@[simp] theorem State.modPwr_att (s : State) (f : PwrState → PwrState) : (s.modPwr f).att = s.att := rfl
@[simp] theorem State.modPwr_anl (s : State) (f : PwrState → PwrState) : (s.modPwr f).anl = s.anl := rfl
@[simp] theorem State.modPwr_nse (s : State) (f : PwrState → PwrState) : (s.modPwr f).nse = s.nse := rfl
@[simp] theorem State.modPwr_lanes (s : State) (f : PwrState → PwrState) : (s.modPwr f).lanes = s.lanes := rfl
@[simp] theorem State.modPwr_devGraft (s : State) (f : PwrState → PwrState) : (s.modPwr f).devGraft = s.devGraft := rfl
@[simp] theorem State.modPwr_mxes (s : State) (f : PwrState → PwrState) : (s.modPwr f).mxes = s.mxes := rfl
@[simp] theorem State.modPwr_partials (s : State) (f : PwrState → PwrState) : (s.modPwr f).partials = s.partials := rfl
@[simp] theorem State.modPwr_devMacs (s : State) (f : PwrState → PwrState) : (s.modPwr f).devMacs = s.devMacs := rfl
@[simp] theorem State.modPwr_hccs (s : State) (f : PwrState → PwrState) : (s.modPwr f).hccs = s.hccs := rfl
@[simp] theorem State.modPwr_hccTrap (s : State) (f : PwrState → PwrState) : (s.modPwr f).hccTrap = s.hccTrap := rfl
@[simp] theorem State.modPwr_qces (s : State) (f : PwrState → PwrState) : (s.modPwr f).qces = s.qces := rfl
@[simp] theorem State.modPwr_qceBytes (s : State) (f : PwrState → PwrState) : (s.modPwr f).qceBytes = s.qceBytes := rfl
@[simp] theorem State.modPwr_qceTrap (s : State) (f : PwrState → PwrState) : (s.modPwr f).qceTrap = s.qceTrap := rfl
@[simp] theorem State.modPwr_skt (s : State) (f : PwrState → PwrState) : (s.modPwr f).skt = s.skt := rfl
@[simp] theorem State.modPwr_mem (s : State) (f : PwrState → PwrState) : (s.modPwr f).mem = s.mem := rfl
@[simp] theorem State.modPwr_out (s : State) (f : PwrState → PwrState) : (s.modPwr f).out = s.out := rfl
@[simp] theorem State.modPwr_resp (s : State) (f : PwrState → PwrState) : (s.modPwr f).resp = s.resp := rfl
@[simp] theorem State.modPwr_free (s : State) (f : PwrState → PwrState) : (s.modPwr f).free = s.free := rfl

/-! ### modRail -/

@[simp] theorem State.modRail_pending (s : State) (r : Fin 5) (f : PwrRail → PwrRail) : (s.modRail r f).pending = s.pending := rfl
@[simp] theorem State.modRail_boot (s : State) (r : Fin 5) (f : PwrRail → PwrRail) : (s.modRail r f).boot = s.boot := rfl
@[simp] theorem State.modRail_aux (s : State) (r : Fin 5) (f : PwrRail → PwrRail) : (s.modRail r f).aux = s.aux := rfl
@[simp] theorem State.modRail_fuses (s : State) (r : Fin 5) (f : PwrRail → PwrRail) : (s.modRail r f).fuses = s.fuses := rfl
@[simp] theorem State.modRail_frm (s : State) (r : Fin 5) (f : PwrRail → PwrRail) : (s.modRail r f).frm = s.frm := rfl
@[simp] theorem State.modRail_pf (s : State) (r : Fin 5) (f : PwrRail → PwrRail) : (s.modRail r f).pf = s.pf := rfl
@[simp] theorem State.modRail_fns (s : State) (r : Fin 5) (f : PwrRail → PwrRail) : (s.modRail r f).fns = s.fns := rfl
@[simp] theorem State.modRail_hst (s : State) (r : Fin 5) (f : PwrRail → PwrRail) : (s.modRail r f).hst = s.hst := rfl
@[simp] theorem State.modRail_plots (s : State) (r : Fin 5) (f : PwrRail → PwrRail) : (s.modRail r f).plots = s.plots := rfl
@[simp] theorem State.modRail_cfg (s : State) (r : Fin 5) (f : PwrRail → PwrRail) : (s.modRail r f).cfg = s.cfg := rfl
@[simp] theorem State.modRail_undo (s : State) (r : Fin 5) (f : PwrRail → PwrRail) : (s.modRail r f).undo = s.undo := rfl
@[simp] theorem State.modRail_msh (s : State) (r : Fin 5) (f : PwrRail → PwrRail) : (s.modRail r f).msh = s.msh := rfl
@[simp] theorem State.modRail_log (s : State) (r : Fin 5) (f : PwrRail → PwrRail) : (s.modRail r f).log = s.log := rfl
@[simp] theorem State.modRail_att (s : State) (r : Fin 5) (f : PwrRail → PwrRail) : (s.modRail r f).att = s.att := rfl
@[simp] theorem State.modRail_anl (s : State) (r : Fin 5) (f : PwrRail → PwrRail) : (s.modRail r f).anl = s.anl := rfl
@[simp] theorem State.modRail_nse (s : State) (r : Fin 5) (f : PwrRail → PwrRail) : (s.modRail r f).nse = s.nse := rfl
@[simp] theorem State.modRail_lanes (s : State) (r : Fin 5) (f : PwrRail → PwrRail) : (s.modRail r f).lanes = s.lanes := rfl
@[simp] theorem State.modRail_devGraft (s : State) (r : Fin 5) (f : PwrRail → PwrRail) : (s.modRail r f).devGraft = s.devGraft := rfl
@[simp] theorem State.modRail_mxes (s : State) (r : Fin 5) (f : PwrRail → PwrRail) : (s.modRail r f).mxes = s.mxes := rfl
@[simp] theorem State.modRail_partials (s : State) (r : Fin 5) (f : PwrRail → PwrRail) : (s.modRail r f).partials = s.partials := rfl
@[simp] theorem State.modRail_devMacs (s : State) (r : Fin 5) (f : PwrRail → PwrRail) : (s.modRail r f).devMacs = s.devMacs := rfl
@[simp] theorem State.modRail_hccs (s : State) (r : Fin 5) (f : PwrRail → PwrRail) : (s.modRail r f).hccs = s.hccs := rfl
@[simp] theorem State.modRail_hccTrap (s : State) (r : Fin 5) (f : PwrRail → PwrRail) : (s.modRail r f).hccTrap = s.hccTrap := rfl
@[simp] theorem State.modRail_qces (s : State) (r : Fin 5) (f : PwrRail → PwrRail) : (s.modRail r f).qces = s.qces := rfl
@[simp] theorem State.modRail_qceBytes (s : State) (r : Fin 5) (f : PwrRail → PwrRail) : (s.modRail r f).qceBytes = s.qceBytes := rfl
@[simp] theorem State.modRail_qceTrap (s : State) (r : Fin 5) (f : PwrRail → PwrRail) : (s.modRail r f).qceTrap = s.qceTrap := rfl
@[simp] theorem State.modRail_skt (s : State) (r : Fin 5) (f : PwrRail → PwrRail) : (s.modRail r f).skt = s.skt := rfl
@[simp] theorem State.modRail_mem (s : State) (r : Fin 5) (f : PwrRail → PwrRail) : (s.modRail r f).mem = s.mem := rfl
@[simp] theorem State.modRail_out (s : State) (r : Fin 5) (f : PwrRail → PwrRail) : (s.modRail r f).out = s.out := rfl
@[simp] theorem State.modRail_resp (s : State) (r : Fin 5) (f : PwrRail → PwrRail) : (s.modRail r f).resp = s.resp := rfl
@[simp] theorem State.modRail_free (s : State) (r : Fin 5) (f : PwrRail → PwrRail) : (s.modRail r f).free = s.free := rfl

/-! ### modSkt -/

@[simp] theorem State.modSkt_pending (s : State) (f : SktState → SktState) : (s.modSkt f).pending = s.pending := rfl
@[simp] theorem State.modSkt_boot (s : State) (f : SktState → SktState) : (s.modSkt f).boot = s.boot := rfl
@[simp] theorem State.modSkt_aux (s : State) (f : SktState → SktState) : (s.modSkt f).aux = s.aux := rfl
@[simp] theorem State.modSkt_fuses (s : State) (f : SktState → SktState) : (s.modSkt f).fuses = s.fuses := rfl
@[simp] theorem State.modSkt_frm (s : State) (f : SktState → SktState) : (s.modSkt f).frm = s.frm := rfl
@[simp] theorem State.modSkt_pf (s : State) (f : SktState → SktState) : (s.modSkt f).pf = s.pf := rfl
@[simp] theorem State.modSkt_fns (s : State) (f : SktState → SktState) : (s.modSkt f).fns = s.fns := rfl
@[simp] theorem State.modSkt_hst (s : State) (f : SktState → SktState) : (s.modSkt f).hst = s.hst := rfl
@[simp] theorem State.modSkt_plots (s : State) (f : SktState → SktState) : (s.modSkt f).plots = s.plots := rfl
@[simp] theorem State.modSkt_cfg (s : State) (f : SktState → SktState) : (s.modSkt f).cfg = s.cfg := rfl
@[simp] theorem State.modSkt_undo (s : State) (f : SktState → SktState) : (s.modSkt f).undo = s.undo := rfl
@[simp] theorem State.modSkt_msh (s : State) (f : SktState → SktState) : (s.modSkt f).msh = s.msh := rfl
@[simp] theorem State.modSkt_log (s : State) (f : SktState → SktState) : (s.modSkt f).log = s.log := rfl
@[simp] theorem State.modSkt_att (s : State) (f : SktState → SktState) : (s.modSkt f).att = s.att := rfl
@[simp] theorem State.modSkt_anl (s : State) (f : SktState → SktState) : (s.modSkt f).anl = s.anl := rfl
@[simp] theorem State.modSkt_nse (s : State) (f : SktState → SktState) : (s.modSkt f).nse = s.nse := rfl
@[simp] theorem State.modSkt_lanes (s : State) (f : SktState → SktState) : (s.modSkt f).lanes = s.lanes := rfl
@[simp] theorem State.modSkt_devGraft (s : State) (f : SktState → SktState) : (s.modSkt f).devGraft = s.devGraft := rfl
@[simp] theorem State.modSkt_mxes (s : State) (f : SktState → SktState) : (s.modSkt f).mxes = s.mxes := rfl
@[simp] theorem State.modSkt_partials (s : State) (f : SktState → SktState) : (s.modSkt f).partials = s.partials := rfl
@[simp] theorem State.modSkt_devMacs (s : State) (f : SktState → SktState) : (s.modSkt f).devMacs = s.devMacs := rfl
@[simp] theorem State.modSkt_hccs (s : State) (f : SktState → SktState) : (s.modSkt f).hccs = s.hccs := rfl
@[simp] theorem State.modSkt_hccTrap (s : State) (f : SktState → SktState) : (s.modSkt f).hccTrap = s.hccTrap := rfl
@[simp] theorem State.modSkt_qces (s : State) (f : SktState → SktState) : (s.modSkt f).qces = s.qces := rfl
@[simp] theorem State.modSkt_qceBytes (s : State) (f : SktState → SktState) : (s.modSkt f).qceBytes = s.qceBytes := rfl
@[simp] theorem State.modSkt_qceTrap (s : State) (f : SktState → SktState) : (s.modSkt f).qceTrap = s.qceTrap := rfl
@[simp] theorem State.modSkt_pwr (s : State) (f : SktState → SktState) : (s.modSkt f).pwr = s.pwr := rfl
@[simp] theorem State.modSkt_mem (s : State) (f : SktState → SktState) : (s.modSkt f).mem = s.mem := rfl
@[simp] theorem State.modSkt_out (s : State) (f : SktState → SktState) : (s.modSkt f).out = s.out := rfl
@[simp] theorem State.modSkt_resp (s : State) (f : SktState → SktState) : (s.modSkt f).resp = s.resp := rfl
@[simp] theorem State.modSkt_free (s : State) (f : SktState → SktState) : (s.modSkt f).free = s.free := rfl

/-! ### modCage -/

@[simp] theorem State.modCage_pending (s : State) (c : Fin 2) (f : SktCage → SktCage) : (s.modCage c f).pending = s.pending := rfl
@[simp] theorem State.modCage_boot (s : State) (c : Fin 2) (f : SktCage → SktCage) : (s.modCage c f).boot = s.boot := rfl
@[simp] theorem State.modCage_aux (s : State) (c : Fin 2) (f : SktCage → SktCage) : (s.modCage c f).aux = s.aux := rfl
@[simp] theorem State.modCage_fuses (s : State) (c : Fin 2) (f : SktCage → SktCage) : (s.modCage c f).fuses = s.fuses := rfl
@[simp] theorem State.modCage_frm (s : State) (c : Fin 2) (f : SktCage → SktCage) : (s.modCage c f).frm = s.frm := rfl
@[simp] theorem State.modCage_pf (s : State) (c : Fin 2) (f : SktCage → SktCage) : (s.modCage c f).pf = s.pf := rfl
@[simp] theorem State.modCage_fns (s : State) (c : Fin 2) (f : SktCage → SktCage) : (s.modCage c f).fns = s.fns := rfl
@[simp] theorem State.modCage_hst (s : State) (c : Fin 2) (f : SktCage → SktCage) : (s.modCage c f).hst = s.hst := rfl
@[simp] theorem State.modCage_plots (s : State) (c : Fin 2) (f : SktCage → SktCage) : (s.modCage c f).plots = s.plots := rfl
@[simp] theorem State.modCage_cfg (s : State) (c : Fin 2) (f : SktCage → SktCage) : (s.modCage c f).cfg = s.cfg := rfl
@[simp] theorem State.modCage_undo (s : State) (c : Fin 2) (f : SktCage → SktCage) : (s.modCage c f).undo = s.undo := rfl
@[simp] theorem State.modCage_msh (s : State) (c : Fin 2) (f : SktCage → SktCage) : (s.modCage c f).msh = s.msh := rfl
@[simp] theorem State.modCage_log (s : State) (c : Fin 2) (f : SktCage → SktCage) : (s.modCage c f).log = s.log := rfl
@[simp] theorem State.modCage_att (s : State) (c : Fin 2) (f : SktCage → SktCage) : (s.modCage c f).att = s.att := rfl
@[simp] theorem State.modCage_anl (s : State) (c : Fin 2) (f : SktCage → SktCage) : (s.modCage c f).anl = s.anl := rfl
@[simp] theorem State.modCage_nse (s : State) (c : Fin 2) (f : SktCage → SktCage) : (s.modCage c f).nse = s.nse := rfl
@[simp] theorem State.modCage_lanes (s : State) (c : Fin 2) (f : SktCage → SktCage) : (s.modCage c f).lanes = s.lanes := rfl
@[simp] theorem State.modCage_devGraft (s : State) (c : Fin 2) (f : SktCage → SktCage) : (s.modCage c f).devGraft = s.devGraft := rfl
@[simp] theorem State.modCage_mxes (s : State) (c : Fin 2) (f : SktCage → SktCage) : (s.modCage c f).mxes = s.mxes := rfl
@[simp] theorem State.modCage_partials (s : State) (c : Fin 2) (f : SktCage → SktCage) : (s.modCage c f).partials = s.partials := rfl
@[simp] theorem State.modCage_devMacs (s : State) (c : Fin 2) (f : SktCage → SktCage) : (s.modCage c f).devMacs = s.devMacs := rfl
@[simp] theorem State.modCage_hccs (s : State) (c : Fin 2) (f : SktCage → SktCage) : (s.modCage c f).hccs = s.hccs := rfl
@[simp] theorem State.modCage_hccTrap (s : State) (c : Fin 2) (f : SktCage → SktCage) : (s.modCage c f).hccTrap = s.hccTrap := rfl
@[simp] theorem State.modCage_qces (s : State) (c : Fin 2) (f : SktCage → SktCage) : (s.modCage c f).qces = s.qces := rfl
@[simp] theorem State.modCage_qceBytes (s : State) (c : Fin 2) (f : SktCage → SktCage) : (s.modCage c f).qceBytes = s.qceBytes := rfl
@[simp] theorem State.modCage_qceTrap (s : State) (c : Fin 2) (f : SktCage → SktCage) : (s.modCage c f).qceTrap = s.qceTrap := rfl
@[simp] theorem State.modCage_pwr (s : State) (c : Fin 2) (f : SktCage → SktCage) : (s.modCage c f).pwr = s.pwr := rfl
@[simp] theorem State.modCage_mem (s : State) (c : Fin 2) (f : SktCage → SktCage) : (s.modCage c f).mem = s.mem := rfl
@[simp] theorem State.modCage_out (s : State) (c : Fin 2) (f : SktCage → SktCage) : (s.modCage c f).out = s.out := rfl
@[simp] theorem State.modCage_resp (s : State) (c : Fin 2) (f : SktCage → SktCage) : (s.modCage c f).resp = s.resp := rfl
@[simp] theorem State.modCage_free (s : State) (c : Fin 2) (f : SktCage → SktCage) : (s.modCage c f).free = s.free := rfl

/-! ### modEntry -/

@[simp] theorem State.modEntry_pending (s : State) (no : Nat) (f : SktEntry → SktEntry) : (s.modEntry no f).pending = s.pending := rfl
@[simp] theorem State.modEntry_boot (s : State) (no : Nat) (f : SktEntry → SktEntry) : (s.modEntry no f).boot = s.boot := rfl
@[simp] theorem State.modEntry_aux (s : State) (no : Nat) (f : SktEntry → SktEntry) : (s.modEntry no f).aux = s.aux := rfl
@[simp] theorem State.modEntry_fuses (s : State) (no : Nat) (f : SktEntry → SktEntry) : (s.modEntry no f).fuses = s.fuses := rfl
@[simp] theorem State.modEntry_frm (s : State) (no : Nat) (f : SktEntry → SktEntry) : (s.modEntry no f).frm = s.frm := rfl
@[simp] theorem State.modEntry_pf (s : State) (no : Nat) (f : SktEntry → SktEntry) : (s.modEntry no f).pf = s.pf := rfl
@[simp] theorem State.modEntry_fns (s : State) (no : Nat) (f : SktEntry → SktEntry) : (s.modEntry no f).fns = s.fns := rfl
@[simp] theorem State.modEntry_hst (s : State) (no : Nat) (f : SktEntry → SktEntry) : (s.modEntry no f).hst = s.hst := rfl
@[simp] theorem State.modEntry_plots (s : State) (no : Nat) (f : SktEntry → SktEntry) : (s.modEntry no f).plots = s.plots := rfl
@[simp] theorem State.modEntry_cfg (s : State) (no : Nat) (f : SktEntry → SktEntry) : (s.modEntry no f).cfg = s.cfg := rfl
@[simp] theorem State.modEntry_undo (s : State) (no : Nat) (f : SktEntry → SktEntry) : (s.modEntry no f).undo = s.undo := rfl
@[simp] theorem State.modEntry_msh (s : State) (no : Nat) (f : SktEntry → SktEntry) : (s.modEntry no f).msh = s.msh := rfl
@[simp] theorem State.modEntry_log (s : State) (no : Nat) (f : SktEntry → SktEntry) : (s.modEntry no f).log = s.log := rfl
@[simp] theorem State.modEntry_att (s : State) (no : Nat) (f : SktEntry → SktEntry) : (s.modEntry no f).att = s.att := rfl
@[simp] theorem State.modEntry_anl (s : State) (no : Nat) (f : SktEntry → SktEntry) : (s.modEntry no f).anl = s.anl := rfl
@[simp] theorem State.modEntry_nse (s : State) (no : Nat) (f : SktEntry → SktEntry) : (s.modEntry no f).nse = s.nse := rfl
@[simp] theorem State.modEntry_lanes (s : State) (no : Nat) (f : SktEntry → SktEntry) : (s.modEntry no f).lanes = s.lanes := rfl
@[simp] theorem State.modEntry_devGraft (s : State) (no : Nat) (f : SktEntry → SktEntry) : (s.modEntry no f).devGraft = s.devGraft := rfl
@[simp] theorem State.modEntry_mxes (s : State) (no : Nat) (f : SktEntry → SktEntry) : (s.modEntry no f).mxes = s.mxes := rfl
@[simp] theorem State.modEntry_partials (s : State) (no : Nat) (f : SktEntry → SktEntry) : (s.modEntry no f).partials = s.partials := rfl
@[simp] theorem State.modEntry_devMacs (s : State) (no : Nat) (f : SktEntry → SktEntry) : (s.modEntry no f).devMacs = s.devMacs := rfl
@[simp] theorem State.modEntry_hccs (s : State) (no : Nat) (f : SktEntry → SktEntry) : (s.modEntry no f).hccs = s.hccs := rfl
@[simp] theorem State.modEntry_hccTrap (s : State) (no : Nat) (f : SktEntry → SktEntry) : (s.modEntry no f).hccTrap = s.hccTrap := rfl
@[simp] theorem State.modEntry_qces (s : State) (no : Nat) (f : SktEntry → SktEntry) : (s.modEntry no f).qces = s.qces := rfl
@[simp] theorem State.modEntry_qceBytes (s : State) (no : Nat) (f : SktEntry → SktEntry) : (s.modEntry no f).qceBytes = s.qceBytes := rfl
@[simp] theorem State.modEntry_qceTrap (s : State) (no : Nat) (f : SktEntry → SktEntry) : (s.modEntry no f).qceTrap = s.qceTrap := rfl
@[simp] theorem State.modEntry_pwr (s : State) (no : Nat) (f : SktEntry → SktEntry) : (s.modEntry no f).pwr = s.pwr := rfl
@[simp] theorem State.modEntry_mem (s : State) (no : Nat) (f : SktEntry → SktEntry) : (s.modEntry no f).mem = s.mem := rfl
@[simp] theorem State.modEntry_out (s : State) (no : Nat) (f : SktEntry → SktEntry) : (s.modEntry no f).out = s.out := rfl
@[simp] theorem State.modEntry_resp (s : State) (no : Nat) (f : SktEntry → SktEntry) : (s.modEntry no f).resp = s.resp := rfl
@[simp] theorem State.modEntry_free (s : State) (no : Nat) (f : SktEntry → SktEntry) : (s.modEntry no f).free = s.free := rfl

/-! ### advanceTo -/

@[simp] theorem State.advanceTo_pending (s : State) (t : Nat) : (s.advanceTo t).pending = s.pending := rfl
@[simp] theorem State.advanceTo_aux (s : State) (t : Nat) : (s.advanceTo t).aux = s.aux := rfl
@[simp] theorem State.advanceTo_fuses (s : State) (t : Nat) : (s.advanceTo t).fuses = s.fuses := rfl
@[simp] theorem State.advanceTo_frm (s : State) (t : Nat) : (s.advanceTo t).frm = s.frm := rfl
@[simp] theorem State.advanceTo_pf (s : State) (t : Nat) : (s.advanceTo t).pf = s.pf := rfl
@[simp] theorem State.advanceTo_fns (s : State) (t : Nat) : (s.advanceTo t).fns = s.fns := rfl
@[simp] theorem State.advanceTo_hst (s : State) (t : Nat) : (s.advanceTo t).hst = s.hst := rfl
@[simp] theorem State.advanceTo_plots (s : State) (t : Nat) : (s.advanceTo t).plots = s.plots := rfl
@[simp] theorem State.advanceTo_cfg (s : State) (t : Nat) : (s.advanceTo t).cfg = s.cfg := rfl
@[simp] theorem State.advanceTo_undo (s : State) (t : Nat) : (s.advanceTo t).undo = s.undo := rfl
@[simp] theorem State.advanceTo_msh (s : State) (t : Nat) : (s.advanceTo t).msh = s.msh := rfl
@[simp] theorem State.advanceTo_log (s : State) (t : Nat) : (s.advanceTo t).log = s.log := rfl
@[simp] theorem State.advanceTo_att (s : State) (t : Nat) : (s.advanceTo t).att = s.att := rfl
@[simp] theorem State.advanceTo_anl (s : State) (t : Nat) : (s.advanceTo t).anl = s.anl := rfl
@[simp] theorem State.advanceTo_nse (s : State) (t : Nat) : (s.advanceTo t).nse = s.nse := rfl
@[simp] theorem State.advanceTo_lanes (s : State) (t : Nat) : (s.advanceTo t).lanes = s.lanes := rfl
@[simp] theorem State.advanceTo_devGraft (s : State) (t : Nat) : (s.advanceTo t).devGraft = s.devGraft := rfl
@[simp] theorem State.advanceTo_mxes (s : State) (t : Nat) : (s.advanceTo t).mxes = s.mxes := rfl
@[simp] theorem State.advanceTo_partials (s : State) (t : Nat) : (s.advanceTo t).partials = s.partials := rfl
@[simp] theorem State.advanceTo_devMacs (s : State) (t : Nat) : (s.advanceTo t).devMacs = s.devMacs := rfl
@[simp] theorem State.advanceTo_hccs (s : State) (t : Nat) : (s.advanceTo t).hccs = s.hccs := rfl
@[simp] theorem State.advanceTo_hccTrap (s : State) (t : Nat) : (s.advanceTo t).hccTrap = s.hccTrap := rfl
@[simp] theorem State.advanceTo_qces (s : State) (t : Nat) : (s.advanceTo t).qces = s.qces := rfl
@[simp] theorem State.advanceTo_qceBytes (s : State) (t : Nat) : (s.advanceTo t).qceBytes = s.qceBytes := rfl
@[simp] theorem State.advanceTo_qceTrap (s : State) (t : Nat) : (s.advanceTo t).qceTrap = s.qceTrap := rfl
@[simp] theorem State.advanceTo_pwr (s : State) (t : Nat) : (s.advanceTo t).pwr = s.pwr := rfl
@[simp] theorem State.advanceTo_skt (s : State) (t : Nat) : (s.advanceTo t).skt = s.skt := rfl
@[simp] theorem State.advanceTo_mem (s : State) (t : Nat) : (s.advanceTo t).mem = s.mem := rfl
@[simp] theorem State.advanceTo_out (s : State) (t : Nat) : (s.advanceTo t).out = s.out := rfl
@[simp] theorem State.advanceTo_resp (s : State) (t : Nat) : (s.advanceTo t).resp = s.resp := rfl
@[simp] theorem State.advanceTo_free (s : State) (t : Nat) : (s.advanceTo t).free = s.free := rfl

/-! ### emit -/

@[simp] theorem State.emit_pending (s : State) (e : OutEvent) : (s.emit e).pending = s.pending := rfl
@[simp] theorem State.emit_boot (s : State) (e : OutEvent) : (s.emit e).boot = s.boot := rfl
@[simp] theorem State.emit_aux (s : State) (e : OutEvent) : (s.emit e).aux = s.aux := rfl
@[simp] theorem State.emit_fuses (s : State) (e : OutEvent) : (s.emit e).fuses = s.fuses := rfl
@[simp] theorem State.emit_frm (s : State) (e : OutEvent) : (s.emit e).frm = s.frm := rfl
@[simp] theorem State.emit_pf (s : State) (e : OutEvent) : (s.emit e).pf = s.pf := rfl
@[simp] theorem State.emit_fns (s : State) (e : OutEvent) : (s.emit e).fns = s.fns := rfl
@[simp] theorem State.emit_hst (s : State) (e : OutEvent) : (s.emit e).hst = s.hst := rfl
@[simp] theorem State.emit_plots (s : State) (e : OutEvent) : (s.emit e).plots = s.plots := rfl
@[simp] theorem State.emit_cfg (s : State) (e : OutEvent) : (s.emit e).cfg = s.cfg := rfl
@[simp] theorem State.emit_undo (s : State) (e : OutEvent) : (s.emit e).undo = s.undo := rfl
@[simp] theorem State.emit_msh (s : State) (e : OutEvent) : (s.emit e).msh = s.msh := rfl
@[simp] theorem State.emit_log (s : State) (e : OutEvent) : (s.emit e).log = s.log := rfl
@[simp] theorem State.emit_att (s : State) (e : OutEvent) : (s.emit e).att = s.att := rfl
@[simp] theorem State.emit_anl (s : State) (e : OutEvent) : (s.emit e).anl = s.anl := rfl
@[simp] theorem State.emit_nse (s : State) (e : OutEvent) : (s.emit e).nse = s.nse := rfl
@[simp] theorem State.emit_lanes (s : State) (e : OutEvent) : (s.emit e).lanes = s.lanes := rfl
@[simp] theorem State.emit_devGraft (s : State) (e : OutEvent) : (s.emit e).devGraft = s.devGraft := rfl
@[simp] theorem State.emit_mxes (s : State) (e : OutEvent) : (s.emit e).mxes = s.mxes := rfl
@[simp] theorem State.emit_partials (s : State) (e : OutEvent) : (s.emit e).partials = s.partials := rfl
@[simp] theorem State.emit_devMacs (s : State) (e : OutEvent) : (s.emit e).devMacs = s.devMacs := rfl
@[simp] theorem State.emit_hccs (s : State) (e : OutEvent) : (s.emit e).hccs = s.hccs := rfl
@[simp] theorem State.emit_hccTrap (s : State) (e : OutEvent) : (s.emit e).hccTrap = s.hccTrap := rfl
@[simp] theorem State.emit_qces (s : State) (e : OutEvent) : (s.emit e).qces = s.qces := rfl
@[simp] theorem State.emit_qceBytes (s : State) (e : OutEvent) : (s.emit e).qceBytes = s.qceBytes := rfl
@[simp] theorem State.emit_qceTrap (s : State) (e : OutEvent) : (s.emit e).qceTrap = s.qceTrap := rfl
@[simp] theorem State.emit_pwr (s : State) (e : OutEvent) : (s.emit e).pwr = s.pwr := rfl
@[simp] theorem State.emit_skt (s : State) (e : OutEvent) : (s.emit e).skt = s.skt := rfl
@[simp] theorem State.emit_mem (s : State) (e : OutEvent) : (s.emit e).mem = s.mem := rfl
@[simp] theorem State.emit_resp (s : State) (e : OutEvent) : (s.emit e).resp = s.resp := rfl
@[simp] theorem State.emit_free (s : State) (e : OutEvent) : (s.emit e).free = s.free := rfl

/-! ### logSuppressed -/

@[simp] theorem State.logSuppressed_pending (s : State) : (s.logSuppressed).pending = s.pending := rfl
@[simp] theorem State.logSuppressed_boot (s : State) : (s.logSuppressed).boot = s.boot := rfl
@[simp] theorem State.logSuppressed_aux (s : State) : (s.logSuppressed).aux = s.aux := rfl
@[simp] theorem State.logSuppressed_fuses (s : State) : (s.logSuppressed).fuses = s.fuses := rfl
@[simp] theorem State.logSuppressed_frm (s : State) : (s.logSuppressed).frm = s.frm := rfl
@[simp] theorem State.logSuppressed_pf (s : State) : (s.logSuppressed).pf = s.pf := rfl
@[simp] theorem State.logSuppressed_fns (s : State) : (s.logSuppressed).fns = s.fns := rfl
@[simp] theorem State.logSuppressed_hst (s : State) : (s.logSuppressed).hst = s.hst := rfl
@[simp] theorem State.logSuppressed_plots (s : State) : (s.logSuppressed).plots = s.plots := rfl
@[simp] theorem State.logSuppressed_cfg (s : State) : (s.logSuppressed).cfg = s.cfg := rfl
@[simp] theorem State.logSuppressed_undo (s : State) : (s.logSuppressed).undo = s.undo := rfl
@[simp] theorem State.logSuppressed_msh (s : State) : (s.logSuppressed).msh = s.msh := rfl
@[simp] theorem State.logSuppressed_att (s : State) : (s.logSuppressed).att = s.att := rfl
@[simp] theorem State.logSuppressed_anl (s : State) : (s.logSuppressed).anl = s.anl := rfl
@[simp] theorem State.logSuppressed_nse (s : State) : (s.logSuppressed).nse = s.nse := rfl
@[simp] theorem State.logSuppressed_lanes (s : State) : (s.logSuppressed).lanes = s.lanes := rfl
@[simp] theorem State.logSuppressed_devGraft (s : State) : (s.logSuppressed).devGraft = s.devGraft := rfl
@[simp] theorem State.logSuppressed_mxes (s : State) : (s.logSuppressed).mxes = s.mxes := rfl
@[simp] theorem State.logSuppressed_partials (s : State) : (s.logSuppressed).partials = s.partials := rfl
@[simp] theorem State.logSuppressed_devMacs (s : State) : (s.logSuppressed).devMacs = s.devMacs := rfl
@[simp] theorem State.logSuppressed_hccs (s : State) : (s.logSuppressed).hccs = s.hccs := rfl
@[simp] theorem State.logSuppressed_hccTrap (s : State) : (s.logSuppressed).hccTrap = s.hccTrap := rfl
@[simp] theorem State.logSuppressed_qces (s : State) : (s.logSuppressed).qces = s.qces := rfl
@[simp] theorem State.logSuppressed_qceBytes (s : State) : (s.logSuppressed).qceBytes = s.qceBytes := rfl
@[simp] theorem State.logSuppressed_qceTrap (s : State) : (s.logSuppressed).qceTrap = s.qceTrap := rfl
@[simp] theorem State.logSuppressed_pwr (s : State) : (s.logSuppressed).pwr = s.pwr := rfl
@[simp] theorem State.logSuppressed_skt (s : State) : (s.logSuppressed).skt = s.skt := rfl
@[simp] theorem State.logSuppressed_mem (s : State) : (s.logSuppressed).mem = s.mem := rfl
@[simp] theorem State.logSuppressed_out (s : State) : (s.logSuppressed).out = s.out := rfl
@[simp] theorem State.logSuppressed_resp (s : State) : (s.logSuppressed).resp = s.resp := rfl
@[simp] theorem State.logSuppressed_free (s : State) : (s.logSuppressed).free = s.free := rfl

/-! ### What an update changes -/

@[simp] theorem State.modFrm_frm (s : State) (f : FrmState → FrmState) : (s.modFrm f).frm = f s.frm := rfl
@[simp] theorem State.modCfg_cfg (s : State) (f : CfgState → CfgState) : (s.modCfg f).cfg = f s.cfg := rfl
@[simp] theorem State.modMesh_msh (s : State) (f : MshState → MshState) : (s.modMesh f).msh = f s.msh := rfl
@[simp] theorem State.modPwr_pwr (s : State) (f : PwrState → PwrState) : (s.modPwr f).pwr = f s.pwr := rfl
@[simp] theorem State.modSkt_skt (s : State) (f : SktState → SktState) : (s.modSkt f).skt = f s.skt := rfl
@[simp] theorem State.emit_out (s : State) (e : OutEvent) : (s.emit e).out = s.out ++ [e] := rfl
@[simp] theorem State.advanceTo_tclk (s : State) (t : Nat) : (s.advanceTo t).boot.tclk = max s.boot.tclk t := rfl
@[simp] theorem State.advanceTo_boot (s : State) (t : Nat) :
    (s.advanceTo t).boot = { s.boot with tclk := max s.boot.tclk t } := rfl

@[simp] theorem State.modPlot_self (s : State) (q : PlotId) (f : Plot → Plot) : (s.modPlot q f).plot q = f (s.plot q) := by
  simp [State.modPlot, State.plot]

theorem State.modPlot_other (s : State) {p q : PlotId} (f : Plot → Plot) (h : p ≠ q) : (s.modPlot q f).plot p = s.plot p := by
  have h' : (q : Nat) ≠ p := fun e => h (Fin.ext e.symm)
  simp [State.modPlot, State.plot, h']

@[simp] theorem State.modFn_self (s : State) (g : Fn) (f : FnState → FnState) : (s.modFn g f).fns[g] = f s.fns[g] := by
  simp [State.modFn]

theorem State.modFn_other (s : State) {p g : Fn} (f : FnState → FnState) (h : p ≠ g) : (s.modFn g f).fns[p] = s.fns[p] := by
  have h' : (g : Nat) ≠ p := fun e => h (Fin.ext e.symm)
  simp [State.modFn, h']

@[simp] theorem State.modAtt_self (s : State) (q : PlotId) (f : AttSet → AttSet) :
    (s.modAtt q f).att.sets[q] = f s.att.sets[q] := by
  simp [State.modAtt]

@[simp] theorem State.modRng_self (s : State) (q : PlotId) (f : RngSet → RngSet) :
    (s.modRng q f).nse.rng[q] = f s.nse.rng[q] := by
  simp [State.modRng]

@[simp] theorem State.modWell_self (s : State) (t : TileId) (f : Well → Well) :
    (s.modWell t f).nse.wells[t] = f s.nse.wells[t] := by
  simp [State.modWell]

@[simp] theorem State.modLaneOf_self (s : State) (l : LaneId) (f : FlashLane → FlashLane) :
    (s.modLaneOf l f).lane l = f (s.lane l) := by
  simp [State.modLaneOf, State.lane]

@[simp] theorem State.modEngine_self (s : State) (m : MxeId) (f : MxeEngine → MxeEngine) :
    (s.modEngine m f).mxes[m] = f s.mxes[m] := by
  simp [State.modEngine]

@[simp] theorem State.modQce_self (s : State) (n : QceId) (f : QceEngine → QceEngine) :
    (s.modQce n f).qces[n] = f s.qces[n] := by
  simp [State.modQce]

@[simp] theorem State.modRail_self (s : State) (r : Fin 5) (f : PwrRail → PwrRail) :
    (s.modRail r f).pwr.rails[r] = f s.pwr.rails[r] := by
  simp [State.modRail, State.modPwr]

@[simp] theorem State.modCage_self (s : State) (c : Fin 2) (f : SktCage → SktCage) :
    (s.modCage c f).skt.cages[c] = f s.skt.cages[c] := by
  simp [State.modCage, State.modSkt]

@[simp] theorem State.modPlt_self (s : State) (q : PlotId) (f : PltSet → PltSet) :
    (s.modPlt q f).plot q = { s.plot q with plt := f (s.plot q).plt } := by
  simp [State.modPlt, State.modPlot_self]

theorem State.modPlt_other (s : State) {p q : PlotId} (f : PltSet → PltSet) (h : p ≠ q) : (s.modPlt q f).plot p = s.plot p :=
  State.modPlot_other s _ h

@[simp] theorem State.modMsh_self (s : State) (q : PlotId) (f : MshSet → MshSet) :
    (s.modMsh q f).plot q = { s.plot q with msh := f (s.plot q).msh } := by
  simp [State.modMsh, State.modPlot_self]

theorem State.modMsh_other (s : State) {p q : PlotId} (f : MshSet → MshSet) (h : p ≠ q) : (s.modMsh q f).plot p = s.plot p :=
  State.modPlot_other s _ h

@[simp] theorem State.modCfgSet_self (s : State) (q : PlotId) (f : CfgSet → CfgSet) :
    (s.modCfgSet q f).plot q = { s.plot q with cfg := f (s.plot q).cfg } := by
  simp [State.modCfgSet, State.modPlot_self]

theorem State.modCfgSet_other (s : State) {p q : PlotId} (f : CfgSet → CfgSet) (h : p ≠ q) : (s.modCfgSet q f).plot p = s.plot p :=
  State.modPlot_other s _ h

@[simp] theorem State.modAn_self (s : State) (q : PlotId) (f : AnPlot → AnPlot) :
    (s.modAn q f).plot q = { s.plot q with an := f (s.plot q).an } := by
  simp [State.modAn, State.modPlot_self]

theorem State.modAn_other (s : State) {p q : PlotId} (f : AnPlot → AnPlot) (h : p ≠ q) : (s.modAn q f).plot p = s.plot p :=
  State.modPlot_other s _ h

@[simp] theorem State.modNse_self (s : State) (q : PlotId) (f : NsePlot → NsePlot) :
    (s.modNse q f).plot q = { s.plot q with nse := f (s.plot q).nse } := by
  simp [State.modNse, State.modPlot_self]

theorem State.modNse_other (s : State) {p q : PlotId} (f : NsePlot → NsePlot) (h : p ≠ q) : (s.modNse q f).plot p = s.plot p :=
  State.modPlot_other s _ h

@[simp] theorem State.modGrf_self (s : State) (q : PlotId) (f : GrfPlot → GrfPlot) :
    (s.modGrf q f).plot q = { s.plot q with grf := f (s.plot q).grf } := by
  simp [State.modGrf, State.modPlot_self]

theorem State.modGrf_other (s : State) {p q : PlotId} (f : GrfPlot → GrfPlot) (h : p ≠ q) : (s.modGrf q f).plot p = s.plot p :=
  State.modPlot_other s _ h

@[simp] theorem State.modFln_self (s : State) (q : PlotId) (f : FlnPlot → FlnPlot) :
    (s.modFln q f).plot q = { s.plot q with fln := f (s.plot q).fln } := by
  simp [State.modFln, State.modPlot_self]

theorem State.modFln_other (s : State) {p q : PlotId} (f : FlnPlot → FlnPlot) (h : p ≠ q) : (s.modFln q f).plot p = s.plot p :=
  State.modPlot_other s _ h

/-! ### Shared operations -/

/-- A PF cause that rises sets its bit; nothing else of the PF's global registers changes. -/
@[simp] theorem State.raisePf_pf (s : State) (c : Fin 15) :
    (s.raisePf c).pf = { s.pf with irqStatus := setBit s.pf.irqStatus c.val true } := by
  simp only [State.raisePf]
  split
  · simp only [State.sendVector]
    repeat' split
    all_goals rfl
  · rfl

/-- The message of a vector, or its PBA bit, is all that a vector that falls due can change. -/
theorem State.sendVector_cases (s : State) (f : Fn) (v : Fin 32) :
    s.sendVector f v = s ∨ s.sendVector f v = s.modFn f (fun g => { g with pba := setBit g.pba v.val true }) ∨
      s.sendVector f v = s.emit (.msix f s.fns[f].msix[v].addr.toNat s.fns[f].msix[v].data) := by
  simp only [State.sendVector]
  repeat' split
  · exact .inl rfl
  · exact .inr (.inl rfl)
  · exact .inr (.inr rfl)

@[simp] theorem State.sendVector_plots (s : State) (f : Fn) (v : Fin 32) : (s.sendVector f v).plots = s.plots := by
  rcases s.sendVector_cases f v with h | h | h <;> simp [h]

@[simp] theorem State.sendVectors_plots (f : Fn) (vs : List (Fin 32)) :
    ∀ s : State, (s.sendVectors f vs).plots = s.plots := by
  induction vs with
  | nil => intro s; rfl
  | cons v vs ih => intro s; exact (ih _).trans (s.sendVector_plots f v)

@[simp] theorem State.raisePf_plots (s : State) (c : Fin 15) : (s.raisePf c).plots = s.plots := by
  simp only [State.raisePf]
  split <;> simp

/-- Causes of a plot that rise are set in its PLT_IRQ_STATUS; nothing else of a plot changes (R62). -/
@[simp] theorem State.raisePlot_self (s : State) (q : PlotId) (m : BitVec 13) :
    (s.raisePlot q m).plot q =
      { s.plot q with plt := { (s.plot q).plt with irqStatus := (s.plot q).plt.irqStatus ||| m } } := by
  have h := State.modPlt_self s q (fun p => { p with irqStatus := p.irqStatus ||| m })
  simp only [State.plot] at h ⊢
  simp only [State.raisePlot, State.sendVectors_plots]
  exact h

theorem State.raisePlot_other (s : State) {p q : PlotId} (m : BitVec 13) (h : p ≠ q) :
    (s.raisePlot q m).plot p = s.plot p := by
  have e := State.modPlt_other s (fun x => { x with irqStatus := x.irqStatus ||| m }) h
  simp only [State.plot] at e ⊢
  simp only [State.raisePlot, State.sendVectors_plots]
  exact e

/-- PLT_STATUS.STATE takes the value, and a change sets STATE (R44). -/
theorem State.setPlotState_self (s : State) (q : PlotId) (st : PlotState) :
    ((s.setPlotState q st).plot q).plt = if (s.plot q).plt.state = st then (s.plot q).plt else
      { (s.plot q).plt with state := st, irqStatus := (s.plot q).plt.irqStatus ||| 0x10 } := by
  simp only [State.setPlotState]
  split
  · rfl
  · have h := State.modPlt_self s q (fun p => { p with state := st })
    simp only [State.plot, State.raisePf_plots] at h ⊢
    have r := State.raisePlot_self
      { s.modPlt q (fun p => { p with state := st }) with
        pf := { (s.modPlt q (fun p => { p with state := st })).pf with
          chgMap := setBit (s.modPlt q (fun p => { p with state := st })).pf.chgMap (q.val - 1) true } } q 0x10
    simp only [State.plot, h] at r
    rw [r]

/-- A cause that rises writes no line. -/
@[simp] theorem State.raisePf_log (s : State) (c : Fin 15) : (s.raisePf c).log = s.log := by
  simp only [State.raisePf]
  split
  · simp only [State.sendVector]
    repeat' split
    all_goals rfl
  · rfl

/-- A line takes SEQ = LOG_NEXT, and LOG_NEXT advances. -/
theorem State.logLine_next (s : State) (code plot : Nat) (node : Option NodeId) (a b : Nat) :
    (s.logLine code plot node a b).log.next = satInc s.log.next := by
  simp only [State.logLine, State.raisePf_log]
  repeat' split
  all_goals rfl

/-- The line that was written is the latest. -/
theorem State.logLine_head (s : State) (code plot : Nat) (node : Option NodeId) (a b : Nat) :
    (s.logLine code plot node a b).log.lines.head? = some
      { seq := s.log.next.toNat, time := s.frmTime, code := code, plot := plot, node := node, arg0 := a, arg1 := b } := by
  simp only [State.logLine, State.raisePf_log]
  repeat' split
  all_goals rfl

/-- A host access that reaches the device runs on a state with an empty answer. -/
theorem hostGate_ok {s : State} {f : Fn} (k : State → State) (h : s.hostOk f = true) :
    hostGate s f k = k { s with resp := {} } := by
  simp [hostGate, h]

end Sys2Proof.Machine
end

