-- ==== Sys2Proof/Tests/Slice0.lean ====
section
/-!
SUPPORT. Sys2Proof/Tests/Slice0.lean: small tests on fixed values. test_* compares the model with values of the spec (worked
examples, tables, hand calculation) and shows ill-formed commands refused; hyp_* shows, for each statement of
Certificates/Slice0/Obligations.lean, states and operands that meet its hypotheses. The clauses of a bundle whose file is
accepted, and of a signed message, cannot be met by evaluation: signature and tag checks are opaque (log entry 9).
-/
namespace Sys2Proof.Tests
open Sys2Proof Sys2Proof.Machine

set_option linter.all false
set_option Elab.async false

/-! ### States the tests start from -/

/-- A byte string of `n` bytes with little-endian fields (offset, width, value). -/
def fields (n : Nat) (fs : List (Nat × Nat × Nat)) : List Byte :=
  (List.range n).map (fun k => match fs.find? (fun f => decide (f.1 ≤ k) && decide (k < f.1 + f.2.1)) with
    | some f => BitVec.ofNat 8 (f.2.2 / 256 ^ (k - f.1))
    | none => 0)

/-- The device held, its cold-boot flag clear. -/
def off : State := { State.reset with aux := { coldFlag := false, risen := true } }

/-- The device ready, the link up, every function enabled. -/
def ready : State := { State.reset with
  boot := { phase := .ready, tclk := 2000000, readyAt := 180000, pwrOk := true, perst := false }
  aux := { coldFlag := false, risen := true, key := some 7 }
  hst := { memSpace := true, vfMemSpace := true, vfEn := true, numVfs := 64, ari := true, ptmEn := true, linkUp := true }
  fns := Vector.replicate 65 { bme := true } }

/-- The device started, memory not yet initialised. -/
def starting : State := { ready with boot := { ready.boot with phase := .clearing }, hst := {} }

/-- A flash channel: one chip enable, one LUN, 16 KiB pages. -/
def chan0 : List Byte := fields 32 [(1, 1, 1), (2, 1, 1), (10, 2, 16), (14, 2, 64), (16, 4, 64)]

/-- Plot 1 owns tile 0, engine 0, four commons pages and four contexts on lane 0. -/
def map1 : List Byte := fields 32 [(0, 1, 1), (2, 2, 4), (4, 8, 1), (12, 2, 1), (16, 1, 4)]

/-- A problem of one variable on tile 0, one bearing of two sweeps. -/
def anneal1 : Section := { type := 0x10, plot := 1, param := 1, entries := [
  fields 64 [(0, 1, 2), (2, 1, 2), (4, 2, 1), (16, 8, 0x1000), (24, 8, 0x2000), (40, 8, 0x3000), (48, 8, 0x4000), (56, 8, 0x5000)],
  fields 16 [(0, 1, 3), (1, 1, 1)], fields 16 [(0, 1, 5), (4, 2, 512), (8, 4, 2)]] }

/-- An index of one partition, and one backed page, on lane 0. -/
def search1 : Section := { type := 0x13, plot := 1, entries := [
  fields 64 [(0, 1, 1), (2, 1, 8), (4, 2, 16), (6, 2, 10), (8, 4, 1), (12, 1, 1), (13, 1, 1), (14, 1, 1), (20, 4, 8), (24, 4, 8),
    (28, 4, 16), (32, 8, 0x90010000), (40, 8, 0x90020000), (48, 8, 0x90000000), (56, 4, 12)],
  fields 64 [(0, 1, 2), (8, 8, 0x800000000), (16, 4, 1), (21, 1, 1), (22, 1, 1), (24, 4, 32), (28, 4, 8)]] }

/-- An A8 tensor of one row on the activation port and an S8 one on the weight port, in engine 0's slice. -/
def quant1 : Section := { type := 0x11, plot := 1, entries := [
  fields 64 [(0, 2, 1), (3, 1, 2), (4, 1, 1), (10, 1, 0xE0), (11, 1, 31), (12, 4, 64), (16, 4, 1), (24, 8, 0x80000000),
    (32, 8, 0x80010000)],
  fields 64 [(0, 2, 2), (2, 1, 4), (3, 1, 2), (10, 1, 0xE0), (11, 1, 31), (12, 4, 64), (16, 4, 1), (24, 8, 0x80020000),
    (32, 8, 0x80030000)]] }

/-- Two route entries of plot 1: a retried multicast and an unscheduled all-or-nothing one. -/
def routes1 : List (List Byte) := [fields 16 [(0, 1, 1), (1, 1, 2), (2, 1, 13), (3, 1, 14), (10, 2, 1)],
  fields 16 [(0, 1, 1), (1, 1, 1), (2, 1, 13), (3, 1, 14), (10, 2, 2)]]

/-- The committed content the tests run under. -/
def content1 : Content := { slotLen := 64, chans := [chan0], pmap := [map1], routes := routes1, secs := [anneal1, quant1, search1] }

/-- A job that runs, with private copies of the pages its engines write. -/
def job : Job := { idx := 7, phase := .running, attempts := 1, first := some 3,
                   desc := { tag := 9, restarts := 2 },
                   img := { frames := 1, claims := [{ kind := 4, index := 1, cycles := 100 }, {}], wrPages := 16 },
                   copies := [0, 0x8000, 0x8001, 0x8002, 0x8003, 0x9003] }

/-- Plot 1 runs jobs. -/
def withJobs (js : List Job) : State := { ready with
  cfg := { ready.cfg with loaded := true, content := content1 }
  msh := { ready.msh with routes := routes1 }
  plots := ready.plots.set 1 { plt := { en := true, state := .running, ringEn := true, jobs := js } } }

/-- Plot 1 runs one job. -/
def live : State := withJobs [job]

/-- The job before any of its writes. -/
def job0 : Job := { job with copies := [] }

/-- `live` with plot 1 changed. -/
def liveWith (f : Plot → Plot) : State := { live with plots := live.plots.set 1 (f (live.plot 1)) }

/-! ### Ill-formed commands -/

theorem test_tenant_refused : (Instr.stopEnd 0).tenantOk = false ∧ (Instr.stopEnd 1).wellFormed = true := by decide
theorem test_access_refused : (Instr.loReadLatch 0 0x13 2).accessOk = false ∧ (Instr.registerWrite 0 (.reg 0x12 0 0)).accessOk = false ∧
    (Instr.loReadLatch 0 0x13 1).wellFormed = true := by decide
theorem test_link_refused : (Instr.linkUp 0 16).linkOk = false ∧ (Instr.linkUp 5 3).linkOk = false ∧
    (Instr.linkUp 5 16).wellFormed = true := by decide
theorem test_opcode_refused : (Instr.jtagBypass 0x02 (.runs [])).opcodeOk = false ∧ (Instr.jtagBypass 0xFF (.runs [])).wellFormed = true := by
  decide
theorem test_sample_refused : (Instr.powerSample { dt := 0 }).sampleOk = false ∧
    (Instr.powerSample { dt := 1 }).wellFormed = true ∧ (Instr.thermalSample (Vector.replicate 48 2048)).sampleOk = false ∧
    (Instr.thermalSample (Vector.replicate 48 2047)).wellFormed = true := by decide +kernel
theorem test_fetch_refused : (Instr.descriptorFetch 1 (.bytes [0])).fetchOk = false ∧
    (Instr.descriptorFetch 1 (.bytes (List.replicate 64 0))).wellFormed = true ∧
    (Instr.attReportDone 1 (.bytes []) true).fetchOk = false := by decide +kernel

/-! ### Hypotheses that are met: the whole machine -/

theorem hyp_emptyQueue : ready.pending = [] := by decide +kernel
theorem hyp_invariants : MemInv State.reset ∧ LogInv State.reset ∧ ∃ t, step State.reset = .next t := by
  refine ⟨?_, ?_, _, rfl⟩
  · unfold MemInv; decide +kernel
  · unfold LogInv; decide +kernel
theorem hyp_tagNonces : ∃ t, step ready = .next t ∧ t.aux.coldFlag = false ∧ t.aux.epochState = 0 := by
  refine ⟨_, rfl, ?_⟩; decide +kernel
theorem hyp_warmBoots :
    (off.aux.on = true ∧ off.aux.coldFlag = false ∧ off.boot.pwrOk = false ∧ off.boot.jtag.holds = false) ∧
    (ready.aux.on = true ∧ ready.aux.coldFlag = false ∧ ready.boot.pwrOk = true ∧ ready.boot.perst = false ∧
      ready.boot.jtag.holds = false ∧ ready.hst.linkUp = true) ∧
    (let s := { ready with boot := { ready.boot with phase := .held, jtag := .extest } }
     s.aux.on = true ∧ s.aux.coldFlag = false ∧ s.boot.jtag.holds = true ∧ s.boot.pwrOk = true) := by decide +kernel
/-- One of the 4,096 epoch fuses is still to be blown. -/
def lastEpoch (n : Nat) : State := { State.reset with fuses := { blown := [n] } }
theorem hyp_coldBoot : ∀ n ∈ [1, 4093, 4094, 4095, 4096], let s := lastEpoch n
    s.aux.on = true ∧ s.aux.coldFlag = true ∧ s.boot.pwrOk = false ∧ s.boot.jtag.holds = false ∧ s.cfg.fuseBusy = none ∧
    (∀ k ∈ s.fuses.failed, k ≤ s.fuses.epoch) ∧ s.fuses.epoch = n := by decide +kernel
theorem hyp_heldInReset : ready.aux.on = true ∧ ready.boot.pwrOk = true ∧
    (let s := { ready with pwr := { ready.pwr with sens := ready.pwr.sens.set 47 { temp := 460, seen := true } } }
     s.boot.phase ≠ .held ∧ s.boot.startAt + 22000 ≤ s.boot.tclk ∧ s.pwr.sens[(47 : Fin 48)].seen = true ∧ s.pwr.sens[(47 : Fin 48)].fault = false ∧
     460 ≤ s.pwr.sens[(47 : Fin 48)].temp) := by decide +kernel
theorem hyp_startUp : starting.boot.phase = .clearing ∧
    ({ starting with boot := { starting.boot with phase := .cleared } } : State).boot.phase = .cleared ∧
    (starting.boot.pwrOk = true ∧ starting.boot.phase ≠ .held ∧ starting.boot.perst = false ∧ starting.hst.linkUp = false ∧
      (Instr.linkUp 1 1).wellFormed = true ∧ (Instr.linkUp 5 16).wellFormed = true) ∧
    ({ State.reset with aux := { on := false } } : State).aux.on = false ∧
    (let s := { ready with aux := { ready.aux with key := none } }
     s.isReady = true ∧ s.aux.key = none ∧ s.aux.keyFail = false) := by decide +kernel
theorem hyp_smbus : ready.aux.on = true ∧ ready.aux.since + 1000000 ≤ ready.boot.tclk ∧ ready.boot.phase ≠ .held ∧
    ready.boot.startAt + 12000 ≤ ready.boot.tclk ∧ starting.isReady = false ∧
    (0x58 : BitVec 7).toNat = 0x58 + ready.aux.strap.val ∧ (0x59 : BitVec 7).toNat ≠ 0x58 + ready.aux.strap.val ∧
    (let s := { ready with boot := { ready.boot with epochAt := 2000001, epochWas := 4 } }
     s.boot.tclk < s.boot.epochAt ∧ ready.boot.epochAt ≤ ready.boot.tclk) ∧
    (let l := [BitVec.ofNat 8 (2 * (0x58 : BitVec 7).toNat), 0x10, 4] ++ leBytes 4 28
     pecOf l = 0x66 ∧ (0 : Byte) ≠ pecOf l) ∧
    (let s := { ready with hst := { ready.hst with smbAddr := 0x1C } }
     s.isReady = true ∧ s.hst.smbAddr.toNat % 4 = 0 ∧ msixAt 0 s.hst.smbAddr.toNat = none ∧
     regAt 0 s.hst.smbAddr.toNat = some 0x1C ∧ openValue s 0 0x1C = false ∧ groupWord 0x1C = none) := by decide +kernel

/-! ### Hypotheses that are met: host accesses, rings, reports -/

theorem hyp_host : ready.hostOk 0 = true ∧ ready.hostOk 1 = true ∧ ready.hostOk 64 = true ∧ ready.cfgOk 0 = true ∧
    ready.cfgOk 64 = true ∧ live.hostOk 0 = true ∧ live.hostOk 1 = true ∧ starting.hostOk 0 = false ∧
    (let s := { ready with hst := { ready.hst with vfEn := false } }
     s.cfgOk 0 = true ∧ s.hst.vfEn = false ∧ (64 : BitVec 16).toNat ≤ 64 ∧ ready.hst.vfEn = true) ∧
    (let s := { starting with hst := { starting.hst with linkUp := true } }
     s.isReady = false ∧ s.hst.linkUp = true) := by decide +kernel
theorem hyp_discard : msixAt 0 0x21 = none ∧ 4 < 0x21 % 4 + 4 ∧ (0x0F : BitVec 8).toNat % 2 ^ 4 ≠ 0 ∧
    LinkError.badTlp ≠ .unsupported ∧ (linkErrorBit .malformed).2 = false ∧ (linkErrorBit .requestEcrc).2 = false ∧
    (linkErrorBit .badTlp).2 = true ∧
    (0x20 % 4 + 4 ≤ 4 ∧ (0x07 : BitVec 8).toNat % 2 ^ 4 ≠ 0 ∧ (0x07 : BitVec 8).toNat % 16 ≠ 15) ∧
    (0x00 : BitVec 8).toNat % 2 ^ 4 = 0 := by decide +kernel
theorem hyp_latch : msixAt 0 0x28 = none ∧ (Instr.loReadLatch 0 0x28 4).wellFormed = true ∧
    (∃ a, regAt 0 (0x28 / 4 * 4) = some a ∧ openValue ready 0 a = false ∧ groupWord a = some 0) ∧
    (∃ a, regAt 0 (0x2C / 4 * 4) = some a ∧ openValue ready 0 a = false ∧ groupWord a = some 1) := by
  refine ⟨?_, ?_, ⟨0x28, ?_⟩, ⟨0x2C, ?_⟩⟩ <;> decide +kernel

theorem hyp_pairs : pairOf 0 0xE1000 = some (false, setAddr 14 0 0) ∧ pairOf 0 0xE1004 = some (true, setAddr 14 0 0) := by decide +kernel
theorem hyp_rws : (rwsAt 0x4 = some (0, .period) ∧ pairAt 0x4 = none) ∧
    (rwsAt 0x11004 = some (1, .qos) ∧ pairAt 0x11004 = none) ∧
    (rwsAt 0x71FC0 = some (64, .group) ∧ pairAt 0x71FC0 = none) := by decide +kernel
/-- Plot 1 has one cause, unmasked by the write, on vector 0. -/
def irqState : State := { ready with
  fns := ready.fns.set 1 { bme := true, msixEn := true, msix := Vector.replicate 32 { mask := false }, pba := 1 }
  plots := ready.plots.set 1 { plt := { irqStatus := 1 } } }
theorem hyp_masks : irqState.hostOk 0 = true ∧ irqState.hostOk 1 = true ∧ irqState.cfgOk 1 = true ∧
    (irqState.plot 1).plt.irqMask &&& ~~~ ((0 : Word).setWidth 13) &&& (irqState.plot 1).plt.irqStatus = BitVec.twoPow 13 0 ∧
    irqState.fns[(1 : Fn)].msixEn = true ∧ irqState.permitted 1 = true ∧ irqState.fns[(1 : Fn)].fmask = false ∧
    (0 : Fin 32).val = (irqState.plot 1).plt.vector 0 ∧ irqState.fns[(1 : Fn)].msix[(0 : Fin 32)].mask = false ∧
    irqState.fns[(1 : Fn)].pba = BitVec.twoPow 32 0 ∧ ready.fns[(1 : Fn)].msixEn = false ∧ pendingVectors ready 1 = [] ∧
    (15 : Nat) < 16 := by decide +kernel
theorem hyp_ptm : (0x80000000 : Word).getLsbD 31 = true ∧ ready.hst.ptmEn = true ∧ ready.hst.ptmBusy = false ∧
    ({ ready with hst := { ready.hst with ptmBusy := true } } : State).hst.ptmBusy = true ∧
    ({ ready with hst := { ready.hst with ptmAuto := 255 } } : State).hst.ptmAuto ≠ 0 ∧
    ({ ready with hst := { ready.hst with ptmEn := false } } : State).hostOk 0 = true ∧
    ready.permitted 0 = true ∧ ({ ready with fns := ready.fns.set 0 {} } : State).permitted 0 = false ∧
    (let s := { ready with hst := { ready.hst with ptmBusy := true, ptmSent := true, ptmAt := 1500000 } }
     s.isReady = true ∧ s.boot.readyAt ≤ s.hst.ptmAt ∧ s.hst.ptmSent = true ∧ (1000000 : Nat) ≤ 1000000 ∧
     s.boot.tclk ≤ s.hst.ptmAt + 500000 ∧ s.boot.tclk ≤ s.hst.ptmAt + 1000000) := by decide +kernel
/-- Plot 1 with its ring enabled and an occupancy. -/
def ring (head tail : BitVec 16) : State := { ready with
  plots := ready.plots.set 1 { plt := { ringEn := true, sqHead := head, sqTail := tail, cqTail := tail, cqHead := head } } }
theorem hyp_rings : (ready.plot 1).plt.ringEn = false ∧ ready.hostOk 1 = true ∧ (ring 0xFFFF 0).hostOk 1 = true ∧
    ((ring 0xFFFF 0).plot 1).plt.ringEn = true ∧
    256 < ((256 : Word).setWidth 16 - ((ring 0xFFFF 0).plot 1).plt.sqHead).toNat ∧
    ((255 : Word).setWidth 16 - ((ring 0xFFFF 0).plot 1).plt.sqHead).toNat ≤ 256 ∧
    256 < (((ring 0 256).plot 1).plt.cqTail - (0xFFFF : Word).setWidth 16).toNat ∧
    (((ring 0 256).plot 1).plt.cqTail - (0 : Word).setWidth 16).toNat ≤ 256 ∧ ((ring 0 256).plot 1).plt.formed = [] ∧
    ((ring 0 1).plot 1).plt.head = .empty ∧ ((ring 0 1).plot 1).plt.ringHalt = false ∧ (ring 0 1).permitted 1 = true := by
  decide +kernel
/-- A descriptor of a 128-byte image, with its CRC. -/
def desc1 : List Byte :=
  let b := fields 60 [(0, 2, 9), (4, 4, 128), (8, 8, 0x10000)]
  b ++ leBytes 4 (crc32c b).toNat
/-- An image of one claim of 100 cycles on lane 0, with its CRCs. -/
def image1 : List Byte :=
  let body := fields 64 [(0, 4, 100), (4, 2, 0x401)]
  let b := fields 60 [(0, 4, 0x4A374E41), (4, 2, 1), (8, 4, 1), (12, 2, 1), (56, 4, (crc32c body).toNat)]
  b ++ leBytes 4 (crc32c b).toNat ++ body
/-- Plot 1 with its ring head in a state. -/
def headed (h : Head) : State := { ready with plots := ready.plots.set 1 { plt := { ringEn := true, sqTail := 1, head := h } } }
theorem hyp_fetches : (headed .fetchingDesc).permitted 1 = true ∧
    ({ headed .fetchingDesc with fns := ready.fns.set 1 {} } : State).permitted 1 = false ∧
    ((headed .fetchingDesc).plot 1).plt.head = .fetchingDesc ∧ descOk (slice desc1 0 64) = true ∧
    (descOf desc1).reuse = false ∧ descOk (slice [] 0 64) = false ∧ image1.length = (descOf desc1).imageLen ∧
    (imageOf image1 128 []).isSome = true ∧ imageOf [] 128 [] = none ∧
    (∀ i, imageOf image1 128 [] = some i → i.inMin ≤ 0 ∧ i.outMax ≤ 0) := by
  refine ⟨by decide +kernel, by decide +kernel, by decide +kernel, by decide +kernel, by decide +kernel, by decide +kernel,
    by decide +kernel, by decide +kernel, by decide +kernel, fun i h => ?_⟩
  have : imageOf image1 128 [] = some { frames := 1, claims := [{ kind := 4, index := 1, cycles := 100 }], ops := [] } := by
    decide +kernel
  rw [this] at h; cases h; decide
theorem hyp_lost : live.isReady = true ∧ (live.plot 1).plt.job? 7 = some job ∧ job.phase ≠ .abandoning ∧ job.budget = false ∧ job.deadline = false ∧
    (let s := { ready with att := { ready.att with sets := ready.att.sets.set 1 { busy := true } }
                           nse := { ready.nse with rng := ready.nse.rng.set 1 { busy := true } } }
     s.att.sets[(1 : PlotId)].busy = true ∧ s.nse.rng[(1 : PlotId)].busy = true) := by decide +kernel
/-- The base point of P-384, X and Y (FIPS 186-5). -/
def basePoint : List Byte := (leBytes 48 0xAA87CA22BE8B05378EB1C71EF320AD746E1D3B628BA79B9859F741E082542A385502F25DBF55296C3A545E3872760AB7).reverse ++
  (leBytes 48 0x3617DE4A96262C6F5D9E98BF9292DC29F8F41DBD289A147CE9DA3113B5F0B8C00A60B1CE1D7E819D7A431D7C90EA0E5F).reverse
theorem hyp_reports : (∀ k ∈ [0, 1], let b := List.replicate 48 (0 : Byte) ++ basePoint.set 95 (if k = 0 then 0x5F else 0x5E)
      (p384Valid (slice b 48 96) = true ↔ k = 0)) ∧ ({ ready with fns := ready.fns.set 1 {} } : State).permitted 1 = false ∧
    ready.att.sets[(1 : PlotId)].busy = false ∧ ready.permitted 1 = true ∧ ready.aux.key ≠ none ∧
    ({ ready with aux := { ready.aux with key := none, keyFail := true } } : State).aux.keyFail = true := by decide +kernel
theorem hyp_logAck : ready.log.next = 0 ∧
    (let s := { ready with log := { ready.log with next := 5 } }
     s.hostOk 0 = true ∧ (4 : Word64) < s.log.next ∧ s.log.next ≠ 0 ∧ s.log.next ≤ 5) := by decide +kernel

/-! ### Hypotheses that are met: plots and loads -/

theorem hyp_plots : (live.plot 1).plt.state = .running ∧ (ready.plot 1).plt.state ≠ .running ∧ ready.hst.vfEn = true ∧
    (let s := liveWith (fun p => { p with plt := { p.plt with state := .stopping } })
     (s.plot 1).plt.state = .stopping) ∧
    (let s := liveWith (fun p => { p with plt := { p.plt with state := .clearing, clearAll := true } })
     (s.plot 1).plt.state = .clearing ∧ (s.plot 1).plt.clearAll = true ∧ ∀ j ∈ (s.plot 1).plt.jobs, j.code ≠ .cancelled) ∧
    (let s := liveWith (fun p => { p with
       plt := { p.plt with state := .clearing }, msh := { p.msh with resident := [⟨0, none, 0, false, 1⟩] } })
     (s.plot 1).plt.clearAll = false ∧ ∃ r ∈ (s.plot 1).msh.resident, r.home = none) ∧
    (let s := liveWith (fun p => { p with plt := { p.plt with state := .clearing, jobs := [{ job with code := .cancelled }] } })
     (s.plot 1).plt.state = .clearing ∧ ∃ j ∈ (s.plot 1).plt.jobs, j.code = .cancelled) := by decide +kernel
theorem hyp_areas : ∃ t, exec (.cancelAll 0 1) ready = .next t ∧ Area.mem ∉ areasOf (.cancelAll 0 1) ∧
    touchesPlot (.cancelAll 0 1) 2 = false := by
  refine ⟨_, rfl, ?_, ?_⟩ <;> decide +kernel
/-- The bit-stream block in a load state. -/
def loading (l : LoadState) (len : BitVec 25) (b : Option Bundle) : State := { ready with
  cfg := { ready.cfg with load := l, srcLen := len, capLen := len.toNat, bundle := b, waitFrames := 2, waited := 2 } }
theorem hyp_loads : (loading .fetching 512 none).cfg.load ≠ .idle ∧
    (511 % 64 ≠ 0 ∧ 448 < 512 ∧ (loading .idle 512 none).cfg.srcLen.toNat % 64 = 0 ∧
      512 ≤ (loading .idle 512 none).cfg.srcLen.toNat ∧ (loading .idle 0x1000000 none).cfg.srcLen.toNat ≤ 2 ^ 24) ∧
    reservePages (usedPages ready.msh) ((512 + 65535) / 65536) 0 = some [(0, 383)] ∧ ready.permitted 0 = true ∧
    ({ ready with fns := ready.fns.set 0 {} } : State).permitted 0 = false ∧
    (∀ n ∈ [(none : Option Nat), some 5], ∀ l ∈ [LoadState.idle, .staged],
      let s := { loading l 512 none with
        frm := { ready.frm with opened := true, commitEnd := 5000000 }, cfg := { (loading l 512 none).cfg with joined := n } }
      s.inSteps14 = true ∧ s.cfg.joined = n ∧ s.cfg.load = l ∧ ready.inSteps14 = false) ∧
    ready.fns[(0 : Fn)].d3 = false ∧
    ({ ready with fns := ready.fns.set 0 { bme := true, d3 := true } } : State).fns[(0 : Fn)].d3 = true ∧
    ((loading .waiting 512 none).cfg.load = .waiting) ∧
    ((loading .fetching 512 none).cfg.capLen ≤ (List.replicate 512 (0 : Byte)).length) ∧
    ((match verifyFile (loading .verifying 512 none) [] with | .error e => e == 0x03 | .ok _ => false) = true) ∧
    (let s := loading .staging 512 (some { plot := 1 })
     s.cfg.load = .staging ∧ s.cfg.bundle = some { plot := 1 }) ∧
    (let s := loading .waiting 512 (some { plot := 1 })
     s.cfg.load = .waiting ∧ s.cfg.waitFrames.toNat ≤ s.cfg.waited) := by decide +kernel
/-- The device with owner slots written, its content permitting, and a fuse operation under way. -/
def fused (f : FuseState) (o : Option FuseOp) : State := { ready with
  fuses := f, cfg := { ready.cfg with fuseBusy := o, content := { ownerAdmit := true, revokeAdmit := true } } }
theorem hyp_fuses : (fused {} (some .lock)).cfg.fuseBusy ≠ none ∧ ({ lock := true } : FuseState).lock = true ∧
    (let f : FuseState := { owner := Vector.replicate 4 { valid := true, crc := crc32c (hashBytes 0) } }
     f.lock = false ∧ f.owner[(3 : Fin 4)].written = true ∧ f.owned = true ∧ f.owner[(0 : Fin 4)].accepted = true) ∧
    (let f : FuseState := {}
     f.lock = false ∧ f.owner[(3 : Fin 4)].written = false ∧ f.owned = false ∧
       ∀ i : Fin 4, i ≠ 3 → f.owner[i].accepted = false) ∧
    (fused {} none).cfg.content.revokeAdmit = true ∧ ready.cfg.content.revokeAdmit = false ∧
    (fused {} (some (.program 3 5))).cfg.fuseBusy = some (.program 3 5) ∧
    (fused {} (some (.revoke 3))).cfg.fuseBusy = some (.revoke 3) := by decide +kernel

/-! ### Hypotheses that are met: frames and commits -/

/-- The device in a frame whose window has opened, under a source. -/
def framed (g : SrcState) (f : FrmState → FrmState) : State := { ready with
  frm := f { ready.frm with opened := true, gov := g, srcState := g, ppsEn := true } }
theorem hyp_ticks :
    (∀ g ∈ [SrcState.internal, .fallback, .ppsAcq, .ppsLock, .ppsHold], let s := framed g id
      s.isReady = true ∧ s.frm.opened = true ∧ s.frm.holdoff = none ∧ s.frm.gov = g ∧ s.frm.acqEnd = none) ∧
    (let s := framed .plantLock (fun f => { f with holdoff := some 5000, commitEnd := 5200 })
     s.frm.opened = true ∧ s.frm.holdoff = some 5000 ∧ s.frm.commitEnd ≤ 5000 + 200) ∧
    (let s := framed .plantLock (fun f => { f with holdoff := some 5000, commitEnd := 5201 })
     s.frm.holdoff = some 5000 ∧ 5000 + 200 < s.frm.commitEnd) ∧
    (let u := undoRecord ready [1]
     let s := { framed .plantLock (fun f => { f with holdoff := some 5000, commitEnd := 5201 }) with undo := some u }
     s.frm.holdoff = some 5000 ∧ s.undo = some u ∧ (1 : PlotId) ∈ u.touched ∧ (2 : PlotId) ∉ u.touched) ∧
    (starting.isReady = false ∧ ready.frm.opened = false) := by decide +kernel
theorem hyp_tickStarts : ∃ t, exec .tick (withJobs [{ job with phase := .waiting }]) = .next t :=
  ⟨_, rfl⟩
theorem hyp_jobWaits : ({ job with phase := .waiting } : Job).live = true := by decide +kernel
theorem hyp_plant : ∀ n ∈ [(0 : BitVec 2), 1, 2],
    (let s := framed .plantLock (fun f => { f with missRun := n })
     s.isReady = true ∧ s.frm.opened = true ∧ s.frm.windowUsed = false ∧ s.frm.relockNext = false ∧ s.frm.gov = .plantLock ∧
     s.frm.srcState = .plantLock) ∧
    (let s := framed .plantAcq (fun f => { f with missRun := n })
     s.frm.gov = .plantAcq ∧ s.frm.srcState = .plantAcq) := by decide +kernel
theorem hyp_pps : (let s := framed .ppsLock (fun f => { f with ppsExpect := some 2000500, ppsOut4 := 3 })
     s.isReady = true ∧ s.frm.ppsEn = true ∧ s.frm.srcState = .ppsLock ∧ s.frm.ppsExpect = some 2000500 ∧
     2000500 ≤ s.boot.tclk + 0 + 500 ∧ s.boot.tclk + 1000 ≤ 2000500 + 500) ∧
    (let s := framed .ppsHold (fun f => { f with ppsExpect := some 2000501 })
     s.frm.srcState = .ppsHold ∧ s.boot.tclk + 0 + 500 < 2000501) ∧
    (let s := framed .ppsHold (fun f => { f with ppsExpect := some 2000501, ppsLast := some 5 })
     ∀ t ∈ [100010005, 100010006], s.frm.ppsLast = some 5 ∧ (5 + 100010000 < t ↔ t = 100010006)) ∧
    (let s := framed .internal (fun f => { f with ppsLast := some 5 })
     s.frm.srcState ≠ .ppsLock ∧ s.frm.srcState ≠ .ppsHold ∧ s.frm.ppsLast = some 5) ∧
    (∀ t ∈ [1900000, 1899999], let s := framed .ppsAcq (fun f => { f with framePeriod := 1000, tickAt := t, acqEnd := some 7 })
      (s.boot.tclk ≤ s.frm.tickAt + 100 * s.frm.framePeriod ↔ t = 1900000)) ∧
    (ready.frm.ppsEn = false ∧ (4 : Word).getLsbD 0 = false) := by decide +kernel
theorem hyp_commit : live.isReady = true ∧ live.frm.opened = false ∧ live.cfg.bundle = none ∧
    (framed .internal id).frm.opened = true := by decide +kernel
theorem hyp_overrun : (live.plot 1).plt.job? job.idx = some job ∧ 1 < job.img.claims.length ∧ job.phase = .running ∧
    live.frm.opened = false ∧ job.budget = false ∧ job.deadline = false ∧
    (let j := { job with budget := true }
     ((withJobs [j]).plot 1).plt.job? j.idx = some j ∧ j.budget = true) := by decide +kernel
theorem hyp_abandon : (∀ n ∈ [1, 2, 3], let j : Job := { job with phase := .abandoning, code := .engine, attempts := n }
      ((withJobs [j]).plot 1).plt.job? j.idx = some j ∧ j.code.restartable = true ∧ (j.attempts ≤ j.desc.restarts ↔ n ≠ 3)) ∧
    ((live.plot 1).plt.state ≠ .stopping ∧ Code.image.restartable = false) := by decide +kernel

/-! ### Hypotheses that are met: mesh and memory -/

theorem hyp_runs : runs live 1 job := by unfold runs; decide +kernel
/-- A job that a fault abandoned at a TCLK edge. -/
def faulting (t : Nat) : Job := { job with phase := .abandoning, code := .image, faultAt := some t }
theorem hyp_faults : ∀ t ∈ [1999999, 2000000], ((withJobs [faulting t]).plot 1).plt.job? (faulting t).idx = some (faulting t) ∧
    (faulting t).phase = .abandoning ∧ ((faulting t).faultAt = some (withJobs [faulting t]).boot.tclk ↔ t = 2000000) ∧
    Code.image.rank < Code.hostDma.rank ∧ Code.desc.rank ≤ Code.image.rank ∧
    (let j := { job with budget := true }
     ((withJobs [j]).plot 1).plt.job? j.idx = some j ∧ j.phase ≠ .abandoning ∧ j.budget = true) := by decide +kernel
theorem hyp_multicast :
    (∃ r ts, findRoute live.msh.routes 1 1 = some (r, ts) ∧ r.kind = 2 ∧ ts = [14]) ∧
    (∃ r ts, findRoute live.msh.routes 1 2 = some (r, ts) ∧ r.kind = 1 ∧ r.flits = 0 ∧ ts = [14]) := by
  refine ⟨⟨_, _, rfl, ?_⟩, ⟨_, _, rfl, ?_⟩⟩ <;> decide +kernel
/-- A retry entry with open and refusing targets. -/
def retry1 (o r : List NodeId) : Retry := { src := 13, plot := 1, job := 7, entry := 1, flits := 2, at_ := 5, open_ := o, refused := r }
theorem hyp_retries : (let s := { live with msh := { live.msh with retries := [retry1 [14, 15] [15]] } }
      s.msh.retries = [] ++ retry1 [14, 15] [15] :: [] ∧ (14 : NodeId) ∈ (retry1 [14, 15] [15]).open_ ∧
      (retry1 [14, 15] [15]).open_.filter (fun x => x != 14) ≠ [] ∧ (14 : NodeId) ∉ (retry1 [14, 15] [15]).refused ∧
      (15 : NodeId) ∈ (retry1 [14, 15] [15]).refused) ∧
    (retry1 [14] []).open_.filter (fun x => x != 14) = [] ∧
    (let s := { live with msh := { live.msh with
        retries := (List.range 16).map (fun k => { retry1 [14] [] with entry := 100 + k }) } }
     16 ≤ (s.msh.retries.filter (fun x => x.src == 13)).length ∧ ∀ x ∈ s.msh.retries, x.is 13 1 1 = false) := by decide +kernel
theorem hyp_reserves : (let x : Reserve := { src := 13, plot := 1, job := 7, entry := 2, flits := 3, waiting := [14, 15], granted := [], launched := false }
     let s := { live with msh := { live.msh with reserves := [x] } }
     s.msh.reserves = [x] ∧ 14 ∈ x.waiting) ∧ live.msh.reserves = [] := by decide +kernel
theorem hyp_merged : ∀ b ∈ [false, true], let line := (0x1000 : BitVec 36).toNat / 64 * 64
    let m := ((pageMesh live 1 (some job) 0).getD 0)
    let s := { live with msh := { live.msh with poison := if b then [m + line % 65536] else [] } }
    pageAccess s 1 (line / 65536) = .ok ∧ pageMesh s 1 (some job) (line / 65536) = some m ∧
    s.msh.poison.contains (m + line % 65536) = b ∧ runs s 1 job := by unfold runs; decide +kernel
/-- Plot 1 with cache frames and one job. -/
def cached (j : Job) : State := { withJobs [j] with
  plots := (withJobs [j]).plots.set 1 { (withJobs [j]).plot 1 with msh := { atCache := 4, cmnCache := 1 } } }
/-- A free frame can be taken, whichever Compass chooses. -/
theorem takes_free {s : State} {q : PlotId} {b : Pool} (h : 0 < (freeFrames s q b).length) (page : Nat) (idle : Bool) :
    ∃ f u, takeFrame s q b page idle = some (f, u) := by
  unfold takeFrame chooseFrame
  have hk : Config.frameChoice s.boot.tclk b.key page % max (freeFrames s q b).length 1 < (freeFrames s q b).length := by
    have : max (freeFrames s q b).length 1 = (freeFrames s q b).length := by omega
    rw [this]; exact Nat.mod_lt _ h
  rw [List.getElem?_eq_getElem hk]
  exact ⟨_, _, rfl⟩
theorem hyp_writes :
    mayWrite live 1 0x800000000 1 = false ∧ mayWrite live 1 0 1 = true ∧ partPoison live 1 job 0 1 = none ∧
    (let s := { live with msh := { live.msh with poison := [((pageMesh live 1 (some job) 0).getD 0)] } }
     mayWrite s 1 0 1 = true ∧ partPoison s 1 job 0 1 = some (meshNode ((pageMesh live 1 (some job) 0).getD 0))) ∧
    (let j := { job with img := { job.img with wrPages := 6 } }
     j.img.wrPages < j.copies.length + j.copying.length + (newPages j 0x10000 1).length) ∧
    (job.copies.length + job.copying.length ≤ job.img.wrPages ∧ ∀ p ∈ pagesOf 0xFFFF 1, p ∈ job.copies) ∧
    (pagesOf 0x10000 1 = [1] ∧ 1 ∉ job.copies ∧ 1 ∉ job.copying ∧ job.copies.length + job.copying.length < job.img.wrPages ∧
      takeFrames live 1 job.idx [1] = none ∧ mayWrite (cached job) 1 0x10000 1 = true) ∧
    (let j := { job with copying := [1], writes := [([1], 0x10000, [5])] }
     ((cached j).plot 1).plt.job? j.idx = some j ∧ 1 ∈ j.copying ∧ 1 ∉ j.copies ∧ j.writes = [([1], 0x10000, [5])] ∧
     j.copies.length + j.copying.length ≤ j.img.wrPages ∧ (homePlace (cached j) 1 (65536 * 1)).isSome = true) := by
  decide +kernel
theorem hyp_firstWrite : ∃ u, takeFrames (cached job) 1 job.idx [1] = some u := by
  have hb : poolOf (cached job) 1 (65536 * 1) = some (.slice 13) := by decide +kernel
  obtain ⟨f, u, h⟩ := takes_free (s := cached job) (q := 1) (b := .slice 13) (by decide +kernel) 1 false
  simp [takeFrames, hb, h]
theorem hyp_backed :
    region live.cfg.content 1 (live.plot 1).msh 0xA0000000 = .unmapped ∧
    region live.cfg.content 1 (live.plot 1).msh 0x800000000 = .backed 0 ∧
    (∀ x ∈ (live.cfg.content.backing? 1 0).toList, (x.1.places (live.cfg.content.chan x.1.lane) x.2).any live.suspectAt = false) ∧
    (live.cfg.content.backing? 1 0).isSome = true ∧ (∀ r ∈ (live.plot 1).msh.resident, r.page ≠ 0) ∧
    (let s := { live with lanes := live.lanes.set 0 { suspect := 1 } }
     ∀ x ∈ (s.cfg.content.backing? 1 0).toList, (x.1.places (s.cfg.content.chan x.1.lane) x.2).any s.suspectAt = true) := by
  decide +kernel
/-- A page-in on lane 0 with some of its flash pages read. -/
def coming (n : Nat) : State :=
  let x : PageIn := { page := 0, node := 13, lane := 0, readers := [7], ctx := true,
                      got := (List.range n).map (fun k => (16384 * k, [5])) }
  { cached job with plots := (cached job).plots.set 1 { (cached job).plot 1 with
      msh := { ((cached job).plot 1).msh with pageIns := [x] } } }
theorem hyp_pageIns : ∀ n ∈ [3, 4], ∃ x, ((coming n).plot 1).msh.pageIns = [x] ∧ x.ctx = true ∧
    (pageInWhole (coming n) 1 x = true ↔ n = 4) ∧
    (∃ f u, takeFrame (coming n) 1 (pageInPool (coming n) 1 x.node) (0x80000 + x.page) true = some (f, u)) := by
  intro n hn
  simp only [List.mem_cons, List.not_mem_nil, or_false] at hn
  rcases hn with rfl | rfl <;>
    exact ⟨_, rfl, by decide +kernel, by decide +kernel, takes_free (by decide +kernel) _ _⟩
theorem hyp_noFrame : let s := { coming 4 with plots := (coming 4).plots.set 1 { (coming 4).plot 1 with
      msh := { ((coming 4).plot 1).msh with atCache := 0, cmnCache := 0 } } }
    ∀ x ∈ (s.plot 1).msh.pageIns, pageInWhole s 1 x = true ∧ (x.node = 13) ∧ freeFrames s 1 (pageInPool s 1 13) = [] ∧
      oldest s 1 (pageInPool s 1 13) true = none := by decide +kernel
theorem takes_none {s : State} {q : PlotId} {b : Pool} {idle : Bool} (h : freeFrames s q b = []) (page : Nat)
    (h' : oldest s q b idle = none) : takeFrame s q b page idle = none := by
  simp [takeFrame, chooseFrame, h, h']
theorem hyp_scrub : live.isReady = true ∧ live.msh.scrubEn = true ∧ meshAssigned (0x1800000 : Word).toNat = false ∧
    meshAssigned (0x1A000040 : Word).toNat = true ∧ (0x1A000040 : Word).toNat / 64 * 64 ∉ live.msh.poison ∧
    (let s := { live with msh := { live.msh with poison := [0x1A000040] } }
     (0x1A000078 : Word).toNat / 64 * 64 ∈ s.msh.poison) ∧
    ({ live with msh := { live.msh with scrubEn := false } } : State).msh.scrubEn = false := by decide +kernel
theorem hyp_pcache : (live.plot 1).plt.admitted ≠ 0 ∧
    (let s := liveWith (fun p => { p with plt := { p.plt with state := .idle, jobs := [] } })
     (s.plot 1).plt.admitted = 0 ∧ (s.plot 1).plt.state = .idle ∧
     pcacheMoves s.cfg.content 1 (s.plot 1).msh { (s.plot 1).msh with atCache := 1 } ≠ []) := by decide +kernel

/-! ### Hypotheses that are met: the anneal fabric -/

/-- A tile of one variable. -/
def tile1 : AnTile :=
  { idx := 0, format := 2, v := 1, coup := 0x1000, shifts := [0],
    bias := [0], order := [0], spins := [false], best := [false], fields := [0] }
/-- Plot 1's fabric holds the attempt of its job. -/
def fabric (f : AnPlot → AnPlot) : State := liveWith (fun p => { p with
  an := f { p.an with job := 7, bestValid := true, n := 1, left := 2, tiles := [tile1] } })
/-- `live` with a byte of plot 1's memory. -/
def holding (a : Nat) (v : Byte) : State := { live with mem := [(memKey 1 a, v)] }
theorem hyp_initialPass : annealSec live 1 = some anneal1 ∧ grafts live 1 = false ∧ job.passed = false ∧
    (∀ e ∈ tileEntries anneal1, inSlice e.tile e.coup = true ∧ (∀ r ∈ tileTables 1 e, readAccess live 1 job r.1 r.2 = .ok) ∧
      ∀ r ∈ tileColumns 1 none e, readAccess live 1 job r.1 r.2 = .ok) ∧
    (∀ e ∈ (tileEntries anneal1).zip ((tileEntries anneal1).map (loadTile live 1 job 1)), isPerm e.2.order e.1.v = true) ∧
    (let j := { job with passed := true }
     runs (withJobs [j]) 1 j) := by unfold runs; decide +kernel
/-- The section with a byte of its tile's entry changed. -/
def anneal2 (k : Nat) (v : Byte) : Section := { anneal1 with entries := anneal1.entries.map (fun e => e.set k v) }
/-- `live` under that section. -/
def tiled (k : Nat) (v : Byte) : State :=
  { live with cfg := { live.cfg with content := { content1 with secs := [anneal2 k v, search1] } }, mem := [(memKey 1 0x4000, 1)] }
theorem hyp_badTile : runs (withJobs [job0]) 1 job0 ∧ job0.passed = false ∧
    (let s := tiled 3 1
     grafts s 1 = false ∧ (annealSec s 1).isSome = true ∧ ∀ x ∈ (annealSec s 1).toList,
      (∀ e ∈ tileEntries x, inSlice e.tile e.coup = true ∧ ∀ r ∈ tileTables x.param e, readAccess s 1 job0 r.1 r.2 = .ok) ∧
      (((tileEntries x).zip ((tileEntries x).map (loadTile s 1 job0 x.param))).find? (fun y => !isPerm y.2.order y.1.v)).isSome = true) ∧
    (let s := tiled 19 2
     ∀ x ∈ (annealSec s 1).toList, ((tileEntries x).find? (fun e => !inSlice e.tile e.coup)).isSome = true) ∧
    (let s := tiled 60 8
     ∀ x ∈ (annealSec s 1).toList,
      (∀ e ∈ tileEntries x, inSlice e.tile e.coup = true ∧
        ∀ r ∈ tileTables x.param e, readAccess s 1 job0 r.1 r.2 = .ok ∨ readAccess s 1 job0 r.1 r.2 = .wait) ∧
      ∃ e ∈ tileEntries x, ∃ r ∈ tileTables x.param e, readAccess s 1 job0 r.1 r.2 = .wait) := by unfold runs; decide +kernel
theorem hyp_attempt : holdsAttempt (fabric id) 1 job := by unfold holdsAttempt runs; decide +kernel
theorem hyp_annealRuns :
    (let s := fabric id
     (s.plot 1).an.state = .idle ∧ (s.plot 1).an.bestValid = true ∧ grafts s 1 = false ∧ (planSched s 1).count = 1) ∧
    (let s := fabric (fun p => { p with state := .run })
     (s.plot 1).an.state = .run ∧ (s.plot 1).an.runLeft = 0 ∧ (s.plot 1).an.inflight = [] ∧ (s.plot 1).an.sweepDue = false ∧
     (s.plot 1).an.auditDue = false ∧ (s.plot 1).an.left ≠ 0 ∧ (planSched s 1).stallEn = false) := by decide +kernel
theorem hyp_slots :
    (let s := fabric (fun p => { p with unit := 63, state := .run })
     let s := { s with pwr := { s.pwr with levels := s.pwr.levels.set 0 (Vector.replicate 12 1) } }
     isBubble (s.plot 1).an.unit (levelInForce s.pwr 0 (s.classOf 1)) = true) ∧
    (let s := fabric (fun p => { p with state := .drain, inflight := [⟨0, 0, 0⟩] })
     isBubble (s.plot 1).an.unit (levelInForce s.pwr 0 (s.classOf 1)) = false ∧ duePoison s 1 job = none) ∧
    ∀ b ∈ [11, 12], (let s := fabric (fun p => { p with state := .run })
      let s := { s with nse := { s.nse with wells := s.nse.wells.set 0 { state := .healthy, fifo := { bits := 5, len := b } } } }
      let x := ((s.plot 1).an.tiles[0]?).getD {}
      (s.plot 1).an.tiles = [x] ∧ job.strict = false ∧ 0 < job.cap ∧ x.queue = [] ∧ x.candidate = some 0 ∧
      blocked (s.plot 1).an 0 x 0 = false ∧ wordSource s 1 = .well ∧ tileFamily s 1 x.idx = some 0 ∧
      (s.plot 1).an.sweepDue = false ∧ (s.plot 1).an.auditDue = false ∧ (s.plot 1).an.left ≠ 0 ∧
      (planSched s 1).stallEn = false ∧ (s.nse.wells[(0 : Fin 64)].fifo.word = none ↔ b = 11) ∧
      isBubble (s.plot 1).an.unit (levelInForce s.pwr 0 (s.classOf 1)) = false ∧ duePoison s 1 job = none) := by decide +kernel
theorem hyp_sweeps : (let s := fabric (fun p => { p with state := .run, sweepDue := true })
      (s.plot 1).an.state = .run ∧ (s.plot 1).an.sweepDue = true) ∧
    ∀ x ∈ [(0 : Int), 5], (let s := fabric (fun p => { p with auditDue := true, energy := x })
      let p := (s.plot 1).an
      let ms := p.tiles.map (tileMatrix s 1 job p.n)
      p.auditDue = true ∧ p.inflight = [] ∧
      (∀ x ∈ p.tiles, ∀ r ∈ columnRanges p.n x.mask x.coup (colStride x.v x.format), poisonAt s 1 job r.1 r.2 = none) ∧
      (∀ y ∈ p.tiles.zip ms, freshFields (spinVec p.tiles p.n) y.1 y.2 = y.1.fields) ∧
      (freshEnergy p.tiles ms (spinVec p.tiles p.n) + p.offset = p.energy ↔ x = 0)) := by decide +kernel
/-- A schedule with a stall window of one sweep. -/
def anneal3 : Section := { anneal1 with entries := anneal1.entries ++ [fields 16 [(0, 1, 4), (1, 1, 1), (4, 2, 3), (6, 2, 9)]] }
/-- Plot 1's fabric after `b` sweeps of its window. -/
def stalling (b : Nat) : State := { fabric (fun p => { p with state := .run, c := b, left := 0 }) with
  cfg := { live.cfg with content := { content1 with secs := [anneal3] } } }
theorem hyp_schedule : ∀ n ∈ [0, 1], (planSched (stalling n) 1).stallEn = true ∧
    (2 ^ (planSched (stalling n) 1).k ≤ ((stalling n).plot 1).an.c ↔ n = 1) ∧ ((stalling n).plot 1).an.auditDue = false ∧
    ((stalling n).plot 1).an.left = 0 ∧ ((stalling n).plot 1).an.state = .run := by decide +kernel

/-! ### Hypotheses that are met: noise -/

/-- A device whose wells and channels are in a state. -/
def noisy (w : WellState) (f : NseState → NseState) : State := { ready with nse := f { ready.nse with
  wells := Vector.replicate 64 { state := w }, chans := Vector.replicate 4 { state := w } } }
theorem hyp_sources : (∀ w ∈ [WellState.startup, .healthy, .failed, .locked],
      (noisy w id).nse.wells[(63 : Fin 64)].state = w ∧ (noisy w id).nse.chans[(3 : Fin 4)].state = w ∧
      (noisy w id).nse.chans[(3 : Fin 4)].warm ≠ 1 ∧ (noisy w id).hostOk 0 = true ∧ (noisy w id).hostOk 1 = true) ∧
    ∀ w ∈ [WellState.startup, .failed], let s := noisy .healthy (fun x => { x with chans := x.chans.set 3 { state := w, warm := 1 } })
      s.nse.chans[(3 : Fin 4)].state = w ∧ s.nse.chans[(3 : Fin 4)].warm = 1 := by decide +kernel
theorem hyp_failures : ∀ l ∈ [false, true], let s := noisy .healthy (fun x => { x with logged := if l then [.channel 3] else [] })
    s.nse.chans[(3 : Fin 4)].state ≠ .locked ∧ (s.nse.logged.contains (.channel 3) = false ↔ l = false) := by decide +kernel
theorem hyp_reservoirs : (∀ n ∈ [(63 : Nat), 64], let s := noisy .healthy (fun x =>
      { x with wells := Vector.replicate 64 { state := .healthy, short := n, fifo := { len := 32700 } } })
    s.nse.wells[(63 : Fin 64)].state = .healthy ∧ (64 ≤ s.nse.wells[(63 : Fin 64)].short ↔ n = 64)) := by decide +kernel
theorem hyp_blocks :
    (let s := noisy .healthy (fun x => { x with chans := Vector.replicate 4 { state := .healthy, half := some 9 } })
     s.nse.chans[(3 : Fin 4)].half = some 9 ∧ s.nse.chans[(3 : Fin 4)].state ≠ .locked ∧ s.nse.pool.length < 256 ∧
     (noisy .healthy id).nse.chans[(3 : Fin 4)].half = none ∧ (noisy .locked id).nse.chans[(3 : Fin 4)].state = .locked ∧
     (noisy .locked id).nse.pool = []) ∧
    (let s := noisy .healthy (fun x => { x with pool := [3] })
     let k := { s with aux := { s.aux with key := none } }
     k.nse.pool = [3] ∧ drawsKey k = true ∧ drawsKey s = false ∧ nextDrawTile s = none ∧ nextRng s = none) ∧
    (let s := noisy .healthy (fun x => { x with pool := [3], wells := Vector.replicate 64 { state := .healthy, draw := true } })
     drawsKey s = false ∧ nextDrawTile s = some 0) ∧
    (let s := noisy .healthy (fun x => { x with pool := [3], rng := x.rng.set 1 { busy := true, want := 1 } })
     drawsKey s = false ∧ nextDrawTile s = none ∧ nextRng s = some 1) := by decide +kernel
theorem hyp_random : reaches 0 1 = true ∧ reaches 1 1 = true ∧ ready.nse.rng[(1 : Fin 65)].busy = false ∧
    ready.nse.rng[(1 : Fin 65)].addr.toNat % 64 = 0 ∧ ready.nse.dwHostEn = true ∧
    (16384 : BitVec 15).toNat ≤ 16384 ∧ 16384 < (16385 : BitVec 15).toNat ∧
    (noisy .healthy (fun x => { x with dwHostEn := false })).nse.dwHostEn = false ∧
    (∀ y ∈ [({ busy := true } : RngSet), { busy := true, up := true }, { busy := true, up := true, again := true }],
      let s := noisy .healthy (fun x => { x with rng := x.rng.set 1 y })
      s.nse.rng[(1 : Fin 65)] = y ∧ y.busy = true ∧ s.hostOk 1 = true) := by decide +kernel
/-- Plot 1 plays or records a tape of two segments a lane. -/
def taped (dir on : Bool) (l : TapeLane) : State := liveWith (fun p => { p with
  rws := { p.rws with tapeOn := on, tapeDir := dir, tapeLen := 2 },
  nse := { p.nse with lanes := p.nse.lanes.set 0 l, cap := some { p.rws with tapeOn := on, tapeDir := dir, tapeLen := 2 } } })
theorem hyp_doorbells : ∀ d ∈ [false, true], let s := taped d true {}
    let occ (x : BitVec 16) : Nat := if (tapeRws s 1).tapeDir then occupancy (laneOf s 1 0).tail x else occupancy x (laneOf s 1 0).head
    s.hostOk 1 = true ∧ reaches 1 1 = true ∧ (s.plot 1).rws.tapeOn = true ∧ 0 < (s.cfg.content.tileList 1).length ∧
    (tapeRws s 1).tapeDir = d ∧ (tapeRws s 1).tapeOn = true ∧ (tapeRws s 1).tapeLen = 2 ∧ (s.plot 1).nse.halted = none ∧
    s.permitted 1 = true ∧ (laneOf s 1 0).flight = 0 ∧ (laneOf s 1 0).bufs.length < 4 ∧
    (d = false → occ 1 = 1 ∧ occ 2 = 2 ∧ occ 3 = 3) ∧ (d = true → occ 0 = 0 ∧ occ 1 = 65535) := by decide +kernel
theorem hyp_segments : (laneOf (taped false true { flight := 1 }) 1 0).flight = 1 ∧
    (laneOf (taped false true { flight := 1 }) 1 0).refetch = false ∧ tapeJob (taped false true { flight := 1 }) 1 = some job.idx ∧
    runs (taped false true { flight := 1 }) 1 job ∧ (laneOf (taped false true { flight := 1, refetch := true }) 1 0).refetch = true ∧
    (let s := (taped false true { flight := 1 }).modPlot 1 (fun p => { p with plt := { p.plt with jobs := [] } })
     tapeJob s 1 = none ∧ (tapeRws s 1).tapeOn = true ∧ (tapeRws s 1).tapeDir = false ∧ (s.plot 1).nse.halted = none ∧
     s.permitted 1 = true) ∧
    (laneOf (taped false true {}) 1 0).flight = 0 ∧ segmentReason (slice (fields 4096 []) 0 4096) 0 0 ≠ 0 ∧
    (let s := taped true true { record := List.replicate 2688 5 }
     let l := laneOf s 1 0
     let c := tapeRws s 1
     c.tapeOn = true ∧ c.tapeDir = true ∧ 2688 ≤ l.record.length ∧ occupancy l.tail l.head < c.tapeLen.toNat ∧
     s.permitted 1 = true) := by unfold runs; decide +kernel
/-- The CRC-32C register over zero bytes, evaluated byte by byte. -/
def crcZeros : Nat → Nat → Nat
  | 0, c => c
  | n + 1, c => match (crcByte (BitVec.ofNat 32 c) 0).toNat with
    | 0 => crcZeros n 0
    | k + 1 => crcZeros n (k + 1)
theorem crcZeros_spec (n : Nat) : ∀ c : Word, (List.replicate n (0 : Byte)).foldl crcByte c = BitVec.ofNat 32 (crcZeros n c.toNat) := by
  induction n with
  | zero => intro c; simp [crcZeros]
  | succ n ih =>
    intro c
    rw [List.replicate_succ, List.foldl_cons, ih, crcZeros]
    rw [BitVec.ofNat_toNat, BitVec.setWidth_eq]
    split <;> simp_all
theorem crcZeros_payload : crcZeros 4032 0xFFFFFFFF = 0x5ca2665d ^^^ 0xFFFFFFFF := by decide +kernel
/-- A segment numbered 0 for within-plot tile 0, of three zero words. -/
def segment0 : List Byte := fields 64 [(0, 4, 0x54374E41), (10, 2, 3), (56, 4, 0x5ca2665d), (60, 4, 0xbfc02dc4)] ++ List.replicate 4032 0
theorem hyp_segment : segmentReason (slice segment0 0 4096) 0 0 = 0 := by
  have h : crc32c (((slice segment0 0 4096).drop 64).take 4032) = 0x5ca2665d := by
    have h : ((slice segment0 0 4096).drop 64).take 4032 = List.replicate 4032 0 := by decide +kernel
    rw [h, crc32c, crcZeros_spec]
    show BitVec.ofNat 32 (crcZeros 4032 0xFFFFFFFF) ^^^ _ = _
    rw [crcZeros_payload]
    decide +kernel
  unfold segmentReason
  rw [h]
  decide +kernel

/-! ### Hypotheses that are met: grafting -/

/-- A problem of one block grafted on a tile of 512 variables: its GRAFT entry with a policy, and its section. -/
def graftBytes (policy : Nat) : List Byte := fields 64 [(0, 1, 6), (1, 1, policy), (3, 1, 2), (4, 4, 512), (8, 2, 1), (10, 2, 1),
  (14, 2, 1), (16, 4, 1), (20, 4, 1), (24, 4, 0x2000000), (28, 4, 0x2000400), (32, 4, 0x2000800), (36, 4, 0x2000C00), (40, 4, 0x2000100)]
/-- The section, with the place of the tile's shift table. -/
def anneal4 (policy shift : Nat) : Section := { type := 0x10, plot := 1, param := 512, entries := [
  fields 64 [(0, 1, 2), (2, 1, 2), (4, 2, 512), (24, 8, shift), (40, 8, 0x300000), (56, 8, 0x400000)],
  fields 16 [(0, 1, 3), (1, 1, 1)], fields 16 [(0, 1, 5), (4, 2, 512), (8, 4, 2)], graftBytes policy] }
/-- Plot 1 grafts under a section, for a job. -/
def graftingAs (k : Job) (x : Section) (f : Plot → Plot) : State :=
  let s := withJobs [k]
  { s with plots := s.plots.set 1 (f (s.plot 1)), cfg := { s.cfg with content := { content1 with secs := [x, search1] } } }
/-- The same for the usual job. -/
def grafting (policy shift : Nat) (f : Plot → Plot) : State := graftingAs job (anneal4 policy shift) f
/-- What is grafted. -/
def graft (policy : Nat) : GraftEntry := graftEntry (graftBytes policy)
/-- The section with its directory at a backed page. -/
def anneal6 : Section := { anneal4 0 0x200000 with
  entries := (anneal4 0 0x200000).entries.map (fun e => if leAt e 0 1 = 6 then e.set 27 0x20 else e) }
theorem hyp_graftOf : graftOf (grafting 0 0x200000 id) 1 = some (graft 0, anneal4 0 0x200000) ∧ runs (grafting 0 0x200000 id) 1 job ∧
    graftOf (grafting 1 0x200000 id) 1 = some (graft 1, anneal4 1 0x200000) ∧
    graftOf (grafting 0 0x80000000 id) 1 = some (graft 0, anneal4 0 0x80000000) ∧ (graft 0).nb = 1 ∧ 8 ≤ (graft 0).total ∧
    (∀ ph ∈ [(3 : BitVec 3), 4], let s := grafting 0 0x200000 (fun p => { p with
        an := { p.an with job := 7, bestValid := true }, grf := { p.grf with phase := ph } })
      holdsAttempt s 1 job ∧ (s.plot 1).grf.phase = ph ∧ (s.plot 1).an.state = .idle ∧ (s.plot 1).an.bestValid = true ∧
      0 < (graft 0).sweeps) := by
  unfold holdsAttempt runs; decide +kernel
theorem hyp_fullPass : (let s := grafting 0 0x200000 id
      let e := graft 0
      let x := anneal4 0 0x200000
      job.passed = false ∧ (s.plot 1).grf.scan = none ∧ badScratch s 1 e x = none ∧
      (∀ a, a < e.nb → rowOk s 1 job e a ∧ rowReads s 1 job e x a ∧ scratchOn e x (rowPages s 1 job e a) = none) ∧
      readAccess s 1 job e.state (e.total / 8) = .ok ∧ landAtOnce s 1 job (bestWrite s 1 job e)) ∧
    runs (graftingAs { job with passed := true } (anneal4 0 0x200000) id) 1 { job with passed := true } ∧
    badScratch (grafting 0 0x80000000 id) 1 (graft 0) (anneal4 0 0x80000000) = some 0 ∧
    (let s := graftingAs job anneal6 id
     ∀ y ∈ (graftOf s 1).toList, y.2 = anneal6 ∧ badScratch s 1 y.1 anneal6 = none ∧ 0 < y.1.nb ∧ readAccess s 1 job y.1.dir 8 = .wait) ∧
    (graftOf (graftingAs job anneal6 id) 1).isSome = true := by
  unfold rowOk rowReads landAtOnce runs; decide +kernel
theorem hyp_fullRows : (∀ k ∈ [(4 : Nat), 6], let s := { graftingAs job0 (anneal4 0 0x200000) id with mem := [(memKey 1 (0x80000000 + k), 2)] }
      let e := graft 0
      runs s 1 job0 ∧ badScratch s 1 e (anneal4 0 0x200000) = none ∧ readAccess s 1 job0 e.dir 8 = .ok ∧
      (k = 4 → e.nb < (rowHead s 1 job0 e 0).2) ∧
      (k = 6 → readAccess s 1 job0 (e.entryAddr (rowHead s 1 job0 e 0).1) (16 * (rowHead s 1 job0 e 0).2) = .ok ∧
        (dirRow s 1 job0 e 0).ok e.nb = false)) ∧
    (let s := { graftingAs job0 (anneal4 0 0x200000) id with mem := [(memKey 1 0x80000004, 1)] }
     let e := graft 0
     rowOk s 1 job0 e 0 ∧ scratchOn e (anneal4 0 0x200000) (rowPages s 1 job0 e 0) = some 0) := by
  unfold rowOk runs; decide +kernel
theorem hyp_scion :
    (∀ ph ∈ [(1 : BitVec 3), 6], let s := grafting 0 0x200000 (fun p => { p with grf := { p.grf with phase := ph, slots := [0] } })
      (s.plot 1).grf.auditDue = false ∧ (s.plot 1).grf.scan = none ∧ (s.plot 1).grf.phase = ph ∧ s.hccs[(3 : Fin 4)] = {} ∧
      (chooseScion s 1 job (graft 0) (s.plot 1).grf (if ph = 1 then 0 else 1)).isSome = true) ∧
    (let s := { grafting 0 0x200000 id with hccs := live.hccs.set 3 { dirty := some (1, 7) } }
     s.hccs[(3 : Fin 4)] ≠ {}) ∧
    (let s := { graftingAs job0 (anneal4 1 0x200000) (fun p => { p with grf := { p.grf with phase := 1 } }) with mem := [(memKey 1 0x80004000, 1)] }
     runs s 1 job0 ∧ (graft 1).policy = 1 ∧ readAccess s 1 job0 (graft 1).list 2 = .ok ∧
     chooseScion s 1 job0 (graft 1) (s.plot 1).grf 0 = none) := by unfold runs; decide +kernel
/-- Plot 1 stages its graft. -/
def staging1 : State := graftingAs job0 (anneal4 0 0x200000) (fun p => { p with grf := { p.grf with phase := 2, slots := [0] } })
theorem hyp_stage : let s := staging1
    let r := (s.plot 1).grf
    let e := graft 0
    let x := anneal4 0 0x200000
    graftOf s 1 = some (e, x) ∧ runs s 1 job0 ∧ r.phase = 2 ∧ r.scan = none ∧ r.slots = [0] ∧ r.slots.length ≤ e.w ∧
    (∀ b ∈ r.slots, b < e.nb) ∧ s.msh.poison = [] ∧ badScratch s 1 e x = none ∧
    (∀ z ∈ bookRange x, offScratch e x (pagesOf z.1 z.2) ∧ readAccess s 1 job0 z.1 z.2 = .ok) ∧
    (∀ k ∈ (s.plot 1).plt.jobs, offScratch e x k.copies) ∧
    ((tileEntries x)[r.slots.length - 1]?).isSome = true ∧ r.slots.getLast? = some 0 := by
  unfold runs offScratch; decide +kernel
theorem hyp_stageSlots : ∀ k b, (staging1.plot 1).grf.slots[k]? = some b →
    slotReads staging1 1 job0 (graft 0) (anneal4 0 0x200000) (staging1.plot 1).grf k b := by
  have h : (staging1.plot 1).grf.slots = [0] := by decide +kernel
  intro k b hk
  rw [h] at hk
  match k with
  | 0 =>
    cases hk
    have hp : rowPairs staging1 1 job0 (graft 0) (staging1.plot 1).grf.slots 0 0 = [] := by decide +kernel
    refine ⟨?_, ?_, ?_, ?_, ?_⟩
    · unfold rowOk; decide +kernel
    · unfold offScratch; decide +kernel
    · decide +kernel
    · decide +kernel
    · rw [hp]; simp
  | k + 1 => simp at hk
/-- The section with a tile of one variable, and a byte of its entry changed. -/
def anneal5 (k : Nat) (v : Byte) : Section := { anneal4 0 0x200000 with
  entries := (anneal4 0 0x200000).entries.map (fun e => if leAt e 0 1 = 2 then ((e.set 4 1).set 5 0).set k v else e) }
/-- Plot 1 has staged its graft. -/
def staged (k : Nat) (v : Byte) : State := { graftingAs job0 (anneal5 k v)
  (fun p => { p with grf := { p.grf with phase := 3, slots := [0] } }) with mem := [(memKey 1 0, 1)] }
theorem hyp_graftPass :
    (let s := staged 5 0
     let x := anneal5 5 0
     let r := (s.plot 1).grf
     let ts := graftTiles s 1 job0 r x.param (tileEntries x)
     graftOf s 1 = some (graft 0, x) ∧ runs s 1 job0 ∧ r.phase = 3 ∧ r.scan = none ∧
     (∀ y ∈ tileEntries x, inSlice y.tile y.coup = true) ∧
     (∀ y ∈ tileEntries x, ∀ z ∈ tileTables x.param y, readAccess s 1 job0 z.1 z.2 = .ok) ∧
     (∀ b ∈ (tileEntries x).zip ts, isPerm b.2.order b.1.v = true) ∧
     ∀ y ∈ tileEntries x, ∀ z ∈ tileColumns x.param (some (r.mask y.tile)) y, readAccess s 1 job0 z.1 z.2 = .ok) ∧
    ((tileEntries (anneal5 19 2)).find? (fun y => !inSlice y.tile y.coup)).isSome = true ∧
    (let s := staged 3 1
     let x := anneal5 3 1
     (∀ y ∈ tileEntries x, inSlice y.tile y.coup = true) ∧
     (∀ y ∈ tileEntries x, ∀ z ∈ tileTables x.param y, readAccess s 1 job0 z.1 z.2 = .ok) ∧
     (((tileEntries x).zip (graftTiles s 1 job0 (s.plot 1).grf x.param (tileEntries x))).find?
       (fun y => !isPerm y.2.order y.1.v)).isSome = true) := by unfold runs; decide +kernel
theorem hyp_harvest : let s := grafting 0 0x200000 (fun p => { p with
      grf := { p.grf with phase := 5, slots := [0] }, an := { p.an with bestNew := true, tiles := [tile1] } })
    let e := graft 0
    let p := (s.plot 1).an
    let best := (e.best, replaceBlocks (jobBytes s 1 job e.state (e.total / 8)) [0] (p.tiles.map (fun t => spinBytes t.best)))
    (s.plot 1).grf.phase = 5 ∧ p.state = .idle ∧ readAccess s 1 job e.state (e.total / 8) = .ok ∧
    landAtOnce s 1 job (best :: (([0] : List Nat).zip p.tiles).map (fun y => (e.state + 64 * y.1, spinBytes y.2.spins))) := by
  unfold landAtOnce; decide +kernel
theorem hyp_graftAudit : ∀ x ∈ [(0 : Int), -5, 5], let s := grafting 0 0x200000 (fun p => { p with
      grf := { p.grf with auditDue := true }, an := { p.an with energy := x, bestEnergy := x } })
    let e := graft 0
    (s.plot 1).grf.auditDue = true ∧ (s.plot 1).grf.scan = none ∧ (s.plot 1).grf.logged = false ∧
    (fullEnergy s 1 job e (graftBook s 1 job (anneal4 0 0x200000)) = (s.plot 1).an.energy ↔ x = 0) ∧
    (fullEnergy s 1 job e (graftBook s 1 job (anneal4 0 0x200000)) < (s.plot 1).an.bestEnergy ↔ x = 5) ∧
    (∀ a, a < e.nb → rowOk s 1 job e a ∧ rowReads s 1 job e (anneal4 0 0x200000) a) ∧
    readAccess s 1 job e.state (e.total / 8) = .ok ∧ landAtOnce s 1 job (bestWrite s 1 job e) := by
  unfold landAtOnce rowOk rowReads; decide +kernel

/-! ### Hypotheses that are met: matrix engines, helper clusters, conversions -/

/-- One group of one output on engine 0. -/
def op1 : MxeOp := { weight := 1, act := 2, m := 1, n := 1, kbn := 1, pl := 0, format := .x72, out := .rows 0x80010000 }
/-- Engine 0 runs an operation with a bank. -/
def engaged (o : MxeOp) (rows : List (List Int)) : State := { live with
  mxes := live.mxes.set 0 { bank0 := { rows := rows }, run := some { plot := 1, job := 7, op := o } } }
/-- The committed tensors with a byte of each changed. -/
def quant3 (k : Nat) (v : Byte) : Section := { quant1 with entries := quant1.entries.map (fun e => e.set k v) }
/-- The same state with those tensors. -/
def requant (s : State) (x : Section) : State := { s with cfg := { s.cfg with content := { content1 with secs := [x, search1] } } }
/-- Tensors 1 and 2 of the committed content. -/
def w1 : QuantEntry := quantEntry ((quant1.entries[0]?).getD [])
def a1 : QuantEntry := quantEntry ((quant1.entries[1]?).getD [])
theorem hyp_operations : opTensors live 1 op1 = some (w1, a1) ∧ (live.cfg.content.mxes 1).getLsbD 0 = true ∧
    live.mxes[(0 : Fin 16)].run = none ∧ live.mxes[(0 : Fin 16)].carry = none ∧ op1.resume = false ∧ op1.search = none ∧
    opTensors live 1 { op1 with act := 9 } = none ∧ (live.cfg.content.mxes 1).getLsbD 1 = false ∧
    carryFits 1 7 op1 none = true ∧ carryFits 1 7 { op1 with resume := true } none = false ∧
    (∀ l ∈ [false, true], let o := { op1 with wLocal := l }
      let rw := w1.ranges (w1.gsize job)
      let ra := a1.ranges (a1.gsize job)
      (∀ r ∈ sliceRanges o rw ra, inEngine live 1 0 r = true) ∧ (∀ k < opTiles o, ∀ r ∈ epiReads o k, inEngine live 1 0 r = true) ∧
      sumNat ((localRanges o rw ra).map (·.2)) ≤ 1048576 ∧ (l = true → localRanges o rw ra ≠ []) ∧
      (∀ r ∈ rw ++ ra, readAccess live 1 job r.1 r.2 = .ok)) ∧
    (let s := requant live (quant3 27 0)
     (opTensors s 1 op1).isSome = true ∧ ∀ z ∈ (opTensors s 1 op1).toList,
       op1.wLocal = false ∧ (sliceRanges op1 (z.1.ranges (z.1.gsize job)) []).all (inEngine s 1 0) = false) := by decide +kernel
/-- Engine 0 carries a tile. -/
def carrying (r : MxeRun) : State := { live with mxes := live.mxes.set 0 { carry := some r } }
theorem hyp_carries : (let r : MxeRun := { plot := 2, job := 7, op := op1 }
      let s := carrying r
      s.mxes[(0 : Fin 16)].run = none ∧ carryFits 1 7 op1 s.mxes[(0 : Fin 16)].carry = true ∧
      s.mxes[(0 : Fin 16)].carry ≠ none ∧ MxeRun.of s.mxes[(0 : Fin 16)].carry 1 7 = false) ∧
    (let r : MxeRun := { plot := 1, job := 7, op := op1 }
     let s := carrying r
     carryFits 1 7 op1 s.mxes[(0 : Fin 16)].carry = false ∧
     carryFits 1 7 { op1 with resume := true } s.mxes[(0 : Fin 16)].carry = true ∧
     MxeRun.of s.mxes[(0 : Fin 16)].carry 1 7 = true) := by decide +kernel
/-- A vector of 16 elements, and 256 centroid columns. -/
def quant4 : Section := { type := 0x11, plot := 1, entries := [
  fields 64 [(0, 2, 3), (2, 1, 4), (3, 1, 2), (10, 1, 0xE0), (11, 1, 31), (12, 4, 16), (16, 4, 1), (24, 8, 0x80020000), (32, 8, 0x80030000)],
  fields 64 [(0, 2, 4), (3, 1, 2), (4, 1, 1), (10, 1, 0xE0), (11, 1, 31), (12, 4, 16), (16, 4, 256), (24, 8, 0x80000000), (32, 8, 0x80010000)]] }
/-- Engine 0, the IDs it has still to read, and plot 1's memory, with a search operator. -/
def ranking (o : SearchOp) (ids : List Nat) (m : List Host.Cell) : State :=
  let s := requant (withJobs [job0]) quant4
  { s with mem := m, mxes := live.mxes.set 0 { run := some { plot := 1, job := 7, op := { op1 with search := some o }, ids := ids } } }
/-- A table, and an exact distance of rows of `w` bytes. -/
def pq1 : SearchOp := .pqTable 0 3 0 4 true 0 0x80010000
/-- The backed page's entry. -/
def backing1 : Backing := ((content1.backings 1)[0]?).getD ⟨0, 0, 0, 0, 0, 0, 0, 0⟩
def rr1 (w : Nat) : SearchOp := .rerank 0 backing1.id w 3 3 0 true 1 0x80010000
theorem hyp_searchStarts :
    (let s := ranking pq1 [] []
     runs s 1 job0 ∧ (pqTensors s.cfg.content 1 0 3 0 4 0x80010000).isSome = true ∧ pqTensors s.cfg.content 1 0 9 0 4 0x80010000 = none ∧
     ∀ z ∈ (pqTensors s.cfg.content 1 0 3 0 4 0x80010000).toList,
       ∀ r ∈ pqReads job0 0 z, inEngine s 1 0 r = true ∧ readAccess s 1 job0 r.1 r.2 = .ok) ∧
    (let s := ranking (rr1 16) [] []
     (rerankTensors s.cfg.content 1 backing1.id 3 3 0).isSome = true ∧ rerankTensors s.cfg.content 1 backing1.id 9 3 0 = none ∧
     jobNat s 1 job0 0 2 ≤ 256 ∧ readAccess s 1 job0 0 64 = .ok ∧ readAccess s 1 job0 0 (64 + 16 * jobNat s 1 job0 0 2) = .ok) := by
  unfold runs; decide +kernel
theorem hyp_pqTable : (let s := ranking pq1 [] []
      ∀ z ∈ (pqTensors s.cfg.content 1 0 3 0 4 0x80010000).toList, (pqEntry s 1 job0 0 true 0 0 z 7 255).isSome = true) ∧
    (let s := ranking pq1 [] [(memKey 1 0x80010000, 1), (memKey 1 0x80030000, 1)]
     ∀ z ∈ (pqTensors s.cfg.content 1 0 3 0 4 0x80010000).toList, pqEntry s 1 job0 0 true (-1000) 0 z 0 0 = none) := by decide +kernel
theorem hyp_rerank :
    (∀ b ∈ [false, true], let s := (ranking (rr1 16) [0] []).modPlot 1 (fun p => { p with msh := { p.msh with
        resident := if b then [⟨0, some 0, 0, true, 1⟩] else [] } })
      ∀ z ∈ (rerankTensors s.cfg.content 1 backing1.id 3 3 0).toList,
        rowInside (rawRow z.2.1 job0 z.1 16 0) z.1 = true ∧
        (∀ y ∈ (rawRow z.2.1 job0 z.1 16 0).rowRanges job0 0 ++ z.2.2.rowRanges job0 0,
          readAccess s 1 job0 y.1 y.2 = .ok ∨ (b = false ∧ readAccess s 1 job0 y.1 y.2 = .wait)) ∧
        (b = false → ∃ y ∈ (rawRow z.2.1 job0 z.1 16 0).rowRanges job0 0 ++ z.2.2.rowRanges job0 0, readAccess s 1 job0 y.1 y.2 = .wait) ∧
        (rerankDistance s 1 job0 true 0 (rawRow z.2.1 job0 z.1 16 0) z.2.2 0).isSome = true) ∧
    (let s := ranking (rr1 16) [100000] []
     ∀ z ∈ (rerankTensors s.cfg.content 1 backing1.id 3 3 0).toList,
       rowInside (rawRow z.2.1 job0 z.1 16 100000) z.1 = false) := by decide +kernel
theorem hyp_swaps :
    (let s := engaged op1 []
     op1.parts ≤ 0 ∧ op1.openEnd = false ∧ op1.sendTo = none ∧ opTensors s 1 op1 = some (w1, a1) ∧
     (∀ y ∈ sliceRanges op1 (w1.ranges (w1.gsize job)) (a1.ranges (a1.gsize job)) ++ epiReads op1 0,
       readAccess s 1 job y.1 y.2 = .ok) ∧
     tileSums s 1 job op1 w1 a1 0 s.mxes[(0 : Fin 16)] = some [[0]] ∧
     drainTile s 1 job op1 0 [[0]] = some [[(0, false)]] ∧ (tileWrites s 1 job op1 0 [[(0, false)]]).isSome = true) ∧
    (let s := engaged op1 [[2 ^ 71]]
     tileSums s 1 job op1 w1 a1 0 s.mxes[(0 : Fin 16)] = none) ∧
    (let o := { op1 with format := .s32 }
     let s := engaged o [[-(2 ^ 71)]]
     tileSums s 1 job o w1 a1 0 s.mxes[(0 : Fin 16)] = some [[-(2 ^ 71)]] ∧ drainTile s 1 job o 0 [[-(2 ^ 71)]] = none) ∧
    (let s := requant (engaged op1 []) { quant1 with entries := quant1.entries.map (fun e => if leAt e 0 2 = 1 then (e.set 27 0).set 28 8 else e) }
     (opTensors s 1 op1).isSome = true ∧ ∀ z ∈ (opTensors s 1 op1).toList,
       (∀ y ∈ sliceRanges op1 (z.1.ranges (z.1.gsize job)) (z.2.ranges (z.2.gsize job)) ++ epiReads op1 0,
         readAccess s 1 job y.1 y.2 = .ok ∨ readAccess s 1 job y.1 y.2 = .wait) ∧
       ∃ y ∈ sliceRanges op1 (z.1.ranges (z.1.gsize job)) (z.2.ranges (z.2.gsize job)) ++ epiReads op1 0,
         readAccess s 1 job y.1 y.2 = .wait) ∧
    0 < ({ op1 with parts := 1 } : MxeOp).parts := by decide +kernel
theorem hyp_swapWrites : runs (engaged op1 []) 1 job ∧
    ∀ ws ∈ (tileWrites (engaged op1 []) 1 job op1 0 [[(0, false)]]).toList, landAtOnce (engaged op1 []) 1 job ws := by
  unfold runs landAtOnce; decide +kernel
theorem hyp_partials : ∀ x ∈ [(2 : Int) ^ 71 - 1, 2 ^ 71], let o := { op1 with parts := 1 }
    let p : Partial := { plot := 1, job := 7, sink := 0, tile := 0, rows := [[x]] }
    let s := { engaged o [] with partials := [p] }
    s.mxes[(0 : Fin 16)].run = some { plot := 1, job := 7, op := o } ∧ s.partials = [] ++ p :: [] ∧
    (List.range (opTileAt o 0).2.2.1).map (fun i => (List.range (opTileAt o 0).2.2.2).map (fun c =>
      s.mxes[(0 : Fin 16)].bank.at_ i c + (((p.rows[i]?).getD [])[c]?).getD 0)) = [[x]] := by decide +kernel
/-- A job whose image has operator 0 in version 1. -/
def jobOp : Job := { job with img := { job.img with ops := [(0, 1)] } }
/-- A ready helper call, and a ready conversion of binary32 rows to tensor 2. -/
def help : HelperCall := { plot := 1, idx := 7, op := 0, ver := 1, readyAt := 5, reads := [], writes := [(0x10, 2)] }
def conv : QceCall := { plot := 1, idx := 7, dest := 2, source := .f32 0, readyAt := 5 }
/-- Its operator is committed. -/
def knowing : State := let s := withJobs [jobOp]
  { s with cfg := { s.cfg with content := { content1 with ops := [(0, 1, 0)] } } }
theorem hyp_calls : knowing.hccs[(0 : Fin 4)] = {} ∧ live.qces[(0 : Fin 8)].call = none ∧ live.qces[(0 : Fin 8)].dirty = none ∧
    callKnown knowing help = true ∧ callKnown knowing { help with ver := 2 } = false ∧ callKnown live help = false ∧
    comesFirst live 1 5 1 6 ∧ runs live help.plot job ∧ job.idx = help.idx ∧ runningJob live 1 8 = none ∧
    ({ live with hccs := live.hccs.set 0 { dirty := some (1, 7) } } : State).hccs[(0 : Fin 4)] ≠ {} ∧
    ({ live with qces := live.qces.set 0 { dirty := some (1, 7) } } : State).qces[(0 : Fin 8)].dirty ≠ none := by
  unfold comesFirst runs; decide +kernel
/-- Cluster 0 runs a call; plot 1's index 0 is in a state. -/
def helping (f : IndexState → IndexState) : State :=
  { liveWith (fun p => { p with fln := { p.fln with idx := p.fln.idx.set 0 (f p.fln.idx[(0 : Fin 16)]) } }) with
    hccs := live.hccs.set 0 { call := some help } }
theorem hyp_callEnds : (helping id).hccs[(0 : Fin 4)].call = some help ∧ runs (helping id) 1 job ∧
    (∀ r ∈ help.reads, readAccess (helping id) 1 job r.1 r.2 = .ok) ∧ landAtOnce (helping id) 1 job (operatorWrites (helping id) help job) ∧
    readAccess (helping id) 1 job 0 2 = .ok ∧ landAtOnce (helping id) 1 job [(0x10, jobBytes (helping id) 1 job 0 2)] ∧
    live.cfg.content.ingests.find? (fun e => e.no == 3 && e.plot == help.plot.val && e.plot != 0) = none ∧
    ((helping id).plot 1).fln.idx[(0 : Fin 16)].merge = false ∧ (helping id).msh.poison = [] := by
  unfold runs landAtOnce; decide +kernel
theorem hyp_sideMerge : let y : SideEntry := { pos := 0, epoch := 0, id := 5, attr := 0, part := 0, del := false, codes := [1] }
    let s := helping (fun x => { x with writer := some 7, merge := true, t0 := 1, seen := [0], entries := [y] })
    let x := (s.plot 1).fln.idx[(0 : Fin 16)]
    (s.cfg.content.index? 1 0).isSome = true ∧ x.writer = some help.idx ∧ x.merge = true ∧
    readAccess s 1 job 0 4096 = .ok ∧ readAccess s 1 job 0 0 = .ok ∧ sideMerge x 8 0 0 [jobBytes s 1 job 0 4096] = none ∧
    ((sideMerge x 8 0 0 []).map (fun bs => bs.length)) = some 1 ∧ landAtOnce s 1 job [(0x80010000, List.replicate 4096 0)] := by
  unfold landAtOnce; decide +kernel
/-- An ingest entry of plot 1 with one field of type `t`, and its fields table's bytes. -/
def ingest1 (t : Nat) : List Byte := fields 64 [(0, 1, 3), (1, 1, 1), (2, 1, 0x30), (4, 2, 4840), (8, 8, 77), (17, 1, 0x31), (19, 1, 1),
  (20, 2, 5), (24, 1, 0x0B), (26, 2, 4), (28, 2, 10), (30, 2, 1), (32, 8, 0x90000000), (40, 8, 0x90010000), (48, 8, 0x90030000 + 16 * t)]
theorem hyp_ingestDecode : ∀ t ∈ [(0 : Byte), 1], let s : State := { live with
      mem := [(memKey 1 0x90010002, t)], cfg := { live.cfg with content := { content1 with ingest := [ingest1 0] } } }
    let e := ingestOf (ingest1 0)
    s.cfg.content.ingests.find? (fun e => e.no == 3 && e.plot == 1 && e.plot != 0) = some e ∧
    readAccess s 1 job e.slotAddr e.slotBytes = .ok ∧ readAccess s 1 job e.fieldAddr (8 * e.count) = .ok := by decide +kernel
theorem hyp_conversions : live.cfg.content.tensor? 1 2 = some a1 ∧ sourceOk live conv = true ∧
    sourceOk live { conv with source := .act 9 } = false ∧
    (∀ r ∈ qceReads live conv job a1, readAccess live 1 job r.1 r.2 = .ok) ∧ a1.outlier = false ∧ a1.format = 4 ∧
    (∀ r ∈ qceScales job a1 none, readAccess live 1 job r.1 r.2 = .ok) ∧
    landAtOnce live 1 job [(paramAddr a1 (a1.gsize job) 0 0, [0, 0, 0, 0])] ∧
    landAtOnce live 1 job (codeWrites a1 0 (List.replicate 64 128)) ∧
    (let s := requant live { quant1 with entries := quant1.entries.map (fun e => if leAt e 0 2 = 2 then (e.set 4 4).set 6 2 else e) }
     ∀ e ∈ (s.cfg.content.tensor? 1 2).toList, e.outlier = true ∧ outliersOk (outliers s 1 job e) e.k = false ∧
       (∀ r ∈ qceReads s conv job e, readAccess s 1 job r.1 r.2 = .ok)) := by unfold landAtOnce; decide +kernel

/-! ### Hypotheses that are met: vector search and the flash lanes -/

/-- Index 0 of plot 1. -/
def index1 : IndexEntry := indexEntry ((search1.entries[0]?).getD [])
/-- A query of index 0 with a part on lane 0. -/
def query1 (p : Part) : Query :=
  { job := 7, no := 0, index := 0, tuned := true, orr := false, skipSide := false, k := 1, budget := 0, deadline := 5, probes := [0],
    tableAddr := 0, resultAddr := 0x8000, predAddr := 0, clauseCount := 0, parts := [p] }
/-- Lane 0 serves plot 1's query. -/
def searching (x : Query) (l : FlashLane) (m : List Host.Cell) : State := { liveWith (fun p => { p with
  fln := { p.fln with queries := [x] } }) with lanes := live.lanes.set 0 l, mem := m }
/-- `live` before any write of its job, with plot 1's memory. -/
def recorded (m : List Host.Cell) : State := { withJobs [job0] with mem := m }
theorem hyp_queries : live.cfg.content.index? 1 0 = some index1 ∧ live.cfg.content.index? 1 5 = none ∧
    readAccess live 1 job 0x40 64 = .ok ∧ readAccess live 1 job 0 0 = .ok ∧ readAccess live 1 job 0 2 = .ok ∧
    readAccess live 1 job 0xFFFFFFFFF 64 = .unmapped ∧
    (let s := recorded [(memKey 1 0x44, 1), (memKey 1 0x48, 1)]
     runs s 1 job0 ∧ queryRecordOk s 1 job0 index1 (jobBytes s 1 job0 0x40 64)) ∧
    ¬ queryRecordOk live 1 job index1 (jobBytes live 1 job 0x40 64) ∧ recordOk (jobBytes live 1 job 0x40 64) index1 = false := by
  unfold queryRecordOk runs; decide +kernel
/-- Lane 0 has plot 1's part in front, and its index `n` sectors. -/
def starting1 (sus : BitVec 32) (n : Byte) : State :=
  searching (query1 { lane := 0 }) { state := .ready, suspect := sus, queue := [.part 1 7 0] } [(memKey 1 0x90000004, n)]
theorem hyp_parts : ((starting1 0 1).plot 1).fln.queries = [query1 { lane := 0 }] ∧
    (query1 { lane := 0 }).parts.find? (fun p => p.lane == 0 && !p.started) = some { lane := 0 } ∧
    (∀ y ∈ (query1 { lane := 0 }).parts, y.buf = []) ∧ index1.home = (0 : LaneId).val ∧
    mayStart (starting1 0 1) 1 job (query1 { lane := 0 }) index1.home 0 = true ∧
    mayStart ((starting1 0 1).modFln 1 (fun f => { f with closed := true })) 1 job (query1 { lane := 0 }) index1.home 0 = false ∧
    mayStart ((starting1 0 1).modFln 1 (fun f => { f with atClaim := [(7, 0)] })) 1 job (query1 { lane := 0 }) index1.home 0 = false ∧
    (∀ r ∈ [(0, 512 * index1.m), (0, 24 * 0)] ++ [(index1.dirEntry false 0, 16)], readAccess (starting1 0 1) 1 job r.1 r.2 = .ok) := by
  decide +kernel
theorem hyp_partSectors : dirRange (starting1 0 1) 1 job index1 false 0 = (0, 1) ∧ dirRange (starting1 1 1) 1 job index1 false 0 = (0, 1) ∧
    dirRange (starting1 0 0) 1 job index1 false 0 = (0, 0) ∧ dirRange ({ starting1 0 1 with mem := [(memKey 1 0x90000005, 200)] } : State) 1 job index1 false 0 = (0, 51200) ∧
    1 ≤ index1.capacity (content1.indexChan index1) ∧ index1.capacity (content1.indexChan index1) < 0 + 51200 ∧
    partSectors index1 (content1.indexChan index1) false 0 [(0, 0, 1)] = [(0, 0)] ∧
    (index1.place (content1.indexChan index1) false 0).1 = ⟨0, 0, 0, 0, 0⟩ ∧
    (starting1 0 1).suspectAt ⟨0, 0, 0, 0, 0⟩ = false ∧ (starting1 1 1).suspectAt ⟨0, 0, 0, 0, 0⟩ = true := by decide +kernel
/-- The header of sector 0 of generation A, without a record. -/
def sector0 : List Byte := fields 64 [(0, 4, 0x53374E41), (14, 1, 8), (60, 4, 0xa35a0003)]
/-- A read of flash page 0 of block 0 of LUN 0, issued. -/
def read0 (n : Nat) : FlashOp :=
  { plot := 1, job := 7, who := .part 7 0, ce := 0, lun := 0, block := 0, page := 0, kind := .read, issued := true, tries := n }
theorem hyp_pages : let p : Part := { lane := 0, started := true, todo := [(0, 0)] }
    let x : Query := { query1 p with gen := some false, vis := some [] }
    let s := searching x { state := .ready, ops := [read0 0] } [(memKey 1 0x90000004, 1)]
    let a : FlashPlace := ⟨0, 0, 0, 0, 0⟩
    (s.lane 0).reading? a = some (read0 0) ∧ s.suspectAt a = false ∧ pageNeeded s a = true ∧ wantedCodewords s a 4 = [0] ∧
    (Codeword.bytes? (.data sector0 100)).isSome = true ∧ Codeword.bytes? (.data sector0 101) = none ∧
    index1.place (s.cfg.content.indexChan index1) false 0 = (a, 0) ∧ (s.cfg.content.chan 0).cw = 4 ∧
    s.runsOn 1 7 0 = true ∧ sectorOk sector0 0 8 false 0 = true ∧
    pageNeeded live a = false ∧ (live.lane 0).reading? a = none := by decide +kernel
theorem hyp_pageInReads : let s := { coming 3 with lanes := live.lanes.set 0 { state := .ready, ops := [read0 0] } }
    ∀ x ∈ (s.plot 1).msh.pageIns, ∃ a : FlashPlace, a.lane = 0 ∧ (pageInWants s.cfg.content 1 x a).isSome = true := by
  intro s x hx
  have h : ∀ x ∈ (s.plot 1).msh.pageIns, (pageInLeft s.cfg.content 1 x).head?.any (fun y => decide (y.2.lane = 0) &&
    (pageInWants s.cfg.content 1 x y.2).isSome) = true := by decide +kernel
  have h := h x hx
  cases hh : (pageInLeft s.cfg.content 1 x).head? with
  | none => rw [hh] at h; simp at h
  | some y => rw [hh] at h; simp at h; exact ⟨y.2, h.1, h.2⟩
theorem hyp_partEnds : let p : Part := { lane := 0, started := true }
    let s := searching (query1 p) {} []
    (s.plot 1).fln.queries = [query1 p] ∧ (query1 p).parts = [p] ∧ p.done = false ∧ (query1 p).tuned = true ∧ (query1 p).deadline ≠ 0 ∧
    ({ query1 p with tuned := false } : Query).tuned = false ∧ laneWork s 1 7 0 = true ∧ s.parkedOn 1 7 0 = false ∧
    laneWork live 1 7 0 = false ∧ (s.modFln 1 (fun f => { f with closed := true })).parkedOn 1 7 0 = true := by decide +kernel
/-- A part that has ended. -/
def ended (st : Nat) : Part := { lane := 0, started := true, done := true, status := st }
theorem hyp_merge : (∀ st ∈ [0, 1, 2], let s := searching (query1 (ended st)) {} []
      (s.plot 1).fln.queries = [query1 (ended st)] ∧ (∀ p ∈ (query1 (ended st)).parts, p.done = true) ∧ s.parkedOn 1 7 0 = false ∧
      ((∀ p ∈ (query1 (ended st)).parts, p.status ≠ 1) ∨ ∀ p ∈ (query1 (ended st)).parts, p.status ≠ 2)) ∧
    (searching (query1 (ended 0)) {} []).cfg.content.index? 1 0 = some index1 ∧
    (∃ p ∈ (query1 { lane := 0 }).parts, p.done = false) ∧
    landAtOnce (searching (query1 (ended 1)) {} []) 1 job [(0x8000, resultBytes [] 1 0 0 0)] := by unfold landAtOnce; decide +kernel
/-- Plot 1 with an index in a state. -/
def indexed (f : IndexState → IndexState) (m : List Host.Cell) : State := { liveWith (fun p => { p with
  fln := { p.fln with idx := p.fln.idx.set 0 (f p.fln.idx[(0 : Fin 16)]) } }) with mem := m }
theorem hyp_side : (let s := indexed id []
      sideOk (jobBytes s 1 job 0x40 64) index1.nlist = true ∧ index1.id = 0 ∧ readAccess s 1 job 0x40 64 = .ok ∧
      ((s.plot 1).fln.idx[(0 : Fin 16)]).entries.length < index1.sideCap ∧ (epochOf ((s.plot 1).fln.idx[(0 : Fin 16)]) 7).isSome = true) ∧
    (let s := recorded [(memKey 1 0x55, 1)]
     runs s 1 job0 ∧ sideOk (jobBytes s 1 job0 0x40 64) index1.nlist = false) ∧
    (let y : SideEntry := { pos := 0, epoch := 0, id := 0, attr := 0, part := 0, del := false, codes := [] }
     let s := indexed (fun x => { x with entries := List.replicate 16 y }) []
     index1.sideCap ≤ ((s.plot 1).fln.idx[(0 : Fin 16)]).entries.length ∧ sideOk (jobBytes s 1 job 0x40 64) index1.nlist = true) := by
  unfold runs; decide +kernel
/-- Some epochs of index 0 are in use by published entries. -/
def crowded (l : List Nat) : State := indexed (fun x => { x with epochs := l.map (fun n => (n, EpochState.published)) }) []
theorem lookup_range (n : Nat) (l : List Nat) (h : n ∈ l) : ((l.map (fun n => (n, EpochState.published))).lookup n).isSome = true := by
  induction l with
  | nil => cases h
  | cons a l ih =>
    rw [List.map_cons, List.lookup_cons]
    by_cases e : n = a
    · subst e; simp
    · have : (n == a) = false := by simpa using e
      rw [this]; exact ih ((List.mem_cons.1 h).resolve_left e)
theorem hyp_noEpoch : let x := ((crowded (List.range 4096)).plot 1).fln.idx[(0 : Fin 16)]
    (∀ y ∈ x.epochs, y.2 ≠ .running job.idx) ∧ ∀ n < 4096, (x.epochs.lookup n).isSome = true := by
  have h : ∀ l, (((crowded l).plot 1).fln.idx[(0 : Fin 16)]).epochs = l.map (fun n => (n, EpochState.published)) := fun _ => rfl
  refine ⟨?_, ?_⟩
  · intro y hy
    rw [h] at hy
    obtain ⟨n, -, rfl⟩ := List.mem_map.1 hy
    simp
  · intro n hn
    rw [h]
    exact lookup_range n _ (List.mem_range.2 hn)
/-- A generation of index 0 with a writer, its lane with a suspect LUN or none. -/
def generating (w : Option (BitVec 16)) (sus : BitVec 32) : State :=
  { indexed (fun x => { x with writer := w }) [] with lanes := live.lanes.set 0 { state := .ready, suspect := sus } }
theorem hyp_generations : readAccess live 1 job 0x40 4096 = .ok ∧ index1.id = 0 ∧ job.genDone = 0 ∧
    0 < index1.capacity (content1.indexChan index1) ∧ live.cfg.content.index? 1 0 = some index1 ∧
    (content1.indexChan index1).cw = 4 ∧ (index1.place (content1.indexChan index1) true 0).1 = ⟨0, 0, 0, 8, 0⟩ := by decide +kernel
/-- The job after its call has taken the generation. -/
def taking (s : State) : State := takeGeneration (s.modJob 1 7 (fun j => { j with genBusy := false })) 1 7 0 false
/-- A page of another plot's index is staged in lane 0, of `n` bytes. -/
def staged1 (n : Nat) : State :=
  let o : FlashOp := { plot := 1, job := 7, who := .gen 1, ce := 0, lun := 0, block := 9, page := 0, kind := .program, data := [1] }
  { generating none 0 with lanes := live.lanes.set 0 { state := .ready, ops := List.replicate n o } }
theorem hyp_writers : ((generating none 0).plot 1).fln.idx[(0 : Fin 16)] = {} ∧ ((generating none 0).plot 1).fln.queries = [] ∧
    ((generating (some 8) 0).plot 1).fln.idx[(0 : Fin 16)] = { writer := some 8 } ∧ (8 : BitVec 16) ≠ job.idx ∧
    (generating none 0).suspectAt ⟨0, 0, 0, 8, 0⟩ = false ∧ (generating none 1).suspectAt ⟨0, 0, 0, 8, 0⟩ = true ∧
    stageRoom (taking (generating none 0)) 0 = true ∧ stageRoom (taking (staged1 6)) 0 = false ∧
    (staged1 6).suspectAt ⟨0, 0, 0, 8, 0⟩ = false := by decide +kernel
/-- Lane 0 with a program or an erase of LUN 0 outstanding. -/
def flashing (e : Bool) : State :=
  let o : FlashOp := { plot := 1, job := 7, who := .gen 0, ce := 0, lun := 0, block := 0, page := 0,
                       kind := if e then .erase else .program, data := [1], issued := true }
  { live with lanes := live.lanes.set 0 { state := .ready, ops := [o] } }
theorem hyp_lanes : (∀ e ∈ [false, true], ((flashing e).lane 0).programming 0 0 ≠ none ∧ ((flashing e).lane 0).programming 0 1 = none ∧
      (flashing e).suspectAt ⟨0, 0, 0, 0, 0⟩ = false) ∧
    (let s := { live with lanes := live.lanes.set 0 { state := .init } }
     (s.lane 0).state = .init ∧ (s.cfg.content.chan 0).has 0 0 = true ∧ s.suspectAt ⟨0, 0, 0, 0, 0⟩ = false) ∧
    (let s := { live with lanes := live.lanes.set 0 { state := .ready, suspect := 1, clearing := 1 } }
     s.hostOk 0 = true ∧ (s.lane 0).suspect.getLsbD (8 * 0 + 0) = true ∧ (s.lane 0).clearing.getLsbD (8 * 0 + 0) = true ∧
     (s.lane 0).suspect.getLsbD (8 * 3 + 7) = false) := by decide +kernel
theorem hyp_tries : ∀ n ∈ [2, 3], let a : FlashPlace := ⟨0, 0, 0, 0, 0⟩
    let s := searching { query1 { lane := 0, started := true, todo := [(0, 0)] } with gen := some false, vis := some [] }
      { state := .ready, ops := [read0 n] } [(memKey 1 0x90000004, 1)]
    (s.lane 0).reading? a = some (read0 n) ∧ ((read0 n).tries < 3 ↔ n = 2) ∧ pageNeeded s a = true ∧ s.suspectAt a = false ∧
    0 ∈ wantedCodewords s a 4 ∧ pageNeeded { live with lanes := s.lanes } a = false ∧
    ({ live with lanes := s.lanes } : State).lanes = s.lanes := by decide +kernel

/-! ### Hypotheses that are met: power and heat -/

/-- The device with a change of its power manager. -/
def powered (f : PwrState → PwrState) : State := { ready with pwr := f ready.pwr }
/-- Its sensor 0 reads `n` quarters of a degree. -/
def heated (n : Int) (f : PwrState → PwrState) : State :=
  powered (fun p => f { p with sens := p.sens.set 0 { temp := n, seen := true } })
/-- One sample of 10 ms in the power manager's history: rail 0's demand current, and its raw current. -/
def sampled (x raw : Nat) (f : PwrState → PwrState) : State :=
  powered (fun p => f { p with hist := [{ x := [x, 0, 0], d := [], power := 0, demand := 0, fam := [], dt := 10 * msPs, raw := [raw] }] })
theorem hyp_samples : (Instr.powerSample { dt := 1000, acts := [⟨0, .macs, 5, 1, some 7⟩], bubbles := [(1, 3)] }).wellFormed = true ∧
    ready.isReady = true ∧ starting.isReady = false := by decide +kernel
theorem sumNat_zero {α : Type} (l : List α) (f : α → Nat) (h : ∀ x, f x = 0) : sumNat (l.map f) = 0 := by
  show (l.map f).foldl (· + ·) 0 = 0
  induction l with
  | nil => rfl
  | cons a l ih => rw [List.map_cons, List.foldl_cons, h]; exact ih
theorem hyp_sampleFits (x : PowerSample) :
    sumNat (x.acts.map (eventCost ready)) + sumNat (tenantPlots.map (standingCost ready x.dt)) ≤ (histOf ready x).power * x.dt := by
  have h : ∀ r : Fin 5, ready.pwr.rails[r].volts = 0 := by decide +kernel
  have c : ∀ (r : Fin 5) n, chargeCost ready.pwr r n = 0 := fun r n => by unfold chargeCost; rw [h r]; simp
  have e : ∀ a, eventCost ready a = 0 := fun a => sumNat_zero _ _ (fun r => c r _)
  have l : ∀ n, leakCost ready x.dt n = 0 := fun n => sumNat_zero _ _ (fun r => c r _)
  have z : ∀ q, standingCost ready x.dt q = 0 := fun q => by
    unfold standingCost
    dsimp only
    rw [sumNat_zero _ _ l, sumNat_zero _ _ (fun b => l _)]
    simp
  rw [sumNat_zero _ _ e, sumNat_zero _ _ z]
  exact Nat.zero_le _
/-- Every level of limiter 0 at its KMAX. -/
def maxed : Vector Nat 12 := Vector.ofFn (fun i : Fin 12 => if (actsOn 0).contains i.val then kMax (i.val / 4) else 0)
theorem hyp_limits : railLimit ready.pwr 0 0 = some (5600 * 100000) ∧ railLimit (powered (fun p => { p with
      ilim := p.ilim.set 0 0xFFFF })).pwr 0 0 = none ∧ ready.isReady = true ∧
    (∀ v ∈ [Vector.replicate 12 0, maxed], let s := sampled 900000000 0 (fun p => { p with levels := p.levels.set 0 v })
     ∃ n ∈ (railLimit s.pwr 0 0).toList, n < railDemand s.pwr 0 (windowPs 0)) ∧
    (∀ i ∈ actsOn 0, (if (actsOn 0).contains i then kMax (i / 4) else 0) = kMax (i / 4)) := by decide +kernel
theorem hyp_calibration : (∀ b ∈ [false, true], ∀ n ∈ [0, 3],
      let s := sampled 0 600000000 (fun p => { p with
        rails := p.rails.set 0 { lost := b }, pmb := [{ rail := 0, command := 0x8C }], tries := n })
      let e := average s.pwr (fun h => (h.raw[(0 : Nat)]?).getD 0) (10 * msPs)
      s.isReady = true ∧ s.pwr.calEn = true ∧ s.pwr.pmb = { rail := 0, command := 0x8C } :: [] ∧ (s.pwr.tries < 3 ↔ n = 0) ∧
      (s.pwr.rails[(0 : Fin 5)].lost = false ↔ b = false) ∧ e = 600000000 ∧
      (∃ l ∈ (railLimit s.pwr 0 2).toList, ¬ 20 * e < l) ∧ 4 * (1000 * 149999) < e ∧
      e ≤ 4 * (1000 * 150000) ∧ 1000 * 2400000 ≤ 4 * e ∧ 4 * e < 1000 * 2400001) ∧
    (let s := sampled 0 5 (fun p => p)
     s.hst.rail[(0 : Fin 5)].getLsbD 31 = true ∧ s.pwr.pmb = [] ∧
     ∃ l ∈ (railLimit s.pwr 0 2).toList, 20 * average s.pwr (fun h => (h.raw[(0 : Nat)]?).getD 0) (10 * msPs) < l) := by decide +kernel
theorem hyp_bands : ∀ t ∈ [(99 : Int), 201, 320, 600], hottest (heated t id).pwr = some (0, t) ∧ (heated t id).pwr.band ≤ 3 ∧
    (heated t (fun p => { p with band := 3 })).pwr.band ≤ 3 ∧ hottest ready.pwr = none ∧ ready.pwr.trimEn = true := by decide +kernel
theorem hyp_boost :
    (let s := heated 100 (fun p => { p with fclk := 1000, rails := p.rails.set 0 { mode := some (-12), volts := 3000, want := 3000 } })
     boostAllowed s = true ∧ s.isReady = true ∧ s.pwr.fclk < 1400 ∧ s.pwr.boostNext = none) ∧ boostAllowed ready = false ∧
    (∀ v ∈ [2999, 3000], let s := powered (fun p => { p with
        boostNext := some 1025, ackAt := some 5, rails := p.rails.set 0 { volts := v, want := 3000 } })
      s.pwr.boostNext = some 1025 ∧ s.pwr.ackAt = some 5 ∧ (voltsPending s = true ↔ v = 2999)) ∧
    ready.hostOk 0 = true ∧ ready.hostOk 1 = true := by decide +kernel
theorem hyp_pmbus : ∀ n ∈ [2, 3], ∀ c ∈ [0x19, 0x20, 0x21], let x : PmbTxn := { rail := 0, command := c, value := 3000, steps := 3000 }
    let s := powered (fun p => { p with pmb := [x], tries := n, rails := p.rails.set 0 { volts := 2900, want := 3000 } })
    s.pwr.pmb = x :: [] ∧ (s.pwr.tries < 3 ↔ n = 2) ∧ (x.command = 0x19 ∨ x.command = 0x20 ∨ x.command = 0x21) ∧ 0x34 / 32 % 8 ≠ 0 ∧
    s.pwr.rails[x.rail].want = x.steps ∧ s.pwr.rails[x.rail].volts < x.steps ∧ ready.pwr.pmb = [] := by decide +kernel
theorem hyp_lowest : (∀ b ∈ [false, true], (powered (fun p => { p with droop := b, lowest := b })).pwr.droop = b ∧
      (powered (fun p => { p with droop := b, lowest := b })).pwr.lowest = b) ∧
    (ready.boot.phase ≠ .held ∧ ready.boot.startAt + 20000 ≤ ready.boot.tclk ∧
      (let s := powered (fun p => { p with droopThresh := 42 })
       min 75 (max 20 (s.pwr.droopThresh.toNat / 5 * 5)) = 40)) ∧
    (let s := { ready with boot := { ready.boot with tclk := 19999 } }
     ¬ s.boot.startAt + 20000 ≤ s.boot.tclk) ∧
    ready.boot.vrAlert = false ∧ ready.aux.on = true ∧ ready.isReady = true ∧ ready.hst.rail[(4 : Fin 5)].getLsbD 31 = true ∧
    (let s := powered (fun p => { p with lowest := true })
     s.pwr.lowest = true ∧ s.boot.vrAlert = false ∧ s.pwr.droopCause = false ∧ faultySensors s.pwr < 8 ∧ s.pwr.satOver = 0) ∧
    ({ ready with boot := { ready.boot with vrAlert := true } } : State).boot.vrAlert = true := by decide +kernel
/-- Every reading of a sample. -/
def readings (n : Int) : Vector Int 48 := Vector.replicate 48 n
theorem hyp_heat : (∀ t ∈ [thermThresh ready.pwr.throttle, thermThresh ready.pwr.throttle - 1, thermThresh ready.pwr.throttle - 12,
      thermThresh ready.pwr.throttle - 13], let s := heated t (fun p => { p with lt := some 5 })
      hottest s.pwr = some (0, t) ∧ s.pwr.lt = some 5 ∧ s.isReady = true ∧ s.boot.phase ≠ .held ∧ s.boot.startAt + 22000 ≤ s.boot.tclk) ∧
    (let s := { ready with boot := { ready.boot with tclk := 21999 } }
     s.boot.tclk < s.boot.startAt + 22000) ∧ off.boot.phase = .held := by decide +kernel
/-- A sensor of plot 0 with a fault counter. -/
def faulty (f : Bool) (n : Nat) : State := powered (fun p => { p with sens := p.sens.set 0 { temp := 100, seen := true, fault := f, run := n } })
theorem hyp_sensors : (∀ n ∈ [98, 99], (faulty true n).pwr.sens[(0 : Fin 48)].fault = true ∧ (faulty true n).pwr.sens[(0 : Fin 48)].run = n) ∧
    (80 < (readings 181)[(0 : Fin 48)] - (faulty false 0).pwr.sens[(0 : Fin 48)].temp) ∧
    ((readings (-161))[(0 : Fin 48)] < -160) ∧ (600 < (readings 601)[(0 : Fin 48)]) ∧
    (let s := heated (thermThresh ready.pwr.warn - 1) id
     s.pwr.warned = false ∧ s.pwr.warn = ready.pwr.warn ∧ hottest s.pwr = some (0, thermThresh ready.pwr.warn - 1)) := by
  decide +kernel

/-! ### Hypotheses that are met: the listen port -/

/-- An unsigned message of entry 3, number 6, in a frame (its FCS computed outside the model). -/
def frame6 : List Byte :=
  [0x01, 0x00, 0x5E, 0x00, 0x00, 0x01, 0x02, 0x00, 0x00, 0x00, 0x00, 0x01, 0x08, 0x00, 0x45, 0x00, 0x00, 0x28, 0x00, 0x00, 0x00, 0x00,
   0x40, 0x11, 0x90, 0xC3, 0x0A, 0x00, 0x00, 0x01, 0xE0, 0x00, 0x00, 0x01, 0x13, 0x88, 0x12, 0xE8, 0x00, 0x14, 0x00, 0x00, 0x31, 0x4D,
   0x01, 0x05, 0x00, 0x0B, 0x06, 0x00, 0x01, 0x02, 0x03, 0x04, 0x00, 0x00, 0x00, 0x00, 0x00, 0x00, 0xCC, 0xDB, 0x62, 0xBB]
/-- What it says. -/
def msg6 : SktMsg := { entry := 3, seq := 6, dsValid := true, status := 0, data := [1, 2, 3, 4] }
theorem test_frame_accepted : checkFrame [ingestOf (ingest1 0)] [] 0 true frame6 = .message msg6 := by decide +kernel
theorem test_frame_refused : checkFrame [ingestOf (ingest1 0)] [] 0 true (frame6.set 50 2) = .refused 3 none ∧
    checkFrame [] [] 0 true frame6 = .refused 5 none := by decide +kernel
/-- The port with the frame waiting and its entry in a state. -/
def heard (x : SktEntry) (fs : List SktFrame) : State := { ready with
  skt := { ready.skt with table := [ingest1 0], entries := [(3, x)], queue := fs, cages := Vector.replicate 2 { lock := true, mode := 1 } } }
/-- The frame as a cage's FIFO holds it. -/
def waiting (c : Fin 2) (due : Nat) : SktFrame := { cage := c, due := due, bytes := frame6, banks := [] }
theorem hyp_port : (let s := heard {} []
      s.isReady = true ∧ s.skt.cages[(1 : Fin 2)].lock = true ∧ s.skt.cages[(1 : Fin 2)].los = false ∧
      s.skt.cages[(1 : Fin 2)].mode = 1 ∧ fifoUsed s.skt 1 + 1522 ≤ 16384) ∧
    (let s := heard {} [{ waiting 1 5 with bytes := List.replicate 1522 0 }, { waiting 1 5 with bytes := List.replicate 14000 0 }]
     16384 < fifoUsed s.skt 1 + 1522) := by decide +kernel
/-- The frame waits behind an entry whose last message had number `n`, from cage 1. -/
def after (n : BitVec 16) : State := heard { valid := true, age := 9, cage := 1, last := { msg6 with seq := n } } [waiting 0 500]
theorem hyp_sequence : (after 5).skt.queue = [waiting 0 500] ∧
    (after 5).skt.ingests.find? (fun e => e.no == msg6.entry) = some (ingestOf (ingest1 0)) ∧
    (after 5).designated (ingestOf (ingest1 0)) = false ∧ ((after 5).skt.entry 3).valid = true ∧
    ((after 5).skt.entry 3).age.toNat < (ingestOf (ingest1 0)).stale ∧ ((after 5).skt.entry 3).last.seq = 5 ∧
    (waiting 0 500).cage ≠ ((after 5).skt.entry 3).cage ∧
    (msg6.seq - 5 : BitVec 16).toNat = 1 ∧ (msg6.seq - 4 : BitVec 16).toNat = 2 ∧ (msg6.seq - 6 : BitVec 16).toNat = 0 ∧
    (msg6.seq - 32775 : BitVec 16).toNat = 32767 ∧ (msg6.seq - 32774 : BitVec 16).toNat = 32768 := by decide +kernel
theorem hyp_order : (heard {} [waiting 0 500, waiting 1 400]).skt.queue = [waiting 0 500, waiting 1 400] ∧
    (waiting 1 400).due < (waiting 0 500).due := by decide +kernel
/-- A plant source whose designated message waits, with the end of the commit sequence. -/
def planted (mid : Nat) (e : Nat) : State :=
  let s := heard { valid := true, age := 9, last := { msg6 with seq := 5 } } [waiting 0 2000000]
  { s with frm := { s.frm with
      gov := .plantLock, opened := true, tickAt := mid, framePeriod := 1000, commitEnd := e,
      rws := { s.frm.rws with src := 2 }, frameDev := { s.frm.frameDev with plantEntry := 3, plantWin := 10 } } }
theorem hyp_designated : ∀ t ∈ [1899000, 1901000, 1898999, 1901001], ∀ e ∈ [2000000, 2000001], let s := planted t e
    let at_ := max s.boot.tclk 2000000
    let mid := s.frm.tickAt + 100 * s.frm.framePeriod
    let w := 100 * s.frm.frameDev.plantWin.toNat
    s.designated (ingestOf (ingest1 0)) = true ∧ s.frm.gov = .plantLock ∧ (msg6.seq - (s.skt.entry 3).last.seq).toNat = 1 ∧
    (mid ≤ at_ + w ∧ at_ ≤ mid + w ∧ s.frm.windowUsed = false ∧ s.frm.opened = true ↔ t = 1899000 ∨ t = 1901000) ∧
    (s.frm.commitEnd ≤ at_ ↔ e = 2000000) := by decide +kernel
theorem hyp_latch_entries :
    let s : State := { live with
      frm := { live.frm with opened := true, gov := .internal },
      cfg := { live.cfg with content := { content1 with ingest := [ingest1 0] } }, skt := { live.skt with table := [ingest1 0] } }
    s.isReady = true ∧ s.frm.opened = true ∧ s.frm.holdoff = none ∧ s.frm.gov = .internal ∧ s.skt.table = [ingest1 0] ∧
    s.cfg.content.ingest = [ingest1 0] ∧ (ingestOf (ingest1 0)).plot = 1 ∧ (s.plot 1).plt.state = .running := by decide +kernel


/-! ### Worked values of the spec -/

/-- R71: the check value of CRC-32C over the nine digits 1 to 9. -/
theorem test_crc : crc32c [0x31, 0x32, 0x33, 0x34, 0x35, 0x36, 0x37, 0x38, 0x39] = 0xE3069283 := by decide +kernel
/-- The examples after R6 and R23, and the reset values of FRM_FRAME_CYC by grade. -/
theorem test_rounding : roundDiv 5 2 = 3 ∧ roundDiv (-5) 2 = -3 ∧ roundDiv 249 100 = 2 := by decide
theorem test_admissible : admissible 1000 1200 940 = 1127936 ∧ admissible 1000 1000 940 = 939936 ∧ admissible 500 1200 940 = 563936 := by
  decide
/-- The example after R160. -/
theorem test_noise : noiseTerm 128 4 0 2047 = -1 ∧ noiseTerm 128 4 0 2048 = 1 ∧ noiseTerm 3000 4 0 3072 = 26379 := by decide +kernel
/-- The example after R96, along a row and along a column. -/
theorem test_paths : pathLat 1 10 = 16 ∧ pathLat 2 10 = 16 ∧ pathLat 0 (12 * 7) = 14 := by decide
/-- Table 9-4: A8 with z = 128 and s = 10. -/
theorem test_ties : (([25, -25, 5, -5, -4, 455] : List Int).map (fun x => (codeFor { a1 with zp := 128 } [] 10 0 (.fin (x * 2 ^ 256))).1)) =
    [131, 125, 129, 127, 128, 174] := by decide +kernel

/-! The tank farm problem of chapter 05's worked example: six variables in L8, every shift 0. -/

/-- Its columns. -/
def tankColumns : List (List Int) :=
  [[0, -3, 2, 0, 1, 0], [-3, 0, 4, 0, 0, 0], [2, 4, 0, -5, 0, 0], [0, 0, -5, 0, 1, 2], [1, 0, 0, 1, 0, -2], [0, 0, 0, 2, -2, 0]]
/-- Plot memory with its couplings at 0x1000 and its biases at 0x3000, and spins of six bits at 0x5000. -/
def tanks (spins : Byte) : State :=
  let put (a : Nat) (v : Int) : Host.Cell := (memKey 1 a, BitVec.ofInt 8 v)
  let cols := ((List.range 6).zip tankColumns).flatMap (fun x => ((List.range 6).zip x.2).map (fun y => put (0x1000 + 64 * x.1 + y.1) y.2))
  let bias := ((List.range 6).zip ([1, -2, 0, 3, -1, 2] : List Int)).flatMap (fun x => (List.range 4).map (fun k =>
    put (0x3000 + 4 * x.1 + k) (x.2 / 256 ^ k)))
  { live with mem := (cols ++ bias ++ [(memKey 1 0x5000, spins)]).filter (fun c => c.2 != 0) }
/-- Its TILE entry, loaded. -/
def tankTile (spins : Byte) : AnTile := loadTile (tanks spins) 1 job0 6
  { tile := 0, format := 2, mode := 0, v := 6, cbSize := 0, first := 0, coup := 0x1000, shift := 0x2000, cb := 0, bias := 0x3000,
    order := 0, spin := 0x5000 }
theorem test_tank_energy :
    (let t := tankTile 0x3F
     let m := tileMatrix (tanks 0x3F) 1 job0 6 t
     freshEnergy [t] [m] (spinVec [t] 6) = -3 ∧ freshFields (spinVec [t] 6) t m = [1, -1, 1, 1, -1, 2]) ∧
    (let t := tankTile 0x29
     let m := tileMatrix (tanks 0x29) 1 job0 6 t
     freshEnergy [t] [m] (spinVec [t] 6) = -21 ∧ freshFields (spinVec [t] 6) t m = [1, -9, -7, 9, -1, 6]) := by decide +kernel

end Sys2Proof.Tests
end

section
/-!
PROOFS about frames and ticks (chapter 01). A tick ends the frame and starts the next (R16, R19, R21): what the sources do leaves
the frame's registers alone (`FrmKept`), what the lanes and the listen port do in the first cycle leaves the attempts of jobs
alone (`Carries`), and a plot's start of a frame leaves no job waiting (`Settled`).
-/
namespace Sys2Proof.Machine

/-! ### Parts that a kept change leaves alone -/

section
variable {w : Nat} {P : PlotId → Bool} {s t : State}

theorem Keeps.boot_eq (h : Keeps w P s t) (hw : w.testBit 0 = false := by decide) : t.boot = s.boot :=
  h.same.boot.resolve_left (by simp [hw])

theorem Keeps.frm_eq (h : Keeps w P s t) (hw : w.testBit 3 = false := by decide) : t.frm = s.frm :=
  h.same.frm.resolve_left (by simp [hw])

theorem Keeps.pf_eq (h : Keeps w P s t) (hw : w.testBit 4 = false := by decide) : t.pf = s.pf :=
  h.same.pf.resolve_left (by simp [hw])

theorem Keeps.cfg_eq (h : Keeps w P s t) (hw : w.testBit 7 = false := by decide) : t.cfg = s.cfg :=
  h.same.cfg.resolve_left (by simp [hw])

theorem Keeps.undo_eq (h : Keeps w P s t) (hw : w.testBit 8 = false := by decide) : t.undo = s.undo :=
  h.same.undo.resolve_left (by simp [hw])

theorem Keeps.msh_eq (h : Keeps w P s t) (hw : w.testBit 9 = false := by decide) : t.msh = s.msh :=
  h.same.msh.resolve_left (by simp [hw])

theorem Keeps.plot_eq (h : Keeps w P s t) {q : PlotId} (hq : P q = false) : t.plot q = s.plot q :=
  h.same.plots.elim (fun all => absurd (all q) (by simp [hq])) (fun rest => rest q hq)

end

/-- Where the plots are equal, a plot is. -/
theorem plot_of_plots_eq {s t : State} (h : t.plots = s.plots) (q : PlotId) : t.plot q = s.plot q := by
  simp only [State.plot, h]

/-- What does not change the jobs of the plot it touches changes no plot's jobs. -/
theorem State.modPlot_jobs {s : State} {q : PlotId} {f : Plot → Plot} (h : (f (s.plot q)).plt.jobs = (s.plot q).plt.jobs)
    (p : PlotId) : ((s.modPlot q f).plot p).plt.jobs = (s.plot p).plt.jobs := by
  by_cases hp : p = q
  · subst hp; rw [State.modPlot_self, h]
  · rw [State.modPlot_other s f hp]

/-- A change of a live job maps the jobs of its plot. -/
theorem State.modJob_jobs (s : State) (q : PlotId) (i : BitVec 16) (f : Job → Job) :
    ((s.modJob q i f).plot q).plt.jobs = (s.plot q).plt.jobs.map (fun j => if j.idx == i && j.live then f j else j) := by
  simp [State.modJob]

/-! ### Bits that a register keeps -/

/-- Setting a bit of a register clears none. -/
theorem getLsbD_setBit_of {w : Nat} {x : BitVec w} {j : Nat} (i : Nat) (h : x.getLsbD j = true) :
    (setBit x i true).getLsbD j = true := by
  simp [setBit, h]

theorem getLsbD_setBit_self {w : Nat} (x : BitVec w) {i : Nat} (h : i < w) : (setBit x i true).getLsbD i = true := by
  simp only [setBit, if_true, BitVec.getLsbD_or, BitVec.getLsbD_ofNat, h, decide_true, Bool.true_and,
    Nat.testBit_two_pow_self, Bool.or_true]

/-! ### Jobs that keep their attempt -/

/-- The job waits for a frame program of its own: the first of an attempt, or the next one (R26, R29, R58). -/
def Job.due (j : Job) : Bool := j.live && (j.phase == .waiting || j.phase == .between)

/-- A job that is due has a phase in which it waits. -/
theorem Job.due_iff {j : Job} : j.due = true ↔ j.live = true ∧ (j.phase = .waiting ∨ j.phase = .between) := by
  simp [Job.due]

section
variable {calm : Bool}

/-- `k` is the job `j` in the same attempt, and waits for a frame program only if `j` does; where the change is calm, as no
fault is, the job's phase stays too. -/
structure SameAttempt (calm : Bool) (j k : Job) : Prop where
  idx : k.idx = j.idx
  attempts : k.attempts = j.attempts
  first : k.first = j.first
  due : k.due = true → j.due = true
  stays : calm = true → k.live = j.live ∧ k.phase = j.phase

theorem SameAttempt.refl (j : Job) : SameAttempt calm j j := ⟨rfl, rfl, rfl, id, fun _ => ⟨rfl, rfl⟩⟩

theorem SameAttempt.trans {i j k : Job} (h : SameAttempt calm i j) (g : SameAttempt calm j k) : SameAttempt calm i k :=
  ⟨g.idx.trans h.idx, g.attempts.trans h.attempts, g.first.trans h.first, h.due ∘ g.due,
    fun c => ⟨(g.stays c).1.trans (h.stays c).1, (g.stays c).2.trans (h.stays c).2⟩⟩

/-- A job of the same attempt waits for nothing new. -/
theorem SameAttempt.not_due {j k : Job} (h : SameAttempt calm j k) (hj : j.due = false) : k.due = false :=
  Bool.eq_false_iff.mpr fun hk => absurd (h.due hk) (by simp [hj])

/-- The jobs `m` are the jobs `l` in their order, each in the same attempt. -/
def SameAttempts (calm : Bool) (l m : List Job) : Prop := ∃ g : Job → Job, (∀ j, SameAttempt calm j (g j)) ∧ m = l.map g

theorem SameAttempts.refl (l : List Job) : SameAttempts calm l l := ⟨id, SameAttempt.refl, (List.map_id l).symm⟩

theorem SameAttempts.trans {l m n : List Job} : SameAttempts calm l m → SameAttempts calm m n → SameAttempts calm l n := by
  rintro ⟨g, hg, rfl⟩ ⟨g', hg', rfl⟩
  exact ⟨g' ∘ g, fun j => (hg j).trans (hg' (g j)), List.map_map⟩

theorem SameAttempts.exists_of_mem {l m : List Job} {k : Job} (h : SameAttempts calm l m) (hk : k ∈ m) :
    ∃ j ∈ l, SameAttempt calm j k := by
  obtain ⟨g, hg, rfl⟩ := h
  obtain ⟨j, hj, rfl⟩ := List.mem_map.mp hk
  exact ⟨j, hj, hg j⟩

theorem SameAttempts.singleton {j : Job} {m : List Job} (h : SameAttempts calm [j] m) :
    ∃ k, m = [k] ∧ SameAttempt calm j k := by
  obtain ⟨g, hg, rfl⟩ := h
  exact ⟨g j, rfl, hg j⟩

/-- From `s` to `t` the committed routes stay, no cause of the PF falls, and every job keeps its attempt, in a calm change its
phase too. -/
structure Carries (calm : Bool) (s t : State) : Prop where
  routes : t.msh.routes = s.msh.routes
  irq : ∀ i : Nat, s.pf.irqStatus.getLsbD i = true → t.pf.irqStatus.getLsbD i = true
  jobs : ∀ q : PlotId, SameAttempts calm (s.plot q).plt.jobs (t.plot q).plt.jobs

theorem Carries.refl (s : State) : Carries calm s s := ⟨rfl, fun _ => id, fun _ => SameAttempts.refl _⟩

/-- The later change comes first here: the goal's operation is the outermost one. -/
theorem Carries.after {s t u : State} (g : Carries calm t u) (h : Carries calm s t) : Carries calm s u :=
  ⟨g.routes.trans h.routes, fun i => g.irq i ∘ h.irq i, fun q => (h.jobs q).trans (g.jobs q)⟩

/-- A change that leaves routes, PF causes and jobs as they are. -/
theorem Carries.of_eq {s t : State} (hr : t.msh.routes = s.msh.routes) (hi : t.pf = s.pf)
    (hj : ∀ q : PlotId, (t.plot q).plt.jobs = (s.plot q).plt.jobs) : Carries calm s t :=
  ⟨hr, fun i h => by rw [hi]; exact h, fun q => by rw [hj q]; exact SameAttempts.refl _⟩

/-- A further change that leaves routes, PF causes and plots as they are. -/
theorem Carries.rest {s t u : State} (h : Carries calm s t) (hr : u.msh.routes = t.msh.routes) (hi : u.pf = t.pf)
    (hp : u.plots = t.plots) : Carries calm s u :=
  Carries.after (.of_eq hr hi (fun q => by rw [plot_of_plots_eq hp q])) h

/-- A change outside the mesh, the PF and the plots. -/
theorem Carries.of_keeps {w : Nat} {s t : State} (h : Keeps w (fun _ => false) s t)
    (hp : w.testBit 4 = false := by decide) (hm : w.testBit 9 = false := by decide) : Carries calm s t :=
  .of_eq (by rw [h.msh_eq hm]) (h.pf_eq hp) (fun q => by rw [h.plot_eq (q := q) rfl])

/-- A change of a plot that leaves its jobs as they are. -/
theorem Carries.modPlot {s : State} {q : PlotId} {f : Plot → Plot} (h : (f (s.plot q)).plt.jobs = (s.plot q).plt.jobs) :
    Carries calm s (s.modPlot q f) :=
  .of_eq rfl rfl (State.modPlot_jobs h)

theorem State.modFln_carries (s : State) (q : PlotId) (f : FlnPlot → FlnPlot) : Carries calm s (s.modFln q f) := .modPlot rfl

theorem State.modNse_carries (s : State) (q : PlotId) (f : NsePlot → NsePlot) : Carries calm s (s.modNse q f) := .modPlot rfl

/-- A change of a live job within its attempt. -/
theorem Carries.modJob {s : State} {q : PlotId} {i : BitVec 16} {f : Job → Job}
    (h : ∀ j : Job, j.live = true → SameAttempt calm j (f j)) : Carries calm s (s.modJob q i f) := by
  refine ⟨rfl, fun _ => id, fun p => ?_⟩
  by_cases hp : p = q
  · subst hp
    refine ⟨fun j => if j.idx == i && j.live then f j else j, fun j => ?_, State.modJob_jobs s p i f⟩
    dsimp only
    split
    case isTrue hj => exact h j (by simp_all)
    case isFalse => exact SameAttempt.refl j
  · rw [State.modJob, State.modPlt_other s _ hp]
    exact SameAttempts.refl _

theorem Carries.foldl {α : Type} {f : State → α → State} (h : ∀ s x, Carries calm s (f s x)) (l : List α) (s : State) :
    Carries calm s (l.foldl f s) := by
  induction l generalizing s with
  | nil => exact Carries.refl s
  | cons x l ih => exact (ih (f s x)).after (h s x)

/-! ### Causes and lines -/

theorem State.raisePf_carries (s : State) (c : Fin 15) : Carries calm s (s.raisePf c) where
  routes := by rw [(State.raisePf_keeps (P := fun _ => false) c (Keeps.refl s) (Covers.refl _)).msh_eq]
  irq := fun i h => by rw [State.raisePf_pf]; exact getLsbD_setBit_of _ h
  jobs := fun q => by rw [plot_of_plots_eq (s.raisePf_plots c) q]; exact SameAttempts.refl _

theorem State.logLine_carries (s : State) (code plot : Nat) (node : Option NodeId) (a b : Nat) :
    Carries calm s (s.logLine code plot node a b) := by
  unfold State.logLine
  exact (State.raisePf_carries _ 0).after ((Carries.refl s).rest rfl rfl rfl)

theorem State.logSuppressed_carries (s : State) : Carries calm s s.logSuppressed := (Carries.refl s).rest rfl rfl rfl

theorem State.raisePlot_carries (s : State) (q : PlotId) (m : BitVec 13) : Carries calm s (s.raisePlot q m) := by
  unfold State.raisePlot
  exact (Carries.of_keeps (State.sendVectors_keeps q _ (Keeps.refl _) (Covers.refl _))).after (.modPlot rfl)

/-! ### A fault charged to a job -/

theorem clearJobEngines_carries (s : State) (q : PlotId) (i : BitVec 16) : Carries calm s (clearJobEngines s q i) := by
  have graft : Carries calm s (clearGraftJob s q i) := .modPlot rfl
  have anneal (s : State) : Carries calm s (clearAnnealJob s q i) := .modPlot rfl
  have mesh (s : State) : Carries calm s (clearMeshJob s q i) := (Carries.refl s).rest rfl rfl rfl
  have flash (s : State) : Carries calm s (clearFlashJob s q i) := by
    unfold clearFlashJob
    extract_lets plots
    have hp : Carries calm s plots := .modPlot rfl
    exact hp.rest rfl rfl rfl
  have matrix (s : State) : Carries calm s (clearMatrixJob s q i) := (Carries.refl s).rest rfl rfl rfl
  exact (matrix _).after ((flash _).after ((mesh _).after ((anneal _).after graft)))

theorem beginAbandon_carries (s : State) (q : PlotId) (j : Job) (c : Code) (node : Option NodeId) :
    Carries false s (beginAbandon s q j c node) := by
  unfold beginAbandon
  extract_lets abandoned cleared
  have ha : Carries false s abandoned := .modJob fun k _ => ⟨rfl, rfl, rfl, by simp [Job.due], nofun⟩
  have hc : Carries false s cleared := (clearJobEngines_carries abandoned q j.idx).after ha
  split
  · exact (State.logSuppressed_carries cleared).after hc
  · exact (State.logLine_carries ..).after hc

theorem raiseFault_carries (s : State) (q : PlotId) (j : Job) (c : Code) (node : Option NodeId) :
    Carries calm s (raiseFault s q j c node) := by
  unfold raiseFault
  extract_lets coded
  have hc : Carries calm s coded := .modJob fun k _ => ⟨rfl, rfl, rfl, id, fun _ => ⟨rfl, rfl⟩⟩
  exact hc.rest rfl rfl rfl

theorem chargeFault_carries (s : State) (q : PlotId) (i : BitVec 16) (c : Code) (node : Option NodeId) :
    Carries false s (chargeFault s q i c node) := by
  unfold chargeFault
  repeat' split
  case h_2.isTrue.isTrue => exact raiseFault_carries ..
  case h_2.isFalse.isFalse => exact beginAbandon_carries ..
  all_goals exact Carries.refl s

/-! ### The flash lanes go on (R247) -/

theorem issueLane_carries (s : State) (l : LaneId) : Carries calm s (issueLane s l) :=
  .of_keeps (issueLane_keeps l (Keeps.refl s) (Covers.refl _))

theorem startPageInsAux_carries (n : Nat) (s : State) (q : PlotId) (l : LaneId) :
    Carries calm s (startPageInsAux n s q l) := by
  induction n generalizing s with
  | zero => exact Carries.refl s
  | succ n ih =>
    unfold startPageInsAux
    repeat' split
    case h_1.isTrue =>
      exact (ih _).after (Carries.after (.modPlot rfl) ((Carries.refl s).rest rfl rfl rfl))
    all_goals exact Carries.refl s

theorem startPageIns_carries (s : State) (q : PlotId) (l : LaneId) : Carries calm s (startPageIns s q l) :=
  (issueLane_carries _ l).after (startPageInsAux_carries _ s q l)

theorem badSector_carries (s : State) (q : PlotId) (i : BitVec 16) (l : LaneId) (sector : Nat) :
    Carries false s (badSector s q i l sector) := by
  unfold badSector
  exact (State.logLine_carries ..).after ((chargeFault_carries ..).after (State.modFln_carries ..))

theorem countScan_carries (s : State) (q : PlotId) (was now : Part) (hits : Nat) :
    Carries calm s (countScan s q was now hits) := by
  unfold countScan
  exact State.modFln_carries ..

theorem scanNext_carries {s t : State} {q : PlotId} {i : BitVec 16} {no : Nat} {l : LaneId}
    (h : scanNext s q i no l = some t) : Carries false s t := by
  unfold scanNext at h
  repeat' split at h
  case h_2.isTrue =>
    cases h
    exact badSector_carries ..
  case h_2.isFalse =>
    cases h
    exact (State.modFln_carries ..).after (countScan_carries ..)
  all_goals cases h

theorem drainAux_carries (n : Nat) (s : State) (q : PlotId) (i : BitVec 16) (no : Nat) (l : LaneId) :
    Carries false s (drainAux n s q i no l) := by
  induction n generalizing s with
  | zero => exact Carries.refl s
  | succ n ih =>
    unfold drainAux
    split
    case h_1 => exact Carries.refl s
    case h_2 t h => exact (ih t).after (scanNext_carries h)

theorem drainBuf_carries (s : State) (q : PlotId) (i : BitVec 16) (no : Nat) (l : LaneId) :
    Carries false s (drainBuf s q i no l) := by
  unfold drainBuf
  split
  · exact Carries.refl s
  · exact (startPageIns_carries ..).after (drainAux_carries ..)

/-- What the lanes do in the first cycle of a frame starts no attempt and ends no frame program. -/
theorem resumeLanes_carries (s : State) : Carries false s (resumeLanes s) := by
  unfold resumeLanes
  refine (Carries.foldl issueLane_carries _ _).after (Carries.foldl (fun s q => ?_) _ s)
  exact Carries.foldl (fun s (x : Query) => Carries.foldl (fun s (p : Part) => drainBuf_carries s q x.job x.no p.lane) _ s) _ s

/-! ### The listen port's entries are latched (R327, R328) -/

theorem healRange_carries (s : State) (q : PlotId) (j : Option Job) (a n : Nat) : Carries calm s (healRange s q j a n) :=
  (Carries.refl s).rest rfl rfl rfl

theorem State.pokeHome_carries (s : State) (q : PlotId) (a : Nat) (bs : List Byte) : Carries calm s (s.pokeHome q a bs) := by
  unfold State.pokeHome
  have original : Carries calm s (healRange (s.pokeMem q a bs) q none a bs.length) :=
    (healRange_carries ..).after ((Carries.refl s).rest rfl rfl rfl)
  refine (Carries.foldl (fun s j => ?_) _ _).after original
  exact Carries.after (.modJob fun k _ => ⟨rfl, rfl, rfl, id, fun _ => ⟨rfl, rfl⟩⟩) (healRange_carries ..)

theorem staleReached_carries (s : State) (q : PlotId) : Carries calm s (staleReached s q) := by
  unfold staleReached
  split
  · exact Carries.refl s
  · exact (State.raisePlot_carries ..).after (.modPlot rfl)

theorem State.modEntry_carries (s : State) (no : Nat) (f : SktEntry → SktEntry) : Carries calm s (s.modEntry no f) :=
  (Carries.refl s).rest rfl rfl rfl

theorem latchEntry_carries (s : State) (e : Ingest) : Carries calm s (latchEntry s e) := by
  unfold latchEntry
  extract_lets x age reached q st poked latched
  have hp : Carries calm s poked := by
    dsimp only [poked]
    split
    · exact State.pokeHome_carries ..
    · exact Carries.refl s
  have hl : Carries calm s latched := (State.modEntry_carries poked e.no _).after hp
  split
  · exact (staleReached_carries latched q).after hl
  · exact hl

/-- The latch starts no attempt and ends no frame program. -/
theorem latchIngest_carries (s : State) : Carries calm s (latchIngest s) := by
  unfold latchIngest
  exact (Carries.foldl latchEntry_carries _ _).after ((Carries.refl s).rest rfl rfl rfl)

/-! ### An attempt takes its fabric and its lanes (R148, R168) -/

theorem State.modLane_carries (s : State) (q : PlotId) (t : Fin 64) (f : TapeLane → TapeLane) :
    Carries calm s (s.modLane q t f) := by
  unfold State.modLane
  exact State.modNse_carries ..

theorem fetchLaneAux_carries (n : Nat) (s : State) (q : PlotId) (t : Fin 64) : Carries calm s (fetchLaneAux n s q t) := by
  have fetch (s : State) (f : TapeLane → TapeLane) (u : DmaUser) (a b : Nat) :
      Carries calm s ((s.modLane q t f).hostRead q u a b) :=
    (State.modLane_carries s q t f).rest rfl rfl rfl
  induction n generalizing s with
  | zero => exact Carries.refl s
  | succ n ih =>
    unfold fetchLaneAux
    dsimp only
    repeat' split
    case isFalse.isTrue => exact (ih _).after (fetch ..)
    case isFalse.isFalse.isTrue => exact (ih _).after (fetch ..)
    all_goals exact Carries.refl s

theorem checkLow_carries (s : State) (q : PlotId) (t : Fin 64) : Carries calm s (checkLow s q t) := by
  unfold checkLow
  dsimp only
  repeat' split
  · exact Carries.refl s
  · exact (State.raisePlot_carries ..).after ((State.modNse_carries ..).after (State.modNse_carries ..))
  · exact State.modNse_carries ..

theorem attemptLanes_carries (s : State) (q : PlotId) : Carries calm s (attemptLanes s q) := by
  have begun : Carries calm s (beginLanes s q) := State.modNse_carries ..
  have fetched : Carries calm s (fetchLanes (beginLanes s q) q) :=
    (Carries.foldl (fun s t => fetchLaneAux_carries 5 s q t) _ _).after begun
  refine (Carries.foldl (fun s t => ?_) _ _).after fetched
  split
  · exact checkLow_carries s q t
  · exact Carries.refl s

theorem takeFabric_carries (s : State) (q : PlotId) (i : BitVec 16) : Carries calm s (takeFabric s q i) :=
  (attemptLanes_carries _ q).after (.modPlot rfl)

theorem readInput_carries (s : State) (q : PlotId) (j : Job) : Carries calm s (readInput s q j) := by
  unfold readInput
  split
  · exact Carries.refl s
  · exact (Carries.refl s).rest rfl rfl rfl

end

/-! ### Attempts start (R26, R58) -/

/-- `k` is the job `j` with one more attempt begun, in the frame with number `n` if it had no first frame yet. -/
structure Started (n : Nat) (j k : Job) : Prop where
  idx : k.idx = j.idx
  attempts : k.attempts = j.attempts + 1
  first : k.first = some (j.first.getD n)
  running : k.due = false

theorem Started.same {calm : Bool} {n : Nat} {i j k : Job} (h : Started n i j) (g : SameAttempt calm j k) : Started n i k :=
  ⟨g.idx.trans h.idx, g.attempts.trans h.attempts, g.first.trans h.first, g.not_due h.running⟩

/-- No job of the plot waits for a frame program. -/
def Settled (s : State) (q : PlotId) : Prop := ∀ j ∈ (s.plot q).plt.jobs, j.due = false

theorem Carries.settled {calm : Bool} {s t : State} {q : PlotId} (h : Carries calm s t) (hs : Settled s q) : Settled t q := by
  intro k hk
  obtain ⟨j, hj, same⟩ := (h.jobs q).exists_of_mem hk
  exact same.not_due (hs j hj)

/-- An attempt's start begins one for every live job of the plot with the index it names, and leaves the other jobs alone. -/
theorem startAttempt_jobs (s : State) (q : PlotId) (j : Job) :
    ∃ f : Job → Job, (∀ k, Started s.frm.count.toNat k (f k)) ∧
      SameAttempts true ((s.plot q).plt.jobs.map (fun k => if k.idx == j.idx && k.live then f k else k))
        ((startAttempt s q j).plot q).plt.jobs := by
  unfold startAttempt
  extract_lets counted begun read p busy
  have frm : counted.frm = s.frm := by dsimp only [counted]; split <;> rfl
  have jobs : (counted.plot q).plt.jobs = (s.plot q).plt.jobs := by dsimp only [counted]; split <;> simp
  have carried : Carries true begun (if busy then read else takeFabric read q j.idx) := by
    have hr : Carries true begun read := readInput_carries begun q j
    split
    · exact hr
    · exact (takeFabric_carries read q j.idx).after hr
  have same : SameAttempts true ((counted.modJob q j.idx _).plot q).plt.jobs _ := carried.jobs q
  rw [State.modJob_jobs, jobs] at same
  refine ⟨_, ?_, same⟩
  exact fun k => ⟨rfl, rfl, by simp only [frm], by simp [Job.due]⟩

/-- A job that waits after an attempt's start waited before, and it is another one. -/
theorem startAttempt_due {s : State} {q : PlotId} {j k : Job} (hk : k ∈ ((startAttempt s q j).plot q).plt.jobs)
    (due : k.due = true) : ∃ i ∈ (s.plot q).plt.jobs, i.due = true ∧ i.idx = k.idx ∧ i.idx ≠ j.idx := by
  obtain ⟨f, hf, same⟩ := startAttempt_jobs s q j
  obtain ⟨m, hm, hmk⟩ := same.exists_of_mem hk
  obtain ⟨i, hi, rfl⟩ := List.mem_map.mp hm
  by_cases hit : (i.idx == j.idx && i.live) = true
  · rw [if_pos hit] at hmk
    exact absurd (hmk.due due) (by simp [(hf i).running])
  · rw [if_neg hit] at hmk
    have live := (Job.due_iff.mp (hmk.due due)).1
    exact ⟨i, hi, hmk.due due, hmk.idx.symm, by simpa [live] using hit⟩

/-- Once an attempt of every waiting job has started, none waits. -/
theorem startAttempts_settled {q : PlotId} (l : List Job) (s : State)
    (h : ∀ k ∈ (s.plot q).plt.jobs, k.due = true → ∃ j ∈ l, j.idx = k.idx) :
    Settled (l.foldl (fun s j => startAttempt s q j) s) q := by
  induction l generalizing s with
  | nil => exact fun k hk => Bool.eq_false_iff.mpr fun due => by simpa using h k hk due
  | cons j l ih =>
    refine ih _ fun k hk due => ?_
    obtain ⟨i, hi, idue, ik, ij⟩ := startAttempt_due hk due
    obtain ⟨m, hm, mi⟩ := h i hi idue
    rcases List.mem_cons.mp hm with rfl | hm
    · exact absurd mi.symm ij
    · exact ⟨m, hm, mi.trans ik⟩

theorem unparkAll_jobs (s : State) (q p : PlotId) : ((unparkAll s q).plot p).plt.jobs = (s.plot p).plt.jobs :=
  State.modPlot_jobs rfl p

/-- After the start of a frame no job of the plot waits for a frame program (R21, R26). -/
theorem startFrame_settled (s : State) (q : PlotId) : Settled (startFrame s q) q := by
  unfold startFrame
  extract_lets jobs reset started
  have hs : Settled started q := by
    refine startAttempts_settled _ _ fun k hk due => ?_
    rw [State.modPlot_self] at hk
    obtain ⟨j, hj, rfl⟩ := List.mem_map.mp hk
    obtain ⟨live, phase⟩ := Job.due_iff.mp due
    by_cases between : j.phase = .between
    · simp [between] at phase
    · simp only [between, if_false, or_false] at live phase
      exact ⟨j, List.mem_filter.mpr ⟨List.mem_filter.mpr ⟨hj, live⟩, by simp [phase]⟩, rfl⟩
  intro k hk
  rw [unparkAll_jobs] at hk
  exact hs k hk

/-- The one job of a plot, if it waits for an attempt, has started one. -/
theorem startFrame_started {s : State} {q : PlotId} {j : Job} (hj : (s.plot q).plt.jobs = [j]) (live : j.live = true)
    (waits : j.phase = .waiting) :
    ∃ k, ((startFrame s q).plot q).plt.jobs = [k] ∧ Started s.frm.count.toNat j k := by
  unfold startFrame
  extract_lets jobs reset started
  rw [unparkAll_jobs]
  have hstarted : started = startAttempt reset q j := by simp [started, jobs, hj, live, waits]
  have hreset : (reset.plot q).plt.jobs = [{ j with logged := false }] := by simp [reset, hj, waits]
  have rlive : ({ j with logged := false } : Job).live = true := live
  obtain ⟨f, hf, same⟩ := startAttempt_jobs reset q j
  rw [hreset, ← hstarted] at same
  simp only [List.map_cons, List.map_nil, beq_self_eq_true, rlive, Bool.and_self, if_true] at same
  obtain ⟨k, hk, hfk⟩ := same.singleton
  have hs := (hf _).same hfk
  exact ⟨k, hk, hs.idx, hs.attempts, hs.first, hs.running⟩

/-! ### Every plot starts its frame -/

/-- A plot's start of a frame touches no other plot. -/
theorem startFrame_other (s : State) {p q : PlotId} (h : p ≠ q) : (startFrame s q).plot p = s.plot p :=
  (startFrame_keeps (P := fun r => r == q) q (Keeps.refl s) (Covers.refl _) (by simp)).plot_eq (by simpa using h)

theorem startFrame_frm (s : State) (q : PlotId) : (startFrame s q).frm = s.frm :=
  (startFrame_keeps (P := fun _ => true) q (Keeps.refl s) (Covers.refl _) rfl).frm_eq

/-- The parts are those of `startFrame_keeps`: functions, host link, what leaves the device. -/
theorem startFrames_keeps (s : State) (l : List PlotId) : Keeps 134217824 (fun _ => true) s (s.eachPlot l startFrame) :=
  (Keeps.refl s).eachPlot fun _ q h => startFrame_keeps q h (Covers.refl _) rfl

theorem startFrames_settled {q : PlotId} (l : List PlotId) (s : State) (h : q ∈ l ∨ Settled s q) :
    Settled (s.eachPlot l startFrame) q := by
  induction l generalizing s with
  | nil => exact h.resolve_left List.not_mem_nil
  | cons p l ih =>
    refine ih _ ?_
    by_cases hp : q = p
    · subst hp; exact .inr (startFrame_settled s q)
    · refine h.imp (fun m => (List.mem_cons.mp m).resolve_left hp) (fun hs => ?_)
      rw [Settled, startFrame_other s hp]
      exact hs

theorem startFrames_other {q : PlotId} (l : List PlotId) (s : State) (h : q ∉ l) :
    (s.eachPlot l startFrame).plot q = s.plot q := by
  induction l generalizing s with
  | nil => rfl
  | cons p l ih =>
    obtain ⟨hp, hl⟩ := not_or.mp (fun m => h (List.mem_cons.mpr m))
    exact (ih (startFrame s p) hl).trans (startFrame_other s hp)

/-- Every plot starts its frame once: its one waiting job has started one attempt. -/
theorem startFrames_started {q : PlotId} {j : Job} (l : List PlotId) (s : State) (hq : q ∈ l) (once : l.Nodup)
    (hj : (s.plot q).plt.jobs = [j]) (live : j.live = true) (waits : j.phase = .waiting) :
    ∃ k, ((s.eachPlot l startFrame).plot q).plt.jobs = [k] ∧ Started s.frm.count.toNat j k := by
  induction l generalizing s with
  | nil => exact absurd hq List.not_mem_nil
  | cons p l ih =>
    obtain ⟨hp, hl⟩ := List.nodup_cons.mp once
    by_cases e : q = p
    · subst e
      obtain ⟨k, hk, started⟩ := startFrame_started hj live waits
      have later : (s.eachPlot (q :: l) startFrame).plot q = (startFrame s q).plot q :=
        startFrames_other l (startFrame s q) hp
      exact ⟨k, by rw [later, hk], started⟩
    · have := ih (startFrame s p) ((List.mem_cons.mp hq).resolve_left e) hl (by rw [startFrame_other s e, hj])
      rwa [startFrame_frm] at this

/-! ### The first cycle of a frame -/

/-- What is done in the first cycle of a frame: the port latches, every plot starts its frame, the lanes go on. -/
def firstCycle (s : State) : State := resumeLanes ((latchIngest s).eachPlot allPlots startFrame)

/-- The parts are those of the latch, of the starts and of the lanes together: boot, frame, configuration and undo are none. -/
theorem firstCycle_keeps (s : State) : Keeps 237717104 (fun _ => true) s (firstCycle s) := by
  have covers {b : Nat} (h : (237717104 &&& b == b) = true) : Covers 237717104 b := Covers.of (Covers.refl _) h
  have latched := latchIngest_keeps (P := fun _ => true) (Keeps.refl s) (covers (by decide)) (fun _ => rfl)
  have started : Keeps 237717104 (fun _ => true) s ((latchIngest s).eachPlot allPlots startFrame) :=
    latched.eachPlot fun _ q h => startFrame_keeps q h (covers (by decide)) rfl
  exact resumeLanes_keeps started (covers (by decide)) (fun _ => rfl)

theorem firstCycle_routes (s : State) : (firstCycle s).msh.routes = s.msh.routes := by
  rw [firstCycle, (resumeLanes_carries _).routes, (startFrames_keeps _ _).msh_eq, (latchIngest_carries (calm := true) s).routes]

theorem firstCycle_irq (s : State) (i : Nat) (h : s.pf.irqStatus.getLsbD i = true) :
    (firstCycle s).pf.irqStatus.getLsbD i = true := by
  refine (resumeLanes_carries _).irq i ?_
  rw [(startFrames_keeps _ _).pf_eq]
  exact (latchIngest_carries (calm := true) s).irq i h

theorem firstCycle_settled (s : State) (q : PlotId) : Settled (firstCycle s) q :=
  (resumeLanes_carries _).settled (startFrames_settled allPlots _ (.inl (List.mem_finRange q)))

theorem firstCycle_started {s : State} {q : PlotId} {j : Job} (hj : (s.plot q).plt.jobs = [j]) (live : j.live = true)
    (waits : j.phase = .waiting) :
    ∃ k, ((firstCycle s).plot q).plt.jobs = [k] ∧ Started s.frm.count.toNat j k := by
  have latched := (latchIngest_carries (calm := true) s).jobs q
  rw [hj] at latched
  obtain ⟨i, hi, same⟩ := latched.singleton
  obtain ⟨ilive, iphase⟩ := same.stays rfl
  obtain ⟨k, hk, started⟩ := startFrames_started allPlots (latchIngest s) (List.mem_finRange q) (List.nodup_finRange 65) hi
    (ilive.trans live) (iphase.trans waits)
  have resumed := (resumeLanes_carries ((latchIngest s).eachPlot allPlots startFrame)).jobs q
  rw [hk] at resumed
  obtain ⟨m, hm, km⟩ := resumed.singleton
  have frm : (latchIngest s).frm = s.frm :=
    (latchIngest_keeps (P := fun _ => true) (Keeps.refl s) (Covers.refl _) (fun _ => rfl)).frm_eq
  obtain ⟨idx, attempts, first, running⟩ := started.same km
  rw [frm, same.first] at first
  exact ⟨m, hm, idx.trans same.idx, by rw [attempts, same.attempts], first, running⟩

/-! ### The registers of a frame -/

/-- From `f` to `g` the frame stays: its registers and counters, and no FRM_EVENT bit falls. -/
structure FrmKept (f g : FrmState) : Prop where
  rws : g.rws = f.rws
  tickAt : g.tickAt = f.tickAt
  count : g.count = f.count
  lenLast : g.lenLast = f.lenLast
  framePeriod : g.framePeriod = f.framePeriod
  frameDev : g.frameDev = f.frameDev
  opened : g.opened = f.opened
  holdoff : g.holdoff = f.holdoff
  holdoffCnt : g.holdoffCnt = f.holdoffCnt
  event : ∀ i : Nat, f.event.getLsbD i = true → g.event.getLsbD i = true

theorem FrmKept.refl (f : FrmState) : FrmKept f f := ⟨rfl, rfl, rfl, rfl, rfl, rfl, rfl, rfl, rfl, fun _ => id⟩

theorem ppsFrame_kept (f : FrmState) : FrmKept f (ppsFrame f) := by
  unfold ppsFrame
  split
  · exact ⟨rfl, rfl, rfl, rfl, rfl, rfl, rfl, rfl, rfl, fun _ => id⟩
  · exact FrmKept.refl f

theorem ppsTick_kept (f : FrmState) : FrmKept f (ppsTick f) := by
  unfold ppsTick
  split
  · exact FrmKept.refl f
  · exact ⟨rfl, rfl, rfl, rfl, rfl, rfl, rfl, rfl, rfl, fun _ => id⟩

theorem ppsAcquire_kept (s : State) : FrmKept s.frm (ppsAcquire s).frm := by
  unfold ppsAcquire
  repeat' split
  case h_2 => exact ⟨rfl, rfl, rfl, rfl, rfl, rfl, rfl, rfl, rfl, fun _ => id⟩
  all_goals exact FrmKept.refl _

theorem State.raisePf_frm (s : State) (c : Fin 15) : (s.raisePf c).frm = s.frm :=
  (State.raisePf_keeps (P := fun _ => false) c (Keeps.refl s) (Covers.refl _)).frm_eq

theorem State.logLine_frm (s : State) (code plot : Nat) (node : Option NodeId) (a b : Nat) :
    (s.logLine code plot node a b).frm = s.frm := by
  unfold State.logLine
  exact State.raisePf_frm _ 0

/-- An event of the frame sets its bit; the frame stays. -/
theorem State.frmEvent_frm (s : State) (b : Fin 9) :
    (s.frmEvent b).frm.event = setBit s.frm.event b.val true ∧ FrmKept s.frm (s.frmEvent b).frm := by
  unfold State.frmEvent
  extract_lets noted raised
  have hr : raised.frm = noted.frm := State.raisePf_frm noted 1
  have sets (i : Nat) : s.frm.event.getLsbD i = true → (setBit s.frm.event b.val true).getLsbD i = true :=
    getLsbD_setBit_of b.val
  repeat' split
  · rw [State.logSuppressed_frm, hr]
    exact ⟨rfl, rfl, rfl, rfl, rfl, rfl, rfl, rfl, rfl, rfl, sets⟩
  · rw [State.logLine_frm, State.modFrm_frm, hr]
    exact ⟨rfl, rfl, rfl, rfl, rfl, rfl, rfl, rfl, rfl, rfl, sets⟩
  · rw [hr]
    exact ⟨rfl, rfl, rfl, rfl, rfl, rfl, rfl, rfl, rfl, rfl, sets⟩

theorem State.frmEvent_carries (s : State) (b : Fin 9) : Carries true s (s.frmEvent b) := by
  unfold State.frmEvent
  extract_lets noted raised
  have hn : Carries true s noted := (Carries.refl s).rest rfl rfl rfl
  have hr : Carries true s raised := (State.raisePf_carries noted 1).after hn
  repeat' split
  · exact (State.logSuppressed_carries raised).after hr
  · exact (State.logLine_carries ..).after (hr.rest rfl rfl rfl)
  · exact hr

/-- An event of the frame raises the PF cause FRM. -/
theorem State.frmEvent_irq (s : State) (b : Fin 9) : (s.frmEvent b).pf.irqStatus.getLsbD 1 = true := by
  unfold State.frmEvent
  extract_lets noted raised
  have hr : raised.pf.irqStatus.getLsbD 1 = true := by
    rw [show raised = noted.raisePf 1 from rfl, State.raisePf_pf]
    exact getLsbD_setBit_self _ (by decide)
  repeat' split
  · exact hr
  · exact (State.logLine_carries (calm := true) ..).irq 1 hr
  · exact hr

theorem ppsLockAt_frm (s : State) (t : Nat) : FrmKept s.frm (ppsLockAt s t).frm := by
  unfold ppsLockAt
  repeat' split
  case h_1 => exact FrmKept.refl _
  case h_2 e he =>
    obtain ⟨-, rws, tickAt, count, lenLast, framePeriod, frameDev, opened, holdoff, holdoffCnt, event⟩ :=
      State.frmEvent_frm (s.modFrm (fun f => { f with
        srcState := .ppsLock, ppsExpect := some (e + f.ppsRate.toNat), ppsOut4 := 0, ppsRem := 0, ppsPhase := 0 })) 8
    exact ⟨rws, tickAt, count, lenLast, framePeriod, frameDev, opened, holdoff, holdoffCnt, event⟩
  case isFalse =>
    rw [State.modFrm_frm]
    split
    · exact ppsTick_kept s.frm
    · exact FrmKept.refl s.frm

theorem ppsLockAt_carries (s : State) (t : Nat) : Carries true s (ppsLockAt s t) := by
  unfold ppsLockAt
  repeat' split
  case h_1 => exact Carries.refl s
  case h_2 => exact (State.frmEvent_carries _ 8).after ((Carries.refl s).rest rfl rfl rfl)
  case isFalse => exact (Carries.refl s).rest rfl rfl rfl

/-! ### A tick (R16, R19, R21) -/

/-- The frame of `f` has ended at the edge `t`, and `g` holds the next one. -/
structure FrameTurned (f : FrmState) (t : Nat) (g : FrmState) : Prop where
  rws : g.rws = f.rws
  tickAt : g.tickAt = t
  count : g.count = satInc f.count
  lenLast : g.lenLast = frameLen f.tickAt t
  framePeriod : g.framePeriod = f.rws.period.toNat
  frameDev : g.frameDev = f.rws
  opened : g.opened = false
  holdoff : g.holdoff = none
  holdoffCnt : g.holdoffCnt = f.holdoffCnt
  event : ∀ i : Nat, f.event.getLsbD i = true → g.event.getLsbD i = true

theorem FrameTurned.kept {f g h : FrmState} {t : Nat} (a : FrameTurned f t g) (b : FrmKept g h) : FrameTurned f t h where
  rws := b.rws.trans a.rws
  tickAt := b.tickAt.trans a.tickAt
  count := b.count.trans a.count
  lenLast := b.lenLast.trans a.lenLast
  framePeriod := b.framePeriod.trans a.framePeriod
  frameDev := b.frameDev.trans a.frameDev
  opened := b.opened.trans a.opened
  holdoff := b.holdoff.trans a.holdoff
  holdoffCnt := b.holdoffCnt.trans a.holdoffCnt
  event := fun i => b.event i ∘ a.event i

/-- The frame of `s` has ended at the edge `t`, and nothing of the next one's first cycle is done yet. -/
structure FrameEnded (s : State) (t : Nat) (u : State) : Prop where
  tclk : u.boot.tclk = max s.boot.tclk t
  frm : FrameTurned s.frm t u.frm
  undo : u.undo = none
  routes : u.msh.routes = u.cfg.content.routes
  irq : ∀ i : Nat, s.pf.irqStatus.getLsbD i = true → u.pf.irqStatus.getLsbD i = true
  plots : ∀ q : PlotId, u.plot q = s.plot q

/-- A tick ends the frame, does the first cycle of the next one, and the PPS source takes the new frame up. -/
theorem doTick_split (s : State) (t : Nat) :
    ∃ u, FrameEnded s t u ∧ doTick s t = ppsAcquire ((firstCycle u).modFrm ppsFrame) := by
  have locked := ppsLockAt_keeps (P := fun _ => false) t (Keeps.refl (s.advanceTo t)) (Covers.refl _)
  have kept := ppsLockAt_frm (s.advanceTo t) t
  refine ⟨_, ?_, rfl⟩
  constructor
  case tclk => exact congrArg BootState.tclk locked.boot_eq
  case undo => rfl
  case routes => rfl
  case irq => exact (ppsLockAt_carries (s.advanceTo t) t).irq
  case plots => exact fun q => locked.plot_eq rfl
  case frm =>
    exact {
      rws := kept.rws, tickAt := rfl, count := congrArg satInc kept.count,
      lenLast := congrArg (frameLen · t) kept.tickAt, framePeriod := congrArg (fun r : DevRws => r.period.toNat) kept.rws,
      frameDev := kept.rws, opened := rfl, holdoff := rfl, holdoffCnt := kept.holdoffCnt, event := kept.event }

/-- The PPS source writes the frame block only. -/
theorem ppsTakesUp_keeps (s : State) : Keeps 8 (fun _ => false) s (ppsAcquire (s.modFrm ppsFrame)) :=
  ppsAcquire_keeps (State.modFrm_keeps (Keeps.refl s) ppsFrame (Covers.refl _)) (Covers.refl _)

theorem doTick_frm (s : State) (t : Nat) : FrameTurned s.frm t (doTick s t).frm := by
  obtain ⟨u, ended, e⟩ := doTick_split s t
  rw [e]
  have frm : (firstCycle u).frm = u.frm := (firstCycle_keeps u).frm_eq
  have turned : FrameTurned s.frm t ((firstCycle u).modFrm ppsFrame).frm := by
    rw [State.modFrm_frm, frm]
    exact ended.frm.kept (ppsFrame_kept u.frm)
  exact turned.kept (ppsAcquire_kept _)

theorem doTick_irq (s : State) (t i : Nat) (h : s.pf.irqStatus.getLsbD i = true) :
    (doTick s t).pf.irqStatus.getLsbD i = true := by
  obtain ⟨u, ended, e⟩ := doTick_split s t
  rw [e, (ppsTakesUp_keeps (firstCycle u)).pf_eq]
  exact firstCycle_irq u i (ended.irq i h)

theorem doTick_settled (s : State) (t : Nat) (q : PlotId) : Settled (doTick s t) q := by
  obtain ⟨u, -, e⟩ := doTick_split s t
  rw [e, Settled, (ppsTakesUp_keeps (firstCycle u)).plot_eq rfl]
  exact firstCycle_settled u q

/-- The one job of a plot, if it waits for an attempt, starts one in the frame that begins (R26, R58). -/
theorem doTick_started {s : State} (t : Nat) {q : PlotId} {j : Job} (hj : (s.plot q).plt.jobs = [j]) (live : j.live = true)
    (waits : j.phase = .waiting) :
    ∃ k, ((doTick s t).plot q).plt.jobs = [k] ∧ Started (doTick s t).frm.count.toNat j k := by
  rw [(doTick_frm s t).count]
  obtain ⟨u, ended, e⟩ := doTick_split s t
  rw [e, (ppsTakesUp_keeps (firstCycle u)).plot_eq rfl, ← ended.frm.count]
  exact firstCycle_started (by rw [ended.plots, hj]) live waits

theorem frameLen_toNat (a b : Nat) : (frameLen a b).toNat = min (b - a) (2 ^ 28 - 1) := by
  have zero : (0 : BitVec 28).toNat = 0 := rfl
  rw [frameLen, satAdd, BitVec.toNat_ofNat, zero]
  omega

/-- A tick at an edge ends the frame there and begins the next (R16, R19, R21, R26). -/
theorem doTick_ticked (s : State) (t : Nat) : ticked s t (doTick s t) := by
  obtain ⟨rws, tickAt, count, lenLast, framePeriod, frameDev, opened, holdoff, -, -⟩ := doTick_frm s t
  have settled := doTick_settled s t
  obtain ⟨u, ended, e⟩ := doTick_split s t
  have took := ppsTakesUp_keeps (firstCycle u)
  have cycle := firstCycle_keeps u
  have boot : (doTick s t).boot = u.boot := by rw [e, took.boot_eq, cycle.boot_eq]
  have undo : (doTick s t).undo = u.undo := by rw [e, took.undo_eq, cycle.undo_eq]
  have cfg : (doTick s t).cfg = u.cfg := by rw [e, took.cfg_eq, cycle.cfg_eq]
  have routes : (doTick s t).msh.routes = u.msh.routes := by rw [e, took.msh_eq, firstCycle_routes]
  refine ⟨by rw [boot, ended.tclk], tickAt, count, by rw [lenLast, frameLen_toNat], by rw [framePeriod, rws],
    by rw [frameDev, rws], opened, holdoff, undo.trans ended.undo, by rw [routes, cfg, ended.routes], ?_⟩
  intro q j hj live
  simpa [Job.due, live] using settled q j hj

/-! ### When the tick comes (R32, R33, R39) -/

/-- The tick was held off: FRM_HOLDOFF_CNT counts it, with FRM_EVENT.HOLDOFF (R39). -/
def countHoldoff (s : State) : State :=
  (s.modFrm (fun f => { f with holdoffCnt := satInc f.holdoffCnt })).frmEvent 1

/-- A counted source gives the tick at its edge. -/
theorem tickNow_counted {s : State} {e : Nat} (ready : s.isReady = true) (opened : s.frm.opened = true)
    (free : s.frm.holdoff = none) (due : tickDue s.frm = some e) : tickNow s = doTick s e := by
  simp [tickNow, ready, opened, free, due]

/-- A held-off tick comes when the commit sequence ends, if that is within 2 µs of its message (R39). -/
theorem tickNow_heldOff {s : State} {m : Nat} (ready : s.isReady = true) (opened : s.frm.opened = true)
    (held : s.frm.holdoff = some m) (inTime : s.frm.commitEnd ≤ m + 200) :
    tickNow s = doTick (countHoldoff s) s.frm.commitEnd := by
  simp [tickNow, ready, opened, held, inTime, countHoldoff]

/-- Before ready, and before the window has opened, no tick comes. -/
theorem tickNow_closed {s : State} (h : s.isReady = false ∨ s.frm.opened = false) : tickNow s = s := by
  rcases h with h | h <;> simp [tickNow, h]

/-- TICK does nothing, or ends the frame of a state with the same jobs. -/
theorem tickNow_cases (s : State) :
    tickNow s = s ∨ (∃ e, tickNow s = doTick s e) ∨ tickNow s = doTick (countHoldoff s) s.frm.commitEnd := by
  unfold tickNow
  repeat' split
  case h_1.isTrue => exact .inr (.inr rfl)
  case h_1 e _ => exact .inr (.inl ⟨e, rfl⟩)
  all_goals exact .inl rfl

theorem countHoldoff_keeps (s : State) : Keeps 134218808 (fun _ => false) s (countHoldoff s) :=
  State.frmEvent_keeps 1 (State.modFrm_keeps (Keeps.refl s) _ (Covers.of (Covers.refl 134218808) (by decide))) (Covers.refl _)

/-- Counting a hold-off keeps the frame but for its count and its event. -/
theorem countHoldoff_frm (s : State) :
    (countHoldoff s).frm.event = setBit s.frm.event 1 true ∧
      FrmKept { s.frm with holdoffCnt := satInc s.frm.holdoffCnt } (countHoldoff s).frm :=
  State.frmEvent_frm (s.modFrm (fun f => { f with holdoffCnt := satInc f.holdoffCnt })) 1

theorem countHoldoff_count (s : State) : (countHoldoff s).frm.count = s.frm.count := (countHoldoff_frm s).2.count

/-- A held-off tick ends the frame of the state before it was counted. -/
theorem ticked_of_countHoldoff {s t : State} {edge : Nat} (h : ticked (countHoldoff s) edge t) : ticked s edge t := by
  have tickAt : (countHoldoff s).frm.tickAt = s.frm.tickAt := (countHoldoff_frm s).2.tickAt
  rwa [ticked, (countHoldoff_keeps s).boot_eq, tickAt, countHoldoff_count] at h

/-- A held-off tick is counted once, with FRM_EVENT.HOLDOFF and the PF cause FRM. -/
theorem doTick_countHoldoff (s : State) (t : Nat) :
    (doTick (countHoldoff s) t).frm.holdoffCnt = satInc s.frm.holdoffCnt ∧
      (doTick (countHoldoff s) t).frm.event.getLsbD 1 = true ∧
      (doTick (countHoldoff s) t).pf.irqStatus.getLsbD 1 = true := by
  obtain ⟨event, kept⟩ := countHoldoff_frm s
  have turned := doTick_frm (countHoldoff s) t
  refine ⟨turned.holdoffCnt.trans kept.holdoffCnt, turned.event 1 ?_, doTick_irq _ t 1 (State.frmEvent_irq _ 1)⟩
  rw [event]
  exact getLsbD_setBit_self _ (by decide)

/-- A tick that moves FRM_COUNT on starts an attempt of the one waiting job of a plot (R26, R58). -/
theorem tickNow_started {s : State} {q : PlotId} {j : Job} (turned : (tickNow s).frm.count ≠ s.frm.count)
    (hj : (s.plot q).plt.jobs = [j]) (live : j.live = true) (waits : j.phase = .waiting) :
    ∃ k, ((tickNow s).plot q).plt.jobs = [k] ∧ Started (tickNow s).frm.count.toNat j k := by
  rcases tickNow_cases s with e | ⟨edge, e⟩ | e
  · exact absurd (by rw [e]) turned
  · rw [e]
    exact doTick_started edge hj live waits
  · rw [e]
    exact doTick_started _ (by rw [(countHoldoff_keeps s).plot_eq rfl, hj]) live waits

/-- TICK is the tick that is due. -/
theorem exec_tick (s : State) : exec .tick s = .next (tickNow s) := rfl

theorem gives_tick {s t : State} {P : State → Prop} (h : tickNow s = t) (ht : P t) : Gives .tick s P :=
  ⟨t, by rw [exec_tick, h], ht⟩

/-- Settles O32: a tick is given by a counted source at its edge, or when the commit sequence that held it off ends. -/
theorem ticksEndFrames : Obligations.TicksEndFrames := by
  unfold Obligations.TicksEndFrames
  intro s
  have counted {e : Nat} (ready : s.isReady = true) (opened : s.frm.opened = true) (free : s.frm.holdoff = none)
      (due : tickDue s.frm = some e) : Gives .tick s (fun t => ticked s e t ∧ t.frm.rws = s.frm.rws) :=
    gives_tick (tickNow_counted ready opened free due) ⟨doTick_ticked s e, (doTick_frm s e).rws⟩
  refine ⟨fun ready opened free => ⟨fun gov => ?_, fun gov => ?_⟩, fun m ready opened held inTime => ?_, fun closed => ?_,
    fun q j t ht turned hj live waits => ?_⟩
  · refine counted ready opened free ?_
    rcases gov with gov | gov | ⟨gov, acq⟩
    · simp [tickDue, gov]
    · simp [tickDue, gov]
    · simp [tickDue, gov, acq]
  · refine counted ready opened free ?_
    rcases gov with gov | gov <;> simp [tickDue, gov]
  · exact gives_tick (tickNow_heldOff ready opened held inTime)
      ⟨ticked_of_countHoldoff (doTick_ticked _ _), doTick_countHoldoff s _⟩
  · exact gives_tick (tickNow_closed closed) rfl
  · obtain rfl : tickNow s = t := Host.Outcome.next.inj (exec_tick s ▸ ht)
    obtain ⟨k, hk, started⟩ := tickNow_started turned hj live waits
    exact ⟨k, hk, started.idx, started.attempts, started.first⟩

end Sys2Proof.Machine
end

section
/-!
PROOFS about the rings of a plot (chapter 02). A write of a ring index that does not fit changes nothing but what a ring error
changes (R46): PLT_RING_ERR and the RING_ERR cause of the plot, and one log line.
-/
namespace Sys2Proof.Machine

/-! ### What a ring error changes (R46) -/

/-- A line that is written changes no plot. -/
@[simp] theorem State.logLine_plots (s : State) (code plot : Nat) (node : Option NodeId) (a b : Nat) :
    (s.logLine code plot node a b).plots = s.plots := by
  simp only [State.logLine, State.raisePf_plots]

theorem State.logLine_plot (s : State) (code plot : Nat) (node : Option NodeId) (a b : Nat) (p : PlotId) :
    (s.logLine code plot node a b).plot p = s.plot p :=
  plot_of_plots_eq (s.logLine_plots code plot node a b) p

theorem Keeps.log_eq {w : Nat} {P : PlotId → Bool} {s t : State} (h : Keeps w P s t)
    (hw : w.testBit 10 = false := by decide) : t.log = s.log :=
  h.same.log.resolve_left (by simp [hw])

/-- Causes of a plot that rise write no line and take no time. -/
theorem State.raisePlot_log_time (s : State) (q : PlotId) (m : BitVec 13) :
    (s.raisePlot q m).log = s.log ∧ (s.raisePlot q m).frmTime = s.frmTime := by
  have kept := State.raisePlot_keeps (P := fun _ => true) q m (Keeps.refl s) (Covers.refl _) rfl
  exact ⟨kept.log_eq, by rw [State.frmTime, State.isReady, kept.boot_eq]; rfl⟩

/-- The operation of a ring error does what R46 has for one. -/
theorem ringErr_ringErrorOf (s : State) (q : PlotId) (reason : BitVec 4) (index : BitVec 16) :
    ringErrorOf s q reason index (ringErr s q reason index) := by
  unfold ringErr
  extract_lets noted
  obtain ⟨log, time⟩ := noted.raisePlot_log_time q 0x8
  refine ⟨?_, fun p hp => ?_, ?_, ?_⟩
  · rw [State.logLine_plot, State.raisePlot_self, State.modPlt_self]
  · rw [State.logLine_plot, State.raisePlot_other _ _ hp, State.modPlt_other _ _ hp]
  · rw [State.logLine_next, log, State.modPlt_log]
  · rw [State.logLine_head, log, time]
    rfl

/-! ### Index writes that do not fit -/

/-- PLT_SQ_TAIL is not written while RING_EN is 0. -/
theorem sqTailWrite_ringOff {s : State} {q : PlotId} (v : BitVec 16) (off : (s.plot q).plt.ringEn = false) :
    sqTailWrite s q v = ringErr s q 4 v := by
  simp [sqTailWrite, off]

/-- PLT_SQ_TAIL is not written past 256 entries from PLT_SQ_HEAD. -/
theorem sqTailWrite_overfull {s : State} {q : PlotId} {v : BitVec 16} (on : (s.plot q).plt.ringEn = true)
    (exceeds : 256 < occupancy v (s.plot q).plt.sqHead) : sqTailWrite s q v = ringErr s q 1 v := by
  simp [sqTailWrite, on, exceeds]

/-- PLT_CQ_HEAD is not written more than 256 entries behind PLT_CQ_TAIL. -/
theorem cqHeadWrite_overfull {s : State} {q : PlotId} {v : BitVec 16}
    (exceeds : 256 < occupancy (s.plot q).plt.cqTail v) : cqHeadWrite s q v = ringErr s q 2 v := by
  simp [cqHeadWrite, exceeds]

/-! ### The commands -/

/-- A function reaches the register set of a plot: the PF every one, a VF its own (R294). -/
theorem reaches_iff {f : Fn} {q : PlotId} : reaches f q = true ↔ f = 0 ∨ f = q := by
  simp [reaches]

section
variable {s : State} {f : Fn} {q : PlotId} (served : s.hostOk f = true) (hq : q ≠ 0) (own : f = 0 ∨ f = q)
include served hq own

/-- A write of PLT_SQ_TAIL that is served goes to the plot's ring. -/
theorem exec_sqTailWrite_served (v : Word) :
    exec (.sqTailWrite f q v) s = .next (sqTailWrite { s with resp := {} } q (v.setWidth 16)) := by
  change execSqTailWrite f q v s = _
  rw [execSqTailWrite, hostGate_ok _ served, if_pos ⟨hq, reaches_iff.mpr own⟩]

/-- A write of PLT_CQ_HEAD that is served goes to the plot's ring. -/
theorem exec_cqHeadWrite_served (v : Word) :
    exec (.cqHeadWrite f q v) s = .next (cqHeadWrite { s with resp := {} } q (v.setWidth 16)) := by
  change execCqHeadWrite f q v s = _
  rw [execCqHeadWrite, hostGate_ok _ served, if_pos ⟨hq, reaches_iff.mpr own⟩]

end

/-- A command that comes to a ring error on the state with an empty answer gives the ring error's effect. -/
theorem gives_ringErrorOf {c : Instr} {s t : State} {q : PlotId} {reason : BitVec 4} {index : BitVec 16}
    (ran : exec c s = .next t) (refused : t = ringErr { s with resp := {} } q reason index) :
    Gives c s (ringErrorOf s q reason index) :=
  ⟨t, ran, refused ▸ ringErr_ringErrorOf { s with resp := {} } q reason index⟩

/-- Settles O19: a served index write that does not fit comes to a ring error, which leaves the indices as they are and reports the
refused value (log entry 167). -/
theorem ringIndexErrors : Obligations.RingIndexErrors := by
  unfold Obligations.RingIndexErrors
  intro s f q v served hq own
  have tailWrite := exec_sqTailWrite_served served hq own v
  have headWrite := exec_cqHeadWrite_served served hq own v
  refine ⟨fun off => ?_, fun on exceeds => ?_, fun exceeds => ?_⟩
  · exact gives_ringErrorOf tailWrite (sqTailWrite_ringOff _ off)
  · exact gives_ringErrorOf tailWrite (sqTailWrite_overfull on exceeds)
  · exact gives_ringErrorOf headWrite (cqHeadWrite_overfull exceeds)

end Sys2Proof.Machine
end

section
/-!
PROOFS about the patrol scrubber and the links (chapter 04). A flit that is discarded charges a fault to a job that runs: its
abandonment begins (R56, R57), which of the mesh lets go only the job's retry-table entries and grants, so that the counts of
R121 stay. The scrubber has one outcome for each kind of word (R119).
-/
namespace Sys2Proof.Machine

/-! ### What a fault of a job that runs does (R56, R57) -/

theorem Keeps.mem_eq {w : Nat} {P : PlotId → Bool} {s t : State} (h : Keeps w P s t)
    (hw : w.testBit 26 = false := by decide) : t.mem = s.mem :=
  h.same.mem.resolve_left (by simp [hw])

/-- A line that is written changes no register of the mesh. -/
theorem State.logLine_msh (s : State) (code plot : Nat) (node : Option NodeId) (a b : Nat) :
    (s.logLine code plot node a b).msh = s.msh :=
  (State.logLine_keeps (P := fun _ => false) (Keeps.refl s) code plot node a b (Covers.refl _)).msh_eq

/-- A change of live jobs that keeps them live, under their index, is found under that index. -/
theorem State.modJob_job? {s : State} {q : PlotId} {j : Job} {f : Job → Job} (found : (s.plot q).plt.job? j.idx = some j)
    (keeps : ∀ k : Job, k.live = true → (f k).idx = k.idx ∧ (f k).live = true) :
    ((s.modJob q j.idx f).plot q).plt.job? j.idx = some (f j) := by
  have same (k : Job) : ((if k.idx == j.idx && k.live then f k else k).idx == j.idx &&
      (if k.idx == j.idx && k.live then f k else k).live) = (k.idx == j.idx && k.live) := by
    split
    case isTrue h =>
      obtain ⟨idx, live⟩ : k.idx = j.idx ∧ k.live = true := by simpa using h
      simp [keeps k live, idx, live]
    case isFalse => rfl
  unfold PltSet.job? at found ⊢
  have matching : (j.idx == j.idx && j.live) = true := by simpa using List.find?_some found
  rw [State.modJob_jobs, List.find?_map]
  simp only [Function.comp_def, same, found, Option.map_some, if_pos matching]

/-- Abandonment clears engines, and no PLT set. -/
theorem clearJobEngines_plt (s : State) (q : PlotId) (i : BitVec 16) :
    ((clearJobEngines s q i).plot q).plt = (s.plot q).plt := by
  simp [clearJobEngines, clearJobRest, clearMatrixJob, clearFlashJob, clearMeshJob, clearAnnealJob, clearGraftJob, State.plot,
    State.modPlot]

/-- Abandonment lets go of the job's retry-table entries and grants; nothing else of the mesh changes. -/
theorem beginAbandon_msh (s : State) (q : PlotId) (j : Job) (c : Code) (node : Option NodeId) :
    (beginAbandon s q j c node).msh = (clearMeshJob s q j.idx).msh := by
  unfold beginAbandon
  extract_lets abandoned cleared
  have lets_go : cleared.msh = (clearMeshJob s q j.idx).msh := rfl
  split
  · exact lets_go
  · rw [State.logLine_msh, lets_go]

/-- The job when its abandonment begins at a TCLK edge. -/
def Job.abandoned (c : Code) (node : Option NodeId) (edge : Nat) (j : Job) : Job :=
  { j.dropCopies with phase := .abandoning, code := c, node := node, faultAt := some edge, logged := true }

/-- A job that is being abandoned has not completed. -/
theorem Job.abandoned_live {j : Job} (c : Code) (node : Option NodeId) (edge : Nat) (h : j.live = true) :
    (j.abandoned c node edge).live = true := by
  obtain ⟨admitted, -⟩ : j.admitted = true ∧ _ := Bool.and_eq_true_iff.mp h
  exact Bool.and_eq_true_iff.mpr ⟨admitted, rfl⟩

/-- The job is found abandoned, with the code and the node of its fault. -/
theorem beginAbandon_job? {s : State} {q : PlotId} {j : Job} (c : Code) (node : Option NodeId)
    (found : (s.plot q).plt.job? j.idx = some j) :
    ((beginAbandon s q j c node).plot q).plt.job? j.idx = some (j.abandoned c node s.boot.tclk) := by
  have marked := State.modJob_job? found (f := Job.abandoned c node s.boot.tclk)
    fun k live => ⟨rfl, k.abandoned_live c node s.boot.tclk live⟩
  rw [← clearJobEngines_plt _ q j.idx] at marked
  unfold beginAbandon
  split
  · exact marked
  · rw [State.logLine_plot]
    exact marked

/-- The JOB_FAULT line of an abandonment is the latest line, and new. -/
theorem beginAbandon_line (s : State) (q : PlotId) {j : Job} (c : Code) (node : Option NodeId) (first : j.logged = false) :
    ∃ l ∈ (beginAbandon s q j c node).log.lines, s.log.next.toNat ≤ l.seq ∧ l.code = 0x10 ∧ l.plot = q.val ∧ l.node = node ∧
      l.arg0 = c.num + 256 * j.attempts ∧ l.arg1 = j.desc.tag.toNat := by
  unfold beginAbandon
  extract_lets abandoned cleared
  have log : cleared.log = s.log :=
    (clearJobEngines_keeps (P := fun _ => true) q j.idx (Keeps.refl abandoned) (Covers.refl _) rfl).log_eq
  rw [if_neg (by simp [first])]
  have seq : s.log.next.toNat = cleared.log.next.toNat := congrArg (fun l => l.next.toNat) log.symm
  exact ⟨_, List.mem_of_head? (cleared.logLine_head ..), Nat.le_of_eq seq, rfl, rfl, rfl, rfl, rfl⟩

/-- Abandonment does to a live job what a fault does. -/
theorem beginAbandon_faulted {s : State} {q : PlotId} {j : Job} (c : Code) (node : Option NodeId)
    (found : (s.plot q).plt.job? j.idx = some j) : faulted s q j c node (beginAbandon s q j c node) := by
  have kept := beginAbandon_keeps (P := fun _ => true) q j c node (Keeps.refl s) (Covers.refl _) rfl
  refine ⟨?_, kept.mem_eq, beginAbandon_line s q c node⟩
  rw [beginAbandon_job? c node found, kept.boot_eq]
  rfl

/-- A fault of a job that runs begins its abandonment. -/
theorem chargeFault_of_runs {s : State} {q : PlotId} {j : Job} (c : Code) (node : Option NodeId) (h : runs s q j) :
    chargeFault s q j.idx c node = beginAbandon s q j c node := by
  obtain ⟨found, phase, budget, deadline⟩ := h
  simp [chargeFault, found, phase, budget, deadline]

/-! ### Flits whose CRC fails (R121) -/

/-- Up to 3 failures are replays, each counted, and the flit passes. -/
theorem linkFail_replayed (s : State) (n : NodeId) (owner : Option (PlotId × BitVec 16)) {k : Nat} (h : k < 4) :
    linkFail s n owner k = s.modMesh (fun m => { m with linkReplay := satAdd m.linkReplay k }) := by
  have replays : min k 3 = k := by omega
  simp [linkFail, h, replays]

/-- The links count a flit that 3 replays have not saved. -/
def countDiscard (s : State) : State :=
  (s.modMesh fun m => { m with linkReplay := satAdd m.linkReplay 3 }).modMesh fun m => { m with linkFail := satInc m.linkFail }

/-- A fourth failure is no replay: the flit is discarded, and its job faults at the upstream router. -/
theorem linkFail_discarded (s : State) (n : NodeId) (q : PlotId) (i : BitVec 16) {k : Nat} (h : 4 ≤ k) :
    linkFail s n (some (q, i)) k = chargeFault (countDiscard s) q i .engine (some n) := by
  have replays : min k 3 = 3 := by omega
  simp [linkFail, countDiscard, Nat.not_lt.mpr h, replays]

/-- The discard of a flit faults its job that runs, and the counts of the links stay with the fault. -/
theorem linkFail_faulted {s : State} (n : NodeId) {q : PlotId} {j : Job} {k : Nat} (h : 4 ≤ k) (run : runs s q j) :
    faulted s q j .engine (some n) (linkFail s n (some (q, j.idx)) k) ∧
      (linkFail s n (some (q, j.idx)) k).msh.linkReplay = satAdd s.msh.linkReplay 3 ∧
      (linkFail s n (some (q, j.idx)) k).msh.linkFail = satInc s.msh.linkFail := by
  have counted : runs (countDiscard s) q j := run
  rw [linkFail_discarded s n q j.idx h, chargeFault_of_runs .engine (some n) counted]
  refine ⟨beginAbandon_faulted (s := countDiscard s) .engine (some n) run.1, ?_, ?_⟩
  · rw [beginAbandon_msh]; rfl
  · rw [beginAbandon_msh]; rfl

/-! ### The patrol scrubber (R118, R119) -/

/-- A line that is poisoned already has had its error counted. -/
theorem detectError_poisoned {s : State} {a : Nat} (faults : State → State) (h : a / 64 * 64 ∈ s.msh.poison) :
    detectError s a faults = faults s := by
  simp [detectError, h]

/-- An uncorrectable error that faults no work poisons its line and is counted and logged. -/
theorem detectError_fresh {s : State} {a : Nat} (h : a / 64 * 64 ∉ s.msh.poison) :
    detectError s a (fun t => t) = (s.modMesh fun m => { m with
      poison := m.poison ++ [a / 64 * 64], ueCnt := satInc m.ueCnt, eccAddr := BitVec.ofNat 32 a }).logLine 0x30
        (linePlot s (a / 64 * 64)) (some (meshNode a)) a 0 := by
  rw [detectError, if_neg (by simpa using h)]
  rfl

/-- With SCRUB_EN 0, and at an address no memory has, the scrubber does nothing. -/
theorem patrol_off {s : State} {addr : Word} (single bad pass : Bool)
    (off : s.msh.scrubEn = false ∨ meshAssigned addr.toNat = false) : patrol s addr single bad pass = s := by
  rcases off with off | off <;> simp [patrol, off]

section
variable {s : State} {addr : Word} (en : s.msh.scrubEn = true) (has : meshAssigned addr.toNat = true)
include en has

/-- A single-bit error is corrected and counted. -/
theorem patrol_single :
    patrol s addr true false false = s.modMesh fun m => { m with ceCnt := satInc m.ceCnt } := by
  simp [patrol, en, has]

/-- The end of a pass is counted. -/
theorem patrol_pass :
    patrol s addr false false true = s.modMesh fun m => { m with scrubPass := satInc m.scrubPass } := by
  simp [patrol, en, has]

/-- An uncorrectable word is an error that faults no work. -/
theorem patrol_bad (single : Bool) : patrol s addr single true false = detectError s addr.toNat (fun t => t) := by
  simp [patrol, en, has]

end

/-! ### The commands -/

/-- PATROL_SCRUB is the scrubber's outcome, once the device is ready. -/
theorem gives_patrolScrub {s t : State} {addr : Word} {single bad pass : Bool} {P : State → Prop} (ready : s.isReady = true)
    (h : patrol s addr single bad pass = t) (ht : P t) : Gives (.patrolScrub addr single bad pass) s P :=
  ⟨t, by change execPatrolScrub addr single bad pass s = _; rw [execPatrolScrub, if_pos ready, h], ht⟩

/-- LINK_CRC_FAIL is the link's outcome, once the device is ready. -/
theorem gives_linkCrcFail {s t : State} {n : NodeId} {owner : Option (PlotId × BitVec 16)} {k : Nat} {P : State → Prop}
    (ready : s.isReady = true) (h : linkFail s n owner k = t) (ht : P t) : Gives (.linkCrcFail n owner k) s P :=
  ⟨t, by change execLinkCrcFail n owner k s = _; rw [execLinkCrcFail, if_pos ready, h], ht⟩

/-- Settles O40: each kind of word has one outcome of the scrubber (R118, R119, log entries 34 and 35), and a flit is replayed
or discarded with a fault of its job (R121). -/
theorem scrubbingAndLinks : Obligations.ScrubbingAndLinks := by
  unfold Obligations.ScrubbingAndLinks
  intro s ready
  refine ⟨fun addr en has => ⟨?_, ?_, fun single fresh => ?_, fun single poisoned => ?_⟩, fun addr single bad pass off => ?_,
    fun n owner k replays => ?_, fun n q j k discards run => ?_⟩
  · exact gives_patrolScrub ready (patrol_single en has) rfl
  · exact gives_patrolScrub ready (patrol_pass en has) rfl
  · refine gives_patrolScrub ready ((patrol_bad en has single).trans (detectError_fresh fresh)) ⟨?_, ?_⟩
    · rw [State.logLine_msh, State.modMesh_msh, BitVec.ofNat_toNat, BitVec.setWidth_eq]
    · exact ⟨_, State.logLine_head .., rfl, rfl, rfl, rfl⟩
  · exact gives_patrolScrub ready ((patrol_bad en has single).trans (detectError_poisoned _ poisoned)) rfl
  · exact gives_patrolScrub ready (patrol_off single bad pass off) rfl
  · exact gives_linkCrcFail ready (linkFail_replayed s n owner replays) rfl
  · exact gives_linkCrcFail ready rfl (linkFail_faulted n discards run)

end Sys2Proof.Machine
end

section
/-!
PROOFS about the SMBus target (chapter 12). Each of its commands is a transfer that the target serves, or a write of REG_ADDR that it
refuses for its PEC (R302). Neither moves more than the target's own registers (`movesOnlySmbus`), and a transfer that is not
acknowledged moves nothing. A read that is answered gives the value of its code (R303).
-/
namespace Sys2Proof.Machine

/-! ### Which transfers are answered (R302, R303) -/

/-- The target answers from 10 ms after VDD_AUX became valid, at 0x58 + SMB_ADDR. -/
theorem State.smbAnswers_iff {s : State} {x : SmbXfer} : s.smbAnswers x = true ↔
    s.aux.on = true ∧ s.aux.since + 1000000 ≤ s.boot.tclk ∧ x.addr.toNat = 0x58 + s.aux.strap.val := by
  have address : s.smbAddress.toNat = 0x58 + s.aux.strap.val := by
    rw [State.smbAddress, BitVec.toNat_ofNat, Nat.mod_eq_of_lt (by omega)]
  simp only [State.smbAnswers, Bool.and_eq_true, decide_eq_true_eq, beq_iff_eq, and_assoc, ← BitVec.toNat_inj, address]

/-- Without VDD_AUX, before its first 10 ms are over, or at another address, the target does not answer. -/
theorem State.not_smbAnswers {s : State} {x : SmbXfer}
    (h : s.aux.on = false ∨ s.boot.tclk < s.aux.since + 1000000 ∨ x.addr.toNat ≠ 0x58 + s.aux.strap.val) :
    ¬ s.smbAnswers x = true := by
  rw [State.smbAnswers_iff]
  rintro ⟨on, late, address⟩
  obtain off | early | other := h
  · simp [off] at on
  · omega
  · exact other address

/-- A transfer that is answered is served and counted. -/
theorem smbServe_answered {s : State} {x : SmbXfer} (answered : s.smbAnswers x = true) (k : State → State × Response) :
    smbServe s x k = { (k s).1 with resp := (k s).2, hst := { (k s).1.hst with smbXfers := satInc (k s).1.hst.smbXfers } } :=
  if_pos answered

/-- A transfer that is not answered is not acknowledged. -/
theorem smbServe_unanswered {s : State} {x : SmbXfer} (unanswered : ¬ s.smbAnswers x = true) (k : State → State × Response) :
    smbServe s x k = { s with resp := { error := true } } :=
  if_neg unanswered

/-! ### Writes of REG_ADDR (R302) -/

/-- The PEC that a write of REG_ADDR is due: over address, code, length and word. -/
def regAddrPec (x : SmbXfer) (w : Word) : Byte :=
  pecOf ([BitVec.ofNat 8 (2 * x.addr.toNat), 0x10, 4] ++ leBytes 4 w.toNat)

/-- A write of REG_ADDR as the target serves it. -/
def setRegAddr (w : Word) (s : State) : State × Response := ({ s with hst := { s.hst with smbAddr := w } }, {})

/-- REG_ADDR with a word is a transfer, but for a wrong PEC, which is discarded and counted. -/
theorem smbRegAddress_write (s : State) (x : SmbXfer) (w : Word) (pec : Option Byte) :
    smbRegAddress s x (some (w, pec)) = if s.smbAnswers x && pec.any (fun p => p != regAddrPec x w) then
      { s with resp := { error := true }, hst := { s.hst with smbPec := satInc s.hst.smbPec } }
    else smbServe s x (setRegAddr w) := rfl

/-- A write whose PEC is wrong moves nothing but the count of such writes. -/
theorem smbRegAddress_wrongPec {s : State} {x : SmbXfer} {w : Word} {pec : Byte} (answered : s.smbAnswers x = true)
    (wrong : pec ≠ regAddrPec x w) : smbRegAddress s x (some (w, some pec)) =
      { s with hst := { s.hst with smbPec := satInc s.hst.smbPec }, resp := { error := true } } := by
  rw [smbRegAddress_write, if_pos (by simp [answered, wrong])]

/-- A write with no PEC or the right one is answered, and REG_ADDR holds its word. -/
theorem gives_smbRegAddr_write {s : State} {x : SmbXfer} {w : Word} {pec : Option Byte} (answered : s.smbAnswers x = true)
    (right : pec = none ∨ pec = some (regAddrPec x w)) :
    Gives (.smbRegAddr x (some (w, pec))) s (fun t => t.resp = {} ∧ t.hst.smbAddr = w) := by
  have served : smbRegAddress s x (some (w, pec)) = smbServe s x (setRegAddr w) := by
    obtain rfl | rfl := right <;> simp [smbRegAddress_write]
  exact ⟨_, congrArg Host.Outcome.next (served.trans (smbServe_answered answered _)), rfl, rfl⟩

/-! ### What a command of the target moves (R302) -/

/-- From `s` to `t` nothing moves but the answer, the free values used, and the target's own address, latches and counters. -/
def movesOnlySmbus (s t : State) : Prop :=
  t = { s with
    resp := t.resp, free := t.free, hst := { s.hst with
      smbXfers := t.hst.smbXfers, smbAddr := t.hst.smbAddr, smbLatches := t.hst.smbLatches, smbPec := t.hst.smbPec } }

/-- What a transfer may do: move the target's own registers, and nothing where it is not acknowledged. -/
def smbEffect (s : State) (x : SmbXfer) (t : State) : Prop :=
  movesOnlySmbus s t ∧ (¬ s.smbAnswers x = true → t = { s with resp := { error := true } })

/-- A transfer moves no more than what is done to serve it. -/
theorem smbServe_effect {s : State} (x : SmbXfer) {k : State → State × Response} (h : movesOnlySmbus s (k s).1) :
    smbEffect s x (smbServe s x k) := by
  refine ⟨?_, fun unanswered => smbServe_unanswered unanswered k⟩
  by_cases answered : s.smbAnswers x = true
  · rw [smbServe_answered answered, movesOnlySmbus, h]
  · rw [smbServe_unanswered answered, movesOnlySmbus]

theorem smbRead_effect {s : State} (x : SmbXfer) (code n : Nat) (block : Bool) {v : State → State × Nat}
    (h : movesOnlySmbus s (v s).1) : smbEffect s x (smbRead s x code n block v) :=
  smbServe_effect x h

theorem smbRegAddress_effect (s : State) (x : SmbXfer) (write : Option (Word × Option Byte)) :
    smbEffect s x (smbRegAddress s x write) := by
  cases write with
  | none => exact smbRead_effect x 0x10 4 true rfl
  | some write =>
    obtain ⟨w, pec⟩ := write
    rw [smbRegAddress_write]
    split
    case isTrue refused => exact ⟨rfl, fun unanswered => absurd (Bool.and_eq_true_iff.mp refused).1 unanswered⟩
    case isFalse => exact smbServe_effect x rfl

/-- IDENT takes a free value at most. -/
theorem smbIdentity_movesOnlySmbus (s : State) : movesOnlySmbus s (smbIdentity s).1 := by
  unfold smbIdentity
  split <;> rfl

/-- REG_DATA takes a free value or sets latches of the target's own. -/
theorem smbRegister_movesOnlySmbus (s : State) : movesOnlySmbus s (smbRegister s).1 := by
  unfold smbRegister
  extract_lets
  repeat' split
  all_goals rfl

/-- Every command of the target has no more than a transfer's effect. -/
theorem smbCommand_effect (s : State) (x : SmbXfer) (w : Option (Word × Option Byte)) {c : Instr} (hc : c ∈ smbCommands x w) :
    Gives c s (smbEffect s x) := by
  simp only [smbCommands, List.mem_cons, List.not_mem_nil, or_false] at hc
  obtain rfl | rfl | rfl | rfl | rfl | rfl | rfl | rfl | rfl := hc
  · exact ⟨_, rfl, smbRead_effect x _ _ _ rfl⟩
  · exact ⟨_, rfl, smbRead_effect x _ _ _ rfl⟩
  · exact ⟨_, rfl, smbRead_effect x _ _ _ rfl⟩
  · exact ⟨_, rfl, smbRead_effect x _ _ _ rfl⟩
  · exact ⟨_, rfl, smbRead_effect x _ _ _ rfl⟩
  · exact ⟨_, rfl, smbRead_effect x _ _ _ (smbIdentity_movesOnlySmbus s)⟩
  · exact ⟨_, rfl, smbRead_effect x _ _ _ rfl⟩
  · exact ⟨_, rfl, smbRegAddress_effect s x w⟩
  · exact ⟨_, rfl, smbRead_effect x _ _ _ (smbRegister_movesOnlySmbus s)⟩

/-! ### What a read answers (R303, Table 12-7) -/

/-- The `n` bytes of a value do not depend on what stands above them. -/
theorem leBytes_mod (n v : Nat) : leBytes n (v % 2 ^ (8 * n)) = leBytes n v := by
  induction n generalizing v with
  | zero => rfl
  | succ n ih =>
    have width : 2 ^ (8 * (n + 1)) = 256 * 2 ^ (8 * n) := by rw [Nat.mul_succ, Nat.pow_add, Nat.mul_comm]
    have low : BitVec.ofNat 8 (v % 2 ^ (8 * (n + 1))) = BitVec.ofNat 8 v := by
      rw [BitVec.toNat_eq, BitVec.toNat_ofNat, BitVec.toNat_ofNat, width, Nat.mod_mul_right_mod]
    rw [leBytes, leBytes, low, width, Nat.mod_mul_right_div_self, ih]

/-- A read of `n` bytes answers the low `n` bytes of its value. -/
theorem smbAnswer_mod (x : SmbXfer) (code n : Nat) (block : Bool) (v : Nat) :
    smbAnswer x code n block (v % 2 ^ (8 * n)) = smbAnswer x code n block v := by
  simp only [smbAnswer, Nat.mod_mod, leBytes_mod]

/-- An answered read gives its value, with a PEC where the host clocks one. -/
theorem smbRead_resp {s : State} {x : SmbXfer} (answered : s.smbAnswers x = true) (code n : Nat) (block : Bool)
    (v : State → State × Nat) : (smbRead s x code n block v).resp = smbAnswer x code n block (v s).2 := by
  rw [smbRead, smbServe_answered answered, smbAnswer, List.append_assoc]
  rfl

/-- A command that is an answered read gives the read's value. -/
theorem gives_smbAnswer {c : Instr} {s : State} {x : SmbXfer} {code n : Nat} {block : Bool} {v : State → State × Nat} {m : Nat}
    (answered : s.smbAnswers x = true) (ran : exec c s = .next (smbRead s x code n block v)) (hm : (v s).2 = m) :
    Gives c s (fun t => t.resp = smbAnswer x code n block m) :=
  ⟨_, ran, hm ▸ smbRead_resp answered code n block v⟩

/-- The bits of the STATUS byte (Table 12-7). -/
theorem smbStatusByte_eq (s : State) : smbStatusByte s =
    b2n s.isReady + 2 * b2n (s.aux.trip.getLsbD 31) + 4 * b2n s.pwr.lowest + 8 * b2n s.hst.linkUp + 16 * b2n s.boot.vrAlert +
      32 * b2n (s.att.stop != 0 || s.att.sets.toList.any (fun a => a.stop != 0)) := by
  have stopped : s.signingStopped = (s.att.stop != 0 || s.att.sets.toList.any (fun a => a.stop != 0)) := rfl
  simp only [smbStatusByte, flagBits, stopped]
  omega

/-- From 120 µs after the start event IDENT is HST_ID and HST_EPOCH, the old epoch until the epoch step has ended. -/
theorem smbIdentity_started {s : State} (started : s.boot.phase ≠ .held) (valid : s.boot.startAt + 12000 ≤ s.boot.tclk) :
    (smbIdentity s).2 =
      hstId s.fuses + 2 ^ 32 * (if s.boot.tclk < s.boot.epochAt then s.boot.epochWas.toNat else hstEpoch s) := by
  rw [smbIdentity, if_pos (by simp [started, valid]), epochNow]

/-- REG_DATA is 0 until ready. -/
theorem smbRegister_unready {s : State} (unready : s.isReady = false) : (smbRegister s).2 = 0 := by
  simp [smbRegister, unready]

/-- REG_DATA at a register of one word is the low word of its value. -/
theorem smbRegister_word {s : State} {a : Nat} (ready : s.isReady = true) (aligned : s.hst.smbAddr.toNat % 4 = 0)
    (outside : msixAt 0 s.hst.smbAddr.toNat = none) (found : regAt 0 s.hst.smbAddr.toNat = some a)
    (fixed : openValue s 0 a = false) (single : groupWord a = none) : (smbRegister s).2 = regValue s 0 a % 2 ^ (8 * 4) := by
  simp [smbRegister, latchedRead, ready, aligned, outside, found, fixed, single]

/-! ### The statements -/

/-- Every code that is answered gives the value of Table 12-7. -/
theorem answeredTransfersGiveTheirValue : smbusTargetAnswers := by
  intro s x on late address
  have answered := State.smbAnswers_iff.mpr ⟨on, late, address⟩
  refine ⟨?status, ?trip, fun started valid => ?ident, ?temp, ?power, ?cap, ?cause, ?regAddr, fun w => ?write,
    fun unready => ?unready, fun a ready aligned outside found fixed single => ?regData⟩
  case status => exact gives_smbAnswer answered rfl (smbStatusByte_eq s)
  case ident => exact gives_smbAnswer answered rfl (smbIdentity_started started valid)
  case write => exact gives_smbRegAddr_write answered (.inl rfl)
  case unready => exact gives_smbAnswer answered rfl (smbRegister_unready unready)
  case regData =>
    rw [← smbAnswer_mod]
    exact gives_smbAnswer answered rfl (smbRegister_word ready aligned outside found fixed single)
  case trip | temp | power | cap | cause | regAddr => exact gives_smbAnswer answered rfl rfl

/-- No command of the target moves more than the target's own registers. -/
theorem transfersMoveOnlySmbus : smbusChangesNothing := by
  refine ⟨fun s x w c hc => ?_, fun s x w pec on late address => ?_⟩
  · obtain ⟨t, ran, moves, unacknowledged⟩ := smbCommand_effect s x w hc
    exact ⟨⟨t, ran, moves⟩, fun unanswered => ⟨t, ran, unacknowledged (State.not_smbAnswers unanswered)⟩⟩
  · have answered := State.smbAnswers_iff.mpr ⟨on, late, address⟩
    exact ⟨fun wrong => ⟨_, rfl, smbRegAddress_wrongPec answered wrong⟩,
      fun right => gives_smbRegAddr_write answered (.inr (congrArg some right))⟩

/-- Settles O12: an answered transfer gives its code's value, and none moves more than the target's own registers (R302, R303, log
entries 238 and 239). -/
theorem smbusServesWithoutEffect : Obligations.SmbusServesWithoutEffect :=
  ⟨answeredTransfersGiveTheirValue, transfersMoveOnlySmbus⟩

end Sys2Proof.Machine
end

section
/-!
PROOFS about every command and every step. The frame of a command is that it keeps every part of the state outside its areas and every
plot it does not name (`exec_same`); what outlives a step, resets among them, follows from `exec_follows`.
-/
namespace Sys2Proof.Machine

/-! ### Sets of areas as sets of parts -/

/-- The place of an area in the list of areas, which is that of its part in a set of parts. -/
def Area.bit (a : Area) : Nat := Area.all.idxOf a

theorem Area.mem_all (a : Area) : a ∈ Area.all := by cases a <;> decide

/-- The area at an area's place is that area. -/
theorem Area.all_bit (a : Area) : Area.all[a.bit]? = some a := by cases a <;> rfl

theorem Area.bit_inj {a b : Area} : a.bit = b.bit ↔ a = b := by
  refine ⟨fun same => Option.some.inj ?_, congrArg Area.bit⟩
  rw [← a.all_bit, same, b.all_bit]

/-- The parts of the listed areas. -/
def partsOf (l : List Area) : Nat := l.foldr (fun a w => 2 ^ a.bit ||| w) 0

theorem testBit_partsOf (l : List Area) (a : Area) : (partsOf l).testBit a.bit = decide (a ∈ l) := by
  induction l with
  | nil => simp [partsOf]
  | cons b l ih =>
    have rest : partsOf (b :: l) = 2 ^ b.bit ||| partsOf l := rfl
    rw [rest, Nat.testBit_or, ih, Nat.testBit_two_pow]
    simp [Area.bit_inj, eq_comm]

/-- The listed areas hold the parts that they consist of. -/
theorem parts_cover {l : List Area} {w : Nat} (h : partsOf l = w) : Covers (partsOf l) w := h ▸ Covers.refl _

/-- An area that is not listed is kept by a change of the listed areas. -/
theorem Same.kept {l : List Area} {P : PlotId → Bool} {s t : State} (h : Same (partsOf l) P s t) {a : Area} (unlisted : a ∉ l) :
    a.kept s t := by
  have written : ¬ (partsOf l).testBit a.bit = true := by simpa [testBit_partsOf] using unlisted
  cases a with
  | boot => exact h.boot.resolve_left written
  | aux => exact h.aux.resolve_left written
  | fuses => exact h.fuses.resolve_left written
  | frm => exact h.frm.resolve_left written
  | pf => exact h.pf.resolve_left written
  | fns => exact h.fns.resolve_left written
  | hst => exact h.hst.resolve_left written
  | cfg => exact h.cfg.resolve_left written
  | undo => exact h.undo.resolve_left written
  | msh => exact h.msh.resolve_left written
  | log => exact h.log.resolve_left written
  | att => exact h.att.resolve_left written
  | anl => exact h.anl.resolve_left written
  | nse => exact h.nse.resolve_left written
  | lanes => exact h.lanes.resolve_left written
  | devGraft => exact h.devGraft.resolve_left written
  | mxes => exact h.mxes.resolve_left written
  | partials => exact h.partials.resolve_left written
  | devMacs => exact h.devMacs.resolve_left written
  | hccs => exact h.hccs.resolve_left written
  | hccTrap => exact h.hccTrap.resolve_left written
  | qces => exact h.qces.resolve_left written
  | qceBytes => exact h.qceBytes.resolve_left written
  | qceTrap => exact h.qceTrap.resolve_left written
  | pwr => exact h.pwr.resolve_left written
  | skt => exact h.skt.resolve_left written
  | mem => exact h.mem.resolve_left written
  | out => exact h.out.resolve_left written
  | resp => exact h.resp.resolve_left written
  | free => exact h.free.resolve_left written

/-- A change of any part and any plot. -/
theorem Same.whole {s t : State} : Same (partsOf Area.all) (fun _ => true) s t := by
  constructor
  case plots => exact .inl fun _ => rfl
  all_goals exact .inl (by decide)

theorem Same.plot_eq {w : Nat} {P : PlotId → Bool} {s t : State} (h : Same w P s t) {p : PlotId} (hp : P p = false) :
    t.plot p = s.plot p := by
  obtain all | kept := h.plots
  · simp [all p] at hp
  · exact kept p hp

/-- Every command changes no area but its own, and no plot but those it may touch. -/
theorem exec_same (c : Instr) {s t : State} (h : exec c s = .next t) : Same (partsOf (areasOf c)) (touchesPlot c) s t := by
  cases c with
  | registerWrite f w => exact Keeps.same (execRegisterWrite_keeps f w (parts_cover rfl) (fun _ => rfl) h)
  | accessDiscard f write off len enables => exact Keeps.same (execAccessDiscard_keeps f write off len enables (parts_cover rfl) h)
  | poisonedWrite f off => exact Keeps.same (execPoisonedWrite_keeps f off (parts_cover rfl) h)
  | loReadLatch f off len => exact Keeps.same (execLoReadLatch_keeps f off len (parts_cover rfl) h)
  | loWriteHold f off v => exact Keeps.same (execLoWriteHold_keeps f off v (parts_cover rfl) h)
  | hiWriteApply f off v => exact Keeps.same (execHiWriteApply_keeps f off v (parts_cover rfl) (fun _ => rfl) h)
  | tick => exact Keeps.same (execTick_keeps (parts_cover rfl) (fun _ => rfl) h)
  | commitWindowOpen r => exact Keeps.same (execCommitWindowOpen_keeps r (parts_cover rfl) (fun _ => rfl) h)
  | budgetOverrun q idx claim => exact Keeps.same (execBudgetOverrun_keeps q idx claim (parts_cover rfl) (by exact beq_self_eq_true q) h)
  | abandonmentComplete q idx => exact Keeps.same (execAbandonmentComplete_keeps q idx (parts_cover rfl) (by exact beq_self_eq_true q) h)
  | ppsEdge wait rising => exact Keeps.same (execPpsEdge_keeps wait rising (parts_cover rfl) h)
  | ppsEdgeMissing => exact Keeps.same (execPpsEdgeMissing_keeps (parts_cover rfl) h)
  | plantWindowClose => exact Keeps.same (execPlantWindowClose_keeps (parts_cover rfl) (fun _ => rfl) h)
  | plantAcqTimeout => exact Keeps.same (execPlantAcqTimeout_keeps (parts_cover rfl) (fun _ => rfl) h)
  | tickHoldoffTimeout unprepared => exact Keeps.same (execTickHoldoffTimeout_keeps unprepared (parts_cover rfl) (fun _ => rfl) h)
  | frmCtlWrite v => exact Keeps.same (execFrmCtlWrite_keeps v (parts_cover rfl) h)
  | sqTailWrite f q v => exact Keeps.same (execSqTailWrite_keeps f q v (parts_cover rfl) (by exact beq_self_eq_true q) h)
  | cqHeadWrite f q v => exact Keeps.same (execCqHeadWrite_keeps f q v (parts_cover rfl) (by exact beq_self_eq_true q) h)
  | descriptorFetch q r => exact Keeps.same (execDescriptorFetch_keeps q r (parts_cover rfl) (by exact beq_self_eq_true q) h)
  | imageFetch q r ops => exact Keeps.same (execImageFetch_keeps q r ops (parts_cover rfl) (by exact beq_self_eq_true q) h)
  | plotEnableWrite q en pfFaultEn => exact Keeps.same (execPlotEnableWrite_keeps q en pfFaultEn (parts_cover rfl) (by exact beq_self_eq_true q) h)
  | plotReset f q => exact Keeps.same (execPlotReset_keeps f q (parts_cover rfl) (by exact beq_self_eq_true q) h)
  | cancelAll f q => exact Keeps.same (execCancelAll_keeps f q (parts_cover rfl) (by exact beq_self_eq_true q) h)
  | stopEnd q => exact Keeps.same (execStopEnd_keeps q (parts_cover rfl) (by exact beq_self_eq_true q) h)
  | clearingEnd q => exact Keeps.same (execClearingEnd_keeps q (parts_cover rfl) (by exact beq_self_eq_true q) h)
  | irqMaskWrite f q v => exact Keeps.same (execIrqMaskWrite_keeps f q v (parts_cover rfl) (by exact beq_self_eq_true q) h)
  | busMasterEnableWrite f on => exact Keeps.same (execBusMasterEnableWrite_keeps f on (parts_cover rfl) (fun _ => rfl) h)
  | vfEnableClear => exact Keeps.same (execVfEnableClear_keeps (parts_cover rfl) (fun _ => rfl) h)
  | vfFlr p => exact Keeps.same (execVfFlr_keeps p (parts_cover rfl) (by exact beq_self_eq_true p) h)
  | pfFlr => exact Keeps.same (execPfFlr_keeps (parts_cover rfl) (fun _ => rfl) h)
  | hostWriteLoss q user => exact Keeps.same (execHostWriteLoss_keeps q user (parts_cover rfl) (by exact beq_self_eq_true q) h)
  | hostReadError q user kind => exact Keeps.same (execHostReadError_keeps q user kind (parts_cover rfl) (fun _ => rfl) h)
  | unsupportedRequest f e => exact Keeps.same (execUnsupportedRequest_keeps f e (parts_cover rfl) h)
  | cfgLoad abort arm => exact Keeps.same (execCfgLoad_keeps abort arm (parts_cover rfl) (fun _ => rfl) h)
  | cfgAbort arm => exact Keeps.same (execCfgAbort_keeps arm (parts_cover rfl) (fun _ => rfl) h)
  | cfgArm arm => exact Keeps.same (execCfgArm_keeps arm (parts_cover rfl) (fun _ => rfl) h)
  | loadFetchComplete r => exact Keeps.same (execLoadFetchComplete_keeps r (parts_cover rfl) (fun _ => rfl) h)
  | loadVerifyComplete => exact Keeps.same (execLoadVerifyComplete_keeps (parts_cover rfl) (fun _ => rfl) h)
  | stagingComplete => exact Keeps.same (execStagingComplete_keeps (parts_cover rfl) (fun _ => rfl) h)
  | bundleWaitExpire => exact Keeps.same (execBundleWaitExpire_keeps (parts_cover rfl) (fun _ => rfl) h)
  | revert f q => exact Keeps.same (execRevert_keeps f q (parts_cover rfl) (by exact beq_self_eq_true q) h)
  | fuseProgram key slot => exact Keeps.same (execFuseProgram_keeps key slot (parts_cover rfl) h)
  | fuseRevoke key slot => exact Keeps.same (execFuseRevoke_keeps key slot (parts_cover rfl) h)
  | fuseLock key => exact Keeps.same (execFuseLock_keeps key (parts_cover rfl) h)
  | fuseOpComplete => exact Keeps.same (execFuseOpComplete_keeps (parts_cover rfl) h)
  | retriedMulticastLaunch q idx entry flits => exact Keeps.same (execRetriedMulticastLaunch_keeps q idx entry flits (parts_cover rfl) h)
  | multicastAckNack src q entry target ack => exact Keeps.same (execMulticastAckNack_keeps src q entry target ack (parts_cover rfl) h)
  | multicastReady src q entry target => exact Keeps.same (execMulticastReady_keeps src q entry target (parts_cover rfl) (by exact beq_self_eq_true q) h)
  | multicastTimeout src q entry => exact Keeps.same (execMulticastTimeout_keeps src q entry (parts_cover rfl) (by exact beq_self_eq_true q) h)
  | creditReservation q idx entry step => exact Keeps.same (execCreditReservation_keeps q idx entry step (parts_cover rfl) h)
  | mergedRead q addr readers single uncorrectable => exact Keeps.same (execMergedRead_keeps q addr readers single uncorrectable (parts_cover rfl) (by exact beq_self_eq_true q) h)
  | homePageFirstWrite q idx node addr data => exact Keeps.same (execHomePageFirstWrite_keeps q idx node addr data (parts_cover rfl) (by exact beq_self_eq_true q) h)
  | writeCopyComplete q idx page => exact Keeps.same (execWriteCopyComplete_keeps q idx page (parts_cover rfl) (by exact beq_self_eq_true q) h)
  | backedPageMiss q idx node addr => exact Keeps.same (execBackedPageMiss_keeps q idx node addr (parts_cover rfl) (by exact beq_self_eq_true q) h)
  | pageInRequest q idx node addr => exact Keeps.same (execPageInRequest_keeps q idx node addr (parts_cover rfl) (by exact beq_self_eq_true q) h)
  | pageInComplete q page => exact Keeps.same (execPageInComplete_keeps q page (parts_cover rfl) (by exact beq_self_eq_true q) h)
  | patrolScrub addr single uncorrectable pass => exact Keeps.same (execPatrolScrub_keeps addr single uncorrectable pass (parts_cover rfl) h)
  | linkCrcFail router owner failures => exact Keeps.same (execLinkCrcFail_keeps router owner failures (parts_cover rfl) (fun _ => rfl) h)
  | pcacheWrite q v => exact Keeps.same (execPcacheWrite_keeps q v (parts_cover rfl) (by exact beq_self_eq_true q) h)
  | frameZeroingDone q => exact Keeps.same (execFrameZeroingDone_keeps q (by exact beq_self_eq_true q) h)
  | annealInitialPass q idx => exact Keeps.same (execAnnealInitialPass_keeps q idx (parts_cover rfl) (by exact beq_self_eq_true q) h)
  | annealRunStart q idx sweeps bearing => exact Keeps.same (execAnnealRunStart_keeps q idx sweeps bearing (parts_cover rfl) (by exact beq_self_eq_true q) h)
  | flipSlot q idx => exact Keeps.same (execFlipSlot_keeps q idx (parts_cover rfl) (by exact beq_self_eq_true q) h)
  | sweepComplete q idx => exact Keeps.same (execSweepComplete_keeps q idx (parts_cover rfl) (by exact beq_self_eq_true q) h)
  | energyAudit q idx hardwareError => exact Keeps.same (execEnergyAudit_keeps q idx hardwareError (parts_cover rfl) (by exact beq_self_eq_true q) h)
  | stallWindowEnd q idx => exact Keeps.same (execStallWindowEnd_keeps q idx (by exact beq_self_eq_true q) h)
  | bearingPeriodEnd q idx => exact Keeps.same (execBearingPeriodEnd_keeps q idx (by exact beq_self_eq_true q) h)
  | annealRunEnd q idx => exact Keeps.same (execAnnealRunEnd_keeps q idx (by exact beq_self_eq_true q) h)
  | wellHealthFail source apt => exact Keeps.same (execWellHealthFail_keeps source apt (parts_cover rfl) h)
  | startupTestPass source => exact Keeps.same (execStartupTestPass_keeps source (parts_cover rfl) h)
  | wellRetry f t => exact Keeps.same (execWellRetry_keeps f t (parts_cover rfl) h)
  | deepWellRetry f channel => exact Keeps.same (execDeepWellRetry_keeps f channel (parts_cover rfl) h)
  | deepWellDrawStart t => exact Keeps.same (execDeepWellDrawStart_keeps t (parts_cover rfl) h)
  | deepWellBlock => exact Keeps.same (execDeepWellBlock_keeps (parts_cover rfl) (fun _ => rfl) h)
  | rngRequest f q blocks => exact Keeps.same (execRngRequest_keeps f q blocks (parts_cover rfl) (by exact beq_self_eq_true q) h)
  | rngWindowExpire q => exact Keeps.same (execRngWindowExpire_keeps q (parts_cover rfl) (by exact beq_self_eq_true q) h)
  | tapeDoorbell f q tile index => exact Keeps.same (execTapeDoorbell_keeps f q tile index (parts_cover rfl) (by exact beq_self_eq_true q) h)
  | tapeSegmentArrival q tile r => exact Keeps.same (execTapeSegmentArrival_keeps q tile r (parts_cover rfl) (by exact beq_self_eq_true q) h)
  | tapeRecordWrite q tile => exact Keeps.same (execTapeRecordWrite_keeps q tile (parts_cover rfl) (by exact beq_self_eq_true q) h)
  | graftFullPass q idx => exact Keeps.same (execGraftFullPass_keeps q idx (parts_cover rfl) (by exact beq_self_eq_true q) h)
  | graftSelect q idx cluster => exact Keeps.same (execGraftSelect_keeps q idx cluster (parts_cover rfl) (by exact beq_self_eq_true q) h)
  | graftStage q idx => exact Keeps.same (execGraftStage_keeps q idx (parts_cover rfl) (by exact beq_self_eq_true q) h)
  | graftPass q idx => exact Keeps.same (execGraftPass_keeps q idx (parts_cover rfl) (by exact beq_self_eq_true q) h)
  | graftHarvest q idx => exact Keeps.same (execGraftHarvest_keeps q idx (parts_cover rfl) (by exact beq_self_eq_true q) h)
  | graftFullAudit q idx => exact Keeps.same (execGraftFullAudit_keeps q idx (parts_cover rfl) (by exact beq_self_eq_true q) h)
  | mxeOperationStart q idx engine op => exact Keeps.same (execMxeOperationStart_keeps q idx engine op (parts_cover rfl) (by exact beq_self_eq_true q) h)
  | bankSwap engine stall => exact Keeps.same (execBankSwap_keeps engine stall (parts_cover rfl) (fun _ => rfl) h)
  | partialTileReceive engine => exact Keeps.same (execPartialTileReceive_keeps engine (parts_cover rfl) (fun _ => rfl) h)
  | helperCallStart cluster ready => exact Keeps.same (execHelperCallStart_keeps cluster ready (parts_cover rfl) h)
  | helperCallEnd cluster e => exact Keeps.same (execHelperCallEnd_keeps cluster e (parts_cover rfl) (fun _ => rfl) h)
  | qceCallStart engine ready => exact Keeps.same (execQceCallStart_keeps engine ready (parts_cover rfl) h)
  | qcePass1 engine => exact Keeps.same (execQcePass1_keeps engine (parts_cover rfl) (fun _ => rfl) h)
  | qcePass2 engine => exact Keeps.same (execQcePass2_keeps engine (parts_cover rfl) (fun _ => rfl) h)
  | laneInitDone lane => exact Keeps.same (execLaneInitDone_keeps lane (parts_cover rfl) (fun _ => rfl) h)
  | queryStart q idx addr => exact Keeps.same (execQueryStart_keeps q idx addr (parts_cover rfl) (by exact beq_self_eq_true q) h)
  | queryPartStart q idx query lane => exact Keeps.same (execQueryPartStart_keeps q idx query lane (parts_cover rfl) (by exact beq_self_eq_true q) h)
  | flashPageReady lane ce lun block page r => exact Keeps.same (execFlashPageReady_keeps lane ce lun block page r (parts_cover rfl) (fun _ => rfl) h)
  | laneClaimPark q idx lane => exact Keeps.same (execLaneClaimPark_keeps q idx lane (by exact beq_self_eq_true q) h)
  | queryDeadlineReached q idx query lane => exact Keeps.same (execQueryDeadlineReached_keeps q idx query lane (parts_cover rfl) (by exact beq_self_eq_true q) h)
  | queryResultMerge q idx query => exact Keeps.same (execQueryResultMerge_keeps q idx query (parts_cover rfl) (by exact beq_self_eq_true q) h)
  | sideAppend q idx index addr count => exact Keeps.same (execSideAppend_keeps q idx index addr count (parts_cover rfl) (by exact beq_self_eq_true q) h)
  | genWrite q idx index sector addr count flush => exact Keeps.same (execGenWrite_keeps q idx index sector addr count flush (parts_cover rfl) (by exact beq_self_eq_true q) h)
  | genMerge q idx index sector addr count flush => exact Keeps.same (execGenMerge_keeps q idx index sector addr count flush (parts_cover rfl) (by exact beq_self_eq_true q) h)
  | lunReadyTimeout lane ce lun block page => exact Keeps.same (execLunReadyTimeout_keeps lane ce lun block page (parts_cover rfl) (fun _ => rfl) h)
  | programEraseComplete lane ce lun fail => exact Keeps.same (execProgramEraseComplete_keeps lane ce lun fail (parts_cover rfl) (fun _ => rfl) h)
  | programEraseTimeout lane ce lun => exact Keeps.same (execProgramEraseTimeout_keeps lane ce lun (parts_cover rfl) (fun _ => rfl) h)
  | lunClr lane ce lun => exact Keeps.same (execLunClr_keeps lane ce lun (parts_cover rfl) h)
  | powerSample x => exact Keeps.same (execPowerSample_keeps x (parts_cover rfl) (fun _ => rfl) h)
  | currentLimiterEval rail window => exact Keeps.same (execCurrentLimiterEval_keeps rail window (parts_cover rfl) (fun _ => rfl) h)
  | capLimiterEval => exact Keeps.same (execCapLimiterEval_keeps (parts_cover rfl) (fun _ => rfl) h)
  | calibrationRead rail reading => exact Keeps.same (execCalibrationRead_keeps rail reading (parts_cover rfl) h)
  | calibrationLost rail => exact Keeps.same (execCalibrationLost_keeps rail (parts_cover rfl) h)
  | voltageBandEval => exact Keeps.same (execVoltageBandEval_keeps (parts_cover rfl) h)
  | ageingTrimStep pass8 fail4 => exact Keeps.same (execAgeingTrimStep_keeps pass8 fail4 (parts_cover rfl) h)
  | boostCheck => exact Keeps.same (execBoostCheck_keeps (parts_cover rfl) h)
  | fixedFreqWrite f v => exact Keeps.same (execFixedFreqWrite_keeps f v (parts_cover rfl) h)
  | droopCrossing depth => exact Keeps.same (execDroopCrossing_keeps depth (parts_cover rfl) h)
  | droopPersist => exact Keeps.same (execDroopPersist_keeps (parts_cover rfl) (fun _ => rfl) h)
  | vrAlert => exact Keeps.same (execVrAlert_keeps (parts_cover rfl) (fun _ => rfl) h)
  | lowestStateExit => exact Keeps.same (execLowestStateExit_keeps (parts_cover rfl) h)
  | thermalSample temps => exact Keeps.same (execThermalSample_keeps temps (parts_cover rfl) (fun _ => rfl) h)
  | thermalLimitUpdate => exact Keeps.same (execThermalLimitUpdate_keeps (parts_cover rfl) h)
  | thermalTrip _ => exact Same.whole
  | pmbusTransaction answer => exact Keeps.same (execPmbusTransaction_keeps answer (parts_cover rfl) h)
  | pwrOkRise _ => exact Same.whole
  | memoryInitDone => exact Keeps.same (execMemoryInitDone_keeps (parts_cover rfl) h)
  | ready => exact Keeps.same (execReady_keeps (parts_cover rfl) (fun _ => rfl) h)
  | tagKeyTimeout => exact Keeps.same (execTagKeyTimeout_keeps (parts_cover rfl) h)
  | pwrOkFall => exact Same.whole
  | perstAssert _ => exact Same.whole
  | perstDeassert => exact Keeps.same (execPerstDeassert_keeps (parts_cover rfl) h)
  | hotReset _ => exact Same.whole
  | linkDown _ => exact Same.whole
  | pfD3hotEnter => exact Keeps.same (execPfD3hotEnter_keeps (parts_cover rfl) (fun _ => rfl) h)
  | pfD0Return => exact Keeps.same (execPfD0Return_keeps (parts_cover rfl) (fun _ => rfl) h)
  | vfD3hotEnter p => exact Keeps.same (execVfD3hotEnter_keeps p (parts_cover rfl) (by exact beq_self_eq_true p) h)
  | msixEnableWrite f en mask => exact Keeps.same (execMsixEnableWrite_keeps f en mask (parts_cover rfl) h)
  | msixVectorUnmask f vec => exact Keeps.same (execMsixVectorUnmask_keeps f vec (parts_cover rfl) h)
  | ptmGo v => exact Keeps.same (execPtmGo_keeps v (parts_cover rfl) h)
  | ptmAutoTimer => exact Keeps.same (execPtmAutoTimer_keeps (parts_cover rfl) h)
  | ptmResponse wait master prop => exact Keeps.same (execPtmResponse_keeps wait master prop (parts_cover rfl) h)
  | ptmNoResponse => exact Keeps.same (execPtmNoResponse_keeps (parts_cover rfl) h)
  | smbStatus x => exact Keeps.same (execSmbStatus_keeps x (parts_cover rfl) h)
  | smbTemp x => exact Keeps.same (execSmbTemp_keeps x (parts_cover rfl) h)
  | smbPower x => exact Keeps.same (execSmbPower_keeps x (parts_cover rfl) h)
  | smbCap x => exact Keeps.same (execSmbCap_keeps x (parts_cover rfl) h)
  | smbTrip x => exact Keeps.same (execSmbTrip_keeps x (parts_cover rfl) h)
  | smbIdent x => exact Keeps.same (execSmbIdent_keeps x (parts_cover rfl) h)
  | smbResetCause x => exact Keeps.same (execSmbResetCause_keeps x (parts_cover rfl) h)
  | smbRegAddr x write => exact Keeps.same (execSmbRegAddr_keeps x write (parts_cover rfl) h)
  | smbRegData x => exact Keeps.same (execSmbRegData_keeps x (parts_cover rfl) h)
  | jtagExtest => exact Same.whole
  | jtagIdcode _ => exact Same.whole
  | jtagSamplePreload _ => exact Same.whole
  | jtagClamp => exact Same.whole
  | jtagHighz => exact Same.whole
  | jtagBypass _ _ => exact Same.whole
  | jtagResetExit _ _ => exact Same.whole
  | skoetFrameReceive cage pcs frame => exact Keeps.same (execSkoetFrameReceive_keeps cage pcs frame (parts_cover rfl) h)
  | messageCheckComplete => exact Keeps.same (execMessageCheckComplete_keeps (parts_cover rfl) (fun _ => rfl) h)
  | sktKeyLoad f => exact Keeps.same (execSktKeyLoad_keeps f (parts_cover rfl) h)
  | sktKeyClear f => exact Keeps.same (execSktKeyClear_keeps f (parts_cover rfl) h)
  | portModeWrite f cage v => exact Keeps.same (execPortModeWrite_keeps f cage v (parts_cover rfl) h)
  | portLossOfLock cage los modAbs => exact Keeps.same (execPortLossOfLock_keeps cage los modAbs (parts_cover rfl) h)
  | attRequest f q => exact Keeps.same (execAttRequest_keeps f q (parts_cover rfl) h)
  | attReportDone q request written => exact Keeps.same (execAttReportDone_keeps q request written (parts_cover rfl) h)
  | logAckWrite v => exact Keeps.same (execLogAckWrite_keeps v (parts_cover rfl) h)
  | logLineLatch f => exact Keeps.same (execLogLineLatch_keeps f (parts_cover rfl) h)
  | vddAuxPowerOn _ => exact Same.whole
  | vddAuxLoss => exact Same.whole
  | linkUp speed width => exact Keeps.same (execLinkUp_keeps speed width (parts_cover rfl) h)
  | vfD0Return p => exact Keeps.same (execVfD0Return_keeps p (parts_cover rfl) (by exact beq_self_eq_true p) h)
  | vrAlertDeasserted => exact Keeps.same (execVrAlertDeasserted_keeps (parts_cover rfl) h)
  | droopRecovery stretched => exact Keeps.same (execDroopRecovery_keeps stretched (parts_cover rfl) h)
  | portLock cage modAbs => exact Keeps.same (execPortLock_keeps cage modAbs (parts_cover rfl) h)
  | lunInitTimeout lane ce lun => exact Keeps.same (execLunInitTimeout_keeps lane ce lun (parts_cover rfl) (fun _ => rfl) h)
  | lunClrDone lane ce lun => exact Keeps.same (execLunClrDone_keeps lane ce lun (parts_cover rfl) h)
  | voltageSettleEnd => exact Keeps.same (execVoltageSettleEnd_keeps (parts_cover rfl) h)
  | conditionerOutput t bits => exact Keeps.same (execConditionerOutput_keeps t bits (parts_cover rfl) h)
  | deepWellOutput channel bits => exact Keeps.same (execDeepWellOutput_keeps channel bits (parts_cover rfl) h)

/-- Settles O27: what `exec_same` keeps holds every area that is not listed for the command. -/
theorem commandsWriteOnlyTheirAreas : Obligations.CommandsWriteOnlyTheirAreas :=
  fun c _ _ h _ unlisted => (exec_same c h).kept unlisted

/-- Settles O28: `exec_same` keeps every plot that the command may not touch. -/
theorem commandsLeaveOtherPlotsAlone : Obligations.CommandsLeaveOtherPlotsAlone :=
  fun c _ _ h _ untouched => (exec_same c h).plot_eq untouched

/-! ### What a step does -/

/-- With no command waiting, a step moves the time on by one edge. -/
theorem step_empty {s : State} (h : s.pending = []) : step s = .next (s.advanceTo (s.boot.tclk + 1)) := by
  simp [step, h]

/-- With a command waiting, a step runs it on the state with the queue's rest. -/
theorem step_front {s : State} {c : Instr} {rest : List Instr} (h : s.pending = c :: rest) :
    step s = exec c { s with pending := rest } := by
  simp [step, h]

/-- A step follows the state it starts from, less the command that it takes. -/
theorem step_follows {s t : State} (h : step s = .next t) : Follows { s with pending := s.pending.tail } t := by
  rcases waiting : s.pending with _ | ⟨c, rest⟩
  · rw [step_empty waiting] at h
    obtain rfl := Host.Outcome.next.inj h
    have kept := State.advanceTo_keeps (w := 1) (P := fun _ => false) (s0 := { s with pending := [] }) (Keeps.refl _)
      (s.boot.tclk + 1) (Covers.refl 1)
    have same : { s with pending := [] } = s := by rw [← waiting]
    rw [List.tail_nil]
    rw [same] at kept ⊢
    exact kept.follows
  · rw [step_front waiting] at h
    exact exec_follows c h

/-- Settles O3. -/
theorem everyStepKeepsMemoryForm : Obligations.EveryStepKeepsMemoryForm :=
  fun _ _ formed h => (step_follows h).mem formed

/-- Settles O4. -/
theorem everyStepKeepsLogInvariant : Obligations.EveryStepKeepsLogInvariant :=
  fun _ _ kept h => (step_follows h).log kept

/-- Settles O6. -/
theorem timeOutputAndFusesOnlyGrow : Obligations.TimeOutputAndFusesOnlyGrow := by
  refine ⟨fun s t h => ?_, fun s t h => ?_⟩
  · have after := step_follows h
    exact ⟨after.time, after.out, after.pending⟩
  · have blown := (step_follows h).blown
    exact ⟨fun _ fuse => blown.mem fuse, epoch_mono blown⟩

/-- Settles O1. -/
theorem stepRunsFrontCommand : Obligations.StepRunsFrontCommand := fun _ _ _ => rfl

/-- Every command answers a next state. -/
theorem exec_next (c : Instr) (s : State) : ∃ t, exec c s = .next t := by
  cases c
  all_goals exact ⟨_, rfl⟩

/-- Settles O2: an empty queue passes an edge, and any command answers a next state. -/
theorem everyStepAnswersANextState : Obligations.EveryStepAnswersANextState := by
  refine ⟨fun s empty => ?_, fun c s => ?_, fun s => ?_⟩
  · rw [step_empty empty, State.advanceTo, Nat.max_eq_right (Nat.le_succ _)]
  · obtain ⟨t, h⟩ := exec_next c s
    exact ⟨t, h, trivial⟩
  · rcases waiting : s.pending with _ | ⟨c, rest⟩
    · exact ⟨_, step_empty waiting⟩
    · rw [step_front waiting]
      exact exec_next c _

/-! ### The state after reset -/

/-- Every plot of the state after reset is fresh. -/
theorem reset_plot (q : PlotId) : State.reset.plot q = {} := by
  simp [State.plot, State.reset]

/-- The values the state after reset holds where the spec gives them. -/
theorem resetState_holds : resetState := by
  refine ⟨rfl, rfl, rfl, fun q => ?_, rfl, rfl, rfl, rfl, fun q => ?_, rfl, rfl, rfl, rfl, rfl, rfl⟩
  · simp [State.reset]
  · simp [reset_plot]

/-- Settles O7. -/
theorem resetState : Obligations.ResetState :=
  ⟨⟨wf_nil, Nat.zero_le _, fun _ line => absurd line (List.not_mem_nil), .inl rfl⟩, resetState_holds⟩

end Sys2Proof.Machine
end

section
/-!
PROOFS about `Keeps`: a part outside the set of parts is the one of the state before (`Keeps.boot_eq` and its like), and the state after
is the state before but for the parts of the set (`Keeps.eta`).
-/
namespace Sys2Proof.Machine

section
variable {w : Nat} {P : PlotId → Bool} {s t : State}

theorem Keeps.aux_eq (h : Keeps w P s t) (hw : w.testBit 1 = false := by decide) : t.aux = s.aux :=
  h.same.aux.resolve_left (by simp [hw])

theorem Keeps.fuses_eq (h : Keeps w P s t) (hw : w.testBit 2 = false := by decide) : t.fuses = s.fuses :=
  h.same.fuses.resolve_left (by simp [hw])

theorem Keeps.fns_eq (h : Keeps w P s t) (hw : w.testBit 5 = false := by decide) : t.fns = s.fns :=
  h.same.fns.resolve_left (by simp [hw])

theorem Keeps.hst_eq (h : Keeps w P s t) (hw : w.testBit 6 = false := by decide) : t.hst = s.hst :=
  h.same.hst.resolve_left (by simp [hw])

theorem Keeps.att_eq (h : Keeps w P s t) (hw : w.testBit 11 = false := by decide) : t.att = s.att :=
  h.same.att.resolve_left (by simp [hw])

theorem Keeps.nse_eq (h : Keeps w P s t) (hw : w.testBit 13 = false := by decide) : t.nse = s.nse :=
  h.same.nse.resolve_left (by simp [hw])

theorem Keeps.lanes_eq (h : Keeps w P s t) (hw : w.testBit 14 = false := by decide) : t.lanes = s.lanes :=
  h.same.lanes.resolve_left (by simp [hw])

theorem Keeps.pwr_eq (h : Keeps w P s t) (hw : w.testBit 24 = false := by decide) : t.pwr = s.pwr :=
  h.same.pwr.resolve_left (by simp [hw])

theorem Keeps.skt_eq (h : Keeps w P s t) (hw : w.testBit 25 = false := by decide) : t.skt = s.skt :=
  h.same.skt.resolve_left (by simp [hw])

theorem Keeps.out_eq (h : Keeps w P s t) (hw : w.testBit 27 = false := by decide) : t.out = s.out :=
  h.same.out.resolve_left (by simp [hw])

/-- A part is the one after, where it may be written, and the one before, where not. -/
theorem part_eta {α : Type} {b : Bool} {x y : α} (h : b = true ∨ y = x) : y = cond b y x := by
  cases b
  · exact h.resolve_left (by decide)
  · rfl

/-- The state after is the state before but for the parts it may write; with numerals for `w` the choices compute. -/
theorem Keeps.eta (h : Keeps w P s t) : t = {
    pending := s.pending, boot := cond (w.testBit 0) t.boot s.boot, aux := cond (w.testBit 1) t.aux s.aux,
    fuses := cond (w.testBit 2) t.fuses s.fuses, frm := cond (w.testBit 3) t.frm s.frm, pf := cond (w.testBit 4) t.pf s.pf,
    fns := cond (w.testBit 5) t.fns s.fns, hst := cond (w.testBit 6) t.hst s.hst, plots := t.plots,
    cfg := cond (w.testBit 7) t.cfg s.cfg, undo := cond (w.testBit 8) t.undo s.undo, msh := cond (w.testBit 9) t.msh s.msh,
    log := cond (w.testBit 10) t.log s.log, att := cond (w.testBit 11) t.att s.att, anl := cond (w.testBit 12) t.anl s.anl,
    nse := cond (w.testBit 13) t.nse s.nse, lanes := cond (w.testBit 14) t.lanes s.lanes,
    devGraft := cond (w.testBit 15) t.devGraft s.devGraft, mxes := cond (w.testBit 16) t.mxes s.mxes,
    partials := cond (w.testBit 17) t.partials s.partials, devMacs := cond (w.testBit 18) t.devMacs s.devMacs,
    hccs := cond (w.testBit 19) t.hccs s.hccs, hccTrap := cond (w.testBit 20) t.hccTrap s.hccTrap,
    qces := cond (w.testBit 21) t.qces s.qces, qceBytes := cond (w.testBit 22) t.qceBytes s.qceBytes,
    qceTrap := cond (w.testBit 23) t.qceTrap s.qceTrap, pwr := cond (w.testBit 24) t.pwr s.pwr,
    skt := cond (w.testBit 25) t.skt s.skt, mem := cond (w.testBit 26) t.mem s.mem, out := cond (w.testBit 27) t.out s.out,
    resp := cond (w.testBit 28) t.resp s.resp, free := cond (w.testBit 29) t.free s.free } := by
  cases t
  rw [State.mk.injEq]
  exact ⟨
    h.pending, part_eta h.same.boot, part_eta h.same.aux, part_eta h.same.fuses, part_eta h.same.frm, part_eta h.same.pf,
    part_eta h.same.fns, part_eta h.same.hst, rfl, part_eta h.same.cfg, part_eta h.same.undo, part_eta h.same.msh,
    part_eta h.same.log, part_eta h.same.att, part_eta h.same.anl, part_eta h.same.nse, part_eta h.same.lanes,
    part_eta h.same.devGraft, part_eta h.same.mxes, part_eta h.same.partials, part_eta h.same.devMacs, part_eta h.same.hccs,
    part_eta h.same.hccTrap, part_eta h.same.qces, part_eta h.same.qceBytes, part_eta h.same.qceTrap, part_eta h.same.pwr,
    part_eta h.same.skt, part_eta h.same.mem, part_eta h.same.out, part_eta h.same.resp, part_eta h.same.free⟩

/-- A change of no plot leaves the plots. -/
theorem Keeps.plots_eq (h : Keeps w (fun _ => false) s t) : t.plots = s.plots := by
  obtain all | kept := h.same.plots
  · exact absurd (all 0) (by decide)
  · exact Vector.ext fun i hi => kept ⟨i, hi⟩ rfl

end

end Sys2Proof.Machine
end

section
/-!
PROOFS about device resets and the start-up (chapter 12). A device reset leaves the VDD_AUX domain, the pins and what has left the
device (`heldOf_wiped`); a start event then begins a warm boot, or a cold boot with its epoch step (R311, R312).
-/
namespace Sys2Proof.Machine

/-! ### Device resets (Table 2-6) -/

/-- A device reset of a state that differs from `s` in its pins and its VDD_AUX domain alone. -/
theorem heldOf_wiped (s : State) (b0 boot : BootState) (a0 aux : AuxState) :
    heldOf s aux boot { wiped { s with boot := b0, aux := a0 } with boot := boot, aux := aux } := by
  refine ⟨fuseCut_blown { s with boot := b0, aux := a0 }, fun idle => ?_, rfl⟩
  simp [wiped, fuseCut, idle]

/-- What a device reset gives satisfies what is said of `heldOf`. -/
theorem gives_heldOf {c : Instr} {s t : State} {b0 boot : BootState} {a0 aux : AuxState} (ran : exec c s = .next t)
    (held : t = { wiped { s with boot := b0, aux := a0 } with boot := boot, aux := aux }) : Gives c s (heldOf s aux boot) :=
  ⟨t, ran, held ▸ heldOf_wiped s b0 boot a0 aux⟩

/-- HST_EPOCH reads the same after a device reset. -/
theorem hstEpoch_wiped (s : State) (cause : BitVec 4) :
    hstEpoch { wiped s with aux := { s.aux with cause := cause } } = hstEpoch s := by
  have blown : (fuseCut s).fuses.blown = s.fuses.blown := fuseCut_blown s
  simp [hstEpoch, wiped, FuseState.epoch, blown]

/-- A start event with the cold-boot flag clear begins a start-up and takes no epoch step (R311). -/
theorem resetFor_warm {s : State} (cause : BitVec 4) (e : EpochRun) (on : s.aux.on = true) (warm : s.aux.coldFlag = false)
    (power : s.boot.pwrOk = true) (released : s.boot.jtag.holds = false) :
    resetFor s cause e = { wiped s with boot := startedAt s s.boot, aux := { s.aux with cause := cause } } := by
  have epoch := hstEpoch_wiped s cause
  unfold resetFor startUp
  rw [if_pos (by simp [wiped, on, power, released])]
  unfold bootFrom
  rw [if_pos (by simp [wiped, warm])]
  rw [startedAt, ← epoch]
  rfl

/-- A command that comes to a device reset with a start event gives a warm boot. -/
theorem gives_warmBoot {c : Instr} {s t : State} {b : BootState} {a : AuxState} {cause : BitVec 4} {e : EpochRun}
    (comes : t = resetFor { s with boot := b, aux := a } cause e) (on : a.on = true) (warm : a.coldFlag = false)
    (power : b.pwrOk = true) (released : b.jtag.holds = false) (ran : exec c s = .next t := by rfl) :
    Gives c s (heldOf s { a with cause := cause } (startedAt { s with boot := b, aux := a } b)) :=
  gives_heldOf ran (comes.trans (resetFor_warm cause e on warm power released))

/-- An instruction that holds nothing ends a JTAG hold; with PWR_OK high that is a device reset with cause JTAG (R314). -/
theorem jtagSelect_ends_hold {s : State} {i : JtagInstr} (e : EpochRun) (on : s.aux.on = true) (holds : s.boot.jtag.holds = true)
    (power : s.boot.pwrOk = true) (free : i.holds = false) :
    jtagSelect s i e = resetFor { s with boot := { s.boot with jtag := i } } 6 e := by
  simp [jtagSelect, on, holds, power, free]

/-- Settles O8: each reset of Table 12-11 comes to `resetFor` with its cause, which is a warm boot while the flag is clear. -/
theorem deviceResetsAreWarmBoots : Obligations.DeviceResetsAreWarmBoots := by
  intro s e on warm
  refine ⟨fun low free => ?_, fun power off free => ?_, fun up power free => ⟨?_, ?_⟩, fun holds power => ⟨?_, ?_⟩⟩
  · have rises : pwrOkRises s e = resetFor { s with boot := { s.boot with pwrOk := true }, aux := { s.aux with risen := true } }
        (if s.aux.risen then 2 else 1) e := if_neg (by simp [on, low])
    exact gives_warmBoot rises on warm rfl free
  · have asserts : perstOn s e = resetFor { s with boot := { s.boot with perst := true } } 3 e := by
      rw [perstOn, if_neg (by simp [on, off]), if_pos power]
    exact gives_warmBoot asserts on warm power free
  · exact gives_warmBoot (if_pos up) on warm power free
  · exact gives_warmBoot (if_pos up) on warm power free
  · exact gives_warmBoot ((if_pos holds).trans (jtagSelect_ends_hold e on holds power rfl)) on warm power rfl
  · exact gives_warmBoot ((if_pos holds).trans (jtagSelect_ends_hold e on holds power rfl)) on warm power rfl

/-! ### Cold boots (R311, R312) -/

/-- A list of numbers with one more has the greater of it and their maximum. -/
theorem epoch_cons (f : FuseState) {k : Nat} (above : f.epoch < k) : FuseState.epoch { f with blown := k :: f.blown } = k := by
  have most : FuseState.epoch { f with blown := k :: f.blown } = max k f.epoch := by
    rw [FuseState.epoch, FuseState.epoch, List.foldl_cons, Nat.max_comm, List.foldl_assoc]
  rw [most, Nat.max_eq_left (Nat.le_of_lt above)]

/-- A fuse that has not failed is the next one. -/
theorem nextFuse_fresh {n k : Nat} {failed : List Nat} (h : k ∉ failed) : nextFuse n failed k = k := by
  cases n with
  | zero => rfl
  | succ n => simp [nextFuse, h]

/-- A fuse that has failed is passed over. -/
theorem nextFuse_failed {n k : Nat} {failed : List Nat} (h : k ∈ failed) : nextFuse (n + 1) failed k = nextFuse n failed (k + 1) := by
  simp [nextFuse, h]

/-- The fuse a try takes, `n` fuses after EPOCH + 1 having failed in this step. -/
def failedFrom (f : FuseState) (n : Nat) : FuseState :=
  { f with failed := (List.range n).reverse.map (fun i => f.epoch + 1 + i) ++ f.failed }

section
variable {f : FuseState} (old : ∀ k ∈ f.failed, k ≤ f.epoch)
include old

theorem candidate_failedFrom {n : Nat} (room : f.epoch + 1 + n ≤ 4096) : (failedFrom f n).candidate = some (f.epoch + 1 + n) := by
  have passed : ∀ i m, i ≤ n → nextFuse (i + m) (failedFrom f n).failed (f.epoch + 1 + (n - i)) = f.epoch + 1 + n := by
    intro i
    induction i with
    | zero =>
      intro m _
      refine nextFuse_fresh fun h => ?_
      simp only [failedFrom, List.mem_append, List.mem_map, List.mem_reverse, List.mem_range] at h
      obtain ⟨j, hj, e⟩ | h := h
      · omega
      · have := old _ h
        omega
    | succ i ih =>
      intro m hi
      have failed : f.epoch + 1 + (n - (i + 1)) ∈ (failedFrom f n).failed := by
        simp only [failedFrom, List.mem_append, List.mem_map, List.mem_reverse, List.mem_range]
        exact .inl ⟨n - (i + 1), by omega, rfl⟩
      rw [Nat.succ_add, nextFuse_failed failed, ← ih m (by omega)]
      congr 1
      omega
  have start := passed n f.failed.length (Nat.le_refl n)
  have epoch : (failedFrom f n).epoch = f.epoch := rfl
  have length : (failedFrom f n).failed.length = n + f.failed.length := by simp [failedFrom]
  rw [Nat.sub_self, Nat.add_zero] at start
  simp only [FuseState.candidate, epoch, length, start, if_pos room]

/-- A try whose fuse reads back ends the step with the number of that fuse as the epoch. -/
theorem tryFuses_readsBack (m : Nat) {n : Nat} (more : List Bool) (room : f.epoch + 1 + n ≤ 4096) :
    (tryFuses (m + 1) (failedFrom f n) (true :: more)).1.epoch = f.epoch + 1 + n ∧
      (tryFuses (m + 1) (failedFrom f n) (true :: more)).2 = 0 := by
  have above : (failedFrom f n).epoch < f.epoch + 1 + n := by
    change f.epoch < _
    omega
  simp only [tryFuses, candidate_failedFrom old room, List.headD_cons, if_true, epoch_cons _ above, and_self]

/-- A try whose fuse fails goes on to the next. -/
theorem tryFuses_fails (m : Nat) {n : Nat} (more : List Bool) (room : f.epoch + 1 + n ≤ 4096) :
    tryFuses (m + 1) (failedFrom f n) (false :: more) = tryFuses m (failedFrom f (n + 1)) more := by
  have next : { failedFrom f n with failed := (f.epoch + 1 + n) :: (failedFrom f n).failed } = failedFrom f (n + 1) := by
    simp [failedFrom, List.range_succ]
  simp only [tryFuses, candidate_failedFrom old room, List.headD_cons, List.tail_cons, next]
  rfl

end

theorem failedFrom_zero (f : FuseState) : failedFrom f 0 = f := by simp [failedFrom]

/-- The state in which a rise of PWR_OK begins the start-up. -/
def poweredUp (s : State) : State :=
  { wiped { s with boot := { s.boot with pwrOk := true }, aux := { s.aux with risen := true } } with
    aux := { s.aux with risen := true, cause := if s.aux.risen then 2 else 1 } }

theorem poweredUp_fuses {s : State} (idle : s.cfg.fuseBusy = none) : (poweredUp s).fuses = s.fuses := by
  simp [poweredUp, wiped, fuseCut, idle]

/-- PWR_OK rises on a device that VDD_AUX feeds and no JTAG instruction holds: a start-up begins. -/
theorem pwrOkRises_starts {s : State} (e : EpochRun) (on : s.aux.on = true) (low : s.boot.pwrOk = false)
    (free : s.boot.jtag.holds = false) : pwrOkRises s e = bootFrom (poweredUp s) e := by
  rw [pwrOkRises, if_neg (by simp [on, low]), resetFor, startUp, if_pos (by simp [wiped, on, free])]
  rfl

section
variable {s : State} (cold : s.aux.coldFlag = true)
include cold

/-- A cold boot empties the record sequences and lets go of K, and keeps PWR_TRIP. -/
theorem bootFrom_cold (e : EpochRun) : (∀ q : PlotId, (bootFrom s e).aux.pseq[q] = 0) ∧ (bootFrom s e).aux.key = none ∧
    (bootFrom s e).aux.keyFail = false ∧ (bootFrom s e).aux.trip = s.aux.trip := by
  cases e <;> simp [bootFrom, State.takeFree, cold]

/-- The outcome of an epoch step: the fuses and STATE. -/
def epochStep (f : FuseState) (rb : List Bool) : FuseState × BitVec 2 := if 4096 ≤ f.epoch then (f, 1) else tryFuses 3 f rb

/-- An epoch step that is not interrupted. -/
theorem bootFrom_cold_runs (rb : List Bool) :
    (bootFrom s (.runs rb)).fuses = (epochStep s.fuses rb).1 ∧ (bootFrom s (.runs rb)).aux.epochState = (epochStep s.fuses rb).2 ∧
      (bootFrom s (.runs rb)).aux.coldFlag = false ∧ (bootFrom s (.runs rb)).boot.phase = .clearing := by
  unfold bootFrom
  rw [if_neg (by simp [cold])]
  exact ⟨rfl, rfl, rfl, rfl⟩

/-- An epoch step that a further reset interrupts leaves the flag set, and its fuse blown or not. -/
theorem bootFrom_cold_interrupted (blown : Bool) :
    (bootFrom s (.interrupted blown)).aux.coldFlag = true ∧
      (bootFrom s (.interrupted blown)).fuses = (match s.fuses.candidate with
        | some k => if blown then { s.fuses with blown := k :: s.fuses.blown } else s.fuses
        | none => s.fuses) := by
  unfold bootFrom
  rw [if_neg (by simp [cold])]
  exact ⟨cold, rfl⟩

end

/-- Settles O9: PWR_OK begins a cold boot, whose epoch step tries up to three fuses past the epoch. -/
theorem coldBootAdvancesTheEpoch : Obligations.ColdBootAdvancesTheEpoch := by
  intro s more on cold low free idle old
  have fuses := poweredUp_fuses idle
  have gives {e : EpochRun} {P : State → Prop} (h : P (bootFrom (poweredUp s) e)) : Gives (.pwrOkRise e) s P :=
    ⟨pwrOkRises s e, rfl, pwrOkRises_starts e on low free ▸ h⟩
  have flag : (poweredUp s).aux.coldFlag = true := cold
  have runs {rb : List Bool} {P : State → Prop} (h : ∀ t : State, t.fuses = (epochStep s.fuses rb).1 →
      t.aux.epochState = (epochStep s.fuses rb).2 → t.aux.coldFlag = false → t.boot.phase = .clearing → P t) :
      Gives (.pwrOkRise (.runs rb)) s P := by
    obtain ⟨blown, state, clear, phase⟩ := bootFrom_cold_runs flag rb
    rw [fuses] at blown state
    exact gives (h _ blown state clear phase)
  have tries {rb : List Bool} (room : s.fuses.epoch < 4096) : epochStep s.fuses rb = tryFuses 3 (failedFrom s.fuses 0) rb := by
    rw [epochStep, if_neg (by omega), failedFrom_zero]
  refine ⟨fun e => gives (bootFrom_cold flag e), fun room => runs fun t blown state clear phase => ?_,
    fun room => runs fun t blown state clear _ => ?_, fun room => runs fun t blown state clear _ => ?_,
    fun room => runs fun t blown state clear _ => ?_, fun full => runs fun t blown state clear _ => ?_,
    fun room => gives ?_, gives ?_⟩
  · rw [tries room] at blown state
    obtain ⟨epoch, ok⟩ := tryFuses_readsBack old 2 more (n := 0) (by omega)
    exact ⟨blown ▸ epoch, state.trans ok, clear, phase⟩
  · rw [tries (by omega), tryFuses_fails old 2 _ (by omega)] at blown state
    obtain ⟨epoch, ok⟩ := tryFuses_readsBack old 1 more (n := 1) (by omega)
    exact ⟨blown ▸ epoch, state.trans ok, clear⟩
  · rw [tries (by omega), tryFuses_fails old 2 _ (by omega), tryFuses_fails old 1 _ (by omega)] at blown state
    obtain ⟨epoch, ok⟩ := tryFuses_readsBack old 0 more (n := 2) (by omega)
    exact ⟨blown ▸ epoch, state.trans ok, clear⟩
  · rw [tries (by omega), tryFuses_fails old 2 _ (by omega), tryFuses_fails old 1 _ (by omega),
      tryFuses_fails old 0 _ (by omega)] at blown state
    exact ⟨(congrArg FuseState.blown blown).trans rfl, state, clear⟩
  · rw [epochStep, if_pos full] at blown state
    exact ⟨blown, state, clear⟩
  · obtain ⟨stays, blown⟩ := bootFrom_cold_interrupted flag true
    have next := candidate_failedFrom old (n := 0) (by omega)
    rw [failedFrom_zero] at next
    rw [fuses, next] at blown
    exact ⟨blown ▸ epoch_cons _ (Nat.lt_succ_self _), stays⟩
  · obtain ⟨stays, blown⟩ := bootFrom_cold_interrupted flag false
    rw [fuses] at blown
    refine ⟨blown.trans ?_, stays⟩
    split <;> rfl

/-! ### What holds the device in reset (R308, R282, R311, R314) -/

/-- An instruction that holds the device resets it. -/
theorem jtagSelect_holds {s : State} {i : JtagInstr} (e : EpochRun) (on : s.aux.on = true) (holds : i.holds = true) :
    jtagSelect s i e = wiped { s with boot := { s.boot with jtag := i } } := by
  simp [jtagSelect, on, holds]

/-- Settles O10: each of them is a device reset (`heldOf_wiped`) with no start event. -/
theorem whatHoldsTheDeviceInReset : Obligations.WhatHoldsTheDeviceInReset := by
  intro s on
  refine ⟨fun high => ?_, ?_, ?_, ?_, fun i started live seen good hot => ?_, ?_⟩
  · exact gives_heldOf (b0 := s.boot) (a0 := s.aux) rfl (if_pos high)
  · exact gives_heldOf (b0 := { s.boot with jtag := .extest }) (a0 := s.aux) rfl (jtagSelect_holds _ on rfl)
  · exact gives_heldOf (b0 := { s.boot with jtag := .clamp }) (a0 := s.aux) rfl (jtagSelect_holds _ on rfl)
  · exact gives_heldOf (b0 := { s.boot with jtag := .highz }) (a0 := s.aux) rfl (jtagSelect_holds _ on rfl)
  · have trip : trips s i = true := by
      simpa [trips, State.thermalArmed, started, live] using ⟨⟨seen, good⟩, hot⟩
    exact gives_heldOf (b0 := s.boot) (a0 := s.aux) rfl (if_pos trip)
  · exact gives_heldOf (b0 := s.boot) (a0 := s.aux) rfl (if_pos on)

/-! ### The start-up timeline (Table 12-10) -/

/-- Ready, before anything is reported: the time, the phase, and tick 0 of frame 0. -/
def atReady (s : State) : State :=
  let now := max s.boot.tclk (s.boot.startAt + 180000)
  { s with
    boot := { s.boot with tclk := now, phase := .ready, readyAt := now }
    frm := { s.frm with tickAt := now } }

/-- What is reported at ready leaves time, frame, fuses, the VDD_AUX domain and plot memory. -/
theorem becomeReady_reports {s : State} (h : s.boot.phase = .cleared) :
    Keeps 150998064 (fun _ => true) (atReady s) (becomeReady s) := by
  have start : Keeps 150998064 (fun _ => true) (atReady s) (atReady s) := Keeps.refl _
  unfold becomeReady
  rw [if_pos h]
  have booted := State.logLine_keeps start 0x01 noPlot none (atReady s).aux.cause.toNat (hstEpoch (atReady s))
    (Covers.of (Covers.refl _) (by decide))
  have fed := pmbusStart_keeps (renewStops_keeps booted (Covers.of (Covers.refl _) (by decide)))
    (Covers.of (Covers.refl _) (by decide))
  extract_lets
  split
  · exact vrAlertReport_keeps fed (Covers.of (Covers.refl _) (by decide)) fun _ => rfl
  · exact fed

/-- KEY_FAIL, before signing stops. -/
def keyFailed (s : State) : State :=
  { s with
    boot := { s.boot with tclk := max s.boot.tclk (s.boot.readyAt + 10000000) }
    aux := { s.aux with keyFail := true } }

/-- Signing that stops writes one line, and changes no plot. -/
theorem stopSigning_spec (s : State) (reason : BitVec 3) : (stopSigning s reason).att.stop = reason ∧
    (stopSigning s reason).log.next = satInc s.log.next ∧ Keeps 134220848 (fun _ => false) s (stopSigning s reason) := by
  refine ⟨?_, ?_, stopSigning_keeps reason (Keeps.refl s) (Covers.refl _)⟩
  · have raised := State.raisePf_keeps (w := 134217776) (P := fun _ => false) 13
      (Keeps.refl { s with att := { s.att with stop := reason } }) (Covers.refl _)
    have logged := State.logLine_keeps (w := 134218800) (P := fun _ => false)
      (Keeps.refl (State.raisePf { s with att := { s.att with stop := reason } } 13)) 0x02 noPlot none reason.toNat 0 (Covers.refl _)
    exact congrArg AttState.stop (logged.att_eq.trans raised.att_eq)
  · rw [stopSigning, State.logLine_next, State.raisePf_log]

/-- Settles O11: each event moves the time to its earliest instant and changes its own registers. -/
theorem startUpTimeline : Obligations.StartUpTimeline := by
  intro s
  refine ⟨fun clearing => ⟨_, rfl, if_pos clearing⟩, fun cleared => ⟨_, rfl, ?_⟩, ⟨_, rfl, rfl⟩,
    fun speed width power started perst down wf => ⟨_, rfl, ?_⟩, fun strap off => ⟨_, rfl, ?_⟩,
    fun ready none ok => ⟨_, rfl, ?_⟩⟩
  · have kept := becomeReady_reports cleared
    exact ⟨kept.boot_eq, by rw [kept.frm_eq, kept.boot_eq]; rfl, by rw [kept.frm_eq]; rfl, kept.mem_eq, kept.fuses_eq, kept.aux_eq⟩
  · simp only [Instr.wellFormed, Bool.and_eq_true] at wf
    obtain ⟨⟨⟨⟨-, link⟩, -⟩, -⟩, -⟩ := wf
    obtain ⟨fast, lanes⟩ := Bool.and_eq_true_iff.mp link
    refine if_neg ?_
    rw [lanes]
    simpa [power, started, perst, down] using fast
  · have up : auxOn s strap = { s with
        aux := { on := true, since := s.boot.tclk, strap := strap }, boot := { s.boot with jtag := .idcode } } :=
      if_neg (by simp [off])
    exact ⟨up, congrArg (fun t => t.aux.coldFlag) up⟩
  · have fails : keyTimeout s = stopSigning (keyFailed s) 4 := if_pos (by simp [ready, none, ok])
    obtain ⟨stop, next, kept⟩ := stopSigning_spec (keyFailed s) 4
    rw [fails]
    exact ⟨kept.aux_eq, stop, next, by rw [kept.boot_eq]; rfl, kept.mem_eq, kept.plots_eq⟩

/-! ### JTAG (R313, R314) -/

/-- An instruction that holds nothing changes the instruction in force alone, where no instruction held the device. -/
theorem jtagSelect_quiet {s : State} {i : JtagInstr} (e : EpochRun) (on : s.aux.on = true) (was : s.boot.jtag.holds = false)
    (free : i.holds = false) : jtagSelect s i e = { s with boot := { s.boot with jtag := i } } := by
  simp [jtagSelect, on, was, free]

/-- Settles O13: the three instructions are selected quietly. -/
theorem jtagDoesNotDisturbOperation : Obligations.JtagDoesNotDisturbOperation := by
  intro s e on was
  have powered : ¬ (!s.aux.on) = true := by simp [on]
  have quiet (i : JtagInstr) (free : i.holds = false) := jtagSelect_quiet e on was free
  refine ⟨⟨_, rfl, ?_⟩, ⟨_, rfl, ?_⟩, fun op h0 h1 h2 h4 h5 => ⟨_, rfl, ?_⟩⟩
  · rw [jtagIdentify, if_neg powered, quiet .idcode rfl]
    rfl
  · rw [jtagSample, if_neg powered, quiet .samplePreload rfl]
    rfl
  · have bypass : jtagOf op = .bypass := by
      rw [jtagOf, if_neg h0, if_neg h1, if_neg h2, if_neg h4, if_neg h5]
    rw [if_pos bypass, quiet .bypass rfl]

end Sys2Proof.Machine
end

section
/-!
PROOFS about messages and error reports: what a cause that rises, a vector or an AER error changes (R62, R63, R298, R299). Messages
change pending bits and what has left the device alone (`Sent`).
-/
namespace Sys2Proof.Machine

/-! ### One function changes -/

theorem State.modFn_fns (s : State) (f : Fn) (g : FnState → FnState) (h : Fn) :
    (s.modFn f g).fns[h] = if h = f then g s.fns[f] else s.fns[h] := by
  split
  case isTrue e => rw [e, State.modFn_self]
  case isFalse ne => exact State.modFn_other s g ne

/-- A function that takes the value it has leaves the state. -/
theorem State.modFn_id (s : State) (f : Fn) {g : FnState → FnState} (h : g s.fns[f] = s.fns[f]) : s.modFn f g = s := by
  rw [State.modFn, h]
  simp

/-! ### Messages (R62, R63, R298) -/

/-- From `s` to `t` messages were sent or held: nothing but pending bits and what has left the device changes. -/
structure Sent (s t : State) : Prop where
  rest : t = { s with fns := t.fns, out := t.out }
  fns : ∀ g : Fn, t.fns[g] = { s.fns[g] with pba := t.fns[g].pba }

theorem Sent.refl (s : State) : Sent s s := ⟨rfl, fun _ => rfl⟩

theorem Sent.trans {a b c : State} (h : Sent a b) (k : Sent b c) : Sent a c := by
  refine ⟨?_, fun g => ?_⟩
  · rw [k.rest, h.rest]
  · rw [k.fns g, h.fns g]

theorem State.sendVector_sent (s : State) (f : Fn) (v : Fin 32) : Sent s (s.sendVector f v) := by
  rcases s.sendVector_cases f v with h | h | h
  · rw [h]
    exact .refl s
  · rw [h]
    refine ⟨rfl, fun g => ?_⟩
    rw [State.modFn_fns]
    split
    case isTrue e => rw [e]
    case isFalse => rfl
  · rw [h]
    exact ⟨rfl, fun g => rfl⟩

theorem State.sendVectors_sent (f : Fn) (vs : List (Fin 32)) (s : State) : Sent s (s.sendVectors f vs) := by
  induction vs generalizing s with
  | nil => exact .refl s
  | cons v vs ih => exact (s.sendVector_sent f v).trans (ih _)

/-- A PF cause that rises, before its message. -/
def causeRisen (s : State) (c : Fin 15) : State := { s with pf := { s.pf with irqStatus := setBit s.pf.irqStatus c.val true } }

theorem State.raisePf_sent (s : State) (c : Fin 15) : Sent (causeRisen s c) (s.raisePf c) := by
  unfold State.raisePf
  extract_lets rises raised risen
  split
  · exact risen.sendVector_sent 0 _
  · exact .refl _

theorem State.raisePlot_sent (s : State) (q : PlotId) (m : BitVec 13) :
    Sent (s.modPlt q fun p => { p with irqStatus := p.irqStatus ||| m }) (s.raisePlot q m) :=
  State.sendVectors_sent ..

/-! ### AER (R299) -/

/-- The first error that is recorded after an error at a bit (Table 12-5). -/
def AerState.firstAfter (a : AerState) (bit : Nat) : Option Nat :=
  if a.uncorrMask.getLsbD bit then a.first else a.first.or (some bit)

/-- What an uncorrectable error reports: nothing where it is masked. -/
def AerState.report (a : AerState) (f : Fn) (bit : Nat) : List OutEvent :=
  if a.uncorrMask.getLsbD bit then [] else [.aer f bit (if a.severity.getLsbD bit then 2 else 1)]

/-- An uncorrectable error in its function's AER capability, with a header and a count of free values the spec leaves open. -/
theorem State.aerError_eq (s : State) (f : Fn) (bit : Nat) : ∃ header n, s.aerError f bit =
    { s.modFn f (fun g => { g with aer := { s.fns[f].aer with
        uncorr := setBit s.fns[f].aer.uncorr bit true, header := header, first := s.fns[f].aer.firstAfter bit } }) with
      out := s.out ++ s.fns[f].aer.report f bit, free := n } := by
  unfold State.aerError AerState.firstAfter AerState.report
  rcases masked : s.fns[f].aer.uncorrMask.getLsbD bit with _ | _
  · rcases first : s.fns[f].aer.first with _ | b
    · exact ⟨_, _, by
        simp only [masked, first, Bool.false_or, Option.isSome_none, Bool.false_eq_true, if_false]
        rfl⟩
    · refine ⟨s.fns[f].aer.header, s.free, ?_⟩
      simp only [masked, first, Bool.false_or, Option.isSome_some, Bool.false_eq_true, if_false, if_true]
      rfl
  · refine ⟨s.fns[f].aer.header, s.free, ?_⟩
    simp only [masked, Bool.true_or, if_true, List.append_nil]
    rfl

/-- It shows there as `aerLogged` has it. -/
theorem State.aerError_logged (s : State) (f : Fn) (bit : Nat) : aerLogged f bit s (s.aerError f bit) := by
  obtain ⟨header, n, e⟩ := s.aerError_eq f bit
  rw [e]
  refine ⟨?_, fun g hg => ?_, rfl, rfl⟩
  · rw [State.modFn_self]
    rfl
  · rw [State.modFn_other s _ hg]

/-- A correctable error sets its status bit; nothing but its function and what has left the device changes. -/
theorem State.aerCorrectable_spec (s : State) (f : Fn) (bit : Nat) :
    (s.aerCorrectable f bit).fns[f].aer = { s.fns[f].aer with corr := setBit s.fns[f].aer.corr bit true } ∧
      s.aerCorrectable f bit = { s with fns := (s.aerCorrectable f bit).fns, out := (s.aerCorrectable f bit).out } := by
  unfold State.aerCorrectable
  extract_lets masked marked
  have self := State.modFn_self s f fun g => { g with aer := { g.aer with corr := setBit g.aer.corr bit true } }
  split
  · exact ⟨congrArg FnState.aer self, rfl⟩
  · exact ⟨congrArg FnState.aer self, rfl⟩

end Sys2Proof.Machine
end

section
/-!
PROOFS about host accesses (chapters 00 and 12): accesses that are discarded (R7, R296), reads that latch (R12), and halves of writable
pairs that are held for their function (R14).
-/
namespace Sys2Proof.Machine

/-! ### Accesses that are discarded (R7, R296) -/

/-- The word of HST_ACCESS_ERR for an offset of BAR0. -/
theorem accessWord_eq (f : Fn) (write : Bool) {off : Nat} (h : off < 2 ^ 24) (kind : Nat) :
    accessWord f write off kind = 2 ^ 25 * f.val + 2 ^ 24 * b2n write + off / 4 * 4 + kind := by
  have inside : off / 4 % 2 ^ 22 = off / 4 := Nat.mod_eq_of_lt (by omega)
  rw [accessWord, inside, Nat.mul_comm f.val, Nat.mul_comm (b2n write)]

/-- HST after a discarded access: for the device, and for a VF in its own registers. -/
def HstState.noted (h : HstState) (f : Fn) (w : Word) : HstState :=
  let h := { h with accessErr := w, accessCnt := satInc h.accessCnt }
  if f = 0 then h else
    { h with pAccessErr := h.pAccessErr.set f w, pAccessCnt := h.pAccessCnt.set f (satInc h.pAccessCnt[f]) }

section
variable (h : HstState) (f : Fn) (w : Word)

/-- The registers of the device are written, those of functions as their own lemmas say. -/
theorem HstState.noted_eq : h.noted f w = { h with
    accessErr := w, accessCnt := satInc h.accessCnt, pAccessErr := (h.noted f w).pAccessErr,
    pAccessCnt := (h.noted f w).pAccessCnt } := by
  unfold noted
  split <;> rfl

theorem HstState.noted_self (hf : f ≠ 0) :
    (h.noted f w).pAccessErr[f] = w ∧ (h.noted f w).pAccessCnt[f] = satInc h.pAccessCnt[f] := by
  simp [noted, hf]

theorem HstState.noted_other {g : Fn} (hg : f = 0 ∨ g ≠ f) :
    (h.noted f w).pAccessErr[g] = h.pAccessErr[g] ∧ (h.noted f w).pAccessCnt[g] = h.pAccessCnt[g] := by
  unfold noted
  split
  case isTrue => exact ⟨rfl, rfl⟩
  case isFalse ne =>
    have other : (f : Nat) ≠ g := fun e => hg.resolve_left ne (Fin.ext e.symm)
    simp [other]

end

/-- An access that is discarded is noted, and raises ACCESS. -/
theorem discard_eq (s : State) (f : Fn) (write : Bool) {off : Nat} (h : off < 2 ^ 24) (kind : Nat) :
    discard s f write off kind = State.raisePf { s with
      hst := s.hst.noted f (BitVec.ofNat 32 (2 ^ 25 * f.val + 2 ^ 24 * b2n write + off / 4 * 4 + kind)) } 14 := by
  rw [← accessWord_eq f write h kind]
  rfl

/-- A discarded access is recorded, whatever is answered. -/
theorem discard_recorded (s : State) (f : Fn) (write : Bool) {off : Nat} (h : off < 2 ^ 24) (kind : Nat) (r0 r : Response) :
    recorded f write off kind s { discard { s with resp := r0 } f write off kind with resp := r } := by
  rw [discard_eq _ f write h kind]
  generalize word : BitVec.ofNat 32 (2 ^ 25 * f.val + 2 ^ 24 * b2n write + off / 4 * 4 + kind) = w
  have sent := State.raisePf_sent { s with resp := r0, hst := s.hst.noted f w } 14
  have eq := s.hst.noted_eq f w
  rw [sent.rest]
  refine ⟨?_, ?_, fun hf => ?_, fun g hg => s.hst.noted_other f w hg, rfl, sent.fns, ?_⟩
  · exact (congrArg HstState.accessErr eq).trans word.symm
  · exact congrArg HstState.accessCnt eq
  · obtain ⟨err, cnt⟩ := s.hst.noted_self f w hf
    exact ⟨err.trans (congrArg HstState.accessErr eq).symm, cnt⟩
  · simp only [causeRisen]
    rw [eq]

section
variable {s : State} {f : Fn} {off : BitVec 24} {len : Fin 9} (served : s.hostOk f = true) (outside : msixAt f off.toNat = none)
include served outside

/-- A read that crosses a 4-byte boundary is discarded and returns 0. -/
theorem hostRead_crossing (some : 0 < len.val) (crosses : 4 < off.toNat % 4 + len.val) :
    hostRead s f off.toNat len.val = { discard { s with resp := {} } f false off.toNat 2 with resp := { data := 0 } } := by
  rw [hostRead, hostGate_ok _ served]
  simp only [hostReadData, outside]
  rw [if_neg (by omega), if_neg (by omega)]

/-- A write that enables some byte and crosses a 4-byte boundary is discarded, and so is one of less than 4 bytes. -/
theorem hostPartialWrite_discarded {en : BitVec 8} (some : en.toNat % 2 ^ len.val ≠ 0)
    (part : 4 < off.toNat % 4 + len.val ∨ len.val < 4 ∨ en.toNat % 16 ≠ 15) : hostPartialWrite s f off.toNat len.val en =
      discard { s with resp := {} } f true off.toNat (if 4 < off.toNat % 4 + len.val then 2 else 1) := by
  rw [hostPartialWrite, hostGate_ok _ served]
  extract_lets on
  have wide : ¬ (len.val = 8 ∧ off.toNat % 8 = 0 ∧ (msixAt f off.toNat).isSome = true) := by simp [outside]
  rw [if_neg some, if_neg wide]
  by_cases crosses : 4 < off.toNat % 4 + len.val
  · rw [if_pos crosses, if_pos crosses]
  · have full : ¬ (len.val = 4 ∧ on = 15) := by
      rintro ⟨four, all⟩
      simp only [on, four] at all
      omega
    rw [if_neg crosses, if_neg crosses, if_neg full]

omit outside in
/-- A write that enables no byte has no effect. -/
theorem hostPartialWrite_nothing {en : BitVec 8} (none : en.toNat % 2 ^ len.val = 0) :
    hostPartialWrite s f off.toNat len.val en = { s with resp := {} } := by
  rw [hostPartialWrite, hostGate_ok _ served]
  exact if_pos none

end

section
variable {s : State} {f : Fn} (served : s.hostOk f = true)
include served

/-- A function that is served is ready, there and addressed, with the link up. -/
theorem cfgOk_of_hostOk : s.cfgOk f = true := by
  simp only [State.hostOk, Bool.and_eq_true] at served
  obtain ⟨⟨ok, -⟩, -⟩ := served
  exact ok

/-- What is received in error is logged at its bit, as correctable or not. -/
theorem linkError_served (e : LinkError) :
    linkError s f e =
      let g : Fn := if e = .unsupported ∨ e = .unexpectedCompletion ∨ e = .requestEcrc then f else 0
      let s := if e = .unsupported then { s with resp := { error := true } } else s
      if (linkErrorBit e).2 then s.aerCorrectable g (linkErrorBit e).1 else s.aerError g (linkErrorBit e).1 := by
  have ok := cfgOk_of_hostOk served
  have up : s.isReady = true ∧ s.hst.linkUp = true := by
    simp only [State.cfgOk, Bool.and_eq_true] at ok
    exact ⟨ok.1.1.1, ok.1.1.2⟩
  cases e <;> simp [linkError, ok, up]

end

/-- Settles O14: each access comes to its record, and each error to its function's AER capability. -/
theorem discardedAccessesHaveNoEffect : Obligations.DiscardedAccessesHaveNoEffect := by
  intro s f off len served outside
  have inside : off.toNat < 2 ^ 24 := off.isLt
  have record (write : Bool) (kind : Nat) (r0 r : Response) := discard_recorded s f write inside kind r0 r
  refine ⟨fun some crosses en => ⟨_, rfl, ?_⟩, fun en some crosses => ⟨_, rfl, ?_⟩, fun en fits some part => ⟨_, rfl, ?_⟩,
    fun en none => ⟨_, rfl, hostPartialWrite_nothing served none⟩, fun en => ⟨_, rfl, ?_⟩, ⟨_, rfl, ?_⟩, ⟨_, rfl, ?_⟩,
    fun e other un => ⟨_, rfl, ?_⟩, fun e corr => ⟨_, rfl, ?_⟩⟩
  · rw [if_neg (by decide), hostRead_crossing served outside some crosses]
    exact ⟨record false 2 {} _, rfl⟩
  · rw [if_pos rfl, hostPartialWrite_discarded served outside some (.inl crosses), if_pos crosses]
    exact record true 2 {} _
  · rw [if_pos rfl, hostPartialWrite_discarded served outside some (.inr part), if_neg (by omega)]
    exact record true 1 {} _
  · rw [if_neg (by decide), hostRead, hostGate_ok _ served]
    rfl
  · rw [hostGate_ok _ served]
    exact ⟨_, record true 3 {} _, State.aerError_logged _ f 12⟩
  · rw [linkError_served served]
    exact State.aerError_logged _ f 20
  · rw [linkError_served served]
    simp only [other, un, false_or, Bool.false_eq_true, if_false]
    exact State.aerError_logged s _ _
  · rw [linkError_served served]
    have layer (e' : LinkError) (un : (linkErrorBit e').2 = false) : e ≠ e' := by
      rintro rfl
      simp [un] at corr
    simp only [layer .unsupported rfl, layer .unexpectedCompletion rfl, layer .requestEcrc rfl, corr, or_false, if_true, if_false]
    exact State.aerCorrectable_spec s 0 (linkErrorBit e).1

/-! ### Association lists -/

section
variable {β : Type} (l : List (Nat × β)) {k b : Nat}

theorem lookup_assocSet_self (v : β) : (assocSet l k v).lookup k = some v := by simp [assocSet]

theorem lookup_assocDel_self : (assocDel l k).lookup k = none := by
  rw [assocDel, List.lookup_eq_none_iff]
  intro p hp
  have differs : (!(p.1 == k)) = true := (List.mem_filter.mp hp).2
  rw [bne_iff_ne]
  rintro rfl
  simp at differs

theorem lookup_assocDel_other (h : b ≠ k) : (assocDel l k).lookup b = l.lookup b := by
  unfold assocDel
  induction l with
  | nil => rfl
  | cons p l ih =>
    obtain ⟨x, y⟩ := p
    rw [List.filter_cons]
    by_cases hx : x = k
    · subst hx
      have miss : (b == x) = false := by simp [h]
      simp [ih, List.lookup_cons, miss]
    · simp [hx, ih, List.lookup_cons]

theorem lookup_assocSet_other (v : β) (h : b ≠ k) : (assocSet l k v).lookup b = l.lookup b := by
  have miss : (b == k) = false := by simp [h]
  rw [assocSet, List.lookup_cons, miss]
  exact lookup_assocDel_other l h

end

/-! ### Reads that latch (R12) -/

/-- A read of a register returns its addressed bytes. -/
theorem hostRead_register {s : State} {f : Fn} {off len a : Nat} (served : s.hostOk f = true) (outside : msixAt f off = none)
    (some : 1 ≤ len) (inside : off % 4 + len ≤ 4) (found : regAt f (off / 4 * 4) = Option.some a) :
    hostRead s f off len = { (readReg { s with resp := {} } f a).1 with
      resp := { data := partOf (readReg { s with resp := {} } f a).2 (off % 4) len } } := by
  rw [hostRead, hostGate_ok _ served]
  simp only [hostReadData, outside, found]
  rw [if_neg (by omega), if_pos inside]

section
variable {s : State} {f : Fn} {a : Nat} (fixed : openValue s f a = false)
include fixed

/-- A read of the first word of a group latches the whole value for its function. -/
theorem readReg_first (first : groupWord a = some 0) : (readReg s f a).2 = regValue s f a % 2 ^ 32 ∧
    (readReg s f a).1.fns[f].latches = assocSet s.fns[f].latches a (regValue s f a) ∧
    (a = 0xD0020 → (readReg s f a).1.fns[f].logValid = (selectedLine s f).isSome) ∧
    (∀ g : Fn, g ≠ f → (readReg s f a).1.fns[g] = s.fns[g]) ∧
    (readReg s f a).1 = { s with fns := (readReg s f a).1.fns } := by
  have reads : readReg s f a =
      let s' := s.modFn f (fun g => { g with latches := assocSet s.fns[f].latches a (regValue s f a) })
      (if a = 0xD0020 then s'.modFn f (fun g => { g with logValid := (selectedLine s f).isSome }) else s',
        regValue s f a % 2 ^ 32) := by
    simp only [readReg, fixed, Bool.false_eq_true, if_false, latchedRead, first]
  rw [reads]
  dsimp only
  split
  case isTrue line =>
    refine ⟨rfl, ?_, fun _ => ?_, fun g hg => ?_, rfl⟩
    · rw [State.modFn_self, State.modFn_self]
    · rw [State.modFn_self]
    · rw [State.modFn_other _ _ hg, State.modFn_other _ _ hg]
  case isFalse other =>
    exact ⟨rfl, by rw [State.modFn_self], fun line => absurd line other, fun g hg => State.modFn_other _ _ hg, rfl⟩

/-- A read of a further word returns it from the latched value, and latches nothing. -/
theorem readReg_later {k : Nat} (later : groupWord a = some (k + 1)) : readReg s f a =
    (s, (match s.fns[f].latches.lookup (a - 4 * (k + 1)) with | some v => v | none => 0) / 2 ^ (32 * (k + 1)) % 2 ^ 32) := by
  have noLine : a ≠ 0xD0020 := by
    rintro rfl
    have first : groupWord 0xD0020 = some 0 := rfl
    simp [first] at later
  have latched : assocD s.fns[f].latches (a - 4 * (k + 1)) 0 =
      (match s.fns[f].latches.lookup (a - 4 * (k + 1)) with | some v => v | none => 0) := by
    unfold assocD
    cases s.fns[f].latches.lookup (a - 4 * (k + 1)) <;> rfl
  simp only [readReg, fixed, Bool.false_eq_true, if_false, latchedRead, later, noLine, latched]
  rw [State.modFn_id _ _ rfl]

end

/-- Read latches belong to their function (R12). -/
theorem latches_hold : latchesBelongToTheirFunction := by
  intro s f off len a served outside wf found fixed
  obtain ⟨some, inside⟩ : 1 ≤ len.val ∧ off.toNat % 4 + len.val ≤ 4 := by
    simp only [Instr.wellFormed, Instr.accessOk, Bool.and_eq_true, decide_eq_true_eq] at wf
    exact wf.1.1.1.1.2
  have reads : execLoReadLatch f off len s = .next (hostRead s f off.toNat len.val) := rfl
  refine ⟨fun first => ⟨_, reads, ?_⟩, fun k later => ⟨_, reads, ?_⟩, fun own => ⟨_, rfl, ?_⟩, fun vf => ⟨_, rfl, ?_⟩⟩
  · rw [hostRead_register served outside some inside found]
    obtain ⟨value, latched, -, others, rest⟩ := readReg_first (s := { s with resp := {} }) fixed first
    refine ⟨congrArg (fun v => partOf v (off.toNat % 4) len.val) value, ?_, fun b hb => ?_, others, ?_⟩
    · exact (congrArg (List.lookup a) latched).trans (lookup_assocSet_self ..)
    · exact (congrArg (List.lookup b) latched).trans (lookup_assocSet_other _ _ hb)
    · rw [rest]
  · rw [hostRead_register served outside some inside found, readReg_later (s := { s with resp := {} }) fixed later]
    exact ⟨rfl, rfl⟩
  · have found : regAt 0 (0xD0020 / 4 * 4) = Option.some 0xD0020 := rfl
    rw [if_pos rfl, hostRead_register own rfl (by decide) (by decide) found]
    obtain ⟨value, latched, line, others, rest⟩ :=
      readReg_first (s := { s with resp := {} }) (f := 0) (a := 0xD0020) rfl rfl
    refine ⟨line rfl, (congrArg (List.lookup 0xD0020) latched).trans (lookup_assocSet_self ..), ?_, others, by rw [rest]⟩
    have whole (v : Nat) : partOf (v % 2 ^ 32) 0 4 = v % 2 ^ 32 := by simp [partOf]
    exact (congrArg (fun v => partOf v 0 4) value).trans (whole _)
  · rw [if_neg vf, hostGate_ok _ served]

/-! ### Writable pairs (R14) -/

/-- A pair that takes a value changes no half that a function holds, no other function, no plot memory and no log line. -/
theorem setPair_frame (s : State) (f : Fn) (base v : Nat) : (∀ g : Fn, g ≠ f → (setPair s f base v).fns[g] = s.fns[g]) ∧
    (setPair s f base v).fns[f].held = s.fns[f].held ∧ (setPair s f base v).mem = s.mem ∧
    (setPair s f base v).log.lines = s.log.lines := by
  have shadow (t : State) (q : PlotId) (r : RwsReg) (w : Nat) : (t.setShadow q r w).fns = t.fns ∧
      (t.setShadow q r w).mem = t.mem ∧ (t.setShadow q r w).log = t.log := by
    unfold State.setShadow
    split <;> exact ⟨rfl, rfl, rfl⟩
  unfold setPair
  split
  case h_1 => exact ⟨fun _ _ => rfl, rfl, rfl, rfl⟩
  case h_2 o _ =>
    split
    · unfold logAck
      split <;> exact ⟨fun _ _ => rfl, rfl, rfl, rfl⟩
    · exact ⟨fun g hg => State.modFn_other _ _ hg, by rw [State.modFn_self], rfl, rfl⟩
  case h_3 => exact ⟨fun _ _ => rfl, rfl, rfl, rfl⟩
  case h_4 q o _ =>
    split
    · exact ⟨fun _ _ => rfl, rfl, rfl, rfl⟩
    · obtain ⟨fns, mem, log⟩ := shadow s q .tapeLo (v % 2 ^ 32)
      obtain ⟨fns', mem', log'⟩ := shadow (s.setShadow q .tapeLo (v % 2 ^ 32)) q .tapeHi (v / 2 ^ 32)
      have same := fns'.trans fns
      exact ⟨fun g _ => congrArg (fun l => l[g]) same, congrArg (fun l => l[f].held) same, mem'.trans mem,
        congrArg LogState.lines (log'.trans log)⟩
  case h_5 => exact ⟨fun _ _ => rfl, rfl, rfl, rfl⟩
  case h_6 => exact ⟨fun _ _ => rfl, rfl, rfl, rfl⟩

/-- The place of ATT_ADDR's lower half in each set. -/
theorem placeOf_attAddr : ∀ q : PlotId, placeOf (setAddr 14 q 0) = .set 14 q 0 := by decide

/-- The half in force of ATT_ADDR. -/
theorem lowerHalf_attAddr (s : State) (f : Fn) (q : PlotId) :
    lowerHalf s f (setAddr 14 q 0) = s.att.sets[q].addr.toNat % 2 ^ 32 := by
  simp only [lowerHalf, regValue, placeOf_attAddr]
  rfl

/-- ATT_ADDR takes a value, but for its bits 5:0. -/
theorem setPair_attAddr (s : State) (f : Fn) (q : PlotId) (v : Nat) : setPair s f (setAddr 14 q 0) v =
    s.modAtt q (fun x => { x with addr := BitVec.ofNat 64 (v / 64 * 64) }) := by
  simp only [setPair, placeOf_attAddr]

/-- Held halves belong to their function and apply together (R14). -/
theorem heldHalves_apply : heldHalvesApplyTogether := by
  intro s f off v base served
  have high {base : Nat} (hi : pairOf f off.toNat = some (true, base)) :
      exec (.hiWriteApply f off v) s = .next (applyHigh { s with resp := {} } f base v) := by
    change execHiWriteApply f off v s = _
    rw [execHiWriteApply, hostGate_ok _ served, hi]
  refine ⟨fun lo => ?_, fun hi => ⟨_, high hi, ?_⟩, fun q hi => ⟨_, high hi, ?_⟩⟩
  · refine ⟨holdLow { s with resp := {} } f base v, ?_, ?_, fun b hb => ?_, fun g hg => State.modFn_other _ _ hg, rfl⟩
    · change execLoWriteHold f off v s = _
      rw [execLoWriteHold, hostGate_ok _ served, lo]
    · rw [holdLow, State.modFn_self]
      exact lookup_assocSet_self ..
    · rw [holdLow, State.modFn_self]
      exact lookup_assocSet_other _ _ hb
  · unfold applyHigh
    extract_lets half
    obtain ⟨others, held, mem, lines⟩ := setPair_frame { s with resp := {} } f base (v.toNat * 2 ^ 32 + half)
    refine ⟨?_, fun b hb => ?_, fun g hg => (State.modFn_other _ _ hg).trans (others g hg), mem, lines⟩
    · rw [State.modFn_self]
      exact lookup_assocDel_self _
    · rw [State.modFn_self, held]
      exact lookup_assocDel_other _ hb
  · unfold applyHigh
    extract_lets half
    have small : half < 2 ^ 32 := by
      simp only [half, lowerHalf_attAddr]
      split
      · exact BitVec.isLt _
      · exact Nat.mod_lt _ (by decide)
    rw [setPair_attAddr]
    refine ⟨?_, fun p hp => ?_⟩
    · rw [State.modFn_att, State.modAtt_self, BitVec.toNat_ofNat, Nat.mod_eq_of_lt (by omega)]
      rcases kept : s.fns[f].held.lookup (setAddr 14 q 0) with _ | x
      · simp only [half, kept, lowerHalf_attAddr]
      · simp only [half, kept]
    · have other : (q : Nat) ≠ p := fun e => hp (Fin.ext e.symm)
      simp [State.modFn, State.modAtt, other]

/-- Settles O15. -/
theorem latchesAndHeldHalves : Obligations.LatchesAndHeldHalves := ⟨latches_hold, heldHalves_apply⟩

end Sys2Proof.Machine
end

section
/-!
PROOFS about register and configuration writes by access type (R9, R10, R69, R91, R289), and about PTM dialogs (R300).
-/
namespace Sys2Proof.Machine

/-! ### Writes of a word of BAR0 -/

/-- A register that a function reaches at an offset outside MSI-X, and that is no half of a pair and no selector. -/
def plainAt (f : Fn) (off a : Nat) : Bool :=
  off % 4 == 0 && decide (msixAt f off = none) && decide (regAt f off = some a) && decide (pairAt a = none) &&
    decide (selMask a = none)

section
variable {s : State} {f : Fn} {off a : Nat} (served : s.hostOk f = true) (plain : plainAt f off a = true) (v same : Word)
include served plain

/-- A word that is served at a plain register goes to the register. -/
theorem hostWriteWord_plain : hostWriteWord s f off v same =
      writeReg { s with resp := {} } f a (if rw1cAt a then v &&& ~~~same else v) ∧ pairAt a = none ∧ selMask a = none := by
  simp only [plainAt, Bool.and_eq_true, beq_iff_eq, decide_eq_true_eq] at plain
  obtain ⟨⟨⟨⟨aligned, outside⟩, found⟩, pair⟩, sel⟩ := plain
  refine ⟨?_, pair, sel⟩
  rw [hostWriteWord, hostGate_ok _ served, if_neg (by simp [aligned])]
  simp only [outside, found]

/-- An RWS register takes the word's bits of its fields into its shadow. -/
theorem hostWriteWord_rws {q : PlotId} {r : RwsReg} (rws : rwsAt a = some (q.val, r)) (may : rwsWritable f r = true)
    (level : rw1cAt a = false) :
    hostWriteWord s f off v same = State.setShadow { s with resp := {} } q r (v.toNat &&& r.mask) := by
  obtain ⟨write, pair, sel⟩ := hostWriteWord_plain served plain v same
  rw [write]
  simp [writeReg, pair, sel, rws, may, level]

/-- A register of no RWS kind, by its place. -/
theorem hostWriteWord_glob {b o : Nat} (rws : rwsAt a = none) (place : placeOf a = .glob b o) (pf : f = 0) :
    hostWriteWord s f off v same = writeGlobal { s with resp := {} } f b o (if rw1cAt a then v &&& ~~~same else v) := by
  obtain ⟨write, pair, sel⟩ := hostWriteWord_plain served plain v same
  rw [write]
  simp [writeReg, pair, sel, rws, place, pf]

theorem hostWriteWord_set {b o : Nat} {q : PlotId} (rws : rwsAt a = none) (place : placeOf a = .set b q o) :
    hostWriteWord s f off v same = writeSet { s with resp := {} } f b q o (if rw1cAt a then v &&& ~~~same else v) := by
  obtain ⟨write, pair, sel⟩ := hostWriteWord_plain served plain v same
  rw [write]
  simp [writeReg, pair, sel, rws, place]

end

/-! ### RWS registers (R9, R69) -/

/-- The RWS registers of the device, and those of the plot `k + 1` that are no half of a pair, with their offsets. -/
def devRwsAt : List (Nat × RwsReg) :=
  [(0x4, .period), (0x8, .src), (0xC, .ppsDiv), (0x10, .plant), (0x14, .limit), (0xA0004, .cap)]
def plotRwsAt (k : Nat) : List (Nat × RwsReg) :=
  [(0x11000 + 0x100 * k + 4, .qos), (0x41000 + 0x80 * k, .anneal), (0x51080 + 0x80 * k, .tapeCfg), (0x71000 + 0x40 * k, .group)]

/-- NSE_PTAPE_BASE is a pair. -/
theorem pairAt_tapeBase : ∀ k : Fin 64,
    pairAt (0x51080 + 0x80 * k.val + 4) ≠ none ∧ pairAt (0x51080 + 0x80 * k.val + 8) ≠ none := by decide

/-- The RWS registers that are no half of a pair: those of the device, and four of each plot. -/
theorem rwsAt_cases {off q : Nat} {r : RwsReg} (h : rwsAt off = some (q, r)) (single : pairAt off = none) :
    (q = 0 ∧ (off, r) ∈ devRwsAt) ∨ ∃ k : Fin 64, q = k.val + 1 ∧ (off, r) ∈ plotRwsAt k.val := by
  have dev {x : Nat} {r' : RwsReg} (e : off = x) (h : some (0, r') = some (q, r)) (mem : (x, r') ∈ devRwsAt) :
      q = 0 ∧ (off, r) ∈ devRwsAt := by
    obtain ⟨rfl, rfl⟩ : 0 = q ∧ r' = r := by simpa using h
    exact ⟨rfl, e ▸ mem⟩
  have own {k q' : Nat} {r' : RwsReg} (small : k < 64) (e : q' = k + 1) (h : some (q', r') = some (q, r))
      (mem : (off, r') ∈ plotRwsAt k) : ∃ k : Fin 64, q = k.val + 1 ∧ (off, r) ∈ plotRwsAt k.val := by
    obtain ⟨rfl, rfl⟩ : q' = q ∧ r' = r := by simpa using h
    exact ⟨⟨k, small⟩, e, mem⟩
  have half {k d : Nat} (small : k < 64) (e : off = 0x51080 + 0x80 * k + d) (hd : d = 4 ∨ d = 8) : False := by
    obtain ⟨lo, hi⟩ := pairAt_tapeBase ⟨k, small⟩
    obtain rfl | rfl := hd
    · exact lo (e ▸ single)
    · exact hi (e ▸ single)
  rw [rwsAt] at h
  by_cases e : off = 0x4
  · rw [if_pos e] at h
    exact .inl (dev e h (by decide))
  rw [if_neg e] at h
  clear e
  by_cases e : off = 0x8
  · rw [if_pos e] at h
    exact .inl (dev e h (by decide))
  rw [if_neg e] at h
  clear e
  by_cases e : off = 0xC
  · rw [if_pos e] at h
    exact .inl (dev e h (by decide))
  rw [if_neg e] at h
  clear e
  by_cases e : off = 0x10
  · rw [if_pos e] at h
    exact .inl (dev e h (by decide))
  rw [if_neg e] at h
  clear e
  by_cases e : off = 0x14
  · rw [if_pos e] at h
    exact .inl (dev e h (by decide))
  rw [if_neg e] at h
  clear e
  by_cases e : off = 0xA0004
  · rw [if_pos e] at h
    exact .inl (dev e h (by decide))
  rw [if_neg e] at h
  clear e
  right
  by_cases inside : 0x11000 ≤ off ∧ off < 0x11000 + 0x100 * 64 ∧ off % 0x100 = 4
  · rw [if_pos inside] at h
    have e : off = 0x11000 + 0x100 * ((off - 0x11000) / 0x100) + 4 := by omega
    exact own (k := (off - 0x11000) / 0x100) (by omega) rfl h (by simp [plotRwsAt, ← e])
  rw [if_neg inside] at h
  clear inside
  by_cases inside : 0x41000 ≤ off ∧ off < 0x41000 + 0x80 * 64 ∧ off % 0x80 = 0
  · rw [if_pos inside] at h
    have e : off = 0x41000 + 0x80 * ((off - 0x41000) / 0x80) := by omega
    exact own (k := (off - 0x41000) / 0x80) (by omega) rfl h (by simp [plotRwsAt, ← e])
  rw [if_neg inside] at h
  clear inside
  by_cases inside : 0x51080 ≤ off ∧ off < 0x51080 + 0x80 * 64
  · rw [if_pos inside] at h
    have small : (off - 0x51080) / 0x80 < 64 := by omega
    by_cases first : off % 0x80 = 0
    · rw [if_pos first] at h
      have e : off = 0x51080 + 0x80 * ((off - 0x51080) / 0x80) := by omega
      exact own small (by omega) h (by simp [plotRwsAt, ← e])
    rw [if_neg first] at h
    by_cases second : off % 0x80 = 4
    · exact (half (d := 4) small (by omega) (.inl rfl)).elim
    rw [if_neg second] at h
    by_cases third : off % 0x80 = 8
    · exact (half (d := 8) small (by omega) (.inr rfl)).elim
    rw [if_neg third] at h
    exact absurd h (by simp)
  rw [if_neg inside] at h
  clear inside
  by_cases inside : 0x71000 ≤ off ∧ off < 0x71000 + 0x40 * 64 ∧ off % 0x40 = 0
  · rw [if_pos inside] at h
    have e : off = 0x71000 + 0x40 * ((off - 0x71000) / 0x40) := by omega
    exact own (k := (off - 0x71000) / 0x40) (by omega) rfl h (by simp [plotRwsAt, ← e])
  rw [if_neg inside] at h
  clear inside
  exact absurd h (by simp)

/-- Those registers are plain, of the kind that takes a level, and stand for no RWS half. -/
theorem rws_plain {off q : Nat} {r : RwsReg} (h : rwsAt off = some (q, r)) (single : pairAt off = none) :
    plainAt 0 off off = true ∧ rw1cAt off = false := by
  have devs : ∀ x ∈ devRwsAt, plainAt 0 x.1 x.1 = true ∧ rw1cAt x.1 = false := by decide
  have owns : ∀ k : Fin 64, ∀ x ∈ plotRwsAt k.val, plainAt 0 x.1 x.1 = true ∧ rw1cAt x.1 = false := by decide
  obtain ⟨-, mem⟩ | ⟨k, -, mem⟩ := rwsAt_cases h single
  · exact devs _ mem
  · exact owns k _ mem

/-- The word of a field at the bottom of a register. -/
theorem toNat_ofNat_and {w m : Nat} (v : Nat) (h : m < 2 ^ w) : (BitVec.ofNat w (v &&& m)).toNat = v &&& m := by
  rw [BitVec.toNat_ofNat, Nat.mod_eq_of_lt (Nat.and_lt_two_pow v h)]

/-- A device-wide RWS register reads the word it took. -/
theorem DevRws.word_set {off : Nat} {r : RwsReg} (h : (off, r) ∈ devRwsAt) (d : DevRws) (v : Nat) :
    (d.set r (v &&& r.mask)).word r = v &&& r.mask := by
  simp only [devRwsAt, List.mem_cons, List.not_mem_nil, or_false, Prod.mk.injEq] at h
  obtain ⟨-, rfl⟩ | ⟨-, rfl⟩ | ⟨-, rfl⟩ | ⟨-, rfl⟩ | ⟨-, rfl⟩ | ⟨-, rfl⟩ := h
  case inr.inr.inr.inl =>
    have high : (v &&& 0xFFF00FF) / 2 ^ 16 < 2 ^ 12 := by
      rw [Nat.and_div_two_pow]
      exact Nat.and_lt_two_pow _ (by decide)
    have low : (v &&& 0xFFF00FF) % 2 ^ 16 < 2 ^ 8 := by
      rw [Nat.and_mod_two_pow]
      exact Nat.and_lt_two_pow _ (by decide)
    simp only [DevRws.set, DevRws.word, RwsReg.mask, BitVec.toNat_ofNat]
    omega
  all_goals exact toNat_ofNat_and v (by decide)

/-- A plot's RWS register reads the word it took. -/
theorem PlotRws.word_set {k off : Nat} {r : RwsReg} (h : (off, r) ∈ plotRwsAt k) (p : PlotRws) (v : Nat) :
    (p.set r (v &&& r.mask)).word r = v &&& r.mask := by
  simp only [plotRwsAt, List.mem_cons, List.not_mem_nil, or_false, Prod.mk.injEq] at h
  obtain ⟨-, rfl⟩ | ⟨-, rfl⟩ | ⟨-, rfl⟩ | ⟨-, rfl⟩ := h
  case inr.inl =>
    have all : v &&& 0x10F < 2 ^ 9 := Nat.and_lt_two_pow _ (by decide)
    have low : (v &&& 0x10F) % 2 ^ 8 < 2 ^ 4 := by
      rw [Nat.and_mod_two_pow]
      exact Nat.and_lt_two_pow _ (by decide)
    simp only [PlotRws.set, PlotRws.word, RwsReg.mask, BitVec.toNat_ofNat, bitOf, Nat.testBit_eq_decide_div_mod_eq, b2n,
      decide_eq_true_eq]
    split <;> omega
  case inr.inr.inl =>
    have all : v &&& 0x30FFF < 2 ^ 18 := Nat.and_lt_two_pow _ (by decide)
    have low : (v &&& 0x30FFF) % 2 ^ 16 < 2 ^ 12 := by
      rw [Nat.and_mod_two_pow]
      exact Nat.and_lt_two_pow _ (by decide)
    simp only [PlotRws.set, PlotRws.word, RwsReg.mask, BitVec.toNat_ofNat, bitOf, Nat.testBit_eq_decide_div_mod_eq, b2n,
      decide_eq_true_eq]
    split <;> split <;> omega
  all_goals exact toNat_ofNat_and v (by decide)

/-- A register write that is served is the state that its word gives. -/
theorem gives_regWrite {s t : State} {f : Fn} {off : BitVec 24} {v same : Word} {P : State → Prop}
    (h : hostWriteWord s f off.toNat v same = t) (ht : P t) : Gives (.registerWrite f (.reg off v same)) s P :=
  ⟨t, congrArg Host.Outcome.next h, ht⟩

/-- Writes of RWS registers land in the shadow, and REVERT puts the committed values back (R9, R69, R91). -/
theorem rwsWrites_land : rwsWritesLandInTheShadow := by
  refine ⟨fun s off v same q r served rws single => ?_, fun s f q served own => ⟨_, rfl, ?_⟩⟩
  · obtain ⟨plain, level⟩ := rws_plain rws single
    refine gives_regWrite (hostWriteWord_rws served plain v same rws rfl level) ?_
    obtain ⟨dev, mem⟩ | ⟨k, own, mem⟩ := rwsAt_cases rws single
    · obtain rfl : q = 0 := Fin.ext dev
      rw [State.setShadow, if_pos rfl]
      exact ⟨fun _ => ⟨DevRws.word_set mem _ _, rfl⟩, fun ne => absurd rfl ne⟩
    · have ne : q ≠ 0 := fun e => absurd (congrArg Fin.val e) (by simp [own])
      rw [State.setShadow, if_neg ne]
      refine ⟨fun e => absurd e ne, fun _ => ⟨?_, ?_, fun p hp => State.modPlot_other _ _ hp, rfl⟩⟩
      · rw [State.modPlot_self]
        exact PlotRws.word_set mem _ _
      · rw [State.modPlot_self]
        rfl
  · rw [hostGate_ok _ served, revertFrom, if_pos own]
    refine ⟨fun dev => if_pos dev, fun ne => ?_⟩
    rw [revertPlot, if_neg ne]
    refine ⟨?_, fun p hp => State.modPlot_other _ _ hp, rfl⟩
    rw [State.modPlot_self]
    rfl

/-! ### Writes of other access types (R8, R9, R10) -/

/-- PLT_IRQ_STATUS and PLT_IRQ_VEC0 as a VF reaches them. -/
theorem vfPlain : ∀ p : Fn, p ≠ 0 →
    plainAt p 0x1038 (setAddr 1 p 0x38) = true ∧ plainAt p 0x1040 (setAddr 1 p 0x40) = true := by decide

theorem pltPlaces : ∀ p : PlotId, p ≠ 0 → rwsAt (setAddr 1 p 0x38) = none ∧ rwsAt (setAddr 1 p 0x40) = none ∧
    placeOf (setAddr 1 p 0x38) = .set 1 p 0x38 ∧ placeOf (setAddr 1 p 0x40) = .set 1 p 0x40 := by decide

/-- Status bits are cleared by ones, registers that can be written take the value, and others stay (R8, R9, R10, R296). -/
theorem writesByType : writeOneClearsAndReadOnlyStays := by
  intro s v same served
  refine ⟨?_, ?_, fun p hp own => ?_, ?_, ?_, fun p hp own => ?_, ?_, ?_, fun f off refused => ?_⟩
  · exact gives_regWrite (hostWriteWord_glob served (a := 0x10000) (b := 1) (o := 0) rfl v same rfl rfl rfl) rfl
  · exact gives_regWrite (hostWriteWord_glob served (a := 0x20) (b := 0) (o := 0x20) rfl v same rfl rfl rfl) rfl
  · obtain ⟨rws, -, place, -⟩ := pltPlaces p hp
    have clears : rw1cAt (setAddr 1 p 0x38) = true := by rw [rw1cAt, place]; rfl
    have write : hostWriteWord s p 0x1038 v same = irqClear { s with resp := {} } p (v &&& ~~~same) :=
      (hostWriteWord_set own (vfPlain p hp).1 v same rws place).trans (by rw [clears]; rfl)
    exact gives_regWrite write ⟨State.modPlt_self _ p _, fun q hq => State.modPlt_other _ _ hq, rfl⟩
  · exact gives_regWrite (hostWriteWord_glob served (a := 0x20014) (b := 2) (o := 0x14) rfl v same rfl rfl rfl) rfl
  · exact gives_regWrite (hostWriteWord_glob served (a := 0xA0084) (b := 10) (o := 0x84) rfl v same rfl rfl rfl) rfl
  · obtain ⟨-, rws, -, place⟩ := pltPlaces p hp
    have level : rw1cAt (setAddr 1 p 0x40) = false := by rw [rw1cAt, place]; rfl
    have write : hostWriteWord s p 0x1040 v same = State.modPlt { s with resp := {} } p (fun x => { x with vec0 := v }) :=
      (hostWriteWord_set own (vfPlain p hp).2 v same rws place).trans (by rw [level]; rfl)
    exact gives_regWrite write ⟨State.modPlt_self _ p _, fun q hq => State.modPlt_other _ _ hq, rfl⟩
  · exact gives_regWrite (hostWriteWord_glob served (a := 0x1C) (b := 0) (o := 0x1C) rfl v same rfl rfl rfl) rfl
  · exact gives_regWrite (hostGate_ok _ served) rfl
  · exact gives_regWrite (if_neg (by simp [refused])) rfl

/-! ### Configuration space (R288, R289, R299, R310) -/

theorem cfgGate_ok {s : State} {f : Fn} (k : State → State) (h : s.cfgOk f = true) : cfgGate s f k = k s := if_pos h

/-- A field of a function's own reaches that function alone. -/
theorem configWriteFrom_own {s : State} {f : Fn} {c : ConfigField} (own : configWrite s c = s) : configWriteFrom s f c =
    s.modFn f (fun g => { g with ctl := g.ctl.write c, aer := g.aer.write c }) := by
  unfold configWriteFrom
  split
  · rw [own]
  · rfl

/-- Configuration writes take effect in their function, and reads return what the functions present. -/
theorem configuration_holds : configurationSpace := by
  intro s f ok
  have writes {c : ConfigField} {P : State → Prop} {t : State} (h : configWriteFrom s f c = t) (ht : P t) :
      Gives (.registerWrite f (.config c)) s P :=
    ⟨t, congrArg Host.Outcome.next ((cfgGate_ok (fun s => configWriteFrom s f c) ok).trans h), ht⟩
  refine ⟨fun c => writes (configWriteFrom_own rfl) ⟨rfl, ?_, fun vf => ?_⟩, fun c => writes (configWriteFrom_own rfl) ⟨rfl, ?_⟩,
    fun v => writes (configWriteFrom_own rfl) rfl, ?_, ?_, fun u w unready up => ⟨_, rfl, ?_⟩, rfl, rfl, rfl, rfl, rfl, rfl, rfl, rfl,
    fun vf => ?_⟩
  · rintro rfl
    rw [State.maxPayload, State.devCtl, State.modFn_self]
    rfl
  · rw [State.maxPayload, State.devCtl, State.modFn_other _ _ (Ne.symm vf)]
    rfl
  · rintro rfl
    rw [State.maxRead, State.devCtl, State.modFn_self]
    rfl
  · rintro rfl n off few
    have takes : configWrite s (.numVfs n) = { s with hst := { s.hst with numVfs := n } } :=
      if_neg (by simpa [off] using few)
    refine writes (c := .numVfs n) ?_ rfl
    rw [configWriteFrom, if_pos rfl, takes]
    exact State.modFn_id _ _ rfl
  · rintro rfl n on
    have stays : configWrite s (.numVfs n) = s := if_pos (by simp [on])
    refine writes (c := .numVfs n) ?_ rfl
    rw [configWriteFrom_own stays]
    exact State.modFn_id _ _ rfl
  · have refused : ¬ u.cfgOk f = true := by simp [State.cfgOk, unready]
    change configFrom u f w = _
    rw [configFrom, cfgGate, if_neg refused, if_pos up, unready]
    rfl
  · have no (c : Capability) (pf : c.present f = (f == 0)) : c.present f = false := by simp [pf, vf]
    simp [configRead, ConfigItem.capability?, no .srIov rfl, no .serialNumber rfl, no .ptm rfl]

/-- Settles O16. -/
theorem registerWritesByAccessType : Obligations.RegisterWritesByAccessType :=
  ⟨rwsWrites_land, writesByType, configuration_holds⟩

/-! ### PTM (R300) -/

section
variable {s : State} (en : s.hst.ptmEn = true) (free : s.hst.ptmBusy = false)
include en free

/-- A dialog that starts sends its request while the PF's requests are permitted, -/
theorem ptmStart_sent (may : s.permitted 0 = true) : ptmStart s = { s with
    hst := { s.hst with ptmBusy := true, ptmAt := s.boot.tclk, ptmSent := true }, out := s.out ++ [.ptmRequest] } := by
  simp only [ptmStart, en, free, may]
  rfl

/-- and sends none while they are not. -/
theorem ptmStart_unsent (not : s.permitted 0 = false) : ptmStart s = { s with
    hst := { s.hst with ptmBusy := true, ptmAt := s.boot.tclk, ptmSent := false } } := by
  simp only [ptmStart, en, free, not]
  rfl

end

/-- Settles O18: GO and the timer come to a start, an answer, or nothing, by what stands in HST. -/
theorem ptmDialogs : Obligations.PtmDialogs := by
  intro s
  have goes {v : Word} {P : State → Prop} (served : s.hostOk 0 = true) (go : v.getLsbD 31 = true)
      (h : P (ptmStart { s with hst := { s.hst with ptmAuto := v.setWidth 8 }, resp := {} })) : Gives (.ptmGo v) s P := by
    refine ⟨_, ?_, h⟩
    change execPtmGo v s = _
    rw [execPtmGo, hostGate_ok _ served, ptmControl, if_pos go]
  refine ⟨fun v served go en free may => goes served go ?_, fun v served go en free may => goes served go ?_,
    fun v served go en busy => goes served go ?_, fun v served go off => goes served go ?_,
    fun ready en auto free may => ⟨_, rfl, ?_⟩, fun wait m prop ready late busy sent inTime after => ⟨_, rfl, ?_⟩,
    fun busy => ⟨_, rfl, ?_⟩⟩
  · exact ptmStart_sent (s := { s with hst := { s.hst with ptmAuto := v.setWidth 8 }, resp := {} }) en free may
  · exact ptmStart_unsent (s := { s with hst := { s.hst with ptmAuto := v.setWidth 8 }, resp := {} }) en free may
  · simp [ptmStart, en, busy]
  · simp [ptmStart, off]
  · rw [ptmTimer, if_pos (by simpa [ready, en] using auto), ptmStart_sent en free may]
  · have answers : ptmAnswer s wait m prop = { s.advanceTo (s.hst.ptmAt + wait) with hst := { s.hst with
        ptmBusy := false, ptmValid := true, ptmNoResp := false, dialogs := satInc s.hst.dialogs,
        ptmT1 := frmTimeAt s s.hst.ptmAt, ptmT4 := frmTimeAt s (s.hst.ptmAt + wait), ptmMaster := m, ptmProp := prop } } :=
      if_neg (by simpa [busy, sent] using ⟨inTime, after⟩)
    have now : max s.boot.tclk (s.hst.ptmAt + wait) = s.hst.ptmAt + wait := Nat.max_eq_right after
    have time : State.frmTime (ptmAnswer s wait m prop) =
        min (10 * (s.hst.ptmAt + wait - s.boot.readyAt)) (2 ^ 64 - 1) := by
      rw [answers]
      change (if s.isReady then min (10 * (max s.boot.tclk (s.hst.ptmAt + wait) - s.boot.readyAt)) (2 ^ 64 - 1) else 0) = _
      rw [if_pos ready, now]
    dsimp only
    rw [time, answers, State.advanceTo, now]
    rfl
  · simp [ptmSilent, busy]

end Sys2Proof.Machine
end

section
/-!
PROOFS about rings (R45 to R51): the fetches of descriptors and images.
-/
namespace Sys2Proof.Machine

/-- A ring with two jobs waiting: the image of the first is being fetched, under a function that may request. -/
def twoJobsWaiting : State :=
  (State.reset.modFn 1 fun g => { g with bme := true }).modPlt 1 fun p =>
    { p with ringEn := true, sqTail := 2, head := .fetchingImage {} }

/-- When the image of the first job cannot be read, the descriptor of the second is asked for at once (R48). -/
theorem twoJobsWaiting_asksForNext :
    (hostReadError twoJobsWaiting 1 .image .ur).hst.asked = [(1, .descriptor, 0)] := by
  rfl

/-- Refutes O20: a failed image fetch completes its job, and where another job waits in the ring its descriptor is asked for at once.
That request is noted for its Completion Timeout, in `hst.asked`, which the clause wants unchanged. -/
theorem not_doorbellsAndFetches : ¬ Obligations.DoorbellsAndFetches := by
  unfold Obligations.DoorbellsAndFetches
  rintro ⟨-, fetches⟩
  obtain ⟨-, -, -, -, imageFails, -, -⟩ := fetches twoJobsWaiting 1 (by decide)
  obtain ⟨t, ran, -, ⟨counts, -, -⟩, -⟩ := imageFails .ur {} rfl
  have ran_to : t = hostReadError twoJobsWaiting 1 .image .ur := (Host.Outcome.next.inj ran).symm
  have unasked : t.hst.asked = [] := congrArg HstState.asked counts
  rw [ran_to, twoJobsWaiting_asksForNext] at unasked
  contradiction

end Sys2Proof.Machine
end

section
/-!
PROOFS about work that ends with a lost write (Table 12-5).
-/
namespace Sys2Proof.Machine

/-- A device that is ready, with a random request of the PF of which no block has been written yet. -/
def freshRandomRequest : State :=
  { State.reset with boot := { State.reset.boot with phase := .ready } }.modRng 0 fun r => { r with busy := true }

theorem freshRandomRequest_stays : (writeLost freshRandomRequest 0 .rng).nse.rng[(0 : PlotId)].busy = true := rfl

/-- Refutes O21: a random request of which no block has been written has no write that could be lost, and the model leaves it as it is;
the clause wants it ended. -/
theorem not_lostWritesEndTheirWork : ¬ Obligations.LostWritesEndTheirWork := by
  unfold Obligations.LostWritesEndTheirWork
  intro h
  obtain ⟨-, -, randomEnds⟩ := h freshRandomRequest 0
  obtain ⟨t, ran, ended, -⟩ := randomEnds rfl rfl
  have ran_to : t = writeLost freshRandomRequest 0 .rng := (Host.Outcome.next.inj ran).symm
  rw [ran_to, freshRandomRequest_stays] at ended
  contradiction

end Sys2Proof.Machine
end

section
/-!
PROOFS about attestation reports (R347, R348) and the acknowledgement of the log (R350).
-/
namespace Sys2Proof.Machine

/-- A read that fails is counted (R299). -/
theorem dmaError_count (s : State) (f : Fn) (u : DmaUser) (k : ReadFail) :
    (dmaError s f u k).hst.dmaErrCnt = satInc s.hst.dmaErrCnt := by
  unfold dmaError
  extract_lets timed h
  have hst : timed.hst = s.hst := by
    dsimp only [timed]
    split <;> rfl
  generalize counted : { timed with hst := _ } = c
  obtain ⟨header, n, e⟩ := c.aerError_eq f (readFailBit k)
  rw [e]
  change c.hst.dmaErrCnt = _
  rw [← counted, ← hst]

/-! ### The length of a report (Table 14-4) -/

@[simp] theorem length_leBytes (n v : Nat) : (leBytes n v).length = n := by
  induction n generalizing v with
  | zero => rfl
  | succ n ih => rw [leBytes, List.length_cons, ih]

@[simp] theorem length_slice (bs : List Byte) (at_ n : Nat) : (slice bs at_ n).length = n := by
  unfold slice
  simp only [List.length_append, List.length_replicate, List.length_take]
  omega

theorem length_report (s : State) (q : PlotId) (challenge pub : List Byte) : (report s q challenge pub).length = 384 := by
  simp [report, reportHead]

/-! ### Requests (R347) -/

section
variable {s : State} {f : Fn} {q : PlotId}

theorem attGoFrom_busy (busy : s.att.sets[q].busy = true) : attGoFrom s f q = s := by
  unfold attGoFrom attGo
  rw [if_pos busy, ite_self]

theorem attGoFrom_permitted (own : f = 0 ∨ f = q) (free : s.att.sets[q].busy = false) (may : s.permitted q = true) :
    attGoFrom s f q = (s.modAtt q fun a => { a with busy := true, result := 0, cap := s.att.sets[q].addr }).hostRead q .report
      s.att.sets[q].addr.toNat 144 := by
  unfold attGoFrom attGo
  rw [if_pos (reaches_iff.mpr own), if_neg (ne_true_of_eq_false free)]
  exact if_pos may

theorem attGoFrom_unpermitted (own : f = 0 ∨ f = q) (free : s.att.sets[q].busy = false) (stuck : s.permitted q = false) :
    attGoFrom s f q = attEnd (s.modAtt q fun a => { a with busy := true, result := 0, cap := s.att.sets[q].addr }) q 3 := by
  unfold attGoFrom attGo
  rw [if_pos (reaches_iff.mpr own), if_neg (ne_true_of_eq_false free)]
  exact if_neg (ne_true_of_eq_false stuck)

theorem State.hostRead_att (s : State) (q : PlotId) (u : DmaUser) (addr len : Nat) : (s.hostRead q u addr len).att = s.att := rfl

theorem attEnd_self (s : State) (q : PlotId) (r : BitVec 4) :
    (attEnd s q r).att.sets[q] = { s.att.sets[q] with busy := false, result := r } := State.modAtt_self ..

/-! ### Reports that end (R348) -/

variable (busy : s.att.sets[q].busy = true) (keyed : s.aux.key ≠ none ∨ s.aux.keyFail = true)
include busy keyed

/-- A report that is due ends as its request and its write turned out. -/
theorem attDone_due (r : Fetched) (w : Bool) : attDone s q r w = match r with
    | .failed k => attEnd (dmaError s q .report k) q 3
    | .bytes b =>
      if p384Valid (slice b 48 96) = false then attEnd s q 2
      else if s.permitted q = true ∧ w = true then
        attEnd ({ s with free := s.free + 1 }.emit (.write q (s.att.sets[q].cap.toNat + 256)
          (report s q (slice b 0 48) (slice b 48 96)) false s.maxPayload)) q (if s.aux.keyFail then 4 else 1)
      else attEnd s q 3 := by
  have due : (s.aux.key.isNone && !s.aux.keyFail) = false := by
    rcases keyed with key | fail
    · simp [key]
    · simp [fail]
  simp only [attDone, busy, due, Bool.not_true, Bool.or_self, Bool.false_eq_true, if_false]
  cases r with
  | failed k => rfl
  | bytes b =>
    dsimp only
    rcases p384Valid (slice b 48 96) with _ | _
    · rfl
    · by_cases sent : s.permitted q = true ∧ w = true
      · obtain ⟨may, rfl⟩ := sent
        have written (a : Nat) (bs : List Byte) : { s with free := s.free + 1 }.hostWrite q a bs false =
            { s with free := s.free + 1 }.emit (.write q a bs false s.maxPayload) := if_pos may
        simp only [may, written, Bool.not_true, Bool.or_self, Bool.false_eq_true, Bool.true_eq_false, if_false, if_true, and_self]
        rfl
      · have unsent : (!s.permitted q || !w) = true := by
          simpa only [Bool.or_eq_true, Bool.not_eq_true', Decidable.not_and_iff_or_not, Bool.not_eq_true] using sent
        rw [if_neg sent, if_pos unsent]
        rfl

end

theorem attestationReports_holds : attestationReports := by
  intro s f q
  refine ⟨fun served own free may => ⟨_, rfl, ?_⟩, fun served own free stuck => ⟨_, rfl, ?_⟩, fun served busy => ⟨_, rfl, ?_⟩,
    fun b busy keyed => ⟨fun bad w => ⟨_, rfl, ?_⟩, fun good may => ⟨_, rfl, ?_⟩, fun good => ⟨_, rfl, ?_⟩, fun k w => ⟨_, rfl, ?_⟩⟩⟩
  · rw [hostGate_ok _ served, attGoFrom_permitted (s := { s with resp := {} }) own free may]
    refine ⟨?_, rfl⟩
    rw [State.hostRead_att, State.modAtt_self]
  · rw [hostGate_ok _ served, attGoFrom_unpermitted (s := { s with resp := {} }) own free stuck]
    refine ⟨?_, rfl⟩
    rw [attEnd_self, State.modAtt_self]
  · rw [hostGate_ok _ served, attGoFrom_busy (s := { s with resp := {} }) busy]
  · rw [attDone_due busy keyed]
    dsimp only
    rw [if_pos bad]
    exact ⟨attEnd_self .., rfl⟩
  · rw [attDone_due busy keyed]
    dsimp only
    rw [if_neg (ne_false_of_eq_true good), if_pos ⟨may, rfl⟩]
    refine ⟨?_, report s q (slice b 0 48) (slice b 48 96), length_report .., rfl⟩
    rw [attEnd_self]
    rfl
  · rw [attDone_due busy keyed]
    dsimp only
    rw [if_neg (ne_false_of_eq_true good), if_neg (fun h => absurd h.2 Bool.false_ne_true)]
    exact ⟨attEnd_self .., rfl⟩
  · rw [attDone_due busy keyed]
    have kept := dmaError_keeps (P := fun _ => false) q .report k (Keeps.refl s) (Covers.refl _)
    refine ⟨?_, ?_⟩
    · rw [attEnd_self, kept.att_eq]
    · exact dmaError_count s q .report k

/-! ### LOG_ACK (R14, R350) -/

theorem logAck_eq (s : State) (v : Word64) : logAck s v =
    { s with log := { s.log with
        ack := if s.log.next = 0 then s.log.ack else if v < s.log.next then v else s.log.next - 1 } } := by
  unfold logAck
  split <;> rfl

theorem logAckIsBounded_holds : logAckIsBounded := by
  intro s v served
  refine ⟨_, rfl, ?_⟩
  rw [hostGate_ok _ served, logAck_eq]
  refine ⟨rfl, ?_, fun b hb => ?_, fun g hg => State.modFn_other _ _ hg, rfl⟩
  · rw [State.modFn_self]
    exact lookup_assocDel_self _
  · rw [State.modFn_self]
    exact lookup_assocDel_other _ hb

/-- Settles O22: a request captures its address and asks, and ends in one of five ways; the acknowledgement stays below LOG_NEXT. -/
theorem reportsAndLogAck : Obligations.ReportsAndLogAck := ⟨attestationReports_holds, logAckIsBounded_holds⟩

end Sys2Proof.Machine
end

section
/-!
PROOFS about the plot state machine (R44, R59, Table 2-2): what a change of STATE, a stop and its end, and PLT_CTL.EN do to a plot.
Messages of a change move pending bits alone (`OnlyPends`), so that VF_READY stays (`OnlyPends.vfReady`).
-/
namespace Sys2Proof.Machine

/-! ### Changes that leave the functions but for pending messages -/

/-- From `s` to `t` no function changes but the pending bits of the PF and of a plot's function, without MSI-X not these, and the
link's registers and the PF's mask stay. -/
structure OnlyPends (q : PlotId) (s t : State) : Prop where
  fn : ∀ g : Fn, t.fns[g] = { s.fns[g] with pba := t.fns[g].pba }
  other : ∀ g : Fn, g ≠ 0 → g ≠ q → t.fns[g] = s.fns[g]
  off : ∀ g : Fn, s.fns[g].msixEn = false → t.fns[g] = s.fns[g]
  hst : t.hst = s.hst
  mask : t.pf.irqMask = s.pf.irqMask

section
variable {q : PlotId}

theorem OnlyPends.of_eq {s t : State} (fns : t.fns = s.fns) (hst : t.hst = s.hst)
    (mask : t.pf.irqMask = s.pf.irqMask) : OnlyPends q s t := by
  refine ⟨fun g => ?_, fun g _ _ => ?_, fun g _ => ?_, hst, mask⟩
  · rw [fns]
  · rw [fns]
  · rw [fns]

theorem OnlyPends.of_keeps {w : Nat} {P : PlotId → Bool} {s t : State} (h : Keeps w P s t)
    (pf : w.testBit 4 = false := by decide) (fns : w.testBit 5 = false := by decide)
    (hst : w.testBit 6 = false := by decide) : OnlyPends q s t :=
  .of_eq (h.fns_eq fns) (h.hst_eq hst) (by rw [h.pf_eq pf])

theorem OnlyPends.refl (s : State) : OnlyPends q s s := .of_eq rfl rfl rfl

theorem OnlyPends.trans {a b c : State} (h : OnlyPends q a b) (k : OnlyPends q b c) : OnlyPends q a c where
  fn g := by rw [k.fn g, h.fn g]
  other g pf own := by rw [k.other g pf own, h.other g pf own]
  off g no := by
    have off_b : b.fns[g].msixEn = false := by rw [h.fn g]; exact no
    rw [k.off g off_b, h.off g no]
  hst := k.hst.trans h.hst
  mask := k.mask.trans h.mask

theorem State.sendVector_other (s : State) {f g : Fn} (v : Fin 32) (h : g ≠ f) : (s.sendVector f v).fns[g] = s.fns[g] := by
  rcases s.sendVector_cases f v with e | e | e
  · rw [e]
  · rw [e, State.modFn_other s _ h]
  · rw [e]
    rfl

theorem State.sendVector_pends (s : State) {f : Fn} (own : f = 0 ∨ f = q) (v : Fin 32) : OnlyPends q s (s.sendVector f v) := by
  have sent := s.sendVector_sent f v
  refine ⟨sent.fns, fun g pf plot => s.sendVector_other v ?_, fun g no => ?_, by rw [sent.rest], by rw [sent.rest]⟩
  · rintro rfl
    exact own.elim pf plot
  · by_cases e : g = f
    · subst e
      unfold State.sendVector
      extract_lets fn
      rw [if_pos (by simpa [fn] using no)]
    · exact s.sendVector_other v e

theorem State.sendVectors_pends (vs : List (Fin 32)) (s : State) : OnlyPends q s (s.sendVectors q vs) := by
  induction vs generalizing s with
  | nil => exact .refl s
  | cons v vs ih => exact (s.sendVector_pends (.inr rfl) v).trans (ih _)

theorem State.raisePf_pends (s : State) (c : Fin 15) : OnlyPends q s (s.raisePf c) := by
  have risen : OnlyPends q s (causeRisen s c) := .of_eq rfl rfl rfl
  unfold State.raisePf
  extract_lets rises raised
  split
  · exact risen.trans (State.sendVector_pends _ (.inl rfl) _)
  · exact risen

theorem State.raisePlot_pends (s : State) (m : BitVec 13) : OnlyPends q s (s.raisePlot q m) := by
  have risen : OnlyPends q s (s.modPlt q fun p => { p with irqStatus := p.irqStatus ||| m }) := .of_eq rfl rfl rfl
  exact risen.trans (State.sendVectors_pends ..)

theorem State.logLine_pends (s : State) (code plot : Nat) (node : Option NodeId) (a b : Nat) :
    OnlyPends q s (s.logLine code plot node a b) := by
  unfold State.logLine
  extract_lets _ _ _ _ _ _ l
  have written : OnlyPends q s { s with log := l } := .of_eq rfl rfl rfl
  exact written.trans (State.raisePf_pends _ 0)

theorem OnlyPends.permitted {s t : State} (h : OnlyPends q s t) (f : Fn) : t.permitted f = s.permitted f := by
  simp only [State.permitted]
  rw [h.fn f, h.fn 0]

theorem OnlyPends.vfReady {s t : State} (h : OnlyPends q s t) (p : PlotId) : t.vfReady p = s.vfReady p := by
  simp only [State.vfReady]
  rw [h.permitted, h.hst]

end

/-! ### A change of STATE (R44, R63) -/

theorem State.setPlotState_pends (s : State) (q : PlotId) (st : PlotState) : OnlyPends q s (s.setPlotState q st) := by
  unfold State.setPlotState
  split
  · exact .refl s
  · have moved : OnlyPends q s { s.modPlt q (fun p => { p with state := st }) with
        pf := { s.pf with chgMap := setBit s.pf.chgMap (q.val - 1) true } } := .of_eq rfl rfl rfl
    exact (moved.trans (State.raisePlot_pends ..)).trans (State.raisePf_pends ..)

/-- The whole plot after a change of STATE: its PLT registers alone move. -/
theorem State.setPlotState_plot (s : State) (q : PlotId) (st : PlotState) :
    (s.setPlotState q st).plot q = { s.plot q with plt := movedSet (s.plot q).plt st } := by
  by_cases same : (s.plot q).plt.state = st
  · rw [State.setPlotState, if_pos same, movedSet, if_pos same]
  · simp only [State.setPlotState, if_neg same]
    rw [plot_of_plots_eq (State.raisePf_plots _ 4), State.raisePlot_self, movedSet, if_neg same]
    have moved := State.modPlt_self s q fun p => { p with state := st }
    simp only [State.plot] at moved ⊢
    rw [moved]

/-- A change of STATE shows in PLT_CHG_MAP and the cause PLOT_STATE. -/
theorem State.setPlotState_shown {s : State} {q : PlotId} {st : PlotState} (h : (s.plot q).plt.state ≠ st) :
    (s.setPlotState q st).pf.chgMap.getLsbD (q.val - 1) = true ∧ (s.setPlotState q st).pf.irqStatus.getLsbD 4 = true := by
  simp only [State.setPlotState, if_neg h]
  rw [State.raisePf_pf, (State.raisePlot_sent _ q 0x10).rest]
  exact ⟨getLsbD_setBit_self _ (by omega), getLsbD_setBit_self _ (by decide)⟩

theorem movedSet_state (p : PltSet) (st : PlotState) : (movedSet p st).state = st := by
  unfold movedSet
  split
  case isTrue same => exact same
  case isFalse => rfl

/-! ### Stops (R59, Table 2-5) -/

theorem freezeAnneal_plt (s : State) (q : PlotId) (j : Option Job) : ((freezeAnneal s q j).plot q).plt = (s.plot q).plt := by
  unfold freezeAnneal
  extract_lets p
  split <;> rw [State.modAn_self]

theorem clearJobRest_plt (s : State) (q : PlotId) (i : BitVec 16) : ((clearJobRest s q i).plot q).plt = (s.plot q).plt := by
  simp [clearJobRest, clearMatrixJob, clearFlashJob, clearMeshJob, State.plot, State.modPlot]

theorem stopEngines_plt (s : State) (q : PlotId) : ((stopEngines s q).plot q).plt = (s.plot q).plt := by
  simp [stopEngines, clearMatrixPlot, clearFlashPlot, clearMeshPlot, resetLanes, State.plot, State.modPlot]

theorem foldl_clearJobRest_plt (jobs : List Job) (s : State) (q : PlotId) :
    ((jobs.foldl (fun s j => clearJobRest s q j.idx) s).plot q).plt = (s.plot q).plt := by
  induction jobs generalizing s with
  | nil => rfl
  | cons j js ih => rw [List.foldl_cons, ih, clearJobRest_plt]

theorem foldl_clearJobRest_keeps (jobs : List Job) (s : State) (q : PlotId) :
    Keeps 2834944 (fun p => p == q) s (jobs.foldl (fun s j => clearJobRest s q j.idx) s) :=
  Keeps.foldl (Keeps.refl s) fun t j kept => clearJobRest_keeps q j.idx kept (Covers.of (Covers.refl _) (by decide)) (beq_self_eq_true q)

/-- Before the change of STATE a stop changes no function and no message. -/
theorem startStop_eq (s : State) (q : PlotId) : ∃ b, startStop s q = b.setPlotState q .stopping ∧
    (b.plot q).plt = { (s.plot q).plt with jobs := (s.plot q).plt.jobs.map Job.cancel, snapHead := false } ∧
      OnlyPends q s b := by
  unfold startStop
  extract_lets jobs last held frozen cancelled cleared
  refine ⟨_, rfl, ?_, ?_⟩
  · rw [stopEngines_plt]
    dsimp only [cleared]
    rw [foldl_clearJobRest_plt]
    dsimp only [cancelled]
    rw [State.modPlt_self, freezeAnneal_plt]
    dsimp only [held]
    rw [State.modPlot_self]
  · have frozenKept : Keeps 0 (fun p => p == q) held frozen := freezeAnneal_keeps q _ (Keeps.refl held) (beq_self_eq_true q)
    have clearedKept := foldl_clearJobRest_keeps jobs cancelled q
    have stopped : Keeps 2834944 (fun p => p == q) cleared (stopEngines cleared q) :=
      stopEngines_keeps q (Keeps.refl cleared) (Covers.refl _) (beq_self_eq_true q)
    have noted : OnlyPends q s held := .of_eq rfl rfl rfl
    have unheld : OnlyPends q frozen cancelled := .of_eq rfl rfl rfl
    exact (((noted.trans (.of_keeps frozenKept)).trans unheld).trans (.of_keeps clearedKept)).trans (.of_keeps stopped)

theorem startStop_plt (s : State) (q : PlotId) : ((startStop s q).plot q).plt = stoppedSet (s.plot q).plt := by
  obtain ⟨b, stopped, plt, -⟩ := startStop_eq s q
  rw [stopped, State.setPlotState_plot, plt]
  rfl

theorem startStop_pends (s : State) (q : PlotId) : OnlyPends q s (startStop s q) := by
  obtain ⟨b, stopped, -, pends⟩ := startStop_eq s q
  exact stopped ▸ pends.trans (State.setPlotState_pends ..)

theorem startStop_shown {s : State} {q : PlotId} (h : (s.plot q).plt.state ≠ .stopping) :
    (startStop s q).pf.chgMap.getLsbD (q.val - 1) = true ∧ (startStop s q).pf.irqStatus.getLsbD 4 = true := by
  obtain ⟨b, stopped, plt, -⟩ := startStop_eq s q
  rw [stopped]
  exact State.setPlotState_shown (by rw [plt]; exact h)

/-- A job that a stop meets while it is live and has not finished is cancelled without its copies. -/
theorem Job.cancel_cancelled (j : Job) (live : j.cancel.live = true) (unfinished : j.cancel.phase ≠ .finished) :
    j.cancel.phase = .abandoning ∧ j.cancel.code = .cancelled ∧ j.cancel.ovl = [] := by
  unfold Job.cancel at live unfinished ⊢
  split at live
  case isTrue h =>
    rw [if_pos h]
    exact ⟨rfl, rfl, rfl⟩
  case isFalse h =>
    rw [if_neg h] at unfinished
    exact absurd (by simp [live, unfinished]) h

/-! ### EN and VF_READY (Table 2-2) -/

theorem reviewPlot_plt (s : State) (q : PlotId) :
    ((reviewPlot s q).plot q).plt = reviewedSet (s.plot q).plt ((s.plot q).plt.en && s.vfReady q) := by
  unfold reviewPlot reviewedSet
  dsimp only
  rcases (s.plot q).plt.en && s.vfReady q with _ | _ <;> cases (s.plot q).plt.state <;>
    simp only [if_true, Bool.false_eq_true, if_false]
  case false.running => exact startStop_plt s q
  all_goals exact congrArg Plot.plt (State.setPlotState_plot ..)

theorem reviewPlot_pends (s : State) (q : PlotId) : OnlyPends q s (reviewPlot s q) := by
  unfold reviewPlot
  extract_lets p ok
  split
  · split
    · exact .refl s
    · exact State.setPlotState_pends ..
  · split
    · exact State.setPlotState_pends ..
    · exact .refl s
  · split
    · exact .refl s
    · exact startStop_pends ..
  · exact .refl s

/-- Without a change of STATE nothing is raised; outside a stop the plot changes in its PLT registers alone. -/
theorem reviewPlot_frame (s : State) (q : PlotId) :
    (((reviewPlot s q).plot q).plt.state = (s.plot q).plt.state → reviewPlot s q = s) ∧
    (((reviewPlot s q).plot q).plt.state ≠ (s.plot q).plt.state →
      (reviewPlot s q).pf.chgMap.getLsbD (q.val - 1) = true ∧ (reviewPlot s q).pf.irqStatus.getLsbD 4 = true) ∧
    ((s.plot q).plt.state ≠ .running ∨ ((s.plot q).plt.en && s.vfReady q) = true →
      (reviewPlot s q).plot q = { s.plot q with plt := ((reviewPlot s q).plot q).plt }) := by
  have moves {st : PlotState} (ne : (s.plot q).plt.state ≠ st) :
      ((s.setPlotState q st).plot q).plt.state ≠ (s.plot q).plt.state := by
    rw [State.setPlotState_plot, movedSet_state]
    exact ne.symm
  have stays : (s.plot q).plt.state = (s.plot q).plt.state → s = s := fun _ => rfl
  unfold reviewPlot
  dsimp only
  rcases ok : (s.plot q).plt.en && s.vfReady q with _ | _ <;> rcases st : (s.plot q).plt.state <;>
    simp only [if_true, Bool.false_eq_true, if_false]
  case false.running =>
    refine ⟨fun same => ?_, fun _ => startStop_shown (by simp [st]), fun h => absurd h (by simp)⟩
    rw [startStop_plt, stoppedSet, movedSet_state] at same
    contradiction
  case false.idle =>
    have ne : (s.plot q).plt.state ≠ .disabled := by simp [st]
    exact ⟨fun same => absurd (same.trans st.symm) (moves ne), fun _ => State.setPlotState_shown ne,
      fun _ => by rw [State.setPlotState_plot]⟩
  case true.disabled =>
    have ne : (s.plot q).plt.state ≠ .idle := by simp [st]
    exact ⟨fun same => absurd (same.trans st.symm) (moves ne), fun _ => State.setPlotState_shown ne,
      fun _ => by rw [State.setPlotState_plot]⟩
  all_goals exact ⟨fun _ => trivial, fun differs => absurd st differs, fun _ => trivial⟩

theorem plotEnableMovesThePlot_holds : plotEnableMovesThePlot := by
  intro s q en fe served hq
  refine ⟨_, rfl, ?_⟩
  rw [hostGate_ok _ served, plotControl, if_neg hq]
  generalize written : State.modPlt { s with resp := {} } q _ = r
  have plot_q : r.plot q = { s.plot q with plt := { (s.plot q).plt with en := en, pfFaultEn := fe } } :=
    written ▸ State.modPlt_self ..
  have ready : r.vfReady q = s.vfReady q := by rw [← written]; rfl
  obtain ⟨same, shown, frame⟩ := reviewPlot_frame r q
  have plt := reviewPlot_plt r q
  rw [plot_q, ready] at plt frame
  rw [plot_q] at same shown
  refine ⟨plt, shown, fun h => ?_, frame⟩
  rw [same h, ← written]
  exact ⟨rfl, rfl⟩

theorem cancelAllStopsARunningPlot_holds : cancelAllStopsARunningPlot := by
  intro s f q served hq own
  have ran : hostGate s f (fun s => cancelFrom s f q) = cancelPlot { s with resp := {} } q := by
    rw [hostGate_ok _ served, cancelFrom, if_pos ⟨hq, reaches_iff.mpr own⟩]
  refine ⟨fun running => ⟨_, rfl, ?_⟩, fun other => ⟨_, rfl, ?_⟩⟩
  · rw [ran, cancelPlot, if_pos (c := (State.plot { s with resp := {} } q).plt.state = .running) running]
    have plt := startStop_plt { s with resp := {} } q
    have kept : Keeps 137052720 (fun p => p == q) { s with resp := {} } (startStop { s with resp := {} } q) :=
      startStop_keeps q (Keeps.refl _) (Covers.refl _) (beq_self_eq_true q)
    refine ⟨plt, fun j hj live unfinished => ?_, kept.log_eq⟩
    have jobs : ((startStop { s with resp := {} } q).plot q).plt.jobs = (s.plot q).plt.jobs.map Job.cancel := by
      rw [plt, stoppedSet, movedSet]
      split <;> rfl
    rw [jobs] at hj
    obtain ⟨k, -, rfl⟩ := List.mem_map.mp hj
    exact k.cancel_cancelled live unfinished
  · rw [ran]
    exact if_neg other

/-! ### The end of a stop (R44) -/

theorem length_filter_add_not {α : Type} (p : α → Bool) (l : List α) :
    (l.filter p).length + (l.filter fun x => !p x).length = l.length := by
  induction l with
  | nil => rfl
  | cons x l ih =>
    rcases hit : p x with _ | _
    · simp only [List.filter_cons, hit, Bool.not_false, Bool.false_eq_true, if_false, if_true, List.length_cons]
      omega
    · simp only [List.filter_cons, hit, Bool.not_true, Bool.false_eq_true, if_false, if_true, List.length_cons]
      omega

/-- Jobs that complete are over; no job is lost, and the others stay. -/
theorem completeJobs_spec (l : List Job) (p : Job → Bool) :
    (∀ j ∈ completeJobs l p, j.phase = .over ∨ p j = false) ∧ (∀ j ∈ l, p j = false → j ∈ completeJobs l p) ∧
      (completeJobs l p).length = l.length := by
  unfold completeJobs
  refine ⟨fun j hj => ?_, fun j hj no => ?_, ?_⟩
  · rcases List.mem_append.mp hj with stays | completes
    · exact .inr (by simpa using (List.mem_filter.mp stays).2)
    · obtain ⟨k, -, rfl⟩ := List.mem_map.mp completes
      exact .inl rfl
  · exact List.mem_append_left _ (List.mem_filter.mpr ⟨hj, by simp [no]⟩)
  · rw [List.length_append, List.length_map, Nat.add_comm]
    exact length_filter_add_not p l

/-- The state a plot takes when its stop ends. -/
def stopEndsIn (p : PltSet) (ready : Bool) : PlotState :=
  if p.reqReset || p.reqReassign then .clearing else if p.en && ready then .idle else .disabled

/-- A stopping plot that is disabled by way of IDLE raises what it raises when it is disabled. -/
theorem movedSet_through_idle {p : PltSet} (h : p.state = .stopping) :
    movedSet (movedSet p .idle) .disabled = movedSet p .disabled := by
  simp [movedSet, h, BitVec.or_assoc]

/-- A stop ends with a change of the jobs and then of STATE. -/
theorem stopEnded_eq {s : State} {q : PlotId} (h : (s.plot q).plt.state = .stopping) :
    let jobs := completeJobs (s.plot q).plt.jobs fun j => j.live && j.phase == .abandoning
    ((stopEnded s q).plot q).plt = movedSet { (s.plot q).plt with jobs := jobs } (stopEndsIn (s.plot q).plt (s.vfReady q)) ∧
      (stopEnded s q).pf.chgMap.getLsbD (q.val - 1) = true := by
  intro jobs
  unfold stopEnded
  extract_lets p zeroed completed
  rw [if_neg (by simp [p, h])]
  have zeroedKept : Keeps 2621952 (fun _ => false) s zeroed := zeroClusters_keeps _ (Keeps.refl s) (Covers.refl _)
  have plot_q : (completed.plot q).plt = { (s.plot q).plt with jobs := jobs } := by
    dsimp only [completed]
    rw [State.modPlt_self, plot_of_plots_eq zeroedKept.plots_eq]
  have pends : OnlyPends q s completed := (OnlyPends.of_keeps zeroedKept).trans (.of_eq rfl rfl rfl)
  have stopping : (completed.plot q).plt.state = .stopping := by rw [plot_q]; exact h
  have moves (st : PlotState) (ne : PlotState.stopping ≠ st) :
      ((completed.setPlotState q st).plot q).plt = movedSet { (s.plot q).plt with jobs := jobs } st ∧
        (completed.setPlotState q st).pf.chgMap.getLsbD (q.val - 1) = true := by
    rw [State.setPlotState_plot, plot_q]
    exact ⟨rfl, (State.setPlotState_shown (by rw [stopping]; exact ne)).1⟩
  have idle := moves .idle (by decide)
  unfold stopEndsIn
  by_cases requested : ((s.plot q).plt.reqReset || (s.plot q).plt.reqReassign) = true
  · rw [if_pos requested, if_pos requested]
    exact moves .clearing (by decide)
  rw [if_neg requested, if_neg requested]
  by_cases en : (s.plot q).plt.en = true
  case neg =>
    rw [if_neg en, if_neg (by simp [en])]
    exact moves .disabled (by decide)
  · rw [if_pos en]
    generalize back : completed.setPlotState q .idle = r at idle ⊢
    obtain ⟨plt, shown⟩ := idle
    have ready : r.vfReady q = s.vfReady q := (pends.trans (back ▸ State.setPlotState_pends ..)).vfReady q
    have still_en : (r.plot q).plt.en = true := by
      rw [plt, movedSet]
      split <;> exact en
    have review := reviewPlot_plt r q
    rw [still_en, ready, Bool.true_and, plt] at review
    refine ⟨?_, ?_⟩
    · have both : ((s.plot q).plt.en && s.vfReady q) = s.vfReady q := by rw [en, Bool.true_and]
      rw [review, both]
      rcases s.vfReady q with _ | _ <;> simp only [reviewedSet, movedSet_state, Bool.false_eq_true, if_false, if_true]
      · exact movedSet_through_idle h
      · rfl
    · obtain ⟨same, moved, -⟩ := reviewPlot_frame r q
      by_cases stays : ((reviewPlot r q).plot q).plt.state = (r.plot q).plt.state
      · rw [same stays]
        exact shown
      · exact (moved stays).1

theorem stopEndsByTheStrongestRequest_holds : stopEndsByTheStrongestRequest := by
  intro s q
  refine ⟨fun stopping => ⟨_, rfl, ?_⟩, fun other => ⟨_, rfl, ?_⟩⟩
  · obtain ⟨plt, shown⟩ := stopEnded_eq stopping
    obtain ⟨done, stay, length⟩ := completeJobs_spec (s.plot q).plt.jobs fun j => j.live && j.phase == .abandoning
    have jobs : ((stopEnded s q).plot q).plt.jobs =
        completeJobs (s.plot q).plt.jobs fun j => j.live && j.phase == .abandoning := by
      rw [plt, movedSet]
      split <;> rfl
    refine ⟨?_, fun j hj live abandoning => ?_, fun j hj kept => ?_, ?_, shown⟩
    · rw [jobs]
      exact plt
    · rw [jobs] at hj
      rcases done j hj with done | no
      · rw [done] at abandoning
        contradiction
      · simp [live, abandoning] at no
    · rw [jobs]
      exact stay j hj (by simpa using kept)
    · rw [jobs, length]
  · exact if_pos (by simpa using other)

/-- Settles O23: PLT_CTL.EN is a review of the plot, CANCEL_ALL a stop of a RUNNING one, and the end of a stop a change of STATE to what
was asked for. -/
theorem plotStateMachine : Obligations.PlotStateMachine :=
  ⟨plotEnableMovesThePlot_holds, cancelAllStopsARunningPlot_holds, stopEndsByTheStrongestRequest_holds⟩

end Sys2Proof.Machine
end

section
/-!
PROOFS about clearing (R60, R120, R146): the bytes it zeroes are those of the plot alone, and of no other plot.
-/
namespace Sys2Proof.Machine

/-- A change of one plot alone leaves every other. -/
theorem Keeps.plot_other {w : Nat} {q : PlotId} {s t : State} (h : Keeps w (fun p => p == q) s t) {p : PlotId} (hp : p ≠ q) :
    t.plot p = s.plot p :=
  h.plot_eq (by simpa using hp)

/-! ### Zeroed ranges -/

/-- A range of a plot's memory that is zeroed reads 0, and every other byte of every plot as before. -/
theorem State.peekMem_wipeMem (s : State) (q p : PlotId) (lo hi : Nat) {a : Nat} (ha : a < plotSpan) :
    (s.wipeMem q lo hi).peekMem p a = if p = q ∧ lo ≤ a ∧ a < hi then 0 else s.peekMem p a := by
  have inside : (memKey q lo ≤ memKey p a ∧ memKey p a < memKey q (min hi plotSpan)) ↔ p = q ∧ lo ≤ a ∧ a < hi := by
    rw [Fin.ext_iff]
    simp only [memKey, plotSpan] at ha ⊢
    omega
  simp only [State.peekMem, State.wipeMem, cellGet_cellClear, inside]

/-- Cache pages of a plot that are zeroed one after another. -/
theorem State.peekMem_foldl_wipe (pages : List Nat) (s : State) (q p : PlotId) {a : Nat} (ha : a < plotSpan) :
    (pages.foldl (fun s g => s.wipeMem q (0x800000000 + 65536 * g) (0x800000000 + 65536 * (g + 1))) s).peekMem p a =
      if p = q ∧ ∃ g ∈ pages, a / 65536 = 0x80000 + g then 0 else s.peekMem p a := by
  induction pages generalizing s with
  | nil => simp
  | cons g gs ih =>
    have inside : (0x800000000 + 65536 * g ≤ a ∧ a < 0x800000000 + 65536 * (g + 1)) ↔ a / 65536 = 0x80000 + g := by omega
    simp only [List.foldl_cons, ih, State.peekMem_wipeMem s q p _ _ ha, inside]
    by_cases pq : p = q <;> by_cases here : a / 65536 = 0x80000 + g <;> simp [pq, here]

/-- Zeroing pages changes the memory alone. -/
theorem State.foldl_wipe_rest (pages : List Nat) (s : State) (q : PlotId) :
    pages.foldl (fun s g => s.wipeMem q (0x800000000 + 65536 * g) (0x800000000 + 65536 * (g + 1))) s =
      { s with mem := (pages.foldl (fun s g => s.wipeMem q (0x800000000 + 65536 * g) (0x800000000 + 65536 * (g + 1))) s).mem } := by
  induction pages generalizing s with
  | nil => rfl
  | cons g gs ih =>
    rw [List.foldl_cons, ih]
    rfl

/-! ### What is cleared (R60) -/

/-- Clearing of everything of a plot, and of what a change of its engines leaves. -/
def cleared (s : State) (q : PlotId) : State := if (s.plot q).plt.clearAll then clearAllOf s q else clearRemoved s q

theorem cleared_keeps (s : State) (q : PlotId) : Keeps 67174912 (fun p => p == q) s (cleared s q) := by
  unfold cleared
  split
  · exact clearAllOf_keeps q (Keeps.refl s) (Covers.refl _) (beq_self_eq_true q)
  · exact clearRemoved_keeps q (Keeps.refl s) (Covers.refl _) (beq_self_eq_true q)

section
variable (s : State) (q : PlotId)

theorem clearAllOf_memory (p : PlotId) {a : Nat} (ha : a < plotSpan) :
    (clearAllOf s q).peekMem p a = if p = q then 0 else s.peekMem p a := by
  have wiped := s.peekMem_wipeMem q p 0 plotSpan ha
  simp only [Nat.zero_le, ha, and_self, and_true] at wiped
  exact wiped

theorem clearAllOf_poison : (clearAllOf s q).msh.poison =
    s.msh.poison.filter fun l => !(engineLine s.cfg.content q.val l || quotaLine s.msh q.val l) := rfl

theorem clearAllOf_plot : (clearAllOf s q).plot q = { s.plot q with
    msh := { (s.plot q).msh with resident := [], pageIns := [] }, an := (s.plot q).an.clear, grf := (s.plot q).grf.clear,
    fln := { (s.plot q).fln with idx := (s.plot q).fln.idx.map fun x => { x with entries := [], epochs := [] } } } := by
  simp [clearAllOf, idleEngines, State.modMsh, State.wipeMem, State.plot, State.modPlot]

/-- The cache pages of the plot that hold no home page. -/
def cachePages : List Nat := ((s.plot q).msh.resident.filter fun r => r.home.isNone).map (·.page)

theorem mem_cachePages (g : Nat) : g ∈ cachePages s q ↔ ∃ r ∈ (s.plot q).msh.resident, r.home = none ∧ r.page = g := by
  simp [cachePages, and_assoc]

/-- The memory after what a change of engines leaves is cleared. -/
theorem clearRemoved_mem : (clearRemoved s q).mem = ((cachePages s q).foldl
    (fun s g => s.wipeMem q (0x800000000 + 65536 * g) (0x800000000 + 65536 * (g + 1))) (s.wipeMem q 0x90000000 0x9B000000)).mem := rfl

theorem clearRemoved_memory (p : PlotId) {a : Nat} (ha : a < plotSpan) : (clearRemoved s q).peekMem p a =
    if p = q ∧ ((∃ r ∈ (s.plot q).msh.resident, r.home = none ∧ a / 65536 = 0x80000 + r.page) ∨ 0x90000000 ≤ a ∧ a < 0x9B000000)
    then 0 else s.peekMem p a := by
  have pages : (∃ g ∈ cachePages s q, a / 65536 = 0x80000 + g) ↔
      ∃ r ∈ (s.plot q).msh.resident, r.home = none ∧ a / 65536 = 0x80000 + r.page := by
    constructor
    · rintro ⟨g, hg, at_g⟩
      obtain ⟨r, hr, none_, rfl⟩ := (mem_cachePages s q g).mp hg
      exact ⟨r, hr, none_, at_g⟩
    · rintro ⟨r, hr, none_, at_r⟩
      exact ⟨r.page, (mem_cachePages s q _).mpr ⟨r, hr, none_, rfl⟩, at_r⟩
  rw [State.peekMem, clearRemoved_mem]
  change State.peekMem _ p a = _
  simp only [State.peekMem_foldl_wipe _ _ q p ha, State.peekMem_wipeMem s q p _ _ ha, pages]
  by_cases pq : p = q <;> by_cases cached : ∃ r ∈ (s.plot q).msh.resident, r.home = none ∧ a / 65536 = 0x80000 + r.page <;>
    simp [pq, cached]

theorem clearRemoved_plot : (clearRemoved s q).plot q = { s.plot q with
    msh := { (s.plot q).msh with resident := (s.plot q).msh.resident.filter fun r => !r.home.isNone }, an := (s.plot q).an.clear,
    grf := (s.plot q).grf.clear } := by
  unfold clearRemoved
  dsimp only
  rw [State.foldl_wipe_rest]
  simp [State.wipeMem, State.plot, State.modPlot]

theorem clearRemoved_poison : (clearRemoved s q).msh.poison = s.msh.poison.filter fun l => !quotaLine s.msh q.val l := by
  unfold clearRemoved
  dsimp only
  rw [State.foldl_wipe_rest]
  rfl

/-! ### The end of clearing (Table 2-2) -/

theorem cleared_plt : ((cleared s q).plot q).plt = (s.plot q).plt := by
  unfold cleared
  split
  · rw [clearAllOf_plot]
  · rw [clearRemoved_plot]

theorem cleared_an : ((cleared s q).plot q).an = (s.plot q).an.clear := by
  unfold cleared
  split
  · rw [clearAllOf_plot]
  · rw [clearRemoved_plot]

theorem cleared_unpoisoned {l : Nat} (hl : l ∈ (cleared s q).msh.poison) : quotaLine s.msh q.val l = false := by
  unfold cleared at hl
  split at hl
  · rw [clearAllOf_poison, List.mem_filter] at hl
    have outside := hl.2
    simp only [Bool.not_eq_true', Bool.or_eq_false_iff] at outside
    exact outside.2
  · rw [clearRemoved_poison, List.mem_filter] at hl
    simpa using hl.2

/-- The state a plot takes when its clearing ends. -/
def clearedIn (s : State) (q : PlotId) : PlotState :=
  if s.cfg.content.ownsAny q.val = false then .unassigned
  else if (s.plot q).plt.en && s.vfReady q then .idle else .disabled

/-- Clearing ends with what is cleared, the requests taken back, and a change of STATE. -/
theorem clearingEnded_eq {s : State} {q : PlotId} (clearing : (s.plot q).plt.state = .clearing)
    (issued : ∀ j ∈ (s.plot q).plt.jobs, j.code ≠ .cancelled) :
    clearingEnded s q = ((cleared s q).modPlt q fun p => { p with
      reqReset := false, reqReassign := false, clearAll := false }).setPlotState q (clearedIn s q) := by
  unfold clearingEnded
  extract_lets p c r
  have due : ¬ (p.state != .clearing || p.jobs.any fun j => j.code == .cancelled) = true := by
    simpa [p, clearing] using issued
  have pends : OnlyPends q s r := (OnlyPends.of_keeps (cleared_keeps s q)).trans (.of_eq rfl rfl rfl)
  have cfg : r.cfg = s.cfg := (cleared_keeps s q).cfg_eq
  rw [if_neg due, pends.vfReady, cfg]
  unfold clearedIn
  rcases s.cfg.content.ownsAny q.val with _ | _
  · rfl
  · rcases (s.plot q).plt.en && s.vfReady q with _ | _ <;> rfl

end

/-- Settles O24: the bytes of `clearAllOf_memory` and `clearRemoved_memory` are those of the plot, and nothing of another plot changes. -/
theorem clearingZeroesThePlotAlone : Obligations.ClearingZeroesThePlotAlone := by
  unfold Obligations.ClearingZeroesThePlotAlone
  intro s q clearing
  refine ⟨fun issued => ⟨_, rfl, ?_⟩, fun ⟨j, hj, unissued⟩ => ⟨_, rfl, ?_⟩⟩
  · rw [clearingEnded_eq clearing issued]
    generalize taken : State.modPlt (cleared s q) q _ = r
    have plot_q : r.plot q = { (cleared s q).plot q with
        plt := { (s.plot q).plt with reqReset := false, reqReassign := false, clearAll := false } } := by
      rw [← taken, State.modPlt_self, cleared_plt]
    have after := State.setPlotState_plot r q (clearedIn s q)
    have kept : Keeps 134217776 (fun p => p == q) r (r.setPlotState q (clearedIn s q)) :=
      State.setPlotState_keeps q _ (Keeps.refl r) (Covers.refl _) (beq_self_eq_true q)
    generalize r.setPlotState q (clearedIn s q) = t at after kept ⊢
    rw [plot_q] at after
    have mem (p : PlotId) (a : Nat) : t.peekMem p a = (cleared s q).peekMem p a := by
      rw [State.peekMem, kept.mem_eq, ← taken]
      rfl
    have poison : t.msh.poison = (cleared s q).msh.poison := by
      rw [kept.msh_eq, ← taken]
      rfl
    refine ⟨fun all => ⟨fun a ha => ?_, fun l hl => ?_, ?_⟩, fun part => ⟨fun a lo hi => ?_, fun u hu none_ a ha page => ?_, fun a ha out none_ => ?_⟩,
      fun l hl => ?_, ?_, ?_, fun p hp => ⟨?_, fun a ha => ?_⟩, ?_⟩
    · rw [mem, cleared, if_pos all, clearAllOf_memory s q q ha, if_pos rfl]
    · rw [poison, cleared, if_pos all, clearAllOf_poison, List.mem_filter] at hl
      have outside := hl.2
      simp only [Bool.not_eq_true', Bool.or_eq_false_iff] at outside
      exact outside.1
    · rw [after, cleared, if_pos all, clearAllOf_plot]
    · rw [mem, cleared, if_neg (ne_true_of_eq_false part), clearRemoved_memory s q q (by simp only [plotSpan]; omega)]
      exact if_pos ⟨rfl, .inr ⟨lo, hi⟩⟩
    · rw [mem, cleared, if_neg (ne_true_of_eq_false part), clearRemoved_memory s q q ha]
      exact if_pos ⟨rfl, .inl ⟨u, hu, none_, page⟩⟩
    · rw [mem, cleared, if_neg (ne_true_of_eq_false part), clearRemoved_memory s q q ha]
      refine if_neg fun h => ?_
      rcases h.2 with ⟨u, hu, unhomed, page⟩ | inside
      · exact none_ u hu unhomed page
      · omega
    · exact cleared_unpoisoned s q (poison ▸ hl)
    · rw [after]
      exact congrArg AnPlot.captured (cleared_an s q)
    · rw [after]
      exact congrArg AnPlot.tiles (cleared_an s q)
    · rw [kept.plot_other hp, ← taken, State.modPlt_other _ _ hp, (cleared_keeps s q).plot_other hp]
    · rw [mem, cleared]
      split
      · rw [clearAllOf_memory s q p ha, if_neg hp]
      · rw [clearRemoved_memory s q p ha, if_neg fun h => hp h.1]
    · rw [after]
      rfl
  · refine if_pos ?_
    rw [Bool.or_eq_true, List.any_eq_true]
    exact .inr ⟨j, hj, by simp [unissued]⟩

end Sys2Proof.Machine
end

section
/-!
PROOFS about loads and bundles that are given up (R82, R88): what `dropBundle` and `failLoad` leave of them.
-/
namespace Sys2Proof.Machine

/-- One change of every listed plot. -/
theorem State.eachPlot_modPlot (f : Plot → Plot) {l : List PlotId} (nodup : l.Nodup) (s : State) (q : PlotId) :
    (s.eachPlot l fun s q => s.modPlot q f).plot q = if q ∈ l then f (s.plot q) else s.plot q := by
  unfold State.eachPlot
  induction l generalizing s with
  | nil => simp
  | cons p l ih =>
    obtain ⟨fresh, rest⟩ := List.nodup_cons.mp nodup
    rw [List.foldl_cons, ih rest]
    by_cases e : q = p
    · subst e
      simp [fresh]
    · simp [e, State.modPlot_other s f e]

theorem allPlots_nodup : allPlots.Nodup := by decide

theorem mem_allPlots (q : PlotId) : q ∈ allPlots := List.mem_finRange q

/-- A plot that no bundle touches. -/
def Plot.untouched (p : Plot) : Plot := { p with cfg := { p.cfg with touched := false, waited := false } }

/-- A bundle that is given up, before the plots that it touched. -/
def unbundled (s : State) : State :=
  let pages := s.msh.staging.map fun x => ({ plot := 0, i := 0, bank := x.1, page := x.2 } : QuotaPage)
  { s with
    cfg := { s.cfg with load := .idle, file := [], bundle := none, waitMap := 0, waited := 0 },
    msh := { s.msh with staging := [], poison := s.msh.poison.filter fun l => !pages.any fun x => quotaPageLine x l } }

theorem dropBundle_eq (s : State) : dropBundle s = (unbundled s).eachPlot allPlots fun s q => s.modPlot q Plot.untouched := rfl

theorem dropBundle_plot (s : State) (q : PlotId) : (dropBundle s).plot q = (s.plot q).untouched := by
  rw [dropBundle_eq, State.eachPlot_modPlot _ allPlots_nodup, if_pos (mem_allPlots q)]
  rfl

/-- Outside the plots a bundle that is given up leaves what `unbundled` has. -/
theorem dropBundle_rest (s : State) : Keeps 0 (fun _ => true) (unbundled s) (dropBundle s) := by
  rw [dropBundle_eq]
  exact Keeps.eachPlot (Keeps.refl _) fun t q h => State.modPlot_keeps q _ h rfl

theorem dropBundle_pends (s : State) (q : PlotId) : OnlyPends q s (dropBundle s) :=
  .of_keeps (dropBundle_keeps (w := 640) (P := fun _ => true) (Keeps.refl s) (Covers.refl _) fun _ => rfl)

/-! ### A load that fails (Table 3-14) -/

section
variable (s : State) (code : BitVec 8)

/-- The result of a load that fails. -/
def State.withFailure (d : State) (code : BitVec 8) : State := d.modCfg fun c => { c with err := code, last := 2 }

theorem State.withFailure_cfg (d : State) : (d.withFailure code).cfg = { d.cfg with err := code, last := 2 } := rfl

/-- Outside the load's registers its result changes nothing. -/
theorem State.withFailure_rest (d : State) : Keeps 128 (fun _ => false) d (d.withFailure code) :=
  State.modCfg_keeps _ (Keeps.refl d) (Covers.refl _)

/-- A load that fails is given up with its code, before the cause and the line that tell of it. -/
def givenUp : State := (dropBundle s).withFailure code

theorem givenUp_rest : Keeps 128 (fun _ => false) (dropBundle s) (givenUp s code) := State.withFailure_rest ..

theorem failLoad_eq : failLoad s code = ((givenUp s code).raisePf 3).logLine 0x21 noPlot none code.toNat 0 := rfl

theorem failLoad_plot (q : PlotId) : (failLoad s code).plot q = (s.plot q).untouched := by
  rw [failLoad_eq, State.logLine_plot, plot_of_plots_eq (State.raisePf_plots _ 3), plot_of_plots_eq (givenUp_rest s code).plots_eq,
    dropBundle_plot]

theorem failLoad_rest : Keeps 134218800 (fun _ => false) (givenUp s code) (failLoad s code) := by
  have raised : Keeps 134218800 (fun _ => false) (givenUp s code) ((givenUp s code).raisePf 3) :=
    State.raisePf_keeps 3 (Keeps.refl _) (Covers.of (Covers.refl _) (by decide))
  rw [failLoad_eq]
  exact State.logLine_keeps raised _ _ _ _ _ (Covers.refl _)

theorem failLoad_cfg : (failLoad s code).cfg =
    { s.cfg with load := .idle, file := [], bundle := none, waitMap := 0, waited := 0, err := code, last := 2 } := by
  rw [(failLoad_rest s code).cfg_eq, givenUp, State.withFailure_cfg, (dropBundle_rest s).cfg_eq]
  rfl

theorem failLoad_staging : (failLoad s code).msh.staging = [] := by
  rw [(failLoad_rest s code).msh_eq, (givenUp_rest s code).msh_eq, (dropBundle_rest s).msh_eq]
  rfl

theorem failLoad_pends (q : PlotId) : OnlyPends q s (failLoad s code) := by
  have up : OnlyPends q (dropBundle s) (givenUp s code) := .of_keeps (givenUp_rest s code)
  exact (((dropBundle_pends s q).trans up).trans (State.raisePf_pends _ 3)).trans (State.logLine_pends ..)

theorem State.logLine_irq (s : State) (code plot : Nat) (node : Option NodeId) (a b i : Nat) (h : s.pf.irqStatus.getLsbD i = true) :
    (s.logLine code plot node a b).pf.irqStatus.getLsbD i = true := by
  unfold State.logLine
  extract_lets _ _ _ _ _ _ l
  rw [State.raisePf_pf]
  exact getLsbD_setBit_of _ h

theorem failLoad_irq : (failLoad s code).pf.irqStatus.getLsbD 3 = true := by
  rw [failLoad_eq]
  refine State.logLine_irq _ _ _ _ _ _ 3 ?_
  rw [State.raisePf_pf]
  exact getLsbD_setBit_self _ (by decide)

theorem failLoad_line : (failLoad s code).log.lines.head? = some {
    seq := s.log.next.toNat, time := s.frmTime, code := 0x21, plot := noPlot, node := none, arg0 := code.toNat, arg1 := 0 } := by
  have kept : Keeps 134217776 (fun _ => false) (givenUp s code) ((givenUp s code).raisePf 3) :=
    State.raisePf_keeps 3 (Keeps.refl _) (Covers.refl _)
  have log : ((givenUp s code).raisePf 3).log = s.log := by
    rw [kept.log_eq, (givenUp_rest s code).log_eq, (dropBundle_rest s).log_eq]
    rfl
  have boot : ((givenUp s code).raisePf 3).boot = s.boot := by
    rw [kept.boot_eq, (givenUp_rest s code).boot_eq, (dropBundle_rest s).boot_eq]
    rfl
  rw [failLoad_eq, State.logLine_head, log, State.frmTime, State.isReady, boot]
  rfl

end

theorem abortBundle_pends (s : State) (q : PlotId) : OnlyPends q s (abortBundle s) := by
  unfold abortBundle
  split
  · exact .refl s
  · exact failLoad_pends ..

theorem abortBundle_plt (s : State) (q : PlotId) : ((abortBundle s).plot q).plt = (s.plot q).plt := by
  unfold abortBundle
  split
  · rfl
  · rw [failLoad_plot]
    rfl

theorem abortBundle_content (s : State) : (abortBundle s).cfg.content = s.cfg.content := by
  unfold abortBundle
  split
  · rfl
  · rw [failLoad_cfg]

end Sys2Proof.Machine
end

section
/-!
PROOFS about resets of plots and functions (R61, R158, Table 2-6).
-/
namespace Sys2Proof.Machine

/-! ### A plot reset (R61) -/

theorem resetLanes_plt (s : State) (q : PlotId) : ((resetLanes s q).plot q).plt = (s.plot q).plt := by
  simp [resetLanes, State.plot, State.modPlot]

theorem endRng_idle (s : State) (q : PlotId) : (endRng s q).nse.rng[q].busy = false := by
  simp only [endRng, Fin.getElem_fin, Vector.getElem_set_self]
  split
  · rfl
  case isFalse idle => simpa using idle

theorem endRng_other (s : State) {p q : PlotId} (h : p ≠ q) : (endRng s q).nse.rng[p] = s.nse.rng[p] := by
  simp only [endRng, Fin.getElem_fin]
  exact Vector.getElem_set_ne _ _ fun e => h (Fin.ext e.symm)

/-- The registers of a plot before the row of Table 2-2 for a reset. -/
def zeroedSet (p : PltSet) : PltSet :=
  { p with sqTail := 0, sqHead := 0, cqTail := 0, cqHead := 0, ringEn := false, ringHalt := false, irqStatus := 0,
           head := .empty, snapHead := false }

/-- The registers and the other blocks of a plot that do not survive its reset. -/
def zeroedPlot (s : State) (q : PlotId) : State := resetPlotBlocks (s.modPlt q zeroedSet) q

theorem zeroedPlot_plt (s : State) (q : PlotId) : ((zeroedPlot s q).plot q).plt = zeroedSet (s.plot q).plt := by
  have lanes := resetLanes_plt (s.modPlt q zeroedSet) q
  rw [State.modPlt_self] at lanes
  exact lanes

theorem zeroedPlot_rng (s : State) (q : PlotId) : (zeroedPlot s q).nse.rng[q].busy = false := endRng_idle ..

theorem zeroedPlot_rng_other (s : State) {p q : PlotId} (h : p ≠ q) : (zeroedPlot s q).nse.rng[p] = s.nse.rng[p] := endRng_other _ h

/-- A plot reset zeroes, then stops or clears as the row of Table 2-2 has it. -/
theorem resetPlot_eq (s : State) (q : PlotId) : resetPlot s q = match (s.plot q).plt.state with
    | .running => startStop ((zeroedPlot s q).modPlt q fun p => { p with reqReset := true, clearAll := true }) q
    | .idle | .disabled =>
      (stopEngines ((zeroedPlot s q).modPlt q fun p => { p with clearAll := true }) q).setPlotState q .clearing
    | .stopping => (zeroedPlot s q).modPlt q fun p => { p with reqReset := true, clearAll := true }
    | .clearing => (zeroedPlot s q).modPlt q fun p => { p with clearAll := true }
    | .unassigned => zeroedPlot s q := rfl

theorem resetSet_eq (p : PltSet) : resetSet p = match p.state with
    | .unassigned => zeroedSet p
    | .disabled | .idle => movedSet { zeroedSet p with clearAll := true } .clearing
    | .running => stoppedSet { zeroedSet p with reqReset := true, clearAll := true }
    | .stopping => { zeroedSet p with reqReset := true, clearAll := true }
    | .clearing => { zeroedSet p with clearAll := true } := rfl

theorem resetPlot_plt (s : State) (q : PlotId) : ((resetPlot s q).plot q).plt = resetSet (s.plot q).plt := by
  have zeroed := zeroedPlot_plt s q
  rw [resetPlot_eq, resetSet_eq]
  cases (s.plot q).plt.state <;> dsimp only
  case unassigned => exact zeroed
  case running => rw [startStop_plt, State.modPlt_self, zeroed]
  case stopping => rw [State.modPlt_self, zeroed]
  case clearing => rw [State.modPlt_self, zeroed]
  all_goals rw [State.setPlotState_plot, stopEngines_plt, State.modPlt_self, zeroed]

/-- What comes after the zeroing leaves the functions but for messages, and the random requests. -/
theorem resetPlot_pends (s : State) (q : PlotId) : OnlyPends q s (resetPlot s q) := by
  have zeroed : OnlyPends q s (zeroedPlot s q) := .of_eq rfl rfl rfl
  have asked (f : PltSet → PltSet) : OnlyPends q s ((zeroedPlot s q).modPlt q f) := .of_eq rfl rfl rfl
  have stopped (u : State) : OnlyPends q u (stopEngines u q) :=
    .of_keeps (stopEngines_keeps (w := 2834944) (P := fun _ => true) q (Keeps.refl u) (Covers.refl _) rfl)
  rw [resetPlot_eq]
  split
  · exact (asked _).trans (startStop_pends ..)
  · exact ((asked _).trans (stopped _)).trans (State.setPlotState_pends ..)
  · exact ((asked _).trans (stopped _)).trans (State.setPlotState_pends ..)
  · exact asked _
  · exact asked _
  · exact zeroed

theorem resetPlot_rng (s : State) (q : PlotId) : (resetPlot s q).nse.rng = (zeroedPlot s q).nse.rng := by
  have asked (f : PltSet → PltSet) : ((zeroedPlot s q).modPlt q f).nse.rng = (zeroedPlot s q).nse.rng := rfl
  have stopped (u : State) : (startStop u q).nse = u.nse :=
    (startStop_keeps (w := 137052720) (P := fun _ => true) q (Keeps.refl u) (Covers.refl _) rfl).nse_eq
  have moved (u : State) (st : PlotState) : (u.setPlotState q st).nse = u.nse :=
    (State.setPlotState_keeps (w := 134217776) (P := fun _ => true) q st (Keeps.refl u) (Covers.refl _) rfl).nse_eq
  rw [resetPlot_eq]
  split
  · rw [stopped, asked]
  · rw [moved]; rfl
  · rw [moved]; rfl
  · rfl
  · rfl
  · rfl

theorem plotResetZeroesRings_holds : plotResetZeroesRings := by
  intro s f q served hq own
  refine ⟨_, rfl, ?_⟩
  rw [hostGate_ok _ served, plotResetFrom, if_pos ⟨hq, reaches_iff.mpr own⟩]
  have rng := resetPlot_rng { s with resp := {} } q
  refine ⟨resetPlot_plt { s with resp := {} } q, ?_, fun p hp => ?_⟩
  · rw [rng]
    exact zeroedPlot_rng ..
  · rw [rng]
    exact zeroedPlot_rng_other _ hp

/-! ### Function-level resets (Table 2-6) -/

/-- A VF reset leaves the functions but its own, which is reset, and the PF's pending bits. -/
theorem resetVf_pends (s : State) (p : PlotId) : OnlyPends p (s.modFn p afterFlr) (resetVf s p) := by
  unfold resetVf
  extract_lets space plot registers
  have reset : OnlyPends p space plot := resetPlot_pends ..
  have based : OnlyPends p plot registers := .of_eq rfl rfl rfl
  exact (reset.trans based).trans (reviewPlot_pends ..)

theorem resetVf_fn (s : State) (p : PlotId) : (resetVf s p).fns[p] = afterFlr s.fns[p] := by
  rw [(resetVf_pends s p).off p (by rw [State.modFn_self]; rfl), State.modFn_self]

theorem resetVf_fn_other (s : State) {p : PlotId} {g : Fn} (pf : g ≠ 0) (own : g ≠ p) : (resetVf s p).fns[g] = s.fns[g] := by
  rw [(resetVf_pends s p).other g pf own, State.modFn_other s _ own]

theorem resetVf_hst (s : State) (p : PlotId) : (resetVf s p).hst = s.hst := (resetVf_pends s p).hst

/-- After a reset a plot is in a state that no review moves. -/
theorem reviewedSet_reset (p : PltSet) (ok : Bool) : reviewedSet (resetSet p).resetVf ok = (resetSet p).resetVf := by
  have state : (resetSet p).resetVf.state ≠ .idle ∧ (resetSet p).resetVf.state ≠ .disabled ∧ (resetSet p).resetVf.state ≠ .running := by
    change (resetSet p).state ≠ _ ∧ (resetSet p).state ≠ _ ∧ (resetSet p).state ≠ _
    unfold resetSet
    cases h : p.state <;> simp [stoppedSet, movedSet_state]
  obtain ⟨idle, disabled, running⟩ := state
  unfold reviewedSet
  split <;> simp_all

theorem resetVf_plt (s : State) (p : PlotId) : ((resetVf s p).plot p).plt = (resetSet (s.plot p).plt).resetVf := by
  unfold resetVf
  extract_lets space plot registers
  have reset : (plot.plot p).plt = resetSet (s.plot p).plt := resetPlot_plt space p
  rw [reviewPlot_plt, State.modPlt_self, reset, reviewedSet_reset]

theorem resetVf_plot_other (s : State) {p q : PlotId} (h : p ≠ q) : (resetVf s q).plot p = s.plot p :=
  (resetVf_keeps (w := 137060912) (P := fun r => r == q) q (Keeps.refl s) (Covers.refl _) (beq_self_eq_true q)).plot_other h

/-! ### Many functions at once -/

/-- From `s` to `t` the listed VFs were reset and no other; of the PF only pending bits change. -/
structure VfsReset (l : List PlotId) (s t : State) : Prop where
  fn : ∀ p ∈ l, t.fns[p] = afterFlr s.fns[p]
  plt : ∀ p ∈ l, (t.plot p).plt = (resetSet (s.plot p).plt).resetVf
  fn_other : ∀ g : Fn, g ≠ 0 → g ∉ l → t.fns[g] = s.fns[g]
  plt_other : ∀ p ∉ l, (t.plot p).plt = (s.plot p).plt
  pf : t.fns[(0 : Fn)] = { s.fns[(0 : Fn)] with pba := t.fns[(0 : Fn)].pba }
  off : s.fns[(0 : Fn)].msixEn = false → t.fns[(0 : Fn)] = s.fns[(0 : Fn)]
  hst : t.hst = s.hst
  mask : t.pf.irqMask = s.pf.irqMask
  rng : t.nse.rng[(0 : Fn)] = s.nse.rng[(0 : Fn)]
  cfg : t.cfg = s.cfg

theorem resetVf_rng (s : State) {p q : PlotId} (h : q ≠ p) : (resetVf s p).nse.rng[q] = s.nse.rng[q] := by
  unfold resetVf
  extract_lets space plot registers
  have reviewed : (reviewPlot registers p).nse = registers.nse :=
    (reviewPlot_keeps (w := 137052720) (P := fun _ => true) p (Keeps.refl _) (Covers.refl _) rfl).nse_eq
  have reset : plot.nse.rng[q] = space.nse.rng[q] := by
    dsimp only [plot]
    rw [resetPlot_rng, zeroedPlot_rng_other _ h]
  rw [reviewed]
  exact reset

theorem resetVf_cfg (s : State) (p : PlotId) : (resetVf s p).cfg = s.cfg :=
  (resetVf_keeps (w := 137060912) (P := fun _ => true) p (Keeps.refl s) (Covers.refl _) rfl).cfg_eq

theorem foldl_resetVf {l : List PlotId} (nodup : l.Nodup) (vfs : 0 ∉ l) (s : State) : VfsReset l s (s.eachPlot l resetVf) := by
  unfold State.eachPlot
  induction l generalizing s with
  | nil => exact ⟨by simp, by simp, fun _ _ _ => rfl, fun _ _ => rfl, rfl, fun _ => rfl, rfl, rfl, rfl, rfl⟩
  | cons q l ih =>
    obtain ⟨fresh, rest⟩ := List.nodup_cons.mp nodup
    obtain ⟨zero, vfs_rest⟩ : 0 ≠ q ∧ 0 ∉ l := by simpa using vfs
    have first := resetVf_pends s q
    have kept : (s.modFn q afterFlr).fns[(0 : Fn)] = s.fns[(0 : Fn)] := State.modFn_other s _ zero
    have later := ih rest vfs_rest (resetVf s q)
    rw [List.foldl_cons]
    exact {
      fn := fun p hp => by
        rcases List.mem_cons.mp hp with rfl | hp
        · rw [later.fn_other p zero.symm fresh, resetVf_fn]
        · rw [later.fn p hp, resetVf_fn_other s (ne_of_mem_of_not_mem hp vfs_rest) (ne_of_mem_of_not_mem hp fresh)]
      plt := fun p hp => by
        rcases List.mem_cons.mp hp with rfl | hp
        · rw [later.plt_other p fresh, resetVf_plt]
        · rw [later.plt p hp, resetVf_plot_other s (ne_of_mem_of_not_mem hp fresh)]
      fn_other := fun g pf hg => by
        obtain ⟨own, hg⟩ : g ≠ q ∧ g ∉ l := by simpa using hg
        rw [later.fn_other g pf hg, resetVf_fn_other s pf own]
      plt_other := fun p hp => by
        obtain ⟨own, hp⟩ : p ≠ q ∧ p ∉ l := by simpa using hp
        rw [later.plt_other p hp, resetVf_plot_other s own]
      pf := by rw [later.pf, first.fn 0, kept]
      off := fun no => by
        have same : (resetVf s q).fns[(0 : Fn)] = s.fns[(0 : Fn)] := by rw [first.off 0 (by rw [kept]; exact no), kept]
        rw [later.off (by rw [same]; exact no), same]
      hst := later.hst.trans (resetVf_hst s q)
      mask := later.mask.trans first.mask
      rng := later.rng.trans (resetVf_rng s zero)
      cfg := later.cfg.trans (resetVf_cfg s q) }

theorem tenantPlots_nodup : tenantPlots.Nodup := by decide

theorem mem_tenantPlots {p : PlotId} : p ∈ tenantPlots ↔ p ≠ 0 := by
  revert p
  decide

/-- VF Enable taking the value 0 resets every VF. -/
theorem clearVfEnable_resets (s : State) : VfsReset tenantPlots
    ({ s with hst := { s.hst with vfEn := false } }.modFn 0 FnState.resetCopies) (clearVfEnable s) :=
  foldl_resetVf tenantPlots_nodup (fun h => absurd rfl (mem_tenantPlots.mp h)) _

theorem vfFlrs (s : State) (p : PlotId) (served : s.cfgOk p = true) (hp : p ≠ 0) : Gives (.vfFlr p) s (fun t =>
    t.fns[p] = afterFlr s.fns[p] ∧ (t.plot p).plt = (resetSet (s.plot p).plt).resetVf ∧
    (∀ g : Fn, g ≠ 0 → g ≠ p → t.fns[g] = s.fns[g])) := by
  refine ⟨_, rfl, ?_⟩
  rw [cfgGate_ok _ served, vfReset, if_neg hp]
  exact ⟨resetVf_fn s p, resetVf_plt s p, fun g pf own => resetVf_fn_other s pf own⟩

theorem vfEnableClears (s : State) (served : s.cfgOk 0 = true) (enabled : s.hst.vfEn = true) : Gives .vfEnableClear s (fun t =>
    t.hst = { s.hst with vfEn := false } ∧
    t.fns[(0 : Fn)] = { s.fns[(0 : Fn)] with latches := [], held := [], sels := [], logValid := false, pba := t.fns[(0 : Fn)].pba } ∧
    ∀ p : PlotId, p ≠ 0 → t.fns[p] = afterFlr s.fns[p] ∧ (t.plot p).plt = (resetSet (s.plot p).plt).resetVf) := by
  refine ⟨_, rfl, ?_⟩
  rw [cfgGate_ok _ served, vfDisable, if_pos enabled]
  have aborted := abortBundle_pends s 0
  have plt := abortBundle_plt s
  generalize abortBundle s = a at aborted plt ⊢
  have reset := clearVfEnable_resets a
  generalize clearVfEnable a = t at reset ⊢
  refine ⟨?_, ?_, fun p hp => ⟨?_, ?_⟩⟩
  · rw [reset.hst, ← aborted.hst]
    rfl
  · rw [reset.pf, State.modFn_self, aborted.fn 0]
    rfl
  · rw [reset.fn p (mem_tenantPlots.mpr hp), State.modFn_other _ _ hp]
    exact congrArg afterFlr (show a.fns[p] = s.fns[p] from aborted.other p hp hp)
  · rw [reset.plt p (mem_tenantPlots.mpr hp), ← plt p]
    rfl

/-- The PF's own part of its FLR. -/
def pfOwnReset (s : State) : State := pfSpaceReset (endRng (s.modFn 0 fun f => f.resetCopies.resetSpace) 0)

theorem pfReset_eq (s : State) : pfReset s =
    { clearVfEnable (abortBundle (pfOwnReset s)) with hst := { (clearVfEnable (abortBundle (pfOwnReset s))).hst with numVfs := 0 } } := by
  simp only [pfReset, pfOwnReset]

theorem abortBundle_nse (s : State) : (abortBundle s).nse = s.nse :=
  (abortBundle_keeps (w := 134219440) (P := fun _ => true) (Keeps.refl s) (Covers.refl _) fun _ => rfl).nse_eq

theorem pfFlrs (s : State) (served : s.cfgOk 0 = true) : Gives .pfFlr s (fun t =>
    t.hst = { s.hst with vfEn := false, numVfs := 0, memSpace := false, vfMemSpace := false, ari := false, ptmEn := false } ∧
    t.pf.irqMask = 0x7FFF ∧ t.fns[(0 : Fn)] = afterFlr s.fns[(0 : Fn)] ∧ t.nse.rng[(0 : Fn)].busy = false ∧ t.cfg.content = s.cfg.content ∧
    ∀ p : PlotId, p ≠ 0 → t.fns[p] = afterFlr s.fns[p] ∧ (t.plot p).plt = (resetSet (s.plot p).plt).resetVf) := by
  refine ⟨_, rfl, ?_⟩
  rw [cfgGate_ok _ served, pfReset_eq]
  have idle : (pfOwnReset s).nse.rng[(0 : PlotId)].busy = false := endRng_idle _ 0
  have fn0 : (pfOwnReset s).fns[(0 : Fn)] = afterFlr s.fns[(0 : Fn)] := State.modFn_self s 0 (fun f => f.resetCopies.resetSpace)
  have fns (p : PlotId) (hp : p ≠ 0) : (pfOwnReset s).fns[p] = s.fns[p] := State.modFn_other s (fun f => f.resetCopies.resetSpace) hp
  have hst : (pfOwnReset s).hst = { s.hst with memSpace := false, vfMemSpace := false, ari := false, ptmEn := false } := rfl
  have mask : (pfOwnReset s).pf.irqMask = 0x7FFF := rfl
  have plots (p : PlotId) : (pfOwnReset s).plot p = s.plot p := rfl
  have content : (pfOwnReset s).cfg.content = s.cfg.content := rfl
  have aborted := abortBundle_pends (pfOwnReset s) 0
  have plt := abortBundle_plt (pfOwnReset s)
  have rng := abortBundle_nse (pfOwnReset s)
  rw [← content, ← abortBundle_content]
  generalize pfOwnReset s = o at idle fn0 fns hst mask plots aborted plt rng ⊢
  generalize abortBundle o = a at aborted plt rng ⊢
  have off : a.fns[(0 : Fn)] = afterFlr s.fns[(0 : Fn)] := by rw [aborted.off 0 (by rw [fn0]; rfl), fn0]
  have reset := clearVfEnable_resets a
  generalize clearVfEnable a = t at reset ⊢
  have from_off : ({ a with hst := { a.hst with vfEn := false } }.modFn 0 FnState.resetCopies).fns[(0 : Fn)] =
      afterFlr s.fns[(0 : Fn)] := by
    rw [State.modFn_self]
    change a.fns[(0 : Fn)].resetCopies = _
    rw [off]
    rfl
  refine ⟨?_, ?_, ?_, ?_, ?_, fun p hp => ⟨?_, ?_⟩⟩
  · change { t.hst with numVfs := 0 } = _
    rw [reset.hst]
    change { a.hst with vfEn := false, numVfs := 0 } = _
    rw [aborted.hst, hst]
  · exact reset.mask.trans (aborted.mask.trans mask)
  · exact (reset.off (by rw [from_off]; rfl)).trans from_off
  · exact (congrArg RngSet.busy (reset.rng.trans (congrArg (fun n : NseState => n.rng[(0 : Fn)]) rng))).trans idle
  · exact congrArg CfgState.content reset.cfg
  · refine (reset.fn p (mem_tenantPlots.mpr hp)).trans ?_
    rw [State.modFn_other _ _ hp]
    change afterFlr a.fns[p] = _
    rw [aborted.other p hp hp, fns p hp]
  · refine (reset.plt p (mem_tenantPlots.mpr hp)).trans ?_
    change (resetSet (a.plot p).plt).resetVf = _
    rw [plt p, plots p]

/-- Settles O25: a reset zeroes a plot's registers and stops or clears it; function-level resets do that for their plots, and return
their functions' spaces to reset. -/
theorem resetsOfPlotsAndFunctions : Obligations.ResetsOfPlotsAndFunctions :=
  ⟨plotResetZeroesRings_holds, vfFlrs, vfEnableClears, pfFlrs⟩

end Sys2Proof.Machine
end

section
/-!
PROOFS about requests that end or may go again (R42, R292, R301): what waited for a function's requests goes without moving any plot.
-/
namespace Sys2Proof.Machine

/-- From `s` to `t` no plot changes its state or its EN, and nothing that decides VF_READY changes. -/
structure Steady (s t : State) : Prop where
  bme : ∀ g : Fn, t.fns[g].bme = s.fns[g].bme
  d3 : ∀ g : Fn, t.fns[g].d3 = s.fns[g].d3
  vfEn : t.hst.vfEn = s.hst.vfEn
  numVfs : t.hst.numVfs = s.hst.numVfs
  state : ∀ p : PlotId, (t.plot p).plt.state = (s.plot p).plt.state
  en : ∀ p : PlotId, (t.plot p).plt.en = (s.plot p).plt.en

theorem Steady.refl (s : State) : Steady s s := ⟨fun _ => rfl, fun _ => rfl, rfl, rfl, fun _ => rfl, fun _ => rfl⟩

theorem Steady.trans {a b c : State} (h : Steady a b) (k : Steady b c) : Steady a c :=
  ⟨fun g => (k.bme g).trans (h.bme g), fun g => (k.d3 g).trans (h.d3 g), k.vfEn.trans h.vfEn, k.numVfs.trans h.numVfs,
   fun p => (k.state p).trans (h.state p), fun p => (k.en p).trans (h.en p)⟩

theorem Steady.foldl {α : Type} {f : State → α → State} (h : ∀ s x, Steady s (f s x)) (l : List α) (s : State) :
    Steady s (l.foldl f s) := by
  induction l generalizing s with
  | nil => exact .refl s
  | cons x l ih => exact (h s x).trans (ih _)

theorem Steady.permitted {s t : State} (h : Steady s t) (f : Fn) : t.permitted f = s.permitted f := by
  simp only [State.permitted]
  rw [h.bme, h.d3, h.d3]

theorem Steady.vfReady {s t : State} (h : Steady s t) (p : PlotId) : t.vfReady p = s.vfReady p := by
  simp only [State.vfReady]
  rw [h.permitted, h.vfEn, h.numVfs]

/-- Messages alone, with the plots as they are. -/
theorem Steady.of_pends {q : PlotId} {s t : State} (h : OnlyPends q s t) (plots : t.plots = s.plots) : Steady s t where
  bme g := by rw [h.fn g]
  d3 g := by rw [h.fn g]
  vfEn := by rw [h.hst]
  numVfs := by rw [h.hst]
  state p := by rw [plot_of_plots_eq plots]
  en p := by rw [plot_of_plots_eq plots]

/-- A change of a plot that leaves its state and its EN. -/
theorem Steady.modPlot (s : State) (q : PlotId) {f : Plot → Plot} (state : (f (s.plot q)).plt.state = (s.plot q).plt.state)
    (en : (f (s.plot q)).plt.en = (s.plot q).plt.en) : Steady s (s.modPlot q f) := by
  refine ⟨fun _ => rfl, fun _ => rfl, rfl, rfl, fun p => ?_, fun p => ?_⟩
  · by_cases e : p = q
    · rw [e, State.modPlot_self, state]
    · rw [State.modPlot_other s f e]
  · by_cases e : p = q
    · rw [e, State.modPlot_self, en]
    · rw [State.modPlot_other s f e]

theorem State.raisePf_steady (s : State) (c : Fin 15) : Steady s (s.raisePf c) :=
  .of_pends (State.raisePf_pends (q := 0) s c) (State.raisePf_plots s c)

theorem State.raisePlot_steady (s : State) (q : PlotId) (m : BitVec 13) : Steady s (s.raisePlot q m) :=
  (Steady.modPlot s q rfl rfl).trans (.of_pends (State.sendVectors_pends _ _) (State.sendVectors_plots ..))

theorem State.hostRead_steady (s : State) (q : PlotId) (u : DmaUser) (a n : Nat) : Steady s (s.hostRead q u a n) :=
  ⟨fun _ => rfl, fun _ => rfl, rfl, rfl, fun _ => rfl, fun _ => rfl⟩

theorem State.emit_steady (s : State) (e : OutEvent) : Steady s (s.emit e) :=
  ⟨fun _ => rfl, fun _ => rfl, rfl, rfl, fun _ => rfl, fun _ => rfl⟩

theorem startFetch_steady (s : State) (q : PlotId) : Steady s (startFetch s q) := by
  unfold startFetch
  extract_lets p
  split
  · exact (Steady.modPlot s q rfl rfl).trans (State.hostRead_steady ..)
  · exact .refl s

theorem writeFormedAux_steady (n : Nat) (s : State) (q : PlotId) (irq : Bool) : Steady s (writeFormedAux n s q irq).1 := by
  induction n generalizing s irq with
  | zero => exact .refl s
  | succ n ih =>
    unfold writeFormedAux
    extract_lets p
    split
    · exact .refl s
    next r rest _ =>
      split
      · exact .refl s
      · extract_lets out written pf faulted raised told
        have step : Steady s written := (State.emit_steady s _).trans (Steady.modPlot out q rfl rfl)
        have mapped : Steady written faulted := ⟨fun _ => rfl, fun _ => rfl, rfl, rfl, fun _ => rfl, fun _ => rfl⟩
        have caused : Steady written raised := mapped.trans (State.raisePlot_steady ..)
        refine Steady.trans ?_ (ih told _)
        refine step.trans ?_
        dsimp only [told]
        split
        · split
          · exact caused.trans (State.raisePf_steady ..)
          · exact caused
        · exact .refl _

theorem writeFormed_steady (s : State) (q : PlotId) : Steady s (writeFormed s q) := by
  unfold writeFormed
  have written := writeFormedAux_steady (s.plot q).plt.formed.length s q false
  generalize writeFormedAux _ s q false = r at written ⊢
  obtain ⟨t, irq⟩ := r
  dsimp only
  split
  · exact written.trans (State.raisePlot_steady ..)
  · exact written

theorem fetchLaneAux_steady (n : Nat) (s : State) (q : PlotId) (t : Fin 64) : Steady s (fetchLaneAux n s q t) := by
  induction n generalizing s with
  | zero => exact .refl s
  | succ n ih =>
    unfold fetchLaneAux
    extract_lets c ns l at_
    have lane (f : TapeLane → TapeLane) : Steady s (s.modLane q t f) :=
      Steady.modPlot s q (f := fun p => { p with nse := { p.nse with lanes := p.nse.lanes.set t (f p.nse.lanes[t]) } }) rfl rfl
    split
    · exact .refl s
    split
    · exact ((lane _).trans (State.hostRead_steady ..)).trans (ih _)
    split
    · exact ((lane _).trans (State.hostRead_steady ..)).trans (ih _)
    · exact .refl s

theorem fetchLanes_steady (s : State) (q : PlotId) : Steady s (fetchLanes s q) :=
  Steady.foldl (fun s t => fetchLaneAux_steady 5 s q t) _ s

theorem releasePba_steady (s : State) (f : Fn) : Steady s (s.releasePba f) := by
  refine Steady.foldl (fun s v => ?_) _ s
  dsimp only
  split
  · refine ⟨fun g => ?_, fun g => ?_, rfl, rfl, fun _ => rfl, fun _ => rfl⟩
    · rw [State.emit_fns, State.modFn_fns]
      split
      case isTrue e => rw [e]
      case isFalse => rfl
    · rw [State.emit_fns, State.modFn_fns]
      split
      case isTrue e => rw [e]
      case isFalse => rfl
  · exact .refl s

/-- What waited for a function's requests goes. -/
theorem releaseFn_steady (s : State) (f : Fn) : Steady s (releaseFn s f) := by
  unfold releaseFn
  split
  · extract_lets waited
    refine Steady.trans ?_ (releasePba_steady waited f)
    dsimp only [waited]
    split
    · exact .refl s
    · exact ((writeFormed_steady s f).trans (startFetch_steady ..)).trans (fetchLanes_steady ..)
  · exact .refl s

theorem releaseFn_cfg (s : State) (f : Fn) : (releaseFn s f).cfg = s.cfg :=
  (releaseFn_keeps (w := 134217840) (P := fun _ => true) f (Keeps.refl s) (Covers.refl _) rfl).cfg_eq

theorem releaseFn_pf_plots (s : State) : (releaseFn s 0).plots = s.plots := by
  unfold releaseFn
  split
  · exact (State.releasePba_keeps (w := 134217760) (P := fun _ => false) 0 (Keeps.refl s) (Covers.refl _)).plots_eq
  · rfl

/-! ### A review and what it lets go -/

/-- A plot's review, and then what waited for its function's requests. -/
def reviewAndRelease (s : State) (p : PlotId) : State := releaseFn (reviewPlot s p) p

theorem reviewAndRelease_state (s : State) (p : PlotId) : ((reviewAndRelease s p).plot p).plt.state =
    (reviewedSet (s.plot p).plt ((s.plot p).plt.en && s.vfReady p)).state := by
  rw [reviewAndRelease, (releaseFn_steady _ p).state, reviewPlot_plt]

theorem reviewAndRelease_other (s : State) {p q : PlotId} (h : p ≠ q) : (reviewAndRelease s q).plot p = s.plot p := by
  have reviewed : Keeps 137052720 (fun r => r == q) s (reviewPlot s q) :=
    reviewPlot_keeps q (Keeps.refl s) (Covers.refl _) (beq_self_eq_true q)
  have released : Keeps 134217840 (fun r => r == q) (reviewPlot s q) (reviewAndRelease s q) :=
    releaseFn_keeps q (Keeps.refl _) (Covers.refl _) (beq_self_eq_true q)
  rw [released.plot_other h, reviewed.plot_other h]

theorem reviewAndRelease_fn (s : State) (p : PlotId) (g : Fn) :
    (reviewAndRelease s p).fns[g].bme = s.fns[g].bme ∧ (reviewAndRelease s p).fns[g].d3 = s.fns[g].d3 := by
  rw [reviewAndRelease, (releaseFn_steady _ p).bme, (releaseFn_steady _ p).d3, (reviewPlot_pends s p).fn g]
  exact ⟨rfl, rfl⟩

theorem reviewAndRelease_vfReady (s : State) (p q : PlotId) : (reviewAndRelease s p).vfReady q = s.vfReady q := by
  rw [reviewAndRelease, (releaseFn_steady _ p).vfReady, (reviewPlot_pends s p).vfReady]

theorem foldl_reviewAndRelease {l : List PlotId} (nodup : l.Nodup) (s : State) :
    (∀ p ∈ l, ((l.foldl reviewAndRelease s).plot p).plt.state =
      (reviewedSet (s.plot p).plt ((s.plot p).plt.en && s.vfReady p)).state) ∧
    (∀ p ∉ l, (l.foldl reviewAndRelease s).plot p = s.plot p) ∧
    ∀ g : Fn, (l.foldl reviewAndRelease s).fns[g].d3 = s.fns[g].d3 := by
  induction l generalizing s with
  | nil => exact ⟨by simp, fun _ _ => rfl, fun _ => rfl⟩
  | cons q l ih =>
    obtain ⟨fresh, rest⟩ := List.nodup_cons.mp nodup
    obtain ⟨inside, outside, d3⟩ := ih rest (reviewAndRelease s q)
    rw [List.foldl_cons]
    refine ⟨fun p hp => ?_, fun p hp => ?_, fun g => ?_⟩
    · rcases List.mem_cons.mp hp with rfl | hp
      · rw [outside p fresh, reviewAndRelease_state]
      · rw [inside p hp, reviewAndRelease_other s (ne_of_mem_of_not_mem hp fresh), reviewAndRelease_vfReady]
    · obtain ⟨own, hp⟩ : p ≠ q ∧ p ∉ l := by simpa using hp
      rw [outside p hp, reviewAndRelease_other s own]
    · rw [d3, (reviewAndRelease_fn s q g).2]

/-! ### A bit-stream fetch (R292, R301) -/

theorem reviewLoad_pends (s : State) : OnlyPends 0 s (reviewLoad s) := by
  unfold reviewLoad
  split
  · exact failLoad_pends ..
  · exact .refl s

theorem reviewLoad_plt (s : State) (p : PlotId) : ((reviewLoad s).plot p).plt = (s.plot p).plt := by
  unfold reviewLoad
  split
  · rw [failLoad_plot]
    rfl
  · rfl

theorem reviewLoad_fails {s : State} (fetching : s.cfg.load = .fetching) (no : s.permitted 0 = false) :
    (reviewLoad s).cfg.load = .idle ∧ (reviewLoad s).cfg.err = 1 := by
  unfold reviewLoad
  rw [if_pos ⟨fetching, by rw [no]; rfl⟩, failLoad_cfg]
  exact ⟨rfl, rfl⟩

theorem reviewLoad_idle {s : State} (h : s.cfg.load ≠ .fetching) : reviewLoad s = s := if_neg fun f => h f.1

/-- The PF's own part of a change of its Bus Master Enable or power state. -/
def pfReview (s : State) (g : FnState → FnState) : State := releaseFn (reviewLoad (s.modFn 0 g)) 0

theorem pfReview_steady (s : State) (g : FnState → FnState) (f : Fn) :
    (pfReview s g).fns[f].bme = (s.modFn 0 g).fns[f].bme ∧ (pfReview s g).fns[f].d3 = (s.modFn 0 g).fns[f].d3 := by
  have reviewed := reviewLoad_pends (s.modFn 0 g)
  rw [pfReview, (releaseFn_steady _ 0).bme, (releaseFn_steady _ 0).d3, reviewed.fn f]
  exact ⟨rfl, rfl⟩

theorem pfReview_plt (s : State) (g : FnState → FnState) (p : PlotId) : ((pfReview s g).plot p).plt = (s.plot p).plt := by
  rw [pfReview, plot_of_plots_eq (releaseFn_pf_plots _), reviewLoad_plt]
  rfl

theorem pfReview_vfReady (s : State) (g : FnState → FnState) (p : PlotId) : (pfReview s g).vfReady p = (s.modFn 0 g).vfReady p := by
  rw [pfReview, (releaseFn_steady _ 0).vfReady, (reviewLoad_pends _).vfReady]

theorem pfReview_cfg (s : State) (g : FnState → FnState) : (pfReview s g).cfg = (reviewLoad (s.modFn 0 g)).cfg := releaseFn_cfg ..

/-! ### The commands -/

/-- A change of a VF's Bus Master Enable or power state reviews its plot and lets its requests go. -/
theorem vfReview (s : State) (p : PlotId) (g : FnState → FnState) :
    (reviewAndRelease (s.modFn p g) p).fns[p].bme = (g s.fns[p]).bme ∧
      (reviewAndRelease (s.modFn p g) p).fns[p].d3 = (g s.fns[p]).d3 ∧
      (∀ q : PlotId, q ≠ p → (reviewAndRelease (s.modFn p g) p).plot q = s.plot q) ∧
      ((reviewAndRelease (s.modFn p g) p).plot p).plt.state =
        (reviewedSet (s.plot p).plt ((s.plot p).plt.en && (s.modFn p g).vfReady p)).state := by
  obtain ⟨bme, d3⟩ := reviewAndRelease_fn (s.modFn p g) p p
  rw [State.modFn_self] at bme d3
  exact ⟨bme, d3, fun q hq => reviewAndRelease_other _ hq, reviewAndRelease_state ..⟩

/-- After a change of the PF every plot was reviewed. -/
theorem pfPower_states (s : State) (d3 : Bool) :
    (pfPower s d3).fns[(0 : Fn)].d3 = d3 ∧ ∀ p : PlotId, p ≠ 0 → ((pfPower s d3).plot p).plt.state =
      (reviewedSet (s.plot p).plt ((s.plot p).plt.en && (s.modFn 0 fun g => { g with d3 := d3 }).vfReady p)).state := by
  have start : pfPower s d3 = tenantPlots.foldl reviewAndRelease (pfReview s fun g => { g with d3 := d3 }) := rfl
  obtain ⟨inside, -, kept⟩ := foldl_reviewAndRelease tenantPlots_nodup (pfReview s fun g => { g with d3 := d3 })
  rw [start]
  refine ⟨?_, fun p hp => ?_⟩
  · rw [kept, (pfReview_steady s _ 0).2, State.modFn_self]
  · rw [inside p (mem_tenantPlots.mpr hp), pfReview_plt, pfReview_vfReady]

theorem pfPower_cfg (s : State) (d3 : Bool) : (pfPower s d3).cfg = (pfReview s fun g => { g with d3 := d3 }).cfg := by
  refine (Keeps.foldl (w := 137052784 ||| 134217840) (P := fun _ => true) (Keeps.refl _) fun t p h => ?_).cfg_eq
  exact releaseFn_keeps p (reviewPlot_keeps p h (Covers.of (Covers.refl _) (by decide)) rfl) (Covers.of (Covers.refl _) (by decide)) rfl

/-- A function in D3hot, or one whose PF is, may request nothing. -/
theorem not_vfReady_of_d3 {s : State} {f : Fn} (h : s.fns[f].d3 = true ∨ s.fns[(0 : Fn)].d3 = true) : s.vfReady f = false := by
  simp only [State.vfReady, State.permitted]
  rcases h with h | h
  · rw [h, Bool.not_true, Bool.and_false, Bool.false_and, Bool.and_false]
  · rw [h, Bool.not_true, Bool.and_false, Bool.and_false]

theorem masterEnable_pf (s : State) (on : Bool) : masterEnable s 0 on = pfReview s fun g => { g with bme := on } := by
  unfold masterEnable
  rw [if_pos rfl]
  rfl

theorem masterEnable_vf (s : State) {p : PlotId} (hp : p ≠ 0) (on : Bool) :
    masterEnable s p on = reviewAndRelease (s.modFn p fun g => { g with bme := on }) p := by
  unfold masterEnable
  rw [if_neg hp]
  rfl

theorem vfPower_eq (s : State) {p : PlotId} (hp : p ≠ 0) (d3 : Bool) :
    vfPower s p d3 = reviewAndRelease (s.modFn p fun g => { g with d3 := d3 }) p := if_neg hp

/-- Settles O26: a function's requests decide VF_READY, a review moves its plot (`reviewAndRelease_state`), and a load that is being
fetched fails when the PF's end. -/
theorem requestsFollowMasterEnableAndPower : Obligations.RequestsFollowMasterEnableAndPower := by
  refine ⟨fun s p on hp served => ⟨_, rfl, ?_⟩, fun s on served => ⟨_, rfl, ?_⟩,
    fun s p hp served => ⟨⟨_, rfl, ?_⟩, ⟨_, rfl, ?_⟩⟩, fun s served => ⟨⟨_, rfl, ?_⟩, ⟨_, rfl, ?_⟩⟩⟩
  · rw [cfgGate_ok _ served, masterEnable_vf s hp]
    exact vfReview s p fun g => { g with bme := on }
  · rw [cfgGate_ok _ served, masterEnable_pf]
    refine ⟨?_, fun p => pfReview_plt .., fun fetching off => ?_, fun idle => ?_⟩
    · rw [(pfReview_steady s _ 0).1, State.modFn_self]
    · rw [pfReview_cfg]
      refine reviewLoad_fails fetching ?_
      simp only [State.permitted]
      rw [State.modFn_self, off]
      rfl
    · rw [pfReview_cfg, reviewLoad_idle (by exact idle)]
      rfl
  · rw [cfgGate_ok _ served, vfPower_eq s hp]
    obtain ⟨-, d3, -, state⟩ := vfReview s p fun g => { g with d3 := true }
    refine ⟨d3, ?_⟩
    rw [state, not_vfReady_of_d3 (.inl (by rw [State.modFn_self])), Bool.and_false]
  · rw [cfgGate_ok _ served, vfPower_eq s hp]
    obtain ⟨-, d3, -, state⟩ := vfReview s p fun g => { g with d3 := false }
    exact ⟨d3, state⟩
  · rw [cfgGate_ok _ served]
    obtain ⟨d3, states⟩ := pfPower_states s true
    have held : (s.modFn 0 fun g => { g with d3 := true }).fns[(0 : Fn)].d3 = true := by rw [State.modFn_self]
    refine ⟨d3, fun fetching => ?_, fun p hp => ?_⟩
    · rw [pfPower_cfg, pfReview_cfg]
      refine reviewLoad_fails fetching ?_
      simp only [State.permitted]
      rw [held]
      exact Bool.and_false _
    · rw [states p hp, not_vfReady_of_d3 (.inr held), Bool.and_false]
  · rw [cfgGate_ok _ served]
    exact pfPower_states s false

end Sys2Proof.Machine
end

section
/-!
PROOFS about LOAD, ABORT and ARM (R80 to R82, Table 3-13) and about fuse operations (R78, R79).
-/
namespace Sys2Proof.Machine

/-! ### Loads that are given up -/

/-- A load that fails is gone with its code, whatever of the load's own registers was written just before. -/
theorem failLoad_dropped {s u : State} (code : BitVec 8) (plots : u.plots = s.plots)
    (cfg : u.cfg = { s.cfg with
      arm := u.cfg.arm, load := u.cfg.load, kind := u.cfg.kind, file := u.cfg.file, bundle := u.cfg.bundle,
      waitMap := u.cfg.waitMap, waited := u.cfg.waited, precheckFail := u.cfg.precheckFail, capAddr := u.cfg.capAddr,
      capLen := u.cfg.capLen, err := u.cfg.err, last := u.cfg.last, commitErr := u.cfg.commitErr, refuseCnt := u.cfg.refuseCnt }) :
    droppedWith s (failLoad u code) := by
  refine ⟨?_, failLoad_staging u code, fun q => ?_⟩
  · rw [failLoad_cfg, cfg]
  · rw [failLoad_plot, plot_of_plots_eq plots]
    exact ⟨rfl, rfl, rfl, rfl⟩

/-- A further write of ARM. -/
theorem droppedWith.setArm {s t : State} (h : droppedWith s t) (arm : Bool) : droppedWith s (setArm t arm) := by
  obtain ⟨cfg, staging, plots⟩ := h
  refine ⟨?_, staging, plots⟩
  have idle : t.cfg.load = .idle := by rw [cfg]
  unfold Machine.setArm State.modCfg
  dsimp only
  rw [idle, if_neg (by simp), if_neg (by simp), cfg]

/-- ARM is written, and nothing else where nothing waits. -/
theorem setArm_plain {s : State} {arm : Bool} (h : s.cfg.load ≠ .waiting ∨ arm = true) :
    setArm s arm = { s with cfg := { s.cfg with arm := arm } } := by
  have no : ¬ (s.cfg.load = .waiting ∧ (!arm) = true) := by
    rintro ⟨waits, off⟩
    rcases h with h | h
    · exact h waits
    · simp [h] at off
  unfold setArm State.modCfg
  dsimp only
  rw [if_neg no, if_neg no]

theorem setArm_waiting {s : State} (h : s.cfg.load = .waiting) :
    setArm s false = { s with cfg := { s.cfg with arm := false, load := .staged, waited := 0 } } := by
  unfold setArm State.modCfg
  dsimp only
  rw [if_pos ⟨h, rfl⟩, if_pos ⟨h, rfl⟩]

theorem abortBundle_idle {s : State} (h : s.cfg.load = .idle) : abortBundle s = s := if_pos h

theorem abortBundle_busy {s : State} (h : s.cfg.load ≠ .idle) : abortBundle s = failLoad s 0x0F := if_neg h

/-! ### LOAD (R80, R81) -/

/-- A line written after a load is gone. -/
theorem droppedWith.logLine {s t : State} (h : droppedWith s t) (code plot : Nat) (node : Option NodeId) (a b : Nat) :
    droppedWith s (t.logLine code plot node a b) := by
  have kept : Keeps 134218800 (fun _ => false) t (t.logLine code plot node a b) :=
    State.logLine_keeps (Keeps.refl t) _ _ _ _ _ (Covers.refl _)
  obtain ⟨cfg, staging, plots⟩ := h
  refine ⟨?_, ?_, fun q => ?_⟩
  · rw [kept.cfg_eq]
    exact cfg
  · rw [kept.msh_eq]
    exact staging
  · rw [plot_of_plots_eq kept.plots_eq]
    exact plots q

section
variable {s : State} {arm abort : Bool}

theorem heldState_free (open_ : s.inSteps14 = false ∨ s.cfg.joined = none) (h : abort = false ∨ s.cfg.load = .idle) :
    heldState s abort = none := by
  unfold heldState
  rcases open_ with shut | unjoined
  · rw [shut]
    rfl
  · rw [unjoined]
    have no : (abort && s.cfg.load != .idle) = false := by
      rcases h with h | h <;> simp [h]
    rw [no]
    exact ite_self _

theorem heldState_joined {n : Nat} (inside : s.inSteps14 = true) (joined : s.cfg.joined = some n) : heldState s abort = some n := by
  unfold heldState
  rw [inside, joined]
  rfl

theorem heldState_aborted (inside : s.inSteps14 = true) (unjoined : s.cfg.joined = none) (busy : s.cfg.load ≠ .idle) :
    heldState s true = some s.cfg.load.num := by
  unfold heldState
  rw [inside, unjoined]
  simp [busy]

/-- LOAD in IDLE outside the steps that a bundle joined, with or without ABORT. -/
theorem cfgCtlWrite_load_idle (idle : s.cfg.load = .idle) (open_ : s.inSteps14 = false ∨ s.cfg.joined = none) :
    cfgCtlWrite s true abort arm = startLoad { s with cfg := { s.cfg with arm := arm } } := by
  have kept : (if abort = true then abortBundle s else s) = s := by rw [abortBundle_idle idle, ite_self]
  unfold cfgCtlWrite
  dsimp only
  rw [heldState_free open_ (.inr idle), kept, setArm_plain (.inl (by simp [idle]))]
  simp only [Bool.not_true, Bool.false_eq_true, if_false]

theorem startLoad_idle (idle : s.cfg.load = .idle) : startLoad s =
    let u := { s with cfg := { s.cfg with capAddr := s.cfg.srcAddr, capLen := s.cfg.srcLen.toNat, precheckFail := false } }
    if s.cfg.srcLen.toNat % 64 ≠ 0 ∨ s.cfg.srcLen.toNat < 512 ∨ 2 ^ 24 < s.cfg.srcLen.toNat then failLoad u 0x02
    else match reservePages (usedPages s.msh) (ceilDiv s.cfg.srcLen.toNat 65536) 0 with
      | none => failLoad u 0x0E
      | some ps =>
        let v := { u with msh := { s.msh with staging := ps }, cfg := { u.cfg with load := .fetching } }
        if s.permitted 0 then v.hostRead 0 .bitstream s.cfg.srcAddr.toNat s.cfg.srcLen.toNat else failLoad v 0x01 := by
  unfold startLoad
  rw [if_neg (fun h => h idle)]
  rfl

end

/-- The 64 KiB pages of a length. -/
theorem ceilDiv_page (n : Nat) : ceilDiv n 65536 = (n + 65535) / 65536 := by
  rw [ceilDiv, Nat.add_sub_assoc (by decide)]

/-- A LOAD that is ignored writes ARM and a line. -/
theorem loadIgnored_line {s u : State} {arm : Bool} (h : u = { s with cfg := { s.cfg with arm := arm }, resp := {} }) (n : Nat) :
    (u.logLine 0x20 noPlot none n 0).cfg = { s.cfg with arm := arm } ∧ (u.logLine 0x20 noPlot none n 0).msh = s.msh ∧
      loadIgnored s n (u.logLine 0x20 noPlot none n 0) := by
  have kept : Keeps 134218800 (fun _ => false) u (u.logLine 0x20 noPlot none n 0) :=
    State.logLine_keeps (Keeps.refl u) _ _ _ _ _ (Covers.refl _)
  refine ⟨?_, ?_, ?_⟩
  · rw [kept.cfg_eq, h]
  · rw [kept.msh_eq, h]
  · rw [loadIgnored, State.logLine_head, h]
    rfl

/-- A load that fails at its start is gone with its code, and shows it. -/
theorem startLoad_failed {s u : State} (code : BitVec 8) (plots : u.plots = s.plots)
    (cfg : u.cfg = { s.cfg with
      arm := u.cfg.arm, load := u.cfg.load, kind := u.cfg.kind, file := u.cfg.file, bundle := u.cfg.bundle,
      waitMap := u.cfg.waitMap, waited := u.cfg.waited, precheckFail := u.cfg.precheckFail, capAddr := u.cfg.capAddr,
      capLen := u.cfg.capLen, err := u.cfg.err, last := u.cfg.last, commitErr := u.cfg.commitErr, refuseCnt := u.cfg.refuseCnt }) :
    droppedWith s (failLoad u code) ∧ (failLoad u code).cfg.err = code ∧ (failLoad u code).cfg.last = 2 ∧
      (failLoad u code).pf.irqStatus.getLsbD 3 = true := by
  refine ⟨failLoad_dropped code plots cfg, ?_, ?_, failLoad_irq u code⟩
  · rw [failLoad_cfg]
  · rw [failLoad_cfg]

theorem loadsStartFromIdle_holds : loadsStartFromIdle := by
  intro s arm served
  refine ⟨fun busy waits open_ => ⟨_, rfl, ?_⟩, fun abort n idle inside joined => ⟨_, rfl, ?_⟩,
    fun busy inside unjoined => ⟨_, rfl, ?_⟩, fun abort idle open_ bad => ⟨_, rfl, ?_⟩,
    fun abort idle open_ whole low high => ⟨fun full => ⟨_, rfl, ?_⟩, fun ps room => ⟨fun stuck => ⟨_, rfl, ?_⟩, fun may => ⟨_, rfl, ?_⟩⟩⟩⟩
  all_goals rw [hostGate_ok _ served]
  · have ran : cfgCtlWrite { s with resp := {} } true false arm =
        State.logLine { s with cfg := { s.cfg with arm := arm }, resp := {} } 0x20 noPlot none s.cfg.load.num 0 := by
      unfold cfgCtlWrite
      dsimp only
      rw [heldState_free (s := { s with resp := {} }) open_ (.inl rfl), if_neg Bool.false_ne_true,
        setArm_plain (s := { s with resp := {} }) waits]
      exact if_pos busy
    rw [ran]
    exact loadIgnored_line rfl _
  · have ran : cfgCtlWrite { s with resp := {} } true abort arm =
        State.logLine { s with cfg := { s.cfg with arm := arm }, resp := {} } 0x20 noPlot none n 0 := by
      unfold cfgCtlWrite
      dsimp only
      rw [heldState_joined (s := { s with resp := {} }) inside joined, abortBundle_idle (s := { s with resp := {} }) idle, ite_self,
        setArm_plain (s := { s with resp := {} }) (.inl (by rw [idle]; decide))]
      rfl
    rw [ran]
    exact loadIgnored_line rfl _
  · have ran : cfgCtlWrite { s with resp := {} } true true arm =
        (setArm (failLoad { s with resp := {} } 0x0F) arm).logLine 0x20 noPlot none s.cfg.load.num 0 := by
      unfold cfgCtlWrite
      dsimp only
      rw [heldState_aborted (s := { s with resp := {} }) inside unjoined busy, if_pos rfl, abortBundle_busy (s := { s with resp := {} }) busy]
      rfl
    have dropped : droppedWith s (failLoad { s with resp := {} } 0x0F) := failLoad_dropped _ rfl rfl
    have err : (setArm (failLoad { s with resp := {} } 0x0F) arm).cfg.err = 0x0F := by
      unfold setArm State.modCfg
      dsimp only
      rw [failLoad_cfg]
    rw [ran]
    generalize failLoad { s with resp := {} } 0x0F = d at dropped err ⊢
    have kept : Keeps 134218800 (fun _ => false) (setArm d arm) ((setArm d arm).logLine 0x20 noPlot none s.cfg.load.num 0) :=
      State.logLine_keeps (Keeps.refl _) _ _ _ _ _ (Covers.refl _)
    refine ⟨droppedWith.logLine (droppedWith.setArm dropped arm) .., ?_, ?_⟩
    · rw [kept.cfg_eq, err]
    · rw [State.logLine_head]
      rfl
  all_goals rw [cfgCtlWrite_load_idle (s := { s with resp := {} }) idle open_, startLoad_idle (by exact idle), ceilDiv_page]; dsimp only
  · rw [if_pos bad]
    exact startLoad_failed 0x02 rfl rfl
  all_goals rw [if_neg (by omega)]
  · rw [full]
    obtain ⟨dropped, err, last, -⟩ := startLoad_failed (s := s) (u := { s with
      cfg := { s.cfg with arm := arm, capAddr := s.cfg.srcAddr, capLen := s.cfg.srcLen.toNat, precheckFail := false }, resp := {} }) 0x0E rfl rfl
    exact ⟨dropped, err, last⟩
  · rw [room]
    dsimp only
    rw [if_neg (by exact ne_true_of_eq_false stuck)]
    obtain ⟨dropped, err, last, -⟩ := startLoad_failed (s := s) (u := { s with
      msh := { s.msh with staging := ps },
      cfg := { s.cfg with
        arm := arm, load := .fetching, capAddr := s.cfg.srcAddr, capLen := s.cfg.srcLen.toNat, precheckFail := false },
      resp := {} }) 0x01 rfl rfl
    exact ⟨dropped, err, last⟩
  · rw [room]
    dsimp only
    rw [if_pos (by exact may)]
    exact ⟨rfl, rfl, rfl⟩

theorem cfgCtlWrite_noLoad (s : State) (abort arm : Bool) :
    cfgCtlWrite s false abort arm = setArm (if abort then abortBundle s else s) arm := rfl

theorem abortAndArm_holds : abortAndArm := by
  intro s arm served
  refine ⟨fun busy => ⟨_, rfl, ?_⟩, fun idle => ⟨_, rfl, ?_⟩, fun plain => ⟨_, rfl, ?_⟩, fun waiting => ⟨_, rfl, ?_⟩⟩
  all_goals rw [hostGate_ok _ served, cfgCtlWrite_noLoad]
  · rw [if_pos rfl, abortBundle_busy (s := { s with resp := {} }) busy]
    have dropped : droppedWith s (failLoad { s with resp := {} } 0x0F) := failLoad_dropped _ rfl rfl
    refine ⟨droppedWith.setArm dropped arm, rfl, ?_, ?_, failLoad_line { s with resp := {} } 0x0F⟩
    · change (failLoad { s with resp := {} } 0x0F).cfg.err = _
      rw [failLoad_cfg]
    · change (failLoad { s with resp := {} } 0x0F).cfg.last = _
      rw [failLoad_cfg]
  · rw [if_pos rfl, abortBundle_idle (s := { s with resp := {} }) idle,
      setArm_plain (s := { s with resp := {} }) (.inl (by rw [idle]; decide))]
  · rw [if_neg Bool.false_ne_true, setArm_plain (s := { s with resp := {} }) plain]
  · rw [if_neg Bool.false_ne_true, setArm_waiting (s := { s with resp := {} }) waiting]

/-- Settles O29: LOAD is ignored, fails or fetches as its state and length have it; ABORT gives a load up; ARM is the bit written. -/
theorem loadsStartAndStop : Obligations.LoadsStartAndStop := ⟨loadsStartFromIdle_holds, abortAndArm_holds⟩

end Sys2Proof.Machine
end


section

/-! PROOFS about fuse operations (R78, R79, Tables 3-11 and 3-12). -/

namespace Sys2Proof.Machine

open Sys2Proof

theorem fuseGate_wrongKey {s : State} {key : Byte} (wrong : key ≠ 0xA5) (k : State → State) :
    fuseGate s key k = fuseRefuse s 1 := if_pos wrong

theorem fuseGate_busy {s : State} (busy : s.cfg.fuseBusy ≠ none) (k : State → State) :
    fuseGate s 0xA5 k = fuseRefuse s 6 := by
  rw [fuseGate, if_neg (by decide), if_pos (Option.isSome_iff_ne_none.mpr busy)]

theorem fuseGate_free {s : State} (free : s.cfg.fuseBusy = none) (k : State → State) :
    fuseGate s 0xA5 k = k s := by
  simp [fuseGate, free]

/-- What the gate of the host leaves of a fuse operation: its effect on the state with no answer yet. -/
theorem gives_fuseProgram {s u : State} {key : Byte} {slot : Fin 4} (served : s.hostOk 0 = true)
    (effect : fuseProgram { s with resp := {} } key slot = u) : Gives (.fuseProgram key slot) s (· = u) :=
  ⟨_, rfl, by rw [hostGate_ok _ served, effect]⟩

theorem gives_fuseRevoke {s u : State} {key : Byte} {slot : Fin 4} (served : s.hostOk 0 = true)
    (effect : fuseRevoke { s with resp := {} } key slot = u) : Gives (.fuseRevoke key slot) s (· = u) :=
  ⟨_, rfl, by rw [hostGate_ok _ served, effect]⟩

theorem gives_fuseLock {s u : State} {key : Byte} (served : s.hostOk 0 = true)
    (effect : fuseLock { s with resp := {} } key = u) : Gives (.fuseLock key) s (· = u) :=
  ⟨_, rfl, by rw [hostGate_ok _ served, effect]⟩

theorem fuseOperationsAreChecked_holds : fuseOperationsAreChecked := by
  intro s key slot served
  refine ⟨fun wrong => ⟨?_, ?_, ?_⟩, fun busy => ⟨?_, ?_, ?_⟩, fun free => ⟨?_, ?_, ?_, ?_, ?_, ?_, ?_, ?_⟩⟩
  · exact gives_fuseProgram served (fuseGate_wrongKey wrong _)
  · exact gives_fuseRevoke served (fuseGate_wrongKey wrong _)
  · exact gives_fuseLock served (fuseGate_wrongKey wrong _)
  · exact gives_fuseProgram served (fuseGate_busy (s := { s with resp := {} }) busy _)
  · exact gives_fuseRevoke served (fuseGate_busy (s := { s with resp := {} }) busy _)
  · exact gives_fuseLock served (fuseGate_busy (s := { s with resp := {} }) busy _)
  · intro locked
    refine gives_fuseProgram served ?_
    rw [fuseProgram, fuseGate_free (s := { s with resp := {} }) free, if_pos (by exact locked)]
    rfl
  · intro unlocked written
    refine gives_fuseProgram served ?_
    rw [fuseProgram, fuseGate_free (s := { s with resp := {} }) free, if_neg (by simp [unlocked]), if_pos (by exact written)]
    rfl
  · intro unlocked blank owned closed
    refine gives_fuseProgram served ?_
    rw [fuseProgram, fuseGate_free (s := { s with resp := {} }) free, if_neg (by simp [unlocked]),
      if_neg (by rw [Bool.not_eq_true]; exact blank), if_pos (by simpa using ⟨owned, closed⟩)]
    rfl
  · intro unlocked blank admitted
    refine gives_fuseProgram served ?_
    rw [fuseProgram, fuseGate_free (s := { s with resp := {} }) free, if_neg (by simp [unlocked]),
      if_neg (by rw [Bool.not_eq_true]; exact blank), if_neg (by rcases admitted with h | h <;> simp [h])]
    rfl
  · intro closed
    refine gives_fuseRevoke served ?_
    rw [fuseRevoke, fuseGate_free (s := { s with resp := {} }) free, if_pos (by simpa using closed)]
    rfl
  · intro admitted other
    have open_ : ¬ ((!s.cfg.content.revokeAdmit || (s.cfg.loaded && s.cfg.slot.toNat == slot.val)) = true) := by
      simpa [admitted] using other
    refine ⟨fun alone => gives_fuseRevoke served ?_, fun another => gives_fuseRevoke served ?_⟩
    · rw [fuseRevoke, fuseGate_free (s := { s with resp := {} }) free, if_neg (by exact open_),
        if_pos (by simpa using alone)]
      rfl
    · rw [fuseRevoke, fuseGate_free (s := { s with resp := {} }) free, if_neg (by exact open_),
        if_neg (by simpa using another)]
      rfl
  · intro unowned
    refine gives_fuseLock served ?_
    rw [fuseLock, fuseGate_free (s := { s with resp := {} }) free, if_pos (by simp [unowned])]
    rfl
  · intro owned
    refine gives_fuseLock served ?_
    rw [fuseLock, fuseGate_free (s := { s with resp := {} }) free, if_neg (by simp [owned])]
    rfl

theorem fuseOperationsEnd_holds : fuseOperationsEnd := by
  intro s
  refine ⟨fun slot h busy => ⟨_, rfl, ?_⟩, fun slot busy => ⟨_, rfl, ?_⟩, fun busy => ⟨_, rfl, ?_⟩⟩
  · rw [fuseDone, busy]
    exact ⟨Vector.getElem_set_self _, fun i other => Vector.getElem_set_ne slot.isLt i.isLt (fun e => other (Fin.ext e.symm)), rfl, rfl⟩
  · rw [fuseDone, busy]
    exact ⟨Vector.getElem_set_self _, fun i other => Vector.getElem_set_ne slot.isLt i.isLt (fun e => other (Fin.ext e.symm)), rfl, rfl⟩
  · rw [fuseDone, busy]
    rfl

/-- Settles O31: key and BUSY come first, then each operation's own checks in the order of Table 3-12; an operation that ends
sets one entry of the slots, or the lock. -/
theorem fuseOperations : Obligations.FuseOperations :=
  ⟨fuseOperationsAreChecked_holds, fuseOperationsEnd_holds⟩

end Sys2Proof.Machine

end


section

/-!
PROOFS about overruns, faults and the end of abandonment (R28, R30, R56 to R58, R67): each says what happens to the live job
of the index, and that other jobs and other plots stay.
-/

namespace Sys2Proof.Machine

open Sys2Proof

/-! ### What messages leave -/

theorem Sent.plots {s t : State} (h : Sent s t) : t.plots = s.plots := (congrArg State.plots h.rest).trans rfl

theorem Sent.frm {s t : State} (h : Sent s t) : t.frm = s.frm := (congrArg State.frm h.rest).trans rfl

theorem Sent.boot {s t : State} (h : Sent s t) : t.boot = s.boot := (congrArg State.boot h.rest).trans rfl

theorem Sent.pf {s t : State} (h : Sent s t) : t.pf = s.pf := (congrArg State.pf h.rest).trans rfl

/-! ### Faults -/

/-- A change of a live job that leaves its index leaves the jobs of every other index. -/
theorem State.mem_modJob_other {s : State} {q : PlotId} {i : BitVec 16} {f : Job → Job} {k : Job}
    (idx : ∀ j : Job, (f j).idx = j.idx) (other : k.idx ≠ i) :
    k ∈ ((s.modJob q i f).plot q).plt.jobs ↔ k ∈ (s.plot q).plt.jobs := by
  rw [State.modJob_jobs, List.mem_map]
  constructor
  · rintro ⟨j, mem, rfl⟩
    split at other
    · rename_i hit
      exact absurd (by simpa using (And.left (by simpa using hit : j.idx = i ∧ _))) (idx j ▸ other)
    · rename_i miss
      rw [if_neg miss]
      exact mem
  · intro mem
    exact ⟨k, mem, if_neg (by simp [other])⟩

theorem beginAbandon_mem_other {s : State} {q : PlotId} {j k : Job} (c : Code) (node : Option NodeId) (other : k.idx ≠ j.idx) :
    k ∈ ((beginAbandon s q j c node).plot q).plt.jobs ↔ k ∈ (s.plot q).plt.jobs := by
  have marked := State.mem_modJob_other (s := s) (q := q) (f := Job.abandoned c node s.boot.tclk) (fun _ => rfl) other
  rw [← clearJobEngines_plt _ q j.idx] at marked
  unfold beginAbandon
  split
  · exact marked
  · rw [State.logLine_plot]
    exact marked

theorem chargeFault_other (s : State) {p q : PlotId} (i : BitVec 16) (c : Code) (node : Option NodeId) (other : p ≠ q) :
    (chargeFault s q i c node).plot p = s.plot p :=
  (chargeFault_keeps (P := fun p => p == q) q i c node (Keeps.refl s) (Covers.refl _) (beq_self_eq_true q)).plot_other (by simpa using other)

/-- Settles O37: `chargeFault` abandons a job that runs, raises the code of one whose fault is of the same cycle, and else does
nothing. -/
theorem faultsAbandonTheirJob : Obligations.FaultsAbandonTheirJob := by
  intro s q c node j
  refine ⟨fun running => ⟨?_, fun p other => chargeFault_other s j.idx c node other, fun k other => ?_⟩,
    fun found => ⟨fun going marked => ?_, fun gone later => ?_, fun gone now higher => ⟨?_, ?_, fun p other => chargeFault_other s j.idx c node other⟩⟩⟩
  · rw [chargeFault_of_runs c node running]
    exact beginAbandon_faulted c node running.1
  · rw [chargeFault_of_runs c node running]
    exact beginAbandon_mem_other c node other
  · simp only [chargeFault, found]
    rw [if_neg (by simpa using going), if_pos (by simpa using marked)]
  · simp only [chargeFault, found]
    rw [if_pos (by simp [gone]), if_neg (by
      rcases later with late | low
      · simp [late]
      · simp [Nat.not_lt.mpr low])]
  · have raised : chargeFault s q j.idx c node = raiseFault s q j c node := by
      simp only [chargeFault, found]
      rw [if_pos (by simp [gone]), if_pos (by simp [now, higher])]
    rw [raised]
    exact State.modJob_job? found fun k live => ⟨rfl, live⟩
  · exact (chargeFault_keeps (P := fun _ => true) q j.idx c node (Keeps.refl s) (Covers.refl _) rfl).mem_eq

/-! ### Overruns -/

/-- The first overrun of a job, before its cause and its event. -/
def overrunNoted (s : State) (q : PlotId) (j : Job) : State :=
  ((s.modJob q j.idx fun j => { j with budget := true, deadline := false }).modFrm
    fun f => { f with plotOvr := f.plotOvr.set q (satInc f.plotOvr[q]) }).modPlt q
      fun p => { p with ovrFrame := p.ovrFrame + 1, ovrBudget := p.ovrBudget || true, ovrDeadline := p.ovrDeadline || false }

theorem recordOverrun_first {s : State} {q : PlotId} {j : Job} (budget : j.budget = false) (deadline : j.deadline = false)
    (phase : j.phase = .running) : recordOverrun s q j true = ((overrunNoted s q j).raisePlot q 0x4).frmEvent 0 := by
  rw [recordOverrun, if_neg (by simp [budget, deadline, phase])]
  rfl

/-- An event that has no line of the tick's is a bit and a cause of the PF. -/
theorem State.frmEvent_quiet (s : State) (b : Fin 9) (quiet : ¬ (b.val = 4 ∨ b.val = 7 ∨ b.val = 2)) :
    (s.frmEvent b).plots = s.plots ∧ (s.frmEvent b).boot = s.boot ∧
    (s.frmEvent b).frm = { s.frm with event := setBit s.frm.event b.val true, eventFrame := setBit s.frm.eventFrame b.val true } ∧
    (s.frmEvent b).pf.irqStatus = setBit s.pf.irqStatus 1 true := by
  unfold State.frmEvent
  extract_lets noted raised
  rw [if_neg quiet]
  have sent : Sent (causeRisen noted 1) raised := noted.raisePf_sent 1
  exact ⟨sent.plots, sent.boot, sent.frm, congrArg (·.irqStatus) sent.pf⟩

theorem recordOverrun_marks {s : State} {q : PlotId} {j : Job} (found : (s.plot q).plt.job? j.idx = some j)
    (phase : j.phase = .running) (budget : j.budget = false) (deadline : j.deadline = false) :
    let t := recordOverrun s q j true
    (t.plot q).plt.job? j.idx = some { j with budget := true } ∧
      t.frm.plotOvr = s.frm.plotOvr.set q (satInc s.frm.plotOvr[q]) ∧ t.frm.event = s.frm.event ||| 0x1 ∧
      (t.plot q).plt.irqStatus = (s.plot q).plt.irqStatus ||| 0x4 ∧ t.pf.irqStatus = s.pf.irqStatus ||| 0x2 := by
  intro t
  dsimp only [t]
  rw [recordOverrun_first budget deadline phase]
  obtain ⟨plots, -, frm, pf⟩ := ((overrunNoted s q j).raisePlot q 0x4).frmEvent_quiet 0 (by decide)
  have sent := (overrunNoted s q j).raisePlot_sent q 0x4
  have plt : ((overrunNoted s q j).plot q).plt.job? j.idx = some { j with budget := true } ∧
      ((overrunNoted s q j).plot q).plt.irqStatus = (s.plot q).plt.irqStatus := by
    unfold overrunNoted
    rw [State.modPlt_self]
    refine ⟨?_, ?_⟩
    · have marked := State.modJob_job? found (f := fun j => { j with budget := true, deadline := false }) fun k live => ⟨rfl, live⟩
      exact marked.trans (by simp [deadline])
    · change ((s.modJob q j.idx _).plot q).plt.irqStatus = _
      rw [State.modJob, State.modPlt_self]
  rw [plot_of_plots_eq plots, frm, pf, State.raisePlot_self]
  refine ⟨plt.1, ?_, ?_, congrArg (· ||| 0x4) plt.2, ?_⟩
  · rw [sent.frm]
    rfl
  · rw [sent.frm]
    rfl
  · rw [sent.pf]
    rfl

/-- No call that is dropped is left. -/
theorem HccCluster.drop_call (h : HccCluster) (p : HelperCall → Bool) {c : HelperCall} (left : (h.drop p).call = some c) : p c = false := by
  unfold HccCluster.drop at left
  split at left
  next d call =>
    split at left
    · contradiction
    · rename_i stays
      obtain rfl : d = c := by simpa [call] using left
      simpa using stays
  next none_ => rw [none_] at left; contradiction

theorem QceEngine.drop_call (e : QceEngine) (p : QceCall → Bool) {c : QceCall} (left : (e.drop p).call = some c) : p c = false := by
  unfold QceEngine.drop at left
  split at left
  next d call =>
    split at left
    · contradiction
    · rename_i stays
      obtain rfl : d = c := by simpa [call] using left
      simpa using stays
  next none_ => rw [none_] at left; contradiction

/-- A program that stops has no operation and no call left, and its parts are parked on every lane. -/
theorem stopProgram_stops (s : State) (q : PlotId) (i : BitVec 16) :
    let t := stopProgram s q i
    (∀ m : Fin 16, MxeRun.of t.mxes[m].run q i = false) ∧
      (∀ h : Fin 16, ∀ c, t.hccs[h].call = some c → c.plot = q → c.idx ≠ i) ∧
      (∀ n : Fin 4, ∀ c, t.qces[n].call = some c → c.plot = q → c.idx ≠ i) ∧
      (∀ l : Fin 8, (i, l) ∈ (t.plot q).fln.atClaim) ∧ (t.plot q).plt = (s.plot q).plt := by
  refine ⟨fun m => ?_, fun h c left ours same => ?_, fun n c left ours same => ?_, fun l => ?_, ?_⟩
  · simp only [stopProgram, Fin.getElem_fin, Vector.getElem_map]
    split
    · rfl
    · rename_i stays
      simpa using stays
  · simp only [stopProgram, Fin.getElem_fin, Vector.getElem_map] at left
    simpa [ours, same] using HccCluster.drop_call _ _ left
  · simp only [stopProgram, Fin.getElem_fin, Vector.getElem_map] at left
    simpa [ours, same] using QceEngine.drop_call _ _ left
  · have parked : ((stopProgram s q i).plot q).fln.atClaim = (s.plot q).fln.atClaim ++ (List.finRange 8).map (fun l => (i, l)) := by
      simp [stopProgram, State.plot, State.modPlot]
    rw [parked]
    exact List.mem_append_right _ (List.mem_map.mpr ⟨l, List.mem_finRange l, rfl⟩)
  · simp [stopProgram, State.plot, State.modPlot]

theorem budgetOverrunsMarkTheJob_holds : budgetOverrunsMarkTheJob := by
  intro s q j claim found named phase shut
  refine ⟨fun budget deadline => ⟨_, rfl, ?_⟩, fun marked => ⟨_, rfl, ?_⟩⟩
  · have goes : budgetOverrun s q j.idx claim = stopProgram (recordOverrun s q j true) q j.idx := by
      simp only [budgetOverrun, found]
      rw [if_neg (by simp [named, phase, budget, deadline, shut])]
    rw [goes]
    obtain ⟨job, ovr, event, irq, pf⟩ := recordOverrun_marks found phase budget deadline
    generalize recordOverrun s q j true = u at *
    obtain ⟨mxe, hcc, qce, parked, plt⟩ := stopProgram_stops u q j.idx
    refine ⟨?_, ?_, fun p other => ?_, ?_, event, pf, mxe, hcc, qce, parked⟩
    · rw [plt]
      exact job
    · change u.frm.plotOvr[q] = _
      rw [ovr]
      exact Vector.getElem_set_self _
    · change u.frm.plotOvr[p] = _
      rw [ovr]
      exact Vector.getElem_set_ne q.isLt p.isLt fun e => other (Fin.ext e.symm)
    · rw [plt]
      exact irq
  · simp only [budgetOverrun, found]
    rw [if_pos (by rcases marked with h | h <;> simp [h])]

/-! ### The end of abandonment -/

/-- A job that waits for its next attempt. -/
def Job.restarted (j : Job) : Job :=
  { j with phase := .waiting, code := .ok, node := none, faultAt := none, done := 0, budget := false, deadline := false }

theorem fetchLaneAux_plt (n : Nat) (s : State) (q : PlotId) (t : Fin 64) :
    ((fetchLaneAux n s q t).plot q).plt = (s.plot q).plt := by
  have lane (s : State) (f : TapeLane → TapeLane) (u : DmaUser) (a b : Nat) :
      (((s.modLane q t f).hostRead q u a b).plot q).plt = (s.plot q).plt := by
    change ((s.modPlot q fun p => { p with nse := _ }).plot q).plt = _
    rw [State.modPlot_self]
  induction n generalizing s with
  | zero => rfl
  | succ n ih =>
    unfold fetchLaneAux
    extract_lets c ns l at_
    split
    · rfl
    split
    · rw [ih, lane]
    split
    · rw [ih, lane]
    · rfl

theorem fetchLanes_plt (s : State) (q : PlotId) : ((fetchLanes s q).plot q).plt = (s.plot q).plt := by
  have steps (l : List (Fin 64)) : ∀ s : State, ((l.foldl (fun s t => fetchLane s q t) s).plot q).plt = (s.plot q).plt := by
    induction l with
    | nil => exact fun _ => rfl
    | cons t l ih => exact fun s => (ih _).trans (fetchLaneAux_plt 5 s q t)
  exact steps _ s

theorem resumeFetching_plt (s : State) (q : PlotId) (i : BitVec 16) : ((resumeFetching s q i).plot q).plt = (s.plot q).plt := by
  unfold resumeFetching
  split
  · rw [fetchLanes_plt]
    change ((s.modPlot q fun p => { p with nse := _ }).plot q).plt = _
    rw [State.modPlot_self]
  · rfl

theorem zeroClusters_plot (s : State) (d : PlotId × BitVec 16 → Bool) (q : PlotId) : (zeroClusters s d).plot q = s.plot q :=
  plot_of_plots_eq (zeroClusters_keeps (P := fun _ => false) d (Keeps.refl s) (Covers.refl _)).plots_eq q

/-- Jobs of which none is left live under the index. -/
theorem completeJobs_job? (p : PltSet) (i : BitVec 16) :
    PltSet.job? { p with jobs := completeJobs p.jobs fun k => k.idx == i && k.live } i = none := by
  refine List.find?_eq_none.mpr fun j mem => ?_
  rcases (completeJobs_spec p.jobs fun k => k.idx == i && k.live).1 j mem with done | no
  · simp [Job.live, done]
  · simpa using no

theorem abandonmentEndsInRestartOrCompletion_holds : abandonmentEndsInRestartOrCompletion := by
  intro s q j found gone code
  refine ⟨fun restartable attempts going => ⟨_, rfl, ?_⟩, fun final => ⟨_, rfl, ?_⟩⟩
  · have restarts : abandonmentDone s q j.idx =
        (zeroClusters s fun d => d.1 == q && d.2 == j.idx).modJob q j.idx Job.restarted := by
      simp only [abandonmentDone, found]
      rw [if_neg (by simp [gone, code]), if_pos (by simp [restartable, attempts, zeroClusters_plot, going])]
      rfl
    dsimp -zeta only
    rw [resumeFetching_plt, restarts]
    exact State.modJob_job? (by rw [zeroClusters_plot]; exact found)
      fun k live => ⟨rfl, by simp [Job.live, Job.restarted] at live ⊢; exact live.1⟩
  · have completes : abandonmentDone s q j.idx = (zeroClusters s fun d => d.1 == q && d.2 == j.idx).modPlt q
        fun p => { p with jobs := completeJobs p.jobs fun k => k.idx == j.idx && k.live } := by
      simp only [abandonmentDone, found]
      rw [if_neg (by simp [gone, code]), if_neg (by
        rw [zeroClusters_plot]
        rcases final with h | h | h
        · simp [h]
        · simp [Nat.not_le.mpr h]
        · simp [h])]
    have plt : ((resumeFetching (abandonmentDone s q j.idx) q j.idx).plot q).plt =
        { (s.plot q).plt with jobs := completeJobs (s.plot q).plt.jobs fun k => k.idx == j.idx && k.live } := by
      rw [resumeFetching_plt, completes, State.modPlt_self, zeroClusters_plot]
    dsimp -zeta only
    rw [plt]
    refine ⟨completeJobs_job? _ _, ?_, (completeJobs_spec ..).2.2⟩
    have hit : (j.idx == j.idx && j.live) = true := by simpa using List.find?_some found
    exact List.mem_append_right _ (List.mem_map.mpr ⟨j, List.mem_filter.mpr ⟨List.mem_of_find?_eq_some found, hit⟩, rfl⟩)

/-- Settles O36: an overrun marks the live job and then stops its program on every engine; the end of abandonment puts the job
back to wait, or behind those that completed. -/
theorem overrunsAndAbandonment : Obligations.OverrunsAndAbandonment :=
  ⟨budgetOverrunsMarkTheJob_holds, abandonmentEndsInRestartOrCompletion_holds⟩

end Sys2Proof.Machine

end


section

/-! PROOFS about PPS edges and FRM_CTL (R33, R35, Table 1-4). -/

namespace Sys2Proof.Machine

open Sys2Proof

/-! ### An edge that counts -/

/-- The TCLK cycles between the last edge and one at `t`. -/
def FrmState.ppsApart (f : FrmState) (t : Nat) : Nat := match f.ppsLast with | some l => t - l | none => 0

/-- Is an interval within 100 ppm of one second? -/
def isSecond (d : Nat) : Bool := decide (99990000 ≤ d) && decide (d ≤ 100010000)

/-- The edge at `t` is measured, before the tick source takes it. -/
def edgeMeasured (s : State) (t : Nat) : State :=
  (s.advanceTo t).modFrm fun f => { f with
    ppsLast := some t, ppsValid := isSecond (s.frm.ppsApart t),
    ppsRate := if isSecond (s.frm.ppsApart t) then BitVec.ofNat 27 (s.frm.ppsApart t) else f.ppsRate }

theorem ppsEdge_due {s : State} {wait : Nat} (ready : s.isReady = true) (on : s.frm.ppsEn = true) :
    ppsEdge s wait (!s.frm.ppsPol) =
      match s.frm.srcState with
      | .ppsAcq => ppsAcquire (edgeMeasured s (s.boot.tclk + wait))
      | .ppsLock | .ppsHold => ppsLockedEdge (edgeMeasured s (s.boot.tclk + wait)) (s.boot.tclk + wait)
          (isSecond (s.frm.ppsApart (s.boot.tclk + wait)))
      | _ => edgeMeasured s (s.boot.tclk + wait) := by
  have later : max s.boot.tclk (s.boot.tclk + wait) = s.boot.tclk + wait := Nat.max_eq_right (Nat.le_add_right _ _)
  unfold ppsEdge
  rw [if_neg (by simp [ready])]
  extract_lets u t d apart measured
  rw [if_neg (by simp [u, on])]
  have time : t = s.boot.tclk + wait := later
  clear_value t
  subst time
  rfl

theorem ppsEdge_opposite {s : State} {wait : Nat} (ready : s.isReady = true) :
    ppsEdge s wait s.frm.ppsPol = { s with boot := { s.boot with tclk := s.boot.tclk + wait } } := by
  unfold ppsEdge
  rw [if_neg (by simp [ready])]
  extract_lets u t d apart measured
  rw [if_pos (by simp [u])]
  dsimp only [u]
  rw [State.advanceTo, Nat.max_eq_right (Nat.le_add_right _ _)]

/-! ### What the tick source makes of it -/

/-- From `f` to `g` what an edge measured, and the time of it, stays. -/
structure SameEdge (s t : State) : Prop where
  tclk : t.boot.tclk = s.boot.tclk
  last : t.frm.ppsLast = s.frm.ppsLast
  valid : t.frm.ppsValid = s.frm.ppsValid
  rate : t.frm.ppsRate = s.frm.ppsRate

theorem ppsAcquire_frm (s : State) :
    (ppsAcquire s).boot = s.boot ∧ (ppsAcquire s).frm = { s.frm with acqEnd := (ppsAcquire s).frm.acqEnd } := by
  unfold ppsAcquire
  split
  · split
    · exact ⟨rfl, rfl⟩
    · exact ⟨rfl, rfl⟩
  · exact ⟨rfl, rfl⟩

theorem ppsAcquire_sameEdge (s : State) : SameEdge s (ppsAcquire s) := by
  obtain ⟨boot, frm⟩ := ppsAcquire_frm s
  exact ⟨by rw [boot], by rw [frm], by rw [frm], by rw [frm]⟩

theorem ppsLockedEdge_near {s : State} {t : Nat} (apart : Bool) (near : ppsNear s.frm t = true) :
    ppsLockedEdge s t apart = s.modFrm fun f => { f with
      srcState := .ppsLock, gov := if f.gov = .ppsHold then .ppsLock else f.gov, ppsOut4 := 0,
      ppsExpect := some (t + f.ppsRate.toNat), ppsPhase := ppsDiff f t } :=
  if_pos near

/-- An edge outside the window counts; the fourth that is a second from the one before acquires again. -/
theorem ppsLockedEdge_outside {s : State} {t : Nat} (apart : Bool) (outside : ppsNear s.frm t = false) :
    SameEdge s (ppsLockedEdge s t apart) ∧ (ppsLockedEdge s t apart).frm.ppsOut = satInc s.frm.ppsOut ∧
      (ppsLockedEdge s t apart).frm.event.getLsbD 6 = true ∧
      (ppsLockedEdge s t apart).frm.srcState = if apart = true ∧ 3 ≤ s.frm.ppsOut4 then .ppsAcq else s.frm.srcState := by
  unfold ppsLockedEdge
  rw [if_neg (by simp [outside])]
  extract_lets n counted
  obtain ⟨-, boot, frm, -⟩ := (s.modFrm fun f => { f with ppsOut := satInc f.ppsOut, ppsOut4 := n }).frmEvent_quiet 6 (by decide)
  have event : (setBit s.frm.event 6 true).getLsbD 6 = true := getLsbD_setBit_self _ (by decide)
  have edge : SameEdge s counted := ⟨by rw [boot]; rfl, by rw [frm]; rfl, by rw [frm]; rfl, by rw [frm]; rfl⟩
  have fourth : n < 4 ↔ ¬ (apart = true ∧ 3 ≤ s.frm.ppsOut4) := by
    dsimp only [n]
    rcases apart with _ | _
    · simp
    · simp; omega
  by_cases acquires : apart = true ∧ 3 ≤ s.frm.ppsOut4
  · rw [if_neg (by simpa [fourth] using acquires), if_pos acquires]
    obtain ⟨bootA, frmA⟩ := ppsAcquire_frm (counted.modFrm fun f => { f with
      srcState := .ppsAcq, ppsOut4 := 0, ppsExpect := none,
      gov := if f.gov = .ppsLock ∨ f.gov = .ppsHold then .ppsAcq else f.gov })
    refine ⟨⟨?_, ?_, ?_, ?_⟩, ?_, ?_, ?_⟩
    · rw [bootA]; exact edge.tclk
    · rw [frmA]; exact edge.last
    · rw [frmA]; exact edge.valid
    · rw [frmA]; exact edge.rate
    · rw [frmA]; exact congrArg (·.ppsOut) frm
    · rw [frmA]; exact (congrArg (fun f : FrmState => f.event.getLsbD 6) frm).trans event
    · rw [frmA]; rfl
  · rw [if_pos (fourth.mpr acquires), if_neg acquires]
    exact ⟨edge, congrArg (·.ppsOut) frm, (congrArg (fun f : FrmState => f.event.getLsbD 6) frm).trans event,
      congrArg (·.srcState) frm⟩

theorem ppsEdge_sameEdge {s : State} {wait : Nat} (ready : s.isReady = true) (on : s.frm.ppsEn = true) :
    SameEdge (edgeMeasured s (s.boot.tclk + wait)) (ppsEdge s wait (!s.frm.ppsPol)) := by
  have locked (apart : Bool) : SameEdge (edgeMeasured s (s.boot.tclk + wait))
      (ppsLockedEdge (edgeMeasured s (s.boot.tclk + wait)) (s.boot.tclk + wait) apart) := by
    rcases near : ppsNear (edgeMeasured s (s.boot.tclk + wait)).frm (s.boot.tclk + wait) with _ | _
    · exact (ppsLockedEdge_outside apart near).1
    · rw [ppsLockedEdge_near apart near]
      exact ⟨rfl, rfl, rfl, rfl⟩
  rw [ppsEdge_due ready on]
  split
  · exact ppsAcquire_sameEdge _
  · exact locked _
  · exact locked _
  · exact ⟨rfl, rfl, rfl, rfl⟩

theorem ppsEdge_locked {s : State} {wait : Nat} (ready : s.isReady = true) (on : s.frm.ppsEn = true)
    (locked : s.frm.srcState = .ppsLock ∨ s.frm.srcState = .ppsHold) :
    ppsEdge s wait (!s.frm.ppsPol) = ppsLockedEdge (edgeMeasured s (s.boot.tclk + wait)) (s.boot.tclk + wait)
      (isSecond (s.frm.ppsApart (s.boot.tclk + wait))) := by
  rw [ppsEdge_due ready on]
  rcases locked with h | h <;> rw [h]

theorem ppsNear_of_near {f : FrmState} {t e : Nat} (expected : f.ppsExpect = some e) (early : e ≤ t + 500) (late : t ≤ e + 500) :
    ppsNear f t = true := by
  have small : (t + 500 - e) % max f.ppsRate.toNat 1 ≤ 1000 := Nat.le_trans (Nat.mod_le _ _) (by omega)
  simp [ppsNear, expected, early, small]

theorem ppsNear_of_early {f : FrmState} {t e : Nat} (expected : f.ppsExpect = some e) (early : t + 500 < e) : ppsNear f t = false := by
  simp [ppsNear, expected, Nat.not_le.mpr early]

theorem ppsMissing_locked {s : State} {e : Nat} (ready : s.isReady = true) (on : s.frm.ppsEn = true)
    (locked : s.frm.srcState = .ppsLock ∨ s.frm.srcState = .ppsHold) (expected : s.frm.ppsExpect = some e) :
    ppsMissing s = ((s.advanceTo (e + 501)).modFrm fun f => { f with
        srcState := .ppsHold, gov := if f.gov = .ppsLock then .ppsHold else f.gov,
        ppsMiss := satInc f.ppsMiss, ppsExpect := some (e + f.ppsRate.toNat) }).frmEvent 5 := by
  unfold ppsMissing
  rw [if_neg (by simp [ready, on]), if_pos (by rcases locked with h | h <;> simp [h])]
  simp only [expected]

theorem ppsMissing_unlocked {s : State} {l : Nat} (ready : s.isReady = true) (on : s.frm.ppsEn = true)
    (notLocked : s.frm.srcState ≠ .ppsLock) (notHeld : s.frm.srcState ≠ .ppsHold) (last : s.frm.ppsLast = some l) :
    ppsMissing s = (s.advanceTo (l + 100010001)).modFrm fun f => { f with ppsValid := false } := by
  unfold ppsMissing
  rw [if_neg (by simp [ready, on]), if_neg (by simp [notLocked, notHeld])]
  simp only [last]

theorem ppsEdges_holds : ppsEdges := by
  intro s ready on
  refine ⟨fun wait => ⟨_, rfl, ?_⟩, fun wait => ⟨_, rfl, ppsEdge_opposite ready⟩, fun e locked expected => ⟨_, rfl, ?_⟩,
    fun l notLocked notHeld last => ⟨_, rfl, ?_⟩⟩
  · dsimp -zeta only
    intro d
    obtain ⟨tclk, last, valid, rate⟩ := ppsEdge_sameEdge (wait := wait) ready on
    have interval : d = s.frm.ppsApart (s.boot.tclk + wait) := rfl
    refine ⟨?_, last, valid, ?_, fun locked e expected => ⟨fun early late => ?_, fun early => ?_⟩⟩
    · rw [tclk]
      exact Nat.max_eq_right (Nat.le_add_right _ _)
    · rw [rate, valid, interval]
      change (if isSecond _ then BitVec.ofNat 27 _ else s.frm.ppsRate).toNat = if isSecond _ = true then _ else _
      split
      · rename_i second
        have bound : s.frm.ppsApart (s.boot.tclk + wait) ≤ 100010000 := by
          simp only [isSecond, Bool.and_eq_true, decide_eq_true_eq] at second
          exact second.2
        exact Nat.mod_eq_of_lt (by omega)
      · rfl
    · rw [ppsEdge_locked ready on locked, 
        ppsLockedEdge_near _ (ppsNear_of_near (f := (edgeMeasured s (s.boot.tclk + wait)).frm) expected early late)]
      exact ⟨rfl, rfl, rfl, rfl⟩
    · obtain ⟨-, out, event, src⟩ := ppsLockedEdge_outside (isSecond (s.frm.ppsApart (s.boot.tclk + wait)))
        (ppsNear_of_early (f := (edgeMeasured s (s.boot.tclk + wait)).frm) expected early)
      rw [← ppsEdge_locked ready on locked] at out event src
      refine ⟨out, event, ?_⟩
      rw [src, valid]
      rfl
  · rw [ppsMissing_locked ready on locked expected]
    obtain ⟨-, boot, frm, -⟩ := ((s.advanceTo (e + 501)).modFrm fun f => { f with
        srcState := .ppsHold, gov := if f.gov = .ppsLock then .ppsHold else f.gov,
        ppsMiss := satInc f.ppsMiss, ppsExpect := some (e + f.ppsRate.toNat) }).frmEvent_quiet 5 (by decide)
    rw [boot, frm]
    refine ⟨rfl, rfl, rfl, rfl, rfl, rfl, rfl, fun l last late => ?_⟩
    have passed : ¬ max s.boot.tclk (e + 501) ≤ l + 100010000 := Nat.not_le.mpr late
    change (s.frm.ppsValid && (match s.frm.ppsLast with | some l => decide (max s.boot.tclk (e + 501) ≤ l + 100010000) | none => false)) = false
    simp [last, passed]
  · exact (ppsMissing_unlocked ready on notLocked notHeld last).trans rfl

/-! ### FRM_CTL -/

theorem frameControl_holds : frameControl := by
  intro s v served
  refine ⟨_, rfl, ?_⟩
  dsimp -zeta only
  rw [hostGate_ok _ served]
  refine ⟨fun stays => ?_, fun was clears => ?_⟩
  · unfold frmCtl
    extract_lets before u
    rw [if_neg (by rcases stays with h | h <;> simp [before, h])]
    rfl
  · unfold frmCtl
    extract_lets before u
    rw [if_pos (by rw [clears]; simp [before, was])]
    refine ⟨rfl, rfl, rfl, rfl, fun early => ?_, rfl, rfl, rfl⟩
    change (if s.frm.acqEnd.isSome && decide (s.frm.tickAt + 100 * s.frm.framePeriod < s.boot.tclk) then some (s.boot.tclk + 1) else none) = none
    rw [if_neg (by simp [Nat.not_lt.mpr early])]

/-- Settles O34: an edge is measured and then taken by the source's state; FRM_CTL's bits are taken, and clearing PPS_EN ends
what depends on it. -/
theorem ppsEdgesAndFrameControl : Obligations.PpsEdgesAndFrameControl :=
  ⟨ppsEdges_holds, frameControl_holds⟩

end Sys2Proof.Machine

end


section

/-! PROOFS about multicasts (R106 to R108): one element of the retry table, or of the reservations, changes. -/

namespace Sys2Proof.Machine

open Sys2Proof

/-! ### The one element that meets a condition -/

section
variable {α : Type} {p : α → Bool} {x : α} {a b : List α}

theorem find?_middle (first : ∀ y ∈ a, p y = false) (hit : p x = true) : (a ++ x :: b).find? p = some x := by
  rw [List.find?_append, List.find?_eq_none.mpr fun y mem => by simp [first y mem], List.find?_cons_of_pos hit]
  rfl

theorem changeFirst_middle (f : α → α) (first : ∀ y ∈ a, p y = false) (hit : p x = true) :
    changeFirst p f (a ++ x :: b) = a ++ f x :: b := by
  induction a with
  | nil => exact if_pos hit
  | cons y a ih =>
    have miss : p y = false := first y (List.mem_cons_self ..)
    rw [List.cons_append, changeFirst, if_neg (by simp [miss]), ih fun z mem => first z (List.mem_cons_of_mem _ mem)]
    rfl

theorem dropFirst_middle (first : ∀ y ∈ a, p y = false) (hit : p x = true) : dropFirst p (a ++ x :: b) = a ++ b := by
  induction a with
  | nil => exact if_pos hit
  | cons y a ih =>
    have miss : p y = false := first y (List.mem_cons_self ..)
    rw [List.cons_append, dropFirst, if_neg (by simp [miss]), ih fun z mem => first z (List.mem_cons_of_mem _ mem)]
    rfl

end

/-! ### Retried multicasts (R107, R108) -/

theorem runningJob_of_runs {s : State} {q : PlotId} {j : Job} (running : runs s q j) : runningJob s q j.idx = some j := by
  obtain ⟨found, phase, budget, deadline⟩ := running
  simp [runningJob, found, phase, budget, deadline]

/-- What a fault is charged with does not depend on time or on registers of the mesh. -/
theorem faulted_of_eq {u s t : State} {q : PlotId} {j : Job} {c : Code} {node : Option NodeId} (h : faulted u q j c node t)
    (mem : u.mem = s.mem) (next : u.log.next = s.log.next) : faulted s q j c node t := by
  obtain ⟨job, same, line⟩ := h
  exact ⟨job, same.trans mem, by rw [← next]; exact line⟩

theorem launchMulticast_takes {s : State} {q : PlotId} {j : Job} {entry flits : Nat} {r : Route} {ts : List Nat}
    (running : runs s q j) (route : findRoute s.msh.routes q.val entry = some (r, ts)) :
    launchMulticast s q j.idx entry flits =
      if r.kind = 2 ∧ 1 ≤ flits ∧ flits ≤ 1024 ∧ (s.msh.retries.filter (fun x => x.src == mkNode r.src)).length < 16 then
        { s with
          msh := { s.msh with retries := s.msh.retries ++
            [{ src := mkNode r.src, plot := q, job := j.idx, entry := entry, flits := flits, at_ := s.boot.tclk,
               open_ := ts.map mkNode, refused := [] }] }
          out := s.out ++ [.mesh (mkNode r.src) (ts.map mkNode) 2 flits (entryTree r ts)] }
      else s := by
  simp only [launchMulticast, runningJob_of_runs running, route]
  rfl

section
variable {s : State} {r : Retry} {a b : List Retry}

theorem Retry.is_self (r : Retry) : r.is r.src r.plot r.entry = true := by simp [Retry.is]

theorem Retry.asks_of {r : Retry} {t : NodeId} (target : t ∈ r.open_) (unrefused : t ∉ r.refused) : r.asks t = true := by
  simp [Retry.asks, target, unrefused]

/-- An answer goes to the transfer it asks for, which leaves the table when no target is open. -/
theorem multicastAnswer_eq {t : NodeId} (ack : Bool) (table : s.msh.retries = a ++ r :: b)
    (others : ∀ x ∈ a ++ b, x.is r.src r.plot r.entry = false ∧ x.open_ ≠ []) (target : t ∈ r.open_) (unrefused : t ∉ r.refused) :
    multicastAnswer s r.src r.plot r.entry t ack =
      { s with
        msh := { s.msh with retries := a ++ ([r.answer t ack].filter (fun r => !r.open_.isEmpty)) ++ b }
        out := s.out ++ if ack then [.landed r.src t 2 r.flits] else [] } := by
  have first : ∀ y ∈ a, (y.is r.src r.plot r.entry && y.asks t) = false := fun y mem => by
    simp [(others y (List.mem_append_left _ mem)).1]
  have hit : (r.is r.src r.plot r.entry && r.asks t) = true := by simp [r.is_self, Retry.asks_of target unrefused]
  have keepA : a.filter (fun r => !r.open_.isEmpty) = a :=
    List.filter_eq_self.mpr fun y mem => by simp [(others y (List.mem_append_left _ mem)).2]
  have keepB : b.filter (fun r => !r.open_.isEmpty) = b :=
    List.filter_eq_self.mpr fun y mem => by simp [(others y (List.mem_append_right _ mem)).2]
  simp only [multicastAnswer, table, find?_middle first hit, changeFirst_middle _ first hit, State.modMesh]
  have change : (a ++ r.answer t ack :: b).filter (fun r => !r.open_.isEmpty) =
      a ++ ([r.answer t ack].filter (fun r => !r.open_.isEmpty)) ++ b := by
    rw [← List.singleton_append, List.filter_append, List.filter_append, keepA, keepB, List.append_assoc]
  rw [change]
  rcases ack with _ | _
  · simp
  · rfl

theorem multicastResend_eq {t : NodeId} (table : s.msh.retries = a ++ r :: b)
    (others : ∀ x ∈ a ++ b, x.is r.src r.plot r.entry = false) (refused : t ∈ r.refused) :
    ∃ links, (∀ e ts, findRoute s.msh.routes r.plot.val r.entry = some (e, ts) → links = entryTree e (r.open_.map (·.val))) ∧
      multicastResend s r.src r.plot r.entry t =
        ((s.modMesh fun m => { m with retries := a ++ { r with refused := [] } :: b }).modMsh r.plot
          fun m => { m with mcRetry := satInc m.mcRetry }).emit (.mesh r.src r.open_ 2 r.flits links) := by
  have first : ∀ y ∈ a, (y.is r.src r.plot r.entry && y.refused.contains t) = false := fun y mem => by
    simp [others y (List.mem_append_left _ mem)]
  have hit : (r.is r.src r.plot r.entry && r.refused.contains t) = true := by simp [r.is_self, refused]
  refine ⟨_, ?_, by
    simp only [multicastResend, table, find?_middle first hit, changeFirst_middle _ first hit, State.modMesh]
    rfl⟩
  intro e ts route
  rw [route]

theorem multicastExpire_eq (table : s.msh.retries = a ++ r :: b)
    (others : ∀ x ∈ a ++ b, x.is r.src r.plot r.entry = false) :
    multicastExpire s r.src r.plot r.entry =
      chargeFault ((s.advanceTo (r.at_ + 10000)).modMesh fun m => { m with mcFault := satInc m.mcFault, retries := a ++ b })
        r.plot r.job .multicast (some r.src) := by
  have first : ∀ y ∈ a, y.is r.src r.plot r.entry = false := fun y mem => others y (List.mem_append_left _ mem)
  simp only [multicastExpire, table, find?_middle first r.is_self]
  simp only [State.modMesh, State.advanceTo, table, dropFirst_middle first r.is_self]

end

theorem retriedMulticasts_holds : retriedMulticasts := by
  refine ⟨fun s q j entry flits r ts running route kind => ⟨fun some_ few room => ⟨_, rfl, ?_⟩, fun refused => ⟨_, rfl, ?_⟩⟩,
    fun s r a b table others => ⟨fun target isOpen unrefused => ⟨fun left => ⟨_, rfl, ?_⟩, fun last => ⟨_, rfl, ?_⟩, ⟨_, rfl, ?_⟩⟩,
      fun target refused => ⟨_, rfl, ?_⟩, fun j idx running => ⟨_, rfl, ?_⟩⟩⟩
  · rw [launchMulticast_takes running route, if_pos ⟨kind, some_, few, room⟩]
  · rw [launchMulticast_takes running route, if_neg (by rintro ⟨-, h1, h2, h3⟩; omega)]
  · rw [multicastAnswer_eq true table others isOpen unrefused]
    refine ⟨?_, rfl⟩
    rw [List.filter_cons_of_pos (by simpa [Retry.answer] using left)]
    simp [Retry.answer]
  · rw [multicastAnswer_eq true table others isOpen unrefused]
    refine ⟨?_, rfl⟩
    rw [List.filter_cons_of_neg (by simpa [Retry.answer] using last)]
    simp
  · rw [multicastAnswer_eq false table others isOpen unrefused]
    refine ⟨?_, by simp⟩
    rw [List.filter_cons_of_pos (by simpa [Retry.answer] using List.ne_nil_of_mem isOpen)]
    simp [Retry.answer]
  · obtain ⟨links, tree, resends⟩ := multicastResend_eq table (fun x mem => (others x mem).1) refused
    rw [resends]
    refine ⟨rfl, fun e ts route => ?_, ?_⟩
    · rw [tree e ts route]
      rfl
    · rw [plot_of_plots_eq (State.emit_plots ..), State.modMsh, State.modPlot_self]
      rfl
  · change faulted s r.plot j _ _ _ ∧ _
    rw [multicastExpire_eq table fun x mem => (others x mem).1]
    generalize fallen : (s.advanceTo (r.at_ + 10000)).modMesh (fun m => { m with mcFault := satInc m.mcFault, retries := a ++ b }) = u
    have runsOn : runs u r.plot j := by rw [← fallen]; exact running
    rw [← idx, chargeFault_of_runs _ _ runsOn]
    refine ⟨faulted_of_eq (beginAbandon_faulted _ _ runsOn.1) (by rw [← fallen]; rfl) (by rw [← fallen]; rfl), ?_, ?_, ?_⟩
    · rw [(beginAbandon_keeps (P := fun _ => true) r.plot j .multicast (some r.src) (Keeps.refl u) (Covers.refl _) rfl).boot_eq, ← fallen]
      rfl
    · rw [beginAbandon_msh, ← fallen]
      rfl
    · intro x mem
      rw [beginAbandon_msh, ← fallen] at mem
      exact (others x (List.mem_filter.1 mem).1).1

/-! ### Reservations (R106) -/

/-- An unscheduled all-or-nothing entry of a job that runs: its steps alone are left. -/
theorem reserveStep_ask {s : State} {q : PlotId} {j : Job} {entry flits : Nat} {r : Route} {ts : List Nat}
    (running : runs s q j) (route : findRoute s.msh.routes q.val entry = some (r, ts)) (kind : r.kind = 1) (free : r.flits = 0)
    (none_ : ∀ x ∈ s.msh.reserves, ¬ (x.src = mkNode r.src ∧ x.plot = q ∧ x.entry = entry)) :
    reserveStep s q j.idx entry (.ask flits) =
      (s.modMesh fun m => { m with reserves := m.reserves ++
        [{ src := mkNode r.src, plot := q, job := j.idx, entry := entry, flits := flits, waiting := nodesOf ts, granted := [],
           launched := false }] }).emit (.mesh (mkNode r.src) (nodesOf ts) 3 1 (packetTree (mkNode r.src).val ts)) := by
  simp only [reserveStep, runningJob_of_runs running, route]
  rw [if_neg (by simp [kind, free]), if_neg]
  simpa [and_assoc] using none_

section
variable {s : State} {q : PlotId} {j : Job} {r : Route} {ts : List Nat} {x : Reserve}
variable (running : runs s q j) (route : findRoute s.msh.routes q.val x.entry = some (r, ts)) (kind : r.kind = 1)
  (free : r.flits = 0) (only : s.msh.reserves = [x]) (src : x.src = mkNode r.src) (plot : x.plot = q)
include running route kind free only src plot

theorem reserveStep_grant {t : NodeId} (asked : t ∈ x.waiting) :
    let left := x.waiting.filter (fun y => y != t)
    reserveStep s q j.idx x.entry (.grant t) =
      { s with
        msh := { s.msh with reserves := [{ x with waiting := left, granted := x.granted ++ [t], launched := left.isEmpty }] }
        out := if left.isEmpty then s.out ++ [.mesh (mkNode r.src) (nodesOf ts) 1 x.flits (entryTree r ts)] else s.out } := by
  intro left
  simp only [reserveStep, runningJob_of_runs running, route]
  rw [if_neg (by simp [kind, free])]
  have found : s.msh.reserves.find? (fun y => (y.src == mkNode r.src && y.plot == q && decide (y.entry = x.entry)) && y.waiting.contains t) = some x := by
    simp [only, src, plot, asked]
  have changes : s.msh.reserves.map (fun y => if (y.src == mkNode r.src && y.plot == q && decide (y.entry = x.entry)) = true then
      { y with waiting := left, granted := y.granted ++ [t], launched := left.isEmpty } else y) =
      [{ x with waiting := left, granted := x.granted ++ [t], launched := left.isEmpty }] := by
    rw [only, List.map_singleton, if_pos (by simp [src, plot])]
  simp only [found, State.modMesh]
  rw [changes]
  rcases launches : left.isEmpty with _ | _
  · rfl
  · rfl

theorem reserveStep_landed (launched : x.launched = true) :
    reserveStep s q j.idx x.entry .landed =
      (nodesOf ts).foldl (fun s t => s.emit (.landed (mkNode r.src) t 1 x.flits)) (s.modMesh fun m => { m with reserves := [] }) := by
  simp only [reserveStep, runningJob_of_runs running, route]
  rw [if_neg (by simp [kind, free])]
  have found : s.msh.reserves.find? (fun y => (y.src == mkNode r.src && y.plot == q && decide (y.entry = x.entry)) && y.launched) = some x := by
    simp [only, src, plot, launched]
  simp only [found]
  simp only [State.modMesh, only]
  rw [List.filter_cons_of_neg (by simp [src, plot]), List.filter_nil]

omit src plot in
theorem reserveStep_unlaunched (waits : x.launched = false) : reserveStep s q j.idx x.entry .landed = s := by
  simp only [reserveStep, runningJob_of_runs running, route]
  rw [if_neg (by simp [kind, free])]
  simp only [only, List.find?_cons, waits, Bool.and_false, List.find?_nil]

end

/-- Events that leave one after another. -/
theorem foldl_emit {α : Type} (f : α → OutEvent) (l : List α) : ∀ s : State,
    l.foldl (fun s x => s.emit (f x)) s = { s with out := s.out ++ l.map f } := by
  induction l with
  | nil => intro s; simp
  | cons x l ih => intro s; rw [List.foldl_cons, ih]; simp [State.emit]

theorem creditReservations_holds : creditReservations := by
  intro s q j entry r ts running route kind free
  refine ⟨fun flits none_ => ⟨_, rfl, ?_⟩, fun x only src plot same => ?_⟩
  · rw [reserveStep_ask running route kind free none_]
    rfl
  subst same
  refine ⟨fun target asked => ⟨_, rfl, ?_⟩, fun launched => ⟨_, rfl, ?_⟩, fun waits => ⟨_, rfl, ?_⟩⟩
  · rw [reserveStep_grant running route kind free only src plot asked]
    refine ⟨rfl, ?_⟩
    simp only [List.isEmpty_iff]
    rfl
  · rw [reserveStep_landed running route kind free only src plot launched, foldl_emit]
    exact ⟨rfl, by simp [nodesOf, State.modMesh]⟩
  · exact reserveStep_unlaunched running route kind free only waits

/-- Settles O38: each step of a transfer changes the one entry of the retry table, or the one reservation, that it is of. -/
theorem multicastsAndReservations : Obligations.MulticastsAndReservations :=
  ⟨retriedMulticasts_holds, creditReservations_holds⟩

end Sys2Proof.Machine

end


section

/-! PROOFS about merged reads (R109) and poisoned lines (R119). -/

namespace Sys2Proof.Machine

open Sys2Proof

/-! ### Only messages leave -/

/-- From `s` to `t` nothing but MSI-X messages leaves the device. -/
def OnlyMessages (s t : State) : Prop := ∃ es : List OutEvent, t.out = s.out ++ es ∧ ∀ e ∈ es, ∃ f a d, e = .msix f a d

theorem OnlyMessages.of_eq {s t : State} (h : t.out = s.out) : OnlyMessages s t := ⟨[], by simpa using h, by simp⟩

theorem OnlyMessages.trans {s t u : State} : OnlyMessages s t → OnlyMessages t u → OnlyMessages s u := by
  rintro ⟨es, hes, all⟩ ⟨fs, hfs, all'⟩
  refine ⟨es ++ fs, by rw [hfs, hes, List.append_assoc], fun e mem => ?_⟩
  rcases List.mem_append.mp mem with h | h
  · exact all e h
  · exact all' e h

/-- A message is no flit of the mesh. -/
theorem OnlyMessages.no_mesh {s t : State} (h : OnlyMessages s t) :
    ∀ e ∈ t.out.drop s.out.length, ∀ x y k n l, e ≠ .mesh x y k n l := by
  obtain ⟨es, out, all⟩ := h
  rw [out, List.drop_left]
  rintro e mem x y k n l rfl
  obtain ⟨_, _, _, hm⟩ := all _ mem
  cases hm

theorem State.sendVector_onlyMessages (s : State) (f : Fn) (v : Fin 32) : OnlyMessages s (s.sendVector f v) := by
  rcases s.sendVector_cases f v with h | h | h
  · exact .of_eq (by rw [h])
  · exact .of_eq (by rw [h]; rfl)
  · exact ⟨_, by rw [h]; rfl, fun e mem => ⟨_, _, _, List.mem_singleton.mp mem⟩⟩

theorem State.raisePf_onlyMessages (s : State) (c : Fin 15) : OnlyMessages s (s.raisePf c) := by
  unfold State.raisePf
  extract_lets rises raised risen
  split
  · exact (OnlyMessages.of_eq (s := s) (t := risen) rfl).trans (risen.sendVector_onlyMessages 0 _)
  · exact .of_eq rfl

theorem State.logLine_onlyMessages (s : State) (code plot : Nat) (node : Option NodeId) (a b : Nat) :
    OnlyMessages s (s.logLine code plot node a b) := by
  unfold State.logLine
  extract_lets log line full lostNow lines taken counted
  exact (OnlyMessages.of_eq (s := s) (t := { s with log := counted }) rfl).trans (State.raisePf_onlyMessages _ 0)

theorem beginAbandon_onlyMessages (s : State) (q : PlotId) (j : Job) (c : Code) (node : Option NodeId) :
    OnlyMessages s (beginAbandon s q j c node) := by
  unfold beginAbandon
  extract_lets marked cleared
  have out : cleared.out = s.out :=
    (clearJobEngines_keeps (P := fun _ => true) q j.idx (Keeps.refl marked) (Covers.refl _) rfl).out_eq
  split
  · exact .of_eq out
  · exact (OnlyMessages.of_eq out).trans (State.logLine_onlyMessages cleared 0x10 q.val node _ _)

/-! ### Where a page lies -/

theorem frameAddr_aligned {s : State} {q : PlotId} {b : Pool} {f m : Nat} (h : frameAddr s q b f = some m) : m % 65536 = 0 := by
  rcases b with n | _
  · obtain rfl : n * 2 ^ 25 + 65536 * f = m := by simpa [frameAddr] using h
    omega
  · simp only [frameAddr, Option.map_eq_some_iff] at h
    obtain ⟨x, -, rfl⟩ := h
    omega

theorem pageMesh_aligned {s : State} {q : PlotId} {j : Option Job} {page m : Nat} (h : pageMesh s q j page = some m) : m % 65536 = 0 := by
  simp only [pageMesh, Option.bind_eq_some_iff] at h
  obtain ⟨x, -, at_⟩ := h
  exact frameAddr_aligned at_

/-! ### One array access -/

/-- The counts of an array access for a number of readers. -/
def lineCounted (s : State) (q : PlotId) (n single : Nat) : State :=
  (s.modMsh q fun x => { x with merge := satAdd x.merge (n - 1) }).modMesh fun x => { x with ceCnt := satAdd x.ceCnt single }

/-- A line is read for a number of readers: the access is counted, and a backed page counts as used. -/
def lineRead (s : State) (q : PlotId) (page n single : Nat) : State :=
  if 0x80000 ≤ page then touchPage (lineCounted s q n single) q (page - 0x80000) else lineCounted s q n single

theorem lineCounted_plot (s : State) (q : PlotId) (n single : Nat) : (lineCounted s q n single).plot q =
    { s.plot q with msh := { (s.plot q).msh with merge := satAdd (s.plot q).msh.merge (n - 1) } } := by
  rw [lineCounted, plot_of_plots_eq (State.modMesh_plots ..), State.modMsh, State.modPlot_self]

/-- What reading a line changes: counts of the mesh, and the uses of the plot's pages. -/
theorem lineRead_rest (s : State) (q : PlotId) (page n single : Nat) : lineRead s q page n single =
    { s with plots := (lineRead s q page n single).plots, msh := { s.msh with ceCnt := satAdd s.msh.ceCnt single } } := by
  unfold lineRead
  split
  · rfl
  · rfl

theorem lineRead_plot (s : State) (q : PlotId) (page n single : Nat) :
    ((lineRead s q page n single).plot q).plt = (s.plot q).plt ∧
      ((lineRead s q page n single).plot q).msh.merge = satAdd (s.plot q).msh.merge (n - 1) := by
  unfold lineRead
  split
  · rw [touchPage, State.modMsh, State.modPlot_self, lineCounted_plot]
    exact ⟨rfl, rfl⟩
  · rw [lineCounted_plot]
    exact ⟨rfl, rfl⟩

theorem mergedRead_eq {s : State} {q : PlotId} {a : Nat} {readers : List (BitVec 16 × NodeId)} {m : Nat} (single : Nat)
    (bad : Option (Fin 8)) (some_ : readers ≠ []) (few : readers.length ≤ 16) (mapped : pageAccess s q (a / 64 * 64 / 65536) = .ok)
    (run : ∀ r ∈ readers, ∃ j, j.idx = r.1 ∧ runs s q j ∧ pageMesh s q (some j) (a / 64 * 64 / 65536) = some m) :
    let at_ := m + a / 64 * 64 % 65536
    let t := lineRead s q (a / 64 * 64 / 65536) readers.length single
    mergedRead s q a readers single bad =
      match bad with
      | some w => detectError t (at_ + 8 * w.val) fun s => serveLine s q at_ readers
      | none => serveLine t q at_ readers := by
  intro at_ t
  have running (r) (mem : r ∈ readers) : (runningJob s q r.1).isSome = true ∧
      ((runningJob s q r.1).bind fun j => pageMesh s q (some j) (a / 64 * 64 / 65536)) = some m := by
    obtain ⟨j, idx, runs, page⟩ := run r mem
    rw [← idx, runningJob_of_runs runs]
    exact ⟨rfl, page⟩
  have all : readers.filter (fun r => (runningJob s q r.1).isSome) = readers :=
    List.filter_eq_self.mpr fun r mem => (running r mem).1
  have here : readers.filter (fun r => ((runningJob s q r.1).bind fun j => pageMesh s q (some j) (a / 64 * 64 / 65536)) == some m) = readers :=
    List.filter_eq_self.mpr fun r mem => by simp [(running r mem).2]
  have none_apart : readers.filter (fun r => (runningJob s q r.1).isSome &&
      !(((runningJob s q r.1).bind fun j => pageMesh s q (some j) (a / 64 * 64 / 65536)) == some m)) = [] :=
    List.filter_eq_nil_iff.mpr fun r mem => by simp [(running r mem).2]
  have base : readers.findSome? (fun r => (runningJob s q r.1).bind fun j => pageMesh s q (some j) (a / 64 * 64 / 65536)) = some m := by
    obtain ⟨r, rest, rfl⟩ := List.exists_cons_of_ne_nil some_
    rw [List.findSome?_cons]
    simp only [(running r (List.mem_cons_self ..)).2]
  unfold mergedRead
  extract_lets line page base_ rs
  have rs_eq : rs = readers := all
  rw [rs_eq, if_neg (by simp [some_, few])]
  have access : pageAccess s q page = .ok := mapped
  simp only [access]
  have base_eq : readers.findSome? base_ = some m := base
  have here_eq : readers.filter (fun r => base_ r == some m) = readers := here
  have apart_eq : readers.filter (fun r => (runningJob s q r.1).isSome && !(base_ r == some m)) = [] := none_apart
  simp only [base_eq, here_eq, apart_eq, List.length_nil, Nat.sub_zero]
  rfl

theorem serveLine_poisoned {s : State} {q : PlotId} {line : Nat} {i : BitVec 16} {n : NodeId} (poisoned : line ∈ s.msh.poison) :
    serveLine s q line [(i, n)] = chargeFault s q i .engine (some (meshNode line)) := by
  rw [serveLine, if_pos (by simpa using poisoned)]
  rfl

/-- The report of a fault is the newest line. -/
theorem beginAbandon_head (s : State) (q : PlotId) {j : Job} (c : Code) (node : Option NodeId) (first : j.logged = false) :
    ∃ l, (beginAbandon s q j c node).log.lines.head? = some l ∧ s.log.next.toNat ≤ l.seq ∧ l.code = 0x10 ∧ l.plot = q.val ∧
      l.node = node ∧ l.arg0 = c.num + 256 * j.attempts ∧ l.arg1 = j.desc.tag.toNat := by
  unfold beginAbandon
  extract_lets abandoned cleared
  have log : cleared.log = s.log :=
    (clearJobEngines_keeps (P := fun _ => true) q j.idx (Keeps.refl abandoned) (Covers.refl _) rfl).log_eq
  rw [if_neg (by simp [first])]
  exact ⟨_, cleared.logLine_head .., Nat.le_of_eq (congrArg (fun l => l.next.toNat) log.symm), rfl, rfl, rfl, rfl, rfl⟩

/-- A fault does not move the plot a line lies in. -/
theorem beginAbandon_linePlot (s : State) (q : PlotId) (j : Job) (c : Code) (node : Option NodeId) (l : Nat) :
    linePlot (beginAbandon s q j c node) l = linePlot s l := by
  have kept := beginAbandon_keeps (P := fun _ => true) q j c node (Keeps.refl s) (Covers.refl _) rfl
  unfold linePlot
  rw [kept.cfg_eq, beginAbandon_msh]
  rfl

theorem State.logLine_lines (s : State) (code plot : Nat) (node : Option NodeId) (a b : Nat) :
    (s.logLine code plot node a b).log.lines =
      { seq := s.log.next.toNat, time := s.frmTime, code := code, plot := plot, node := node, arg0 := a, arg1 := b } ::
        if decide (8192 ≤ s.log.lines.length) = true then s.log.lines.dropLast else s.log.lines := by
  unfold State.logLine
  extract_lets log line full lostNow lines taken counted
  rw [State.raisePf_log]
  have same : counted.lines = taken.lines := by
    dsimp only [counted]
    split
    · split
      · rfl
      · rfl
    · rfl
  exact same

/-- The newest line before a line is written is still there after it. -/
theorem State.logLine_keeps_head {s : State} {l : LogLine} (head : s.log.lines.head? = some l) (code plot : Nat)
    (node : Option NodeId) (a b : Nat) : l ∈ (s.logLine code plot node a b).log.lines := by
  obtain ⟨rest, lines⟩ := List.head?_eq_some_iff.mp head
  have kept : l ∈ if decide (8192 ≤ s.log.lines.length) = true then s.log.lines.dropLast else s.log.lines := by
    rw [lines]
    split
    · rename_i full
      obtain ⟨x, more, rfl⟩ : ∃ x more, rest = x :: more :=
        List.exists_cons_of_ne_nil (by rintro rfl; simp at full)
      simp [List.dropLast]
    · exact List.mem_cons_self ..
  rw [State.logLine_lines]
  exact List.mem_cons_of_mem _ kept

/-- A fault whose report is followed by another line. -/
theorem faulted_logLine {s : State} {q : PlotId} {j : Job} (c : Code) (n : Option NodeId)
    (found : (s.plot q).plt.job? j.idx = some j) (code plot : Nat) (node : Option NodeId) (a b : Nat) :
    faulted s q j c n ((beginAbandon s q j c n).logLine code plot node a b) := by
  obtain ⟨job, mem, -⟩ := beginAbandon_faulted c n found
  have logged := State.logLine_keeps (P := fun _ => true) (Keeps.refl (beginAbandon s q j c n)) code plot node a b (Covers.refl _)
  refine ⟨?_, logged.mem_eq.trans mem, fun first => ?_⟩
  · rw [State.logLine_plot, job, logged.boot_eq]
  · obtain ⟨l, head, seq, fields⟩ := beginAbandon_head s q c n first
    exact ⟨l, State.logLine_keeps_head head .., seq, fields⟩

/-- The line is poisoned: what `detectError` marks before it faults the readers. -/
def linePoisoned (s : State) (addr : Nat) : State :=
  s.modMesh fun m => { m with poison := m.poison ++ [addr / 64 * 64], ueCnt := satInc m.ueCnt, eccAddr := BitVec.ofNat 32 addr }

theorem detectError_clean {s : State} {addr : Nat} (faults : State → State) (clean : s.msh.poison.contains (addr / 64 * 64) = false) :
    detectError s addr faults = (faults (linePoisoned s addr)).logLine 0x30
      (linePlot (faults (linePoisoned s addr)) (addr / 64 * 64)) (some (meshNode addr)) addr 0 := by
  rw [detectError, if_neg (by rw [clean]; exact Bool.false_ne_true)]
  rfl

/-- Settles O39: one array access is counted for the readers that run; the line then leaves once, or its poison faults them. -/
theorem mergedReadsAndPoison : Obligations.MergedReadsAndPoison := by
  intro s q a readers m single some_ few line at_ mapped run
  obtain ⟨r0, mem0⟩ := List.exists_mem_of_ne_nil _ some_
  obtain ⟨j0, -, -, page0⟩ := run r0 mem0
  have aligned : m % 65536 = 0 := pageMesh_aligned page0
  have lineStart : line % 64 = 0 := Nat.mul_mod_left ..
  have at_line (w : Fin 8) : (at_ + 8 * w.val) / 64 * 64 = at_ := by
    have := w.isLt
    dsimp only [at_]
    omega
  have read (bad) := mergedRead_eq (a := a.toNat) single bad some_ few mapped run
  have rest := lineRead_rest s q (line / 65536) readers.length single
  obtain ⟨plt, merge⟩ := lineRead_plot s q (line / 65536) readers.length single
  have line_eq : a.toNat / 64 * 64 = line := rfl
  rw [line_eq] at read
  generalize lineRead s q (line / 65536) readers.length single = u at read rest plt merge
  have poison : u.msh.poison = s.msh.poison := by rw [rest]
  have log : u.log = s.log := by rw [rest]
  have mem : u.mem = s.mem := by rw [rest]
  have out : u.out = s.out := by rw [rest]
  refine ⟨fun clean => ⟨_, rfl, ?_⟩, fun j n one running => ⟨fun w clean => ⟨_, rfl, ?_⟩, fun bad poisoned => ⟨_, rfl, ?_⟩⟩⟩
  · have served : mergedRead s q a.toNat readers single none =
        u.emit (.mesh (meshNode at_) (readers.map (·.2)) 4 1 (packetTree (at_ / 2 ^ 25) (readers.map (·.2.val)))) := by
      rw [read none]
      exact if_neg (by rw [poison, clean]; exact Bool.false_ne_true)
    rw [served]
    exact ⟨merge, by rw [State.emit_msh, rest], mem, log, congrArg (· ++ _) out⟩
  · have clean_u : u.msh.poison.contains ((at_ + 8 * w.val) / 64 * 64) = false := by rw [at_line, poison, clean]
    have runs_v : runs (linePoisoned u (at_ + 8 * w.val)) q j := by
      obtain ⟨found, going⟩ := running
      exact ⟨by rw [← found, ← plt]; rfl, going⟩
    have poisoned_v : at_ ∈ (linePoisoned u (at_ + 8 * w.val)).msh.poison :=
      List.mem_append_right _ (List.mem_singleton.mpr (at_line w).symm)
    have served : mergedRead s q a.toNat readers single (some w) =
        detectError u (at_ + 8 * w.val) fun s => serveLine s q at_ readers := read (some w)
    rw [detectError_clean _ clean_u, one, serveLine_poisoned poisoned_v, chargeFault_of_runs _ _ runs_v, at_line] at served
    rw [one, served, beginAbandon_linePlot]
    have v_rest : linePoisoned u (at_ + 8 * w.val) = { s with
        plots := u.plots
        msh := { s.msh with ceCnt := satAdd s.msh.ceCnt single, ueCnt := satInc s.msh.ueCnt,
                            eccAddr := BitVec.ofNat 32 (at_ + 8 * w.val), poison := s.msh.poison ++ [at_] } } := by
      rw [linePoisoned, State.modMesh, at_line, rest]
    have plot_line : linePlot (linePoisoned u (at_ + 8 * w.val)) at_ = linePlot s at_ := by rw [v_rest]; rfl
    have v_mem : (linePoisoned u (at_ + 8 * w.val)).mem = s.mem := by rw [v_rest]
    have v_log : (linePoisoned u (at_ + 8 * w.val)).log = s.log := by rw [v_rest]
    have v_out : (linePoisoned u (at_ + 8 * w.val)).out = s.out := by rw [v_rest]
    have v_msh := congrArg State.msh v_rest
    rw [plot_line]
    generalize linePoisoned u (at_ + 8 * w.val) = v at runs_v v_mem v_log v_out v_msh ⊢
    have msh := State.logLine_msh (beginAbandon v q j .engine (some (meshNode at_))) 0x30 (linePlot s at_)
      (some (meshNode (at_ + 8 * w.val))) (at_ + 8 * w.val) 0
    rw [beginAbandon_msh] at msh
    refine ⟨faulted_of_eq (faulted_logLine _ _ runs_v.1 ..) v_mem (congrArg (·.next) v_log), ?_, ?_, ?_, ?_, ?_⟩
    · rw [msh]
      exact congrArg (·.ueCnt) v_msh
    · rw [msh]
      exact congrArg (·.eccAddr) v_msh
    · rw [msh]
      exact congrArg (·.poison) v_msh
    · exact OnlyMessages.no_mesh (((OnlyMessages.of_eq v_out).trans (beginAbandon_onlyMessages ..)).trans (State.logLine_onlyMessages ..))
    · exact ⟨_, List.mem_of_head? (State.logLine_head ..), rfl, rfl, rfl⟩
  · have poisoned_u : at_ ∈ u.msh.poison := by rw [poison]; simpa using poisoned
    have runs_u : runs u q j := by
      obtain ⟨found, going⟩ := running
      exact ⟨by rw [plt]; exact found, going⟩
    have served : mergedRead s q a.toNat [(j.idx, n)] single bad = beginAbandon u q j .engine (some (meshNode at_)) := by
      rw [← one, ← chargeFault_of_runs _ _ runs_u, ← serveLine_poisoned (n := n) poisoned_u, ← one]
      rcases bad with _ | w
      · exact read none
      · exact (read (some w)).trans (detectError_poisoned _ (by rw [at_line w]; exact poisoned_u))
    rw [one, served]
    refine ⟨faulted_of_eq (beginAbandon_faulted _ _ runs_u.1) mem (congrArg (·.next) log), ?_, ?_, ?_⟩
    · rw [beginAbandon_msh]
      change u.msh.ueCnt = _
      rw [rest]
    · rw [beginAbandon_msh]
      exact poison
    · exact OnlyMessages.no_mesh ((OnlyMessages.of_eq out).trans (beginAbandon_onlyMessages ..))

end Sys2Proof.Machine

end


section

/-! PROOFS about write copies (R54, R115): a job's writes change copies of its own, and never plot memory. -/

namespace Sys2Proof.Machine

open Sys2Proof

/-! ### Operations of the mesh that leave the plots -/

theorem healRange_plot (s : State) (q : PlotId) (j : Option Job) (a n : Nat) (p : PlotId) : (healRange s q j a n).plot p = s.plot p :=
  plot_of_plots_eq (healRange_keeps (P := fun _ => false) q j a n (Keeps.refl s) (Covers.refl _)).plots_eq p

theorem copyLines_plot (s : State) (q : PlotId) (b : Pool) (x y : Nat) (p : PlotId) : (copyLines s q b x y).plot p = s.plot p :=
  plot_of_plots_eq (copyLines_keeps (P := fun _ => false) q b x y (Keeps.refl s) (Covers.refl _)).plots_eq p

theorem copyLines_mem (s : State) (q : PlotId) (b : Pool) (x y : Nat) : (copyLines s q b x y).mem = s.mem :=
  (copyLines_keeps (P := fun _ => false) q b x y (Keeps.refl s) (Covers.refl _)).mem_eq

/-- A backed page that leaves its frame leaves the table of resident pages, and nothing else of the plot. -/
theorem evict_plot (s : State) (q : PlotId) (page : Nat) : (evict s q page).plot q =
    { s.plot q with msh := { (s.plot q).msh with resident := (s.plot q).msh.resident.filter fun r => r.page != page } } := by
  rw [evict, State.modMsh, State.modPlot_self]
  rfl

/-- Finding a frame changes the table of resident pages at most. -/
theorem takeFrame_plot {s t : State} {q : PlotId} {b : Pool} {page f : Nat} {idle : Bool} (h : takeFrame s q b page idle = some (f, t)) :
    t.plot q = { s.plot q with msh := { (s.plot q).msh with resident := (t.plot q).msh.resident } } := by
  unfold takeFrame at h
  split at h
  · cases h
    rfl
  · simp only [Option.map_eq_some_iff, Prod.mk.injEq] at h
    obtain ⟨r, -, -, rfl⟩ := h
    rw [evict_plot]

/-! ### Bytes land, copies are made -/

section
variable {s : State} {q : PlotId} {j : Job}

theorem landBytes_job? (found : (s.plot q).plt.job? j.idx = some j) (a : Nat) (bs : List Byte) :
    ((landBytes s q j.idx a bs).plot q).plt.job? j.idx = some (j.put q a bs) := by
  unfold landBytes
  rw [found]
  exact State.modJob_job? (f := fun j => j.put q a bs) (by rw [healRange_plot]; exact found) fun k live => ⟨rfl, live⟩

theorem landBytes_mem (s : State) (q : PlotId) (i : BitVec 16) (a : Nat) (bs : List Byte) : (landBytes s q i a bs).mem = s.mem :=
  (landBytes_keeps (P := fun _ => true) q i a bs (Keeps.refl s) (Covers.refl _) rfl).mem_eq

/-- A job whose writes land one after another. -/
def Job.putAll (j : Job) (q : PlotId) (ws : List (List Nat × Nat × List Byte)) : Job :=
  ws.foldl (fun j w => j.put q w.2.1 w.2.2) j

theorem Job.putAll_rest (q : PlotId) (ws : List (List Nat × Nat × List Byte)) :
    ∀ j : Job, j.putAll q ws = { j with ovl := (j.putAll q ws).ovl } := by
  induction ws with
  | nil => exact fun _ => rfl
  | cons w ws ih => exact fun j => by rw [putAll, List.foldl_cons]; exact ih _

theorem foldl_landBytes (i : BitVec 16) (ws : List (List Nat × Nat × List Byte)) :
    ∀ (s : State) (j : Job), j.idx = i → (s.plot q).plt.job? i = some j →
      let t := ws.foldl (fun s w => landBytes s q i w.2.1 w.2.2) s
      (t.plot q).plt.job? i = some (j.putAll q ws) ∧ t.mem = s.mem := by
  induction ws with
  | nil => exact fun s j _ found => ⟨found, rfl⟩
  | cons w ws ih =>
    rintro s j rfl found
    obtain ⟨job, mem⟩ := ih (landBytes s q j.idx w.2.1 w.2.2) (j.put q w.2.1 w.2.2) rfl (landBytes_job? found _ _)
    exact ⟨job, mem.trans (landBytes_mem ..)⟩

/-- A job whose copy of a page is complete. -/
def Job.copyMade (j : Job) (q : PlotId) (page : Nat) (m : List Host.Cell) : Job :=
  { j.takePage q page m with copying := j.copying.filter (fun p => p != page) }

/-- A job with the writes that wait. -/
def Job.waitWrites (j : Job) (ws : List (List Nat × Nat × List Byte)) : Job := { j with writes := ws }

theorem makeCopy_job? (found : (s.plot q).plt.job? j.idx = some j) {page : Nat} (home : (homePlace s q (65536 * page)).isSome = true) :
    ((makeCopy s q j.idx page).plot q).plt.job? j.idx =
        some (j.copyMade q page s.mem) ∧
      (makeCopy s q j.idx page).mem = s.mem := by
  refine ⟨?_, (makeCopy_keeps (P := fun _ => true) q j.idx page (Keeps.refl s) (Covers.refl _) rfl).mem_eq⟩
  obtain ⟨⟨b, k⟩, place⟩ := Option.isSome_iff_exists.mp home
  unfold makeCopy
  rw [found, place]
  dsimp only
  have take (t : State) (plot : t.plot q = s.plot q) (mem : t.mem = s.mem) :
      ((t.modJob q j.idx fun j => { j.takePage q page t.mem with copying := j.copying.filter (fun p => p != page) }).plot q).plt.job? j.idx =
        some (j.copyMade q page s.mem) := by
    rw [mem]
    exact State.modJob_job? (f := fun j => j.copyMade q page s.mem)
      (by rw [plot]; exact found) fun k live => ⟨rfl, live⟩
  split
  · exact take _ (copyLines_plot ..) (copyLines_mem ..)
  · exact take s rfl rfl

end

/-! ### A write -/

section
variable {s : State} {q : PlotId} {j : Job} {node : NodeId} {a : Nat} {bs : List Byte}
variable (running : runs s q j) (some_ : bs ≠ [])
include running some_

theorem firstWrite_refused (refused : mayWrite s q a bs.length = false) :
    firstWrite s q j.idx node a bs = chargeFault s q j.idx .image (some node) := by
  simp only [firstWrite, runningJob_of_runs running]
  rw [if_neg (by simpa using some_), if_pos (by simp [refused])]

theorem firstWrite_poisoned {n : NodeId} (may : mayWrite s q a bs.length = true) (poison : partPoison s q j a bs.length = some n) :
    firstWrite s q j.idx node a bs = chargeFault s q j.idx .engine (some n) := by
  simp only [firstWrite, runningJob_of_runs running]
  rw [if_neg (by simpa using some_), if_neg (by simp [may])]
  simp only [poison]

variable (may : mayWrite s q a bs.length = true) (clean : partPoison s q j a bs.length = none)
include may clean

theorem firstWrite_tooMany (many : j.img.wrPages < j.copies.length + j.copying.length + (newPages j a bs.length).length) :
    firstWrite s q j.idx node a bs = chargeFault s q j.idx .image (some node) := by
  simp only [firstWrite, runningJob_of_runs running]
  rw [if_neg (by simpa using some_), if_neg (by simp [may])]
  simp only [clean]
  rw [if_pos many]

theorem firstWrite_copied (few : j.copies.length + j.copying.length + (newPages j a bs.length).length ≤ j.img.wrPages)
    (copied : (pagesOf a bs.length).filter (fun p => !j.copies.contains p) = []) :
    firstWrite s q j.idx node a bs = landBytes s q j.idx a bs := by
  simp only [firstWrite, runningJob_of_runs running]
  rw [if_neg (by simpa using some_), if_neg (by simp [may])]
  simp only [clean]
  rw [if_neg (Nat.not_lt.mpr few), if_pos (by rw [copied]; rfl)]

/-- A write that waits for pages: the copies that are new are begun, where there are frames. -/
theorem firstWrite_waits {missing : List Nat}
    (few : j.copies.length + j.copying.length + (newPages j a bs.length).length ≤ j.img.wrPages)
    (waits : (pagesOf a bs.length).filter (fun p => !j.copies.contains p) = missing) (more : missing ≠ []) :
    firstWrite s q j.idx node a bs =
      match takeFrames s q j.idx (newPages j a bs.length) with
      | none => s
      | some u => (u.modMsh q fun m => { m with copy := satAdd m.copy (newPages j a bs.length).length }).modJob q j.idx
          fun j => { j with writes := j.writes ++ [(missing, a, bs)] } := by
  simp only [firstWrite, runningJob_of_runs running]
  rw [if_neg (by simpa using some_), if_neg (by simp [may])]
  simp only [clean]
  rw [if_neg (Nat.not_lt.mpr few), waits]
  exact if_neg (by simpa using more)

end

/-- A write to one page of which there is no copy yet. -/
theorem firstWrite_begins {s : State} {q : PlotId} {j : Job} {node : NodeId} {a p : Nat} {bs : List Byte} (running : runs s q j)
    (some_ : bs ≠ []) (may : mayWrite s q a bs.length = true) (clean : partPoison s q j a bs.length = none)
    (page : pagesOf a bs.length = [p]) (uncopied : p ∉ j.copies) (unmade : p ∉ j.copying)
    (few : j.copies.length + j.copying.length < j.img.wrPages) :
    firstWrite s q j.idx node a bs =
      match takeFrames s q j.idx [p] with
      | none => s
      | some u => (u.modMsh q fun m => { m with copy := satAdd m.copy 1 }).modJob q j.idx
          fun j => { j with writes := j.writes ++ [([p], a, bs)] } := by
  have one_new : newPages j a bs.length = [p] := by simp [newPages, page, uncopied, unmade]
  rw [firstWrite_waits (missing := [p]) running some_ may clean (by rw [one_new]; exact few) (by simp [page, uncopied]) (by simp),
    one_new]
  rfl

/-- Frames are found for one page: its copy is begun in the frame. -/
theorem takeFrames_one {s u : State} {q : PlotId} {j : Job} {p : Nat} (found : (s.plot q).plt.job? j.idx = some j)
    (h : takeFrames s q j.idx [p] = some u) :
    (∃ f, (u.plot q).plt.job? j.idx = some { j with frames := j.frames ++ [(p, f)], copying := j.copying ++ [p] }) ∧
      (u.plot q).msh.copy = (s.plot q).msh.copy := by
  unfold takeFrames at h
  split at h
  · contradiction
  · split at h
    · contradiction
    · rename_i f t taken
      obtain rfl := Option.some.inj h
      have plot := takeFrame_plot taken
      have found_t : (t.plot q).plt.job? j.idx = some j := by rw [plot]; exact found
      refine ⟨⟨f, State.modJob_job? (f := fun j => { j with frames := j.frames ++ [(p, f)], copying := j.copying ++ [p] }) found_t
        fun k live => ⟨rfl, live⟩⟩, ?_⟩
      rw [State.modJob, State.modPlt_self, plot]

theorem copyDone_eq {s : State} {q : PlotId} {j : Job} {p : Nat} (found : (s.plot q).plt.job? j.idx = some j) (making : p ∈ j.copying) :
    let ws := j.writes.map fun w => (w.1.filter (fun x => x != p), w.2)
    copyDone s q j.idx p = (ws.filter fun w => w.1.isEmpty).foldl (fun s w => landBytes s q j.idx w.2.1 w.2.2)
      ((makeCopy s q j.idx p).modJob q j.idx fun j => j.waitWrites (ws.filter fun w => !w.1.isEmpty)) := by
  intro ws
  simp only [copyDone, found]
  rw [if_neg (by simpa using making)]
  rfl

theorem copyDone_lands {s : State} {q : PlotId} {j : Job} {p : Nat} (found : (s.plot q).plt.job? j.idx = some j)
    (making : p ∈ j.copying) (home : (homePlace s q (65536 * p)).isSome = true) :
    let ws := j.writes.map fun w => (w.1.filter (fun x => x != p), w.2)
    ((copyDone s q j.idx p).plot q).plt.job? j.idx = some
        (((j.copyMade q p s.mem).waitWrites (ws.filter fun w => !w.1.isEmpty)).putAll q (ws.filter fun w => w.1.isEmpty)) ∧
      (copyDone s q j.idx p).mem = s.mem := by
  intro ws
  obtain ⟨copied, mem⟩ := makeCopy_job? found home
  rw [copyDone_eq found making]
  have queued := State.modJob_job? (j := j.copyMade q p s.mem)
    (f := fun j => j.waitWrites (ws.filter fun w => !w.1.isEmpty)) copied fun k live => ⟨rfl, live⟩
  obtain ⟨job, same⟩ := foldl_landBytes j.idx (ws.filter fun w => w.1.isEmpty) _ ((j.copyMade q p s.mem).waitWrites _) rfl queued
  exact ⟨job, same.trans mem⟩

theorem newPages_nil {j : Job} {a n : Nat} (copied : ∀ p ∈ pagesOf a n, p ∈ j.copies ∨ p ∈ j.copying) : newPages j a n = [] := by
  refine List.filter_eq_nil_iff.mpr fun p mem => ?_
  rcases copied p mem with h | h <;> simp [h]

/-- Settles O41: each write takes one of the branches of `firstWrite`; a copy that is complete lands the writes that waited for
it alone. -/
theorem writesGoToPrivateCopies : Obligations.WritesGoToPrivateCopies := by
  intro s q j node a bs running some_
  have found := running.1
  have kept (c : Code) (n : Option NodeId) : faulted s q j c n (chargeFault s q j.idx c n) := by
    rw [chargeFault_of_runs c n running]
    exact beginAbandon_faulted c n found
  refine ⟨fun refused => ⟨_, rfl, ?_⟩, fun n may poison => ⟨_, rfl, ?_⟩, fun may clean => ⟨fun many => ⟨_, rfl, ?_⟩,
    fun few copied => ⟨_, rfl, ?_⟩, fun p page uncopied making few => ⟨_, rfl, ?_⟩, fun p page uncopied unmade few =>
      ⟨fun full => ⟨_, rfl, ?_⟩, fun u taken => ⟨_, rfl, ?_⟩⟩⟩, fun p making home => ⟨_, rfl, ?_⟩⟩
  · rw [firstWrite_refused running some_ refused]
    exact kept _ _
  · rw [firstWrite_poisoned running some_ may poison]
    exact kept _ _
  · rw [firstWrite_tooMany running some_ may clean many]
    exact kept _ _
  · have none_new := newPages_nil fun p mem => .inl (copied p mem)
    rw [firstWrite_copied running some_ may clean (by rw [none_new]; exact few)
      (List.filter_eq_nil_iff.mpr fun p mem => by simp [copied p mem])]
    exact ⟨landBytes_job? found _ _, landBytes_mem ..⟩
  · have none_new : newPages j a.toNat bs.length = [] := newPages_nil fun x mem => by
      rw [page] at mem
      exact .inr (List.mem_singleton.mp mem ▸ making)
    rw [firstWrite_waits (missing := [p]) running some_ may clean (by rw [none_new]; exact few) (by simp [page, uncopied]) (by simp)]
    rw [none_new]
    refine ⟨State.modJob_job? (f := fun j => { j with writes := j.writes ++ [([p], a.toNat, bs)] }) ?_ fun k live => ⟨rfl, live⟩, rfl⟩
    rw [State.modMsh, State.modPlot_self]
    exact found
  · rw [firstWrite_begins running some_ may clean page uncopied unmade few, full]
  · rw [firstWrite_begins running some_ may clean page uncopied unmade few, taken]
    dsimp only
    obtain ⟨⟨f, job⟩, copy⟩ := takeFrames_one found taken
    refine ⟨⟨f, State.modJob_job? (j := { j with frames := j.frames ++ [(p, f)], copying := j.copying ++ [p] })
      (f := fun j => { j with writes := j.writes ++ [([p], a.toNat, bs)] }) ?_ fun k live => ⟨rfl, live⟩⟩, ?_, rfl⟩
    · rw [State.modMsh, State.modPlot_self]
      exact job
    · rw [State.modJob, State.modPlt_self, State.modMsh, State.modPlot_self, ← copy]
  · obtain ⟨job, mem⟩ := copyDone_lands found making home
    refine ⟨_, job, ?_, ?_, mem, fun b ys only => ⟨?_, ?_⟩⟩
    · rw [Job.putAll_rest]
      rfl
    · rw [Job.putAll_rest]
      rfl
    · rw [Job.putAll_rest]
      simp [only, Job.waitWrites]
    · simp [only, Job.putAll, Job.put, Job.waitWrites, Job.copyMade, Job.takePage]

end Sys2Proof.Machine

end


section

/-! PROOFS about backed pages and cache frames (R112, R116). -/

namespace Sys2Proof.Machine

open Sys2Proof

/-! ### Page-ins start -/

/-- From `s` to `t` the plot's page-ins may have taken contexts; nothing else of the plot changes. -/
structure PageInsStart (q : PlotId) (s t : State) : Prop where
  rest : t.plot q = { s.plot q with msh := { (s.plot q).msh with pageIns := (t.plot q).msh.pageIns } }
  pages : ∃ g : PageIn → PageIn, (∀ x, (g x).page = x.page ∧ (g x).readers = x.readers) ∧
    (t.plot q).msh.pageIns = (s.plot q).msh.pageIns.map g

theorem PageInsStart.of_plot {q : PlotId} {s t : State} (h : t.plot q = s.plot q) : PageInsStart q s t :=
  ⟨by rw [h], id, fun _ => ⟨rfl, rfl⟩, by rw [h, List.map_id]⟩

theorem PageInsStart.trans {q : PlotId} {s t u : State} (h : PageInsStart q s t) (k : PageInsStart q t u) : PageInsStart q s u := by
  obtain ⟨g, hg, pages⟩ := h.pages
  obtain ⟨g', hg', pages'⟩ := k.pages
  refine ⟨?_, g' ∘ g, fun x => ⟨(hg' _).1.trans (hg x).1, (hg' _).2.trans (hg x).2⟩, ?_⟩
  · rw [k.rest, h.rest]
  · rw [pages', pages, List.map_map]

/-- A page-in that takes a context, if it is of the page. -/
def PageIn.begun (page : Nat) (x : PageIn) : PageIn := if x.page = page then { x with ctx := true } else x

theorem PageIn.begun_rest (page : Nat) (x : PageIn) : (x.begun page).page = x.page ∧ (x.begun page).readers = x.readers := by
  unfold PageIn.begun
  split
  · exact ⟨rfl, rfl⟩
  · exact ⟨rfl, rfl⟩

theorem startPageInsAux_starts (n : Nat) (s : State) (q : PlotId) (l : LaneId) : PageInsStart q s (startPageInsAux n s q l) := by
  induction n generalizing s with
  | zero => exact .of_plot rfl
  | succ n ih =>
    unfold startPageInsAux
    split
    · split
      · rename_i page _ _
        refine PageInsStart.trans ⟨?_, PageIn.begun page, PageIn.begun_rest page, ?_⟩ (ih _)
        · rw [State.modMsh, State.modPlot_self]
          rfl
        · rw [State.modMsh, State.modPlot_self]
          rfl
      · exact .of_plot rfl
    · exact .of_plot rfl

theorem issueLane_plot (s : State) (l : LaneId) (q : PlotId) : (issueLane s l).plot q = s.plot q :=
  plot_of_plots_eq (issueLane_keeps (P := fun _ => false) l (Keeps.refl s) (Covers.refl _)).plots_eq q

theorem startPageIns_starts (s : State) (q : PlotId) (l : LaneId) : PageInsStart q s (startPageIns s q l) :=
  (startPageInsAux_starts _ s q l).trans (.of_plot (issueLane_plot ..))

theorem startPageIns_mem (s : State) (q : PlotId) (l : LaneId) : (startPageIns s q l).mem = s.mem :=
  (startPageIns_keeps (P := fun _ => true) q l (Keeps.refl s) (Covers.refl _) rfl).mem_eq

theorem PageInsStart.exists_page {q : PlotId} {s t : State} (h : PageInsStart q s t) {p : Nat} {i : BitVec 16}
    (asked : ∃ x ∈ (s.plot q).msh.pageIns, x.page = p ∧ i ∈ x.readers) :
    ∃ x ∈ (t.plot q).msh.pageIns, x.page = p ∧ i ∈ x.readers := by
  obtain ⟨x, mem, page, reads⟩ := asked
  obtain ⟨g, hg, pages⟩ := h.pages
  exact ⟨g x, by rw [pages]; exact List.mem_map_of_mem mem, by rw [(hg x).1, page], by rw [(hg x).2]; exact reads⟩

/-! ### A page is asked for -/

/-- Whoever asks for a page reads a page-in of it; nothing is counted. -/
theorem askPage_asks (s : State) (q : PlotId) (i : BitVec 16) (node : NodeId) (page : Nat) (b : Backing) :
    ((askPage s q i node page b).plot q).msh.miss = (s.plot q).msh.miss ∧ (askPage s q i node page b).mem = s.mem ∧
      ∃ x ∈ ((askPage s q i node page b).plot q).msh.pageIns, x.page = page ∧ i ∈ x.readers := by
  unfold askPage
  extract_lets l
  split
  · rename_i under_way
    obtain ⟨x, mem, hit⟩ := List.any_eq_true.mp under_way
    have page_eq : x.page = page := by simpa using hit
    rw [State.modMsh, State.modPlot_self]
    refine ⟨rfl, rfl, _, List.mem_map_of_mem mem, ?_⟩
    split
    · exact ⟨page_eq, List.mem_append_right _ (List.mem_singleton.mpr rfl)⟩
    · rename_i reads
      exact ⟨page_eq, by simpa [page_eq] using reads⟩
  · have starts := startPageIns_starts ((s.modMsh q fun m => { m with
        pageIns := m.pageIns ++ [{ page := page, node := node, lane := l, readers := [i] }] }).modLaneOf l
          fun x => { x with queue := x.queue ++ [.page q page] }) q l
    have plot : ((s.modMsh q fun m => { m with
        pageIns := m.pageIns ++ [{ page := page, node := node, lane := l, readers := [i] }] }).modLaneOf l
          fun x => { x with queue := x.queue ++ [.page q page] }).plot q = { s.plot q with msh := { (s.plot q).msh with
            pageIns := (s.plot q).msh.pageIns ++ [{ page := page, node := node, lane := l, readers := [i] }] } } := by
      rw [plot_of_plots_eq (State.modLaneOf_plots ..), State.modMsh, State.modPlot_self]
    refine ⟨?_, startPageIns_mem .., starts.exists_page ?_⟩
    · rw [starts.rest, plot]
    · rw [plot]
      exact ⟨_, List.mem_append_right _ (List.mem_singleton.mpr rfl), rfl, List.mem_singleton.mpr rfl⟩

section
variable {s : State} {q : PlotId} {j : Job} {node : NodeId} {a : Nat} (running : runs s q j)
include running

theorem needPage_unmapped (demand : Bool) (unmapped : region s.cfg.content q.val (s.plot q).msh a = .unmapped) :
    needPage s q j.idx node a demand = chargeFault s q j.idx .image (some node) := by
  simp only [needPage, runningJob_of_runs running, unmapped]

variable {p k : Nat} {b : Backing} (backed : region s.cfg.content q.val (s.plot q).msh a = .backed p)
  (entry : s.cfg.content.backing? q.val p = some (b, k)) (away : ∀ r ∈ (s.plot q).msh.resident, r.page ≠ p)
include backed entry away

theorem needPage_suspect (demand : Bool) (suspect : (b.places (s.cfg.content.chan b.lane) k).any s.suspectAt = true) :
    needPage s q j.idx node a demand = chargeFault s q j.idx .flash (some (laneNode (mkLane b.lane))) := by
  have absent : (s.plot q).msh.resident.any (fun r => r.page == p) = false := by simpa using away
  simp only [needPage, runningJob_of_runs running, backed, entry]
  rw [if_neg (by simp [absent]), if_pos suspect]

theorem needPage_asks (demand : Bool) (sound : (b.places (s.cfg.content.chan b.lane) k).any s.suspectAt = false) :
    needPage s q j.idx node a demand =
      askPage (if demand then s.modMsh q fun m => { m with miss := satInc m.miss } else s) q j.idx node p b := by
  have absent : (s.plot q).msh.resident.any (fun r => r.page == p) = false := by simpa using away
  simp only [needPage, runningJob_of_runs running, backed, entry]
  rw [if_neg (by simp [absent]), if_neg (by rw [sound]; exact Bool.false_ne_true)]

end

theorem backedPagesComeIn_holds : backedPagesComeIn := by
  intro s q j node a running
  have kept (c : Code) (n : Option NodeId) : faulted s q j c n (chargeFault s q j.idx c n) := by
    rw [chargeFault_of_runs c n running]
    exact beginAbandon_faulted c n running.1
  refine ⟨fun unmapped => ⟨⟨_, rfl, ?_⟩, ⟨_, rfl, ?_⟩⟩, fun p b k backed entry away =>
    ⟨fun suspect => ⟨_, rfl, ?_⟩, fun sound => ⟨⟨_, rfl, ?_⟩, ⟨_, rfl, ?_⟩⟩⟩⟩
  · rw [needPage_unmapped running true unmapped]
    exact kept _ _
  · rw [needPage_unmapped running false unmapped]
    exact kept _ _
  · rw [needPage_suspect running backed entry away true suspect]
    exact kept _ _
  · rw [needPage_asks running backed entry away true sound]
    obtain ⟨miss, mem, asked⟩ := askPage_asks (s.modMsh q fun m => { m with miss := satInc m.miss }) q j.idx node p b
    refine ⟨miss.trans ?_, mem, asked⟩
    rw [State.modMsh, State.modPlot_self]
  · rw [needPage_asks running backed entry away false sound]
    exact askPage_asks ..

/-! ### A page-in is complete -/

/-- Bytes of a page are written. -/
def pageBytes (s : State) (q : PlotId) (page : Nat) (got : List (Nat × List Byte)) : State :=
  got.foldl (fun s g => s.pokeMem q (0x800000000 + 65536 * page + g.1) g.2) s

theorem pageBytes_rest (q : PlotId) (page : Nat) (got : List (Nat × List Byte)) :
    ∀ s : State, pageBytes s q page got = { s with mem := (pageBytes s q page got).mem } := by
  induction got with
  | nil => exact fun _ => rfl
  | cons g got ih => exact fun s => by rw [pageBytes, List.foldl_cons]; exact ih _

/-- What is written depends on the memory alone. -/
theorem pageBytes_mem (q : PlotId) (page : Nat) (got : List (Nat × List Byte)) :
    ∀ s t : State, s.mem = t.mem → (pageBytes s q page got).mem = (pageBytes t q page got).mem := by
  induction got with
  | nil => exact fun _ _ h => h
  | cons g got ih =>
    intro s t h
    exact ih _ _ (by simp only [State.pokeMem, h])

theorem healFrame_mem (s : State) (q : PlotId) (b : Pool) (f : Nat) : (healFrame s q b f).mem = s.mem :=
  (healFrame_keeps (P := fun _ => false) q b f (Keeps.refl s) (Covers.refl _)).mem_eq

theorem healFrame_plot (s : State) (q : PlotId) (b : Pool) (f : Nat) (p : PlotId) : (healFrame s q b f).plot p = s.plot p :=
  plot_of_plots_eq (healFrame_keeps (P := fun _ => false) q b f (Keeps.refl s) (Covers.refl _)).plots_eq p

/-- A page that is used. -/
def Resident.touched (page top : Nat) (r : Resident) : Resident :=
  if r.page = page then { r with used := true, stamp := top + 1 } else r

theorem touchPage_plot (s : State) (q : PlotId) (page : Nat) : (touchPage s q page).plot q = { s.plot q with
    msh := { (s.plot q).msh with
      resident := (s.plot q).msh.resident.map (Resident.touched page (((s.plot q).msh.resident.map (·.stamp)).foldl max 0)) } } := by
  rw [touchPage, State.modMsh, State.modPlot_self]
  rfl

/-- A page-in lands in a frame of a memory. -/
def pageLanded (s : State) (q : PlotId) (x : PageIn) (f : Nat) (b : Pool) : State :=
  (pageBytes (healFrame s q b f) q x.page x.got).modMsh q fun m => { m with
    pageIn := satInc m.pageIn, pageIns := m.pageIns.filter (fun y => y.page != x.page),
    resident := m.resident ++
      [{ page := x.page, home := (match b with | .slice n => some n | .commons => none), frame := f, used := true, stamp := 0 }] }

theorem pageLanded_plot (s : State) (q : PlotId) (x : PageIn) (f : Nat) (b : Pool) : (pageLanded s q x f b).plot q = { s.plot q with
    msh := { (s.plot q).msh with
      pageIn := satInc (s.plot q).msh.pageIn, pageIns := (s.plot q).msh.pageIns.filter (fun y => y.page != x.page),
      resident := (s.plot q).msh.resident ++
        [{ page := x.page, home := (match b with | .slice n => some n | .commons => none), frame := f, used := true,
           stamp := 0 }] } } := by
  have same : (pageBytes (healFrame s q b f) q x.page x.got).plot q = s.plot q := by
    rw [pageBytes_rest]
    exact healFrame_plot ..
  unfold pageLanded
  rw [State.modMsh, State.modPlot_self, same]

theorem pageInsLand_holds : pageInsLand := by
  intro s q x only taken
  have found : (s.plot q).msh.pageIns.find? (fun y => y.page == x.page && y.ctx) = some x := by simp [only, taken]
  refine ⟨fun part => ⟨_, rfl, ?_⟩, fun whole full => ⟨_, rfl, ?_⟩, fun f u whole frame => ⟨_, rfl, ?_⟩⟩
  · simp only [pageInDone, found]
    rw [if_pos (by simp [part])]
  · simp only [pageInDone, found]
    rw [if_neg (by simp [whole])]
    simp only [full]
  · simp only [pageInDone, found]
    rw [if_neg (by simp [whole])]
    simp only [frame]
    have plot := takeFrame_plot frame
    have landed_plot := pageLanded_plot u q x f (pageInPool s q x.node)
    have starts := startPageIns_starts (touchPage (pageLanded u q x f (pageInPool s q x.node)) q x.page) q x.lane
    have goes : ∀ t, t = startPageIns (touchPage (pageLanded u q x f (pageInPool s q x.node)) q x.page) q x.lane →
        t.mem = (pageBytes u q x.page x.got).mem ∧ (t.plot q).msh.pageIn = satInc (s.plot q).msh.pageIn ∧
          (t.plot q).msh.pageIns = [] ∧ ∃ r ∈ (t.plot q).msh.resident, r.page = x.page ∧ r.frame = f ∧ r.used = true := by
      rintro t rfl
      obtain ⟨g, -, pages⟩ := starts.pages
      refine ⟨?_, ?_, ?_, ?_⟩
      · rw [startPageIns_mem]
        exact pageBytes_mem q x.page x.got _ _ (healFrame_mem ..)
      · rw [starts.rest, touchPage_plot, landed_plot, plot]
      · rw [pages, touchPage_plot, landed_plot, plot]
        simp [only]
      · rw [starts.rest, touchPage_plot, landed_plot]
        exact ⟨_, List.mem_map_of_mem (List.mem_append_right _ (List.mem_singleton.mpr rfl)), by simp [Resident.touched]⟩
    exact goes _ rfl

/-! ### The boundary moves (R112) -/

/-- From `s` to `t` frames of the plot were given to pages anew: the tables of them change, no zero byte of the plot's memory
does. -/
structure FramesMoved (q : PlotId) (s t : State) : Prop where
  msh : (t.plot q).msh = { (s.plot q).msh with resident := (t.plot q).msh.resident, moved := (t.plot q).msh.moved }
  zero : ∀ a, a < plotSpan → s.peekMem q a = 0 → t.peekMem q a = 0

theorem FramesMoved.refl (q : PlotId) (s : State) : FramesMoved q s s := ⟨rfl, fun _ _ => id⟩

theorem FramesMoved.trans {q : PlotId} {s t u : State} (h : FramesMoved q s t) (k : FramesMoved q t u) : FramesMoved q s u :=
  ⟨by rw [k.msh, h.msh], fun a inside => k.zero a inside ∘ h.zero a inside⟩

theorem FramesMoved.foldl {α : Type} {q : PlotId} {f : State → α → State} (step : ∀ s x, FramesMoved q s (f s x)) (l : List α) :
    ∀ s, FramesMoved q s (l.foldl f s) := by
  induction l with
  | nil => exact .refl q
  | cons x l ih => exact fun s => (step s x).trans (ih _)

/-- What leaves the plots and the memory. -/
theorem FramesMoved.of_eq {q : PlotId} {s t : State} (plot : t.plot q = s.plot q) (mem : t.mem = s.mem) : FramesMoved q s t :=
  ⟨by rw [plot], fun a _ zero => by rw [State.peekMem, mem]; exact zero⟩

/-- What gives home pages other frames. -/
theorem FramesMoved.modMoved (q : PlotId) (s : State) (f : MshSet → MshSet)
    (only : ∀ m, f m = { m with resident := (f m).resident, moved := (f m).moved }) : FramesMoved q s (s.modMsh q f) := by
  refine ⟨?_, fun a _ zero => zero⟩
  rw [State.modMsh, State.modPlot_self]
  exact only _

theorem evict_framesMoved (s : State) (q : PlotId) (page : Nat) : FramesMoved q s (evict s q page) := by
  refine ⟨by rw [evict_plot], fun a inside zero => ?_⟩
  have wiped := s.peekMem_wipeMem q q (0x800000000 + 65536 * page) (0x800000000 + 65536 * page + 65536) inside
  change (s.wipeMem q _ _).peekMem q a = 0
  rw [wiped]
  split
  · rfl
  · exact zero

theorem healFrame_framesMoved (s : State) (q : PlotId) (b : Pool) (f : Nat) : FramesMoved q s (healFrame s q b f) :=
  .of_eq (healFrame_plot ..) (healFrame_mem ..)

theorem setFrame_rest (m : MshSet) (b : Pool) (k f : Nat) : m.setFrame b k f =
    { m with resident := (m.setFrame b k f).resident, moved := (m.setFrame b k f).moved } := rfl

theorem shrinkPool_framesMoved (n : Nat) (s : State) (q : PlotId) (b : Pool) : FramesMoved q s (shrinkPool n s q b) := by
  induction n generalizing s with
  | zero => exact .refl q s
  | succ n ih =>
    unfold shrinkPool
    split
    · split
      · exact (evict_framesMoved ..).trans (ih _)
      · exact .refl q s
    · exact .refl q s

theorem moveHome_framesMoved (s : State) (q : PlotId) (b : Pool) (h k : Nat) : FramesMoved q s (moveHome s q b h k) := by
  unfold moveHome
  extract_lets f
  split
  · exact .refl q s
  · split
    · exact (FramesMoved.of_eq (copyLines_plot ..) (copyLines_mem ..)).trans (.modMoved q _ _ fun m => setFrame_rest m ..)
    · exact .refl q s

theorem newHome_framesMoved (s : State) (q : PlotId) (b : Pool) (k : Nat) : FramesMoved q s (newHome s q b k) := by
  unfold newHome
  extract_lets l
  split
  · exact (healFrame_framesMoved ..).trans (.modMoved q _ _ fun m => setFrame_rest m ..)
  · exact .refl q s

theorem fitPool_framesMoved (s : State) (q : PlotId) (b : Pool) (h : Nat) : FramesMoved q s (fitPool s q b h) := by
  unfold fitPool
  extract_lets n h' leave healed kept far evicted shrunk homes
  have toHealed : FramesMoved q s healed := .foldl (fun s k => healFrame_framesMoved ..) _ s
  have toKept : FramesMoved q s kept := toHealed.trans (.modMoved q _ _ fun _ => rfl)
  have toEvicted : FramesMoved q s evicted := toKept.trans (.foldl (fun s r => evict_framesMoved ..) _ _)
  have toShrunk : FramesMoved q s shrunk := toEvicted.trans (shrinkPool_framesMoved ..)
  have toHomes : FramesMoved q s homes := toShrunk.trans (.foldl (fun s k => moveHome_framesMoved ..) _ _)
  exact toHomes.trans (.foldl (fun s k => newHome_framesMoved ..) _ _)

/-! ### The ranges that move -/

theorem length_maskList {w : Nat} (m : BitVec w) : (maskList m).length ≤ w := by
  have := List.length_filter_le (fun i => m.getLsbD i) (List.range w)
  simpa [maskList] using this

theorem leNat_lt (bs : List Byte) : leNat bs < 256 ^ bs.length := by
  induction bs with
  | nil => simp [leNat]
  | cons b bs ih =>
    have := b.isLt
    simp only [leNat, List.length_cons, Nat.pow_succ]
    omega

theorem quota_lt (c : Content) (q : Nat) : c.quota q < 65536 := by
  have small : (((c.pmapOf q).drop 2).take 2).length ≤ 2 := List.length_take_le ..
  calc c.quota q < 256 ^ (((c.pmapOf q).drop 2).take 2).length := leNat_lt _
    _ ≤ 256 ^ 2 := Nat.pow_le_pow_right (by decide) small
    _ = 65536 := by decide

/-- Ranges that move lie in the plot's address space. -/
theorem pcacheMoves_inside {c : Content} {q : Nat} {m m' : MshSet} {r : Nat × Nat} (h : r ∈ pcacheMoves c q m m') : r.2 ≤ plotSpan := by
  have tiles : (c.tileList q).length ≤ 64 := length_maskList _
  have mxes : (c.mxeList q).length ≤ 16 := length_maskList _
  have quota := quota_lt c q
  have at_ (m : MshSet) : m.atHome ≤ 384 := Nat.sub_le ..
  have mxe (m : MshSet) : m.mxeHome ≤ 256 := Nat.sub_le ..
  have cmn (m : MshSet) : m.cmnHome (c.quota q) ≤ c.quota q := Nat.sub_le ..
  have range {base step n h h' top : Nat} (hr : r ∈ if h = h' then [] else
      (List.range n).map fun i => (base + i * step + 65536 * min h h', base + i * step + 65536 * max h h'))
      (hh : h ≤ top) (hh' : h' ≤ top) : ∃ i < n, r.2 ≤ base + i * step + 65536 * top := by
    split at hr
    · contradiction
    · obtain ⟨i, hi, rfl⟩ := List.mem_map.mp hr
      exact ⟨i, List.mem_range.mp hi, by dsimp only; omega⟩
  unfold pcacheMoves at h
  extract_lets d at h
  rcases List.mem_append.mp h with h | h
  · rcases List.mem_append.mp h with h | h
    · obtain ⟨i, hi, le⟩ := range h (at_ m) (at_ m')
      simp only [plotSpan]
      omega
    · obtain ⟨i, hi, le⟩ := range h (mxe m) (mxe m')
      simp only [plotSpan]
      omega
  · obtain ⟨i, hi, le⟩ := range h (cmn m) (cmn m')
    simp only [plotSpan]
    omega

/-- Ranges that are zeroed one after another. -/
theorem foldl_wipe_zero (q : PlotId) (rs : List (Nat × Nat)) : ∀ s : State,
    (∀ p, (rs.foldl (fun s r => s.wipeMem q r.1 r.2) s).plot p = s.plot p) ∧
      ∀ a, a < plotSpan → s.peekMem q a = 0 ∨ (∃ r ∈ rs, r.1 ≤ a ∧ a < r.2) →
        (rs.foldl (fun s r => s.wipeMem q r.1 r.2) s).peekMem q a = 0 := by
  induction rs with
  | nil => exact fun s => ⟨fun _ => rfl, fun a _ h => h.resolve_right (by simp)⟩
  | cons r rs ih =>
    intro s
    obtain ⟨plot, zero⟩ := ih (s.wipeMem q r.1 r.2)
    refine ⟨plot, fun a inside h => zero a inside ?_⟩
    rw [State.peekMem_wipeMem s q q r.1 r.2 inside]
    rcases h with h | ⟨x, mem, range⟩
    · left
      split
      · rfl
      · exact h
    · rcases List.mem_cons.mp mem with rfl | later
      · exact .inl (if_pos ⟨rfl, range⟩)
      · exact .inr ⟨x, later, range⟩

/-! ### A write of MSH_PCACHE -/

/-- The plot with the boundaries that MSH_PCACHE sets. -/
def MshSet.bounded (m : MshSet) (v : Word) : MshSet :=
  { m with atCache := BitVec.ofNat 9 v.toNat, mxeCache := BitVec.ofNat 9 (v.toNat / 2 ^ 9), cmnCache := BitVec.ofNat 12 (v.toNat / 2 ^ 18) }

/-- The boundaries are set, and the ranges that move are zeroed. -/
def boundarySet (s : State) (q : PlotId) (v : Word) : State :=
  let moves := pcacheMoves s.cfg.content q.val (s.plot q).msh ((s.plot q).msh.bounded v)
  moves.foldl (fun s r => s.wipeMem q r.1 r.2)
    (s.modMsh q fun _ => { (s.plot q).msh.bounded v with zeroing := (s.plot q).msh.zeroing || !moves.isEmpty })

theorem boundarySet_msh (s : State) (q : PlotId) (v : Word) : ((boundarySet s q v).plot q).msh =
    { (s.plot q).msh.bounded v with
      zeroing := (s.plot q).msh.zeroing || !(pcacheMoves s.cfg.content q.val (s.plot q).msh ((s.plot q).msh.bounded v)).isEmpty } := by
  unfold boundarySet
  extract_lets moves
  rw [(foldl_wipe_zero q moves _).1, State.modMsh, State.modPlot_self]

theorem boundarySet_zero (s : State) (q : PlotId) (v : Word) {r : Nat × Nat} {a : Nat}
    (mem : r ∈ pcacheMoves s.cfg.content q.val (s.plot q).msh ((s.plot q).msh.bounded v)) (low : r.1 ≤ a) (high : a < r.2) :
    (boundarySet s q v).peekMem q a = 0 :=
  (foldl_wipe_zero q _ _).2 a (Nat.lt_of_lt_of_le high (pcacheMoves_inside mem)) (.inr ⟨r, mem, low, high⟩)

/-- May the cache boundary of a plot move? -/
def PltSet.boundaryFree (p : PltSet) : Prop := p.admitted = 0 ∧ (p.state = .unassigned ∨ p.state = .disabled ∨ p.state = .idle)

theorem PltSet.boundaryFree_iff (p : PltSet) :
    ¬ (p.admitted ≠ 0 ∨ (!(p.state == .unassigned || p.state == .disabled || p.state == .idle)) = true) ↔ p.boundaryFree := by
  simp only [PltSet.boundaryFree, not_or, ne_eq, Classical.not_not, Bool.not_eq_true', Bool.not_eq_false, Bool.or_eq_true,
    beq_iff_eq, or_assoc]

theorem pcacheWrite_busy {s : State} {q : PlotId} {v : Word} (busy : ¬ (s.plot q).plt.boundaryFree) :
    pcacheWrite s q v = s.modMsh q fun m => { m with ign := true } := by
  have holds := (not_congr (s.plot q).plt.boundaryFree_iff).mpr busy
  unfold pcacheWrite
  extract_lets p st
  exact if_pos (Classical.not_not.mp holds)

theorem pcacheWrite_free {s : State} {q : PlotId} {v : Word} (free : (s.plot q).plt.boundaryFree) :
    FramesMoved q (boundarySet s q v) (pcacheWrite s q v) := by
  unfold pcacheWrite
  extract_lets p st m m' moves old set zeroed
  rw [if_neg ((s.plot q).plt.boundaryFree_iff.mpr free)]
  exact .foldl (fun s x => fitPool_framesMoved ..) old _

theorem cacheFramesMove_holds : cacheFramesMove := by
  intro s q v served tenant idle m
  have zeroing : (zeroingDone s q).plot q = { s.plot q with msh := { (s.plot q).msh with zeroing := false } } := by
    rw [zeroingDone, State.modMsh, State.modPlot_self]
  refine ⟨fun busy => ⟨_, rfl, ?_⟩, fun free => ⟨_, rfl, ?_⟩, ⟨_, rfl, zeroing, rfl⟩⟩
  · rw [hostGate_ok _ served, if_neg tenant, pcacheWrite_busy (s := { s with resp := {} }) busy]
    refine ⟨?_, rfl, rfl⟩
    rw [State.modMsh, State.modPlot_self]
    rfl
  · rw [hostGate_ok _ served, if_neg tenant]
    have moved := pcacheWrite_free (s := { s with resp := {} }) (v := v) (q := q) free
    have msh := boundarySet_msh { s with resp := {} } q v
    have zero := fun r a => boundarySet_zero { s with resp := {} } q v (r := r) (a := a)
    generalize boundarySet { s with resp := {} } q v = u at moved msh zero
    generalize pcacheWrite { s with resp := {} } q v = t at moved
    have zeroing_t : (t.plot q).msh.zeroing = (u.plot q).msh.zeroing := congrArg (·.zeroing) moved.msh
    refine ⟨?_, ?_, fun r mem a low high => ?_⟩
    · rw [moved.msh, msh]
      rfl
    · rw [zeroing_t, msh]
      change ((s.plot q).msh.zeroing || !(pcacheMoves s.cfg.content q.val (s.plot q).msh m).isEmpty) = true ↔ _
      simp
    · exact moved.zero a (Nat.lt_of_lt_of_le high (pcacheMoves_inside mem)) (zero r a mem low high)

/-- Settles O42: a page-in is asked for once and lands in the frame that was found; the boundary moves only while the plot is idle,
and every operation on frames leaves a zero byte zero. -/
theorem pagesComeInAndFramesMove : Obligations.PagesComeInAndFramesMove :=
  ⟨backedPagesComeIn_holds, pageInsLand_holds, cacheFramesMove_holds⟩

end Sys2Proof.Machine

end


section

/-! PROOFS about noise sources (R151 to R153): one source changes, and a failure is noted. -/

namespace Sys2Proof.Machine

open Sys2Proof

/-! ### One source changes -/

theorem State.modWell_wells (s : State) (w v : TileId) (f : Well → Well) :
    (s.modWell w f).nse.wells[v] = if v = w then f s.nse.wells[w] else s.nse.wells[v] := by
  split
  case isTrue e =>
    subst e
    exact Vector.getElem_set_self _
  case isFalse ne => exact Vector.getElem_set_ne w.isLt v.isLt fun e => ne (Fin.ext e.symm)

theorem State.modWell_other (s : State) {w v : TileId} (f : Well → Well) (other : v ≠ w) :
    (s.modWell w f).nse.wells[v] = s.nse.wells[v] := by
  rw [State.modWell_wells, if_neg other]

/-- A state with another value of a deep-well channel. -/
def State.setChan (s : State) (c : Fin 4) (x : Channel) : State := { s with nse := { s.nse with chans := s.nse.chans.set c x } }

theorem State.setChan_self (s : State) (c : Fin 4) (x : Channel) : (s.setChan c x).nse.chans[c] = x := Vector.getElem_set_self _

theorem State.setChan_other (s : State) {c d : Fin 4} (x : Channel) (other : d ≠ c) : (s.setChan c x).nse.chans[d] = s.nse.chans[d] :=
  Vector.getElem_set_ne c.isLt d.isLt fun e => other (Fin.ext e.symm)

theorem State.modRng_rng (s : State) (q p : PlotId) (f : RngSet → RngSet) :
    (s.modRng q f).nse.rng[p] = if p = q then f s.nse.rng[q] else s.nse.rng[p] := by
  split
  case isTrue e =>
    subst e
    exact Vector.getElem_set_self _
  case isFalse ne => exact Vector.getElem_set_ne q.isLt p.isLt fun e => ne (Fin.ext e.symm)

theorem State.modRng_other (s : State) {q p : PlotId} (f : RngSet → RngSet) (other : p ≠ q) :
    (s.modRng q f).nse.rng[p] = s.nse.rng[p] := by
  rw [State.modRng_rng, if_neg other]

/-! ### A failure is noted (R153) -/

/-- The 16th failure within a second locks the source. -/
theorem failState_cons (now : Nat) (fails : List Nat) :
    failState (now :: recentFails fails now) =
      if (fails.filter (fun x => decide (now < x + 100000000))).length < 15 then .failed else .locked := by
  unfold failState recentFails
  rw [List.length_cons]
  split
  · rw [if_neg (by omega)]
  · rw [if_pos (by omega)]

/-- The argument of the line of a failed test (Table 14-6). -/
def healthArg (src : NoiseSource) (apt : Bool) : Nat :=
  (match src with | .well t => t.val | .channel c => 256 + c.val) + (if apt then 65536 else 0)

/-- A source whose line was written in this frame. -/
def sourceLogged (s : State) (src : NoiseSource) : State := { s with nse := { s.nse with logged := src :: s.nse.logged } }

/-- The count of a failed test. -/
def healthCounted (s : State) (apt : Bool) : State :=
  { s with nse := { s.nse with
    rctFail := if apt then s.nse.rctFail else satInc s.nse.rctFail, aptFail := if apt then satInc s.nse.aptFail else s.nse.aptFail } }

theorem State.raisePf_nse (s : State) (c : Fin 15) : (s.raisePf c).nse = s.nse :=
  (State.raisePf_keeps (P := fun _ => false) c (Keeps.refl s) (Covers.refl _)).nse_eq

theorem State.logLine_nse (s : State) (code plot : Nat) (node : Option NodeId) (a b : Nat) :
    (s.logLine code plot node a b).nse = s.nse :=
  (State.logLine_keeps (P := fun _ => false) (Keeps.refl s) code plot node a b (Covers.refl _)).nse_eq

theorem State.raisePf_irq_self (s : State) (c : Fin 15) : (s.raisePf c).pf.irqStatus.getLsbD c.val = true := by
  rw [(State.raisePf_sent s c).pf]
  exact getLsbD_setBit_self _ c.isLt

/-- A cause of the PF that is set stays set when a line is written. -/
theorem State.logLine_irq_of (s : State) (code plot : Nat) (node : Option NodeId) (a b i : Nat)
    (h : s.pf.irqStatus.getLsbD i = true) : (s.logLine code plot node a b).pf.irqStatus.getLsbD i = true :=
  (State.logLine_carries (calm := true) s code plot node a b).irq i h

theorem noteHealth_noted (s : State) (src : NoiseSource) (apt : Bool) (n : Nat) :
    let t := noteHealth s src apt n
    healthNoted s t src apt ∧ t.nse.wells = s.nse.wells ∧ t.nse.chans = s.nse.chans ∧ t.nse.pool = s.nse.pool := by
  intro t
  have counted : ((healthCounted s apt).raisePf 11).nse = (healthCounted s apt).nse := State.raisePf_nse ..
  have log : ((healthCounted s apt).raisePf 11).log = s.log := State.raisePf_log ..
  have irq := State.raisePf_irq_self (healthCounted s apt) 11
  have unfolded : t = if ((healthCounted s apt).raisePf 11).nse.logged.contains src then ((healthCounted s apt).raisePf 11).logSuppressed
      else (sourceLogged ((healthCounted s apt).raisePf 11) src).logLine 0x40 noPlot none (healthArg src apt) n := rfl
  generalize (healthCounted s apt).raisePf 11 = u at counted log irq unfolded
  have logged : u.nse.logged = s.nse.logged := by rw [counted]; rfl
  rw [logged] at unfolded
  rcases known : s.nse.logged.contains src with _ | _
  · rw [if_neg (by rw [known]; exact Bool.false_ne_true)] at unfolded
    have nse : t.nse = { u.nse with logged := src :: u.nse.logged } := by
      rw [unfolded]
      exact State.logLine_nse ..
    refine ⟨⟨?_, ?_, ?_, fun _ => ?_, fun h => ?_⟩, ?_, ?_, ?_⟩
    · rw [nse, counted]; rfl
    · rw [nse, counted]; rfl
    · rw [unfolded]
      exact State.logLine_irq_of _ _ _ _ _ _ _ irq
    · rw [unfolded]
      exact ⟨_, State.logLine_head .., rfl⟩
    · rw [known] at h; contradiction
    · rw [nse, counted]; rfl
    · rw [nse, counted]; rfl
    · rw [nse, counted]; rfl
  · rw [if_pos known] at unfolded
    have nse : t.nse = u.nse := by rw [unfolded]; rfl
    refine ⟨⟨?_, ?_, ?_, fun h => ?_, fun _ => ?_⟩, ?_, ?_, ?_⟩
    · rw [nse, counted]; rfl
    · rw [nse, counted]; rfl
    · rw [unfolded]
      exact irq
    · rw [known] at h; contradiction
    · rw [unfolded, ← log]
      exact ⟨rfl, rfl⟩
    · rw [nse, counted]; rfl
    · rw [nse, counted]; rfl
    · rw [nse, counted]; rfl

/-- What `healthNoted` says depends on the counts, the sources noted and the log alone. -/
theorem healthNoted_of_eq {u s t : State} {src : NoiseSource} {apt : Bool} (h : healthNoted u t src apt)
    (rct : u.nse.rctFail = s.nse.rctFail) (aptF : u.nse.aptFail = s.nse.aptFail) (logged : u.nse.logged = s.nse.logged)
    (log : u.log = s.log) : healthNoted s t src apt := by
  unfold healthNoted at h ⊢
  rwa [rct, aptF, logged, log] at h

theorem failuresTakeSourcesOut_holds : failuresTakeSourcesOut := by
  intro s apt
  refine ⟨fun w => ⟨fun locked => ⟨_, rfl, ?_⟩, fun tested => ⟨_, rfl, ?_⟩⟩, fun c => ⟨fun locked => ⟨_, rfl, ?_⟩, fun tested => ⟨_, rfl, ?_⟩⟩⟩
  · exact if_pos (by rw [locked]; rfl)
  · have fails : healthFail s (.well w) apt = noteHealth (s.modWell w fun x => { x with
        state := failState (s.boot.tclk :: recentFails s.nse.wells[w].fails s.boot.tclk)
        fails := s.boot.tclk :: recentFails s.nse.wells[w].fails s.boot.tclk, fifo := {} }) (.well w) apt
          (s.boot.tclk :: recentFails s.nse.wells[w].fails s.boot.tclk).length := if_neg (fun h => tested (beq_iff_eq.mp h))
    rw [fails]
    obtain ⟨noted, wells, chans, pool⟩ := noteHealth_noted (s.modWell w fun x => { x with
        state := failState (s.boot.tclk :: recentFails s.nse.wells[w].fails s.boot.tclk)
        fails := s.boot.tclk :: recentFails s.nse.wells[w].fails s.boot.tclk, fifo := {} }) (.well w) apt
          (s.boot.tclk :: recentFails s.nse.wells[w].fails s.boot.tclk).length
    refine ⟨?_, ?_, ?_, fun v other => ?_, chans, pool, healthNoted_of_eq noted rfl rfl rfl rfl⟩
    · rw [wells, State.modWell_self]
      exact failState_cons ..
    · rw [wells, State.modWell_self]
    · rw [wells, State.modWell_self]
    · rw [wells, State.modWell_other s _ other]
  · exact if_pos (by rw [locked]; rfl)
  · have fails : healthFail s (.channel c) apt = noteHealth (s.setChan c { s.nse.chans[c] with
        state := failState (s.boot.tclk :: recentFails s.nse.chans[c].fails s.boot.tclk)
        fails := s.boot.tclk :: recentFails s.nse.chans[c].fails s.boot.tclk, half := none, warm := 0 }) (.channel c) apt
          (s.boot.tclk :: recentFails s.nse.chans[c].fails s.boot.tclk).length := if_neg (fun h => tested (beq_iff_eq.mp h))
    rw [fails]
    obtain ⟨noted, wells, chans, pool⟩ := noteHealth_noted (s.setChan c { s.nse.chans[c] with
        state := failState (s.boot.tclk :: recentFails s.nse.chans[c].fails s.boot.tclk)
        fails := s.boot.tclk :: recentFails s.nse.chans[c].fails s.boot.tclk, half := none, warm := 0 }) (.channel c) apt
          (s.boot.tclk :: recentFails s.nse.chans[c].fails s.boot.tclk).length
    refine ⟨?_, ?_, fun d other => ?_, wells, pool, healthNoted_of_eq noted rfl rfl rfl rfl⟩
    · rw [chans, State.setChan_self]
      exact failState_cons ..
    · rw [chans, State.setChan_self]
    · rw [chans, State.setChan_other s _ other]

/-! ### Sources return (R152, R153) -/

theorem Well.stopDraw_rest (w : Well) : w.stopDraw = { w with draw := w.stopDraw.draw, short := w.stopDraw.short } := by
  unfold Well.stopDraw
  split
  · rfl
  · rfl

/-- Every random request that is outstanding has seen a channel in service; nothing else changes. -/
theorem markChannelsUp_rng (s : State) : markChannelsUp s = { s with nse := { s.nse with rng := (markChannelsUp s).nse.rng } } ∧
    ∀ q : PlotId, (markChannelsUp s).nse.rng[q] = { s.nse.rng[q] with up := true } := by
  have steps (l : List PlotId) : ∀ s : State, l.Nodup →
      let t := l.foldl (fun s q => s.modRng q fun r => { r with up := true }) s
      t = { s with nse := { s.nse with rng := t.nse.rng } } ∧
        ∀ q : PlotId, t.nse.rng[q] = if q ∈ l then { s.nse.rng[q] with up := true } else s.nse.rng[q] := by
    induction l with
    | nil => exact fun s _ => ⟨rfl, fun q => by simp⟩
    | cons p l ih =>
      intro s nodup
      obtain ⟨fresh, rest⟩ := List.nodup_cons.mp nodup
      obtain ⟨frame, rng⟩ := ih (s.modRng p fun r => { r with up := true }) rest
      refine ⟨frame, fun q => ?_⟩
      rw [List.foldl_cons, rng q]
      by_cases e : q = p
      · subst e
        rw [if_neg fresh, if_pos (List.mem_cons_self ..), State.modRng_self]
      · rw [State.modRng_other s _ e]
        simp [e]
  obtain ⟨frame, rng⟩ := steps allPlots s allPlots_nodup
  exact ⟨frame, fun q => by rw [markChannelsUp, rng q, if_pos (mem_allPlots q)]⟩

theorem sourcesReturn_holds : sourcesReturn := by
  intro s w c f
  refine ⟨fun due => ⟨_, rfl, ?_⟩, fun idle => ⟨_, rfl, ?_⟩, fun due warm => ⟨_, rfl, ?_⟩, fun idle => ⟨_, rfl, ?_⟩,
    fun served => ⟨_, rfl, ?_⟩, fun served => ⟨_, rfl, ?_⟩, fun served vf => ⟨⟨_, rfl, ?_⟩, ⟨_, rfl, ?_⟩⟩⟩
  · have passes : startupPass s (.well w) = s.modWell w fun x => { x with state := .healthy }.stopDraw :=
      if_pos (by rcases due with h | h <;> rw [h] <;> rfl)
    rw [passes]
    refine ⟨?_, ?_, fun v other => State.modWell_other s _ other, rfl⟩
    · rw [State.modWell_self, Well.stopDraw_rest]
    · rw [State.modWell_self, Well.stopDraw_rest]
  · exact if_neg (by rcases idle with h | h <;> rw [h] <;> decide)
  · have passes : startupPass s (.channel c) = markChannelsUp (s.setChan c { s.nse.chans[c] with state := .healthy, half := none, warm := 0 }) :=
      if_pos (by rcases due with h | h <;> rw [h, warm] <;> rfl)
    rw [passes]
    obtain ⟨frame, rng⟩ := markChannelsUp_rng (s.setChan c { s.nse.chans[c] with state := .healthy, half := none, warm := 0 })
    have chans : (markChannelsUp (s.setChan c { s.nse.chans[c] with state := .healthy, half := none, warm := 0 })).nse.chans =
        (s.setChan c { s.nse.chans[c] with state := .healthy, half := none, warm := 0 }).nse.chans := by rw [frame]
    refine ⟨?_, fun d other => ?_, rng, frame.trans ?_⟩
    · rw [chans, State.setChan_self]
    · rw [chans, State.setChan_other s _ other]
    · rw [chans]
      rfl
  · refine if_neg fun passes => ?_
    obtain ⟨due, warm⟩ := Bool.and_eq_true_iff.mp passes
    rcases idle with h | h | h
    · rw [h] at due; contradiction
    · rw [h] at due; contradiction
    · exact h (of_decide_eq_true warm)
  · rw [hostGate_ok _ served, if_pos rfl]
    refine ⟨?_, fun v other => State.modWell_other _ _ other, rfl⟩
    rw [retryWell, State.modWell_self]
    simp only [beq_iff_eq]
  · rw [hostGate_ok _ served, if_pos rfl]
    have retries : retryChannel { s with resp := {} } c = markChannelsUp (State.setChan { s with resp := {} } c { s.nse.chans[c] with
        state := .startup, fails := if s.nse.chans[c].state == .locked then [] else s.nse.chans[c].fails, half := none, warm := 0 }) := rfl
    rw [retries]
    obtain ⟨frame, -⟩ := markChannelsUp_rng (State.setChan { s with resp := {} } c { s.nse.chans[c] with
        state := .startup, fails := if s.nse.chans[c].state == .locked then [] else s.nse.chans[c].fails, half := none, warm := 0 })
    have chans := congrArg (fun t : State => t.nse.chans) frame
    dsimp only at chans
    refine ⟨?_, fun d other => ?_, frame.trans ?_⟩
    · rw [chans, State.setChan_self]
      simp only [beq_iff_eq]
    · rw [chans, State.setChan_other _ _ other]
    · rw [chans]
      rfl
  · rw [hostGate_ok _ served, if_neg vf]
  · rw [hostGate_ok _ served, if_neg vf]

/-- Settles O45: a failed test, a start-up test and a retry each change the one source, and a failure is counted and noted. -/
theorem noiseSourcesFailAndReturn : Obligations.NoiseSourcesFailAndReturn :=
  ⟨failuresTakeSourcesOut_holds, sourcesReturn_holds⟩

end Sys2Proof.Machine

end


section

/-! PROOFS about reservoirs, the deep well and random requests (R151, R155 to R158). -/

namespace Sys2Proof.Machine

open Sys2Proof

/-! ### Reservoirs (R151, R155) -/

theorem reservoirsFill_holds : reservoirsFill := by
  intro s w bits
  refine ⟨fun healthy => ⟨_, rfl, ?_⟩, fun out_ => ⟨_, rfl, ?_⟩, fun due => ⟨_, rfl, ?_⟩, fun sound few => ⟨_, rfl, ?_⟩⟩
  · have pushes : conditioner s w bits = s.modWell w fun x => { x with fifo := x.fifo.push bits.toNat 128 }.stopDraw :=
      if_pos (beq_iff_eq.mpr healthy)
    rw [pushes]
    refine ⟨?_, ?_, fun v other => State.modWell_other s _ other, rfl⟩
    · rw [State.modWell_self, Well.stopDraw_rest]
      rfl
    · rw [State.modWell_self, Well.stopDraw_rest]
      rfl
  · exact if_neg fun h => out_ (beq_iff_eq.mp h)
  · have draws : drawStart s w = s.modWell w fun x => { x with draw := true } := by
      refine if_pos ?_
      unfold Well.wantsDraw
      rcases due with h | h | h
      · rw [h]; rfl
      · rw [h]; rfl
      · rw [decide_eq_true h, Bool.or_true]
    rw [draws]
    exact ⟨State.modWell_self .., fun v other => State.modWell_other s _ other, rfl⟩
  · refine if_neg ?_
    unfold Well.wantsDraw
    rw [decide_eq_false (Nat.not_le.mpr few)]
    rcases sound with h | h
    · rw [h]; decide
    · rw [h]; decide

/-! ### The deep well (R156) -/

theorem poolBlock_eq (lo bits : BitVec 256) : BitVec.ofNat 512 (lo.toNat + 2 ^ 256 * bits.toNat) = bits ++ lo := by
  apply BitVec.eq_of_toNat_eq
  have := lo.isLt
  have := bits.isLt
  rw [BitVec.toNat_append, BitVec.toNat_ofNat, Nat.mod_eq_of_lt (by omega), ← Nat.shiftLeft_add_eq_or_of_lt lo.isLt,
    Nat.shiftLeft_eq]
  omega

theorem channelOutput_half {s : State} {c : Fin 4} (bits : BitVec 256) (working : s.nse.chans[c].state ≠ .locked)
    (half : s.nse.chans[c].half = none) : channelOutput s c bits = s.setChan c { s.nse.chans[c] with half := some bits } := by
  simp only [channelOutput, half]
  exact if_neg fun h => working (beq_iff_eq.mp h)

theorem channelOutput_whole {s : State} {c : Fin 4} {lo : BitVec 256} (bits : BitVec 256) (working : s.nse.chans[c].state ≠ .locked)
    (half : s.nse.chans[c].half = some lo) :
    channelOutput s c bits = { s with nse := { s.nse with
      chans := s.nse.chans.set c { s.nse.chans[c] with half := none, warm := if s.nse.chans[c].state = .healthy then 0 else 1 }
      pool := if s.nse.chans[c].state = .healthy ∧ s.nse.pool.length < 256 then s.nse.pool ++ [bits ++ lo] else s.nse.pool } } := by
  simp only [channelOutput, half]
  rw [if_neg fun h => working (beq_iff_eq.mp h), poolBlock_eq]
  simp only [beq_iff_eq, Bool.and_eq_true, decide_eq_true_eq]

theorem nextDrawTile_room {s : State} {w : TileId} (h : nextDrawTile s = some w) : s.nse.wells[w].fifo.len + 512 ≤ 32768 := by
  obtain ⟨i, -, pick⟩ := List.exists_of_findSome?_eq_some h
  dsimp only at pick
  split at pick
  · rename_i room
    obtain rfl := Option.some.inj pick
    exact of_decide_eq_true (Bool.and_eq_true_iff.mp room).2
  · contradiction

theorem nextRng_due {s : State} {q : PlotId} (h : nextRng s = some q) :
    s.nse.rng[q].busy = true ∧ s.permitted q = true ∧ s.nse.rng[q].done < s.nse.rng[q].want := by
  unfold nextRng at h
  split at h
  · contradiction
  · obtain ⟨i, -, pick⟩ := List.exists_of_findSome?_eq_some h
    dsimp only at pick
    split at pick
    · rename_i due
      obtain rfl := Option.some.inj pick
      simp only [Bool.and_eq_true, decide_eq_true_eq] at due
      exact ⟨due.1.1, due.1.2, due.2⟩
    · contradiction

/-- A block of 512 bits fits where 512 bits are free. -/
theorem BitFifo.push_block {r : BitFifo} (room : r.len + 512 ≤ 32768) (blk : BitVec 512) :
    r.push blk.toNat 512 = { bits := r.bits + blk.toNat * 2 ^ r.len, len := r.len + 512 } := by
  have fits : min 512 (reservoirBits - r.len) = 512 := by
    simp only [reservoirBits]
    omega
  rw [BitFifo.push, fits, Nat.mod_eq_of_lt blk.isLt]

theorem Sent.nse {s t : State} (h : Sent s t) : t.nse = s.nse := (congrArg State.nse h.rest).trans rfl

theorem State.sendVectors_onlyMessages (f : Fn) (vs : List (Fin 32)) (s : State) : OnlyMessages s (s.sendVectors f vs) := by
  induction vs generalizing s with
  | nil => exact .of_eq rfl
  | cons v vs ih => exact (s.sendVector_onlyMessages f v).trans (ih _)

theorem State.raisePlot_onlyMessages (s : State) (q : PlotId) (m : BitVec 13) : OnlyMessages s (s.raisePlot q m) := by
  unfold State.raisePlot
  extract_lets p rising
  exact (OnlyMessages.of_eq (s := s) (t := s.modPlt q fun p => { p with irqStatus := p.irqStatus ||| m }) rfl).trans
    (State.sendVectors_onlyMessages ..)

/-- A cause that rises is set. -/
theorem getLsbD_or_of_right {w : Nat} (x m : BitVec w) {i : Nat} (h : m.getLsbD i = true) : (x ||| m).getLsbD i = true := by
  rw [BitVec.getLsbD_or, h, Bool.or_true]

/-- What a request's end leaves of the noise block: its own registers change. -/
theorem rngReady_nse (s : State) (q : PlotId) : (rngReady s q).nse = s.nse ∧ OnlyMessages s (rngReady s q) ∧
    rngReadyRaised (rngReady s q) q ∧ (rngReady s q).boot = s.boot := by
  unfold rngReady rngReadyRaised
  by_cases pf : q = 0
  · rw [if_pos pf, if_pos pf]
    exact ⟨State.raisePf_nse .., State.raisePf_onlyMessages .., State.raisePf_irq_self s 12, (State.raisePf_sent s 12).boot⟩
  · rw [if_neg pf, if_neg pf]
    refine ⟨(State.raisePlot_sent s q 0x800).nse, State.raisePlot_onlyMessages .., ?_, (State.raisePlot_sent s q 0x800).boot⟩
    rw [State.raisePlot_self]
    exact getLsbD_or_of_right _ _ (by decide)

theorem rngEnd_self {s : State} {q : PlotId} (busy : s.nse.rng[q].busy = true) (result : BitVec 4) :
    let t := rngEnd s q result
    t.nse = (s.modRng q fun r => { r with
      busy := false, result := if r.again then 4 else result, blocks := BitVec.ofNat 15 r.done, again := false }).nse ∧
      OnlyMessages s t ∧ rngReadyRaised t q ∧ t.boot = s.boot := by
  intro t
  have ends : t = rngReady (s.modRng q fun r => { r with
      busy := false, result := if r.again then 4 else result, blocks := BitVec.ofNat 15 r.done, again := false }) q :=
    if_neg (by rw [busy]; decide)
  obtain ⟨nse, out, raised, boot⟩ := rngReady_nse (s.modRng q fun r => { r with
      busy := false, result := if r.again then 4 else result, blocks := BitVec.ofNat 15 r.done, again := false }) q
  rw [ends]
  exact ⟨nse, (OnlyMessages.of_eq rfl).trans out, raised, boot⟩

theorem State.hostWrite_permitted {s : State} {f : Fn} (may : s.permitted f = true) (addr : Nat) (data : List Byte) (relaxed : Bool) :
    s.hostWrite f addr data relaxed = s.emit (.write f addr data relaxed s.maxPayload) := if_pos may

/-- A well that draws a block. -/
def Well.drawn (blk : BitVec 512) (x : Well) : Well := { x with fifo := x.fifo.push blk.toNat 512 }.stopDraw

/-- A block of the pool goes to a tile. -/
def blockToTile (s : State) (w : TileId) (blk : BitVec 512) (rest : List (BitVec 512)) : State :=
  let t := ({ s with nse := { s.nse with pool := rest, dwInt := satInc s.nse.dwInt } } : State).modWell w
    (Well.drawn blk)
  { t with nse := { t.nse with rrTile := (w.val + 1) % 64 } }

theorem blockToTile_wells (s : State) (w v : TileId) (blk : BitVec 512) (rest : List (BitVec 512)) :
    (blockToTile s w blk rest).nse.wells[v] =
      if v = w then s.nse.wells[w].drawn blk else s.nse.wells[v] :=
  State.modWell_wells ({ s with nse := { s.nse with pool := rest, dwInt := satInc s.nse.dwInt } } : State) w v
    (Well.drawn blk)

/-- A block of the pool goes to a function's request, before the request ends. -/
def blockToHost (s : State) (q : PlotId) (blk : BitVec 512) (rest : List (BitVec 512)) : State :=
  (({ s with nse := { s.nse with pool := rest, dwHost := satInc s.nse.dwHost, rrFn := (q.val + 1) % 65 } } : State).emit
    (.write q (s.nse.rng[q].cap.toNat + 64 * s.nse.rng[q].done) (leBytes 64 blk.toNat) s.devCtl.relaxed s.maxPayload)).modRng q
      fun r => { r with done := r.done + 1 }

section
variable {s : State} {blk : BitVec 512} {rest : List (BitVec 512)} (pool : s.nse.pool = blk :: rest) (keyed : drawsKey s = false)
include pool keyed

/-- Of what a tile's draw changes the plots' counts alone are left open. -/
theorem deepBlock_tile {w : TileId} (next : nextDrawTile s = some w) :
    deepBlock s = { blockToTile s w blk rest with plots := (deepBlock s).plots } := by
  have goes : deepBlock s = if h : s.cfg.content.tileOwner w.val < 65 then
      if s.cfg.content.tileOwner w.val = 0 then blockToTile s w blk rest
      else (blockToTile s w blk rest).modLive ⟨s.cfg.content.tileOwner w.val, h⟩ fun a => { a with drawCnt := satInc a.drawCnt }
      else blockToTile s w blk rest := by
    simp only [deepBlock, pool, keyed, next]
    rfl
  rw [goes]
  split
  · split
    · rfl
    · rfl
  · rfl

theorem deepBlock_host {q : PlotId} (none_ : nextDrawTile s = none) (next : nextRng s = some q) :
    deepBlock s = if s.nse.rng[q].done + 1 = s.nse.rng[q].want then rngEnd (blockToHost s q blk rest) q 1
      else blockToHost s q blk rest := by
  obtain ⟨-, may, -⟩ := nextRng_due next
  simp only [deepBlock, pool, keyed, none_, next]
  rw [State.hostWrite_permitted (by exact may)]
  rfl

end

theorem theDeepWellServes_holds : theDeepWellServes := by
  intro s
  refine ⟨fun c bits working => ⟨fun half => ⟨_, rfl, ?_⟩, fun lo half => ⟨_, rfl, ?_⟩⟩, fun c bits locked => ⟨_, rfl, ?_⟩,
    fun empty => ⟨_, rfl, ?_⟩, fun blk rest pool => ⟨fun key => ⟨_, rfl, ?_⟩, fun w keyed next => ⟨_, rfl, ?_⟩,
      fun q keyed none_ next => ⟨_, rfl, ?_⟩, fun keyed none_ none' => ⟨_, rfl, ?_⟩⟩⟩
  · rw [channelOutput_half bits working half]
    exact ⟨State.setChan_self .., rfl⟩
  · rw [channelOutput_whole bits working half]
    exact ⟨Vector.getElem_set_self _, rfl, rfl⟩
  · exact if_pos (beq_iff_eq.mpr locked)
  · simp only [deepBlock, empty]
  · simp only [deepBlock, pool, key]
    rw [if_pos trivial]
    have low : BitVec.ofNat 256 (blk.toNat % 2 ^ 256) = blk.setWidth 256 := by
      apply BitVec.eq_of_toNat_eq
      rw [BitVec.toNat_ofNat, BitVec.toNat_setWidth, Nat.mod_mod]
    rw [low]
  · rw [deepBlock_tile pool keyed next]
    have fifo : (blockToTile s w blk rest).nse.wells[w].fifo =
        { bits := s.nse.wells[w].fifo.bits + blk.toNat * 2 ^ s.nse.wells[w].fifo.len, len := s.nse.wells[w].fifo.len + 512 } := by
      rw [← BitFifo.push_block (nextDrawTile_room next), blockToTile_wells, if_pos rfl, Well.drawn, Well.stopDraw_rest]
    refine ⟨rfl, rfl, rfl, rfl, rfl, ?_, ?_, fun v other => (blockToTile_wells ..).trans (if_neg other), rfl⟩
    · exact congrArg (·.len) fifo
    · exact congrArg (·.bits) fifo
  · obtain ⟨busy, -, due⟩ := nextRng_due next
    rw [deepBlock_host pool keyed none_ next]
    have rng : (blockToHost s q blk rest).nse.rng[q] = { s.nse.rng[q] with done := s.nse.rng[q].done + 1 } := State.modRng_self ..
    split
    · rename_i last
      obtain ⟨nse, ⟨more, out, -⟩, -, -⟩ := rngEnd_self (q := q) (s := blockToHost s q blk rest) (by rw [rng]; exact busy) 1
      have ended := congrArg (fun n : NseState => n.rng[q]) nse
      rw [State.modRng_self, rng] at ended
      refine ⟨by rw [nse]; rfl, by rw [nse]; rfl, by rw [nse]; rfl, by rw [nse]; rfl, by rw [ended], by rw [nse]; rfl, ⟨more, ?_⟩, ?_⟩
      · rw [out]
        change (s.out ++ [_]) ++ more = _
        rw [List.append_assoc]
        rfl
      · rw [ended]
        exact iff_of_true rfl last
    · rename_i more
      refine ⟨rfl, rfl, rfl, rfl, by rw [rng], rfl, ⟨[], rfl⟩, ?_⟩
      rw [rng]
      exact iff_of_false (by rw [busy]; decide) more
  · simp only [deepBlock, pool, keyed, none_, none']
    rfl

/-! ### Random requests (R157, R158) -/

/-- A request that begins. -/
def rngBegun (s : State) (q : PlotId) (n : Nat) : State := s.modRng q fun r => { r with
  busy := true, cap := r.addr, want := n, done := 0, goAt := s.boot.tclk, blocks := 0, again := false, result := 0,
  up := !deepWellDown s }

theorem rngRequest_begins {s : State} {q : PlotId} {n : Nat} (free : s.nse.rng[q].busy = false)
    (aligned : s.nse.rng[q].addr.toNat % 64 = 0) (some_ : n ≠ 0) (few : n ≤ 16384) :
    rngRequest s q n = if s.nse.dwHostEn then rngBegun s q n else rngEnd (rngBegun s q n) q 2 := by
  unfold rngRequest
  extract_lets r begun
  rw [if_neg (by rw [show r.busy = false from free]; decide), if_neg (by
    rintro (h | h | h)
    · exact h aligned
    · exact some_ h
    · omega)]
  have en : begun.nse.dwHostEn = s.nse.dwHostEn := rfl
  rw [en]
  rcases s.nse.dwHostEn with _ | _
  · rfl
  · rfl

theorem randomRequests_holds : randomRequests := by
  intro s f q n served own
  refine ⟨fun busy => ⟨_, rfl, ?_⟩, fun free bad => ⟨_, rfl, ?_⟩, fun free aligned some_ few => ⟨fun on => ⟨_, rfl, ?_⟩, fun off => ⟨_, rfl, ?_⟩⟩,
    fun free => ⟨_, rfl, ?_⟩, fun busy => ⟨_, rfl, ?_⟩⟩
  · rw [hostGate_ok _ served, if_pos own]
    have waits : rngRequest { s with resp := {} } q n.toNat = State.modRng { s with resp := {} } q fun r => { r with again := true } :=
      if_pos busy
    rw [waits]
    exact ⟨State.modRng_self .., fun p other => State.modRng_other _ _ other, rfl⟩
  · rw [hostGate_ok _ served, if_pos own]
    have ignored : rngRequest { s with resp := {} } q n.toNat =
        State.modRng { s with resp := {} } q fun r => { r with result := 4, blocks := 0 } := by
      refine (if_neg (by rw [show ({ s with resp := {} } : State).nse.rng[q].busy = false from free]; decide)).trans (if_pos ?_)
      rcases bad with h | h | h
      · exact .inl h
      · exact .inr (.inl (by rw [h]; rfl))
      · exact .inr (.inr h)
    rw [ignored]
    exact ⟨State.modRng_self .., fun p other => State.modRng_other _ _ other, rfl⟩
  · rw [hostGate_ok _ served, if_pos own, rngRequest_begins (s := { s with resp := {} }) free aligned
      (fun h => some_ (BitVec.eq_of_toNat_eq h)) few, if_pos (by exact on)]
    have rng : (rngBegun { s with resp := {} } q n.toNat).nse.rng[q] = _ := State.modRng_self ..
    exact ⟨by rw [rng], by rw [rng]; rfl, by rw [rng], by rw [rng], by rw [rng], by rw [rng], by rw [rng],
      fun p other => State.modRng_other _ _ other, rfl⟩
  · rw [hostGate_ok _ served, if_pos own, rngRequest_begins (s := { s with resp := {} }) free aligned
      (fun h => some_ (BitVec.eq_of_toNat_eq h)) few, if_neg (by rw [show ({ s with resp := {} } : State).nse.dwHostEn = false from off]; decide)]
    have rng : (rngBegun { s with resp := {} } q n.toNat).nse.rng[q] = _ := State.modRng_self ..
    obtain ⟨nse, -, raised, -⟩ := rngEnd_self (q := q) (s := rngBegun { s with resp := {} } q n.toNat) (by rw [rng]) 2
    have ended := congrArg (fun n : NseState => n.rng[q]) nse
    rw [State.modRng_self, rng] at ended
    exact ⟨by rw [ended], by rw [ended]; rfl, by rw [ended]; rfl, raised⟩
  · exact if_pos (by rw [free]; rfl)
  · have expires : rngExpire s q = rngEnd (s.advanceTo (s.nse.rng[q].goAt + 100000)) q (if !s.nse.dwHostEn || !s.nse.rng[q].up then 2 else 1) :=
      if_neg (by rw [busy]; decide)
    rw [expires]
    obtain ⟨nse, -, raised, boot⟩ := rngEnd_self (q := q) (s := s.advanceTo (s.nse.rng[q].goAt + 100000)) busy
      (if !s.nse.dwHostEn || !s.nse.rng[q].up then 2 else 1)
    have ended := congrArg (fun n : NseState => n.rng[q]) nse
    rw [State.modRng_self] at ended
    refine ⟨by rw [boot]; rfl, by rw [ended], by rw [ended]; rfl, raised, ?_⟩
    rw [ended]
    change (if s.nse.rng[q].again = true then _ else _) = _
    simp

/-- Settles O46: bits enter a reservoir as it has room, the pool's block goes to the first consumer of the order, and a request
ends with its result when its window or its blocks do. -/
theorem noiseIsServed : Obligations.NoiseIsServed :=
  ⟨reservoirsFill_holds, theDeepWellServes_holds, randomRequests_holds⟩

end Sys2Proof.Machine

end


section

/-!
PROOFS about noise tapes (R165 to R173): fetches and the measure of a lane tend it (`LaneTended`); a segment that is refused
leaves its record, its line and its fault, which later tending keeps.
-/

namespace Sys2Proof.Machine

open Sys2Proof

/-! ### A lane is tended: fetched for and measured -/

theorem State.modLane_plot (s : State) (q : PlotId) (i : Fin 64) (f : TapeLane → TapeLane) : (s.modLane q i f).plot q =
    { s.plot q with nse := { (s.plot q).nse with lanes := (s.plot q).nse.lanes.set i (f (s.plot q).nse.lanes[i]) } } :=
  State.modNse_self ..

theorem State.modLane_laneOf (s : State) (q : PlotId) (i : Fin 64) (f : TapeLane → TapeLane) :
    laneOf (s.modLane q i f) q i = f (laneOf s q i) := by
  rw [laneOf, State.modLane_plot]
  exact Vector.getElem_set_self _

theorem State.modLane_laneOf_other (s : State) (q : PlotId) {i k : Fin 64} (f : TapeLane → TapeLane) (other : k ≠ i) :
    laneOf (s.modLane q i f) q k = laneOf s q k := by
  rw [laneOf, State.modLane_plot]
  exact Vector.getElem_set_ne i.isLt k.isLt fun e => other (Fin.ext e.symm)

/-- From `s` to `t` one lane was fetched for and measured: its places in flight change, causes rise, and no line is written. -/
structure LaneTended (q : PlotId) (i : Fin 64) (s t : State) : Prop where
  plot : t.plot q = { s.plot q with plt := (t.plot q).plt, nse := (t.plot q).nse }
  plt : (t.plot q).plt = { (s.plot q).plt with irqStatus := (t.plot q).plt.irqStatus }
  irq : ∀ b, (s.plot q).plt.irqStatus.getLsbD b = true → (t.plot q).plt.irqStatus.getLsbD b = true
  nse : (t.plot q).nse = { (s.plot q).nse with lanes := (t.plot q).nse.lanes, lowRaised := (t.plot q).nse.lowRaised }
  others : ∀ k : Fin 64, k ≠ i → laneOf t q k = laneOf s q k
  lane : laneOf t q i = { laneOf s q i with
    flight := (laneOf t q i).flight, refetch := (laneOf t q i).refetch, low := (laneOf t q i).low }
  log : t.log = s.log
  boot : t.boot = s.boot
  out : s.out <+: t.out

section
variable {q : PlotId} {i : Fin 64}

theorem LaneTended.refl (s : State) : LaneTended q i s s :=
  ⟨rfl, rfl, fun _ => id, rfl, fun _ _ => rfl, rfl, rfl, rfl, List.prefix_rfl⟩

theorem LaneTended.trans {s t u : State} (h : LaneTended q i s t) (k : LaneTended q i t u) : LaneTended q i s u where
  plot := by rw [k.plot, h.plot]
  plt := by rw [k.plt, h.plt]
  irq b := k.irq b ∘ h.irq b
  nse := by rw [k.nse, h.nse]
  others x ne := (k.others x ne).trans (h.others x ne)
  lane := by rw [k.lane, h.lane]
  log := k.log.trans h.log
  boot := k.boot.trans h.boot
  out := h.out.trans k.out

/-- A change of the lane's places in flight or of its measure. -/
theorem LaneTended.modLane (s : State) {f : TapeLane → TapeLane}
    (only : ∀ l, f l = { l with flight := (f l).flight, refetch := (f l).refetch, low := (f l).low }) :
    LaneTended q i s (s.modLane q i f) where
  plot := by rw [State.modLane_plot]
  plt := by rw [State.modLane_plot]
  irq b h := by rw [State.modLane_plot]; exact h
  nse := by rw [State.modLane_plot]
  others k ne := State.modLane_laneOf_other s q f ne
  lane := by
    rw [State.modLane_laneOf]
    exact only _
  log := rfl
  boot := rfl
  out := List.prefix_rfl

theorem LaneTended.hostRead (s : State) (u : DmaUser) (a n : Nat) : LaneTended q i s (s.hostRead q u a n) :=
  ⟨rfl, rfl, fun _ => id, rfl, fun _ _ => rfl, rfl, rfl, rfl, List.prefix_append ..⟩

theorem OnlyMessages.prefix {s t : State} (h : OnlyMessages s t) : s.out <+: t.out := by
  obtain ⟨es, out, -⟩ := h
  exact ⟨es, out.symm⟩

theorem LaneTended.raisePlot (s : State) (m : BitVec 13) : LaneTended q i s (s.raisePlot q m) where
  plot := by rw [State.raisePlot_self]
  plt := by rw [State.raisePlot_self]
  irq b h := by rw [State.raisePlot_self, BitVec.getLsbD_or, h, Bool.true_or]
  nse := by rw [State.raisePlot_self]
  others k ne := by rw [laneOf, State.raisePlot_self]; rfl
  lane := by rw [laneOf, State.raisePlot_self]; rfl
  log := (State.raisePlot_log_time s q m).1
  boot := (State.raisePlot_sent s q m).boot
  out := (State.raisePlot_onlyMessages s q m).prefix

theorem fetchLaneAux_tended (n : Nat) (s : State) : LaneTended q i s (fetchLaneAux n s q i) := by
  induction n generalizing s with
  | zero => exact .refl s
  | succ n ih =>
    unfold fetchLaneAux
    extract_lets c ns l at_
    split
    · exact .refl s
    split
    · exact ((LaneTended.modLane s fun _ => rfl).trans (.hostRead ..)).trans (ih _)
    split
    · exact ((LaneTended.modLane s fun _ => rfl).trans (.hostRead ..)).trans (ih _)
    · exact .refl s

theorem fetchLane_tended (s : State) : LaneTended q i s (fetchLane s q i) := fetchLaneAux_tended 5 s

/-- TAPE_LOW was raised in this window. -/
theorem LaneTended.lowRaised (s : State) : LaneTended q i s (s.modNse q fun n => { n with lowRaised := true }) where
  plot := by rw [State.modNse_self]
  plt := by rw [State.modNse_self]
  irq b h := by rw [State.modNse_self]; exact h
  nse := by rw [State.modNse_self]
  others k ne := by rw [laneOf, State.modNse_self]; rfl
  lane := by rw [laneOf, State.modNse_self]; rfl
  log := rfl
  boot := rfl
  out := List.prefix_rfl

theorem checkLow_tended (s : State) : LaneTended q i s (checkLow s q i) := by
  unfold checkLow
  extract_lets c ns l low measured
  have toMeasured : LaneTended q i s measured := .modLane s fun _ => rfl
  split
  · exact .refl s
  split
  · exact (toMeasured.trans (.lowRaised _)).trans (.raisePlot ..)
  · exact toMeasured

/-- The measure of a lane changes neither its places in flight nor what is to be fetched again. -/
theorem checkLow_lane (s : State) : laneOf (checkLow s q i) q i = { laneOf s q i with low := (laneOf (checkLow s q i) q i).low } := by
  have measured (f : TapeLane → TapeLane) (only : ∀ l, f l = { l with low := (f l).low }) :
      laneOf (s.modLane q i f) q i = { laneOf s q i with low := (laneOf (s.modLane q i f) q i).low } := by
    rw [State.modLane_laneOf]
    exact only _
  unfold checkLow
  extract_lets c ns l low t
  split
  · rfl
  split
  · have same : laneOf ((t.modNse q fun n => { n with lowRaised := true }).raisePlot q 0x40) q i = laneOf t q i := by
      rw [laneOf, State.raisePlot_self, State.modNse_self]
      rfl
    rw [same]
    exact measured _ fun _ => rfl
  · exact measured _ fun _ => rfl

end

/-! ### What a function may ask, and how -/

/-- In `t` every function has the rights and the Device Control fields it has in `s`. -/
structure SameAsking (s t : State) : Prop where
  bme : ∀ g : Fn, t.fns[g].bme = s.fns[g].bme
  d3 : ∀ g : Fn, t.fns[g].d3 = s.fns[g].d3
  ctl : ∀ g : Fn, t.fns[g].ctl = s.fns[g].ctl

theorem SameAsking.trans {s t u : State} (h : SameAsking s t) (k : SameAsking t u) : SameAsking s u :=
  ⟨fun g => (k.bme g).trans (h.bme g), fun g => (k.d3 g).trans (h.d3 g), fun g => (k.ctl g).trans (h.ctl g)⟩

theorem SameAsking.of_fns {s t : State} (h : t.fns = s.fns) : SameAsking s t :=
  ⟨fun g => by rw [h], fun g => by rw [h], fun g => by rw [h]⟩

theorem SameAsking.of_sent {s t : State} (h : Sent s t) : SameAsking s t :=
  ⟨fun g => by rw [h.fns g], fun g => by rw [h.fns g], fun g => by rw [h.fns g]⟩

theorem SameAsking.permitted {s t : State} (h : SameAsking s t) (q : PlotId) : t.permitted q = s.permitted q := by
  rw [State.permitted, h.bme q, h.d3 q, h.d3 0]
  rfl

theorem SameAsking.devCtl {s t : State} (h : SameAsking s t) : t.devCtl = s.devCtl := h.ctl 0

theorem SameAsking.maxRead {s t : State} (h : SameAsking s t) : t.maxRead = s.maxRead := by rw [State.maxRead, h.devCtl]; rfl

theorem SameAsking.tagBits {s t : State} (h : SameAsking s t) : t.tagBits = s.tagBits := by rw [State.tagBits, h.devCtl]; rfl

theorem State.raisePlot_asking (s : State) (q : PlotId) (m : BitVec 13) : SameAsking s (s.raisePlot q m) := by
  have sent := SameAsking.of_sent (s.raisePlot_sent q m)
  exact ⟨sent.bme, sent.d3, sent.ctl⟩

theorem State.logLine_asking (s : State) (code plot : Nat) (node : Option NodeId) (a b : Nat) :
    SameAsking s (s.logLine code plot node a b) := by
  unfold State.logLine
  extract_lets log line full lostNow lines taken counted
  have sent := SameAsking.of_sent (State.raisePf_sent { s with log := counted } 0)
  exact ⟨sent.bme, sent.d3, sent.ctl⟩

theorem State.aerError_asking (s : State) (f : Fn) (bit : Nat) : SameAsking s (s.aerError f bit) := by
  obtain ⟨header, n, e⟩ := s.aerError_eq f bit
  have kept (g : Fn) : (s.aerError f bit).fns[g] = { s.fns[g] with aer := (s.aerError f bit).fns[g].aer } := by
    rw [e]
    dsimp only
    rw [State.modFn_fns]
    split
    case isTrue same => rw [same]
    case isFalse => rfl
  exact ⟨fun g => by rw [kept g], fun g => by rw [kept g], fun g => by rw [kept g]⟩

theorem dmaError_asking (s : State) (f : Fn) (u : DmaUser) (k : ReadFail) : SameAsking s (dmaError s f u k) := by
  unfold dmaError
  extract_lets timed h
  have fns : timed.fns = s.fns := by
    dsimp only [timed]
    split <;> rfl
  refine SameAsking.trans ?_ (State.aerError_asking _ f (readFailBit k))
  exact .of_fns fns

theorem dmaError_plots (s : State) (f : Fn) (u : DmaUser) (k : ReadFail) : (dmaError s f u k).plots = s.plots :=
  (dmaError_keeps (P := fun _ => false) f u k (Keeps.refl s) (Covers.refl _)).plots_eq

/-! ### Doorbells (R173) -/

theorem State.hostRead_laneOf (s : State) (q : PlotId) (u : DmaUser) (a n : Nat) (p : PlotId) (k : Fin 64) :
    laneOf (s.hostRead q u a n) p k = laneOf s p k := rfl

/-- May Compass fetch for a plot: it plays a tape, no refused segment halts it, and its requests may go (R167)? -/
def mayFetch (s : State) (q : PlotId) : Bool :=
  (tapeRws s q).tapeOn && !(tapeRws s q).tapeDir && (s.plot q).nse.halted.isNone && s.permitted q

theorem fetchLaneAux_succ (n : Nat) (s : State) (q : PlotId) (i : Fin 64) : fetchLaneAux (n + 1) s q i =
    if !mayFetch s q then s
    else if (laneOf s q i).refetch then
      fetchLaneAux n ((s.modLane q i fun l => { l with refetch := false }).hostRead q (.tapeSegment i)
        (laneAddr (tapeRws s q) i.val (laneOf s q i).head) 4096) q i
    else if decide ((laneOf s q i).bufs.length + (laneOf s q i).flight < 4) &&
        decide ((laneOf s q i).flight < occupancy (laneOf s q i).tail (laneOf s q i).head) then
      fetchLaneAux n ((s.modLane q i fun l => { l with flight := l.flight + 1 }).hostRead q (.tapeSegment i)
        (laneAddr (tapeRws s q) i.val ((laneOf s q i).head + BitVec.ofNat 16 (laneOf s q i).flight)) 4096) q i
    else s := rfl

/-- A lane that has as many segments in flight as are published asks for nothing. -/
theorem fetchLaneAux_full (n : Nat) {s : State} {q : PlotId} {i : Fin 64} (once : (laneOf s q i).refetch = false)
    (full : occupancy (laneOf s q i).tail (laneOf s q i).head ≤ (laneOf s q i).flight) : fetchLaneAux n s q i = s := by
  rcases n with _ | n
  · rfl
  rw [fetchLaneAux_succ, once, decide_eq_false (Nat.not_lt.mpr full), Bool.and_false]
  exact ite_self _

/-- A lane whose one segment is to be fetched asks for it. -/
theorem fetchLane_one {s : State} {q : PlotId} {i : Fin 64} (on : (tapeRws s q).tapeOn = true) (play : (tapeRws s q).tapeDir = false)
    (going : (s.plot q).nse.halted = none) (may : s.permitted q = true) (once : (laneOf s q i).refetch = false)
    (idle : (laneOf s q i).flight = 0) (room : (laneOf s q i).bufs.length < 4)
    (one : occupancy (laneOf s q i).tail (laneOf s q i).head = 1) :
    fetchLane s q i = (s.modLane q i fun l => { l with flight := l.flight + 1 }).hostRead q (.tapeSegment i)
      (laneAddr (tapeRws s q) i.val (laneOf s q i).head) 4096 := by
  have gate : mayFetch s q = true := by
    rw [mayFetch, on, play, going, may]; rfl
  rw [fetchLane, fetchLaneAux_succ, gate, once, idle, one, decide_eq_true (Nat.add_zero _ ▸ room), BitVec.add_zero]
  have lane : laneOf ((s.modLane q i fun l => { l with flight := l.flight + 1 }).hostRead q (.tapeSegment i)
      (laneAddr (tapeRws s q) i.val (laneOf s q i).head) 4096) q i = { laneOf s q i with flight := 1 } := by
    rw [State.hostRead_laneOf, State.modLane_laneOf, idle]
  generalize (s.modLane q i fun l => { l with flight := l.flight + 1 }).hostRead _ _ _ _ = u at lane ⊢
  exact fetchLaneAux_full 4 (by rw [lane]; exact once) (by rw [lane]; exact Nat.le_of_eq one)

theorem tapeDoorbells_holds : tapeDoorbells := by
  refine ⟨fun s i x served => ⟨_, rfl, ?_⟩, fun s f q i x served own tenant => ?_⟩
  · rw [hostGate_ok _ served]
    exact if_neg (by simp)
  intro c l occ
  have gate : (reaches f q && !(q == 0)) = true := by simp [own, tenant]
  refine ⟨fun refused => ⟨_, rfl, ?_⟩, fun on ours fits => ⟨_, rfl, ?_⟩⟩
  · rw [hostGate_ok _ served, if_pos gate]
    have refuses : tapeDoorbell { s with resp := {} } q i x =
        (tapeErr { s with resp := {} } q i.val 8 (s.plot q).nse.errSeg.toNat).logLine 0x42 q.val none i.val x.toNat := by
      refine if_pos ?_
      rcases refused with h | h | h
      · rw [show (({ s with resp := {} } : State).plot q).rws.tapeOn = false from h]; rfl
      · rw [decide_eq_true (show (({ s with resp := {} } : State).cfg.content.tileList q.val).length ≤ i.val from h), Bool.or_true,
          Bool.true_or]
      · rw [Bool.or_eq_true]
        exact .inr (decide_eq_true h)
    rw [refuses]
    refine ⟨?_, _, State.logLine_head .., rfl, rfl, rfl, rfl⟩
    rw [State.logLine_plot, tapeErr, State.modNse_self, BitVec.ofNat_toNat, BitVec.setWidth_eq]
    rfl
  · rw [hostGate_ok _ served, if_pos gate]
    have accepts : tapeDoorbell { s with resp := {} } q i x =
        if c.tapeDir then checkLow (State.modLane { s with resp := {} } q i fun l => { l with head := x }) q i
        else checkLow (fetchLane (State.modLane { s with resp := {} } q i fun l => { l with tail := x }) q i) q i := by
      refine if_neg ?_
      rw [show (({ s with resp := {} } : State).plot q).rws.tapeOn = true from on,
        decide_eq_false (Nat.not_le.mpr (show i.val < (({ s with resp := {} } : State).cfg.content.tileList q.val).length from ours))]
      exact fun h => absurd (of_decide_eq_true (p := c.tapeLen.toNat < occ) h) (Nat.not_lt.mpr fits)
    rw [accepts]
    rcases dir : c.tapeDir with _ | _
    · rw [if_neg Bool.false_ne_true]
      generalize moved : (State.modLane { s with resp := {} } q i fun l => { l with tail := x }) = u
      have lane : laneOf u q i = { l with tail := x } := by rw [← moved, State.modLane_laneOf]; rfl
      have others (k : Fin 64) (ne : k ≠ i) : laneOf u q k = laneOf s q k := by
        rw [← moved, State.modLane_laneOf_other _ q _ ne]; rfl
      have tended := (fetchLane_tended (q := q) (i := i) u).trans (checkLow_tended (fetchLane u q i))
      refine ⟨fun k ne => (tended.others k ne).trans (others k ne), tended.log.trans (by rw [← moved]; rfl),
        fun h => absurd h (by decide), fun _ => ⟨?_, ?_, ?_, fun tape going may idle once room one => ?_⟩⟩
      · rw [tended.lane, lane]
      · rw [tended.lane, lane]
      · rw [tended.lane, lane]
      · have rws : tapeRws u q = c := by
          rw [← moved, tapeRws, State.modLane_plot]
          rfl
        have asks := fetchLane_one (s := u) (q := q) (i := i) (by rw [rws]; exact tape) (by rw [rws]; exact dir)
          (by rw [← moved, State.modLane_plot]; exact going) (by rw [← moved]; exact may) (by rw [lane]; exact once)
          (by rw [lane]; exact idle) (by rw [lane]; exact room)
          (by rw [lane, ← one, show occ = occupancy x l.head by dsimp only [occ]; rw [dir]; rfl])
        rw [rws, lane] at asks
        have flight : (laneOf (fetchLane u q i) q i).flight = 1 := by
          rw [asks]
          rw [State.hostRead_laneOf, State.modLane_laneOf, lane, show l.flight = 0 from idle]
        refine ⟨?_, ?_⟩
        · rw [checkLow_lane, flight]
        · obtain ⟨more, out⟩ := (checkLow_tended (q := q) (i := i) (fetchLane u q i)).out
          refine ⟨more, out.symm.trans ?_⟩
          rw [asks, ← moved]
          exact List.append_assoc ..
    · rw [if_pos rfl]
      have tended := checkLow_tended (q := q) (i := i) (State.modLane { s with resp := {} } q i fun l => { l with head := x })
      refine ⟨fun k ne => (tended.others k ne).trans (State.modLane_laneOf_other _ q _ ne), tended.log, fun _ => ⟨?_, ?_⟩,
        fun h => absurd h (by decide)⟩
      · rw [tended.lane, State.modLane_laneOf]
      · rw [tended.lane, State.modLane_laneOf]
        rfl

/-! ### A refused segment (R167) -/

/-- From `s` to `t` a job of a plot may have been faulted: of the plot's lanes, the tape error and its causes that leaves all but the
words that wait to be recorded. -/
structure TapeStays (q : PlotId) (s t : State) : Prop where
  irq : (t.plot q).plt.irqStatus = (s.plot q).plt.irqStatus
  nse : (t.plot q).nse = { (s.plot q).nse with lanes := (t.plot q).nse.lanes }
  lanes : ∀ k : Fin 64, laneOf t q k = { laneOf s q k with record := (laneOf t q k).record }

theorem TapeStays.trans {q : PlotId} {s t u : State} (h : TapeStays q s t) (k : TapeStays q t u) : TapeStays q s u where
  irq := k.irq.trans h.irq
  nse := by rw [k.nse, h.nse]
  lanes x := by rw [k.lanes x, h.lanes x]

theorem TapeStays.of_plot {q : PlotId} {s t : State} (irq : (t.plot q).plt.irqStatus = (s.plot q).plt.irqStatus)
    (nse : (t.plot q).nse = (s.plot q).nse) : TapeStays q s t where
  irq := irq
  nse := by rw [nse]
  lanes k := by rw [laneOf, nse]; rfl

theorem State.modJob_tapeStays (s : State) (q : PlotId) (i : BitVec 16) (f : Job → Job) : TapeStays q s (s.modJob q i f) :=
  .of_plot (by rw [State.modJob, State.modPlt_self]) (by rw [State.modJob, State.modPlt_self])

theorem State.logLine_tapeStays (q : PlotId) (s : State) (code plot : Nat) (node : Option NodeId) (a b : Nat) :
    TapeStays q s (s.logLine code plot node a b) := by
  have same := State.logLine_plot s code plot node a b q
  exact .of_plot (by rw [same]) (by rw [same])

theorem clearJobEngines_nse (s : State) (q : PlotId) (i : BitVec 16) : ((clearJobEngines s q i).plot q).nse =
    if (s.plot q).an.job == i then { (s.plot q).nse with lanes := (s.plot q).nse.lanes.map fun l => { l with record := [] } }
    else (s.plot q).nse := by
  simp [clearJobEngines, clearJobRest, clearMatrixJob, clearFlashJob, clearMeshJob, clearAnnealJob, clearGraftJob, State.plot,
    State.modPlot]

theorem clearJobEngines_tapeStays (s : State) (q : PlotId) (i : BitVec 16) : TapeStays q s (clearJobEngines s q i) := by
  have irq : ((clearJobEngines s q i).plot q).plt.irqStatus = (s.plot q).plt.irqStatus := by rw [clearJobEngines_plt]
  have nse := clearJobEngines_nse s q i
  rcases mine : (s.plot q).an.job == i with _ | _
  · exact .of_plot irq (nse.trans (if_neg (by rw [mine]; exact Bool.false_ne_true)))
  · rw [if_pos mine] at nse
    refine ⟨irq, by rw [nse], fun k => ?_⟩
    have lane : laneOf (clearJobEngines s q i) q k = { laneOf s q k with record := [] } := by
      rw [laneOf, nse]
      exact Vector.getElem_map ..
    rw [lane]

theorem beginAbandon_tapeStays (s : State) (q : PlotId) (j : Job) (c : Code) (node : Option NodeId) :
    TapeStays q s (beginAbandon s q j c node) := by
  have cleared := (State.modJob_tapeStays s q j.idx _).trans (clearJobEngines_tapeStays
    (s.modJob q j.idx fun j => { j.dropCopies with
      phase := .abandoning, code := c, node := node, faultAt := some s.boot.tclk, logged := true }) q j.idx)
  unfold beginAbandon
  extract_lets abandoned t
  split
  · exact cleared.trans (.of_plot rfl rfl)
  · exact cleared.trans (State.logLine_tapeStays ..)

theorem chargeFault_tapeStays (s : State) (q : PlotId) (i : BitVec 16) (c : Code) (node : Option NodeId) :
    TapeStays q s (chargeFault s q i c node) := by
  have stays : TapeStays q s s := .of_plot rfl rfl
  unfold chargeFault
  split
  · exact stays
  split
  · split
    · exact (State.modJob_tapeStays s q _ _).trans (.of_plot rfl rfl)
    · exact stays
  split
  · exact stays
  · exact beginAbandon_tapeStays ..

/-- The tape error of a segment and its cause TAPE_REFUSED. -/
def tapeRaised (u : State) (q : PlotId) (i : Fin 64) (reason seg : Nat) : State :=
  (tapeErr u q i.val reason seg).raisePlot q 0x80

theorem tapeRaised_plot (u : State) (q : PlotId) (i : Fin 64) (reason seg : Nat) : (tapeRaised u q i reason seg).plot q =
    { u.plot q with
      plt := { (u.plot q).plt with irqStatus := (u.plot q).plt.irqStatus ||| 0x80 }
      nse := { (u.plot q).nse with
        errTile := BitVec.ofNat 6 i.val, errReason := BitVec.ofNat 4 reason, errSeg := BitVec.ofNat 16 seg } } := by
  rw [tapeRaised, State.raisePlot_self, tapeErr, State.modNse_self]

theorem tapeRaised_asking (u : State) (q : PlotId) (i : Fin 64) (reason seg : Nat) :
    SameAsking u (tapeRaised u q i reason seg) := by
  have asking := State.raisePlot_asking (tapeErr u q i.val reason seg) q 0x80
  exact ⟨asking.bme, asking.d3, asking.ctl⟩

theorem tapeRaised_job (u : State) (q : PlotId) (i : Fin 64) (reason seg : Nat) :
    tapeJob (tapeRaised u q i reason seg) q = tapeJob u q := by
  rw [tapeJob, tapeRaised_plot]
  rfl

theorem tileNodeOf_of_cfg {s t : State} (h : t.cfg = s.cfg) (q : PlotId) (i : Nat) : tileNodeOf t q i = tileNodeOf s q i := by
  rw [tileNodeOf, tileFamily, h]
  rfl

/-- The lanes of a plot whose fetching is halted by the abandonment of a job. -/
def haltLanes (n : NsePlot) (j : BitVec 16) : NsePlot :=
  { n with halted := some j, lanes := n.lanes.map fun l => { l with flight := 0, refetch := false } }

theorem refuseSegment_idle {u : State} {q : PlotId} (idle : tapeJob u q = none) (i : Fin 64) (reason seg : Nat) (c : Code) :
    refuseSegment u q i reason seg c =
      (tapeRaised u q i reason seg).logLine 0x41 q.val none (reason * 65536 + i.val) seg := by
  have job := (tapeRaised_job u q i reason seg).trans idle
  unfold refuseSegment
  extract_lets raised charged
  change tapeJob raised q = none at job
  have same : charged = raised := by
    dsimp only [charged]
    rw [job]
  rw [same]
  rfl

theorem refuseSegment_faults {u : State} {q : PlotId} {j : BitVec 16} (job : tapeJob u q = some j) (i : Fin 64) (reason seg : Nat)
    (c : Code) : refuseSegment u q i reason seg c =
      (chargeFault ((tapeRaised u q i reason seg).modNse q fun n => haltLanes n j) q j c (tileNodeOf u q i.val)).logLine 0x41 q.val none
        (reason * 65536 + i.val) seg := by
  have job := (tapeRaised_job u q i reason seg).trans job
  have cfg : (tapeRaised u q i reason seg).cfg = u.cfg :=
    (congrArg State.cfg (State.raisePlot_sent (tapeErr u q i.val reason seg) q 0x80).rest).trans rfl
  unfold refuseSegment
  extract_lets raised charged
  change tapeJob raised q = some j at job
  have same : charged = chargeFault (raised.modNse q fun n => haltLanes n j) q j c (tileNodeOf u q i.val) := by
    rw [← tileNodeOf_of_cfg (t := raised.modNse q fun n => haltLanes n j) (s := u) cfg]
    dsimp only [charged]
    rw [job]
    rfl
  rw [same]
  rfl

/-- What a refused segment leaves of the plot `q`: its error and its cause, its line, and of each lane the indices, the segments
it holds and its measure. -/
structure RefusedAt (q : PlotId) (i : Fin 64) (reason : Nat) (s t : State) : Prop where
  tile : (t.plot q).nse.errTile = BitVec.ofNat 6 i.val
  why : (t.plot q).nse.errReason = BitVec.ofNat 4 reason
  cause : (t.plot q).plt.irqStatus.getLsbD 7 = true
  line : ∃ y, t.log.lines.head? = some y ∧ y.code = 0x41 ∧ y.plot = q.val ∧ y.arg0 = reason * 65536 + i.val
  lane : (laneOf t q i).head = (laneOf s q i).head ∧ (laneOf t q i).next = (laneOf s q i).next

theorem refuseSegment_refused (u : State) (q : PlotId) (i : Fin 64) (reason seg : Nat) (c : Code) :
    RefusedAt q i reason u (refuseSegment u q i reason seg c) := by
  have raised := tapeRaised_plot u q i reason seg
  have cause : ((tapeRaised u q i reason seg).plot q).plt.irqStatus.getLsbD 7 = true := by
    rw [raised, BitVec.getLsbD_or, Bool.or_eq_true]
    exact .inr (by decide)
  rcases job : tapeJob u q with _ | j
  · rw [refuseSegment_idle job]
    have logged := State.logLine_plot (tapeRaised u q i reason seg) 0x41 q.val none (reason * 65536 + i.val) seg q
    refine ⟨?_, ?_, ?_, ⟨_, State.logLine_head .., rfl, rfl, rfl⟩, ?_⟩
    · rw [logged, raised]
    · rw [logged, raised]
    · rw [logged, cause]
    · rw [laneOf, logged, raised]
      exact ⟨rfl, rfl⟩
  · rw [refuseSegment_faults job]
    have halted : ((tapeRaised u q i reason seg).modNse q fun n => haltLanes n j).plot q =
        { (tapeRaised u q i reason seg).plot q with nse := haltLanes ((tapeRaised u q i reason seg).plot q).nse j } :=
      State.modNse_self ..
    have stays := (chargeFault_tapeStays ((tapeRaised u q i reason seg).modNse q fun n => haltLanes n j) q j c
      (tileNodeOf u q i.val)).trans (State.logLine_tapeStays q _ 0x41 q.val none (reason * 65536 + i.val) seg)
    have lane : laneOf ((tapeRaised u q i reason seg).modNse q fun n => haltLanes n j) q i =
        { laneOf u q i with flight := 0, refetch := false } := by
      rw [laneOf, halted, raised]
      exact Vector.getElem_map ..
    refine ⟨?_, ?_, ?_, ⟨_, State.logLine_head .., rfl, rfl, rfl⟩, ?_⟩
    · rw [stays.nse, halted, raised]
      rfl
    · rw [stays.nse, halted, raised]
      rfl
    · rw [stays.irq, halted]
      exact cause
    · rw [stays.lanes i, lane]
      exact ⟨rfl, rfl⟩

/-- The tape's job, where one runs, is abandoned, and fetching is halted until its abandonment has completed. -/
theorem refuseSegment_job {u : State} {q : PlotId} {j : Job} (job : tapeJob u q = some j.idx) (running : runs u q j) (i : Fin 64)
    (reason seg : Nat) (c : Code) :
    let t := refuseSegment u q i reason seg c
    (t.plot q).nse.halted = some j.idx ∧ t.boot = u.boot ∧
    (t.plot q).plt.job? j.idx = some (j.abandoned c (tileNodeOf u q i.val) u.boot.tclk) := by
  intro t
  have raised := tapeRaised_plot u q i reason seg
  have halted : ((tapeRaised u q i reason seg).modNse q fun n => haltLanes n j.idx).plot q =
      { (tapeRaised u q i reason seg).plot q with nse := haltLanes ((tapeRaised u q i reason seg).plot q).nse j.idx } :=
    State.modNse_self ..
  have boot : ((tapeRaised u q i reason seg).modNse q fun n => haltLanes n j.idx).boot = u.boot :=
    (congrArg State.boot (State.raisePlot_sent (tapeErr u q i.val reason seg) q 0x80).rest).trans rfl
  have unfolded : t = _ := refuseSegment_faults job i reason seg c
  generalize ((tapeRaised u q i reason seg).modNse q fun n => haltLanes n j.idx) = v at halted boot unfolded
  have running : runs v q j := by
    unfold runs
    rw [halted, raised]
    exact running
  have stays := (chargeFault_tapeStays v q j.idx c (tileNodeOf u q i.val)).trans
    (State.logLine_tapeStays q _ 0x41 q.val none (reason * 65536 + i.val) seg)
  have charged := chargeFault_of_runs c (tileNodeOf u q i.val) running
  rw [unfolded]
  refine ⟨?_, ?_, ?_⟩
  · rw [stays.nse, halted]
    rfl
  · rw [← unfolded]
    exact (refuseSegment_keeps (P := fun _ => true) q i reason seg c (Keeps.refl u) (Covers.refl _) rfl).boot_eq
  · rw [State.logLine_plot, charged, beginAbandon_job? c _ running.1, boot]

/-- A refused segment's record, line and fault stand after its lane was fetched for and measured. -/
theorem refuseSegment_segmentRefused {s u t : State} {q : PlotId} {i : Fin 64} {reason seg : Nat} {c : Code}
    (plt : (u.plot q).plt = (s.plot q).plt) (cfg : u.cfg = s.cfg) (tended : LaneTended q i (refuseSegment u q i reason seg c) t) :
    segmentRefused s t q i reason c ∧ (laneOf t q i).head = (laneOf u q i).head ∧ (laneOf t q i).next = (laneOf u q i).next := by
  obtain ⟨tile, why, cause, ⟨y, line⟩, head, next⟩ := refuseSegment_refused u q i reason seg c
  refine ⟨⟨?_, ?_, tended.irq 7 cause, ⟨y, by rw [tended.log]; exact line⟩, fun j job running => ?_⟩, ?_, ?_⟩
  · rw [tended.nse, tile]
  · rw [tended.nse, why]
  · obtain ⟨halted, boot, found⟩ := refuseSegment_job (u := u) (q := q) (j := j) (by rw [tapeJob, plt]; exact job)
      (by unfold runs; rw [plt]; exact running) i reason seg c
    refine ⟨?_, ?_⟩
    · rw [tended.nse, halted]
    · rw [tended.plt, tended.boot, boot, ← tileNodeOf_of_cfg cfg]
      exact found
  · rw [tended.lane, head]
  · rw [tended.lane, next]

/-- A segment whose fetch failed, with no job to fault, is fetched again. -/
theorem fetchLane_again {s : State} {q : PlotId} {i : Fin 64} (may : mayFetch s q = true) (again : (laneOf s q i).refetch = true) :
    ∃ more, (fetchLane s q i).out =
      s.out ++ .readReq q (laneAddr (tapeRws s q) i.val (laneOf s q i).head) 4096 s.maxRead s.tagBits :: more := by
  rw [fetchLane, fetchLaneAux_succ, may, again]
  obtain ⟨more, out⟩ := (fetchLaneAux_tended (q := q) (i := i) 4 ((s.modLane q i fun l => { l with refetch := false }).hostRead q
    (.tapeSegment i) (laneAddr (tapeRws s q) i.val (laneOf s q i).head) 4096)).out
  exact ⟨more, out.symm.trans (List.append_assoc ..)⟩

/-- The state in which a segment whose fetch failed is refused. -/
def fetchFailed (s : State) (q : PlotId) (i : Fin 64) (k : ReadFail) : State :=
  dmaError (State.modLane { s with free := s.free + 1 } q i fun l => { l with refetch := true }) q (.tapeSegment i) k

section
variable (s : State) (q : PlotId) (i : Fin 64) (k : ReadFail)

theorem fetchFailed_plot : (fetchFailed s q i k).plot q =
    (State.modLane { s with free := s.free + 1 } q i fun l => { l with refetch := true }).plot q :=
  plot_of_plots_eq (dmaError_plots ..) q

theorem fetchFailed_lane : laneOf (fetchFailed s q i k) q i = { laneOf s q i with refetch := true } := by
  rw [laneOf, fetchFailed_plot]
  exact State.modLane_laneOf ..

theorem fetchFailed_plt : ((fetchFailed s q i k).plot q).plt = (s.plot q).plt := by
  rw [fetchFailed_plot, State.modLane_plot]
  rfl

theorem fetchFailed_asking : SameAsking s (fetchFailed s q i k) := by
  have asking := dmaError_asking (State.modLane { s with free := s.free + 1 } q i fun l => { l with refetch := true }) q
    (.tapeSegment i) k
  exact ⟨asking.bme, asking.d3, asking.ctl⟩

end

theorem segmentFails (s : State) (q : PlotId) (i : Fin 64) (k : ReadFail) (wanted : 0 < (laneOf s q i).flight)
    (once : (laneOf s q i).refetch = false) : Gives (.tapeSegmentArrival q i (.failed k)) s (fun t =>
      segmentRefused s t q i 9 .hostDma ∧ (laneOf t q i).head = (laneOf s q i).head ∧ (laneOf t q i).next = (laneOf s q i).next ∧
      (tapeJob s q = none → (tapeRws s q).tapeOn = true → (tapeRws s q).tapeDir = false → (s.plot q).nse.halted = none →
        s.permitted q = true →
        .readReq q (laneAddr (tapeRws s q) i.val (laneOf s q i).head) 4096 s.maxRead s.tagBits ∈ t.out.drop s.out.length)) := by
  refine ⟨_, rfl, ?_⟩
  have arrives : segmentArrived s q i (.failed k) = fetchLane (refuseSegment (fetchFailed s q i k) q i 9
      ((Config.freeWord s.free).toNat % 2 ^ 32) .hostDma) q i := if_neg (by
    change ¬ (decide ((laneOf s q i).flight = 0) || (laneOf s q i).refetch) = true
    rw [once, decide_eq_false (Nat.ne_of_gt wanted)]; exact Bool.false_ne_true)
  rw [arrives]
  have plt := fetchFailed_plt s q i k
  have lane := fetchFailed_lane s q i k
  have cfg : (fetchFailed s q i k).cfg = s.cfg :=
    (dmaError_keeps (P := fun _ => false) q (.tapeSegment i) k (Keeps.refl (State.modLane { s with free := s.free + 1 } q i _))
      (Covers.refl _)).cfg_eq
  have asking := fetchFailed_asking s q i k
  have plot := fetchFailed_plot s q i k
  have out : s.out <+: (fetchFailed s q i k).out :=
    (dmaError_keeps (P := fun _ => false) q (.tapeSegment i) k (Keeps.refl (State.modLane { s with free := s.free + 1 } q i _))
      (Covers.refl _)).out
  generalize fetchFailed s q i k = u at plt lane cfg asking plot out ⊢
  generalize (Config.freeWord s.free).toNat % 2 ^ 32 = seg
  obtain ⟨refused, head, next⟩ := refuseSegment_segmentRefused (c := .hostDma) plt cfg (fetchLane_tended
    (q := q) (i := i) (refuseSegment u q i 9 seg .hostDma))
  refine ⟨refused, by rw [head, lane], by rw [next, lane], fun idle on play going may => ?_⟩
  rw [refuseSegment_idle (by rw [tapeJob, plt]; exact idle)]
  have logged := State.logLine_plot (tapeRaised u q i 9 seg) 0x41 q.val none (9 * 65536 + i.val) seg q
  have raised := tapeRaised_plot u q i 9 seg
  have asks : SameAsking s ((tapeRaised u q i 9 seg).logLine 0x41 q.val none (9 * 65536 + i.val) seg) :=
    (asking.trans (tapeRaised_asking u q i 9 seg)).trans (State.logLine_asking ..)
  have sent : s.out <+: ((tapeRaised u q i 9 seg).logLine 0x41 q.val none (9 * 65536 + i.val) seg).out :=
    (out.trans (State.raisePlot_onlyMessages (tapeErr u q i.val 9 seg) q 0x80).prefix).trans (State.logLine_onlyMessages ..).prefix
  generalize (tapeRaised u q i 9 seg).logLine 0x41 q.val none (9 * 65536 + i.val) seg = r at logged asks sent
  rw [raised] at logged
  have lane : laneOf r q i = { laneOf s q i with refetch := true } := by
    rw [← lane, laneOf, logged]
    rfl
  have rws : tapeRws r q = tapeRws s q := by
    rw [tapeRws, logged, plot, State.modLane_plot]
    rfl
  have halted : (r.plot q).nse.halted = none := by
    rw [logged, plot, State.modLane_plot]
    exact going
  obtain ⟨more, reads⟩ := fetchLane_again (s := r) (q := q) (i := i)
    (by rw [mayFetch, rws, on, play, halted, asks.permitted, may]; rfl) (by rw [lane])
  obtain ⟨before, rout⟩ := sent
  rw [reads, lane, rws, asks.maxRead, asks.tagBits, ← rout, List.append_assoc, List.drop_left]
  exact List.mem_append_right _ (List.mem_cons_self ..)

/-- The state in which a segment that has arrived is checked: its place in flight is free, and the lane's head has moved on. -/
def segmentTaken (s : State) (q : PlotId) (i : Fin 64) : State :=
  (s.modLane q i fun l => { l with flight := l.flight - 1 }).modLane q i fun l => { l with head := l.head + 1 }

theorem segmentTaken_lane (s : State) (q : PlotId) (i : Fin 64) : laneOf (segmentTaken s q i) q i =
    { laneOf s q i with flight := (laneOf s q i).flight - 1, head := (laneOf s q i).head + 1 } := by
  rw [segmentTaken, State.modLane_laneOf, State.modLane_laneOf]

/-- A segment as the lane buffers it. -/
def bufferedSegment (b : List Byte) : TapeSeg :=
  { segNo := leAt b 4 4, words := segmentWords b, last := bitOf (leAt b 9 1) 0 }

theorem segmentArrived_bytes {s : State} {q : PlotId} {i : Fin 64} (wanted : 0 < (laneOf s q i).flight)
    (once : (laneOf s q i).refetch = false) (b0 : List Byte) : segmentArrived s q i (.bytes b0) =
      let b := slice b0 0 4096
      let u := if segmentReason b i.val (laneOf s q i).next = 0 then
          (segmentTaken s q i).modLane q i fun l => { l with next := l.next + 1, bufs := skipEmpty (l.bufs ++ [bufferedSegment b]) }
        else refuseSegment (segmentTaken s q i) q i (segmentReason b i.val (laneOf s q i).next) (leAt b 4 4) .tape
      checkLow (fetchLane u q i) q i := if_neg (by
    change ¬ (decide ((laneOf s q i).flight = 0) || (laneOf s q i).refetch) = true
    rw [once, decide_eq_false (Nat.ne_of_gt wanted)]; exact Bool.false_ne_true)

theorem segmentPasses (s : State) (q : PlotId) (i : Fin 64) (b0 : List Byte) (wanted : 0 < (laneOf s q i).flight)
    (once : (laneOf s q i).refetch = false) (passes : segmentReason (slice b0 0 4096) i.val (laneOf s q i).next = 0) :
    Gives (.tapeSegmentArrival q i (.bytes b0)) s (fun t =>
      (laneOf t q i).head = (laneOf s q i).head + 1 ∧ (laneOf t q i).next = (laneOf s q i).next + 1 ∧
      (laneOf t q i).tail = (laneOf s q i).tail ∧
      (laneOf t q i).bufs = skipEmpty ((laneOf s q i).bufs ++ [bufferedSegment (slice b0 0 4096)]) ∧
      (∀ k : Fin 64, k ≠ i → laneOf t q k = laneOf s q k) ∧ t.log = s.log) := by
  refine ⟨_, rfl, ?_⟩
  rw [segmentArrived_bytes wanted once]
  dsimp only
  rw [if_pos passes]
  generalize buffered : ((segmentTaken s q i).modLane q i fun l =>
    { l with next := l.next + 1, bufs := skipEmpty (l.bufs ++ [bufferedSegment (slice b0 0 4096)]) }) = u
  have lane : laneOf u q i = { laneOf s q i with
      flight := (laneOf s q i).flight - 1, head := (laneOf s q i).head + 1, next := (laneOf s q i).next + 1
      bufs := skipEmpty ((laneOf s q i).bufs ++ [bufferedSegment (slice b0 0 4096)]) } := by
    rw [← buffered, State.modLane_laneOf, segmentTaken_lane]
  have others (k : Fin 64) (ne : k ≠ i) : laneOf u q k = laneOf s q k := by
    rw [← buffered, State.modLane_laneOf_other _ q _ ne, segmentTaken, State.modLane_laneOf_other _ q _ ne,
      State.modLane_laneOf_other _ q _ ne]
  have tended := (fetchLane_tended (q := q) (i := i) u).trans (checkLow_tended (fetchLane u q i))
  refine ⟨?_, ?_, ?_, ?_, fun k ne => (tended.others k ne).trans (others k ne), tended.log.trans (by rw [← buffered]; rfl)⟩
  · rw [tended.lane, lane]
  · rw [tended.lane, lane]
  · rw [tended.lane, lane]
  · rw [tended.lane, lane]

theorem segmentRefuses (s : State) (q : PlotId) (i : Fin 64) (b0 : List Byte) (wanted : 0 < (laneOf s q i).flight)
    (once : (laneOf s q i).refetch = false) (fails : segmentReason (slice b0 0 4096) i.val (laneOf s q i).next ≠ 0) :
    Gives (.tapeSegmentArrival q i (.bytes b0)) s (fun t =>
      segmentRefused s t q i (segmentReason (slice b0 0 4096) i.val (laneOf s q i).next) .tape ∧
      (laneOf t q i).head = (laneOf s q i).head + 1 ∧ (laneOf t q i).next = (laneOf s q i).next) := by
  refine ⟨_, rfl, ?_⟩
  rw [segmentArrived_bytes wanted once]
  dsimp only
  rw [if_neg fails]
  have lane := segmentTaken_lane s q i
  have plt : ((segmentTaken s q i).plot q).plt = (s.plot q).plt := by
    rw [segmentTaken, State.modLane_plot, State.modLane_plot]
  generalize taken : segmentTaken s q i = u at lane plt
  obtain ⟨refused, head, next⟩ := refuseSegment_segmentRefused (seg := leAt (slice b0 0 4096) 4 4) (c := .tape) plt
    (show u.cfg = s.cfg by rw [← taken]; rfl)
    ((fetchLane_tended (refuseSegment u q i (segmentReason (slice b0 0 4096) i.val (laneOf s q i).next) _ _)).trans
      (checkLow_tended _))
  refine ⟨refused, ?_, ?_⟩
  · rw [head, lane]
  · rw [next, lane]

/-! ### Record segments (R169) -/

theorem recordWrite_full {s : State} {q : PlotId} {i : Fin 64} (on : (tapeRws s q).tapeOn = true)
    (record : (tapeRws s q).tapeDir = true) (full : 2688 ≤ (laneOf s q i).record.length)
    (space : occupancy (laneOf s q i).tail (laneOf s q i).head < (tapeRws s q).tapeLen.toNat) (may : s.permitted q = true) :
    recordWrite s q i = writeSegment (s.modLane q i fun l => { l with record := l.record.drop 2688 }) q i
      ((laneOf s q i).record.take 2688) false := if_pos (by
    change ((tapeRws s q).tapeOn && (tapeRws s q).tapeDir && decide (2688 ≤ (laneOf s q i).record.length) &&
      decide (occupancy (laneOf s q i).tail (laneOf s q i).head < (tapeRws s q).tapeLen.toNat) && s.permitted q) = true
    rw [on, record, decide_eq_true full, decide_eq_true space, may]; rfl)

/-- A record lane after a segment was written at its tail. -/
def writtenLane (l : TapeLane) : TapeLane :=
  { l with tail := l.tail + 1, next := l.next + 1, start := if l.fresh then l.next else l.start, fresh := false }

theorem recordSegment_holds (s : State) (q : PlotId) (i : Fin 64) (on : (tapeRws s q).tapeOn = true)
    (record : (tapeRws s q).tapeDir = true) (full : 2688 ≤ (laneOf s q i).record.length)
    (space : occupancy (laneOf s q i).tail (laneOf s q i).head < (tapeRws s q).tapeLen.toNat) (may : s.permitted q = true) :
    Gives (.tapeRecordWrite q i) s (fun t =>
      (laneOf t q i).record = (laneOf s q i).record.drop 2688 ∧ (laneOf t q i).tail = (laneOf s q i).tail + 1 ∧
      (laneOf t q i).next = (laneOf s q i).next + 1 ∧ (laneOf t q i).fresh = false ∧
      (∀ k : Fin 64, k ≠ i → laneOf t q k = laneOf s q k) ∧
      ∃ more, t.out = s.out ++ .write q (laneAddr (tapeRws s q) i.val (laneOf s q i).tail)
        (segmentBytes (laneOf s q i).next.toNat i.val (if (laneOf s q i).fresh then 2 else 0) ((laneOf s q i).record.take 2688))
          s.devCtl.relaxed s.maxPayload :: more) := by
  refine ⟨_, rfl, ?_⟩
  rw [recordWrite_full on record full space may]
  generalize taken : (s.modLane q i fun l => { l with record := l.record.drop 2688 }) = v
  have lane : laneOf v q i = { laneOf s q i with record := (laneOf s q i).record.drop 2688 } := by
    rw [← taken, State.modLane_laneOf]
  have rws : tapeRws v q = tapeRws s q := by
    rw [← taken, tapeRws, State.modLane_plot]
    rfl
  have others (k : Fin 64) (ne : k ≠ i) : laneOf v q k = laneOf s q k := by
    rw [← taken, State.modLane_laneOf_other _ q _ ne]
  have writes : writeSegment v q i ((laneOf s q i).record.take 2688) false =
      checkLow ((v.hostWrite q (laneAddr (tapeRws v q) i.val (laneOf v q i).tail) (segmentBytes (laneOf v q i).next.toNat i.val
        (b2n false + 2 * b2n (laneOf v q i).fresh) ((laneOf s q i).record.take 2688)) v.devCtl.relaxed).modLane q i
          writtenLane) q i := rfl
  rw [writes, State.hostWrite_permitted (by rw [← taken]; exact may), rws]
  generalize wrote : State.modLane _ q i writtenLane = w
  have tended := checkLow_tended (q := q) (i := i) w
  have wlane : laneOf w q i = writtenLane (laneOf v q i) := by
    rw [← wrote, State.modLane_laneOf]
    rfl
  have flags : b2n false + 2 * b2n (laneOf v q i).fresh = if (laneOf s q i).fresh then 2 else 0 := by
    rw [lane]
    cases (laneOf s q i).fresh <;> rfl
  refine ⟨?_, ?_, ?_, ?_, fun k ne => ?_, ?_⟩
  · rw [tended.lane, wlane, lane]; rfl
  · rw [tended.lane, wlane, lane]; rfl
  · rw [tended.lane, wlane, lane]; rfl
  · rw [tended.lane, wlane]; rfl
  · rw [tended.others k ne, ← others k ne, ← wrote, State.modLane_laneOf_other _ q _ ne]
    rfl
  · obtain ⟨more, out⟩ := tended.out
    refine ⟨more, out.symm.trans ?_⟩
    rw [← wrote, ← flags, lane, ← taken]
    exact List.append_assoc ..

theorem tapeSegments_holds : tapeSegments := by
  intro s q i l
  refine ⟨fun none_ r => ⟨_, rfl, if_pos ?_⟩, fun wanted once => ⟨fun k => segmentFails s q i k wanted once, fun b0 =>
    ⟨segmentPasses s q i b0 wanted once, segmentRefuses s q i b0 wanted once⟩⟩, fun starved => ⟨_, rfl, if_neg fun h => starved ?_⟩,
    fun ⟨on, record, full, space, may⟩ => recordSegment_holds s q i on record full space may⟩
  · change (decide (l.flight = 0) || l.refetch) = true
    simpa using none_
  · change ((tapeRws s q).tapeOn && (tapeRws s q).tapeDir && decide (2688 ≤ l.record.length) &&
      decide (occupancy l.tail l.head < (tapeRws s q).tapeLen.toNat) && s.permitted q) = true at h
    simpa [and_assoc] using h

/-- Settles O47: doorbells move the published index and fetches follow it, segments are checked in order, and full record
segments are written where the lane has space. -/
theorem tapesPlayAndRecord : Obligations.TapesPlayAndRecord := ⟨tapeDoorbells_holds, tapeSegments_holds⟩

end Sys2Proof.Machine

end


section

/-!
PROOFS about what a job reads of plot memory (R111, R115 to R119): a view of memory that two states share (`SameView`), and reads
that only mark backed pages as used (`Touched`).
-/

namespace Sys2Proof.Machine

open Sys2Proof

/-! ### States that show a plot the same memory -/

/-- A resident page, and where it lies. -/
def Resident.place (r : Resident) : Nat × Pool × Nat := (r.page, r.pool, r.frame)

/-- In `t` the plot `q` sees the memory it sees in `s`: bytes, map, frames and poisoned lines. -/
structure SameView (q : PlotId) (s t : State) : Prop where
  mem : t.mem = s.mem
  cfg : t.cfg = s.cfg
  msh : t.msh = s.msh
  map : (t.plot q).msh = { (s.plot q).msh with resident := (t.plot q).msh.resident }
  places : (t.plot q).msh.resident.map Resident.place = (s.plot q).msh.resident.map Resident.place

section
variable {q : PlotId} {s t u : State}

theorem SameView.refl (s : State) : SameView q s s := ⟨rfl, rfl, rfl, rfl, rfl⟩

theorem SameView.trans (h : SameView q s t) (k : SameView q t u) : SameView q s u :=
  ⟨k.mem.trans h.mem, k.cfg.trans h.cfg, k.msh.trans h.msh, by rw [k.map, h.map], k.places.trans h.places⟩

/-- States that differ in other things than memory and its map. -/
theorem SameView.of_msh (mem : t.mem = s.mem) (cfg : t.cfg = s.cfg) (msh : t.msh = s.msh)
    (map : (t.plot q).msh = (s.plot q).msh) : SameView q s t :=
  ⟨mem, cfg, msh, by rw [map], by rw [map]⟩

theorem SameView.region (h : SameView q s t) (c : Content) (a : Nat) :
    region c q.val (t.plot q).msh a = region c q.val (s.plot q).msh a := by
  rw [h.map]
  rfl

theorem SameView.homePlace (h : SameView q s t) (a : Nat) : homePlace t q a = homePlace s q a := by
  unfold Machine.homePlace
  dsimp only
  rw [h.cfg, h.region]

theorem SameView.poolOf (h : SameView q s t) (a : Nat) : poolOf t q a = poolOf s q a := by
  unfold Machine.poolOf
  rw [h.homePlace]

/-- Whether a page is resident is read off the places of the resident pages. -/
theorem any_place (l : List Resident) (p : Nat) : l.any (fun r => r.page == p) = (l.map Resident.place).any (fun x => x.1 == p) := by
  rw [List.any_map]
  rfl

theorem find?_place (l : List Resident) (p : Nat) : (l.find? fun r => r.page == p).map (fun r => (r.pool, r.frame)) =
    ((l.map Resident.place).find? fun x => x.1 == p).map (·.2) := by
  rw [List.find?_map, Option.map_map]
  rfl

theorem SameView.pageAccess (h : SameView q s t) (p : Nat) : pageAccess t q p = pageAccess s q p := by
  unfold Machine.pageAccess
  rw [h.cfg, h.region]
  rcases Machine.region s.cfg.content q.val (s.plot q).msh (65536 * p) with _ | _ | _ | b | _
  case backed =>
    dsimp only
    rw [any_place, any_place, h.places]
  all_goals rfl

theorem SameView.frameAddr (h : SameView q s t) (b : Pool) (f : Nat) : frameAddr t q b f = frameAddr s q b f := by
  unfold Machine.frameAddr
  rw [h.msh]

theorem SameView.pageFrame (h : SameView q s t) (j : Option Job) (p : Nat) : pageFrame t q j p = pageFrame s q j p := by
  have home : (t.plot q).msh.homeFrame = (s.plot q).msh.homeFrame := by
    rw [h.map]
    rfl
  unfold Machine.pageFrame
  rw [h.homePlace, find?_place, find?_place, h.places, home]

theorem SameView.pageMesh (h : SameView q s t) (j : Option Job) (p : Nat) : pageMesh t q j p = pageMesh s q j p := by
  unfold Machine.pageMesh
  rw [h.pageFrame]
  exact congrArg _ (funext fun x => h.frameAddr x.1 x.2)

theorem SameView.poisonAt (h : SameView q s t) (j : Job) (a n : Nat) : poisonAt t q j a n = poisonAt s q j a n := by
  unfold Machine.poisonAt Machine.meshParts
  rw [h.msh, funext fun p => h.pageMesh (some j) p]

theorem SameView.readAccess (h : SameView q s t) (j : Job) (a n : Nat) : readAccess t q j a n = readAccess s q j a n := by
  unfold Machine.readAccess
  rw [funext fun p => h.pageAccess p, h.poisonAt]

theorem SameView.peekMem (h : SameView q s t) (p : PlotId) (a : Nat) : t.peekMem p a = s.peekMem p a := by
  rw [State.peekMem, h.mem]
  rfl

theorem SameView.plotBytes (h : SameView q s t) (p : PlotId) (a n : Nat) : t.plotBytes p a n = s.plotBytes p a n := by
  unfold State.plotBytes
  rw [funext fun i => h.peekMem p (a + i)]

theorem SameView.jobBytes (h : SameView q s t) (p : PlotId) (j : Job) (a n : Nat) : jobBytes t p j a n = jobBytes s p j a n := by
  unfold Machine.jobBytes Machine.jobByte
  simp only [h.peekMem]

end

/-! ### Reads mark backed pages as used -/

/-- From `s` to `t` backed pages of the plot `q` were read: they count as used, and nothing else changes. -/
structure Touched (q : PlotId) (s t : State) : Prop where
  rest : t = { s with plots := t.plots }
  plot : t.plot q = { s.plot q with msh := { (s.plot q).msh with resident := (t.plot q).msh.resident } }
  others : ∀ p : PlotId, p ≠ q → t.plot p = s.plot p
  places : (t.plot q).msh.resident.map Resident.place = (s.plot q).msh.resident.map Resident.place

section
variable {q : PlotId} {s t u : State}

theorem Touched.refl (s : State) : Touched q s s := ⟨rfl, rfl, fun _ _ => rfl, rfl⟩

theorem Touched.trans (h : Touched q s t) (k : Touched q t u) : Touched q s u :=
  ⟨by rw [k.rest, h.rest], by rw [k.plot, h.plot], fun p ne => (k.others p ne).trans (h.others p ne), k.places.trans h.places⟩

theorem Touched.view (h : Touched q s t) : SameView q s t :=
  ⟨by rw [h.rest], by rw [h.rest], by rw [h.rest], by rw [h.plot], h.places⟩

theorem touchPage_touched (s : State) (q : PlotId) (p : Nat) : Touched q s (touchPage s q p) where
  rest := rfl
  plot := by rw [touchPage_plot]
  others r ne := State.modPlot_other s _ ne
  places := by
    rw [touchPage_plot, List.map_map]
    refine List.map_congr_left fun r _ => ?_
    change (r.touched p _).place = r.place
    unfold Resident.touched
    split <;> rfl

/-- The backed ones of some pages count as used. -/
def touchPages (q : PlotId) (ps : List Nat) (s : State) : State :=
  ps.foldl (fun s p => if 0x80000 ≤ p then touchPage s q (p - 0x80000) else s) s

theorem touchPages_touched (ps : List Nat) (s : State) : Touched q s (touchPages q ps s) := by
  induction ps generalizing s with
  | nil => exact .refl s
  | cons p ps ih =>
    have one : Touched q s (if 0x80000 ≤ p then touchPage s q (p - 0x80000) else s) := by
      split
      · exact touchPage_touched ..
      · exact .refl s
    exact one.trans (ih _)

theorem touchRanges_touched (rs : List (Nat × Nat)) (s : State) :
    Touched q s (rs.foldl (fun s r => touchPages q (pagesOf r.1 r.2) s) s) := by
  induction rs generalizing s with
  | nil => exact .refl s
  | cons r rs ih => exact (touchPages_touched (pagesOf r.1 r.2) s).trans (ih _)

end

/-! ### Reads of ranges -/

section
variable {s : State} {q : PlotId} {j : Job} {rs : List (Nat × Nat)}

/-- Ranges none of which is unmapped or poisoned fault nobody. -/
theorem withReads_readable (readable : ∀ r ∈ rs, readAccess s q j r.1 r.2 = .ok ∨ readAccess s q j r.1 r.2 = .wait)
    (node : Option NodeId) (k : State → State) : withReads s q j rs node k =
      if (rs.map fun r => readAccess s q j r.1 r.2).contains .wait then s
      else k (rs.foldl (fun s r => touchPages q (pagesOf r.1 r.2) s) s) := by
  have either (a : Access) (mem : a ∈ rs.map fun r => readAccess s q j r.1 r.2) : a = .ok ∨ a = .wait := by
    obtain ⟨r, inRanges, rfl⟩ := List.mem_map.mp mem
    exact readable r inRanges
  have mapped : (rs.map fun r => readAccess s q j r.1 r.2).contains .unmapped = false := by
    rw [Bool.eq_false_iff, ne_eq, List.contains_iff_mem]
    intro mem
    rcases either _ mem with e | e <;> contradiction
  unfold withReads
  extract_lets as
  rw [show as.contains .unmapped = false from mapped, if_neg Bool.false_ne_true]
  split
  case h_1 m found =>
    obtain ⟨a, mem, poisoned⟩ := List.exists_of_findSome?_eq_some found
    rcases either a mem with rfl | rfl <;> contradiction
  case h_2 => rfl

/-- What can be read is read, and the work goes on. -/
theorem withReads_ok (ok : ∀ r ∈ rs, readAccess s q j r.1 r.2 = .ok) (node : Option NodeId) (k : State → State) :
    ∃ t, Touched q s t ∧ withReads s q j rs node k = k t := by
  refine ⟨_, touchRanges_touched rs s, ?_⟩
  rw [withReads_readable (fun r mem => .inl (ok r mem)), List.map_congr_left ok, List.map_const']
  exact if_neg (by simp)

/-- A page that is not resident makes the work wait. -/
theorem withReads_wait (readable : ∀ r ∈ rs, readAccess s q j r.1 r.2 = .ok ∨ readAccess s q j r.1 r.2 = .wait)
    (waits : ∃ r ∈ rs, readAccess s q j r.1 r.2 = .wait) (node : Option NodeId) (k : State → State) :
    withReads s q j rs node k = s := by
  obtain ⟨r, mem, wait⟩ := waits
  rw [withReads_readable readable]
  exact if_pos (List.contains_iff_mem.mpr (List.mem_map.mpr ⟨r, mem, wait⟩))

end

end Sys2Proof.Machine

end


section

/-!
PROOFS about an anneal attempt (R123 to R163): the initial pass computes from the memory that the plot shows; runs, sweeps,
windows, bearings and audits change the fabric alone.
-/

namespace Sys2Proof.Machine

open Sys2Proof

/-! ### The lanes of an attempt begin -/

/-- From `s` to `t` only tape lanes of the plot `q` and its causes changed, and no line was written. -/
structure TapeOnly (q : PlotId) (s t : State) : Prop where
  plot : t.plot q = { s.plot q with plt := (t.plot q).plt, nse := (t.plot q).nse }
  plt : (t.plot q).plt = { (s.plot q).plt with irqStatus := (t.plot q).plt.irqStatus }
  log : t.log = s.log

section
variable {q : PlotId} {s t u : State}

theorem TapeOnly.refl (s : State) : TapeOnly q s s := ⟨rfl, rfl, rfl⟩

theorem TapeOnly.trans (h : TapeOnly q s t) (k : TapeOnly q t u) : TapeOnly q s u :=
  ⟨by rw [k.plot, h.plot], by rw [k.plt, h.plt], k.log.trans h.log⟩

theorem LaneTended.tapeOnly {i : Fin 64} (h : LaneTended q i s t) : TapeOnly q s t := ⟨h.plot, h.plt, h.log⟩

theorem foldl_tapeOnly {f : State → Fin 64 → State} (step : ∀ (s : State) (i : Fin 64), TapeOnly q s (f s i)) (l : List (Fin 64))
    (s : State) : TapeOnly q s (l.foldl f s) := by
  induction l generalizing s with
  | nil => exact .refl s
  | cons i l ih => exact (step s i).trans (ih _)

theorem fetchLanes_tapeOnly (s : State) : TapeOnly q s (fetchLanes s q) :=
  foldl_tapeOnly (fun s i => (fetchLane_tended (q := q) (i := i) s).tapeOnly) _ s

theorem checkLows_tapeOnly (s : State) : TapeOnly q s (checkLows s q) := by
  refine foldl_tapeOnly (fun s i => ?_) _ s
  split
  · exact (checkLow_tended (q := q) (i := i) s).tapeOnly
  · exact .refl s

theorem attemptLanes_tapeOnly (s : State) : TapeOnly q s (attemptLanes s q) := by
  have begun : TapeOnly q s (beginLanes s q) :=
    ⟨by rw [beginLanes, State.modNse_self], by rw [beginLanes, State.modNse_self], rfl⟩
  exact (begun.trans (fetchLanes_tapeOnly _)).trans (checkLows_tapeOnly _)

end

/-- The fabric is the job's, and in INIT. -/
def fabricInit (s : State) (q : PlotId) (i : BitVec 16) : State :=
  (if (s.plot q).an.job == i then s else takeFabric s q i).modAn q fun p => { p with state := .init }

/-- From `s` to `t` the fabric of `q` was made ready for the job's pass; memory reads as before. -/
structure FabricReady (q : PlotId) (j : Job) (s t : State) : Prop where
  view : SameView q s t
  running : runs t q j
  init : (t.plot q).an.state = .init
  job : (t.plot q).an.job = j.idx
  log : t.log = s.log

theorem Touched.ready {q : PlotId} {j : Job} {s t u : State} (h : FabricReady q j s t) (k : Touched q t u) : FabricReady q j s u where
  view := h.view.trans k.view
  running := by
    unfold runs
    rw [k.plot]
    exact h.running
  init := by
    rw [k.plot]
    exact h.init
  job := by
    rw [k.plot]
    exact h.job
  log := by rw [k.rest, h.log]

/-- Another job's fabric, or nobody's, is taken: the values of the attempt are 0. -/
theorem takeFabric_ready {s : State} {q : PlotId} {j : Job} (running : runs s q j) :
    SameView q s (takeFabric s q j.idx) ∧ runs (takeFabric s q j.idx) q j ∧ ((takeFabric s q j.idx).plot q).an.job = j.idx ∧
    (takeFabric s q j.idx).log = s.log := by
  have kept := takeFabric_keeps (P := fun _ => true) q j.idx (Keeps.refl s) (Covers.refl _) rfl
  generalize cleared : (s.modPlot q fun p => { p with an := { p.an.clear with job := j.idx }, grf := p.grf.clear }) = u
  have lanes := attemptLanes_tapeOnly (q := q) u
  have plot : u.plot q = { s.plot q with an := { (s.plot q).an.clear with job := j.idx }, grf := (s.plot q).grf.clear } := by
    rw [← cleared, State.modPlot_self]
  have unfolded : takeFabric s q j.idx = attemptLanes u q := by rw [← cleared]; rfl
  rw [unfolded] at kept ⊢
  refine ⟨.of_msh kept.mem_eq kept.cfg_eq kept.msh_eq ?_, ?_, ?_, lanes.log.trans (by rw [← cleared]; rfl)⟩
  · rw [lanes.plot, plot]
  · unfold runs
    rw [lanes.plt, plot]
    exact running
  · rw [lanes.plot, plot]

theorem fabricInit_ready {s : State} {q : PlotId} {j : Job} (running : runs s q j) :
    FabricReady q j s (fabricInit s q j.idx) := by
  have base : ∀ u : State, SameView q s u → runs u q j → (u.plot q).an.job = j.idx → u.log = s.log →
      FabricReady q j s (u.modAn q fun p => { p with state := .init }) := fun u view running job log =>
    ⟨view.trans (.of_msh rfl rfl rfl (by rw [State.modAn_self])), by unfold runs; rw [State.modAn_self]; exact running,
      by rw [State.modAn_self], by rw [State.modAn_self]; exact job, log⟩
  unfold fabricInit
  split
  case isTrue mine => exact base s (.refl s) running (beq_iff_eq.mp mine) rfl
  case isFalse =>
    obtain ⟨view, running, job, log⟩ := takeFabric_ready running
    exact base _ view running job log

/-- A fault of the job in a state made ready for its pass is a fault of the job. -/
theorem FabricReady.faults {q : PlotId} {j : Job} {s t : State} (h : FabricReady q j s t) (c : Code) (i : Nat) :
    faulted s q j c (tileNodeOf s q i) (chargeFault t q j.idx c (tileNodeOf t q i)) := by
  rw [chargeFault_of_runs c _ h.running, tileNodeOf_of_cfg h.view.cfg]
  exact faulted_of_eq (beginAbandon_faulted c _ h.running.1) h.view.mem (by rw [h.log])

/-! ### The initial pass reads its tiles -/

section
variable {q : PlotId} {j : Job}

theorem readTiles_ok {es : List (TileEntry × List (Nat × Nat))} {s : State}
    (ok : ∀ e ∈ es, ∀ r ∈ e.2, readAccess s q j r.1 r.2 = .ok) (k : State → State) :
    ∃ t, Touched q s t ∧ readTiles q j es s k = k t := by
  induction es generalizing s with
  | nil => exact ⟨s, .refl s, rfl⟩
  | cons e es ih =>
    obtain ⟨t, touched, reads⟩ := withReads_ok (ok e (List.mem_cons_self ..)) (tileNodeOf s q e.1.tile)
      fun s => readTiles q j es s k
    obtain ⟨u, more, rest⟩ := ih (s := t) fun e mem r inRanges => by
      rw [touched.view.readAccess]
      exact ok e (List.mem_cons_of_mem _ mem) r inRanges
    exact ⟨u, touched.trans more, reads.trans rest⟩

theorem readTiles_wait {es : List (TileEntry × List (Nat × Nat))} {s : State}
    (readable : ∀ e ∈ es, ∀ r ∈ e.2, readAccess s q j r.1 r.2 = .ok ∨ readAccess s q j r.1 r.2 = .wait)
    (waits : ∃ e ∈ es, ∃ r ∈ e.2, readAccess s q j r.1 r.2 = .wait) (k : State → State) :
    ∃ t, Touched q s t ∧ readTiles q j es s k = t := by
  induction es generalizing s with
  | nil =>
    obtain ⟨e, mem, -⟩ := waits
    contradiction
  | cons e es ih =>
    by_cases now : ∃ r ∈ e.2, readAccess s q j r.1 r.2 = .wait
    · exact ⟨s, .refl s, withReads_wait (readable e (List.mem_cons_self ..)) now ..⟩
    · have ok (r : Nat × Nat) (mem : r ∈ e.2) : readAccess s q j r.1 r.2 = .ok :=
        (readable e (List.mem_cons_self ..) r mem).resolve_right fun wait => now ⟨r, mem, wait⟩
      obtain ⟨t, touched, reads⟩ := withReads_ok ok (tileNodeOf s q e.1.tile) fun s => readTiles q j es s k
      obtain ⟨u, more, rest⟩ := ih (s := t)
        (fun e mem r inRanges => by
          rw [touched.view.readAccess]
          exact readable e (List.mem_cons_of_mem _ mem) r inRanges)
        (by
          obtain ⟨f, mem, r, inRanges, wait⟩ := waits
          rcases List.mem_cons.mp mem with rfl | mem
          · exact absurd ⟨r, inRanges, wait⟩ now
          · exact ⟨f, mem, r, inRanges, by rw [touched.view.readAccess]; exact wait⟩)
      exact ⟨u, touched.trans more, reads.trans rest⟩

end

theorem SameView.loadTile {q : PlotId} {s t : State} (h : SameView q s t) (j : Job) (n : Nat) :
    loadTile t q j n = loadTile s q j n := by
  funext e
  unfold Machine.loadTile
  simp only [h.jobBytes]

theorem SameView.tileMatrix {q : PlotId} {s t : State} (h : SameView q s t) (j : Job) (n : Nat) :
    tileMatrix t q j n = tileMatrix s q j n := by
  funext x
  unfold Machine.tileMatrix columnBytes
  simp only [h.jobBytes]

/-- The fabric with its fields and energy from scratch, at the start of the attempt. -/
def passDone (s : State) (q : PlotId) (j : Job) (x : Section) (ts : List AnTile) : State :=
  let spins := spinVec ts x.param
  let ms := ts.map (tileMatrix s q j x.param)
  let fresh := (ts.zip ms).map fun tm => { tm.1 with fields := freshFields spins tm.1 tm.2 }
  (s.modAn q fun p => startFabric p j.idx x.param fresh (freshEnergy fresh ms spins) (schedOf x)).modJob q j.idx
    fun j => { j with passed := true }

/-- The pass once the tables are read: an order that is no permutation is a defective image; else the columns are read. -/
def passTables (s : State) (q : PlotId) (j : Job) (x : Section) : State :=
  let es := tileEntries x
  let ts := es.map (loadTile s q j x.param)
  match (es.zip ts).find? (fun y => !isPerm y.2.order y.1.v) with
  | some b => chargeFault s q j.idx .image (tileNodeOf s q b.1.tile)
  | none => readTiles q j (es.map fun e => (e, tileColumns x.param none e)) s fun s => passDone s q j x ts

/-- The pass of a job whose fabric is ready: a column table outside its tile's slice is a defective image; else the tables are
read. -/
def passTiles (s : State) (q : PlotId) (j : Job) (x : Section) : State :=
  match (tileEntries x).find? (fun e => !inSlice e.tile e.coup) with
  | some e => chargeFault s q j.idx .image (tileNodeOf s q e.tile)
  | none => readTiles q j ((tileEntries x).map fun e => (e, tileTables x.param e)) s fun s => passTables s q j x

section
variable {s : State} {q : PlotId} {j : Job} {x : Section}

theorem initialPass_eq (running : runs s q j) (plan : annealSec s q = some x) : initialPass s q j.idx =
    if grafts s q || j.passed then s else passTiles (fabricInit s q j.idx) q j x := by
  unfold initialPass
  rw [runningJob_of_runs running, plan]
  rfl

theorem passTiles_stray {e : TileEntry} (stray : (tileEntries x).find? (fun e => !inSlice e.tile e.coup) = some e) :
    passTiles s q j x = chargeFault s q j.idx .image (tileNodeOf s q e.tile) := by
  rw [passTiles, stray]

theorem passTiles_reads (inside : ∀ e ∈ tileEntries x, inSlice e.tile e.coup = true) : passTiles s q j x =
    readTiles q j ((tileEntries x).map fun e => (e, tileTables x.param e)) s fun s => passTables s q j x := by
  rw [passTiles, List.find?_eq_none.mpr fun e mem => by simp [inside e mem]]

theorem passTables_disordered {b : TileEntry × AnTile}
    (bad : ((tileEntries x).zip ((tileEntries x).map (loadTile s q j x.param))).find? (fun y => !isPerm y.2.order y.1.v) = some b) :
    passTables s q j x = chargeFault s q j.idx .image (tileNodeOf s q b.1.tile) := by
  simp only [passTables, bad]

theorem passTables_reads (ordered : ∀ y ∈ (tileEntries x).zip ((tileEntries x).map (loadTile s q j x.param)),
    isPerm y.2.order y.1.v = true) : passTables s q j x =
      readTiles q j ((tileEntries x).map fun e => (e, tileColumns x.param none e)) s fun t =>
        passDone t q j x ((tileEntries x).map (loadTile s q j x.param)) := by
  have none_ : ((tileEntries x).zip ((tileEntries x).map (loadTile s q j x.param))).find? (fun y => !isPerm y.2.order y.1.v) = none :=
    List.find?_eq_none.mpr fun y mem => by simp [ordered y mem]
  simp only [passTables, none_]

/-- The energy does not depend on the fields. -/
theorem freshEnergy_fields (f : AnTile × List (List Int) → List Int) (ts : List AnTile) (ms : List (List (List Int)))
    (spins : List Int) (same : ms.length = ts.length) :
    freshEnergy ((ts.zip ms).map fun tm => { tm.1 with fields := f tm }) ms spins = freshEnergy ts ms spins := by
  have pairs : ((ts.zip ms).map fun tm => { tm.1 with fields := f tm }).zip ms =
      (ts.zip ms).map fun tm => ({ tm.1 with fields := f tm }, tm.2) := by
    conv => lhs; arg 2; rw [← List.map_snd_zip (l₁ := ts) (Nat.le_of_eq same)]
    exact List.zip_map' ..
  unfold freshEnergy
  extract_lets per
  rw [pairs, List.map_map]
  rfl

/-- What the pass leaves. -/
theorem passDone_fabric {t : State} {ts : List AnTile} (ready : FabricReady q j s t) :
    let spins := spinVec ts x.param
    let ms := ts.map (tileMatrix s q j x.param)
    let u := passDone t q j x ts
    let p := (u.plot q).an
    p.energy = freshEnergy ts ms spins ∧ p.bestEnergy = p.energy ∧ p.bestValid = true ∧ p.state = .idle ∧ p.job = j.idx ∧
    p.n = x.param ∧ p.tiles.length = ts.length ∧
    p.tiles.map (·.fields) = (ts.zip ms).map (fun y => freshFields spins y.1 y.2) ∧
    (∀ y ∈ p.tiles, y.best = y.spins ∧ y.queue = [] ∧ y.ptr = 0) ∧ p.tiles.map (·.spins) = ts.map (·.spins) ∧
    p.b = (schedOf x).start ∧ p.left = ((schedOf x).bearing (schedOf x).start).2.2 ∧ p.sigma = 0 ∧
    (u.plot q).plt.job? j.idx = some { j with passed := true } ∧ u.mem = s.mem := by
  intro spins ms u p
  have view := ready.view
  have an : p = startFabric (t.plot q).an j.idx x.param ((ts.zip ms).map fun tm => { tm.1 with fields := freshFields spins tm.1 tm.2 })
      (freshEnergy ts ms spins) (schedOf x) := by
    dsimp only [p, u]
    rw [passDone, State.modJob, State.modPlt_self, State.modAn_self, freshEnergy_fields _ _ _ _ (List.length_map ..),
      view.tileMatrix]
  have fst : (ts.zip ms).map Prod.fst = ts := List.map_fst_zip (Nat.le_of_eq (List.length_map ..).symm)
  generalize (t.plot q).an = before at an
  rw [an]
  refine ⟨rfl, rfl, rfl, rfl, rfl, rfl, ?_, ?_, fun y mem => ?_, ?_, rfl, rfl, rfl, ?_, view.mem⟩
  · change (List.map _ (List.map _ (ts.zip ms))).length = ts.length
    rw [List.length_map, List.length_map, List.length_zip, List.length_map, Nat.min_self]
  · change List.map _ (List.map _ (List.map _ (ts.zip ms))) = _
    rw [List.map_map, List.map_map]
    rfl
  · obtain ⟨z, -, rfl⟩ := List.mem_map.mp mem
    exact ⟨rfl, rfl, rfl⟩
  · change List.map _ (List.map _ (List.map _ (ts.zip ms))) = _
    conv => rhs; rw [← fst]
    rw [List.map_map, List.map_map, List.map_map]
    rfl
  · refine State.modJob_job? ?_ fun k live => ⟨rfl, live⟩
    rw [State.modAn_self]
    exact ready.running.1

end

theorem initialPass_holds : initialPassComputesFromScratch := by
  intro s q j x running plan resident es ts spins ms
  have start (fresh : j.passed = false) : initialPass s q j.idx = passTiles (fabricInit s q j.idx) q j x := by
    rw [initialPass_eq running plan, resident, fresh]
    rfl
  have ready := fabricInit_ready running
  refine ⟨fun passed => ⟨_, rfl, ?_⟩, fun fresh e stray => ⟨_, rfl, ?_⟩, fun fresh inside => ⟨fun tables => ?_, fun readable waits =>
    ⟨_, rfl, ?_⟩⟩⟩
  · rw [initialPass_eq running plan, passed, Bool.or_true]
    rfl
  · rw [start fresh, passTiles_stray stray]
    exact ready.faults ..
  · obtain ⟨t, touched, reads⟩ := readTiles_ok (q := q) (j := j) (es := es.map fun e => (e, tileTables x.param e))
      (s := fabricInit s q j.idx) (fun y mem r inRanges => by
        obtain ⟨e, inPlan, rfl⟩ := List.mem_map.mp mem
        rw [ready.view.readAccess]
        exact tables e inPlan r inRanges) fun s => passTables s q j x
    have begins := (start fresh).trans ((passTiles_reads inside).trans reads)
    have ready := touched.ready ready
    have loads : es.map (loadTile t q j x.param) = ts := by
      rw [ready.view.loadTile]
    refine ⟨fun b bad => ⟨_, rfl, ?_⟩, fun ordered columns => ⟨_, rfl, ?_⟩⟩
    · rw [begins, passTables_disordered (by rw [loads]; exact bad)]
      exact ready.faults ..
    · obtain ⟨u, more, rest⟩ := readTiles_ok (q := q) (j := j) (es := es.map fun e => (e, tileColumns x.param none e))
        (s := t) (fun y mem r inRanges => by
          obtain ⟨e, inPlan, rfl⟩ := List.mem_map.mp mem
          rw [ready.view.readAccess]
          exact columns e inPlan r inRanges) fun u => passDone u q j x ts
      rw [begins, passTables_reads (by rw [loads]; exact ordered), loads, rest]
      have done := passDone_fabric (x := x) (ts := ts) (more.ready ready)
      rw [List.length_map] at done
      exact done
  · obtain ⟨t, touched, reads⟩ := readTiles_wait (q := q) (j := j) (es := es.map fun e => (e, tileTables x.param e))
      (s := fabricInit s q j.idx)
      (fun y mem r inRanges => by
        obtain ⟨e, inPlan, rfl⟩ := List.mem_map.mp mem
        rw [ready.view.readAccess]
        exact readable e inPlan r inRanges)
      (by
        obtain ⟨e, mem, r, inRanges, wait⟩ := waits
        exact ⟨_, List.mem_map.mpr ⟨e, mem, rfl⟩, r, inRanges, by rw [ready.view.readAccess]; exact wait⟩) fun s => passTables s q j x
    have ready := touched.ready ready
    rw [(start fresh).trans ((passTiles_reads inside).trans reads)]
    exact ⟨ready.init, ready.job, ready.running.1, ready.view.mem⟩

/-! ### Runs (R145, R162, R187) -/

section
variable {s : State} {q : PlotId} {j : Job}

theorem runStart_eq (attempt : holdsAttempt s q j) (idle : (s.plot q).an.state = .idle) (best : (s.plot q).an.bestValid = true)
    {n : Nat} (some_ : 0 < n) (bearing : Option Nat) : runStart s q j.idx n bearing =
      match bearing with
      | some b =>
        if (planSched s q).count ≤ b then chargeFault s q j.idx .image (tileNodeOf s q 0)
        else s.modAn q fun p =>
          let p := { p with state := .run, slot := 0, runLeft := n, b := b, left := ((planSched s q).bearing b).2.2 }
          if (planSched s q).bearingReset then { p with sigma := 0, c := 0, m := p.bestEnergy } else p
      | none => s.modAn q fun p => { p with state := .run, slot := 0, runLeft := n } := by
  obtain ⟨running, mine⟩ := attempt
  have goes : ((s.plot q).an.job != j.idx || (s.plot q).an.state != .idle || decide (n = 0) || !(s.plot q).an.bestValid) = false := by
    rw [mine, idle, best, decide_eq_false (Nat.ne_of_gt some_)]
    simp
  unfold runStart
  rw [runningJob_of_runs running]
  dsimp only
  rw [goes]
  rfl

end

theorem startRun_ungrafted {s : State} {q : PlotId} (resident : grafts s q = false) (i : BitVec 16) (n : Nat)
    (bearing : Option Nat) : startRun s q i n bearing = runStart s q i n bearing := by
  have none_ : graftOf s q = none := by
    unfold graftOf
    unfold grafts at resident
    split at resident
    case h_1 x plan =>
      have empty : x.ofType 6 = [] := List.isEmpty_iff.mp (by simpa using resident)
      rw [plan]
      dsimp only
      rw [empty]
      rfl
    case h_2 plan => rw [plan]
  unfold startRun
  rw [none_]

theorem startRun_graft {s : State} {q : PlotId} {e : GraftEntry} {x : Section} (graft : graftOf s q = some (e, x)) (i : BitVec 16)
    (n : Nat) (bearing : Option Nat) : startRun s q i n bearing =
      if (s.plot q).grf.phase != 4 then s
      else if ((runStart s q i e.sweeps bearing).plot q).an.state == .run then
        (runStart s q i e.sweeps bearing).modGrf q fun r => { r with phase := 5 }
      else runStart s q i e.sweeps bearing := by
  unfold startRun
  rw [graft]

theorem runsStartAndEnd_holds : runsStartAndEnd := by
  intro s q j attempt
  refine ⟨fun idle best resident n some_ => ⟨⟨_, rfl, ?_⟩, fun b has => ⟨_, rfl, ?_⟩, fun b lacks => ⟨_, rfl, ?_⟩⟩,
    fun e x n graft => ⟨fun other => ⟨_, rfl, ?_⟩, fun staged idle best some_ => ⟨_, rfl, ?_⟩⟩,
    fun going done applied counted audited more window => ⟨_, rfl, ?_⟩⟩
  · rw [startRun_ungrafted resident, runStart_eq attempt idle best some_]
    exact ⟨State.modAn_self .., rfl⟩
  · rw [startRun_ungrafted resident, runStart_eq attempt idle best some_]
    dsimp only
    rw [if_neg (Nat.not_le.mpr has), State.modAn_self]
    rcases reset : (planSched s q).bearingReset with _ | _
    · exact ⟨rfl, rfl, rfl, rfl, rfl, fun h => absurd h (by decide)⟩
    · exact ⟨rfl, rfl, rfl, rfl, rfl, fun _ => ⟨rfl, rfl, rfl⟩⟩
  · rw [startRun_ungrafted resident, runStart_eq attempt idle best some_]
    dsimp only
    rw [if_pos lacks, chargeFault_of_runs _ _ attempt.1]
    exact beginAbandon_faulted _ _ attempt.1.1
  · rw [startRun_graft graft]
    exact if_pos (by simpa using other)
  · have runs_ := runStart_eq attempt idle best some_ none
    dsimp only at runs_
    have state : ((runStart s q j.idx e.sweeps none).plot q).an.state = .run := by rw [runs_, State.modAn_self]
    rw [startRun_graft graft, staged, if_neg (by decide), state, if_pos (by decide), runs_]
    refine ⟨?_, rfl⟩
    rw [State.modGrf, State.modPlot_self, State.modAn_self]
  · obtain ⟨running, mine⟩ := attempt
    have ends : runEnd s q j.idx = s.modAn q fun p => { p with state := .idle } := by
      refine if_neg ?_
      rw [mine, runningJob_of_runs running, audited, counted, done, applied, decide_eq_false more]
      have short : ((planSched s q).stallEn && decide (2 ^ (planSched s q).k ≤ (s.plot q).an.c)) = false := by
        rcases window with off | within
        · rw [off, Bool.false_and]
        · rw [decide_eq_false (Nat.not_le.mpr within), Bool.and_false]
      rw [short]
      rcases going with h | h <;> rw [h] <;> simp
    rw [ends]
    exact ⟨State.modAn_self .., rfl⟩

/-! ### Sweeps, windows and bearings (R133, R142, R162, R163) -/

/-- What follows a sweep's events changes the state of the fabric alone. -/
theorem afterEvents_rest (p : AnPlot) (sc : Sched) : afterEvents p sc = { p with state := (afterEvents p sc).state } := by
  unfold afterEvents
  split <;> rfl

/-- The fabric when a sweep is complete: it counts, and its events fall due. -/
def sweepCounted (sc : Sched) (sweeps : Word64) (p : AnPlot) : AnPlot :=
  { p with
    sweepDue := false, tiles := p.tiles.map (fun t => { t with ptr := 0 }), live := { p.live with sweeps := sweeps }
    auditDue := decide (sweeps.toNat % 65536 = 0), state := if decide (sweeps.toNat % 65536 = 0) then .audit else .run
    c := if sc.stallEn then p.c + 1 else p.c, left := p.left - 1, runLeft := p.runLeft - 1 }

theorem sweepsCount_holds : sweepsCount := by
  intro s q j attempt going due
  obtain ⟨running, mine⟩ := attempt
  refine ⟨_, rfl, ?_⟩
  have counts : sweepDone s q j.idx =
      s.modAn q (sweepCounted (planSched s q) (satInc (s.plot q).an.live.sweeps)) := if_neg (by
    rw [mine, runningJob_of_runs running, going, due]; simp)
  have plot : (sweepDone s q j.idx).plot q =
      { s.plot q with an := sweepCounted (planSched s q) (satInc (s.plot q).an.live.sweeps) (s.plot q).an } := by
    rw [counts, State.modAn_self]
  have steps : sweepStep s q j.idx = (sweepDone s q j.idx).modAn q
      fun p => if p.state == .run then afterEvents p (planSched s q) else p := if_pos (by rw [plot, due]; rfl)
  have only : ((sweepStep s q j.idx).plot q).an = { ((sweepDone s q j.idx).plot q).an with
      state := ((sweepStep s q j.idx).plot q).an.state } := by
    rw [steps, State.modAn_self]
    dsimp only
    split
    · exact afterEvents_rest ..
    · rfl
  have rest : sweepStep s q j.idx = { s with plots := (sweepStep s q j.idx).plots } := by
    rw [steps, counts]
    rfl
  rw [plot] at only
  refine ⟨?_, ?_, fun x mem => ?_, ?_, ?_, ?_, ?_, ?_, ?_, ?_, ?_, rest⟩
  case refine_3 =>
    rw [only] at mem
    obtain ⟨y, -, rfl⟩ := List.mem_map.mp mem
    rfl
  case refine_4 =>
    rw [only]
    exact List.map_map
  all_goals
    rw [only]
    rfl

/-- The fabric after the end of a stall window. -/
def windowEnded (sc : Sched) (p : AnPlot) : AnPlot :=
  { p with
    sigma := if decide (p.bestEnergy < p.m) then 0 else min (p.sigma + sc.step) sc.cap, m := p.bestEnergy, c := 0
    live := if decide (p.bestEnergy < p.m) then p.live else { p.live with stallCnt := satInc p.live.stallCnt } }

/-- The fabric at the start of the next bearing. -/
def bearingEnded (sc : Sched) (p : AnPlot) : AnPlot :=
  let b := nextBearing sc p.b
  let p := { p with b := b, left := (sc.bearing b).2.2 }
  if sc.bearingReset then { p with sigma := 0, c := 0, m := p.bestEnergy } else p

theorem windowDue_false {sc : Sched} {c : Nat} (window : sc.stallEn = false ∨ c < 2 ^ sc.k) :
    (sc.stallEn && decide (2 ^ sc.k ≤ c)) = false := by
  rcases window with off | within
  · rw [off, Bool.false_and]
  · rw [decide_eq_false (Nat.not_le.mpr within), Bool.and_false]

theorem scheduleSteps_holds : scheduleSteps := by
  intro s q j attempt audited p sc
  obtain ⟨running, mine⟩ := attempt
  refine ⟨fun on full => ⟨_, rfl, ?_⟩, fun window left going => ⟨_, rfl, ?_⟩⟩
  · have steps : stallEnd s q j.idx = s.modAn q fun p => afterEvents (windowEnded sc p) sc := by
      refine if_neg ?_
      rw [mine, runningJob_of_runs running, audited, show (planSched s q).stallEn = true from on,
        decide_eq_false (Nat.not_lt.mpr (show 2 ^ (planSched s q).k ≤ (s.plot q).an.c from full))]
      simp
    have an : ((stallEnd s q j.idx).plot q).an = { windowEnded sc p with
        state := ((stallEnd s q j.idx).plot q).an.state } := by
      rw [steps, State.modAn_self]
      exact afterEvents_rest ..
    refine ⟨?_, ?_, fun better => ?_, fun same => ?_, by rw [steps]; rfl⟩
    · rw [an]; rfl
    · rw [an]; rfl
    · rw [an, windowEnded, decide_eq_true better]
      exact ⟨rfl, rfl⟩
    · rw [an, windowEnded, decide_eq_false (Int.not_lt.mpr same)]
      exact ⟨rfl, rfl⟩
  · have steps : bearingEnd s q j.idx = s.modAn q fun p => afterEvents (bearingEnded sc p) sc := by
      refine if_neg ?_
      rw [mine, runningJob_of_runs running, audited, windowDue_false (sc := planSched s q) window,
        decide_eq_false (show ¬ (s.plot q).an.left ≠ 0 from fun h => h left)]
      rcases going with h | h | h <;> rw [show (s.plot q).an.state = _ from h] <;> simp
    have an : ((bearingEnd s q j.idx).plot q).an = { bearingEnded sc p with
        state := ((bearingEnd s q j.idx).plot q).an.state } := by
      rw [steps, State.modAn_self]
      exact afterEvents_rest ..
    refine ⟨?_, ?_, ?_, by rw [steps]; rfl⟩
    all_goals
      rw [an, bearingEnded]
      cases sc.bearingReset <;> rfl

/-! ### Audits of the energy (R142) -/

theorem captureBest_rest (p : AnPlot) : captureBest p = { p with
    bestEnergy := min p.bestEnergy p.energy, bestValid := (captureBest p).bestValid, bestNew := (captureBest p).bestNew
    tiles := (captureBest p).tiles, live := { p.live with bestSweep := (captureBest p).live.bestSweep } } := by
  unfold captureBest
  split
  case isTrue lower => rw [Int.min_eq_right (Int.le_of_lt lower)]
  case isFalse higher => rw [Int.min_eq_left (Int.not_lt.mp higher)]

theorem clampInt_eq {lo hi : Int} (range : lo ≤ hi) (z : Int) : clampInt lo hi z = max lo (min hi z) := by
  unfold clampInt
  split
  · omega
  · split <;> omega

/-- The fabric with an energy that the audit has put right. -/
def auditCorrected (e : Int) (sc : Sched) (p : AnPlot) (delta : Word64) : AnPlot :=
  afterEvents (captureBest { p with
    energy := e, auditDue := false, live := { p.live with auditDelta := delta, auditCnt := satInc p.live.auditCnt } }) sc

theorem auditCorrected_shows (p : AnPlot) (e : Int) (sc : Sched) (delta : Word64) :
    let u := auditCorrected e sc p delta
    u.auditDue = false ∧ u.energy = e ∧ u.bestEnergy = min p.bestEnergy e ∧ u.live.auditDelta = delta ∧
    u.live.auditCnt = satInc p.live.auditCnt := by
  intro u
  dsimp only [u]
  rw [auditCorrected, afterEvents_rest, captureBest_rest]
  exact ⟨rfl, rfl, rfl, rfl, rfl⟩

section
variable {s : State} {q : PlotId} {j : Job}

theorem audit_mismatch (attempt : holdsAttempt s q j) (due : (s.plot q).an.auditDue = true) (quiet : (s.plot q).an.inflight = [])
    (x : Nat) : audit s q j.idx (some x) = chargeFault s q j.idx .engine (tileNodeOf s q x) := by
  obtain ⟨running, mine⟩ := attempt
  unfold audit
  rw [runningJob_of_runs running]
  refine if_neg ?_
  rw [mine, due, quiet]
  simp

/-- The energy of a fabric from scratch, with the offset of its graft. -/
def auditedEnergy (s : State) (q : PlotId) (j : Job) (p : AnPlot) : Int :=
  freshEnergy p.tiles (p.tiles.map (tileMatrix s q j p.n)) (spinVec p.tiles p.n) + p.offset

theorem audit_compares (attempt : holdsAttempt s q j) (due : (s.plot q).an.auditDue = true) (quiet : (s.plot q).an.inflight = [])
    (clean : ∀ x ∈ (s.plot q).an.tiles, ∀ r ∈ columnRanges (s.plot q).an.n x.mask x.coup (colStride x.v x.format),
      poisonAt s q j r.1 r.2 = none)
    (right : ∀ y ∈ (s.plot q).an.tiles.zip ((s.plot q).an.tiles.map (tileMatrix s q j (s.plot q).an.n)),
      freshFields (spinVec (s.plot q).an.tiles (s.plot q).an.n) y.1 y.2 = y.1.fields) :
    let e := auditedEnergy s q j (s.plot q).an
    let delta := BitVec.ofInt 64 (clampInt (-(2 ^ 63)) (2 ^ 63 - 1) (e - (s.plot q).an.energy))
    let t := (((s.modAn q fun p => auditCorrected e (planSched s q) p delta).modJob q j.idx
      fun j => { j with audit := true }).raisePlot q 0x400)
    audit s q j.idx none =
      if e = (s.plot q).an.energy then s.modAn q fun p => afterEvents { p with auditDue := false } (planSched s q)
      else if (s.plot q).an.auditLogged then t.logSuppressed
      else (t.modAn q fun p => { p with auditLogged := true }).logLine 0x13 q.val none 0 delta.toNat := by
  intro e delta t
  obtain ⟨running, mine⟩ := attempt
  have none_ : (s.plot q).an.tiles.findSome? (fun t =>
      (columnRanges (s.plot q).an.n t.mask t.coup (colStride t.v t.format)).findSome? fun r => poisonAt s q j r.1 r.2) = none :=
    List.findSome?_eq_none_iff.mpr fun x mem => List.findSome?_eq_none_iff.mpr (clean x mem)
  have matches_ : (((s.plot q).an.tiles.zip ((s.plot q).an.tiles.map (tileMatrix s q j (s.plot q).an.n))).map fun x =>
      (x.1.idx, decide (freshFields (spinVec (s.plot q).an.tiles (s.plot q).an.n) x.1 x.2 = x.1.fields))).find? (fun x => !x.2) =
        none := by
    refine List.find?_eq_none.mpr fun y mem => ?_
    obtain ⟨x, inTiles, rfl⟩ := List.mem_map.mp mem
    simp [right x inTiles]
  unfold audit
  rw [runningJob_of_runs running]
  refine (if_neg ?_).trans ?_
  · rw [mine, due, quiet]
    simp
  rw [none_]
  dsimp only
  rw [matches_]
  rfl

end

theorem auditsCorrect_holds : auditsCorrectTheEnergy := by
  intro s q j attempt due quiet clean p spins ms e
  obtain ⟨running, mine⟩ := id attempt
  refine ⟨fun x => ⟨_, rfl, ?_⟩, fun right => ⟨fun same => ⟨_, rfl, ?_⟩, fun differs => ⟨_, rfl, ?_⟩⟩⟩
  · rw [audit_mismatch attempt due quiet, chargeFault_of_runs _ _ running]
    exact beginAbandon_faulted _ _ running.1
  · have audits := audit_compares attempt due quiet clean right
    dsimp only at audits
    rw [if_pos (by exact same)] at audits
    have an : ((audit s q j.idx none).plot q).an = { p with auditDue := false, state := ((audit s q j.idx none).plot q).an.state } := by
      rw [audits, State.modAn_self]
      exact afterEvents_rest ..
    refine ⟨?_, ?_, ?_, by rw [audits]; rfl⟩
    · rw [an]
    · rw [an]
    · rw [an]
  · have audits := audit_compares attempt due quiet clean right
    dsimp only at audits
    rw [if_neg (by exact differs)] at audits
    obtain ⟨auditDue, energy, best, delta, count⟩ := auditCorrected_shows p (auditedEnergy s q j p) (planSched s q)
      (BitVec.ofInt 64 (clampInt (-(2 ^ 63)) (2 ^ 63 - 1) (auditedEnergy s q j p - p.energy)))
    generalize corrected : auditCorrected (auditedEnergy s q j p) (planSched s q) p _ = an at auditDue energy best delta count
    generalize marked : State.raisePlot _ q 0x400 = t at audits
    have tan : (t.plot q).an = an := by
      rw [← marked, State.raisePlot_self, State.modJob, State.modPlt_self, State.modAn_self, ← corrected]
    have irq : (t.plot q).plt.irqStatus = (s.plot q).plt.irqStatus ||| 0x400 := by
      rw [← marked, State.raisePlot_self, State.modJob, State.modPlt_self, State.modAn_self]
    have job : (t.plot q).plt.job? j.idx = some { j with audit := true } := by
      rw [← marked, State.raisePlot_self]
      refine State.modJob_job? (f := fun j => { j with audit := true }) ?_ fun k live => ⟨rfl, live⟩
      rw [State.modAn_self]
      exact running.1
    obtain ⟨plt, logged, uan⟩ : ((audit s q j.idx none).plot q).plt = (t.plot q).plt ∧
        ∃ b, ((audit s q j.idx none).plot q).an = { an with auditLogged := b } := by
      rw [audits, ← tan]
      split
      · exact ⟨rfl, _, rfl⟩
      · rw [State.logLine_plot, State.modAn_self]
        exact ⟨rfl, _, rfl⟩
    refine ⟨?_, ?_, ?_, ?_, ?_, ?_, ?_, fun first => ?_⟩
    · rw [uan, auditDue]
    · rw [uan, energy]
      rfl
    · rw [uan, best]
      rfl
    · rw [uan, delta, clampInt_eq (by decide)]
      rfl
    · rw [uan, count]
    · rw [plt, job]
    · rw [plt, irq]
    · rw [audits, if_neg (by rw [show (s.plot q).an.auditLogged = false from first]; exact Bool.false_ne_true)]
      exact ⟨_, State.logLine_head .., rfl, rfl⟩

/-- Settles O43: each part of an attempt gives the fabric the values of R123 to R163, and leaves the rest of the state. -/
theorem annealAttempts : Obligations.AnnealAttempts :=
  ⟨initialPass_holds, runsStartAndEnd_holds, sweepsCount_holds, scheduleSteps_holds, auditsCorrect_holds⟩

end Sys2Proof.Machine

end


section

/-!
PROOFS about flip slots (R132 to R137, R170, R271): a slot ends alike in every mode (`endSlot`), and a relaxed slot of a plot of one
tile, act by act.
-/

namespace Sys2Proof.Machine

open Sys2Proof

/-! ### The end of a slot (R139, R140, R144) -/

/-- Flips that are applied change the energy and the tiles' spins and fields. -/
theorem applyFlip_rest (s : State) (q : PlotId) (j : Job) (p : AnPlot) (f : Flip) :
    applyFlip s q j p f = { p with energy := (applyFlip s q j p f).energy, tiles := (applyFlip s q j p f).tiles } ∧
    (applyFlip s q j p f).tiles.map (·.ptr) = p.tiles.map (·.ptr) := by
  unfold applyFlip
  split
  case h_1 => exact ⟨rfl, rfl⟩
  case h_2 own found =>
    extract_lets sj hj v tiles
    refine ⟨rfl, ?_⟩
    have ptrs : tiles.map (·.ptr) = p.tiles.map (·.ptr) := List.map_map
    have at_ : (tiles.map (·.ptr))[f.tile]? = some ((tiles[f.tile]?).getD own).ptr := by
      dsimp only [tiles]
      rw [List.getElem?_map, List.getElem?_map, found]
      rfl
    change (tiles.set f.tile _).map _ = _
    rw [List.map_set, ← ptrs]
    obtain ⟨lt, e⟩ := List.getElem?_eq_some_iff.mp at_
    change (tiles.map (·.ptr)).set f.tile ((tiles[f.tile]?).getD own).ptr = _
    rw [← e]
    exact List.set_getElem_self lt

theorem applyBatch_rest (s : State) (q : PlotId) (j : Job) (fl : List Flip) (p : AnPlot) :
    applyBatch s q j p fl = { p with energy := (applyBatch s q j p fl).energy, tiles := (applyBatch s q j p fl).tiles } ∧
    (applyBatch s q j p fl).tiles.map (·.ptr) = p.tiles.map (·.ptr) := by
  induction fl generalizing p with
  | nil => exact ⟨rfl, rfl⟩
  | cons f fl ih =>
    obtain ⟨one, ptr⟩ := applyFlip_rest s q j p f
    obtain ⟨rest, ptrs⟩ := ih (applyFlip s q j p f)
    have unfolded : applyBatch s q j p (f :: fl) = applyBatch s q j (applyFlip s q j p f) fl := rfl
    rw [unfolded]
    exact ⟨by rw [rest, one], ptrs.trans ptr⟩

theorem captureBest_ptrs (p : AnPlot) : (captureBest p).tiles.map (·.ptr) = p.tiles.map (·.ptr) := by
  unfold captureBest
  split
  · exact List.map_map
  · rfl

/-- The flips of a fabric that are applied at the end of its slot. -/
def flipsDue (lag : Nat) (p : AnPlot) (f : Flip) : Bool := decide (f.slot + lag ≤ p.slot + 1)

/-- A slot's end counts it and takes the flips that were due out of flight; it proposes nothing. -/
theorem endSlot_shows (s : State) (q : PlotId) (j : Job) (lag : Nat) (p : AnPlot) :
    let u := endSlot s q j lag p
    u.slot = p.slot + 1 ∧ u.inflight = p.inflight.filter (fun f => !flipsDue lag p f) ∧
    u.live = { p.live with bestSweep := u.live.bestSweep } ∧ u.tiles.map (·.ptr) = p.tiles.map (·.ptr) := by
  intro u
  generalize flew : { p with inflight := p.inflight.filter fun f => !flipsDue lag p f } = w
  obtain ⟨rest, ptrs⟩ := applyBatch_rest s q j (p.inflight.filter (flipsDue lag p)) w
  generalize applied : applyBatch s q j w (p.inflight.filter (flipsDue lag p)) = y at rest ptrs
  generalize sweeps : (y.sweepDue || (y.state == .run && y.tiles.all fun t => decide (t.v ≤ t.ptr))) = due
  generalize marked : { y with sweepDue := due } = z
  have unfolded : u = { (if (p.inflight.filter (flipsDue lag p)).isEmpty then z else captureBest z) with
      slot := (if (p.inflight.filter (flipsDue lag p)).isEmpty then z else captureBest z).slot + 1 } := by
    rw [← marked, ← sweeps, ← applied, ← flew]
    rfl
  have best (b : Bool) : (if b then z else captureBest z).slot = p.slot ∧
      (if b then z else captureBest z).inflight = p.inflight.filter (fun f => !flipsDue lag p f) ∧
      (if b then z else captureBest z).live =
        { p.live with bestSweep := (if b then z else captureBest z).live.bestSweep } ∧
      (if b then z else captureBest z).tiles.map (·.ptr) = p.tiles.map (·.ptr) := by
    have zrest : z.slot = p.slot ∧ z.inflight = p.inflight.filter (fun f => !flipsDue lag p f) ∧ z.live = p.live ∧
        z.tiles.map (·.ptr) = p.tiles.map (·.ptr) := by
      rw [← marked]
      refine ⟨?_, ?_, ?_, ?_⟩
      · change y.slot = _
        rw [rest, ← flew]
      · change y.inflight = _
        rw [rest, ← flew]
      · change y.live = _
        rw [rest, ← flew]
      · exact ptrs.trans (by rw [← flew])
    obtain ⟨slot, inflight, live, ptr⟩ := zrest
    cases b
    · rw [if_neg Bool.false_ne_true]
      refine ⟨?_, ?_, ?_, (captureBest_ptrs z).trans ptr⟩
      · rw [captureBest_rest, slot]
      · rw [captureBest_rest, inflight]
      · rw [captureBest_rest, live]
    · rw [if_pos rfl]
      exact ⟨slot, inflight, by rw [live], ptr⟩
  obtain ⟨slot, inflight, live, ptr⟩ := best (p.inflight.filter (flipsDue lag p)).isEmpty
  rw [unfolded]
  exact ⟨congrArg (· + 1) slot, inflight, live, ptr⟩

/-! ### A slot is a bubble or a slot of work (R132, R271) -/

/-- The slot counts for the bubbles of the plot. -/
def unitCounted (s : State) (q : PlotId) : State :=
  s.modPlot q fun p => { p with an := { p.an with unit := (s.plot q).an.unit + 1 } }

theorem unitCounted_plot (s : State) (q : PlotId) :
    (unitCounted s q).plot q = { s.plot q with an := { (s.plot q).an with unit := (s.plot q).an.unit + 1 } } := State.modPlot_self ..

theorem unitCounted_view (s : State) (q : PlotId) : SameView q s (unitCounted s q) :=
  .of_msh rfl rfl rfl (by rw [unitCounted_plot])

theorem tapePause_unitCounted (s : State) (q : PlotId) (j : Job) : tapePause (unitCounted s q) q j = tapePause s q j := by
  unfold tapePause needers wordSource tapeRws wordReady
  simp only [unitCounted_plot]
  rfl

theorem duePoison_unitCounted (s : State) (q : PlotId) (j : Job) : duePoison (unitCounted s q) q j = duePoison s q j := by
  unfold duePoison
  simp only [unitCounted_plot, (unitCounted_view s q).poisonAt]
  rfl

/-- A slot without proposals ends like any other. -/
theorem quietSlot_an (s : State) (q : PlotId) (j : Job) (hold : Bool) : ∃ p : AnPlot,
    p.slot = (s.plot q).an.slot ∧ p.live.prop = (s.plot q).an.live.prop ∧ p.inflight = (s.plot q).an.inflight ∧
    ((quietSlot s q j hold).plot q).an = endSlot s q j (laneLag s.cfg.content q.val) p := by
  rw [quietSlot, State.modAn_self]
  refine ⟨_, ?_, ?_, ?_, rfl⟩
  all_goals cases j.strict <;> cases hold <;> rfl

section
variable {s : State} {q : PlotId} {j : Job}

theorem flipSlot_eq (attempt : holdsAttempt s q j) : flipSlot s q j.idx =
    if isBubble (s.plot q).an.unit (levelInForce s.pwr 0 (s.classOf q)) then
      (if tapePause s q j then countPause (bubbleSlot (unitCounted s q) q) q else bubbleSlot (unitCounted s q) q)
    else workSlot (unitCounted s q) q j := by
  obtain ⟨running, mine⟩ := attempt
  have cls : (unitCounted s q).classOf q = s.classOf q := by
    rw [State.classOf, unitCounted_plot]
    rfl
  unfold flipSlot
  rw [runningJob_of_runs running]
  refine (if_neg (by rw [mine]; simp)).trans ?_
  rw [← tapePause_unitCounted, ← cls]
  rfl

theorem bubbleSlot_holds (attempt : holdsAttempt s q j)
    (bubble : isBubble (s.plot q).an.unit (levelInForce s.pwr 0 (s.classOf q)) = true) : Gives (.flipSlot q j.idx) s (fun t =>
      t.plot q = { s.plot q with
        an := { (s.plot q).an with
          unit := (s.plot q).an.unit + 1,
          live := (if tapePause s q j then { (s.plot q).an.live with pauseCnt := satInc (s.plot q).an.live.pauseCnt }
            else (s.plot q).an.live) },
        pwr := { (s.plot q).pwr with bubbles := (s.plot q).pwr.bubbles + (s.plot q).an.tiles.length } } ∧
      t = { s with plots := t.plots }) := by
  refine ⟨_, rfl, ?_⟩
  rw [flipSlot_eq attempt, if_pos bubble]
  have plot : (bubbleSlot (unitCounted s q) q).plot q = { s.plot q with
      an := { (s.plot q).an with unit := (s.plot q).an.unit + 1 }
      pwr := { (s.plot q).pwr with bubbles := (s.plot q).pwr.bubbles + (s.plot q).an.tiles.length } } := by
    rw [bubbleSlot, State.modPlot_self, unitCounted_plot]
  cases tapePause s q j
  · exact ⟨plot, rfl⟩
  · refine ⟨?_, rfl⟩
    rw [if_pos rfl, countPause, State.modLive, State.modPlot_self, plot]
    rfl

theorem drainSlot_holds (attempt : holdsAttempt s q j)
    (works : isBubble (s.plot q).an.unit (levelInForce s.pwr 0 (s.classOf q)) = false) (clean : duePoison s q j = none)
    (drains : (s.plot q).an.state = .drain) : Gives (.flipSlot q j.idx) s (fun t =>
      (t.plot q).an.slot = (s.plot q).an.slot + 1 ∧ (t.plot q).an.live.prop = (s.plot q).an.live.prop ∧
      (t.plot q).an.inflight = (s.plot q).an.inflight.filter
        (fun f => !decide (f.slot + laneLag s.cfg.content q.val ≤ (s.plot q).an.slot + 1)) ∧
      t = { s with plots := t.plots }) := by
  refine ⟨_, rfl, ?_⟩
  rw [flipSlot_eq attempt, if_neg (by rw [works]; exact Bool.false_ne_true)]
  have plot := unitCounted_plot s q
  have quiet : ∃ hold, workSlot (unitCounted s q) q j = quietSlot (unitCounted s q) q j hold := by
    refine ⟨_, (if_neg ?_).trans (if_pos ?_)⟩
    · rw [duePoison_unitCounted, clean]
      exact Bool.false_ne_true
    · rw [plot, drains]
      rfl
  obtain ⟨hold, quiet⟩ := quiet
  obtain ⟨p, slot, prop, inflight, an⟩ := quietSlot_an (unitCounted s q) q j hold
  obtain ⟨slots, flights, live, -⟩ := endSlot_shows (unitCounted s q) q j (laneLag s.cfg.content q.val) p
  rw [quiet]
  rw [plot] at slot prop inflight
  refine ⟨?_, ?_, ?_, rfl⟩
  · rw [an]
    exact slots.trans (by rw [slot])
  · rw [an]
    exact (congrArg AnShow.prop live).trans prop
  · rw [an]
    refine flights.trans ?_
    unfold flipsDue
    rw [inflight, slot]

end

/-! ### A relaxed slot of one tile (R133 to R136) -/

/-- The flips that the lane grants a plot of one tile. -/
def oneFlip (slot cap : Nat) (a : TileAct) : List Flip :=
  if 0 < cap then (a.request.map fun r => ({ slot := slot, tile := 0, row := r.1.row } : Flip)).toList else []

theorem oneFlip_slot {slot cap : Nat} {a : TileAct} {f : Flip} (mem : f ∈ oneFlip slot cap a) : f.slot = slot := by
  unfold oneFlip at mem
  split at mem
  · obtain ⟨r, -, rfl⟩ := Option.map_eq_some_iff.mp (Option.mem_toList.mp mem)
    rfl
  · contradiction

theorem grants_one (a : TileAct) (rho cap : Nat) :
    grants [a] rho cap = if 0 < cap ∧ a.request.isSome then [0] else [] := by
  have scan : scanOrder rho 1 = [0] := by
    rw [scanOrder, show List.range 1 = [0] from rfl, List.map_singleton, show max 1 1 = 1 from rfl, Nat.mod_one]
  rw [grants, List.length_singleton, scan]
  rcases request : a.request with _ | r
  · simp [request]
  · rcases cap with _ | cap
    · simp
    · simp [request]

/-- The commits of a slot of one tile. -/
theorem commitFlips_one (p : AnPlot) (a : TileAct) (cap rho : Nat) :
    let u := commitFlips p [a] (grants [a] rho cap)
    u.inflight = p.inflight ++ oneFlip p.slot cap a ∧ u.slot = p.slot ∧
    u.live = { p.live with flip := p.live.flip + BitVec.ofNat 48 (oneFlip p.slot cap a).length } ∧
    u.tiles.map (·.ptr) = (List.range p.tiles.length).map (fun k => ((p.tiles[k]?).getD {}).ptr) := by
  intro u
  by_cases wins : 0 < cap ∧ a.request.isSome = true
  · obtain ⟨room, asked⟩ := wins
    obtain ⟨r, request⟩ := Option.isSome_iff_exists.mp asked
    have order : grants [a] rho cap = [0] := by rw [grants_one, if_pos ⟨room, asked⟩]
    have flips : oneFlip p.slot cap a = [{ slot := p.slot, tile := 0, row := r.1.row }] := by
      rw [oneFlip, if_pos room, request]
      rfl
    dsimp only [u]
    rw [order, flips]
    exact ⟨by simp [commitFlips, request], rfl, by simp [commitFlips, request], List.map_map⟩
  · have order : grants [a] rho cap = [] := by rw [grants_one, if_neg wins]
    have flips : oneFlip p.slot cap a = [] := by
      unfold oneFlip
      split
      case isTrue room =>
        rcases request : a.request with _ | r
        · rfl
        · exact absurd ⟨room, by rw [request]; rfl⟩ wins
      case isFalse => rfl
    dsimp only [u]
    rw [order, flips]
    exact ⟨rfl, rfl, rfl, List.map_map⟩

theorem relaxedSlot_one {s u : State} {q : PlotId} {j : Job} {src : WordSource} {x : AnTile} {a : TileAct}
    (tiles : (s.plot q).an.tiles = [x]) (acted : relaxedTile (planSched s q) src s q 0 x = (u, a)) :
    let t := relaxedSlot s q j src
    let flips := oneFlip (u.plot q).an.slot j.cap a
    (t.plot q).an.live.prop = (u.plot q).an.live.prop ∧
    (t.plot q).an.live.flip = (u.plot q).an.live.flip + BitVec.ofNat 48 flips.length ∧
    (t.plot q).an.live.starveCnt = (u.plot q).an.live.starveCnt ∧
    (t.plot q).an.slot = (u.plot q).an.slot + 1 ∧ (t.plot q).an.tiles.map (·.ptr) = [a.tile.ptr] ∧
    (∀ f ∈ flips, 2 ≤ laneLag u.cfg.content q.val → f ∈ (t.plot q).an.inflight) ∧ t.nse = u.nse ∧ t.anl = u.anl := by
  intro t flips
  generalize settled : settle a ((grants [a] (s.plot q).an.rho j.cap).contains 0) = y
  generalize before : { (u.plot q).an with
    tiles := [y.1]
    live := { (u.plot q).an.live with
      deferCnt := satAdd (u.plot q).an.live.deferCnt (sumNat [y.2.1])
      shedCnt := satAdd (u.plot q).an.live.shedCnt (sumNat [y.2.2]) } } = p
  have an : (t.plot q).an = endSlot u q j (laneLag u.cfg.content q.val)
      (noteDepth (commitFlips p [a] (grants [a] (s.plot q).an.rho j.cap)).turn) := by
    dsimp only [t]
    rw [relaxedSlot, tiles]
    simp only [actAll, acted]
    rw [State.modAn_self, ← before, ← settled]
    rfl
  obtain ⟨flights, slot, live, ptrs⟩ := commitFlips_one p a j.cap (s.plot q).an.rho
  generalize commitFlips p [a] (grants [a] (s.plot q).an.rho j.cap) = c at an flights slot live ptrs
  obtain ⟨slots, inflight, shown, ptr⟩ := endSlot_shows u q j (laneLag u.cfg.content q.val) (noteDepth c.turn)
  have shown : (t.plot q).an.live = { c.live with
      qmax := (noteDepth c.turn).live.qmax, bestSweep := (t.plot q).an.live.bestSweep } := by
    rw [an]
    exact shown
  have pslot : p.slot = (u.plot q).an.slot := by rw [← before]
  refine ⟨?_, ?_, ?_, ?_, ?_, fun f mem lag => ?_, ?_, ?_⟩
  · rw [shown, live, ← before]
  · rw [shown, live, pslot, ← before]
  · rw [shown, live, ← before]
  · rw [an, slots, ← pslot, ← slot]
    rfl
  · rw [an, ptr]
    refine Eq.trans (b := c.tiles.map (·.ptr)) rfl ?_
    rw [ptrs, ← before, ← settled]
    rfl
  · rw [an, inflight]
    refine List.mem_filter.mpr ⟨?_, ?_⟩
    · change f ∈ c.inflight
      rw [flights, pslot]
      exact List.mem_append_right _ mem
    · have fslot : f.slot = c.slot := by
        rw [slot, pslot]
        exact oneFlip_slot mem
      change (!decide (f.slot + _ ≤ c.slot + 1)) = true
      rw [fslot]
      simp
      omega
  · dsimp only [t]
    rw [relaxedSlot, tiles]
    simp only [actAll, acted]
    rfl
  · dsimp only [t]
    rw [relaxedSlot, tiles]
    simp only [actAll, acted]
    rfl

theorem countProposal_an (s : State) (q : PlotId) : ((countProposal s q).plot q).an = { (s.plot q).an with
    propWrap := (s.plot q).an.propWrap || (s.plot q).an.live.prop == BitVec.allOnes 48
    live := { (s.plot q).an.live with prop := (s.plot q).an.live.prop + 1 } } :=
  congrArg Plot.an (State.modAn_self s q fun p => { p with
    propWrap := p.propWrap || p.live.prop == BitVec.allOnes 48, live := { p.live with prop := p.live.prop + 1 } })

/-- A tile whose word the well gives. -/
def wellGives (s : State) (f : TileId) (r : BitFifo) : State := s.modWell f fun w => { w with fifo := r, short := 0 }

/-- What a tile with a free candidate and a word does: it proposes, and requests where the proposal is favourable. -/
def proposalAct (x : AnTile) (row : Nat) (n : Int) (u : Nat) : TileAct :=
  { tile := { x with ptr := x.ptr + 1 }
    request := if favourable x row n then some ({ row := row, n := n, word := u }, false) else none }

section
variable {s : State} {q : PlotId} {x : AnTile} {row : Nat} {f : TileId}

theorem takeWord_well (family : tileFamily s q x.idx = some f) : takeWord s q .well x =
    match s.nse.wells[f].fifo.word with
    | none => none
    | some (u, r) => some (u, wellGives s f r) := by
  unfold takeWord
  rw [family]
  rfl

theorem relaxedTile_free (c : Sched) (empty : x.queue = []) (candidate : x.candidate = some row)
    (free : blocked (s.plot q).an 0 x row = false) :
    relaxedTile c .well s q 0 x = relaxedProposal c .well s q x row none := by
  have head : recheckHead s q x = (s, x, none) := by
    unfold recheckHead
    rw [empty]
  unfold relaxedTile
  rw [head]
  dsimp only
  rw [candidate]
  exact if_neg (by rw [free]; exact Bool.false_ne_true)

theorem relaxedProposal_word (c : Sched) (family : tileFamily s q x.idx = some f) {u : Nat} {r : BitFifo}
    (word : s.nse.wells[f].fifo.word = some (u, r)) : relaxedProposal c .well s q x row none =
      (countProposal (wellGives s f r) q, proposalAct x row (slotNoise c (s.plot q).an u) u) := by
  unfold relaxedProposal
  rw [takeWord_well family, word]
  dsimp only
  rw [show ((wellGives s f r).plot q).an = (s.plot q).an from rfl]
  unfold proposalAct
  split
  case isTrue wins =>
    rw [if_pos (by exact wins)]
  case isFalse loses => rw [if_neg (by exact loses)]

theorem relaxedProposal_starved (c : Sched) (family : tileFamily s q x.idx = some f)
    (short : s.nse.wells[f].fifo.word = none) : relaxedProposal c .well s q x row none =
      (starve s q x, { tile := x, request := none }) := by
  unfold relaxedProposal
  rw [takeWord_well family, short]

end

/-- A slot of work of a relaxed plot whose run goes on and whose words come from wells. -/
theorem workSlot_relaxed {s : State} {q : PlotId} {j : Job} (clean : duePoison s q j = none)
    (run : (s.plot q).an.state = .run) (relaxed : j.strict = false)
    (wells : wordSource s q = .well) (counted : (s.plot q).an.sweepDue = false) (audited : (s.plot q).an.auditDue = false)
    (left : (s.plot q).an.left ≠ 0) (calm : (planSched s q).stallEn = false) :
    workSlot s q j = relaxedSlot s q j .well := by
  have goes : proposing (s.plot q).an (planSched s q) = true := by
    rw [proposing, run, counted, audited, calm, decide_eq_false left]
    rfl
  have supplied : (needers s q j).find? (fun t => decide (wordReady s q .well t = .exhausted)) = none := by
    refine List.find?_eq_none.mpr fun t _ => ?_
    unfold wordReady
    dsimp only
    split
    · simp
      split <;> exact TapeWord.noConfusion
    · simp
  have steady : tapePause s q j = false := by
    rw [tapePause, wells]
    rfl
  unfold workSlot
  rw [clean, if_neg (by simp), run, if_neg (by decide), goes, if_neg (by decide), wells, supplied, relaxed]
  dsimp only
  rw [steady]
  rfl

section
variable {s : State} {q : PlotId} {j : Job} {x : AnTile} {row : Nat} {f : TileId}

/-- The slot of work that is spoken of: a relaxed plot of one tile whose candidate is free and whose words come from a well. -/
structure FreeSlot (s : State) (q : PlotId) (j : Job) (x : AnTile) (row : Nat) (f : TileId) : Prop where
  works : isBubble (s.plot q).an.unit (levelInForce s.pwr 0 (s.classOf q)) = false
  clean : duePoison s q j = none
  run : (s.plot q).an.state = .run
  tiles : (s.plot q).an.tiles = [x]
  relaxed : j.strict = false
  empty : x.queue = []
  candidate : x.candidate = some row
  free : blocked (s.plot q).an 0 x row = false
  wells : wordSource s q = .well
  family : tileFamily s q x.idx = some f
  counted : (s.plot q).an.sweepDue = false
  audited : (s.plot q).an.auditDue = false
  left : (s.plot q).an.left ≠ 0
  calm : (planSched s q).stallEn = false

theorem FreeSlot.relaxedSlot (h : FreeSlot s q j x row f) (attempt : holdsAttempt s q j) :
    flipSlot s q j.idx = relaxedSlot (unitCounted s q) q j .well ∧
    relaxedTile (planSched s q) .well (unitCounted s q) q 0 x =
      relaxedProposal (planSched s q) .well (unitCounted s q) q x row none := by
  have plot := unitCounted_plot s q
  refine ⟨?_, relaxedTile_free _ h.empty h.candidate (by rw [plot]; exact h.free)⟩
  rw [flipSlot_eq attempt, if_neg (by rw [h.works]; exact Bool.false_ne_true)]
  refine workSlot_relaxed ?_ ?_ h.relaxed ?_ ?_ ?_ ?_ h.calm
  · rw [duePoison_unitCounted]
    exact h.clean
  · rw [plot]
    exact h.run
  · rw [wordSource, tapeRws, plot]
    exact h.wells
  · rw [plot]
    exact h.counted
  · rw [plot]
    exact h.audited
  · rw [plot]
    exact h.left

theorem FreeSlot.word (h : FreeSlot s q j x row f) (attempt : holdsAttempt s q j) (lane : 0 < j.cap) {u : Nat} {r : BitFifo}
    (word : s.nse.wells[f].fifo.word = some (u, r)) :
    let won := favourable x row (slotNoise (planSched s q) (s.plot q).an u)
    Gives (.flipSlot q j.idx) s (fun t =>
      (t.plot q).an.live.prop = (s.plot q).an.live.prop + 1 ∧
      (t.plot q).an.live.flip = (s.plot q).an.live.flip + (if won then 1 else 0) ∧
      (t.plot q).an.slot = (s.plot q).an.slot + 1 ∧ (t.plot q).an.tiles.map (·.ptr) = [x.ptr + 1] ∧
      (won = true → 2 ≤ laneLag s.cfg.content q.val →
        ({ slot := (s.plot q).an.slot, tile := 0, row := row } : Flip) ∈ (t.plot q).an.inflight) ∧
      t.nse.wells[f].fifo = r ∧ (∀ g : TileId, g ≠ f → t.nse.wells[g] = s.nse.wells[g]) ∧
      t.anl.devProp = s.anl.devProp + 1) := by
  intro won
  obtain ⟨slot, act⟩ := h.relaxedSlot attempt
  have plot := unitCounted_plot s q
  have noise : slotNoise (planSched s q) ((unitCounted s q).plot q).an u = slotNoise (planSched s q) (s.plot q).an u := by
    rw [plot]
    rfl
  rw [relaxedProposal_word _ (by exact h.family) (by exact word), noise] at act
  obtain ⟨prop, flip, -, slots, ptr, flights, nse, anl⟩ := relaxedSlot_one (s := unitCounted s q) (j := j)
    (by rw [plot]; exact h.tiles) act
  have proposed : ((countProposal (wellGives (unitCounted s q) f r) q).plot q).an = { (s.plot q).an with
      unit := (s.plot q).an.unit + 1
      propWrap := (s.plot q).an.propWrap || (s.plot q).an.live.prop == BitVec.allOnes 48
      live := { (s.plot q).an.live with prop := (s.plot q).an.live.prop + 1 } } := by
    rw [countProposal_an, wellGives, show ((unitCounted s q).modWell f _).plot q = (unitCounted s q).plot q from rfl, plot]
  refine ⟨_, rfl, ?_⟩
  rw [slot]
  rw [proposed] at prop flip slots flights
  have flips : oneFlip (s.plot q).an.slot j.cap (proposalAct x row (slotNoise (planSched s q) (s.plot q).an u) u) =
      if won then [{ slot := (s.plot q).an.slot, tile := 0, row := row }] else [] := by
    rw [oneFlip, if_pos lane, proposalAct]
    by_cases wins : favourable x row (slotNoise (planSched s q) (s.plot q).an u) = true
    · rw [if_pos wins, if_pos (show won = true from wins)]
      rfl
    · rw [if_neg wins, if_neg (show ¬ won = true from wins)]
      rfl
  rw [flips] at flip flights
  have wells (g : TileId) : (countProposal (wellGives (unitCounted s q) f r) q).nse.wells[g] =
      ((unitCounted s q).modWell f fun w => { w with fifo := r, short := 0 }).nse.wells[g] := rfl
  refine ⟨prop, ?_, slots, ptr, fun wins lag => ?_, ?_, fun g other => ?_, ?_⟩
  · rw [flip]
    split <;> rfl
  · exact flights _ (by rw [if_pos wins]; exact List.mem_singleton.mpr rfl) lag
  · rw [nse, wells, State.modWell_self]
  · rw [nse, wells, State.modWell_other _ _ other]
    rfl
  · rw [anl]
    rfl

theorem FreeSlot.starved (h : FreeSlot s q j x row f) (attempt : holdsAttempt s q j) (short : s.nse.wells[f].fifo.word = none) :
    Gives (.flipSlot q j.idx) s (fun t =>
      (t.plot q).an.live.starveCnt = satInc (s.plot q).an.live.starveCnt ∧
      (t.plot q).an.live.prop = (s.plot q).an.live.prop ∧ (t.plot q).an.live.flip = (s.plot q).an.live.flip ∧
      (t.plot q).an.tiles.map (·.ptr) = [x.ptr] ∧ t.nse.wells[f].fifo = s.nse.wells[f].fifo) := by
  obtain ⟨slot, act⟩ := h.relaxedSlot attempt
  have plot := unitCounted_plot s q
  rw [relaxedProposal_starved _ (by exact h.family) (by exact short)] at act
  obtain ⟨prop, flip, starved, -, ptr, -, nse, -⟩ := relaxedSlot_one (s := unitCounted s q) (j := j)
    (by rw [plot]; exact h.tiles) act
  have starves : starve (unitCounted s q) q x = ((unitCounted s q).modLive q fun a =>
      { a with starveCnt := satInc a.starveCnt }).modWell f fun w => { w with short := w.short + 1 } := by
    have family : tileFamily ((unitCounted s q).modLive q fun a => { a with starveCnt := satInc a.starveCnt }) q x.idx = some f :=
      h.family
    unfold starve
    dsimp only
    rw [family]
  have live : ((starve (unitCounted s q) q x).plot q).an.live =
      { (s.plot q).an.live with starveCnt := satInc (s.plot q).an.live.starveCnt } := by
    rw [starves, show ∀ u : State, (u.modWell f fun w => { w with short := w.short + 1 }).plot q = u.plot q from fun _ => rfl,
      State.modLive, State.modPlot_self, plot]
  have flips : oneFlip ((starve (unitCounted s q) q x).plot q).an.slot j.cap { tile := x, request := none } = [] :=
    ite_self _
  refine ⟨_, rfl, ?_⟩
  rw [slot]
  rw [live] at prop flip starved
  rw [flips] at flip
  refine ⟨starved, prop, ?_, ptr, ?_⟩
  · rw [flip]
    exact BitVec.add_zero _
  · rw [nse, starves, State.modWell_self]
    rfl

end

/-- Settles O44: a bubble pauses the plot's tiles, a drain slot applies what is due, and a relaxed slot of one tile proposes, by
what its well and the lane give. -/
theorem flipSlotsPropose_holds : Obligations.FlipSlotsPropose := by
  intro s q j attempt
  refine ⟨bubbleSlot_holds attempt, fun works clean => ⟨drainSlot_holds attempt works clean,
    fun x row f run tiles relaxed lane empty candidate free wells family counted audited left calm => ?_⟩⟩
  have slot : FreeSlot s q j x row f :=
    ⟨works, clean, run, tiles, relaxed, empty, candidate, free, wells, family, counted, audited, left, calm⟩
  exact ⟨fun u r word => slot.word attempt lane word, slot.starved attempt⟩

end Sys2Proof.Machine

end


section

/-!
PROOFS about writes to a page that has a copy of the job's own and is being copied: such a write waits (R115), while the statements of
grafts, matrix operations, helper calls and queries want it to land. Each refutation is a run of the model on the state it names.
-/

namespace Sys2Proof.Machine

open Sys2Proof

/-- A job that runs, with page 0 among its own copies, and among the copies that are being made. -/
def copyingJob : Job := { idx := 7, phase := .running, img := { wrPages := 2 }, copies := [0], copying := [0] }

/-- A graft of a problem of 8 variables whose tables all stand at address 0. -/
def smallGraft : List Byte := [6, 0, 0, 0, 8]

/-- An index whose delete area lies away from page 0, and a backed page. -/
def smallSearch : List (List Byte) := [[1] ++ List.replicate 41 0 ++ [1], [2]]

/-- A tensor of the activation port with one row. -/
def smallTensor : List Byte := [0, 0, 4, 2] ++ List.replicate 12 0 ++ [1]

/-- Plot 1 owns tile 0, with the sections of a graft, a tensor and an index. -/
def smallContent : Content :=
  { pmap := [[1, 0, 0, 0, 1]]
    secs := [{ type := 0x10, plot := 1, entries := [smallGraft] }, { type := 0x11, plot := 1, entries := [smallTensor] },
      { type := 0x13, plot := 1, entries := smallSearch }] }

/-- Plot 1 runs the job, with other parts of the plot as they are given. -/
def copyingState (f : Plot → Plot) : State :=
  { State.reset with
    cfg := { State.reset.cfg with content := smallContent }
    plots := State.reset.plots.set 1 (f { plt := { state := .running, jobs := [copyingJob] } }) }

/-- A graft whose run is over, with a new best state. -/
def harvestWaits : State := copyingState fun p => { p with grf := { phase := 5 }, an := { bestNew := true } }

theorem harvestWaits_graft : graftOf harvestWaits 1 = some (graftEntry smallGraft, { type := 0x10, plot := 1, entries := [smallGraft] }) := by
  decide +kernel

/-- Refutes O49: the harvest waits for the copy of page 0 that is being made, and is not over; the clause wants it over. -/
theorem not_graftsEnd : ¬ Obligations.GraftsEnd := by
  unfold Obligations.GraftsEnd
  rintro ⟨-, harvests, -⟩
  have running : runs harvestWaits 1 copyingJob := by unfold runs; decide +kernel
  obtain ⟨-, harvest⟩ := harvests harvestWaits 1 copyingJob _ _ running harvestWaits_graft
  obtain ⟨t, ran, -, -, -, -, -, -, -, ended, -⟩ := harvest (by decide +kernel) (by decide +kernel) (by decide +kernel)
    (by unfold landAtOnce; decide +kernel) (by decide +kernel)
  have ran_to : t = graftHarvest harvestWaits 1 7 := (Host.Outcome.next.inj ran).symm
  rw [ran_to] at ended
  exact absurd ended (by decide +kernel)

/-- A call of the job that lays memory out on helper cluster 0. -/
def layoutCall : HelperCall := { plot := 1, idx := 7, op := 0, ver := 0, readyAt := 0, reads := [], writes := [] }

/-- Helper cluster 0 runs the call. -/
def layoutWaits : State := { copyingState id with hccs := State.reset.hccs.set 0 { call := some layoutCall } }

/-- Refutes O51: a LAYOUT call that ends waits for the copy of page 0 that is being made, and keeps its cluster; the clause wants the
cluster free. -/
theorem not_helperAndConversionCalls : ¬ Obligations.HelperAndConversionCalls := by
  unfold Obligations.HelperAndConversionCalls
  rintro ⟨-, calls, -⟩
  have running : runs layoutWaits layoutCall.plot copyingJob := by unfold runs; decide +kernel
  obtain ⟨-, -, layouts, -⟩ := calls layoutWaits 0 layoutCall copyingJob (by decide +kernel) running rfl
  obtain ⟨t, ran, -, -, free, -⟩ := layouts [(0, 0, 1)] (by decide +kernel) (by unfold landAtOnce; decide +kernel)
  have ran_to : t = helperEnd layoutWaits 0 (.layout [(0, 0, 1)]) := (Host.Outcome.next.inj ran).symm
  rw [ran_to] at free
  exact absurd free (by decide +kernel)

/-- A query of index 0 all of whose parts have ended, for there are none. -/
def endedQuery : Query :=
  { job := 7, no := 0, index := 0, tuned := false, orr := false, skipSide := false, k := 1, budget := 0, deadline := 0
    probes := [], tableAddr := 0, resultAddr := 0, predAddr := 0, clauseCount := 0, parts := [] }

/-- The query's results may be merged. -/
def mergeWaits : State := copyingState fun p => { p with fln := { p.fln with queries := [endedQuery] } }

/-- Refutes O54: the merge waits for the copy of page 0 that is being made, and the query goes on; the clause wants it over. -/
theorem not_queriesScanParkAndMerge : ¬ Obligations.QueriesScanParkAndMerge := by
  unfold Obligations.QueriesScanParkAndMerge
  rintro ⟨-, -, merges⟩
  have running : runs mergeWaits 1 copyingJob := by unfold runs; decide +kernel
  have index : mergeWaits.cfg.content.index? (1 : PlotId).val endedQuery.index =
      some (indexEntry ([1] ++ List.replicate 41 0 ++ [1])) := by decide +kernel
  obtain ⟨-, merge⟩ := merges mergeWaits 1 copyingJob 0 endedQuery _ running (by decide +kernel) rfl rfl index
  obtain ⟨t, ran, -, ended, -⟩ := merge (by decide) (by decide +kernel) (.inl (by decide)) (by unfold landAtOnce; decide +kernel)
  have ran_to : t = mergeResult mergeWaits 1 7 0 := (Host.Outcome.next.inj ran).symm
  rw [ran_to] at ended
  exact absurd ended (by decide +kernel)

/-- A RERANK operation whose rows have all been read, for there are none. -/
def endedRerank : MxeOp :=
  { weight := 0, act := 0, m := 0, n := 0, kbn := 0, pl := 0, format := .x72, out := .rows 0
    search := some (.rerank 0 0 0 0 0 0 false 1 0) }

/-- Engine 0 runs the operation. -/
def rerankWaits : State :=
  { copyingState id with mxes := State.reset.mxes.set 0 { run := some { plot := 1, job := 7, op := endedRerank } } }

/-- Refutes O50: the end of a RERANK waits for the copy of page 0 that is being made, and keeps its engine; the clause wants the engine
free. -/
theorem not_matrixOperations : ¬ Obligations.MatrixOperations := by
  unfold Obligations.MatrixOperations
  rintro ⟨-, ⟨-, -, searches⟩, -⟩
  have running : runs rerankWaits 1 copyingJob := by unfold runs; decide +kernel
  obtain ⟨-, reranks⟩ := searches rerankWaits copyingJob 0 { plot := 1, job := 7, op := endedRerank } 0 (by decide +kernel)
    running rfl
  have tensors : rerankTensors rerankWaits.cfg.content 1 0 0 0 0 =
      some (backingEntry [2], quantEntry smallTensor, quantEntry smallTensor) := by decide +kernel
  obtain ⟨ends, -⟩ := reranks 0 0 0 0 0 0 false 1 0 rfl _ tensors
  obtain ⟨t, ran, -, -, free, -⟩ := ends (fun _ => 0) (by simp) (by unfold landAtOnce; decide +kernel)
  have ran_to : t = bankSwap rerankWaits 0 0 := (Host.Outcome.next.inj ran).symm
  rw [ran_to] at free
  exact absurd free (by decide +kernel)

end Sys2Proof.Machine

end


section

/-! PROOFS about the listen port (R317, R318, R321, R324, R330): violations, the checks of a frame, banks and cages. -/

namespace Sys2Proof.Machine

open Sys2Proof

/-! ### Violations (R330) -/

theorem State.raisePf_skt (s : State) (c : Fin 15) : (s.raisePf c).skt = s.skt :=
  (State.raisePf_keeps (P := fun _ => false) c (Keeps.refl s) (Covers.refl _)).skt_eq

theorem State.logLine_skt (s : State) (code plot : Nat) (node : Option NodeId) (a b : Nat) :
    (s.logLine code plot node a b).skt = s.skt :=
  (State.logLine_keeps (P := fun _ => false) (Keeps.refl s) code plot node a b (Covers.refl _)).skt_eq

theorem violation_mem (s : State) (cage : Fin 2) (type : Fin 12) (entry : Option Nat) : (violation s cage type entry).mem = s.mem :=
  (violation_keeps (P := fun _ => false) cage type entry (Keeps.refl s) (Covers.refl _)).mem_eq

theorem violation_plots (s : State) (cage : Fin 2) (type : Fin 12) (entry : Option Nat) :
    (violation s cage type entry).plots = s.plots :=
  (violation_keeps (P := fun _ => false) cage type entry (Keeps.refl s) (Covers.refl _)).plots_eq

theorem violation_boot (s : State) (cage : Fin 2) (type : Fin 12) (entry : Option Nat) :
    (violation s cage type entry).boot = s.boot :=
  (violation_keeps (P := fun _ => false) cage type entry (Keeps.refl s) (Covers.refl _)).boot_eq

theorem State.modCage_other (s : State) {c d : Fin 2} (f : SktCage → SktCage) (other : d ≠ c) :
    (s.modCage c f).skt.cages[d] = s.skt.cages[d] :=
  Vector.getElem_set_ne c.isLt d.isLt fun e => other (Fin.ext e.symm)

/-- A violation of a type is counted on its cage. -/
def violationCounted (s : State) (cage : Fin 2) (type : Fin 12) : State :=
  s.modCage cage (fun c => { c with vcnt := c.vcnt.set type (satInc c.vcnt[type]) })

/-- What SKT_VIOL_LAST shows of a violation. -/
def violationWord (cage : Fin 2) (type : Fin 12) (entry : Option Nat) : Word :=
  BitVec.ofNat 32 (entry.getD 0 * 2 ^ 24 + 2 ^ 23 * b2n entry.isSome + 2 ^ 16 * cage.val + type.val)

theorem violationWord_eq (cage : Fin 2) (type : Fin 12) (entry : Option Nat) :
    violationWord cage type entry =
      BitVec.ofNat 32 (entry.getD 0 * 2 ^ 24 + (if entry.isSome then 2 ^ 23 else 0) + 2 ^ 16 * cage.val + type.val) := by
  have named : 2 ^ 23 * b2n entry.isSome = if entry.isSome then 2 ^ 23 else 0 := by
    cases entry.isSome <;> rfl
  unfold violationWord
  rw [named]

/-- A violation is the last one. -/
def violationShown (s : State) (w : Word) : State := s.modSkt (fun k => { k with violLast := w })

theorem violationShown_cages (s : State) (w : Word) : (violationShown s w).skt.cages = s.skt.cages := rfl

theorem violationShown_queue (s : State) (w : Word) : (violationShown s w).skt.queue = s.skt.queue := rfl

theorem violationShown_last (s : State) (w : Word) : (violationShown s w).skt.violLast = w := rfl

/-- A type whose line was written in this frame. -/
def violationLogged (s : State) (type : Fin 12) : State := s.modSkt (fun k => { k with logged := setBit k.logged type.val true })

theorem violationLogged_cages (s : State) (type : Fin 12) : (violationLogged s type).skt.cages = s.skt.cages := rfl

theorem violationLogged_queue (s : State) (type : Fin 12) : (violationLogged s type).skt.queue = s.skt.queue := rfl

theorem violationLogged_last (s : State) (type : Fin 12) : (violationLogged s type).skt.violLast = s.skt.violLast := rfl

theorem violation_noMatch (s : State) (cage : Fin 2) (entry : Option Nat) : violation s cage 5 entry = violationCounted s cage 5 := rfl

theorem violation_repeated {s : State} {type : Fin 12} (cage : Fin 2) (entry : Option Nat) (ne : type ≠ 5)
    (known : s.skt.logged.getLsbD type.val = true) :
    violation s cage type entry = (violationShown (violationCounted s cage type) (violationWord cage type entry)).logSuppressed := by
  unfold violation
  exact (if_neg ne).trans (if_pos known)

theorem violation_new {s : State} {type : Fin 12} (cage : Fin 2) (entry : Option Nat) (ne : type ≠ 5)
    (fresh : s.skt.logged.getLsbD type.val = false) :
    violation s cage type entry = ((violationLogged (violationShown (violationCounted s cage type) (violationWord cage type entry)) type).logLine 0x70 noPlot none
      (type.val + 256 * cage.val + 65536 * entry.getD 0 + 2 ^ 24 * b2n entry.isSome) 0).raisePf 9 := by
  unfold violation
  exact (if_neg ne).trans (if_neg (by
    show ¬ s.skt.logged.getLsbD type.val = true
    rw [fresh]
    exact Bool.false_ne_true))

/-- The port after a violation: counted, and shown where its type is not NOMATCH. -/
theorem violation_skt (s : State) (cage : Fin 2) (type : Fin 12) (entry : Option Nat) :
    (violation s cage type entry).skt =
      if type = 5 then (violationCounted s cage type).skt
      else if s.skt.logged.getLsbD type.val = true then (violationShown (violationCounted s cage type) (violationWord cage type entry)).skt
      else (violationLogged (violationShown (violationCounted s cage type) (violationWord cage type entry)) type).skt := by
  by_cases noMatch : type = 5
  · rw [if_pos noMatch, noMatch, violation_noMatch]
  · rw [if_neg noMatch]
    by_cases known : s.skt.logged.getLsbD type.val = true
    · rw [if_pos known, violation_repeated cage entry noMatch known]
      rfl
    · rw [if_neg known, violation_new cage entry noMatch (eq_false_of_ne_true known), State.raisePf_skt, State.logLine_skt]

theorem violation_cages (s : State) (cage : Fin 2) (type : Fin 12) (entry : Option Nat) :
    (violation s cage type entry).skt.cages = (violationCounted s cage type).skt.cages := by
  rw [violation_skt]
  split
  · rfl
  · split
    · exact violationShown_cages ..
    · exact (violationLogged_cages ..).trans (violationShown_cages ..)

theorem violation_queue (s : State) (cage : Fin 2) (type : Fin 12) (entry : Option Nat) :
    (violation s cage type entry).skt.queue = s.skt.queue := by
  rw [violation_skt]
  split
  · rfl
  · split
    · exact violationShown_queue ..
    · exact (violationLogged_queue ..).trans (violationShown_queue ..)

theorem violation_last (s : State) (cage : Fin 2) {type : Fin 12} (entry : Option Nat) (ne : type ≠ 5) :
    (violation s cage type entry).skt.violLast = violationWord cage type entry := by
  rw [violation_skt, if_neg ne]
  split
  · exact violationShown_last ..
  · exact (violationLogged_last ..).trans (violationShown_last ..)

/-- A violation counts on its cage alone, and is shown and logged as its type has it (R330). -/
theorem violation_violated (s : State) (cage : Fin 2) (type : Fin 12) (entry : Option Nat) :
    violated s (violation s cage type entry) cage type entry := by
  have cages := violation_cages s cage type entry
  have self : (violationCounted s cage type).skt.cages[cage] =
      { s.skt.cages[cage] with vcnt := s.skt.cages[cage].vcnt.set type (satInc s.skt.cages[cage].vcnt[type]) } :=
    State.modCage_self ..
  refine ⟨?_, fun x other => ?_, fun c other => ?_, violation_mem .., violation_plots .., fun noMatch => ?_, fun ne => ⟨?_, fun known => ?_, fun fresh => ?_⟩⟩
  · rw [cages, self]
    exact Vector.getElem_set_self _
  · rw [cages, self]
    exact Vector.getElem_set_ne type.isLt x.isLt fun e => other (Fin.ext e.symm)
  · rw [cages]
    exact State.modCage_other s _ other
  · subst noMatch
    exact ⟨rfl, rfl⟩
  · rw [violation_last s cage entry ne]
    exact violationWord_eq ..
  · rw [violation_repeated cage entry ne known]
    exact ⟨rfl, rfl⟩
  · rw [violation_new cage entry ne fresh]
    exact ⟨State.raisePf_irq_self _ 9, _, by rw [State.raisePf_log]; exact State.logLine_head .., rfl⟩

/-! ### Receiving (R317, R318, R324) -/

theorem SktCage.accepts_iff (c : SktCage) : c.accepts = true ↔ c.lock = true ∧ c.los = false ∧ (c.mode = 1 ∨ c.mode = 2) := by
  simp [SktCage.accepts, and_assoc]

/-- A frame in a FIFO, its checks up to the signature passed. -/
def frameQueued (s : State) (c : Fin 2) (f : List Byte) : State :=
  { s with skt := { s.skt with queue := s.skt.queue ++ [{ cage := c, due := s.boot.tclk + 120, bytes := f, banks := s.skt.banks }] } }

theorem frameReceived_deaf {s : State} {c : Fin 2} (pcs : Bool) (f : List Byte)
    (deaf : ¬ (s.isReady = true ∧ s.skt.cages[c].accepts = true)) : frameReceived s c pcs f = s := by
  unfold frameReceived
  refine if_pos ?_
  simpa [Classical.or_iff_not_imp_left] using deaf

section Listening

variable {s : State} {c : Fin 2} (ready : s.isReady = true) (listens : s.skt.cages[c].accepts = true)
include ready listens

theorem frameReceived_eq (pcs : Bool) (f : List Byte) :
    frameReceived s c pcs f =
      if 16384 < fifoUsed s.skt c + 1522 then violation s c 11 none
      else match checkFrame s.skt.ingests s.skt.banks c pcs f with
        | .refused t e => violation s c t e
        | .message _ => frameQueued s c f := by
  unfold frameReceived
  exact if_neg (by rw [ready, listens]; exact Bool.false_ne_true)

theorem frameReceived_full (pcs : Bool) (f : List Byte) (full : 16384 < fifoUsed s.skt c + 1522) :
    frameReceived s c pcs f = violation s c 11 none := by
  rw [frameReceived_eq ready listens, if_pos full]

theorem frameReceived_refused {pcs : Bool} {f : List Byte} (room : fifoUsed s.skt c + 1522 ≤ 16384) {type : Fin 12}
    {e : Option Nat} (verdict : checkFrame s.skt.ingests s.skt.banks c pcs f = .refused type e) :
    frameReceived s c pcs f = violation s c type e := by
  rw [frameReceived_eq ready listens, if_neg (by omega), verdict]

theorem frameReceived_message {pcs : Bool} {f : List Byte} (room : fifoUsed s.skt c + 1522 ≤ 16384) {m : SktMsg}
    (verdict : checkFrame s.skt.ingests s.skt.banks c pcs f = .message m) : frameReceived s c pcs f = frameQueued s c f := by
  rw [frameReceived_eq ready listens, if_neg (by omega), verdict]

end Listening

theorem framesAreChecked_holds : framesAreChecked := by
  intro s c pcs f listens
  have split : listens ↔ s.isReady = true ∧ s.skt.cages[c].accepts = true :=
    and_congr_right fun _ => (SktCage.accepts_iff _).symm
  refine ⟨fun deaf => ⟨_, rfl, frameReceived_deaf pcs f fun h => deaf (split.2 h)⟩, fun h full => ?_, fun h room => ⟨fun type e verdict => ?_, fun m verdict => ?_⟩⟩
  all_goals obtain ⟨ready, accepts⟩ := split.1 h
  · refine ⟨_, rfl, ?_⟩
    rw [frameReceived_full ready accepts pcs f full]
    exact ⟨violation_violated .., violation_queue ..⟩
  · refine ⟨_, rfl, ?_⟩
    rw [frameReceived_refused ready accepts room verdict]
    exact ⟨violation_violated .., violation_queue ..⟩
  · exact ⟨_, rfl, frameReceived_message ready accepts room verdict⟩

/-! ### The checks of a frame, in their order (R318, Table 13-2) -/

theorem checkFrame_of_error {banks : List (Nat × SktBank)} {pcs : Bool} {f : List Byte} {t : Fin 12}
    (table : List Ingest) (c : Fin 2) (h : frameUdp pcs f = .error t) : checkFrame table banks c pcs f = .refused t none := by
  unfold checkFrame
  rw [h]

theorem frameUdp_short {f : List Byte} (short : f.length < 64) : frameUdp true f = .error 1 := by
  unfold frameUdp
  exact (if_neg (by decide)).trans (if_pos short)

theorem frameUdp_long {f : List Byte} (long : 1522 < f.length) : frameUdp true f = .error 2 := by
  unfold frameUdp
  refine (if_neg (by decide)).trans ((if_neg (by omega)).trans (if_pos ?_))
  split <;> omega

/-- A frame whose datagram is read keeps to the lengths. -/
theorem length_of_frameUdp {f : List Byte} {u : Udp} (h : frameUdp true f = .ok u) : 64 ≤ f.length ∧ f.length ≤ 1522 := by
  constructor
  · refine Nat.le_of_not_lt fun short => ?_
    rw [frameUdp_short (by omega)] at h
    contradiction
  · refine Nat.le_of_not_lt fun long => ?_
    rw [frameUdp_long (by omega)] at h
    contradiction

/-- A message is one of an entry of the table, in a frame whose datagram was read. -/
theorem checkFrame_message {table : List Ingest} {banks : List (Nat × SktBank)} {c : Fin 2} {pcs : Bool} {f : List Byte}
    {m : SktMsg} (h : checkFrame table banks c pcs f = .message m) :
    (∃ u, frameUdp pcs f = .ok u) ∧ ∃ e ∈ table, e.no = m.entry := by
  unfold checkFrame at h
  split at h
  case h_1 => contradiction
  case h_2 u udp =>
  refine ⟨⟨u, udp⟩, ?_⟩
  split at h
  · contradiction
  split at h
  · contradiction
  split at h
  · contradiction
  case h_2 e found =>
  refine ⟨e, List.mem_of_find?_eq_some found, ?_⟩
  split at h
  · contradiction
  dsimp only at h
  split at h
  · contradiction
  split at h
  · rw [← SktVerdict.message.inj h]
  split at h
  · contradiction
  split at h
  · rw [← SktVerdict.message.inj h]
  · contradiction

theorem lengthChecksComeFirst_holds : lengthChecksComeFirst := by
  intro table banks c f
  refine ⟨checkFrame_of_error table c rfl, fun short => checkFrame_of_error table c (frameUdp_short short),
    fun long => checkFrame_of_error table c (frameUdp_long long), fun m h => ?_⟩
  obtain ⟨⟨u, udp⟩, entry⟩ := checkFrame_message h
  obtain ⟨least, most⟩ := length_of_frameUdp udp
  exact ⟨least, most, entry⟩

/-! ### Checks that complete (R324) -/

/-- The state in which a frame's checks complete. -/
def frameDue (s : State) (f : SktFrame) : State :=
  (s.advanceTo f.due).modSkt (fun k => { k with queue := k.queue.erase f })

theorem checksComplete_refused {s : State} {f : SktFrame} {type : Fin 12} {e : Option Nat} (next : nextFrame s.skt = some f)
    (verdict : checkFrame s.skt.ingests f.banks f.cage true f.bytes = .refused type e) :
    checksComplete s = (violation (frameDue s f) f.cage type e, none) := by
  unfold checksComplete
  rw [next]
  dsimp only
  split
  case h_1 t' e' judged =>
    obtain ⟨rfl, rfl⟩ := SktVerdict.refused.inj (judged.symm.trans verdict)
    rfl
  case h_2 m judged => exact SktVerdict.noConfusion (judged.symm.trans verdict)

theorem checksComplete_idle {s : State} (empty : s.skt.queue = []) : checksComplete s = (s, none) := by
  unfold checksComplete nextFrame
  rw [empty]
  rfl

theorem nextFrame_one {k : SktState} {f : SktFrame} (one : k.queue = [f]) : nextFrame k = some f := by
  unfold nextFrame
  rw [one]
  rfl

theorem nextFrame_second {k : SktState} {f g : SktFrame} (two : k.queue = [f, g]) (earlier : g.due < f.due) : nextFrame k = some g := by
  unfold nextFrame
  rw [two]
  exact if_pos (Or.inl earlier)

theorem checksCompleteInOrder_holds : checksCompleteInOrder := by
  intro s
  refine ⟨fun empty => ⟨_, rfl, ?_⟩, fun f type e one verdict => ⟨_, rfl, ?_⟩, fun f g type e two earlier verdict => ⟨_, rfl, ?_⟩⟩
  · rw [checksComplete_idle empty]
  · rw [checksComplete_refused (nextFrame_one one) verdict]
    refine ⟨violation_violated (frameDue s f) f.cage type e, ?_⟩
    show (violation (frameDue s f) f.cage type e).skt.queue = []
    rw [violation_queue]
    show s.skt.queue.erase f = []
    rw [one, List.erase_cons_head]
  · rw [checksComplete_refused (nextFrame_second two earlier) verdict]
    have ne : f ≠ g := fun h => by rw [h] at earlier; omega
    refine ⟨?_, ?_⟩
    · show (violation (frameDue s g) g.cage type e).skt.queue = [f]
      rw [violation_queue]
      show s.skt.queue.erase g = [f]
      rw [two, List.erase_cons_tail (by simpa using ne), List.erase_cons_head]
    · show (violation (frameDue s g) g.cage type e).boot.tclk = max s.boot.tclk g.due
      rw [violation_boot]
      rfl

/-! ### Keys and cages (R317, R321) -/

theorem lookup_filter_other {β : Type} (l : List (Nat × β)) (n : Nat) {k : Nat} (other : k ≠ n) :
    (l.filter (fun e => !(e.1 == n))).lookup k = l.lookup k := by
  induction l with
  | nil => rfl
  | cons e rest ih =>
    obtain ⟨i, b⟩ := e
    by_cases same : i = n
    · subst same
      rw [List.filter_cons_of_neg (by simp), ih, List.lookup_cons, beq_false_of_ne other]
    · rw [List.filter_cons_of_pos (by simpa using same), List.lookup_cons, List.lookup_cons, ih]

theorem lookup_filter_same {β : Type} (l : List (Nat × β)) (n : Nat) : (l.filter (fun e => !(e.1 == n))).lookup n = none := by
  rw [List.lookup_eq_none_iff]
  intro e mem
  have kept := (List.mem_filter.1 mem).2
  rw [Bool.not_eq_true', beq_eq_false_iff_ne] at kept
  rw [bne_iff_ne]
  exact kept.symm

theorem keysLoadAndClear_holds : keysLoadAndClear := by
  intro s f served
  refine ⟨fun vf => ⟨⟨_, rfl, ?_⟩, ⟨_, rfl, ?_⟩⟩, fun pf => ?_⟩
  · rw [hostGate_ok _ served, if_neg vf]
  · rw [hostGate_ok _ served, if_neg vf]
  · subst pf
    refine ⟨⟨_, rfl, ?_⟩, ⟨_, rfl, ?_⟩⟩
    · rw [hostGate_ok _ served, if_pos rfl]
      refine ⟨List.lookup_cons_self, fun k other => ?_, rfl⟩
      refine Eq.trans ?_ (lookup_filter_other s.skt.banks (keySel s 0) other)
      have skip : (k == keySel s 0) = false := beq_false_of_ne other
      exact (List.lookup_cons).trans (by
        show (match k == keySel s 0 with | true => _ | false => _) = _
        rw [skip]
        rfl)
    · rw [hostGate_ok _ served, if_pos rfl]
      exact ⟨lookup_filter_same .., fun k other => lookup_filter_other _ _ other, rfl⟩

theorem portsListen_holds : portsListen := by
  intro s f c v los modAbs
  refine ⟨fun served vf => ⟨_, rfl, ?_⟩, fun served => ⟨_, rfl, ?_⟩, ⟨_, rfl, ?_⟩, ⟨_, rfl, ?_⟩⟩
  · rw [hostGate_ok _ served, if_neg vf]
  · rw [hostGate_ok _ served, if_pos rfl]
    exact ⟨Vector.getElem_set_self _, fun d other => Vector.getElem_set_ne c.isLt d.isLt fun e => other (Fin.ext e.symm), rfl, rfl⟩
  · exact ⟨State.modCage_self .., fun d other => State.modCage_other _ _ other, rfl⟩
  · have self : (portGain s c modAbs).skt.cages[c] = _ := State.modCage_self ..
    refine ⟨?_, ?_, fun d other => State.modCage_other _ _ other, rfl⟩
    · rw [self]
    · rw [self]
      simp

/-- Settles O59: violations, receiving, the checks and their completion, keys and cages. -/
theorem listenPortChecksFrames : Obligations.ListenPortChecksFrames :=
  ⟨framesAreChecked_holds, lengthChecksComeFirst_holds, checksCompleteInOrder_holds, keysLoadAndClear_holds, portsListen_holds⟩

end Sys2Proof.Machine

end


section

/-! PROOFS about the power manager's protections (R276, R279, R305): what an event, a line, a throttled plot, a commanded
voltage and the end of boost leave, and how the lowest state is entered. -/

namespace Sys2Proof.Machine

open Sys2Proof

/-! ### What protections leave -/

/-- From `s` to `t` the power manager reported and acted: events and causes rise, transactions queue, voltages are commanded and
FCLK may return to nominal; nothing else of it changes. -/
structure Guarded (s t : State) : Prop where
  pwr : t.pwr = { s.pwr with
    event := t.pwr.event, rails := t.pwr.rails, pmb := t.pwr.pmb, fclk := t.pwr.fclk, cyc := t.pwr.cyc, cycAt := t.pwr.cycAt,
    boostNext := t.pwr.boostNext, ackAt := t.pwr.ackAt }
  event : ∀ i, s.pwr.event.getLsbD i = true → t.pwr.event.getLsbD i = true
  irq : ∀ i, s.pf.irqStatus.getLsbD i = true → t.pf.irqStatus.getLsbD i = true
  queued : ∀ x ∈ s.pwr.pmb, x ∈ t.pwr.pmb
  nominal : s.pwr.fclk = s.fuses.nominal → s.pwr.boostNext = none → t.pwr.fclk = s.fuses.nominal ∧ t.pwr.boostNext = none
  fuses : t.fuses = s.fuses
  hst : t.hst = s.hst
  boot : t.boot = s.boot

namespace Guarded

theorem trans {a b c : State} (h : Guarded a b) (k : Guarded b c) : Guarded a c where
  pwr := by rw [k.pwr, h.pwr]
  event i set := k.event i (h.event i set)
  irq i set := k.irq i (h.irq i set)
  queued x waits := k.queued x (h.queued x waits)
  nominal fclk next := by
    obtain ⟨fclk', next'⟩ := h.nominal fclk next
    have later := k.nominal (by rw [fclk', h.fuses]) next'
    rw [h.fuses] at later
    exact later
  fuses := k.fuses.trans h.fuses
  hst := k.hst.trans h.hst
  boot := k.boot.trans h.boot

/-- Where the power manager itself stays. -/
theorem of_pwr {s t : State} (pwr : t.pwr = s.pwr)
    (irq : ∀ i, s.pf.irqStatus.getLsbD i = true → t.pf.irqStatus.getLsbD i = true)
    (fuses : t.fuses = s.fuses) (hst : t.hst = s.hst) (boot : t.boot = s.boot) : Guarded s t where
  pwr := by rw [pwr]
  event i set := by rw [pwr]; exact set
  irq := irq
  queued x waits := by rw [pwr]; exact waits
  nominal fclk next := by rw [pwr]; exact ⟨fclk, next⟩
  fuses := fuses
  hst := hst
  boot := boot

theorem refl (s : State) : Guarded s s := of_pwr rfl (fun _ h => h) rfl rfl rfl

section Kept

variable {s t : State} (h : Guarded s t)
include h

theorem lowest : t.pwr.lowest = s.pwr.lowest := (congrArg PwrState.lowest h.pwr).trans rfl
theorem cause : t.pwr.cause = s.pwr.cause := (congrArg PwrState.cause h.pwr).trans rfl
theorem lowestCnt : t.pwr.lowestCnt = s.pwr.lowestCnt := (congrArg PwrState.lowestCnt h.pwr).trans rfl
theorem levels : t.pwr.levels = s.pwr.levels := (congrArg PwrState.levels h.pwr).trans rfl
theorem sens : t.pwr.sens = s.pwr.sens := (congrArg PwrState.sens h.pwr).trans rfl
theorem warn : t.pwr.warn = s.pwr.warn := (congrArg PwrState.warn h.pwr).trans rfl
theorem warned : t.pwr.warned = s.pwr.warned := (congrArg PwrState.warned h.pwr).trans rfl
theorem droop : t.pwr.droop = s.pwr.droop := (congrArg PwrState.droop h.pwr).trans rfl
theorem deep : t.pwr.deep = s.pwr.deep := (congrArg PwrState.deep h.pwr).trans rfl
theorem droopCnt : t.pwr.droopCnt = s.pwr.droopCnt := (congrArg PwrState.droopCnt h.pwr).trans rfl
theorem droopAt : t.pwr.droopAt = s.pwr.droopAt := (congrArg PwrState.droopAt h.pwr).trans rfl
theorem droopCause : t.pwr.droopCause = s.pwr.droopCause := (congrArg PwrState.droopCause h.pwr).trans rfl
theorem vrCnt : t.pwr.vrCnt = s.pwr.vrCnt := (congrArg PwrState.vrCnt h.pwr).trans rfl

end Kept

end Guarded

theorem pwrEvent_event (s : State) {b : Nat} (h : b < 9) : (pwrEvent s b).pwr.event.getLsbD b = true := getLsbD_setBit_self _ h

theorem pwrEvent_guarded (s : State) (b : Nat) : Guarded s (pwrEvent s b) where
  pwr := rfl
  event _ set := getLsbD_setBit_of b set
  irq _ set := set
  queued _ waits := waits
  nominal fclk next := ⟨fclk, next⟩
  fuses := rfl
  hst := rfl
  boot := rfl

theorem State.raisePf_guarded (s : State) (c : Fin 15) : Guarded s (s.raisePf c) := by
  have kept := State.raisePf_keeps (P := fun _ => false) c (Keeps.refl s) (Covers.refl _)
  exact .of_pwr kept.pwr_eq (fun i set => (State.raisePf_carries (calm := true) s c).irq i set) kept.fuses_eq kept.hst_eq kept.boot_eq

theorem State.logLine_guarded (s : State) (code plot : Nat) (node : Option NodeId) (a b : Nat) :
    Guarded s (s.logLine code plot node a b) := by
  have kept := State.logLine_keeps (P := fun _ => false) (Keeps.refl s) code plot node a b (Covers.refl _)
  exact .of_pwr kept.pwr_eq (fun i set => State.logLine_irq_of s code plot node a b i set) kept.fuses_eq kept.hst_eq kept.boot_eq

theorem throttlePlots_guarded (s : State) (c : Nat → Bool) : Guarded s (throttlePlots s c) := by
  have kept := throttlePlots_keeps (P := fun _ => true) c (Keeps.refl s) (Covers.refl _) (fun _ => rfl)
  exact .of_pwr kept.pwr_eq (fun i set => by rw [kept.pf_eq]; exact set) kept.fuses_eq kept.hst_eq kept.boot_eq

theorem throttlePlots_log (s : State) (c : Nat → Bool) : (throttlePlots s c).log = s.log :=
  (throttlePlots_keeps (P := fun _ => true) c (Keeps.refl s) (Covers.refl _) (fun _ => rfl)).log_eq

/-! ### Transactions and voltages (R274, R305) -/

theorem mem_insertTxn (l : List PmbTxn) (t : PmbTxn) : t ∈ insertTxn l t := by
  cases l with
  | nil => exact List.mem_singleton.2 rfl
  | cons a rest => simp [insertTxn]

theorem mem_insertTxn_of_mem {l : List PmbTxn} {x : PmbTxn} (t : PmbTxn) (h : x ∈ l) : x ∈ insertTxn l t := by
  cases l with
  | nil => contradiction
  | cons a rest =>
    rcases List.mem_cons.1 h with rfl | waits
    · exact List.mem_cons_self ..
    · refine List.mem_cons_of_mem _ ?_
      simp only [List.mem_append, List.mem_filter, decide_eq_true_eq, List.mem_singleton]
      by_cases rank : x.rank ≤ t.rank
      · exact Or.inl (Or.inl ⟨waits, rank⟩)
      · exact Or.inr ⟨waits, by omega⟩

/-- A transaction waits at its place. -/
def txnQueued (s : State) (t : PmbTxn) : State := s.modPwr (fun p => { p with pmb := insertTxn p.pmb t })

theorem sendTxn_guarded (s : State) (t : PmbTxn) : Guarded s (sendTxn s t) := by
  have kept := sendTxn_keeps (P := fun _ => false) t (Keeps.refl s) (Covers.refl _)
  exact .of_pwr kept.pwr_eq (fun i set => by rw [kept.pf_eq]; exact set) kept.fuses_eq kept.hst_eq kept.boot_eq

theorem txnQueued_guarded (s : State) (t : PmbTxn) : Guarded s (txnQueued s t) where
  pwr := rfl
  event _ set := set
  irq _ set := set
  queued _ waits := mem_insertTxn_of_mem t waits
  nominal fclk next := ⟨fclk, next⟩
  fuses := rfl
  hst := rfl
  boot := rfl

theorem queueTxn_unused {s : State} {t : PmbTxn} (unused : s.hst.rail[t.rail].getLsbD 31 = false) : queueTxn s t = s := by
  unfold queueTxn
  exact if_pos (by rw [unused]; rfl)

/-- A transaction of a rail in use waits; it is sent where it is the first. -/
theorem queueTxn_used {s : State} {t : PmbTxn} (used : s.hst.rail[t.rail].getLsbD 31 = true) :
    queueTxn s t = if s.pwr.pmb.isEmpty then sendTxn (txnQueued s t) t else txnQueued s t := by
  unfold queueTxn
  exact if_neg (by rw [used]; exact Bool.false_ne_true)

theorem queueTxn_guarded (s : State) (t : PmbTxn) : Guarded s (queueTxn s t) := by
  rcases used : s.hst.rail[t.rail].getLsbD 31 with _ | _
  · rw [queueTxn_unused used]
    exact .refl s
  · rw [queueTxn_used used]
    split
    · exact (txnQueued_guarded s t).trans (sendTxn_guarded ..)
    · exact txnQueued_guarded s t

theorem mem_queueTxn {s : State} {t : PmbTxn} (used : s.hst.rail[t.rail].getLsbD 31 = true) : t ∈ (queueTxn s t).pwr.pmb := by
  rw [queueTxn_used used]
  split
  · exact (sendTxn_guarded ..).queued _ (mem_insertTxn ..)
  · exact mem_insertTxn ..

theorem State.modRail_guarded (s : State) (r : Fin 5) (f : PwrRail → PwrRail) : Guarded s (s.modRail r f) where
  pwr := rfl
  event _ set := set
  irq _ set := set
  queued _ waits := waits
  nominal fclk next := ⟨fclk, next⟩
  fuses := rfl
  hst := rfl
  boot := rfl

theorem commandRail_guarded (s : State) (rail fclk : Nat) : Guarded s (commandRail s rail fclk) := by
  unfold commandRail
  extract_lets r t
  split
  · exact .refl s
  split
  · exact .refl s
  · exact (State.modRail_guarded ..).trans (queueTxn_guarded ..)

theorem retarget_guarded (s : State) (fclk : Nat) : Guarded s (retarget s fclk) :=
  (commandRail_guarded ..).trans (commandRail_guarded ..)

/-- FCLK is nominal at once, and no boost step is approached. -/
def boostEnded (s : State) : State :=
  s.modPwr (fun p => { p.setFclk s.boot.tclk s.fuses.nominal with boostNext := none, ackAt := none })

theorem boostEnded_guarded (s : State) : Guarded s (boostEnded s) where
  pwr := rfl
  event _ set := set
  irq _ set := set
  queued _ waits := waits
  nominal _ _ := ⟨rfl, rfl⟩
  fuses := rfl
  hst := rfl
  boot := rfl

theorem endBoost_guarded (s : State) : Guarded s (endBoost s) := by
  unfold endBoost
  extract_lets n
  split
  · exact .refl s
  · exact (boostEnded_guarded s).trans (retarget_guarded ..)

/-- When boost has ended FCLK is nominal, whatever it was (R276). -/
theorem endBoost_nominal (s : State) : (endBoost s).pwr.fclk = s.fuses.nominal ∧ (endBoost s).pwr.boostNext = none := by
  unfold endBoost
  extract_lets n
  split
  case isTrue h => exact h
  case isFalse => exact (retarget_guarded (boostEnded s) n).nominal rfl rfl

theorem endBoost_log (s : State) : (endBoost s).log = s.log :=
  (endBoost_keeps (P := fun _ => false) (Keeps.refl s) (Covers.refl _)).log_eq

/-! ### The lowest state (R279) -/

/-- The lowest state with its cause, counted. -/
def lowestCounted (s : State) (cause : BitVec 3) : State :=
  s.modPwr (fun p => { p with lowest := true, cause := cause, lowestCnt := satInc p.lowestCnt })

theorem enterLowest_again {s : State} (cause : BitVec 3) (holds : s.pwr.lowest = true) : enterLowest s cause = s := by
  unfold enterLowest
  exact if_pos holds

theorem enterLowest_fresh {s : State} (cause : BitVec 3) (fresh : s.pwr.lowest = false) :
    enterLowest s cause = endBoost (throttlePlots ((((pwrEvent (lowestCounted s cause) 3).raisePf 6).logLine 0x60 noPlot none
      cause.toNat 0)) (fun _ => true)) := by
  unfold enterLowest
  exact if_neg (by rw [fresh]; exact Bool.false_ne_true)

/-- What an entry of the lowest state shows, with its line the newest. -/
structure LowestEntered (s t : State) (cause : BitVec 3) : Prop where
  guarded : Guarded (lowestCounted s cause) t
  event : t.pwr.event.getLsbD 3 = true
  irq : t.pf.irqStatus.getLsbD 6 = true
  nominal : t.pwr.fclk = s.fuses.nominal ∧ t.pwr.boostNext = none
  line : ∃ l, t.log.lines.head? = some l ∧ s.log.next.toNat ≤ l.seq ∧ l.code = 0x60 ∧ l.arg0 = cause.toNat

theorem enterLowest_entered {s : State} (cause : BitVec 3) (fresh : s.pwr.lowest = false) :
    LowestEntered s (enterLowest s cause) cause := by
  rw [enterLowest_fresh cause fresh]
  have first := (pwrEvent_guarded (lowestCounted s cause) 3).trans (State.raisePf_guarded _ 6)
  have event := (State.raisePf_guarded (pwrEvent (lowestCounted s cause) 3) 6).event 3 (pwrEvent_event _ (by decide))
  have irq := State.raisePf_irq_self (pwrEvent (lowestCounted s cause) 3) 6
  have log : ((pwrEvent (lowestCounted s cause) 3).raisePf 6).log = s.log := State.raisePf_log ..
  generalize (pwrEvent (lowestCounted s cause) 3).raisePf 6 = u at first event irq log
  have head := State.logLine_head u 0x60 noPlot none cause.toNat 0
  have line := State.logLine_guarded u 0x60 noPlot none cause.toNat 0
  generalize u.logLine 0x60 noPlot none cause.toNat 0 = v at head line
  have rest := (throttlePlots_guarded v (fun _ => true)).trans (endBoost_guarded _)
  have kept : Guarded (lowestCounted s cause) (throttlePlots v fun _ => true) :=
    (first.trans line).trans (throttlePlots_guarded v _)
  refine ⟨first.trans (line.trans rest), (line.trans rest).event 3 event, (line.trans rest).irq 6 irq, ?_, ?_⟩
  · have ends := endBoost_nominal (throttlePlots v fun _ => true)
    rw [kept.fuses] at ends
    exact ends
  · rw [endBoost_log, throttlePlots_log]
    exact ⟨_, head, Nat.le_of_eq (congrArg (·.next.toNat) log.symm), rfl, rfl⟩

/-- The lowest state was entered, and what followed kept its line. -/
theorem LowestEntered.begins {s t u : State} {cause : BitVec 3} (entered : LowestEntered s t cause) (later : Guarded t u)
    (fresh : s.pwr.lowest = false) (line : ∀ l, t.log.lines.head? = some l → l ∈ u.log.lines) : lowestBegins s u cause := by
  have all := entered.guarded.trans later
  obtain ⟨l, head, about⟩ := entered.line
  have fuses : t.fuses = s.fuses := entered.guarded.fuses
  have nominal := later.nominal (by rw [entered.nominal.1, fuses]) entered.nominal.2
  rw [fuses] at nominal
  refine ⟨all.lowest, fun _ => ⟨all.cause, all.lowestCnt, later.event 3 entered.event, later.irq 6 entered.irq, nominal.1,
    l, line l head, about⟩, fun holds => ?_⟩
  rw [fresh] at holds
  contradiction

/-- The lowest state holds already: a further cause is no entry. -/
theorem lowestBegins_of_holds {s u : State} (cause : BitVec 3) (later : Guarded s u) (holds : s.pwr.lowest = true) :
    lowestBegins s u cause := by
  refine ⟨later.lowest.trans holds, fun fresh => ?_, fun _ => ⟨later.cause, later.lowestCnt⟩⟩
  rw [fresh] at holds
  contradiction

theorem enterLowest_begins (s : State) (cause : BitVec 3) : lowestBegins s (enterLowest s cause) cause := by
  rcases holds : s.pwr.lowest with _ | _
  · exact (enterLowest_entered cause holds).begins (.refl _) holds fun l head => List.mem_of_head? head
  · rw [enterLowest_again cause holds]
    exact lowestBegins_of_holds cause (.refl s) holds

end Sys2Proof.Machine

end


section

/-! PROOFS about droops, alerts, the lowest state and heat (R278 to R281). -/

namespace Sys2Proof.Machine

open Sys2Proof

/-! ### Droops (R278, R279) -/

theorem State.droopArmed_iff (s : State) :
    s.droopArmed = true ↔ s.boot.phase ≠ .held ∧ s.boot.startAt + 20000 ≤ s.boot.tclk := by
  simp [State.droopArmed]

theorem droopCross_quiet {s : State} {depth : Nat} (quiet : s.droopArmed = false ∨ depth ≤ droopLimit s.pwr) :
    droopCross s depth = s := by
  unfold droopCross
  refine if_pos ?_
  rcases quiet with unarmed | shallow
  · rw [unarmed]; rfl
  · rw [decide_eq_true shallow, Bool.or_true]

/-- A droop is counted, and holds. -/
def droopCounted (s : State) (depth : Nat) : State :=
  s.modPwr (fun p => { p with
    droop := true, deep := p.deep || decide (droopLimit p + 20 < depth), droopCnt := satInc p.droopCnt, droopAt := some s.boot.tclk })

theorem droopCross_deep {s : State} {depth : Nat} (armed : s.droopArmed = true) (deep : droopLimit s.pwr < depth) :
    droopCross s depth = endBoost (pwrEvent (droopCounted s depth) 5) := by
  unfold droopCross
  exact if_neg (by rw [armed, decide_eq_false (by omega)]; exact Bool.false_ne_true)

/-- A droop that persists is a cause of the lowest state. -/
def droopCaused (s : State) : State := s.modPwr (fun p => { p with droopCause := true })

theorem enterLowest_droopCause (s : State) (cause : BitVec 3) : (enterLowest s cause).pwr.droopCause = s.pwr.droopCause := by
  rcases holds : s.pwr.lowest with _ | _
  · exact (enterLowest_entered cause holds).guarded.droopCause
  · rw [enterLowest_again cause holds]

/-! ### VR_ALERT_N (R279, R280) -/

theorem enterLowest_vrCnt (s : State) (cause : BitVec 3) : (enterLowest s cause).pwr.vrCnt = s.pwr.vrCnt := by
  rcases holds : s.pwr.lowest with _ | _
  · exact (enterLowest_entered cause holds).guarded.vrCnt
  · rw [enterLowest_again cause holds]

theorem enterLowest_hst (s : State) (cause : BitVec 3) : (enterLowest s cause).hst = s.hst :=
  (enterLowest_keeps (P := fun _ => true) cause (Keeps.refl s) (Covers.refl _) (fun _ => rfl)).hst_eq

/-- The registers of an alert, in the order in which they are read (R280). -/
def alertReads : List Nat := [0x79, 0x7A, 0x7B, 0x03]

/-- The status reads of one rail queue. -/
def readStatus (s : State) (r : Fin 5) : State := alertReads.foldl (fun s c => queueTxn s { rail := r, command := c }) s

theorem queueTxns_guarded (r : Fin 5) (cs : List Nat) (s : State) :
    Guarded s (cs.foldl (fun s c => queueTxn s { rail := r, command := c }) s) := by
  induction cs generalizing s with
  | nil => exact .refl s
  | cons c cs ih => exact (queueTxn_guarded ..).trans (ih _)

theorem mem_queueTxns {r : Fin 5} {cs : List Nat} {s : State} {c : Nat} (used : s.hst.rail[r].getLsbD 31 = true) (h : c ∈ cs) :
    ({ rail := r, command := c } : PmbTxn) ∈ (cs.foldl (fun s c => queueTxn s { rail := r, command := c }) s).pwr.pmb := by
  induction cs generalizing s with
  | nil => contradiction
  | cons d cs ih =>
    rcases List.mem_cons.1 h with rfl | later
    · exact (queueTxns_guarded r cs _).queued _ (mem_queueTxn used)
    · exact ih (by rw [(queueTxn_guarded ..).hst]; exact used) later

theorem readAll_guarded (rs : List (Fin 5)) (s : State) : Guarded s (rs.foldl readStatus s) := by
  induction rs generalizing s with
  | nil => exact .refl s
  | cons r rs ih => exact (queueTxns_guarded ..).trans (ih _)

theorem mem_readAll {rs : List (Fin 5)} {s : State} {r : Fin 5} {c : Nat} (used : s.hst.rail[r].getLsbD 31 = true) (h : r ∈ rs)
    (hc : c ∈ alertReads) : ({ rail := r, command := c } : PmbTxn) ∈ (rs.foldl readStatus s).pwr.pmb := by
  induction rs generalizing s with
  | nil => contradiction
  | cons x rs ih =>
    rcases List.mem_cons.1 h with rfl | later
    · exact (readAll_guarded rs _).queued _ (mem_queueTxns used hc)
    · exact ih (by rw [readStatus, (queueTxns_guarded ..).hst]; exact used) later

theorem queueTxn_log (s : State) (t : PmbTxn) : (queueTxn s t).log = s.log :=
  (queueTxn_keeps (P := fun _ => false) t (Keeps.refl s) (Covers.refl _)).log_eq

theorem queueTxns_log (r : Fin 5) (cs : List Nat) (s : State) :
    (cs.foldl (fun s c => queueTxn s { rail := r, command := c }) s).log = s.log := by
  induction cs generalizing s with
  | nil => rfl
  | cons c cs ih => exact (ih _).trans (queueTxn_log ..)

theorem readAll_log (rs : List (Fin 5)) (s : State) : (rs.foldl readStatus s).log = s.log := by
  induction rs generalizing s with
  | nil => rfl
  | cons r rs ih => exact (ih _).trans (queueTxns_log ..)

/-- The alert is counted. -/
def alertCounted (s : State) : State := s.modPwr (fun p => { p with vrCnt := satInc p.vrCnt })

/-- The alert's own report, after the entry of the lowest state. -/
def alertReported (s : State) : State := endBoost (((pwrEvent s 2).raisePf 8).logLine 0x61 noPlot none 0 0)

theorem vrAlertReport_eq (s : State) :
    vrAlertReport s = (List.finRange 5).foldl readStatus (alertReported (enterLowest (alertCounted s) 1)) := rfl

theorem alertReported_guarded (s : State) : Guarded s (alertReported s) :=
  (((pwrEvent_guarded s 2).trans (State.raisePf_guarded ..)).trans (State.logLine_guarded ..)).trans (endBoost_guarded _)

/-- The alert's report: its event, its cause, and its line behind the lines written before. -/
theorem alertReported_shows (s : State) :
    (alertReported s).pwr.event.getLsbD 2 = true ∧ (alertReported s).pf.irqStatus.getLsbD 8 = true ∧
      (∃ l, (alertReported s).log.lines.head? = some l ∧ l.code = 0x61) ∧
      ∀ l, s.log.lines.head? = some l → l ∈ (alertReported s).log.lines := by
  unfold alertReported
  have event := (State.raisePf_guarded (pwrEvent s 2) 8).event 2 (pwrEvent_event _ (by decide))
  have irq := State.raisePf_irq_self (pwrEvent s 2) 8
  have log : ((pwrEvent s 2).raisePf 8).log = s.log := State.raisePf_log ..
  generalize (pwrEvent s 2).raisePf 8 = u at event irq log
  have rest := (State.logLine_guarded u 0x61 noPlot none 0 0).trans (endBoost_guarded _)
  refine ⟨rest.event 2 event, rest.irq 8 irq, ⟨_, by rw [endBoost_log]; exact State.logLine_head .., rfl⟩, fun l head => ?_⟩
  rw [endBoost_log]
  exact State.logLine_keeps_head (by rw [log]; exact head) ..

/-- An alert while FCLK runs: the lowest state, the count, the report, and the status reads (R279, R280). -/
theorem vrAlertReport_reports (s : State) :
    let t := vrAlertReport s
    t.boot = s.boot ∧ lowestBegins s t 1 ∧ t.pwr.vrCnt = satInc s.pwr.vrCnt ∧ t.pwr.event.getLsbD 2 = true ∧
      t.pf.irqStatus.getLsbD 8 = true ∧ (∃ l, t.log.lines.head? = some l ∧ l.code = 0x61) ∧
      ∀ r : Fin 5, s.hst.rail[r].getLsbD 31 = true → ∀ c ∈ alertReads, ({ rail := r, command := c } : PmbTxn) ∈ t.pwr.pmb := by
  intro t
  have split : t = (List.finRange 5).foldl readStatus (alertReported (enterLowest (alertCounted s) 1)) := vrAlertReport_eq s
  rw [split]
  have reads := readAll_guarded (List.finRange 5) (alertReported (enterLowest (alertCounted s) 1))
  have log := readAll_log (List.finRange 5) (alertReported (enterLowest (alertCounted s) 1))
  have status : ∀ r : Fin 5, (alertReported (enterLowest (alertCounted s) 1)).hst.rail[r].getLsbD 31 = true → ∀ c ∈ alertReads,
      ({ rail := r, command := c } : PmbTxn) ∈
        ((List.finRange 5).foldl readStatus (alertReported (enterLowest (alertCounted s) 1))).pwr.pmb :=
    fun r used c mem => mem_readAll used (List.mem_finRange r) mem
  generalize (List.finRange 5).foldl readStatus (alertReported (enterLowest (alertCounted s) 1)) = v at reads log status
  have report := alertReported_guarded (enterLowest (alertCounted s) 1)
  obtain ⟨event, irq, line, keeps⟩ := alertReported_shows (enterLowest (alertCounted s) 1)
  have later := report.trans reads
  have boot : (enterLowest (alertCounted s) 1).boot = s.boot :=
    (enterLowest_keeps (P := fun _ => true) 1 (Keeps.refl (alertCounted s)) (Covers.refl _) (fun _ => rfl)).boot_eq
  refine ⟨later.boot.trans boot, ?_, ?_, reads.event 2 event, reads.irq 8 irq, by rw [log]; exact line, fun r used c mem => ?_⟩
  · rcases holds : s.pwr.lowest with _ | _
    · exact (enterLowest_entered (s := alertCounted s) 1 holds).begins later holds fun l head => by rw [log]; exact keeps l head
    · rw [enterLowest_again (s := alertCounted s) 1 holds] at later
      exact lowestBegins_of_holds (s := alertCounted s) 1 later holds
  · exact later.vrCnt.trans (enterLowest_vrCnt ..)
  · exact status r (by rw [report.hst, enterLowest_hst]; exact used) c mem

/-! ### The end of the lowest state (R279) -/

theorem leaveLowest_held {s : State} (held : ¬ (s.pwr.lowest = true ∧ s.boot.vrAlert = false ∧
    ¬ (s.pwr.droopCause = true ∧ s.pwr.droop = true) ∧ faultySensors s.pwr < 8 ∧ s.pwr.satOver = 0)) : leaveLowest s = s := by
  unfold leaveLowest
  extract_lets p due
  refine if_pos ?_
  dsimp only [p]
  refine Classical.byContradiction fun free => ?_
  simp only [Bool.or_eq_true, Bool.not_eq_true', Bool.and_eq_true, decide_eq_true_eq, not_or] at free
  obtain ⟨⟨⟨⟨lowest, alert⟩, droop⟩, sensors⟩, over_⟩ := free
  exact held ⟨by simpa using lowest, by simpa using alert, droop, by omega, by simpa using over_⟩

/-- The end of the lowest state, at an edge: every limiter at KMAX where it acts. -/
def lowestLeft (s : State) (due : Nat) : State :=
  (s.advanceTo due).modPwr (fun p => { p with
    lowest := false, satPend := 0, droopCause := false,
    levels := Vector.ofFn (fun l => Vector.ofFn (fun i => if (actsOn l.val).contains i.val then kMax (i.val / 4) else 0)) })

theorem leaveLowest_left {s : State} (lowest : s.pwr.lowest = true) (alert : s.boot.vrAlert = false)
    (droop : ¬ (s.pwr.droopCause = true ∧ s.pwr.droop = true)) (sensors : faultySensors s.pwr < 8) (sat : s.pwr.satOver = 0) :
    leaveLowest s =
      lowestLeft s (max (max s.pwr.satClear s.pwr.vrClear) (max s.pwr.droopClear s.pwr.sensClear) + 100000) := by
  unfold leaveLowest
  refine if_neg ?_
  simp only [Bool.or_eq_true, Bool.not_eq_true', Bool.and_eq_true, decide_eq_true_eq, not_or]
  exact ⟨⟨⟨⟨by rw [lowest]; decide, by rw [alert]; decide⟩, droop⟩, by omega⟩, by rw [sat]; decide⟩

theorem lowestLeft_levels (s : State) (due : Nat) (l : Fin 11) {i : Nat} (h : i < 12) :
    levelAt (lowestLeft s due).pwr.levels[l] i = if i ∈ actsOn l.val then kMax (i / 4) else 0 := by
  unfold levelAt lowestLeft State.modPwr
  simp [h]

/-- A crossing beyond the threshold (R278). -/
theorem droopCross_shows {s : State} {depth : Nat} (armed : s.droopArmed = true) (deep : droopLimit s.pwr < depth) :
    let t := droopCross s depth
    t.pwr.droop = true ∧ (t.pwr.deep = true ↔ s.pwr.deep = true ∨ droopLimit s.pwr + 20 < depth) ∧
      t.pwr.droopCnt = satInc s.pwr.droopCnt ∧ t.pwr.droopAt = some s.boot.tclk ∧ t.pwr.event.getLsbD 5 = true ∧
      t.pwr.fclk = s.fuses.nominal ∧ t.pwr.boostNext = none := by
  intro t
  rw [show t = _ from droopCross_deep armed deep]
  have kept := (pwrEvent_guarded (droopCounted s depth) 5).trans (endBoost_guarded _)
  have event := (endBoost_guarded _).event 5 (pwrEvent_event (droopCounted s depth) (by decide))
  obtain ⟨fclk, next⟩ := endBoost_nominal (pwrEvent (droopCounted s depth) 5)
  refine ⟨kept.droop, ?_, kept.droopCnt, kept.droopAt, event, fclk, next⟩
  rw [kept.deep]
  show (s.pwr.deep || decide (droopLimit s.pwr + 20 < depth)) = true ↔ _
  rw [Bool.or_eq_true, decide_eq_true_iff]

theorem droopPersists_caused {s : State} (holds : s.pwr.droop = true) :
    droopPersists s = enterLowest (droopCaused s) 3 := if_neg (by rw [holds]; exact Bool.false_ne_true)

theorem vrAlertOn_ready {s : State} (on : s.aux.on = true) (high : s.boot.vrAlert = false) (ready : s.isReady = true) :
    vrAlertOn s = vrAlertReport { s with boot := { s.boot with vrAlert := true } } := by
  unfold vrAlertOn
  exact (if_neg (by rw [on, high]; exact Bool.false_ne_true)).trans (if_pos ready)

theorem droopsAlertsAndTheLowestState_holds : droopsAlertsAndTheLowestState := by
  intro s
  refine ⟨?droop, ?persists, ?passes, ?recovers, ?alert, ?risen, ?leaves⟩
  case droop =>
    intro depth armed limit
    refine ⟨fun quiet => ⟨_, rfl, droopCross_quiet (quiet.imp (fun unarmed => ?_) id)⟩,
      fun isArmed deep => ⟨_, rfl, droopCross_shows ((State.droopArmed_iff s).2 isArmed) deep⟩⟩
    exact eq_false_of_ne_true fun h => unarmed ((State.droopArmed_iff s).1 h)
  case persists =>
    refine fun holds => ⟨_, rfl, ?_⟩
    rw [droopPersists_caused holds]
    exact ⟨enterLowest_begins (droopCaused s) 3, enterLowest_droopCause ..⟩
  case passes => exact fun free => ⟨_, rfl, if_pos (by rw [free]; rfl)⟩
  case recovers =>
    exact fun n => ⟨fun holds => ⟨_, rfl, if_neg (by rw [holds]; exact Bool.false_ne_true)⟩,
      fun free => ⟨_, rfl, if_pos (by rw [free]; rfl)⟩⟩
  case alert =>
    refine fun on high ready => ⟨_, rfl, ?_⟩
    rw [vrAlertOn_ready on high ready]
    obtain ⟨boot, rest⟩ := vrAlertReport_reports { s with boot := { s.boot with vrAlert := true } }
    exact ⟨congrArg BootState.vrAlert boot, rest⟩
  case risen => exact fun low => ⟨_, rfl, if_pos low⟩
  case leaves =>
    refine ⟨fun held => ⟨_, rfl, leaveLowest_held held⟩, fun ended => ⟨_, rfl, ?_⟩⟩
    obtain ⟨lowest, alert, droop, sensors, sat⟩ := ended
    rw [leaveLowest_left lowest alert droop sensors sat]
    refine ⟨rfl, rfl, ?_, ?_, ?_, ?_, fun l i inside => lowestLeft_levels s _ l inside, rfl, rfl⟩
    all_goals
      show _ ≤ max s.boot.tclk _
      omega

/-! ### Sensors (R281) -/

/-- A sample of a sensor that shows a fault: out of range, or a jump. -/
def Sensor.bad (x : Sensor) (t : Int) : Prop := t < -160 ∨ 600 < t ∨ (x.seen = true ∧ (80 < t - x.temp ∨ 80 < x.temp - t))

theorem Sensor.sample_bad {x : Sensor} {t : Int} (bad : x.bad t) :
    (x.sample t).1 = { temp := t, seen := true, fault := true, run := 0 } := by
  unfold Sensor.sample
  extract_lets jump isBad
  have found : isBad = true := by
    dsimp only [isBad, jump]
    simpa [Sensor.bad, or_assoc] using bad
  rw [if_pos found]

theorem Sensor.sample_good {x : Sensor} {t : Int} (good : ¬ x.bad t) :
    (x.sample t).1 = if x.fault = true then { temp := t, seen := true, fault := decide (x.run + 1 < 100), run := x.run + 1 }
      else { temp := t, seen := true, fault := false, run := 0 } := by
  unfold Sensor.sample
  extract_lets jump isBad
  have found : ¬ isBad = true := by
    dsimp only [isBad, jump]
    simpa [Sensor.bad, or_assoc] using good
  rw [if_neg found]
  split <;> rfl

/-- What one sample leaves of a sensor. -/
theorem Sensor.sample_shows (x : Sensor) (t : Int) :
    let y := (x.sample t).1
    y.temp = t ∧ y.seen = true ∧ (x.bad t → y.fault = true ∧ y.run = 0) ∧ (¬ x.bad t → x.fault = false → y.fault = false) ∧
      (¬ x.bad t → x.fault = true → y.run = x.run + 1 ∧ (y.fault = true ↔ x.run + 1 < 100)) := by
  intro y
  by_cases bad : x.bad t
  · have sampled : y = _ := Sensor.sample_bad bad
    rw [sampled]
    exact ⟨rfl, rfl, fun _ => ⟨rfl, rfl⟩, fun good => absurd bad good, fun good => absurd bad good⟩
  · have sampled : y = _ := Sensor.sample_good bad
    rw [sampled]
    rcases fault : x.fault with _ | _
    · exact ⟨rfl, rfl, fun is => absurd is bad, fun _ _ => rfl, fun _ h => Bool.noConfusion h⟩
    · exact ⟨rfl, rfl, fun is => absurd is bad, fun _ h => Bool.noConfusion h, fun _ _ => ⟨rfl, decide_eq_true_iff⟩⟩

/-! ### A sample of the sensors -/

theorem State.thermalArmed_iff (s : State) :
    s.thermalArmed = true ↔ s.boot.phase ≠ .held ∧ s.boot.startAt + 22000 ≤ s.boot.tclk := by
  simp [State.thermalArmed]

/-- The sensors with their samples. -/
def sampled (s : State) (ts : Vector Int 48) : State :=
  s.modPwr (fun p => { p with sens := Vector.ofFn (fun i => (p.sens[i].sample ts[i]).1) })

/-- Eight faulty sensors are a cause of the lowest state; it ends when there are fewer. -/
def sensorsJudged (s : State) (many : Bool) : State :=
  if 8 ≤ faultySensors s.pwr then enterLowest s 4
  else if many then s.modPwr (fun p => { p with sensClear := s.boot.tclk }) else s

/-- A sensor that turned faulty is reported. -/
def sensorReported (ts : Vector Int 48) (s : State) (i : Fin 48) : State :=
  (pwrEvent s 8).logLine 0x62 noPlot none i.val (unsigned 64 ts[i])

/-- The warning is given. -/
def warnGiven (s : State) : State := (pwrEvent (s.modPwr (fun p => { p with warned := true })) 4).raisePf 7

/-- Was the hottest sensor below a threshold before? -/
def wasBelow (before : Option Int) (w : Int) : Bool := match before with | some b => decide (b < w) | none => true

/-- The warning comes on crossing WARN. -/
def warnCrossed (s : State) (before : Option Int) : State :=
  match hottest s.pwr with
  | none => s
  | some h =>
    if decide (thermThresh s.pwr.warn ≤ h.2) && wasBelow before (thermThresh s.pwr.warn) && !s.pwr.warned then warnGiven s else s

theorem thermalSample_eq {s : State} (armed : s.thermalArmed = true) (ts : Vector Int 48) :
    thermalSample s ts = warnCrossed (((List.finRange 48).filter (fun i => (s.pwr.sens[i].sample ts[i]).2)).foldl (sensorReported ts)
      (sensorsJudged (sampled s ts) (decide (8 ≤ faultySensors s.pwr)))) ((hottest s.pwr).map (·.2)) := by
  unfold thermalSample
  exact if_neg (by rw [armed]; exact Bool.false_ne_true)

theorem sensorReported_guarded (ts : Vector Int 48) (s : State) (i : Fin 48) : Guarded s (sensorReported ts s i) :=
  (pwrEvent_guarded s 8).trans (State.logLine_guarded ..)

theorem sensorsReported_guarded (ts : Vector Int 48) (is : List (Fin 48)) (s : State) : Guarded s (is.foldl (sensorReported ts) s) := by
  induction is generalizing s with
  | nil => exact .refl s
  | cons i is ih => exact (sensorReported_guarded ts s i).trans (ih _)

/-- A line stays in the log while fewer lines follow it than the log holds. -/
theorem State.logLine_keeps_line {s : State} {l : LogLine} {n : Nat} (line : s.log.lines[n]? = some l) (room : n + 1 < 8192)
    (code plot : Nat) (node : Option NodeId) (a b : Nat) : (s.logLine code plot node a b).log.lines[n + 1]? = some l := by
  rw [State.logLine_lines, List.getElem?_cons_succ]
  split
  case isTrue full =>
    have long := of_decide_eq_true full
    rw [List.getElem?_dropLast, if_pos (by omega)]
    exact line
  case isFalse => exact line

theorem sensorsReported_keeps_line (ts : Vector Int 48) (is : List (Fin 48)) {s : State} {l : LogLine} {n : Nat}
    (line : s.log.lines[n]? = some l) (room : n + is.length < 8192) : l ∈ (is.foldl (sensorReported ts) s).log.lines := by
  induction is generalizing s n with
  | nil => exact List.mem_of_getElem? line
  | cons i is ih =>
    rw [List.length_cons] at room
    exact ih (State.logLine_keeps_line (s := pwrEvent s 8) line (by omega) ..) (by omega)

theorem sensorsJudged_sens (s : State) (many : Bool) : (sensorsJudged s many).pwr.sens = s.pwr.sens := by
  unfold sensorsJudged
  split
  · rcases holds : s.pwr.lowest with _ | _
    · exact (enterLowest_entered 4 holds).guarded.sens
    · rw [enterLowest_again 4 holds]
  · split <;> rfl

theorem sensorsJudged_warn (s : State) (many : Bool) :
    (sensorsJudged s many).pwr.warn = s.pwr.warn ∧ (sensorsJudged s many).pwr.warned = s.pwr.warned := by
  unfold sensorsJudged
  split
  · rcases holds : s.pwr.lowest with _ | _
    · have kept := (enterLowest_entered 4 holds).guarded
      exact ⟨kept.warn, kept.warned⟩
    · rw [enterLowest_again 4 holds]
      exact ⟨rfl, rfl⟩
  · split <;> exact ⟨rfl, rfl⟩

theorem warnCrossed_cases (s : State) (before : Option Int) : warnCrossed s before = s ∨ warnCrossed s before = warnGiven s := by
  unfold warnCrossed
  split
  · exact Or.inl rfl
  · split
    · exact Or.inr rfl
    · exact Or.inl rfl

theorem warnCrossed_warns {s : State} {before : Option Int} {h : Nat × Int} (hot : hottest s.pwr = some h)
    (crossed : thermThresh s.pwr.warn ≤ h.2) (below : wasBelow before (thermThresh s.pwr.warn) = true)
    (first : s.pwr.warned = false) : warnCrossed s before = warnGiven s := by
  unfold warnCrossed
  rw [hot]
  exact if_pos (by rw [decide_eq_true crossed, below, first]; rfl)

theorem warnGiven_pwr (s : State) :
    (warnGiven s).pwr = { s.pwr with warned := true, event := setBit s.pwr.event 4 true } :=
  (State.raisePf_keeps (P := fun _ => false) 7 (Keeps.refl (pwrEvent (s.modPwr (fun p => { p with warned := true })) 4))
    (Covers.refl _)).pwr_eq

theorem warnGiven_shows (s : State) :
    (warnGiven s).pwr.warned = true ∧ (warnGiven s).pwr.event.getLsbD 4 = true ∧ (warnGiven s).pf.irqStatus.getLsbD 7 = true := by
  refine ⟨?_, ?_, State.raisePf_irq_self _ 7⟩
  · rw [warnGiven_pwr]
  · rw [warnGiven_pwr]
    exact getLsbD_setBit_self _ (by decide)

theorem warnCrossed_sens (s : State) (before : Option Int) : (warnCrossed s before).pwr.sens = s.pwr.sens := by
  rcases warnCrossed_cases s before with quiet | given
  · rw [quiet]
  · rw [given, warnGiven_pwr]

theorem warnCrossed_lowest (s : State) (before : Option Int) : (warnCrossed s before).pwr.lowest = s.pwr.lowest := by
  rcases warnCrossed_cases s before with quiet | given
  · rw [quiet]
  · rw [given, warnGiven_pwr]

/-- Where the lowest state began, the warning leaves it. -/
theorem warnCrossed_begins {s u : State} {cause : BitVec 3} (before : Option Int) (h : lowestBegins s u cause) :
    lowestBegins s (warnCrossed u before) cause := by
  rcases warnCrossed_cases u before with quiet | given
  · rw [quiet]
    exact h
  · have pwr := warnGiven_pwr u
    have log : (warnGiven u).log = u.log := State.raisePf_log ..
    have irq := (State.raisePf_guarded (pwrEvent (u.modPwr (fun p => { p with warned := true })) 4) 7).irq
    obtain ⟨lowest, fresh, again⟩ := h
    rw [given]
    refine ⟨by rw [pwr]; exact lowest, fun first => ?_, fun holds => by rw [pwr]; exact again holds⟩
    obtain ⟨cause', count, event, power, fclk, line⟩ := fresh first
    rw [log, pwr]
    exact ⟨cause', count, getLsbD_setBit_of 4 event, irq 6 power, fclk, line⟩

theorem faultySensors_of_sens {p p' : PwrState} (h : p'.sens = p.sens) : faultySensors p' = faultySensors p := by
  unfold faultySensors
  rw [h]

theorem hottest_of_sens {p p' : PwrState} (h : p'.sens = p.sens) : hottest p' = hottest p := by
  unfold hottest
  rw [h]

/-- The lowest state begins with the eighth faulty sensor (R279, R281), whose reports follow. -/
theorem sensorsJudged_begins {s : State} (many : Bool) (ts : Vector Int 48) {is : List (Fin 48)} (few : is.length ≤ 48)
    (faulty : 8 ≤ faultySensors s.pwr) : lowestBegins s (is.foldl (sensorReported ts) (sensorsJudged s many)) 4 := by
  have judged : sensorsJudged s many = enterLowest s 4 := if_pos faulty
  rw [judged]
  have later := sensorsReported_guarded ts is (enterLowest s 4)
  rcases holds : s.pwr.lowest with _ | _
  · refine (enterLowest_entered 4 holds).begins later holds fun l head => ?_
    rw [List.head?_eq_getElem?] at head
    exact sensorsReported_keeps_line ts is head (by omega)
  · rw [enterLowest_again 4 holds] at later ⊢
    exact lowestBegins_of_holds 4 later holds

theorem sensorsJudged_calm {s : State} (many : Bool) (sound : faultySensors s.pwr < 8) :
    (sensorsJudged s many).pwr.lowest = s.pwr.lowest := by
  unfold sensorsJudged
  rw [if_neg (by omega)]
  split <;> rfl

theorem thermalSample_unarmed {s : State} (unarmed : s.thermalArmed = false) (ts : Vector Int 48) : thermalSample s ts = s := by
  unfold thermalSample
  exact if_pos (by rw [unarmed]; rfl)

/-- The sensors after a sample: every one with its own. -/
theorem sampled_sens (s : State) (ts : Vector Int 48) (i : Fin 48) :
    (sampled s ts).pwr.sens[i] = (s.pwr.sens[i].sample ts[i]).1 := by
  unfold sampled State.modPwr
  simp

theorem sampled_kept (s : State) (ts : Vector Int 48) :
    (sampled s ts).pwr.lowest = s.pwr.lowest ∧ (sampled s ts).pwr.warn = s.pwr.warn ∧ (sampled s ts).pwr.warned = s.pwr.warned := by
  dsimp only [sampled, State.modPwr]
  exact ⟨rfl, rfl, rfl⟩

/-- The samples of the sensors are no part of what the entry of the lowest state shows. -/
theorem lowestBegins_of_sampled {s u : State} {ts : Vector Int 48} {cause : BitVec 3} (h : lowestBegins (sampled s ts) u cause) :
    lowestBegins s u cause := by
  unfold lowestBegins at h ⊢
  dsimp only [sampled, State.modPwr] at h
  exact h

/-- A sample of the sensors: each with its own reading, the lowest state with eight faulty ones, and the warning (R281). -/
theorem thermalSample_shows {s : State} (armed : s.thermalArmed = true) (ts : Vector Int 48) :
    let t := thermalSample s ts
    (∀ i : Fin 48, t.pwr.sens[i] = (s.pwr.sens[i].sample ts[i]).1) ∧
      (8 ≤ faultySensors t.pwr → lowestBegins s t 4) ∧ (faultySensors t.pwr < 8 → t.pwr.lowest = s.pwr.lowest) ∧
      ∀ h, hottest t.pwr = some h → thermThresh s.pwr.warn ≤ h.2 → s.pwr.warned = false →
        (∀ b, hottest s.pwr = some b → b.2 < thermThresh s.pwr.warn) →
        t.pwr.warned = true ∧ t.pwr.event.getLsbD 4 = true ∧ t.pf.irqStatus.getLsbD 7 = true := by
  intro t
  rw [show t = _ from thermalSample_eq armed ts]
  have few : ((List.finRange 48).filter (fun i => (s.pwr.sens[i].sample ts[i]).2)).length ≤ 48 :=
    Nat.le_trans (List.length_filter_le ..) (Nat.le_of_eq List.length_finRange)
  generalize (List.finRange 48).filter (fun i => (s.pwr.sens[i].sample ts[i]).2) = news at few
  generalize decide (8 ≤ faultySensors s.pwr) = many
  have each := sampled_sens s ts
  obtain ⟨keptLowest, keptWarn, keptWarned⟩ := sampled_kept s ts
  have sens : (sensorsJudged (sampled s ts) many).pwr.sens = (sampled s ts).pwr.sens := sensorsJudged_sens ..
  have warn : (sensorsJudged (sampled s ts) many).pwr.warn = s.pwr.warn :=
    (sensorsJudged_warn ..).1.trans keptWarn
  have warned : (sensorsJudged (sampled s ts) many).pwr.warned = s.pwr.warned :=
    (sensorsJudged_warn ..).2.trans keptWarned
  have begins : 8 ≤ faultySensors (sampled s ts).pwr →
      lowestBegins s (news.foldl (sensorReported ts) (sensorsJudged (sampled s ts) many)) 4 :=
    fun faulty => lowestBegins_of_sampled (sensorsJudged_begins many ts few faulty)
  have calm : faultySensors (sampled s ts).pwr < 8 → (sensorsJudged (sampled s ts) many).pwr.lowest = s.pwr.lowest :=
    fun sound => (sensorsJudged_calm many sound).trans keptLowest
  generalize (sampled s ts).pwr = p at each sens begins calm
  generalize sensorsJudged (sampled s ts) many = v at sens warn warned begins calm
  have reported := sensorsReported_guarded ts news v
  generalize news.foldl (sensorReported ts) v = u at begins reported
  have kept := warnCrossed_sens u ((hottest s.pwr).map (·.2))
  have last : (warnCrossed u ((hottest s.pwr).map (·.2))).pwr.sens = p.sens := kept.trans (reported.sens.trans sens)
  refine ⟨fun i => by rw [last]; exact each i, fun faulty => ?_, fun sound => ?_, fun h hot crossed first below => ?_⟩
  · rw [faultySensors_of_sens last] at faulty
    exact warnCrossed_begins _ (begins faulty)
  · rw [faultySensors_of_sens last] at sound
    rw [warnCrossed_lowest, reported.lowest, calm sound]
  · rw [hottest_of_sens kept] at hot
    rw [← warn, ← reported.warn] at crossed below
    have given : warnCrossed u ((hottest s.pwr).map (·.2)) = warnGiven u := by
      refine warnCrossed_warns hot crossed ?_ (by rw [reported.warned, warned]; exact first)
      rcases was : hottest s.pwr with _ | b
      · rfl
      · exact decide_eq_true (below b was)
    rw [given]
    exact warnGiven_shows u

/-! ### The thermal limit (R281) -/

theorem thermalLimit_of_hot {s : State} (ready : s.isReady = true) {h : Nat × Int} (hot : hottest s.pwr = some h) :
    thermalLimit s =
      if thermThresh s.pwr.throttle ≤ h.2 then
        s.modPwr (fun p => { p with lt := some (match p.lt with | none => demandPower p | some l => l - l / 50) })
      else if h.2 < thermThresh s.pwr.throttle - 12 then
        s.modPwr (fun p => { p with lt := match p.lt with
          | none => none
          | some l => if s.capPw < l + l / 50 then none else some (l + l / 50) })
      else s := by
  unfold thermalLimit
  refine (if_neg (by rw [ready]; exact Bool.false_ne_true)).trans ?_
  split
  case h_1 cold => exact nomatch hot.symm.trans cold
  case h_2 h' hot' =>
    obtain rfl := Option.some.inj (hot.symm.trans hot')
    rfl

theorem sensorsAndTheThermalLimit_holds : sensorsAndTheThermalLimit := by
  intro s
  refine ⟨fun early ts => ⟨_, rfl, thermalSample_unarmed ?_ ts⟩, fun out since ts => ⟨_, rfl, ?_⟩, fun ready h hot => ?_⟩
  · refine eq_false_of_ne_true fun armed => ?_
    obtain ⟨out, since⟩ := (State.thermalArmed_iff s).1 armed
    rcases early with held | before
    · exact out held
    · omega
  · obtain ⟨sens, rest⟩ := thermalSample_shows ((State.thermalArmed_iff s).2 ⟨out, since⟩) ts
    refine ⟨fun i => ?_, rest⟩
    have shows := Sensor.sample_shows s.pwr.sens[i] ts[i]
    rw [← sens i] at shows
    exact shows
  · have moves := thermalLimit_of_hot ready hot
    refine ⟨fun throttles => ⟨_, rfl, moves.trans (if_pos throttles)⟩, fun cool l limit => ⟨_, rfl, ?_⟩,
      fun near below => ⟨_, rfl, (moves.trans (if_neg (Int.not_le.2 below))).trans (if_neg (Int.not_lt.2 near))⟩⟩
    refine (moves.trans (if_neg (fun high => ?_))).trans ((if_pos cool).trans ?_)
    · omega
    · dsimp only [State.modPwr]
      rw [limit]

/-- Settles O58: what protections leave, the entry and the end of the lowest state, and the sensors. -/
theorem droopAndHeat : Obligations.DroopAndHeat := ⟨droopsAlertsAndTheLowestState_holds, sensorsAndTheThermalLimit_holds⟩

end Sys2Proof.Machine

end


section

/-! PROOFS about samples and energy (R265, R266, R283 to R285): what a charge adds, and that the charges of a sample add up. -/

namespace Sys2Proof.Machine

open Sys2Proof

theorem sumNat_eq_sum (l : List Nat) : sumNat l = l.sum := List.sum_eq_foldl.symm

/-! ### One charge -/

/-- A plot that is charged, with a job of it. -/
def Plot.charged (p : Plot) (i : Option (BitVec 16)) (e : Nat) : Plot := { p with
  pwr := { p.pwr with
    energy := (p.pwr.energy + e) % energyMod, wrap := p.pwr.wrap || decide (energyMod ≤ p.pwr.energy + e), frameE := p.pwr.frameE + e },
  plt := match i with
    | none => p.plt
    | some i => { p.plt with
      jobs := p.plt.jobs.map (fun j => if j.idx == i && !(j.phase == .over) then { j with energy := j.energy + e } else j) } }

theorem chargeEnergy_plot (s : State) (q p : PlotId) (i : Option (BitVec 16)) (e : Nat) :
    (chargeEnergy s q i e).plot p = if p = q then (s.plot q).charged i e else s.plot p := by
  split
  case isTrue same =>
    subst same
    unfold chargeEnergy
    cases i with
    | none => exact State.modPlot_self ..
    | some i =>
      refine (State.modPlot_self ..).trans ?_
      rw [State.modPlot_self]
      rfl
  case isFalse other =>
    unfold chargeEnergy
    cases i with
    | none => exact State.modPlot_other s _ other
    | some i => exact (State.modPlt_other _ _ other).trans (State.modPlot_other s _ other)

/-- What a charge leaves of every plot. -/
structure Charged (s t : State) : Prop where
  state : ∀ p : PlotId, (t.plot p).plt.state = (s.plot p).plt.state
  frameT : ∀ p : PlotId, (t.plot p).pwr.frameT = (s.plot p).pwr.frameT
  bubbles : ∀ p : PlotId, (t.plot p).pwr.bubbles = (s.plot p).pwr.bubbles

theorem Charged.trans {a b c : State} (h : Charged a b) (k : Charged b c) : Charged a c :=
  ⟨fun p => (k.state p).trans (h.state p), fun p => (k.frameT p).trans (h.frameT p), fun p => (k.bubbles p).trans (h.bubbles p)⟩

theorem chargeEnergy_charged (s : State) (q : PlotId) (i : Option (BitVec 16)) (e : Nat) : Charged s (chargeEnergy s q i e) := by
  refine ⟨fun p => ?_, fun p => ?_, fun p => ?_⟩
  all_goals
    rw [chargeEnergy_plot]
    split
    case isTrue same =>
      rw [same]
      cases i <;> rfl
    case isFalse => rfl

theorem chargeEnergy_frameE (s : State) (q p : PlotId) (i : Option (BitVec 16)) (e : Nat) :
    ((chargeEnergy s q i e).plot p).pwr.frameE = (s.plot p).pwr.frameE + if p = q then e else 0 := by
  rw [chargeEnergy_plot]
  split
  case isTrue same => rw [same]; rfl
  case isFalse => rfl

theorem chargeEnergy_jobs_none (s : State) (q p : PlotId) (e : Nat) :
    ((chargeEnergy s q none e).plot p).plt.jobs = (s.plot p).plt.jobs := by
  rw [chargeEnergy_plot]
  split
  case isTrue same => rw [same]; rfl
  case isFalse => rfl

/-- The energy of all plots together. -/
def frameEnergy (s : State) : Nat := sumNat (allPlots.map (fun q => (s.plot q).pwr.frameE))

theorem frameEnergy_eq (s : State) : frameEnergy s = (allPlots.map fun q => (s.plot q).pwr.frameE).sum := sumNat_eq_sum _

/-- What is added to the value of one member of a list is added to the sum once. -/
theorem sum_map_add_once (f : PlotId → Nat) (q : PlotId) (e : Nat) {l : List PlotId} (once : l.Nodup) :
    (l.map fun p => f p + if p = q then e else 0).sum = (l.map f).sum + if q ∈ l then e else 0 := by
  induction l with
  | nil => rfl
  | cons p l ih =>
    obtain ⟨fresh, rest⟩ := List.nodup_cons.1 once
    rw [List.map_cons, List.sum_cons, ih rest, List.map_cons, List.sum_cons]
    by_cases same : p = q
    · subst same
      rw [if_pos rfl, if_neg fresh, if_pos (List.mem_cons_self ..)]
      omega
    · simp only [if_neg same, List.mem_cons, Ne.symm same, false_or]
      omega

theorem chargeEnergy_frameEnergy (s : State) (q : PlotId) (i : Option (BitVec 16)) (e : Nat) :
    frameEnergy (chargeEnergy s q i e) = frameEnergy s + e := by
  rw [frameEnergy_eq, frameEnergy_eq]
  simp only [chargeEnergy_frameE]
  rw [sum_map_add_once _ q e allPlots_nodup, if_pos (mem_allPlots q)]

/-! ### The shares of a sample (R283, Table 11-5) -/

theorem shareEnergy_cons (s : State) (q : PlotId) (i : Option (BitVec 16)) (w : Nat)
    (l : List (PlotId × Option (BitVec 16) × Nat)) (left : Nat) :
    shareEnergy s ((q, i, w) :: l) left = shareEnergy (chargeEnergy s q i (min left w)) l (left - min left w) := rfl

theorem shareEnergy_charged (l : List (PlotId × Option (BitVec 16) × Nat)) (s : State) (left : Nat) :
    Charged s (shareEnergy s l left) := by
  induction l generalizing s left with
  | nil => exact chargeEnergy_charged ..
  | cons part l ih => exact (chargeEnergy_charged ..).trans (ih ..)

/-- The shares add up to the whole: plot 0 has what the others leave. -/
theorem shareEnergy_frameEnergy (l : List (PlotId × Option (BitVec 16) × Nat)) (s : State) (left : Nat) :
    frameEnergy (shareEnergy s l left) = frameEnergy s + left := by
  induction l generalizing s left with
  | nil => exact chargeEnergy_frameEnergy ..
  | cons part l ih =>
    obtain ⟨q, i, w⟩ := part
    rw [shareEnergy_cons, ih, chargeEnergy_frameEnergy]
    omega

/-- A plot's part of a list of shares. -/
def shareOf (l : List (PlotId × Option (BitVec 16) × Nat)) (q : PlotId) : Nat :=
  ((l.filter (fun part => part.1 == q)).map (·.2.2)).sum

theorem shareOf_cons (part : PlotId × Option (BitVec 16) × Nat) (l : List (PlotId × Option (BitVec 16) × Nat)) (q : PlotId) :
    shareOf (part :: l) q = (if q = part.1 then part.2.2 else 0) + shareOf l q := by
  unfold shareOf
  by_cases same : part.1 = q
  · rw [List.filter_cons_of_pos (by simpa using same), List.map_cons, List.sum_cons, if_pos same.symm]
  · rw [List.filter_cons_of_neg (by simpa using same), if_neg fun h => same h.symm, Nat.zero_add]

/-- Where the shares fit into the whole every plot but plot 0 has its own. -/
theorem shareEnergy_frameE {q : PlotId} (hq : q ≠ 0) (l : List (PlotId × Option (BitVec 16) × Nat)) (s : State) (left : Nat)
    (fits : (l.map (·.2.2)).sum ≤ left) :
    ((shareEnergy s l left).plot q).pwr.frameE = (s.plot q).pwr.frameE + shareOf l q := by
  induction l generalizing s left with
  | nil => exact (chargeEnergy_frameE ..).trans (by rw [if_neg hq]; rfl)
  | cons part l ih =>
    obtain ⟨p, i, w⟩ := part
    rw [List.map_cons, List.sum_cons] at fits
    dsimp only at fits
    have whole : min left w = w := Nat.min_eq_right (by omega)
    rw [shareEnergy_cons, whole, ih _ _ (by omega), chargeEnergy_frameE, shareOf_cons]
    dsimp only
    omega

/-- Shares that name no job leave the jobs. -/
theorem shareEnergy_jobs (l : List (PlotId × Option (BitVec 16) × Nat)) (noJob : ∀ part ∈ l, part.2.1 = none) (s : State) (left : Nat)
    (q : PlotId) : ((shareEnergy s l left).plot q).plt.jobs = (s.plot q).plt.jobs := by
  induction l generalizing s left with
  | nil => exact chargeEnergy_jobs_none ..
  | cons part l ih =>
    obtain ⟨p, i, w⟩ := part
    have none_ : i = none := noJob _ (List.mem_cons_self ..)
    subst none_
    exact (ih (fun x mem => noJob x (List.mem_cons_of_mem _ mem)) ..).trans (chargeEnergy_jobs_none ..)

/-! ### A sample -/

/-- The rails and the history take a sample. -/
def sampleTaken (s : State) (x : PowerSample) : State :=
  s.modPwr (fun p => { p with
    hist := trimHist (histOf s x :: p.hist) (10 * msPs),
    rails := Vector.ofFn (fun r =>
      let raw := ((histOf s x).raw[r.val]?).getD 0
      { p.rails[r] with raw := raw, cal := calibrate p.rails[r].gain raw }) })

/-- A sample's energy is charged to the device. -/
def deviceCharged (s : State) (e : Nat) : State :=
  s.modPwr (fun p => { p with energy := (p.energy + e) % energyMod, wrap := p.wrap || decide (energyMod ≤ p.energy + e) })

/-- The time of a sample counts for every plot. -/
def timesCounted (s : State) (dt : Nat) : State :=
  { s with plots := s.plots.map (fun p => { p with pwr := { p.pwr with frameT := p.pwr.frameT + dt } }) }

/-- The compute bubbles of a sample count for their plots. -/
def bubblesCounted (s : State) (bs : List (PlotId × Nat)) : State :=
  bs.foldl (fun s b => s.modPlot b.1 (fun p => { p with pwr := { p.pwr with bubbles := p.pwr.bubbles + b.2 } })) s

theorem powerSample_eq {s : State} (ready : s.isReady = true) (x : PowerSample) :
    powerSample s x = bubblesCounted (timesCounted (shareEnergy (deviceCharged (sampleTaken s x) ((histOf s x).power * x.dt))
      (sampleParts s x) ((histOf s x).power * x.dt)) x.dt) x.bubbles := by
  unfold powerSample
  exact if_neg (by rw [ready]; exact Bool.false_ne_true)

theorem State.modPwr_plot (s : State) (f : PwrState → PwrState) (q : PlotId) : (s.modPwr f).plot q = s.plot q := rfl

theorem timesCounted_plot (s : State) (dt : Nat) (q : PlotId) :
    (timesCounted s dt).plot q = { s.plot q with pwr := { (s.plot q).pwr with frameT := (s.plot q).pwr.frameT + dt } } :=
  Vector.getElem_map ..

/-- What the count of bubbles leaves of a plot. -/
theorem bubblesCounted_plot (bs : List (PlotId × Nat)) (s : State) (q : PlotId) :
    ((bubblesCounted s bs).plot q).pwr.frameE = (s.plot q).pwr.frameE ∧
      ((bubblesCounted s bs).plot q).pwr.frameT = (s.plot q).pwr.frameT ∧ ((bubblesCounted s bs).plot q).plt = (s.plot q).plt := by
  induction bs generalizing s with
  | nil => exact ⟨rfl, rfl, rfl⟩
  | cons b bs ih =>
    obtain ⟨energy, time, plt⟩ := ih (s.modPlot b.1 (fun p => { p with pwr := { p.pwr with bubbles := p.pwr.bubbles + b.2 } }))
    by_cases same : q = b.1
    · subst same
      rw [State.modPlot_self] at energy time plt
      exact ⟨energy, time, plt⟩
    · rw [State.modPlot_other s _ same] at energy time plt
      exact ⟨energy, time, plt⟩

theorem bubblesCounted_pwr (bs : List (PlotId × Nat)) (s : State) : (bubblesCounted s bs).pwr = s.pwr := by
  induction bs generalizing s with
  | nil => rfl
  | cons b bs ih => exact (ih _).trans rfl

theorem bubblesCounted_one (s : State) (q : PlotId) (n : Nat) :
    ((bubblesCounted s [(q, n)]).plot q).pwr.bubbles = (s.plot q).pwr.bubbles + n := by
  unfold bubblesCounted
  rw [List.foldl_cons, List.foldl_nil, State.modPlot_self]

theorem shareEnergy_pwr (s : State) (l : List (PlotId × Option (BitVec 16) × Nat)) (left : Nat) :
    (shareEnergy s l left).pwr = s.pwr :=
  (shareEnergy_keeps (w := 0) (P := fun _ => true) l left (Keeps.refl s) (fun _ => rfl)).pwr_eq

/-- The power manager after a sample. -/
theorem powerSample_pwr {s : State} (ready : s.isReady = true) (x : PowerSample) :
    (powerSample s x).pwr = (deviceCharged (sampleTaken s x) ((histOf s x).power * x.dt)).pwr := by
  rw [powerSample_eq ready, bubblesCounted_pwr]
  exact shareEnergy_pwr ..

/-- The plots of a state before the charges of a sample are the plots of the state. -/
theorem deviceCharged_plot (s : State) (x : PowerSample) (e : Nat) (q : PlotId) :
    (deviceCharged (sampleTaken s x) e).plot q = s.plot q := by
  unfold deviceCharged sampleTaken
  rw [State.modPwr_plot, State.modPwr_plot]

/-- The power manager between a sample and its charges. -/
theorem deviceCharged_pwr (s : State) (x : PowerSample) (e : Nat) :
    (deviceCharged (sampleTaken s x) e).pwr.levels = s.pwr.levels ∧
      (deviceCharged (sampleTaken s x) e).pwr.energy = (s.pwr.energy + e) % energyMod ∧
      (deviceCharged (sampleTaken s x) e).pwr.rails = (sampleTaken s x).pwr.rails := by
  unfold deviceCharged sampleTaken
  simp only [State.modPwr_pwr, and_self]

/-- The parts of a sample and the times of its plots. -/
theorem powerSample_plot {s : State} (ready : s.isReady = true) (x : PowerSample) (q : PlotId) :
    let e := (histOf s x).power * x.dt
    let u := shareEnergy (deviceCharged (sampleTaken s x) e) (sampleParts s x) e
    ((powerSample s x).plot q).pwr.frameE = (u.plot q).pwr.frameE ∧
      ((powerSample s x).plot q).pwr.frameT = (u.plot q).pwr.frameT + x.dt ∧ ((powerSample s x).plot q).plt = (u.plot q).plt := by
  intro e u
  rw [powerSample_eq ready]
  obtain ⟨energy, time, plt⟩ := bubblesCounted_plot x.bubbles (timesCounted u x.dt) q
  rw [timesCounted_plot] at energy time plt
  exact ⟨energy, time, plt⟩

/-! ### What the parts of a sample are -/

theorem sampleParts_sum (s : State) (x : PowerSample) :
    ((sampleParts s x).map (·.2.2)).sum = sumNat (x.acts.map (eventCost s)) + sumNat (tenantPlots.map (standingCost s x.dt)) := by
  unfold sampleParts
  rw [List.map_append, List.sum_append, List.map_map, List.map_map, sumNat_eq_sum, sumNat_eq_sum]
  rfl

theorem shareOf_append (l m : List (PlotId × Option (BitVec 16) × Nat)) (q : PlotId) : shareOf (l ++ m) q = shareOf l q + shareOf m q := by
  unfold shareOf
  rw [List.filter_append, List.map_append, List.sum_append]

theorem filter_tenantPlots {q : PlotId} (hq : q ≠ 0) : tenantPlots.filter (fun p => p == q) = [q] := by
  rw [List.filter_beq, tenantPlots_nodup.count, if_pos (mem_tenantPlots.2 hq)]
  rfl

/-- A plot's part of a sample is the energy of its events and of what it owns (Table 11-5). -/
theorem shareOf_sampleParts (s : State) (x : PowerSample) {q : PlotId} (hq : q ≠ 0) :
    shareOf (sampleParts s x) q = activityEnergy s x q + standingCost s x.dt q := by
  unfold sampleParts
  rw [shareOf_append]
  congr 1
  · unfold shareOf activityEnergy
    rw [List.filter_map, List.map_map, sumNat_eq_sum]
    rfl
  · unfold shareOf
    rw [List.filter_map, List.map_map]
    show ((tenantPlots.filter (fun p => p == q)).map (standingCost s x.dt)).sum = _
    rw [filter_tenantPlots hq]
    exact List.sum_singleton

/-- With one event of a job the sample charges that job with the event's energy (R285). -/
theorem shareEnergy_job (s u : State) (x : PowerSample) {a : Activity} {i : BitVec 16} {left : Nat} (one : x.acts = [a])
    (job : a.job = some i) (fits : eventCost s a ≤ left) :
    ((shareEnergy u (sampleParts s x) left).plot a.plot).plt.jobs = (u.plot a.plot).plt.jobs.map (fun j =>
      if j.idx == i && !(j.phase == .over) then { j with energy := j.energy + eventCost s a } else j) := by
  have parts : sampleParts s x = (a.plot, some i, eventCost s a) :: tenantPlots.map fun q => (q, none, standingCost s x.dt q) := by
    unfold sampleParts
    rw [one, ← job]
    rfl
  have noJob : ∀ part ∈ tenantPlots.map (fun q => ((q, none, standingCost s x.dt q) : PlotId × Option (BitVec 16) × Nat)), part.2.1 = none :=
    fun part mem => by
      obtain ⟨q, -, rfl⟩ := List.mem_map.1 mem
      rfl
  rw [parts, shareEnergy_cons, shareEnergy_jobs _ noJob, chargeEnergy_plot, if_pos rfl, Nat.min_eq_right fits]
  rfl

theorem histOf_raw (s : State) (x : PowerSample) (r : Fin 5) : ((histOf s x).raw[r.val]?).getD 0 = rawEstimate s x r := by
  show (((List.finRange 5).map (rawEstimate s x))[r.val]?).getD 0 = _
  simp

/-- A rail after a sample (R265, R266). -/
theorem powerSample_rail {s : State} (ready : s.isReady = true) (x : PowerSample) (r : Fin 5) :
    (powerSample s x).pwr.rails[r] =
      { s.pwr.rails[r] with raw := rawEstimate s x r, cal := calibrate s.pwr.rails[r].gain (rawEstimate s x r) } := by
  rw [powerSample_pwr ready, (deviceCharged_pwr ..).2.2]
  unfold sampleTaken
  rw [State.modPwr_pwr]
  refine (Vector.getElem_ofFn ..).trans ?_
  dsimp only
  rw [histOf_raw]

/-- The charges of a sample add up to its energy. -/
theorem powerSample_frameEnergy {s : State} (ready : s.isReady = true) (x : PowerSample) :
    frameEnergy (powerSample s x) = frameEnergy s + (histOf s x).power * x.dt := by
  have charged := shareEnergy_frameEnergy (sampleParts s x) (deviceCharged (sampleTaken s x) ((histOf s x).power * x.dt))
    ((histOf s x).power * x.dt)
  rw [frameEnergy_eq, frameEnergy_eq] at charged ⊢
  simp only [deviceCharged_plot] at charged
  simp only [fun q => (powerSample_plot ready x q).1]
  exact charged

/-- What a sample adds to a plot but plot 0, where the parts fit into its energy. -/
theorem powerSample_frameE {s : State} (ready : s.isReady = true) (x : PowerSample) {q : PlotId} (hq : q ≠ 0)
    (fits : ((sampleParts s x).map (·.2.2)).sum ≤ (histOf s x).power * x.dt) :
    ((powerSample s x).plot q).pwr.frameE = (s.plot q).pwr.frameE + activityEnergy s x q + standingCost s x.dt q := by
  rw [(powerSample_plot ready x q).1, shareEnergy_frameE hq _ _ _ fits, deviceCharged_plot, shareOf_sampleParts s x hq,
    Nat.add_assoc]

theorem powerSample_job {s : State} (ready : s.isReady = true) (x : PowerSample) {a : Activity} {i : BitVec 16}
    (one : x.acts = [a]) (job : a.job = some i) (fits : eventCost s a ≤ (histOf s x).power * x.dt) :
    ((powerSample s x).plot a.plot).plt.jobs = (s.plot a.plot).plt.jobs.map (fun j =>
      if j.idx == i && !(j.phase == .over) then { j with energy := j.energy + eventCost s a } else j) := by
  rw [(powerSample_plot ready x a.plot).2.2, shareEnergy_job s _ x one job fits, deviceCharged_plot]

/-- What a sample leaves of every plot, and its time. -/
theorem powerSample_charged {s : State} (ready : s.isReady = true) (x : PowerSample) (q : PlotId) :
    ((powerSample s x).plot q).plt.state = (s.plot q).plt.state ∧
      ((powerSample s x).plot q).pwr.frameT = (s.plot q).pwr.frameT + x.dt := by
  have charged := shareEnergy_charged (sampleParts s x) (deviceCharged (sampleTaken s x) ((histOf s x).power * x.dt))
    ((histOf s x).power * x.dt)
  obtain ⟨-, time, plt⟩ := powerSample_plot ready x q
  rw [plt, time, charged.state, charged.frameT, deviceCharged_plot]
  exact ⟨rfl, rfl⟩

theorem powerSample_bubbles {s : State} (ready : s.isReady = true) (x : PowerSample) {q : PlotId} {n : Nat} (one : x.bubbles = [(q, n)]) :
    ((powerSample s x).plot q).pwr.bubbles = (s.plot q).pwr.bubbles + n := by
  have charged := shareEnergy_charged (sampleParts s x) (deviceCharged (sampleTaken s x) ((histOf s x).power * x.dt))
    ((histOf s x).power * x.dt)
  rw [powerSample_eq ready, one, bubblesCounted_one, timesCounted_plot]
  dsimp only
  rw [charged.bubbles, deviceCharged_plot]

theorem samplesChargeEnergy_holds : samplesChargeEnergy := by
  intro s x
  refine ⟨fun early => ⟨_, rfl, if_pos (by rw [early]; rfl)⟩, fun ready => ⟨_, rfl, ?_⟩⟩
  have kept := powerSample_keeps (P := fun _ => true) x (Keeps.refl s) (Covers.refl _) (fun _ => rfl)
  obtain ⟨levels, energy, -⟩ := deviceCharged_pwr s x ((histOf s x).power * x.dt)
  rw [← powerSample_pwr ready] at levels energy
  refine ⟨fun r => ?_, energy, powerSample_frameEnergy ready x, fun fits q hq => ?_, fun fits a i one job => ?_,
    fun q n one => powerSample_bubbles ready x one, powerSample_charged ready x, levels, kept.log_eq, kept.out_eq, kept.mem_eq⟩
  · rw [powerSample_rail ready]
    exact ⟨rfl, rfl, rfl⟩
  · exact powerSample_frameE ready x hq (by rw [sampleParts_sum]; exact fits)
  · have whole : sumNat (x.acts.map (eventCost s)) = eventCost s a := by
      rw [one, sumNat_eq_sum, List.map_singleton, List.sum_singleton]
    rw [whole] at fits
    exact powerSample_job ready x one job (Nat.le_trans (Nat.le_add_right _ _) fits)

end Sys2Proof.Machine

end


section

/-! PROOFS about the limiters and the calibration (R267 to R272, R276, R279, R305). -/

namespace Sys2Proof.Machine

open Sys2Proof

/-! ### Levels (R269) -/

theorem levelAt_set (v : Vector Nat 12) {i : Nat} (h : i < 12) (k j : Nat) :
    levelAt (v.set i k) j = if i = j then k else levelAt v j := by
  unfold levelAt
  rw [Vector.toList_set, List.getElem?_set]
  split
  case isTrue same => rw [if_pos (by rw [Vector.length_toList]; omega)]; rfl
  case isFalse => rfl

theorem shed_cons (i d kmax : Nat) (l : List (Nat × Nat × Nat)) (x64 : Int) (v : Vector Nat 12) :
    ∃ k left, shed ((i, d, kmax) :: l) x64 v = shed l left (if h : i < 12 then v.set i (max k (levelAt v i - 1)) else v) ∧
      (x64 ≤ 0 → k = 0 ∧ left ≤ 0) := by
  refine ⟨_, _, rfl, fun under => ?_⟩
  rw [if_neg (by omega), if_neg (by omega)]
  exact ⟨rfl, by simpa using under⟩

/-- A level of no named index stays. -/
theorem levelAt_shed_other (ds : List (Nat × Nat × Nat)) {i : Nat} (absent : i ∉ ds.map (·.1)) (x64 : Int) (v : Vector Nat 12) :
    levelAt (shed ds x64 v) i = levelAt v i := by
  induction ds generalizing x64 v with
  | nil => rfl
  | cons e l ih =>
    obtain ⟨n, d, kmax⟩ := e
    rw [List.map_cons, List.mem_cons, not_or] at absent
    obtain ⟨k, left, sheds, -⟩ := shed_cons n d kmax l x64 v
    rw [sheds, ih absent.2]
    split
    case isTrue inside => rw [levelAt_set v inside, if_neg (fun same => absent.1 same.symm)]
    case isFalse => rfl

/-- With the demand not above the limit every level of a named index falls by one. -/
theorem levelAt_shed_falls (ds : List (Nat × Nat × Nat)) (once : (ds.map (·.1)).Nodup) {i : Nat} (inside : i < 12)
    (named : i ∈ ds.map (·.1)) {x64 : Int} (under : x64 ≤ 0) (v : Vector Nat 12) :
    levelAt (shed ds x64 v) i = levelAt v i - 1 := by
  induction ds generalizing x64 v with
  | nil => contradiction
  | cons e l ih =>
    obtain ⟨n, d, kmax⟩ := e
    rw [List.map_cons, List.nodup_cons] at once
    obtain ⟨k, left, sheds, calm⟩ := shed_cons n d kmax l x64 v
    obtain ⟨none_, left'⟩ := calm under
    subst none_
    rw [sheds]
    rcases List.mem_cons.1 (by rwa [List.map_cons] at named) with same | later
    · dsimp only at same
      subst same
      rw [levelAt_shed_other l once.1, dif_pos inside, levelAt_set v inside, if_pos rfl]
      omega
    · have other : n ≠ i := fun same => once.1 (by rw [show (n, d, kmax).1 = i from same]; exact later)
      rw [ih once.2 later left']
      split
      case isTrue within => rw [levelAt_set v within, if_neg other]
      case isFalse => rfl

theorem actsOn_nodup (l : Fin 11) : (actsOn l.val).Nodup := by
  revert l
  decide

theorem actsOn_lt (l : Fin 11) : ∀ i ∈ actsOn l.val, i < 12 := by
  revert l
  decide

/-- The windows of a rail have one set of indices. -/
theorem actsOn_rail (r w : Fin 3) : actsOn (3 * r.val) = actsOn (3 * r.val + w.val) := by
  revert r w
  decide

/-! ### One evaluation (R269, R276, R279) -/

/-- From `s` to `t` limiters were evaluated: what the demands are computed from stays, events and causes only rise, the lowest state
only begins, and FCLK that is nominal stays so. -/
structure Limited (s t : State) : Prop where
  hist : t.pwr.hist = s.pwr.hist
  lt : t.pwr.lt = s.pwr.lt
  event : ∀ i, s.pwr.event.getLsbD i = true → t.pwr.event.getLsbD i = true
  irq : ∀ i, s.pf.irqStatus.getLsbD i = true → t.pf.irqStatus.getLsbD i = true
  lowest : s.pwr.lowest = true → t.pwr.lowest = true
  nominal : s.pwr.fclk = s.fuses.nominal → s.pwr.boostNext = none → t.pwr.fclk = s.fuses.nominal ∧ t.pwr.boostNext = none
  fuses : t.fuses = s.fuses

theorem Limited.trans {a b c : State} (h : Limited a b) (k : Limited b c) : Limited a c where
  hist := k.hist.trans h.hist
  lt := k.lt.trans h.lt
  event i set := k.event i (h.event i set)
  irq i set := k.irq i (h.irq i set)
  lowest holds := k.lowest (h.lowest holds)
  nominal fclk next := by
    obtain ⟨fclk', next'⟩ := h.nominal fclk next
    have later := k.nominal (by rw [fclk', h.fuses]) next'
    rw [h.fuses] at later
    exact later
  fuses := k.fuses.trans h.fuses

theorem Guarded.limited {s t : State} (h : Guarded s t) : Limited s t where
  hist := (congrArg PwrState.hist h.pwr).trans rfl
  lt := (congrArg PwrState.lt h.pwr).trans rfl
  event := h.event
  irq := h.irq
  lowest holds := h.lowest.trans holds
  nominal := h.nominal
  fuses := h.fuses

theorem enterLowest_limited (s : State) (cause : BitVec 3) :
    Limited s (enterLowest s cause) ∧ (enterLowest s cause).pwr.levels = s.pwr.levels ∧ (enterLowest s cause).pwr.lowest = true := by
  rcases holds : s.pwr.lowest with _ | _
  · have entered := (enterLowest_entered cause holds).guarded
    have begun : Limited s (lowestCounted s cause) :=
      ⟨rfl, rfl, fun _ set => set, fun _ set => set, fun _ => rfl, fun fclk next => ⟨fclk, next⟩, rfl⟩
    exact ⟨begun.trans entered.limited, entered.levels, entered.lowest⟩
  · rw [enterLowest_again cause holds]
    exact ⟨(Guarded.refl s).limited, rfl, holds⟩

/-- Is the average above the limit? -/
def aboveLimit (limit : Option Nat) (x : Nat) : Bool := match limit with | some n => decide (n < x) | none => false

/-- 64 × (X - L), 0 with no limit. -/
def overLimit (limit : Option Nat) (x : Nat) : Int := match limit with | some n => 64 * ((x : Int) - n) | none => 0

/-- A limiter takes its levels. -/
def levelsTaken (s : State) (l : Fin 11) (new : Vector Nat 12) : State := s.modPwr (fun p => { p with levels := p.levels.set l new })

/-- The report of a raise: event, POWER, throttled plots, and boost ends. -/
def raiseReported (s : State) (event : Nat) (c : State → Nat → Bool) : State :=
  endBoost (throttlePlots ((pwrEvent s event).raisePf 6) (c ((pwrEvent s event).raisePf 6)))

/-- Does a limiter saturate: above its limit with every level at KMAX? -/
def saturates (s : State) (l : Fin 11) (x : Nat) (limit : Option Nat) : Bool :=
  aboveLimit limit x && (actsOn l.val).all (fun i => levelAt s.pwr.levels[l] i == kMax (i / 4))

/-- The causes of the lowest state that limiters are, after an evaluation (R279). -/
def saturationJudged (s : State) (l : Fin 11) (above saturated : Bool) : State :=
  if saturated then
    enterLowest (s.modPwr (fun p => { p with satPend := setBit p.satPend l.val true, satOver := setBit p.satOver l.val true })) 2
  else if s.pwr.satPend.getLsbD l.val then
    if above then s.modPwr (fun p => { p with satOver := setBit p.satOver l.val true })
    else if s.pwr.satOver.getLsbD l.val then
      s.modPwr (fun p => { p with satOver := setBit p.satOver l.val false, satClear := s.boot.tclk })
    else s
  else s

theorem saturationJudged_limited (s : State) (l : Fin 11) (above saturated : Bool) :
    Limited s (saturationJudged s l above saturated) ∧ (saturationJudged s l above saturated).pwr.levels = s.pwr.levels ∧
      (saturated = true → (saturationJudged s l above saturated).pwr.lowest = true) := by
  have quiet (f : PwrState → PwrState) (hist : (f s.pwr).hist = s.pwr.hist) (lt : (f s.pwr).lt = s.pwr.lt)
      (event : (f s.pwr).event = s.pwr.event) (lowest : (f s.pwr).lowest = s.pwr.lowest) (fclk : (f s.pwr).fclk = s.pwr.fclk)
      (next : (f s.pwr).boostNext = s.pwr.boostNext) : Limited s (s.modPwr f) :=
    ⟨hist, lt, fun i set => by rw [State.modPwr_pwr, event]; exact set, fun _ set => set,
      fun holds => by rw [State.modPwr_pwr, lowest]; exact holds,
      fun was none_ => by rw [State.modPwr_pwr, fclk, next]; exact ⟨was, none_⟩, rfl⟩
  unfold saturationJudged
  split
  · obtain ⟨limited, levels, lowest⟩ := enterLowest_limited (s.modPwr (fun p => { p with
      satPend := setBit p.satPend l.val true, satOver := setBit p.satOver l.val true })) 2
    exact ⟨(quiet _ rfl rfl rfl rfl rfl rfl).trans limited, levels, fun _ => lowest⟩
  case isFalse calm =>
    split
    · split
      · exact ⟨quiet _ rfl rfl rfl rfl rfl rfl, rfl, fun h => absurd h calm⟩
      · split
        · exact ⟨quiet _ rfl rfl rfl rfl rfl rfl, rfl, fun h => absurd h calm⟩
        · exact ⟨(Guarded.refl s).limited, rfl, fun h => absurd h calm⟩
    · exact ⟨(Guarded.refl s).limited, rfl, fun h => absurd h calm⟩

theorem raiseReported_guarded (s : State) (event : Nat) (c : State → Nat → Bool) : Guarded s (raiseReported s event c) :=
  (((pwrEvent_guarded s event).trans (State.raisePf_guarded ..)).trans (throttlePlots_guarded ..)).trans (endBoost_guarded _)

theorem raiseReported_shows (s : State) {event : Nat} (h : event < 9) (c : State → Nat → Bool) :
    let t := raiseReported s event c
    t.pwr.event.getLsbD event = true ∧ t.pf.irqStatus.getLsbD 6 = true ∧ t.pwr.fclk = s.fuses.nominal ∧ t.pwr.boostNext = none := by
  intro t
  have event' := (State.raisePf_guarded (pwrEvent s event) 6).event event (pwrEvent_event _ h)
  have irq := State.raisePf_irq_self (pwrEvent s event) 6
  have first := (pwrEvent_guarded s event).trans (State.raisePf_guarded _ 6)
  have split : t = endBoost (throttlePlots ((pwrEvent s event).raisePf 6) (c ((pwrEvent s event).raisePf 6))) := rfl
  generalize (pwrEvent s event).raisePf 6 = u at event' irq first split
  rw [split]
  have rest := (throttlePlots_guarded u (c u)).trans (endBoost_guarded _)
  refine ⟨rest.event event event', rest.irq 6 irq, ?_⟩
  have ends := endBoost_nominal (throttlePlots u (c u))
  rw [(throttlePlots_guarded u (c u)).fuses, first.fuses] at ends
  exact ends

/-- The plots of a class whose level rose. -/
def classRose (before : PwrState) (s : State) (c : Nat) : Bool :=
  (List.range 3).any (fun f => decide (levelInForce before f c < levelInForce s.pwr f c))

/-- A limiter with its new levels: a raise is reported. -/
def levelsMoved (s : State) (l : Fin 11) (new : Vector Nat 12) (event : Nat) : State :=
  if (List.range 12).any (fun i => decide (levelAt s.pwr.levels[l] i < levelAt new i)) then
    raiseReported (levelsTaken s l new) event (classRose s.pwr)
  else levelsTaken s l new

theorem evaluate_eq (s : State) (l : Fin 11) (x : Nat) (limit : Option Nat) (ds : List (Nat × Nat × Nat)) (event : Nat) :
    evaluate s l x limit ds event =
      saturationJudged (levelsMoved s l (shed ds (overLimit limit x) s.pwr.levels[l]) event) l (aboveLimit limit x)
        (saturates s l x limit) := rfl

theorem levelsTaken_limited (s : State) (l : Fin 11) (new : Vector Nat 12) : Limited s (levelsTaken s l new) :=
  ⟨rfl, rfl, fun _ set => set, fun _ set => set, id, fun fclk next => ⟨fclk, next⟩, rfl⟩

theorem levelsMoved_limited (s : State) (l : Fin 11) (new : Vector Nat 12) (event : Nat) :
    Limited s (levelsMoved s l new event) ∧ (levelsMoved s l new event).pwr.levels = s.pwr.levels.set l new := by
  unfold levelsMoved
  split
  · have reported := raiseReported_guarded (levelsTaken s l new) event (classRose s.pwr)
    exact ⟨(levelsTaken_limited s l new).trans reported.limited, reported.levels⟩
  · exact ⟨levelsTaken_limited s l new, rfl⟩

/-- A raise shows its event and POWER, and boost has ended (R269, R276). -/
theorem levelsMoved_shows {s : State} {l : Fin 11} {new : Vector Nat 12} {event : Nat} (h : event < 9)
    (raise : ∃ i < 12, levelAt s.pwr.levels[l] i < levelAt new i) :
    let t := levelsMoved s l new event
    t.pwr.event.getLsbD event = true ∧ t.pf.irqStatus.getLsbD 6 = true ∧ t.pwr.fclk = s.fuses.nominal ∧ t.pwr.boostNext = none := by
  intro t
  have reported : t = raiseReported (levelsTaken s l new) event (classRose s.pwr) := if_pos (by
    obtain ⟨i, inside, more⟩ := raise
    exact List.any_eq_true.2 ⟨i, List.mem_range.2 inside, decide_eq_true more⟩)
  rw [reported]
  exact raiseReported_shows (levelsTaken s l new) h _

/-- What one evaluation changes. -/
theorem evaluate_limited (s : State) (l : Fin 11) (x : Nat) (limit : Option Nat) (ds : List (Nat × Nat × Nat)) (event : Nat) :
    Limited s (evaluate s l x limit ds event) ∧
      (evaluate s l x limit ds event).pwr.levels = s.pwr.levels.set l (shed ds (overLimit limit x) s.pwr.levels[l]) := by
  rw [evaluate_eq]
  obtain ⟨moved, levels⟩ := levelsMoved_limited s l (shed ds (overLimit limit x) s.pwr.levels[l]) event
  obtain ⟨judged, kept, -⟩ := saturationJudged_limited (levelsMoved s l (shed ds (overLimit limit x) s.pwr.levels[l]) event) l
    (aboveLimit limit x) (saturates s l x limit)
  exact ⟨moved.trans judged, kept.trans levels⟩

theorem evaluate_levels_other (s : State) (l : Fin 11) (x : Nat) (limit : Option Nat) (ds : List (Nat × Nat × Nat)) (event : Nat)
    {k : Fin 11} (other : k ≠ l) : (evaluate s l x limit ds event).pwr.levels[k] = s.pwr.levels[k] := by
  rw [(evaluate_limited s l x limit ds event).2]
  exact Vector.getElem_set_ne l.isLt k.isLt fun same => other (Fin.ext same.symm)

theorem evaluate_mem (s : State) (l : Fin 11) (x : Nat) (limit : Option Nat) (ds : List (Nat × Nat × Nat)) (event : Nat) :
    (evaluate s l x limit ds event).mem = s.mem :=
  (evaluate_keeps (P := fun _ => true) l x limit ds event (Keeps.refl s) (Covers.refl _) (fun _ => rfl)).mem_eq

theorem overLimit_le {limit : Option Nat} {x : Nat} (under : ¬ ∃ n, limit = some n ∧ n < x) : overLimit limit x ≤ 0 := by
  unfold overLimit
  split
  case h_1 n => have most : ¬ n < x := fun less => under ⟨n, rfl, less⟩; omega
  case h_2 => exact Int.le_refl 0

/-- An evaluation moves the limiter as R269 has it, and what follows it may only report more. -/
theorem evaluate_moves (s : State) (l : Fin 11) (x : Nat) (limit : Option Nat) {ds : List (Nat × Nat × Nat)} {event : Nat}
    (acts : ds.map (·.1) = actsOn l.val) (h : event < 9) {t : State} (later : Limited (evaluate s l x limit ds event) t)
    (levels : t.pwr.levels[l] = (evaluate s l x limit ds event).pwr.levels[l]) : limiterMoves s t l x limit ds event := by
  have new : t.pwr.levels[l] = shed ds (overLimit limit x) s.pwr.levels[l] := by
    rw [levels, (evaluate_limited s l x limit ds event).2]
    exact Vector.getElem_set_self _
  unfold limiterMoves
  rw [new]
  refine ⟨fun under i acted => ?_, fun n isLimit less => ?_, fun i inside not_ => ?_, fun raise => ?_, fun above all_ => ?_⟩
  · exact levelAt_shed_falls ds (by rw [acts]; exact actsOn_nodup l) (actsOn_lt l i acted) (by rw [acts]; exact acted)
      (overLimit_le under) _
  · subst isLimit
    rfl
  · exact levelAt_shed_other ds (by rw [acts]; exact not_) _ _
  · obtain ⟨event', irq, fclk, next⟩ := levelsMoved_shows (event := event) h raise
    have judged := (saturationJudged_limited (levelsMoved s l (shed ds (overLimit limit x) s.pwr.levels[l]) event) l
      (aboveLimit limit x) (saturates s l x limit)).1.trans later
    have fuses := (levelsMoved_limited s l (shed ds (overLimit limit x) s.pwr.levels[l]) event).1.fuses
    have nominal := judged.nominal (by rw [fclk, fuses]) next
    rw [fuses] at nominal
    exact ⟨judged.event event event', judged.irq 6 irq, nominal⟩
  · refine later.lowest ?_
    rw [evaluate_eq]
    refine (saturationJudged_limited _ l _ _).2.2 ?_
    obtain ⟨n, isLimit, less⟩ := above
    subst isLimit
    unfold saturates
    rw [show aboveLimit (some n) x = true from decide_eq_true less, Bool.true_and, List.all_eq_true]
    exact fun i acted => beq_iff_eq.2 (all_ i acted)

/-! ### The evaluations (R268, R272) -/

theorem railDemands_acts (p : PwrState) (r : Nat) (w : Nat) : (railDemands p r w).map (·.1) = actsOn (3 * r) := by
  unfold railDemands
  rw [List.map_map]
  exact List.map_id' _

theorem powerDemands_acts (p : PwrState) : (powerDemands p).map (·.1) = actsOn 9 := by
  unfold powerDemands
  rw [List.map_map]
  exact List.map_id' _

theorem demandPower_of_hist {p p' : PwrState} (h : p'.hist = p.hist) : demandPower p' = demandPower p := by
  unfold demandPower average
  rw [h]

theorem powerDemands_of_hist {p p' : PwrState} (h : p'.hist = p.hist) : powerDemands p' = powerDemands p := by
  unfold powerDemands average
  rw [h]

theorem currentEval_ready {s : State} (ready : s.isReady = true) (r w : Fin 3) {l : Fin 11} (is : l.val = 3 * r.val + w.val) :
    currentEval s r w = evaluate s l (railDemand s.pwr r.val (windowPs w.val)) (railLimit s.pwr r.val w.val)
      (railDemands s.pwr r.val (windowPs w.val)) 1 := by
  unfold currentEval
  refine (if_neg (by rw [ready]; exact Bool.false_ne_true)).trans ?_
  rw [show (⟨3 * r.val + w.val, by omega⟩ : Fin 11) = l from Fin.ext is.symm]

/-- The cap limiter's evaluation. -/
def capLimited (s : State) : State := evaluate s 9 (demandPower s.pwr) (some s.capPw) (powerDemands s.pwr) 0

theorem capEval_ready {s : State} (ready : s.isReady = true) :
    capEval s = evaluate (capLimited s) 10 (demandPower s.pwr) s.pwr.lt (powerDemands s.pwr) 0 := by
  have first : Limited s (capLimited s) := (evaluate_limited s 9 (demandPower s.pwr) (some s.capPw) (powerDemands s.pwr) 0).1
  unfold capEval
  refine (if_neg (by rw [ready]; exact Bool.false_ne_true)).trans ?_
  show evaluate (capLimited s) 10 (demandPower (capLimited s).pwr) (capLimited s).pwr.lt (powerDemands (capLimited s).pwr) 0 = _
  rw [demandPower_of_hist first.hist, powerDemands_of_hist first.hist, first.lt]

theorem limiterMoves_of_levels {s u t : State} {l : Fin 11} {x : Nat} {limit : Option Nat} {ds : List (Nat × Nat × Nat)} {event : Nat}
    (h : limiterMoves u t l x limit ds event) (levels : u.pwr.levels[l] = s.pwr.levels[l]) (fuses : u.fuses = s.fuses) :
    limiterMoves s t l x limit ds event := by
  unfold limiterMoves at h ⊢
  rw [levels, fuses] at h
  exact h

theorem limitersEvaluate_holds : limitersEvaluate := by
  intro s ready
  refine ⟨fun r w l is => ⟨_, rfl, ?_⟩, ⟨_, rfl, ?_⟩⟩
  · rw [currentEval_ready ready r w is]
    refine ⟨evaluate_moves s l _ _ ?_ (by decide) (Guarded.refl _).limited rfl, fun k other => evaluate_levels_other s l _ _ _ _ other,
      evaluate_mem ..⟩
    rw [railDemands_acts, actsOn_rail r w, is]
  · rw [capEval_ready ready]
    have first := (evaluate_limited s 9 (demandPower s.pwr) (some s.capPw) (powerDemands s.pwr) 0).1
    have second := (evaluate_limited (capLimited s) 10 (demandPower s.pwr) s.pwr.lt (powerDemands s.pwr) 0).1
    refine ⟨?_, ?_, fun k not9 not10 => ?_, ?_⟩
    · exact evaluate_moves s 9 _ (some s.capPw) (powerDemands_acts _) (by decide) second
        (evaluate_levels_other (capLimited s) 10 _ _ _ _ (by decide))
    · exact limiterMoves_of_levels (evaluate_moves (capLimited s) 10 _ _ (powerDemands_acts _) (by decide) (Guarded.refl _).limited rfl)
        (evaluate_levels_other s 9 _ _ _ _ (by decide)) first.fuses
    · exact (evaluate_levels_other (capLimited s) 10 _ _ _ _ not10).trans (evaluate_levels_other s 9 _ _ _ _ not9)
    · exact (evaluate_mem (capLimited s) ..).trans (evaluate_mem s ..)

/-! ### PMBus transactions (R305) -/

theorem sendTxn_pwr (s : State) (t : PmbTxn) : (sendTxn s t).pwr = s.pwr :=
  (sendTxn_keeps (P := fun _ => false) t (Keeps.refl s) (Covers.refl _)).pwr_eq

theorem sendTxn_hst (s : State) (t : PmbTxn) : (sendTxn s t).hst = s.hst :=
  (sendTxn_keeps (P := fun _ => false) t (Keeps.refl s) (Covers.refl _)).hst_eq

theorem queueTxn_pwr {s : State} {t : PmbTxn} (used : s.hst.rail[t.rail].getLsbD 31 = true) :
    (queueTxn s t).pwr = { s.pwr with pmb := insertTxn s.pwr.pmb t } := by
  rw [queueTxn_used used]
  split
  · exact sendTxn_pwr ..
  · rfl

/-- The next transaction is in front, and nothing else of the power manager changes. -/
theorem nextTxn_pwr (s : State) :
    (nextTxn s).pwr = { s.pwr with pmb := s.pwr.pmb.drop 1, tries := 0 } ∧ (nextTxn s).hst = s.hst := by
  unfold nextTxn
  extract_lets u
  split
  · exact ⟨rfl, rfl⟩
  · exact ⟨sendTxn_pwr .., sendTxn_hst ..⟩

/-- A rail's READ_IOUT. -/
def readIout (r : Fin 5) : PmbTxn := { rail := r, command := 0x8C }

section OnTheBus

variable {s : State} {r : Fin 5} {rest : List PmbTxn} (front : s.pwr.pmb = readIout r :: rest)
include front

theorem calibrationRead_answers (m : Option Nat) : calibrationRead s r m = pmbusAnswer s m := by
  unfold calibrationRead
  exact if_pos (by rw [front]; exact beq_self_eq_true _)

theorem pmbusAnswer_repeated (few : s.pwr.tries < 3) :
    pmbusAnswer s none = (sendTxn s (readIout r)).modPwr (fun p => { p with tries := p.tries + 1 }) := by
  unfold pmbusAnswer
  rw [front]
  exact if_pos few

theorem pmbusAnswer_givenUp (many : 3 ≤ s.pwr.tries) : pmbusAnswer s none = nextTxn (pmbFailed s r) := by
  unfold pmbusAnswer
  rw [front]
  exact if_neg (by omega)

theorem pmbusAnswer_read (m : Nat) : pmbusAnswer s (some m) = nextTxn (calibrateRail (pmbAnswered s r) r m) := by
  unfold pmbusAnswer
  rw [front]
  rfl

end OnTheBus

/-- A read of the 10 ms with nothing on the bus queues READ_VOUT and READ_IOUT. -/
theorem calibrationRead_queues {s : State} {r : Fin 5} (ready : s.isReady = true) (calEn : s.pwr.calEn = true)
    (used : s.hst.rail[r].getLsbD 31 = true) (idle : s.pwr.pmb = []) (m : Option Nat) :
    (calibrationRead s r m).pwr = { s.pwr with pmb := [{ rail := r, command := 0x8B }, readIout r] } ∧
      (calibrationRead s r m).hst = s.hst := by
  have queues : calibrationRead s r m = queueTxn (queueTxn s { rail := r, command := 0x8B }) (readIout r) := by
    unfold calibrationRead
    refine (if_neg ?_).trans (if_neg ?_)
    · rw [idle]
      exact Bool.false_ne_true
    · rw [ready, calEn, idle]
      exact Bool.false_ne_true
  have pwr := queueTxn_pwr (s := s) (t := { rail := r, command := 0x8B }) used
  have hst := (queueTxn_guarded s { rail := r, command := 0x8B }).hst
  rw [idle] at pwr
  generalize queueTxn s { rail := r, command := 0x8B } = u at queues pwr hst
  rw [queues]
  refine ⟨?_, (queueTxn_guarded ..).hst.trans hst⟩
  rw [queueTxn_pwr (by rw [hst]; exact used), pwr]
  rfl

/-! ### Calibration (R267) -/

/-- Is a rail's estimate too small to calibrate against? -/
def tooLittle (p : PwrState) (r : Fin 5) : Bool :=
  match railLimit p r.val 2 with
  | some l => if r.val < 3 then decide (20 * rawAverage p r.val < l) else decide (rawAverage p r.val < 1000000)
  | none => decide (rawAverage p r.val < 1000000)

/-- A reading is shown. -/
def readingTaken (s : State) (r : Fin 5) (m : Nat) : State := s.modRail r (fun x => { x with amps := m })

/-- A gain, a sixteenth of the way to the measured ratio. -/
def gainTowards (gain e m6 : Nat) : Int :=
  clampInt 800000 1250000 ((gain : Int) + roundDiv (((1000000 * m6 + e / 2 : Int)) / e - gain) 16)

/-- An accepted reading moves the gain. -/
def readingAccepted (s : State) (r : Fin 5) (e m6 : Nat) : State :=
  s.modRail r (fun x => { x with
    gain := (gainTowards x.gain e m6).toNat, measValid := true, accepted := true, acceptedAt := s.boot.tclk, lost := false })

theorem calibrateRail_eq {s : State} (r : Fin 5) (m : Nat) (calEn : s.pwr.calEn = true) :
    calibrateRail s r m =
      if tooLittle s.pwr r = true then readingTaken s r m
      else if 4 * (1000 * m) < rawAverage s.pwr r.val ∨ 4 * rawAverage s.pwr r.val < 1000 * m then pwrEvent (readingTaken s r m) 7
      else readingAccepted (readingTaken s r m) r (rawAverage s.pwr r.val) (1000 * m) := by
  unfold calibrateRail
  extract_lets e m6 little u ratio
  have same : (!u.pwr.calEn || little) = tooLittle s.pwr r := by
    show (!s.pwr.calEn || little) = _
    rw [calEn]
    rfl
  rw [same]
  rfl

theorem gainTowards_range (gain e m6 : Nat) : 800000 ≤ gainTowards gain e m6 ∧ gainTowards gain e m6 ≤ 1250000 := by
  unfold gainTowards
  rw [clampInt_eq (by decide)]
  omega

theorem State.modRail_other (s : State) {r k : Fin 5} (f : PwrRail → PwrRail) (other : k ≠ r) :
    (s.modRail r f).pwr.rails[k] = s.pwr.rails[k] :=
  Vector.getElem_set_ne r.isLt k.isLt fun e => other (Fin.ext e.symm)

/-- A reading that is shown, and what the calibration of a rail leaves. -/
structure Reading (s t : State) (r : Fin 5) (m : Nat) : Prop where
  amps : t.pwr.rails[r].amps = m
  others : ∀ k : Fin 5, k ≠ r → t.pwr.rails[k] = s.pwr.rails[k]
  pmb : t.pwr.pmb = s.pwr.pmb
  hst : t.hst = s.hst

theorem readingTaken_reading (s : State) (r : Fin 5) (m : Nat) : Reading s (readingTaken s r m) r m :=
  ⟨by rw [readingTaken, State.modRail_self], fun _ other => State.modRail_other s _ other, rfl, rfl⟩

theorem readingAccepted_reading (s : State) (r : Fin 5) (m e m6 : Nat) :
    Reading s (readingAccepted (readingTaken s r m) r e m6) r m := by
  have taken := readingTaken_reading s r m
  refine ⟨?_, fun k other => ?_, taken.pmb, taken.hst⟩
  · rw [readingAccepted, State.modRail_self]
    exact taken.amps
  · rw [readingAccepted, State.modRail_other _ _ other]
    exact taken.others k other

/-- A reading is shown, whether it is accepted or not. -/
theorem calibrateRail_reading {s : State} (r : Fin 5) (m : Nat) (calEn : s.pwr.calEn = true) : Reading s (calibrateRail s r m) r m := by
  rw [calibrateRail_eq r m calEn]
  split
  · exact readingTaken_reading s r m
  · split
    · have taken := readingTaken_reading s r m
      exact ⟨taken.amps, taken.others, taken.pmb, taken.hst⟩
    · exact readingAccepted_reading s r m _ _

theorem readingTaken_gain (s : State) (r : Fin 5) (m : Nat) : (readingTaken s r m).pwr.rails[r].gain = s.pwr.rails[r].gain := by
  rw [readingTaken, State.modRail_self]

/-- An accepted reading moves the gain within its range (R267). -/
theorem readingAccepted_gain (s : State) (r : Fin 5) (m e m6 : Nat) :
    let t := readingAccepted (readingTaken s r m) r e m6
    (t.pwr.rails[r].gain : Int) = gainTowards s.pwr.rails[r].gain e m6 ∧ t.pwr.rails[r].accepted = true ∧
      t.pwr.event = s.pwr.event := by
  intro t
  obtain ⟨least, -⟩ := gainTowards_range s.pwr.rails[r].gain e m6
  have rail : t.pwr.rails[r] = _ := State.modRail_self (readingTaken s r m) r _
  rw [rail]
  refine ⟨?_, rfl, rfl⟩
  dsimp only
  rw [readingTaken_gain, Int.toNat_of_nonneg (by omega)]

theorem tooLittle_iff (p : PwrState) (r : Fin 5) : tooLittle p r = true ↔
    (match railLimit p r.val 2 with
      | some l => if r.val < 3 then 20 * rawAverage p r.val < l else rawAverage p r.val < 1000000
      | none => rawAverage p r.val < 1000000) := by
  unfold tooLittle
  split
  · split <;> exact decide_eq_true_iff
  · exact decide_eq_true_iff

/-- What follows the answer of a READ_IOUT leaves the rails, the events and the answer's registers. -/
theorem calibrationRead_reads {s : State} {r : Fin 5} {rest : List PmbTxn} (front : s.pwr.pmb = readIout r :: rest)
    (calEn : s.pwr.calEn = true) (m : Nat) :
    let u := calibrateRail (pmbAnswered s r) r m
    let t := calibrationRead s r (some m)
    t.pwr = { u.pwr with pmb := rest, tries := 0 } ∧ t.hst = (pmbAnswered s r).hst := by
  intro u t
  have answered : t = nextTxn u := (calibrationRead_answers front _).trans (pmbusAnswer_read front m)
  have read := calibrateRail_reading (s := pmbAnswered s r) r m calEn
  obtain ⟨pwr, hst⟩ := nextTxn_pwr u
  rw [answered, pwr, hst]
  refine ⟨?_, read.hst⟩
  rw [read.pmb, show (pmbAnswered s r).pwr.pmb = readIout r :: rest from front]
  rfl

theorem pmbAnswered_hst (s : State) (r : Fin 5) :
    (pmbAnswered s r).hst.pmbOk.getLsbD r.val = true ∧ (pmbAnswered s r).hst.pmbErr = s.hst.pmbErr :=
  ⟨getLsbD_setBit_self _ (by omega), rfl⟩

theorem pmbFailed_hst (s : State) (r : Fin 5) :
    (pmbFailed s r).hst.pmbErr = satInc s.hst.pmbErr ∧ (pmbFailed s r).hst.pmbNoAck.getLsbD r.val = true :=
  ⟨rfl, getLsbD_setBit_self _ (by omega)⟩

/-- The TCLK edge at which a rail without an accepted reading has lost its calibration. -/
def lostAt (s : State) (r : Fin 5) : Nat :=
  (if s.pwr.rails[r].accepted then s.pwr.rails[r].acceptedAt else s.boot.readyAt) + 100000000

theorem calibrationLost_eq {s : State} {r : Fin 5} (ready : s.isReady = true) (calEn : s.pwr.calEn = true)
    (holds : s.pwr.rails[r].lost = false) :
    calibrationLost s r =
      pwrEvent ((s.advanceTo (lostAt s r)).modRail r (fun x => { x with lost := true, gain := max x.gain 1100000 })) 6 := by
  unfold calibrationLost
  exact if_neg (by rw [ready, calEn, holds]; exact Bool.false_ne_true)

theorem calibrationTracksTheRegulators_holds : calibrationTracksTheRegulators := by
  intro s r ready calEn
  refine ⟨fun used idle m => ⟨_, rfl, calibrationRead_queues ready calEn used idle m⟩, fun rest front => ⟨fun few => ⟨_, rfl, ?_⟩,
    fun many => ⟨_, rfl, ?_⟩, ?_⟩, fun holds => ⟨_, rfl, ?_⟩⟩
  · rw [calibrationRead_answers front, pmbusAnswer_repeated front few]
    refine ⟨?_, sendTxn_hst ..⟩
    rw [State.modPwr_pwr, sendTxn_pwr]
  · rw [calibrationRead_answers front, pmbusAnswer_givenUp front many]
    obtain ⟨pwr, hst⟩ := nextTxn_pwr (pmbFailed s r)
    rw [pwr, hst, show (pmbFailed s r).pwr = s.pwr from rfl, front]
    obtain ⟨err, noAck⟩ := pmbFailed_hst s r
    exact ⟨err, noAck, rfl⟩
  · intro m x e little
    have little_iff : tooLittle s.pwr r = true ↔ little := tooLittle_iff s.pwr r
    refine ⟨_, rfl, ?_⟩
    obtain ⟨pwr, hst⟩ := calibrationRead_reads front calEn m
    obtain ⟨ok, err⟩ := pmbAnswered_hst s r
    have read := calibrateRail_reading (s := pmbAnswered s r) r m calEn
    have calibrated := calibrateRail_eq (s := pmbAnswered s r) r m calEn
    rw [pwr, hst]
    refine ⟨read.amps, ok, err, rfl, read.others, fun small => ?_, fun large far => ?_, fun large least most => ?_⟩
    · rw [calibrated, if_pos (by exact little_iff.2 small)]
      exact ⟨readingTaken_gain (pmbAnswered s r) r m, rfl⟩
    · rw [calibrated, if_neg (by exact fun h => large (little_iff.1 h)), if_pos (by exact far)]
      exact ⟨readingTaken_gain (pmbAnswered s r) r m, pwrEvent_event _ (by decide)⟩
    · rw [calibrated, if_neg (by exact fun h => large (little_iff.1 h)), if_neg (by
        show ¬ (4 * (1000 * m) < e ∨ 4 * e < 1000 * m)
        omega)]
      obtain ⟨gain, accepted, event⟩ := readingAccepted_gain (pmbAnswered s r) r m e (1000 * m)
      obtain ⟨low, high⟩ := gainTowards_range s.pwr.rails[r].gain e (1000 * m)
      refine ⟨?_, ?_, accepted, gain, event⟩
      · have above := gain.symm ▸ low
        exact Int.ofNat_le.1 above
      · have below := gain.symm ▸ high
        exact Int.ofNat_le.1 below
  · rw [calibrationLost_eq ready calEn holds]
    exact ⟨Vector.getElem_set_self _, fun k other => Vector.getElem_set_ne r.isLt k.isLt fun e => other (Fin.ext e.symm),
      pwrEvent_event _ (by decide), rfl⟩

/-- Settles O56: a sample's charges, one evaluation of a limiter, and the readings of the regulators. -/
theorem energyAndLimiters : Obligations.EnergyAndLimiters :=
  ⟨samplesChargeEnergy_holds, limitersEvaluate_holds, calibrationTracksTheRegulators_holds⟩

end Sys2Proof.Machine

end


section

/-! PROOFS about the start of queries (R243 to R245): the record is checked, and every lane of the index has a part. -/

namespace Sys2Proof.Machine

open Sys2Proof

/-! ### Faults after pages were touched -/

/-- A job that may go on with an attempt, and has no overrun, is abandoned by a fault. -/
theorem chargeFault_of_attempt {s : State} {q : PlotId} {j : Job} (c : Code) (node : Option NodeId)
    (found : (s.plot q).plt.job? j.idx = some j) (phase : j.phase = .running ∨ j.phase = .between) (budget : j.budget = false)
    (deadline : j.deadline = false) : chargeFault s q j.idx c node = beginAbandon s q j c node := by
  rcases phase with phase | phase <;> simp [chargeFault, found, phase, budget, deadline]

/-- Pages that were touched change nothing of what a fault does. -/
theorem Touched.faulted {q : PlotId} {s t : State} (h : Touched q s t) {j : Job} (found : (s.plot q).plt.job? j.idx = some j)
    (phase : j.phase = .running ∨ j.phase = .between) (budget : j.budget = false) (deadline : j.deadline = false) (c : Code)
    (node : Option NodeId) : faulted s q j c node (chargeFault t q j.idx c node) := by
  have found' : (t.plot q).plt.job? j.idx = some j := by
    rw [h.plot]
    exact found
  rw [chargeFault_of_attempt c node found' phase budget deadline]
  exact faulted_of_eq (beginAbandon_faulted c node found') h.view.mem (by rw [h.rest])

/-! ### The lanes of a mask -/

theorem mem_members {w m n : Nat} : n ∈ members w m ↔ n < w ∧ bitOf m n = true := by
  rw [members, List.mem_filter, List.mem_range]

theorem mkLane_val (l : LaneId) : mkLane l.val = l := Fin.ext (Nat.mod_eq_of_lt l.isLt)

/-- The lanes of a mask, in rising order. -/
def maskLanes (m : Nat) : List LaneId := (members 8 m).map mkLane

theorem mem_maskLanes {m : Nat} {l : LaneId} : l ∈ maskLanes m ↔ l.val ∈ members 8 m := by
  rw [maskLanes, List.mem_map]
  constructor
  · rintro ⟨n, inMask, rfl⟩
    rw [show (mkLane n).val = n from Nat.mod_eq_of_lt (mem_members.1 inMask).1]
    exact inMask
  · exact fun inMask => ⟨l.val, inMask, mkLane_val l⟩

theorem maskLanes_nodup (m : Nat) : (maskLanes m).Nodup := by
  refine List.pairwise_map.2 ((List.nodup_range.filter _).imp_of_mem fun {a b} ha hb other same => other ?_)
  have values := congrArg Fin.val same
  rwa [show (mkLane a).val = a from Nat.mod_eq_of_lt (mem_members.1 ha).1,
    show (mkLane b).val = b from Nat.mod_eq_of_lt (mem_members.1 hb).1] at values

theorem State.modLaneOf_other (s : State) {l k : LaneId} (f : FlashLane → FlashLane) (other : k ≠ l) :
    (s.modLaneOf l f).lane k = s.lane k := Vector.getElem_set_ne l.isLt k.isLt fun e => other (Fin.ext e.symm)

/-- Work queues at a lane, behind what waits there. -/
def workQueued (w : QItem) (s : State) (l : LaneId) : State := s.modLaneOf l (fun y => { y with queue := y.queue ++ [w] })

theorem workQueued_queue (w : QItem) (ls : List LaneId) (once : ls.Nodup) (s : State) (l : LaneId) :
    ((ls.foldl (workQueued w) s).lane l).queue = if l ∈ ls then (s.lane l).queue ++ [w] else (s.lane l).queue := by
  induction ls generalizing s with
  | nil => rfl
  | cons k ls ih =>
    rw [List.nodup_cons] at once
    rw [List.foldl_cons, ih once.2]
    by_cases same : l = k
    · subst same
      rw [if_neg once.1, if_pos (List.mem_cons_self ..), workQueued, State.modLaneOf_self]
    · rw [workQueued, State.modLaneOf_other s _ same]
      simp only [List.mem_cons, same, false_or]

theorem workQueued_rest (w : QItem) (ls : List LaneId) (s : State) :
    (ls.foldl (workQueued w) s).plots = s.plots ∧ (ls.foldl (workQueued w) s).mem = s.mem := by
  induction ls generalizing s with
  | nil => exact ⟨rfl, rfl⟩
  | cons k ls ih => exact ih (workQueued w s k)

/-! ### A query's record (R243) -/

theorem leAt_jobBytes (s : State) (q : PlotId) (j : Job) (a : Nat) :
    leAt (jobBytes s q j a 1) 0 1 = leAt (jobBytes s q j a 64) 0 1 := rfl

theorem recordOk_iff (b : List Byte) (e : IndexEntry) : recordOk b e = true ↔
    (leAt b 1 1 = 0 ∨ leAt b 1 1 = 1) ∧ leAt b 2 1 ≤ 3 ∧ leAt b 3 1 ≤ 4 ∧ 0 < leAt b 4 2 ∧ leAt b 4 2 ≤ e.kMax ∧
      0 < leAt b 8 4 ∧ leAt b 8 4 ≤ e.nlist ∧ zeroAt b 6 2 = true ∧ zeroAt b 52 12 = true ∧
      (leAt b 1 1 = 0 → leAt b 12 4 = 0 ∧ leAt b 48 4 = 0) := by
  unfold recordOk
  extract_lets k np mode
  simp only [Bool.and_eq_true, Bool.or_eq_true, decide_eq_true_eq, beq_iff_eq]
  constructor
  · rintro ⟨⟨⟨⟨⟨⟨⟨⟨⟨k1, k2⟩, n1⟩, n2⟩, c⟩, m⟩, f⟩, z1⟩, z2⟩, exact_⟩
    refine ⟨by omega, f, c, k1, k2, n1, n2, z1, z2, fun deterministic => ?_⟩
    rcases exact_ with tuned | zero
    · omega
    · exact zero
  · rintro ⟨m, f, c, k1, k2, n1, n2, z1, z2, exact_⟩
    refine ⟨⟨⟨⟨⟨⟨⟨⟨⟨k1, k2⟩, n1⟩, n2⟩, c⟩, by omega⟩, f⟩, z1⟩, z2⟩, ?_⟩
    rcases m with deterministic | tuned
    · exact Or.inr (exact_ deterministic)
    · exact Or.inl tuned

/-- The partitions a query's record probes. -/
def probesOf (s : State) (q : PlotId) (j : Job) (b : List Byte) : List Nat :=
  (List.range (leAt b 8 4)).map (fun p => leNat (jobBytes s q j (leAt b 24 8 + 2 * p) 2))

/-- Do the lists of a query's record keep to their limits? -/
def listsOk (s : State) (q : PlotId) (j : Job) (e : IndexEntry) (b : List Byte) : Bool :=
  probesOk (probesOf s q j b) e.nlist && (clausesAt s q j (leAt b 32 8) (leAt b 3 1)).all clauseOk

theorem queryRecordOk_iff (s : State) (q : PlotId) (j : Job) (e : IndexEntry) (b : List Byte) :
    queryRecordOk s q j e b ↔ recordOk b e = true ∧ listsOk s q j e b = true := by
  unfold queryRecordOk listsOk
  rw [recordOk_iff, Bool.and_eq_true, List.all_eq_true]
  unfold probesOf
  constructor
  · rintro ⟨m, f, c, k1, k2, n1, n2, z1, z2, exact_, probes, clauses⟩
    exact ⟨⟨m, f, c, k1, k2, n1, n2, z1, z2, exact_⟩, probes, clauses⟩
  · rintro ⟨⟨m, f, c, k1, k2, n1, n2, z1, z2, exact_⟩, probes, clauses⟩
    exact ⟨m, f, c, k1, k2, n1, n2, z1, z2, exact_, probes, clauses⟩

/-- The query that a record starts, with a part for every lane of its index. -/
def queryOf (j : Job) (e : IndexEntry) (b : List Byte) (probes : List Nat) : Query := {
  job := j.idx, no := j.queries, index := e.id, tuned := leAt b 1 1 == 1, orr := bitOf (leAt b 2 1) 0,
  skipSide := leAt b 1 1 == 1 && bitOf (leAt b 2 1) 1, k := leAt b 4 2, budget := leAt b 12 4, deadline := leAt b 48 4,
  probes := probes, tableAddr := leAt b 16 8, resultAddr := leAt b 40 8, predAddr := leAt b 32 8, clauseCount := leAt b 3 1,
  parts := (maskLanes e.laneMask).map (fun l => { lane := l }) }

/-- The query joins its job, its plot and the queues of its lanes. -/
def queryJoins (q : PlotId) (j : Job) (e : IndexEntry) (x : Query) (s : State) : State :=
  (maskLanes e.laneMask).foldl (workQueued (.part q j.idx j.queries))
    ((s.modJob q j.idx (fun y => { y with queries := j.queries + 1 })).modFln q (fun p => { p with queries := p.queries ++ [x] }))

/-- What follows the reads of a query's lists. -/
def queryListed (q : PlotId) (j : Job) (node : Option NodeId) (e : IndexEntry) (b : List Byte) (s : State) : State :=
  if !probesOk (probesOf s q j b) e.nlist || !(clausesAt s q j (leAt b 32 8) (leAt b 3 1)).all clauseOk then
    chargeFault s q j.idx .image node
  else queryJoins q j e (queryOf j e b (probesOf s q j b)) s

/-- The lists of a query's record. -/
def queryLists (b : List Byte) : List (Nat × Nat) := [(leAt b 24 8, 2 * leAt b 8 4), (leAt b 32 8, 24 * leAt b 3 1)]

/-- What follows the read of a query's record. -/
def queryRead (q : PlotId) (j : Job) (a : Nat) (node : Option NodeId) (s : State) : State :=
  match s.cfg.content.index? q.val (leAt (jobBytes s q j a 64) 0 1) with
  | none => chargeFault s q j.idx .image node
  | some e =>
    if !recordOk (jobBytes s q j a 64) e then chargeFault s q j.idx .image node
    else withReads s q j (queryLists (jobBytes s q j a 64)) node (queryListed q j node e (jobBytes s q j a 64))

section StartQuery

variable {s t : State} {q : PlotId} {j : Job} {a : Nat} {node : Option NodeId} {e : IndexEntry}

theorem startQuery_reads (running : runs s q j) (a : Nat) :
    startQuery s q j.idx a = withReads s q j [(a, 64)] (some (queryNode s q j a)) (queryRead q j a (some (queryNode s q j a))) := by
  unfold startQuery
  rw [runningJob_of_runs running]
  rfl

theorem queryRead_unnamed (view : SameView q s t) (unnamed : s.cfg.content.index? q.val (leAt (jobBytes s q j a 64) 0 1) = none) :
    queryRead q j a node t = chargeFault t q j.idx .image node := by
  unfold queryRead
  rw [view.jobBytes, view.cfg, unnamed]

theorem queryRead_defective (view : SameView q s t)
    (named : s.cfg.content.index? q.val (leAt (jobBytes s q j a 64) 0 1) = some e) (bad : recordOk (jobBytes s q j a 64) e = false) :
    queryRead q j a node t = chargeFault t q j.idx .image node := by
  unfold queryRead
  rw [view.jobBytes, view.cfg, named]
  exact if_pos (by rw [bad]; rfl)

theorem queryRead_lists (view : SameView q s t)
    (named : s.cfg.content.index? q.val (leAt (jobBytes s q j a 64) 0 1) = some e) (good : recordOk (jobBytes s q j a 64) e = true) :
    queryRead q j a node t =
      withReads t q j (queryLists (jobBytes s q j a 64)) node (queryListed q j node e (jobBytes s q j a 64)) := by
  unfold queryRead
  rw [view.jobBytes, view.cfg, named]
  exact if_neg (by rw [good]; exact Bool.false_ne_true)

theorem SameView.listsOk (view : SameView q s t) (j : Job) (e : IndexEntry) (b : List Byte) : listsOk t q j e b = listsOk s q j e b := by
  unfold Machine.listsOk probesOf clausesAt
  simp only [view.jobBytes]

theorem queryListed_defective {b : List Byte} (bad : listsOk t q j e b = false) :
    queryListed q j node e b t = chargeFault t q j.idx .image node := by
  unfold queryListed
  refine if_pos ?_
  rw [← Bool.not_and]
  exact by rw [show (probesOk (probesOf t q j b) e.nlist && (clausesAt t q j (leAt b 32 8) (leAt b 3 1)).all clauseOk) = false from bad]; rfl

theorem queryListed_joins {b : List Byte} (good : listsOk t q j e b = true) :
    queryListed q j node e b t = queryJoins q j e (queryOf j e b (probesOf t q j b)) t := by
  unfold queryListed
  refine if_neg ?_
  rw [← Bool.not_and, show (probesOk (probesOf t q j b) e.nlist && (clausesAt t q j (leAt b 32 8) (leAt b 3 1)).all clauseOk) = true from good]
  exact Bool.false_ne_true

/-- The node of a record that names an index is the index's home lane. -/
theorem queryNode_named (named : s.cfg.content.index? q.val (leAt (jobBytes s q j a 64) 0 1) = some e) :
    queryNode s q j a = laneNode (mkLane e.home) := by
  unfold queryNode
  rw [leAt_jobBytes, named]

/-- A query that starts: the count of its job, its place in the plot, and its parts in the queues of their lanes. -/
theorem queryJoins_joins (found : (t.plot q).plt.job? j.idx = some j) (e : IndexEntry) (x : Query) :
    let u := queryJoins q j e x t
    (u.plot q).plt.job? j.idx = some { j with queries := j.queries + 1 } ∧ (u.plot q).fln.queries = (t.plot q).fln.queries ++ [x] ∧
      (∀ l : LaneId, (u.lane l).queue =
        if l ∈ maskLanes e.laneMask then (t.lane l).queue ++ [.part q j.idx j.queries] else (t.lane l).queue) ∧ u.mem = t.mem := by
  intro u
  obtain ⟨plots, mem⟩ := workQueued_rest (.part q j.idx j.queries) (maskLanes e.laneMask)
    ((t.modJob q j.idx (fun y => { y with queries := j.queries + 1 })).modFln q (fun p => { p with queries := p.queries ++ [x] }))
  have plot := plot_of_plots_eq plots q
  refine ⟨?_, ?_, fun l => workQueued_queue _ _ (maskLanes_nodup _) _ l, mem⟩
  · rw [show u.plot q = _ from plot, State.modFln, State.modPlot_self]
    exact State.modJob_job? found fun k live => ⟨rfl, live⟩
  · rw [show u.plot q = _ from plot, State.modFln, State.modPlot_self, State.modJob, State.modPlt_self]

end StartQuery

/-- The record and the lists of a query are read: both resident, the query's work goes on in a state with touched pages. -/
theorem startQuery_listed {s : State} {q : PlotId} {j : Job} {a : Nat} {e : IndexEntry} (running : runs s q j)
    (ok : readAccess s q j a 64 = .ok) (named : s.cfg.content.index? q.val (leAt (jobBytes s q j a 64) 0 1) = some e)
    (good : recordOk (jobBytes s q j a 64) e = true)
    (lists : ∀ r ∈ queryLists (jobBytes s q j a 64), readAccess s q j r.1 r.2 = .ok) :
    ∃ t, Touched q s t ∧ startQuery s q j.idx a =
      queryListed q j (some (laneNode (mkLane e.home))) e (jobBytes s q j a 64) t := by
  obtain ⟨t, first, reads⟩ := withReads_ok (rs := [(a, 64)]) (fun r mem => by rw [List.mem_singleton.1 mem]; exact ok)
    (some (queryNode s q j a)) (queryRead q j a (some (queryNode s q j a)))
  obtain ⟨u, second, goesOn⟩ := withReads_ok (s := t) (fun r mem => by rw [first.view.readAccess]; exact lists r mem)
    (some (queryNode s q j a)) (queryListed q j (some (queryNode s q j a)) e (jobBytes s q j a 64))
  refine ⟨u, first.trans second, ?_⟩
  rw [startQuery_reads running, reads, queryRead_lists first.view named good, goesOn, queryNode_named named]

theorem queriesStart_fromRecords : queriesStart := by
  intro s q j addr running b
  have faults (t : State) (touched : Touched q s t) (n : Option NodeId) : faulted s q j .image n (chargeFault t q j.idx .image n) :=
    touched.faulted running.1 (.inl running.2.1) running.2.2.1 running.2.2.2 ..
  refine ⟨fun unmapped => ⟨_, rfl, ?_⟩, fun ok => ?_⟩
  · rw [startQuery_reads running, show withReads s q j [(addr.toNat, 64)] (some (queryNode s q j addr.toNat))
      (queryRead q j addr.toNat _) = chargeFault s q j.idx .image (some (queryNode s q j addr.toNat)) from
        if_pos (by simp [unmapped])]
    exact faults s (.refl s) _
  obtain ⟨t, touched, reads⟩ := withReads_ok (rs := [(addr.toNat, 64)]) (fun r mem => by rw [List.mem_singleton.1 mem]; exact ok)
    (some (queryNode s q j addr.toNat)) (queryRead q j addr.toNat (some (queryNode s q j addr.toNat)))
  rw [← startQuery_reads running] at reads
  refine ⟨fun unnamed => ⟨_, rfl, ?_⟩, fun e named => ⟨fun bad => ⟨_, rfl, ?_⟩, fun probes clauses =>
    ⟨fun bad => ⟨_, rfl, ?_⟩, fun good => ⟨_, rfl, ?_⟩⟩⟩⟩
  · rw [reads, queryRead_unnamed touched.view unnamed]
    exact faults t touched _
  · rw [reads, queryRead_defective touched.view named bad, queryNode_named named]
    exact faults t touched _
  all_goals
    have lists : ∀ r ∈ queryLists b, readAccess s q j r.1 r.2 = .ok := fun r mem => by
      rcases List.mem_cons.1 mem with rfl | mem
      · exact probes
      · rw [List.mem_singleton.1 mem]
        exact clauses
  · rcases record : recordOk b e with _ | _
    · rw [reads, queryRead_defective touched.view named record, queryNode_named named]
      exact faults t touched _
    · obtain ⟨u, both, starts⟩ := startQuery_listed running ok named record lists
      have badLists : listsOk u q j e b = false := by
        rw [both.view.listsOk]
        exact eq_false_of_ne_true fun listed => bad ((queryRecordOk_iff ..).2 ⟨record, listed⟩)
      rw [starts, queryListed_defective badLists]
      exact faults u both _
  · obtain ⟨record, listed⟩ := (queryRecordOk_iff ..).1 good
    obtain ⟨u, both, starts⟩ := startQuery_listed running ok named record lists
    rw [starts, queryListed_joins (by rw [both.view.listsOk]; exact listed)]
    obtain ⟨job, queries, queues, mem⟩ := queryJoins_joins (t := u) (by rw [both.plot]; exact running.1) e
      (queryOf j e b (probesOf u q j b))
    refine ⟨job, ⟨queryOf j e b (probesOf u q j b), ?_, rfl, rfl, rfl, rfl, ?_, beq_iff_eq, rfl, rfl, rfl, rfl, ?_⟩, fun l => ?_,
      mem.trans both.view.mem⟩
    · rw [queries, both.plot]
    · exact (List.length_map ..).trans List.length_range
    · exact List.map_map
    · rw [queues l, show u.lane l = s.lane l from by rw [both.rest]; rfl]
      simp only [mem_maskLanes, List.contains_iff_mem]

end Sys2Proof.Machine

end


section

/-! PROOFS about the start of a query's parts (R241, R245, R247, R249, R250, R261). -/

namespace Sys2Proof.Machine

open Sys2Proof

/-! ### What a part examines (R244, R248, R249) -/

/-- From `p` to `p'` a part examined `n` records: its counts and its heap move, nothing else. -/
structure Part.Examined (p p' : Part) (n : Nat) : Prop where
  rest : p' = { p with scanned := p'.scanned, filtered := p'.filtered, heap := p'.heap }
  scanned : p'.scanned = p.scanned + n

theorem examine_examined (x : Query) (vis : List SideEntry) (p : Part) (id attr : Nat) (codes : List Byte) (pos : Option Nat) :
    p.Examined (examine x vis p id attr codes pos).1 1 := by
  unfold examine
  extract_lets p' c
  split
  · exact ⟨rfl, rfl⟩
  split
  · exact ⟨rfl, rfl⟩
  split
  · exact ⟨rfl, rfl⟩
  · exact ⟨rfl, rfl⟩

theorem Part.Examined.trans {p p' p'' : Part} {n m : Nat} (h : p.Examined p' n) (k : p'.Examined p'' m) : p.Examined p'' (n + m) :=
  ⟨by rw [k.rest, h.rest], by rw [k.scanned, h.scanned, Nat.add_assoc]⟩

/-- A part with its side entries scanned, and the hidden ones it met. -/
def sideScan (x : Query) (m : Nat) (vis : List SideEntry) (y : Part × Nat) (d : SideEntry) : Part × Nat :=
  ((examine x vis y.1 d.id d.attr (d.codes.take m) (some d.pos)).1,
    y.2 + (examine x vis y.1 d.id d.attr (d.codes.take m) (some d.pos)).2)

theorem sideScan_examined (x : Query) (m : Nat) (vis : List SideEntry) (ds : List SideEntry) (y : Part × Nat) :
    y.1.Examined (ds.foldl (sideScan x m vis) y).1 ds.length := by
  induction ds generalizing y with
  | nil => exact ⟨rfl, rfl⟩
  | cons d ds ih =>
    have all := (examine_examined x vis y.1 d.id d.attr (d.codes.take m) (some d.pos)).trans (ih (sideScan x m vis y d))
    rw [Nat.add_comm] at all
    exact all

/-- The side entries the home part scans. -/
def sideInserts (x : Query) (vis : List SideEntry) : List SideEntry :=
  if x.skipSide then [] else vis.filter (fun d => !d.del && x.probes.contains d.part)

theorem scanSide_eq (s : State) (q : PlotId) (x : Query) (m : Nat) (vis : List SideEntry) (p : Part) :
    scanSide s q x m vis p =
      (countScan s q p ((sideInserts x vis).foldl (sideScan x m vis) (p, 0)).1 ((sideInserts x vis).foldl (sideScan x m vis) (p, 0)).2,
        ((sideInserts x vis).foldl (sideScan x m vis) (p, 0)).1) := rfl

/-- What a part keeps when it has nothing left, or its budget is spent. -/
theorem Part.settle_kept (p : Part) (x : Query) :
    (p.settle x).lane = p.lane ∧ (p.settle x).started = p.started ∧ (p.settle x).table = p.table ∧
      ((p.settle x).done = false → (p.settle x).todo = p.todo) ∧ (p.buf = [] → (p.settle x).buf = []) := by
  unfold Part.settle
  split
  · exact ⟨rfl, rfl, rfl, fun _ => rfl, id⟩
  split
  · exact ⟨rfl, rfl, rfl, fun h => Bool.noConfusion h, fun _ => rfl⟩
  split
  · exact ⟨rfl, rfl, rfl, fun _ => rfl, fun _ => rfl⟩
  · exact ⟨rfl, rfl, rfl, fun _ => rfl, id⟩

/-! ### Nothing to scan -/

theorem Part.next?_empty {p : Part} (empty : p.buf = []) (tuned : Bool) : p.next? tuned = none := by
  unfold Part.next?
  rw [empty]
  cases tuned
  · simp only [Bool.false_eq_true, if_false]
    split <;> rfl
  · rfl

theorem scanNext_empty {s : State} {q : PlotId} {i : BitVec 16} {no : Nat} {l : LaneId}
    (empty : ∀ x ∈ (s.plot q).fln.queries, ∀ p ∈ x.parts, p.lane = l → p.buf = []) : scanNext s q i no l = none := by
  unfold scanNext
  split
  · rfl
  case h_2 x found =>
  split
  case h_1 e p vis index part visible =>
    have here := List.find?_some part
    rw [Bool.and_eq_true, beq_iff_eq] at here
    have none_ := Part.next?_empty (empty x (List.mem_of_find?_eq_some found) p (List.mem_of_find?_eq_some part) here.1) x.tuned
    split
    · rfl
    · rw [none_]
  · rfl

theorem drainAux_empty (n : Nat) {s : State} {q : PlotId} {i : BitVec 16} {no : Nat} {l : LaneId}
    (none_ : scanNext s q i no l = none) : drainAux n s q i no l = s := by
  cases n with
  | zero => rfl
  | succ n =>
    unfold drainAux
    rw [none_]

/-- With nothing in its buffers a part scans nothing: the lane goes on, if the query is there. -/
theorem drainBuf_empty {s : State} {q : PlotId} {i : BitVec 16} {no : Nat} {l : LaneId}
    (empty : ∀ x ∈ (s.plot q).fln.queries, ∀ p ∈ x.parts, p.lane = l → p.buf = []) :
    drainBuf s q i no l = s ∨ drainBuf s q i no l = startPageIns s q l := by
  unfold drainBuf
  split
  · exact Or.inl rfl
  · exact Or.inr (congrArg (startPageIns · q l) (drainAux_empty _ (scanNext_empty empty)))

/-- Where no query has sectors in its buffers none is shared. -/
theorem sharedBuf_empty {s : State} {q : PlotId} (empty : ∀ x ∈ (s.plot q).fln.queries, ∀ p ∈ x.parts, p.buf = []) (l : LaneId)
    (index : Nat) (gen : Bool) (todo : List (Nat × Nat)) : sharedBuf s q l index gen todo = [] := by
  unfold sharedBuf
  rw [show (((s.plot q).fln.queries.filter (fun y => y.index == index && y.gen == some gen)).flatMap (fun y =>
    (y.parts.filter (fun p => p.lane == l)).flatMap (fun p => p.buf))) = [] from ?_]
  · rfl
  · rw [List.flatMap_eq_nil_iff]
    intro y inPlot
    rw [List.flatMap_eq_nil_iff]
    exact fun p inQuery => empty y (List.mem_filter.1 inPlot).1 p (List.mem_filter.1 inQuery).1

/-! ### A part starts -/

/-- The reads of a part that starts: its table, its predicate and the directory entries of its partitions. -/
def partReads (e : IndexEntry) (gen : Bool) (x : Query) : List (Nat × Nat) :=
  [(x.tableAddr, 512 * e.m), (x.predAddr, 24 * x.clauseCount)] ++ x.probes.map (fun p => (e.dirEntry gen p, 16))

/-- The directory ranges of the partitions a query probes. -/
def partRanges (s : State) (q : PlotId) (j : Job) (e : IndexEntry) (gen : Bool) (x : Query) : List (Nat × Nat × Nat) :=
  x.probes.map (fun n => (n, dirRange s q j e gen n))

/-- A part with its table, its predicate and its sectors. -/
def startedPart (s : State) (q : PlotId) (j : Job) (e : IndexEntry) (gen : Bool) (l : LaneId) (x : Query) (todo : List (Nat × Nat)) : Part := {
  lane := l, started := true, table := jobBytes s q j x.tableAddr (512 * e.m),
  clauses := (clausesAt s q j x.predAddr x.clauseCount).map clauseOf, todo := todo, buf := sharedBuf s q l x.index gen todo }

/-- The part's turn is over. -/
def partUnqueued (s : State) (q : PlotId) (i : BitVec 16) (no : Nat) (l : LaneId) : State :=
  s.modLaneOf l (fun y => y.unqueue (.part q i no))

/-- The home part captures the generation and what is visible. -/
def partCaptured (s : State) (q : PlotId) (i : BitVec 16) (no : Nat) (gen : Bool) (vis : List SideEntry) : State :=
  s.modQuery q i no (fun x => { x with gen := some gen, vis := some vis })

/-- The state and the part before it is settled: the home part has scanned the visible inserts. -/
def partScanned (s : State) (q : PlotId) (i : BitVec 16) (no : Nat) (l : LaneId) (e : IndexEntry) (gen : Bool) (x : Query)
    (p : Part) : State × Part :=
  if l.val = e.home then
    scanSide (partCaptured s q i no gen (visibleNow ((s.plot q).fln.idx[mkIndex x.index]) i)) q x e.m
      (visibleNow ((s.plot q).fln.idx[mkIndex x.index]) i) p
  else (s, p)

/-- The part takes its context. -/
def partTaken (r : State × Part) (q : PlotId) (i : BitVec 16) (no : Nat) (l : LaneId) (x : Query) : State :=
  r.1.modPart q i no l (fun _ => r.2.settle x)

/-- What follows the reads of a part. -/
def partRead (q : PlotId) (j : Job) (no : Nat) (l : LaneId) (e : IndexEntry) (gen : Bool) (x : Query) (s : State) : State :=
  if (partRanges s q j e gen x).any (fun r => decide (r.2.2 ≠ 0) &&
      decide (e.capacity (s.cfg.content.indexChan e) < r.2.1 + r.2.2)) then chargeFault s q j.idx .image (some (laneNode l))
  else if (partSectors e (s.cfg.content.indexChan e) gen l (partRanges s q j e gen x)).any (fun t =>
      s.suspectAt (e.place (s.cfg.content.indexChan e) gen t.1).1) then chargeFault s q j.idx .flash (some (laneNode l))
  else
    drainBuf (partTaken (partScanned (partUnqueued s q j.idx no l) q j.idx no l e gen x
      (startedPart s q j e gen l x (partSectors e (s.cfg.content.indexChan e) gen l (partRanges s q j e gen x)))) q j.idx no l x) q j.idx no l

section StartPart

variable {s t : State} {q : PlotId} {j : Job} {no : Nat} {l : LaneId} {x : Query} {p : Part} {e : IndexEntry}

theorem attemptJob_of_phase (found : (s.plot q).plt.job? j.idx = some j) (phase : j.phase = .running ∨ j.phase = .between) :
    attemptJob s q j.idx = some j := by
  unfold attemptJob
  rw [found]
  rcases phase with phase | phase <;> simp [phase]

theorem query?_one {f : FlnPlot} (one : f.queries = [x]) (job : x.job = j.idx) (number : x.no = no) : f.query? j.idx no = some x := by
  unfold FlnPlot.query?
  rw [one, List.find?_cons_of_pos (by simp [job, number])]

theorem startPart_eq (found : (s.plot q).plt.job? j.idx = some j) (phase : j.phase = .running ∨ j.phase = .between)
    (one : (s.plot q).fln.queries = [x]) (job : x.job = j.idx) (number : x.no = no)
    (part : x.parts.find? (fun p => p.lane == l && !p.started) = some p) (named : s.cfg.content.index? q.val x.index = some e) :
    startPart s q j.idx no l =
      if mayStart s q j x e.home l = true then
        withReads s q j (partReads e (x.gen.getD ((s.plot q).fln.idx[mkIndex x.index]).gen) x) (some (laneNode l))
          (partRead q j no l e (x.gen.getD ((s.plot q).fln.idx[mkIndex x.index]).gen) x)
      else s := by
  unfold startPart
  rw [attemptJob_of_phase found phase, query?_one one job number]
  dsimp only
  rw [named, part]
  dsimp only
  rcases mayStart s q j x e.home l with _ | _
  · rfl
  · rfl

/-- The part's place in its query. -/
def partPlaced (y : Query) (l : LaneId) (z : Part) : Query := { y with parts := y.parts.map (fun p => if p.lane == l then z else p) }

theorem partTaken_fln {r : State × Part} {y : Query} (one : (r.1.plot q).fln.queries = [y]) (job : y.job = j.idx) (number : y.no = no) :
    ((partTaken r q j.idx no l x).plot q).fln = { (r.1.plot q).fln with queries := [partPlaced y l (r.2.settle x)] } := by
  unfold partTaken State.modPart
  rw [State.modFln, State.modPlot_self]
  dsimp only
  rw [one, List.map_singleton, if_pos (by simp [job, number])]
  rfl

theorem partTaken_mem (r : State × Part) : (partTaken r q j.idx no l x).mem = r.1.mem := rfl

theorem countScan_fln (s : State) (was now : Part) (hits : Nat) :
    ((countScan s q was now hits).plot q).fln.queries = (s.plot q).fln.queries ∧
      ((countScan s q was now hits).plot q).fln.live.scan = satAdd (s.plot q).fln.live.scan (now.scanned - was.scanned) := by
  unfold countScan State.modFlnCnt
  rw [State.modFln, State.modPlot_self]
  exact ⟨rfl, rfl⟩

/-- The captures of the home part. -/
theorem partCaptured_fln (gen : Bool) (vis : List SideEntry) (one : (s.plot q).fln.queries = [x]) (job : x.job = j.idx)
    (number : x.no = no) : ((partCaptured s q j.idx no gen vis).plot q).fln =
      { (s.plot q).fln with queries := [{ x with gen := some gen, vis := some vis }] } := by
  unfold partCaptured State.modQuery
  rw [State.modFln, State.modPlot_self]
  dsimp only
  rw [one, List.map_singleton, if_pos (by simp [job, number])]

/-- What scanning the side list before a part runs leaves and counts (R249). -/
theorem partScanned_home (gen : Bool) (one : (s.plot q).fln.queries = [x]) (job : x.job = j.idx) (number : x.no = no) (p : Part)
    (home : l.val = e.home) :
    let vis := visibleNow ((s.plot q).fln.idx[mkIndex x.index]) j.idx
    let r := partScanned s q j.idx no l e gen x p
    p.Examined r.2 (sideInserts x vis).length ∧ (r.1.plot q).fln.queries = [{ x with gen := some gen, vis := some vis }] ∧
      (r.1.plot q).fln.live.scan = satAdd (s.plot q).fln.live.scan (sideInserts x vis).length ∧ r.1.mem = s.mem := by
  intro vis r
  have scanned : r = scanSide (partCaptured s q j.idx no gen vis) q x e.m vis p := if_pos home
  have examined := sideScan_examined x e.m vis (sideInserts x vis) (p, 0)
  rw [scanned, scanSide_eq]
  obtain ⟨queries, scan⟩ := countScan_fln (q := q) (partCaptured s q j.idx no gen vis) p
    ((sideInserts x vis).foldl (sideScan x e.m vis) (p, 0)).1 ((sideInserts x vis).foldl (sideScan x e.m vis) (p, 0)).2
  rw [partCaptured_fln gen vis one job number] at queries scan
  refine ⟨examined, queries, ?_, rfl⟩
  rw [scan, examined.scanned]
  exact congrArg (satAdd _) (Nat.add_sub_cancel_left ..)

theorem partScanned_away (gen : Bool) (p : Part) (away : l.val ≠ e.home) : partScanned s q j.idx no l e gen x p = (s, p) := if_neg away

/-- A part that takes its context with nothing in its buffers: its place in the query, and what follows leaves the query. -/
theorem partTaken_drained {r : State × Part} {y : Query} (one : (r.1.plot q).fln.queries = [y]) (job : y.job = j.idx)
    (number : y.no = no) (empty : r.2.buf = []) :
    let u := drainBuf (partTaken r q j.idx no l x) q j.idx no l
    (u.plot q).fln = { (r.1.plot q).fln with queries := [partPlaced y l (r.2.settle x)] } ∧ u.mem = r.1.mem := by
  intro u
  have fln := partTaken_fln (l := l) (x := x) one job number
  have noBuf : ∀ x' ∈ ((partTaken r q j.idx no l x).plot q).fln.queries, ∀ p ∈ x'.parts, p.lane = l → p.buf = [] := by
    intro x' inPlot p inQuery here
    rw [fln] at inPlot
    rw [List.mem_singleton.1 inPlot] at inQuery
    obtain ⟨p', -, rfl⟩ := List.mem_map.1 inQuery
    split at here
    case isTrue same =>
      rw [if_pos same]
      exact (r.2.settle_kept x).2.2.2.2 empty
    case isFalse other => exact absurd (beq_iff_eq.2 here) other
  rcases drainBuf_empty (i := j.idx) (no := no) noBuf with same | goesOn
  · rw [show u = _ from same]
    exact ⟨fln, partTaken_mem r⟩
  · rw [show u = _ from goesOn]
    refine ⟨?_, (startPageIns_mem ..).trans (partTaken_mem r)⟩
    rw [(startPageIns_starts ..).rest]
    exact fln

/-- The part that started is in its query. -/
theorem mem_partPlaced {y : Query} (part : y.parts.find? (fun p => p.lane == l && !p.started) = some p) (z : Part) :
    z ∈ (partPlaced y l z).parts := by
  have here := List.find?_some part
  rw [Bool.and_eq_true] at here
  exact List.mem_map.2 ⟨p, List.mem_of_find?_eq_some part, if_pos here.1⟩

end StartPart

section PartRead

variable {s t : State} {q : PlotId} {j : Job} {no : Nat} {l : LaneId} {x : Query} {p : Part} {e : IndexEntry} {gen : Bool}

theorem SameView.partRanges (view : SameView q s t) (j : Job) (e : IndexEntry) (gen : Bool) (x : Query) :
    partRanges t q j e gen x = partRanges s q j e gen x := by
  unfold Machine.partRanges dirRange
  simp only [view.jobBytes]

theorem Touched.suspectAt (touched : Touched q s t) (a : FlashPlace) : t.suspectAt a = s.suspectAt a := by
  rw [touched.rest]
  rfl

theorem Touched.fln (touched : Touched q s t) : (t.plot q).fln = (s.plot q).fln := by
  rw [touched.plot]

/-- A partition outside the index (R241). -/
theorem partRead_outside (touched : Touched q s t) (outside : ∃ r ∈ partRanges s q j e gen x,
    r.2.2 ≠ 0 ∧ e.capacity (s.cfg.content.indexChan e) < r.2.1 + r.2.2) :
    partRead q j no l e gen x t = chargeFault t q j.idx .image (some (laneNode l)) := by
  unfold partRead
  rw [touched.view.partRanges, touched.view.cfg]
  refine if_pos (List.any_eq_true.2 ?_)
  obtain ⟨r, mem, some_, beyond⟩ := outside
  exact ⟨r, mem, by rw [decide_eq_true some_, decide_eq_true beyond]; rfl⟩

variable (inside : ∀ r ∈ partRanges s q j e gen x, r.2.2 = 0 ∨ r.2.1 + r.2.2 ≤ e.capacity (s.cfg.content.indexChan e))
include inside

theorem partRead_inside (touched : Touched q s t) : partRead q j no l e gen x t =
    if (partSectors e (s.cfg.content.indexChan e) gen l (partRanges s q j e gen x)).any (fun n =>
        s.suspectAt (e.place (s.cfg.content.indexChan e) gen n.1).1) then chargeFault t q j.idx .flash (some (laneNode l))
    else drainBuf (partTaken (partScanned (partUnqueued t q j.idx no l) q j.idx no l e gen x (startedPart t q j e gen l x
      (partSectors e (s.cfg.content.indexChan e) gen l (partRanges s q j e gen x)))) q j.idx no l x) q j.idx no l := by
  unfold partRead
  rw [touched.view.partRanges, touched.view.cfg]
  simp only [touched.suspectAt]
  refine if_neg (fun some_ => ?_)
  obtain ⟨r, mem, beyond⟩ := List.any_eq_true.1 some_
  rw [Bool.and_eq_true, decide_eq_true_eq, decide_eq_true_eq] at beyond
  rcases inside r mem with none_ | within
  · exact beyond.1 none_
  · omega

theorem partRead_suspect (touched : Touched q s t) (suspect : ∃ n ∈ partSectors e (s.cfg.content.indexChan e) gen l (partRanges s q j e gen x),
    s.suspectAt (e.place (s.cfg.content.indexChan e) gen n.1).1 = true) :
    partRead q j no l e gen x t = chargeFault t q j.idx .flash (some (laneNode l)) := by
  rw [partRead_inside inside touched]
  exact if_pos (List.any_eq_true.2 suspect)

/-- A part that starts takes its table and its sectors, and the home part captures and scans what is visible. -/
theorem partRead_starts (touched : Touched q s t) (sound : ∀ n ∈ partSectors e (s.cfg.content.indexChan e) gen l (partRanges s q j e gen x),
      s.suspectAt (e.place (s.cfg.content.indexChan e) gen n.1).1 = false)
    (one : (s.plot q).fln.queries = [x]) (job : x.job = j.idx) (number : x.no = no)
    (part : x.parts.find? (fun p => p.lane == l && !p.started) = some p) (empty : ∀ y ∈ x.parts, y.buf = []) :
    let vis := visibleNow ((s.plot q).fln.idx[mkIndex x.index]) j.idx
    let u := partRead q j no l e gen x t
    ∃ y, (u.plot q).fln.queries = [y] ∧ y.job = x.job ∧ y.no = x.no ∧ y.k = x.k ∧
      (∃ z ∈ y.parts, z.lane = l ∧ z.started = true ∧ z.table = jobBytes s q j x.tableAddr (512 * e.m) ∧
        (z.done = false → z.todo = partSectors e (s.cfg.content.indexChan e) gen l (partRanges s q j e gen x))) ∧
      (l.val ≠ e.home → y.gen = x.gen ∧ y.vis = x.vis ∧ (u.plot q).fln.live = (s.plot q).fln.live) ∧
      (l.val = e.home → y.gen = some gen ∧ y.vis = some vis ∧
        (u.plot q).fln.live.scan = satAdd (s.plot q).fln.live.scan (sideInserts x vis).length) ∧ u.mem = s.mem := by
  intro vis u
  have starts : u = _ := (partRead_inside inside touched).trans (if_neg fun some_ => by
    obtain ⟨n, mem, suspect⟩ := List.any_eq_true.1 some_
    rw [sound n mem] at suspect
    contradiction)
  have fln : ((partUnqueued t q j.idx no l).plot q).fln = (s.plot q).fln := touched.fln
  have mem : (partUnqueued t q j.idx no l).mem = s.mem := touched.view.mem
  have one' : ((partUnqueued t q j.idx no l).plot q).fln.queries = [x] := by rw [fln, one]
  have table : (startedPart t q j e gen l x (partSectors e (s.cfg.content.indexChan e) gen l (partRanges s q j e gen x))).table =
      jobBytes s q j x.tableAddr (512 * e.m) := touched.view.jobBytes ..
  have noBuf : (startedPart t q j e gen l x (partSectors e (s.cfg.content.indexChan e) gen l (partRanges s q j e gen x))).buf = [] :=
    sharedBuf_empty (fun x' inPlot => by
      rw [touched.fln, one, List.mem_singleton] at inPlot
      rw [inPlot]
      exact empty) ..
  have fresh : (startedPart t q j e gen l x (partSectors e (s.cfg.content.indexChan e) gen l (partRanges s q j e gen x))).lane = l ∧
      (startedPart t q j e gen l x (partSectors e (s.cfg.content.indexChan e) gen l (partRanges s q j e gen x))).started = true ∧
      (startedPart t q j e gen l x (partSectors e (s.cfg.content.indexChan e) gen l (partRanges s q j e gen x))).todo =
        partSectors e (s.cfg.content.indexChan e) gen l (partRanges s q j e gen x) := ⟨rfl, rfl, rfl⟩
  rw [starts]
  generalize startedPart t q j e gen l x (partSectors e (s.cfg.content.indexChan e) gen l (partRanges s q j e gen x)) = p₀ at *
  generalize partUnqueued t q j.idx no l = v at *
  obtain ⟨lane, started, todo⟩ := fresh
  have settled (z : Part) (n : Nat) (examined : p₀.Examined z n) : (z.settle x).lane = l ∧ (z.settle x).started = true ∧
      (z.settle x).table = jobBytes s q j x.tableAddr (512 * e.m) ∧
      ((z.settle x).done = false →
        (z.settle x).todo = partSectors e (s.cfg.content.indexChan e) gen l (partRanges s q j e gen x)) ∧ z.buf = [] := by
    obtain ⟨lane', started', table', todo', -⟩ := z.settle_kept x
    have rest := examined.rest
    refine ⟨?_, ?_, ?_, fun going => ?_, ?_⟩
    · rw [lane', rest]; exact lane
    · rw [started', rest]; exact started
    · rw [table', rest]; exact table
    · rw [todo' going, rest]; exact todo
    · rw [rest]; exact noBuf
  by_cases home : l.val = e.home
  · obtain ⟨examined, queries, scan, kept⟩ := partScanned_home (l := l) (e := e) gen one' job number p₀ home
    rw [fln] at examined queries scan
    obtain ⟨sLane, sStarted, sTable, sTodo, sBuf⟩ := settled _ _ examined
    generalize partScanned v q j.idx no l e gen x p₀ = r at *
    obtain ⟨fln', mem'⟩ := partTaken_drained (l := l) (x := x) queries job number sBuf
    refine ⟨partPlaced { x with gen := some gen, vis := some vis } l (r.2.settle x), ?_, rfl, rfl, rfl,
      ⟨_, mem_partPlaced (y := { x with gen := some gen, vis := some vis }) part _, sLane, sStarted, sTable, sTodo⟩,
      fun away => absurd home away, fun _ => ⟨rfl, rfl, ?_⟩, mem'.trans (kept.trans mem)⟩
    · rw [fln']
    · rw [fln']
      exact scan
  · rw [partScanned_away gen p₀ home]
    obtain ⟨sLane, sStarted, sTable, sTodo, sBuf⟩ := settled p₀ 0 ⟨rfl, rfl⟩
    obtain ⟨fln', mem'⟩ := partTaken_drained (r := (v, p₀)) (l := l) (x := x) one' job number sBuf
    refine ⟨partPlaced x l (p₀.settle x), ?_, rfl, rfl, rfl, ⟨_, mem_partPlaced part _, sLane, sStarted, sTable, sTodo⟩,
      fun _ => ⟨rfl, rfl, ?_⟩, fun here => absurd here home, mem'.trans mem⟩
    · rw [fln']
    · rw [fln']
      show (v.plot q).fln.live = _
      rw [fln]

end PartRead

theorem partsStart_holds : partsStart := by
  intro s q j no l x p e found phase budget deadline one job number part named empty c gen ranges todo
  refine ⟨fun waits => ⟨_, rfl, ?_⟩, fun may reads => ?_⟩
  · rw [startPart_eq found phase one job number part named, if_neg (by rw [waits]; exact Bool.false_ne_true)]
  obtain ⟨t, touched, starts⟩ := withReads_ok (rs := partReads e gen x) reads (some (laneNode l)) (partRead q j no l e gen x)
  rw [← (startPart_eq found phase one job number part named).trans (if_pos may)] at starts
  have faults (c : Code) : faulted s q j c (some (laneNode l)) (chargeFault t q j.idx c (some (laneNode l))) :=
    touched.faulted found phase budget deadline ..
  refine ⟨fun outside => ⟨_, rfl, ?_⟩, fun inside => ⟨fun suspect => ⟨_, rfl, ?_⟩, fun sound => ⟨_, rfl, ?_⟩⟩⟩
  · rw [starts, partRead_outside touched outside]
    exact faults .image
  · rw [starts, partRead_suspect inside touched suspect]
    exact faults .flash
  · rw [starts]
    obtain ⟨y, queries, job', number', k, z, away, home, mem⟩ :=
      partRead_starts (no := no) (l := l) inside touched sound one job number part empty
    refine ⟨y, queries, job', number', k, z, away, fun here => ?_, mem⟩
    obtain ⟨gen', vis, scan⟩ := home here
    refine ⟨gen', vis, fun scans => ?_⟩
    rw [scan, sideInserts, if_neg (by rw [scans]; exact Bool.false_ne_true)]

/-- Settles O53: the record's checks, the parts in their queues, and a part that takes its context. -/
theorem queriesStart_holds : Obligations.QueriesStart := ⟨queriesStart_fromRecords, partsStart_holds⟩

end Sys2Proof.Machine

end


section

/-! PROOFS about flash lanes (R232, R246, R261): what a lane's commands change, and what a suspect LUN costs. -/

namespace Sys2Proof.Machine

open Sys2Proof

/-! ### A lane goes on (R232, R246) -/

/-- From `s` to `t` one lane goes on: of the lanes its commands, its schedulers and its start queue alone change. -/
structure LaneMoves (l : LaneId) (s t : State) : Prop where
  others : ∀ k : LaneId, k ≠ l → t.lane k = s.lane k
  lane : t.lane l = { s.lane l with ops := (t.lane l).ops, sched := (t.lane l).sched, queue := (t.lane l).queue }

theorem LaneMoves.refl (l : LaneId) (s : State) : LaneMoves l s s := ⟨fun _ _ => rfl, rfl⟩

theorem LaneMoves.trans {l : LaneId} {a b c : State} (h : LaneMoves l a b) (k : LaneMoves l b c) : LaneMoves l a c :=
  ⟨fun n other => (k.others n other).trans (h.others n other), by rw [k.lane, h.lane]⟩

theorem State.lane_of_set {l : LaneId} {s t : State} {x : FlashLane} (set : t.lanes = s.lanes.set l x) : t.lane l = x := by
  unfold State.lane
  rw [set]
  exact Vector.getElem_set_self _

theorem State.emit_lane (s : State) (e : OutEvent) (l : LaneId) : (s.emit e).lane l = s.lane l := rfl

/-- A change of the lane's commands, schedulers or queue. -/
theorem LaneMoves.of_set {l : LaneId} {s t : State} {x : FlashLane} (set : t.lanes = s.lanes.set l x)
    (rest : x = { s.lane l with ops := x.ops, sched := x.sched, queue := x.queue }) : LaneMoves l s t := by
  refine ⟨fun k other => ?_, by rw [State.lane_of_set set]; exact rest⟩
  unfold State.lane
  rw [set]
  exact Vector.getElem_set_ne l.isLt k.isLt fun e => other (Fin.ext e.symm)

theorem LaneMoves.of_lanes {l : LaneId} {s t : State} (h : t.lanes = s.lanes) : LaneMoves l s t := by
  have lane (k : LaneId) : t.lane k = s.lane k := by
    unfold State.lane
    rw [h]
  exact ⟨fun k _ => lane k, by rw [lane]⟩

/-- The programs and erases of a lane, issued or not. -/
def FlashLane.writes (x : FlashLane) : List FlashOp := x.ops.filter (fun o => o.kind != .read)

/-- From `s` to `t` a lane issued commands: nothing but the lane and what has left the device changes, and no program or erase comes
or goes. -/
structure LaneIssues (l : LaneId) (s t : State) : Prop where
  moves : LaneMoves l s t
  rest : t = { s with lanes := t.lanes, out := t.out }
  writes : (t.lane l).writes.length = (s.lane l).writes.length

theorem LaneIssues.refl (l : LaneId) (s : State) : LaneIssues l s s := ⟨.refl l s, rfl, rfl⟩

theorem LaneIssues.trans {l : LaneId} {a b c : State} (h : LaneIssues l a b) (k : LaneIssues l b c) : LaneIssues l a c :=
  ⟨h.moves.trans k.moves, by rw [k.rest, h.rest], k.writes.trans h.writes⟩

/-- The commands of a lane with one of them issued. -/
def opsIssued (ops : List FlashOp) (o : FlashOp) : List FlashOp :=
  if o.kind == .read then ops ++ [{ o with issued := true }] else ops.map (fun p => if p = o then { p with issued := true } else p)

theorem opsIssued_writes (ops : List FlashOp) (o : FlashOp) :
    ((opsIssued ops o).filter (fun p => p.kind != .read)).length = (ops.filter (fun p => p.kind != .read)).length := by
  unfold opsIssued
  split
  case isTrue read =>
    rw [List.filter_append, List.filter_cons_of_neg (by simp [eq_of_beq read])]
    simp
  case isFalse =>
    rw [List.filter_map, List.length_map]
    refine congrArg (fun f => (ops.filter f).length) (funext fun p => ?_)
    dsimp only [Function.comp]
    split <;> rfl

theorem issueOp_issues (s : State) (l : LaneId) (o : FlashOp) : LaneIssues l s (issueOp s l o) := by
  have moved : LaneMoves l s (issueOp s l o) := .of_set rfl rfl
  have ops : ((issueOp s l o).lane l).ops = opsIssued (s.lane l).ops o := by
    unfold issueOp
    rw [State.emit_lane, State.modLaneOf_self]
    rfl
  refine ⟨moved, rfl, ?_⟩
  unfold FlashLane.writes
  rw [ops]
  exact opsIssued_writes ..

theorem issueLaneAux_issues (n : Nat) (s : State) (l : LaneId) : LaneIssues l s (issueLaneAux n s l) := by
  induction n generalizing s with
  | zero => exact .refl l s
  | succ n ih =>
    unfold issueLaneAux
    split
    · exact .refl l s
    · exact (issueOp_issues ..).trans (ih _)

theorem issueLane_issues (s : State) (l : LaneId) : LaneIssues l s (issueLane s l) := issueLaneAux_issues 32 s l

theorem startPageInsAux_moves (n : Nat) (s : State) (q : PlotId) (l : LaneId) : LaneMoves l s (startPageInsAux n s q l) := by
  induction n generalizing s with
  | zero => exact .refl l s
  | succ n ih =>
    unfold startPageInsAux
    split
    · split
      · exact LaneMoves.trans (.of_set rfl rfl) (ih _)
      · exact .refl l s
    · exact .refl l s

theorem startPageIns_moves (s : State) (q : PlotId) (l : LaneId) : LaneMoves l s (startPageIns s q l) :=
  (startPageInsAux_moves ..).trans (issueLane_issues ..).moves

theorem eachStartPageIns_moves (qs : List PlotId) (s : State) (l : LaneId) :
    LaneMoves l s (s.eachPlot qs fun s q => startPageIns s q l) := by
  induction qs generalizing s with
  | nil => exact .refl l s
  | cons q qs ih => exact (startPageIns_moves s q l).trans (ih _)

theorem eachStartPageIns_mem (qs : List PlotId) (s : State) (l : LaneId) : (s.eachPlot qs fun s q => startPageIns s q l).mem = s.mem := by
  induction qs generalizing s with
  | nil => rfl
  | cons q qs ih => exact (ih _).trans (startPageIns_mem ..)

/-! ### What a fault leaves of the lanes and of other jobs -/

/-- From `s` to `t` work may have been dropped from the lanes: commands and queued items go, nothing else of a lane changes. -/
structure LanesDrop (s t : State) : Prop where
  lane : ∀ k : LaneId, t.lane k = { s.lane k with ops := (t.lane k).ops, queue := (t.lane k).queue }
  ops : ∀ k : LaneId, ∀ o ∈ (t.lane k).ops, o ∈ (s.lane k).ops

theorem LanesDrop.trans {a b c : State} (h : LanesDrop a b) (k : LanesDrop b c) : LanesDrop a c :=
  ⟨fun n => by rw [k.lane, h.lane], fun n o mem => h.ops n o (k.ops n o mem)⟩

theorem LanesDrop.of_lanes {s t : State} (h : t.lanes = s.lanes) : LanesDrop s t := by
  have lane (k : LaneId) : t.lane k = s.lane k := by
    unfold State.lane
    rw [h]
  exact ⟨fun k => by rw [lane], fun k o mem => by rw [← lane k]; exact mem⟩

theorem clearFlashJob_drop (s : State) (q : PlotId) (i : BitVec 16) : LanesDrop s (clearFlashJob s q i) := by
  have lane (k : LaneId) : (clearFlashJob s q i).lane k = { s.lane k with
      queue := (s.lane k).queue.filter (fun x => match x with | .part p j _ => !(p == q && j == i) | .page _ _ => true),
      ops := (s.lane k).ops.filter (fun o => o.issued || !(o.plot == q && o.job == i)) } := Vector.getElem_map ..
  exact ⟨fun k => by rw [lane], fun k o mem => by rw [lane] at mem; exact (List.mem_filter.1 mem).1⟩

theorem clearJobEngines_drop (s : State) (q : PlotId) (i : BitVec 16) : LanesDrop s (clearJobEngines s q i) :=
  have flash : LanesDrop s (clearFlashJob (clearMeshJob (clearAnnealJob (clearGraftJob s q i) q i) q i) q i) :=
    LanesDrop.trans (b := clearMeshJob (clearAnnealJob (clearGraftJob s q i) q i) q i) (.of_lanes rfl) (clearFlashJob_drop ..)
  flash.trans (.of_lanes rfl)

theorem State.logLine_lanes (s : State) (code plot : Nat) (node : Option NodeId) (a b : Nat) :
    (s.logLine code plot node a b).lanes = s.lanes :=
  (State.logLine_keeps (P := fun _ => false) (Keeps.refl s) code plot node a b (Covers.refl _)).lanes_eq

theorem beginAbandon_drop (s : State) (q : PlotId) (j : Job) (c : Code) (node : Option NodeId) :
    LanesDrop s (beginAbandon s q j c node) := by
  unfold beginAbandon
  extract_lets marked cleared
  have drop : LanesDrop s cleared := LanesDrop.trans (b := marked) (.of_lanes rfl) (clearJobEngines_drop marked q j.idx)
  split
  · exact drop.trans (.of_lanes rfl)
  · exact drop.trans (.of_lanes (State.logLine_lanes ..))

/-- What a fault does to a state, by its case: nothing, a raised code, or an abandonment. -/
theorem chargeFault_cases (s : State) (q : PlotId) (i : BitVec 16) (c : Code) (node : Option NodeId) :
    chargeFault s q i c node = s ∨ ∃ j, (s.plot q).plt.job? i = some j ∧
      (chargeFault s q i c node = raiseFault s q j c node ∨ chargeFault s q i c node = beginAbandon s q j c node) := by
  unfold chargeFault
  split
  · exact Or.inl rfl
  case h_2 j found =>
    split
    · split
      · exact Or.inr ⟨j, found, Or.inl rfl⟩
      · exact Or.inl rfl
    · split
      · exact Or.inl rfl
      · exact Or.inr ⟨j, found, Or.inr rfl⟩

theorem chargeFault_drop (s : State) (q : PlotId) (i : BitVec 16) (c : Code) (node : Option NodeId) :
    LanesDrop s (chargeFault s q i c node) := by
  rcases chargeFault_cases s q i c node with same | ⟨j, -, raised | abandoned⟩
  · rw [same]
    exact .of_lanes rfl
  · rw [raised]
    exact .of_lanes rfl
  · rw [abandoned]
    exact beginAbandon_drop ..

theorem chargeFault_boot (s : State) (q : PlotId) (i : BitVec 16) (c : Code) (node : Option NodeId) :
    (chargeFault s q i c node).boot = s.boot :=
  (chargeFault_keeps (P := fun _ => true) q i c node (Keeps.refl s) (Covers.refl _) rfl).boot_eq

/-- What has left the device before a fault has left it after it. -/
theorem chargeFault_prefix (s : State) (q : PlotId) (i : BitVec 16) (c : Code) (node : Option NodeId) :
    s.out <+: (chargeFault s q i c node).out := by
  rcases chargeFault_cases s q i c node with same | ⟨j, -, raised | abandoned⟩
  · exact ⟨[], by rw [same, List.append_nil]⟩
  · rw [raised]
    exact List.prefix_rfl
  · rw [abandoned]
    exact (beginAbandon_onlyMessages ..).prefix

/-- A change of a job leaves the jobs of other numbers. -/
theorem State.modJob_job?_other {s : State} {q : PlotId} {i k : BitVec 16} {f : Job → Job} (idx : ∀ j : Job, (f j).idx = j.idx)
    (other : k ≠ i) : ((s.modJob q i f).plot q).plt.job? k = (s.plot q).plt.job? k := by
  unfold PltSet.job?
  rw [State.modJob_jobs, List.find?_map]
  have same (j : Job) : ((fun j => j.idx == k && j.live) ∘ fun j => if j.idx == i && j.live then f j else j) j = (j.idx == k && j.live) := by
    dsimp only [Function.comp]
    split
    case isTrue hit =>
      rw [Bool.and_eq_true, beq_iff_eq] at hit
      rw [idx, hit.1, beq_false_of_ne other.symm, Bool.false_and, Bool.false_and]
    case isFalse => rfl
  rw [funext same]
  show Option.map _ ((s.plot q).plt.job? k) = (s.plot q).plt.job? k
  rcases found : (s.plot q).plt.job? k with _ | j
  · rfl
  · have hit := List.find?_some found
    rw [Bool.and_eq_true, beq_iff_eq] at hit
    rw [Option.map_some, if_neg (by rw [hit.1, beq_false_of_ne other]; exact Bool.false_ne_true)]

theorem beginAbandon_job?_other {s : State} {q : PlotId} {j : Job} {k : BitVec 16} (c : Code) (node : Option NodeId)
    (other : k ≠ j.idx) : ((beginAbandon s q j c node).plot q).plt.job? k = (s.plot q).plt.job? k := by
  have marked := State.modJob_job?_other (s := s) (q := q) (f := Job.abandoned c node s.boot.tclk) (fun _ => rfl) other
  rw [← clearJobEngines_plt _ q j.idx] at marked
  unfold beginAbandon
  split
  · exact marked
  · rw [State.logLine_plot]
    exact marked

/-- A fault of one job leaves the jobs of other numbers. -/
theorem chargeFault_job?_other (s : State) (q : PlotId) {i k : BitVec 16} (c : Code) (node : Option NodeId) (other : k ≠ i) :
    ((chargeFault s q i c node).plot q).plt.job? k = (s.plot q).plt.job? k := by
  rcases chargeFault_cases s q i c node with same | ⟨j, found, raised | abandoned⟩
  · rw [same]
  all_goals
    have hit := List.find?_some found
    rw [Bool.and_eq_true, beq_iff_eq] at hit
  · rw [raised]
    exact State.modJob_job?_other (s := s) (fun _ => rfl) (by rw [hit.1]; exact other)
  · rw [abandoned]
    exact beginAbandon_job?_other c node (by rw [hit.1]; exact other)

/-! ### Every job of a list faults -/

/-- The jobs of a list fault with FLASH at a node. -/
def flashFaults (node : NodeId) (s : State) (x : PlotId × BitVec 16) : State := chargeFault s x.1 x.2 .flash (some node)

theorem flashFaults_drop (node : NodeId) (xs : List (PlotId × BitVec 16)) (s : State) : LanesDrop s (xs.foldl (flashFaults node) s) := by
  induction xs generalizing s with
  | nil => exact .of_lanes rfl
  | cons x xs ih => exact (chargeFault_drop ..).trans (ih _)

theorem flashFaults_irq (node : NodeId) (xs : List (PlotId × BitVec 16)) (s : State) (i : Nat) (set : s.pf.irqStatus.getLsbD i = true) :
    (xs.foldl (flashFaults node) s).pf.irqStatus.getLsbD i = true := by
  induction xs generalizing s with
  | nil => exact set
  | cons x xs ih => exact ih _ ((chargeFault_carries s x.1 x.2 .flash (some node)).irq i set)

theorem flashFaults_boot (node : NodeId) (xs : List (PlotId × BitVec 16)) (s : State) : (xs.foldl (flashFaults node) s).boot = s.boot := by
  induction xs generalizing s with
  | nil => rfl
  | cons x xs ih => exact (ih _).trans (chargeFault_boot ..)

theorem flashFaults_prefix (node : NodeId) (xs : List (PlotId × BitVec 16)) (s : State) : s.out <+: (xs.foldl (flashFaults node) s).out := by
  induction xs generalizing s with
  | nil => exact List.prefix_rfl
  | cons x xs ih => exact (chargeFault_prefix ..).trans (ih _)

/-- A fault of another job leaves the job a plot finds by its number. -/
theorem flashFaults_job?_other (node : NodeId) (s : State) {x : PlotId × BitVec 16} {q : PlotId} {i : BitVec 16} (other : x ≠ (q, i)) :
    ((flashFaults node s x).plot q).plt.job? i = (s.plot q).plt.job? i := by
  obtain ⟨p, k⟩ := x
  by_cases same : q = p
  · subst same
    exact chargeFault_job?_other s q .flash (some node) fun h => other (by rw [h])
  · unfold flashFaults
    rw [chargeFault_other s k .flash (some node) same]

/-- A job that faulted with FLASH in this cycle stays as it is. -/
theorem flashFaults_again (node : NodeId) (xs : List (PlotId × BitVec 16)) {s : State} {q : PlotId} {j : Job}
    (found : (s.plot q).plt.job? j.idx = some (j.abandoned .flash (some node) s.boot.tclk)) :
    ((xs.foldl (flashFaults node) s).plot q).plt.job? j.idx = some (j.abandoned .flash (some node) s.boot.tclk) := by
  induction xs generalizing s with
  | nil => exact found
  | cons x xs ih =>
    have boot : (flashFaults node s x).boot = s.boot := chargeFault_boot ..
    rw [List.foldl_cons, ← boot]
    refine ih ?_
    rw [boot]
    by_cases same : x = (q, j.idx)
    · have stays : flashFaults node s x = s := by
        rw [same]
        unfold flashFaults chargeFault
        rw [found]
        simp [Job.abandoned]
      rw [stays]
      exact found
    · rw [flashFaults_job?_other node s same]
      exact found

/-- A job that runs and is in the list has faulted with FLASH. -/
theorem flashFaults_faults (node : NodeId) (xs : List (PlotId × BitVec 16)) {s : State} {q : PlotId} {j : Job} (running : runs s q j)
    (mem : (q, j.idx) ∈ xs) :
    ((xs.foldl (flashFaults node) s).plot q).plt.job? j.idx = some (j.abandoned .flash (some node) s.boot.tclk) := by
  induction xs generalizing s with
  | nil => contradiction
  | cons x xs ih =>
    have boot : (flashFaults node s x).boot = s.boot := chargeFault_boot ..
    rw [List.foldl_cons, ← boot]
    by_cases same : x = (q, j.idx)
    · refine flashFaults_again node xs ?_
      rw [boot, same]
      show ((chargeFault s q j.idx .flash (some node)).plot q).plt.job? j.idx = _
      rw [chargeFault_of_runs .flash (some node) running]
      exact beginAbandon_job? .flash (some node) running.1
    · refine ih ?_ ((List.mem_cons.1 mem).resolve_left fun h => same h.symm)
      unfold runs
      rw [flashFaults_job?_other node s same]
      exact running

/-! ### A LUN becomes suspect (R261) -/

/-- The page-ins of a lane that need a LUN are given up. -/
def dropPageIns (l : LaneId) (ce lun : Nat) (s : State) (q : PlotId) : State :=
  s.modMsh q fun m => { m with pageIns := m.pageIns.filter fun x => !(x.lane == l && pageInNeeds s.cfg.content q x ce lun) }

/-- From `s` to `t` the lanes, the causes of the PF, the time and what has left the device stay. -/
structure LanesAsWere (s t : State) : Prop where
  lanes : t.lanes = s.lanes
  boot : t.boot = s.boot
  pf : t.pf = s.pf
  out : t.out = s.out

theorem eachDropPageIns_rest (qs : List PlotId) (s : State) (l : LaneId) (ce lun : Nat) :
    LanesAsWere s (s.eachPlot qs (dropPageIns l ce lun)) := by
  induction qs generalizing s with
  | nil => exact ⟨rfl, rfl, rfl, rfl⟩
  | cons q qs ih =>
    obtain ⟨lanes, boot, pf, out⟩ := ih (dropPageIns l ce lun s q)
    exact ⟨lanes, boot, pf, out⟩

theorem eachDropPageIns_plt (qs : List PlotId) (s : State) (l : LaneId) (ce lun : Nat) (q : PlotId) :
    ((s.eachPlot qs (dropPageIns l ce lun)).plot q).plt = (s.plot q).plt := by
  induction qs generalizing s with
  | nil => rfl
  | cons p qs ih =>
    refine (ih _).trans ?_
    unfold dropPageIns
    by_cases same : q = p
    · rw [same, State.modMsh_self]
    · rw [State.modMsh_other s _ same]

/-- The jobs that need a LUN, with their plots. -/
def jobsHurt (s : State) (l : LaneId) (ce lun : Nat) : List (PlotId × BitVec 16) :=
  allPlots.flatMap fun q => (jobsNeeding s q l ce lun).map fun i => (q, i)

theorem mem_jobsHurt {s : State} {q : PlotId} {l : LaneId} {ce lun : Nat} {i : BitVec 16} (need : i ∈ jobsNeeding s q l ce lun) :
    (q, i) ∈ jobsHurt s l ce lun :=
  List.mem_flatMap.2 ⟨q, mem_allPlots q, List.mem_map.2 ⟨i, need, rfl⟩⟩

/-- A lane with a LUN marked suspect: the LUN's commands go. -/
def FlashLane.suspected (ce lun : Nat) (x : FlashLane) : FlashLane := { x with
  suspect := setBit x.suspect (lunBit ce lun) true, ops := x.ops.filter fun o => !(o.ce == ce && o.lun == lun) }

/-- The state with a LUN marked, FLASH raised and the LUN's page-ins given up, before its jobs fault. -/
def lunMarked (s : State) (l : LaneId) (ce lun : Nat) : State :=
  ((s.modLaneOf l (FlashLane.suspected ce lun)).raisePf 10).eachPlot allPlots (dropPageIns l ce lun)

theorem markSuspect_eq {s : State} {l : LaneId} {ce lun : Nat} (kind : Nat) (trusted : (s.lane l).suspect.getLsbD (lunBit ce lun) = false) :
    markSuspect s l ce lun kind = ((jobsHurt s l ce lun).foldl (flashFaults (laneNode l)) (lunMarked s l ce lun)).logLine
      0x50 noPlot (some (laneNode l)) (32 * l.val + 8 * ce + lun) kind :=
  if_neg (by rw [trusted]; exact Bool.false_ne_true)

section Marked

variable (s : State) (l : LaneId) (ce lun : Nat)

theorem lunMarked_rest : LanesAsWere ((s.modLaneOf l (FlashLane.suspected ce lun)).raisePf 10) (lunMarked s l ce lun) :=
  eachDropPageIns_rest ..

theorem lunMarked_lanes : (lunMarked s l ce lun).lanes = (s.modLaneOf l (FlashLane.suspected ce lun)).lanes :=
  (lunMarked_rest s l ce lun).lanes.trans (State.raisePf_keeps (P := fun _ => false) 10 (Keeps.refl _) (Covers.refl _)).lanes_eq

theorem lunMarked_lane : (lunMarked s l ce lun).lane l = (s.lane l).suspected ce lun := by
  rw [← State.modLaneOf_self s l (FlashLane.suspected ce lun)]
  unfold State.lane
  rw [lunMarked_lanes]

theorem lunMarked_lane_other {k : LaneId} (other : k ≠ l) : (lunMarked s l ce lun).lane k = s.lane k := by
  rw [← State.modLaneOf_other s (FlashLane.suspected ce lun) other]
  unfold State.lane
  rw [lunMarked_lanes]

theorem lunMarked_boot : (lunMarked s l ce lun).boot = s.boot :=
  (lunMarked_rest s l ce lun).boot.trans (State.raisePf_keeps (P := fun _ => false) 10 (Keeps.refl _) (Covers.refl _)).boot_eq

theorem lunMarked_plt (q : PlotId) : ((lunMarked s l ce lun).plot q).plt = (s.plot q).plt := by
  unfold lunMarked
  rw [eachDropPageIns_plt, plot_of_plots_eq (State.raisePf_plots _ 10)]
  rfl

theorem lunMarked_irq : (lunMarked s l ce lun).pf.irqStatus.getLsbD 10 = true := by
  rw [(lunMarked_rest s l ce lun).pf]
  exact State.raisePf_irq_self _ 10

theorem lunMarked_prefix : s.out <+: (lunMarked s l ce lun).out := by
  rw [(lunMarked_rest s l ce lun).out]
  exact (State.raisePf_onlyMessages (s.modLaneOf l (FlashLane.suspected ce lun)) 10).prefix

end Marked

/-- What a LUN that is marked keeps: counters of the lane, and what had left the device. -/
structure LaneKept (l : LaneId) (s t : State) : Prop where
  pfail : (t.lane l).pfail = (s.lane l).pfail
  out : s.out <+: t.out

section Suspect

variable {s : State} {l : LaneId} {ce lun : Nat} (kind : Nat) (inRange : lunBit ce lun < 32)
  (trusted : (s.lane l).suspect.getLsbD (lunBit ce lun) = false)

include trusted

theorem markSuspect_drop : LanesDrop (lunMarked s l ce lun) (markSuspect s l ce lun kind) := by
  rw [markSuspect_eq kind trusted]
  exact (flashFaults_drop (laneNode l) (jobsHurt s l ce lun) _).trans (.of_lanes (State.logLine_lanes ..))

theorem markSuspect_kept : LaneKept l s (markSuspect s l ce lun kind) where
  pfail := by
    rw [(markSuspect_drop kind trusted).lane, lunMarked_lane]
    rfl
  out := by
    rw [markSuspect_eq kind trusted]
    exact (lunMarked_prefix s l ce lun).trans
      ((flashFaults_prefix ..).trans (State.logLine_onlyMessages ..).prefix)

theorem markSuspect_boot : (markSuspect s l ce lun kind).boot = s.boot := by
  rw [markSuspect_eq kind trusted]
  exact (State.logLine_keeps (P := fun _ => false) (Keeps.refl _) _ _ _ _ _ (Covers.refl _)).boot_eq.trans
    ((flashFaults_boot ..).trans (lunMarked_boot ..))

/-- A running job that needs the LUN ends its attempt with FLASH at the lane. -/
theorem markSuspect_faults {q : PlotId} {j : Job} (running : runs s q j) (need : j.idx ∈ jobsNeeding s q l ce lun) :
    ((markSuspect s l ce lun kind).plot q).plt.job? j.idx = some (j.abandoned .flash (some (laneNode l)) s.boot.tclk) := by
  have still : runs (lunMarked s l ce lun) q j := by
    unfold runs
    rw [lunMarked_plt]
    exact running
  have faults := flashFaults_faults (laneNode l) (jobsHurt s l ce lun) still (mem_jobsHurt need)
  rw [lunMarked_boot] at faults
  rw [markSuspect_eq kind trusted, State.logLine_plot]
  exact faults

include inRange

theorem markSuspect_suspect : becomesSuspect s (markSuspect s l ce lun kind) l ce lun kind := by
  have drop := markSuspect_drop kind trusted
  refine ⟨?_, fun o mem => ?_, fun k other => ?_, ?_, ?_, fun q j running need => ?_⟩
  · rw [drop.lane, lunMarked_lane]
    exact getLsbD_setBit_self _ inRange
  · have left := drop.ops l o mem
    rw [lunMarked_lane] at left
    have kept := (List.mem_filter.1 left).2
    rintro ⟨rfl, rfl⟩
    simp at kept
  · rw [drop.lane, lunMarked_lane_other s l ce lun other]
  · rw [markSuspect_eq kind trusted]
    exact State.logLine_irq_of _ _ _ _ _ _ _ (flashFaults_irq _ _ _ _ (lunMarked_irq ..))
  · rw [markSuspect_eq kind trusted]
    exact ⟨_, State.logLine_head .., rfl, rfl, rfl⟩
  · rw [markSuspect_boot kind trusted]
    exact markSuspect_faults kind trusted running need

end Suspect

end Sys2Proof.Machine

end


section

/-! PROOFS about flash lanes coming up, failed reads, and the ends of programs and erases (R234, R235, R259 to R262). -/

namespace Sys2Proof.Machine

open Sys2Proof

theorem LaneIssues.mem {l : LaneId} {s t : State} (h : LaneIssues l s t) : t.mem = s.mem := h.rest ▸ rfl

theorem LaneIssues.plots {l : LaneId} {s t : State} (h : LaneIssues l s t) : t.plots = s.plots := h.rest ▸ rfl

/-! ### Bits of a lane's LUNs -/

theorem getLsbD_setBit_clear {w : Nat} (x : BitVec w) (i : Nat) : (setBit x i false).getLsbD i = false := by
  simp only [setBit, Bool.false_eq_true, if_false, BitVec.getLsbD_and, BitVec.getLsbD_not, BitVec.getLsbD_ofNat,
    Nat.testBit_two_pow_self]
  by_cases h : i < w <;> simp [h]

theorem getLsbD_setBit_clear_other {w : Nat} (x : BitVec w) {i k : Nat} (other : k ≠ i) :
    (setBit x i false).getLsbD k = x.getLsbD k := by
  simp only [setBit, Bool.false_eq_true, if_false, BitVec.getLsbD_and, BitVec.getLsbD_not, BitVec.getLsbD_ofNat,
    Nat.testBit_two_pow_of_ne (Ne.symm other)]
  by_cases h : k < w
  · simp [h]
  · simp [h, BitVec.getLsbD_of_ge x k (Nat.le_of_not_lt h)]

theorem lunBit_lt (ce : Fin 4) (lun : Fin 8) : lunBit ce.val lun.val < 32 := by
  unfold lunBit
  omega

theorem suspectAt_eq (s : State) (l : LaneId) (ce lun block page : Nat) :
    s.suspectAt ⟨l.val, ce, lun, block, page⟩ = (s.lane l).suspect.getLsbD (lunBit ce lun) := by
  unfold State.suspectAt
  rw [mkLane_val]

/-! ### A lane's counters -/

/-- From `s` to `u` a lane counted: its commands, its suspect LUNs, the other lanes, the plots and the image are the same. -/
structure LaneCounts (l : LaneId) (s u : State) : Prop where
  lanes : ∀ k : LaneId, (u.lane k).suspect = (s.lane k).suspect
  ops : (u.lane l).ops = (s.lane l).ops
  plots : u.plots = s.plots
  cfg : u.cfg = s.cfg

theorem LaneCounts.modLaneOf (s : State) {l : LaneId} {f : FlashLane → FlashLane} (suspect : (f (s.lane l)).suspect = (s.lane l).suspect)
    (ops : (f (s.lane l)).ops = (s.lane l).ops) : LaneCounts l s (s.modLaneOf l f) where
  lanes k := by
    by_cases same : k = l
    · rw [same, State.modLaneOf_self, suspect]
    · rw [State.modLaneOf_other s f same]
  ops := by rw [State.modLaneOf_self, ops]
  plots := rfl
  cfg := rfl

theorem LaneCounts.runs_iff {l : LaneId} {s u : State} (h : LaneCounts l s u) {q : PlotId} {j : Job} : runs s q j → runs u q j := by
  unfold runs
  rw [plot_of_plots_eq h.plots]
  exact id

theorem LaneCounts.jobsNeeding_eq {l : LaneId} {s u : State} (h : LaneCounts l s u) (q : PlotId) (ce lun : Nat) :
    jobsNeeding u q l ce lun = jobsNeeding s q l ce lun := by
  unfold jobsNeeding
  rw [plot_of_plots_eq h.plots, h.ops, h.cfg]

theorem LaneCounts.suspects {l : LaneId} {s u t : State} (h : LaneCounts l s u) {ce lun kind : Nat}
    (suspected : becomesSuspect u t l ce lun kind) : becomesSuspect s t l ce lun kind := by
  obtain ⟨mark, gone, others, raised, line, jobs⟩ := suspected
  refine ⟨mark, gone, fun k other => (others k other).trans (h.lanes k), raised, line, fun q j running need => ?_⟩
  rw [← h.jobsNeeding_eq] at need
  exact jobs q j (h.runs_iff running) need

/-- A LUN becomes suspect after its lane counted. -/
theorem LaneCounts.marks {l : LaneId} {s u : State} (h : LaneCounts l s u) (ce : Fin 4) (lun : Fin 8) (kind : Nat)
    (trusted : (s.lane l).suspect.getLsbD (lunBit ce.val lun.val) = false) :
    becomesSuspect s (markSuspect u l ce.val lun.val kind) l ce.val lun.val kind :=
  h.suspects (markSuspect_suspect kind (lunBit_lt ce lun) (by rw [h.lanes]; exact trusted))

/-- The failures of a lane's programs, erases and initialisations count. -/
def countFailure (x : FlashLane) : FlashLane := { x with pfail := satInc x.pfail }

theorem countFailure_counts (s : State) (l : LaneId) : LaneCounts l s (s.modLaneOf l countFailure) := .modLaneOf s rfl rfl

/-- A LUN fails: the failure counts and the LUN becomes suspect. -/
theorem lunFails {s : State} {l : LaneId} {ce : Fin 4} {lun : Fin 8} (kind : Nat)
    (trusted : s.suspectAt ⟨l.val, ce.val, lun.val, 0, 0⟩ = false) :
    let t := markSuspect (s.modLaneOf l countFailure) l ce.val lun.val kind
    becomesSuspect s t l ce.val lun.val kind ∧ (t.lane l).pfail = satInc (s.lane l).pfail := by
  rw [suspectAt_eq] at trusted
  have counts := countFailure_counts s l
  refine ⟨counts.marks ce lun kind trusted, ?_⟩
  rw [(markSuspect_kept kind (by rw [counts.lanes]; exact trusted)).pfail, State.modLaneOf_self]
  rfl

/-! ### Lanes coming up (R234, R260, R261) -/

theorem laneReady_ready {s : State} {l : LaneId} (init : (s.lane l).state = .init) :
    ((laneReady s l).lane l).state = .ready ∧ ((laneReady s l).lane l).suspect = (s.lane l).suspect ∧
    (∀ k : LaneId, k ≠ l → (laneReady s l).lane k = s.lane k) ∧ (laneReady s l).mem = s.mem := by
  obtain ⟨u, up⟩ : ∃ u, u = s.modLaneOf l fun x => { x with state := .ready } := ⟨_, rfl⟩
  have ready : laneReady s l = issueLane (u.eachPlot allPlots fun s q => startPageIns s q l) l :=
    (if_neg (by rw [init]; exact Bool.false_ne_true)).trans (by rw [up])
  have issues := issueLane_issues (u.eachPlot allPlots fun s q => startPageIns s q l) l
  have moves : LaneMoves l u (laneReady s l) := by
    rw [ready]
    exact (eachStartPageIns_moves ..).trans issues.moves
  have lane : u.lane l = { s.lane l with state := .ready } := by rw [up, State.modLaneOf_self]
  refine ⟨?_, ?_, fun k other => ?_, ?_⟩
  · rw [moves.lane, lane]
  · rw [moves.lane, lane]
  · rw [moves.others k other, up, State.modLaneOf_other s _ other]
  · rw [ready, issues.mem, eachStartPageIns_mem, up]
    rfl

theorem lunCleared_serves {s : State} {l : LaneId} {ce lun : Nat} (clearing : (s.lane l).clearing.getLsbD (lunBit ce lun) = true) :
    let t := lunCleared s l ce lun
    (t.lane l).suspect.getLsbD (lunBit ce lun) = false ∧ (t.lane l).clearing.getLsbD (lunBit ce lun) = false ∧
    (∀ i, i ≠ lunBit ce lun → (t.lane l).suspect.getLsbD i = (s.lane l).suspect.getLsbD i) ∧
    (∀ k : LaneId, k ≠ l → t.lane k = s.lane k) ∧ t = { s with lanes := t.lanes, out := t.out } := by
  intro t
  obtain ⟨u, up⟩ : ∃ u, u = s.modLaneOf l fun x => { x with
    clearing := setBit x.clearing (lunBit ce lun) false, suspect := setBit x.suspect (lunBit ce lun) false } := ⟨_, rfl⟩
  have issues : LaneIssues l u t := by
    rw [show t = issueLane u l from (if_pos clearing).trans (by rw [up])]
    exact issueLane_issues u l
  have suspect : (t.lane l).suspect = setBit (s.lane l).suspect (lunBit ce lun) false := by
    rw [issues.moves.lane, up, State.modLaneOf_self]
  refine ⟨?_, ?_, fun i other => ?_, fun k other => ?_, ?_⟩
  · rw [suspect]
    exact getLsbD_setBit_clear ..
  · rw [issues.moves.lane, up, State.modLaneOf_self]
    exact getLsbD_setBit_clear ..
  · rw [suspect]
    exact getLsbD_setBit_clear_other _ other
  · rw [issues.moves.others k other, up, State.modLaneOf_other s _ other]
  · rw [issues.rest, up]
    rfl

/-- RESET, the channel's features and the calibration, as they leave for a LUN. -/
def setupCommands (ch : Chan) (l : LaneId) (ce lun : Nat) : List OutEvent :=
  ([(0xFF, []), (0xEF, [1, ch.featTiming]), (0xEF, [2, ch.featDdr3]), (0xEF, [0x10, ch.featDrive]), (0xF9, [])] :
    List (Nat × List Nat)).map fun c => .flashCommand l.val ce lun c.1 c.2

theorem setupLun_eq (s : State) (l : LaneId) (ce lun : Nat) :
    setupLun s l ce lun = { s with out := s.out ++ setupCommands (s.cfg.content.chan l.val) l ce lun } := by
  simp [setupLun, State.emit, setupCommands]

theorem lunClear_begins {s : State} {l : LaneId} (ce : Fin 4) (lun : Fin 8)
    (suspect : (s.lane l).suspect.getLsbD (lunBit ce.val lun.val) = true) :
    let t := lunClear s l ce.val lun.val
    (t.lane l).clearing.getLsbD (lunBit ce.val lun.val) = true ∧ (t.lane l).suspect = (s.lane l).suspect ∧
    t.out = s.out ++ setupCommands (s.cfg.content.chan l.val) l ce.val lun.val ∧
    (∀ k : LaneId, k ≠ l → t.lane k = s.lane k) ∧ t = { s with lanes := t.lanes, out := t.out } := by
  intro t
  obtain ⟨f, clear⟩ : ∃ f : FlashLane → FlashLane, f = fun x => { x with
    clearing := setBit x.clearing (lunBit ce.val lun.val) true } := ⟨_, rfl⟩
  have set : t = { s.modLaneOf l f with out := s.out ++ setupCommands (s.cfg.content.chan l.val) l ce.val lun.val } :=
    (if_pos suspect).trans ((setupLun_eq ..).trans (by rw [clear]; rfl))
  have lane (k : LaneId) : t.lane k = (s.modLaneOf l f).lane k := by rw [set]; rfl
  refine ⟨?_, ?_, by rw [set], fun k other => ?_, by rw [set]; rfl⟩
  · rw [lane, State.modLaneOf_self, clear]
    exact getLsbD_setBit_self _ (lunBit_lt ce lun)
  · rw [lane, State.modLaneOf_self, clear]
  · rw [lane, State.modLaneOf_other s f other]

theorem lanesComeUp_holds : lanesComeUp := by
  intro s l ce lun ch
  refine ⟨fun init => ⟨_, rfl, laneReady_ready init⟩, fun idle => ⟨_, rfl, if_pos (by simpa using idle)⟩,
    fun init has trusted => ⟨_, rfl, ?_⟩, fun served suspect => ⟨_, rfl, ?_⟩, fun served trusted => ⟨_, rfl, ?_⟩,
    fun clearing => ⟨_, rfl, lunCleared_serves clearing⟩, fun calm => ⟨_, rfl, if_neg (by rw [lunBit, calm]; exact Bool.false_ne_true)⟩⟩
  · rw [show lunInitFailed s l ce.val lun.val = markSuspect (s.modLaneOf l countFailure) l ce.val lun.val 4 from
      if_neg (by rw [init, has]; exact Bool.false_ne_true)]
    exact lunFails 4 trusted
  · rw [hostGate_ok _ served]
    exact lunClear_begins (s := { s with resp := {} }) ce lun suspect
  · rw [hostGate_ok _ served]
    exact if_neg fun suspect => absurd (trusted.symm.trans suspect) Bool.false_ne_true

/-! ### Failed reads (R235, R259, R262) -/

/-- A counting of a lane: its commands, its suspect LUNs and its repeated reads stay. -/
structure Counting (f : FlashLane → FlashLane) : Prop where
  retry : ∀ x : FlashLane, (f x).retry = x.retry
  ops : ∀ x : FlashLane, (f x).ops = x.ops
  suspect : ∀ x : FlashLane, (f x).suspect = x.suspect

theorem Counting.counts {f : FlashLane → FlashLane} (h : Counting f) (s : State) (l : LaneId) : LaneCounts l s (s.modLaneOf l f) :=
  .modLaneOf s (h.suspect _) (h.ops _)

/-- What needs a flash page does not depend on the lanes. -/
theorem pageNeeded_modLaneOf (s : State) (l : LaneId) (f : FlashLane → FlashLane) (a : FlashPlace) :
    pageNeeded (s.modLaneOf l f) a = pageNeeded s a := rfl

/-- The read of a command is under way at its place. -/
theorem reading?_event {x : FlashLane} {a : FlashPlace} {o : FlashOp} (found : x.reading? a = some o) (c : Content) (l : LaneId) :
    opEvent c l o = .flashRead l.val a.ce a.lun a.block a.page := by
  have hit := List.find?_some found
  simp only [Bool.and_eq_true, beq_iff_eq] at hit
  obtain ⟨⟨⟨⟨⟨kind, -⟩, ce⟩, lun⟩, block⟩, page⟩ := hit
  unfold opEvent
  rw [kind, ce, lun, block, page]

/-- A read is tried again: it is counted, and leaves for its LUN once more. -/
def ReadAgain (s : State) (l : LaneId) (o : FlashOp) (a : FlashPlace) (t : State) : Prop :=
  (t.lane l).retry = satInc (s.lane l).retry ∧
  (t.lane l).ops = (s.lane l).ops.map (fun p => if p = o then { p with tries := p.tries + 1 } else p) ∧
  (t.lane l).suspect = (s.lane l).suspect ∧ t.out = s.out ++ [.flashRead l.val a.ce a.lun a.block a.page] ∧ t.plots = s.plots

section Failed

variable {s : State} {l : LaneId} {o : FlashOp} {a : FlashPlace} {f : FlashLane → FlashLane}

/-- The lane of a read that is tried again. -/
def readTried (o : FlashOp) (x : FlashLane) : FlashLane := { x with
  retry := satInc x.retry, ops := x.ops.map fun p => if p = o then { p with tries := p.tries + 1 } else p }

theorem readFailed_repeats (needed : pageNeeded s a = true) (few : o.tries < 3) :
    readFailed s l o a = (s.modLaneOf l (readTried o)).emit (opEvent s.cfg.content l o) :=
  (if_neg (by rw [needed]; exact Bool.false_ne_true)).trans (if_pos few)

theorem readFailed_again (counting : Counting f) (found : (s.lane l).reading? a = some o) (needed : pageNeeded s a = true)
    (few : o.tries < 3) : ReadAgain s l o a (readFailed (s.modLaneOf l f) l o a) ∧
      (readFailed (s.modLaneOf l f) l o a).lane l = readTried o (f (s.lane l)) := by
  have tried : readFailed (s.modLaneOf l f) l o a = _ := readFailed_repeats (s := s.modLaneOf l f) needed few
  rw [reading?_event found] at tried
  have lane : (readFailed (s.modLaneOf l f) l o a).lane l = readTried o (f (s.lane l)) := by
    rw [tried, State.emit_lane, State.modLaneOf_self, State.modLaneOf_self]
  refine ⟨⟨?_, ?_, ?_, by rw [tried]; rfl, by rw [tried]; rfl⟩, lane⟩
  · rw [lane, ← counting.retry (s.lane l)]
    rfl
  · rw [lane, ← counting.ops (s.lane l)]
    rfl
  · rw [lane, ← counting.suspect (s.lane l)]
    rfl

/-- A read that nothing needs any more is dropped, and the lane goes on. -/
theorem readFailed_dropped (idle : pageNeeded s a = false) :
    LaneMoves l s (readFailed s l o a) ∧ (readFailed s l o a).plots = s.plots := by
  have issues := issueLane_issues (dropRead s l o) l
  have drops : LaneMoves l s (dropRead s l o) := .of_set rfl rfl
  rw [show readFailed s l o a = issueLane (dropRead s l o) l from if_pos (by rw [idle]; rfl)]
  exact ⟨drops.trans issues.moves, issues.plots⟩

theorem readFailed_suspects {ce : Fin 4} {lun : Fin 8} {block page : Nat} (counting : Counting f)
    (needed : pageNeeded s ⟨l.val, ce.val, lun.val, block, page⟩ = true) (many : 3 ≤ o.tries)
    (trusted : s.suspectAt ⟨l.val, ce.val, lun.val, block, page⟩ = false) :
    becomesSuspect s (readFailed (s.modLaneOf l f) l o ⟨l.val, ce.val, lun.val, block, page⟩) l ce.val lun.val 1 := by
  rw [suspectAt_eq] at trusted
  rw [show readFailed (s.modLaneOf l f) l o _ = markSuspect (s.modLaneOf l f) l ce.val lun.val 1 from
    (if_neg (by rw [pageNeeded_modLaneOf, needed]; exact Bool.false_ne_true)).trans (if_neg (Nat.not_lt.2 many))]
  exact (counting.counts s l).marks ce lun 1 trusted

end Failed

theorem countFail_counting : Counting fun x => { x with uncorr := satInc x.uncorr } := ⟨fun _ => rfl, fun _ => rfl, fun _ => rfl⟩

theorem countReady_counting : Counting fun x => { x with rb := satInc x.rb } := ⟨fun _ => rfl, fun _ => rfl, fun _ => rfl⟩

theorem countTimeout_counting : Counting fun x => { x with timeout := satInc x.timeout } := ⟨fun _ => rfl, fun _ => rfl, fun _ => rfl⟩

/-- A page's data counts: weak codewords, and the uncorrectable ones. -/
def countCodewords (weak bad : Nat) (x : FlashLane) : FlashLane := { x with weak := satAdd x.weak weak, uncorr := satAdd x.uncorr bad }

theorem countCodewords_counting (weak bad : Nat) : Counting (countCodewords weak bad) := ⟨fun _ => rfl, fun _ => rfl, fun _ => rfl⟩

/-- The number of the codewords wanted that are not given or uncorrectable. -/
def codewordsBad (want : List Nat) (cws : List Codeword) : Nat :=
  ((want.filterMap fun k => cws[k]?).filter fun c => (Codeword.bytes? c).isNone).length +
    (want.length - (want.filterMap fun k => cws[k]?).length)

theorem codewordsBad_ne_zero {want : List Nat} {cws : List Codeword} {k : Nat} (wanted : k ∈ want)
    (bad : ∀ c, cws[k]? = some c → Codeword.bytes? c = none) : codewordsBad want cws ≠ 0 := by
  intro none
  obtain ⟨clean, all⟩ := Nat.add_eq_zero_iff.1 none
  have given := List.filterMap_length_eq_length.1 (Nat.le_antisymm (List.length_filterMap_le ..) (Nat.sub_eq_zero_iff_le.1 all)) k wanted
  obtain ⟨c, hit⟩ := Option.isSome_iff_exists.1 given
  have spoilt : c ∈ (want.filterMap fun k => cws[k]?).filter fun c => (Codeword.bytes? c).isNone :=
    List.mem_filter.2 ⟨List.mem_filterMap.2 ⟨k, wanted, hit⟩, by rw [bad c hit]; rfl⟩
  rw [List.length_eq_zero_iff.1 clean] at spoilt
  contradiction

theorem failedReadsRepeat_holds : failedReadsRepeat := by
  intro s l ce lun block page a
  refine ⟨fun none r => ?_, fun o found => ?_⟩
  · refine ⟨⟨_, rfl, ?_⟩, ⟨_, rfl, ?_⟩⟩
    · show pageReady s l ce.val lun.val block page r = s
      unfold pageReady
      dsimp only
      rw [show (s.lane l).reading? _ = Option.none from none]
    · show readTimeout s l ce.val lun.val block page = s
      unfold readTimeout
      dsimp only
      rw [show (s.lane l).reading? _ = Option.none from none]
  have fails : pageReady s l ce.val lun.val block page .fail =
      readFailed (s.modLaneOf l fun x => { x with uncorr := satInc x.uncorr }) l o a := by
    unfold pageReady
    dsimp only
    rw [show (s.lane l).reading? _ = some o from found]
  have readies : pageReady s l ce.val lun.val block page .readyBusy =
      readFailed (s.modLaneOf l fun x => { x with rb := satInc x.rb }) l o a := by
    unfold pageReady
    dsimp only
    rw [show (s.lane l).reading? _ = some o from found]
  have times : readTimeout s l ce.val lun.val block page =
      readFailed (s.modLaneOf l fun x => { x with timeout := satInc x.timeout }) l o a := by
    unfold readTimeout
    dsimp only
    rw [show (s.lane l).reading? _ = some o from found]
  intro again
  refine ⟨fun idle => ⟨_, rfl, ?_⟩, fun needed few => ⟨⟨_, rfl, ?_⟩, ⟨_, rfl, ?_⟩, ⟨_, rfl, ?_⟩⟩,
    fun needed many trusted => ⟨⟨_, rfl, ?_⟩, ⟨_, rfl, ?_⟩⟩, fun cws k wanted bad needed few => ⟨_, rfl, ?_⟩⟩
  · obtain ⟨moves, plots⟩ := readFailed_dropped (s := s.modLaneOf l fun x => { x with timeout := satInc x.timeout }) (l := l) (o := o) idle
    rw [times]
    rw [moves.lane, State.modLaneOf_self]
    exact ⟨rfl, rfl, rfl, plots⟩
  · rw [fails]
    obtain ⟨tried, lane⟩ := readFailed_again countFail_counting found needed few
    exact ⟨tried, by rw [lane]; rfl⟩
  · rw [readies]
    obtain ⟨tried, lane⟩ := readFailed_again countReady_counting found needed few
    exact ⟨tried, by rw [lane]; rfl⟩
  · rw [times]
    obtain ⟨tried, lane⟩ := readFailed_again countTimeout_counting found needed few
    exact ⟨tried, by rw [lane]; rfl⟩
  · rw [fails]
    exact readFailed_suspects countFail_counting needed many trusted
  · rw [times]
    exact readFailed_suspects countTimeout_counting needed many trusted
  · obtain ⟨tried, lane⟩ := readFailed_again (countCodewords_counting
      (((wantedCodewords s a (s.cfg.content.chan l.val).cw).filterMap fun k => cws[k]?).filter
        fun c => codewordWeak c (s.cfg.content.chan l.val).eccWarn).length
      (codewordsBad (wantedCodewords s a (s.cfg.content.chan l.val).cw) cws)) found needed few
    have reads : pageReady s l ce.val lun.val block page (.page cws) = pageRead s l o a cws := by
      unfold pageReady
      dsimp only
      rw [show (s.lane l).reading? _ = some o from found]
    rw [reads, show pageRead s l o a cws = _ from if_pos (codewordsBad_ne_zero wanted bad)]
    exact ⟨tried, (congrArg FlashLane.weak lane).trans rfl⟩

/-! ### Programs and erases end (R260, R261) -/

theorem programming_op {x : FlashLane} {ce lun : Nat} {o : FlashOp} (found : x.programming ce lun = some o) :
    o ∈ x.ops ∧ (o.kind != .read) = true := by
  obtain ⟨p, hit, kept⟩ := Option.bind_eq_some_iff.1 found
  split at kept
  case isTrue => contradiction
  case isFalse write =>
    obtain rfl := Option.some.inj kept
    exact ⟨List.mem_of_find?_eq_some hit, by rw [bne, eq_false_of_ne_true write]; rfl⟩

/-- A command that is a program or an erase, taken from a lane's commands, is one of its writes. -/
theorem filter_erase_length {p : FlashOp → Bool} {ops : List FlashOp} {o : FlashOp} (mem : o ∈ ops) (hit : p o = true) :
    ((ops.erase o).filter p).length + 1 = (ops.filter p).length := by
  rw [((List.perm_cons_erase mem).filter p).length_eq, List.filter_cons_of_pos hit, List.length_cons]

/-- A lane counts the program or erase that has ended, and drops it. -/
def writeEnded (o : FlashOp) (x : FlashLane) : FlashLane := { x with
  ops := x.ops.erase o, erase := if o.kind == .erase then satInc x.erase else x.erase,
  pgBytes := if o.kind == .erase then x.pgBytes else satAdd x.pgBytes o.data.length }

/-- The kind of error of a program or erase that failed. -/
def writeKind (o : FlashOp) : Nat := if o.kind == .erase then 3 else 2

theorem writeKind_eq (o : FlashOp) : writeKind o = if o.kind = .erase then 3 else 2 := by
  unfold writeKind
  simp only [beq_iff_eq]

section Writes

variable {s : State} {l : LaneId} {ce lun : Nat} {o : FlashOp} (found : (s.lane l).programming ce lun = some o)

include found

theorem opComplete_fails : opComplete s l ce lun true = markSuspect (s.modLaneOf l countFailure) l ce lun (writeKind o) := by
  unfold opComplete
  rw [found]
  exact if_pos rfl

theorem opTimeout_resets : opTimeout s l ce lun =
    markSuspect ((s.modLaneOf l countFailure).emit (.flashCommand l.val ce lun 0xFF [])) l ce lun (writeKind o) := by
  unfold opTimeout
  rw [found]
  rfl

theorem opComplete_ends : opComplete s l ce lun false = issueLane (s.modLaneOf l (writeEnded o)) l := by
  unfold opComplete
  rw [found]
  exact if_neg Bool.false_ne_true

theorem opComplete_counts :
    let t := opComplete s l ce lun false
    ((t.lane l).ops.filter (fun p => p.kind != .read)).length + 1 = ((s.lane l).ops.filter (fun p => p.kind != .read)).length ∧
    (t.lane l).erase = (if o.kind = .erase then satInc (s.lane l).erase else (s.lane l).erase) ∧
    (t.lane l).pgBytes = (if o.kind = .erase then (s.lane l).pgBytes else satAdd (s.lane l).pgBytes o.data.length) ∧
    (t.lane l).suspect = (s.lane l).suspect ∧ (∀ k : LaneId, k ≠ l → t.lane k = s.lane k) ∧ t.plots = s.plots := by
  intro t
  obtain ⟨mem, write⟩ := programming_op found
  have issues : LaneIssues l (s.modLaneOf l (writeEnded o)) t := by
    rw [show t = _ from opComplete_ends found]
    exact issueLane_issues ..
  have writes := issues.writes
  have lane := issues.moves.lane
  rw [State.modLaneOf_self] at writes lane
  refine ⟨?_, ?_, ?_, ?_, fun k other => ?_, issues.plots⟩
  · exact (congrArg (· + 1) writes).trans (filter_erase_length mem write)
  · rw [lane]
    simp only [writeEnded, beq_iff_eq]
  · rw [lane]
    simp only [writeEnded, beq_iff_eq]
  · rw [lane]
    rfl
  · rw [issues.moves.others k other, State.modLaneOf_other s _ other]

end Writes

/-- What leaves for a LUN before it becomes suspect is the next to leave the device. -/
theorem LaneKept.next {l : LaneId} {s t : State} {e : OutEvent} (h : LaneKept l (s.emit e) t) : t.out[s.out.length]? = some e := by
  obtain ⟨rest, out⟩ := h.out
  rw [← out]
  show ((s.out ++ [e]) ++ rest)[s.out.length]? = some e
  rw [List.append_assoc, List.getElem?_append_right (Nat.le_refl _), Nat.sub_self]
  rfl

theorem programsEnd_holds : programsEnd := by
  intro s l ce lun
  refine ⟨fun none bad => ⟨⟨_, rfl, ?_⟩, ⟨_, rfl, ?_⟩⟩, fun o found => ⟨⟨_, rfl, opComplete_counts found⟩,
    fun trusted => ⟨⟨_, rfl, ?_⟩, ⟨_, rfl, ?_⟩⟩⟩⟩
  · show opComplete s l ce.val lun.val bad = s
    unfold opComplete
    rw [none]
  · show opTimeout s l ce.val lun.val = s
    unfold opTimeout
    rw [none]
  · rw [opComplete_fails found, ← writeKind_eq]
    exact lunFails (writeKind o) trusted
  · rw [opTimeout_resets found, ← writeKind_eq]
    rw [suspectAt_eq] at trusted
    have counts : LaneCounts l s ((s.modLaneOf l countFailure).emit (.flashCommand l.val ce.val lun.val 0xFF [])) :=
      ⟨(countFailure_counts s l).lanes, (countFailure_counts s l).ops, rfl, rfl⟩
    have kept := markSuspect_kept (writeKind o) (by rw [counts.lanes]; exact trusted)
    refine ⟨counts.marks ce lun (writeKind o) trusted, ?_, kept.next⟩
    rw [kept.pfail, State.emit_lane, State.modLaneOf_self]
    rfl

/-- Settles O52: a lane's commands move its commands and schedulers alone; a LUN that is not in time, a read that fails for the
fourth time and a failed program or erase are marked by one operation, whose faults reach every running job that needs the LUN. -/
theorem flashLanes : Obligations.FlashLanes := ⟨lanesComeUp_holds, failedReadsRepeat_holds, programsEnd_holds⟩

end Sys2Proof.Machine

end


section

/-! PROOFS about what the commands of a commit window and of a tick leave alone: the window's clock, every plot's registers, and the
jobs of the plots, of which none starts a frame program anew. -/

namespace Sys2Proof.Machine

open Sys2Proof

/-! ### The frame, the registers and the jobs -/

/-- The counts of the frame and what belongs to its window. -/
def FrmState.clock (f : FrmState) := (f.tickAt, f.count, f.opened, f.commitEnd, f.rotation, f.holdoffOvr, f.holdoffCnt)

/-- Plot 0's registers: committed, shadow, and the snapshot of the window. -/
def FrmState.regs (f : FrmState) := (f.rws, f.shadow, f.snap)

/-- A plot's registers: committed, shadow, the snapshot of the window, and the commits it was refused. -/
def Plot.regs (p : Plot) := (p.rws, p.shadow, p.snap, p.cfg.prefuse)

/-- `k` is the job `j`, in the same phase or out of its frame programs. -/
structure Job.Follows (j k : Job) : Prop where
  idx : k.idx = j.idx
  passed : k.passed = j.passed
  live : k.live = true → j.live = true
  phase : k.phase = j.phase ∨ k.phase = .abandoning ∨ k.phase = .over

theorem Job.Follows.refl (j : Job) : j.Follows j := ⟨rfl, rfl, id, .inl rfl⟩

theorem Job.Follows.trans {i j k : Job} (h : i.Follows j) (g : j.Follows k) : i.Follows k := by
  refine ⟨g.idx.trans h.idx, g.passed.trans h.passed, h.live ∘ g.live, ?_⟩
  rcases g.phase with same | gone
  · rw [same]
    exact h.phase
  · exact .inr gone

/-- Every job of `m` follows one of `l`. -/
def JobsFollow (l m : List Job) : Prop := ∀ k ∈ m, ∃ j ∈ l, j.Follows k

theorem JobsFollow.refl (l : List Job) : JobsFollow l l := fun k mem => ⟨k, mem, .refl k⟩

theorem JobsFollow.trans {l m n : List Job} (h : JobsFollow l m) (g : JobsFollow m n) : JobsFollow l n := fun k mem => by
  obtain ⟨j, found, later⟩ := g k mem
  obtain ⟨i, first, earlier⟩ := h j found
  exact ⟨i, first, earlier.trans later⟩

theorem JobsFollow.map {l : List Job} {g : Job → Job} (h : ∀ j ∈ l, j.Follows (g j)) : JobsFollow l (l.map g) := fun k mem => by
  obtain ⟨j, found, rfl⟩ := List.mem_map.1 mem
  exact ⟨j, found, h j found⟩

theorem JobsFollow.of_subset {l m : List Job} (h : ∀ k ∈ m, k ∈ l) : JobsFollow l m := fun k mem => ⟨k, h k mem, .refl k⟩

/-- From `s` to `t` the window's clock stands still, and no FRM_EVENT bit falls. -/
structure SameWindow (s t : State) : Prop where
  tclk : t.boot.tclk = s.boot.tclk
  clock : t.frm.clock = s.frm.clock
  event : ∀ i : Nat, s.frm.event.getLsbD i = true → t.frm.event.getLsbD i = true

theorem SameWindow.refl (s : State) : SameWindow s s := ⟨rfl, rfl, fun _ => id⟩

theorem SameWindow.trans {a b c : State} (h : SameWindow a b) (k : SameWindow b c) : SameWindow a c :=
  ⟨k.tclk.trans h.tclk, k.clock.trans h.clock, fun i => k.event i ∘ h.event i⟩

/-- From `s` to `t` the window's clock, the registers of every plot and the committed image stay. -/
structure SameRegs (s t : State) : Prop extends SameWindow s t where
  dev : t.frm.regs = s.frm.regs
  plots : ∀ q : PlotId, (t.plot q).regs = (s.plot q).regs
  content : t.cfg.content = s.cfg.content

theorem SameRegs.refl (s : State) : SameRegs s s := ⟨.refl s, rfl, fun _ => rfl, rfl⟩

theorem SameRegs.trans {a b c : State} (h : SameRegs a b) (k : SameRegs b c) : SameRegs a c :=
  ⟨h.toSameWindow.trans k.toSameWindow, k.dev.trans h.dev, fun q => (k.plots q).trans (h.plots q), k.content.trans h.content⟩

/-- From `s` to `t` moreover the jobs follow. -/
structure SameWork (s t : State) : Prop extends SameRegs s t where
  jobs : ∀ q : PlotId, JobsFollow (s.plot q).plt.jobs (t.plot q).plt.jobs

namespace SameWork

theorem refl (s : State) : SameWork s s := ⟨.refl s, fun _ => .refl _⟩

theorem trans {a b c : State} (h : SameWork a b) (k : SameWork b c) : SameWork a c :=
  ⟨h.toSameRegs.trans k.toSameRegs, fun q => (h.jobs q).trans (k.jobs q)⟩

/-- The later change comes first here: the goal's operation is the outermost one. -/
theorem after {a b c : State} (k : SameWork b c) (h : SameWork a b) : SameWork a c := h.trans k

/-- A change outside the clocks, the frame, the plots and the image. -/
theorem of_eq {s t : State} (boot : t.boot = s.boot) (frm : t.frm = s.frm) (content : t.cfg.content = s.cfg.content)
    (plots : t.plots = s.plots) : SameWork s t where
  tclk := by rw [boot]
  clock := by rw [frm]
  event i h := by rw [frm]; exact h
  dev := by rw [frm]
  plots q := by rw [plot_of_plots_eq plots]
  content := content
  jobs q := by rw [plot_of_plots_eq plots]; exact .refl _

theorem of_keeps {w : Nat} {s t : State} (h : Keeps w (fun _ => false) s t) (boot : w.testBit 0 = false := by decide)
    (frm : w.testBit 3 = false := by decide) (cfg : w.testBit 7 = false := by decide) : SameWork s t where
  tclk := by rw [h.boot_eq boot]
  clock := by rw [h.frm_eq frm]
  event i set := by rw [h.frm_eq frm]; exact set
  dev := by rw [h.frm_eq frm]
  plots q := by rw [h.plot_eq (q := q) rfl]
  content := by rw [h.cfg_eq cfg]
  jobs q := by rw [h.plot_eq (q := q) rfl]; exact .refl _

/-- A change of a plot that leaves its registers, and whose jobs follow. -/
theorem modPlot {s : State} {q : PlotId} {f : Plot → Plot} (regs : (f (s.plot q)).regs = (s.plot q).regs)
    (jobs : JobsFollow (s.plot q).plt.jobs (f (s.plot q)).plt.jobs) : SameWork s (s.modPlot q f) where
  tclk := rfl
  clock := rfl
  event _ h := h
  dev := rfl
  content := rfl
  plots p := by
    by_cases same : p = q
    · rw [same, State.modPlot_self, regs]
    · rw [State.modPlot_other s f same]
  jobs p := by
    by_cases same : p = q
    · rw [same, State.modPlot_self]
      exact jobs
    · rw [State.modPlot_other s f same]
      exact .refl _

/-- A change of a plot outside its registers and jobs. -/
theorem ofPlot {s : State} {q : PlotId} {f : Plot → Plot} (regs : (f (s.plot q)).regs = (s.plot q).regs)
    (jobs : (f (s.plot q)).plt.jobs = (s.plot q).plt.jobs) : SameWork s (s.modPlot q f) :=
  .modPlot regs (by rw [jobs]; exact .refl _)

/-- A change of jobs of a number. -/
theorem modJob {s : State} {q : PlotId} {i : BitVec 16} {f : Job → Job} (h : ∀ j : Job, j.live = true → j.Follows (f j)) :
    SameWork s (s.modJob q i f) := by
  unfold State.modJob State.modPlt
  refine .modPlot rfl ?_
  refine JobsFollow.map (g := fun j => if j.idx == i && j.live then f j else j) fun j _ => ?_
  split
  case isTrue hit =>
    rw [Bool.and_eq_true] at hit
    exact h j hit.2
  case isFalse => exact .refl j

/-- A change of the frame outside its clock and registers. -/
theorem modFrm {s : State} {f : FrmState → FrmState} (clock : (f s.frm).clock = s.frm.clock) (regs : (f s.frm).regs = s.frm.regs)
    (event : ∀ i : Nat, s.frm.event.getLsbD i = true → (f s.frm).event.getLsbD i = true) : SameWork s (s.modFrm f) :=
  ⟨⟨⟨rfl, clock, event⟩, regs, fun _ => rfl, rfl⟩, fun _ => .refl _⟩

theorem foldl {α : Type} {f : State → α → State} (h : ∀ s x, SameWork s (f s x)) (l : List α) (s : State) : SameWork s (l.foldl f s) := by
  induction l generalizing s with
  | nil => exact .refl s
  | cons x l ih => exact (h s x).trans (ih _)

end SameWork

/-- A change outside the clocks, the frame, the plots and the image. -/
theorem SameRegs.of_eq {s t : State} (boot : t.boot = s.boot) (frm : t.frm = s.frm) (content : t.cfg.content = s.cfg.content)
    (plots : t.plots = s.plots) : SameRegs s t := (SameWork.of_eq boot frm content plots).toSameRegs

theorem SameRegs.foldl {α : Type} {f : State → α → State} (h : ∀ s x, SameRegs s (f s x)) (l : List α) (s : State) :
    SameRegs s (l.foldl f s) := by
  induction l generalizing s with
  | nil => exact .refl s
  | cons x l ih => exact (h s x).trans (ih _)

theorem SameWindow.foldl {α : Type} {f : State → α → State} (h : ∀ s x, SameWindow s (f s x)) (l : List α) (s : State) :
    SameWindow s (l.foldl f s) := by
  induction l generalizing s with
  | nil => exact .refl s
  | cons x l ih => exact (h s x).trans (ih _)

/-! ### Causes, lines and events -/

theorem State.raisePf_work (s : State) (c : Fin 15) : SameWork s (s.raisePf c) :=
  .of_keeps (State.raisePf_keeps (P := fun _ => false) c (Keeps.refl s) (Covers.refl _))

theorem State.logLine_work (s : State) (code plot : Nat) (node : Option NodeId) (a b : Nat) : SameWork s (s.logLine code plot node a b) :=
  .of_keeps (State.logLine_keeps (P := fun _ => false) (Keeps.refl s) code plot node a b (Covers.refl _))

theorem State.logSuppressed_work (s : State) : SameWork s s.logSuppressed := .of_eq rfl rfl rfl rfl

theorem State.raisePlot_work (s : State) (q : PlotId) (m : BitVec 13) : SameWork s (s.raisePlot q m) := by
  unfold State.raisePlot
  exact SameWork.trans (.ofPlot rfl rfl) (.of_keeps (State.sendVectors_keeps q _ (Keeps.refl _) (Covers.refl _)))

theorem State.frmEvent_work (s : State) (b : Fin 9) : SameWork s (s.frmEvent b) := by
  unfold State.frmEvent
  extract_lets noted raised
  have rises : SameWork s raised :=
    (SameWork.modFrm rfl rfl fun i => getLsbD_setBit_of b.val).trans (State.raisePf_work noted 1)
  split
  · split
    · exact rises.trans raised.logSuppressed_work
    · exact rises.trans (SameWork.trans (.modFrm rfl rfl fun _ => id) (State.logLine_work ..))
  · exact rises

/-! ### Overruns and faults -/

theorem recordOverrun_work (s : State) (q : PlotId) (j : Job) (budget : Bool) : SameWork s (recordOverrun s q j budget) := by
  unfold recordOverrun
  split
  · exact .refl s
  · extract_lets marked counted noted
    have marks : SameWork s marked := .modJob fun k _ => ⟨rfl, rfl, id, .inl rfl⟩
    have counts : SameWork marked counted := .modFrm rfl rfl fun _ => id
    have notes : SameWork counted noted := .ofPlot rfl rfl
    exact (marks.trans (counts.trans notes)).trans ((State.raisePlot_work ..).trans (State.frmEvent_work ..))

theorem clearJobEngines_work (s : State) (q : PlotId) (i : BitVec 16) : SameWork s (clearJobEngines s q i) := by
  have graft : SameWork s (clearGraftJob s q i) := .ofPlot rfl rfl
  have anneal (s : State) : SameWork s (clearAnnealJob s q i) := .ofPlot rfl rfl
  have mesh (s : State) : SameWork s (clearMeshJob s q i) := .of_eq rfl rfl rfl rfl
  have flash (s : State) : SameWork s (clearFlashJob s q i) := by
    unfold clearFlashJob
    extract_lets plots
    have clears : SameWork s plots := .ofPlot rfl rfl
    exact clears.trans (.of_eq rfl rfl rfl rfl)
  have matrix (s : State) : SameWork s (clearMatrixJob s q i) := .of_eq rfl rfl rfl rfl
  exact graft.trans ((anneal _).trans ((mesh _).trans ((flash _).trans (matrix _))))

/-- A job that is abandoned follows. -/
theorem Job.abandoned_follows (j : Job) (c : Code) (node : Option NodeId) (now : Nat) (live : j.live = true) :
    j.Follows (j.abandoned c node now) :=
  ⟨rfl, rfl, fun _ => live, .inr (.inl rfl)⟩

theorem beginAbandon_work (s : State) (q : PlotId) (j : Job) (c : Code) (node : Option NodeId) : SameWork s (beginAbandon s q j c node) := by
  unfold beginAbandon
  extract_lets abandoned cleared
  have marks : SameWork s abandoned := .modJob fun k => k.abandoned_follows c node s.boot.tclk
  have clears : SameWork s cleared := marks.trans (clearJobEngines_work abandoned q j.idx)
  split
  · exact clears.trans cleared.logSuppressed_work
  · exact clears.trans (State.logLine_work ..)

theorem raiseFault_work (s : State) (q : PlotId) (j : Job) (c : Code) (node : Option NodeId) : SameWork s (raiseFault s q j c node) := by
  unfold raiseFault
  extract_lets coded
  have codes : SameWork s coded := .modJob fun k _ => ⟨rfl, rfl, id, .inl rfl⟩
  exact codes.trans (.of_eq rfl rfl rfl rfl)

theorem chargeFault_work (s : State) (q : PlotId) (i : BitVec 16) (c : Code) (node : Option NodeId) : SameWork s (chargeFault s q i c node) := by
  rcases chargeFault_cases s q i c node with same | ⟨j, -, raised | abandoned⟩
  · rw [same]
    exact .refl s
  · rw [raised]
    exact raiseFault_work ..
  · rw [abandoned]
    exact beginAbandon_work ..

theorem overrunLine_work (s : State) (q : PlotId) : SameWork s (overrunLine s q) := by
  unfold overrunLine
  extract_lets p
  split
  · exact .refl s
  · split
    · exact s.logSuppressed_work
    · exact SameWork.trans (.ofPlot rfl rfl) (State.logLine_work ..)

theorem abandonLate_work (s : State) (q : PlotId) : SameWork s (abandonLate s q) :=
  .foldl (fun s j => beginAbandon_work s q j .overrun none) _ s

/-! ### The lanes go on (R247) -/

theorem issueLane_work (s : State) (l : LaneId) : SameWork s (issueLane s l) :=
  .of_keeps (issueLane_keeps l (Keeps.refl s) (Covers.refl _))

theorem State.modFln_work (s : State) (q : PlotId) (f : FlnPlot → FlnPlot) : SameWork s (s.modFln q f) := .ofPlot rfl rfl

theorem countScan_work (s : State) (q : PlotId) (was now : Part) (hits : Nat) : SameWork s (countScan s q was now hits) := by
  unfold countScan
  exact State.modFln_work ..

theorem startPageInsAux_work (n : Nat) (s : State) (q : PlotId) (l : LaneId) : SameWork s (startPageInsAux n s q l) := by
  induction n generalizing s with
  | zero => exact .refl s
  | succ n ih =>
    unfold startPageInsAux
    split
    · split
      · exact (ih _).after (SameWork.after (.ofPlot rfl rfl) (.of_eq rfl rfl rfl rfl))
      · exact .refl s
    · exact .refl s

theorem drainAux_work (n : Nat) (s : State) (q : PlotId) (i : BitVec 16) (no : Nat) (l : LaneId) : SameWork s (drainAux n s q i no l) := by
  induction n generalizing s with
  | zero => exact .refl s
  | succ n ih =>
    have next {t : State} (h : scanNext s q i no l = some t) : SameWork s t := by
      unfold scanNext at h
      repeat' split at h
      case h_2.isTrue =>
        cases h
        exact SameWork.trans (.ofPlot rfl rfl) ((chargeFault_work ..).trans (State.logLine_work ..))
      case h_2.isFalse =>
        cases h
        exact (State.modFln_work ..).after (countScan_work ..)
      all_goals cases h
    unfold drainAux
    split
    case h_1 => exact .refl s
    case h_2 t found => exact (next found).trans (ih t)

theorem drainBuf_work (s : State) (q : PlotId) (i : BitVec 16) (no : Nat) (l : LaneId) : SameWork s (drainBuf s q i no l) := by
  unfold drainBuf
  split
  · exact .refl s
  · exact (drainAux_work ..).trans ((startPageInsAux_work ..).trans (issueLane_work ..))

theorem resumeLanes_work (s : State) : SameWork s (resumeLanes s) := by
  unfold resumeLanes
  refine SameWork.trans (.foldl (fun s q => ?_) _ s) (.foldl issueLane_work _ _)
  exact .foldl (fun s (x : Query) => .foldl (fun s (p : Part) => drainBuf_work s q x.job x.no p.lane) _ s) _ s

/-! ### Bytes that land in the originals, and the listen port's latch (R327, R328) -/

theorem healRange_work (s : State) (q : PlotId) (j : Option Job) (a n : Nat) : SameWork s (healRange s q j a n) :=
  .of_eq rfl rfl rfl rfl

theorem State.pokeHome_work (s : State) (q : PlotId) (a : Nat) (bs : List Byte) : SameWork s (s.pokeHome q a bs) := by
  unfold State.pokeHome
  refine SameWork.trans (b := healRange (s.pokeMem q a bs) q none a bs.length) (.of_eq rfl rfl rfl rfl) (.foldl (fun s j => ?_) _ _)
  exact (healRange_work ..).trans (.modJob fun k _ => ⟨rfl, rfl, id, .inl rfl⟩)

theorem staleReached_work (s : State) (q : PlotId) : SameWork s (staleReached s q) := by
  unfold staleReached
  split
  · exact .refl s
  · exact SameWork.trans (.ofPlot rfl rfl) (State.raisePlot_work ..)

theorem latchEntry_work (s : State) (e : Ingest) : SameWork s (latchEntry s e) := by
  unfold latchEntry
  extract_lets x age reached q st poked latched
  have pokes : SameWork s poked := by
    dsimp only [poked]
    split
    · exact State.pokeHome_work ..
    · exact .refl s
  have latches : SameWork s latched := pokes.trans (.of_eq rfl rfl rfl rfl)
  split
  · exact latches.trans (staleReached_work latched q)
  · exact latches

theorem latchIngest_work (s : State) : SameWork s (latchIngest s) := by
  unfold latchIngest
  exact SameWork.after (.foldl latchEntry_work _ _) (.of_eq rfl rfl rfl rfl)

/-! ### A frame starts (R21, R26) -/

theorem SameRegs.modPlot {s : State} {q : PlotId} {f : Plot → Plot} (regs : (f (s.plot q)).regs = (s.plot q).regs) :
    SameRegs s (s.modPlot q f) := by
  refine ⟨⟨rfl, rfl, fun _ => id⟩, rfl, fun p => ?_, rfl⟩
  by_cases same : p = q
  · rw [same, State.modPlot_self, regs]
  · rw [State.modPlot_other s f same]

theorem SameRegs.modJob (s : State) (q : PlotId) (i : BitVec 16) (f : Job → Job) : SameRegs s (s.modJob q i f) := by
  unfold State.modJob State.modPlt
  exact .modPlot rfl

theorem State.modNse_work (s : State) (q : PlotId) (f : NsePlot → NsePlot) : SameWork s (s.modNse q f) := .ofPlot rfl rfl

theorem State.modLane_work (s : State) (q : PlotId) (t : Fin 64) (f : TapeLane → TapeLane) : SameWork s (s.modLane q t f) := by
  unfold State.modLane
  exact State.modNse_work ..

theorem State.hostRead_work (s : State) (q : PlotId) (u : DmaUser) (a n : Nat) : SameWork s (s.hostRead q u a n) := .of_eq rfl rfl rfl rfl

theorem fetchLaneAux_work (n : Nat) (s : State) (q : PlotId) (t : Fin 64) : SameWork s (fetchLaneAux n s q t) := by
  induction n generalizing s with
  | zero => exact .refl s
  | succ n ih =>
    unfold fetchLaneAux
    dsimp only
    split
    · exact .refl s
    · split
      · exact (ih _).after ((State.hostRead_work ..).after (State.modLane_work ..))
      · split
        · exact (ih _).after ((State.hostRead_work ..).after (State.modLane_work ..))
        · exact .refl s

theorem fetchLanes_work (s : State) (q : PlotId) : SameWork s (fetchLanes s q) :=
  .foldl (fun s t => fetchLaneAux_work 5 s q t) _ s

theorem checkLow_work (s : State) (q : PlotId) (t : Fin 64) : SameWork s (checkLow s q t) := by
  unfold checkLow
  dsimp only
  split
  · exact .refl s
  · split
    · exact (State.raisePlot_work ..).after ((State.modNse_work ..).after (State.modLane_work ..))
    · exact State.modLane_work ..

theorem attemptLanes_work (s : State) (q : PlotId) : SameWork s (attemptLanes s q) := by
  refine SameWork.trans ((fetchLanes_work (beginLanes s q) q).after (State.modNse_work ..)) (.foldl (fun s t => ?_) _ _)
  split
  · exact checkLow_work s q t
  · exact .refl s

theorem takeFabric_work (s : State) (q : PlotId) (i : BitVec 16) : SameWork s (takeFabric s q i) :=
  (attemptLanes_work _ q).after (.ofPlot rfl rfl)

theorem readInput_work (s : State) (q : PlotId) (j : Job) : SameWork s (readInput s q j) := by
  unfold readInput
  split
  · exact .refl s
  · exact State.hostRead_work ..

/-- An attempt's start leaves every plot's registers. -/
theorem startAttempt_regs (s : State) (q : PlotId) (j : Job) : SameRegs s (startAttempt s q j) := by
  unfold startAttempt
  extract_lets counted begun read p busy
  have counts : SameRegs s counted := by
    dsimp only [counted]
    split
    · exact .refl s
    · exact .modPlot rfl
  have begins : SameRegs counted begun := .modJob ..
  have reads : SameRegs s read := (counts.trans begins).trans (readInput_work begun q j).toSameRegs
  split
  · exact reads
  · exact reads.trans (takeFabric_work ..).toSameRegs

/-- A plot with what is counted per frame anew. -/
def Plot.frameBegun (p : Plot) : Plot := { p with
  plt := { p.plt with
    ovrFrame := 0, ovrLogged := false, ovrBudget := false, ovrDeadline := false,
    jobs := p.plt.jobs.map fun j => { j with logged := false, phase := if j.phase = .between then .running else j.phase } },
  msh := { p.msh with resident := p.msh.resident.map fun r => { r with used := false } },
  an := { p.an with auditLogged := false, unit := 0 }, grf := { p.grf with logged := false } }

/-- The jobs of a plot that wait for an attempt. -/
def waitingJobs (s : State) (q : PlotId) : List Job := ((s.plot q).plt.jobs.filter Job.live).filter fun j => j.phase == .waiting

theorem startFrame_eq (s : State) (q : PlotId) : startFrame s q =
    unparkAll ((waitingJobs s q).foldl (fun s j => startAttempt s q j) (s.modPlot q Plot.frameBegun)) q := rfl

theorem startFrame_regs (s : State) (q : PlotId) : SameRegs s (startFrame s q) := by
  rw [startFrame_eq]
  have begins : SameRegs s (s.modPlot q Plot.frameBegun) := .modPlot rfl
  exact (begins.trans (.foldl (fun s j => startAttempt_regs s q j) _ _)).trans (State.modFln_work ..).toSameRegs

/-- Every live job of a plot is being abandoned. -/
def AllLost (s : State) (q : PlotId) : Prop := ∀ j ∈ (s.plot q).plt.jobs, j.live = true → j.phase = .abandoning

theorem SameWork.lost {s t : State} {q : PlotId} (h : SameWork s t) (lost : AllLost s q) : AllLost t q := by
  intro k mem live
  obtain ⟨j, found, follows⟩ := h.jobs q k mem
  rcases follows.phase with same | gone | done
  · rw [same]
    exact lost j found (follows.live live)
  · exact gone
  · rw [Job.live, done] at live
    simp at live

/-- A frame starts no attempt where every live job is being abandoned. -/
theorem startFrame_lost {s : State} {q : PlotId} (lost : AllLost s q) : AllLost (startFrame s q) q := by
  have none : waitingJobs s q = [] := by
    refine List.filter_eq_nil_iff.2 fun j mem => ?_
    obtain ⟨found, live⟩ := List.mem_filter.1 mem
    rw [lost j found live]
    decide
  rw [startFrame_eq, none]
  refine (State.modFln_work ..).lost ?_
  intro k mem live
  rw [List.foldl_nil, State.modPlot_self] at mem
  obtain ⟨j, found, rfl⟩ := List.mem_map.1 mem
  by_cases between : j.phase = .between
  · have was : j.live = true := by
      simp only [Job.live, Job.admitted, between] at live ⊢
      simpa using live
    rw [lost j found was] at between
    contradiction
  · simp only [if_neg between] at live ⊢
    exact lost j found live

theorem startFrames_lost {q : PlotId} (l : List PlotId) (s : State) (lost : AllLost s q) : AllLost (s.eachPlot l startFrame) q := by
  induction l generalizing s with
  | nil => exact lost
  | cons p l ih =>
    refine ih _ ?_
    by_cases same : q = p
    · subst same
      exact startFrame_lost lost
    · unfold AllLost
      rw [startFrame_other s same]
      exact lost

theorem firstCycle_regs (s : State) : SameRegs s (firstCycle s) :=
  ((latchIngest_work s).toSameRegs.trans (.foldl startFrame_regs _ _)).trans (resumeLanes_work _).toSameRegs

theorem firstCycle_lost {s : State} {q : PlotId} (lost : AllLost s q) : AllLost (firstCycle s) q :=
  (resumeLanes_work _).lost (startFrames_lost allPlots _ ((latchIngest_work s).lost lost))

theorem doTick_regs (s : State) (t : Nat) (q : PlotId) : ((doTick s t).plot q).regs = (s.plot q).regs := by
  obtain ⟨u, ended, eq⟩ := doTick_split s t
  rw [eq, (ppsTakesUp_keeps (firstCycle u)).plot_eq rfl, (firstCycle_regs u).plots q, ended.plots q]

theorem doTick_lost {s : State} (t : Nat) {q : PlotId} (lost : AllLost s q) : AllLost (doTick s t) q := by
  obtain ⟨u, ended, eq⟩ := doTick_split s t
  have before : AllLost u q := by
    unfold AllLost
    rw [ended.plots q]
    exact lost
  unfold AllLost
  rw [eq, (ppsTakesUp_keeps (firstCycle u)).plot_eq rfl]
  exact firstCycle_lost before

end Sys2Proof.Machine

end


section

/-! PROOFS about jobs that overrun (R28 to R30): which are marked, and that every marked job is abandoned. -/

namespace Sys2Proof.Machine

open Sys2Proof

/-! ### Jobs of a number -/

/-- The jobs of a list with the live ones of a number changed. -/
def jobsSet (i : BitVec 16) (f : Job → Job) (l : List Job) : List Job := l.map fun k => if k.idx == i && k.live then f k else k

theorem mem_jobsSet {i : BitVec 16} {f : Job → Job} {l : List Job} {k : Job} (mem : k ∈ jobsSet i f l) :
    (∃ j ∈ l, j.idx = i ∧ k = f j) ∨ (k ∈ l ∧ ¬ (k.idx = i ∧ k.live = true)) := by
  obtain ⟨j, found, rfl⟩ := List.mem_map.1 mem
  by_cases hit : (j.idx == i && j.live) = true
  · rw [if_pos hit]
    rw [Bool.and_eq_true, beq_iff_eq] at hit
    exact .inl ⟨j, found, hit.1, rfl⟩
  · rw [if_neg hit]
    rw [Bool.and_eq_true, beq_iff_eq] at hit
    exact .inr ⟨found, hit⟩

/-! ### Overruns are marked (R28, R29) -/

/-- The job has overrun already, or is being abandoned. -/
def Job.late (j : Job) : Bool := j.budget || j.deadline || j.phase == .abandoning

theorem recordOverrun_jobs (s : State) (q : PlotId) (j : Job) :
    ((recordOverrun s q j false).plot q).plt.jobs =
      if j.late then (s.plot q).plt.jobs else jobsSet j.idx (fun k => { k with budget := false, deadline := true }) (s.plot q).plt.jobs := by
  unfold recordOverrun Job.late
  split
  · rfl
  · extract_lets marked counted noted
    rw [plot_of_plots_eq (State.frmEvent_quiet _ 0 (by decide)).1, State.raisePlot_self]
    have notes : (noted.plot q).plt.jobs = (marked.plot q).plt.jobs := by
      dsimp only [noted]
      rw [State.modPlt_self]
      rfl
    exact notes.trans (State.modJob_jobs ..)

/-- After a list of jobs has overrun, a live job is late, or is as it was and no job of its number in the list was not late. -/
theorem recordOverruns_late (q : PlotId) (l : List Job) (s : State) :
    ∀ k ∈ ((l.foldl (fun s j => recordOverrun s q j false) s).plot q).plt.jobs, k.live = true →
      k.late = true ∨ (k ∈ (s.plot q).plt.jobs ∧ ∀ j ∈ l, j.idx = k.idx → j.late = true) := by
  induction l generalizing s with
  | nil => exact fun k mem _ => .inr ⟨mem, fun j none => by contradiction⟩
  | cons j l ih =>
    intro k mem live
    rcases ih _ k mem live with late | ⟨before, rest⟩
    · exact .inl late
    rw [recordOverrun_jobs] at before
    by_cases was : j.late = true
    · rw [if_pos was] at before
      refine .inr ⟨before, fun i found same => ?_⟩
      rcases List.mem_cons.1 found with rfl | later
      · exact was
      · exact rest i later same
    · rw [if_neg was] at before
      rcases mem_jobsSet before with ⟨i, -, -, rfl⟩ | ⟨found, other⟩
      · exact .inl rfl
      · refine .inr ⟨found, fun i mem same => ?_⟩
        rcases List.mem_cons.1 mem with rfl | later
        · exact absurd ⟨same.symm, live⟩ other
        · exact rest i later same

/-- Once every live job of a kind that is not late has overrun, every live one of the kind is late. -/
theorem overrunAll_late {q : PlotId} {p : Job → Bool} (s : State) :
    ∀ k ∈ ((((s.plot q).plt.jobs.filter p).foldl (fun s j => recordOverrun s q j false) s).plot q).plt.jobs, k.live = true →
      p k = true → k.late = true := by
  intro k mem live kind
  rcases recordOverruns_late q _ s k mem live with late | ⟨before, listed⟩
  · exact late
  · exact listed k (List.mem_filter.2 ⟨before, kind⟩) rfl

theorem recordOverruns_work (q : PlotId) (l : List Job) (s : State) : SameWork s (l.foldl (fun s j => recordOverrun s q j false) s) :=
  .foldl (fun s j => recordOverrun_work s q j false) l s

/-! ### Marked jobs are abandoned (R30) -/

theorem beginAbandon_jobs (s : State) (q : PlotId) (j : Job) (c : Code) (node : Option NodeId) :
    ((beginAbandon s q j c node).plot q).plt.jobs = jobsSet j.idx (Job.abandoned c node s.boot.tclk) (s.plot q).plt.jobs := by
  have marked : ((clearJobEngines (s.modJob q j.idx (Job.abandoned c node s.boot.tclk)) q j.idx).plot q).plt.jobs =
      jobsSet j.idx (Job.abandoned c node s.boot.tclk) (s.plot q).plt.jobs := by
    rw [clearJobEngines_plt]
    exact State.modJob_jobs ..
  unfold beginAbandon
  split
  · exact marked
  · rw [State.logLine_plot]
    exact marked

/-- After a list of jobs has been abandoned, a live job is being abandoned, or is as it was and its number is none of the list's. -/
theorem beginAbandons_lost (q : PlotId) (l : List Job) (s : State) :
    ∀ k ∈ ((l.foldl (fun s j => beginAbandon s q j .overrun none) s).plot q).plt.jobs, k.live = true →
      k.phase = .abandoning ∨ (k ∈ (s.plot q).plt.jobs ∧ ∀ j ∈ l, j.idx ≠ k.idx) := by
  induction l generalizing s with
  | nil => exact fun k mem _ => .inr ⟨mem, fun j none => by contradiction⟩
  | cons j l ih =>
    intro k mem live
    rcases ih _ k mem live with lost | ⟨before, rest⟩
    · exact .inl lost
    rw [beginAbandon_jobs] at before
    rcases mem_jobsSet before with ⟨i, -, -, rfl⟩ | ⟨found, other⟩
    · exact .inl rfl
    · refine .inr ⟨found, fun i mem same => ?_⟩
      rcases List.mem_cons.1 mem with rfl | later
      · exact other ⟨same.symm, live⟩
      · exact rest i later same

/-- The deadline abandons every late job: a live job is being abandoned, or is as it was and not late. -/
theorem abandonLate_lost (s : State) (q : PlotId) :
    ∀ k ∈ ((abandonLate s q).plot q).plt.jobs, k.live = true → k.phase = .abandoning ∨ (k ∈ (s.plot q).plt.jobs ∧ k.late = false) := by
  intro k mem live
  rcases beginAbandons_lost q _ s k mem live with lost | ⟨before, rest⟩
  · exact .inl lost
  by_cases phase : k.phase = .abandoning
  · exact .inl phase
  refine .inr ⟨before, Bool.eq_false_iff.2 fun late => ?_⟩
  refine rest k (List.mem_filter.2 ⟨before, ?_⟩) rfl
  simp only [Job.late, Bool.or_eq_true, beq_iff_eq, phase, or_false] at late
  simp only [live, Bool.true_and, Bool.and_eq_true, Bool.or_eq_true, bne_iff_ne, ne_eq, phase, not_false_eq_true, and_true]
  exact late

end Sys2Proof.Machine

end


section

/-! PROOFS about hold-off overruns and plant windows (R36, R37, R39): what a tick leaves of the counters, and what a commit that is not
applied gives back. -/

namespace Sys2Proof.Machine

open Sys2Proof

/-! ### A tick leaves the counters -/

theorem SameWindow.tickAt {s t : State} (h : SameWindow s t) : t.frm.tickAt = s.frm.tickAt := congrArg Prod.fst h.clock

theorem SameWindow.count {s t : State} (h : SameWindow s t) : t.frm.count = s.frm.count := congrArg (·.2.1) h.clock

theorem SameWindow.holdoffOvr {s t : State} (h : SameWindow s t) : t.frm.holdoffOvr = s.frm.holdoffOvr :=
  congrArg (·.2.2.2.2.2.1) h.clock

theorem SameWindow.holdoffCnt {s t : State} (h : SameWindow s t) : t.frm.holdoffCnt = s.frm.holdoffCnt :=
  congrArg (·.2.2.2.2.2.2) h.clock

/-- A tick that ends the frame of a later state of the window ends that of the earlier one. -/
theorem ticked_of_window {s u t : State} {edge : Nat} (same : SameWindow s u) (h : ticked u edge t) : ticked s edge t := by
  unfold ticked at h
  rw [same.tclk, same.count, same.tickAt] at h
  exact h

/-- The frame block with the frame that begins at an edge. -/
def FrmState.begun (f : FrmState) (t : Nat) : FrmState :=
  let st := if f.srcState = .fallback ∧ f.relockNext then .plantAcq else f.srcState
  { f with
    lenLast := frameLen f.tickAt t, count := satInc f.count, tickAt := t, framePeriod := f.rws.period.toNat,
    frameDev := f.rws, srcState := st, gov := st, missRun := if f.srcState = st then f.missRun else 0,
    relockNext := false, acqEnd := none, windowUsed := false, opened := false, holdoff := none, eventFrame := 0,
    tickLogged := false }

/-- A tick's frame block: the source locks, the next frame begins, and the PPS source takes it up. -/
theorem doTick_frm_eq (s : State) (t : Nat) :
    ∃ u, u.frm = ppsFrame ((ppsLockAt (s.advanceTo t) t).frm.begun t) ∧ (doTick s t).frm = (ppsAcquire u).frm := by
  refine ⟨_, ?_, rfl⟩
  exact congrArg ppsFrame ((firstCycle_keeps _).frm_eq.trans rfl)

theorem ppsLockAt_window (s : State) (t : Nat) : SameWindow s (ppsLockAt s t) := by
  have ticks (f : FrmState) : (ppsTick f).clock = f.clock := by
    unfold ppsTick
    split <;> rfl
  refine ⟨(congrArg BootState.tclk (ppsLockAt_keeps (P := fun _ => false) t (Keeps.refl s) (Covers.refl _)).boot_eq), ?_,
    (ppsLockAt_frm s t).event⟩
  unfold ppsLockAt
  split
  · split
    · rfl
    · exact (State.frmEvent_work ..).clock
  · rw [State.modFrm_frm]
    split
    · exact ticks s.frm
    · rfl

theorem doTick_holdoffOvr (s : State) (t : Nat) : (doTick s t).frm.holdoffOvr = s.frm.holdoffOvr := by
  obtain ⟨u, frm, eq⟩ := doTick_frm_eq s t
  have takes : (ppsAcquire u).frm.holdoffOvr = u.frm.holdoffOvr := by
    unfold ppsAcquire
    split
    · split <;> rfl
    · rfl
  have frames (f : FrmState) : (ppsFrame f).holdoffOvr = f.holdoffOvr := by
    unfold ppsFrame
    split <;> rfl
  rw [eq, takes, frm, frames]
  exact (ppsLockAt_window (s.advanceTo t) t).holdoffOvr

/-- The source is none of PPS. -/
def SrcState.offPps (x : SrcState) : Prop := x ≠ .ppsAcq ∧ x ≠ .ppsLock ∧ x ≠ .ppsHold

/-- The frame that a source other than PPS ends begins the next one of such a source and nothing else. -/
theorem doTick_offPps {s : State} (t : Nat) (gov : s.frm.gov.offPps) (src : (s.frm.begun t).gov.offPps) :
    (doTick s t).frm = s.frm.begun t := by
  obtain ⟨u, frm, eq⟩ := doTick_frm_eq s t
  have locks : (ppsLockAt (s.advanceTo t) t).frm = s.frm := by
    unfold ppsLockAt
    rw [if_neg fun h => gov.1 h.1, State.modFrm_frm]
    exact if_neg fun h => h.elim gov.2.1 gov.2.2
  have frames : ppsFrame (s.frm.begun t) = s.frm.begun t := if_neg fun h => h.elim src.2.1 src.2.2
  rw [locks, frames] at frm
  rw [eq, show ppsAcquire u = u from if_neg fun h => src.1 (frm ▸ h.1), frm]

/-! ### A plant window that closes (R36, R37) -/

/-- The events of the frame change in the frame block alone. -/
theorem State.frmEvent_rest (s : State) (b : Fin 9) : ∃ logged,
    (s.frmEvent b).frm = { s.frm with
      event := setBit s.frm.event b.val true, eventFrame := setBit s.frm.eventFrame b.val true, tickLogged := logged } := by
  unfold State.frmEvent
  extract_lets noted raised
  have rises : raised.frm = noted.frm := State.raisePf_frm noted 1
  split
  · split
    · exact ⟨_, rises⟩
    · rw [State.logLine_frm, State.modFrm_frm, rises]
      exact ⟨true, rfl⟩
  · exact ⟨_, rises⟩

/-- The source is a plant-locked one. -/
def SrcState.plant (x : SrcState) : Prop := x = .plantAcq ∨ x = .plantLock ∨ x = .plantHold

theorem SrcState.plant.offPps {x : SrcState} (h : x.plant) : x.offPps := by
  rcases h with rfl | rfl | rfl <;> exact ⟨by decide, by decide, by decide⟩

theorem FrmState.begun_src {f : FrmState} (t : Nat) (relock : f.relockNext = false) :
    (f.begun t).srcState = f.srcState ∧ (f.begun t).gov = f.srcState ∧ (f.begun t).missRun = f.missRun := by
  have stays : (if f.srcState = .fallback ∧ f.relockNext then SrcState.plantAcq else f.srcState) = f.srcState :=
    if_neg fun h => by rw [relock] at h; exact absurd h.2 Bool.false_ne_true
  unfold FrmState.begun
  rw [stays]
  exact ⟨rfl, rfl, if_pos rfl⟩

section Miss

variable {s : State} (hold : Bool) (plant : s.frm.srcState.plant)

include plant

/-- A further miss of the run: the source holds. -/
theorem plantMiss_holds (few : s.frm.missRun.toNat < 2) : plantMiss s hold = s.modFrm fun f => { f with
    missRun := BitVec.ofNat 2 (s.frm.missRun.toNat + 1), srcState := if hold then .plantHold else f.srcState } :=
  (if_neg (by rw [Bool.not_eq_true', decide_eq_false_iff_not, Classical.not_not]; exact plant)).trans (if_neg (by omega))

/-- The third miss in a row: the source falls back. -/
theorem plantMiss_falls (many : ¬ s.frm.missRun.toNat < 2) : plantMiss s hold =
    (s.modFrm fun f => { f with missRun := 3, srcState := .fallback }).frmEvent 4 :=
  (if_neg (by rw [Bool.not_eq_true', decide_eq_false_iff_not, Classical.not_not]; exact plant)).trans (if_pos (by omega))

theorem plantMiss_window : SameWindow s (plantMiss s hold) := by
  by_cases few : s.frm.missRun.toNat < 2
  · rw [plantMiss_holds hold plant few]
    exact ⟨rfl, rfl, fun _ => id⟩
  · rw [plantMiss_falls hold plant few]
    exact SameWindow.trans (b := s.modFrm fun f => { f with missRun := 3, srcState := .fallback }) ⟨rfl, rfl, fun _ => id⟩
      (State.frmEvent_work ..).toSameWindow

/-- The tick after a miss keeps what the miss made of the source. -/
theorem doTick_plantMiss (t : Nat) (gov : s.frm.gov.offPps) (relock : s.frm.relockNext = false) :
    let w := doTick (plantMiss s hold) t
    w.frm.plantMiss = s.frm.plantMiss ∧
    (if s.frm.missRun.toNat < 2 then
      w.frm.srcState = (if hold then .plantHold else s.frm.srcState) ∧ w.frm.missRun.toNat = s.frm.missRun.toNat + 1
     else w.frm.srcState = .fallback ∧ w.frm.event.getLsbD 4 = true) := by
  intro w
  by_cases few : s.frm.missRun.toNat < 2
  · have begins := FrmState.begun_src (f := (plantMiss s hold).frm) t (by rw [plantMiss_holds hold plant few]; exact relock)
    have ends : w.frm = (plantMiss s hold).frm.begun t := by
      refine doTick_offPps t (by rw [plantMiss_holds hold plant few]; exact gov) ?_
      rw [begins.2.1, plantMiss_holds hold plant few]
      show SrcState.offPps (if hold then .plantHold else s.frm.srcState)
      split
      · exact ⟨by decide, by decide, by decide⟩
      · exact plant.offPps
    rw [if_pos few, ends, begins.1, begins.2.2, plantMiss_holds hold plant few]
    refine ⟨rfl, rfl, ?_⟩
    show (BitVec.ofNat 2 (s.frm.missRun.toNat + 1)).toNat = _
    rw [BitVec.toNat_ofNat]
    omega
  · obtain ⟨logged, falls⟩ := State.frmEvent_rest (s.modFrm fun f => { f with missRun := 3, srcState := .fallback }) 4
    rw [← plantMiss_falls hold plant few] at falls
    have begins := FrmState.begun_src (f := (plantMiss s hold).frm) t (by rw [falls]; exact relock)
    have ends : w.frm = (plantMiss s hold).frm.begun t := by
      refine doTick_offPps t (by rw [falls]; exact gov) ?_
      rw [begins.2.1, falls]
      exact ⟨by simp, by simp, by simp⟩
    rw [if_neg few, ends, begins.1, falls]
    exact ⟨rfl, rfl, getLsbD_setBit_self _ (by decide)⟩

end Miss

/-- A plant window without its message is counted, with its event. -/
def missNoted (s : State) : State := (s.modFrm fun f => { f with plantMiss := satInc f.plantMiss }).frmEvent 3

theorem missNoted_frm (s : State) : ∃ logged, (missNoted s).frm = { s.frm with
    plantMiss := satInc s.frm.plantMiss, event := setBit s.frm.event 3 true, eventFrame := setBit s.frm.eventFrame 3 true,
    tickLogged := logged } :=
  State.frmEvent_rest _ 3

theorem missNoted_window (s : State) : SameWindow s (missNoted s) :=
  SameWindow.trans (b := s.modFrm fun f => { f with plantMiss := satInc f.plantMiss }) ⟨rfl, rfl, fun _ => id⟩
    (State.frmEvent_work ..).toSameWindow

theorem plantWindowsClose_holds : plantWindowsClose := by
  intro s ready opened unused relock
  refine ⟨fun gov plant => ⟨_, rfl, ?_⟩, fun gov src => ⟨_, rfl, ?_⟩⟩
  · rw [show windowClose s = doTick (plantMiss (missNoted s) true)
        (s.frm.tickAt + 100 * s.frm.framePeriod + 100 * s.frm.frameDev.plantWin.toNat) from
      if_neg (by rcases gov with gov | gov <;> simp [ready, opened, unused, gov])]
    obtain ⟨logged, frm⟩ := missNoted_frm s
    have noted : (missNoted s).frm.srcState.plant := by rw [frm]; exact plant
    have off : (missNoted s).frm.gov.offPps := by
      rw [frm]
      rcases gov with gov | gov <;> rw [gov] <;> exact ⟨by decide, by decide, by decide⟩
    obtain ⟨counts, moves⟩ := doTick_plantMiss true noted
      (s.frm.tickAt + 100 * s.frm.framePeriod + 100 * s.frm.frameDev.plantWin.toNat) off (by rw [frm]; exact relock)
    have window := (missNoted_window s).trans (plantMiss_window true noted)
    have event : (missNoted s).frm.event.getLsbD 3 = true := by
      rw [frm]
      exact getLsbD_setBit_self _ (by decide)
    rw [show (missNoted s).frm.plantMiss = satInc s.frm.plantMiss from frm ▸ rfl] at counts
    rw [show (missNoted s).frm.missRun = s.frm.missRun from frm ▸ rfl] at moves
    exact ⟨ticked_of_window window (doTick_ticked _ _), counts,
      (doTick_frm _ _).event 3 ((plantMiss_window true noted).event 3 event), moves⟩
  · rw [show acqTimeout s = doTick (plantMiss s false) (s.frm.tickAt + 200 * s.frm.framePeriod) from
      if_neg (by simp [ready, opened, unused, gov])]
    have plant : s.frm.srcState.plant := .inl src
    obtain ⟨counts, moves⟩ := doTick_plantMiss false plant (s.frm.tickAt + 200 * s.frm.framePeriod)
      (by rw [gov]; exact ⟨by decide, by decide, by decide⟩) relock
    rw [src] at moves
    exact ⟨ticked_of_window (plantMiss_window false plant) (doTick_ticked _ _), counts, moves⟩

/-! ### A plot whose preparation is late loses its jobs (R39) -/

/-- The jobs of a plot overrun and are abandoned. -/
def loseJobs (s : State) (q : PlotId) : State :=
  let jobs := (s.plot q).plt.jobs.filter fun j => j.live && j.phase != .abandoning
  let t := jobs.foldl (fun s j => recordOverrun s q j false) s
  if jobs.isEmpty then t else overrunLine (abandonLate t q) q

theorem loseJobs_work (s : State) (q : PlotId) : SameWork s (loseJobs s q) := by
  unfold loseJobs
  extract_lets jobs t
  have overruns : SameWork s t := recordOverruns_work q jobs s
  split
  · exact overruns
  · exact overruns.trans ((abandonLate_work t q).trans (overrunLine_work ..))

theorem loseJobs_lost (s : State) (q : PlotId) : AllLost (loseJobs s q) q := by
  unfold loseJobs
  extract_lets jobs t
  have marked : ∀ k ∈ (t.plot q).plt.jobs, k.live = true → (k.live && k.phase != .abandoning) = true → k.late = true :=
    overrunAll_late (p := fun j => j.live && j.phase != .abandoning) s
  split
  case isTrue none =>
    have still : t = s := by
      dsimp only [t]
      rw [List.isEmpty_iff.1 none]
      rfl
    rw [still]
    intro j mem live
    by_cases phase : j.phase = .abandoning
    · exact phase
    · have kept : j ∈ jobs := List.mem_filter.2 ⟨mem, by simp [live, phase]⟩
      rw [List.isEmpty_iff.1 none] at kept
      contradiction
  case isFalse =>
    refine (overrunLine_work ..).lost fun k mem live => ?_
    rcases abandonLate_lost t q k mem live with lost | ⟨before, fresh⟩
    · exact lost
    · by_cases phase : k.phase = .abandoning
      · exact phase
      · rw [marked k before live (by simp [live, phase])] at fresh
        contradiction

theorem eachLoseJobs_lost {q : PlotId} (l : List PlotId) (s : State) (h : q ∈ l ∨ AllLost s q) : AllLost (s.eachPlot l loseJobs) q := by
  induction l generalizing s with
  | nil => exact h.resolve_left List.not_mem_nil
  | cons p l ih =>
    refine ih _ ?_
    rcases h with listed | lost
    · rcases List.mem_cons.1 listed with rfl | later
      · exact .inr (loseJobs_lost s q)
      · exact .inl later
    · exact .inr ((loseJobs_work s p).lost lost)

/-! ### A commit that is not applied (R39, R88) -/

theorem State.setPlotState_work (s : State) (q : PlotId) (st : PlotState) : SameWork s (s.setPlotState q st) := by
  unfold State.setPlotState
  split
  · exact .refl s
  · extract_lets moved pf noted
    have moves : SameWork s moved := .ofPlot rfl rfl
    have notes : SameWork moved noted := .of_eq rfl rfl rfl rfl
    exact (moves.trans notes).trans ((State.raisePlot_work ..).trans (State.raisePf_work ..))

theorem undoEngines_regs (old : Content) (u : Undo) (s : State) (q : PlotId) : SameRegs s (undoEngines old u s q) := by
  unfold undoEngines
  extract_lets was mine plots
  have stands : SameRegs s plots := .modPlot rfl
  exact stands.trans (.of_eq rfl rfl rfl rfl)

theorem undoPlot_regs (old new : Content) (u : Undo) (s : State) (q : PlotId) : SameRegs s (undoPlot old new u s q) := by
  unfold undoPlot
  extract_lets was back plots now stopped
  have memory : SameRegs s back := .of_eq rfl rfl rfl rfl
  have stands : SameRegs s plots := memory.trans (.modPlot rfl)
  split
  · exact stands
  · split
    · exact stands.trans ((undoEngines_regs old u plots q).trans (State.setPlotState_work ..).toSameRegs)
    · split
      · exact stands.trans (.modPlot rfl)
      · split
        · exact stands.trans (State.setPlotState_work ..).toSameRegs
        · exact stands

/-- A bundle that is not committed leaves the plots' registers to what was done plot by plot. -/
theorem unapplyBundle_regs (s : State) (u : Undo) (q : PlotId) : ((unapplyBundle s u).plot q).regs = (s.plot q).regs := by
  unfold unapplyBundle
  extract_lets new old undone msh placed cfg images lanes
  have plots : lanes.plots = s.plots := by
    dsimp only [lanes]
    split <;> rfl
  rw [← plot_of_plots_eq plots]
  exact (SameRegs.foldl (undoPlot_regs old new u) _ lanes).plots q

/-- A value that a commit without PRESET values wrote goes back to itself. -/
theorem giveBack_same {α : Type} [DecidableEq α] (now old : α) : giveBack now old old = now := by
  unfold giveBack
  split
  case isTrue same => exact same.symm
  case isFalse => rfl

theorem PlotRws.giveBack_same (now old : PlotRws) : now.giveBack old old = now := by
  unfold PlotRws.giveBack
  simp only [Machine.giveBack_same]

theorem unapplyPlot_other (s : State) (u : Undo) {p q : PlotId} (other : p ≠ q) : (unapplyPlot s u q).plot p = s.plot p :=
  (unapplyPlot_keeps (P := fun r => r == q) u q (Keeps.refl s) (Covers.refl _) (by simp)).plot_eq (by simpa using other)

/-- A plot's registers go back; without PRESET values its shadows stay as software left them. -/
theorem unapplyPlot_self (s : State) (u : Undo) {q : PlotId} (tenant : q ≠ 0) :
    ((unapplyPlot s u q).plot q).rws = u.plots[q].rws ∧
    (q ∉ u.touched → ((unapplyPlot s u q).plot q).shadow = (s.plot q).shadow) := by
  unfold unapplyPlot
  extract_lets was noted fresh
  rw [if_neg tenant, State.modPlot_self]
  refine ⟨rfl, fun untouched => ?_⟩
  have presets : u.presets q = [] := if_neg (by simpa using untouched)
  have shadow : (noted.plot q).shadow = (s.plot q).shadow := by
    dsimp only [noted]
    rw [State.modCfgSet, State.modPlot_self]
  dsimp only
  rw [presets, shadow]
  exact PlotRws.giveBack_same ..

/-- Each plot of a list goes back. -/
def unapplyPlots (u : Undo) (l : List PlotId) (s : State) : State := s.eachPlot l fun s q => unapplyPlot s u q

theorem unapplyPlots_regs (u : Undo) {q : PlotId} (tenant : q ≠ 0) (l : List PlotId) (s : State) :
    let t := unapplyPlots u l s
    (q ∈ l → (t.plot q).rws = u.plots[q].rws) ∧ (q ∉ u.touched → (t.plot q).shadow = (s.plot q).shadow) ∧
    (q ∉ l → t.plot q = s.plot q) := by
  suffices both : ∀ s : State, (q ∈ l ∨ (s.plot q).rws = u.plots[q].rws → ((unapplyPlots u l s).plot q).rws = u.plots[q].rws) ∧
      (q ∉ u.touched → ((unapplyPlots u l s).plot q).shadow = (s.plot q).shadow) ∧
      (q ∉ l → (unapplyPlots u l s).plot q = s.plot q) from
    ⟨fun mem => (both s).1 (.inl mem), (both s).2⟩
  induction l with
  | nil => exact fun s => ⟨fun h => h.resolve_left List.not_mem_nil, fun _ => rfl, fun _ => rfl⟩
  | cons p l ih =>
    intro s
    obtain ⟨rws, shadow, rest⟩ := ih (unapplyPlot s u p)
    by_cases same : q = p
    · subst same
      obtain ⟨back, stays⟩ := unapplyPlot_self s u tenant
      exact ⟨fun _ => rws (.inr back), fun untouched => (shadow untouched).trans (stays untouched),
        fun none => absurd (List.mem_cons_self ..) none⟩
    · have other := unapplyPlot_other s u same
      refine ⟨fun h => rws ?_, fun untouched => ?_, fun none => ?_⟩
      · rw [other]
        exact h.imp_left fun mem => (List.mem_cons.1 mem).resolve_left same
      · rw [← other]
        exact shadow untouched
      · rw [← other]
        exact rest fun mem => none (List.mem_cons_of_mem p mem)

theorem undoSource_window (s : State) (u : Undo) : SameWindow s (undoSource s u) := by
  unfold undoSource
  split
  · exact .refl s
  · extract_lets plant back
    have moves : SameWindow s back := ⟨rfl, rfl, fun _ => id⟩
    split
    · exact moves.trans (State.frmEvent_work back 8).toSameWindow
    · exact moves

theorem unapplyPlot_window (s : State) (u : Undo) (q : PlotId) : SameWindow s (unapplyPlot s u q) := by
  unfold unapplyPlot
  extract_lets was noted fresh
  have notes : SameWindow s noted := ⟨rfl, rfl, fun _ => id⟩
  split
  · exact (notes.trans (undoSource_window noted u)).trans ⟨rfl, rfl, fun _ => id⟩
  · exact notes.trans ⟨rfl, rfl, fun _ => id⟩

theorem unapplyBundle_window (s : State) (u : Undo) : SameWindow s (unapplyBundle s u) := by
  have keeps := unapplyBundle_keeps (P := fun _ => true) u (Keeps.refl s) (Covers.refl _) (fun _ => rfl)
  exact ⟨by rw [keeps.boot_eq], by rw [keeps.frm_eq], fun i set => by rw [keeps.frm_eq]; exact set⟩

/-- The plots that go back: the late ones, and with one of them every plot the bundle touched. -/
theorem unapply_eq (s : State) (u : Undo) (late : List PlotId) : unapply s u late =
    if late.any (fun q => u.touched.contains q) then
      unapplyBundle (unapplyPlots u (late ++ u.touched.filter fun q => !late.contains q) s) u
    else unapplyPlots u late s := by
  unfold unapply
  extract_lets joint plots back
  dsimp only [back, plots, joint]
  split
  · rfl
  · rfl

theorem unapply_window (s : State) (u : Undo) (late : List PlotId) : SameWindow s (unapply s u late) := by
  have plots (l : List PlotId) (s : State) : SameWindow s (unapplyPlots u l s) :=
    SameWindow.foldl (fun s q => unapplyPlot_window s u q) l s
  rw [unapply_eq]
  split
  · exact (plots ..).trans (unapplyBundle_window ..)
  · exact plots ..

/-- What goes back of a plot's registers. -/
theorem unapply_regs (s : State) (u : Undo) (late : List PlotId) {q : PlotId} (tenant : q ≠ 0) :
    let t := unapply s u late
    (q ∈ late → (t.plot q).rws = u.plots[q].rws ∧ (q ∉ u.touched → (t.plot q).shadow = (s.plot q).shadow)) ∧
    ((∃ p ∈ late, p ∈ u.touched) → q ∈ u.touched → (t.plot q).rws = u.plots[q].rws) ∧
    ((∀ p ∈ late, p ∉ u.touched) → q ∉ late → (t.plot q).rws = (s.plot q).rws ∧ (t.plot q).shadow = (s.plot q).shadow) := by
  intro t
  by_cases joint : late.any (fun q => u.touched.contains q) = true
  · obtain ⟨rws, shadow, -⟩ := unapplyPlots_regs u tenant (late ++ u.touched.filter fun q => !late.contains q) s
    have eq : t = unapplyBundle (unapplyPlots u (late ++ u.touched.filter fun q => !late.contains q) s) u :=
      (unapply_eq ..).trans (if_pos joint)
    have regs := unapplyBundle_regs (unapplyPlots u (late ++ u.touched.filter fun q => !late.contains q) s) u q
    rw [← eq] at regs
    have sameRws : (t.plot q).rws = _ := congrArg Prod.fst regs
    have sameShadow : (t.plot q).shadow = _ := congrArg (·.2.1) regs
    refine ⟨fun mem => ⟨?_, fun untouched => ?_⟩, fun _ touched => ?_, fun none => ?_⟩
    · exact sameRws.trans (rws (List.mem_append_left _ mem))
    · exact sameShadow.trans (shadow untouched)
    · refine sameRws.trans (rws (List.mem_append.2 ?_))
      by_cases mem : q ∈ late
      · exact .inl mem
      · exact .inr (List.mem_filter.2 ⟨touched, by simpa using mem⟩)
    · obtain ⟨p, mem, hit⟩ := List.any_eq_true.1 joint
      exact absurd (by simpa using hit) (none p mem)
  · obtain ⟨rws, shadow, rest⟩ := unapplyPlots_regs u tenant late s
    rw [show t = unapplyPlots u late s from (unapply_eq ..).trans (if_neg joint)]
    refine ⟨fun mem => ⟨rws mem, shadow⟩, fun ⟨p, mem, hit⟩ => ?_, fun _ out => ?_⟩
    · exact absurd (List.any_eq_true.2 ⟨p, mem, by simpa using hit⟩) joint
    · rw [rest out]
      exact ⟨rfl, rfl⟩

/-! ### A hold-off overrun (R39) -/

/-- A hold-off overrun is counted, with its events. -/
def holdoffNoted (s : State) : State :=
  ((s.modFrm fun f => { f with holdoffOvr := satInc f.holdoffOvr }).frmEvent 1).frmEvent 2

/-- The plots whose preparation is late go back. -/
def lateUnapplied (s : State) (late : List PlotId) : State := match s.undo with | some u => unapply s u late | none => s

theorem holdoffTimeout_eq {s : State} {m : Nat} (late : List PlotId) (held : s.frm.holdoff = some m)
    (overdue : m + 200 < s.frm.commitEnd) :
    holdoffTimeout s late = doTick ((lateUnapplied (holdoffNoted s) late).eachPlot late loseJobs) (m + 200) := by
  unfold holdoffTimeout
  rw [held]
  exact if_neg (Nat.not_le.2 overdue)

theorem holdoffNoted_work (s : State) : SameWork (s.modFrm fun f => { f with holdoffOvr := satInc f.holdoffOvr }) (holdoffNoted s) :=
  (State.frmEvent_work ..).trans (State.frmEvent_work ..)

theorem holdoffNoted_undo (s : State) : (holdoffNoted s).undo = s.undo :=
  (State.frmEvent_keeps (P := fun _ => false) 2 (State.frmEvent_keeps 1 (Keeps.refl (s.modFrm fun f => { f with
    holdoffOvr := satInc f.holdoffOvr })) (Covers.refl _)) (Covers.refl _)).undo_eq

theorem holdoffNoted_events (s : State) (i : Nat) (h : i = 1 ∨ i = 2) : (holdoffNoted s).frm.event.getLsbD i = true := by
  rcases h with rfl | rfl
  · refine (State.frmEvent_work _ 2).event 1 ?_
    rw [(State.frmEvent_frm _ 1).1]
    exact getLsbD_setBit_self _ (by decide)
  · unfold holdoffNoted
    rw [(State.frmEvent_frm _ 2).1]
    exact getLsbD_setBit_self _ (by decide)

theorem lateUnapplied_window (s : State) (late : List PlotId) : SameWindow s (lateUnapplied s late) := by
  unfold lateUnapplied
  split
  · exact unapply_window ..
  · exact .refl s

theorem and_6_of_bits {x : BitVec 9} (one : x.getLsbD 1 = true) (two : x.getLsbD 2 = true) : x &&& 0x6 = 0x6 := by
  refine BitVec.eq_of_getLsbD_eq fun i lt => ?_
  rw [BitVec.getLsbD_and]
  match i with
  | 0 | 3 | 4 | 5 | 6 | 7 | 8 => exact Bool.and_false _
  | 1 => rw [one]; rfl
  | 2 => rw [two]; rfl
  | n + 9 => omega

theorem holdoffOverrunsTick_holds : holdoffOverrunsTick := by
  intro s m late held overdue
  refine ⟨_, rfl, ?_⟩
  obtain ⟨v, unapplied⟩ : ∃ v, v = lateUnapplied (holdoffNoted s) late := ⟨_, rfl⟩
  obtain ⟨w, lost⟩ : ∃ w, w = v.eachPlot late loseJobs := ⟨_, rfl⟩
  have eq : holdoffTimeout s late = doTick w (m + 200) := by
    rw [lost, unapplied]
    exact holdoffTimeout_eq late held overdue
  have works : SameWork v w := by
    rw [lost]
    exact .foldl loseJobs_work late v
  have window : SameWindow (holdoffNoted s) w := by
    refine SameWindow.trans ?_ works.toSameWindow
    rw [unapplied]
    exact lateUnapplied_window ..
  have noted := (holdoffNoted_work s).toSameWindow.trans window
  have event (i : Nat) (h : i = 1 ∨ i = 2) : (doTick w (m + 200)).frm.event.getLsbD i = true :=
    (doTick_frm w _).event i (window.event i (holdoffNoted_events s i h))
  have regs (q : PlotId) : ((doTick w (m + 200)).plot q).regs = (v.plot q).regs := (doTick_regs ..).trans (works.plots q)
  have rws (q : PlotId) : ((doTick w (m + 200)).plot q).rws = (v.plot q).rws := congrArg Prod.fst (regs q)
  have shadow (q : PlotId) : ((doTick w (m + 200)).plot q).shadow = (v.plot q).shadow := congrArg (·.2.1) (regs q)
  rw [eq]
  refine ⟨?_, ?_, ?_, and_6_of_bits (event 1 (.inl rfl)) (event 2 (.inr rfl)), fun q mem => ?_, fun u undo q tenant => ?_⟩
  · have same : SameWindow { s with frm := { s.frm with holdoffOvr := satInc s.frm.holdoffOvr } } w := noted
    have ticks := ticked_of_window same (doTick_ticked w (m + 200))
    exact ticks
  · rw [doTick_holdoffOvr]
    exact noted.holdoffOvr
  · rw [(doTick_frm w _).holdoffCnt]
    exact noted.holdoffCnt
  · refine doTick_lost _ ?_
    rw [lost]
    exact eachLoseJobs_lost late v (.inl mem)
  · have back : v = unapply (holdoffNoted s) u late := by
      rw [unapplied]
      unfold lateUnapplied
      rw [holdoffNoted_undo, undo]
    have own := unapply_regs (holdoffNoted s) u late tenant
    have stood := (holdoffNoted_work s).plots q
    rw [← back, show ((holdoffNoted s).plot q).rws = (s.plot q).rws from congrArg Prod.fst stood,
      show ((holdoffNoted s).plot q).shadow = (s.plot q).shadow from congrArg (·.2.1) stood] at own
    rw [rws, shadow]
    exact own

/-- Settles O33: a miss and a hold-off overrun change the frame's counts and source and then tick; what a commit gives back is told
plot by plot, and the jobs of a late plot are all abandoned before the tick, which starts no attempt of theirs. -/
theorem lateSequencesAndPlantWindows : Obligations.LateSequencesAndPlantWindows := ⟨holdoffOverrunsTick_holds, plantWindowsClose_holds⟩

end Sys2Proof.Machine

end


section

/-! PROOFS about steps 1, 2 and 5 of the commit sequence and the reports of its window (R22, R29, R30, R39): what they leave alone, and
that no frame program runs after step 2. -/

namespace Sys2Proof.Machine

open Sys2Proof

/-! ### Reports (R29, R345) -/

theorem State.modMsh_work (s : State) (q : PlotId) (f : MshSet → MshSet) : SameWork s (s.modMsh q f) := .ofPlot rfl rfl

theorem State.emit_work (s : State) (e : OutEvent) : SameWork s (s.emit e) := .of_eq rfl rfl rfl rfl

theorem State.modEngine_work (s : State) (m : MxeId) (f : MxeEngine → MxeEngine) : SameWork s (s.modEngine m f) := .of_eq rfl rfl rfl rfl

theorem withReads_work {q : PlotId} {j : Job} {rs : List (Nat × Nat)} {node : Option NodeId} {k : State → State}
    (h : ∀ s, SameWork s (k s)) (s : State) : SameWork s (withReads s q j rs node k) := by
  have touches (s : State) : SameWork s (rs.foldl (fun s r => (pagesOf r.1 r.2).foldl (fun s p =>
      if 0x80000 ≤ p then touchPage s q (p - 0x80000) else s) s) s) :=
    .foldl (fun s r => .foldl (fun s p => by
      split
      · exact State.modMsh_work ..
      · exact .refl s) _ s) rs s
  unfold withReads
  extract_lets as
  split
  · exact chargeFault_work ..
  · split
    · exact chargeFault_work ..
    · split
      · exact .refl s
      · exact (touches s).trans (h _)

theorem rangeEvent_work (s : State) (q : PlotId) (i : BitVec 16) (m : MxeId) : SameWork s (rangeEvent s q i m) := by
  unfold rangeEvent
  exact (chargeFault_work ..).after (.ofPlot rfl rfl)

theorem countMacs_work (s : State) (q : PlotId) (n : Nat) : SameWork s (countMacs s q n) := by
  unfold countMacs
  exact SameWork.trans (b := s.modMxeCnt q fun c => { c with macs := c.macs + n }) (.ofPlot rfl rfl) (.of_eq rfl rfl rfl rfl)

theorem carryOpen_work (s : State) (q : PlotId) (i : BitVec 16) : SameWork s (carryOpen s q i) := by
  unfold carryOpen
  refine .foldl (fun s m => ?_) _ s
  dsimp only
  split
  · split
    · exact .refl s
    · split
      · exact .refl s
      · refine withReads_work (fun s => ?_) s
        split
        · exact (rangeEvent_work ..).after (State.modEngine_work ..)
        · exact (State.modEngine_work ..).after (countMacs_work ..)
  · exact .refl s

theorem SameRegs.modPlt (s : State) (q : PlotId) (f : PltSet → PltSet) : SameRegs s (s.modPlt q f) := .modPlot rfl

theorem programDone_regs (s : State) (q : PlotId) (i : BitVec 16) : SameRegs s (programDone s q i) := by
  unfold programDone
  split
  · exact .refl s
  · split
    · exact .refl s
    · extract_lets carried last open_ writing
      have carries : SameRegs s carried := (carryOpen_work s q i).toSameRegs
      split
      · exact carries
      · split
        · exact carries.trans (chargeFault_work ..).toSameRegs
        · exact carries.trans (.modJob ..)

theorem regainJob_regs (s : State) (q : PlotId) (i : BitVec 16) : SameRegs s (regainJob s q i) := by
  unfold regainJob
  split
  · exact .refl s
  · split
    · exact .refl s
    · dsimp only
      split
      · exact .refl s
      · exact .modPlot rfl

theorem outWrites_regs (l : List (Nat × List Byte)) (s : State) (q : PlotId) (i : BitVec 16) : SameRegs s (outWrites s q i l) := by
  induction l generalizing s with
  | nil => exact .refl s
  | cons x l ih =>
    unfold outWrites
    split
    · exact .refl s
    · split
      · split
        · exact (chargeFault_work ..).toSameRegs
        · exact .refl s
      · extract_lets grown
        have grows : SameRegs s grown := .modPlt ..
        exact (grows.trans (State.emit_work ..).toSameRegs).trans (ih _)

theorem takeReport_regs (s : State) (r : FrameReport) : SameRegs s (takeReport s r) := by
  unfold takeReport
  extract_lets written
  have writes : SameRegs s written := outWrites_regs r.out s r.plot r.idx
  split
  · exact writes.trans ((programDone_regs written r.plot r.idx).trans (regainJob_regs ..))
  · exact writes

/-! ### Every plot for itself -/

/-- Where each plot's change leaves every other plot, a plot is after the changes of all what its own change makes of it. -/
theorem eachPlot_own {R : State → State → Prop} {f : State → PlotId → State} (refl : ∀ s, R s s)
    (trans : ∀ {a b c}, R a b → R b c → R a c) (step : ∀ s p, R s (f s p)) (other : ∀ s p q, q ≠ p → (f s p).plot q = s.plot q)
    (l : List PlotId) (once : l.Nodup) (s : State) (q : PlotId) :
    R s (s.eachPlot l f) ∧ (q ∉ l → (s.eachPlot l f).plot q = s.plot q) ∧
    (q ∈ l → ∃ u, R s u ∧ u.plot q = s.plot q ∧ (s.eachPlot l f).plot q = (f u q).plot q) := by
  induction l generalizing s with
  | nil => exact ⟨refl s, fun _ => rfl, fun none => absurd none List.not_mem_nil⟩
  | cons p l ih =>
    obtain ⟨fresh, rest⟩ := List.nodup_cons.1 once
    obtain ⟨all, out, own⟩ := ih rest (f s p)
    refine ⟨trans (step s p) all, fun none => ?_, fun mem => ?_⟩
    · obtain ⟨ne, later⟩ := not_or.1 fun h => none (List.mem_cons.2 h)
      exact (out later).trans (other s p q ne)
    · by_cases same : q = p
      · subst same
        exact ⟨s, refl s, rfl, out fresh⟩
      · obtain ⟨u, reached, stands, ends⟩ := own ((List.mem_cons.1 mem).resolve_left same)
        exact ⟨u, trans (step s p) reached, stands.trans (other s p q same), ends⟩

/-! ### Step 1 -/

/-- The jobs that run when the window opens overrun, and parts park. -/
def step1Marked (s : State) (q : PlotId) : State :=
  parkAll (((s.plot q).plt.jobs.filter fun j => j.live && j.phase == .running).foldl (fun s j => recordOverrun s q j false) s) q

theorem step1Marked_work (s : State) (q : PlotId) : SameWork s (step1Marked s q) := by
  unfold step1Marked parkAll
  exact (recordOverruns_work ..).trans (State.modFln_work ..)

/-- A plot with the snapshot of its shadows and its ring head. -/
def Plot.snapped (p : Plot) : Plot := { p with
  snap := p.shadow,
  plt := { p.plt with snapHead := (match p.plt.head with | .ready _ _ => true | _ => false) },
  nse := { p.nse with lowRaised := false },
  skt := { p.skt with raised := false } }

theorem step1Plot_eq (s : State) (q : PlotId) : step1Plot s q = (step1Marked s q).modPlot q Plot.snapped := rfl

theorem step1Plot_other (s : State) (p q : PlotId) (h : q ≠ p) : (step1Plot s p).plot q = s.plot q :=
  (step1Plot_keeps (P := fun r => r == p) p (Keeps.refl s) (Covers.refl _) (by simp)).plot_eq (by simpa using h)

/-- Outside the plots' own snapshots step 1 leaves what the sequence leaves. -/
structure SameFrame (s t : State) : Prop extends SameWindow s t where
  dev : t.frm.regs = s.frm.regs
  content : t.cfg.content = s.cfg.content

theorem SameRegs.frame {s t : State} (h : SameRegs s t) : SameFrame s t := ⟨h.toSameWindow, h.dev, h.content⟩

theorem SameFrame.trans {a b c : State} (h : SameFrame a b) (k : SameFrame b c) : SameFrame a c :=
  ⟨h.toSameWindow.trans k.toSameWindow, k.dev.trans h.dev, k.content.trans h.content⟩

theorem step1Plot_frame (s : State) (q : PlotId) : SameFrame s (step1Plot s q) :=
  (step1Marked_work s q).toSameRegs.frame.trans ⟨⟨rfl, rfl, fun _ => id⟩, rfl, rfl⟩

/-- The snapshot of a plot is its shadows. -/
theorem step1Plot_snaps (s : State) (q : PlotId) :
    ((step1Plot s q).plot q).regs = ((s.plot q).rws, (s.plot q).shadow, (s.plot q).shadow, (s.plot q).cfg.prefuse) := by
  have regs := (step1Marked_work s q).plots q
  rw [step1Plot_eq, State.modPlot_self]
  exact Prod.ext (congrArg (·.1) regs) (Prod.ext (congrArg (·.2.1) regs)
    (Prod.ext (congrArg (·.2.1) regs) (congrArg (·.2.2.2) regs)))

/-- Every live job that still runs is late. -/
def RunnersLate (p : Plot) : Prop := ∀ j ∈ p.plt.jobs, j.live = true → j.phase = .running → j.late = true

theorem step1Plot_late (s : State) (q : PlotId) : RunnersLate ((step1Plot s q).plot q) := by
  intro j mem live runs
  rw [step1Plot_eq, State.modPlot_self] at mem
  have before : j ∈ ((step1Marked s q).plot q).plt.jobs := mem
  unfold step1Marked parkAll at before
  rw [State.modFln_self] at before
  exact overrunAll_late (p := fun j => j.live && j.phase == .running) s j before live (by rw [live, runs]; rfl)

/-- Step 1 of every plot. -/
theorem step1_plots (s : State) (q : PlotId) :
    let t := s.eachPlot allPlots step1Plot
    SameFrame s t ∧ RunnersLate (t.plot q) ∧
    (t.plot q).regs = ((s.plot q).rws, (s.plot q).shadow, (s.plot q).shadow, (s.plot q).cfg.prefuse) := by
  intro t
  obtain ⟨frame, -, own⟩ := eachPlot_own (R := SameFrame) (fun s => (SameRegs.refl s).frame) SameFrame.trans step1Plot_frame
    step1Plot_other allPlots allPlots_nodup s q
  obtain ⟨u, -, stands, ends⟩ := own (mem_allPlots q)
  refine ⟨frame, ?_, ?_⟩
  · show RunnersLate (t.plot q)
    rw [show t.plot q = _ from ends]
    exact step1Plot_late u q
  · rw [show t.plot q = _ from ends, step1Plot_snaps, stands]

/-- From `s` to `t` moreover the plots' rings and jobs are the same. -/
structure SameRings (s t : State) : Prop extends SameWork s t where
  plt : ∀ q : PlotId, (t.plot q).plt = (s.plot q).plt

theorem SameRings.trans {a b c : State} (h : SameRings a b) (k : SameRings b c) : SameRings a c :=
  ⟨h.toSameWork.trans k.toSameWork, fun q => (k.plt q).trans (h.plt q)⟩

/-- A change of the configuration block outside the image. -/
theorem State.modCfg_rings {s : State} {f : CfgState → CfgState} (content : (f s.cfg).content = s.cfg.content) : SameRings s (s.modCfg f) :=
  ⟨.of_eq rfl rfl content rfl, fun _ => rfl⟩

/-- Each plot shows whether the bundle waits for it. -/
def showWaited (f : PlotId → Bool) (s : State) : State := s.eachPlot allPlots fun s q => s.modCfgSet q fun x => { x with waited := f q }

theorem showWaited_rings (f : PlotId → Bool) (s : State) : SameRings s (showWaited f s) := by
  have one (s : State) (q : PlotId) : SameRings s (s.modCfgSet q fun x => { x with waited := f q }) := by
    refine ⟨.ofPlot rfl rfl, fun p => ?_⟩
    by_cases same : p = q
    · rw [same, State.modCfgSet_self]
    · rw [State.modCfgSet, State.modPlot_other s _ same]
  unfold showWaited State.eachPlot
  generalize allPlots = l
  induction l generalizing s with
  | nil => exact ⟨.refl s, fun _ => rfl⟩
  | cons q l ih => exact (one s q).trans (ih _)

/-- An armed bundle joins or waits: no plot's rings and registers change. -/
theorem bundleStep1_rings (s : State) : SameRings s (bundleStep1 s).1 := by
  unfold bundleStep1
  extract_lets clearing ready
  have clear : SameRings s (clearing (s.modCfg fun c => { c with waitMap := 0 })) :=
    (State.modCfg_rings rfl).trans (showWaited_rings (fun _ => false) _)
  generalize clearing = shown at clear
  split
  · exact clear
  · split
    · exact clear
    · split
      · exact (State.modCfg_rings rfl).trans (showWaited_rings ..)
      · exact ⟨.refl s, fun _ => rfl⟩

/-- Without a bundle that is armed none joins. -/
theorem bundleStep1_none {s : State} (idle : s.cfg.bundle = none ∨ s.cfg.arm = false) : (bundleStep1 s).2 = none := by
  have none : (if (s.cfg.arm && (s.cfg.load == .staged || s.cfg.load == .waiting)) = true then s.cfg.bundle else none) = none := by
    rcases idle with empty | off
    · rw [empty]
      exact ite_self _
    · rw [off]
      rfl
  unfold bundleStep1
  extract_lets clearing ready
  dsimp only [ready]
  rw [none]

/-! ### Step 2 -/

/-- No frame program of the plot runs. -/
def Stopped (s : State) (q : PlotId) : Prop := ∀ j ∈ (s.plot q).plt.jobs, j.live = true → j.phase ≠ .running

theorem SameWork.stopped {s t : State} {q : PlotId} (h : SameWork s t) (stopped : Stopped s q) : Stopped t q := by
  intro k mem live
  obtain ⟨j, found, follows⟩ := h.jobs q k mem
  rcases follows.phase with same | gone | done
  · rw [same]
    exact stopped j found (follows.live live)
  · rw [gone]
    decide
  · rw [done]
    decide

theorem abandonLate_other (s : State) (p q : PlotId) (h : q ≠ p) : (abandonLate s p).plot q = s.plot q :=
  (abandonLate_keeps (P := fun r => r == p) p (Keeps.refl s) (Covers.refl _) (by simp)).plot_eq (by simpa using h)

theorem abandonLate_stops {s : State} {q : PlotId} (late : RunnersLate (s.plot q)) : Stopped (abandonLate s q) q := by
  intro k mem live
  rcases abandonLate_lost s q k mem live with lost | ⟨before, fresh⟩
  · rw [lost]
    decide
  · intro runs
    rw [late k before live runs] at fresh
    contradiction

/-- After the deadline no frame program runs. -/
theorem deadline_stops {s : State} {q : PlotId} (late : RunnersLate (s.plot q)) : Stopped (s.eachPlot allPlots abandonLate) q := by
  obtain ⟨-, -, own⟩ := eachPlot_own (R := SameWork) .refl .trans abandonLate_work abandonLate_other allPlots allPlots_nodup s q
  obtain ⟨u, -, stands, ends⟩ := own (mem_allPlots q)
  unfold Stopped
  rw [ends]
  exact abandonLate_stops (by rw [stands]; exact late)

theorem latchFlash_work (s : State) (q : PlotId) : SameWork s (latchFlash s q) := by
  unfold latchFlash
  exact State.modFln_work ..

theorem latchPlot_work (s : State) (q : PlotId) : SameWork s (latchPlot s q) := by
  unfold latchPlot
  extract_lets carry info group
  exact SameWork.after (.ofPlot rfl rfl) (latchFlash_work ..)

end Sys2Proof.Machine

end


section

/-! PROOFS about a bundle that takes effect in step 4 (R88, R89, R114): no job starts a frame program, and the window stands. -/

namespace Sys2Proof.Machine

open Sys2Proof

/-! ### Stops (Table 2-2) -/

theorem resetLanes_work (s : State) (q : PlotId) : SameWork s (resetLanes s q) := .ofPlot rfl rfl

theorem stopEngines_work (s : State) (q : PlotId) : SameWork s (stopEngines s q) := by
  unfold stopEngines
  extract_lets mesh flash lanes grafts
  have meshes : SameWork s mesh := .of_eq rfl rfl rfl rfl
  have flashes : SameWork mesh flash := by
    dsimp only [flash]
    unfold clearFlashPlot
    extract_lets plots
    have clears : SameWork mesh plots := .ofPlot rfl rfl
    exact clears.trans (.of_eq rfl rfl rfl rfl)
  have grafted : SameWork lanes grafts := .ofPlot rfl rfl
  exact (meshes.trans flashes).trans ((resetLanes_work flash q).trans (grafted.trans (.of_eq rfl rfl rfl rfl)))

theorem clearJobRest_work (s : State) (q : PlotId) (i : BitVec 16) : SameWork s (clearJobRest s q i) := by
  unfold clearJobRest
  extract_lets mesh flash
  have meshes : SameWork s mesh := .of_eq rfl rfl rfl rfl
  have flashes : SameWork mesh flash := by
    dsimp only [flash]
    unfold clearFlashJob
    extract_lets plots
    have clears : SameWork mesh plots := .ofPlot rfl rfl
    exact clears.trans (.of_eq rfl rfl rfl rfl)
  exact (meshes.trans flashes).trans (.of_eq rfl rfl rfl rfl)

theorem freezeAnneal_work (s : State) (q : PlotId) (j : Option Job) : SameWork s (freezeAnneal s q j) := by
  unfold freezeAnneal
  extract_lets p
  split
  · exact .ofPlot rfl rfl
  · exact .ofPlot rfl rfl

/-- A job that a stop cancels follows. -/
theorem Job.cancel_follows (j : Job) : j.Follows j.cancel := by
  unfold Job.cancel
  split
  case isTrue hit =>
    rw [Bool.and_eq_true] at hit
    exact ⟨rfl, rfl, fun _ => hit.1, .inr (.inl rfl)⟩
  case isFalse => exact .refl j

theorem startStop_work (s : State) (q : PlotId) : SameWork s (startStop s q) := by
  unfold startStop
  extract_lets jobs last held frozen cancelled cleared
  have holds : SameWork s held := .ofPlot rfl rfl
  have freezes : SameWork held frozen := freezeAnneal_work ..
  have cancels : SameWork frozen cancelled := .modPlot rfl (.map fun j _ => j.cancel_follows)
  have clears : SameWork cancelled cleared := .foldl (fun s (j : Job) => clearJobRest_work s q j.idx) jobs cancelled
  exact ((holds.trans freezes).trans (cancels.trans clears)).trans ((stopEngines_work ..).trans (State.setPlotState_work ..))

theorem reviewPlot_work (s : State) (q : PlotId) : SameWork s (reviewPlot s q) := by
  unfold reviewPlot
  extract_lets p ok
  split
  · split
    · exact .refl s
    · exact State.setPlotState_work ..
  · split
    · exact State.setPlotState_work ..
    · exact .refl s
  · split
    · exact .refl s
    · exact startStop_work ..
  · exact .refl s

theorem reassignPlot_work (s : State) (q : PlotId) : SameWork s (reassignPlot s q) := by
  unfold reassignPlot
  split
  · exact (startStop_work ..).after (.ofPlot rfl rfl)
  · exact (stopEngines_work ..).trans (State.setPlotState_work ..)
  · exact (stopEngines_work ..).trans (State.setPlotState_work ..)
  · exact .ofPlot rfl rfl
  · exact .refl s

/-! ### Memory moves with the engines (R60, R112 to R114) -/

theorem evict_work (s : State) (q : PlotId) (page : Nat) : SameWork s (evict s q page) := by
  unfold evict
  exact (State.modMsh_work ..).after (.of_eq rfl rfl rfl rfl)

theorem healFrame_work (s : State) (q : PlotId) (b : Pool) (f : Nat) : SameWork s (healFrame s q b f) := by
  unfold healFrame
  split
  · exact .of_eq rfl rfl rfl rfl
  · exact .refl s

theorem copyLines_work (s : State) (q : PlotId) (b : Pool) (f g : Nat) : SameWork s (copyLines s q b f g) := by
  unfold copyLines
  split
  · exact .of_eq rfl rfl rfl rfl
  · exact .refl s

theorem shrinkPool_work (n : Nat) (s : State) (q : PlotId) (b : Pool) : SameWork s (shrinkPool n s q b) := by
  induction n generalizing s with
  | zero => exact .refl s
  | succ n ih =>
    unfold shrinkPool
    split
    · split
      · exact (evict_work ..).trans (ih _)
      · exact .refl s
    · exact .refl s

theorem moveHome_work (s : State) (q : PlotId) (b : Pool) (h k : Nat) : SameWork s (moveHome s q b h k) := by
  unfold moveHome
  extract_lets f
  split
  · exact .refl s
  · split
    · exact (copyLines_work ..).trans (State.modMsh_work ..)
    · exact .refl s

theorem newHome_work (s : State) (q : PlotId) (b : Pool) (k : Nat) : SameWork s (newHome s q b k) := by
  unfold newHome
  extract_lets l
  split
  · exact (healFrame_work ..).trans (State.modMsh_work ..)
  · exact .refl s

theorem fitPool_work (s : State) (q : PlotId) (b : Pool) (h : Nat) : SameWork s (fitPool s q b h) := by
  unfold fitPool
  extract_lets n h' leave healed moved far evicted shrunk homes
  have heals : SameWork s healed := .foldl (fun s k => healFrame_work s q b _) leave s
  have moves : SameWork healed moved := State.modMsh_work ..
  have evicts : SameWork moved evicted := .foldl (fun s (r : Resident) => evict_work s q r.page) far moved
  have shrinks : SameWork evicted shrunk := shrinkPool_work ..
  have fits : SameWork shrunk homes := .foldl (fun s k => moveHome_work s q b (min h h') k) _ shrunk
  exact ((heals.trans moves).trans (evicts.trans shrinks)).trans (fits.trans (.foldl (fun s k => newHome_work s q b k) _ homes))

theorem moveHeld_work (old new : Content) (s : State) (q : PlotId) : SameWork s (moveHeld old new s q) := by
  unfold moveHeld
  split
  · exact .refl s
  · extract_lets jobs pages
    have copies : SameWork s jobs := .modPlot rfl (.map fun j _ => ⟨rfl, rfl, id, .inl rfl⟩)
    have moves : SameWork jobs pages := State.modMsh_work ..
    exact (copies.trans moves).trans (.of_eq rfl rfl rfl rfl)

theorem wipeQuota_work (h h' : Nat) (s : State) (q : PlotId) : SameWork s (wipeQuota h h' s q) := by
  unfold wipeQuota
  split
  · exact .refl s
  · exact .of_eq rfl rfl rfl rfl

theorem movePlot_work (old new : Content) (s : State) (q : PlotId) : SameWork s (movePlot old new s q) := by
  unfold movePlot
  extract_lets held m h h' wiped gone stale evicted
  have holds : SameWork s held := moveHeld_work ..
  have wipes : SameWork held wiped := wipeQuota_work ..
  have evicts : SameWork wiped evicted := .foldl (fun s (r : Resident) => evict_work s q r.page) stale wiped
  have moves := (holds.trans wipes).trans evicts
  split
  · exact moves
  · exact moves.trans (fitPool_work ..)

theorem placeQuotas_work (s : State) (new : Content) : SameWork s (placeQuotas s new) := by
  unfold placeQuotas
  extract_lets keep released freed msh kept
  have keeps : SameWork s kept := .of_eq rfl rfl rfl rfl
  refine keeps.trans (.foldl (fun s q => ?_) tenantPlots kept)
  dsimp only
  split
  · exact (State.modMsh_work ..).after (.of_eq rfl rfl rfl rfl)
  · exact .of_eq rfl rfl rfl rfl

theorem freshIndexes_work (old : Content) (s : State) (q : PlotId) : SameWork s (freshIndexes old s q) := by
  unfold freshIndexes
  refine .foldl (fun s ix => ?_) _ s
  split
  · exact .refl s
  · unfold resetIndex State.modIdx
    exact State.modFln_work ..

theorem adoptPlot_work (s : State) (q : PlotId) : SameWork s (adoptPlot s q) := by
  unfold adoptPlot
  split
  · exact (State.setPlotState_work ..).trans (reviewPlot_work ..)
  · exact .refl s

theorem State.modLaneOf_work (s : State) (l : LaneId) (f : FlashLane → FlashLane) : SameWork s (s.modLaneOf l f) := .of_eq rfl rfl rfl rfl

theorem setupLun_work (s : State) (l : LaneId) (ce lun : Nat) : SameWork s (setupLun s l ce lun) := by
  rw [setupLun_eq]
  exact .of_eq rfl rfl rfl rfl

theorem initLanes_work (s : State) : SameWork s (initLanes s) := by
  unfold initLanes
  refine .foldl (fun s l => ?_) _ s
  dsimp only
  split
  · exact SameWork.after (.foldl (fun s (u : Nat × Nat) => setupLun_work s l u.1 u.2) _ _) (State.modLaneOf_work ..)
  · exact State.modLaneOf_work ..

theorem State.modCfgSet_work {s : State} {q : PlotId} {f : CfgSet → CfgSet} (prefuse : ∀ x, (f x).prefuse = x.prefuse) :
    SameWork s (s.modCfgSet q f) :=
  .ofPlot (congrArg (fun n => ((s.plot q).rws, (s.plot q).shadow, (s.plot q).snap, n)) (prefuse _)) rfl

theorem eachModCfgSet_work {f : CfgSet → CfgSet} (prefuse : ∀ x, (f x).prefuse = x.prefuse) (l : List PlotId) (s : State) :
    SameWork s (s.eachPlot l fun s q => s.modCfgSet q f) :=
  SameWork.foldl (f := fun s q => s.modCfgSet q f) (fun _ _ => State.modCfgSet_work prefuse) l s

theorem dropBundle_work (s : State) : SameWork s (dropBundle s) := by
  unfold dropBundle
  extract_lets idle pages msh left
  have leaves : SameWork s left := .of_eq rfl rfl rfl rfl
  exact leaves.trans
    (eachModCfgSet_work (f := fun x => { x with touched := false, waited := false }) (fun _ => rfl) allPlots left)

/-! ### The whole bundle (R89) -/

/-- From `s` to `t` the window stands and the jobs follow. -/
structure SameJobs (s t : State) : Prop extends SameWindow s t where
  jobs : ∀ q : PlotId, JobsFollow (s.plot q).plt.jobs (t.plot q).plt.jobs

theorem SameWork.onlyJobs {s t : State} (h : SameWork s t) : SameJobs s t := ⟨h.toSameWindow, h.jobs⟩

theorem SameJobs.trans {a b c : State} (h : SameJobs a b) (k : SameJobs b c) : SameJobs a c :=
  ⟨h.toSameWindow.trans k.toSameWindow, fun q => (h.jobs q).trans (k.jobs q)⟩

theorem SameJobs.foldl {α : Type} {f : State → α → State} (h : ∀ s x, SameJobs s (f s x)) (l : List α) (s : State) :
    SameJobs s (l.foldl f s) := by
  induction l generalizing s with
  | nil => exact (SameWork.refl s).onlyJobs
  | cons x l ih => exact (h s x).trans (ih _)

theorem SameJobs.of_plots {s t : State} (boot : t.boot = s.boot) (frm : t.frm = s.frm) (plots : t.plots = s.plots) : SameJobs s t :=
  ⟨⟨by rw [boot], by rw [frm], fun i set => by rw [frm]; exact set⟩, fun q => by rw [plot_of_plots_eq plots]; exact .refl _⟩

theorem applyBundle_jobs (s : State) (b : Bundle) : SameJobs s (applyBundle s b) := by
  unfold applyBundle
  extract_lets old new plots reassigned put moved placed loaded slipped fresh adopted lanes
  have reassigns : SameWork s reassigned := .foldl (fun s q => by
    split
    · exact reassignPlot_work ..
    · exact .refl s) plots s
  have puts : SameJobs reassigned put := .of_plots rfl rfl rfl
  have moves : SameWork put moved := .foldl (movePlot_work old new) plots put
  have loads : SameWork placed loaded := by
    dsimp only [loaded]
    generalize placed = u
    exact (State.modCfg_rings rfl).toSameWork
  have slips : SameWork loaded slipped := by
    dsimp only [slipped]
    generalize loaded = u
    split
    · exact State.modCfgSet_work fun _ => rfl
    · exact eachModCfgSet_work (f := fun x => { x with pslipSeq := 0 }) (fun _ => rfl) allPlots u
  have freshens : SameWork slipped fresh := .foldl (freshIndexes_work old) plots slipped
  have adopts : SameWork fresh adopted := .foldl adoptPlot_work plots fresh
  have inits : SameWork adopted lanes := by
    dsimp only [lanes]
    split
    · exact initLanes_work adopted
    · exact .refl adopted
  have before := (reassigns.onlyJobs.trans puts).trans (moves.trans (placeQuotas_work moved new)).onlyJobs
  have after := (loads.trans slips).trans ((freshens.trans adopts).trans inits)
  have ends (u : State) : SameWork u ((u.modCfg fun c => { c with last := 1 }).raisePf 3) :=
    (State.modCfg_rings rfl).toSameWork.trans (State.raisePf_work ..)
  exact before.trans (after.trans ((dropBundle_work lanes).trans (ends _))).onlyJobs

end Sys2Proof.Machine

end


section

/-! PROOFS about steps 3 and 4 of the commit sequence (R22, R90): a plot that passes takes its snapshot, a plot that fails keeps its
registers and counts a refusal. -/

namespace Sys2Proof.Machine

open Sys2Proof

/-! ### Refusals and commits leave the window and the jobs -/

theorem SameJobs.modPlot {s : State} {q : PlotId} {f : Plot → Plot} (jobs : (f (s.plot q)).plt.jobs = (s.plot q).plt.jobs) :
    SameJobs s (s.modPlot q f) := by
  refine ⟨⟨rfl, rfl, fun _ => id⟩, fun p => ?_⟩
  by_cases same : p = q
  · rw [same, State.modPlot_self, jobs]
    exact .refl _
  · rw [State.modPlot_other s f same]
    exact .refl _

/-- The cause and the line of a refusal. -/
def refusalReported (s : State) (q : PlotId) (fresh : Bool) (a : Nat) : State :=
  let s := (if q = 0 then s else s.raisePlot q 0x20).raisePf 2
  if fresh then s.logLine 0x22 q.val none a 0 else s

theorem refusalReported_work (s : State) (q : PlotId) (fresh : Bool) (a : Nat) : SameWork s (refusalReported s q fresh a) := by
  unfold refusalReported
  extract_lets raised
  have raises : SameWork s raised := by
    dsimp only [raised]
    split
    · exact State.raisePf_work ..
    · exact (State.raisePlot_work ..).trans (State.raisePf_work ..)
  split
  · exact raises.trans (State.logLine_work ..)
  · exact raises

/-- A plot's refusal is shown and counted. -/
def refusalCounted (s : State) (q : PlotId) (f : Fail) : State :=
  (s.modCfgSet q fun x => { x with
    perrCode := BitVec.ofNat 8 f.1, perrDetail := BitVec.ofNat 16 f.2, prefuse := satInc x.prefuse,
    lastRefusal := some (BitVec.ofNat 8 f.1, BitVec.ofNat 16 f.2) }).modCfg
      fun c => { c with commitErr := refusalWord q f, refuseCnt := satInc c.refuseCnt }

theorem refusePlot_eq (s : State) (q : PlotId) (f : Fail) : refusePlot s q f =
    refusalReported (refusalCounted s q f) q ((s.plot q).cfg.lastRefusal != some (BitVec.ofNat 8 f.1, BitVec.ofNat 16 f.2))
      ((BitVec.ofNat 8 f.1).toNat * 65536 + (BitVec.ofNat 16 f.2).toNat) := rfl

section Counted

variable (s : State) (q : PlotId) (g : CfgSet → CfgSet) (h : CfgState → CfgState)

theorem State.modCfg_frame (content : (h s.cfg).content = s.cfg.content) : SameFrame s ((s.modCfgSet q g).modCfg h) :=
  ⟨⟨rfl, rfl, fun _ => id⟩, rfl, content⟩

theorem State.modCfg_jobs : SameJobs s ((s.modCfgSet q g).modCfg h) :=
  SameJobs.trans (b := s.modCfgSet q g) (.modPlot rfl) (.of_plots rfl rfl rfl)

theorem State.modCfg_plot : ((s.modCfgSet q g).modCfg h).plot q = { s.plot q with cfg := g (s.plot q).cfg } :=
  State.modCfgSet_self s q g

end Counted

theorem refusePlot_frame (s : State) (q : PlotId) (f : Fail) : SameFrame s (refusePlot s q f) := by
  have counts : SameFrame s (refusalCounted s q f) := State.modCfg_frame s q _ _ rfl
  rw [refusePlot_eq]
  exact counts.trans (refusalReported_work ..).toSameRegs.frame

theorem refusePlot_jobs (s : State) (q : PlotId) (f : Fail) : SameJobs s (refusePlot s q f) := by
  have counts : SameJobs s (refusalCounted s q f) := State.modCfg_jobs ..
  rw [refusePlot_eq]
  exact counts.trans (refusalReported_work ..).onlyJobs

/-- A refused plot keeps its registers and counts the refusal. -/
theorem refusePlot_regs (s : State) (q : PlotId) (f : Fail) : ((refusePlot s q f).plot q).regs =
    ((s.plot q).rws, (s.plot q).shadow, (s.plot q).snap, satInc (s.plot q).cfg.prefuse) := by
  rw [refusePlot_eq, (refusalReported_work ..).plots q]
  unfold refusalCounted
  rw [State.modCfg_plot]
  rfl

theorem refusePlot_other (s : State) (f : Fail) {p q : PlotId} (h : q ≠ p) : (refusePlot s p f).plot q = s.plot q :=
  (refusePlot_keeps (P := fun r => r == p) p f (Keeps.refl s) (Covers.refl _) (by simp)).plot_eq (by simpa using h)

theorem noteCommit_work (s : State) (q : PlotId) (changed : Bool) : SameWork s (noteCommit s q changed) := by
  unfold noteCommit
  split
  · exact State.modCfgSet_work fun _ => rfl
  · exact .refl s

theorem switchSource_work (s : State) (src : BitVec 2) : SameWork s (switchSource s src) := by
  unfold switchSource
  extract_lets st
  exact (State.frmEvent_work ..).after (.modFrm rfl rfl fun _ => id)

theorem applyPlot_jobs (s : State) (q : PlotId) (b : Option Bundle) (changed : Bool) : SameJobs s (applyPlot s q b changed) := by
  unfold applyPlot
  extract_lets presets dev devNew noted taken old new marked placed
  split
  · have takes : SameJobs noted taken := ⟨⟨rfl, rfl, fun _ => id⟩, fun _ => .refl _⟩
    have all := (noteCommit_work s q _).onlyJobs.trans takes
    split
    · exact all
    · exact all.trans (switchSource_work ..).onlyJobs
  · have places : SameJobs marked placed := .modPlot rfl
    have all := (noteCommit_work s q _).onlyJobs.trans places
    split
    · exact all.trans (resetLanes_work placed q).onlyJobs
    · exact all

theorem refuseBundle_work (s : State) : SameWork s (refuseBundle s) := by
  have ends (u : State) : SameWork u ((u.modCfg fun c => { c with last := 3 }).raisePf 3) :=
    (State.modCfg_rings rfl).toSameWork.trans (State.raisePf_work ..)
  exact (dropBundle_work s).trans (ends _)

/-- A plot that is judged: it is refused, or its last refusal is over. -/
def judgePlot (s : State) (x : PlotId × Option Fail) : State := match x.2 with
  | some f => refusePlot s x.1 f
  | none => s.modCfgSet x.1 fun y => { y with lastRefusal := none }

theorem judgePlot_jobs (s : State) (x : PlotId × Option Fail) : SameJobs s (judgePlot s x) := by
  unfold judgePlot
  split
  · exact refusePlot_jobs ..
  · exact .modPlot rfl

/-- A bundle that joined takes effect. -/
def joinedApplied (s : State) (o : Option Bundle) : State := match o with | some b => applyBundle s b | none => s

theorem joinedApplied_jobs (s : State) (o : Option Bundle) : SameJobs s (joinedApplied s o) := by
  unfold joinedApplied
  split
  · exact applyBundle_jobs ..
  · exact (SameWork.refl s).onlyJobs

/-- Steps 3 and 4 leave the window, and every job follows. -/
theorem steps34_jobs (s : State) (j : Option (Bundle × Option Nat)) : SameJobs s (steps34 s j) := by
  unfold steps34
  extract_lets b res judged passed whole joined refused undo old applied committed
  have judges : SameJobs s judged := .foldl judgePlot_jobs res s
  have refuses : SameJobs judged refused := by
    dsimp only [refused]
    by_cases fails : (b.isSome && !whole) = true
    · rw [if_pos fails]
      exact (refuseBundle_work judged).onlyJobs
    · rw [if_neg fails]
      exact (SameWork.refl judged).onlyJobs
  have applies : SameJobs refused applied := joinedApplied_jobs refused joined
  have commits : SameJobs applied committed := .foldl (fun s q => applyPlot_jobs ..) passed applied
  exact ((judges.trans refuses).trans (applies.trans commits)).trans (.of_plots rfl rfl rfl)

/-! ### Without a bundle -/

theorem Plot.regs_eq_of {p : Plot} {a b c : PlotRws} {n : Word} (h : p.regs = (a, b, c, n)) :
    p.rws = a ∧ p.shadow = b ∧ p.snap = c ∧ p.cfg.prefuse = n := by
  simpa only [Plot.regs, Prod.mk.injEq] using h

theorem Plot.regs_eq {p r : Plot} (h : p.regs = r.regs) :
    p.rws = r.rws ∧ p.shadow = r.shadow ∧ p.snap = r.snap ∧ p.cfg.prefuse = r.cfg.prefuse := Plot.regs_eq_of h

/-- Every plot is judged by its verdict. -/
def judgeAll (v : PlotId → Option Fail) (s : State) : State := s.eachPlot allPlots fun s q => judgePlot s (q, v q)

/-- The plots that passed. -/
def passedPlots (v : PlotId → Option Fail) : List PlotId := allPlots.filter fun q => decide (v q = none)

/-- Every plot that passed takes its snapshot. -/
def commitAll (v : PlotId → Option Fail) (s : State) : State := s.eachPlot (passedPlots v) fun s q => applyPlot s q none false

/-- Without a bundle every plot has its verdict, and the plots that pass commit. -/
theorem steps34_none (s : State) : ∃ v u, steps34 s none = { commitAll v (judgeAll v s) with undo := u } := by
  obtain ⟨f, eq, own⟩ : ∃ f : PlotId → PlotId × Option Fail, peerFails none (checkAll s none) = allPlots.map f ∧ ∀ q, (f q).1 = q := by
    unfold peerFails checkAll
    exact ⟨_, rfl, fun _ => rfl⟩
  obtain ⟨v, verdicts⟩ : ∃ v : PlotId → Option Fail, peerFails none (checkAll s none) = allPlots.map fun q => (q, v q) :=
    ⟨fun q => (f q).2, eq.trans (List.map_congr_left fun q _ => Prod.ext (own q) rfl)⟩
  have judges : (peerFails none (checkAll s none)).foldl judgePlot s = judgeAll v s := by
    rw [verdicts, List.foldl_map]
    rfl
  have passed : ((peerFails none (checkAll s none)).filter fun x => x.2 = none).map (·.1) = passedPlots v := by
    rw [verdicts, List.filter_map, List.map_map]
    exact List.map_id _
  refine ⟨v, some (undoRecord (judgeAll v s) []), ?_⟩
  rw [← judges]
  unfold commitAll State.eachPlot
  rw [← passed]
  rfl

theorem judgePlot_frame (s : State) (x : PlotId × Option Fail) : SameFrame s (judgePlot s x) := by
  unfold judgePlot
  split
  · exact refusePlot_frame ..
  · exact (State.modCfgSet_work (f := fun y => { y with lastRefusal := none }) fun _ => rfl).toSameRegs.frame

theorem judgePlot_other (s : State) (v : Option Fail) {p q : PlotId} (h : q ≠ p) : (judgePlot s (p, v)).plot q = s.plot q := by
  unfold judgePlot
  split
  · exact refusePlot_other s _ h
  · exact State.modPlot_other s _ h

/-- A plot's registers after it was judged. -/
theorem judgePlot_regs (s : State) (q : PlotId) (v : Option Fail) : ((judgePlot s (q, v)).plot q).regs =
    ((s.plot q).rws, (s.plot q).shadow, (s.plot q).snap,
      if v = none then (s.plot q).cfg.prefuse else satInc (s.plot q).cfg.prefuse) := by
  unfold judgePlot
  cases v with
  | none => exact (State.modCfgSet_work (f := fun y => { y with lastRefusal := none }) fun _ => rfl).plots q
  | some f => exact refusePlot_regs s q f

theorem judgeAll_regs (v : PlotId → Option Fail) (s : State) (q : PlotId) :
    SameFrame s (judgeAll v s) ∧ ((judgeAll v s).plot q).regs =
    ((s.plot q).rws, (s.plot q).shadow, (s.plot q).snap,
      if v q = none then (s.plot q).cfg.prefuse else satInc (s.plot q).cfg.prefuse) := by
  obtain ⟨frame, -, own⟩ := eachPlot_own (R := SameFrame) (f := fun s q => judgePlot s (q, v q)) (fun s => (SameRegs.refl s).frame)
    SameFrame.trans (fun s p => judgePlot_frame s (p, v p)) (fun s p q h => judgePlot_other s (v p) h) allPlots allPlots_nodup s q
  obtain ⟨u, -, stands, ends⟩ := own (mem_allPlots q)
  refine ⟨frame, ?_⟩
  rw [show (judgeAll v s).plot q = _ from ends, judgePlot_regs, stands]

/-- From `s` to `t` the window and the image stand. -/
structure SameImage (s t : State) : Prop extends SameWindow s t where
  content : t.cfg.content = s.cfg.content

theorem SameRegs.image {s t : State} (h : SameRegs s t) : SameImage s t := ⟨h.toSameWindow, h.content⟩

theorem SameImage.trans {a b c : State} (h : SameImage a b) (k : SameImage b c) : SameImage a c :=
  ⟨h.toSameWindow.trans k.toSameWindow, k.content.trans h.content⟩

/-- Plot 0 takes its snapshot: the frame's registers are the snapshot's, its shadows stay, and no plot's registers change. -/
theorem applyDev_regs (s : State) : SameImage s (applyPlot s 0 none false) ∧
    (applyPlot s 0 none false).frm.regs = (s.frm.snap, s.frm.shadow, s.frm.snap) ∧
    ∀ q, ((applyPlot s 0 none false).plot q).regs = (s.plot q).regs := by
  unfold applyPlot
  rw [if_pos rfl]
  extract_lets old new noted taken
  have notes : SameRegs s noted := (noteCommit_work s 0 _).toSameRegs
  have takes : SameImage noted taken := ⟨⟨rfl, rfl, fun _ => id⟩, rfl⟩
  have regs : taken.frm.regs = (s.frm.snap, s.frm.shadow, s.frm.snap) := by
    have shadow : noted.frm.shadow = s.frm.shadow := congrArg (·.2.1) notes.dev
    have snap : noted.frm.snap = s.frm.snap := congrArg (·.2.2) notes.dev
    exact Prod.ext rfl (Prod.ext shadow snap)
  split
  · exact ⟨notes.image.trans takes, regs, notes.plots⟩
  · have switches := (switchSource_work taken new.src).toSameRegs
    exact ⟨(notes.image.trans takes).trans switches.image, switches.dev.trans regs, fun q => (switches.plots q).trans (notes.plots q)⟩

/-- A plot takes its snapshot; the frame's registers stay. -/
theorem applyTenant_regs (s : State) {q : PlotId} (tenant : q ≠ 0) : SameFrame s (applyPlot s q none false) ∧
    ((applyPlot s q none false).plot q).regs = ((s.plot q).snap, (s.plot q).shadow, (s.plot q).snap, (s.plot q).cfg.prefuse) := by
  unfold applyPlot
  rw [if_neg tenant]
  extract_lets old new noted taken
  have notes : SameRegs s noted := (noteCommit_work s q _).toSameRegs
  have takes : SameFrame noted taken := ⟨⟨rfl, rfl, fun _ => id⟩, rfl, rfl⟩
  have regs : (taken.plot q).regs = ((s.plot q).snap, (s.plot q).shadow, (s.plot q).snap, (s.plot q).cfg.prefuse) := by
    dsimp only [taken]
    rw [State.modPlot_self]
    have own := notes.plots q
    exact Prod.ext rfl (Prod.ext (congrArg (·.2.1) own) (congrArg (·.2.2) own))
  split
  · have resets := (resetLanes_work taken q).toSameRegs
    exact ⟨(notes.frame.trans takes).trans resets.frame, (resets.plots q).trans regs⟩
  · exact ⟨notes.frame.trans takes, regs⟩

theorem applyPlot_other (s : State) {p q : PlotId} (h : q ≠ p) : (applyPlot s p none false).plot q = s.plot q :=
  (applyPlot_keeps (P := fun r => r == p) p none false (Keeps.refl s) (Covers.refl _) (by simp)).plot_eq (by simpa using h)

theorem applyPlot_image (s : State) (q : PlotId) : SameImage s (applyPlot s q none false) := by
  by_cases device : q = 0
  · subst device
    exact (applyDev_regs s).1
  · exact ⟨(applyTenant_regs s device).1.toSameWindow, (applyTenant_regs s device).1.content⟩

/-- Plot 0's registers after the plots that passed have committed. -/
theorem commits_dev (l : List PlotId) (s : State) :
    (s.eachPlot l fun s q => applyPlot s q none false).frm.regs =
      if 0 ∈ l then (s.frm.snap, s.frm.shadow, s.frm.snap) else s.frm.regs := by
  induction l generalizing s with
  | nil => rfl
  | cons p l ih =>
    refine (ih (applyPlot s p none false)).trans ?_
    by_cases device : p = 0
    · subst device
      have regs := (applyDev_regs s).2.1
      rw [if_pos (List.mem_cons_self ..), regs, show (applyPlot s 0 none false).frm.snap = s.frm.snap from congrArg (·.2.2) regs,
        show (applyPlot s 0 none false).frm.shadow = s.frm.shadow from congrArg (·.2.1) regs]
      exact ite_self _
    · have regs := (applyTenant_regs s device).1.dev
      rw [regs, show (applyPlot s p none false).frm.snap = s.frm.snap from congrArg (·.2.2) regs,
        show (applyPlot s p none false).frm.shadow = s.frm.shadow from congrArg (·.2.1) regs]
      simp only [List.mem_cons, Ne.symm device, false_or]

theorem mem_passedPlots {v : PlotId → Option Fail} {q : PlotId} : q ∈ passedPlots v ↔ v q = none := by
  unfold passedPlots
  rw [List.mem_filter]
  simp only [mem_allPlots, true_and, decide_eq_true_eq]

/-- A plot's registers after the plots that passed have committed. -/
theorem commitAll_regs (v : PlotId → Option Fail) (s : State) (q : PlotId) : SameImage s (commitAll v s) ∧
    ((commitAll v s).plot q).regs = if v q = none ∧ q ≠ 0 then
      ((s.plot q).snap, (s.plot q).shadow, (s.plot q).snap, (s.plot q).cfg.prefuse) else (s.plot q).regs := by
  obtain ⟨image, out, own⟩ := eachPlot_own (R := SameImage) (f := fun s q => applyPlot s q none false)
    (fun s => (SameRegs.refl s).image) SameImage.trans applyPlot_image (fun s p q h => applyPlot_other s h) (passedPlots v)
    (allPlots_nodup.filter _) s q
  refine ⟨image, ?_⟩
  by_cases passes : v q = none
  · obtain ⟨u, -, stands, ends⟩ := own (mem_passedPlots.2 passes)
    rw [show (commitAll v s).plot q = _ from ends]
    by_cases device : q = 0
    · subst device
      rw [if_neg fun h => h.2 rfl, (applyDev_regs u).2.2 0, stands]
    · rw [if_pos ⟨passes, device⟩, (applyTenant_regs u device).2, stands]
  · rw [if_neg fun h => passes h.1]
    rw [show (commitAll v s).plot q = _ from out fun mem => passes (mem_passedPlots.1 mem)]

/-- Steps 3 and 4 without a bundle: the snapshot is committed, or the refusal counted. -/
theorem steps34_commits (s : State) :
    let t := steps34 s none
    t.cfg.content = s.cfg.content ∧
    (t.frm.rws = s.frm.snap ∧ (t.plot 0).cfg.prefuse = (s.plot 0).cfg.prefuse ∨
      t.frm.rws = s.frm.rws ∧ (t.plot 0).cfg.prefuse = satInc (s.plot 0).cfg.prefuse) ∧
    ∀ q : PlotId, q ≠ 0 → (t.plot q).shadow = (s.plot q).shadow ∧
      ((t.plot q).rws = (s.plot q).snap ∧ (t.plot q).cfg.prefuse = (s.plot q).cfg.prefuse ∨
        (t.plot q).rws = (s.plot q).rws ∧ (t.plot q).cfg.prefuse = satInc (s.plot q).cfg.prefuse) := by
  intro t
  obtain ⟨v, u, eq⟩ := steps34_none s
  have plot (q : PlotId) : t.plot q = (commitAll v (judgeAll v s)).plot q := by
    rw [show t = _ from eq]
    rfl
  have regs (q : PlotId) : (t.plot q).regs = _ := (congrArg Plot.regs (plot q)).trans (commitAll_regs v (judgeAll v s) q).2
  have judged (q : PlotId) := (judgeAll_regs v s q).2
  have frame := (judgeAll_regs v s 0).1
  refine ⟨?_, ?_, fun q tenant => ?_⟩
  · exact (congrArg (fun x : State => x.cfg.content) eq).trans ((commitAll_regs v (judgeAll v s) 0).1.content.trans frame.content)
  · have dev : t.frm.regs = if 0 ∈ passedPlots v then _ else _ :=
      (congrArg (fun x : State => x.frm.regs) eq).trans (commits_dev (passedPlots v) (judgeAll v s))
    have own := regs 0
    rw [if_neg fun h => h.2 rfl] at own
    obtain ⟨-, -, -, prefuse⟩ := Plot.regs_eq own
    obtain ⟨-, -, -, counted⟩ := Plot.regs_eq_of (judged 0)
    by_cases passes : v 0 = none
    · rw [if_pos (mem_passedPlots.2 passes)] at dev
      rw [if_pos passes] at counted
      exact .inl ⟨(congrArg (·.1) dev).trans (congrArg (·.2.2) frame.dev), prefuse.trans counted⟩
    · rw [if_neg (mt mem_passedPlots.1 passes)] at dev
      rw [if_neg passes] at counted
      exact .inr ⟨(congrArg (·.1) dev).trans (congrArg (·.1) frame.dev), prefuse.trans counted⟩
  · have own := regs q
    obtain ⟨rws, shadow, snap, counted⟩ := Plot.regs_eq_of (judged q)
    by_cases passes : v q = none
    · rw [if_pos ⟨passes, tenant⟩] at own
      rw [if_pos passes] at counted
      obtain ⟨takes, shades, -, refused⟩ := Plot.regs_eq_of own
      exact ⟨shades.trans shadow, .inl ⟨takes.trans snap, refused.trans counted⟩⟩
    · rw [if_neg fun h => passes h.1] at own
      rw [if_neg passes] at counted
      obtain ⟨keeps, shades, -, refused⟩ := Plot.regs_eq own
      exact ⟨shades.trans shadow, .inr ⟨keeps.trans rws, refused.trans counted⟩⟩

end Sys2Proof.Machine

end


section

/-! PROOFS about steps 6 and 8 of the commit sequence (R25, R26, R54, R55, R169): finished jobs complete but those whose record tape has no
room, and completed ones are recorded. -/

namespace Sys2Proof.Machine

open Sys2Proof

/-! ### What leaves the fabric of a plot as it is -/

/-- From `s` to `t` the registers stay, the jobs follow, and a plot's fabric is the same. -/
structure SameFabric (q : PlotId) (s t : State) : Prop extends SameWork s t where
  an : (t.plot q).an = (s.plot q).an

namespace SameFabric

variable {q : PlotId}

theorem refl (s : State) : SameFabric q s s := ⟨.refl s, rfl⟩

theorem trans {a b c : State} (h : SameFabric q a b) (k : SameFabric q b c) : SameFabric q a c :=
  ⟨h.toSameWork.trans k.toSameWork, k.an.trans h.an⟩

/-- The later change comes first here: the goal's operation is the outermost one. -/
theorem after {a b c : State} (k : SameFabric q b c) (h : SameFabric q a b) : SameFabric q a c := h.trans k

theorem foldl {α : Type} {f : State → α → State} (h : ∀ s x, SameFabric q s (f s x)) (l : List α) (s : State) :
    SameFabric q s (l.foldl f s) := by
  induction l generalizing s with
  | nil => exact .refl s
  | cons x l ih => exact (h s x).trans (ih _)

/-- A change that leaves the plots. -/
theorem of_plots {s t : State} (work : SameWork s t) (plots : t.plots = s.plots) : SameFabric q s t :=
  ⟨work, by rw [plot_of_plots_eq plots]⟩

theorem of_eq {s t : State} (boot : t.boot = s.boot) (frm : t.frm = s.frm) (content : t.cfg.content = s.cfg.content)
    (plots : t.plots = s.plots) : SameFabric q s t := .of_plots (.of_eq boot frm content plots) plots

theorem modPlot {s : State} {p : PlotId} {f : Plot → Plot} (work : SameWork s (s.modPlot p f)) (an : (f (s.plot p)).an = (s.plot p).an) :
    SameFabric q s (s.modPlot p f) := by
  refine ⟨work, ?_⟩
  by_cases same : q = p
  · rw [same, State.modPlot_self, an]
  · rw [State.modPlot_other s f same]

/-- A change of a plot outside its registers, its jobs and its fabric. -/
theorem ofPlot {s : State} {p : PlotId} {f : Plot → Plot} (regs : (f (s.plot p)).regs = (s.plot p).regs)
    (jobs : (f (s.plot p)).plt.jobs = (s.plot p).plt.jobs) (an : (f (s.plot p)).an = (s.plot p).an) :
    SameFabric q s (s.modPlot p f) := .modPlot (.ofPlot regs jobs) an

/-- A change of a plot's jobs. -/
theorem modJobs {s : State} {p : PlotId} {g : List Job → List Job} (jobs : JobsFollow (s.plot p).plt.jobs (g (s.plot p).plt.jobs)) :
    SameFabric q s (s.modPlt p fun x => { x with jobs := g x.jobs }) := by
  unfold State.modPlt
  exact .modPlot (.modPlot rfl jobs) rfl

end SameFabric

section

variable {q : PlotId}

theorem State.modMsh_fabric (s : State) (p : PlotId) (f : MshSet → MshSet) : SameFabric q s (s.modMsh p f) := .ofPlot rfl rfl rfl

theorem State.modFln_fabric (s : State) (p : PlotId) (f : FlnPlot → FlnPlot) : SameFabric q s (s.modFln p f) := .ofPlot rfl rfl rfl

theorem State.modNse_fabric (s : State) (p : PlotId) (f : NsePlot → NsePlot) : SameFabric q s (s.modNse p f) := .ofPlot rfl rfl rfl

theorem State.modLane_fabric (s : State) (p : PlotId) (t : Fin 64) (f : TapeLane → TapeLane) : SameFabric q s (s.modLane p t f) := by
  unfold State.modLane
  exact State.modNse_fabric ..

theorem State.raisePf_fabric (s : State) (c : Fin 15) : SameFabric q s (s.raisePf c) :=
  .of_plots (State.raisePf_work ..) (State.raisePf_plots ..)

theorem State.logLine_fabric (s : State) (code plot : Nat) (node : Option NodeId) (a b : Nat) :
    SameFabric q s (s.logLine code plot node a b) := .of_plots (State.logLine_work ..) (State.logLine_plots ..)

theorem State.raisePlot_fabric (s : State) (p : PlotId) (m : BitVec 13) : SameFabric q s (s.raisePlot p m) := by
  refine ⟨State.raisePlot_work .., ?_⟩
  by_cases same : q = p
  · rw [same, State.raisePlot_self]
  · have keeps := State.raisePlot_keeps (P := fun r => r == p) p m (Keeps.refl s) (Covers.refl _) (by simp)
    rw [keeps.plot_eq (q := q) (by simpa using same)]

theorem State.modJob_fabric {s : State} {p : PlotId} {i : BitVec 16} {f : Job → Job} (h : ∀ j : Job, j.live = true → j.Follows (f j)) :
    SameFabric q s (s.modJob p i f) := by
  have work := SameWork.modJob (s := s) (q := p) (i := i) h
  unfold State.modJob State.modPlt at work ⊢
  exact .modPlot work rfl

theorem State.hostWrite_fabric (s : State) (f : Fn) (a : Nat) (bs : List Byte) (relaxed : Bool) :
    SameFabric q s (s.hostWrite f a bs relaxed) := by
  unfold State.hostWrite
  split
  · exact .of_eq rfl rfl rfl rfl
  · exact .refl s

theorem State.pokeHome_fabric (s : State) (p : PlotId) (a : Nat) (bs : List Byte) : SameFabric q s (s.pokeHome p a bs) := by
  unfold State.pokeHome
  refine SameFabric.trans (b := healRange (s.pokeMem p a bs) p none a bs.length) (.of_eq rfl rfl rfl rfl) (.foldl (fun s j => ?_) _ _)
  exact (State.modJob_fabric (f := fun k => k.putShared p a bs) fun k _ => ⟨rfl, rfl, id, .inl rfl⟩).after (.of_eq rfl rfl rfl rfl)

theorem State.setPlotState_fabric (s : State) (p : PlotId) (st : PlotState) : SameFabric q s (s.setPlotState p st) := by
  unfold State.setPlotState
  split
  · exact .refl s
  · extract_lets moved pf noted
    have moves : SameFabric q s moved := .ofPlot rfl rfl rfl
    have notes : SameFabric q moved noted := .of_eq rfl rfl rfl rfl
    exact (moves.trans notes).trans ((State.raisePlot_fabric ..).trans (State.raisePf_fabric ..))

/-! ### Record tapes end (R169) -/

theorem checkLow_fabric (s : State) (p : PlotId) (t : Fin 64) : SameFabric q s (checkLow s p t) := by
  unfold checkLow
  dsimp only
  split
  · exact .refl s
  · split
    · exact (State.raisePlot_fabric ..).after ((State.modNse_fabric ..).after (State.modLane_fabric ..))
    · exact State.modLane_fabric ..

theorem writeSegment_fabric (s : State) (p : PlotId) (t : Fin 64) (ws : List Nat) (last : Bool) :
    SameFabric q s (writeSegment s p t ws last) := by
  unfold writeSegment
  dsimp only
  exact (checkLow_fabric ..).after ((State.modLane_fabric ..).after (State.hostWrite_fabric ..))

theorem recordWrite_fabric (s : State) (p : PlotId) (t : Fin 64) : SameFabric q s (recordWrite s p t) := by
  unfold recordWrite
  dsimp only
  split
  · exact (writeSegment_fabric ..).after (State.modLane_fabric ..)
  · exact .refl s

theorem writeFull_fabric (n : Nat) (s : State) (p : PlotId) (t : Fin 64) : SameFabric q s (writeFull n s p t) := by
  induction n generalizing s with
  | zero => exact .refl s
  | succ n ih => exact (recordWrite_fabric s p t).trans (ih _)

theorem recordEnd_fabric (s : State) (p : PlotId) : SameFabric q s (recordEnd s p) := by
  unfold recordEnd
  dsimp only
  split
  · refine .foldl (fun s t => ?_) _ s
    split
    · exact (writeSegment_fabric ..).after ((State.modLane_fabric ..).after (writeFull_fabric ..))
    · exact .refl s
  · exact .refl s

/-! ### A finished job is published (R54) -/

theorem publishPages_fabric (s : State) (p : PlotId) (j : Job) : SameFabric q s (publishPages s p j) := by
  unfold publishPages
  extract_lets pages placed
  have places : SameFabric q s placed := .foldl (fun s n => by
    split
    · exact State.modMsh_fabric ..
    · exact .refl s) pages s
  exact places.trans (.of_eq rfl rfl rfl rfl)

theorem publishFlash_fabric (s : State) (p : PlotId) (i : BitVec 16) : SameFabric q s (publishFlash s p i) := by
  unfold publishFlash
  refine .foldl (fun s ix => ?_) _ s
  extract_lets e cap x r indexed poked
  have indexes : SameFabric q s indexed := State.modFln_fabric ..
  have pokes : SameFabric q indexed poked := by
    dsimp only [poked]
    clear_value e
    split
    · exact .foldl (fun s (d : SideEntry) => State.pokeHome_fabric ..) _ _
    · exact .refl _
  split
  · exact (indexes.trans pokes).trans (State.modFln_fabric ..)
  · exact indexes.trans pokes

/-- A job is published but for its completion. -/
def jobPublished (s : State) (p : PlotId) (j : Job) : State :=
  let s := publishFlash (publishPages s p j) p j.idx
  let s := if j.passed && (s.plot p).an.job == j.idx then recordEnd s p else s
  let s := s.modFln p (fun f => { f with queries := f.queries.filter (fun x => !(x.job == j.idx)) })
  let s := if (s.plot p).an.job == j.idx then s.modPlot p (fun p => { p with grf := { p.grf with phase := 0, scan := none } }) else s
  { s with mxes := s.mxes.map (fun (e : MxeEngine) => if MxeRun.of e.carry p j.idx then e.clear false else e) }

theorem publishJob_eq (s : State) (p : PlotId) (j : Job) : publishJob s p j =
    (jobPublished s p j).modPlt p fun p => { p with jobs := completeJobs p.jobs fun k => k.idx == j.idx && k.live } := rfl

theorem jobPublished_fabric (s : State) (p : PlotId) (j : Job) : SameFabric q s (jobPublished s p j) := by
  unfold jobPublished
  extract_lets written taped cleared grafts
  have writes : SameFabric q s written := (publishPages_fabric s p j).trans (publishFlash_fabric ..)
  have tapes : SameFabric q written taped := by
    dsimp only [taped]
    split
    · exact recordEnd_fabric ..
    · exact .refl _
  have clears : SameFabric q taped cleared := State.modFln_fabric ..
  have grafted : SameFabric q cleared grafts := by
    dsimp only [grafts]
    split
    · exact .ofPlot rfl rfl rfl
    · exact .refl _
  exact ((writes.trans tapes).trans (clears.trans grafted)).trans (.of_eq rfl rfl rfl rfl)

end

/-! ### Completed jobs -/

/-- A job of a list in which jobs completed is over, or is one that did not. -/
theorem mem_completeJobs {l : List Job} {p : Job → Bool} {k : Job} (mem : k ∈ completeJobs l p) :
    (k ∈ l ∧ p k = false) ∨ ∃ j ∈ l, p j = true ∧ k = { j with phase := .over, budget := false, deadline := false } := by
  rcases List.mem_append.1 mem with stays | done
  · obtain ⟨found, kept⟩ := List.mem_filter.1 stays
    exact .inl ⟨found, by simpa using kept⟩
  · obtain ⟨j, found, rfl⟩ := List.mem_map.1 done
    obtain ⟨was, hit⟩ := List.mem_filter.1 found
    exact .inr ⟨j, was, hit, rfl⟩

theorem completeJobs_follow {l : List Job} {p : Job → Bool} (live : ∀ j, p j = true → j.live = true) : JobsFollow l (completeJobs l p) := by
  intro k mem
  rcases mem_completeJobs mem with ⟨found, -⟩ | ⟨j, found, hit, rfl⟩
  · exact ⟨k, found, .refl k⟩
  · exact ⟨j, found, rfl, rfl, fun _ => live j hit, .inr (.inr rfl)⟩

/-- A completed job is not live. -/
theorem Job.over_not_live {j : Job} (done : j.phase = .over) : j.live = false := by
  simp [Job.live, done]

theorem publishJob_fabric {q : PlotId} (s : State) (p : PlotId) (j : Job) : SameFabric q s (publishJob s p j) := by
  rw [publishJob_eq]
  exact (jobPublished_fabric s p j).trans (.modJobs (g := fun l => completeJobs l fun k => k.idx == j.idx && k.live)
    (completeJobs_follow fun k hit => (Bool.and_eq_true_iff.1 hit).2))

/-- After a job was published no live job has its number. -/
theorem publishJob_live {s : State} {q : PlotId} {j k : Job} (mem : k ∈ ((publishJob s q j).plot q).plt.jobs) (live : k.live = true) :
    j.idx ≠ k.idx := by
  rw [publishJob_eq, State.modPlt_self] at mem
  rcases mem_completeJobs mem with ⟨-, kept⟩ | ⟨i, -, -, rfl⟩
  · intro same
    rw [same, live] at kept
    simp at kept
  · exact absurd live (by rw [Job.over_not_live rfl]; exact Bool.false_ne_true)

/-- After the jobs of a list were published a live job follows one of another number. -/
theorem publishJobs_live (q : PlotId) (l : List Job) (s : State) : ∀ k ∈ ((l.foldl (fun s j => publishJob s q j) s).plot q).plt.jobs,
    k.live = true → ∃ i ∈ (s.plot q).plt.jobs, i.Follows k ∧ ∀ j ∈ l, j.idx ≠ k.idx := by
  induction l generalizing s with
  | nil => exact fun k mem _ => ⟨k, mem, .refl k, fun j none => by contradiction⟩
  | cons j l ih =>
    intro k mem live
    obtain ⟨i, found, follows, rest⟩ := ih _ k mem live
    obtain ⟨h, was, earlier⟩ := (publishJob_fabric (q := q) s q j).jobs q i found
    refine ⟨h, was, earlier.trans follows, fun m listed => ?_⟩
    rcases List.mem_cons.1 listed with rfl | later
    · rw [follows.idx]
      exact publishJob_live found (follows.live live)
    · exact rest m later

/-! ### Claims are released (R25) -/

/-- A live job of the plot waits, is being abandoned, or has finished in the plot's fabric. -/
def Released (p : Plot) : Prop := ∀ j ∈ p.plt.jobs, j.live = true →
  j.phase = .waiting ∨ j.phase = .between ∨ j.phase = .abandoning ∨ (j.phase = .finished ∧ j.passed = true ∧ p.an.job = j.idx)

/-- The jobs that complete in step 6. -/
def finishedJobs (s : State) (q : PlotId) : List Job := (s.plot q).plt.jobs.filter fun j => j.live && j.phase == .finished &&
  (!(j.passed && (s.plot q).an.job == j.idx && (tapeRws s q).tapeOn && (tapeRws s q).tapeDir) || recordRoom s q)

/-- The finished jobs complete. -/
def jobsDone (s : State) (q : PlotId) : State := (finishedJobs s q).foldl (fun s j => publishJob s q j) s

/-- The completed jobs let go of their claims. -/
def claimsReleased (s : State) (q : PlotId) : State :=
  (jobsDone s q).modPlt q fun p => { p with jobs := p.jobs.map fun j => if j.phase == .over then { j with released := true } else j }

theorem releaseClaims_eq (s : State) (q : PlotId) : releaseClaims s q =
    let t := claimsReleased s q
    if (t.plot q).plt.state == .running && decide ((t.plot q).plt.admitted = 0) then reviewPlot (t.setPlotState q .idle) q else t := rfl

/-- A job lets go of its claims once it is over. -/
def Job.release (j : Job) : Job := if j.phase == .over then { j with released := true } else j

theorem Job.release_follows (j : Job) : j.Follows j.release := by
  unfold Job.release
  split
  · exact ⟨rfl, rfl, fun live => by simp [Job.live, Job.admitted] at live, .inl rfl⟩
  · exact .refl j

theorem claimsReleased_fabric {q : PlotId} (s : State) (p : PlotId) : SameFabric q s (claimsReleased s p) := by
  have done : SameFabric q s (jobsDone s p) := .foldl (fun s j => publishJob_fabric s p j) _ s
  have frees : JobsFollow ((jobsDone s p).plot p).plt.jobs (((jobsDone s p).plot p).plt.jobs.map Job.release) :=
    .map fun j _ => j.release_follows
  exact done.trans (.modJobs (g := fun l => l.map Job.release) frees)

/-- A finished job that does not complete is its plot's fabric's, whose tape has no room. -/
theorem finished_waits {s : State} {q : PlotId} {j : Job} (found : j ∈ (s.plot q).plt.jobs) (live : j.live = true)
    (phase : j.phase = .finished) (waits : j ∉ finishedJobs s q) : j.passed = true ∧ (s.plot q).an.job = j.idx := by
  have refused := mt (fun hit => List.mem_filter.2 ⟨found, hit⟩) waits
  simp only [live, phase, beq_self_eq_true, Bool.and_self, Bool.true_and, Bool.or_eq_true, Bool.not_eq_true', not_or,
    Bool.not_eq_false, Bool.and_eq_true, beq_iff_eq] at refused
  obtain ⟨⟨⟨⟨passed, own⟩, -⟩, -⟩, -⟩ := refused
  exact ⟨passed, own⟩

theorem claimsReleased_released {s : State} {q : PlotId} (stopped : Stopped s q) : Released ((claimsReleased s q).plot q) := by
  have an : ((claimsReleased s q).plot q).an.job = (s.plot q).an.job := congrArg (·.job) (claimsReleased_fabric (q := q) s q).an
  intro k mem live
  have freed : ∃ i ∈ ((jobsDone s q).plot q).plt.jobs, i.Follows k ∧ i.live = true := by
    unfold claimsReleased at mem
    rw [State.modPlt_self] at mem
    obtain ⟨i, found, rfl⟩ := List.mem_map.1 mem
    by_cases done : i.phase == .over
    · rw [if_pos done] at live
      simp [Job.live, Job.admitted] at live
    · rw [if_neg done] at live ⊢
      exact ⟨i, found, .refl i, live⟩
  obtain ⟨i, found, same, ilive⟩ := freed
  obtain ⟨j, was, before, others⟩ := publishJobs_live q (finishedJobs s q) s i found ilive
  have follows := before.trans same
  have jlive := follows.live live
  rcases follows.phase with phase | gone | done
  · rw [phase]
    rcases kind : j.phase with _ | _ | _ | _ | _ | _
    · exact .inl rfl
    · exact absurd kind (stopped j was jlive)
    · exact .inr (.inl rfl)
    · have waits : j ∉ finishedJobs s q := fun hit => others j hit before.idx.symm
      obtain ⟨passed, own⟩ := finished_waits was jlive kind waits
      exact .inr (.inr (.inr ⟨rfl, follows.passed.trans passed, by rw [an, own, follows.idx]⟩))
    · exact .inr (.inr (.inl rfl))
    · exact absurd jlive (by rw [Job.over_not_live kind]; exact Bool.false_ne_true)
  · exact .inr (.inr (.inl gone))
  · exact absurd live (by rw [Job.over_not_live done]; exact Bool.false_ne_true)

theorem releaseClaims_work (s : State) (q : PlotId) : SameWork s (releaseClaims s q) := by
  rw [releaseClaims_eq]
  extract_lets t
  have frees : SameWork s t := (claimsReleased_fabric (q := q) s q).toSameWork
  split
  · exact frees.trans ((State.setPlotState_work ..).trans (reviewPlot_work ..))
  · exact frees

/-- Once claims are released, what is left of a plot's live jobs waits. -/
theorem releaseClaims_released {s : State} {q : PlotId} (stopped : Stopped s q) : Released ((releaseClaims s q).plot q) := by
  rw [releaseClaims_eq]
  extract_lets t
  have frees : Released (t.plot q) := claimsReleased_released stopped
  split
  case isFalse => exact frees
  case isTrue idle =>
    rw [Bool.and_eq_true, decide_eq_true_eq] at idle
    intro k mem live
    obtain ⟨j, found, follows⟩ := ((State.setPlotState_work t q .idle).trans (reviewPlot_work ..)).jobs q k mem
    have admitted : j ∈ (t.plot q).plt.jobs.filter Job.admitted := by
      have jlive := follows.live live
      rw [Job.live, Bool.and_eq_true] at jlive
      exact List.mem_filter.2 ⟨found, jlive.1⟩
    exact absurd (List.length_eq_zero_iff.1 idle.2 ▸ admitted) List.not_mem_nil

theorem SameFabric.released {s t : State} {q : PlotId} (h : SameFabric q s t) (released : Released (s.plot q)) : Released (t.plot q) := by
  intro k mem live
  obtain ⟨j, found, follows⟩ := h.jobs q k mem
  rcases follows.phase with phase | gone | done
  · rw [phase, follows.passed, follows.idx, h.an]
    exact released j found (follows.live live)
  · exact .inr (.inr (.inl gone))
  · exact absurd live (by rw [Job.over_not_live done]; exact Bool.false_ne_true)

/-- The release of a plot's claims leaves every other plot's fabric. -/
theorem releaseClaims_fabric {s : State} {p q : PlotId} (other : q ≠ p) : SameFabric q s (releaseClaims s p) := by
  rw [releaseClaims_eq]
  extract_lets t
  have frees : SameFabric q s t := claimsReleased_fabric s p
  split
  · refine frees.trans ⟨(State.setPlotState_work ..).trans (reviewPlot_work ..), ?_⟩
    have keeps := reviewPlot_keeps (P := fun r => r == p) p (State.setPlotState_keeps p .idle (Keeps.refl t)
      (Covers.of (Covers.refl _) (by decide)) (by simp)) (Covers.refl _) (by simp)
    rw [keeps.plot_eq (q := q) (by simpa using other)]
  · exact frees

/-- Once every plot's claims are released, what is left of a plot's live jobs waits. -/
theorem releaseAll_released {q : PlotId} (l : List PlotId) (s : State) (h : q ∈ l ∧ Stopped s q ∨ Released (s.plot q)) :
    Released ((s.eachPlot l releaseClaims).plot q) := by
  induction l generalizing s with
  | nil => exact h.resolve_left fun none => List.not_mem_nil none.1
  | cons p l ih =>
    refine ih _ ?_
    by_cases same : q = p
    · subst same
      rcases h with ⟨-, stopped⟩ | released
      · exact .inr (releaseClaims_released stopped)
      · refine .inr (releaseClaims_released fun j mem live runs => ?_)
        rcases released j mem live with phase | phase | phase | ⟨phase, -⟩
        all_goals exact absurd (phase.symm.trans runs) (by decide)
    · rcases h with ⟨mem, stopped⟩ | released
      · exact .inl ⟨(List.mem_cons.1 mem).resolve_left same, (releaseClaims_work s p).stopped stopped⟩
      · exact .inr ((releaseClaims_fabric same).released released)

end Sys2Proof.Machine

end


section

/-! PROOFS about admission and records (R26, R27, R55), and the whole commit sequence (R20, R22). -/

namespace Sys2Proof.Machine

open Sys2Proof

/-! ### Admission (R26, R27) -/

/-- From `s` to `t` the registers stay; jobs that wait or are over may have joined a plot's, whose fabric is the same job's. -/
structure Admits (q : PlotId) (s t : State) : Prop extends SameRegs s t where
  jobs : ∃ l, (t.plot q).plt.jobs = (s.plot q).plt.jobs ++ l ∧ ∀ j ∈ l, j.phase = .waiting ∨ j.phase = .over
  an : (t.plot q).an.job = (s.plot q).an.job

theorem Admits.released {s t : State} {q : PlotId} (h : Admits q s t) (released : Released (s.plot q)) : Released (t.plot q) := by
  obtain ⟨l, jobs, fresh⟩ := h.jobs
  intro j mem live
  rw [jobs] at mem
  rcases List.mem_append.1 mem with was | joined
  · rw [h.an]
    exact released j was live
  · rcases fresh j joined with waits | done
    · exact .inl waits
    · exact absurd live (by rw [Job.over_not_live done]; exact Bool.false_ne_true)

/-- A change that leaves the plot. -/
theorem Admits.of_plot {s t : State} {q : PlotId} (regs : SameRegs s t) (jobs : (t.plot q).plt.jobs = (s.plot q).plt.jobs)
    (an : (t.plot q).an.job = (s.plot q).an.job) : Admits q s t :=
  ⟨regs, ⟨[], by rw [jobs, List.append_nil], fun j none => absurd none List.not_mem_nil⟩, an⟩

theorem Admits.trans_plot {s t u : State} {q : PlotId} (h : Admits q s t) (regs : SameRegs t u)
    (jobs : (u.plot q).plt.jobs = (t.plot q).plt.jobs) (an : (u.plot q).an.job = (t.plot q).an.job) : Admits q s u := by
  obtain ⟨l, joins, fresh⟩ := h.jobs
  exact ⟨h.toSameRegs.trans regs, ⟨l, jobs.trans joins, fresh⟩, an.trans h.an⟩

theorem startFetch_own (s : State) (q : PlotId) : SameRegs s (startFetch s q) ∧
    ((startFetch s q).plot q).plt.jobs = (s.plot q).plt.jobs ∧ ((startFetch s q).plot q).an = (s.plot q).an := by
  unfold startFetch
  extract_lets p
  split
  · have read (u : State) (a : Nat) : (u.hostRead q .descriptor a 64).plot q = u.plot q := rfl
    refine ⟨(SameRegs.modPlt ..).trans (State.hostRead_work ..).toSameRegs, ?_, ?_⟩
    · rw [read, State.modPlt_self]
    · rw [read, State.modPlt_self]
  · exact ⟨.refl s, rfl, rfl⟩

theorem Admits.startFetch {s t : State} {q : PlotId} (h : Admits q s t) : Admits q s (startFetch t q) := by
  obtain ⟨regs, jobs, an⟩ := startFetch_own t q
  exact h.trans_plot regs jobs (by rw [an])

theorem completeUnran_admits (s : State) (q : PlotId) (d : Desc) (c : Code) : Admits q s (completeUnran s q d c) := by
  unfold completeUnran
  extract_lets p j
  refine Admits.startFetch ⟨.modPlt .., ⟨[j], ?_, fun k mem => ?_⟩, ?_⟩
  · rw [State.modPlt_self]
  · exact .inr (List.mem_singleton.1 mem ▸ rfl)
  · rw [State.modPlt_self]

theorem movedSet_jobs (p : PltSet) (st : PlotState) : (movedSet p st).jobs = p.jobs := by
  unfold movedSet
  split
  · rfl
  · rfl

theorem admitJob_admits (s : State) (q : PlotId) (d : Desc) (i : Image) : Admits q s (admitJob s q d i) := by
  unfold admitJob
  extract_lets r taped p j joined
  have tapes : SameRegs s taped ∧ (taped.plot q).plt = (s.plot q).plt ∧ (taped.plot q).an = (s.plot q).an := by
    have resets : SameRegs s (resetLanes s q) ∧ ((resetLanes s q).plot q).plt = (s.plot q).plt ∧
        ((resetLanes s q).plot q).an = (s.plot q).an := by
      refine ⟨(resetLanes_work s q).toSameRegs, ?_, ?_⟩
      · rw [resetLanes, State.modPlot_self]
      · rw [resetLanes, State.modPlot_self]
    dsimp only [taped]
    split
    · split
      · exact ⟨.refl s, rfl, rfl⟩
      · exact resets
    · exact ⟨.refl s, rfl, rfl⟩
  obtain ⟨regs, plt, an⟩ := tapes
  have joins : Admits q s joined := by
    refine ⟨regs.trans (.modPlot rfl), ⟨[j], ?_, fun k mem => ?_⟩, ?_⟩
    · dsimp only [joined]
      rw [State.modPlot_self, ← plt]
    · exact .inl (List.mem_singleton.1 mem ▸ rfl)
    · dsimp only [joined]
      rw [State.modPlot_self, ← an]
  have running : ((joined.setPlotState q .running).plot q).plt.jobs = (joined.plot q).plt.jobs := by
    rw [State.setPlotState_plot]
    exact movedSet_jobs ..
  have runs := State.setPlotState_fabric (q := q) joined q .running
  exact (joins.trans_plot runs.toSameRegs running (by rw [runs.an])).startFetch

theorem considerHead_admits (held : List (PlotId × Nat)) (s : State) (q : PlotId) : Admits q s (considerHead held s q) := by
  have same : Admits q s s := .of_plot (.refl s) rfl rfl
  unfold considerHead
  extract_lets p
  split
  · exact same
  · split
    · split
      · exact completeUnran_admits ..
      · split
        · exact completeUnran_admits ..
        · split
          · exact admitJob_admits ..
          · exact same
    · exact same

theorem considerHead_other (held : List (PlotId × Nat)) (s : State) (p q : PlotId) (h : q ≠ p) :
    (considerHead held s p).plot q = s.plot q :=
  (considerHead_keeps (P := fun r => r == p) held p (Keeps.refl s) (Covers.refl _) (by simp)).plot_eq (by simpa using h)

theorem considerHeads_released (held : List (PlotId × Nat)) {q : PlotId} (l : List PlotId) (s : State) (released : Released (s.plot q)) :
    Released ((s.eachPlot l (considerHead held)).plot q) := by
  induction l generalizing s with
  | nil => exact released
  | cons p l ih =>
    refine ih _ ?_
    by_cases same : q = p
    · subst same
      exact (considerHead_admits held s q).released released
    · rw [considerHead_other held s p q same]
      exact released

/-! ### Step 6 -/

/-- Step 6 but for the rotation. -/
def admitted (s : State) : State :=
  let held := allPlots.map fun q => (q, (s.plot q).plt.admitted)
  let s := s.eachPlot allPlots releaseClaims
  s.eachPlot (admitOrder s) (considerHead held)

theorem step6_eq (s : State) : step6 s = (admitted s).modFrm fun f => { f with rotation := f.rotation % 64 + 1 } := rfl

theorem admitted_regs (s : State) : SameRegs s (admitted s) := by
  unfold admitted
  extract_lets held freed
  have frees : SameRegs s freed := .foldl (fun s q => (releaseClaims_work s q).toSameRegs) allPlots s
  exact frees.trans (.foldl (fun s q => (considerHead_admits held s q).toSameRegs) _ freed)

theorem admitted_released {s : State} {q : PlotId} (stopped : Stopped s q) : Released ((admitted s).plot q) := by
  unfold admitted
  extract_lets held freed
  exact considerHeads_released held _ freed (releaseAll_released allPlots s (.inl ⟨mem_allPlots q, stopped⟩))

/-! ### Step 8 (R55) -/

theorem stopPlotSigning_fabric {q : PlotId} (s : State) (p : PlotId) : SameFabric q s (stopPlotSigning s p) := by
  unfold stopPlotSigning
  dsimp only
  exact (State.logLine_fabric ..).after ((State.raisePf_fabric ..).after (.of_eq rfl rfl rfl rfl))

theorem formRecord_fabric {q : PlotId} (s : State) (p : PlotId) (j : Job) : SameFabric q s (formRecord s p j) := by
  unfold formRecord
  extract_lets plt signed seq index head bytes formed marked counted
  have forms : SameFabric q s formed := .ofPlot rfl rfl rfl
  have marks : SameFabric q formed marked := by
    dsimp only [marked]
    split
    · exact .refl _
    · exact .ofPlot rfl rfl rfl
  have both := forms.trans marks
  split
  case isTrue numbered _ =>
    have numbers : SameFabric q marked numbered := .of_eq rfl rfl rfl rfl
    split
    · exact (both.trans numbers).trans (stopPlotSigning_fabric ..)
    · exact both.trans numbers
  case isFalse => exact both.trans (.of_eq rfl rfl rfl rfl)

theorem writeFormedAux_fabric {q : PlotId} (n : Nat) (s : State) (p : PlotId) (irq : Bool) :
    SameFabric q s (writeFormedAux n s p irq).1 := by
  induction n generalizing s irq with
  | zero => exact .refl s
  | succ n ih =>
    unfold writeFormedAux
    extract_lets plt
    split
    · exact .refl s
    · split
      · exact .refl s
      · extract_lets sent written pf mapped noted raised
        have writes : SameFabric q s written := SameFabric.trans (b := sent) (.of_eq rfl rfl rfl rfl) (.ofPlot rfl rfl rfl)
        have notes : SameFabric q written noted :=
          SameFabric.trans (b := mapped) (.of_eq rfl rfl rfl rfl) (State.raisePlot_fabric ..)
        have raises : SameFabric q written raised := by
          dsimp only [raised]
          split
          · split
            · exact notes.trans (State.raisePf_fabric ..)
            · exact notes
          · exact .refl _
        exact (writes.trans raises).trans (ih ..)

theorem writeFormed_fabric {q : PlotId} (s : State) (p : PlotId) : SameFabric q s (writeFormed s p) := by
  have writes := writeFormedAux_fabric (q := q) (s.plot p).plt.formed.length s p false
  unfold writeFormed
  dsimp only
  split
  · exact writes.trans (State.raisePlot_fabric ..)
  · exact writes

/-- The completed jobs leave the list. -/
theorem step8Plot_fabric {q : PlotId} (s : State) (p : PlotId) : SameFabric q s (step8Plot s p) := by
  unfold step8Plot
  extract_lets done formed left
  have forms : SameFabric q s formed := .foldl (fun s j => formRecord_fabric s p j) done s
  have leaves : SameFabric q formed left :=
    .modJobs (g := fun l => l.filter fun j => j.phase != .over) (.of_subset fun k mem => (List.mem_filter.1 mem).1)
  exact (forms.trans leaves).trans (writeFormed_fabric ..)

end Sys2Proof.Machine

end


section

/-! PROOFS about the whole commit sequence (R20, R22, R26, R29, R55, R90): its steps one after another, and what stands at its end. -/

namespace Sys2Proof.Machine

open Sys2Proof

/-! ### Step 8: no completed job is left (R55) -/

theorem writeFormedAux_jobs (n : Nat) (s : State) (q : PlotId) (irq : Bool) :
    ((writeFormedAux n s q irq).1.plot q).plt.jobs = (s.plot q).plt.jobs := by
  induction n generalizing s irq with
  | zero => rfl
  | succ n ih =>
    unfold writeFormedAux
    extract_lets plt
    split
    · rfl
    · split
      · rfl
      · extract_lets sent written pf mapped noted raised
        have writes : (written.plot q).plt.jobs = (s.plot q).plt.jobs := by
          dsimp only [written]
          rw [State.modPlt_self]
          rfl
        have notes : (noted.plot q).plt.jobs = (s.plot q).plt.jobs := by
          dsimp only [noted]
          rw [State.raisePlot_self]
          exact writes
        refine (ih ..).trans ?_
        dsimp only [raised]
        split
        · split
          · rw [plot_of_plots_eq (State.raisePf_plots ..), notes]
          · exact notes
        · exact writes

theorem writeFormed_jobs (s : State) (q : PlotId) : ((writeFormed s q).plot q).plt.jobs = (s.plot q).plt.jobs := by
  have writes := writeFormedAux_jobs (s.plot q).plt.formed.length s q false
  unfold writeFormed
  dsimp only
  split
  · rw [State.raisePlot_self]
    exact writes
  · exact writes

/-- After step 8 of a plot none of its jobs is over. -/
theorem step8Plot_done (s : State) (q : PlotId) : ∀ j ∈ ((step8Plot s q).plot q).plt.jobs, j.phase ≠ .over := by
  intro j mem
  unfold step8Plot at mem
  rw [writeFormed_jobs, State.modPlt_self] at mem
  simpa using (List.mem_filter.1 mem).2

theorem step8Plot_other (s : State) (p q : PlotId) (h : q ≠ p) : (step8Plot s p).plot q = s.plot q :=
  (step8Plot_keeps (P := fun r => r == p) p (Keeps.refl s) (Covers.refl _) (by simp)).plot_eq (by simpa using h)

theorem step8_plots (s : State) (q : PlotId) :
    SameFabric q s (s.eachPlot allPlots step8Plot) ∧ ∀ j ∈ ((s.eachPlot allPlots step8Plot).plot q).plt.jobs, j.phase ≠ .over := by
  obtain ⟨fabric, -, own⟩ := eachPlot_own (R := SameFabric q) .refl .trans step8Plot_fabric step8Plot_other allPlots allPlots_nodup s q
  obtain ⟨u, -, -, ends⟩ := own (mem_allPlots q)
  refine ⟨fabric, ?_⟩
  rw [ends]
  exact step8Plot_done u q

/-! ### The sequence in its steps -/

/-- The window opens: its bound, and the snapshot of plot 0's shadows. -/
def windowOpened (s : State) (r : WindowReport) : State :=
  let s := s.advanceTo (s.frm.tickAt + 94 * s.frm.framePeriod)
  let s := s.modFrm fun f => { f with opened := true, commitEnd := s.boot.tclk + r.commitTclk, snap := f.shadow }
  { s with pwr := { s.pwr with warned := false } }

/-- The reports are taken in and the plots hold no half of a register. -/
def windowReported (s : State) (r : WindowReport) : State :=
  (r.frames.foldl takeReport (windowOpened s r)).eachPlot allPlots fun s q => s.modPlot q fun p => { p with held := none }

/-- Step 1 but for the bundle. -/
def windowSnapped (s : State) (r : WindowReport) : State := (windowReported s r).eachPlot allPlots step1Plot

/-- Steps 2 and 5: the late jobs are abandoned, and the counts are latched. -/
def deadlinePassed (s : State) (j : Option (Bundle × Option Nat)) (r : WindowReport) : State :=
  let s := s.modCfg fun c => { c with joined := j.map fun _ => c.load.num }
  let s := s.eachPlot allPlots abandonLate
  let s := s.eachPlot allPlots overrunLine
  latchDevice (s.eachPlot allPlots latchPlot) r.links

/-- The sequence up to its step 4. -/
def windowCommitted (s : State) (r : WindowReport) : State :=
  let b := bundleStep1 (windowSnapped s r)
  normaliseBanks (steps34 (deadlinePassed b.1 b.2 r) b.2)

theorem commitWindow_eq {s : State} (r : WindowReport) (ready : s.isReady = true) (shut : s.frm.opened = false) :
    commitWindow s r = (step6 (windowCommitted s r)).eachPlot allPlots step8Plot := by
  unfold commitWindow windowCommitted deadlinePassed windowSnapped windowReported windowOpened
  rw [if_neg (by rw [ready, shut]; decide)]

/-! ### What the steps leave -/

theorem windowReported_regs (s : State) (r : WindowReport) : SameRegs (windowOpened s r) (windowReported s r) := by
  unfold windowReported
  exact (SameRegs.foldl takeReport_regs r.frames _).trans
    (.foldl (f := fun s q => s.modPlot q fun p => { p with held := none }) (fun _ _ => .modPlot rfl) allPlots _)

/-- Until the bundle is looked at the configuration block stays. -/
theorem windowSnapped_cfg (s : State) (r : WindowReport) : (windowSnapped s r).cfg = s.cfg := by
  have reports : Keeps 137315896 (fun _ => true) (windowOpened s r) (windowSnapped s r) := by
    unfold windowSnapped windowReported
    refine .eachPlot (.eachPlot (.foldl (Keeps.refl _) fun t x h => ?_) fun t q h => ?_) fun t q h => ?_
    · exact takeReport_keeps x h (Covers.of (Covers.refl _) (by decide)) (fun _ => rfl)
    · exact State.modPlot_keeps q _ h (hP := rfl)
    · exact step1Plot_keeps q h (Covers.of (Covers.refl _) (by decide)) rfl
  exact reports.cfg_eq (by decide)

/-- What a plot has in the window before any plot commits: its snapshot is its shadows, and a job that runs is late. -/
theorem windowSnapped_plots (s : State) (r : WindowReport) (q : PlotId) : SameFrame (windowOpened s r) (windowSnapped s r) ∧
    RunnersLate ((windowSnapped s r).plot q) ∧ ((windowSnapped s r).plot q).regs =
      ((s.plot q).rws, (s.plot q).shadow, (s.plot q).shadow, (s.plot q).cfg.prefuse) := by
  have reports := windowReported_regs s r
  obtain ⟨frame, late, regs⟩ := step1_plots (windowReported s r) q
  obtain ⟨rws, shadow, -, prefuse⟩ := Plot.regs_eq (reports.plots q)
  refine ⟨reports.frame.trans frame, late, regs.trans ?_⟩
  rw [rws, shadow, prefuse]
  rfl

theorem latchDevice_work (s : State) (links : List (Nat × Nat × Nat × Nat)) : SameWork s (latchDevice s links) := .of_eq rfl rfl rfl rfl

theorem normaliseBanks_work (s : State) : SameWork s (normaliseBanks s) := .of_eq rfl rfl rfl rfl

/-- Steps 2 and 5 leave the registers, and stop every frame program of a plot whose running jobs are late. -/
theorem deadlinePassed_work (s : State) (j : Option (Bundle × Option Nat)) (r : WindowReport) : SameWork s (deadlinePassed s j r) ∧
    ∀ q, RunnersLate (s.plot q) → Stopped (deadlinePassed s j r) q := by
  unfold deadlinePassed
  extract_lets joined abandoned logged
  have joins : SameWork s joined := (State.modCfg_rings rfl).toSameWork
  have abandons : SameWork joined abandoned := .foldl abandonLate_work allPlots joined
  have logs : SameWork abandoned logged := .foldl overrunLine_work allPlots abandoned
  have latches : SameWork logged (latchDevice (logged.eachPlot allPlots latchPlot) r.links) :=
    (latchDevice_work ..).after (.foldl latchPlot_work allPlots logged)
  refine ⟨joins.trans (abandons.trans (logs.trans latches)), fun q late => (logs.trans latches).stopped (deadline_stops ?_)⟩
  exact late

theorem SameJobs.stopped {s t : State} {q : PlotId} (h : SameJobs s t) (stopped : Stopped s q) : Stopped t q := by
  intro k mem live
  obtain ⟨j, found, follows⟩ := h.jobs q k mem
  rcases follows.phase with same | gone | done
  · rw [same]
    exact stopped j found (follows.live live)
  · rw [gone]
    decide
  · rw [done]
    decide

/-- Up to step 4: the window stands as it was opened, and no frame program runs. -/
theorem windowCommitted_window (s : State) (r : WindowReport) : SameWindow (windowOpened s r) (windowCommitted s r) ∧
    ∀ q, Stopped (windowCommitted s r) q := by
  unfold windowCommitted
  extract_lets b
  have rings : SameRings (windowSnapped s r) b.1 := bundleStep1_rings _
  obtain ⟨deadline, stops⟩ := deadlinePassed_work b.1 b.2 r
  have commits : SameJobs (deadlinePassed b.1 b.2 r) (normaliseBanks (steps34 (deadlinePassed b.1 b.2 r) b.2)) :=
    (steps34_jobs ..).trans (normaliseBanks_work _).onlyJobs
  refine ⟨?_, fun q => commits.stopped (stops q ?_)⟩
  · exact (windowSnapped_plots s r 0).1.toSameWindow.trans
      (rings.toSameWindow.trans (deadline.toSameWindow.trans commits.toSameWindow))
  · unfold RunnersLate
    rw [rings.plt q]
    exact (windowSnapped_plots s r q).2.1

/-- Step 6 and step 8: what is left of the jobs waits for its next frame, its abandonment or the record tape. -/
theorem windowClosed_plots {s : State} {q : PlotId} (stopped : Stopped s q) :
    ∀ j ∈ (((step6 s).eachPlot allPlots step8Plot).plot q).plt.jobs, j.phase ≠ .over ∧
      (j.live = true → j.phase = .waiting ∨ j.phase = .between ∨ j.phase = .abandoning ∨
        (j.phase = .finished ∧ j.passed = true ∧ (((step6 s).eachPlot allPlots step8Plot).plot q).an.job = j.idx)) := by
  obtain ⟨fabric, done⟩ := step8_plots (step6 s) q
  have released : Released ((step6 s).plot q) := by
    rw [step6_eq, plot_of_plots_eq (State.modFrm_plots ..)]
    exact admitted_released stopped
  exact fun j mem => ⟨done j mem, fabric.released released j mem⟩

theorem SameWindow.opened {s t : State} (h : SameWindow s t) : t.frm.opened = s.frm.opened := congrArg (·.2.2.1) h.clock

theorem SameWindow.commitEnd {s t : State} (h : SameWindow s t) : t.frm.commitEnd = s.frm.commitEnd := congrArg (·.2.2.2.1) h.clock

theorem SameWindow.rotation {s t : State} (h : SameWindow s t) : t.frm.rotation = s.frm.rotation := congrArg (·.2.2.2.2.1) h.clock

theorem SameRegs.rws {s t : State} (h : SameRegs s t) : t.frm.rws = s.frm.rws := congrArg (·.1) h.dev

theorem SameFrame.rws {s t : State} (h : SameFrame s t) : t.frm.rws = s.frm.rws := congrArg (·.1) h.dev

theorem SameFrame.snap {s t : State} (h : SameFrame s t) : t.frm.snap = s.frm.snap := congrArg (·.2.2) h.dev

/-- Steps 6 and 8 leave the frame and the registers but for the rotation, which moves on. -/
theorem windowClosed_frame (s : State) :
    let t := (step6 s).eachPlot allPlots step8Plot
    (t.boot.tclk = s.boot.tclk ∧ t.frm.opened = s.frm.opened ∧ t.frm.commitEnd = s.frm.commitEnd ∧ t.frm.count = s.frm.count ∧
      t.frm.rotation = s.frm.rotation % 64 + 1) ∧
    t.cfg.content = s.cfg.content ∧ t.frm.rws = s.frm.rws ∧ ∀ q, (t.plot q).regs = (s.plot q).regs := by
  rw [step6_eq]
  have admits := admitted_regs s
  generalize admitted s = u at admits
  intro t
  have records : SameRegs (u.modFrm fun f => { f with rotation := f.rotation % 64 + 1 }) t := (step8_plots _ 0).1.toSameRegs
  have rotation : t.frm.rotation = u.frm.rotation % 64 + 1 := records.rotation
  rw [admits.rotation] at rotation
  exact ⟨⟨records.tclk.trans admits.tclk, records.opened.trans admits.opened, records.commitEnd.trans admits.commitEnd,
    records.count.trans admits.count, rotation⟩, records.content.trans admits.content, records.rws.trans admits.rws,
    fun q => (records.plots q).trans (admits.plots q)⟩

/-- Where no bundle is armed, of every plot the snapshot is committed or its refusal counted. -/
theorem windowCommitted_regs (s : State) (r : WindowReport) (idle : s.cfg.bundle = none ∨ s.cfg.arm = false) :
    let t := windowCommitted s r
    t.cfg.content = s.cfg.content ∧
    (t.frm.rws = s.frm.shadow ∧ (t.plot 0).cfg.prefuse = (s.plot 0).cfg.prefuse ∨
      t.frm.rws = s.frm.rws ∧ (t.plot 0).cfg.prefuse = satInc (s.plot 0).cfg.prefuse) ∧
    ∀ q : PlotId, q ≠ 0 → (t.plot q).shadow = (s.plot q).shadow ∧
      ((t.plot q).rws = (s.plot q).shadow ∧ (t.plot q).cfg.prefuse = (s.plot q).cfg.prefuse ∨
        (t.plot q).rws = (s.plot q).rws ∧ (t.plot q).cfg.prefuse = satInc (s.plot q).cfg.prefuse) := by
  intro t
  have alone : (bundleStep1 (windowSnapped s r)).2 = none := bundleStep1_none (by rw [windowSnapped_cfg]; exact idle)
  obtain ⟨d, passed⟩ : ∃ d, d = deadlinePassed (bundleStep1 (windowSnapped s r)).1 none r := ⟨_, rfl⟩
  have eq : t = normaliseBanks (steps34 d none) := by
    dsimp only [t]
    unfold windowCommitted
    extract_lets b
    rw [show b.2 = none from alone, passed]
  have stands : SameRegs (windowSnapped s r) d := by
    rw [passed]
    exact (bundleStep1_rings _).toSameRegs.trans (deadlinePassed_work ..).1.toSameRegs
  have plots (q : PlotId) : (d.plot q).regs = ((s.plot q).rws, (s.plot q).shadow, (s.plot q).shadow, (s.plot q).cfg.prefuse) :=
    (stands.plots q).trans (windowSnapped_plots s r q).2.2
  have frame := (windowSnapped_plots s r 0).1.trans stands.frame
  have snap : d.frm.snap = s.frm.shadow := frame.snap
  have rws : d.frm.rws = s.frm.rws := frame.rws
  obtain ⟨content, dev, tenants⟩ := steps34_commits d
  generalize steps34 d none = c at eq content dev tenants
  have plot (q : PlotId) : t.plot q = c.plot q := by
    rw [eq]
    rfl
  have frm : t.frm = c.frm := by
    rw [eq]
    rfl
  refine ⟨?_, ?_, fun q tenant => ?_⟩
  · rw [eq]
    exact content.trans frame.content
  · obtain ⟨-, -, -, refused⟩ := Plot.regs_eq_of (plots 0)
    rw [snap, rws, refused] at dev
    rw [plot, frm]
    exact dev
  · obtain ⟨committed, shadow, shot, refused⟩ := Plot.regs_eq_of (plots q)
    have own := tenants q tenant
    rw [shadow, shot, committed, refused] at own
    rw [plot]
    exact own

/-- Settles O35: the steps of the sequence one after another. Steps 1 to 5 leave the window as it was opened; step 1 marks every job that
runs, step 2 abandons the marked ones, and no later step starts one; step 6 completes the finished jobs, step 8 records the completed
ones; and without a bundle every plot has a verdict of its own in step 3. -/
theorem commitsAreWhole : Obligations.CommitsAreWhole := by
  refine fun s r => ⟨fun ready shut => ⟨_, rfl, ?_⟩, fun held => ⟨_, rfl, if_pos ?_⟩⟩
  · obtain ⟨w, committed⟩ : ∃ w, w = windowCommitted s r := ⟨_, rfl⟩
    have eq : commitWindow s r = (step6 w).eachPlot allPlots step8Plot := by
      rw [committed]
      exact commitWindow_eq r ready shut
    obtain ⟨window, stopped⟩ := windowCommitted_window s r
    have regs := windowCommitted_regs s r
    rw [← committed] at window stopped regs
    obtain ⟨⟨tclk, opened, commitEnd, count, rotation⟩, content, rws, plots⟩ := windowClosed_frame w
    rw [← eq] at tclk opened commitEnd count rotation content rws plots
    have atOpen : w.boot.tclk = max s.boot.tclk (s.frm.tickAt + 94 * s.frm.framePeriod) := window.tclk
    refine ⟨opened.trans window.opened, tclk.trans atOpen, ?_, ?_, count.trans window.count, fun q => ?_, fun idle => ?_⟩
    · rw [commitEnd, tclk, atOpen]
      exact window.commitEnd
    · rw [rotation, window.rotation]
      rfl
    · rw [eq]
      exact windowClosed_plots (stopped q)
    · obtain ⟨image, dev, tenants⟩ := regs idle
      refine ⟨content.trans image, ?_, fun q tenant => ?_⟩
      · obtain ⟨-, -, -, refused⟩ := Plot.regs_eq (plots 0)
        rw [rws, refused]
        exact dev
      · obtain ⟨committed, shadow, -, refused⟩ := Plot.regs_eq (plots q)
        rw [committed, shadow, refused]
        exact tenants q tenant
  · rcases held with early | opened
    · rw [early]
      rfl
    · rw [opened]
      exact Bool.or_true _

end Sys2Proof.Machine

end
